-- ==== Sys2Proof/Word.lean ====
section
/-! DEFINITION. The word types of the DH8: what the manual adds, shifts or masks (00 R4, 01 R14). -/

namespace Sys2Proof

/-- A 64-bit scalar register or address (01 R14, 06 R169). -/
abbrev Word := BitVec 64
/-- A 32-bit lane element or instruction word (01 R14, 02 R37). -/
abbrev W32 := BitVec 32
/-- One byte of memory (00 R5). -/
abbrev Byte := BitVec 8
/-- A set of lanes: bit l for lane l (01 R19, R22). -/
abbrev Mask := BitVec 64
/-- An offset, bits [41:0] of an address; a control PC (00 R9, 02 R37). -/
abbrev Off := BitVec 42
/-- A scalar register number (02 R40). -/
abbrev Reg := BitVec 6
/-- A 9-bit lane operand selector (02 R48). -/
abbrev Sel := BitVec 9

end Sys2Proof
end

