-- ==== Sys2Proof/Machine/Bits.lean ====
section
/-! DEFINITION. Bit counts, integer readings and masks that several chapters use. -/

namespace Sys2Proof.Machine

/-- Bits [hi:lo] of a number (00 R4). -/
def bitsN (x hi lo : Nat) : Nat := (x >>> lo) % 2 ^ (hi + 1 - lo)

/-- How many bits of x are 1 (04 R95, 05 R137). -/
def popCount {w : Nat} (x : BitVec w) : Nat := (List.range w).foldl (fun n i => if x.getLsbD i then n + 1 else n) 0

/-- The lowest i below n from k on with p i, else n. -/
def firstFrom (p : Nat → Bool) : Nat → Nat → Nat
  | 0, k => k
  | fuel + 1, k => if p k then k else firstFrom p fuel (k + 1)

/-- The lowest i < n with p i, else n. -/
def firstIdx (n : Nat) (p : Nat → Bool) : Nat := firstFrom p n 0

/-- The number of trailing zero bits, w for 0 (04 R95). -/
def ctzOf {w : Nat} (x : BitVec w) : Nat := firstIdx w (fun i => x.getLsbD i)

/-- The number of leading zero bits, w for 0 (04 R95, 05 R137). -/
def clzOf {w : Nat} (x : BitVec w) : Nat := firstIdx w (fun i => x.getLsbD (w - 1 - i))

/-- A mask of the lanes below n that meet p. -/
def maskOf (n : Nat) (p : Nat → Bool) : Mask :=
  (List.range n).foldl (fun m i => if p i then m ||| (1#64 <<< i) else m) 0

/-- All lanes below n. -/
def fullMask (n : Nat) : Mask := BitVec.ofNat 64 (2 ^ n - 1)

/-- The lanes of a mask in ascending order. -/
def lanesOf (m : Mask) : List Nat := (List.range 64).filter (fun i => m.getLsbD i)

/-- One lane. -/
def oneLane (l : Nat) : Mask := 1#64 <<< l

/-- An integer clamped (00 R9). -/
def clampI (x lo hi : Int) : Int := if x < lo then lo else if hi < x then hi else x

/-- SExt(x, n) of 00 R9. -/
def sext64 {w : Nat} (x : BitVec w) : Word := x.signExtend 64

/-- ZExt(x, n) of 00 R9. -/
def zext64 {w : Nat} (x : BitVec w) : Word := x.setWidth 64

/-- Byte i of a number, the least significant first (00 R5). -/
def byteOf (x i : Nat) : Byte := BitVec.ofNat 8 (x >>> (8 * i))

/-- The number of a list of bytes, the least significant first (00 R5). -/
def leNat : List Byte → Nat
  | [] => 0
  | b :: t => b.toNat + 256 * leNat t

/-- The n bytes of a number, the least significant first (00 R5). -/
def leBytes (n x : Nat) : List Byte := (List.range n).map (byteOf x)

/-- ⌈a / b⌉. -/
def ceilDiv (a b : Nat) : Nat := (a + b - 1) / b

end Sys2Proof.Machine
end

