-- ==== Sys2Proof/Machine/Crypto.lean ====
section
/-! DEFINITION. SHA-512 and Ed25519, which 14 R384 and R385 name. PRESUMED: the manual takes both from their standards, FIPS 180-4 and RFC
8032, and so does this file (log 18). -/

namespace Sys2Proof.Machine

/-! ## SHA-512 -/

/-- The round constants: the first 64 bits of the fractional parts of the cube roots of the first 80 primes. -/
def shaK : List Word :=
  [0x428A2F98D728AE22, 0x7137449123EF65CD, 0xB5C0FBCFEC4D3B2F, 0xE9B5DBA58189DBBC, 0x3956C25BF348B538, 0x59F111F1B605D019, 0x923F82A4AF194F9B, 0xAB1C5ED5DA6D8118] ++
  [0xD807AA98A3030242, 0x12835B0145706FBE, 0x243185BE4EE4B28C, 0x550C7DC3D5FFB4E2, 0x72BE5D74F27B896F, 0x80DEB1FE3B1696B1, 0x9BDC06A725C71235, 0xC19BF174CF692694] ++
  [0xE49B69C19EF14AD2, 0xEFBE4786384F25E3, 0x0FC19DC68B8CD5B5, 0x240CA1CC77AC9C65, 0x2DE92C6F592B0275, 0x4A7484AA6EA6E483, 0x5CB0A9DCBD41FBD4, 0x76F988DA831153B5] ++
  [0x983E5152EE66DFAB, 0xA831C66D2DB43210, 0xB00327C898FB213F, 0xBF597FC7BEEF0EE4, 0xC6E00BF33DA88FC2, 0xD5A79147930AA725, 0x06CA6351E003826F, 0x142929670A0E6E70] ++
  [0x27B70A8546D22FFC, 0x2E1B21385C26C926, 0x4D2C6DFC5AC42AED, 0x53380D139D95B3DF, 0x650A73548BAF63DE, 0x766A0ABB3C77B2A8, 0x81C2C92E47EDAEE6, 0x92722C851482353B] ++
  [0xA2BFE8A14CF10364, 0xA81A664BBC423001, 0xC24B8B70D0F89791, 0xC76C51A30654BE30, 0xD192E819D6EF5218, 0xD69906245565A910, 0xF40E35855771202A, 0x106AA07032BBD1B8] ++
  [0x19A4C116B8D2D0C8, 0x1E376C085141AB53, 0x2748774CDF8EEB99, 0x34B0BCB5E19B48A8, 0x391C0CB3C5C95A63, 0x4ED8AA4AE3418ACB, 0x5B9CCA4F7763E373, 0x682E6FF3D6B2B8A3] ++
  [0x748F82EE5DEFB2FC, 0x78A5636F43172F60, 0x84C87814A1F0AB72, 0x8CC702081A6439EC, 0x90BEFFFA23631E28, 0xA4506CEBDE82BDE9, 0xBEF9A3F7B2C67915, 0xC67178F2E372532B] ++
  [0xCA273ECEEA26619C, 0xD186B8C721C0C207, 0xEADA7DD6CDE0EB1E, 0xF57D4F7FEE6ED178, 0x06F067AA72176FBA, 0x0A637DC5A2C898A6, 0x113F9804BEF90DAE, 0x1B710B35131C471B] ++
  [0x28DB77F523047D84, 0x32CAAB7B40C72493, 0x3C9EBE0A15C9BEBC, 0x431D67C49C100D4C, 0x4CC5D4BECB3E42B6, 0x597F299CFC657E2A, 0x5FCB6FAB3AD6FAEC, 0x6C44198C4A475817]
/-- The initial hash value: the same of the square roots of the first 8. -/
def shaInit : List Word :=
  [0x6A09E667F3BCC908, 0xBB67AE8584CAA73B, 0x3C6EF372FE94F82B, 0xA54FF53A5F1D36F1, 0x510E527FADE682D1, 0x9B05688C2B3E6C1F, 0x1F83D9ABFB41BD6B, 0x5BE0CD19137E2179]

/-- Bytes as a big-endian number, and a number as n big-endian bytes. -/
def beNat (l : List Byte) : Nat := l.foldl (fun n b => n * 256 + b.toNat) 0
def beBytes (n x : Nat) : List Byte := (leBytes n x).reverse

/-- The message with its padding and length. -/
def shaPad (l : List Byte) : List Byte :=
  l ++ [0x80] ++ List.replicate ((239 - l.length % 128) % 128) 0 ++ beBytes 16 (8 * l.length)

/-- The functions of the schedule and of a round. -/
def shaRotr (x : Word) (n : Nat) : Word := x.rotateRight n
def shaS0 (x : Word) : Word := shaRotr x 1 ^^^ shaRotr x 8 ^^^ x >>> 7
def shaS1 (x : Word) : Word := shaRotr x 19 ^^^ shaRotr x 61 ^^^ x >>> 6
def shaB0 (x : Word) : Word := shaRotr x 28 ^^^ shaRotr x 34 ^^^ shaRotr x 39
def shaB1 (x : Word) : Word := shaRotr x 14 ^^^ shaRotr x 18 ^^^ shaRotr x 41

/-- One round on the eight working variables. -/
def shaStep (k w : Word) (v : List Word) : List Word :=
  match v with
  | [a, b, c, d, e, f, g, h] =>
    let t := h + shaB1 e + ((e &&& f) ^^^ (~~~e &&& g)) + k + w
    [t + shaB0 a + ((a &&& b) ^^^ (a &&& c) ^^^ (b &&& c)), a, b, c, d + t, e, f, g]
  | _ => v

/-- The rounds over the constants left; the schedule's next 16 words slide. -/
def shaRounds : List Word → List Word → List Word → List Word
  | [], _, v => v
  | k :: ks, w, v =>
    let x (i : Nat) : Word := w[i]?.getD 0
    shaRounds ks (w.drop 1 ++ [shaS1 (x 14) + x 9 + shaS0 (x 1) + x 0]) (shaStep k (x 0) v)

/-- The i-th block of a padded message is taken in. -/
def shaBlock (m : List Byte) (h : List Word) (i : Nat) : List Word :=
  let w := (List.range 16).map fun j => BitVec.ofNat 64 (beNat ((m.drop (128 * i + 8 * j)).take 8))
  h.zipWith (· + ·) (shaRounds shaK w h)

/-- The SHA-512 digest of a message, 64 bytes. -/
def sha512 (l : List Byte) : List Byte :=
  let m := shaPad l
  ((List.range (m.length / 128)).foldl (shaBlock m) shaInit).flatMap fun w => beBytes 8 w.toNat

/-! ## Ed25519 -/

/-- The prime of the field, the order of the base point, and the curve's constant. -/
def edP : Nat := 2 ^ 255 - 19
def edL : Nat := 2 ^ 252 + 27742317777372353535851937790883648493
def edD : Nat := 37095705934669439343138083508754565189542113879843219016388785533085940283555

/-- b to the power e modulo edP, over the e's low n bits. -/
def edPow : Nat → Nat → Nat → Nat
  | 0, _, _ => 1
  | n + 1, b, e => (if e % 2 = 1 then b else 1) * edPow n (b * b % edP) (e / 2) % edP

/-- A point in extended coordinates. -/
structure EdPoint where
  x : Nat
  y : Nat
  z : Nat
  t : Nat
  deriving DecidableEq, Repr

/-- The neutral point, and the base point. -/
def edZero : EdPoint := { x := 0, y := 1, z := 1, t := 0 }
def edBase : EdPoint :=
  let x := 15112221349535400772501151409588531511454012693041857206046113283949847762202
  let y := 46316835694926478169428394003475163141307993866256225615783033603165251855960
  { x := x, y := y, z := 1, t := x * y % edP }

/-- The sum of two points. -/
def edAdd (p q : EdPoint) : EdPoint :=
  let a := (p.y + edP - p.x) * (q.y + edP - q.x) % edP
  let b := (p.y + p.x) * (q.y + q.x) % edP
  let c := p.t * 2 % edP * edD % edP * q.t % edP
  let d := p.z * 2 % edP * q.z % edP
  let e := b + edP - a
  let f := d + edP - c
  let g := d + c
  let h := b + a
  { x := e * f % edP, y := g * h % edP, z := f * g % edP, t := e * h % edP }

/-- The multiple of a point by the low n bits of k. -/
def edMul : Nat → Nat → EdPoint → EdPoint
  | 0, _, _ => edZero
  | n + 1, k, p =>
    let r := edMul n (k / 2) (edAdd p p)
    if k % 2 = 1 then edAdd p r else r

/-- Two points are the same. -/
def edSame (p q : EdPoint) : Bool := p.x * q.z % edP == q.x * p.z % edP && p.y * q.z % edP == q.y * p.z % edP

/-- A point as 32 bytes: y, and the low bit of x in the highest bit. -/
def edEncode (p : EdPoint) : List Byte :=
  let i := edPow 255 p.z (edP - 2)
  leBytes 32 (p.y * i % edP + (p.x * i % edP) % 2 * 2 ^ 255)

/-- The point of 32 bytes, if there is one. -/
def edDecode (l : List Byte) : Option EdPoint :=
  let n := leNat l
  let y := n % 2 ^ 255
  let odd := n / 2 ^ 255 % 2
  let u := (y * y + edP - 1) % edP
  let v := (edD * (y * y % edP) + 1) % edP
  let w := u * edPow 255 v (edP - 2) % edP
  let r := edPow 255 w ((edP + 3) / 8)
  let x := if r * r % edP = w then r else r * edPow 255 2 ((edP - 1) / 4) % edP
  if edP ≤ y ∨ x * x % edP ≠ w ∨ (x = 0 ∧ odd = 1) then none
  else
    let x := if x % 2 = odd then x else edP - x
    some { x := x, y := y, z := 1, t := x * y % edP }

/-- A digest as a scalar. -/
def edScalar (l : List Byte) : Nat := leNat (sha512 l) % edL

/-- A signature of a message verifies under a public key. -/
def edVerify (key msg sig : List Byte) : Bool :=
  let r := sig.take 32
  let n := leNat (sig.drop 32)
  match edDecode key, edDecode r with
  | some a, some q =>
    let k := edScalar (r ++ key ++ msg)
    sig.length == 64 && decide (n < edL) && edSame (edMul 256 (8 * n) edBase) (edAdd (edMul 4 8 q) (edMul 256 (8 * k) a))
  | _, _ => false

/-- The secret scalar of a private key, and the public key. -/
def edSecret (seed : List Byte) : Nat := leNat ((sha512 seed).take 32) % 2 ^ 254 / 8 * 8 + 2 ^ 254
def edPublic (seed : List Byte) : List Byte := edEncode (edMul 256 (edSecret seed) edBase)

/-- The signature of a message by a private key. -/
def edSign (seed msg : List Byte) : List Byte :=
  let key := edPublic seed
  let n := edScalar ((sha512 seed).drop 32 ++ msg)
  let r := edEncode (edMul 256 n edBase)
  r ++ leBytes 32 ((n + edScalar (r ++ key ++ msg) * edSecret seed) % edL)

end Sys2Proof.Machine
end

