-- ==== Sys2Proof/Syntax.lean ====
section
/-! DEFINITION. The syntax of Omfen: one constructor for every row of spec/opcode_table.json, which lists the instructions of
both streams, the chunk words of the Tenders, and the steps of every other agent of the device (95). The fields of an
instruction are those of 02 R40 to R54. A step's arguments say which agent it is the step of. -/

namespace Sys2Proof

abbrev I12 := BitVec 12
abbrev B2 := BitVec 2
abbrev B3 := BitVec 3
abbrev B4 := BitVec 4
abbrev B16 := BitVec 16
abbrev B25 := BitVec 25

/-- The conditions of BR (02 R45). -/
inductive BrCond where
  | eq | ne | lt | ge | ltu | geu
  deriving DecidableEq, Repr

/-- The order field ORD of XC (02 R42). -/
inductive Ord where
  | rlx | acq | rel | ar
  deriving DecidableEq, Repr

/-- The scopes (02 R43). -/
inductive Scope where
  | wch | crew | col | core | clu | die | dev | sys
  deriving DecidableEq, Repr

/-- The operations of SATOM and XATOM (06 R193), of which ATOM has the first ten (06 R185). -/
inductive AtomOp where
  | add | min | max | minu | maxu | and | or | xor | swap | cas | load | store
  deriving DecidableEq, Repr

/-- The fields of an XS word (02 R42, 04 R118). -/
structure ShapeReq where
  n : BitVec 2
  k : BitVec 2
  fa : BitVec 4
  fb : BitVec 4
  ga : BitVec 2
  gb : BitVec 2
  deriving DecidableEq, Repr

/-- The fields of a lane instruction but its opcode (02 R47). -/
structure LaneOps where
  d : Sel
  nw : Bool
  a : Sel
  chain : Bool
  b : Sel
  c : Sel
  p : BitVec 4
  pneg : Bool
  ty : BitVec 4
  md : BitVec 5
  lit : W32
  deriving DecidableEq, Repr

/-- A controller on the memory paths (14 R374): the bank port, the L2 slice and the scratchpad of a column, the weight buffers and the tiles
of a core, the scheduler memory of a die. -/
inductive Ctl where
  | bank (pcn : Nat) | l2 (pcn : Nat) | scratch (pcn : Nat) | wbuf (core : Nat) | tiles (core : Nat) | sched (die : Nat)
  deriving DecidableEq, Repr
/-- The number of a controller. -/
def Ctl.code : Ctl → Nat
  | .bank n => 8 * n | .l2 n => 8 * n + 1 | .scratch n => 8 * n + 2 | .wbuf n => 8 * n + 3 | .tiles n => 8 * n + 4 | .sched n => 8 * n + 5

/-- A sensor of Enmon (14 R383): the temperature of a cluster or of a stack, the voltage and the current of a rail, the coolant's inlet
temperature. -/
inductive Sensor where
  | cluster (n : Nat) | stack (n : Nat) | volt (n : Nat) | amp (n : Nat) | coolant
  deriving DecidableEq, Repr
/-- The number of a sensor. -/
def Sensor.code : Sensor → Nat
  | .cluster n => 8 * n | .stack n => 8 * n + 1 | .volt n => 8 * n + 2 | .amp n => 8 * n + 3 | .coolant => 4

/-- An HRANGE entry and who writes it: the host, or firmware (14 R386). -/
structure RangeEntry where
  entry : Nat
  firmware : Bool := false
  deriving DecidableEq, Repr

/-- A column of a context, as whose pages the MMP names one (12 R345). -/
structure CtxCol where
  cx : Nat
  pcn : Nat
  deriving DecidableEq, Repr

/-- The expiry of a context's watchdog (12 R355), and the contexts that the firmware destroys where it leads to the partition rung (R418). -/
structure Expiry where
  cx : Nat
  kill : List Nat
  deriving DecidableEq, Repr

/-- What Enmon does with its sensors and its log (14 R383). -/
inductive EnmonStep where
  | read (k : Nat)
  | measure (x : Sensor) (v : Nat)
  deriving DecidableEq, Repr

/-- What bears on power (14 R386): firmware sets the sustained target in watts; the current limiter lowers the core clocks. -/
inductive PowerStep where
  | target (w : Nat)
  | limit (mhz : Nat)
  deriving DecidableEq, Repr

/-- Where an uncorrectable error is met: the consumers of 09 R268, a tile or weight buffer (07 R218), or no consumer at all. -/
inductive UncorAt where
  /-- an operation in flight of a watch (a load, an atomic, a store into a partly written sector) -/
  | op (w id : Nat)
  /-- the control instruction at which a fragment stands, as it is fetched or reads at address `a`: its own words, the lane code of its
  LX, or what it names in memory as a descriptor -/
  | fetch (w e : Nat) (a : Word)
  /-- the oldest element of a stream queue not yet popped in a lane -/
  | elem (w q l : Nat)
  /-- the accepted matrix instruction of a watch, from a tile or its row state, or (`wb`) from a weight buffer -/
  | matrix (w : Nat) (wb : Bool)
  /-- an engine command: 0 TCOPY, 1 WLOAD, 2 AUCT of core or cluster `at_`, command `id`; 3 a collective run; 4 the offset vector of
  launch `id` (11 R331): with the column and the address that it reads -/
  | engine (kind at_ id pcn : Nat) (a : Word)
  /-- scheduler memory of a die at an offset (14 R379) -/
  | sched (die : Nat) (a : Word)
  /-- no data is withheld: a controller has corrected a soft error (14 R374) -/
  | corrected (c : Ctl)
  deriving DecidableEq, Repr

/-- A Beam flit: its header and payload, and the trailer of its frame: the link sequence number, the highest one received in order, and the
CRC (15 R391). -/
structure Flit where
  dst : BitVec 16
  src : BitVec 16
  hops : BitVec 32
  hidx : BitVec 3
  nhm1 : BitVec 3
  kind : BitVec 4
  group : BitVec 8
  use : BitVec 8
  run : BitVec 8
  strand : BitVec 10
  seq : BitVec 16
  flit : BitVec 3
  rsv : Bool
  pay : BitVec 2048
  lseq : BitVec 16 := 0
  lack : BitVec 16 := 0
  crc : BitVec 32 := 0
  deriving DecidableEq, Repr

/-- A write of the fabric configuration through Enmon's sideband (15 R393). -/
inductive RouteWrite where
  | address (a : BitVec 16)
  | route (entry i : Nat) (v : Word)
  | port (p : Nat) (cap : Nat)
  deriving DecidableEq, Repr

/-- A signed firmware image offered to Enmon (14 R384). -/
structure Image where
  which : Nat
  contents : Nat
  size : Nat
  version : Nat
  key : Nat
  signature : Nat
  deriving DecidableEq, Repr

/-- Every instruction and every step of the device (spec/opcode_table.json). -/
inductive Instr where
  /-- ADD (R95). -/
  | add (d : Reg) (a : Reg) (b : Reg)
  /-- SUB (R95). -/
  | sub (d : Reg) (a : Reg) (b : Reg)
  /-- MUL (R95). -/
  | mul (d : Reg) (a : Reg) (b : Reg)
  /-- MULH (R95). -/
  | mulh (d : Reg) (a : Reg) (b : Reg)
  /-- MULHU (R95). -/
  | mulhu (d : Reg) (a : Reg) (b : Reg)
  /-- DIV (R96). -/
  | div (d : Reg) (a : Reg) (b : Reg)
  /-- DIVU (R96). -/
  | divu (d : Reg) (a : Reg) (b : Reg)
  /-- REM (R96). -/
  | rem (d : Reg) (a : Reg) (b : Reg)
  /-- REMU (R96). -/
  | remu (d : Reg) (a : Reg) (b : Reg)
  /-- AND (R95). -/
  | and (d : Reg) (a : Reg) (b : Reg)
  /-- OR (R95). -/
  | or (d : Reg) (a : Reg) (b : Reg)
  /-- XOR (R95). -/
  | xor (d : Reg) (a : Reg) (b : Reg)
  /-- ANDN (R95). -/
  | andn (d : Reg) (a : Reg) (b : Reg)
  /-- SHL (R95). -/
  | shl (d : Reg) (a : Reg) (b : Reg)
  /-- SHR (R95). -/
  | shr (d : Reg) (a : Reg) (b : Reg)
  /-- SAR (R95). -/
  | sar (d : Reg) (a : Reg) (b : Reg)
  /-- ROL (R95). -/
  | rol (d : Reg) (a : Reg) (b : Reg)
  /-- MIN (R95). -/
  | min (d : Reg) (a : Reg) (b : Reg)
  /-- MAX (R95). -/
  | max (d : Reg) (a : Reg) (b : Reg)
  /-- MINU (R95). -/
  | minu (d : Reg) (a : Reg) (b : Reg)
  /-- MAXU (R95). -/
  | maxu (d : Reg) (a : Reg) (b : Reg)
  /-- POPC (R95). -/
  | popc (d : Reg) (a : Reg)
  /-- CLZ (R95). -/
  | clz (d : Reg) (a : Reg)
  /-- CTZ (R95). -/
  | ctz (d : Reg) (a : Reg)
  /-- SEQ (R95). -/
  | seq (d : Reg) (a : Reg) (b : Reg)
  /-- SNE (R95). -/
  | sne (d : Reg) (a : Reg) (b : Reg)
  /-- SLT (R95). -/
  | slt (d : Reg) (a : Reg) (b : Reg)
  /-- SLTU (R95). -/
  | sltu (d : Reg) (a : Reg) (b : Reg)
  /-- BREV (R95). -/
  | brev (d : Reg) (a : Reg)
  /-- MOV (R95). -/
  | mov (d : Reg) (a : Reg)
  /-- ADDI (R97). -/
  | addi (d : Reg) (a : Reg) (i : I12)
  /-- ADDI_64 (R97). -/
  | addi64 (d : Reg) (a : Reg) (i : W32)
  /-- ANDI (R97). -/
  | andi (d : Reg) (a : Reg) (i : I12)
  /-- ANDI_64 (R97). -/
  | andi64 (d : Reg) (a : Reg) (i : W32)
  /-- ORI (R97). -/
  | ori (d : Reg) (a : Reg) (i : I12)
  /-- ORI_64 (R97). -/
  | ori64 (d : Reg) (a : Reg) (i : W32)
  /-- XORI (R97). -/
  | xori (d : Reg) (a : Reg) (i : I12)
  /-- XORI_64 (R97). -/
  | xori64 (d : Reg) (a : Reg) (i : W32)
  /-- SLTI (R97). -/
  | slti (d : Reg) (a : Reg) (i : I12)
  /-- SLTI_64 (R97). -/
  | slti64 (d : Reg) (a : Reg) (i : W32)
  /-- SHLI (R97). -/
  | shli (d : Reg) (a : Reg) (n : Reg)
  /-- SHRI (R97). -/
  | shri (d : Reg) (a : Reg) (n : Reg)
  /-- SARI (R97). -/
  | sari (d : Reg) (a : Reg) (n : Reg)
  /-- LI (R98). -/
  | li (d : Reg) (i : I12)
  /-- LI_64 (R98). -/
  | li64 (d : Reg) (i : W32)
  /-- LIH (R98). -/
  | lih (d : Reg) (a : Reg) (i : W32)
  /-- ADDR (R99). -/
  | addr (d : Reg) (a : Reg) (b : Reg) (t : B4)
  /-- COLX_COL (R100). -/
  | colxCol (d : Reg) (a : Reg)
  /-- COLX_OFF (R100). -/
  | colxOff (d : Reg) (a : Reg)
  /-- COLX_TAG (R100). -/
  | colxTag (d : Reg) (a : Reg)
  /-- MAD (R101). -/
  | mad (d : Reg) (a : Reg) (b : Reg) (c : Reg)
  /-- BR (R102). -/
  | br (c : BrCond) (a : Reg) (b : Reg) (o : W32)
  /-- JMP (R104). -/
  | jmp (o : W32)
  /-- CALL (R104). -/
  | call (o : W32)
  /-- JR (R105). -/
  | jr (a : Reg)
  /-- CALLR (R105). -/
  | callr (a : Reg)
  /-- SPLIT (R23). -/
  | split (p : B4) (t : W32) (x : W32)
  /-- SPLIT_N (R23). -/
  | splitN (p : B4) (t : W32) (x : W32)
  /-- CALLV (R109). -/
  | callv (v : Sel)
  /-- SLD (R191). -/
  | sld (d : Reg) (a : Reg) (z : B3)
  /-- SLD_64 (R191). -/
  | sld64 (d : Reg) (a : Reg) (z : B3) (o : W32)
  /-- SST (R191). -/
  | sst (a : Reg) (b : Reg) (z : B2)
  /-- SST_64 (R191). -/
  | sst64 (a : Reg) (b : Reg) (z : B2) (o : W32)
  /-- SATOM (R193). -/
  | satom (d : Reg) (a : Reg) (b : Reg) (k : AtomOp) (c : Reg) (z : Bool) (r : Ord) (s : Scope)
  /-- XATOM (R193). -/
  | xatom (d : Reg) (a : Reg) (b : Reg) (k : AtomOp) (c : Reg) (z : Bool) (r : Ord) (s : Scope)
  /-- FENCE (R192). -/
  | fence (r : Ord) (s : Scope)
  /-- SPREF (R194). -/
  | spref (a : Reg)
  /-- SPREF_64 (R194). -/
  | spref64 (a : Reg) (o : W32)
  /-- LX (R111). -/
  | lx (st : B25) (n : Reg)
  /-- STRM_DEF (R116). -/
  | strmDef (a : Reg) (q : B3)
  /-- STRM_GO (R116). -/
  | strmGo (m : Byte)
  /-- STRM_STOP (R116). -/
  | strmStop (m : Byte)
  /-- SHAPE (R119). -/
  | shape (d : Reg) (x : ShapeReq)
  /-- VGET (R112). -/
  | vget (d : Reg) (a : Reg) (v : Sel) (pr : Bool)
  /-- VPUT (R113). -/
  | vput (a : Reg) (b : Reg) (v : Sel) (pr : Bool)
  /-- VPUT_ALL (R113). -/
  | vputAll (a : Reg) (v : Sel) (pr : Bool)
  /-- PGET (R114). -/
  | pget (d : Reg) (p : B4)
  /-- PPUT (R115). -/
  | pput (a : Reg) (p : B4)
  /-- WAITP (R121). -/
  | waitp (a : Reg) (p : B4)
  /-- CREW_JOIN (R248). -/
  | crewJoin (d : Reg) (a : Reg)
  /-- CREW_LEAVE (R248). -/
  | crewLeave (d : Reg) (a : Reg)
  /-- CREW_SIZE (R249). -/
  | crewSize (d : Reg) (a : Reg)
  /-- CREW_RANK (R248). -/
  | crewRank (d : Reg) (a : Reg)
  /-- BAR (R253). -/
  | bar (a : Reg) (s : Scope)
  /-- BAR_SWAP (R253). -/
  | barSwap (a : Reg) (s : Scope)
  /-- ABAR_INIT (R257). -/
  | abarInit (a : Reg) (b : Reg) (r : Ord) (s : Scope)
  /-- ABAR_ARRIVE (R257). -/
  | abarArrive (d : Reg) (a : Reg) (b : Reg) (r : Ord) (s : Scope)
  /-- ABAR_EXPECT (R257). -/
  | abarExpect (d : Reg) (a : Reg) (b : Reg) (r : Ord) (s : Scope)
  /-- ABAR_WAIT (R257). -/
  | abarWait (a : Reg) (b : Reg) (r : Ord) (s : Scope)
  /-- ABAR_TEST (R257). -/
  | abarTest (d : Reg) (a : Reg) (b : Reg) (r : Ord) (s : Scope)
  /-- CRGN_OPEN (R269). -/
  | crgnOpen (o : W32)
  /-- SIGCK (R272). -/
  | sigck (v : W32)
  /-- PAIR_BEGIN (R273). -/
  | pairBegin (n : I12)
  /-- TCOPY (R224). -/
  | tcopy (a : Reg) (b : Reg) (nb : Bool) (s : Scope)
  /-- WLOAD (R205). -/
  | wload (w : Bool) (a : Reg) (b : Reg) (dst : Byte) (n : I12) (nb : Bool) (s : Scope)
  /-- COLL_DEFINE (R402). -/
  | collDefine (b : Reg) (g : Byte) (s : Scope)
  /-- COLL_RELEASE (R403). -/
  | collRelease (g : Byte) (s : Scope)
  /-- COLL_ABORT (R403). -/
  | collAbort (g : Byte) (s : Scope)
  /-- COLL_ALLRED (R409). -/
  | collAllred (t : B3) (dr : B2) (b : Reg) (g : Byte) (s : Scope)
  /-- COLL_REDUCE (R409). -/
  | collReduce (t : B3) (dr : B2) (b : Reg) (g : Byte) (s : Scope)
  /-- COLL_BCAST (R409). -/
  | collBcast (t : B3) (dr : B2) (b : Reg) (g : Byte) (s : Scope)
  /-- COLL_GATHER (R409). -/
  | collGather (t : B3) (dr : B2) (b : Reg) (g : Byte) (s : Scope)
  /-- COLL_RSCAT (R409). -/
  | collRscat (t : B3) (dr : B2) (b : Reg) (g : Byte) (s : Scope)
  /-- COLL_ROT (R409). -/
  | collRot (t : B3) (dr : B2) (b : Reg) (g : Byte) (s : Scope)
  /-- COLL_PROG (R411). -/
  | collProg (t : B3) (dr : B2) (b : Reg) (g : Byte) (s : Scope)
  /-- SOLIC (R292). -/
  | solic (k : B2) (a : Reg) (b : Reg) (cr : Byte) (ro : B2) (cx : Bool) (s : Scope)
  /-- AUCT (R297). -/
  | auct (a : Reg) (b : Reg) (nb : Bool) (s : Scope)
  /-- SLOT_LOOK (R243). -/
  | slotLook (d : Reg) (a : Reg)
  /-- SLOT_VICT (R243). -/
  | slotVict (d : Reg)
  /-- SLOT_FILL (R243). -/
  | slotFill (d : Reg) (a : Reg)
  /-- SLOT_CLR (R243). -/
  | slotClr (d : Reg) (a : Reg)
  /-- REC (R326). -/
  | recd (d : Reg) (a : Reg) (q : Reg)
  /-- TRIG (R315). -/
  | trig (a : Reg) (b : Reg) (g : I12)
  /-- SYSR (R122). -/
  | sysr (d : Reg) (n : I12)
  /-- SYSW (R122). -/
  | sysw (a : Reg) (n : I12)
  /-- SYSW_SRSEED (R84). -/
  | syswSrseed (a : Reg)
  /-- SYSW_FMASK (R124). -/
  | syswFmask (a : Reg)
  /-- SYSW_RBND (R209). -/
  | syswRbnd (a : Reg)
  /-- SYSW_SIGREG (R271). -/
  | syswSigreg (a : Reg)
  /-- SYSW_INJECT (R279). -/
  | syswInject (a : Reg)
  /-- TRAP (R128). -/
  | trap (c : I12)
  /-- NOP_64 (R131). -/
  | nop64 (x : W32)
  /-- NOP_96 (R131). -/
  | nop96 (x : W32) (y : W32)
  /-- IADD (R136). -/
  | iadd (o : LaneOps)
  /-- ISUB (R136). -/
  | isub (o : LaneOps)
  /-- IMUL (R136). -/
  | imul (o : LaneOps)
  /-- IMULH (R136). -/
  | imulh (o : LaneOps)
  /-- IMULHU (R136). -/
  | imulhu (o : LaneOps)
  /-- IMIN (R136). -/
  | imin (o : LaneOps)
  /-- IMAX (R136). -/
  | imax (o : LaneOps)
  /-- IMINU (R136). -/
  | iminu (o : LaneOps)
  /-- IMAXU (R136). -/
  | imaxu (o : LaneOps)
  /-- IAND (R136). -/
  | iand (o : LaneOps)
  /-- IOR (R136). -/
  | ior (o : LaneOps)
  /-- IXOR (R136). -/
  | ixor (o : LaneOps)
  /-- LANE_SHL (R136). -/
  | laneShl (o : LaneOps)
  /-- LANE_SHR (R136). -/
  | laneShr (o : LaneOps)
  /-- LANE_SAR (R136). -/
  | laneSar (o : LaneOps)
  /-- ROT (R136). -/
  | rot (o : LaneOps)
  /-- IADDS (R136). -/
  | iadds (o : LaneOps)
  /-- ISUBS (R136). -/
  | isubs (o : LaneOps)
  /-- IABS (R137). -/
  | iabs (o : LaneOps)
  /-- INEG (R137). -/
  | ineg (o : LaneOps)
  /-- INOT (R137). -/
  | inot (o : LaneOps)
  /-- LANE_POPC (R137). -/
  | lanePopc (o : LaneOps)
  /-- LANE_CLZ (R137). -/
  | laneClz (o : LaneOps)
  /-- LANE_BREV (R137). -/
  | laneBrev (o : LaneOps)
  /-- LANE_MOV (R137). -/
  | laneMov (o : LaneOps)
  /-- IMAD (R138). -/
  | imad (o : LaneOps)
  /-- DOT4 (R138). -/
  | dot4 (o : LaneOps)
  /-- IADDC (R138). -/
  | iaddc (o : LaneOps)
  /-- IMULW (R138). -/
  | imulw (o : LaneOps)
  /-- BFX (R139). -/
  | bfx (o : LaneOps)
  /-- BFI (R139). -/
  | bfi (o : LaneOps)
  /-- ICMP (R140). -/
  | icmp (o : LaneOps)
  /-- SEL (R141). -/
  | sel (o : LaneOps)
  /-- LID (R142). -/
  | lid (o : LaneOps)
  /-- FADD (R143). -/
  | fadd (o : LaneOps)
  /-- FSUB (R143). -/
  | fsub (o : LaneOps)
  /-- FMUL (R143). -/
  | fmul (o : LaneOps)
  /-- FFMA (R143). -/
  | ffma (o : LaneOps)
  /-- FMIN (R144). -/
  | fmin (o : LaneOps)
  /-- FMAX (R144). -/
  | fmax (o : LaneOps)
  /-- FABS (R144). -/
  | fabs (o : LaneOps)
  /-- FNEG (R144). -/
  | fneg (o : LaneOps)
  /-- FCMP (R145). -/
  | fcmp (o : LaneOps)
  /-- FCLASS (R146). -/
  | fclass (o : LaneOps)
  /-- FRINT (R147). -/
  | frint (o : LaneOps)
  /-- HADD2 (R148). -/
  | hadd2 (o : LaneOps)
  /-- HMUL2 (R148). -/
  | hmul2 (o : LaneOps)
  /-- HFMA2 (R148). -/
  | hfma2 (o : LaneOps)
  /-- HMIN2 (R148). -/
  | hmin2 (o : LaneOps)
  /-- HMAX2 (R148). -/
  | hmax2 (o : LaneOps)
  /-- RCP (R149). -/
  | rcp (o : LaneOps)
  /-- RSQ (R149). -/
  | rsq (o : LaneOps)
  /-- SQRT (R149). -/
  | sqrt (o : LaneOps)
  /-- EXP2 (R149). -/
  | exp2 (o : LaneOps)
  /-- LOG2 (R149). -/
  | log2 (o : LaneOps)
  /-- SIN (R149). -/
  | sin (o : LaneOps)
  /-- COS (R149). -/
  | cos (o : LaneOps)
  /-- TANH (R149). -/
  | tanh (o : LaneOps)
  /-- SIGM (R149). -/
  | sigm (o : LaneOps)
  /-- CVT (R153). -/
  | cvt (o : LaneOps)
  /-- PACK (R154). -/
  | pack (o : LaneOps)
  /-- UNPK (R155). -/
  | unpk (o : LaneOps)
  /-- QNT (R156). -/
  | qnt (o : LaneOps)
  /-- SCALE (R157). -/
  | scale (o : LaneOps)
  /-- AMAX (R158). -/
  | amax (o : LaneOps)
  /-- SHFL (R161). -/
  | shfl (o : LaneOps)
  /-- BALLOT (R162). -/
  | ballot (o : LaneOps)
  /-- BPLANE (R163). -/
  | bplane (o : LaneOps)
  /-- VRED (R164). -/
  | vred (o : LaneOps)
  /-- VSCAN (R165). -/
  | vscan (o : LaneOps)
  /-- LD (R184). -/
  | ld (o : LaneOps)
  /-- ST (R184). -/
  | st (o : LaneOps)
  /-- ATOM (R185). -/
  | atom (o : LaneOps)
  /-- FATOM (R187). -/
  | fatom (o : LaneOps)
  /-- FATOM_MORE (R187). -/
  | fatomMore (o : LaneOps)
  /-- FATOM_SKIP (R187). -/
  | fatomSkip (o : LaneOps)
  /-- ACPY (R190). -/
  | acpy (o : LaneOps)
  /-- XST (R285). -/
  | xst (o : LaneOps)
  /-- MMA (R210). -/
  | mma (o : LaneOps)
  /-- MSOFT (R211). -/
  | msoft (o : LaneOps)
  /-- TMOV_TV (R214). -/
  | tmovTv (o : LaneOps)
  /-- TMOV_VT (R214). -/
  | tmovVt (o : LaneOps)
  /-- TCLR (R212). -/
  | tclr (o : LaneOps)
  /-- TSCL (R213). -/
  | tscl (o : LaneOps)
  /-- TSCL_PEND (R213). -/
  | tsclPend (o : LaneOps)
  /-- TSCL_DIVL (R213). -/
  | tsclDivl (o : LaneOps)
  /-- TDRN (R215). -/
  | tdrn (o : LaneOps)
  /-- CHUNK_SEND (R413). -/
  | chunkSend (ch : B4) (dt : B4) (peer : B16) (ck : B16) (n : B16)
  /-- CHUNK_RECV (R413). -/
  | chunkRecv (ch : B4) (dt : B4) (peer : B16) (ck : B16) (n : B16)
  /-- CHUNK_RRED (R413). -/
  | chunkRred (ch : B4) (dt : B4) (fn : B4) (peer : B16) (ck : B16) (n : B16)
  /-- CHUNK_COPY (R413). -/
  | chunkCopy (ch : B4) (dst : B16) (ck : B16) (n : B16)
  /-- CHUNK_WAIT (R413). -/
  | chunkWait (ck : B16) (n : B16)
  /-- CHUNK_SIG (R413). -/
  | chunkSig (peer : B16) (n : B16)
  /-- CHUNK_LOOP (R413). -/
  | chunkLoop (n : B16)
  /-- CHUNK_MCAST (R413). -/
  | chunkMcast (ch : B4) (dt : B4) (ck : B16) (n : B16)
  /-- CHUNK_ROUTE (R413). -/
  | chunkRoute (dev : B16) (ck : B16)
  /-- RESERVED_ENCODING (R52). -/
  | reservedEncoding (w0 : W32)
  /-- BADOP (R52). -/
  | badop (wd : Word)
  /-- LANE_ISSUE (R20). -/
  | laneIssue (core : Nat)
  /-- LOAD_SECTOR_RETURN (R177). -/
  | loadSectorReturn (w : Nat) (op : Nat) (k : Nat)
  /-- STORE_PERFORM (R178). -/
  | storePerform (w : Nat)
  /-- ATOMIC_PERFORM (R193). -/
  | atomicPerform (w : Nat) (op : Nat)
  /-- FATOM_ARRIVE (R189). -/
  | fatomArrive (w : Nat) (op : Nat)
  /-- FATOM_APPLY (R188). -/
  | fatomApply (pcn : Nat) (k : Nat)
  /-- ACPY_WRITE (R190). -/
  | acpyWrite (w : Nat) (op : Nat) (k : Nat)
  /-- XST_WRITE (R286). -/
  | xstWrite (w : Nat) (op : Nat) (k : Nat)
  /-- STREAM_FETCH (R238). -/
  | streamFetch (w : Nat) (q : Nat) (l : Nat)
  /-- MATRIX_PASS (R208). -/
  | matrixPass (core : Nat)
  /-- MATRIX_PERFORM (R207). -/
  | matrixPerform (w : Nat)
  /-- WLOAD_ACCEPT (R205). -/
  | wloadAccept (w : Nat) (op : Nat)
  /-- WLOAD_COMPLETE (R205). -/
  | wloadComplete (core : Nat) (k : Nat)
  /-- TCOPY_ACCEPT (R234). -/
  | tcopyAccept (w : Nat) (op : Nat)
  /-- TCOPY_SECTOR_WRITE (R232). -/
  | tcopySectorWrite (core : Nat) (k : Nat)
  /-- TCOPY_COMPLETE (R231). -/
  | tcopyComplete (core : Nat) (k : Nat)
  /-- CREW_CONTROLLER_ARRIVAL (R251). -/
  | crewControllerArrival (cx : Nat)
  /-- CREW_DEPARTURE (R250). -/
  | crewDeparture (cx : Nat)
  /-- WATCH_RELEASE (R130). -/
  | watchRelease (w : Nat)
  /-- UNCOR_ABORT_COMPLETION (R268). -/
  | uncorAbortCompletion (u : UncorAt)
  /-- PAGE_WALK_COMPLETE (R337). -/
  | pageWalkComplete (pcn : Nat) (cx : Nat) (off : Nat)
  /-- MMP_PAGE_RESIDENT (R340). -/
  | mmpPageResident (k : Nat) (pte : Word)
  /-- MMP_DECLINE (R341). -/
  | mmpDecline (k : Nat)
  /-- TLB_LEASE_EXPIRE (R342). -/
  | tlbLeaseExpire (pcn : Nat) (k : Nat)
  /-- MMP_UNMAP (R345). -/
  | mmpUnmap (c : CtxCol) (off : Nat) (pte : Word)
  /-- DRAIN_MARK_ACK (R345). -/
  | drainMarkAck (k : Nat) (cl : Nat)
  /-- UNMAPWAIT_EXPIRE (R345). -/
  | unmapwaitExpire (k : Nat)
  /-- DRAIN_PROBE_ANSWER (R345). -/
  | drainProbeAnswer (k : Nat) (pcn : Nat)
  /-- PREEMPT_SWITCH_REQUEST (R348). -/
  | preemptSwitchRequest (core : Nat)
  /-- SWITCH_COMPLETE (R348). -/
  | switchComplete (core : Nat)
  /-- FILL_START (R349). -/
  | fillStart (core : Nat) (cx : Nat)
  /-- FILL_DONE (R349). -/
  | fillDone (core : Nat)
  /-- SPILL_DONE (R349). -/
  | spillDone (core : Nat)
  /-- HANDLER_TIMEOUT (R352). -/
  | handlerTimeout (w : Nat)
  /-- XTO_TIMEOUT (R352). -/
  | xtoTimeout (cx : Nat) (kill : List Nat)
  /-- PARTITION_TIMEOUT (R352). -/
  | partitionTimeout (p : Nat)
  /-- WATCHDOG_EXPIRE (R355). -/
  | watchdogExpire (x : Expiry)
  /-- SPILLSTUCK (R356). -/
  | spillstuck (core : Nat)
  /-- COLUMN_RETIRE (R168). -/
  | columnRetire (pcn : Nat)
  /-- PAIR_TRAILER_PLACE (R273). -/
  | pairTrailerPlace (w : Nat)
  /-- PAIR_COMPARE (R276). -/
  | pairCompare (w : Nat)
  /-- SOLIC_ACCEPT (R292). -/
  | solicAccept (w : Nat) (op : Nat)
  /-- DIRECTORY_LOOKUP (R293). -/
  | directoryLookup (cx : Nat) (n : Nat) (core : Nat)
  /-- RESPONDER_SPAWN (R294). -/
  | responderSpawn (cx : Nat) (n : Nat) (core : Nat)
  /-- CENSUS_COMPLETE (R295). -/
  | censusComplete (cx : Nat) (n : Nat)
  /-- DIRECTORY_INSERT_ACK (R296). -/
  | directoryInsertAck (w : Nat) (op : Nat)
  /-- AUCT_ACCEPT (R297). -/
  | auctAccept (w : Nat) (op : Nat)
  /-- AUCT_RUN (R300). -/
  | auctRun (cl : Nat)
  /-- AUCT_COMPLETE (R301). -/
  | auctComplete (cl : Nat)
  /-- TRIGGER_ACCEPT (R314). -/
  | triggerAccept (w : Nat) (op : Nat)
  /-- RING_ENTRY_TAKE (R316). -/
  | ringEntryTake (die : Nat) (q : Nat)
  /-- RUN_START (R317). -/
  | runStart (die : Nat)
  /-- GVEC_READ (R331). -/
  | gvecRead (die : Nat) (q : Nat)
  /-- BLOCK_PLACE (R322). -/
  | blockPlace (die : Nat)
  /-- PARAM_WRITE (R324). -/
  | paramWrite (ln : Nat) (core : Nat)
  /-- NODE_COMPLETE (R318). -/
  | nodeComplete (ln : Nat)
  /-- REC_ANSWER (R326). -/
  | recAnswer (w : Nat) (op : Nat)
  /-- RECORD_DELIVER (R328). -/
  | recordDeliver (rq : Nat)
  /-- CLOSING_RECORD_DELIVER (R329). -/
  | closingRecordDeliver (rq : Nat) (blk : Nat)
  /-- NOC_FLIT_RETRY (R308). -/
  | nocFlitRetry (lk : Nat) (dead : Bool)
  /-- HOST_TRIGGER_WRITE (R380). -/
  | hostTriggerWrite (die : Nat) (v : Word)
  /-- QTAIL_WRITE (R316). -/
  | qtailWrite (die : Nat) (q : Nat) (v : W32)
  /-- EVCTL_WRITE (R378). -/
  | evctlWrite (die : Nat) (v : Word)
  /-- EVHEAD_WRITE (R379). -/
  | evheadWrite (die : Nat) (v : W32)
  /-- EVENT_WRITE (R379). -/
  | eventWrite (die : Nat)
  /-- HRANGE_WRITE (R386). -/
  | hrangeWrite (k : RangeEntry) (lo : Word) (hi : Word)
  /-- SCHEDMEM_WRITE (R309). -/
  | schedmemWrite (die : Nat) (off : Nat) (n : Nat) (v : Word)
  /-- HOST_WINDOW_WRITE (R378). -/
  | hostWindowWrite (die : Nat) (off : Nat) (n : Nat) (v : Word)
  /-- CREATE (R382). -/
  | create (arg : Nat)
  /-- DESTROY (R382). -/
  | destroy (arg : Nat)
  /-- RESUME (R382). -/
  | resume (arg : Nat)
  /-- KICK (R382). -/
  | kick (arg : Nat)
  /-- PAGEDONE (R382). -/
  | pagedone (arg : Nat)
  /-- PAGEFAIL (R382). -/
  | pagefail (arg : Nat)
  /-- MBCMD_RESERVED (R382). -/
  | mbcmdReserved (code : Nat) (arg : Nat)
  /-- PARTITION_TABLE_WRITE (R418). -/
  | partitionTableWrite (p : Nat) (m : Word)
  /-- ROUTE_TABLE_WRITE (R393). -/
  | routeTableWrite (rw : RouteWrite)
  /-- ENMON_LOG_READ (R383). -/
  | enmonLogRead (x : EnmonStep)
  /-- FIRMWARE_UPDATE (R384). -/
  | firmwareUpdate (im : Image)
  /-- ATTESTATION_REPORT (R385). -/
  | attestationReport (nonce : Nat)
  /-- ENMON_RESET (R384). -/
  | enmonReset (bad : Bool)
  /-- STACK_TRAINED (R389). -/
  | stackTrained (st : Nat) (ok : Bool)
  /-- DECOMP_SELFTEST_PASS (R203). -/
  | decompSelftestPass (core : Nat)
  /-- LINK_MODULE_FAIL (R376). -/
  | linkModuleFail (m : Nat)
  /-- POWER_LIMIT (R386). -/
  | powerLimit (x : PowerStep)
  /-- CLOCK_SET (R375). -/
  | clockSet (mem : Bool) (k : Nat) (mhz : Nat)
  /-- COLL_RUN_START (R404). -/
  | collRunStart (cx : Nat) (g : Nat)
  /-- COLL_RUN_COMPLETE (R406). -/
  | collRunComplete (run : Nat)
  /-- BEAM_FLIT_FORWARD (R394). -/
  | beamFlitForward (p : Nat) (f : Flit)
  /-- BEAM_DATA (R412). -/
  | beamData (p : Nat) (f : Flit)
  /-- BEAM_ACK (R412). -/
  | beamAck (p : Nat) (f : Flit)
  /-- BEAM_GRANT (R412). -/
  | beamGrant (p : Nat) (f : Flit)
  /-- BEAM_SIGNAL (R413). -/
  | beamSignal (p : Nat) (f : Flit)
  /-- BEAM_BARRIER (R413). -/
  | beamBarrier (p : Nat) (f : Flit)
  /-- BEAM_ABORT (R415). -/
  | beamAbort (p : Nat) (f : Flit)
  /-- BEAM_LINKDOWN (R392). -/
  | beamLinkdown (p : Nat) (f : Flit)
  /-- BEAM_CRC_REJECT (R392). -/
  | beamCrcReject (p : Nat) (k : Nat)
  /-- BEAM_LANE_LOSS (R390). -/
  | beamLaneLoss (p : Nat) (n : Nat)
  /-- BEAM_PORT_DOWN (R392). -/
  | beamPortDown (p : Nat)
  /-- BEAM_PORT_RETRAIN (R392). -/
  | beamPortRetrain (p : Nat)
  /-- WLOAD_SECTOR_WRITE (R205). -/
  | wloadSectorWrite (core : Nat) (k : Nat)
  /-- HOST_STORE_ACKNOWLEDGEMENT (R192). -/
  | hostStoreAcknowledgement (w : Nat) (op : Nat)
  /-- GRPBUSY (R402). -/
  | grpbusy (w : Nat) (e : Nat)
  /-- FUSE (R24). -/
  | fuse
  /-- CRGN_CLOSE (R269). -/
  | crgnClose
  /-- PAIR_END (R278). -/
  | pairEnd
  /-- YIELD (R259). -/
  | yield
  /-- RTE (R267). -/
  | rte
  /-- EXIT (R130). -/
  | exit
  /-- NOP (R131). -/
  | nop
  /-- LOG_EPOCH_END (R374). -/
  | logEpochEnd
  /-- DEVICE_RESET (R389). -/
  | deviceReset
  /-- HOST_LINK_TRAINED (R389). -/
  | hostLinkTrained
  /-- THERMAL_TRIP (R387). -/
  | thermalTrip
  /-- CHUNK_NEXT (R413). -/
  | chunkNext
  /-- CHUNK_BAR (R413). -/
  | chunkBar
  /-- CHUNK_END (R413). -/
  | chunkEnd
  deriving DecidableEq, Repr

end Sys2Proof
end

