-- ==== Sys2Proof/WellFormed.lean ====
section
/-! DEFINITION. The well-formed instructions: the field ranges that 02 R41 to R54 and the instruction chapters give. A control
word outside them is a reserved encoding (02 R52); a chunk word outside them halts with BADFLD; a lane instruction's own field
rules are issue checks (04 R417), so that here only the choice between the rows of one opcode stands. -/

namespace Sys2Proof

/-- The type codes that SHAPE accepts (04 R118). -/
def matrixType (t : BitVec 4) : Bool := t == 1 || t == 2 || t == 3 || t == 4 || t == 5 || t == 8

/-- The ranges of the control instructions (02 R42 to R46; 04 R108, R112 to R121; 06 R191, R193; 09 R253, R273; 15 R401). DEDUCED: an
odd VREG with PAIR = 1, which R42 forbids and R52 names only for other layouts, is ILLOP in VGET and VPUT as R108 has it in CALLV
(log 60). -/
def Instr.controlRanges : Instr → Bool
  | .callv v => v.extractLsb' 0 1 == 0
  | .vget _ _ v pr => !pr || v.extractLsb' 0 1 == 0
  | .vput _ _ v pr => !pr || v.extractLsb' 0 1 == 0
  | .vputAll _ v pr => !pr || v.extractLsb' 0 1 == 0
  | .sld d _ z => z != 4 || d.extractLsb' 0 1 == 0
  | .sld64 d _ z _ => z != 4 || d.extractLsb' 0 1 == 0
  | .satom _ _ b k c _ _ _ => (k == .cas || c == 0) && (k != .load || b == 0)
  | .xatom _ _ b k c _ _ _ => (k == .cas || c == 0) && (k != .load || b == 0)
  | .fence r _ => r != .rlx
  | .bar _ s => s != .wch
  | .barSwap _ s => s != .wch
  | .shape _ x => x.n != 3 && x.k != 3 && matrixType x.fa && matrixType x.fb
  | .pput _ p => p != 0
  | .waitp _ p => decide (p.toNat ≤ 9)
  | .pairBegin n => decide (1 ≤ n.toNat ∧ n.toNat ≤ 64)
  | .wload _ _ b _ n nb _ => decide (1 ≤ n.toNat ∧ n.toNat ≤ 2048) && (!nb || b == 0)
  | .tcopy _ b nb _ => !nb || b == 0
  | .auct _ b nb _ => !nb || b == 0
  | .solic _ _ _ cr _ cx _ => !cx || cr == 0
  | .collAllred t dr _ _ _ => dr != 3 && (dr != 0 || t == 0)
  | .collReduce t dr _ _ _ => dr != 3 && (dr != 0 || t == 0)
  | .collBcast t dr _ _ _ => dr != 3 && (dr != 0 || t == 0)
  | .collGather t dr _ _ _ => dr != 3 && (dr != 0 || t == 0)
  | .collRscat t dr _ _ _ => dr != 3 && (dr != 0 || t == 0)
  | .collRot t dr _ _ _ => dr != 3 && (dr != 0 || t == 0)
  | .collProg t dr _ _ _ => dr != 3 && (dr != 0 || t == 0)
  | .sysw _ n => n != 0x010 && n != 0x008 && n != 0x012 && n != 0x013 && n != 0x014
  | _ => true

/-- Which row of its opcode a lane instruction is (06 R187, 07 R213, R214). -/
def Instr.laneRow : Instr → Bool
  | .fatom o => o.md.extractLsb' 0 2 != 1 && o.md.extractLsb' 0 2 != 2
  | .fatomMore o => o.md.extractLsb' 0 2 == 1
  | .fatomSkip o => o.md.extractLsb' 0 2 == 2
  | .tmovTv o => !o.md.getLsbD 0
  | .tmovVt o => o.md.getLsbD 0
  | .tscl o => o.lit.extractLsb' 0 2 != 1 && o.lit.extractLsb' 0 2 != 2
  | .tsclPend o => o.lit.extractLsb' 0 2 == 1
  | .tsclDivl o => o.lit.extractLsb' 0 2 == 2
  | _ => true

/-- The ranges of the chunk words (02 R53, R54; 15 R413). -/
def Instr.chunkRanges : Instr → Bool
  | .chunkSend _ dt _ _ n => decide (dt.toNat ≤ 2) && n != 0
  | .chunkRecv _ dt _ _ n => decide (dt.toNat ≤ 2) && n != 0
  | .chunkRred _ dt fn _ _ n => decide (dt.toNat ≤ 1) && decide (fn.toNat ≤ 2)
  | .chunkWait _ n => decide (n.toNat ≤ 63)
  | .chunkSig _ n => decide (n.toNat ≤ 63)
  | .chunkLoop n => n != 0
  | .chunkMcast _ dt _ _ => decide (dt.toNat ≤ 2)
  | _ => true

/-- The fields of the instruction lie in the ranges that the maps give. -/
def Instr.wellFormed (i : Instr) : Bool := i.controlRanges && i.laneRow && i.chunkRanges

end Sys2Proof
end

