-- ==== Sys2Proof/Decode.lean ====
section
/-! DEFINITION. Decoding (02 R37 to R54): the fields of a word, what instruction they are a candidate for, and the encoder,
written from the same tables. A word is an instruction exactly where the candidate is well-formed and encodes to the word, so
that every field the maps do not name must be 0 (02 R41). Any other control word decodes to RESERVED_ENCODING (02 R52). -/

namespace Sys2Proof

/-- Word 0 of a control instruction (02 R40). -/
structure Fields where
  len : BitVec 2
  maj : BitVec 6
  d : BitVec 6
  a : BitVec 6
  b : BitVec 6
  m : BitVec 6
  deriving DecidableEq, Repr

/-- A control instruction's fields and later words (02 R37). -/
structure CtlWords where
  f : Fields
  w1 : W32
  w2 : W32
  deriving DecidableEq, Repr

/-- Word 0 from its fields (02 R40). -/
def packFields (f : Fields) : W32 := f.m ++ f.b ++ f.a ++ f.d ++ f.maj ++ f.len

/-- The fields of word 0 (02 R40). -/
def unpackFields (w : W32) : Fields :=
  ⟨w.extractLsb' 0 2, w.extractLsb' 2 6, w.extractLsb' 8 6, w.extractLsb' 14 6, w.extractLsb' 20 6, w.extractLsb' 26 6⟩

/-- The immediate format: IMM12 in place of B and MIN (02 R40). -/
def fieldsI (len : BitVec 2) (maj d a : BitVec 6) (i : I12) : Fields :=
  ⟨len, maj, d, a, i.extractLsb' 0 6, i.extractLsb' 6 6⟩

/-- IMM12 (02 R40). -/
def imm12 (f : Fields) : I12 := f.m ++ f.b

/-- One bit as a field of six. -/
def bit (b : Bool) : BitVec 6 := if b then 1 else 0

/-- The condition codes of BR (02 R45). -/
def brCode : BrCond → BitVec 6
  | .eq => 0 | .ne => 1 | .lt => 2 | .ge => 3 | .ltu => 4 | .geu => 5

/-- The condition of a BR (02 R45). -/
def brCond (m : BitVec 6) : Option BrCond :=
  match m.toNat with
  | 0 => some .eq | 1 => some .ne | 2 => some .lt | 3 => some .ge | 4 => some .ltu | 5 => some .geu
  | _ => none

/-- The operation codes of SATOM and XATOM (06 R193). -/
def atomCode : AtomOp → BitVec 6
  | .add => 0 | .min => 1 | .max => 2 | .minu => 3 | .maxu => 4 | .and => 5 | .or => 6 | .xor => 7 | .swap => 8 | .cas => 9
  | .load => 10 | .store => 11

/-- The operation of a SATOM or XATOM (06 R193). -/
def atomOp (m : BitVec 6) : Option AtomOp :=
  match m.toNat with
  | 0 => some .add | 1 => some .min | 2 => some .max | 3 => some .minu | 4 => some .maxu | 5 => some .and | 6 => some .or
  | 7 => some .xor | 8 => some .swap | 9 => some .cas | 10 => some .load | 11 => some .store
  | _ => none

/-- The scope codes (02 R43). -/
def scopeCode : Scope → BitVec 3
  | .wch => 0 | .crew => 1 | .col => 2 | .core => 3 | .clu => 4 | .die => 5 | .dev => 6 | .sys => 7

/-- The scope of a code (02 R43). -/
def scopeOf (c : BitVec 3) : Scope :=
  match c.toNat with
  | 0 => .wch | 1 => .crew | 2 => .col | 3 => .core | 4 => .clu | 5 => .die | 6 => .dev | _ => .sys

/-- The order codes (02 R42). -/
def ordCode : Ord → BitVec 2
  | .rlx => 0 | .acq => 1 | .rel => 2 | .ar => 3

/-- The order of a code (02 R42). -/
def ordOf (c : BitVec 2) : Ord :=
  match c.toNat with
  | 0 => .rlx | 1 => .acq | 2 => .rel | _ => .ar

/-- An XC word: SCOPE, ORD, TAG, COUNT and FLAGS[25] (02 R42, R46). -/
def xc (s : Scope) (r : Ord) (tag : Byte) (count : BitVec 12) (flag : Bool) : W32 :=
  (if flag then (1 : BitVec 7) else 0) ++ count ++ tag ++ ordCode r ++ scopeCode s

def xcScope (w : W32) : Scope := scopeOf (w.extractLsb' 0 3)
def xcOrd (w : W32) : Ord := ordOf (w.extractLsb' 3 2)
def xcTag (w : W32) : Byte := w.extractLsb' 5 8
def xcCount (w : W32) : BitVec 12 := w.extractLsb' 13 12

/-- TAG of SATOM and XATOM: SZ64 and the compare register (02 R46). -/
def atomTag (z : Bool) (c : Reg) : Byte := (0 : BitVec 1) ++ c ++ (if z then (1 : BitVec 1) else 0)

/-- An XV word (02 R42). -/
def xv (v : Sel) (pair all : Bool) : W32 :=
  (0 : BitVec 21) ++ (if all then (1 : BitVec 1) else 0) ++ (if pair then (1 : BitVec 1) else 0) ++ v

def xvReg (w : W32) : Sel := w.extractLsb' 0 9

/-- An XL word (02 R42). -/
def xl (st : B25) (n : Reg) : W32 := (0 : BitVec 1) ++ n ++ st

/-- An XS word (02 R42). -/
def xs (x : ShapeReq) : W32 := (0 : BitVec 16) ++ x.gb ++ x.ga ++ x.fb ++ x.fa ++ x.k ++ x.n

def xsOf (w : W32) : ShapeReq :=
  ⟨w.extractLsb' 0 2, w.extractLsb' 2 2, w.extractLsb' 4 4, w.extractLsb' 8 4, w.extractLsb' 12 2, w.extractLsb' 14 2⟩

/-- MIN of a COLL run: OP and the drain (15 R401). -/
def drCode (dr : B2) (op : BitVec 3) : BitVec 6 := (0 : BitVec 1) ++ dr ++ op

/-- The words of a control instruction (02 R44 to R46). -/
def encodeControl : Instr → Option CtlWords
  | .add d a b => some ⟨⟨0, 0, d, a, b, 0⟩, 0, 0⟩
  | .sub d a b => some ⟨⟨0, 0, d, a, b, 1⟩, 0, 0⟩
  | .mul d a b => some ⟨⟨0, 0, d, a, b, 2⟩, 0, 0⟩
  | .mulh d a b => some ⟨⟨0, 0, d, a, b, 3⟩, 0, 0⟩
  | .mulhu d a b => some ⟨⟨0, 0, d, a, b, 4⟩, 0, 0⟩
  | .div d a b => some ⟨⟨0, 0, d, a, b, 5⟩, 0, 0⟩
  | .divu d a b => some ⟨⟨0, 0, d, a, b, 6⟩, 0, 0⟩
  | .rem d a b => some ⟨⟨0, 0, d, a, b, 7⟩, 0, 0⟩
  | .remu d a b => some ⟨⟨0, 0, d, a, b, 8⟩, 0, 0⟩
  | .and d a b => some ⟨⟨0, 0, d, a, b, 9⟩, 0, 0⟩
  | .or d a b => some ⟨⟨0, 0, d, a, b, 10⟩, 0, 0⟩
  | .xor d a b => some ⟨⟨0, 0, d, a, b, 11⟩, 0, 0⟩
  | .andn d a b => some ⟨⟨0, 0, d, a, b, 12⟩, 0, 0⟩
  | .shl d a b => some ⟨⟨0, 0, d, a, b, 13⟩, 0, 0⟩
  | .shr d a b => some ⟨⟨0, 0, d, a, b, 14⟩, 0, 0⟩
  | .sar d a b => some ⟨⟨0, 0, d, a, b, 15⟩, 0, 0⟩
  | .rol d a b => some ⟨⟨0, 0, d, a, b, 16⟩, 0, 0⟩
  | .min d a b => some ⟨⟨0, 0, d, a, b, 17⟩, 0, 0⟩
  | .max d a b => some ⟨⟨0, 0, d, a, b, 18⟩, 0, 0⟩
  | .minu d a b => some ⟨⟨0, 0, d, a, b, 19⟩, 0, 0⟩
  | .maxu d a b => some ⟨⟨0, 0, d, a, b, 20⟩, 0, 0⟩
  | .popc d a => some ⟨⟨0, 0, d, a, 0, 21⟩, 0, 0⟩
  | .clz d a => some ⟨⟨0, 0, d, a, 0, 22⟩, 0, 0⟩
  | .ctz d a => some ⟨⟨0, 0, d, a, 0, 23⟩, 0, 0⟩
  | .seq d a b => some ⟨⟨0, 0, d, a, b, 24⟩, 0, 0⟩
  | .sne d a b => some ⟨⟨0, 0, d, a, b, 25⟩, 0, 0⟩
  | .slt d a b => some ⟨⟨0, 0, d, a, b, 26⟩, 0, 0⟩
  | .sltu d a b => some ⟨⟨0, 0, d, a, b, 27⟩, 0, 0⟩
  | .brev d a => some ⟨⟨0, 0, d, a, 0, 28⟩, 0, 0⟩
  | .mov d a => some ⟨⟨0, 0, d, a, 0, 29⟩, 0, 0⟩
  | .addi d a i => some ⟨fieldsI 0 1 (d) (a) i, 0, 0⟩
  | .addi64 d a i => some ⟨⟨1, 1, d, a, 0, 0⟩, i, 0⟩
  | .andi d a i => some ⟨fieldsI 0 2 (d) (a) i, 0, 0⟩
  | .andi64 d a i => some ⟨⟨1, 2, d, a, 0, 0⟩, i, 0⟩
  | .ori d a i => some ⟨fieldsI 0 3 (d) (a) i, 0, 0⟩
  | .ori64 d a i => some ⟨⟨1, 3, d, a, 0, 0⟩, i, 0⟩
  | .xori d a i => some ⟨fieldsI 0 4 (d) (a) i, 0, 0⟩
  | .xori64 d a i => some ⟨⟨1, 4, d, a, 0, 0⟩, i, 0⟩
  | .slti d a i => some ⟨fieldsI 0 6 (d) (a) i, 0, 0⟩
  | .slti64 d a i => some ⟨⟨1, 6, d, a, 0, 0⟩, i, 0⟩
  | .shli d a n => some ⟨⟨0, 5, d, a, n, 0⟩, 0, 0⟩
  | .shri d a n => some ⟨⟨0, 5, d, a, n, 1⟩, 0, 0⟩
  | .sari d a n => some ⟨⟨0, 5, d, a, n, 2⟩, 0, 0⟩
  | .li d i => some ⟨fieldsI 0 7 (d) (0) i, 0, 0⟩
  | .li64 d i => some ⟨⟨1, 7, d, 0, 0, 0⟩, i, 0⟩
  | .lih d a i => some ⟨⟨1, 11, d, a, 0, 0⟩, i, 0⟩
  | .addr d a b t => some ⟨⟨0, 8, d, a, b, t.setWidth 6⟩, 0, 0⟩
  | .colxCol d a => some ⟨⟨0, 9, d, a, 0, 0⟩, 0, 0⟩
  | .colxOff d a => some ⟨⟨0, 9, d, a, 0, 1⟩, 0, 0⟩
  | .colxTag d a => some ⟨⟨0, 9, d, a, 0, 2⟩, 0, 0⟩
  | .mad d a b c => some ⟨⟨0, 10, d, a, b, c⟩, 0, 0⟩
  | .br c a b o => some ⟨⟨1, 16, 0, a, b, brCode c⟩, o, 0⟩
  | .jmp o => some ⟨⟨1, 17, 0, 0, 0, 0⟩, o, 0⟩
  | .call o => some ⟨⟨1, 18, 0, 0, 0, 0⟩, o, 0⟩
  | .jr a => some ⟨⟨0, 19, 0, a, 0, 0⟩, 0, 0⟩
  | .callr a => some ⟨⟨0, 20, 0, a, 0, 0⟩, 0, 0⟩
  | .split p t x => some ⟨⟨2, 21, 0, p.setWidth 6, 0, 0⟩, t, x⟩
  | .splitN p t x => some ⟨⟨2, 21, 0, p.setWidth 6, 0, 1⟩, t, x⟩
  | .fuse => some ⟨⟨0, 22, 0, 0, 0, 0⟩, 0, 0⟩
  | .callv v => some ⟨⟨1, 23, 0, 0, 0, 0⟩, xv v true false, 0⟩
  | .sld d a z => some ⟨⟨0, 24, d, a, 0, z.setWidth 6⟩, 0, 0⟩
  | .sld64 d a z o => some ⟨⟨1, 24, d, a, 0, z.setWidth 6⟩, o, 0⟩
  | .sst a b z => some ⟨⟨0, 25, 0, a, b, z.setWidth 6⟩, 0, 0⟩
  | .sst64 a b z o => some ⟨⟨1, 25, 0, a, b, z.setWidth 6⟩, o, 0⟩
  | .satom d a b k c z r s => some ⟨⟨1, 26, d, a, b, atomCode k⟩, xc s r (atomTag z c) 0 false, 0⟩
  | .xatom d a b k c z r s => some ⟨⟨1, 27, d, a, b, atomCode k⟩, xc s r (atomTag z c) 0 false, 0⟩
  | .fence r s => some ⟨⟨1, 28, 0, 0, 0, 0⟩, xc s r 0 0 false, 0⟩
  | .spref a => some ⟨⟨0, 29, 0, a, 0, 0⟩, 0, 0⟩
  | .spref64 a o => some ⟨⟨1, 29, 0, a, 0, 0⟩, o, 0⟩
  | .lx st n => some ⟨⟨1, 32, 0, 0, 0, 0⟩, xl st n, 0⟩
  | .strmDef a q => some ⟨⟨1, 33, 0, a, 0, 0⟩, q.setWidth 32, 0⟩
  | .strmGo m => some ⟨⟨1, 33, 0, 0, 0, 1⟩, m.setWidth 32, 0⟩
  | .strmStop m => some ⟨⟨1, 33, 0, 0, 0, 2⟩, m.setWidth 32, 0⟩
  | .shape d x => some ⟨⟨1, 34, d, 0, 0, 0⟩, xs x, 0⟩
  | .vget d a v pr => some ⟨⟨1, 35, d, a, 0, 0⟩, xv v pr false, 0⟩
  | .vput a b v pr => some ⟨⟨1, 36, 0, a, b, 0⟩, xv v pr false, 0⟩
  | .vputAll a v pr => some ⟨⟨1, 36, 0, a, 0, 0⟩, xv v pr true, 0⟩
  | .pget d p => some ⟨⟨0, 37, d, p.setWidth 6, 0, 0⟩, 0, 0⟩
  | .pput a p => some ⟨⟨0, 38, 0, a, p.setWidth 6, 0⟩, 0, 0⟩
  | .waitp a p => some ⟨⟨0, 39, 0, a, p.setWidth 6, 0⟩, 0, 0⟩
  | .crewJoin d a => some ⟨⟨0, 40, d, a, 0, 0⟩, 0, 0⟩
  | .crewLeave d a => some ⟨⟨0, 40, d, a, 0, 1⟩, 0, 0⟩
  | .crewSize d a => some ⟨⟨0, 40, d, a, 0, 2⟩, 0, 0⟩
  | .crewRank d a => some ⟨⟨0, 40, d, a, 0, 3⟩, 0, 0⟩
  | .bar a s => some ⟨⟨1, 41, 0, a, 0, 0⟩, xc s .ar 0 0 false, 0⟩
  | .barSwap a s => some ⟨⟨1, 41, 0, a, 0, 1⟩, xc s .ar 0 0 false, 0⟩
  | .abarInit a b r s => some ⟨⟨1, 42, 0, a, b, 0⟩, xc s r 0 0 false, 0⟩
  | .abarArrive d a b r s => some ⟨⟨1, 42, d, a, b, 1⟩, xc s r 0 0 false, 0⟩
  | .abarExpect d a b r s => some ⟨⟨1, 42, d, a, b, 2⟩, xc s r 0 0 false, 0⟩
  | .abarWait a b r s => some ⟨⟨1, 42, 0, a, b, 3⟩, xc s r 0 0 false, 0⟩
  | .abarTest d a b r s => some ⟨⟨1, 42, d, a, b, 4⟩, xc s r 0 0 false, 0⟩
  | .crgnOpen o => some ⟨⟨1, 43, 0, 0, 0, 0⟩, o, 0⟩
  | .crgnClose => some ⟨⟨0, 43, 0, 0, 0, 1⟩, 0, 0⟩
  | .sigck v => some ⟨⟨1, 44, 0, 0, 0, 0⟩, v, 0⟩
  | .pairBegin n => some ⟨⟨1, 45, 0, 0, 0, 0⟩, xc .wch .rlx 0 n false, 0⟩
  | .pairEnd => some ⟨⟨0, 45, 0, 0, 0, 1⟩, 0, 0⟩
  | .yield => some ⟨⟨0, 46, 0, 0, 0, 0⟩, 0, 0⟩
  | .tcopy a b nb s => some ⟨⟨1, 48, 0, a, b, 0⟩, xc s .rel 0 0 nb, 0⟩
  | .wload w a b dst n nb s => some ⟨⟨1, 49, 0, a, b, bit w⟩, xc s .rel dst n nb, 0⟩
  | .collAllred t dr b g s => some ⟨⟨1, 50, 0, t.setWidth 6, b, drCode dr 0⟩, xc s .rel g 0 false, 0⟩
  | .collReduce t dr b g s => some ⟨⟨1, 50, 0, t.setWidth 6, b, drCode dr 1⟩, xc s .rel g 0 false, 0⟩
  | .collBcast t dr b g s => some ⟨⟨1, 50, 0, t.setWidth 6, b, drCode dr 2⟩, xc s .rel g 0 false, 0⟩
  | .collGather t dr b g s => some ⟨⟨1, 50, 0, t.setWidth 6, b, drCode dr 3⟩, xc s .rel g 0 false, 0⟩
  | .collRscat t dr b g s => some ⟨⟨1, 50, 0, t.setWidth 6, b, drCode dr 4⟩, xc s .rel g 0 false, 0⟩
  | .collRot t dr b g s => some ⟨⟨1, 50, 0, t.setWidth 6, b, drCode dr 5⟩, xc s .rel g 0 false, 0⟩
  | .collProg t dr b g s => some ⟨⟨1, 50, 0, t.setWidth 6, b, drCode dr 6⟩, xc s .rel g 0 false, 0⟩
  | .collDefine b g s => some ⟨⟨1, 50, 0, 0, b, 7⟩, xc s .rel g 0 false, 0⟩
  | .collRelease g s => some ⟨⟨1, 50, 0, 0, 0, 15⟩, xc s .rel g 0 false, 0⟩
  | .collAbort g s => some ⟨⟨1, 50, 0, 0, 0, 23⟩, xc s .rel g 0 false, 0⟩
  | .solic k a b cr ro cx s => some ⟨⟨1, 51, 0, a, b, k.setWidth 6⟩, xc s .ar cr (ro.setWidth 12) cx, 0⟩
  | .auct a b nb s => some ⟨⟨1, 52, 0, a, b, 0⟩, xc s .rel 0 0 nb, 0⟩
  | .slotLook d a => some ⟨⟨0, 53, d, a, 0, 0⟩, 0, 0⟩
  | .slotVict d => some ⟨⟨0, 53, d, 0, 0, 1⟩, 0, 0⟩
  | .slotFill d a => some ⟨⟨0, 53, d, a, 0, 2⟩, 0, 0⟩
  | .slotClr d a => some ⟨⟨0, 53, d, a, 0, 3⟩, 0, 0⟩
  | .recd d a q => some ⟨⟨1, 54, d, a, 0, 0⟩, xc .wch .rlx (q.setWidth 8) 0 false, 0⟩
  | .trig a b g => some ⟨⟨1, 55, 0, a, b, 0⟩, xc .wch .rlx 0 g false, 0⟩
  | .sysr d n => some ⟨fieldsI 0 56 (d) (0) n, 0, 0⟩
  | .syswSrseed a => some ⟨fieldsI 0 57 (0) (a) 16, 0, 0⟩
  | .syswFmask a => some ⟨fieldsI 0 57 (0) (a) 8, 0, 0⟩
  | .syswRbnd a => some ⟨fieldsI 0 57 (0) (a) 18, 0, 0⟩
  | .syswSigreg a => some ⟨fieldsI 0 57 (0) (a) 19, 0, 0⟩
  | .syswInject a => some ⟨fieldsI 0 57 (0) (a) 20, 0, 0⟩
  | .sysw a n => some ⟨fieldsI 0 57 (0) (a) n, 0, 0⟩
  | .trap c => some ⟨fieldsI 0 58 (0) (0) c, 0, 0⟩
  | .rte => some ⟨⟨0, 59, 0, 0, 0, 0⟩, 0, 0⟩
  | .exit => some ⟨⟨0, 60, 0, 0, 0, 0⟩, 0, 0⟩
  | .nop => some ⟨⟨0, 61, 0, 0, 0, 0⟩, 0, 0⟩
  | .nop64 x => some ⟨⟨1, 61, 0, 0, 0, 0⟩, x, 0⟩
  | .nop96 x y => some ⟨⟨2, 61, 0, 0, 0, 0⟩, x, y⟩
  | _ => none

/-- The 32-bit candidates (02 R44, R45). -/
def candidate32 (f : Fields) : Option Instr :=
  match f.maj.toNat with
  | 0x00 =>
      match f.m.toNat with
      | 0 => some (.add f.d f.a f.b)
      | 1 => some (.sub f.d f.a f.b)
      | 2 => some (.mul f.d f.a f.b)
      | 3 => some (.mulh f.d f.a f.b)
      | 4 => some (.mulhu f.d f.a f.b)
      | 5 => some (.div f.d f.a f.b)
      | 6 => some (.divu f.d f.a f.b)
      | 7 => some (.rem f.d f.a f.b)
      | 8 => some (.remu f.d f.a f.b)
      | 9 => some (.and f.d f.a f.b)
      | 10 => some (.or f.d f.a f.b)
      | 11 => some (.xor f.d f.a f.b)
      | 12 => some (.andn f.d f.a f.b)
      | 13 => some (.shl f.d f.a f.b)
      | 14 => some (.shr f.d f.a f.b)
      | 15 => some (.sar f.d f.a f.b)
      | 16 => some (.rol f.d f.a f.b)
      | 17 => some (.min f.d f.a f.b)
      | 18 => some (.max f.d f.a f.b)
      | 19 => some (.minu f.d f.a f.b)
      | 20 => some (.maxu f.d f.a f.b)
      | 21 => some (.popc f.d f.a)
      | 22 => some (.clz f.d f.a)
      | 23 => some (.ctz f.d f.a)
      | 24 => some (.seq f.d f.a f.b)
      | 25 => some (.sne f.d f.a f.b)
      | 26 => some (.slt f.d f.a f.b)
      | 27 => some (.sltu f.d f.a f.b)
      | 28 => some (.brev f.d f.a)
      | 29 => some (.mov f.d f.a)
      | _ => none
  | 0x01 =>
      some (.addi f.d f.a (imm12 f))
  | 0x02 =>
      some (.andi f.d f.a (imm12 f))
  | 0x03 =>
      some (.ori f.d f.a (imm12 f))
  | 0x04 =>
      some (.xori f.d f.a (imm12 f))
  | 0x06 =>
      some (.slti f.d f.a (imm12 f))
  | 0x05 =>
      match f.m.toNat with
      | 0 => some (.shli f.d f.a f.b)
      | 1 => some (.shri f.d f.a f.b)
      | 2 => some (.sari f.d f.a f.b)
      | _ => none
  | 0x07 =>
      some (.li f.d (imm12 f))
  | 0x08 =>
      some (.addr f.d f.a f.b (f.m.setWidth 4))
  | 0x09 =>
      match f.m.toNat with
      | 0 => some (.colxCol f.d f.a)
      | 1 => some (.colxOff f.d f.a)
      | 2 => some (.colxTag f.d f.a)
      | _ => none
  | 0x0A =>
      some (.mad f.d f.a f.b f.m)
  | 0x13 =>
      some (.jr f.a)
  | 0x14 =>
      some (.callr f.a)
  | 0x16 =>
      some .fuse
  | 0x18 =>
      some (.sld f.d f.a (f.m.setWidth 3))
  | 0x19 =>
      some (.sst f.a f.b (f.m.setWidth 2))
  | 0x1D =>
      some (.spref f.a)
  | 0x25 =>
      some (.pget f.d (f.a.setWidth 4))
  | 0x26 =>
      some (.pput f.a (f.b.setWidth 4))
  | 0x27 =>
      some (.waitp f.a (f.b.setWidth 4))
  | 0x28 =>
      match f.m.toNat with
      | 0 => some (.crewJoin f.d f.a)
      | 1 => some (.crewLeave f.d f.a)
      | 2 => some (.crewSize f.d f.a)
      | 3 => some (.crewRank f.d f.a)
      | _ => none
  | 0x2B =>
      some .crgnClose
  | 0x2D =>
      some .pairEnd
  | 0x2E =>
      some .yield
  | 0x35 =>
      match f.m.toNat with
      | 0 => some (.slotLook f.d f.a)
      | 1 => some (.slotVict f.d)
      | 2 => some (.slotFill f.d f.a)
      | 3 => some (.slotClr f.d f.a)
      | _ => none
  | 0x38 =>
      some (.sysr f.d (imm12 f))
  | 0x39 =>
      if imm12 f = 16 then some (.syswSrseed f.a)
      else if imm12 f = 8 then some (.syswFmask f.a)
      else if imm12 f = 18 then some (.syswRbnd f.a)
      else if imm12 f = 19 then some (.syswSigreg f.a)
      else if imm12 f = 20 then some (.syswInject f.a)
      else some (.sysw f.a (imm12 f))
  | 0x3A =>
      some (.trap (imm12 f))
  | 0x3B =>
      some .rte
  | 0x3C =>
      some .exit
  | 0x3D =>
      some .nop
  | _ => none

/-- The 64-bit candidates (02 R44, R46). -/
def candidate64 (f : Fields) (w1 : W32) : Option Instr :=
  match f.maj.toNat with
  | 0x01 =>
      some (.addi64 f.d f.a w1)
  | 0x02 =>
      some (.andi64 f.d f.a w1)
  | 0x03 =>
      some (.ori64 f.d f.a w1)
  | 0x04 =>
      some (.xori64 f.d f.a w1)
  | 0x06 =>
      some (.slti64 f.d f.a w1)
  | 0x07 =>
      some (.li64 f.d w1)
  | 0x0B =>
      some (.lih f.d f.a w1)
  | 0x10 =>
      (brCond f.m).map fun c => .br c f.a f.b w1
  | 0x11 =>
      some (.jmp w1)
  | 0x12 =>
      some (.call w1)
  | 0x17 =>
      some (.callv (xvReg w1))
  | 0x18 =>
      some (.sld64 f.d f.a (f.m.setWidth 3) w1)
  | 0x19 =>
      some (.sst64 f.a f.b (f.m.setWidth 2) w1)
  | 0x1A =>
      (atomOp f.m).map fun k => .satom f.d f.a f.b k (w1.extractLsb' 6 6) (w1.getLsbD 5) (xcOrd w1) (xcScope w1)
  | 0x1B =>
      (atomOp f.m).map fun k => .xatom f.d f.a f.b k (w1.extractLsb' 6 6) (w1.getLsbD 5) (xcOrd w1) (xcScope w1)
  | 0x1C =>
      some (.fence (xcOrd w1) (xcScope w1))
  | 0x1D =>
      some (.spref64 f.a w1)
  | 0x20 =>
      some (.lx (w1.extractLsb' 0 25) (w1.extractLsb' 25 6))
  | 0x21 =>
      match f.m.toNat with
      | 0 => some (.strmDef f.a (w1.setWidth 3))
      | 1 => some (.strmGo (w1.setWidth 8))
      | 2 => some (.strmStop (w1.setWidth 8))
      | _ => none
  | 0x22 =>
      some (.shape f.d (xsOf w1))
  | 0x23 =>
      some (.vget f.d f.a (xvReg w1) (w1.getLsbD 9))
  | 0x24 =>
      if w1.getLsbD 10 then some (.vputAll f.a (xvReg w1) (w1.getLsbD 9)) else some (.vput f.a f.b (xvReg w1) (w1.getLsbD 9))
  | 0x29 =>
      match f.m.toNat with
      | 0 => some (.bar f.a (xcScope w1))
      | 1 => some (.barSwap f.a (xcScope w1))
      | _ => none
  | 0x2A =>
      match f.m.toNat with
      | 0 => some (.abarInit f.a f.b (xcOrd w1) (xcScope w1))
      | 1 => some (.abarArrive f.d f.a f.b (xcOrd w1) (xcScope w1))
      | 2 => some (.abarExpect f.d f.a f.b (xcOrd w1) (xcScope w1))
      | 3 => some (.abarWait f.a f.b (xcOrd w1) (xcScope w1))
      | 4 => some (.abarTest f.d f.a f.b (xcOrd w1) (xcScope w1))
      | _ => none
  | 0x2B =>
      some (.crgnOpen w1)
  | 0x2C =>
      some (.sigck w1)
  | 0x2D =>
      some (.pairBegin (xcCount w1))
  | 0x30 =>
      some (.tcopy f.a f.b (w1.getLsbD 25) (xcScope w1))
  | 0x31 =>
      some (.wload (f.m.getLsbD 0) f.a f.b (xcTag w1) (xcCount w1) (w1.getLsbD 25) (xcScope w1))
  | 0x32 =>
      match (f.m.extractLsb' 0 3).toNat, f.m.toNat with
      | 0, _ => some (.collAllred (f.a.setWidth 3) (f.m.extractLsb' 3 2) f.b (xcTag w1) (xcScope w1))
      | 1, _ => some (.collReduce (f.a.setWidth 3) (f.m.extractLsb' 3 2) f.b (xcTag w1) (xcScope w1))
      | 2, _ => some (.collBcast (f.a.setWidth 3) (f.m.extractLsb' 3 2) f.b (xcTag w1) (xcScope w1))
      | 3, _ => some (.collGather (f.a.setWidth 3) (f.m.extractLsb' 3 2) f.b (xcTag w1) (xcScope w1))
      | 4, _ => some (.collRscat (f.a.setWidth 3) (f.m.extractLsb' 3 2) f.b (xcTag w1) (xcScope w1))
      | 5, _ => some (.collRot (f.a.setWidth 3) (f.m.extractLsb' 3 2) f.b (xcTag w1) (xcScope w1))
      | 6, _ => some (.collProg (f.a.setWidth 3) (f.m.extractLsb' 3 2) f.b (xcTag w1) (xcScope w1))
      | 7, 7 => some (.collDefine f.b (xcTag w1) (xcScope w1))
      | 7, 15 => some (.collRelease (xcTag w1) (xcScope w1))
      | 7, 23 => some (.collAbort (xcTag w1) (xcScope w1))
      | _, _ => none
  | 0x33 =>
      some (.solic (f.m.setWidth 2) f.a f.b (xcTag w1) (w1.extractLsb' 13 2) (w1.getLsbD 25) (xcScope w1))
  | 0x34 =>
      some (.auct f.a f.b (w1.getLsbD 25) (xcScope w1))
  | 0x36 =>
      some (.recd f.d f.a (w1.extractLsb' 5 6))
  | 0x37 =>
      some (.trig f.a f.b (xcCount w1))
  | 0x3D =>
      some (.nop64 w1)
  | _ => none

/-- The 96-bit candidates (02 R44). -/
def candidate96 (f : Fields) (w1 w2 : W32) : Option Instr :=
  match f.maj.toNat with
  | 0x15 =>
      match f.m.toNat with
      | 0 => some (.split (f.a.setWidth 4) w1 w2)
      | 1 => some (.splitN (f.a.setWidth 4) w1 w2)
      | _ => none
  | 0x3D =>
      some (.nop96 w1 w2)
  | _ => none

/-- The candidate for three words, of which the length code says how many are the instruction's (02 R37). -/
def candidate (w : CtlWords) : Option Instr :=
  match w.f.len.toNat with
  | 0 => candidate32 w.f
  | 1 => candidate64 w.f w.w1
  | 2 => candidate96 w.f w.w1 w.w2
  | _ => none

/-- The words beyond the instruction's length do not belong to it. -/
def trimWords (w : CtlWords) : CtlWords :=
  match w.f.len.toNat with
  | 0 => ⟨w.f, 0, 0⟩
  | 1 => ⟨w.f, w.w1, 0⟩
  | _ => w

/-- The control instruction that three words are, where the maps define it (02 R41, R52). -/
def decodeControl (w : CtlWords) : Option Instr :=
  match candidate (trimWords w) with
  | none => none
  | some i => if i.controlRanges && decide (encodeControl i = some (trimWords w)) then some i else none

/-- The control instruction at a place, RESERVED_ENCODING where the maps do not define it (02 R52). -/
def decode (w0 w1 w2 : W32) : Instr := (decodeControl ⟨unpackFields w0, w1, w2⟩).getD (.reservedEncoding w0)

/-- The length of an instruction in 32-bit words from its word 0 (02 R37). -/
def lenWords (w0 : W32) : Nat :=
  match (w0.extractLsb' 0 2).toNat with
  | 0 => 1
  | 1 => 2
  | 2 => 3
  | _ => 1

/-- Four bytes as a word, the lowest address first (00 R5). -/
def wordOfBytes (b0 b1 b2 b3 : Byte) : W32 := b3 ++ b2 ++ b1 ++ b0

/-- The control instruction in a list of bytes, the lowest address first; bytes that are missing read as 0. -/
def decodeBytes (l : List Byte) : Option Instr :=
  let b (k : Nat) : Byte := l.getD k 0
  decodeControl ⟨unpackFields (wordOfBytes (b 0) (b 1) (b 2) (b 3)), wordOfBytes (b 4) (b 5) (b 6) (b 7),
    wordOfBytes (b 8) (b 9) (b 10) (b 11)⟩

/-- The bytes of an instruction whose bits the opcode table numbers from the least significant bit of its first word. -/
def tableBytes (w : Nat) : List Byte := (List.range 12).map fun k => BitVec.ofNat 8 (w >>> (8 * k))

/-- The instruction that the decoder reads from a word of the opcode table. -/
def decodeTableWord (nbits w : Nat) : Option Instr := decodeBytes (tableBytes (w % 2 ^ nbits))

/-- A lane instruction's opcode and operands (02 R51). -/
def encodeLaneOp : Instr → Option (BitVec 8 × LaneOps)
  | .iadd o => some (0x00, o)
  | .isub o => some (0x01, o)
  | .imul o => some (0x02, o)
  | .imulh o => some (0x03, o)
  | .imulhu o => some (0x04, o)
  | .imin o => some (0x06, o)
  | .imax o => some (0x07, o)
  | .iminu o => some (0x08, o)
  | .imaxu o => some (0x09, o)
  | .iand o => some (0x0C, o)
  | .ior o => some (0x0D, o)
  | .ixor o => some (0x0E, o)
  | .laneShl o => some (0x10, o)
  | .laneShr o => some (0x11, o)
  | .laneSar o => some (0x12, o)
  | .rot o => some (0x13, o)
  | .iadds o => some (0x19, o)
  | .isubs o => some (0x1A, o)
  | .iabs o => some (0x0A, o)
  | .ineg o => some (0x0B, o)
  | .inot o => some (0x0F, o)
  | .lanePopc o => some (0x14, o)
  | .laneClz o => some (0x15, o)
  | .laneBrev o => some (0x16, o)
  | .laneMov o => some (0x22, o)
  | .imad o => some (0x05, o)
  | .dot4 o => some (0x1B, o)
  | .iaddc o => some (0x1C, o)
  | .imulw o => some (0x1D, o)
  | .bfx o => some (0x17, o)
  | .bfi o => some (0x18, o)
  | .icmp o => some (0x20, o)
  | .sel o => some (0x21, o)
  | .lid o => some (0x23, o)
  | .fadd o => some (0x40, o)
  | .fsub o => some (0x41, o)
  | .fmul o => some (0x42, o)
  | .ffma o => some (0x43, o)
  | .fmin o => some (0x44, o)
  | .fmax o => some (0x45, o)
  | .fabs o => some (0x46, o)
  | .fneg o => some (0x47, o)
  | .fcmp o => some (0x48, o)
  | .fclass o => some (0x49, o)
  | .frint o => some (0x4A, o)
  | .hadd2 o => some (0x50, o)
  | .hmul2 o => some (0x51, o)
  | .hfma2 o => some (0x52, o)
  | .hmin2 o => some (0x53, o)
  | .hmax2 o => some (0x54, o)
  | .rcp o => some (0xE0, o)
  | .rsq o => some (0xE1, o)
  | .sqrt o => some (0xE2, o)
  | .exp2 o => some (0xE3, o)
  | .log2 o => some (0xE4, o)
  | .sin o => some (0xE5, o)
  | .cos o => some (0xE6, o)
  | .tanh o => some (0xE7, o)
  | .sigm o => some (0xE8, o)
  | .cvt o => some (0x80, o)
  | .pack o => some (0x82, o)
  | .unpk o => some (0x83, o)
  | .qnt o => some (0x81, o)
  | .scale o => some (0x84, o)
  | .amax o => some (0x85, o)
  | .shfl o => some (0xC0, o)
  | .ballot o => some (0xC1, o)
  | .bplane o => some (0xC2, o)
  | .vred o => some (0xC3, o)
  | .vscan o => some (0xC4, o)
  | .ld o => some (0xA0, o)
  | .st o => some (0xA1, o)
  | .atom o => some (0xA2, o)
  | .fatom o => some (0xA3, o)
  | .fatomMore o => some (0xA3, o)
  | .fatomSkip o => some (0xA3, o)
  | .acpy o => some (0xA4, o)
  | .xst o => some (0xC5, o)
  | .mma o => some (0xD0, o)
  | .msoft o => some (0xD1, o)
  | .tmovTv o => some (0xD2, o)
  | .tmovVt o => some (0xD2, o)
  | .tclr o => some (0xD3, o)
  | .tscl o => some (0xD4, o)
  | .tsclPend o => some (0xD4, o)
  | .tsclDivl o => some (0xD4, o)
  | .tdrn o => some (0xD5, o)
  | _ => none

/-- The lane instruction of an opcode (02 R51); the rows of one opcode differ by MOD or by word 2. -/
def laneOfOp (op : BitVec 8) (o : LaneOps) : Option Instr :=
  match op.toNat with
  | 0x00 => some (.iadd o)
  | 0x01 => some (.isub o)
  | 0x02 => some (.imul o)
  | 0x03 => some (.imulh o)
  | 0x04 => some (.imulhu o)
  | 0x05 => some (.imad o)
  | 0x06 => some (.imin o)
  | 0x07 => some (.imax o)
  | 0x08 => some (.iminu o)
  | 0x09 => some (.imaxu o)
  | 0x0A => some (.iabs o)
  | 0x0B => some (.ineg o)
  | 0x0C => some (.iand o)
  | 0x0D => some (.ior o)
  | 0x0E => some (.ixor o)
  | 0x0F => some (.inot o)
  | 0x10 => some (.laneShl o)
  | 0x11 => some (.laneShr o)
  | 0x12 => some (.laneSar o)
  | 0x13 => some (.rot o)
  | 0x14 => some (.lanePopc o)
  | 0x15 => some (.laneClz o)
  | 0x16 => some (.laneBrev o)
  | 0x17 => some (.bfx o)
  | 0x18 => some (.bfi o)
  | 0x19 => some (.iadds o)
  | 0x1A => some (.isubs o)
  | 0x1B => some (.dot4 o)
  | 0x1C => some (.iaddc o)
  | 0x1D => some (.imulw o)
  | 0x20 => some (.icmp o)
  | 0x21 => some (.sel o)
  | 0x22 => some (.laneMov o)
  | 0x23 => some (.lid o)
  | 0x40 => some (.fadd o)
  | 0x41 => some (.fsub o)
  | 0x42 => some (.fmul o)
  | 0x43 => some (.ffma o)
  | 0x44 => some (.fmin o)
  | 0x45 => some (.fmax o)
  | 0x46 => some (.fabs o)
  | 0x47 => some (.fneg o)
  | 0x48 => some (.fcmp o)
  | 0x49 => some (.fclass o)
  | 0x4A => some (.frint o)
  | 0x50 => some (.hadd2 o)
  | 0x51 => some (.hmul2 o)
  | 0x52 => some (.hfma2 o)
  | 0x53 => some (.hmin2 o)
  | 0x54 => some (.hmax2 o)
  | 0x80 => some (.cvt o)
  | 0x81 => some (.qnt o)
  | 0x82 => some (.pack o)
  | 0x83 => some (.unpk o)
  | 0x84 => some (.scale o)
  | 0x85 => some (.amax o)
  | 0xA0 => some (.ld o)
  | 0xA1 => some (.st o)
  | 0xA2 => some (.atom o)
  | 0xA3 => if o.md.extractLsb' 0 2 = 1 then some (.fatomMore o)
      else if o.md.extractLsb' 0 2 = 2 then some (.fatomSkip o) else some (.fatom o)
  | 0xA4 => some (.acpy o)
  | 0xC0 => some (.shfl o)
  | 0xC1 => some (.ballot o)
  | 0xC2 => some (.bplane o)
  | 0xC3 => some (.vred o)
  | 0xC4 => some (.vscan o)
  | 0xC5 => some (.xst o)
  | 0xD0 => some (.mma o)
  | 0xD1 => some (.msoft o)
  | 0xD2 => if o.md.getLsbD 0 then some (.tmovVt o) else some (.tmovTv o)
  | 0xD3 => some (.tclr o)
  | 0xD4 => if o.lit.extractLsb' 0 2 = 1 then some (.tsclPend o)
      else if o.lit.extractLsb' 0 2 = 2 then some (.tsclDivl o) else some (.tscl o)
  | 0xD5 => some (.tdrn o)
  | 0xE0 => some (.rcp o)
  | 0xE1 => some (.rsq o)
  | 0xE2 => some (.sqrt o)
  | 0xE3 => some (.exp2 o)
  | 0xE4 => some (.log2 o)
  | 0xE5 => some (.sin o)
  | 0xE6 => some (.cos o)
  | 0xE7 => some (.tanh o)
  | 0xE8 => some (.sigm o)
  | _ => none

/-- Word 0 of a lane instruction (02 R47). -/
def laneWord0 (op : BitVec 8) (o : LaneOps) : W32 :=
  (0 : BitVec 2) ++ (if o.chain then (1 : BitVec 1) else 0) ++ o.a ++ (if o.nw then (1 : BitVec 1) else 0) ++ o.d ++ op ++
    (2 : BitVec 2)

/-- Word 1 of a lane instruction (02 R47). -/
def laneWord1 (o : LaneOps) : W32 :=
  o.md ++ o.ty ++ (if o.pneg then (1 : BitVec 1) else 0) ++ o.p ++ o.c ++ o.b

/-- The operands in the three words of a lane instruction (02 R47). -/
def laneFields (w0 w1 w2 : W32) : LaneOps :=
  { d := w0.extractLsb' 10 9, nw := w0.getLsbD 19, a := w0.extractLsb' 20 9, chain := w0.getLsbD 29
    b := w1.extractLsb' 0 9, c := w1.extractLsb' 9 9, p := w1.extractLsb' 18 4, pneg := w1.getLsbD 22
    ty := w1.extractLsb' 23 4, md := w1.extractLsb' 27 5, lit := w2 }

/-- The words of a lane instruction (02 R47). -/
def encodeLane (i : Instr) : Option (W32 × W32 × W32) :=
  (encodeLaneOp i).map fun (op, o) => (laneWord0 op o, laneWord1 o, o.lit)

/-- The lane instruction that three words are: none where LEN, [31:30] or the opcode make it a LANEOP (02 R52). -/
def decodeLane (w0 w1 w2 : W32) : Option Instr :=
  if w0.extractLsb' 0 2 = 2 ∧ w0.extractLsb' 30 2 = 0 then laneOfOp (w0.extractLsb' 2 8) (laneFields w0 w1 w2) else none

/-- A chunk word from its fields (02 R53). -/
def chunkWord (op ch dt fn : B4) (peer ck n : B16) : Word := n ++ ck ++ peer ++ fn ++ dt ++ ch ++ op

/-- The chunk word of an instruction (02 R54). -/
def encodeChunk : Instr → Option Word
  | .chunkSend ch dt peer ck n => some (chunkWord 0 ch dt 0 peer ck n)
  | .chunkRecv ch dt peer ck n => some (chunkWord 1 ch dt 0 peer ck n)
  | .chunkRred ch dt fn peer ck n => some (chunkWord 2 ch dt fn peer ck n)
  | .chunkCopy ch dst ck n => some (chunkWord 3 ch 0 0 dst ck n)
  | .chunkWait ck n => some (chunkWord 4 0 0 0 0 ck n)
  | .chunkSig peer n => some (chunkWord 5 0 0 0 peer 0 n)
  | .chunkLoop n => some (chunkWord 6 0 0 0 0 0 n)
  | .chunkNext => some (chunkWord 7 0 0 0 0 0 0)
  | .chunkMcast ch dt ck n => some (chunkWord 8 ch dt 0 0 ck n)
  | .chunkRoute dev ck => some (chunkWord 9 0 0 0 dev ck 0)
  | .chunkBar => some (chunkWord 10 0 0 0 0 0 0)
  | .chunkEnd => some (chunkWord 15 0 0 0 0 0 0)
  | _ => none

/-- The candidate for a chunk word, none for a reserved opcode (02 R53). -/
def chunkCandidate (w : Word) : Option Instr :=
  match (w.extractLsb' 0 4).toNat with
  | 0 => some (.chunkSend (w.extractLsb' 4 4) (w.extractLsb' 8 4) (w.extractLsb' 16 16) (w.extractLsb' 32 16) (w.extractLsb' 48 16))
  | 1 => some (.chunkRecv (w.extractLsb' 4 4) (w.extractLsb' 8 4) (w.extractLsb' 16 16) (w.extractLsb' 32 16) (w.extractLsb' 48 16))
  | 2 => some (.chunkRred (w.extractLsb' 4 4) (w.extractLsb' 8 4) (w.extractLsb' 12 4) (w.extractLsb' 16 16) (w.extractLsb' 32 16) (w.extractLsb' 48 16))
  | 3 => some (.chunkCopy (w.extractLsb' 4 4) (w.extractLsb' 16 16) (w.extractLsb' 32 16) (w.extractLsb' 48 16))
  | 4 => some (.chunkWait (w.extractLsb' 32 16) (w.extractLsb' 48 16))
  | 5 => some (.chunkSig (w.extractLsb' 16 16) (w.extractLsb' 48 16))
  | 6 => some (.chunkLoop (w.extractLsb' 48 16))
  | 7 => some .chunkNext
  | 8 => some (.chunkMcast (w.extractLsb' 4 4) (w.extractLsb' 8 4) (w.extractLsb' 32 16) (w.extractLsb' 48 16))
  | 9 => some (.chunkRoute (w.extractLsb' 16 16) (w.extractLsb' 32 16))
  | 10 => some .chunkBar
  | 15 => some .chunkEnd
  | _ => none

/-- What a chunk word is (02 R52): an instruction, a reserved opcode (BADOP), or a field outside its range (BADFLD). -/
inductive ChunkDecoded where
  | ok (i : Instr)
  | badOp
  | badField
  deriving DecidableEq, Repr

/-- Decode a chunk word (02 R52 to R54). -/
def decodeChunk (w : Word) : ChunkDecoded :=
  match chunkCandidate w with
  | none => .badOp
  | some i => if i.chunkRanges && decide (encodeChunk i = some w) then .ok i else .badField

/-- The words of an instruction (02 R37, R47, R53), the first at the lowest address; none for a step that has no words. -/
def encode (i : Instr) : Option (List W32) :=
  match encodeControl i, encodeLane i, encodeChunk i with
  | some w, _, _ => some ([packFields w.f, w.w1, w.w2].take (lenWords (packFields w.f)))
  | none, some (a, b, c), _ => some [a, b, c]
  | none, none, some w => some [w.extractLsb' 0 32, w.extractLsb' 32 32]
  | none, none, none => none

end Sys2Proof
end

