-- ==== Sys2Proof/Machine/Formats.lean ====
section
/-! DEFINITION. The number formats, rounding and exact arithmetic (03 R70 to R85). A value is a NaN, an infinity, or an exact
dyadic number; every narrowing chooses a point of the format's extended grid and then takes R78's overflow rule. -/

namespace Sys2Proof.Machine

/-- The floating formats (03 R70). -/
inductive Fm where
  | f32 | f16 | bf16 | e4m3 | e5m2 | e2m1 | e3m5 | e8m0
  deriving DecidableEq, Repr

/-- A value: a NaN with its mantissa aligned to the 23 bits of FP32 (R79), an infinity, or ±man × 2^exp. -/
inductive Val where
  | nan (neg : Bool) (m : Nat)
  | inf (neg : Bool)
  | fin (neg : Bool) (man : Nat) (exp : Int)
  deriving DecidableEq, Repr

/-- The rounding modes (R77), stochastic rounding with its draw u (R85). -/
inductive Rm where
  | rne | rtz | rdn | rup
  | sr (u : Nat)
  deriving DecidableEq, Repr

/-- The mantissa bits of a format (R70). -/
def Fm.mbits : Fm → Nat
  | .f32 => 23 | .f16 => 10 | .bf16 => 7 | .e4m3 => 3 | .e5m2 => 2 | .e2m1 => 1 | .e3m5 => 5 | .e8m0 => 0

/-- The exponent bits of a format (R70). -/
def Fm.ebits : Fm → Nat
  | .f32 => 8 | .f16 => 5 | .bf16 => 8 | .e4m3 => 4 | .e5m2 => 5 | .e2m1 => 2 | .e3m5 => 3 | .e8m0 => 8

/-- The bias of a format (R70). -/
def Fm.bias : Fm → Int
  | .f32 => 127 | .f16 => 15 | .bf16 => 127 | .e4m3 => 7 | .e5m2 => 15 | .e2m1 => 1 | .e3m5 => 3 | .e8m0 => 127

/-- Whether a format has a sign bit (R70). -/
def Fm.signed : Fm → Bool
  | .e3m5 | .e8m0 => false
  | _ => true

/-- Whether the exponent of all ones is infinity and NaN (R70). -/
def Fm.ieee : Fm → Bool
  | .f32 | .f16 | .bf16 | .e5m2 => true
  | _ => false

/-- Whether FTZ applies to the format (R80, R151). -/
def Fm.flushes : Fm → Bool
  | .f32 | .f16 | .bf16 => true
  | _ => false

/-- The code of the largest finite value, without its sign (R70). -/
def Fm.maxCode : Fm → Nat
  | .f32 => 0x7F7FFFFF | .f16 => 0x7BFF | .bf16 => 0x7F7F | .e4m3 => 0x7E | .e5m2 => 0x7B | .e2m1 => 0x7 | .e3m5 => 0xFF
  | .e8m0 => 0xFE

/-- The sign bit's weight. -/
def Fm.signBit (f : Fm) (neg : Bool) : Nat := if neg && f.signed then 2 ^ (f.ebits + f.mbits) else 0

/-- The exponent of the smallest unit (R71). -/
def Fm.qmin (f : Fm) : Int := 1 - f.bias - f.mbits

/-- The value of a code (R71). -/
def decodeVal (f : Fm) (c : Nat) : Val :=
  let m := c % 2 ^ f.mbits
  let e := (c >>> f.mbits) % 2 ^ f.ebits
  let neg := f.signed && c.testBit (f.ebits + f.mbits)
  let ones := 2 ^ f.ebits - 1
  if f == .e8m0 then (if e = 0xFF then .nan false 0 else .fin false 1 ((e : Int) - 127))
  else if f.ieee && e == ones then (if m = 0 then .inf neg else .nan neg (m <<< (23 - f.mbits)))
  else if f == .e4m3 && e == ones && m == 7 then .nan neg (m <<< 20)
  else if e = 0 then .fin neg m f.qmin
  else .fin neg (m + 2 ^ f.mbits) (f.qmin + ((e : Int) - 1))

/-- The quiet bit set (R79). -/
def quietM (m : Nat) : Nat := m ||| 0x400000

/-- A NaN quieted, anything else unchanged (R79). -/
def Val.quiet : Val → Val
  | .nan n m => .nan n (quietM m)
  | v => v

def Val.isNan : Val → Bool
  | .nan _ _ => true
  | _ => false

def Val.isZero : Val → Bool
  | .fin _ m _ => m == 0
  | _ => false

def Val.neg : Val → Bool
  | .nan n _ => n
  | .inf n => n
  | .fin n _ _ => n

/-- The magnitude. -/
def Val.abs : Val → Val
  | .nan _ m => .nan false m
  | .inf _ => .inf false
  | .fin _ m e => .fin false m e

/-- The sign inverted. -/
def Val.negate : Val → Val
  | .nan n m => .nan (!n) m
  | .inf n => .inf (!n)
  | .fin n m e => .fin (!n) m e

/-- The NaN that an operation without a NaN source yields (R79). -/
def canonNan : Val := .nan false 0x400000

/-- The grid point at or below a non-zero magnitude: its code, what remains above it, and the grid spacing, the last two scaled
alike (R77). For E8M0 the result is none below 2^-127. -/
def gridBelow (f : Fm) (man : Nat) (exp : Int) : Nat × Nat × Nat :=
  let mb := f.mbits
  let lg : Int := exp + (Nat.log2 man : Int)
  if f == .e8m0 then
    if lg < -127 then (0, 0, 1) else
    let q : Int := min 127 lg
    if q ≤ exp then (((q + 127).toNat + (man <<< (exp - q).toNat)) - 1, 0, 1)
    else
      let sh := (q - exp).toNat
      (((q + 127).toNat + (man >>> sh)) - 1, man % 2 ^ sh, 2 ^ sh)
  else
    let qtop : Int := f.qmin + ((f.maxCode >>> mb : Nat) : Int) - 1
    let q : Int := min qtop (max f.qmin (lg - mb))
    let base := ((q - f.qmin).toNat) * 2 ^ mb
    if q ≤ exp then (base + (man <<< (exp - q).toNat), 0, 1)
    else
      let sh := (q - exp).toNat
      (base + (man >>> sh), man % 2 ^ sh, 2 ^ sh)

/-- Whether the mode chooses the grid point above (R77, R85). -/
def roundsUp (m : Rm) (neg : Bool) (code rem unit : Nat) : Bool :=
  match m with
  | .rne => decide (unit < 2 * rem) || (decide (2 * rem = unit) && code % 2 == 1)
  | .rtz => false
  | .rdn => neg && rem != 0
  | .rup => !neg && rem != 0
  | .sr u => decide (u * unit < rem * 2 ^ 32)

/-- The result of an overflow (R78). -/
def overflowCode (f : Fm) (m : Rm) (sat neg : Bool) : Nat :=
  let mx := f.maxCode
  let inf :=
    match f with
    | .e4m3 => 0x7F
    | .e2m1 | .e3m5 => mx
    | .e8m0 => 0xFF
    | f => 2 ^ (f.ebits + f.mbits) - 2 ^ f.mbits
  if sat then mx else
  match m with
  | .rne | .sr _ => inf
  | .rtz => mx
  | .rdn => if neg then inf else mx
  | .rup => if neg then mx else inf

/-- Round(x, f, m) of 00 R9: the code of the rounded value (R77 to R79, R85), zero-extended. -/
def roundVal (f : Fm) (m : Rm) (sat : Bool) (v : Val) : Nat :=
  match v with
  | .nan neg p =>
    match f with
    | .e4m3 => 0x7F + f.signBit neg
    | .e2m1 => 0x7 + f.signBit neg
    | .e3m5 => 0xFF
    | .e8m0 => 0xFF
    | .e5m2 => 0x7E + f.signBit neg
    | f => (2 ^ f.ebits - 1) * 2 ^ f.mbits + (quietM p >>> (23 - f.mbits)) + f.signBit neg
  | .inf neg =>
    match f with
    | .e3m5 => if neg then 0 else 0xFF
    | .e8m0 => if sat && !neg then 0xFE else 0xFF
    | f => (if sat then f.maxCode else overflowCode f .rne false neg) + f.signBit neg
  | .fin neg man exp =>
    if !f.signed && (neg || man == 0) then (if f == .e8m0 then (if sat then 0 else 0xFF) else 0)
    else if man = 0 then f.signBit neg
    else
      let (c, rem, unit) := gridBelow f man exp
      let c := if roundsUp m neg c rem unit then c + 1 else c
      (if c > f.maxCode then overflowCode f m sat neg else c) + f.signBit neg

/-- A subnormal code written as a zero of its sign (R80). -/
def flushCode (f : Fm) (ftz : Bool) (c : Nat) : Nat :=
  if ftz && f.flushes && (c >>> f.mbits) % 2 ^ f.ebits == 0 then f.signBit (c.testBit (f.ebits + f.mbits)) else c

/-- A source read with FTZ (R80). -/
def readVal (f : Fm) (ftz : Bool) (c : Nat) : Val := decodeVal f (flushCode f ftz c)

/-- The larger exponent's mantissa brought to the smaller exponent. -/
def alignTo (e : Int) (neg : Bool) (m : Nat) (em : Int) : Int :=
  let x : Int := ((m <<< (em - e).toNat : Nat) : Int)
  if neg then -x else x

/-- The exact sum (R78: the sign of a zero sum). -/
def addVal (rdn : Bool) (a b : Val) : Val :=
  match a, b with
  | .nan n m, _ => .nan n (quietM m)
  | _, .nan n m => .nan n (quietM m)
  | .inf x, .inf y => if x = y then .inf x else canonNan
  | .inf x, _ => .inf x
  | _, .inf y => .inf y
  | .fin na ma ea, .fin nb mb eb =>
    if ma = 0 ∧ mb = 0 then .fin (if na = nb then na else rdn) 0 0
    else
      let e := min ea eb
      let s := alignTo e na ma ea + alignTo e nb mb eb
      if s = 0 then .fin rdn 0 0 else .fin (decide (s < 0)) s.natAbs e

/-- The exact product (R79). -/
def mulVal (a b : Val) : Val :=
  match a, b with
  | .nan n m, _ => .nan n (quietM m)
  | _, .nan n m => .nan n (quietM m)
  | .inf x, .inf y => .inf (x != y)
  | .inf x, .fin y m _ => if m = 0 then canonNan else .inf (x != y)
  | .fin x m _, .inf y => if m = 0 then canonNan else .inf (x != y)
  | .fin x m e, .fin y m' e' => .fin (x != y) (m * m') (e + e')

/-- a × b + c, exact, the first NaN source in the order a, b, c (R79, 05 R143). -/
def fmaVal (rdn : Bool) (a b c : Val) : Val :=
  if a.isNan then a.quiet else if b.isNan then b.quiet else if c.isNan then c.quiet else addVal rdn (mulVal a b) c

/-- a / b with a sticky last bit, which rounds as the exact quotient does (R78, R79). -/
def divVal (a b : Val) : Val :=
  match a, b with
  | .nan n m, _ => .nan n (quietM m)
  | _, .nan n m => .nan n (quietM m)
  | .inf _, .inf _ => canonNan
  | .inf x, .fin y _ _ => .inf (x != y)
  | .fin x _ _, .inf y => .fin (x != y) 0 0
  | .fin x m e, .fin y m' e' =>
    if m' = 0 then (if m = 0 then canonNan else .inf (x != y))
    else if m = 0 then .fin (x != y) 0 0
    else
      let n := m <<< 96
      .fin (x != y) (2 * (n / m') + (if n % m' = 0 then 0 else 1)) (e - e' - 97)

/-- The integer square root, bit by bit from bit k - 1 down. -/
def isqrtFrom (n : Nat) : Nat → Nat → Nat
  | 0, r => r
  | k + 1, r => let t := r + 2 ^ k; if t * t ≤ n then isqrtFrom n k t else isqrtFrom n k r

/-- √a with a sticky last bit (R79, 05 R149). -/
def sqrtVal : Val → Val
  | .nan n m => .nan n (quietM m)
  | .inf n => if n then canonNan else .inf false
  | .fin n m e =>
    if m = 0 then .fin n 0 0
    else if n then canonNan
    else
      let odd := e % 2 != 0
      let x := (if odd then 2 * m else m) <<< 80
      let e' : Int := (if odd then e - 1 else e) - 80
      let r := isqrtFrom x 64 0
      .fin false (2 * r + (if r * r = x then 0 else 1)) (e' / 2 - 1)

/-- Numeric order of two values that are not NaN: negative, zero or positive (05 R145). -/
def cmpVal (a b : Val) : Int :=
  match a, b with
  | .fin na ma ea, .fin nb mb eb => let e := min ea eb; alignTo e na ma ea - alignTo e nb mb eb
  | .inf n, .inf n' => if n = n' then 0 else if n then -1 else 1
  | .inf n, _ => if n then -1 else 1
  | _, .inf n => if n then 1 else -1
  | _, _ => 0

/-- The floor of a finite value, and whether it is exact; what remains is compared with a half. -/
def floorParts (man : Nat) (exp : Int) : Nat × Nat × Nat :=
  if 0 ≤ exp then (man <<< exp.toNat, 0, 1)
  else let sh := (-exp).toNat; (man >>> sh, man % 2 ^ sh, 2 ^ sh)

/-- A finite value rounded to an integer by the mode (R82, 05 R147): its magnitude. -/
def roundInt (m : Rm) (neg : Bool) (man : Nat) (exp : Int) : Nat :=
  let (c, rem, unit) := floorParts man exp
  if roundsUp m neg c rem unit then c + 1 else c

/-- The type codes that are floating formats (02 R49). -/
def fmOf (t : BitVec 4) : Option Fm :=
  match t.toNat with
  | 0 => some .f32 | 1 => some .f16 | 2 => some .bf16 | 3 => some .e4m3 | 4 => some .e5m2 | 5 => some .e2m1 | 9 => some .e3m5
  | 10 => some .e8m0
  | _ => none

/-- The width of a type (05 R152), 0 where the code is reserved. -/
def tyWidth (t : BitVec 4) : Nat :=
  match t.toNat with
  | 0 | 6 | 7 => 32
  | 1 | 2 => 16
  | 3 | 4 | 8 | 9 | 10 => 8
  | 5 => 4
  | _ => 0

/-- Element e of a 32-bit operand (03 R72). -/
def elemOf (t : BitVec 4) (x : W32) (e : Nat) : Nat := (x.toNat >>> (e * tyWidth t)) % 2 ^ tyWidth t

/-- Element e of a 32-bit register replaced (03 R72). -/
def setElem (t : BitVec 4) (x : W32) (e v : Nat) : W32 :=
  let w := tyWidth t
  let mask := BitVec.ofNat 32 ((2 ^ w - 1) <<< (e * w))
  (x &&& ~~~mask) ||| (BitVec.ofNat 32 ((v % 2 ^ w) <<< (e * w)))

/-- The integer that a code of type I8, I32 or U32 is (R73). -/
def intOf (t : BitVec 4) (c : Nat) : Int :=
  if t == 8 then (BitVec.ofNat 8 c).toInt else if t == 6 then (BitVec.ofNat 32 c).toInt else (BitVec.ofNat 32 c).toNat

/-- The range of an integer type (R73). -/
def intRange (t : BitVec 4) : Int × Int :=
  if t == 8 then (-128, 127) else if t == 6 then (-0x80000000, 0x7FFFFFFF) else (0, 0xFFFFFFFF)

/-- The low bits of an integer's two's-complement image at the width of an integer type (R82). -/
def intCode (t : BitVec 4) (i : Int) : Nat := if t == 8 then (BitVec.ofInt 8 i).toNat else (BitVec.ofInt 32 i).toNat

/-- The exact value of an integer. -/
def ofInt (i : Int) : Val := .fin (decide (i < 0)) i.natAbs 0

/-- A floating value converted to an integer type (R82). -/
def valToInt (t : BitVec 4) (m : Rm) (v : Val) : Nat :=
  let (lo, hi) := intRange t
  match v with
  | .nan _ _ => 0
  | .inf n => intCode t (if n then lo else hi)
  | .fin n man e =>
    let i : Int := roundInt m n man e
    intCode t (clampI (if n then -i else i) lo hi)

/-- Conv of 05 R152: an element of one type converted to another under R78 and R82. -/
def convElem (src dst : BitVec 4) (m : Rm) (sat ftz : Bool) (c : Nat) : Nat :=
  match fmOf src, fmOf dst with
  | some f, some g =>
    let v := readVal f ftz c
    if f = g then
      match v with
      | .nan n p => if f == .f32 || f == .f16 || f == .bf16 || f == .e5m2
          then (2 ^ f.ebits - 1) * 2 ^ f.mbits + (quietM p >>> (23 - f.mbits)) + f.signBit n else c
      | v => flushCode g ftz (roundVal g .rne sat v)
    else flushCode g ftz (roundVal g m sat v)
  | some f, none => valToInt dst m (readVal f ftz c)
  | none, some g => flushCode g ftz (roundVal g m sat (ofInt (intOf src c)))
  | none, none =>
    let i := intOf src c
    let (lo, hi) := intRange dst
    intCode dst (if sat then clampI i lo hi else i)

/-- One step of a lane's generator (R83). -/
def stepGen (g : W32) : W32 := if g.getLsbD 0 then (g >>> 1) ^^^ 0x80200003#32 else g >>> 1

/-- Mix32 of R84. -/
def mix32 (x : W32) : W32 :=
  let x := (x ^^^ (x >>> 16)) * 0x7FEB352D#32
  let x := (x ^^^ (x >>> 15)) * 0x846CA68B#32
  x ^^^ (x >>> 16)

/-- The generator of lane l seeded from wi, the block index and the seed (R84). -/
def seedGen (l wi : Nat) (blk : W32) (seed : Word) : W32 :=
  let h := mix32 (BitVec.ofNat 32 (l + 256 * wi))
  let h := mix32 (h ^^^ blk)
  let h := mix32 (h ^^^ seed.extractLsb' 0 32)
  let h := mix32 (h ^^^ seed.extractLsb' 32 32)
  if h = 0 then 1 else h

/-- A reduce step of a Tender (R91): 0 add, 1 maximum, 2 minimum, on codes of one format. -/
def reduceVal (f : Fm) (fn : Nat) (a b : Nat) : Nat :=
  let va := decodeVal f a
  let vb := decodeVal f b
  if fn = 0 then roundVal f .rne false (addVal false va vb)
  else if va.isNan && vb.isNan then roundVal f .rne false va
  else if va.isNan then b
  else if vb.isNan then a
  else
    let c := cmpVal va vb
    let aLarger := if c = 0 then vb.neg else decide (0 < c)
    if (fn == 1) == aLarger then a else b

end Sys2Proof.Machine
end

