-- ==== Sys2Proof/Config.lean ====
section
/-! DEFINITION. What an implementation fixes and the manual leaves open: constants without a body, so that no proof can see
their values (free values, log 1), and the few placements the model names (log 5). -/

namespace Sys2Proof.Config

/-- The byte that memory key `key` yields while nothing has written it, in memory epoch `epoch` (00 R7, 06 R174; log 1). -/
opaque freeByte (epoch key : Nat) : BitVec 8
/-- A fresh 32-bit undefined value, the n-th drawn (00 R7; log 1). -/
opaque free32 (n : Nat) : BitVec 32
/-- The undefined element `key` of the tiles of watch `w` before anything wrote it (02 R66; log 1). -/
opaque freeTile (w key : Nat) : BitVec 32
/-- How many local cycles CYCLE has advanced at the n-th reading (04 R124; log 6). -/
opaque freeGap (n : Nat) : Nat

/-- RSQ, EXP2, LOG2, SIN, COS, TANH and SIGM on the inputs that 05 R150 does not fix (05 R149; log 10). -/
opaque rsq (a : BitVec 32) : BitVec 32
opaque exp2 (a : BitVec 32) : BitVec 32
opaque log2 (a : BitVec 32) : BitVec 32
opaque sin (a : BitVec 32) : BitVec 32
opaque cos (a : BitVec 32) : BitVec 32
opaque tanh (a : BitVec 32) : BitVec 32
opaque sigm (a : BitVec 32) : BitVec 32

/-- Whether the part is stepping A1 (true) or B0 (false) (00 R2, 04 R125). -/
opaque isA1 : Bool

/-- The part's fuse settings (14 R384 to R386; log 18): the SHA-512 digests of the fused keys and of those revoked, the rollback counter,
the image bank size in bytes, the injection caps, and the other fuses, as one word. -/
opaque fusedKeys : List Nat
opaque revokedKeys : List Nat
opaque fuseRollback : Nat
opaque imageBankSize : Nat
opaque fuseWord : BitVec 64
opaque fusedCap (port : Nat) : Nat
/-- The 32 bytes of the private key of the device's identity, derived from its fused secret (14 R385; log 18). -/
opaque identitySecret : List (BitVec 8)
/-- The device and the route entry of a rank of a nested group that no descriptor on this device's path names, by the group's definition
(15 R399, R413; log 14). -/
opaque rankDevice (sig rank : Nat) : BitVec 16 × BitVec 8
/-- The contents of the image of the factory: 0 Enmon's, 1 the MMPs', 2 Tender's built-in programs (14 R383, R385). -/
opaque factoryImage (which : Nat) : Nat

/-- The trap frames of a context lie, 16 KiB each by watch slot, from this offset of the home column (09 R264; log 5). -/
def frameBase : Nat := 0x3FFFFF00000
/-- The escalation ring of 64 records lies at this offset of the ring column (12 R353; log 5). -/
def ringBase : Nat := 0x3FFFFF80000
/-- The split tables of a context that is switched out lie, 256 bytes each by watch slot, from this offset of the home column (01 R22, 12
R349; log 5). -/
def tableBase : Nat := 0x3FFFFF82000
/-- The end of the untranslated save-area offsets (log 5). -/
def saveEnd : Nat := 0x3FFFFF84000
/-- The tile directory's offsets, never translated (10 R290, 12 R334). -/
def dirBase : Nat := 0x3FFFFFFE000

end Sys2Proof.Config
end

