-- ==== Sys2Proof/Machine/Table.lean ====
section
/-! DEFINITION. Sparse tables: a list of key and value pairs with rising keys. Memory is one such list of cells. -/

namespace Sys2Proof.Machine

/-- A sparse table by a number. -/
abbrev Tbl (α : Type) := List (Nat × α)

/-- The value at key `k`. -/
def Tbl.find {α : Type} : List (Nat × α) → Nat → Option α
  | [], _ => none
  | (k', v) :: t, k => if k = k' then some v else Tbl.find t k

/-- The value at key `k`, or `d`. -/
def Tbl.getD {α : Type} (t : List (Nat × α)) (k : Nat) (d : α) : α := (Tbl.find t k).getD d

/-- Set the value at key `k`, keeping the keys rising. -/
def Tbl.put {α : Type} : List (Nat × α) → Nat → α → List (Nat × α)
  | [], k, v => [(k, v)]
  | (k', v') :: t, k, v =>
    if k < k' then (k, v) :: (k', v') :: t
    else if k = k' then (k, v) :: t
    else (k', v') :: Tbl.put t k v

/-- Remove key `k`. -/
def Tbl.del {α : Type} (t : List (Nat × α)) (k : Nat) : List (Nat × α) := t.filter (fun p => p.1 != k)

/-- Change the value at key `k`, if it is there. -/
def Tbl.alter {α : Type} (t : List (Nat × α)) (k : Nat) (f : α → α) : List (Nat × α) :=
  match Tbl.find t k with
  | none => t
  | some v => Tbl.put t k (f v)

/-- Change every value. -/
def Tbl.mapV {α : Type} (t : List (Nat × α)) (f : α → α) : List (Nat × α) := t.map (fun p => (p.1, f p.2))

/-- The keys rise strictly: the canonical form. -/
def Tbl.rising {α : Type} : List (Nat × α) → Bool
  | [] => true
  | [_] => true
  | p :: q :: t => decide (p.1 < q.1) && Tbl.rising (q :: t)

/-- Change the first list element that meets `p`. -/
def modifyFirst {α : Type} (p : α → Bool) (f : α → α) : List α → List α
  | [] => []
  | x :: t => if p x then f x :: t else x :: modifyFirst p f t

/-- Set element `i` of a list, extending nothing. -/
def setAt {α : Type} (l : List α) (i : Nat) (v : α) : List α := l.set i v

end Sys2Proof.Machine
end

