-- ==== Sys2Proof/Machine/State.lean ====
section
/-! DEFINITION. The state of the device: plain data, every piece that the manual names (INVENTORY.md, '## State'). -/

namespace Sys2Proof.Machine

/-- Why a step faults. No condition of the device stops the machine: every cause is a trap, an escalation, a lane switched off
or an engine status, each of them a next state. Nothing raises this fault (safe). -/
inductive Fault where
  /-- never raised; it keeps the type inhabited (safe: a stop proves nothing about the hardware) -/
  | none
  deriving DecidableEq, Repr

/-- Why a step is refused. -/
inductive Refusal where
  /-- raised by an arm of exec whose instruction has no meaning yet (safe: the machine stops where the hardware goes on) -/
  | notModelled (mnemonic : String)
  deriving DecidableEq, Repr

/-- A row of 32-bit lane values (01 R14). -/
abbrev Row := Vector W32 64
/-- A row of 64-bit lane values. -/
abbrev Row64 := Vector Word 64

/-- A serial level of a split-table entry (01 R23), with the signature its pending half starts from (09 R271). -/
structure Level where
  m : Mask := 0
  pend : Mask := 0
  pendPc : Off := 0
  x : Off := 0
  phase : Bool := false
  pendSig : W32 := 0xFFFFFFFF
  deriving DecidableEq, Repr

/-- A fragment at a BAR (09 R253): the crew as the BAR read it, the phase, whether its arrival is on its way, whether the controller has
released it, with or without the acquire (R250, R251), and whether a trap or a pre-emption stopped it, so that it executes from its
start. -/
structure BarWait where
  crew : Nat := 0
  phase : Nat := 0
  sent : Bool := false
  released : Bool := false
  acquire : Bool := false
  again : Bool := false
  deriving DecidableEq, Repr

/-- An entry of the split table (01 R22), with its serial stack, its signature and its wait at a BAR. SDEPTH is the length of
the stack. -/
structure SplitEntry where
  mask : Mask := 0
  pc : Off := 0
  parent : BitVec 3 := 0
  valid : Bool := false
  wait : Bool := false
  root : Bool := false
  reconv : Off := 0
  levels : List Level := []
  sig : W32 := 0xFFFFFFFF
  bar : Option BarWait := none
  deriving DecidableEq, Repr

/-- An entry of the lane issue queue (01 R17): a lane instruction, the mask and the fragment of its LX, the LX's PC, its lane
index, the block it belongs to, its place in its chain and the chain's length, the scalars captured at acceptance (log 8), its place
in the watch's order, the LX's signature, whether it restarts an aborted chain, and 0 or the cause of a word that fails its first check
(04 R417; 01 R28), with the code of a translation fault from bit 8. -/
structure LqEntry where
  instr : Instr := .reservedEncoding 0
  mask : Mask := 0
  ent : Nat := 0
  lxPc : Off := 0
  index : Nat := 0
  blk : Nat := 0
  pos : Nat := 0
  len : Nat := 1
  sa : Word := 0
  sb : Word := 0
  sc : Word := 0
  seq : Nat := 0
  sig : W32 := 0xFFFFFFFF
  again : Bool := false
  bad : Nat := 0
  deriving DecidableEq, Repr

/-- The states of a queue (04 R116). -/
inductive QState where
  | empty | defined | running | ended
  deriving DecidableEq, Repr

/-- An element of a stream queue (08 R238, R240; 09 R268): a value, an element marked by a failed check, or one whose fetch met a
translation fault or an uncorrectable error. -/
inductive Elem where
  | val (v : W32)
  | off (why : BitVec 4)
  | fault (code : Nat) (addr : Word)
  | uncor (addr : Word)
  deriving DecidableEq, Repr

/-- A queue of a watch (04 R116, 08 R237 to R240): its state, its descriptor, the base of each lane as kept at DEF, the next
element index each lane fetches, each lane's pop count, the elements fetched and not popped, and the place of its GO in the watch's order
(13 R361). -/
structure Queue where
  st : QState := .empty
  desc : List Word := []
  base : Row64 := Vector.replicate 64 0
  next : Vector Nat 64 := Vector.replicate 64 0
  popc : Vector Nat 64 := Vector.replicate 64 0
  elems : Vector (List Elem) 64 := Vector.replicate 64 []
  go : Nat := 0
  deriving DecidableEq, Repr

/-- One lane's access, or a control access as lane 0: the address, its place in memory as translated when it issued (none for
the exchange window, whose bank is the one lit at the order point), the size, the data, the compare value, the value that
it returned, and whether it waits for its page (12 R340). The destination of an ACPY stands in `cmp` (its address) and `count` (its
place), the place of its last source byte in `old` (06 R190). -/
structure Acc where
  lane : Nat := 0
  pcn : Nat := 0
  addr : Word := 0
  key : Nat := 0
  size : Nat := 0
  data : Nat := 0
  cmp : Nat := 0
  old : Nat := 0
  got : Bool := false
  count : Nat := 0
  pend : Bool := false
  deriving DecidableEq, Repr

/-- What an operation in flight is (06 R181). -/
inductive OpKind where
  | ld | sld | st | sst | atom | satom | xatom | amax | tdrn | fatom | acpy | xst | engine
  deriving DecidableEq, Repr

/-- An engine command as captured (09 R266): words 0 and 1, S[a] and S[b], the descriptor copy, the barrier object's place in
memory with the scope of the completion arrival, and further values that the engine fixes at issue. -/
structure Cmd where
  maj : Nat := 0
  w0 : W32 := 0
  w1 : W32 := 0
  a : Word := 0
  b : Word := 0
  desc : List Word := []
  obj : Option Nat := none
  extra : List Nat := []
  deriving DecidableEq, Repr

/-- An operation in flight (06 R181): its paths, its place in the watch's order, whether it is complete, the fragment and the
control PC or lane index it came from, its destination register, its size, type, operation and kind fields, its order, its
accesses, and for an engine command its capture and when it became acceptable (08 R234): 0 not looked at, 1 not acceptable. -/
structure Op where
  id : Nat := 0
  kind : OpKind := .ld
  paths : List Nat := []
  seq : Nat := 0
  done : Bool := false
  lane : Bool := false
  ent : Nat := 0
  at_ : Nat := 0
  d : Nat := 0
  nw : Bool := false
  size : Nat := 0
  ty : Nat := 0
  fn : Nat := 0
  ord : Ord := .rlx
  scope : Scope := .wch
  mask : Mask := 0
  accs : List Acc := []
  cmd : Cmd := {}
  err : Bool := false
  xf : Bool := false
  stamp : Nat := 0
  ripe : Nat := 0
  deriving DecidableEq, Repr

/-- The chain in progress (01 R28 to R33): the latches produced so far, how often each lane popped each queue (by queue × 64 +
lane), the generators as the chain's draws leave them (03 R86), the atomics that issue when it completes (05 R158), the
registers that 01 R34 leaves undefined in it, with the place of their free values (log 16), and the lanes that were off when it began, which
an abort restores (R33, R36). -/
structure Chain where
  latches : List (Option Row64) := []
  pops : Tbl Nat := []
  gen : Row := Vector.replicate 64 0
  ops : List Op := []
  loose : List Nat := []
  seed : Nat := 0
  off : Mask := 0
  deriving DecidableEq, Repr

/-- A store in the store FIFO (06 R178). -/
structure StoreEnt where
  op : Nat := 0
  lane : Bool := false
  seq : Nat := 0
  acc : Acc := {}
  deriving DecidableEq, Repr

/-- A containment region (09 R269, R270): H, M and the lanes ended since the OPEN. -/
structure Region where
  h : Off := 0
  m : Mask := 0
  ended : Mask := 0
  deriving DecidableEq, Repr

/-- The row state of a tile (07 R198). -/
structure TileRow where
  smax : W32 := 0xFF800000
  ssum : W32 := 0
  mark : Bool := false
  pf : W32 := 0
  deriving DecidableEq, Repr

/-- An accepted matrix instruction (07 R207): the instruction, its mask, the row boundary, the grant, the operand rows as read when it was
accepted, and the tiles and the row state as they were before its first quarter (R218). -/
structure MatOp where
  instr : Instr := .reservedEncoding 0
  mask : Mask := 0
  rbnd : Nat := 64
  shape : BitVec 18 := 0x10222
  rowsA : List Row := []
  rowsB : List Row := []
  left : List Nat := []
  ord : Nat := 0
  seq : Nat := 0
  index : Nat := 0
  pcn : Nat := 0
  ent : Nat := 0
  acc : Option Acc := none
  before : Option (Tbl W32 × Tbl TileRow) := none
  deriving DecidableEq, Repr

/-- A replay entry (09 R266): its kind, its operation or its chain. -/
structure Replay where
  kind : Nat := 0
  op : Op := {}
  chain : List LqEntry := []
  deriving DecidableEq, Repr

/-- What the watch holds from trap entry to RTE (09 R262, R267); `at_` is the place in its order from which the handler's accesses count. -/
structure Held where
  split : Vector SplitEntry 8 := Vector.replicate 8 {}
  ent : Nat := 0
  crgn : List Region := []
  replay : List Replay := []
  lq : List LqEntry := []
  off : Mask := 0
  offBlk : Nat := 0
  at_ : Nat := 0
  deriving DecidableEq, Repr

/-- A compare entry of a pair (09 R275). -/
structure PairEnt where
  sig : W32 := 0
  store : Bool := false
  lane : Bool := false
  op : Op := {}
  deriving DecidableEq, Repr

/-- The checkpoint of a pair (09 R273). -/
structure Check where
  s : Vector Word 64 := Vector.replicate 64 0
  v : Tbl Row := []
  p : Vector Mask 16 := Vector.replicate 16 0
  mask : Mask := 0
  gen : Row := Vector.replicate 64 0
  srseed : Word := 0
  mshape : BitVec 18 := 0x10222
  rbnd : Nat := 64
  sig : W32 := 0xFFFFFFFF
  pc : Off := 0
  deriving DecidableEq, Repr

/-- A watch's part in a redundant pair (09 R273 to R279): of a leader also INJECT as it stood at PAIR.BEGIN, and whether it was written
since. -/
structure Pair where
  leads : Bool := true
  partner : Nat := 0
  placed : Bool := false
  slack : Nat := 1
  retry : Nat := 0
  check : Check := {}
  ents : List PairEnt := []
  made : Nat := 0
  ended : Bool := false
  injDone : Nat := 0
  inj : Word := 0
  rearmed : Bool := false
  deriving DecidableEq, Repr

/-- Where a watch's state is (12 R348, R349). -/
inductive Bank where
  | live | standby | saved
  deriving DecidableEq, Repr

/-- What a watch runs: a block of a launch, a responder (10 R294), a crew-rung handler (12 R351) or a trailer (09 R273). -/
inductive WatchKind where
  | ordinary | responder | crewHandler | trailer
  deriving DecidableEq, Repr

/-- A resident watch (01). -/
structure Watch where
  ctx : Nat := 0
  core : Nat := 0
  slot : Nat := 0
  col0 : Nat := 0
  width : Nat := 16
  role : Nat := 0
  index : Nat := 0
  lblock : W32 := 0
  allot : Nat := 32
  laneBase : Word := 0
  laneIdx : Nat := 0
  launch : Nat := 0
  kind : WatchKind := .ordinary
  resp : Nat := 0
  bank : Bank := .live
  s : Vector Word 64 := Vector.replicate 64 0
  v : Tbl Row := []
  p : Vector Mask 16 := Vector.replicate 16 0
  tiles : Tbl W32 := []
  rows : Tbl TileRow := []
  q : Vector Queue 8 := Vector.replicate 8 {}
  split : Vector SplitEntry 8 := Vector.replicate 8 {}
  lastEnt : Nat := 7
  lq : List LqEntry := []
  off : Mask := 0
  offBlk : Nat := 0
  chain : Option Chain := none
  aged : Nat := 0
  gen : Row := Vector.replicate 64 0
  fmask : Mask := 0
  fmwhy : BitVec 4 := 0
  srseed : Word := 0
  mshape : BitVec 18 := 0x10222
  rbnd : Nat := 64
  inject : Word := 0
  inh : Bool := false
  rung : BitVec 3 := 0
  frame : Word := 0
  crgn : List Region := []
  held : Option Held := none
  ops : List Op := []
  fifo : List StoreEnt := []
  acqs : List Nat := []
  mat : Option MatOp := none
  pair : Option Pair := none
  stopped : Bool := false
  ended : Bool := false
  departed : Bool := false
  yielded : Bool := false
  deriving DecidableEq, Repr

/-- What the running lane instruction acts with (01 R17, R19): its watch, the mask of its LX less the lanes switched off in the
block, and its captured scalars. -/
structure LaneCtx where
  mask : Mask := 0
  sa : Word := 0
  sb : Word := 0
  sc : Word := 0
  ent : Nat := 0
  index : Nat := 0
  pos : Nat := 0
  last : Bool := true
  seq : Nat := 0
  deriving DecidableEq, Repr

/-- A column's layout, lit bank and window (06 R174), kept per context (log 9). -/
structure Layout where
  scratch : Nat := 0
  xwin : Nat := 0
  lit : Bool := false
  init : Bool := false
  deriving DecidableEq, Repr

/-- An entry of a column's range-lock table (08 R234): the space (tag) and bytes [lo, hi), whether it is a write range, and
the command that holds it. -/
structure Lock where
  ctx : Nat := 0
  tag : Nat := 0
  lo : Nat := 0
  hi : Nat := 0
  write : Bool := false
  owner : Nat := 0
  deriving DecidableEq, Repr

/-- A contribution or a closure waiting in a column's ordered queue (06 R187 to R189). -/
structure Contrib where
  launch : Nat := 0
  key : Nat := 0
  seq : Nat := 0
  word : Nat := 0
  kind : Nat := 0
  value : W32 := 0
  ovf : Bool := false
  deriving DecidableEq, Repr

/-- A key that FATOM closed for one word (06 R187). -/
structure Closed where
  launch : Nat := 0
  key : Nat := 0
  word : Nat := 0
  deriving DecidableEq, Repr

/-- A translation held by a TLB or a cluster cache (12 R342, R344): context, page and, behind a CSPEC array, PCN; the leaf and
the page's size. -/
structure Xlat where
  ctx : Nat := 0
  page : Nat := 0
  size : Nat := 0
  pcn : Option Nat := none
  leaf : Word := 0
  draining : Bool := false
  deriving DecidableEq, Repr

/-- A column (06, 12). -/
structure Column where
  retired : Bool := false
  locks : List Lock := []
  fatom : List Contrib := []
  closed : List Closed := []
  tlb : List Xlat := []
  deriving DecidableEq, Repr

/-- A staging slot (08 R242). -/
structure StageSlot where
  key : BitVec 48 := 0
  valid : Bool := false
  count : BitVec 16 := 0
  deriving DecidableEq, Repr

/-- The staging slot table of a context on a core (08 R242). -/
structure SlotTable where
  slots : Vector StageSlot 8 := Vector.replicate 8 {}
  period : BitVec 16 := 256
  age : BitVec 16 := 0
  deriving DecidableEq, Repr

/-- A command held by an engine (07 R205, 08 R223, 10 R297): its number, the watch that issued it and that watch's context,
column and pcn, the capture, its scope, how far it has come, its failure code, and the source sectors that a copy has read (08 R232). -/
structure Job where
  id : Nat := 0
  w : Nat := 0
  ctx : Nat := 0
  core : Nat := 0
  pcn : Nat := 0
  cmd : Cmd := {}
  scope : Scope := .wch
  step : Nat := 0
  fail : Nat := 0
  work : List Nat := []
  ord : Nat := 0
  launch : Nat := 0
  data : List Byte := []
  reads : Tbl (List Byte) := []
  deriving DecidableEq, Repr

/-- The states of a standby bank (12 R349), with the context it concerns. -/
inductive SBank where
  | free
  | ready (ctx : Nat)
  | spill (ctx : Nat)
  | filling (ctx : Nat)
  deriving DecidableEq, Repr

/-- A core (01, 07, 08, 12). -/
structure Core where
  live : Option Nat := none
  standby : SBank := .free
  switching : Option (Option Nat) := none
  want : Bool := false
  rr : Nat := 31
  holds : List Nat := []
  matNext : Nat := 0
  lastPass : Nat := 31
  wloads : List Job := []
  copies : List Job := []
  tested : Bool := false
  slots : Tbl SlotTable := []
  cycle : Word := 0
  deriving DecidableEq, Repr

/-- A cluster (10, 12). -/
structure Cluster where
  cache : List Xlat := []
  auct : List Job := []
  mhz : Nat := 1200
  deriving DecidableEq, Repr

/-- A member of a crew (09 R246 to R251): the watch with its slot and columns, whether it has arrived in the open phase, really or by
proxy, and as a swap, and whether it departed by fault and awaits its removal. -/
structure Member where
  w : Nat := 0
  slot : Nat := 0
  cols : List Nat := []
  arrived : Bool := false
  swap : Bool := false
  faulted : Bool := false
  deriving DecidableEq, Repr

/-- A crew (09 R246 to R252). -/
structure Crew where
  members : List Member := []
  phase : Nat := 0
  cols : List Nat := []
  fcnt : Nat := 0
  fwhy : BitVec 4 := 0
  deriving DecidableEq, Repr

/-- A message to a crew controller (09 R246): an arrival of a watch at a BAR, or a watch's departure by ending or by fault from
all its crews, with whether its FMASK was non-zero and its FMWHY (R252). -/
inductive CrewMsg where
  | arrive (crew w : Nat) (swap : Bool)
  | depart (w : Nat) (fault : Bool) (off : Bool) (why : BitVec 4)
  deriving DecidableEq, Repr

/-- A responder still to spawn (10 R293): its core, and the directory entry with its index as the lookup found it. -/
structure Spawn where
  core : Nat := 0
  index : Nat := 0
  entry : BitVec 256 := 0
  deriving DecidableEq, Repr

/-- A census of a SOLIC (10 R292 to R296): its number, the command, the key, the responder role, the cores of the set, the cores
still to look up, the responders still to spawn, those running, the replies with their cores, and the counts. -/
structure Census where
  n : Nat := 0
  job : Job := {}
  key : Nat := 0
  role : Nat := 0
  fold : Nat := 0
  set : List Nat := []
  pending : List Nat := []
  spawns : List Spawn := []
  running : List Nat := []
  replies : List (Nat × Word) := []
  moved : Nat := 0
  lost : Nat := 0
  mcol : Nat := 0x3FF
  deriving DecidableEq, Repr

/-- Grants of a run that ended early which the peer has not filled (15 R397): the run, the strand, the peer's device, and how many. -/
structure Owed where
  run : BitVec 8 := 0
  strand : Nat := 0
  dev : Nat := 0
  n : Nat := 0
  deriving DecidableEq, Repr

/-- A group of collectives (15 R397): its definition and its counters; DRAIN counts what `owed` holds beside the runs' stores. `ahead` are
the uses that an ABORT has named before this device's DEFINE of them (R403). -/
structure Group where
  def_ : Bool := false
  use : BitVec 8 := 0
  run : BitVec 8 := 0
  step : BitVec 16 := 0
  abt : Bool := false
  desc : List Word := []
  prog : List Word := []
  owed : List Owed := []
  ahead : List (BitVec 8) := []
  deriving DecidableEq, Repr

/-- A member's arrival for a run of a collective (15 R404), and the code that its drain gave the run, 0 for none, with its column (R405). -/
structure CollArr where
  group : Nat := 0
  crew : Nat := 0
  w : Nat := 0
  bad : Nat := 0
  badCol : Nat := 0
  use : BitVec 8 := 0
  min_ : BitVec 6 := 0
  obj : Nat := 0
  scope : Scope := .wch
  launch : Nat := 0
  deriving DecidableEq, Repr

/-- A context (12 R347): `frames` are the frames, by PCN, that the MMP reserves for its tables (R335), and `doom` says that it is
destroyed once it is switched out (R418). -/
structure Context where
  desc : BitVec 512 := 0
  cols : List Nat := []
  holes : List Nat := []
  crews : Tbl Crew := []
  msgs : List CrewMsg := []
  nextCensus : Nat := 0
  censuses : List Census := []
  ringCol : Nat := 0
  seq : Word := 0
  wdog : Nat := 0
  out : Bool := false
  wantIn : Bool := false
  saveInc : Bool := false
  doom : Bool := false
  frames : List (Nat × Nat) := []
  saved : List Nat := []
  rung : Option (BitVec 3) := none
  groups : Tbl Group := []
  colls : List CollArr := []
  stamps : Tbl Nat := []
  deriving DecidableEq, Repr

/-- A watch that waits for the MMP, or a command or launch that does (12 R340, R341), with the number of the escalation record that
reported it, and of a watch the fragment and whether its fault is asynchronous; `drain` is 1 for the drain of a COLL that waits, 2 for
one whose page was declined (15 R405). -/
structure PageWait where
  ctx : Nat := 0
  pcn : Nat := 0
  off : Nat := 0
  blk : Option (Nat × Nat) := none
  w : Nat := 0
  ent : Nat := 0
  async : Bool := false
  job : Nat := 0
  addr : Word := 0
  escSeq : Option Word := none
  drain : Nat := 0
  deriving DecidableEq, Repr

/-- A store to a host-backed page that the host has not acknowledged (06 R192; 12 R338): its watch and operation, the column that forwarded
it, its place and bytes, and whether the host holds them already. -/
structure HostAck where
  w : Nat := 0
  op : Nat := 0
  pcn : Nat := 0
  key : Nat := 0
  size : Nat := 0
  data : Nat := 0
  sent : Bool := false
  deriving DecidableEq, Repr

/-- An unmapping in progress (12 R345): the page, its old leaf, the columns whose walk ends at the entry, the clusters that have not
acknowledged the mark, whether the wait is over, and the columns that have not answered the probe. -/
structure Unmap where
  ctx : Nat := 0
  off : Nat := 0
  size : Nat := 0
  leaf : Word := 0
  cols : List Nat := []
  acks : List Nat := []
  waited : Bool := false
  probes : List Nat := []
  deriving DecidableEq, Repr

/-- A launch placed or being placed: a node of a run (11 R317 to R324): its die, graph, node, the offset of its record, its context,
the record's words 0 to 23 as read when the node became ready, whether its checks at the queue's head passed, the blocks placed
with their cores, the next block to place, those to place again and how often each was (12 R340), the cores whose parameter block is
to be written (1) or stands (0), the offset vector, the records generated, each block's home column and TAIL (R327, R328), the blocks
owed a closing record (R329), and whether the node failed. -/
structure Launch where
  die : Nat := 0
  graph : Nat := 0
  node : Nat := 0
  base : Nat := 0
  ctx : Nat := 0
  header : List Word := []
  checked : Bool := false
  placed : List Nat := []
  blkCore : List (Nat × Nat) := []
  blocks : Nat := 0
  again : List Nat := []
  restarts : Tbl Nat := []
  cores : Tbl Nat := []
  vec : List Nat := []
  made : Nat := 0
  homes : Tbl Nat := []
  tails : Tbl Nat := []
  closing : List Nat := []
  failed : Bool := false
  deriving DecidableEq, Repr

/-- A trigger waiting in a FIFO (11 R314). -/
structure Trig where
  graph : Nat := 0
  ctx : Nat := 0
  patch : List Word := []
  slot : Nat := 0
  deriving DecidableEq, Repr

/-- A record queue (11 R326 to R329): the launch it is bound to, the records taken and appended, and whether it is closed. -/
structure RecQ where
  bound : Option Nat := none
  taken : Nat := 0
  appended : Nat := 0
  closed : Bool := false
  deriving DecidableEq, Repr

/-- An event waiting for the ring of a die (14 R379). -/
structure EvRec where
  words : List Word := []
  deriving DecidableEq, Repr

/-- A die: its launch scheduler and its host window (11, 14). `irqs` counts the interrupt messages that it sent on the sideband (14 R379);
`running` holds the graphs in a run with the first failed node's FCODE
or 0. -/
structure Die where
  fifo : List Trig := []
  places : Tbl (List Nat) := []
  lastQ : Tbl Nat := []
  recqs : Tbl RecQ := []
  qtail : Tbl W32 := []
  trgstat : Word := 0
  evbase : Word := 0
  evctl : BitVec 5 := 0
  evhead : W32 := 0
  evtail : W32 := 0
  mbstat : W32 := 0
  mbdata : List Word := [0, 0, 0, 0, 0, 0, 0, 0]
  events : List EvRec := []
  irqs : Nat := 0
  running : Tbl Nat := []
  deriving DecidableEq, Repr

/-- A step of a built-in operation (15 R409; log 14), in the form of a chunk word: its opcode, the channel and first chunk it reads
or lands in, the count, a second place (the destination of a copy, the local operand of a reduction), the peer, the type, the function,
and whether the received value is operand a. Channel 16 is the Tender's own store. -/
structure Act where
  op : Nat := 0
  ch : Nat := 0
  ck : Nat := 0
  n : Nat := 0
  ch2 : Nat := 0
  ck2 : Nat := 0
  peer : Nat := 0
  dt : Nat := 2
  fn : Nat := 0
  rev : Bool := false
  deriving DecidableEq, Repr

/-- A transfer of a strand (15 R411, R412): its step, for a sending one each peer with the first sequence number of its chunks there,
and for a receiving one the first sequence number, how many chunks were applied, and which of the stream's receiving transfers it is. -/
structure Xfer where
  act : Act := {}
  dests : List (Nat × Nat) := []
  base : Nat := 0
  turn : Nat := 0
  applied : Nat := 0
  deriving DecidableEq, Repr

/-- The streams between a strand and the same strand of one peer (15 R412, R414): chunks sent for the first time, chunks acknowledged,
chunks the peer granted, chunks not yet acknowledged; chunks that receiving transfers took up, chunks granted to the peer, chunks
landed, landed chunks not yet applied, flits of incomplete chunks, the lengths of the sending transfers so far and of the receiving ones,
those of the peer's receiving transfers and of its sending ones as its grants told them (by their places in their order), and the route
that the stream keeps: its entry, its number and its hops (R393). -/
structure Stream where
  queued : Nat := 0
  sendSeq : Nat := 0
  acked : Nat := 0
  grant : Nat := 0
  store : List (Nat × List Byte) := []
  taken : Nat := 0
  given : Nat := 0
  landed : List (Nat × List Byte) := []
  done : Nat := 0
  parts : List (Nat × Nat × List Byte) := []
  outs : List Nat := []
  ins : List Nat := []
  theirs : Tbl Nat := []
  sent : Tbl Nat := []
  route : Option (Nat × Nat × Word) := none
  deriving DecidableEq, Repr

/-- A strand of a run (15 R411 to R413): its column, its place, its open loops (start, iteration, count), its transfers, its streams by
peer, its signals, the route entries it chose by device, its barriers begun and passed with each peer's, the store of channel 16, and
its code where it failed. -/
structure Strand where
  col : Nat := 0
  pc : Nat := 1
  loops : List (Nat × Nat × Nat) := []
  xfers : List Xfer := []
  streams : Tbl Stream := []
  sigs : Tbl Nat := []
  routes : Tbl Nat := []
  bars : Nat := 0
  barOpen : Bool := false
  barSeen : Tbl Nat := []
  store : Tbl (List Byte) := []
  code : Nat := 0
  ended : Bool := false
  deriving DecidableEq, Repr

/-- A run of a collective on this device (15 R404 to R413): its group and numbers, its members, the peers by device and route entry,
this device's rank and the group's size, its strands, the program or the built-in steps,
the chunks that it writes (channel, first, end), the streams rerouted, where it failed as a whole its code and the first failing strand,
and the ranges that it registers, with the moment of its start and the one at which they could be had (08 R234). -/
structure Run where
  id : Nat := 0
  ctx : Nat := 0
  group : Nat := 0
  use : BitVec 8 := 0
  run : BitVec 8 := 0
  step : BitVec 16 := 0
  op : Nat := 0
  desc : List Word := []
  members : List CollArr := []
  peers : List (Nat × Nat) := []
  rank : Nat := 0
  nrank : Nat := 1
  strands : List Strand := []
  prog : List Word := []
  acts : List Act := []
  writes : List (Nat × Nat × Nat) := []
  reroutes : List (Nat × Nat) := []
  code : Nat := 0
  fstr : Nat := 0
  locks : List (Nat × Lock) := []
  at_ : Nat := 0
  ripe : Nat := 0
  deriving DecidableEq, Repr

/-- A flit that a transmitter keeps for a resend: its link sequence number, and how often it was sent (15 R392). -/
structure SentFlit where
  seq : Nat
  flit : Flit
  times : Nat := 1
  deriving DecidableEq, Repr

/-- A Beam port (15 R390 to R392): whether it is up, its lanes and how many lost lock, the last 256 flits that it sent, the next link
sequence number, the first one not acknowledged, the next one it expects, and its injection cap in 1/256 of the line rate, none for the
fused one (14 R386). -/
structure Port where
  up : Bool := true
  lanes : Nat := 8
  lost : Nat := 0
  sent : List SentFlit := []
  seq : Nat := 0
  acked : Nat := 0
  expect : Nat := 0
  cap : Option Nat := none
  deriving DecidableEq, Repr

/-- Enmon (14 R374, R383 to R389): the log with the number of its first record, the log epoch, the two banks of each image (by
2 × image + bank; none is the image of the factory), the active bank of each, the images that the next Enmon reset activates, the
sustained power target, what Enmon answered the host over the sideband, whether bring-up is under way or done (false: PHASE 0), the
HRANGE entries with those locked, the stacks' memory clocks, what the sensors measured (by `Sensor.code`), the corrected and the
uncorrectable errors of each controller (by `Ctl.code`), and the uncorrectable errors of each column in this epoch. -/
structure Enmon where
  log : List (List Word) := []
  logBase : Nat := 0
  epoch : Nat := 0
  banks : Tbl Image := []
  active : Tbl Nat := []
  pending : List Nat := []
  target : Nat := 2400
  reports : List (List Nat) := []
  running : Bool := false
  hrange : List (Word × Word) := []
  hlock : List Nat := []
  memMhz : Tbl Nat := [(0, 1200), (1, 1200), (2, 1200), (3, 1200), (4, 1200), (5, 1200), (6, 1200), (7, 1200)]
  sensors : Tbl Nat := []
  errs : Tbl (Nat × Nat) := []
  colErrs : Tbl Nat := []
  deriving DecidableEq, Repr

/-- Which agent moves next (log 2). -/
inductive Turn where
  /-- the control thread that a core serves next (01 R21) -/
  | control (core : Nat)
  /-- a strand of a run -/
  | strand (run i : Nat)
  /-- a step of another agent -/
  | event (i : Instr)
  deriving DecidableEq, Repr

/-- The device. `starts` holds the runs whose members have all arrived and that wait for their ranges (15 R404; 08 R234), `early` the grants,
signals and barrier flits that came before their run started here (15 R412, R413), `past` the runs that are complete, whose acknowledgements
may have to be repeated (R412, R414). -/
structure State where
  mem : List Host.Cell
  watches : Tbl Watch
  columns : Tbl Column
  layouts : Tbl Layout
  cores : Tbl Core
  clusters : Tbl Cluster
  dies : Tbl Die
  ctxs : Tbl Context
  launches : Tbl Launch
  waits : List PageWait
  hostAcks : List HostAck
  unmaps : List Unmap
  starts : List Run
  runs : List Run
  past : List Run
  early : List Flit
  ports : Tbl Port
  routes : Tbl Word
  badRoutes : List (Nat × Nat)
  notices : List (Nat × Nat)
  address : BitVec 16
  parts : Vector Word 8
  enmon : Enmon
  stackBits : Mask
  modules : List Nat
  linkUp : Bool
  cur : Nat
  ent : Nat
  lane : LaneCtx
  strand : Nat × Nat
  granted : Bool
  agenda : List Turn
  turn : Bool
  rot : Nat
  free : Nat
  epoch : Nat
  next : Nat
  seq : Nat
  deriving DecidableEq, Repr

/-- The device after reset (14 R388, R389; INVENTORY.md): nothing placed, no context, no watch, memory with nothing listed.
Partition 0 holds every cluster (12 R418). -/
def State.reset : State where
  mem := []
  watches := []
  columns := []
  layouts := []
  cores := []
  clusters := []
  dies := []
  ctxs := []
  launches := []
  waits := []
  hostAcks := []
  unmaps := []
  starts := []
  runs := []
  past := []
  early := []
  ports := []
  routes := []
  badRoutes := []
  notices := []
  address := 0
  parts := Vector.ofFn fun i => if i.val = 0 then 0xFFFFFFFFFFFFFFFF#64 else 0
  enmon := {}
  stackBits := 0
  modules := [0, 1, 2, 3]
  linkUp := false
  cur := 0
  ent := 0
  lane := {}
  strand := (0, 0)
  granted := false
  agenda := []
  turn := true
  rot := 0
  free := 0
  epoch := 0
  next := 1
  seq := 1

end Sys2Proof.Machine
end

