-- ==== Sys2Proof/Machine/Mem.lean ====
section
/-! DEFINITION. Memory: one table of bytes over every place the device keeps bytes in, in canonical form. A place is a space, a
context and a column (or die, or core) with an offset. What an unlisted byte reads as is `memDefault`: zero where the manual
gives zero, no value elsewhere, so that reading it yields a free byte (00 R7, 06 R174; log 1). -/

namespace Sys2Proof.Machine

/-- The spaces of the model's memory. -/
inductive Space where
  /-- the HBM slice of a column (12 R334) -/
  | slice
  /-- the plain scratchpad region, exchange banks 0 and 1, and private windows of a context in a column (06 R170) -/
  | plain | bank0 | bank1 | priv
  /-- the tile directory of a context on a core (10 R290) -/
  | dir
  /-- host memory (12 R338) -/
  | host
  /-- the scheduler memory of a die (11 R309) -/
  | sched
  /-- the weight buffers of a context on a core (07 R204) -/
  | wbuf
  /-- the save area of a context in a column (09 R264, 12 R353) -/
  | save
  deriving DecidableEq, Repr

/-- The space's number in a key. -/
def Space.code : Space → Nat
  | .slice => 0 | .plain => 1 | .bank0 => 2 | .bank1 => 3 | .priv => 4 | .dir => 5 | .host => 6 | .sched => 7 | .wbuf => 8
  | .save => 9

/-- The key of a byte: its space, context, column and offset. -/
def memKey (sp : Space) (ctx col off : Nat) : Nat := ((sp.code * 2 ^ 16 + ctx) * 2 ^ 16 + col) * 2 ^ 64 + off

/-- What an unlisted byte reads as: 0 in scheduler memory (14 R378), the weight buffers (07 R204) and the tile directory
(10 R290), and 0 in the save areas, whose reserved fields read as zero (09 R264; log 5); no value elsewhere. -/
def memDefault (key : Nat) : Option Byte :=
  let sp := key / 2 ^ 96
  if sp = 5 ∨ sp = 7 ∨ sp = 8 ∨ sp = 9 then some 0 else none

/-- The byte at a key, if it has a value. -/
def memFind (m : List Host.Cell) (key : Nat) : Option Byte := (Tbl.find m key).or (memDefault key)

/-- The byte that a read of a key returns: its value, or a free one. -/
def memByte (m : List Host.Cell) (epoch key : Nat) : Byte := (memFind m key).getD (Config.freeByte epoch key)

/-- The cells of bytes at rising keys, without those that equal what an unlisted byte reads as. -/
def memCells (key : Nat) : List Byte → List Host.Cell
  | [] => []
  | b :: t => if memDefault key = some b then memCells (key + 1) t else (key, b) :: memCells (key + 1) t

/-- Write bytes at rising keys, keeping the canonical form. -/
def memWrite (m : List Host.Cell) (key : Nat) (l : List Byte) : List Host.Cell :=
  m.filter (fun c => decide (c.1 < key)) ++ memCells key l ++ m.filter (fun c => decide (key + l.length ≤ c.1))

/-- The canonical form: keys rise, and no entry equals what an unlisted byte reads as. -/
def Memory.wf (m : List Host.Cell) : Bool := Tbl.rising m && m.all (fun c => memDefault c.1 != some c.2)

/-- n bytes from a key as a number (00 R5, Mem of R9). -/
def memNat (m : List Host.Cell) (epoch key n : Nat) : Nat := leNat ((List.range n).map fun i => memByte m epoch (key + i))

/-- Remove every byte of a range of keys: its contents become undefined (06 R174). -/
def memForget (m : List Host.Cell) (lo hi : Nat) : List Host.Cell := m.filter fun c => !(decide (lo ≤ c.1) && decide (c.1 < hi))

/-- Read n bytes of the device's memory as a number. -/
def State.readN (s : State) (key n : Nat) : Nat := memNat s.mem s.epoch key n

/-- Whether a place is in host memory (12 R338). -/
def isHostKey (key : Nat) : Bool := key / 2 ^ 96 == 6

/-- A byte as a column's order point sees it (13 R358): of a host-backed page, the stores that the column forwarded and the host has
not taken come first (12 R338). -/
def State.colByte (s : State) (pcn key : Nat) : Byte :=
  match if isHostKey key then s.hostAcks.reverse.find? fun h =>
      h.pcn == pcn && !h.sent && decide (h.key ≤ key) && decide (key < h.key + h.size) else none with
  | some h => byteOf h.data (key - h.key)
  | none => memByte s.mem s.epoch key

/-- n bytes as a column's order point sees them. -/
def State.colBytes (s : State) (pcn key n : Nat) : List Byte := (List.range n).map fun i => s.colByte pcn (key + i)
def State.colN (s : State) (pcn key n : Nat) : Nat := leNat (s.colBytes pcn key n)

/-- Write the low n bytes of a number. -/
def State.writeN (s : State) (key n v : Nat) : State := { s with mem := memWrite s.mem key (leBytes n v) }

/-- Write bytes. -/
def State.writeBytes (s : State) (key : Nat) (l : List Byte) : State := { s with mem := memWrite s.mem key l }

/-- The host takes the stores that a column has forwarded, in their order. -/
def State.hostTakes (s : State) (pcn : Nat) : State :=
  { s.hostAcks.foldl (fun s h => if h.pcn = pcn ∧ !h.sent then s.writeN h.key h.size h.data else s) s with
    hostAcks := s.hostAcks.map fun h => if h.pcn = pcn then { h with sent := true } else h }

/-- Write bytes through a column's order point, behind the stores that it has forwarded to the host. -/
def State.colWrite (s : State) (pcn key : Nat) (l : List Byte) : State :=
  (if isHostKey key then s.hostTakes pcn else s).writeBytes key l

end Sys2Proof.Machine
end

