-- ==== Sys2Proof/Machine/Access.lean ====
section
/-! DEFINITION. Reading and writing the parts of the state: the current watch and fragment, the registers, the lane rows. Every
register has one home, and what is special about one (S0, P0, the allotment) lives here (01 R14). -/

namespace Sys2Proof.Machine

/-- A watch by its number. -/
def State.watch (s : State) (w : Nat) : Watch := Tbl.getD s.watches w {}
/-- The watch that executes. -/
def State.cw (s : State) : Watch := s.watch s.cur
/-- Replace a watch. -/
def State.putWatch (s : State) (w : Nat) (x : Watch) : State := { s with watches := Tbl.put s.watches w x }
/-- Replace the watch that executes. -/
def State.setW (s : State) (x : Watch) : State := s.putWatch s.cur x
/-- Change the watch that executes. -/
def State.modW (s : State) (f : Watch → Watch) : State := s.setW (f s.cw)
/-- Change a watch, if it is there. -/
def State.modWatch (s : State) (w : Nat) (f : Watch → Watch) : State := { s with watches := Tbl.alter s.watches w f }

def State.core (s : State) (c : Nat) : Core := Tbl.getD s.cores c {}
def State.setCore (s : State) (c : Nat) (x : Core) : State := { s with cores := Tbl.put s.cores c x }
def State.modCore (s : State) (c : Nat) (f : Core → Core) : State := s.setCore c (f (s.core c))
def State.column (s : State) (c : Nat) : Column := Tbl.getD s.columns c {}
def State.modColumn (s : State) (c : Nat) (f : Column → Column) : State :=
  { s with columns := Tbl.put s.columns c (f (s.column c)) }
def State.cluster (s : State) (c : Nat) : Cluster := Tbl.getD s.clusters c {}
def State.modCluster (s : State) (c : Nat) (f : Cluster → Cluster) : State :=
  { s with clusters := Tbl.put s.clusters c (f (s.cluster c)) }
def State.die (s : State) (d : Nat) : Die := Tbl.getD s.dies d {}
def State.modDie (s : State) (d : Nat) (f : Die → Die) : State := { s with dies := Tbl.put s.dies d (f (s.die d)) }
def State.ctx (s : State) (c : Nat) : Context := Tbl.getD s.ctxs c {}
def State.modCtx (s : State) (c : Nat) (f : Context → Context) : State := { s with ctxs := Tbl.alter s.ctxs c f }
def State.launch (s : State) (n : Nat) : Launch := Tbl.getD s.launches n {}
def State.modLaunch (s : State) (n : Nat) (f : Launch → Launch) : State := { s with launches := Tbl.alter s.launches n f }

/-- The key of a layout: a context's, in a column. -/
def layoutKey (ctx pcn : Nat) : Nat := ctx * 1024 + pcn
def State.layout (s : State) (ctx pcn : Nat) : Layout := Tbl.getD s.layouts (layoutKey ctx pcn) {}
def State.modLayout (s : State) (ctx pcn : Nat) (f : Layout → Layout) : State :=
  { s with layouts := Tbl.put s.layouts (layoutKey ctx pcn) (f (s.layout ctx pcn)) }

/-- The cluster of a core, the die of a core, the core and the cluster of a column (00 R3, 11 R303). -/
def clusterOfCore (core : Nat) : Nat := core / 4
def dieOfCore (core : Nat) : Nat := core / 128
def coreOfCol (pcn : Nat) : Nat := pcn / 4
def clusterOfCol (pcn : Nat) : Nat := pcn / 16
def dieOfCol (pcn : Nat) : Nat := pcn / 512

/-- A fresh number for a watch, a launch, an operation or a command. -/
def State.bump (s : State) : State := { s with next := s.next + 1 }
/-- A fresh place in the order of accesses (06 R192). -/
def State.tick (s : State) : State := { s with seq := s.seq + 1 }

/-- The number of columns of a watch (01 R11). -/
def Watch.ncols (w : Watch) : Nat := w.width / 16
/-- The PCN of the column of lane l (01 R11). -/
def Watch.pcnOf (w : Watch) (l : Nat) : Nat := w.core * 4 + w.col0 + l / 16
/-- The PCN of the home column (06 R169). -/
def Watch.home (w : Watch) : Nat := w.core * 4 + w.col0
/-- The columns of a watch. -/
def Watch.cols (w : Watch) : List Nat := (List.range w.ncols).map fun i => w.home + i
/-- wi of 03 R84 and 06 R186. -/
def Watch.wi (w : Watch) : Nat := 32 * w.role + w.index

/-- The LCN of a column in a context (06 R167). -/
def Context.lcn (c : Context) (pcn : Nat) : Nat := c.cols.findIdx (· == pcn)
/-- The PCN of an LCN that is live: none if it is out of range or a hole (06 R167, R168). -/
def Context.pcnLive (c : Context) (lcn : Nat) : Option Nat :=
  match c.cols[lcn]? with
  | none => none
  | some p => if c.holes.contains lcn then none else some p
/-- The PCNs of the live columns in ascending LCN order. -/
def Context.liveCols (c : Context) : List Nat :=
  (List.range c.cols.length).filterMap fun i => c.pcnLive i
/-- The live LCNs, ascending (06 R173). -/
def Context.liveLcns (c : Context) : List Nat := (List.range c.cols.length).filter fun i => (c.pcnLive i).isSome

/-- The LCN of a watch's lane, and of its home column. -/
def State.lcnOf (s : State) (w : Watch) (l : Nat) : Nat := (s.ctx w.ctx).lcn (w.pcnOf l)
def State.homeLcn (s : State) (w : Watch) : Nat := (s.ctx w.ctx).lcn w.home

/-- Tag(a), Col(a), Off(a) (00 R9). -/
def tagOf (a : Word) : Nat := (a.extractLsb' 52 4).toNat
def colOf (a : Word) : Nat := (a.extractLsb' 42 10).toNat
def offOf (a : Word) : Nat := (a.extractLsb' 0 42).toNat
/-- EffCol(a, c) (00 R9). -/
def effCol (a : Word) (c : Nat) : Nat := if colOf a = 0x3FF then c else colOf a
/-- An address with its offset replaced. -/
def withOff (a : Word) (o : Nat) : Word := (a.extractLsb' 42 22) ++ (BitVec.ofNat 42 o)
/-- The address of a tag-0 self offset. -/
def selfAddr (o : Nat) : Word := (0 : BitVec 12) ++ (0x3FF : BitVec 10) ++ (BitVec.ofNat 42 o)

/-- S[n]: S0 reads as zero (01 R14). -/
def Watch.sreg (w : Watch) (n : Reg) : Word := if n = 0 then 0 else w.s[n.toFin]
/-- Write S[n]; a write to S0 is discarded (01 R14). -/
def Watch.setS (w : Watch) (n : Reg) (v : Word) : Watch :=
  if n = 0 then w else { w with s := w.s.set n.toNat v n.isLt }
/-- The scalar registers of the watch that executes. -/
def State.sreg (s : State) (n : Reg) : Word := s.cw.sreg n
def State.setS (s : State) (n : Reg) (v : Word) : State := s.modW fun w => w.setS n v

/-- The lanes of the watch. -/
def Watch.full (w : Watch) : Mask := fullMask w.width
/-- P[n]: P0 reads as 1 in every lane (01 R14). -/
def Watch.preg (w : Watch) (n : BitVec 4) : Mask := if n = 0 then w.full else w.p[n.toFin]
/-- Write P[n]; P0 is read-only. -/
def Watch.setP (w : Watch) (n : BitVec 4) (m : Mask) : Watch :=
  if n = 0 then w else { w with p := w.p.set n.toNat m n.isLt }

/-- A row of zeros. -/
def zeroRow : Row := Vector.replicate 64 0
def zeroRow64 : Row64 := Vector.replicate 64 0
/-- V[n] in every lane. -/
def Watch.vreg (w : Watch) (n : Nat) : Row := Tbl.getD w.v n zeroRow
/-- Write a whole row of V[n]. -/
def Watch.putV (w : Watch) (n : Nat) (r : Row) : Watch := { w with v := Tbl.put w.v n r }
/-- A lane of a row. -/
def rowAt (r : Row) (l : Nat) : W32 := r[l]?.getD 0
def row64At (r : Row64) (l : Nat) : Word := r[l]?.getD 0
/-- Lane by lane: the new value where the mask has the lane, the old elsewhere. -/
def blend (m : Mask) (new old : Row) : Row := Vector.ofFn fun i => if m.getLsbD i.val then new[i] else old[i]
def blend64 (m : Mask) (new old : Row64) : Row64 := Vector.ofFn fun i => if m.getLsbD i.val then new[i] else old[i]
/-- One lane of a row replaced. -/
def setLane (r : Row) (l : Nat) (v : W32) : Row := Vector.ofFn fun i => if i.val = l then v else r[i]
/-- Write V[n] in the lanes of a mask. -/
def Watch.setV (w : Watch) (n : Nat) (m : Mask) (r : Row) : Watch := w.putV n (blend m r (w.vreg n))
/-- A pair of rows as 64-bit values (03 R72), and its halves. -/
def joinRows (lo hi : Row) : Row64 := Vector.ofFn fun i => hi[i] ++ lo[i]
def lowRow (r : Row64) : Row := Vector.ofFn fun i => r[i].extractLsb' 0 32
def highRow (r : Row64) : Row := Vector.ofFn fun i => r[i].extractLsb' 32 32
def wideRow (r : Row) : Row64 := Vector.ofFn fun i => r[i].setWidth 64

/-- The fragment entry e. -/
def Watch.entry (w : Watch) (e : Nat) : SplitEntry := w.split[e]?.getD {}
/-- Replace entry e. -/
def Watch.setEntry (w : Watch) (e : Nat) (x : SplitEntry) : Watch :=
  { w with split := Vector.ofFn fun i => if i.val = e then x else w.split[i] }
/-- The fragment that executes. -/
def State.frag (s : State) : SplitEntry := s.cw.entry s.ent
/-- Change the fragment that executes. -/
def State.modFrag (s : State) (f : SplitEntry → SplitEntry) : State := s.modW fun w => w.setEntry s.ent (f (w.entry s.ent))

/-- An element of a tile: tile t, row i, column n (07 R198); undefined until written (02 R66). -/
def tileKey (t i n : Nat) : Nat := (t * 64 + i) * 64 + n
def Watch.tile (uid : Nat) (w : Watch) (t i n : Nat) : W32 :=
  (Tbl.find w.tiles (tileKey t i n)).getD (Config.freeTile uid (tileKey t i n))
def Watch.setTile (w : Watch) (t i n : Nat) (v : W32) : Watch := { w with tiles := Tbl.put w.tiles (tileKey t i n) v }
def Watch.trow (w : Watch) (t i : Nat) : TileRow := Tbl.getD w.rows (t * 64 + i) {}
def Watch.setTrow (w : Watch) (t i : Nat) (r : TileRow) : Watch := { w with rows := Tbl.put w.rows (t * 64 + i) r }

/-- The descriptor fields of a context (12 R347). -/
def Context.ptroot (c : Context) : Nat := (c.desc.extractLsb' 0 64).toNat
def Context.wvec (c : Context) : Off := c.desc.extractLsb' 64 42
def Context.cvec (c : Context) : Off := c.desc.extractLsb' 128 42
def Context.wto (c : Context) : Nat := (c.desc.extractLsb' 192 32).toNat
def Context.cto (c : Context) : Nat := (c.desc.extractLsb' 224 32).toNat
def Context.hevt (c : Context) : Nat := (c.desc.extractLsb' 256 16).toNat
def Context.xto (c : Context) : Nat := (c.desc.extractLsb' 288 32).toNat
def Context.wdogLoad (c : Context) : Nat := (c.desc.extractLsb' 320 32).toNat
def Context.part (c : Context) : Nat := (c.desc.extractLsb' 352 3).toNat
def Context.lease (c : Context) : Nat := (c.desc.extractLsb' 384 16).toNat

/-- WATCHID (04 R126). -/
def State.watchId (s : State) (w : Watch) : Word :=
  BitVec.ofNat 64 (w.slot + w.col0 <<< 5 + (if w.width = 64 then 2 else if w.width = 32 then 1 else 0) <<< 7 +
    w.home <<< 10 + s.homeLcn w <<< 20 + w.core <<< 32)

/-- The watches with their numbers that meet p. -/
def State.watchesWith (s : State) (p : Watch → Bool) : List Nat :=
  (s.watches.filter fun x => p x.2).map (·.1)

/-- Whether a watch is on a live bank and may issue. -/
def State.isLive (s : State) (w : Watch) : Bool := w.bank == .live && (s.core w.core).switching.isNone && !w.stopped

/-- The in-flight operations of a path, the oldest first (06 R181). -/
def Watch.pathOps (w : Watch) (p : Nat) : List Op := w.ops.filter fun o => o.paths.contains p
/-- An operation still counts on a path: it, or one that issued before it there, is not complete (06 R181). Operations are numbered as they
issue. -/
def Watch.counts (w : Watch) (o : Op) (p : Nat) : Bool := (w.pathOps p).any fun x => !x.done && decide (x.id ≤ o.id)
/-- The counter of a path: it falls only when its oldest outstanding operation completes (06 R181). -/
def Watch.pathCount (w : Watch) (p : Nat) : Nat := ((w.pathOps p).filter fun o => w.counts o p).length
/-- Remove the operations that no counter still holds. -/
def Watch.reap (w : Watch) : Watch := { w with ops := w.ops.filter fun o => !o.done || o.paths.any fun p => w.counts o p }
/-- Whether the HRANGE entries admit a host address (14 R386). -/
def State.hostAllows (s : State) (a : Nat) : Bool :=
  s.enmon.hrange.any fun r => decide (r.1.toNat ≤ a) && decide (a < r.2.toNat)
/-- A place in host memory that no range admits any more (14 R386). -/
def State.hostShut (s : State) (key : Nat) : Bool := isHostKey key && !s.hostAllows (key % 2 ^ 64)

/-- An operation of a watch by its number. -/
def Watch.op (w : Watch) (id : Nat) : Option Op := w.ops.find? (·.id == id)
/-- Change an operation. -/
def Watch.modOp (w : Watch) (id : Nat) (f : Op → Op) : Watch := { w with ops := modifyFirst (·.id == id) f w.ops }
/-- Change an operation in flight, or one that a trap holds in the replay queue (09 R262). -/
def Watch.modAny (w : Watch) (id : Nat) (f : Op → Op) : Watch :=
  { w.modOp id f with held := w.held.map fun h => { h with replay := h.replay.map fun r => if r.op.id = id then { r with op := f r.op } else r } }
/-- Mark an operation complete. -/
def Watch.finishOp (w : Watch) (id : Nat) : Watch := (w.modOp id fun o => { o with done := true }).reap

end Sys2Proof.Machine
end

