-- ==== Sys2Proof/Machine/Xlate.lean ====
section
/-! DEFINITION. Addresses and translation: the checks of an address (06 R179, R195), the page walk (12 R334 to R337), the
cached translations (R342, R344) and the outcomes of R339. -/

namespace Sys2Proof.Machine

/-- Why an address check fails (06 R179, R180, R195). -/
inductive AFail where
  | space | colcross | align | nowin | range | lock
  deriving DecidableEq, Repr

/-- The reason code of FMWHY (06 R180). -/
def AFail.why : AFail → BitVec 4
  | .colcross => 1 | .space => 2 | .range => 3 | .align => 4 | .nowin => 5 | .lock => 6

/-- What a control instruction traps with (06 R195; 09 R263). -/
def AFail.cause : AFail → Nat
  | .space => 0x10 | .nowin => 0x10 | .colcross => 0x11 | .align => 0x13 | .range => 0x14 | .lock => 0x15

/-- What a translation answers (12 R339, R345): the place, a fault with its XLATE code, a page that is mapped and not resident,
or a wait for a draining page. -/
inductive XRes where
  | ok (key : Nat) (host : Bool)
  | fault (code : Nat)
  | nonres
  | wait
  deriving DecidableEq, Repr

/-- What an access asks for: its size, whether it stores, whether it is an atomic or a FATOM, the tags it is admitted to, its
alignment, the place of the accessing lane (none for a control access), and whether the tile directory admits it (10 R290). -/
structure AReq where
  size : Nat := 4
  align : Nat := 4
  store : Bool := false
  atom : Bool := false
  tags : List Nat := [0, 1]
  lane : Option Nat := none
  dir : Bool := false
  deriving DecidableEq, Repr

/-- The directory column of a context on a core: its lowest-index column there (10 R290). -/
def Context.dirCol (c : Context) (core : Nat) : Option Nat := c.cols.find? fun p => coreOfCol p == core

/-- The fields of a page table entry (12 R336). -/
def pteValid (e : Word) : Bool := e.getLsbD 0
def pteLeaf (e : Word) : Bool := e.getLsbD 1
def pteWr (e : Word) : Bool := e.getLsbD 2
def pteCspec (e : Word) : Bool := e.getLsbD 3
def pteHost (e : Word) : Bool := e.getLsbD 4
def pteRes (e : Word) : Bool := e.getLsbD 5
def pteTarget (e : Word) : Nat := (e.extractLsb' 8 40).toNat
def pteReserved (e : Word) : Bool := e.extractLsb' 6 2 != 0 || e.extractLsb' 48 16 != 0

/-- A pointer's place: PCN and offset in that slice (12 R336, R347). -/
def ptrPcn (t : Nat) : Nat := t % 1024
def ptrOff (t : Nat) : Nat := ((t / 1024) % 2 ^ 21) * 256
/-- The frame that a pointer names. -/
def ptrFrame (t : Nat) : Nat × Nat := (ptrPcn t, ptrOff t / 2 ^ 18)
/-- The frames that a table or an array of n entries at a pointer touches. -/
def ptrFrames (t n : Nat) : List (Nat × Nat) :=
  (List.range ((ptrOff t % 2 ^ 18 + 8 * n - 1) / 2 ^ 18 + 1)).map fun i => (ptrPcn t, ptrOff t / 2 ^ 18 + i)
/-- A frame that the MMP has reserved (12 R335; log 9). -/
def State.reserved (s : State) (f : Nat × Nat) : Bool := s.ctxs.any fun c => c.2.frames.contains f
/-- A pointer with a reserved bit, outside every slice, or to a frame that the MMP has not reserved (12 R336). -/
def State.ptrBad (s : State) (t : Nat) : Bool :=
  decide (2 ^ 31 ≤ t) || decide (1536 * 2 ^ 18 ≤ ptrOff t) || !s.reserved (ptrFrame t)

/-- Malformed entries (12 R336). -/
def State.pteBad (s : State) (level : Nat) (e : Word) : Bool :=
  let t := pteTarget e
  pteReserved e ||
  (if pteLeaf e then
    !pteHost e && (decide (level = 2) || decide (1535 < t) || (decide (level = 1) && t % 64 != 0))
  else decide (level = 0) || s.ptrBad t)

/-- The size of a page mapped at a level (12 R335). -/
def pageSize (level : Nat) : Nat := if level = 2 then 2 ^ 30 else if level = 1 then 2 ^ 24 else 2 ^ 18
/-- The index of an offset at a level (12 R335). -/
def pageIndex (level off : Nat) : Nat := if level = 2 then off / 2 ^ 30 else (off / pageSize level) % 64

/-- Entry i of the table at a pointer. -/
def State.pte (s : State) (t i : Nat) : Word := BitVec.ofNat 64 (s.readN (memKey .slice 0 (ptrPcn t) (ptrOff t + 8 * i)) 8)

/-- The walk from a level down (12 R337): a fault's code, or the leaf, its page size, and whether a CSPEC array was passed. -/
def State.walkFrom (s : State) (pcn off : Nat) : Nat → Word → Bool → Except Nat (Word × Nat × Bool)
  | level, e, cs =>
    let arr := pteValid e && pteCspec e
    let e' := if arr then s.pte (pteTarget e) pcn else e
    let bad := arr && (s.ptrBad (pteTarget e) || pteReserved e || pteCspec e')
    if !pteValid e' then .error 0
    else if bad || s.pteBad level e' then .error 2
    else if pteLeaf e' then .ok (e', pageSize level, cs || arr)
    else match level with
      | 0 => .error 2
      | l + 1 => walkFrom s pcn off l (s.pte (pteTarget e') (pageIndex l off)) (cs || arr)

/-- The walk of an offset by a column (12 R337). -/
def State.walk (s : State) (ctx pcn off : Nat) : Except Nat (Word × Nat × Bool) :=
  let root := (s.ctx ctx).ptroot
  s.walkFrom pcn off 2 (s.pte (root % 2 ^ 31) (pageIndex 2 off)) false

/-- The valid entries that point on, among the first n of a table: their targets, and whether each is a per-column array (12 R336). -/
def State.pointers (s : State) (t n : Nat) : List (Nat × Bool) :=
  let lo := memKey .slice 0 (ptrPcn t) (ptrOff t)
  s.mem.filterMap fun c =>
    if decide (lo ≤ c.1) && decide (c.1 < lo + 8 * n) && (c.1 - lo) % 8 == 0 && c.2.getLsbD 0 then
      let e := s.pte t ((c.1 - lo) / 8)
      if pteLeaf e && !pteCspec e then none else some (pteTarget e, pteCspec e)
    else none

/-- The entries of a table (12 R335): 4,096 at level 2, 64 below. -/
def tableSize (level : Nat) : Nat := if level = 2 then 4096 else 64

/-- The frames of the tables and the per-column arrays under a table of a level, every frame that one touches (12 R335). -/
def State.tableFrames (s : State) : Nat → Nat → List (Nat × Nat)
  | 0, t => ptrFrames t (tableSize 0) ++ ((s.pointers t 64).filter (·.2)).flatMap fun p => ptrFrames p.1 1024
  | l + 1, t => ptrFrames t (tableSize (l + 1)) ++ (s.pointers t (tableSize (l + 1))).flatMap fun p =>
      if p.2 then ptrFrames p.1 1024 ++ ((s.pointers p.1 1024).filter fun q => !q.2).flatMap fun q => s.tableFrames l q.1
      else s.tableFrames l p.1

/-- A cached translation that serves an offset. -/
def Xlat.serves (x : Xlat) (ctx pcn off : Nat) : Bool :=
  x.ctx == ctx && x.page == off / x.size * x.size && (match x.pcn with | none => true | some p => p == pcn)

/-- The leaf that a lookup finds: the L1's, the cluster cache's, or the walk's (12 R342, R344, R345); none while the page
drains. -/
def State.leafOf (s : State) (ctx pcn off : Nat) : Option (Except Nat (Word × Nat)) :=
  match (s.column pcn).tlb.find? (·.serves ctx pcn off) with
  | some x => some (.ok (x.leaf, x.size))
  | none =>
    match (s.cluster (clusterOfCol pcn)).cache.find? (·.serves ctx pcn off) with
    | some x => if x.draining then none else some (.ok (x.leaf, x.size))
    | none =>
      match s.walk ctx pcn off with
      | .error c => some (.error c)
      | .ok (leaf, size, _) => some (.ok (leaf, size))

/-- The place of an offset under a leaf (12 R337). -/
def leafKey (leaf : Word) (size pcn off : Nat) : Nat :=
  if pteHost leaf then memKey .host 0 0 (pteTarget leaf * 2 ^ 18 + off % size)
  else memKey .slice 0 pcn (pteTarget leaf * 2 ^ 18 + off % size)

/-- The outcome of a translation (12 R339): UNMAPPED and MALFORMED, then HOSTATOM, then WRPROT, then RES = 0. The directory's
offsets (R334) and the save area's (log 5) are not translated; a host address outside every HRANGE is never sent (14 R386). -/
def State.xlate (s : State) (ctx pcn off : Nat) (store atom : Bool) : XRes :=
  if Config.dirBase ≤ off then .ok (memKey .dir ctx (coreOfCol pcn) (off - Config.dirBase)) false
  else if Config.frameBase ≤ off ∧ off < Config.saveEnd then .ok (memKey .save ctx pcn off) false
  else
    match s.leafOf ctx pcn off with
    | none => .wait
    | some (.error c) => .fault c
    | some (.ok (leaf, size)) =>
      if atom && pteHost leaf then .fault 3
      else if (store || atom) && !pteWr leaf then .fault 1
      else if !pteRes leaf then .nonres
      else if pteHost leaf && !s.hostAllows (pteTarget leaf * 2 ^ 18 + off % size) then .fault 4
      else .ok (leafKey leaf size pcn off) (pteHost leaf)

/-- A translation for an engine or the scheduler: the directory's offsets are not admitted to it (10 R290). DESIGN CHOICE: its status is
that of a forbidden page (12 R339), for no engine status names RANGE (log 70). -/
def State.engineXlate (s : State) (ctx pcn off : Nat) (store : Bool) : XRes :=
  if Config.dirBase ≤ off then .fault 1 else s.xlate ctx pcn off store false

/-- The size E of the exchange window in bytes (02 R63). -/
def Layout.window (l : Layout) : Nat :=
  match l.xwin with
  | 1 => 16 * 1024 | 2 => 32 * 1024 | 3 => 64 * 1024 | 4 => 128 * 1024
  | _ => 0

/-- The fields of a private offset (06 R175). -/
def privByte (o : Nat) : Nat := o % 2 ^ 14
def privElem (o : Nat) : Nat := (o / 2 ^ 14) % 16
def privSlot (o : Nat) : Nat := (o / 2 ^ 18) % 32
def privSelf (o : Nat) : Bool := o.testBit 26
def privReserved (o : Nat) : Bool := (o / 2 ^ 23) % 8 != 0 || o / 2 ^ 27 != 0

/-- The slot and element a private offset names, for a lane of watch w (06 R175). -/
def privOwner (w : Watch) (lane : Option Nat) (o : Nat) : Nat × Nat :=
  match lane with
  | some l => if privSelf o then (w.slot, l % 16) else (privSlot o, privElem o)
  | none => (privSlot o, privElem o)

/-- The resident watch of a slot of a core's live bank. -/
def State.atSlot (s : State) (core slot : Nat) : Option (Nat × Watch) :=
  s.watches.find? fun x => x.2.core == core && x.2.slot == slot && x.2.bank == .live && !x.2.ended

/-- Whether bytes [off, off + n) of a space hit a lock that refuses the access (08 R235): a write range refuses every access,
a read range every store. -/
def State.lockHit (s : State) (ctx pcn tag off n : Nat) (store : Bool) : Bool :=
  (s.column pcn).locks.any fun k => k.ctx == ctx && k.tag == tag && decide (off < k.hi) && decide (k.lo < off + n) && (k.write || store)

/-- Whether a resident watch holds a slot of the column's core and does not live in the column (06 R175, R179). -/
def State.ownerElsewhere (s : State) (pcn slot : Nat) : Bool :=
  match s.atSlot (coreOfCol pcn) slot with
  | some (_, x) => !x.cols.contains pcn
  | none => false

/-- An access of an engine or of the host waits for a range that a command other than `own` registered (08 R235). -/
def State.lockWaits (s : State) (own ctx pcn tag off n : Nat) (store : Bool) : Bool :=
  (s.column pcn).locks.any fun k => k.owner != own && k.ctx == ctx && k.tag == tag && decide (off < k.hi) && decide (k.lo < off + n) &&
    (k.write || store)

/-- The checks of an address in the order of 06 R179 and R195, by the column pcn. DESIGN CHOICE: a pointer with SELF = 1 and a non-zero
ELEM or SLOT, for which 06 R175 names no reason, fails with RANGE, as a reserved field does (log 66). -/
def State.checkAddr (s : State) (w : Watch) (pcn : Nat) (r : AReq) (a : Word) : Option AFail :=
  let o := offOf a
  let t := tagOf a
  let lcn := (s.ctx w.ctx).lcn pcn
  let lay := s.layout w.ctx pcn
  let own := privOwner w r.lane o
  if a.extractLsb' 56 8 != 0 || !r.tags.contains t || (t == 4 && r.lane.isNone && privSelf o) then some .space
  else if effCol a lcn ≠ lcn then some .colcross
  else if o % r.align ≠ 0 then some .align
  else if (t = 2 ∨ t = 3) ∧ (!lay.init || lay.window = 0) then some .nowin
  else if (t = 0 ∧ 2 ^ 42 < o + r.size) ∨
      (t = 0 ∧ Config.dirBase < o + r.size ∧ (!r.dir || (s.ctx w.ctx).dirCol (coreOfCol pcn) != some pcn)) ∨ (t = 1 ∧ lay.scratch < o + r.size) ∨ ((t = 2 ∨ t = 3) ∧ lay.window < o + r.size) ∨
      (t = 4 ∧ (privReserved o || (privSelf o && (privElem o != 0 || privSlot o != 0)) || decide (2 ^ 14 < privByte o + r.size)))
    then some .range
  else if t == 4 && s.ownerElsewhere pcn own.1 then some .colcross
  else if s.lockHit w.ctx pcn t o r.size (r.store || r.atom) then some .lock
  else none

/-- The place of an address that passed its checks: none for the exchange window, whose bank is chosen at the order point. -/
def State.placeOf (s : State) (w : Watch) (pcn : Nat) (r : AReq) (a : Word) : XRes :=
  let o := offOf a
  match tagOf a with
  | 0 => s.xlate w.ctx pcn o r.store r.atom
  | 1 => .ok (memKey .plain w.ctx pcn o) false
  | 4 => let own := privOwner w r.lane o
         .ok (memKey .priv w.ctx pcn (own.1 * 2 ^ 18 + own.2 * 2 ^ 14 + privByte o)) false
  | _ => .ok 0 false

/-- The place of an access at its order point: the exchange window is the bank lit then (06 R170, 13 R367). -/
def State.keyNow (s : State) (ctx : Nat) (x : Acc) : Nat :=
  if tagOf x.addr = 2 then memKey (if (s.layout ctx x.pcn).lit then .bank1 else .bank0) ctx x.pcn (offOf x.addr)
  else if tagOf x.addr = 3 then memKey (if (s.layout ctx x.pcn).lit then .bank0 else .bank1) ctx x.pcn (offOf x.addr)
  else x.key

/-- a with Off := (Off(a) + disp) mod 2^42 (06 R179). -/
def dispAddr (a : Word) (disp : W32) : Word := withOff a ((offOf a + (disp.signExtend 42).toNat) % 2 ^ 42)

end Sys2Proof.Machine
end

