-- ==== Sys2Proof/Machine/Flags.lean ====
section
/-! DEFINITION. The status that instructions leave behind: the fault mask FMASK with FMWHY (06 R180, 04 R124), and the block
signature that every control instruction folds (09 R271). -/

namespace Sys2Proof.Machine

/-- LaneOff(l, why) of 00 R9: the lane is off for the rest of the block, its fault-mask bit is set, and the first reason since
FMASK was zero is kept (06 R180). -/
def Watch.laneOff (w : Watch) (l : Nat) (why : BitVec 4) : Watch :=
  { w with
    off := w.off ||| oneLane l
    fmwhy := if w.fmask = 0 then why else w.fmwhy
    fmask := w.fmask ||| oneLane l }

/-- SYSW to FMASK: the bits written as 1 are cleared; FMWHY is 0 while FMASK is zero (04 R124, 06 R180). -/
def Watch.clearFmask (w : Watch) (m : Mask) : Watch :=
  let f := w.fmask &&& ~~~m
  { w with fmask := f, fmwhy := if f = 0 then 0 else w.fmwhy }

/-- One bit of a fold (09 R271). -/
def foldBit (s : W32) : W32 := if s.getLsbD 0 then (s >>> 1) ^^^ 0x82F63B78#32 else s >>> 1

/-- n bits of a fold. -/
def foldBits : Nat → W32 → W32
  | 0, s => s
  | n + 1, s => foldBits n (foldBit s)

/-- Fold(s, w) of 09 R271: one step of CRC-32C over a word. -/
def foldSig (s w : W32) : W32 := foldBits 32 (s ^^^ w)

/-- The signature that every FUSE leaves (09 R271): Fold(Fold(0xFFFFFFFF, 0x00000058), 0x7F4A7C15). -/
def fuseSig : W32 := foldSig (foldSig 0xFFFFFFFF 0x00000058) 0x7F4A7C15

/-- The start value of a signature (09 R271). -/
def startSig : W32 := 0xFFFFFFFF

/-- Word 0 of a control instruction (02 R38, R40). -/
def opcodeWord (i : Instr) : W32 :=
  match encodeControl i with
  | some w => packFields w.f
  | none => 0

/-- The length of a control instruction in bytes (02 R37). -/
def byteLen (i : Instr) : Nat := 4 * lenWords (opcodeWord i)

/-- The instruction at hand is done: its word 0 is folded and the PC moves past it (09 R271, 02 R37). -/
def State.finish (i : Instr) (s : State) : State :=
  s.modFrag fun f => { f with sig := foldSig f.sig (opcodeWord i), pc := f.pc + BitVec.ofNat 42 (byteLen i) }

/-- The instruction at hand is done and folds nothing (09 R271): only the PC moves. -/
def State.finishNoFold (i : Instr) (s : State) : State :=
  s.modFrag fun f => { f with pc := f.pc + BitVec.ofNat 42 (byteLen i) }

/-- The PC moves to a target; the fold is the caller's (04 R102 to R105). -/
def State.jumpTo (t : Off) (s : State) : State := s.modFrag fun f => { f with pc := t }

/-- The PC of the executing fragment plus 4 × SExt(offset, 32) (02 R42). -/
def State.target (s : State) (o : W32) : Off := s.frag.pc + (o.signExtend 42) * 4

end Sys2Proof.Machine
end

