-- ==== Sys2Proof/Machine/Operands.lean ====
section
/-! DEFINITION. The operand forms of lane instructions (02 R48, 05 R133, R134): selectors, pops, latches, predicates and
results, for the lane instruction that the current watch runs. -/

namespace Sys2Proof.Machine

/-- The selectors (02 R48). -/
def selIsV (x : Sel) : Bool := decide (x.toNat < 384)
def selIsLatch (x : Sel) : Bool := decide (384 ≤ x.toNat ∧ x.toNat < 392)
def selIsQueue (x : Sel) : Bool := decide (392 ≤ x.toNat ∧ x.toNat < 400)
def selIsLit (x : Sel) : Bool := x.toNat == 416
def selIsScalar (x : Sel) : Bool := decide (448 ≤ x.toNat)
def selReserved (x : Sel) : Bool := !(selIsV x || selIsLatch x || selIsQueue x || selIsLit x || selIsScalar x)
/-- The register number within its class. -/
def selNum (x : Sel) : Nat :=
  if selIsV x then x.toNat else if selIsLatch x then x.toNat - 384 else if selIsQueue x then x.toNat - 392 else x.toNat - 448

/-- Selector i of an instruction: 0 a, 1 b, 2 c. -/
def selAt (o : LaneOps) (i : Nat) : Sel := if i = 0 then o.a else if i = 1 then o.b else o.c

/-- The lanes in which the instruction acts (01 R19; Active(l) of 00 R9). -/
def Watch.activeIn (w : Watch) (m : Mask) (o : LaneOps) : Mask :=
  m &&& ((if o.pneg then ~~~(w.preg o.p) else w.preg o.p) &&& w.full)

/-- The active lanes of the running lane instruction. -/
def State.active (s : State) (o : LaneOps) : Mask := s.cw.activeIn s.lane.mask o

/-- The chain in progress of the current watch. -/
def State.chain (s : State) : Chain := s.cw.chain.getD { gen := s.cw.gen }

/-- How often the chain popped queue q in lane l so far (01 R32). -/
def Chain.popsAt (c : Chain) (q l : Nat) : Nat := Tbl.getD c.pops (q * 64 + l) 0

/-- Pops of the same queue earlier in the same instruction (01 R32). -/
def popsBefore (o : LaneOps) (i : Nat) : Nat :=
  ((List.range i).filter fun j => decide (selAt o j = selAt o i)).length

/-- The value of an element. -/
def Elem.value : Elem → W32
  | .val v => v
  | _ => 0

/-- The element that the pop of selector i reads in lane l, if the queue holds it (01 R32). -/
def State.popElem (s : State) (o : LaneOps) (i l : Nat) : Option Elem :=
  let q := selNum (selAt o i)
  ((s.cw.q[q]?.getD {}).elems[l]?.getD [])[s.chain.popsAt q l + popsBefore o i]?

/-- The elements that the pop of selector i reads (01 R32). -/
def State.popRow (s : State) (o : LaneOps) (i : Nat) : Row :=
  Vector.ofFn fun l => ((s.popElem o i l.val).map Elem.value).getD 0

/-- The latch Bj of the chain (01 R29). -/
def State.latch (s : State) (j : Nat) : Row64 := ((s.chain.latches[j]?).getD none).getD zeroRow64

/-- The captured scalar of selector i (log 8). -/
def State.scalarOf (s : State) (i : Nat) : Word := if i = 0 then s.lane.sa else if i = 1 then s.lane.sb else s.lane.sc

/-- A 32-bit source in every lane (05 R133). -/
def State.src (s : State) (o : LaneOps) (i : Nat) : Row :=
  let x := selAt o i
  if selIsV x then s.cw.vreg x.toNat
  else if selIsLatch x then lowRow (s.latch (selNum x))
  else if selIsQueue x then s.popRow o i
  else if selIsLit x then Vector.replicate 64 o.lit
  else if selIsScalar x then Vector.replicate 64 ((s.scalarOf i).extractLsb' 0 32)
  else zeroRow

/-- A 64-bit source in every lane (05 R133). -/
def State.src64 (s : State) (o : LaneOps) (i : Nat) : Row64 :=
  let x := selAt o i
  if selIsV x then joinRows (s.cw.vreg x.toNat) (s.cw.vreg (x.toNat + 1))
  else if selIsLatch x then s.latch (selNum x)
  else if selIsQueue x then wideRow (s.popRow o i)
  else if selIsLit x then Vector.replicate 64 (o.lit.signExtend 64)
  else if selIsScalar x then Vector.replicate 64 (s.scalarOf i)
  else zeroRow64

/-- The old value of the destination register. -/
def State.oldD (s : State) (o : LaneOps) : Row := s.cw.vreg o.d.toNat

/-- The queue pops that one instruction makes in its active lanes (01 R32). -/
def addPops (act : Mask) (o : LaneOps) (c : Chain) : Chain :=
  (List.range 3).foldl (fun c i =>
    if selIsQueue (selAt o i) then
      { c with pops := (lanesOf act).foldl (fun t l =>
          Tbl.put t (selNum (selAt o i) * 64 + l) (Tbl.getD t (selNum (selAt o i) * 64 + l) 0 + 1)) c.pops }
    else c) c

/-- Advance the queue heads and the generators as a completed chain leaves them (01 R32, R33; 03 R86), and drop the chain's
entries from the lane issue queue. -/
def Watch.completeChain (w : Watch) (c : Chain) (n : Nat) : Watch :=
  { w with
    chain := none
    gen := c.gen
    lq := w.lq.drop n
    q := Vector.ofFn fun i =>
      let qu := w.q[i]
      { qu with
        popc := Vector.ofFn fun l => qu.popc[l] + c.popsAt i.val l.val
        elems := Vector.ofFn fun l => (qu.elems[l]).drop (c.popsAt i.val l.val) } }

/-- Put an operation in flight under a fresh number and the next place in the watch's order. -/
def State.addOp (s : State) (o : Op) : State :=
  ((s.modW fun w => { w with ops := w.ops ++ [{ o with id := s.next, seq := if o.seq = 0 then s.seq else o.seq }] }).bump).tick

/-- The instruction has issued with the latch value that it leaves (01 R28 to R33): the chain goes on, or completes. -/
def State.laneIssued (s : State) (o : LaneOps) (latch : Option Row64) : State :=
  let c := addPops (s.active o) o s.chain
  let c := { c with latches := c.latches ++ [latch] }
  if s.lane.last then
    c.ops.foldl State.addOp
      ((s.modW fun w => w.completeChain c (s.lane.pos + 1)).modCore s.cw.core fun k => { k with holds := k.holds.filter (· != s.cur) })
  else s.modW fun w => { w with chain := some c }

/-- A 32-bit result: the V register in the active lanes unless NW, and the latch (01 R29, R30; 05 R134). -/
def State.putResult (s : State) (o : LaneOps) (r : Row) : State :=
  let act := s.active o
  let latch := wideRow (blend act r (if o.nw then zeroRow else s.oldD o))
  let s' := s.laneIssued o (some latch)
  if o.nw then s' else s'.modW fun w => w.setV o.d.toNat act r

/-- A 64-bit result (01 R29; 05 R134). -/
def State.putResult64 (s : State) (o : LaneOps) (r : Row64) : State :=
  let act := s.active o
  let old := if o.nw then zeroRow64 else joinRows (s.cw.vreg o.d.toNat) (s.cw.vreg (o.d.toNat + 1))
  let s' := s.laneIssued o (some (blend64 act r old))
  if o.nw then s' else
    s'.modW fun w => (w.setV o.d.toNat act (lowRow r)).setV (o.d.toNat + 1) act (highRow r)

/-- A predicate result: the active lanes of P[d]; no latch value (05 R140). -/
def State.putPred (s : State) (o : LaneOps) (m : Mask) : State :=
  let act := s.active o
  let n := o.d.setWidth 4
  let s' := s.laneIssued o none
  s'.modW fun w => w.setP n ((w.preg n &&& ~~~act) ||| (m &&& act))

/-- No result and no latch value. -/
def State.noResult (s : State) (o : LaneOps) : State := s.laneIssued o none

/-- A lane instruction of three 32-bit sources and the old destination, lane by lane. -/
def State.lane3 (s : State) (o : LaneOps) (f : W32 → W32 → W32 → W32 → W32) : State :=
  let a := s.src o 0
  let b := s.src o 1
  let e := s.src o 2
  let d := s.oldD o
  s.putResult o (Vector.ofFn fun i => f a[i] b[i] e[i] d[i])

/-- A lane instruction of two 32-bit sources. -/
def State.lane2 (s : State) (o : LaneOps) (f : W32 → W32 → W32) : State := s.lane3 o fun a b _ _ => f a b
/-- A lane instruction of one 32-bit source. -/
def State.lane1 (s : State) (o : LaneOps) (f : W32 → W32) : State := s.lane3 o fun a _ _ _ => f a

/-- A lane comparison. -/
def State.laneCmp (s : State) (o : LaneOps) (f : W32 → W32 → Bool) : State :=
  let a := s.src o 0
  let b := s.src o 1
  s.putPred o (maskOf 64 fun i => f (rowAt a i) (rowAt b i))

end Sys2Proof.Machine
end

