-- ==== Sys2Proof/Machine/Coll.lean ====
section
/-! DEFINITION. What a collective run is made of: group descriptors and levels (15 R397 to R400), the steps of the built-in operations
(R409, R410; log 14), and the run that a crew's arrivals start (R404), with its strands, its ranges and the chunks that it writes. -/

namespace Sys2Proof.Machine

/-! ## Descriptors -/

/-- The fields of a group descriptor (15 R398), from its words. -/
def gdBits (d : List Word) (lo n : Nat) : Nat := ((d[lo / 64]?.getD 0).toNat >>> (lo % 64)) % 2 ^ n
def gdNest (d : List Word) : Bool := gdBits d 0 1 == 1
def gdCount (d : List Word) : Nat := gdBits d 1 4 + 1
def gdMy (d : List Word) : Nat := gdBits d 5 4
def gdRing (d : List Word) : Bool := gdBits d 9 2 == 0
def gdDt (d : List Word) : Nat := gdBits d 11 2
def gdFn (d : List Word) : Nat := gdBits d 13 2
def gdCrew (d : List Word) : Nat := gdBits d 15 8
def gdNchk (d : List Word) : Nat := gdBits d 32 16
def gdNstr (d : List Word) : Nat := gdBits d 48 16
def gdBuf (d : List Word) : Word := d[1]?.getD 0
def gdProg (d : List Word) : Word := d[2]?.getD 0
def gdPlen (d : List Word) : Nat := gdBits d 192 16
def gdDev (d : List Word) (i : Nat) : Nat := gdBits d (512 + 64 * i) 16
def gdRte (d : List Word) (i : Nat) : Nat := gdBits d (528 + 64 * i) 8
def gdSub (d : List Word) (i : Nat) : Nat := gdBits d (536 + 64 * i) 8
def gdSize (d : List Word) (i : Nat) : Nat := gdBits d (544 + 64 * i) 16

/-- The size k of a group, and the first rank of member i (15 R399). -/
def gdFirst (d : List Word) (i : Nat) : Nat := (List.range i).foldl (fun n j => n + gdSize d j) 0
def gdRanks (d : List Word) : Nat := gdFirst d (gdCount d)

def Context.group (c : Context) (g : Nat) : Group := Tbl.getD c.groups g {}
def State.group (s : State) (cx g : Nat) : Group := (s.ctx cx).group g

def State.setGroup (s : State) (cx g : Nat) (x : Group) : State := s.modCtx cx fun c => { c with groups := Tbl.put c.groups g x }

/-- The levels of a group from the top towards this device's leaf, as far as the subgroups on the path are defined (15 R399). -/
def State.groupLevels (s : State) (cx : Nat) : Nat → List Word → List (List Word)
  | 0, _ => []
  | n + 1, d =>
    d :: (if gdNest d then
      let g := s.group cx (gdSub d (gdMy d))
      if g.def_ then s.groupLevels cx n g.desc else []
    else [])

/-- The levels that stand on this device: 256 hold every path that names none of the 256 groups twice. -/
def State.groupPart (s : State) (cx : Nat) (d : List Word) : List (List Word) := s.groupLevels cx 256 d

/-- The levels of a group from the top to this device's leaf (15 R399): none where a subgroup on the path is not defined. -/
def State.groupPath (s : State) (cx : Nat) (d : List Word) : Option (List (List Word)) :=
  let l := s.groupPart cx d
  if l.any fun x => !gdNest x then some l else none

/-- This device's rank (15 R399). -/
def pathRank (p : List (List Word)) : Nat := p.foldl (fun n d => n + gdFirst d (gdMy d)) 0

/-- What the definitions of a group have in common on every device (15 R398): the header but MYIDX and CREW, and each member's device
and size. -/
def gdSig (d : List Word) : Nat :=
  ((d[0]?.getD 0) &&& ~~~0x7F81E0#64).toNat + (List.range (gdCount d)).foldl (fun n i =>
    let m := d[8 + i]?.getD 0
    n + ((m.extractLsb' 0 16).toNat + (m.extractLsb' 32 16).toNat <<< 16) <<< (64 + 32 * i)) 0

/-- The ranks from `base` on of the levels of a path, by device and route entry (15 R399). The device of a rank that no descriptor on the
path names is a free value (log 14); so are those of a subgroup on the path that is not defined here, but for its rank 0. -/
def rankPeers (sig : Nat) : Nat → List (List Word) → List (Nat × Nat)
  | _, [] => []
  | base, d :: t =>
    (List.range (gdCount d)).flatMap fun i =>
      let lo := base + gdFirst d i
      if gdNest d && i == gdMy d && !t.isEmpty then rankPeers sig lo t
      else (gdDev d i, gdRte d i) :: (List.range (gdSize d i - 1)).map fun k =>
        let x := Config.rankDevice sig (lo + k + 1)
        (x.1.toNat, x.2.toNat)

/-- The ranks of the group whose descriptor stands at the head of a path. -/
def groupRanks (p : List (List Word)) : List (Nat × Nat) := rankPeers (gdSig (p.head?.getD [])) 0 p

/-- The offset of chunk c of channel h in a column (15 R400). -/
def chunkOff (d : List Word) (h c : Nat) : Nat := (offOf (gdBuf d) + (h * gdNchk d + c) * 2048) % 2 ^ 42

/-! ## The steps of the built-in operations -/

/-- The number of the channel that stands for the Tender's own store (log 14). -/
def ownCh : Nat := 16

def actSend (ch ck n peer : Nat) : Act := { op := 0, ch := ch, ck := ck, n := n, peer := peer }
def actRecv (ch ck n peer : Nat) : Act := { op := 1, ch := ch, ck := ck, n := n, peer := peer }
def actCopy (ch ck n ch2 ck2 : Nat) : Act := { op := 3, ch := ch, ck := ck, n := n, ch2 := ch2, ck2 := ck2 }
/-- Receive a chunk into the own store, combined with a local one. -/
def actRred (d : List Word) (rev : Bool) (i : Nat) (src : Nat × Nat) (peer : Nat) : Act :=
  { op := 2, ch := ownCh, ck := i, n := 1, ch2 := src.1, ck2 := src.2, peer := peer, dt := gdDt d, fn := gdFn d, rev := rev }

/-- The rank of member m of a level whose first rank is `base`: the first of the member's ranks (15 R399). -/
def memberRank (d : List Word) (base m : Nat) : Nat := base + gdFirst d m

/-- The fold of a chunk in tree order by member `me` of m (15 R410): the result stands in the own store of member 0. -/
def treeSteps (d : List Word) (base m me i : Nat) : Nat → Nat → Nat × Nat → List Act
  | 0, _, _ => []
  | f + 1, l, cur =>
    if m ≤ 2 ^ l then (if me = 0 ∧ cur.1 ≠ ownCh then [actCopy cur.1 cur.2 1 ownCh i] else [])
    else if me % 2 ^ (l + 1) = 2 ^ l then [actSend cur.1 cur.2 1 (memberRank d base (me - 2 ^ l))]
    else if me + 2 ^ l < m then
      actRred d false i cur (memberRank d base (me + 2 ^ l)) :: treeSteps d base m me i f (l + 1) (ownCh, i)
    else treeSteps d base m me i f (l + 1) cur

/-- The fold of a chunk in ring order (15 R410): the result is sent to member 0 of the level. -/
def ringSteps (d : List Word) (base m me i : Nat) (src : Nat × Nat) : List Act :=
  let j := i % m
  let t := if me = j then m else (me + m - j) % m
  let after := memberRank d base ((me + 1) % m)
  if m = 1 then [actCopy src.1 src.2 1 ownCh i]
  else
    (if t = 1 then [actSend src.1 src.2 1 after]
     else actRred d true i src (memberRank d base ((me + m - 1) % m)) ::
       (if t < m then [actSend ownCh i 1 after] else if me = 0 then [] else [actSend ownCh i 1 (memberRank d base 0)])) ++
    (if me = 0 ∧ j ≠ 0 then [actRecv ownCh i 1 (memberRank d base j)] else [])

/-- The levels from the leaf up in which this device takes part: the leaf, and each one above of which it is the first rank below; each
with its first rank. -/
def upLevels : List (Nat × List Word) → List (Nat × List Word)
  | [] => []
  | x :: t => x :: (if gdMy x.2 = 0 then upLevels t else [])

/-- The levels of a path, the leaf first, each with its first rank (15 R399). -/
def levelsOf (p : List (List Word)) : List (Nat × List Word) :=
  (p.foldl (fun (r : Nat × List (Nat × List Word)) d => (memberRank d r.1 (gdMy d), (r.1, d) :: r.2)) (0, [])).2

/-- Fold chunk i up to rank 0 of the group (15 R410): a leaf of a nested group in tree order, every other level in its SCHED order;
REDUCE in tree order everywhere. -/
def upSteps (tree : Bool) (nested : Bool) (levels : List (Nat × List Word)) (i : Nat) : List Act :=
  levels.zipIdx.flatMap fun x =>
    let d := x.1.2
    let src := if x.2 = 0 then (0, i) else (ownCh, i)
    if tree || !gdRing d || (nested && x.2 == 0) then treeSteps d x.1.1 (gdCount d) (gdMy d) i 17 0 src
    else ringSteps d x.1.1 (gdCount d) (gdMy d) i src

/-- Send chunks of the own store down from rank 0, level by level (15 R410). -/
def downSteps (levels : List (Nat × List Word)) (ck n : Nat) : List Act :=
  levels.reverse.flatMap fun x =>
    let d := x.2
    if gdMy d = 0 then (List.range (gdCount d - 1)).map fun k => actSend ownCh ck n (memberRank d x.1 (k + 1))
    else [actRecv ownCh ck n x.1]

/-- Bring every rank's c chunks, which stand in the own store at rank × c, to rank 0 (15 R409): `lo` is the first rank below each level
from the leaf up. -/
def gatherUp (c : Nat) : Nat → List (Nat × List Word) → List Act
  | _, [] => []
  | first, x :: t =>
    let d := x.2
    let lo := first - gdFirst d (gdMy d)
    (if gdMy d = 0 then
      (List.range (gdCount d - 1)).map fun k =>
        actRecv ownCh ((lo + gdFirst d (k + 1)) * c) (gdSize d (k + 1) * c) (memberRank d x.1 (k + 1))
    else [actSend ownCh (first * c) (gdSize d (gdMy d) * c) x.1]) ++ gatherUp c lo t

/-- Every rank's c chunks of channel ch to every rank's own store (15 R409). -/
def gatherSteps (levels : List (Nat × List Word)) (rank k ch c : Nat) : List Act :=
  [actCopy ch 0 c ownCh (rank * c)] ++ gatherUp c rank levels ++ downSteps levels 0 (k * c)

/-- The steps of a built-in operation on a strand (15 R409; log 14). -/
def builtinSteps (op : Nat) (p : List (List Word)) (step : Nat) : List Act :=
  let d := p.head?.getD []
  let levels := upLevels (levelsOf p)
  let nested := gdNest d
  let n := gdNchk d
  let k := gdRanks d
  let r := pathRank p
  let c := n / k
  let chunks := List.range n
  match op with
  | 0 => chunks.flatMap (upSteps false nested levels) ++ downSteps levels 0 n ++ [actCopy ownCh 0 n 0 0]
  | 1 => chunks.flatMap (upSteps true nested levels) ++ (if r = 0 then [actCopy ownCh 0 n 0 0] else [])
  | 2 => (if r = 0 then [actCopy 0 0 n ownCh 0] else []) ++ downSteps levels 0 n ++ (if r = 0 then [] else [actCopy ownCh 0 n 0 0])
  | 3 => if c = 0 then [] else gatherSteps levels r k 0 c ++ [actCopy ownCh 0 (k * c) 3 0]
  | 4 => if c = 0 then [] else (List.range (k * c)).flatMap (upSteps false nested levels) ++ downSteps levels 0 (k * c) ++
      [actCopy ownCh (r * c) c 3 0]
  | _ =>
    let a := 1 + step % 2
    let b := 1 + (step + 1) % 2
    if k = 1 then [actCopy a 0 n b 0]
    else if nested then gatherSteps levels r k a n ++ [actCopy ownCh ((r + k - 1) % k * n) n b 0]
    else [actSend a 0 n ((r + 1) % k), actRecv b 0 n ((r + k - 1) % k)]

/-! ## Tenders -/

/-- The Tender that serves a column (15 R395): that of its stack. -/
def tenderOf (col : Nat) : Nat := col / 128

def Run.strand (r : Run) (i : Nat) : Strand := r.strands[i]?.getD {}

/-- A strand has one of its Tender's 512 strand contexts (15 R395): they go to the strands in the order of their runs. -/
def State.hasContext (s : State) (r : Run) (i : Nat) : Bool :=
  let t := tenderOf (r.strand i).col
  let on (l : List Strand) : Nat := (l.filter fun x => tenderOf x.col == t && !x.ended).length
  decide (on ((s.runs.takeWhile fun q => q.id != r.id).flatMap (·.strands)) + on (r.strands.take i) < 512)

/-- The commands in a Tender's queue (15 R395): the runs some of whose strands wait for a context there. -/
def State.queuedOn (s : State) (t : Nat) : Nat :=
  (s.runs.filter fun r => (List.range r.strands.length).any fun i => tenderOf (r.strand i).col == t && !(r.strand i).ended &&
    !s.hasContext r i).length

/-! ## The run that arrivals start -/

/-- The channels that a program or an operation writes, and those that it reads (15 R404). -/
def progChannels (prog : List Word) : List Nat × List Nat :=
  let on (p : Nat → Bool) : List Nat := (List.range 16).filter fun c => prog.tail.any fun w =>
    p (w.extractLsb' 0 4).toNat && (w.extractLsb' 4 4).toNat == c
  (on fun o => decide (1 ≤ o ∧ o ≤ 3), on fun o => o == 0 || o == 8)

def opChannels (op step rank : Nat) (prog : List Word) : List Nat × List Nat :=
  match op with
  | 0 => ([0], [])
  | 1 => if rank = 0 then ([0], []) else ([], [0])
  | 2 => if rank = 0 then ([], [0]) else ([0], [])
  | 3 => ([3], [0])
  | 4 => ([3], [0])
  | 5 => ([1 + (step + 1) % 2], [1 + step % 2])
  | _ => progChannels prog

/-- The range locks of a run (15 R404; 08 R234): each channel in each strand's column. -/
def runLocks (ctx owner : Nat) (d : List Word) (cols : List Nat) (wr rd : List Nat) : List (Nat × Lock) :=
  let one (w : Bool) (p c : Nat) : Nat × Lock :=
    (p, { ctx := ctx, tag := 0, lo := chunkOff d c 0, hi := chunkOff d c 0 + gdNchk d * 2048, write := w, owner := owner })
  cols.flatMap fun p => wr.map (one true p) ++ (rd.filter fun c => !wr.contains c).map (one false p)

/-- The rank at a signed offset (15 R413). -/
def peerRank (rank k : Nat) (o : B16) : Nat := (((rank : Int) + o.toInt) % (k : Int)).toNat

/-- The chunks that a transfer writes over the n iterations of its innermost loop, as far as they lie in the channel (15 R411). -/
def writeRun (nchk ch ck n times : Nat) : Nat × Nat × Nat := (ch, ck, ck + n * min times ((nchk - ck) / max 1 n))

/-- The chunks that a program writes, as far as it runs (15 R411, R413), with the counts of the open loops: the END or a word that halts
at once ends it. -/
def progWrites (nchk rank k : Nat) : List Word → List Nat → List (Nat × Nat × Nat)
  | [], _ => []
  | w :: t, loops =>
    let rest := progWrites nchk rank k t loops
    let within (ck n : B16) : Bool := decide (ck.toNat + n.toNat ≤ nchk)
    let put (ch : B4) (ck n : B16) : Nat × Nat × Nat := writeRun nchk ch.toNat ck.toNat n.toNat (loops.head?.getD 1)
    match decodeChunk w with
    | .ok (.chunkSend _ _ peer ck n) => if peerRank rank k peer = rank || !within ck n then [] else rest
    | .ok (.chunkRecv ch _ peer ck n) => if peerRank rank k peer = rank || !within ck n then [] else put ch ck n :: rest
    | .ok (.chunkRred ch dt _ peer ck n) =>
      if peerRank rank k peer = rank || decide (2 ≤ dt.toNat) || !within ck n then [] else put ch ck n :: rest
    | .ok (.chunkCopy ch dst ck n) =>
      if !within ck n || !within dst n then [] else (ch.toNat, dst.toNat, dst.toNat + n.toNat) :: rest
    | .ok (.chunkMcast _ _ ck n) => if !within ck n then [] else rest
    | .ok (.chunkLoop n) => if 4 ≤ loops.length then [] else progWrites nchk rank k t (n.toNat :: loops)
    | .ok .chunkNext => match loops with
      | [] => []
      | _ :: l => progWrites nchk rank k t l
    | .ok (.chunkRoute _ ck) => if 255 < ck.toNat then [] else rest
    | .ok .chunkEnd => []
    | .ok _ => rest
    | _ => []

/-- The chunks that a run writes in each strand's column (15 R409, R411): channel, first, end. -/
def opWrites (op step rank k nchk : Nat) (prog : List Word) : List (Nat × Nat × Nat) :=
  match op with
  | 0 => [(0, 0, nchk)]
  | 1 => if rank = 0 then [(0, 0, nchk)] else []
  | 2 => if rank = 0 then [] else [(0, 0, nchk)]
  | 3 => [(3, 0, k * (nchk / k))]
  | 4 => [(3, 0, nchk / k)]
  | 5 => [(1 + (step + 1) % 2, 0, nchk)]
  | _ => progWrites nchk rank k prog.tail []

/-- The members' arrivals that a run takes: the first of each watch with the oldest arrival's use. -/
def takeArrivals (g : Nat) (l : List CollArr) : List CollArr :=
  match l.find? fun a => a.group == g with
  | none => []
  | some h => (l.filter fun a => a.group == g && a.use == h.use).foldl (fun r a => if r.any (·.w == a.w) then r else r ++ [a]) []

/-- The code with which a run starts at once as failed, 0 for none (15 R404, R406). -/
def runCode (x : Group) (arrs : List CollArr) (path : Option (List (List Word))) (cols : List (Option Nat)) (op : Nat) : Nat :=
  if x.abt || !x.def_ || arrs.any (fun a => a.use != x.use) then 6
  else if arrs.any fun a => a.min_ != (arrs.head?.getD {}).min_ then 0x0F
  else if cols.any (·.isNone) then 2
  else if arrs.any fun a => a.bad != 0 then ((arrs.find? fun a => a.bad != 0).getD {}).bad
  else if path.isNone then 8
  else if cols.length ≠ gdNstr x.desc then 9
  else if op = 6 ∧ x.prog.isEmpty then 0x0E
  else if (op = 0 ∨ op = 1 ∨ op = 4) ∧ gdDt x.desc = 2 then 0x0C
  else 0

/-- The first failing strand of a run that fails at its start (15 R406): the hole, or the column whose drain failed. -/
def runFstr (arrs : List CollArr) (cols : List (Option Nat)) (pcns : List Nat) (code : Nat) : Nat :=
  if code = 2 then cols.findIdx (·.isNone)
  else match arrs.find? fun a => a.bad != 0 with
    | some a => if a.bad = code then pcns.findIdx (· == a.badCol) else 0
    | none => 0

/-- The run that the arrivals of a crew's members start (15 R404, R406): its strands are the columns of the exchange set as it stands. -/
def State.newRun (s : State) (cx g : Nat) (arrs : List CollArr) (lcns : List Nat) : Run :=
  let x := s.group cx g
  let p := s.groupPart cx x.desc
  let cols := lcns.map (s.ctx cx).pcnLive
  let pcns := cols.map fun q => q.getD 1023
  let op := ((arrs.head?.getD {}).min_.extractLsb' 0 3).toNat
  let code := runCode x arrs (s.groupPath cx x.desc) cols op
  let step := if op = 5 then x.step else 0
  let ch := opChannels op step.toNat (pathRank p) x.prog
  { id := s.next, ctx := cx, group := g, use := x.use, run := x.run, step := step, op := op, desc := x.desc, members := arrs
    peers := groupRanks p, rank := pathRank p, nrank := gdRanks x.desc, strands := pcns.map fun q => { col := q }
    prog := x.prog, acts := if op = 6 ∨ code ≠ 0 then [] else builtinSteps op p step.toNat
    writes := if code = 0 then opWrites op step.toNat (pathRank p) (gdRanks x.desc) (gdNchk x.desc) x.prog else []
    code := code, fstr := runFstr arrs cols pcns code
    locks := if code = 0 then runLocks cx s.next x.desc pcns ch.1 ch.2 else [], at_ := s.seq }

end Sys2Proof.Machine
end

