-- ==== Sys2Proof/Machine/Crew.lean ====
section
/-! DEFINITION. The crew controller's operations (09 R246 to R252): membership, exchange sets, phases, departures; and the swap
of the exchange banks (10 R287, R288). -/

namespace Sys2Proof.Machine

def State.crew (s : State) (ctx c : Nat) : Option Crew := Tbl.find (s.ctx ctx).crews c
def State.setCrew (s : State) (ctx c : Nat) (x : Crew) : State :=
  s.modCtx ctx fun k => { k with crews := Tbl.put k.crews c x }
def State.delCrew (s : State) (ctx c : Nat) : State :=
  s.modCtx ctx fun k => { k with crews := Tbl.del k.crews c }

def Crew.member (c : Crew) (w : Nat) : Option Member := c.members.find? (·.w == w)
/-- Whether a watch is a member (a member that departed by fault is one until its removal). -/
def Crew.has (c : Crew) (w : Nat) : Bool := c.members.any fun m => m.w == w && !m.faulted
/-- The members now: one that departed by fault is a member until its phase completes (09 R250). -/
def Crew.count (c : Crew) : Nat := c.members.length

/-- Ascending insertion without repeats. -/
def insertAsc (x : Nat) : List Nat → List Nat
  | [] => [x]
  | y :: t => if x < y then x :: y :: t else if x = y then y :: t else y :: insertAsc x t

/-- The LCNs of the columns of a list of members, ascending (09 R247). -/
def State.lcnsOf (s : State) (ctx : Nat) (ms : List Member) : List Nat :=
  ms.foldl (fun l m => (m.cols.map (s.ctx ctx).lcn).foldl (fun l c => insertAsc c l) l) []

/-- The crews that a watch belongs to. -/
def State.crewsOf (s : State) (ctx w : Nat) : List Nat :=
  ((s.ctx ctx).crews.filter fun c => c.2.members.any (·.w == w)).map (·.1)

/-- The exchange rank of an LCN in a set (09 R247). -/
def rankOf (cols : List Nat) (lcn : Nat) : Option Nat := if cols.contains lcn then some (cols.idxOf lcn) else none

/-- Exchange the banks of a column and mark its window initialised (10 R288); a hole is skipped. -/
def State.swapColumn (s : State) (ctx lcn : Nat) : State :=
  match (s.ctx ctx).pcnLive lcn with
  | none => s
  | some pcn => s.modLayout ctx pcn fun l => { l with lit := !l.lit, init := true }

/-- Release a fragment that waits at a BAR of a crew (09 R250, R251): the completion of a phase, which acquires, releases what has arrived
in it. -/
def SplitEntry.releaseBar (f : SplitEntry) (crew phase : Nat) (acquire : Bool) : SplitEntry :=
  match f.bar with
  | some b => if b.crew = crew ∧ (if acquire then b.sent ∧ b.phase = phase else True) ∧ !b.released
      then { f with bar := some { b with released := true, acquire := acquire } } else f
  | none => f

/-- Release the fragments of a watch that wait at a BAR of a crew, those held at a trap too (09 R250, R251; log 11). -/
def releaseBars (crew phase : Nat) (acquire : Bool) (w : Watch) : Watch :=
  { w with
    split := Vector.ofFn fun i => w.split[i].releaseBar crew phase acquire
    held := w.held.map fun h => { h with split := Vector.ofFn fun i => h.split[i].releaseBar crew phase acquire } }

/-- A phase completes (09 R251, 10 R288): the count, the removal of the faulted members, the swap of the set as it stood during
the phase, the new exchange set, the release of the members. -/
def State.completePhase (s : State) (ctx c : Nat) (x : Crew) : State :=
  let keep := x.members.filter fun m => !m.faulted
  let s := if x.members.any (·.swap) then x.cols.foldl (fun s l => s.swapColumn ctx l) s else s
  let s := x.members.foldl (fun s m => s.modWatch m.w (releaseBars c x.phase true)) s
  if keep.isEmpty then s.delCrew ctx c else
  s.setCrew ctx c { x with
    members := keep.map fun m => { m with arrived := false, swap := false }
    phase := x.phase + 1
    cols := s.lcnsOf ctx keep }

/-- Complete the open phase where every member has arrived (09 R251, R255); a crew without members is dissolved (R248). -/
def State.checkPhase (s : State) (ctx c : Nat) : State :=
  match s.crew ctx c with
  | none => s
  | some x =>
    if x.members.isEmpty then s.delCrew ctx c
    else if x.members.all (·.arrived) then s.completePhase ctx c x else s

/-- The arrivals for a run of a group, once every member of the crew has arrived (15 R404): one that departed by fault is not awaited. -/
def State.collReady (s : State) (ctx c : Nat) (x : Crew) (g : Nat) : List CollArr :=
  let arrs := takeArrivals g (s.ctx ctx).colls
  if (arrs.any fun a => a.crew != c) || x.members.any fun m => !m.faulted && !arrs.any fun a => a.w == m.w then [] else arrs

/-- Every member has arrived: the run starts (15 R404). The device takes RUN, and for ROT STEP, and the run waits for its ranges. -/
def State.startColl (s : State) (ctx c : Nat) (x : Crew) (g : Nat) : State :=
  let arrs := s.collReady ctx c x g
  if arrs.isEmpty then s
  else
    let r := s.newRun ctx g arrs x.cols
    let y := s.group ctx g
    let s := s.setGroup ctx g { y with run := y.run + 1, step := if r.op = 5 then y.step + 1 else y.step }
    let s := s.modCtx ctx fun k => { k with colls := k.colls.filter fun a => !arrs.contains a }
    { s with starts := s.starts ++ [r] }.bump

/-- The members that departed by fault go (15 R404); a crew without members is dissolved (09 R248). -/
def State.dropFaulted (s : State) (ctx c : Nat) : State :=
  match s.crew ctx c with
  | none => s
  | some x =>
    let keep := x.members.filter fun m => !m.faulted
    if keep.isEmpty then s.delCrew ctx c else s.setCrew ctx c { x with members := keep }

/-- A crew's members have changed, or one has arrived for a run: the runs that every member has arrived for start (15 R404), and the open
phase completes where it may (09 R251). -/
def State.recount (s : State) (ctx c : Nat) : State :=
  match s.crew ctx c with
  | none => s
  | some x =>
    let t := ((s.ctx ctx).colls.filter (·.crew == c)).foldl (fun s a => s.startColl ctx c x a.group) s
    let u := t.checkPhase ctx c
    if t.starts.length = s.starts.length then u else u.dropFaulted ctx c

/-- Record an arrival at the open phase (09 R253). -/
def State.arrive (s : State) (ctx c w : Nat) (swap : Bool) : State :=
  match s.crew ctx c with
  | none => s
  | some x =>
    (s.setCrew ctx c { x with members := x.members.map fun m =>
      if m.w = w then { m with arrived := true, swap := m.swap || swap } else m }).checkPhase ctx c

/-- Report a departing member's FMASK (09 R252). -/
def Crew.report (x : Crew) (off : Bool) (why : BitVec 4) : Crew :=
  if off then { x with fwhy := if x.fcnt = 0 then why else x.fwhy, fcnt := min 0xFFF (x.fcnt + 1) } else x

/-- Whether a message is a watch's arrival at a crew's BAR. -/
def CrewMsg.isArrivalOf (m : CrewMsg) (c w : Nat) : Bool :=
  match m with
  | .arrive c' w' _ => c' == c && w' == w
  | .depart _ _ _ _ => false

/-- A departure by LEAVE or by ending (09 R250). -/
def State.departCrew (s : State) (ctx c w : Nat) (off : Bool) (why : BitVec 4) : State :=
  match s.crew ctx c with
  | none => s
  | some x =>
    let s := s.setCrew ctx c { (x.report off why) with members := x.members.filter (·.w != w) }
    let s := s.modWatch w (releaseBars c x.phase false)
    let s := s.modCtx ctx fun k => { k with
      colls := k.colls.filter (fun a => !(a.w == w && a.crew == c))
      msgs := k.msgs.filter (fun m => !m.isArrivalOf c w) }
    s.recount ctx c

/-- A departure by fault (09 R250): a proxy arrival where the watch has not arrived, else removal at once. -/
def State.faultCrew (s : State) (ctx c w : Nat) (off : Bool) (why : BitVec 4) : State :=
  match s.crew ctx c with
  | none => s
  | some x =>
    let x := x.report off why
    let arrived := x.members.any fun m => m.w == w && m.arrived
    let ms := if arrived then x.members.filter (·.w != w)
      else x.members.map fun m => if m.w = w then { m with arrived := true, faulted := true } else m
    let s := s.setCrew ctx c { x with members := ms }
    s.recount ctx c

/-- Process one departure message: the watch departs every crew it belongs to (09 R250). -/
def State.processDepart (s : State) (ctx w : Nat) (fault off : Bool) (why : BitVec 4) : State :=
  (s.crewsOf ctx w).foldl (fun s c => if fault then s.faultCrew ctx c w off why else s.departCrew ctx c w off why) s

/-- Send a message to the crew controller (09 R246). -/
def State.sendCrew (s : State) (ctx : Nat) (m : CrewMsg) : State :=
  s.modCtx ctx fun k => { k with msgs := k.msgs ++ [m] }

/-- The crew registers (09 R249). -/
def Crew.registers (x : Crew) : Word :=
  BitVec.ofNat 64 (x.cols.length % 2 ^ 16 + (x.count % 2 ^ 16) <<< 16 + x.fcnt <<< 32 + x.fwhy.toNat <<< 44 +
    (x.phase % 2 ^ 16) <<< 48)

end Sys2Proof.Machine
end

