-- ==== Sys2Proof/Machine/Reals.lean ====
section
/-! DEFINITION. The reals that the error bounds of the special functions are measured against (05 R149): exponentials, logarithms,
sines and square roots in fixed point, with 200 bits after the point. What these computations lose, less than 2^-180, is added to a
bound, so that no code inside the bound is shut out (log 10). -/

namespace Sys2Proof.Machine

/-- Fixed point: a value times 2^200, rounded down. -/
def fxOne : Int := 2 ^ 200
/-- π and ln 2 in fixed point. -/
def fxPi : Int := 5048344754617993871973410141242436836214643421488662971535368
def fxLn2 : Int := 1113844574712631719546256151097547306333272293549090750737802
def fxMul (x y : Int) : Int := x * y / fxOne

/-- A finite value in fixed point. -/
def fxOf (v : Val) : Int :=
  match v with
  | .fin n m e =>
    let x : Nat := if 0 ≤ e + 200 then m <<< (e + 200).toNat else m >>> (-(e + 200)).toNat
    if n then -(x : Int) else (x : Int)
  | _ => 0

/-- e^x for 0 ≤ x < 1: the first 60 terms of its series. -/
def fxExp (x : Int) : Int := (List.range 60).reverse.foldl (fun t (k : Nat) => fxOne + fxMul x t / ((k : Int) + 1)) fxOne
/-- 2^x for 0 ≤ x < 1. -/
def fxExp2 (x : Int) : Int := fxExp (fxMul x fxLn2)
/-- e^-x for 0 ≤ x, never 0. -/
def fxExpNeg (x : Int) : Int :=
  let n := (-x) / fxLn2
  if n ≤ -200 then 1 else fxExp (-x - n * fxLn2) / 2 ^ (-n).toNat
/-- ln x for 1 ≤ x ≤ 2: 2 artanh z with z = (x - 1) / (x + 1), by 70 terms of its series. -/
def fxLn (x : Int) : Int :=
  let z := (x - fxOne) * fxOne / (x + fxOne)
  2 * fxMul z ((List.range 70).reverse.foldl (fun t (k : Nat) => fxOne / (2 * (k : Int) + 1) + fxMul (fxMul z z) t) 0)
/-- log₂ x for 1 ≤ x ≤ 2. -/
def fxLog2 (x : Int) : Int := fxLn x * fxOne / fxLn2
/-- sin x and cos x of an angle between 0 and 2π: the first 60 terms of their series. -/
def fxSinR (x : Int) : Int :=
  fxMul x ((List.range 60).reverse.foldl
    (fun t (k : Nat) => fxOne - fxMul (fxMul x x) t / ((2 * (k : Int) + 2) * (2 * (k : Int) + 3))) fxOne)
def fxCosR (x : Int) : Int :=
  (List.range 60).reverse.foldl (fun t (k : Nat) => fxOne - fxMul (fxMul x x) t / ((2 * (k : Int) + 1) * (2 * (k : Int) + 2))) fxOne
def fxSin (x : Int) : Int := fxSinR (x % (2 * fxPi))
def fxCos (x : Int) : Int := fxCosR (x % (2 * fxPi))
/-- tanh |x| and 1/(1 + e^-x). -/
def fxTanhAbs (x : Int) : Int :=
  let t := fxExpNeg (2 * (x.natAbs : Int))
  (fxOne - t) * fxOne / (fxOne + t)
def fxTanh (x : Int) : Int := if x < 0 then -fxTanhAbs x else fxTanhAbs x
def fxSigm (x : Int) : Int :=
  let t := fxExpNeg (x.natAbs : Int)
  (if x < 0 then t else fxOne) * fxOne / (fxOne + t)

/-- The exponent of one ulp of FP32 at x · 2^sc (05 R149). -/
def ulpExp (x : Int) (sc : Int) : Int := max (-149) ((Nat.log2 x.natAbs : Int) + sc - 23)
/-- k ulps at x · 2^sc, in units of 2^sc. -/
def ulps (k : Nat) (x sc : Int) : Int := ((k * 2 ^ (ulpExp x sc - sc).toNat : Nat) : Int)

/-- The value x · 2^sc. -/
def valOfFx (x sc : Int) : Val := .fin (decide (x < 0)) x.natAbs sc

/-- A code kept inside [lo, hi]: a code outside it is replaced by the nearer end (05 R149, R150). -/
def inRange (lo hi : Val) (loC hiC c : Nat) : Nat :=
  let v := decodeVal .f32 c
  if v.isNan then hiC else if cmpVal v lo < 0 then loC else if 0 < cmpVal v hi then hiC else c

/-- A code kept within b of x, both times 2^sc, and what the computation of x may have lost; a code outside it is replaced by the
nearer end (05 R149). -/
def within (x b sc : Int) (c : Nat) : Nat :=
  let lo := valOfFx (x - b - 2 ^ 20) sc
  let hi := valOfFx (x + b + 2 ^ 20) sc
  inRange lo hi (roundVal .f32 .rup false lo) (roundVal .f32 .rdn false hi) c
/-- The larger of k ulps and 2^-a, at x. -/
def bound (k a : Nat) (x : Int) : Int := max (ulps k x (-200)) (2 ^ (200 - a))

end Sys2Proof.Machine
end

