-- ==== Sys2Proof/Machine/LaneAlu.lean ====
section
/-! DEFINITION. The fixed functions of lane instructions on codes (05): each takes and gives register bits (05 R135). -/

namespace Sys2Proof.Machine

/-- The rounding mode in MOD[1:0] (02 R50). -/
def rmOf (md : BitVec 5) : Rm :=
  match (md.extractLsb' 0 2).toNat with
  | 0 => .rne | 1 => .rtz | 2 => .rdn | _ => .rup
def isRdn (m : Rm) : Bool := decide (m = .rdn)

/-- A result in format f: rounded, then flushed (03 R77 to R80). -/
def fpResult (f : Fm) (m : Rm) (ftz : Bool) (v : Val) : Nat := flushCode f ftz (roundVal f m false v)

/-- a + b, a − b, a × b, a × b + c (05 R143, R148). -/
def fpAdd (f : Fm) (m : Rm) (ftz : Bool) (a b : Nat) : Nat :=
  fpResult f m ftz (addVal (isRdn m) (readVal f ftz a) (readVal f ftz b))
def fpSub (f : Fm) (m : Rm) (ftz : Bool) (a b : Nat) : Nat :=
  let vb := readVal f ftz b
  fpResult f m ftz (addVal (isRdn m) (readVal f ftz a) (if vb.isNan then vb else vb.negate))
def fpMul (f : Fm) (m : Rm) (ftz : Bool) (a b : Nat) : Nat :=
  fpResult f m ftz (mulVal (readVal f ftz a) (readVal f ftz b))
def fpFma (f : Fm) (m : Rm) (ftz : Bool) (a b c : Nat) : Nat :=
  fpResult f m ftz (fmaVal (isRdn m) (readVal f ftz a) (readVal f ftz b) (readVal f ftz c))

/-- The quiet bit of a format set in a code (05 R144). -/
def quietCode (f : Fm) (c : Nat) : Nat := c ||| 2 ^ (f.mbits - 1)

/-- FMIN and FMAX of 05 R144: −0 below +0, one NaN gives the other source, two NaNs give a quieted. -/
def fpPick (f : Fm) (mx ftz : Bool) (a b : Nat) : Nat :=
  let a := flushCode f ftz a
  let b := flushCode f ftz b
  let va := decodeVal f a
  let vb := decodeVal f b
  if va.isNan && vb.isNan then quietCode f a
  else if va.isNan then b
  else if vb.isNan then a
  else
    let c := cmpVal va vb
    let aLess := if c = 0 then va.neg && !vb.neg else decide (c < 0)
    let aMore := if c = 0 then vb.neg && !va.neg else decide (0 < c)
    if mx then (if aMore then a else if aLess then b else a) else (if aLess then a else if aMore then b else a)

/-- FP32 versions on register bits. -/
def f32 (g : Nat → Nat → Nat) (a b : W32) : W32 := BitVec.ofNat 32 (g a.toNat b.toNat)
def fabsCode (ftz : Bool) (a : W32) : W32 := (BitVec.ofNat 32 (flushCode .f32 ftz a.toNat)) &&& 0x7FFFFFFF#32
def fnegCode (ftz : Bool) (a : W32) : W32 := (BitVec.ofNat 32 (flushCode .f32 ftz a.toNat)) ^^^ 0x80000000#32

/-- The two 16-bit elements of packed halves, each by g (05 R148). -/
def half2 (g : Nat → Nat → Nat → Nat) (a b c : W32) : W32 :=
  let e (x : W32) (i : Nat) : Nat := (x.extractLsb' (16 * i) 16).toNat
  (BitVec.ofNat 16 (g (e a 1) (e b 1) (e c 1))) ++ (BitVec.ofNat 16 (g (e a 0) (e b 0) (e c 0)))

/-- The half format of a type code (05 R148). -/
def halfFm (t : BitVec 4) : Fm := if t == 2 then .bf16 else .f16

/-- A condition of ICMP and FCMP by the sign of the comparison (02 R50). -/
def condHolds (c : BitVec 3) (k : Int) : Bool :=
  match c.toNat with
  | 0 => k == 0 | 1 => k != 0 | 2 => decide (k < 0) | 3 => decide (k ≤ 0) | 4 => decide (0 < k) | 5 => decide (0 ≤ k)
  | _ => false

/-- FCMP (05 R145). -/
def fcmpCode (md : BitVec 5) (a b : W32) : Bool :=
  let ftz := md.getLsbD 4
  let va := readVal .f32 ftz a.toNat
  let vb := readVal .f32 ftz b.toNat
  if va.isNan || vb.isNan then md.getLsbD 3 || md.extractLsb' 0 3 == 1
  else condHolds (md.extractLsb' 0 3) (cmpVal va vb)

/-- ICMP (05 R140). -/
def icmpCode (ty : BitVec 4) (md : BitVec 5) (a b : W32) : Bool :=
  let k : Int := if ty == 7 then (a.toNat : Int) - b.toNat else a.toInt - b.toInt
  condHolds (md.extractLsb' 0 3) k

/-- FCLASS (05 R146). -/
def fclassCode (a : W32) : W32 :=
  let e := a.extractLsb' 23 8
  let m := a.extractLsb' 0 23
  let n := a.getLsbD 31
  let k : Nat :=
    if e == 0xFF then (if m == 0 then (if n then 0 else 7) else if m.getLsbD 22 then 9 else 8)
    else if e == 0 then (if m == 0 then (if n then 3 else 4) else if n then 2 else 5)
    else if n then 1 else 6
  1#32 <<< k

/-- FRINT (05 R147). -/
def frintCode (m : Rm) (ftz : Bool) (a : W32) : W32 :=
  BitVec.ofNat 32 (match readVal .f32 ftz a.toNat with
    | .nan n p => roundVal .f32 .rne false (.nan n p)
    | .inf _ => a.toNat
    | .fin n man e => if 0 ≤ e then a.toNat else flushCode .f32 ftz (roundVal .f32 .rne false (.fin n (roundInt m n man e) 0)))

/-- Special-function codes. -/
def oneF : Nat := 0x3F800000
def infF : Nat := 0x7F800000
def nanF : Nat := 0x7FC00000
def negF : Nat := 0x80000000

/-- What the special functions do with a NaN and with FTZ (05 R149, R150). -/
def special (md : BitVec 5) (a : W32) (f : W32 → Val → Nat) : W32 :=
  let ftz := md.getLsbD 2
  let c := flushCode .f32 ftz a.toNat
  let v := decodeVal .f32 c
  BitVec.ofNat 32 (if v.isNan then quietCode .f32 c else flushCode .f32 ftz (f (BitVec.ofNat 32 c) v))

/-- RCP and SQRT: correctly rounded, RNE (05 R149, R150). -/
def rcpCode (md : BitVec 5) (a : W32) : W32 := special md a fun _ v => roundVal .f32 .rne false (divVal (.fin false 1 0) v)
def sqrtCode (md : BitVec 5) (a : W32) : W32 := special md a fun _ v => roundVal .f32 .rne false (sqrtVal v)

/-- The integer a finite value is, if it is one. -/
def asInt : Val → Option Int
  | .fin n m e =>
    if m = 0 then some 0
    else if 0 ≤ e then some (let i : Int := ((m <<< e.toNat : Nat) : Int); if n then -i else i)
    else if m % 2 ^ (-e).toNat = 0 then some (let i : Int := ((m >>> (-e).toNat : Nat) : Int); if n then -i else i) else none
  | _ => none

/-- EXP2 of a finite value: a code within 2 ulp of 2^a (05 R149; log 10). -/
def exp2Near (a : W32) (v : Val) : Nat :=
  let x := fxOf v
  let n := x / fxOne
  let y := fxExp2 (x % fxOne)
  within y (ulps 2 y (n - 200)) (n - 200) (Config.exp2 a).toNat
/-- EXP2 on a value that is not a NaN: the exact cases, the saturated ranges and the bound (05 R149, R150). -/
def exp2Val (a : W32) (v : Val) : Nat :=
  match v with
  | .inf n => if n then 0 else infF
  | v =>
    if 0 ≤ cmpVal v (.fin false 128 0) then infF
    else if cmpVal v (.fin true 150 0) < 0 then 0
    else match asInt v with
      | some i => if -149 ≤ i ∧ i ≤ 127 then roundVal .f32 .rne false (.fin false 1 i) else exp2Near a v
      | none => exp2Near a v
/-- EXP2 (05 R149, R150): under FTZ +0 where the result is subnormal, also where the bound reaches zero and below it (log 10). -/
def exp2Code (md : BitVec 5) (a : W32) : W32 := special md a fun c v =>
  let r := exp2Val c v
  if md.getLsbD 2 && decide (r % 2 ^ 31 < 2 ^ 23) then 0 else r

/-- RSQ of a positive finite value: a code within 1 ulp of 1/√a (05 R149; log 10). -/
def rsqNear (c : W32) (v : Val) : Nat :=
  match v with
  | .fin _ m e =>
    let m' := if e % 2 = 0 then m else 2 * m
    let r : Int := ((isqrtFrom (2 ^ 460 / m') 231 0 : Nat) : Int)
    let sc : Int := -230 - e / 2
    within r (ulps 1 r sc) sc (Config.rsq c).toNat
  | _ => 0
/-- RSQ (05 R149, R150). -/
def rsqCode (md : BitVec 5) (a : W32) : W32 := special md a fun c v =>
  match v with
  | .inf n => if n then nanF else 0
  | v => if v.isZero then (if v.neg then infF + negF else infF) else if v.neg then nanF else rsqNear c v

/-- The exponent of a power of two. -/
def log2Exact : Val → Option Int
  | .fin _ m e => if m ≠ 0 ∧ 2 ^ Nat.log2 m = m then some (e + (Nat.log2 m : Int)) else none
  | _ => none

/-- LOG2 of a positive finite value: a code within the larger of 2 ulp and 2^-22 of log₂ a (05 R149; log 10). -/
def log2Near (c : W32) (v : Val) : Nat :=
  match v with
  | .fin _ m e =>
    let k := Nat.log2 m
    let x := (e + (k : Int)) * fxOne + fxLog2 (((m <<< (200 - k) : Nat) : Int))
    within x (bound 2 22 x) (-200) (Config.log2 c).toNat
  | _ => 0
/-- LOG2 (05 R149, R150). -/
def log2Code (md : BitVec 5) (a : W32) : W32 := special md a fun c v =>
  match v with
  | .inf n => if n then nanF else infF
  | v =>
    if v.isZero then infF + negF else if v.neg then nanF
    else match log2Exact v with
      | some i => roundVal .f32 .rne false (ofInt i)
      | none => log2Near c v

/-- A code kept inside [-1, 1] (05 R149, R150). -/
def unitRange (c : Nat) : Nat := inRange (.fin true 1 0) (.fin false 1 0) (oneF + negF) oneF c
/-- SIN and COS of a finite value: within 2^-21 of the function f where |a| ≤ 2^15, which may lie outside [-1, 1], and in [-1, 1] above
that (05 R149; log 10). -/
def trigNear (f : Int → Int) (v : Val) (c : Nat) : Nat :=
  if 0 < cmpVal v.abs (.fin false 1 15) then unitRange c else within (f (fxOf v)) (2 ^ 179) (-200) c
def sinCode (md : BitVec 5) (a : W32) : W32 := special md a fun c v =>
  match v with
  | .inf _ => nanF
  | v => if v.isZero then c.toNat else trigNear fxSin v (Config.sin c).toNat
def cosCode (md : BitVec 5) (a : W32) : W32 := special md a fun c v =>
  match v with
  | .inf _ => nanF
  | v => if v.isZero then oneF else trigNear fxCos v (Config.cos c).toNat

/-- TANH and SIGM: within the larger of 2 ulp and 2^-23, in the range of the exact function (05 R149, R150; log 10). -/
def tanhCode (md : BitVec 5) (a : W32) : W32 := special md a fun c v =>
  match v with
  | .inf n => if n then oneF + negF else oneF
  | v => if v.isZero then c.toNat else
    let x := fxTanh (fxOf v)
    unitRange (within x (bound 2 23 x) (-200) (Config.tanh c).toNat)
def sigmCode (md : BitVec 5) (a : W32) : W32 := special md a fun c v =>
  match v with
  | .inf n => if n then 0 else oneF
  | v => if v.isZero then 0x3F000000 else
    let x := fxSigm (fxOf v)
    inRange (.fin false 0 0) (.fin false 1 0) 0 oneF (within x (bound 2 23 x) (-200) (Config.sigm c).toNat)

/-- The maximum of AMAX and TDRN: NaN sticks, otherwise the larger magnitude (05 R158, 07 R215). -/
def amaxCode (m x : W32) : W32 :=
  let vm := decodeVal .f32 m.toNat
  let vx := (decodeVal .f32 x.toNat).abs
  if vm.isNan || vx.isNan then 0x7FC00000#32
  else if 0 < cmpVal vx vm then x &&& 0x7FFFFFFF#32 else m

/-- The word that the atomic maximum of AMAX leaves (05 R158): +0 lies above −0. -/
def amaxAtomic (w m : W32) : W32 :=
  if (decodeVal .f32 w.toNat).isNan || (decodeVal .f32 m.toNat).isNan then 0x7FC00000#32
  else BitVec.ofNat 32 (fpPick .f32 true false w.toNat m.toNat)

/-- New(w, x, c) of 06 R185 and R193 at a width of n bytes: op, float type, old word, operand, compare value. -/
def atomNew (op : Nat) (float : Bool) (n w x c : Nat) : Nat :=
  let md := 2 ^ (8 * n)
  let sg (v : Nat) : Int := if v < md / 2 then (v : Int) else (v : Int) - md
  match op with
  | 0 => if float then roundVal .f32 .rne false (addVal false (decodeVal .f32 w) (decodeVal .f32 x)) else (w + x) % md
  | 1 => if float then fpPick .f32 false false w x else if sg x < sg w then x else w
  | 2 => if float then fpPick .f32 true false w x else if sg w < sg x then x else w
  | 3 => min w x
  | 4 => max w x
  | 5 => Nat.land w x
  | 6 => Nat.lor w x
  | 7 => Nat.xor w x
  | 8 => x
  | 9 => if w = c then x else w
  | 10 => w
  | _ => x

end Sys2Proof.Machine
end

