-- ==== Sys2Proof/Machine/MatrixCore.lean ====
section
/-! DEFINITION. The matrix engine: element values, the order of sums, settling, the effect of each matrix instruction on tiles
and registers (03 R74 to R76, R87 to R89; 07), and the acceptance order of WLOADs and matrix instructions (07 R206). -/

namespace Sys2Proof.Machine

/-- The grant's fields (04 R120). -/
def shapeN (g : BitVec 18) : Nat := 16 <<< (g.extractLsb' 0 2).toNat
def shapeK (g : BitVec 18) : Nat := 32 <<< (g.extractLsb' 2 2).toNat
def shapeA (g : BitVec 18) : BitVec 4 := g.extractLsb' 4 4
def shapeB (g : BitVec 18) : BitVec 4 := g.extractLsb' 8 4
def shapeGA (g : BitVec 18) : Nat := 16 <<< (g.extractLsb' 12 2).toNat
def shapeGB (g : BitVec 18) : Nat := 16 <<< (g.extractLsb' 14 2).toNat

/-- Whether a type is scaled (03 R74, R75). -/
def isMicro (t : BitVec 4) : Bool := t == 5
def isFp8 (t : BitVec 4) : Bool := t == 3 || t == 4
def isScaled (t : BitVec 4) : Bool := isMicro t || isFp8 t

/-- The number of scales in one step (07 R201, R202). -/
def nbOf (ks g : Nat) : Nat := max 1 (ks / g)

/-- The registers of an A block and of its scale block (07 R200, R201). -/
def blockRegs (t : BitVec 4) (ks : Nat) : Nat := ks * tyWidth t / 32
def scaleRegs (t : BitVec 4) (ks g : Nat) : Nat :=
  if isMicro t then ks / 32 + ceilDiv (nbOf ks g) 2 else if isFp8 t then ceilDiv (nbOf ks g) 4 else 0

/-- The bytes of a canonical block of n rows (07 R202). -/
def blockBytes (t : BitVec 4) (n ks g : Nat) : Nat :=
  let data := n * ks * tyWidth t / 8
  let sc := if isMicro t then n * ks / 8 + 2 * nbOf ks g else if isFp8 t then n * nbOf ks g else 0
  ceilDiv (data + sc) 256 * 256

/-- The byte of element (r, k) of a canonical block, and the bit of that byte at which it begins (08 R228). -/
def canonByte (t : BitVec 4) (ks r k : Nat) : Nat × Nat :=
  let w := tyWidth t
  let kb := k * w / 8
  (r / 8 * (8 * ks * w / 8) + kb / 32 * 256 + r % 8 * 32 + kb % 32, k * w % 8)

/-- The bytes of the scales of row r in a canonical block (08 R229): micro-scale m, band scale h, block scale h. -/
def canonMicro (n ks r m : Nat) (t : BitVec 4) : Nat := n * ks * tyWidth t / 8 + r * (ks / 8) + m
def canonBand (n ks h : Nat) (t : BitVec 4) : Nat := n * ks * tyWidth t / 8 + n * (ks / 8) + 2 * h
def canonScale (n ks g r h : Nat) (t : BitVec 4) : Nat := n * ks * tyWidth t / 8 + r * nbOf ks g + h

/-- The value of a code of an operand type, an integer read as its value (03 R71, R73). -/
def codeVal (t : BitVec 4) (c : Nat) : Val :=
  match fmOf t with
  | some f => decodeVal f c
  | none => ofInt (intOf t c)

/-- One operand of an MMA: its type, its group size, its elements, its micro-scales, its band or block scales. -/
structure Operand where
  ty : BitVec 4
  g : Nat
  elem : Nat → Nat
  micro : Nat → Nat
  scale : Nat → Nat

/-- El of 03 R87. -/
def Operand.el (x : Operand) (k : Nat) : Val :=
  let v := codeVal x.ty (x.elem k)
  if isMicro x.ty then mulVal v (decodeVal .e3m5 (x.micro (k / 8))) else v

/-- Band of 03 R87 at k0. -/
def Operand.band (x : Operand) (k0 : Nat) : Val :=
  if isMicro x.ty then decodeVal .bf16 (x.scale (k0 / x.g))
  else if isFp8 x.ty then decodeVal .e8m0 (x.scale (k0 / x.g))
  else .fin false 1 0

/-- The rounding group Gs (03 R87). -/
def roundGroup (a b : Operand) (ks : Nat) : Nat :=
  let g := if isScaled a.ty then min ks a.g else if isScaled b.ty then ks else 32
  if isScaled b.ty then min g b.g else g

/-- The exact sum of one group (03 R87). -/
def groupPart (a b : Operand) (k0 n : Nat) : Val :=
  (List.range n).foldl (fun p i => addVal false p (mulVal (a.el (k0 + i)) (b.el (k0 + i)))) (.fin false 0 0)

/-- A band scale of an infinity makes a zero element of its group a NaN (03 R76, R88). -/
def Operand.zeroUnderInf (x : Operand) (k0 n : Nat) : Bool :=
  match x.band k0 with
  | .inf _ => (List.range n).any fun i => (x.el (k0 + i)).isZero
  | _ => false

/-- One group added to the accumulator (03 R87, R88). DESIGN CHOICE: a part that is zero, an exact real without a sign, counts as +0, so
that its product with a negative band is −0 (log 62). -/
def groupStep (a b : Operand) (k0 n : Nat) (acc : Nat) : Nat :=
  let v := decodeVal .f32 acc
  let sum := addVal false v (mulVal (mulVal (groupPart a b k0 n) (a.band k0)) (b.band k0))
  if v.isNan || sum.isNan || a.zeroUnderInf k0 n || b.zeroUnderInf k0 n then nanF else roundVal .f32 .rne false sum

/-- One element of a tile updated by an MMA (03 R87 to R89). -/
def mmaElem (a b : Operand) (ks : Nat) (acc : W32) : W32 :=
  if a.ty == 8 then
    acc + BitVec.ofInt 32 ((List.range ks).foldl (fun t k => t + intOf 8 (a.elem k) * intOf 8 (b.elem k)) 0)
  else if (decodeVal .f32 acc.toNat).isNan then BitVec.ofNat 32 (quietCode .f32 acc.toNat)
  else
    let gs := roundGroup a b ks
    BitVec.ofNat 32 ((List.range (ks / gs)).foldl (fun c g => groupStep a b (g * gs) gs c) acc.toNat)

/-- The A operand of lane i from the rows captured at issue (07 R200, R201). -/
def operandA (m : MatOp) (i : Nat) : Operand :=
  let t := shapeA m.shape
  let ks := shapeK m.shape
  let g := shapeGA m.shape
  let reg (rows : List Row) (n : Nat) : W32 := rowAt (rows[n]?.getD zeroRow) i
  let per := 32 / tyWidth t
  { ty := t, g := g
    elem := fun k => elemOf t (reg m.rowsA (k / per)) (k % per)
    micro := fun j => elemOf 9 (reg m.rowsB (j / 4)) (j % 4)
    scale := fun h =>
      if isMicro t then elemOf 2 (reg m.rowsB (ks / 32 + h / 2)) (h % 2) else elemOf 10 (reg m.rowsB (h / 4)) (h % 4) }

/-- The B operand: column j of the block whose bytes `rd` gives (07 R202; 08 R228, R229). -/
def operandB (shape : BitVec 18) (rd : Nat → Nat) (j : Nat) : Operand :=
  let t := shapeB shape
  let ks := shapeK shape
  let n := shapeN shape
  let g := shapeGB shape
  { ty := t, g := g
    elem := fun k =>
      let (b, sub) := canonByte t ks j k
      if tyWidth t = 16 then rd b + 256 * rd (b + 1) else (rd b >>> sub) % 2 ^ tyWidth t
    micro := fun m => rd (canonMicro n ks j m t)
    scale := fun h =>
      if isMicro t then rd (canonBand n ks h t) + 256 * rd (canonBand n ks h t + 1) else rd (canonScale n ks g j h t) }

/-- x × y rounded RNE into FP32, on register bits. -/
def mulF32 (x y : W32) : W32 := BitVec.ofNat 32 (fpMul .f32 .rne false x.toNat y.toNat)
def addF32 (x y : W32) : W32 := BitVec.ofNat 32 (fpAdd .f32 .rne false x.toNat y.toNat)

/-- Settle(T, i) of 07 R199; an I8 MMA settles by zeroing or not at all (R210). -/
def Watch.settle (uid : Nat) (w : Watch) (t i : Nat) (int : Bool) : Watch :=
  let r := w.trow t i
  if !r.mark then w else
  let w := w.setTrow t i { r with mark := false }
  if r.pf = 0 then (List.range 64).foldl (fun w n => w.setTile t i n 0) w
  else if int then w
  else (List.range 64).foldl (fun w n => w.setTile t i n (mulF32 (w.tile uid t i n) r.pf)) w

/-- The fields of an MMA's extended word (07 R210). -/
def mmaOff (lit : W32) (hi : Bool) : Nat := if hi then (lit.extractLsb' 10 10).toNat else (lit.extractLsb' 0 10).toNat
def mmaZ (lit : W32) : Bool := lit.getLsbD 20
def mmaNpos (lit : W32) : Nat := (lit.extractLsb' 21 2).toNat

/-- A byte of a weight buffer of a core in a context (07 R204). -/
def State.wbyte (s : State) (ctx core buf off : Nat) : Nat := (memByte s.mem s.epoch (memKey .wbuf ctx (core * 2 + buf) off)).toNat

/-- One row of an MMA (07 R210). -/
def State.mmaRow (s : State) (uid : Nat) (o : LaneOps) (m : MatOp) (w : Watch) (i : Nat) : Watch :=
  let t := o.d.toNat
  let hi := decide (m.rbnd ≤ i)
  let base := 256 * mmaOff o.lit hi
  let rd := fun b => s.wbyte w.ctx w.core (if hi then 1 else 0) (base + b)
  let n := shapeN m.shape
  let c0 := mmaNpos o.lit * n
  let w := w.settle uid t i (shapeA m.shape == 8)
  let a := operandA m i
  (List.range n).foldl (fun w j =>
    let acc := if mmaZ o.lit then 0 else w.tile uid t i (c0 + j)
    w.setTile t i (c0 + j) (mmaElem a (operandB m.shape rd j) (shapeK m.shape) acc)) w

/-- The quarters of an MMA: 2q, or 2q and 2q + 1 where RBND divides quarter q's active rows (07 R207). -/
def quartersOf (mask : Mask) (rbnd : Nat) : List Nat :=
  (List.range 8).foldl (fun l q =>
    let rows := (List.range 8).filter fun r => mask.getLsbD (8 * q + r)
    let low := rows.any fun r => decide (8 * q + r < rbnd)
    let high := rows.any fun r => decide (rbnd ≤ 8 * q + r)
    l ++ (if low then [2 * q] else []) ++ (if high then [2 * q + 1] else [])) []

/-- The lanes of a quarter. -/
def quarterRows (m : MatOp) (q : Nat) : List Nat :=
  (lanesOf m.mask).filter fun i => i / 8 == q / 2 && (decide (m.rbnd ≤ i) == (q % 2 == 1))

/-- The operands of a matrix instruction. -/
def matOps (i : Instr) : LaneOps :=
  match encodeLaneOp i with
  | some (_, o) => o
  | none => { d := 0, nw := false, a := 0, chain := false, b := 0, c := 0, p := 0, pneg := false, ty := 0, md := 0, lit := 0 }

def isMma (i : Instr) : Bool :=
  match i with
  | .mma _ => true
  | _ => false

/-- A quarter is applied to the tile; what stood there before the first one is kept, for an error in a later one (07 R218). -/
def State.applyQuarter (s : State) (uid q : Nat) : State :=
  let w := s.watch uid
  match w.mat with
  | none => s
  | some m =>
    let o := matOps m.instr
    let before := m.before.getD (w.tiles, w.rows)
    let w := (quarterRows m q).foldl (fun w i => s.mmaRow uid o m w i) w
    let left := m.left.filter (· != q)
    s.putWatch uid { w with mat := if left.isEmpty then none else some { m with left := left, before := some before } }

/-- p_j, c, mn and ln of MSOFT, and the new row state (07 R211). -/
def softRow (mo lo : W32) (x : List W32) : List W32 × W32 × W32 × W32 :=
  let v (c : W32) : Val := decodeVal .f32 c.toNat
  let negInf : W32 := 0xFF800000
  let posInf : W32 := 0x7F800000
  let canon : W32 := 0x7FC00000
  if (v mo).isNan || x.any fun c => (v c).isNan then (x.map fun _ => canon, canon, canon, canon)
  else
    let mn := x.foldl (fun m c => BitVec.ofNat 32 (fpPick .f32 true false m.toNat c.toNat)) mo
    let diff (c : W32) : W32 := BitVec.ofNat 32 (fpSub .f32 .rne false c.toNat mn.toNat)
    let p := x.map fun c =>
      if c = negInf then 0
      else if mn = posInf then (if c = posInf then BitVec.ofNat 32 oneF else 0)
      else exp2Code 0 (diff c)
    let c := if mo = negInf then 0
      else if cmpVal (v mo) (v mn) = 0 then BitVec.ofNat 32 oneF
      else exp2Code 0 (diff mo)
    (p, c, mn, p.foldl addF32 (mulF32 lo c))

/-- MSOFT on one row (07 R211). -/
def softApply (uid : Nat) (o : LaneOps) (w : Watch) (i : Nat) : Watch :=
  let ts := o.d.toNat
  let st := (o.lit.extractLsb' 0 3).toNat
  let init := o.lit.getLsbD 3
  let nc := (o.lit.extractLsb' 4 6).toNat + 1
  let r := w.trow st i
  let x := (List.range nc).map fun j => w.tile uid ts i j
  let (p, c, mn, ln) := softRow (if init then 0xFF800000 else r.smax) (if init then 0 else r.ssum) x
  let w := (List.range 64).foldl (fun w j => w.setTile ts i j (p[j]?.getD 0)) w
  w.setTrow st i
    { smax := mn, ssum := ln, mark := true
      pf := if !r.mark then c else if c = 0 ∨ r.pf = 0 then 0 else mulF32 r.pf c }

/-- TCLR on one row (07 R212). -/
def clearRow (o : LaneOps) (w : Watch) (i : Nat) : Watch :=
  let t := o.d.toNat
  let r := w.trow t i
  let w := (List.range 64).foldl (fun w n => w.setTile t i n 0) w
  w.setTrow t i (if o.lit.getLsbD 0 then { r with mark := false, smax := 0xFF800000, ssum := 0 } else { r with mark := false })

/-- TSCL on one row (07 R213), the factor of MODE 0 being a. -/
def scaleTileRow (uid : Nat) (o : LaneOps) (mode : Nat) (a : Row) (w : Watch) (i : Nat) : Watch :=
  let t := o.d.toNat
  let w := w.settle uid t i false
  let div (x y : W32) : W32 := BitVec.ofNat 32 (roundVal .f32 .rne false (divVal (decodeVal .f32 x.toNat) (decodeVal .f32 y.toNat)))
  match mode with
  | 0 => (List.range 64).foldl (fun w n => w.setTile t i n (mulF32 (w.tile uid t i n) (rowAt a i))) w
  | 2 => (List.range 64).foldl (fun w n => w.setTile t i n (div (w.tile uid t i n) (w.trow t i).ssum)) w
  | _ => w

/-- The fields of the tile-move word (07 R214, R215). -/
def tmTile (lit : W32) : Nat := (lit.extractLsb' 0 3).toNat
def tmType (lit : W32) : BitVec 4 := lit.extractLsb' 3 4
def tmRm (lit : W32) : Nat := (lit.extractLsb' 7 3).toNat
def tmSat (lit : W32) : Bool := lit.getLsbD 10
def tmC0 (lit : W32) : Nat := (lit.extractLsb' 11 6).toNat
def tmCount (lit : W32) : Nat := (lit.extractLsb' 17 6).toNat + 1

/-- The rounding mode of a conversion word's RM, SR drawing u (05 R151). -/
def rmCode (rm : Nat) (u : W32) : Rm :=
  match rm with
  | 0 => .rne | 1 => .rtz | 2 => .rdn | 3 => .rup | _ => .sr u.toNat

/-- Elements packed into registers, the last one filled with zeros (07 R214). -/
def packElems (t : BitVec 4) (l : List Nat) : List W32 :=
  let per := 32 / tyWidth t
  (List.range (ceilDiv l.length per)).map fun r =>
    (List.range per).foldl (fun x e => setElem t x e (l[r * per + e]?.getD 0)) 0

/-- Write a lane of a run of V registers. -/
def Watch.putRun (w : Watch) (v lane : Nat) : List W32 → Watch
  | [] => w
  | x :: t => Watch.putRun (w.putV v (setLane (w.vreg v) lane x)) (v + 1) lane t

/-- One element leaving a tile by TMOV.TV (07 R214). -/
def tmElem (t : BitVec 4) (rm : Nat) (sat : Bool) (x : W32) : Nat :=
  if t == 0 || t == 6 then x.toNat
  else if t == 8 then convElem 6 8 .rne sat false x.toNat
  else convElem 0 t (rmCode rm 0) sat false x.toNat

/-- TMOV.TV on one row (07 R214). -/
def tileToRegs (uid : Nat) (o : LaneOps) (w : Watch) (i : Nat) : Watch :=
  let t := tmTile o.lit
  if o.lit.getLsbD 23 then w.putRun o.d.toNat i [(w.trow t i).smax, (w.trow t i).ssum]
  else
    w.putRun o.d.toNat i (packElems (tmType o.lit)
      ((List.range (tmCount o.lit)).map fun e => tmElem (tmType o.lit) (tmRm o.lit) (tmSat o.lit) (w.tile uid t i (tmC0 o.lit + e))))

/-- An element of a register entering a tile by TMOV.VT (07 R214). -/
def vtElem (t : BitVec 4) (c : Nat) : W32 :=
  if t == 8 then (BitVec.ofNat 8 c).signExtend 32
  else if t == 0 || t == 6 then BitVec.ofNat 32 c
  else BitVec.ofNat 32 (convElem t 0 .rne false false c)

/-- TMOV.VT on one row, the source run as captured (07 R214). -/
def regsToTile (o : LaneOps) (rows : List Row) (w : Watch) (i : Nat) : Watch :=
  let ty := tmType o.lit
  let per := 32 / tyWidth ty
  (List.range (tmCount o.lit)).foldl (fun w e =>
    w.setTile o.d.toNat i (tmC0 o.lit + e) (vtElem ty (elemOf ty (rowAt (rows[e / per]?.getD zeroRow) i) (e % per)))) w

/-- TDRN on one row (07 R215): the watch and the running maximum. -/
def drainRow (uid : Nat) (o : LaneOps) (a : Row) (wm : Watch × W32) (i : Nat) : Watch × W32 :=
  let lit := o.lit
  let t := tmTile lit
  let ty := tmType lit
  let (w, m) := wm
  let step (st : Watch × W32 × List Nat) (e : Nat) : Watch × W32 × List Nat :=
    let (w, m, l) := st
    let x := w.tile uid t i (tmC0 lit + e)
    let x := if lit.getLsbD 28 then mulF32 x (rowAt a i) else x
    let g := stepGen (rowAt w.gen i)
    let sr := tmRm lit == 4
    let c := convElem 0 ty (rmCode (tmRm lit) g) (tmSat lit) false x.toNat
    let w := if sr then { w with gen := setLane w.gen i g } else w
    let w := if lit.getLsbD 27 then w.setTile t i (tmC0 lit + e) 0 else w
    (w, amaxCode m x, l ++ [c])
  let (w, m, l) := (List.range (tmCount lit)).foldl step (w, m, [])
  (w.putRun o.d.toNat i (packElems ty l), m)

/-- Sector k of a WLOAD is written (07 R205); the command's values: source tag, PCN, offset, destination byte, sectors, buffer. -/
def State.wloadSector (s : State) (j : Job) (k : Nat) : State :=
  let v (i : Nat) : Nat := j.cmd.extra[i]?.getD 0
  let src := s.keyNow j.ctx { pcn := v 1, addr := (BitVec.ofNat 64 (v 0)) <<< 52 ||| BitVec.ofNat 64 (v 2 + 32 * k)
                              key := memKey .plain j.ctx (v 1) (v 2 + 32 * k) }
  s.writeBytes (memKey .wbuf j.ctx (j.core * 2 + v 5) (v 3 + 32 * k)) ((List.range 32).map fun i => memByte s.mem s.epoch (src + i))

/-- Every sector of a WLOAD is written. -/
def State.wloadAll (s : State) (j : Job) : State :=
  let n := j.cmd.extra[4]?.getD 0
  let s := (List.range (n - j.step)).foldl (fun s i => s.wloadSector j (j.step + i)) s
  s.modCore j.core fun c => { c with wloads := c.wloads.map fun x => if x.id = j.id then { x with step := n } else x }

/-- A matrix instruction other than MMA is performed on the rows of its mask (07 R211 to R215). The draws of a TDRN stand in a chain in
progress too: one that started before them draws none itself (03 R86). -/
def State.performOther (s : State) (uid : Nat) : State :=
  let w := s.watch uid
  match w.mat with
  | none => s
  | some m =>
    let o := matOps m.instr
    let rows := lanesOf m.mask
    let a := m.rowsA[0]?.getD zeroRow
    let done (w : Watch) : State := s.putWatch uid { w with mat := none }
    match m.instr with
    | .msoft _ => done (rows.foldl (softApply uid o) w)
    | .tclr _ => done (rows.foldl (clearRow o) w)
    | .tscl _ => done (rows.foldl (scaleTileRow uid o 0 a) w)
    | .tsclPend _ => done (rows.foldl (scaleTileRow uid o 1 a) w)
    | .tsclDivl _ => done (rows.foldl (scaleTileRow uid o 2 a) w)
    | .tmovTv _ => done (rows.foldl (tileToRegs uid o) w)
    | .tmovVt _ => done (rows.foldl (regsToTile o m.rowsA) w)
    | .tdrn _ =>
      let (w, mx) := rows.foldl (drainRow uid o a) (w, 0)
      let w := { w with mat := none, chain := w.chain.map fun c => { c with gen := w.gen } }
      done (match m.acc with
        | none => w
        | some acc => { w with ops := w.ops.map fun p =>
            if p.kind == .tdrn && p.id == acc.count then { p with accs := p.accs.map fun a => { a with data := mx.toNat } } else p })
    | _ => done w

/-- The accepted matrix instruction of a watch is performed whole. -/
def State.performAll (s : State) (uid : Nat) : State :=
  match (s.watch uid).mat with
  | none => s
  | some m => if isMma m.instr then m.left.foldl (fun s q => s.applyQuarter uid q) s else s.performOther uid

/-- What the core accepted up to an acceptance number, in that order, completes (07 R206, R219). -/
def State.flushMatrix (s : State) (core upto : Nat) : State :=
  let ords := ((s.core core).wloads.filter fun j => decide (j.ord ≤ upto)).foldl (fun l j => insertAsc j.ord l) []
  let ords := (s.watches.filter fun x => x.2.core == core && x.2.mat.any fun m => decide (m.ord ≤ upto)).foldl
    (fun l x => insertAsc (x.2.mat.getD {}).ord l) ords
  ords.foldl (fun s n =>
    let s := match (s.core core).wloads.find? (·.ord == n) with
      | some j => s.wloadAll j
      | none => s
    match s.watches.find? (fun x => x.2.core == core && x.2.mat.any fun m => m.ord == n) with
    | some x => s.performAll x.1
    | none => s) s

end Sys2Proof.Machine
end

