-- ==== Sys2Proof/Machine/Order.lean ====
section
/-! DEFINITION. The order of one watch's accesses (13 R360 to R363; 06 R178, R192): reads through the store FIFO, what an access waits for, in
flight or held by a trap, the steps of loads (06 R177) and atomics (R185, R193), and what a trap or a switch performs before it. -/

namespace Sys2Proof.Machine

/-- Whether an operation goes on by itself when its watch stops (09 R262): stores, ACPY, XST and FATOM. -/
def Op.goesOn (o : Op) : Bool := match o.kind with
  | .st => true | .sst => true | .acpy => true | .xst => true | .fatom => true
  | _ => false

/-- The kinds that a trap turns into replay entries, and that the limit of 15 counts (09 R261, R262). -/
def Op.replays (o : Op) : Bool := !o.done && !o.goesOn

/-- The operations that the limit of 15 counts (09 R261). -/
def Watch.heavy (w : Watch) : Nat := (w.ops.filter Op.replays).length

/-- The byte of a store, if it covers a key. -/
def State.accByte (s : State) (ctx : Nat) (a : Acc) (key : Nat) : Option Byte :=
  let k := s.keyNow ctx a
  if k ≤ key ∧ key < k + a.size then some (byteOf a.data (key - k)) else none

/-- The stores of a watch that have not reached their order points: the FIFO, then the stores of a pair's compare entries. -/
def Watch.heldStores (w : Watch) : List (Nat × Acc) :=
  w.fifo.map (fun e => (e.seq, e.acc)) ++
    match w.pair with
    | some p => (p.ents.filter (·.store)).flatMap fun e => e.op.accs.map fun a => (e.op.seq, a)
    | none => []

/-- The numbers of the operations that a pair's uncommitted entries hold. -/
def Pair.opIds (p : Pair) : List Nat := p.ents.map fun e => e.op.id

/-- A byte of a private window whose slot holds no resident watch, for an access of watch w (06 R175). A watch that has ended counts as
gone for the others; the instructions its lanes still run see its windows (04 R130). -/
def State.ownerless (s : State) (w : Watch) (key : Nat) : Bool :=
  key / 2 ^ 96 == 4 && !(s.watches.any fun x =>
    (!x.2.ended || (x.2.core == w.core && x.2.slot == w.slot)) && x.2.ctx == key / 2 ^ 80 % 2 ^ 16 &&
    x.2.cols.contains (key / 2 ^ 64 % 2 ^ 16) && x.2.slot == key % 2 ^ 64 / 2 ^ 18)

/-- A byte as a load of the watch by a column sees it (06 R178): from the youngest older store still held, else as the column's order point
sees it; a free one in a private window without an owner (06 R175; log 57). -/
def State.loadByte (s : State) (w : Watch) (seq pcn key : Nat) : Byte :=
  if s.ownerless w key then Config.freeByte s.epoch (key + s.seq * 2 ^ 100)
  else match w.heldStores.reverse.findSome? fun e => if e.1 < seq then s.accByte w.ctx e.2 key else none with
  | some b => b
  | none => s.colByte pcn key

/-- n bytes as a load of the watch sees them. -/
def State.loadNat (s : State) (w : Watch) (seq pcn key n : Nat) : Nat :=
  leNat ((List.range n).map fun i => s.loadByte w seq pcn (key + i))

/-- The orders that acquire (02 R42). -/
def ordAcq (r : Ord) : Bool := r == .acq || r == .ar

/-- The kinds of the loads and of the atomics. -/
def Op.isLoad (o : Op) : Bool := o.kind == .ld || o.kind == .sld

def Op.isAtom (o : Op) : Bool := o.kind == .atom || o.kind == .satom || o.kind == .xatom || o.kind == .amax || o.kind == .tdrn

/-- Every access of the operation has been performed. -/
def Op.all (o : Op) : Bool := o.accs.all (·.got)

/-- Two accesses outside the exchange window touch a common byte. -/
def Acc.meets (a b : Acc) : Bool :=
  !(tagOf a.addr == 2 || tagOf a.addr == 3 || tagOf b.addr == 2 || tagOf b.addr == 3) && decide (a.key < b.key + b.size ∧ b.key < a.key + a.size)

/-- Ascending insertion by the place in the watch's order. -/
def insertOp (o : Op) : List Op → List Op
  | [] => [o]
  | x :: t => if o.seq < x.seq then o :: x :: t else x :: insertOp o t

/-- The loads and the atomics that a trap holds, in the watch's order (09 R262). -/
def Held.ops (h : Held) : List Op :=
  (h.replay.filter fun r => decide (1 ≤ r.kind ∧ r.kind ≤ 3)).foldl (fun l r => insertOp r.op l) []

/-- A lane instruction that a trap holds before its issue stands before a place in the watch's order. -/
def Held.unissued (h : Held) (q : Nat) : Bool :=
  (h.lq.any fun e => decide (e.seq < q)) || h.replay.any fun r => r.chain.any fun e => decide (e.seq < q)

/-- An atomic that a trap holds cannot make its step before RTE (13 R363): its translation is missing, or an older access that is stuck with
it in the replay queue, or an acquire after one, must come first (13 R360, R361). -/
def Watch.atomStuck (w : Watch) (h : Held) (stuck : List Op) (o : Op) : Bool :=
  o.accs.any (·.pend) ||
  (stuck.any fun p => ordAcq p.ord || (w.acqs.any fun q => decide (p.seq < q ∧ q ≤ o.seq)) || p.accs.any fun a => !a.got && o.accs.any fun b =>
      !b.got && ((p.isLoad && p.lane == o.lane && a.meets b) || (p.isAtom && a.pcn == b.pcn))) ||
  w.acqs.any fun q => decide (q ≤ o.seq) && h.unissued q

/-- What a trap holds of loads and atomics (06 R193, 09 R262): the atomics whose steps may be made while the handler runs, and what only RTE
puts in flight again. -/
def Watch.heldParts (w : Watch) : List Op × List Op :=
  match w.held with
  | none => ([], [])
  | some h => h.ops.foldl (fun (r : List Op × List Op) o =>
      if !o.isAtom || w.atomStuck h r.2 o then (r.1, r.2 ++ [o]) else (r.1 ++ [o], r.2)) ([], [])
def Watch.freeAtoms (w : Watch) : List Op := w.heldParts.1
def Watch.stuckOps (w : Watch) : List Op := w.heldParts.2

/-- The operations that order an access at a place of the watch's order (13 R363): what is in flight, and of what a trap holds and has not
performed, for an access from before the trap all, for one of the handler's only the atomics that may step (log 32). -/
def Watch.orderOps (w : Watch) (seq : Nat) : List Op :=
  match w.held with
  | none => w.ops
  | some h => w.ops ++ (if seq < h.at_ then h.ops else w.freeAtoms).filter (!·.all)

/-- A lane instruction of the watch that has not issued stands before a place q of its order, for an access at `seq`. -/
def Watch.laneBefore (w : Watch) (seq q : Nat) : Bool :=
  (w.lq.any fun e => decide (e.seq < q)) || w.held.any fun h => decide (seq < h.at_) && h.unissued q

/-- An access at a place in the watch's order waits for an older acquire (06 R192; 13 R361). -/
def Watch.acqHeld (w : Watch) (seq : Nat) : Bool :=
  let ops := (w.orderOps seq).filter fun o => !o.done
  (w.acqs.any fun q => decide (q ≤ seq) && ((ops.any fun o => (o.isLoad || o.isAtom) && decide (o.seq < q)) || w.laneBefore seq q)) ||
  ops.any fun o => !o.all && ordAcq o.ord && decide (o.seq < seq)

/-- Two accesses touch a common byte. -/
def State.overlap (s : State) (ctx : Nat) (a b : Acc) : Bool :=
  let x := s.keyNow ctx a
  let y := s.keyNow ctx b
  decide (x < y + b.size ∧ y < x + a.size)

/-- The destination of an ACPY's access (06 R190). -/
def Acc.dest (a : Acc) : Acc := { pcn := a.pcn, addr := BitVec.ofNat 64 a.cmp, key := a.count, size := 32 }

/-- The source of an ACPY's access, which may run into a second page (06 R190). -/
def Acc.sources (a : Acc) : List Acc :=
  let n := min a.size (2 ^ 18 - offOf a.addr % 2 ^ 18)
  (if n = 0 then [] else [{ a with size := n }]) ++
    if n < a.size then [{ a with key := a.old + n + 1 - a.size, size := a.size - n }] else []

/-- The bytes that an access of an operation orders. -/
def Op.touch (o : Op) (a : Acc) : List Acc := if o.kind == .acpy then a.dest :: a.sources else [a]

/-- A store in the FIFO as an operation. -/
def StoreEnt.asOp (e : StoreEnt) : Op := { id := e.op, kind := if e.lane then .st else .sst, seq := e.seq, lane := e.lane, accs := [e.acc] }

/-- An older load or atomic must be performed before what an operation still makes (13 R360, R361): an acquire stands between them, they
are atomics to one column, or they touch a common byte in one stream; atomics are ordered against stores by FENCE only. -/
def State.precedes (s : State) (w : Watch) (o g : Op) : Bool :=
  let some_ (p : Acc → Acc → Bool) : Bool := o.accs.any fun a => !a.got && g.accs.any fun b => !b.got && p a b
  decide (o.seq < g.seq) && ((ordAcq o.ord && !o.all) || (w.acqs.any fun q => decide (o.seq < q ∧ q ≤ g.seq)) ||
    (o.isAtom && g.isAtom && some_ fun a b => a.pcn == b.pcn) ||
    ((o.isLoad || !(g.kind == .st || g.kind == .sst)) && o.lane == g.lane &&
      some_ fun a b => (o.touch a).any fun c => (g.touch b).any fun d => s.overlap w.ctx c d))

/-- What goes on from before a trap waits for what only RTE puts in flight again (13 R361, R363; log 32). -/
def State.behindRte (s : State) (w : Watch) (g : Op) : Bool :=
  w.held.any fun h => decide (g.seq < h.at_) &&
    ((w.acqs.any fun q => decide (q ≤ g.seq) && h.unissued q) || w.stuckOps.any fun o => s.precedes w o g)

/-- The stores of the FIFO that cannot leave it before RTE: the first that waits for it, and those behind (06 R178). -/
def State.fifoBehind (s : State) (w : Watch) : List StoreEnt := w.fifo.dropWhile fun e => !s.behindRte w e.asOp

/-- An operation in flight cannot complete before RTE. -/
def State.waitsRte (s : State) (w : Watch) (o : Op) : Bool :=
  o.goesOn && w.held.isSome && (if o.kind == .st || o.kind == .sst then (s.fifoBehind w).any (·.op == o.id)
    else s.behindRte w o || (o.kind == .acpy && o.accs.any fun a => !a.got && (s.fifoBehind w).any fun e =>
      e.lane && decide (e.seq < o.seq) && s.overlap w.ctx a.dest e.acc))

/-- The operations that an access at a place of the order is tested against: the handler's do not wait for what waits for RTE. -/
def State.testedOps (s : State) (w : Watch) (seq : Nat) : List Op :=
  match w.held with
  | none => w.ops
  | some h => (w.orderOps seq).filter fun o => decide (seq < h.at_) || !s.waitsRte w o

/-- An older access of the same stream to a common byte, of one of the kinds of `p`, has not been performed (13 R360 case 1). -/
def State.olderSame (s : State) (w : Watch) (p : Op → Bool) (seq : Nat) (lane : Bool) (a : Acc) : Bool :=
  (s.testedOps w seq).any fun o => p o && o.lane == lane && decide (o.seq < seq) && o.accs.any fun b =>
    !b.got && (o.touch b).any fun c => s.overlap w.ctx a c

/-- The kinds that an older access to a common byte of the same stream may have before a load, a contribution or a copy (13 R360 case 1):
every access that does not pass through the store FIFO. -/
def Op.beforeLoad (o : Op) : Bool := o.isLoad || o.isAtom || o.kind == .fatom || o.kind == .acpy

/-- A store of the FIFO waits for an older acquire, for an older load of one of its bytes, or for an ACPY that writes one (13 R360 case 1,
R361). Atomics are ordered against it by FENCE only, and an ACPY's source by WAITP or FENCE only (06 R190). -/
def State.storeHeld (s : State) (x : Watch) (e : StoreEnt) : Bool :=
  x.acqHeld e.seq || s.olderSame x Op.isLoad e.seq e.lane e.acc || x.ops.any fun o =>
    o.kind == .acpy && o.lane == e.lane && decide (o.seq < e.seq) && o.accs.any fun b => !b.got && s.overlap x.ctx e.acc b.dest

/-- What an ACPY's lane reads and writes waits (13 R360 case 1; 00 R8): the destination for the lower lanes of its instruction and for older
accesses of the lane stream, in the store FIFO too, the source for older loads, atomics, contributions and copies; the watch's own stores to
the source are ordered by WAITP or FENCE only (06 R190). -/
def State.copyHeld (s : State) (x : Watch) (o : Op) (a : Acc) : Bool :=
  (o.accs.any fun b => !b.got && decide (b.lane < a.lane) && s.overlap x.ctx a.dest b.dest) ||
    (x.fifo.any fun e => e.lane && decide (e.seq < o.seq) && s.overlap x.ctx a.dest e.acc) ||
    (o.touch a).any fun c => s.olderSame x Op.beforeLoad o.seq true c

/-! ## The steps of loads and atomics -/

/-- The old value goes to the destination (06 R185, R193), but for the lanes that a handler took out of an ATOMIC's LMASK (09 R266). -/
def Watch.writeOld (w : Watch) (o : Op) (lane old : Nat) : Watch :=
  if o.nw then w
  else if o.lane then (if o.mask.getLsbD lane then w.putRun o.d lane [BitVec.ofNat 32 old] else w)
  else w.setS (BitVec.ofNat 6 o.d) (BitVec.ofNat 64 old)

/-- The old values that an operation's steps returned are written; those of an insert wait for its acknowledgement (10 R296). -/
def Watch.writeOlds (w : Watch) (o : Op) : Watch :=
  if o.isAtom && o.stamp == 0 then o.accs.foldl (fun w a => if a.got then w.writeOld o a.lane a.old else w) w else w

/-- Mark one access performed. -/
def Op.gotAcc (o : Op) (i old : Nat) : Op :=
  { o with accs := o.accs.zipIdx.map fun p => if p.2 = i then { p.1 with got := true, old := old } else p.1 }

/-- The operation is complete where every access is performed and no insert waits for its acknowledgement (06 R181, 10 R296). -/
def State.completeOp (s : State) (w op : Nat) : State :=
  s.modWatch w fun x => match x.op op with
    | some o => if o.all && o.stamp == 0 then x.finishOp op else x
    | none => x

/-- A loaded value widened (06 R183, R191). -/
def loadValue (z v : Nat) : Nat :=
  if z = 5 then ((BitVec.ofNat 8 v).signExtend 64).toNat
  else if z = 6 then ((BitVec.ofNat 16 v).signExtend 64).toNat
  else if z = 7 then ((BitVec.ofNat 32 v).signExtend 64).toNat
  else v

/-- Write a loaded value to the destination of one lane, or to the S register (06 R183, R191). -/
def Watch.writeLoad (w : Watch) (o : Op) (lane v : Nat) : Watch :=
  let x := loadValue o.size v
  if o.lane then
    w.putRun o.d lane ((List.range (if o.size = 4 then 4 else if o.size = 3 then 2 else 1)).map fun i =>
      BitVec.ofNat 32 (x >>> (32 * i)))
  else if o.size = 4 then (w.setS (BitVec.ofNat 6 o.d) (BitVec.ofNat 64 x)).setS (BitVec.ofNat 6 (o.d + 1)) (BitVec.ofNat 64 (x >>> 64))
  else w.setS (BitVec.ofNat 6 o.d) (BitVec.ofNat 64 x)

/-- One access of a load is read and written to its destination. -/
def State.returnAcc (s : State) (w : Nat) (o : Op) (i : Nat) (a : Acc) : State :=
  s.modWatch w fun x =>
    (x.writeLoad o a.lane (s.loadNat x o.seq a.pcn (s.keyNow x.ctx a) a.size)).modOp o.id fun o => o.gotAcc i 0

/-- The entry of the tile directory whose bytes 0 to 7 a key lies in (10 R290). -/
def dirEntry (key : Nat) : Option Nat :=
  if key / 2 ^ 96 = 5 ∧ key % 2 ^ 64 % 32 < 8 then some (key - key % 32) else none

/-- STATE of an entry (10 R291). -/
def State.dirState (s : State) (entry : Nat) : Nat := bitsN (s.readN entry 8) 49 48

/-- Write at an order point; an insert takes its stamp (10 R296), which stands in the operation plus one. -/
def State.performWrite (s : State) (w op key n v : Nat) : State :=
  let t := s.writeN key n v
  match dirEntry key with
  | none => t
  | some e =>
    if s.dirState e ≠ 1 ∧ t.dirState e = 1 then
      let cx := (s.watch w).ctx
      let stamp := (s.ctx cx).nextCensus
      let core := key / 2 ^ 64 % 2 ^ 16
      (t.modCtx cx fun c => { c with stamps := Tbl.put c.stamps (core * 256 + e % 2 ^ 64 / 32) stamp }).modWatch w
        fun x => x.modAny op fun o => { o with stamp := stamp + 1 }
    else t

/-- The new word of an atomic (06 R185, R193; 05 R158). -/
def Op.newValue (o : Op) (a : Acc) (old : Nat) : Nat :=
  if o.kind == .amax || o.kind == .tdrn then (amaxAtomic (BitVec.ofNat 32 old) (BitVec.ofNat 32 a.data)).toNat
  else atomNew o.fn (o.ty == 0) a.size old a.data a.cmp

/-- The step of one access of an atomic (06 R193). Its old value is written now, unless it is an insert, which waits for its acknowledgement
(10 R296), or a trap holds the atomic, which RTE writes (09 R267). -/
def State.atomStep (s : State) (w : Nat) (o : Op) (i : Nat) (a : Acc) : State :=
  let key := s.keyNow (s.watch w).ctx a
  let old := s.readN key a.size
  let t := s.performWrite w o.id key a.size (o.newValue a old)
  let t := t.modWatch w fun x => x.modAny o.id fun o => o.gotAcc i old
  let held := match (t.watch w).op o.id with
    | some o => o.stamp != 0
    | none => true
  (if held then t else t.modWatch w fun x => x.writeOld o a.lane old).completeOp w o.id

/-- An older atomic of the watch to the same column has not been performed (13 R360 case 3). -/
def Watch.olderAtom (w : Watch) (seq pcn : Nat) : Bool :=
  (w.orderOps seq).any fun o => o.isAtom && decide (o.seq < seq) && o.accs.any fun a => !a.got && a.pcn == pcn

/-- The operation waits for the commit of a pair's entry (09 R276), or for the drain that makes its operand (07 R215). -/
def Watch.heldBack (w : Watch) (op : Nat) : Bool :=
  (w.pair.any fun p => p.opIds.contains op) || w.mat.any fun m => m.acc.any fun a => a.count == op

/-- An access of an atomic may be performed: what is ordered before it has been (13 R360, R361). -/
def State.atomOpen (s : State) (x : Watch) (o : Op) (a : Acc) : Bool :=
  s.isLive x && !x.acqHeld o.seq && !a.pend && !x.olderAtom o.seq a.pcn &&
    !s.olderSame x (fun q => q.beforeLoad && !q.isAtom) o.seq o.lane a

/-! ## What a trap or a switch settles -/

/-- The operations that go on at a trap, and the stores of the FIFO (09 R262). -/
def Watch.goingOn (w : Watch) : List Op :=
  w.fifo.map StoreEnt.asOp ++ w.ops.filter fun o => !o.done && o.goesOn && !(o.kind == .st || o.kind == .sst)

/-- The loads and atomics of a watch that something that goes on is ordered behind, in the watch's order (13 R360, R361). -/
def State.mustSettle (s : State) (w : Watch) : List Op :=
  (((w.ops.filter fun o => !o.done && (o.isLoad || o.isAtom)).foldl (fun l o => insertOp o l) []).foldr
    (fun o (r : List Op × List Op) => if r.1.any (s.precedes w o) then (o :: r.1, o :: r.2) else r) (w.goingOn, [])).2

/-- An access of a load or of an atomic is performed, where it may be now. -/
def State.settleAccess (s : State) (n : Nat) (o : Op) (i : Nat) (a : Acc) : State :=
  let x := s.watch n
  if a.got || a.pend then s
  else if o.isLoad then
    if x.acqHeld o.seq || s.olderSame x Op.beforeLoad o.seq o.lane a || s.hostShut a.key then s else s.returnAcc n o i a
  else if s.atomOpen x o a then s.atomStep n o i a else s

/-- The accesses of a load or of an atomic are performed. -/
def State.settleOp (s : State) (n : Nat) (o : Op) : State :=
  if o.err || (s.watch n).heldBack o.id then s
  else (o.accs.zipIdx.foldl (fun s p => s.settleAccess n o p.2 p.1) s).completeOp n o.id

/-- A trap or a switch stops the loads and the atomics of a watch, while its stores, copies, exchanges and contributions go on (09 R262; 12
R349): what these are ordered behind is performed first, for the replay queue and the standby bank keep the order (13 R363; log 32). -/
def State.settleOrder (s : State) (n : Nat) : State := (s.mustSettle (s.watch n)).foldl (fun s o => s.settleOp n o) s

end Sys2Proof.Machine
end

