-- ==== Sys2Proof/Machine/Ladder.lean ====
section
/-! DEFINITION. Watch starts (02 R66), the bank switch (12 R348, R349) and the escalation ladder (12 R351 to R356, R418): the
records, the events to the host, and what each rung does on entry. -/

namespace Sys2Proof.Machine

/-- An event waits for the ring of a die (14 R379). -/
def State.postEvent (s : State) (die kind ctx arg0 : Nat) (arg1 : Word) : State :=
  s.modDie die fun d => { d with events := d.events ++ [{ words :=
    [BitVec.ofNat 64 (kind + die <<< 8 + ctx <<< 16 + (arg0 % 2 ^ 32) <<< 32), arg1] }] }

/-- Whether the ring of a die has room and is enabled (14 R379). -/
def Die.ringOpen (d : Die) : Bool :=
  d.evctl.getLsbD 4 && decide ((d.evtail - d.evhead).toNat < 2 ^ (d.evctl.extractLsb' 0 4).toNat)
/-- The host address of the next record in the ring. -/
def Die.ringAddr (d : Die) : Nat := d.evbase.toNat + 16 * (d.evtail.toNat % 2 ^ (d.evctl.extractLsb' 0 4).toNat)

/-- The die writes its oldest waiting event and sends an interrupt message (14 R379). DESIGN CHOICE: it waits while the record lies outside
every host range, where it is never sent (14 R386; log 76). -/
def State.writeEvent (s : State) (die : Nat) : State :=
  let d := s.die die
  match d.events with
  | [] => s
  | e :: t =>
    if d.ringOpen && s.hostAllows d.ringAddr then
      (s.writeBytes (memKey .host 0 0 d.ringAddr) (e.words.flatMap fun w => leBytes 8 w.toNat)).modDie die
        fun d => { d with events := t, evtail := d.evtail + 1, irqs := d.irqs + 1 }
    else s

/-- The die writes events while its ring has room. -/
def State.writeEvents (s : State) (die : Nat) : Nat → State
  | 0 => s
  | n + 1 => (s.writeEvent die).writeEvents die n

/-- What an escalation record says (12 R353). -/
structure Esc where
  cause : Nat := 0
  detail : Nat := 0
  tcode : Nat := 0
  watch : W32 := 0
  core : Nat := 0xFF
  addr : Word := 0
  deriving DecidableEq, Repr

/-- The offset of the next record of a context's ring (12 R353; log 5). -/
def Context.recordOff (c : Context) : Nat := Config.ringBase + 32 * (c.seq.toNat % 64)

/-- The address of the next record: tag 0, the LCN of the ring column (12 R353; log 5). -/
def Context.recordAddr (c : Context) : Word :=
  (0 : BitVec 12) ++ BitVec.ofNat 10 (c.lcn c.ringCol) ++ BitVec.ofNat 42 c.recordOff

/-- Write an escalation record (12 R353). -/
def State.escRecord (s : State) (cx rung : Nat) (x : Esc) : State :=
  let c := s.ctx cx
  let w0 := x.cause + rung <<< 8 + (if c.saveInc then 1 else 0) <<< 11 + x.detail <<< 12 + x.tcode <<< 16 + x.watch.toNat <<< 32
  (s.writeN (memKey .save cx c.ringCol c.recordOff) 32
    (w0 + x.core <<< 64 + x.addr.toNat <<< 128 + c.seq.toNat <<< 192)).modCtx cx fun c => { c with seq := c.seq + 1 }

/-- The column takes a layout (06 R174): bank 0 lit (log 4), the window uninitialised, every region undefined. -/
def State.takeLayout (s : State) (ctx pcn scratch xwin : Nat) : State :=
  let gone := fun m sp => memForget m (memKey sp ctx pcn 0) (memKey sp ctx pcn 0 + 2 ^ 20)
  { s.modLayout ctx pcn fun _ => { scratch := scratch, xwin := xwin, lit := false, init := false } with
    mem := gone (gone (gone s.mem .plain) .bank0) .bank1
    epoch := s.epoch + 1 }

/-- The seeds of every lane (03 R84). -/
def Watch.seeded (w : Watch) (seed : Word) : Row := Vector.ofFn fun l => seedGen l.val w.wi w.lblock seed

/-- A split table with one fragment in entry 0 (01 R22). -/
def rootSplit (mask : Mask) (pc : Off) : Vector SplitEntry 8 :=
  (Vector.replicate 8 ({} : SplitEntry)).set 0 { mask := mask, pc := pc, valid := true, root := true }

/-- A register file with values given from S1 on, every other register 0 (02 R66). -/
def startRegs (l : List Word) : Vector Word 64 := Vector.ofFn fun i => if i.val = 0 then 0 else l[i.val - 1]?.getD 0

/-- A watch at its start (02 R66): the placement of `base`, the entry PC, and S1 onwards. -/
def Watch.start (base : Watch) (pc : Off) (regs : List Word) : Watch :=
  { ctx := base.ctx, core := base.core, slot := base.slot, col0 := base.col0, width := base.width, role := base.role
    index := base.index, lblock := base.lblock, allot := base.allot, laneBase := base.laneBase, laneIdx := base.laneIdx
    launch := base.launch, kind := base.kind, resp := base.resp
    s := startRegs regs
    gen := base.seeded 0
    split := rootSplit base.full pc }

/-- The private windows of a watch's lanes: their places in a column (06 R175). -/
def Watch.windowKey (w : Watch) (pcn : Nat) : Nat := memKey .priv w.ctx pcn (w.slot * 2 ^ 18)
/-- The private windows of a slot hold undefined bytes once their watch has gone (06 R175): a new watch finds free bytes there. -/
def State.freshWindows (s : State) (w : Watch) : State :=
  { s with
    mem := w.cols.foldl (fun m p => memForget m (w.windowKey p) (w.windowKey p + 2 ^ 18)) s.mem
    epoch := s.epoch + 1 }

/-- Add a started watch under a fresh number. -/
def State.addWatch (s : State) (w : Watch) : State := ((s.freshWindows w).putWatch s.next w).bump

/-- The columns that a watch's chain holds are free (01 R20, R31). -/
def State.unhold (s : State) (core w : Nat) : State := s.modCore core fun c => { c with holds := c.holds.filter (· != w) }

/-- The watch ends: what it still has under way completes (09 R262). By fault it departs its crews at once, and its XSTs not yet
written are discarded (R250); otherwise it departs when it releases its slot (04 R130). -/
def State.killWatch (s : State) (w : Nat) (fault : Bool) : State :=
  let x := s.watch w
  let s := s.modWatch w fun x => { x with
    ended := true, lq := [], chain := none, crgn := [], held := none, pair := none
    departed := x.departed || fault
    ops := x.ops.filter fun o => (o.goesOn && !(fault && o.kind == .xst)) || o.done
    split := Vector.replicate 8 {} }
  let s := s.unhold x.core w
  if fault && !x.departed then s.sendCrew x.ctx (.depart w true (x.fmask != 0) x.fmwhy) else s

/-- The entries of the chain in progress (01 R33). -/
def Watch.chainPart (w : Watch) : List LqEntry :=
  match w.chain with
  | none => []
  | some _ => w.lq.take (w.lq.head?.getD {}).len

/-- The lanes off in the block, as they were before the chain in progress: what its pops switched off is undone when it is aborted (01 R33,
R36; 08 R240). -/
def Watch.offBefore (w : Watch) : Mask := match w.chain with
  | none => w.off
  | some c => c.off

/-- The chain in progress is aborted and stays at the head of the queue, to issue again from its start (01 R33, R34). -/
def Watch.abortChain (w : Watch) : Watch :=
  { w with
    lq := (w.chainPart.map fun e => { e with again := true }) ++ w.lq.drop w.chainPart.length
    off := w.offBefore, chain := none }

/-- A BAR that a trap or a pre-emption stops executes from its start (04 R93; 09 R253). -/
def SplitEntry.stopBar (f : SplitEntry) : SplitEntry := { f with bar := f.bar.map fun b => { b with again := true } }

/-- A core begins a switch to a context or to none (12 R348): the outgoing watches' chains are aborted and their BARs stopped, what their
stores are ordered behind is performed, the TLBs of its columns emptied, and no watch issues until the switch completes. -/
def State.beginSwitch (s : State) (core : Nat) (target : Option Nat) : State :=
  let s := (s.watchesWith fun w => w.core == core && w.bank == .live).foldl (fun s n => s.settleOrder n) s
  let s := { s with watches := Tbl.mapV s.watches fun (w : Watch) =>
    if w.core = core ∧ w.bank = Bank.live then { w.abortChain with split := w.split.map SplitEntry.stopBar } else w }
  let s := (List.range 4).foldl (fun s i => s.modColumn (core * 4 + i) fun c => { c with tlb := [] }) s
  s.modCore core fun c => { c with switching := some target, want := false, holds := [] }

/-- A switch is requested (12 R348, R349): it begins at once where the standby bank is FREE or READY, and waits otherwise. -/
def State.requestSwitch (s : State) (core : Nat) : State :=
  let c := s.core core
  if c.switching.isSome then s else
  match c.standby with
  | .free => s.beginSwitch core none
  | .ready x => s.beginSwitch core (some x)
  | .spill _ => s.modCore core fun c => { c with want := true }
  | .filling _ => s.modCore core fun c => { c with want := true }

/-- The cores of a context (12 R347, 11 R322). -/
def Context.cores (c : Context) : List Nat := c.liveCols.foldl (fun l p => insertAsc (coreOfCol p) l) []
/-- Every core that has had a column of the context. -/
def Context.allCores (c : Context) : List Nat := c.cols.foldl (fun l p => insertAsc (coreOfCol p) l) []

/-- A context's state in a standby bank goes back to the save area, from which it was loaded (12 R349). -/
def State.dropStandby (s : State) (cx core : Nat) : State :=
  let c := s.core core
  if c.switching ≠ some (some cx) ∧ (c.standby = .ready cx ∨ c.standby = .filling cx) then
    ({ s.modCore core (fun c => { c with standby := .free }) with
      watches := Tbl.mapV s.watches fun (w : Watch) =>
        if w.ctx = cx ∧ w.core = core ∧ w.bank = Bank.standby then { w with bank := .saved } else w }).modCtx cx
      fun k => { k with saved := if k.saved.contains core then k.saved else k.saved ++ [core] }
  else s

/-- Remove every byte of a context's own spaces (14 R382). -/
def memForgetCtx (m : List Host.Cell) (cx : Nat) : List Host.Cell :=
  m.filter fun c =>
    let sp := c.1 / 2 ^ 96
    !(decide ((1 ≤ sp ∧ sp ≤ 5) ∨ 8 ≤ sp) && (c.1 / 2 ^ 80) % 2 ^ 16 == cx)

/-- The key of a byte of scheduler memory (11 R309). -/
def schedKey (die off : Nat) : Nat := memKey .sched 0 die off
/-- Graph g's table entry (11 R309). -/
def graphDie (g : Nat) : Nat := g / 2048
def graphKey (g : Nat) : Nat := schedKey (graphDie g) (16 * (g % 2048))
def State.graphEntry (s : State) (g : Nat) : BitVec 128 := BitVec.ofNat 128 (s.readN (graphKey g) 16)
/-- The state entry of hardware queue q of a die (11 R316). -/
def queueKey (die q : Nat) : Nat := schedKey die (0x8000 + 64 * q)
def State.queueCtx (s : State) (die q : Nat) : Nat := s.readN (queueKey die q + 4) 2
def State.queueActive (s : State) (die q : Nat) : Bool := s.readN (queueKey die q + 6) 1 % 2 == 1

/-- A context is switched out on some core, or is being switched out (11 R316). -/
def State.leaving (s : State) (cx : Nat) : Bool :=
  (s.ctx cx).out || (s.cores.any fun k => match k.2.standby with
    | .spill x => x == cx
    | _ => false) || s.cores.any fun k => k.2.live == some cx && (k.2.switching.isSome || k.2.want)

/-- ACTIVE as 11 R316 states it: CTX names an existing context that is not switched out, and RLOG lies in 0 to 12. TAIL writes
captured while the queue was switched out, or while it was being switched out, take effect once it is neither. -/
def State.setActive (s : State) (die q : Nat) : State :=
  let cx := s.queueCtx die q
  let rlog := bitsN (s.readN (queueKey die q) 4) 25 22
  let on := (Tbl.find s.ctxs cx).isSome && !(s.ctx cx).out && decide (rlog ≤ 12)
  let s := s.writeN (queueKey die q + 6) 1 (if on then 1 else 0)
  match if on && !s.leaving cx then Tbl.find (s.die die).qtail q else none with
  | some v => (s.writeN (queueKey die q + 12) 4 v.toNat).modDie die fun d => { d with qtail := Tbl.del d.qtail q }
  | none => s

/-- ACTIVE of every queue that names a context (11 R316). -/
def State.queuesOf (s : State) (cx : Nat) : State :=
  (List.range 128).foldl (fun s i => if s.queueCtx (i / 64) (i % 64) = cx then s.setActive (i / 64) (i % 64) else s) s

/-- Clear VALID and BUSY of the graphs of a context (14 R382). -/
def State.dropGraphs (s : State) (cx : Nat) : State :=
  (List.range 4096).foldl (fun s g =>
    let e := s.graphEntry g
    if e.getLsbD 0 ∧ (e.extractLsb' 16 16).toNat = cx then s.writeN (graphKey g) 1 (e.extractLsb' 2 6 ++ (0 : BitVec 2)).toNat
    else s) s

/-- A context is destroyed (14 R382, 12 R351): everything that is its own goes, and its graphs are released. -/
def State.destroyContext (s : State) (cx : Nat) : State :=
  let mine := (s.launches.filter fun l => l.2.ctx == cx).map (·.1)
  let s := s.dropGraphs cx
  let s := { s with
    watches := s.watches.filter fun w => w.2.ctx != cx
    ctxs := Tbl.del s.ctxs cx
    layouts := s.layouts.filter fun l => l.1 / 1024 != cx
    launches := s.launches.filter fun l => l.2.ctx != cx
    waits := s.waits.filter fun p => p.ctx != cx
    unmaps := s.unmaps.filter fun u => u.ctx != cx
    starts := s.starts.filter fun r => r.ctx != cx
    runs := s.runs.filter fun r => r.ctx != cx
    past := s.past.filter fun r => r.ctx != cx
    mem := memForgetCtx s.mem cx
    columns := Tbl.mapV s.columns fun c => { c with
      locks := c.locks.filter fun k => k.ctx != cx
      fatom := c.fatom.filter fun k => !mine.contains k.launch
      closed := c.closed.filter fun k => !mine.contains k.launch
      tlb := c.tlb.filter fun t => t.ctx != cx }
    clusters := Tbl.mapV s.clusters fun c => { c with
      cache := c.cache.filter fun t => t.ctx != cx
      auct := c.auct.filter fun j => j.ctx != cx }
    cores := Tbl.mapV s.cores fun c => { c with
      live := if c.live = some cx then none else c.live
      standby := match c.standby with
        | .ready x => if x = cx then .free else .ready x
        | .spill x => if x = cx then .free else .spill x
        | .filling x => if x = cx then .free else .filling x
        | .free => .free
      switching := if c.switching = some (some cx) then some none else c.switching
      wloads := c.wloads.filter fun j => j.ctx != cx
      copies := c.copies.filter fun j => j.ctx != cx
      holds := c.holds.filter fun n => (s.watch n).ctx != cx
      slots := Tbl.del c.slots cx }
    dies := Tbl.mapV s.dies fun d => { d with
      fifo := d.fifo.filter fun t => t.ctx != cx
      places := Tbl.mapV d.places fun l => l.filter fun n => !mine.contains n
      recqs := Tbl.mapV d.recqs fun r => match r.bound with
        | some n => if mine.contains n then {} else r
        | none => r
      running := d.running.filter fun g => ((s.graphEntry g.1).extractLsb' 16 16).toNat != cx } }
  s.queuesOf cx

/-- A context saved on every core is switched out (12 R349; 11 R316): one that the partition rung condemned is destroyed then (R418). -/
def State.settleOut (s : State) (cx : Nat) : State :=
  let c := s.ctx cx
  if (Tbl.find s.ctxs cx).isSome && c.cores.all fun k => c.saved.contains k then
    (if c.doom then s.destroyContext cx else (s.modCtx cx fun c => { c with out := true }).queuesOf cx)
  else s

/-- A context is switched out on every core (12 R351): a core that is switching to it switches again when it has done so. -/
def State.switchOut (s : State) (cx : Nat) : State :=
  (((s.ctx cx).allCores.foldl (fun s k =>
    let s := s.dropStandby cx k
    if (s.core k).switching = some (some cx) then s.modCore k fun c => { c with want := true }
    else if (s.core k).live = some cx then s.requestSwitch k else s) s).modCtx cx fun c => { c with wantIn := false }).settleOut cx

/-- The context rung, from above or by a rule that names it (12 R351): the record, the ESCAL event, the switch. -/
def State.contextRung (s : State) (cx : Nat) (x : Esc) : State :=
  let q := (s.ctx cx).seq
  let s := s.escRecord cx 2 x
  let s := s.postEvent 0 2 cx (s.ctx cx).hevt q
  (s.modCtx cx fun c => { c with rung := some 2 }).switchOut cx

/-- The place of a watch in a record. -/
def State.escOf (s : State) (w : Nat) (x : Esc) : Esc :=
  { x with watch := (s.watchId (s.watch w)).extractLsb' 0 32, core := (s.watch w).core }

/-- The crew rung (12 R351, R352): the faulting watch departs by fault and ends, and a handler watch starts in its place; with
CVEC 0 the context rung is entered, its cause NOVEC. DESIGN CHOICE: its generators are seeded from the faulting watch's block index, role
and index, as 03 R84 seeds a watch of a launch; S2, S4 and S5 hold other values in a handler (log 63). -/
def State.crewRung (s : State) (w : Nat) (x : Esc) (tcode : Nat) : State :=
  let v := s.watch w
  let c := s.ctx v.ctx
  let x := s.escOf w x
  if c.cvec = 0 then s.contextRung v.ctx { x with cause := 0x59, tcode := tcode }
  else
    let a := c.recordAddr
    let s := s.escRecord v.ctx 1 x
    let s := s.killWatch w true
    s.addWatch { ({ v with kind := .crewHandler }).start c.cvec [a, BitVec.ofNat 64 x.cause] with inh := true, rung := 1 }

/-- One rung above the rung whose handler runs in a watch (12 R352). -/
def State.oneRungUp (s : State) (w : Nat) (x : Esc) : State :=
  if (s.watch w).rung = 0 then s.crewRung w x x.tcode else s.contextRung (s.watch w).ctx (s.escOf w x)

/-- The partition rung (12 R418, R356): every context with a core in the partition is switched out, with a record and an ESCAL
event; one that is marked save-incomplete, or that the firmware chooses to destroy, is destroyed when it is out (log 17). -/
def State.partitionRung (s : State) (p : Nat) (x : Esc) (kill : List Nat) : State :=
  let clusters := s.parts[p]?.getD 0
  let hit := (s.ctxs.filter fun c => c.2.liveCols.any fun k => clusters.getLsbD (clusterOfCol k)).map (·.1)
  hit.foldl (fun s cx =>
    let q := (s.ctx cx).seq
    let s := s.escRecord cx 3 x
    let s := s.postEvent 0 2 cx (s.ctx cx).hevt q
    (s.modCtx cx fun c => { c with rung := some 3, doom := c.doom || c.saveInc || kill.contains cx }).switchOut cx) s

/-- STATUS of a die (14 R388): `stackBits` holds the trained stacks in bits 0 to 7 and those that failed training in bits 8 to 15. -/
def State.stackUp (s : State) (st : Nat) : Bool := s.stackBits.getLsbD st
def State.stackFailed (s : State) (st : Nat) : Bool := s.stackBits.getLsbD (8 + st)
def dieStacks (die : Nat) : List Nat := (List.range 4).map (4 * die + ·)
/-- Full service (14 R389): every live stack of the die has trained, and every core passed its self-test. -/
def State.fullService (s : State) (die : Nat) : Bool :=
  (dieStacks die).any s.stackUp && (dieStacks die).all (fun st => s.stackUp st || s.stackFailed st) &&
    (List.range 128).all fun k => (s.core (128 * die + k)).tested
def State.phase (s : State) (die : Nat) : Nat :=
  if !s.enmon.running then 0
  else if !s.linkUp then 1
  else if (dieStacks die).any s.stackUp then (if s.fullService die then 4 else 3)
  else if (dieStacks die).all s.stackFailed then 5
  else 2
def State.status (s : State) (die : Nat) : Nat :=
  (dieStacks die).foldl (fun n st => n + if s.stackUp st then 2 ^ st else 0) 0 +
  (if s.linkUp then 2 ^ 8 else 0) +
  (if s.phase die = 4 then 2 ^ 9 + 2 ^ 10 else 0) + s.phase die * 2 ^ 12

/-- Each change of STATUS posts a BRINGUP event (14 R389): `s` is the state before. -/
def State.bringUp (s t : State) : State :=
  let one (t : State) (die : Nat) : State := if t.status die = s.status die then t else t.postEvent die 6 0 (t.status die) 0
  one (one t 0) 1

/-- The compute dies are reset (14 R387, R389): what is Enmon's, the host's and the fabric's stays; the events that the host has
not been told of wait in the die (14 R379). -/
def State.resetDies (s : State) : State :=
  { State.reset with
    mem := s.mem.filter fun c => isHostKey c.1
    dies := [(0, { events := (s.die 0).events, irqs := (s.die 0).irqs }), (1, { events := (s.die 1).events, irqs := (s.die 1).irqs })]
    enmon := { s.enmon with hrange := [], hlock := [], running := true }
    ports := s.ports
    routes := s.routes
    badRoutes := s.badRoutes
    notices := s.notices
    address := s.address
    agenda := s.agenda
    free := s.free
    epoch := s.epoch + 1
    next := s.next
    seq := s.seq }

/-- Enmon logs a record (14 R383): the log holds 4,096 records. -/
def State.enlog (s : State) (l : List Word) : State :=
  let log := s.enmon.log ++ [l]
  { s with enmon := { s.enmon with log := log.drop (log.length - 4096), logBase := s.enmon.logBase + (log.length - 4096) } }

/-- Enmon logs a cause and posts DEVRESET before the dies are reset (14 R381): one event, in the ring of die 0 (log 22). -/
def State.postReset (s : State) (cause : Nat) : State :=
  let s := s.enlog [BitVec.ofNat 64 cause]
  let s := s.postEvent 0 5 0 0 0
  let s := s.writeEvents 0 (s.die 0).events.length
  s.writeEvents 1 (s.die 1).events.length

/-- The device rung (12 R351, R353, 14 R381): a record in the ring of every context, DEVRESET to the host; then every context is
destroyed and the dies are reset. -/
def State.deviceRung (s : State) (cause : Nat) : State :=
  let t := ((s.ctxs.map (·.1)).foldl (fun s cx => s.escRecord cx 4 { cause := cause }) s).postReset cause
  t.bringUp t.resetDies

end Sys2Proof.Machine
end

