-- ==== Sys2Proof/Machine/Ops.lean ====
section
/-! DEFINITION. The shared operations: operations in flight (06 R181, R261), reads through the store FIFO (R178), the checks of a
control access (R195), taking a trap (09 R260 to R266) and the return from it (R267), page faults (12 R340), the mismatch of a
pair (09 R277), and the interlocks between instructions (01 R18). -/

namespace Sys2Proof.Machine

/-- A trap's cause and what its frame records (09 R264, R265). -/
structure TrapInfo where
  cause : Nat
  code : Nat := 0
  lane : Bool := false
  async : Bool := false
  lanePc : Nat := 0
  addr : Word := 0
  fpc : Option Off := none
  sigHi : W32 := 0
  deriving DecidableEq, Repr

/-- Run an operation as another watch and fragment. -/
def State.asWatch (s : State) (w e : Nat) (f : State → State) : State :=
  let t := f { s with cur := w, ent := e }
  { t with cur := s.cur, ent := s.ent }

/-- The fragment that takes an asynchronous trap (log 12): the issuing one if it is valid, else the lowest valid entry. -/
def Watch.trapEnt (w : Watch) (e : Nat) : Nat := if (w.entry e).valid then e else firstIdx 8 (fun i => (w.entry i).valid) % 8

/-! ## Reads through the FIFO -/

/-- n bytes as a control access of the executing watch sees them (06 R178). -/
def State.readCtl (s : State) (a : Acc) (n : Nat) : Nat := s.loadNat s.cw s.seq a.pcn (s.keyNow s.cw.ctx a) n

/-! ## Replay entries and the frame -/

/-- KIND of a replay entry (09 R266). -/
def Op.replayKind (o : Op) : Nat := match o.kind with
  | .ld => 1 | .sld => 2 | .engine => 4
  | _ => 3

/-- The runs of unissued lane instructions (09 R266). -/
def lqRuns : List LqEntry → List (List LqEntry)
  | [] => []
  | x :: t =>
    match lqRuns t with
    | (y :: ys) :: rest => if y.blk = x.blk ∧ y.index = x.index + 1 then (x :: y :: ys) :: rest else [x] :: (y :: ys) :: rest
    | rest => [x] :: rest

/-- A lane queue remainder (09 R266). -/
def remainderWord (l : List LqEntry) : Nat :=
  let x := l.head?.getD {}
  x.index % 2 ^ 25 + ((l.length - 1) % 64) <<< 25 + 1 <<< 31 + x.mask.toNat <<< 64

/-- The header of a replay entry (09 R266). DESIGN CHOICE: LMASK of a control access is 0 (log 87). -/
def Op.header (o : Op) : Nat :=
  let miss := maskOf 64 fun l => o.accs.any fun a => a.lane == l && !a.got
  o.replayKind + 1 <<< 4 + (if o.err then 1 else 0) <<< 5 + (if o.xf then 1 else 0) <<< 6 +
    (if o.lane then 0 else o.d) <<< 16 + o.at_ <<< 64 +
    (if o.kind == .engine || !o.lane then 0 else miss.toNat) <<< 128 + (if o.lane then o.d else 0) <<< 192 +
    (if o.kind == .ld || o.kind == .sld then o.size else 0) <<< 201

/-- A replay entry's words: its header and its capture area, as a number of 576 bytes (09 R266). -/
def Replay.word (r : Replay) : Nat :=
  if r.kind = 5 then
    let x := r.chain.head?.getD {}
    5 + 1 <<< 4 + x.index <<< 64 + x.mask.toNat <<< 128 + r.chain.length <<< 204
  else
    r.op.header +
    (match r.op.kind with
      | .ld => r.op.accs.foldl (fun n a => n + a.addr.toNat <<< (512 + 64 * a.lane)) 0
      | .sld => (r.op.accs.head?.getD {}).addr.toNat <<< 512
      | .engine => r.op.cmd.w0.toNat <<< 512 + r.op.cmd.w1.toNat <<< 544 + r.op.cmd.a.toNat <<< 576 + r.op.cmd.b.toNat <<< 640 +
          (if r.op.cmd.maj = 0x30 then r.op.cmd.desc.zipIdx.foldl (fun n p => n + p.1.toNat <<< (1024 + 64 * p.2)) 0 else 0)
      | _ => r.op.accs.foldl (fun n a => if a.got then n + (a.old % 2 ^ 64) <<< (512 + 64 * a.lane) else n) 0)

/-- A split-table entry in the form of 01 R22. -/
def SplitEntry.word (e : SplitEntry) : Nat :=
  e.mask.toNat + e.pc.toNat <<< 64 + e.parent.toNat <<< 106 + (if e.valid then 1 else 0) <<< 109 +
    (if e.wait then 1 else 0) <<< 110 + e.levels.length <<< 111 + (if e.root then 1 else 0) <<< 116 + e.reconv.toNat <<< 128

/-- The offset of a watch's trap frame (09 R264; log 5), and its place. -/
def Watch.frameOff (w : Watch) : Nat := Config.frameBase + 0x4000 * w.slot
def Watch.frameKey (w : Watch) : Nat := memKey .save w.ctx w.home w.frameOff

/-- The cause word (09 R265). -/
def TrapInfo.word (t : TrapInfo) : Nat :=
  t.cause + (t.code % 2 ^ 12) <<< 8 + (if t.lane then 1 else 0) <<< 20 + (if t.async then 1 else 0) <<< 21

/-- The pieces of the frame: offset, length and value (09 R264). DESIGN CHOICE: the CRGN area begins with the outermost region (log 83). -/
def frameParts (w : Watch) (f : SplitEntry) (t : TrapInfo) (replay : List Replay) (runs : List (List LqEntry)) :
    List (Nat × Nat × Nat) :=
  [(0x00, 8, t.word), (0x08, 8, (t.fpc.getD f.pc).toNat), (0x10, 8, t.lanePc), (0x18, 8, f.mask.toNat), (0x20, 8, t.addr.toNat),
   (0x28, 8, w.fmask.toNat), (0x30, 8, f.sig.toNat + t.sigHi.toNat <<< 32), (0x38, 8, replay.length + runs.length <<< 8)] ++
  (List.range 8).map (fun i => (0x100 + 24 * i, 24, (w.entry i).word)) ++
  (List.range 64).map (fun i => (0x1C0 + 8 * i, 8, (w.s[i]?.getD 0).toNat)) ++
  (List.range 16).map (fun i => (0x3C0 + 8 * i, 8, (w.preg (BitVec.ofNat 4 i)).toNat)) ++
  (List.range 64).map (fun i => (0x440 + 4 * i, 4, (rowAt w.gen i).toNat)) ++
  w.crgn.reverse.zipIdx.map (fun p => (0x540 + 16 * p.2, 16, p.1.h.toNat + p.1.m.toNat <<< 64)) ++
  runs.zipIdx.map (fun p => (0x600 + 16 * p.2, 16, remainderWord p.1)) ++
  replay.zipIdx.map (fun p => (0xE00 + 576 * p.2, 576, p.1.word))

/-- Write the frame: what it does not name reads as zero (09 R264; log 5). -/
def State.writeFrame (s : State) (w : Watch) (f : SplitEntry) (t : TrapInfo) (replay : List Replay) (runs : List (List LqEntry)) :
    State :=
  (frameParts w f t replay runs).foldl (fun s p => s.writeN (w.frameKey + p.1) p.2.1 p.2.2)
    { s with mem := memForget s.mem w.frameKey (w.frameKey + 0x4000) }

/-! ## Taking a trap -/

/-- The replay entries that a trap makes (09 R262). -/
def Watch.replays (w : Watch) : List Replay :=
  (w.ops.filter Op.replays).map (fun o => { kind := o.replayKind, op := o }) ++
    (if w.chainPart.isEmpty then [] else [{ kind := 5, chain := w.chainPart.map fun e => { e with again := true } }])

/-- Complete every accepted matrix instruction of a watch (07 R219). -/
def State.settleMatrix (s : State) (w : Nat) : State :=
  match (s.watch w).mat with
  | some m => s.flushMatrix (s.watch w).core m.ord
  | none => s

/-- Entry into the watch rung (09 R262): what goes on has its order kept first (13 R363; log 32). FRAME has the column field 0x3FF (DESIGN CHOICE,
log 5). The frame's split table shows the causing fragment where FPC has it (01 R27, 04 R128). -/
def State.enterTrap (s : State) (t : TrapInfo) : State :=
  let s := (s.settleMatrix s.cur).settleOrder s.cur
  let w := s.cw
  let f := s.frag
  let runs := lqRuns (w.lq.drop w.chainPart.length)
  let s := s.writeFrame (w.setEntry s.ent { f with pc := t.fpc.getD f.pc }) f t w.replays runs
  let s := s.unhold w.core s.cur
  { (s.setW { w with
      held := some { split := w.split.map SplitEntry.stopBar, ent := s.ent, crgn := w.crgn, replay := w.replays, lq := runs.flatten
                     off := w.offBefore, offBlk := w.offBlk, at_ := s.seq }
      lq := [], chain := none
      ops := w.ops.filter fun o => !o.replays
      inh := true, rung := 0, frame := selfAddr w.frameOff
      split := rootSplit w.full (s.ctx w.ctx).wvec }) with ent := 0 }

/-- The unwinding of an uncorrectable error to the innermost containment region (09 R270). -/
def State.unwind (s : State) (addr : Word) : State :=
  let s := s.settleMatrix s.cur
  let w := s.cw
  let s := s.unhold w.core s.cur
  match w.crgn with
  | [] => s
  | r :: rest =>
    { (s.setW { w.setS 62 addr with
        crgn := rest, chain := none, lq := []
        ops := w.ops.filter fun o => !o.replays
        split := rootSplit (r.m &&& ~~~r.ended) r.h }) with ent := 0 }

/-- A trap outside a pair (09 R262, R270; 12 R352). -/
def State.trapCore (s : State) (t : TrapInfo) : State :=
  let w := s.cw
  let x : Esc := { addr := t.addr, detail := if t.cause = 0x1A then t.code else 0 }
  if w.inh then (s.settleMatrix s.cur).oneRungUp s.cur { x with cause := 0x52, tcode := t.cause }
  else if t.cause = 0x19 then
    if w.crgn.isEmpty then (s.settleMatrix s.cur).crewRung s.cur { x with cause := 0x19 } 0x19 else s.unwind t.addr
  else if (s.ctx w.ctx).wvec = 0 then
    (s.settleMatrix s.cur).crewRung s.cur { x with cause := 0x59, tcode := t.cause } t.cause
  else s.enterTrap t

/-- A watch of a pair goes back to the checkpoint (09 R277): its uncommitted entries are discarded. -/
def Watch.rollBack (w : Watch) (p : Pair) (c : Check) : Watch :=
  { w with
    s := c.s, v := c.v, p := c.p, gen := c.gen, srseed := c.srseed, mshape := c.mshape, rbnd := c.rbnd
    lq := [], chain := none
    ops := w.ops.filter fun o => (o.goesOn && !p.opIds.contains o.id) || o.done
    split := (rootSplit c.mask c.pc).set 0 { mask := c.mask, pc := c.pc, valid := true, root := true, sig := c.sig }
    pair := some { p with ents := [], made := 0, ended := false, injDone := 0 } }

/-- The leading watch of a pair, from either. -/
def State.leaderOf (s : State) (w : Nat) : Nat :=
  match (s.watch w).pair with
  | some p => if p.leads then w else p.partner
  | none => w

/-- The pair of a leader ends without a further effect on it (09 R274, R277, R278): the trailer ends. -/
def State.endPair (s : State) (l : Nat) : State :=
  match (s.watch l).pair with
  | none => s
  | some p =>
    let s := s.modWatch l fun w => { w with
      pair := none
      ops := w.ops.filter fun o => !p.opIds.contains o.id }
    if p.placed then
      let ids := match (s.watch p.partner).pair with
        | some q => q.opIds
        | none => []
      (s.modWatch p.partner fun w => { w with ops := w.ops.filter fun o => !ids.contains o.id }).killWatch p.partner false
    else s

/-- A mismatch of a pair (09 R277). -/
def State.mismatch (s : State) (l cause : Nat) : State :=
  match (s.watch l).pair with
  | none => s
  | some p =>
    let back (w : Watch) : Watch := match w.pair with
      | some q => w.rollBack q p.check
      | none => w
    let s := ((s.modWatch l back).modWatch p.partner back).unhold (s.watch l).core l
    let s := s.unhold (s.watch p.partner).core p.partner
    let s := s.modWatch l fun w => { w with pair := w.pair.map fun q => { q with retry := q.retry + 1 } }
    if p.retry = 3 then
      (s.endPair l).asWatch l 0 fun s => s.trapCore { cause := 0x2A, code := cause }
    else s

/-- A trap (09 R260, R274, R277). DESIGN CHOICE: a PAIRSTATE of the trailer is taken by entry 0 of the leader (log 84), and an UNCOR in a pair is
a mismatch, also inside a containment region (R270; log 85). -/
def State.trap (t : TrapInfo) (s : State) : State :=
  match s.cw.pair with
  | none => s.trapCore t
  | some _ =>
    let l := s.leaderOf s.cur
    if t.cause = 0x29 then
      let e := if l = s.cur then s.ent else 0
      (s.endPair l).asWatch l e fun s => s.trapCore t
    else s.mismatch l t.cause

/-- An asynchronous trap of a watch, from an operation that a fragment issued (09 R260; log 12). -/
def State.asyncTrap (s : State) (w e : Nat) (t : TrapInfo) : State :=
  s.asWatch w ((s.watch w).trapEnt e) fun s => s.trap { t with async := true }

/-! ## Page faults -/

/-- IDEM of a launch whose node is of KIND 0 (02 R63, 11 R311; 12 R340). -/
def Launch.word (l : Launch) (i : Nat) : Word := l.header[i]?.getD 0
def Launch.kind (l : Launch) : Nat := ((l.word 16).extractLsb' 24 2).toNat
def Launch.idem (l : Launch) : Bool := (l.word 0).getLsbD 37 && l.kind == 0

/-- A watch of a restartable block stops (12 R340). -/
def Watch.stopBlock (w : Watch) : Watch :=
  { w with
    stopped := true, departed := true, fifo := [], chain := none
    ops := (w.ops.filter fun o => o.done || o.kind == .acpy || o.kind == .fatom).map fun o =>
      { o with accs := o.accs.filter fun a => !a.pend } }

/-- The address of an offset in a column of a context: tag 0 and the column's LCN. -/
def Context.addrOf (c : Context) (pcn off : Nat) : Word := (0 : BitVec 12) ++ BitVec.ofNat 10 (c.lcn pcn) ++ BitVec.ofNat 42 off

/-- Something waits for the MMP to make a page resident; for a host-backed page the MMP posts PAGEREQ (14 R381). -/
def State.addWait (s : State) (p : PageWait) : State :=
  let t := { s with waits := s.waits ++ [p] }
  match s.leafOf p.ctx p.pcn p.off with
  | some (.ok (leaf, _)) => if pteHost leaf then t.postEvent (dieOfCol p.pcn) 4 p.ctx 0 p.addr else t
  | _ => t

/-- An escalation of a watch to the context rung; one raised in a handler is a fault inside it, one rung above the handler's (12 R352).
DESIGN CHOICE: TCODE is then the code of the escalation's cause, for no trap was raised (log 71). -/
def State.escalate (s : State) (w : Nat) (x : Esc) : State :=
  let v := s.watch w
  if v.inh && !v.ended then (s.settleMatrix w).oneRungUp w { x with cause := 0x52, tcode := x.cause }
  else s.contextRung v.ctx (s.escOf w x)

/-- A page fault of a watch at an address of a column, from an operation of a fragment or, where it is not `async`, from the fragment's
control instruction (12 R340, R341, R381). -/
def State.pageFault (s : State) (w ent : Nat) (async : Bool) (pcn : Nat) (addr : Word) : State :=
  let x := s.watch w
  let l := s.launch x.launch
  let again := l.idem && decide (Tbl.getD l.restarts x.lblock.toNat 0 < 8)
  let p : PageWait := { ctx := x.ctx, pcn := pcn, off := offOf addr
                        blk := if again then some (x.launch, x.lblock.toNat) else none, w := w, ent := ent, async := async, addr := addr
                        escSeq := if again || x.inh then none else some (s.ctx x.ctx).seq }
  let s := s.addWait p
  if again then
    (s.watchesWith fun y => y.launch == x.launch && y.lblock == x.lblock && !y.departed).foldl
      (fun s y => ((s.modWatch y Watch.stopBlock).unhold (s.watch y).core y).sendCrew x.ctx (.depart y true ((s.watch y).fmask != 0) (s.watch y).fmwhy)) s
  else s.escalate w { cause := if l.idem then 0x58 else 0x50, addr := addr }

/-- The further pages that accesses of a watch wait for are reported to the MMP too, with the page fault that already is (12 R340, R349), unless
its block starts again. -/
def State.morePages (s : State) (w ent : Nat) (l : List Acc) : State :=
  l.foldl (fun s a =>
    let x := s.watch w
    if x.stopped || s.waits.any fun p => p.ctx == x.ctx && p.pcn == a.pcn && p.off / 2 ^ 18 == offOf a.addr / 2 ^ 18 then s
    else s.addWait { ctx := x.ctx, pcn := a.pcn, off := offOf a.addr, w := w, ent := ent, async := true, addr := a.addr }) s

/-! ## Control accesses -/

/-- What the check and the translation of a control access answer (06 R195, 12 R339). -/
inductive Prep where
  | ok (a : Acc)
  | trap (t : TrapInfo)
  | page (pcn : Nat) (addr : Word)
  | wait
  deriving DecidableEq, Repr

/-- The check and the translation of a control access by a column (06 R195, 12 R339). -/
def State.prep (s : State) (pcn : Nat) (r : AReq) (a : Word) : Prep :=
  match s.checkAddr s.cw pcn r a with
  | some f => .trap { cause := f.cause, addr := a }
  | none =>
    match s.placeOf s.cw pcn r a with
    | .ok key _ => .ok { pcn := pcn, addr := a, key := key, size := r.size }
    | .fault c => .trap { cause := 0x1A, code := c, addr := a }
    | .nonres => .page pcn a
    | .wait => .wait

/-- Go on with a prepared access, or trap, report a page fault, or wait. -/
def State.andThen (s : State) (p : Prep) (k : Acc → State) : State :=
  match p with
  | .ok a => k a
  | .trap t => s.trap t
  | .page pcn a => s.pageFault s.cur s.ent false pcn a
  | .wait => s

/-- A control access by the home column. -/
def State.access (s : State) (r : AReq) (a : Word) (k : Acc → State) : State := s.andThen (s.prep s.cw.home r a) k

/-! ## Release and acquire -/

/-- No lane instruction of the watch waits to issue. -/
def Watch.lanesIdle (w : Watch) : Bool := w.lq.isEmpty && w.chain.isNone
/-- The older accesses on paths 0 to 8 are complete (06 R192), but for those that only RTE lets complete, and of the atomics that a trap
holds the steps that may be made are made (log 32). -/
def State.drained (s : State) (w : Watch) : Bool :=
  w.lanesIdle && (w.ops.all fun o => o.done || (o.paths.all fun p => p == 9) || s.waitsRte w o) && w.freeAtoms.all Op.all
/-- The orders that release (02 R42). -/
def ordRel (r : Ord) : Bool := r == .rel || r == .ar
/-- The watch may go on at a release (06 R192): at .SYS the host has acknowledged its stores too. -/
def State.released (s : State) (r : Ord) (c : Scope) : Bool :=
  !ordRel r || (s.drained s.cw && (c != .sys || !s.hostAcks.any fun h => h.w == s.cur))
/-- An older load or atomic, or a lane instruction that may become one, stands before a place in the watch's order (06 R192), in flight or
held at a trap. -/
def Watch.acqOpen (w : Watch) (q : Nat) : Bool :=
  (w.ops.any fun o => !o.done && decide (o.seq < q)) || (w.lq.any fun e => decide (e.seq < q)) ||
    w.held.any fun h => (h.replay.any fun r => decide (r.op.seq < q)) || h.lq.any fun e => decide (e.seq < q)
/-- The watch acquires: younger accesses wait for the older loads and atomics (06 R192; 13 R362). The acquires that no older access holds
any more are forgotten. -/
def State.acquire (s : State) (r : Ord) : State :=
  if ordAcq r then (s.tick).modW fun w => { w with acqs := w.acqs.filter w.acqOpen ++ [s.seq] } else s

/-- A step of the control stream on n bytes at a place waits: for an older acquire, and for an older access of the control stream to one of
the bytes (13 R360 case 1, R361). -/
def State.bytesHeld (s : State) (key n : Nat) : Bool :=
  s.cw.acqHeld s.seq || (s.testedOps s.cw s.seq).any fun o => !o.lane && !o.done && o.accs.any fun b =>
    !b.got && decide (key < s.keyNow s.cw.ctx b + b.size ∧ s.keyNow s.cw.ctx b < key + n)
/-- A step on the 16 bytes of a barrier object waits. -/
def State.objectHeld (s : State) (key : Nat) : Bool := s.bytesHeld key 16

/-- A control instruction reads n bytes of memory as it executes: it waits for what is ordered before them. -/
def State.reading (s : State) (a : Acc) (n : Nat) (k : Nat → State) : State :=
  if s.bytesHeld (s.keyNow s.cw.ctx a) n then s else k (s.readCtl a n)

/-! ## The return from a trap -/

/-- A frame field, as a load of the watch finds it: a store of the handler may stand in the FIFO behind one that waits for RTE (log 32). -/
def State.frameN (s : State) (w : Watch) (off n : Nat) : Nat := s.loadNat w s.seq w.home (w.frameKey + off) n

/-- What an access of an operation asks for. -/
def Op.req (o : Op) (a : Acc) : AReq :=
  { size := a.size, align := a.size, store := o.kind == .st || o.kind == .sst
    atom := o.isAtom || o.kind == .fatom, tags := [0, 1, 2, 4], lane := if o.lane then some a.lane else none, dir := true }

/-- The place of an access of an operation now: with its key, or the address of a byte that has none with what it answers (12 R339, R345).
The source of an ACPY may run into a second page (06 R190). -/
def State.relocate (s : State) (w : Watch) (o : Op) (a : Acc) : Except (Word × XRes) Acc :=
  if o.kind == .acpy && a.size == 0 then .ok { a with pend := false }
  else match s.placeOf w a.pcn (o.req a) a.addr with
  | .ok key _ =>
    if o.kind == .acpy then
      let b := a.addr + BitVec.ofNat 64 (a.size - 1)
      match s.placeOf w a.pcn (o.req a) b with
      | .ok k _ => .ok { a with key := key, old := k, pend := false }
      | r => .error (b, r)
    else .ok { a with key := key, pend := false }
  | r => .error (a.addr, r)

/-- Translate again the accesses of an operation that are not performed (12 R345). -/
def State.retranslate (s : State) (w : Watch) (o : Op) : Op :=
  if o.kind == .engine || (o.kind == .tdrn && w.mat.isSome) then o else
  { o with accs := o.accs.map fun a =>
      if a.got then a else
        match s.relocate w o a with
        | .ok b => b
        | .error _ => { a with pend := true } }

/-- A dropped ATOMIC (09 R267): its steps are still made, but for those whose translation faults, which no step can be made at
(12 R339; log 58). -/
def State.dropSteps (s : State) (w : Watch) (o : Op) : Option Op :=
  let accs := o.accs.filter fun a => a.got || match s.relocate w o a with
    | .error (_, .fault _) => false
    | _ => true
  if accs.all (·.got) then none else some { o with accs := accs }

/-- The path of a load's tag, and the paths of a load (06 R181). -/
def loadPath (a : Word) : Nat := if tagOf a = 1 ∨ tagOf a = 2 then 1 else 0
def loadPaths (l : List Acc) : List Nat := l.foldl (fun p a => insertAsc (loadPath a.addr) p) []

/-- The lanes that a LOAD of the frame issues again, from the addresses that it captured and the handler may have edited (09 R266, R267). -/
def State.reloadAccs (s : State) (w : Watch) (i : Nat) (o : Op) : List Acc :=
  let size := (o.accs.head?.getD {}).size
  (lanesOf (BitVec.ofNat 64 (s.frameN w (0xE00 + 576 * i) 64 >>> 128) &&& w.full)).map fun l =>
    { lane := l, pcn := w.pcnOf l, addr := BitVec.ofNat 64 (s.frameN w (0xE00 + 576 * i + 64 + 8 * l) 8), size := size }

/-- Of those, the lanes whose address fails its check, with the reason: they are switched off as at first issue (06 R179; log 32). -/
def State.reloadFails (s : State) (w : Watch) (i : Nat) (o : Op) : List (Nat × BitVec 4) :=
  (s.reloadAccs w i o).filterMap fun a => (s.checkAddr w a.pcn (o.req a) a.addr).map fun f => (a.lane, f.why)

/-- A replay entry as RTE puts it in flight again: the frame's VALID, LMASK and addresses hold (09 R266, R267). -/
def State.reinject (s : State) (w : Watch) (i : Nat) (r : Replay) : Option Op × List LqEntry :=
  let h := s.frameN w (0xE00 + 576 * i) 64
  let valid := h.testBit 4
  let lmask := BitVec.ofNat 64 (h >>> 128)
  if r.kind = 5 then (none, if valid then r.chain.map fun e => { e with mask := lmask } else [])
  else if r.kind = 3 then
    let o := s.retranslate w { r.op with
      nw := r.op.nw || !valid
      mask := if r.op.lane then lmask else r.op.mask }
    (if valid then some o else s.dropSteps w o, [])
  else if !valid then (none, [])
  else match r.op.kind with
    | .ld =>
      let accs := (s.reloadAccs w i r.op).filter fun a => (s.checkAddr w a.pcn (r.op.req a) a.addr).isNone
      (some (s.retranslate w { r.op with xf := false, accs := accs, paths := loadPaths accs }), [])
    | .sld =>
      let accs := r.op.accs.map fun a => { a with addr := BitVec.ofNat 64 (s.frameN w (0xE00 + 576 * i + 64) 8), pend := false }
      let accs := accs.filter fun a => (s.checkAddr w a.pcn (r.op.req a) a.addr).isNone
      (some (s.retranslate w { r.op with xf := false, accs := accs, paths := loadPaths accs }), [])
    | _ => (some r.op, [])

/-- The words of a lane instruction as the home column reads them (04 R111): LANEBASE + 12 × (LANEIDX + n). -/
def Watch.laneAddr (w : Watch) (n : Nat) : Word := withOff w.laneBase ((offOf w.laneBase + 12 * (w.laneIdx + n)) % 2 ^ 42)

/-- The words of lane instruction n of a watch's lane code, or what stops their read (04 R111; 10 R290), as `LqEntry.bad` has it. RTE reads
them once no page of theirs is awaited (`State.lanePages`). -/
def State.laneAt (s : State) (w : Watch) (n : Nat) : Except Nat (W32 × W32 × W32) :=
  let word (i : Nat) : Except Nat W32 :=
    if Config.dirBase ≤ offOf (w.laneAddr n) + 4 * i then .error 0x14
    else match s.xlate w.ctx w.home (offOf (w.laneAddr n) + 4 * i) false false with
    | .ok key _ => .ok (BitVec.ofNat 32 (s.loadNat w s.seq w.home key 4))
    | .fault c => .error (0x1A + c * 256)
    | _ => .error 0
  match word 0, word 1, word 2 with
  | .ok a, .ok b, .ok c => .ok (a, b, c)
  | .error c, _, _ => .error c
  | _, .error c, _ => .error c
  | _, _, .error c => .error c

/-- A word that ends its chain (01 R28): a memory instruction, an XST or a matrix instruction. -/
def endsChain (w0 : W32) : Bool :=
  let op := (w0.extractLsb' 2 8).toNat
  decide (0xA0 ≤ op ∧ op ≤ 0xA4) || op == 0xC5 || decide (0xD0 ≤ op ∧ op ≤ 0xD5)

/-- The words after `w0`, the one at place `pos` of its chain, break the chain rules of 01 R28. -/
def chainBroken : Nat → W32 → List W32 → Bool
  | _, _, [] => false
  | pos, w0, x :: t => x.getLsbD 29 && (decide (7 ≤ pos) || endsChain w0 || chainBroken (pos + 1) x t)

/-- The first instruction of a chain that breaks 01 R28 fails at it: `first` at the start of its block, before `rest`. -/
def chainFails (w0 : W32) (first : Bool) (rest : List W32) : Bool := if w0.getLsbD 29 then first else chainBroken 0 w0 rest

/-- The place of each instruction of a block in its chain and the chain's length, from the chain bits (01 R28). -/
def layChains : Nat → List Bool → List (Nat × Nat)
  | _, [] => []
  | p, c :: t =>
    let pos := if c then p + 1 else 0
    (pos, pos + 1 + (t.takeWhile id).length) :: layChains pos t

/-- Word 0 of a lane instruction, zero where it cannot be read. -/
def laneWord0 (x : Except Nat (W32 × W32 × W32)) : W32 :=
  match x with
  | .ok y => y.1
  | .error _ => 0

/-- The instruction of three lane words, and what its first check comes to (04 R417): 0, LANEOP, or what stops its read. -/
def laneRead (x : Except Nat (W32 × W32 × W32)) (broken : Bool) : Instr × Nat :=
  match x with
  | .error c => (.reservedEncoding 0, c)
  | .ok y => match decodeLane y.1 y.2.1 y.2.2 with
    | some i => (i, if broken then 0x02 else 0)
    | none => (.reservedEncoding 0, 0x02)

/-- The scalar that a selector names (log 8). -/
def Watch.scalarSel (w : Watch) (x : Sel) : Word := if selIsScalar x then w.sreg (BitVec.ofNat 6 (selNum x)) else 0

/-- The entries of consecutive lane instructions, from their words (01 R17, R28): what they share is `base`'s. -/
def Watch.entriesOf (w : Watch) (base : LqEntry) (ws : List (Except Nat (W32 × W32 × W32))) : List LqEntry :=
  (layChains 0 (ws.map fun x => (laneWord0 x).getLsbD 29)).zipIdx.map fun p =>
    let x := ws[p.2]?.getD (.error 0)
    let y := laneRead x (chainFails (laneWord0 x) (p.2 == 0) ((ws.drop (p.2 + 1)).map laneWord0))
    let o := matOps y.1
    { base with
      instr := y.1, index := base.index + p.2, pos := p.1.1, len := p.1.2, seq := base.seq + p.2, bad := y.2
      sa := w.scalarSel o.a, sb := w.scalarSel o.b, sc := w.scalarSel o.c }

/-- The runs of the lane queue that RTE takes up, with their first index and their length from START and CNT of the frame (09 R266, R267). -/
def State.runsBack (s : State) (w : Watch) (h : Held) : List (List LqEntry × Nat × Nat) :=
  (lqRuns h.lq).zipIdx.filterMap fun r =>
    let v := s.frameN w (0x600 + 16 * r.2) 16
    if v.testBit 31 then some (r.1, v % 2 ^ 25, (v >>> 25) % 64 + 1) else none

/-- START and CNT are those that the trap wrote. -/
def runAsHeld (r : List LqEntry × Nat × Nat) : Bool := r.2.1 == (r.1.head?.getD {}).index % 2 ^ 25 && r.2.2 == r.1.length

/-- The lane queue remainders with VALID = 1 (09 R266, R267). The run held at the trap re-enters as it was, another one is read from the lane
code, and its instructions are checked as they issue. -/
def State.remainders (s : State) (w : Watch) (h : Held) : List LqEntry :=
  (s.runsBack w h).flatMap fun r =>
    if runAsHeld r then r.1
    else w.entriesOf { r.1.head?.getD {} with index := r.2.1 } ((List.range r.2.2).map fun j => s.laneAt w (r.2.1 + j))

/-- What the reading of that lane code waits for (12 R339): a page that drains, or one that is not resident. -/
def State.lanePages (s : State) (w : Watch) (h : Held) : Prep :=
  let words := (s.runsBack w h).flatMap fun r => if runAsHeld r then [] else
    (List.range (3 * r.2.2)).map fun j => offOf (w.laneAddr (r.2.1 + j / 3)) + 4 * (j % 3)
  let res (o : Nat) : XRes := if Config.dirBase ≤ o then .fault 0 else s.xlate w.ctx w.home o false false
  if words.any fun o => res o == .wait then .wait
  else match words.find? fun o => res o == .nonres with
    | some o => .page w.home (selfAddr o)
    | none => .ok {}

/-- Registers from the frame (09 R264, R267). -/
def State.frameRegs (s : State) (w : Watch) : Watch :=
  { w with
    s := Vector.ofFn fun i => if i.val = 0 then 0 else BitVec.ofNat 64 (s.frameN w (0x1C0 + 8 * i.val) 8)
    p := Vector.ofFn fun i => if i.val = 0 then 0 else BitVec.ofNat 64 (s.frameN w (0x3C0 + 8 * i.val) 8) &&& w.full
    gen := Vector.ofFn fun i =>
      let g := BitVec.ofNat 32 (s.frameN w (0x440 + 4 * i.val) 4)
      if g = 0 then 1 else g }

end Sys2Proof.Machine
end

