-- ==== Sys2Proof/Machine/Scalar.lean ====
section
/-! DEFINITION. The scalar instructions: integer arithmetic (04 R95, R96), immediates (R97, R98), addresses and MAD (R99 to
R101). Each writes S[d] and goes on to the next instruction. -/

namespace Sys2Proof.Machine

/-- What a step answers. -/
abbrev Out := Host.Outcome State Fault Refusal

/-- S[d] := v, and the instruction is done. -/
def State.writeS (i : Instr) (d : Reg) (v : Word) (s : State) : Out := .next ((s.setS d v).finish i)

/-- MULH and MULHU (04 R95). -/
def mulhWord (a b : Word) : Word := BitVec.ofInt 64 (a.toInt * b.toInt / 2 ^ 64)
def mulhuWord (a b : Word) : Word := BitVec.ofNat 64 (a.toNat * b.toNat / 2 ^ 64)
/-- DIV, DIVU, REM and REMU with the edge cases of 04 R96. -/
def divWord (a b : Word) : Word := if b = 0 then BitVec.allOnes 64 else BitVec.ofInt 64 (a.toInt.tdiv b.toInt)
def divuWord (a b : Word) : Word := if b = 0 then BitVec.allOnes 64 else BitVec.ofNat 64 (a.toNat / b.toNat)
def remWord (a b : Word) : Word := if b = 0 then a else BitVec.ofInt 64 (a.toInt.tmod b.toInt)
def remuWord (a b : Word) : Word := if b = 0 then a else BitVec.ofNat 64 (a.toNat % b.toNat)
/-- The shift count b[5:0] (04 R95). -/
def shiftCount (b : Word) : Nat := (b.extractLsb' 0 6).toNat
def shlWord (a b : Word) : Word := a <<< shiftCount b
def shrWord (a b : Word) : Word := a >>> shiftCount b
def sarWord (a b : Word) : Word := a.sshiftRight (shiftCount b)
def rolWord (a b : Word) : Word := a.rotateLeft (shiftCount b)
def minWord (a b : Word) : Word := if a.slt b then a else b
def maxWord (a b : Word) : Word := if a.slt b then b else a
def minuWord (a b : Word) : Word := if a.ult b then a else b
def maxuWord (a b : Word) : Word := if a.ult b then b else a
/-- 1 or 0. -/
def flagWord (b : Bool) : Word := if b then 1 else 0
/-- SExt(IMM12, 12) and SExt(word 1, 32) (04 R97). -/
def immI (i : I12) : Word := i.signExtend 64
def immX (i : W32) : Word := i.signExtend 64

def execAdd (d a b : Reg) (s : State) : Out := s.writeS (.add d a b) d (s.sreg a + s.sreg b)
def execSub (d a b : Reg) (s : State) : Out := s.writeS (.sub d a b) d (s.sreg a - s.sreg b)
def execMul (d a b : Reg) (s : State) : Out := s.writeS (.mul d a b) d (s.sreg a * s.sreg b)
def execMulh (d a b : Reg) (s : State) : Out := s.writeS (.mulh d a b) d (mulhWord (s.sreg a) (s.sreg b))
def execMulhu (d a b : Reg) (s : State) : Out := s.writeS (.mulhu d a b) d (mulhuWord (s.sreg a) (s.sreg b))
def execDiv (d a b : Reg) (s : State) : Out := s.writeS (.div d a b) d (divWord (s.sreg a) (s.sreg b))
def execDivu (d a b : Reg) (s : State) : Out := s.writeS (.divu d a b) d (divuWord (s.sreg a) (s.sreg b))
def execRem (d a b : Reg) (s : State) : Out := s.writeS (.rem d a b) d (remWord (s.sreg a) (s.sreg b))
def execRemu (d a b : Reg) (s : State) : Out := s.writeS (.remu d a b) d (remuWord (s.sreg a) (s.sreg b))
def execAnd (d a b : Reg) (s : State) : Out := s.writeS (.and d a b) d (s.sreg a &&& s.sreg b)
def execOr (d a b : Reg) (s : State) : Out := s.writeS (.or d a b) d (s.sreg a ||| s.sreg b)
def execXor (d a b : Reg) (s : State) : Out := s.writeS (.xor d a b) d (s.sreg a ^^^ s.sreg b)
def execAndn (d a b : Reg) (s : State) : Out := s.writeS (.andn d a b) d (s.sreg a &&& ~~~s.sreg b)
def execShl (d a b : Reg) (s : State) : Out := s.writeS (.shl d a b) d (shlWord (s.sreg a) (s.sreg b))
def execShr (d a b : Reg) (s : State) : Out := s.writeS (.shr d a b) d (shrWord (s.sreg a) (s.sreg b))
def execSar (d a b : Reg) (s : State) : Out := s.writeS (.sar d a b) d (sarWord (s.sreg a) (s.sreg b))
def execRol (d a b : Reg) (s : State) : Out := s.writeS (.rol d a b) d (rolWord (s.sreg a) (s.sreg b))
def execMin (d a b : Reg) (s : State) : Out := s.writeS (.min d a b) d (minWord (s.sreg a) (s.sreg b))
def execMax (d a b : Reg) (s : State) : Out := s.writeS (.max d a b) d (maxWord (s.sreg a) (s.sreg b))
def execMinu (d a b : Reg) (s : State) : Out := s.writeS (.minu d a b) d (minuWord (s.sreg a) (s.sreg b))
def execMaxu (d a b : Reg) (s : State) : Out := s.writeS (.maxu d a b) d (maxuWord (s.sreg a) (s.sreg b))
def execPopc (d a : Reg) (s : State) : Out := s.writeS (.popc d a) d (BitVec.ofNat 64 (popCount (s.sreg a)))
def execClz (d a : Reg) (s : State) : Out := s.writeS (.clz d a) d (BitVec.ofNat 64 (clzOf (s.sreg a)))
def execCtz (d a : Reg) (s : State) : Out := s.writeS (.ctz d a) d (BitVec.ofNat 64 (ctzOf (s.sreg a)))
def execSeq (d a b : Reg) (s : State) : Out := s.writeS (.seq d a b) d (flagWord (s.sreg a == s.sreg b))
def execSne (d a b : Reg) (s : State) : Out := s.writeS (.sne d a b) d (flagWord (s.sreg a != s.sreg b))
def execSlt (d a b : Reg) (s : State) : Out := s.writeS (.slt d a b) d (flagWord ((s.sreg a).slt (s.sreg b)))
def execSltu (d a b : Reg) (s : State) : Out := s.writeS (.sltu d a b) d (flagWord ((s.sreg a).ult (s.sreg b)))
def execBrev (d a : Reg) (s : State) : Out := s.writeS (.brev d a) d (s.sreg a).reverse
def execMov (d a : Reg) (s : State) : Out := s.writeS (.mov d a) d (s.sreg a)

def execAddi (d a : Reg) (i : I12) (s : State) : Out := s.writeS (.addi d a i) d (s.sreg a + immI i)
def execAddi64 (d a : Reg) (i : W32) (s : State) : Out := s.writeS (.addi64 d a i) d (s.sreg a + immX i)
def execAndi (d a : Reg) (i : I12) (s : State) : Out := s.writeS (.andi d a i) d (s.sreg a &&& immI i)
def execAndi64 (d a : Reg) (i : W32) (s : State) : Out := s.writeS (.andi64 d a i) d (s.sreg a &&& immX i)
def execOri (d a : Reg) (i : I12) (s : State) : Out := s.writeS (.ori d a i) d (s.sreg a ||| immI i)
def execOri64 (d a : Reg) (i : W32) (s : State) : Out := s.writeS (.ori64 d a i) d (s.sreg a ||| immX i)
def execXori (d a : Reg) (i : I12) (s : State) : Out := s.writeS (.xori d a i) d (s.sreg a ^^^ immI i)
def execXori64 (d a : Reg) (i : W32) (s : State) : Out := s.writeS (.xori64 d a i) d (s.sreg a ^^^ immX i)
def execSlti (d a : Reg) (i : I12) (s : State) : Out := s.writeS (.slti d a i) d (flagWord ((s.sreg a).slt (immI i)))
def execSlti64 (d a : Reg) (i : W32) (s : State) : Out := s.writeS (.slti64 d a i) d (flagWord ((s.sreg a).slt (immX i)))
def execShli (d a n : Reg) (s : State) : Out := s.writeS (.shli d a n) d (s.sreg a <<< n.toNat)
def execShri (d a n : Reg) (s : State) : Out := s.writeS (.shri d a n) d (s.sreg a >>> n.toNat)
def execSari (d a n : Reg) (s : State) : Out := s.writeS (.sari d a n) d ((s.sreg a).sshiftRight n.toNat)
def execLi (d : Reg) (i : I12) (s : State) : Out := s.writeS (.li d i) d (immI i)
def execLi64 (d : Reg) (i : W32) (s : State) : Out := s.writeS (.li64 d i) d (immX i)
def execLih (d a : Reg) (i : W32) (s : State) : Out := s.writeS (.lih d a i) d (i ++ (s.sreg a).extractLsb' 0 32)
/-- ADDR (04 R99). -/
def execAddr (d a b : Reg) (t : B4) (s : State) : Out :=
  s.writeS (.addr d a b t) d ((0 : BitVec 8) ++ t ++ (s.sreg a).extractLsb' 0 10 ++ (s.sreg b).extractLsb' 0 42)
def execColxCol (d a : Reg) (s : State) : Out := s.writeS (.colxCol d a) d (((s.sreg a).extractLsb' 42 10).setWidth 64)
def execColxOff (d a : Reg) (s : State) : Out := s.writeS (.colxOff d a) d (((s.sreg a).extractLsb' 0 42).setWidth 64)
def execColxTag (d a : Reg) (s : State) : Out := s.writeS (.colxTag d a) d (((s.sreg a).extractLsb' 52 4).setWidth 64)
def execMad (d a b c : Reg) (s : State) : Out := s.writeS (.mad d a b c) d (s.sreg a * s.sreg b + s.sreg c)

end Sys2Proof.Machine
end

