-- ==== Sys2Proof/Machine/Branch.lean ====
section
/-! DEFINITION. Branches and calls (04 R102 to R105), fragments: SPLIT and FUSE (01 R23, R24; 04 R106, R107), CALLV (04 R108 to
R110) and EXIT (01 R25; 04 R130). -/

namespace Sys2Proof.Machine

/-- The conditions of BR (04 R102). -/
def brHolds (c : BrCond) (a b : Word) : Bool :=
  match c with
  | .eq => a == b
  | .ne => a != b
  | .lt => a.slt b
  | .ge => !a.slt b
  | .ltu => a.ult b
  | .geu => !a.ult b

/-- BR (04 R102); it folds nothing (09 R271). -/
def execBr (c : BrCond) (a b : Reg) (o : W32) (s : State) : Out :=
  .next (s.jumpTo (if brHolds c (s.sreg a) (s.sreg b) then s.target o else s.frag.pc + 8))

/-- JMP (04 R104). -/
def execJmp (o : W32) (s : State) : Out := .next (s.jumpTo (s.target o))

/-- The link register (04 R104). -/
def linkReg : Reg := 63

/-- CALL (04 R104). -/
def execCall (o : W32) (s : State) : Out :=
  .next ((s.setS linkReg ((s.frag.pc + 8).setWidth 64)).jumpTo (s.target o))

/-- JR (04 R105). -/
def execJr (a : Reg) (s : State) : Out :=
  let t : Off := (s.sreg a).extractLsb' 0 42
  if t.extractLsb' 0 2 ≠ 0 then .next (s.trap { cause := 0x07 }) else .next (s.jumpTo t)

/-- CALLR (04 R105): S[a] is read before S63 is written. -/
def execCallr (a : Reg) (s : State) : Out :=
  let t : Off := (s.sreg a).extractLsb' 0 42
  if t.extractLsb' 0 2 ≠ 0 then .next (s.trap { cause := 0x07 })
  else .next ((s.setS linkReg ((s.frag.pc + 4).setWidth 64)).jumpTo t)

/-! ## Fragments -/

/-- The invalid entries, ascending. -/
def Watch.freeEntries (w : Watch) : List Nat := (List.range 8).filter fun i => !(w.entry i).valid

/-- SPLIT of fragment e into T and N (01 R23): none where it needs a seventeenth serial level. The signature is what SPLIT's
folds leave (09 R271). -/
def Watch.splitFrag (w : Watch) (e : Nat) (t n : Mask) (target next x : Off) (sig : W32) : Option Watch :=
  let f := w.entry e
  if t = 0 then some (w.setEntry e { f with pc := next, sig := sig })
  else if n = 0 then some (w.setEntry e { f with pc := target, sig := sig })
  else match w.freeEntries with
    | c :: k :: _ =>
      some (((w.setEntry c { mask := t, pc := target, parent := BitVec.ofNat 3 e, valid := true, sig := sig }).setEntry k
        { mask := n, pc := next, parent := BitVec.ofNat 3 e, valid := true, sig := sig }).setEntry e
        { f with wait := true, reconv := x, sig := sig })
    | _ =>
      if f.levels.length < 16 then
        some (w.setEntry e { f with
          levels := { m := f.mask, pend := n, pendPc := next, x := x, phase := false, pendSig := sig } :: f.levels
          mask := t, pc := target, sig := sig })
      else none

/-- The token that SPLIT folds (09 R271). -/
def splitToken : W32 := 0x9E3779B9

/-- SPLIT and SPLIT.N (04 R106). -/
def State.splitBy (i : Instr) (taken : Mask) (t x : W32) (s : State) : State :=
  let f := s.frag
  let sig := foldSig (foldSig f.sig (opcodeWord i)) splitToken
  let tk := f.mask &&& taken
  match s.cw.splitFrag s.ent tk (f.mask &&& ~~~tk) (s.target t) (f.pc + 12) (s.target x) sig with
  | some w => s.setW w
  | none => s.trap { cause := 0x05 }

def execSplit (p : B4) (t x : W32) (s : State) : Out := .next (s.splitBy (.split p t x) (s.cw.preg p) t x)
def execSplitN (p : B4) (t x : W32) (s : State) : Out := .next (s.splitBy (.splitN p t x) (~~~(s.cw.preg p)) t x)

/-- The children of a waiting parent, which is never its own child (01 R24). -/
def Watch.children (w : Watch) (p : Nat) : List Nat :=
  (List.range 8).filter fun i => (w.entry i).valid && !(w.entry i).root && (w.entry i).parent.toNat == p && i != p
/-- Whether a child has arrived (01 R24). -/
def Watch.arrived (w : Watch) (i : Nat) : Bool := (w.entry i).wait && (w.children i).isEmpty

/-- Complete the join of a waiting parent where every child has arrived (01 R24): none where the union is not the parent's mask
(INTEG). DESIGN CHOICE: an entry that becomes invalid keeps its MASK, PC and PARENT, and at an EXIT its PC and PARENT, as a frame shows
them (log 61). -/
def Watch.join (w : Watch) (p : Nat) : Option Watch :=
  let kids := w.children p
  let f := w.entry p
  if kids.isEmpty || !kids.all w.arrived then some w
  else if kids.foldl (fun m i => m ||| (w.entry i).mask) 0 ≠ f.mask then none
  else some ((kids.foldl (fun w i => w.setEntry i { w.entry i with valid := false, wait := false }) w).setEntry p
    { f with wait := false, pc := f.reconv + 4, sig := fuseSig })

/-- FUSE at the fragment's PC (01 R24): none is INTEG. -/
def Watch.fuse (w : Watch) (e : Nat) : Option Watch :=
  let f := w.entry e
  let on := w.setEntry e { f with pc := f.pc + 4, sig := fuseSig }
  match f.levels with
  | l :: rest =>
    if l.x ≠ f.pc then some on
    else if !l.phase && l.pend != 0 then
      some (w.setEntry e { f with levels := { l with phase := true } :: rest, mask := l.pend, pc := l.pendPc, sig := l.pendSig })
    else some (w.setEntry e { f with levels := rest, mask := l.m, pc := f.pc + 4, sig := fuseSig })
  | [] =>
    let p := f.parent.toNat
    if !f.root && (w.entry p).wait && (w.entry p).reconv == f.pc then
      (w.setEntry e { f with wait := true, sig := fuseSig }).join p
    else some on

/-- FUSE (04 R107). -/
def execFuse (s : State) : Out :=
  match s.cw.fuse s.ent with
  | some w => .next (s.setW w)
  | none => .next (s.trap { cause := 0x06 })

/-! ## EXIT -/

/-- Remove lanes from the recorded and pending masks of a fragment's serial levels (01 R25). -/
def SplitEntry.dropLanes (f : SplitEntry) (m : Mask) : SplitEntry :=
  { f with
    mask := if f.wait then f.mask &&& ~~~m else f.mask
    levels := f.levels.map fun l => { l with m := l.m &&& ~~~m, pend := l.pend &&& ~~~m } }

/-- The serial levels of a fragment whose lanes have ended resolve, innermost first (01 R25): the fragment that runs on, or none. -/
def resolveLevels (f : SplitEntry) : List Level → Option SplitEntry
  | [] => none
  | l :: rest =>
    if !l.phase && l.pend != 0 then
      some { f with levels := { l with phase := true } :: rest, mask := l.pend, pc := l.pendPc, sig := l.pendSig }
    else if l.m != 0 then some { f with levels := rest, mask := l.m, pc := l.x + 4, sig := fuseSig }
    else resolveLevels f rest

/-- The end of the lanes of fragment e, and of every waiting parent whose mask becomes empty (01 R25): none is INTEG. -/
def Watch.exitFrag : Nat → Watch → Nat → Option Watch
  | 0, w, _ => some w
  | n + 1, w, e =>
    let f := w.entry e
    match resolveLevels { f with wait := false } f.levels with
    | some f' => some (w.setEntry e f')
    | none =>
      let w := w.setEntry e { f with valid := false, wait := false, levels := [], mask := 0 }
      if f.root then some w
      else
        let p := f.parent.toNat
        if (w.entry p).mask = 0 then exitFrag n w p else w.join p

/-- The lanes of a fragment end (01 R25). -/
def Watch.exitLanes (w : Watch) (e : Nat) : Option Watch :=
  let m := (w.entry e).mask
  let w := (List.range 8).foldl (fun w i => if i = e then w else w.setEntry i ((w.entry i).dropLanes m)) w
  let f := w.entry e
  let w := w.setEntry e { f with levels := f.levels.map fun l => { l with m := l.m &&& ~~~m, pend := l.pend &&& ~~~m } }
  let w := { w with crgn := w.crgn.map fun (r : Region) => { r with ended := r.ended ||| m } }
  w.exitFrag 9 e

/-- Whether a valid split-table entry remains. -/
def Watch.anyValid (w : Watch) : Bool := (List.range 8).any fun i => (w.entry i).valid

/-- A watch with no valid entry has ended (01 R25): open regions are discarded (04 R130). -/
def State.checkEnded (s : State) (w : Nat) : State :=
  s.modWatch w fun x => if x.anyValid then x else { x with ended := true, crgn := [] }

/-- EXIT (04 R130); in a pair it raises PAIRSTATE (09 R274). -/
def execExit (s : State) : Out :=
  if s.cw.pair.isSome then .next (s.trap { cause := 0x29 })
  else match s.cw.exitLanes s.ent with
    | some w => .next ((s.setW w).checkEnded s.cur)
    | none => .next (s.trap { cause := 0x06 })

/-! ## CALLV -/

/-- The lanes of a mask grouped by target, by lowest lane (04 R109). -/
def callGroups (t : Nat → Off) : List Nat → List (Off × Mask)
  | [] => []
  | l :: rest =>
    let g := callGroups t rest
    match g.find? (fun p => p.1 == t l) with
    | some p => (t l, p.2 ||| oneLane l) :: g.filter (fun q => q.1 != t l)
    | none => (t l, oneLane l) :: g

/-- One word of code as a control access reads it (04 R92). DESIGN CHOICE: of the old and the new value of a word written while its launch
runs, of which 02 R39 allows either, it is the new one (log 59). -/
def State.codeWord (s : State) (o : Off) : Prep × W32 :=
  if Config.dirBase ≤ o.toNat then (.trap { cause := 0x14, addr := selfAddr o.toNat }, 0) else
  match s.xlate s.cw.ctx s.cw.home o.toNat false false with
  | .ok key _ => (.ok { key := key }, BitVec.ofNat 32 (s.loadNat s.cw s.seq s.cw.home key 4))
  | .fault c => (.trap { cause := 0x1A, code := c, addr := selfAddr o.toNat }, 0)
  | .nonres => (.page s.cw.home (selfAddr o.toNat), 0)
  | .wait => (.wait, 0)

/-- Check(G) of 04 R109: what stops the CALLV, or nothing. -/
def State.checkCall (s : State) (t : Off) : Option Prep :=
  let bad (c : Nat) : Option Prep := some (.trap { cause := c, addr := t.setWidth 64 })
  if t.extractLsb' 0 2 ≠ 0 then bad 0x08
  else match s.codeWord (t - 8), s.codeWord (t - 4) with
    | (.ok _, h0), (.ok _, h1) =>
      let budget := (h1.extractLsb' 0 9).toNat
      if h0 ≠ 0x000000F5 ∨ h1.extractLsb' 16 16 ≠ 0xF4C1 ∨ h1.extractLsb' 9 7 ≠ 0 then bad 0x08
      else if budget ≠ 0 ∧ (budget % 32 ≠ 0 ∨ 384 < budget) then bad 0x08
      else if s.cw.allot < budget then bad 0x09
      else none
    | (.ok _, _), (p, _) => some p
    | (p, _), _ => some p

/-- The first check that stops a list of groups. -/
def State.checkCalls (s : State) : List (Off × Mask) → Option Prep
  | [] => none
  | g :: rest => match s.checkCall g.1 with
    | some p => some p
    | none => s.checkCalls rest

/-- Go on where no group is stopped. -/
def State.callIf (s : State) (gs : List (Off × Mask)) (k : State) : State :=
  match s.checkCalls gs with
  | some p => s.andThen p fun _ => s
  | none => k

/-- CALLV (04 R108 to R110). -/
def State.callVector (i : Instr) (v : Sel) (s : State) : State :=
  let n := v.toNat
  let w := s.cw
  let f := s.frag
  if w.allot ≤ n + 1 then s.trap { cause := 0x04 } else
  let x := f.pc + 8
  let lo := w.vreg n
  let hi := w.vreg (n + 1)
  let gs := callGroups (fun l => (rowAt hi l ++ rowAt lo l).extractLsb' 0 42) (lanesOf f.mask)
  let g1 := gs.head?.getD (0, 0)
  let sig := foldSig f.sig (opcodeWord i)
  let put (f' : SplitEntry) : State := (s.setS linkReg (x.setWidth 64)).modW fun w => w.setEntry s.ent f'
  let serial (ls : List Level) : SplitEntry := { f with levels := ls, mask := g1.2, pc := g1.1, sig := startSig }
  let top := f.levels.head?.getD {}
  if !f.levels.isEmpty && top.phase && top.x == x && top.pendPc == f.pc then
    s.callIf [g1] (put (serial (if gs.length > 1
      then { top with phase := false, pend := f.mask &&& ~~~g1.2, pendPc := f.pc, pendSig := f.sig } :: f.levels.tail
      else f.levels)))
  else if gs.length ≤ 1 then s.callIf [g1] (put { f with pc := g1.1, sig := startSig })
  else if gs.length ≤ w.freeEntries.length then
    s.callIf gs (gs.foldl (fun s g => s.modW fun w =>
        w.setEntry (w.freeEntries.head?.getD 0)
          { mask := g.2, pc := g.1, parent := BitVec.ofNat 3 s.ent, valid := true, sig := startSig })
      (put { f with wait := true, reconv := x, sig := sig }))
  else if f.levels.length < 16 then
    s.callIf [g1] (put (serial
      ({ m := f.mask, pend := f.mask &&& ~~~g1.2, pendPc := f.pc, x := x, phase := false, pendSig := f.sig } :: f.levels)))
  else s.trap { cause := 0x05 }

def execCallv (v : Sel) (s : State) : Out := .next (s.callVector (.callv v) v)

end Sys2Proof.Machine
end

