-- ==== Sys2Proof/Machine/LaneCheck.lean ====
section
/-! DEFINITION. The issue checks of lane instructions (04 R417; 01 R15, R16, R28 to R30; 05 R134 to R166; 06 R182 to R190; 07
R200 to R222; 10 R283 to R285), and the registers that a lane instruction reads and writes (01 R18). -/

namespace Sys2Proof.Machine

/-- How a selector is used: not at all, as a source, as a 64-bit source, as a P number, as a V register, or as one that names a V
register pair. -/
inductive Use where
  | none | src | pair | pnum | vreg
  deriving DecidableEq, Repr

/-- How the destination is used: not at all, a V register, a pair, a predicate, a T number. -/
inductive Dst where
  | none | v | pair | p | t
  deriving DecidableEq, Repr

/-- What word 2 is (02 R51). -/
inductive Word2 where
  | zero | lit | ext
  deriving DecidableEq, Repr

/-- A row of the lane map (02 R51). -/
structure LaneSpec where
  d : Dst := .v
  a : Use := .src
  b : Use := .none
  c : Use := .none
  w2 : Word2 := .lit
  types : List Nat := [6]
  mods : List Nat := [0]
  last : Bool := false
  deriving DecidableEq, Repr

/-- The modifiers of the arithmetic groups: rounding and FTZ (02 R50). -/
def roundMods : List Nat := [0, 1, 2, 3, 4, 5, 6, 7]
/-- The types of conversion sources (05 R151). -/
def allTypes : List Nat := [0, 1, 2, 3, 4, 5, 6, 7, 8, 9, 10]

/-- The map row of a lane opcode (02 R51 and the instruction chapters). -/
def laneSpec (op : Nat) (o : LaneOps) : LaneSpec :=
  let m := o.md.toNat
  if op = 0x05 then { b := .src, c := .src }
  else if op = 0x1B then { b := .src, c := .src, types := [8], mods := [0, 1] }
  else if op = 0x0A ∨ op = 0x0B then { mods := [0, 1] }
  else if op = 0x0F ∨ op = 0x14 ∨ op = 0x15 ∨ op = 0x16 ∨ op = 0x22 then {}
  else if op = 0x17 then { b := .src, c := .src, mods := [0, 1] }
  else if op = 0x18 then { b := .src, c := .src }
  else if op = 0x1C then { d := .pair, a := .pair, b := .pair }
  else if op = 0x1D then { d := .pair, b := .src, types := [6, 7] }
  else if op = 0x20 then { d := .p, b := .src, types := [6, 7], mods := [0, 1, 2, 3, 4, 5] }
  else if op = 0x21 then { b := .src, c := .pnum }
  else if op = 0x23 then { a := .none, w2 := .zero, mods := [0, 1, 2, 3] }
  else if op < 0x40 then { b := .src }
  else if op = 0x43 then { b := .src, c := .src, types := [0], mods := roundMods }
  else if op = 0x46 ∨ op = 0x47 ∨ op = 0x4A then { types := [0], mods := roundMods }
  else if op = 0x49 then { types := [0] }
  else if op = 0x48 then { d := .p, b := .src, types := [0], mods := if m % 8 ≤ 5 then [m] else [] }
  else if op < 0x4B then { b := .src, types := [0], mods := roundMods }
  else if op = 0x52 then { b := .src, c := .src, types := [1, 2], mods := roundMods }
  else if op < 0x80 then { b := .src, types := [1, 2], mods := roundMods }
  else if op = 0x80 then { w2 := .ext, types := allTypes }
  else if op = 0x83 then { d := .pair, w2 := .ext, types := allTypes }
  else if op = 0x82 then { b := .src, w2 := .ext, types := allTypes }
  else if op = 0x81 then { b := .src, c := .src, w2 := .ext, types := [0, 2] }
  else if op = 0x84 then { b := if o.lit.getLsbD 6 then .src else .none, w2 := .ext, types := [0, 2] }
  else if op = 0x85 then { b := if o.lit.getLsbD 0 then .src else .none, w2 := .ext, types := [0, 2] }
  else if op = 0xA0 then
    { a := .pair, w2 := .ext, mods := if m % 8 ≤ 6 ∧ m < 16 then [m] else [], last := true
      d := if m % 8 = 3 then .pair else .v }
  else if op = 0xA1 then
    { d := .none, a := .pair, b := if m % 8 = 3 then .pair else .src, w2 := .ext
      mods := if m % 8 ≤ 4 ∧ m < 16 then [m] else [], last := true }
  else if op = 0xA2 then
    { a := .pair, b := .src, c := if m = 9 then .src else .none, w2 := .ext
      types := if m ≤ 2 ∨ m = 8 ∨ m = 9 then [0, 6] else [6], mods := if m ≤ 9 then [m] else [], last := true }
  else if op = 0xA3 then
    { d := .none, a := .pair, b := if m = 2 then .none else .src, w2 := .ext, types := [0], mods := [0, 1, 2], last := true }
  else if op = 0xA4 then
    { d := .none, a := .pair, b := .pair, c := if m % 2 = 1 then .src else .none, w2 := .ext
      mods := if m < 8 then [m] else [], last := true }
  else if op = 0xC0 then { b := if o.lit.extractLsb' 0 3 = 0 then .src else .none, w2 := .ext, types := [0, 6, 7] }
  else if op = 0xC1 then { a := .pnum, w2 := .zero, mods := [0, 1] }
  else if op = 0xC2 then { b := .src, c := .src, types := [6, 7] }
  else if op = 0xC3 ∨ op = 0xC4 then { w2 := .ext, types := [0, 6, 7] }
  else if op = 0xC5 then
    { d := .none, a := if o.lit.getLsbD 20 then .pair else .src, b := .src
      c := if o.lit.extractLsb' 0 2 = 3 then .src else .none, w2 := .ext, last := true }
  else if op = 0xD0 then { d := .t, a := .vreg, b := .vreg, w2 := .ext, types := [o.ty.toNat], last := true }
  else if op = 0xD1 ∨ op = 0xD3 then { d := .t, a := .none, w2 := .ext, types := [0], last := true }
  else if op = 0xD2 then
    if m % 2 = 1 then { d := .t, a := .vreg, w2 := .ext, types := [0], mods := [1], last := true }
    else { a := .none, w2 := .ext, types := [0], last := true }
  else if op = 0xD4 then
    { d := .t, a := if o.lit.extractLsb' 0 2 = 0 then .vreg else .none, w2 := .ext, types := [0], last := true }
  else if op = 0xD5 then
    { a := if o.lit.getLsbD 28 then .vreg else .none, b := if o.lit.getLsbD 26 then .vreg else .none, w2 := .ext, types := [0]
      last := true }
  else { types := [0], mods := [0, 4] }

/-- Whether an opcode has a V destination, so that NW may be 1 (01 R30; 06 R182; 07 R217). -/
def takesNw (op : Nat) : Bool :=
  !(op == 0x20 || op == 0x48 || op == 0xA0 || op == 0xA1 || op == 0xA3 || op == 0xA4 || decide (0xC5 ≤ op ∧ op < 0xE0))

/-- Whether an opcode leaves a latch value (01 R29). -/
def makesLatch (op : Nat) : Bool := !(op == 0x20 || op == 0x48 || decide (0xA0 ≤ op ∧ op < 0xC0) || decide (0xC5 ≤ op ∧ op < 0xE0))

/-- The fields of the conversion word (05 R151). -/
def cvDtype (x : W32) : BitVec 4 := x.extractLsb' 0 4
def cvRm (x : W32) : Nat := (x.extractLsb' 4 3).toNat
def cvSat (x : W32) : Bool := x.getLsbD 7
def cvFtz (x : W32) : Bool := x.getLsbD 8
def cvIdx (x : W32) : Nat := (x.extractLsb' 9 3).toNat
def cvOmask (x : W32) : Nat := (x.extractLsb' 12 4).toNat
def cvSide (x : W32) : Nat := (x.extractLsb' 16 9).toNat
def cvSideFmt (x : W32) : Bool := x.getLsbD 25

/-- How many elements a type has per 32 bits (05 R152). -/
def perWord (t : BitVec 4) : Nat := 32 / tyWidth t
/-- The destinations that stochastic rounding serves (05 R151). -/
def srServes (t : BitVec 4) : Bool := decide (1 ≤ t.toNat ∧ t.toNat ≤ 5)

/-- The ranges of the conversion word that CVT, PACK, UNPK and QNT share (05 R151). -/
def cvOk (x : W32) : Bool :=
  decide ((cvDtype x).toNat ≤ 10) && decide (cvRm x ≤ 4) && (cvRm x != 4 || srServes (cvDtype x)) && x.extractLsb' 26 6 == 0

/-- The fields of the tile-move word that stay within the tile (07 R214). -/
def tmFits (x : W32) : Bool := decide ((x.extractLsb' 11 6).toNat + (x.extractLsb' 17 6).toNat ≤ 63)
def tmTypeOk (t : Nat) : Bool := decide (t ≤ 6) || t == 8

/-- The segment size of a cross-lane word in a watch of W lanes (05 R159). -/
def segSize (w : Nat) (x : W32) : Nat :=
  match (x.extractLsb' 10 2).toNat with
  | 0 => w | 1 => 16 | 2 => 32 | _ => 64
def segK (x : W32) : Nat := (x.extractLsb' 4 6).toNat
def segOp (x : W32) : Nat := (x.extractLsb' 0 3).toNat
def segExcl (x : W32) : Bool := x.getLsbD 3

/-- The field conditions of word 2 and the ranges that the chapters state as LANEOP (05 R166, 07 R222, 10 R284). -/
def extOk (w : Watch) (op : Nat) (o : LaneOps) : Bool :=
  let x := o.lit
  let dt := cvDtype x
  if op = 0x80 then cvOk x && x.extractLsb' 12 14 == 0 && decide (cvIdx x < perWord o.ty)
  else if op = 0x82 then
    cvOk x && x.extractLsb' 12 14 == 0 && tyWidth dt != 32 &&
      (if tyWidth dt = 16 then cvIdx x == 0 else cvIdx x % 2 == 0 && decide (cvIdx x + 1 < perWord dt))
  else if op = 0x83 then
    cvOk x && x.extractLsb' 12 14 == 0 && tyWidth o.ty != 32 && decide (cvIdx x + 2 ≤ perWord o.ty)
  else if op = 0x81 then
    cvOk x && (dt == 3 || dt == 4 || dt == 5 || dt == 8) && decide (cvIdx x < perWord dt) &&
      decide (cvSide x ≠ o.d.toNat)
  else if op = 0x84 then
    (dt == 3 || dt == 4 || dt == 5 || dt == 8) && (!x.getLsbD 4 || dt == 5) && x.extractLsb' 7 25 == 0
  else if op = 0x85 then x.extractLsb' 4 28 == 0 && (x.getLsbD 0 || x.extractLsb' 1 3 == 0)
  else if op = 0xC0 then
    decide (segOp x ≤ 4) && !segExcl x && x.extractLsb' 12 20 == 0 && decide (segSize w.width x ≤ w.width) &&
      decide (segK x = 0 ∨ (segOp x ≠ 0 ∧ segK x < segSize w.width x))
  else if op = 0xC3 ∨ op = 0xC4 then
    decide (segOp x ≤ 5) && (op == 0xC4 || !segExcl x) && x.extractLsb' 12 20 == 0 && segK x == 0 &&
      decide (segSize w.width x ≤ w.width) && (o.ty != 0 || decide (segOp x ≤ 2))
  else if op = 0xC5 then x.extractLsb' 21 11 == 0 && (x.extractLsb' 0 2 != 3 || x.extractLsb' 2 10 == 0)
  else if op = 0xD0 then
    x.extractLsb' 23 9 == 0 && o.ty == shapeA w.mshape && decide ((mmaNpos x + 1) * shapeN w.mshape ≤ 64)
  else if op = 0xD1 then x.extractLsb' 10 22 == 0 && decide ((x.extractLsb' 0 3).toNat ≠ o.d.toNat)
  else if op = 0xD3 then x.extractLsb' 1 31 == 0
  else if op = 0xD4 then x.extractLsb' 2 30 == 0 && x.extractLsb' 0 2 != 3
  else if op = 0xD2 then
    if o.md.getLsbD 0 then
      tmTypeOk (tmType x).toNat && tmRm x == 0 && !tmSat x && tmTile x == 0 && tmFits x && x.extractLsb' 23 9 == 0
    else if x.getLsbD 23 then tmType x == 0 && tmC0 x == 0 && x.extractLsb' 17 6 == 0 && decide (tmRm x ≤ 3) && x.extractLsb' 24 8 == 0
    else tmTypeOk (tmType x).toNat && decide (tmRm x ≤ 3) && tmFits x && x.extractLsb' 24 8 == 0
  else if op = 0xD5 then
    srServes (tmType x) && decide (tmRm x ≤ 4) && tmFits x && x.extractLsb' 29 3 == 0 && (x.getLsbD 26 || x.extractLsb' 23 3 == 0)
  else true

/-- Step 2 of 04 R417: the fields of an instruction. -/
def laneFieldsOk (w : Watch) (op : Nat) (o : LaneOps) : Bool :=
  let sp := laneSpec op o
  let unused (u : Use) (x : Sel) : Bool := u != .none || x == 0
  let pnum (u : Use) (x : Sel) : Bool := u != .pnum || decide (x.toNat < 16)
  sp.types.contains o.ty.toNat && sp.mods.contains o.md.toNat && (!o.nw || (takesNw op && o.d == 0)) &&
  (sp.w2 != .zero || o.lit == 0) &&
  unused sp.a o.a && unused sp.b o.b && unused sp.c o.c && pnum sp.a o.a && pnum sp.b o.b && pnum sp.c o.c &&
  (match sp.d with
    | .none => o.d == 0
    | .p => decide (o.d.toNat < 16)
    | .t => decide (o.d.toNat < 8)
    | _ => true) &&
  extOk w op o

/-- The scale block of an MMA, where its A format has one (07 R201). -/
def mmaScaled (w : Watch) : Bool := decide (0 < scaleRegs (shapeA w.mshape) (shapeK w.mshape) (shapeGA w.mshape))

/-- Step 3 of 04 R417: the selector uses (01 R16; 02 R48; 05 R156, R158, R161; 06 R183; 07 R222). `latches` says which earlier
instructions of the chain left a latch value. -/
def laneOperandsOk (w : Watch) (op : Nat) (o : LaneOps) (latches : List Bool) : Bool :=
  let sp := laneSpec op o
  let use (u : Use) (x : Sel) : Bool :=
    match u with
    | .none => true
    | .pnum => true
    | .vreg => selIsV x
    | .src => !selReserved x && (!selIsLit x || sp.w2 == .lit) && (!selIsLatch x || (latches[selNum x]?.getD false))
    | .pair => !selReserved x && (!selIsLit x || sp.w2 == .lit) && (!selIsLatch x || (latches[selNum x]?.getD false)) &&
        (!selIsV x || x.toNat % 2 == 0)
  let m := o.md.toNat
  (if op = 0xD0 then
    selIsV o.a && o.a.toNat % 8 == 0 && (if mmaScaled w then selIsV o.b else o.b == 0)
  else use sp.a o.a && use sp.b o.b && use sp.c o.c) &&
  (match sp.d with
    | .v => selIsV o.d
    | .pair => selIsV o.d && (o.nw || o.d.toNat % 2 == 0)
    | .p => o.d != 0
    | _ => true) &&
  (op != 0x81 || cvOmask o.lit != 0) &&
  (op != 0x85 || !o.lit.getLsbD 0 || selIsScalar o.b) &&
  (op != 0xC0 || selIsV o.a || selIsLatch o.a) &&
  (op != 0xA0 || m % 8 != 4 || o.d.toNat % 4 == 0) &&
  (op != 0xA1 || m % 8 != 4 || (selIsV o.b && o.b.toNat % 4 == 0)) &&
  (op != 0xD5 || !o.lit.getLsbD 26 || o.b.toNat % 2 == 0)

/-- The registers of a run of `count` columns of a type (07 R214). -/
def runRegs (x : W32) : Nat := ceilDiv (tmCount x * tyWidth (tmType x)) 32

/-- A run of V registers that a selector names, if it names one. -/
def vRun (x : Sel) (n : Nat) : List (Nat × Nat) := if selIsV x then [(x.toNat, n)] else []

/-- The V registers that a lane instruction reads, as runs (01 R18). -/
def vReads (w : Watch) (op : Nat) (o : LaneOps) : List (Nat × Nat) :=
  let sp := laneSpec op o
  let use (u : Use) (x : Sel) : List (Nat × Nat) :=
    match u with
    | .src => vRun x 1
    | .vreg => vRun x 1
    | .pair => vRun x 2
    | _ => []
  if op = 0xD0 then
    vRun o.a (blockRegs (shapeA w.mshape) (shapeK w.mshape)) ++
      (if mmaScaled w then vRun o.b (scaleRegs (shapeA w.mshape) (shapeK w.mshape) (shapeGA w.mshape)) else [])
  else if op = 0xD2 then (if o.md.getLsbD 0 then vRun o.a (runRegs o.lit) else [])
  else use sp.a o.a ++ (if op = 0xA1 ∧ o.md.toNat % 8 = 4 then vRun o.b 4
      else if op = 0xD5 ∧ o.lit.getLsbD 26 then vRun o.b 2 else use sp.b o.b) ++ use sp.c o.c ++
    (if op = 0x18 ∨ op = 0x81 ∨ (op = 0x82 ∧ tyWidth (cvDtype o.lit) < 16) then vRun o.d 1 else [])

/-- The V registers that a lane instruction writes, as runs (01 R18). -/
def vWrites (op : Nat) (o : LaneOps) : List (Nat × Nat) :=
  if o.nw then (if op = 0x81 then [(cvSide o.lit, 1)] else [])
  else if op = 0xD2 then (if o.md.getLsbD 0 then [] else if o.lit.getLsbD 23 then vRun o.d 2 else vRun o.d (runRegs o.lit))
  else if op = 0xD5 then vRun o.d (runRegs o.lit)
  else if op = 0xA0 ∧ o.md.toNat % 8 = 4 then vRun o.d 4
  else match (laneSpec op o).d with
    | .v => vRun o.d 1 ++ (if op = 0x81 then [(cvSide o.lit, 1)] else [])
    | .pair => vRun o.d 2
    | _ => []

/-- The predicate registers that a lane instruction reads and writes (01 R18). -/
def pReads (op : Nat) (o : LaneOps) : List Nat :=
  [o.p.toNat] ++ (if op = 0x21 then [o.c.toNat] else if op = 0xC1 then [o.a.toNat] else [])
def pWrites (op : Nat) (o : LaneOps) : List Nat :=
  if op = 0x20 ∨ op = 0x48 then [o.d.toNat] else if op = 0x81 then [cvOmask o.lit] else []

/-- Step 4 of 04 R417: the allotment (01 R15). -/
def laneAllotOk (w : Watch) (op : Nat) (o : LaneOps) : Bool :=
  (vReads w op o ++ vWrites op o).all fun r => decide (r.1 + r.2 ≤ w.allot)

/-- Whether a lane instruction names a queue. -/
def popsQueue (op : Nat) (o : LaneOps) : Bool :=
  let sp := laneSpec op o
  let q (u : Use) (x : Sel) : Bool := (u == .src || u == .pair) && selIsQueue x
  q sp.a o.a || q sp.b o.b || q sp.c o.c

/-- What a pair forbids a lane instruction (09 R274). -/
def pairForbids (op : Nat) (o : LaneOps) : Bool :=
  op == 0xC5 || op == 0xA3 || op == 0xA4 || decide (0xD0 ≤ op ∧ op ≤ 0xD5) || (op == 0x85 && o.lit.getLsbD 0) || popsQueue op o

/-- The checks of one lane instruction in the order of 04 R417: the cause of the first that fails. Whether the watch is a member of the
crew of an XST, and whether the B block of an MMA runs beyond a buffer that it uses (07 R222), are the caller's. -/
def laneCause (s : State) (w : Watch) (member beyond : Bool) (op : Nat) (o : LaneOps) (latches : List Bool) : Option Nat :=
  if !laneFieldsOk w op o then some 0x02
  else if !laneOperandsOk w op o latches || beyond then some 0x03
  else if !laneAllotOk w op o then some 0x04
  else if w.pair.isSome && pairForbids op o then some 0x29
  else if op == 0xC5 && !member then some 0x21
  else if op == 0xD0 && shapeB w.mshape != 1 && shapeB w.mshape != 2 && !(s.core w.core).tested then some 0x18
  else none

end Sys2Proof.Machine
end

