-- ==== Sys2Proof/Machine/Block.lean ====
section
/-! DEFINITION. Lane blocks and lane values in the control stream: LX (04 R111; 01 R17; R417), VGET, VPUT, PGET and PPUT (04 R112
to R115), streams (04 R116, R117; 08 R237), SHAPE (04 R118 to R120) and WAITP (04 R121). -/

namespace Sys2Proof.Machine

/-! ## LX -/

/-- The three words of each lane instruction of a block, or what stops their fetch (04 R111, 12 R339). -/
def State.fetchBlock (s : State) (start : Nat) : Nat → Prep × List (W32 × W32 × W32)
  | 0 => (.ok {}, [])
  | n + 1 =>
    match fetchBlock s start n with
    | (.ok a, l) =>
      let o (i : Nat) : Off := BitVec.ofNat 42 (offOf (s.cw.laneAddr (start + n)) + 4 * i)
      match s.codeWord (o 0), s.codeWord (o 1), s.codeWord (o 2) with
      | (.ok _, x), (.ok _, y), (.ok _, z) => (.ok a, l ++ [(x, y, z)])
      | (.ok _, _), (.ok _, _), (p, _) => (p, [])
      | (.ok _, _), (p, _), _ => (p, [])
      | (p, _), _, _ => (p, [])
    | (p, _) => (p, [])

/-- The crew that an XST names (10 R284). -/
def xstCrew (x : W32) : Nat := (x.extractLsb' 12 8).toNat

/-- The entries of an accepted block (01 R17), with the scalars as they stand (log 8). -/
def Watch.blockEntries (w : Watch) (ent start blk seq : Nat) (l : List (W32 × W32 × W32)) : List LqEntry :=
  w.entriesOf { mask := (w.entry ent).mask, ent := ent, lxPc := (w.entry ent).pc, index := start, blk := blk, seq := seq
                sig := (w.entry ent).sig } (l.map fun x => .ok x)

/-- The S registers that an outstanding operation will write (04 R92, R191, R193; 11 R326). -/
def Watch.busyS (w : Watch) : List Nat :=
  w.ops.flatMap fun o =>
    if o.done then [] else
    match o.kind with
    | .sld => if o.size = 4 then [o.d, o.d + 1] else [o.d]
    | .satom => [o.d]
    | .xatom => [o.d]
    | .engine => if o.cmd.maj = 0x36 then [o.d] else []
    | _ => []

/-- An entry names an S register that an outstanding operation will write (06 R191, R193). -/
def Watch.awaitsS (w : Watch) (busy : List Nat) (e : LqEntry) : Bool :=
  let o := matOps e.instr
  [o.a, o.b, o.c].any fun x => selIsScalar x && selNum x != 0 && busy.contains (selNum x)

/-- The signature after an accepted LX (09 R271). -/
def blockSig (i : Instr) (sig : W32) (l : List (W32 × W32 × W32)) : W32 :=
  l.foldl (fun g x => foldSig g x.1) (foldSig sig (opcodeWord i))

/-- LX (04 R111): it waits for room (01 R17), and for the S registers that its lane instructions name (06 R191, R193). Its block enters
the queue whole, and is checked at its issue (R417; log 7). -/
def State.startBlock (i : Instr) (st : B25) (n : Reg) (s : State) : State :=
  let count := n.toNat + 1
  if 128 < s.cw.lq.length + count then s
  else
    match s.fetchBlock st.toNat count with
    | (.ok _, l) =>
      let es := s.cw.blockEntries s.ent st.toNat s.next s.seq l
      if es.any (s.cw.awaitsS s.cw.busyS) then s
      else
        let t := s.modW fun w => { w with lq := w.lq ++ es }
        let t := t.modFrag fun f => { f with sig := blockSig i f.sig l, pc := f.pc + 8 }
        { t with next := s.next + 1, seq := s.seq + count }
    | (p, _) => s.andThen p fun _ => s

def execLx (st : B25) (n : Reg) (s : State) : Out := .next (s.startBlock (.lx st n) st n)

/-! ## Lane values -/

/-- VGET (04 R112). -/
def execVget (d a : Reg) (v : Sel) (pr : Bool) (s : State) : Out :=
  let n := v.toNat
  let l := (s.sreg a).toNat
  if s.cw.allot ≤ n + (if pr then 1 else 0) then .next (s.trap { cause := 0x04 })
  else if s.cw.width ≤ l then .next (s.trap { cause := 0x0A })
  else s.writeS (.vget d a v pr) d
    ((if pr then rowAt (s.cw.vreg (n + 1)) l else 0) ++ rowAt (s.cw.vreg n) l)

/-- The value that VPUT writes into the lanes of a mask (04 R113). -/
def Watch.vputLanes (w : Watch) (n : Nat) (pr : Bool) (m : Mask) (v : Word) : Watch :=
  let w := w.setV n m (Vector.replicate 64 (v.extractLsb' 0 32))
  if pr then w.setV (n + 1) m (Vector.replicate 64 (v.extractLsb' 32 32)) else w

/-- VPUT (04 R113). -/
def execVput (a b : Reg) (v : Sel) (pr : Bool) (s : State) : Out :=
  let n := v.toNat
  let l := (s.sreg b).toNat
  if s.cw.allot ≤ n + (if pr then 1 else 0) then .next (s.trap { cause := 0x04 })
  else if s.cw.width ≤ l ∨ !s.frag.mask.getLsbD l then .next (s.trap { cause := 0x0A })
  else .next ((s.modW fun w => w.vputLanes n pr (oneLane l) (s.sreg a)).finish (.vput a b v pr))

/-- VPUT.ALL (04 R113). -/
def execVputAll (a : Reg) (v : Sel) (pr : Bool) (s : State) : Out :=
  let n := v.toNat
  if s.cw.allot ≤ n + (if pr then 1 else 0) then .next (s.trap { cause := 0x04 })
  else .next ((s.modW fun w => w.vputLanes n pr s.frag.mask (s.sreg a)).finish (.vputAll a v pr))

/-- PGET (04 R114). -/
def execPget (d : Reg) (p : B4) (s : State) : Out := s.writeS (.pget d p) d (s.cw.preg p &&& s.cw.full)

/-- PPUT (04 R115). -/
def execPput (a : Reg) (p : B4) (s : State) : Out :=
  let m := s.frag.mask
  .next ((s.modW fun w => w.setP p ((w.preg p &&& ~~~m) ||| (s.sreg a &&& m))).finish (.pput a p))

/-! ## Streams -/

/-- The fields of a stream descriptor (08 R237), from its four words. -/
def sdBits (d : List Word) (lo n : Nat) : Nat := ((d[lo / 64]?.getD 0).toNat >>> (lo % 64)) % 2 ^ n
def sdN (d : List Word) (k : Nat) : Nat := sdBits d (192 + 16 * k) 16
def sdCount (d : List Word) : Nat := sdN d 0 * sdN d 1 * sdN d 2
def sdEsz (d : List Word) : Nat := sdBits d 240 2
def sdSx (d : List Word) : Bool := sdBits d 242 1 == 1
def sdVen (d : List Word) : Bool := sdBits d 243 1 == 1
def sdVbase (d : List Word) : Nat := sdBits d 244 9

/-- A descriptor that breaks a range, a reserved field or the BASE rule (08 R237). -/
def sdBad (d : List Word) : Bool :=
  let b := d[0]?.getD 0
  b.extractLsb' 56 8 != 0 || decide (2 < tagOf b) || colOf b != 0x3FF || sdN d 0 == 0 || sdN d 1 == 0 || sdN d 2 == 0 ||
    sdEsz d == 3 || decide (383 < sdVbase d) || (!sdVen d && sdVbase d != 0) || sdBits d 253 3 != 0

/-- Whether an entry of the lane issue queue pops one of the queues of a mask. -/
def LqEntry.popsAny (e : LqEntry) (qs : List Nat) : Bool :=
  match encodeLaneOp e.instr with
  | some (op, o) =>
    let sp := laneSpec op.toNat o
    let q (u : Use) (x : Sel) : Bool := (u == .src || u == .pair) && selIsQueue x && qs.contains (selNum x)
    q sp.a o.a || q sp.b o.b || q sp.c o.c
  | none => false

/-- Replace queue q. -/
def Watch.setQ (w : Watch) (q : Nat) (x : Queue) : Watch := { w with q := Vector.ofFn fun i => if i.val = q then x else w.q[i] }
def Watch.queue (w : Watch) (q : Nat) : Queue := w.q[q]?.getD {}

/-- The words of a number. -/
def wordsOf (n v : Nat) : List Word := (List.range n).map fun i => BitVec.ofNat 64 (v >>> (64 * i))

/-- The V registers that operations in flight will write (01 R18). -/
def Op.runs (o : Op) : List (Nat × Nat) :=
  if o.done then [] else
  match o.kind with
  | .ld => [(o.d, if o.size = 3 then 2 else if o.size = 4 then 4 else 1)]
  | .atom => if o.nw then [] else [(o.d, 1)]
  | _ => []

/-- Whether one run meets another. -/
def runsMeet (a b : List (Nat × Nat)) : Bool :=
  a.any fun x => b.any fun y => decide (x.1 < y.1 + y.2 ∧ y.1 < x.1 + x.2)

/-- The runs that an accepted matrix instruction will write (07 R216). -/
def MatOp.runs (m : MatOp) : List (Nat × Nat) :=
  match encodeLaneOp m.instr with
  | some (op, o) => vWrites op.toNat o
  | none => []

/-- The runs that the lane queue's instructions write, or touch at all. -/
def LqEntry.runs (w : Watch) (touch : Bool) (e : LqEntry) : List (Nat × Nat) :=
  match encodeLaneOp e.instr with
  | some (op, o) => vWrites op.toNat o ++ (if touch then vReads w op.toNat o else [])
  | none => []

/-- Whether older lane instructions of the watch still write (or, with `touch`, read) V registers of a run (01 R18). -/
def Watch.vBusy (w : Watch) (touch : Bool) (r : List (Nat × Nat)) : Bool :=
  (w.lq.any fun e => runsMeet (e.runs w touch) r) || (w.ops.any fun o => runsMeet o.runs r) ||
    (w.mat.any fun m => runsMeet m.runs r)

/-- Whether older lane instructions of the watch still write (or, with `touch`, read) a P register (01 R18). -/
def Watch.pBusy (w : Watch) (touch : Bool) (p : Nat) : Bool :=
  w.lq.any fun e => match encodeLaneOp e.instr with
    | some (op, o) => (pWrites op.toNat o).contains p || (touch && (pReads op.toNat o).contains p)
    | none => false

/-- The queue that STRM.DEF leaves (04 R116, 08 R237). -/
def Watch.defined (w : Watch) (d : List Word) : Queue :=
  if sdBad d then { st := .ended, desc := [] }
  else { st := .defined, desc := d
         base := Vector.ofFn fun l => if sdVen d then (rowAt (w.vreg (sdVbase d)) l.val).signExtend 64 else 0 }

/-- STRM.DEF (04 R116, R117; 08 R237). DESIGN CHOICE: a malformed descriptor leaves the queue ENDED whatever VBASE it names, without the
trap ALLOT (log 64). -/
def State.strmDefine (i : Instr) (a : Reg) (q : Nat) (s : State) : State :=
  let w := s.cw
  if w.pair.isSome then s.trap { cause := 0x29 }
  else if w.lq.any fun e => e.popsAny [q] then s
  else if (w.queue q).st = .running then s.trap { cause := 0x0B }
  else s.access { size := 32, align := 32, tags := [0, 1] } (s.sreg a) fun acc => s.reading acc 32 fun v =>
    let d := wordsOf 4 v
    if !sdBad d && sdVen d && decide (w.allot ≤ sdVbase d) then s.trap { cause := 0x04 }
    else if !sdBad d && sdVen d && w.vBusy false [(sdVbase d, 1)] then s
    else (s.modW fun w => w.setQ q (w.defined d)).finish i

def execStrmDef (a : Reg) (q : B3) (s : State) : Out := .next (s.strmDefine (.strmDef a q) a q.toNat)

/-- The queues of a QMASK. -/
def maskQueues (m : Byte) : List Nat := (List.range 8).filter fun i => m.getLsbD i

/-- STRM.GO (04 R116, R117). -/
def execStrmGo (m : Byte) (s : State) : Out :=
  if s.cw.pair.isSome then .next (s.trap { cause := 0x29 })
  else if (maskQueues m).any fun q => (s.cw.queue q).st == .empty then .next (s.trap { cause := 0x0B })
  else .next ((s.modW fun w => (maskQueues m).foldl (fun w q =>
    if (w.queue q).st = .defined then w.setQ q { w.queue q with st := .running, go := s.seq } else w) w).finish (.strmGo m))

/-- STRM.STOP (04 R116, R117). -/
def execStrmStop (m : Byte) (s : State) : Out :=
  if s.cw.pair.isSome then .next (s.trap { cause := 0x29 })
  else if s.cw.lq.any fun e => e.popsAny (maskQueues m) then .next s
  else .next ((s.modW fun w => (maskQueues m).foldl (fun w q => w.setQ q {}) w).finish (.strmStop m))

/-! ## SHAPE and WAITP -/

/-- The K step granted to a pair of formats (04 R119): none where the pair is not in the table. -/
def grantK (fa fb : B4) (k : B2) : Option B2 :=
  if fa = 5 ∧ fb = 5 then some (if k = 0 then 1 else k)
  else if (fa = 3 ∨ fa = 4) ∧ (fb = 3 ∨ fb = 4) then some k
  else if (fa = 1 ∧ fb = 1) ∨ (fa = 2 ∧ fb = 2) then some (if k = 2 then 1 else k)
  else if fa = 8 ∧ fb = 8 then some k
  else none

/-- The grant as S[d] and MSHAPE hold it (04 R119, R120). -/
def grantWord (x : ShapeReq) : BitVec 18 :=
  match grantK x.fa x.fb x.k with
  | none => (0 : B2) ++ x.gb ++ x.ga ++ x.fb ++ x.fa ++ x.k ++ x.n
  | some k =>
    let scaled := isScaled x.fa
    let ga := if scaled then x.ga else 0
    let gb := if scaled then x.gb else 0
    (if k ≠ x.k ∨ ga ≠ x.ga ∨ gb ≠ x.gb then (1 : BitVec 1) else 0) ++ (1 : BitVec 1) ++ gb ++ ga ++ x.fb ++ x.fa ++ k ++ x.n

/-- SHAPE (04 R118 to R120). -/
def execShape (d : Reg) (x : ShapeReq) (s : State) : Out :=
  let g := grantWord x
  let s' := if g.getLsbD 16 then s.modW fun w => { w with mshape := g } else s
  .next ((s'.setS d (g.setWidth 64)).finish (.shape d x))

/-- WAITP (04 R121): it waits while the counter is above the threshold. -/
def execWaitp (a : Reg) (p : B4) (s : State) : Out :=
  if s.cw.pathCount p.toNat ≤ (s.sreg a).toNat then .next (s.finish (.waitp a p)) else .next s

/-! ## Interlocks of the control stream -/

/-- The S registers that a control instruction may read or write: its D, A and B fields, the compare register of an atomic, the
addend of MAD, the pair of SLD.B128 and the link register of the calls. -/
def controlS (i : Instr) : List Nat :=
  let f := (encodeControl i).getD ⟨⟨0, 0, 0, 0, 0, 0⟩, 0, 0⟩
  [f.f.d.toNat, f.f.a.toNat, f.f.b.toNat] ++
    match i with
    | .satom _ _ _ _ c _ _ _ => [c.toNat]
    | .xatom _ _ _ _ c _ _ _ => [c.toNat]
    | .mad _ _ _ c => [c.toNat]
    | .sld d _ _ => [d.toNat + 1]
    | .sld64 d _ _ _ => [d.toNat + 1]
    | .call _ => [63]
    | .callr _ => [63]
    | .callv _ => [63]
    | _ => []

/-- Whether a control instruction waits for older lane instructions (01 R18; 04 R106, R109, R112 to R115, R120, R123). A VGET whose
register or lane is out of range traps without the wait (R112), and so does a VPUT whose register is (R113). -/
def Watch.waitsForLanes (w : Watch) (i : Instr) : Bool :=
  let run (v : Sel) (pr : Bool) : List (Nat × Nat) := [(v.toNat, if pr then 2 else 1)]
  let fits (v : Sel) (pr : Bool) : Bool := decide (v.toNat + (if pr then 1 else 0) < w.allot)
  match i with
  | .vget _ a v pr => fits v pr && decide ((w.sreg a).toNat < w.width) && w.vBusy false (run v pr)
  | .vput _ _ v pr => fits v pr && w.vBusy true (run v pr)
  | .vputAll _ v pr => fits v pr && w.vBusy true (run v pr)
  | .callv v => w.vBusy false (run v true)
  | .split p _ _ => w.pBusy false p.toNat
  | .splitN p _ _ => w.pBusy false p.toNat
  | .pget _ p => w.pBusy false p.toNat
  | .pput _ p => w.pBusy true p.toNat
  | .shape _ _ => !w.lanesIdle
  | .syswSrseed _ => !w.lanesIdle || w.mat.isSome
  | .syswRbnd _ => !w.lanesIdle
  | .syswInject _ => !w.lanesIdle
  | _ => false

/-- Whether a control instruction puts an operation in flight that the limit of 15 counts (09 R261). -/
def isHeavy (i : Instr) : Bool :=
  match (encodeControl i).map (·.f.maj.toNat) with
  | some m => m == 0x18 || m == 0x1A || m == 0x1B || decide (0x30 ≤ m ∧ m ≤ 0x37 ∧ m ≠ 0x35)
  | none => false

end Sys2Proof.Machine
end

