-- ==== Sys2Proof/Machine/System.lean ====
section
/-! DEFINITION. The system registers (04 R122 to R127), TRAP, RTE and NOP (04 R128 to R131; 09 R267), and the reserved control
encodings (02 R52). -/

namespace Sys2Proof.Machine

/-- STEPPING (04 R125): A1 or B0 is the part's (Config.isA1). -/
def stepping : Word := if Config.isA1 then 0x38A1 else 0x38B0

/-- HSTATE (04 R127). -/
def Watch.hstate (w : Watch) : Word :=
  BitVec.ofNat 64 ((if w.inh then 1 else 0) + w.rung.toNat <<< 1 + w.crgn.length <<< 4)

/-- ROLEID (04 R124). -/
def Watch.roleId (w : Watch) : Word := BitVec.ofNat 64 (w.role + w.index <<< 2)

/-- The value of a system register (04 R124), none where the number is not listed. CYCLE is read by `execSysr` itself. -/
def State.sysValue (s : State) (n : Nat) : Option Word :=
  let w := s.cw
  if n = 0x000 then some stepping
  else if n = 0x001 then some (s.watchId w)
  else if n = 0x002 then some s.frag.mask
  else if n = 0x003 then some (BitVec.ofNat 64 w.ctx)
  else if n = 0x004 then some (w.lblock.setWidth 64)
  else if n = 0x005 then some w.roleId
  else if n = 0x008 then some w.fmask
  else if n = 0x009 then some (w.fmwhy.setWidth 64)
  else if n = 0x010 then some w.srseed
  else if n = 0x011 then some (w.mshape.setWidth 64)
  else if n = 0x012 then some (BitVec.ofNat 64 w.rbnd)
  else if n = 0x013 then some (s.frag.sig.setWidth 64)
  else if n = 0x014 then some w.inject
  else if n = 0x018 then some w.hstate
  else if n = 0x019 then some w.frame
  else if 0x020 ≤ n ∧ n ≤ 0x029 then some (BitVec.ofNat 64 (w.pathCount (n - 0x020)))
  else none

/-- The core's cycle counter goes on by a gap that the manual leaves open (04 R124; log 6). -/
def State.advanceCycle (s : State) : State :=
  { s.modCore s.cw.core fun c => { c with cycle := c.cycle + BitVec.ofNat 64 (Config.freeGap s.free) } with free := s.free + 1 }

/-- SYSR (04 R122); of SIGREG it folds nothing (09 R271). -/
def execSysr (d : Reg) (n : I12) (s : State) : Out :=
  let i : Instr := .sysr d n
  if n = 0x030 then
    let t := s.advanceCycle
    .next ((t.setS d (t.core s.cw.core).cycle).finish i)
  else match s.sysValue n.toNat with
    | none => .next (s.trap { cause := 0x0C })
    | some v => if n = 0x013 then .next ((s.setS d v).finishNoFold i) else .next ((s.setS d v).finish i)

/-- SYSW to SRSEED: every lane is reseeded (03 R84). -/
def execSyswSrseed (a : Reg) (s : State) : Out :=
  .next ((s.modW fun w => { w with srseed := s.sreg a, gen := w.seeded (s.sreg a) }).finish (.syswSrseed a))

/-- SYSW to FMASK: write 1 to clear (04 R124). -/
def execSyswFmask (a : Reg) (s : State) : Out :=
  .next ((s.modW fun w => w.clearFmask (s.sreg a)).finish (.syswFmask a))

/-- SYSW to RBND (04 R124). -/
def execSyswRbnd (a : Reg) (s : State) : Out :=
  let n := ((s.sreg a).extractLsb' 0 7).toNat
  if 64 < n then .next (s.trap { cause := 0x0C })
  else .next ((s.modW fun w => { w with rbnd := n }).finish (.syswRbnd a))

/-- SYSW to SIGREG (04 R123, R124): in a handler only; the next instruction finds exactly the value (09 R271). -/
def execSyswSigreg (a : Reg) (s : State) : Out :=
  if s.cw.inh then .next ((s.modFrag fun f => { f with sig := (s.sreg a).extractLsb' 0 32 }).finishNoFold (.syswSigreg a))
  else .next (s.trap { cause := 0x0C })

/-- The bits of INJECT that a SYSW writes (09 R279). -/
def injectBits : Word := 0xFFFFFFFF0000FF07

/-- SYSW to INJECT (09 R279): inside a pair it is for the next pair that the watch leads. -/
def execSyswInject (a : Reg) (s : State) : Out :=
  if (s.sreg a).getLsbD 2 then .next (s.trap { cause := 0x0C })
  else .next ((s.modW fun w => { w with
    inject := s.sreg a &&& injectBits, pair := w.pair.map fun p => { p with rearmed := true } }).finish (.syswInject a))

/-- SYSW to a register that is read-only or not listed (04 R122). -/
def execSysw (_a : Reg) (_n : I12) (s : State) : Out := .next (s.trap { cause := 0x0C })

/-- TRAP (04 R128): the frame's PC is the instruction after it. -/
def execTrap (c : I12) (s : State) : Out :=
  .next (s.trap { cause := 0x0D, code := c.toNat, fpc := some (s.frag.pc + 4) })

/-- A fault inside a handler (12 R352): HFAULT one rung up, with the trap's code. -/
def State.handlerFault (s : State) (tcode : Nat) : State :=
  (s.settleMatrix s.cur).oneRungUp s.cur { cause := 0x52, tcode := tcode }

/-- The accesses of a watch's loads and atomics, and of its other accesses that wait for a page, that do not translate (12 R339, R340,
R345). -/
def State.badAccs (s : State) (w : Watch) : List (Op × Acc × XRes) :=
  w.ops.flatMap fun o =>
    if o.done || o.kind == .engine then [] else
    o.accs.filterMap fun a =>
      if a.got || (o.goesOn && !a.pend) then none else
      match s.relocate w o a with
      | .error (b, .fault c) => some (o, { a with addr := b }, .fault c)
      | .error (b, .nonres) => some (o, { a with addr := b }, .nonres)
      | _ => none

/-- An access that waited for its page is translated. -/
def State.settleAcc (s : State) (w : Watch) (o : Op) (a : Acc) : Acc :=
  if !a.pend then a else
  match s.relocate w o a with
  | .ok b => b
  | .error _ => a

/-- The accesses of a watch that waited for their pages are translated (12 R340). -/
def State.settleAccs (s : State) (w : Watch) : Watch :=
  { w with
    ops := w.ops.map fun o => { o with accs := o.accs.map (s.settleAcc w o) }
    fifo := w.fifo.map fun e => { e with acc := s.settleAcc w { kind := if e.lane then .st else .sst, lane := e.lane } e.acc } }

/-- A watch that resumes takes the translation fault or the page fault of the first access that it issues again and that does not translate (12
R339, R340, R350); what other pages its accesses wait for is reported too. -/
def State.recheck (s : State) (w : Nat) : State :=
  let bad := s.badAccs (s.watch w)
  match bad.head? with
  | some (o, a, .fault c) =>
    (s.modWatch w fun x => x.modOp o.id fun o => { o with xf := true }).asyncTrap w o.ent { cause := 0x1A, code := c, addr := a.addr }
  | some (o, a, .nonres) =>
    ((s.modWatch w fun x => x.modOp o.id fun o => { o with xf := true }).pageFault w o.ent true a.pcn a.addr).morePages w o.ent
      (bad.filterMap fun b => if b.2.2 = .nonres then some b.2.1 else none)
  | _ => s.modWatch w s.settleAccs

/-- What RTE makes of the replay entries (09 R267). -/
def State.reinjected (s : State) (w : Watch) (h : Held) : List Op × List LqEntry :=
  h.replay.zipIdx.foldl (fun r p =>
    match s.reinject w p.2 p.1 with
    | (some o, l) => (r.1 ++ (if (o.kind == .ld || o.kind == .sld) && o.accs.isEmpty then [] else [o]), r.2 ++ l)
    | (none, l) => (r.1, r.2 ++ l)) ([], [])

/-- The causing fragment as RTE leaves it (09 R267): at FPC with the frame's signature. A BAR that stood there is over where FPC names
another place. -/
def SplitEntry.resumeAt (f : SplitEntry) (fpc : Off) (sig : W32) : SplitEntry :=
  { f with pc := fpc, sig := sig, bar := if f.pc = fpc then f.bar else none }

/-- The watch as RTE leaves it (09 R267): an ATOMIC whose steps are all made writes its old values at once. -/
def State.restored (s : State) (w : Watch) (h : Held) : Watch :=
  let (ops, lq) := s.reinjected w h
  let fails := h.replay.zipIdx.flatMap fun p =>
    if p.1.kind = 1 ∧ (s.frameN w (0xE00 + 576 * p.2) 64).testBit 4 then s.reloadFails w p.2 p.1.op else []
  let x := { s.frameRegs w with
    split := h.split, crgn := h.crgn, held := none, inh := false, rung := 0, frame := 0
    off := h.off, offBlk := h.offBlk
    ops := w.ops ++ ops.filter fun o => !(o.isAtom && o.all && o.stamp == 0)
    lq := lq ++ s.remainders (s.frameRegs w) h }
  let x := fails.foldl (fun x f => { x.laneOff f.1 f.2 with off := x.off }) (ops.foldl Watch.writeOlds x)
  x.setEntry h.ent ((x.entry h.ent).resumeAt (BitVec.ofNat 42 (s.frameN w 0x08 8)) (BitVec.ofNat 32 (s.frameN w 0x30 4)))

/-- RTE (09 R267, 04 R129). -/
def State.returnTrap (s : State) : State :=
  let w := s.cw
  if !w.inh then s.trap { cause := 0x0E }
  else if w.rung ≠ 0 then s.handlerFault 0x0E
  else if !w.lanesIdle || !w.ops.all (fun o => o.done || s.waitsRte w o) then s
  else if (s.frameN w 0x08 8) % 4 ≠ 0 then s.handlerFault 0x07
  else
    let h := w.held.getD {}
    s.andThen (s.lanePages (s.frameRegs w) h) fun _ => ({ s.setW (s.restored w h) with ent := h.ent }).recheck s.cur

def execRte (s : State) : Out := .next s.returnTrap

def execNop (s : State) : Out := .next (s.finish .nop)
def execNop64 (x : W32) (s : State) : Out := .next (s.finish (.nop64 x))
def execNop96 (x y : W32) (s : State) : Out := .next (s.finish (.nop96 x y))

/-- A control word outside the maps (02 R52): ILLOP. -/
def execReservedEncoding (_w : W32) (s : State) : Out := .next (s.trap { cause := 0x01 })

end Sys2Proof.Machine
end

