-- ==== Sys2Proof/Machine/CoreControl.lean ====
section
/-! DEFINITION. Crews and barriers (09 R248 to R255), asynchronous barrier objects (R256 to R258), containment regions (R269),
SIGCK (R272), redundant pairs (R273, R278) and YIELD (R259). -/

namespace Sys2Proof.Machine

/-- In a pair these instructions raise PAIRSTATE (09 R274); otherwise go on. -/
def State.unpaired (s : State) (k : State) : State := if s.cw.pair.isSome then s.trap { cause := 0x29 } else k

/-- Crew S[a], or CREWNUM (09 R248, R253). -/
def State.withCrew (s : State) (a : Reg) (k : Nat → State) : State :=
  s.unpaired (if 256 ≤ (s.sreg a).toNat then s.trap { cause := 0x20 } else k (s.sreg a).toNat)

/-- How many crews a watch belongs to (09 R246). -/
def State.crewCount (s : State) (ctx w : Nat) : Nat := ((s.ctx ctx).crews.filter fun c => c.2.has w).length

/-- CREW.JOIN (09 R248). -/
def State.joinCrew (s : State) (c : Nat) : Option (State × Nat) :=
  let w := s.cw
  let me : Member := { w := s.cur, slot := w.slot, cols := w.cols }
  match s.crew w.ctx c with
  | some x =>
    if x.has s.cur then some (s, x.count)
    else if 8 ≤ s.crewCount w.ctx s.cur then none
    else
      let y := { x with members := x.members.filter (·.w != s.cur) ++ [me] }
      some (s.setCrew w.ctx c y, y.count)
  | none =>
    if 8 ≤ s.crewCount w.ctx s.cur then none
    else some (s.setCrew w.ctx c { members := [me], cols := s.lcnsOf w.ctx [me] }, 1)

def execCrewJoin (d a : Reg) (s : State) : Out :=
  .next (s.withCrew a fun c =>
    match s.joinCrew c with
    | some (t, n) => (t.setS d (BitVec.ofNat 64 n)).finish (.crewJoin d a)
    | none => s.trap { cause := 0x22 })

/-- Whether the executing watch is a member of a crew. -/
def State.isMember (s : State) (c : Nat) : Bool :=
  match s.crew s.cw.ctx c with
  | some x => x.has s.cur
  | none => false

/-- CREW.LEAVE (09 R248, R250): it waits for path 7. -/
def execCrewLeave (d a : Reg) (s : State) : Out :=
  .next (s.withCrew a fun c =>
    let w := s.cw
    if !s.isMember c then s.trap { cause := 0x21 }
    else if w.pathCount 7 ≠ 0 then s
    else
      let t := s.departCrew w.ctx c s.cur (w.fmask != 0) w.fmwhy
      let n := match t.crew w.ctx c with
        | some x => x.count
        | none => 0
      (t.setS d (BitVec.ofNat 64 n)).finish (.crewLeave d a))

/-- CREW.SIZE (09 R248, R249). -/
def execCrewSize (d a : Reg) (s : State) : Out :=
  .next (s.withCrew a fun c =>
    let v := match s.crew s.cw.ctx c with
      | some x => x.registers
      | none => 0
    (s.setS d v).finish (.crewSize d a))

/-- CREW.RANK (09 R248). -/
def execCrewRank (d a : Reg) (s : State) : Out :=
  .next (s.withCrew a fun c =>
    if !s.isMember c then s.trap { cause := 0x21 }
    else
      let cols := match s.crew s.cw.ctx c with
        | some x => x.cols
        | none => []
      let v := match rankOf cols (s.homeLcn s.cw) with
        | some r => BitVec.ofNat 64 r
        | none => BitVec.allOnes 64
      (s.setS d v).finish (.crewRank d a))

/-- Whether the watch has an arrival in the open phase, recorded or on its way to the controller (09 R253, R254). -/
def State.hasArrived (s : State) (c : Nat) : Bool :=
  (match s.crew s.cw.ctx c with
    | some x => x.members.any fun m => m.w == s.cur && m.arrived
    | none => false) || (s.ctx s.cw.ctx).msgs.any fun m => m.isArrivalOf c s.cur

/-- The phase count of a crew. -/
def State.phaseOf (s : State) (c : Nat) : Nat :=
  match s.crew s.cw.ctx c with
  | some x => x.phase
  | none => 0

/-- A BAR goes on at its crew (09 R253): it arrives after the release, waits, and acquires where the phase completed. What it has come to
stands with its fragment, so that it reads S[a] once. -/
def State.barAt (s : State) (i : Instr) (b : BarWait) (c : Scope) (swap : Bool) : State :=
  let put (b : BarWait) (t : State) : State := t.modFrag fun f => { f with bar := some b }
  if b.released then
    let t := s.modFrag fun f => { f with bar := none }
    (if b.acquire then t.acquire .acq else t).finish i
  else if b.sent then s
  else
    let here := { b with phase := s.phaseOf b.crew, sent := true }
    if s.hasArrived b.crew then put here s
    else if !s.released .ar c then put b s
    else put here (s.sendCrew s.cw.ctx (.arrive b.crew s.cur swap))

/-- BAR and BAR.SWAP (09 R253): one stopped in its wait executes from its start (04 R93) and finds the arrival that it made in its crew, in
a phase that may have completed since (log 11). -/
def State.barrier (s : State) (i : Instr) (a : Reg) (c : Scope) (swap : Bool) : State :=
  match s.frag.bar.filter fun b => !b.again with
  | some b => s.barAt i b c swap
  | none => s.withCrew a fun n =>
    match s.frag.bar.filter fun b => b.crew == n && b.sent with
    | some b => s.barAt i { b with again := false } c swap
    | none => if !s.isMember n then s.trap { cause := 0x21 } else s.barAt i { crew := n, phase := s.phaseOf n } c swap

def execBar (a : Reg) (c : Scope) (s : State) : Out := .next (s.barrier (.bar a c) a c false)
def execBarSwap (a : Reg) (c : Scope) (s : State) : Out := .next (s.barrier (.barSwap a c) a c true)

/-! ## Asynchronous barrier objects -/

/-- The column that an object's or an engine's scratchpad address names: the home column, or one of the core's four (09 R257). DESIGN CHOICE: a
hole of the core itself (06 R168) is none of them, so that what names it traps as for another core's column (log 79). -/
def State.coreColumn (s : State) (w : Watch) (a : Word) : Option Nat :=
  if colOf a = 0x3FF then some w.home
  else match (s.ctx w.ctx).pcnLive (colOf a) with
    | some p => if coreOfCol p = w.core then some p else none
    | none => none

/-- The place of a barrier object, or the cause of the failing check (09 R257). -/
def State.objectAt (s : State) (w : Watch) (a : Word) : Except Nat Nat :=
  if a.extractLsb' 56 8 ≠ 0 ∨ tagOf a ≠ 1 then .error 0x10
  else match s.coreColumn w a with
    | none => .error 0x11
    | some p =>
      if offOf a % 16 ≠ 0 then .error 0x13
      else if (s.layout w.ctx p).scratch < offOf a + 16 then .error 0x14
      else .ok (memKey .plain w.ctx p (offOf a))

/-- The fields of an object (09 R256). -/
def objPending (v : Nat) : Nat := v % 2 ^ 32
def objExpected (v : Nat) : Nat := (v >>> 32) % 2 ^ 32
def objPhase (v : Nat) : Nat := (v >>> 64) % 2 ^ 32
def objMarked (v : Nat) : Bool := v >>> 112 == 0xAB01
/-- An object with PENDING and PHASE replaced. -/
def objWith (v pending phase : Nat) : Nat := pending % 2 ^ 32 + objExpected v <<< 32 + (phase % 2 ^ 32) <<< 64 + (v >>> 96) <<< 96
/-- k arrivals (09 R257). -/
def objArrive (v k : Nat) : Nat :=
  if objPending v = k then objWith v (objExpected v) (objPhase v + 1) else objWith v (objPending v - k) (objPhase v)
/-- An initialised object (09 R257). -/
def objInit (k : Nat) : Nat := k % 2 ^ 32 + (k % 2 ^ 32) <<< 32 + 0xAB01 <<< 112

/-- The reply record beside an object, 32 bytes at object + 16 (10 R292; 15 R404), is free of other commands' ranges (08 R235). The signal
of the object itself meets no range lock (09 R256). -/
def State.recordOpen (s : State) (own ctx : Nat) (obj : Option Nat) : Bool :=
  match obj with
  | none => true
  | some key => !s.lockWaits own ctx (key / 2 ^ 64 % 2 ^ 16) 1 (key % 2 ^ 64 + 16) 32 true

/-- An engine's arrival (09 R258): EFAIL on failure; PENDING = 0 stays. -/
def State.engineArrive (s : State) (obj : Option Nat) (fail : Bool) : State :=
  match obj with
  | none => s
  | some key =>
    let v := s.readN key 16
    let v := if fail then v ||| 1 <<< 96 else v
    s.writeN key 16 (if objPending v = 0 then v else objArrive v 1)

/-- An ABAR step (09 R257): the address, the release and what the step waits for (13 R360), the object's checks in order, the step and the acquire. -/
def State.abar (s : State) (a : Reg) (r : Ord) (c : Scope) (step : Nat → Nat → State) : State :=
  s.unpaired (match s.objectAt s.cw (s.sreg a) with
    | .error cause => s.trap { cause := cause, addr := s.sreg a }
    | .ok key => if s.released r c && !s.objectHeld key then step key (s.readN key 16) else s)

/-- The check of MARK (09 R257). -/
def State.marked (s : State) (a : Reg) (v : Nat) (k : State) : State :=
  if objMarked v then k else s.trap { cause := 0x23, addr := s.sreg a }

/-- The count of ARRIVE and EXPECT (09 R257). -/
def State.abarCount (s : State) (b : Reg) : Nat := if b = 0 then 1 else (s.sreg b).toNat

def badCount (k : Nat) : Bool := k == 0 || decide (2 ^ 31 ≤ k)

def execAbarInit (a b : Reg) (r : Ord) (c : Scope) (s : State) : Out :=
  .next (s.abar a r c fun key _ =>
    let k := (s.sreg b).toNat
    if badCount k then s.trap { cause := 0x24, addr := s.sreg a }
    else ((s.writeN key 16 (objInit k)).acquire r).finish (.abarInit a b r c))

def execAbarArrive (d a b : Reg) (r : Ord) (c : Scope) (s : State) : Out :=
  .next (s.abar a r c fun key v => s.marked a v (
    let k := s.abarCount b
    if badCount k then s.trap { cause := 0x24, addr := s.sreg a }
    else if objPending v < k then s.trap { cause := 0x25, addr := s.sreg a }
    else (((s.writeN key 16 (objArrive v k)).setS d (BitVec.ofNat 64 (objPhase v))).acquire r).finish (.abarArrive d a b r c)))

def execAbarExpect (d a b : Reg) (r : Ord) (c : Scope) (s : State) : Out :=
  .next (s.abar a r c fun key v => s.marked a v (
    let k := s.abarCount b
    if badCount k ∨ 2 ^ 31 ≤ objPending v + k then s.trap { cause := 0x24, addr := s.sreg a }
    else (((s.writeN key 16 (objWith v (objPending v + k) (objPhase v))).setS d (BitVec.ofNat 64 (objPhase v))).acquire r).finish
      (.abarExpect d a b r c)))

/-- ABAR.WAIT (09 R257): it waits while PHASE is the token. DESIGN CHOICE: each re-evaluation reads S[a] and S[b] and makes the checks anew (log
86). -/
def execAbarWait (a b : Reg) (r : Ord) (c : Scope) (s : State) : Out :=
  .next (s.abar a r c fun _ v => s.marked a v (
    if objPhase v = (s.sreg b).toNat % 2 ^ 32 then s else (s.acquire r).finish (.abarWait a b r c)))

def execAbarTest (d a b : Reg) (r : Ord) (c : Scope) (s : State) : Out :=
  .next (s.abar a r c fun _ v => s.marked a v (
    ((s.setS d (flagWord (objPhase v != (s.sreg b).toNat % 2 ^ 32))).acquire r).finish (.abarTest d a b r c)))

/-! ## Containment regions, signatures, pairs -/

/-- Another fragment is valid, or a serial level is open (09 R269, R273). -/
def State.divided (s : State) : Bool :=
  ((List.range 8).any fun i => i != s.ent && (s.cw.entry i).valid) || !s.frag.levels.isEmpty

def execCrgnOpen (o : W32) (s : State) : Out :=
  .next (s.unpaired (
    if 4 ≤ s.cw.crgn.length then s.trap { cause := 0x26 }
    else if s.divided then s.trap { cause := 0x27 }
    else (s.modW fun w => { w with crgn := { h := s.target o, m := s.frag.mask } :: w.crgn }).finish (.crgnOpen o)))

def execCrgnClose (s : State) : Out :=
  .next (s.unpaired (
    if s.cw.crgn.isEmpty then s.trap { cause := 0x28 }
    else if s.divided then s.trap { cause := 0x27 }
    else (s.modW fun w => { w with crgn := w.crgn.tail }).finish .crgnClose))

/-- SIGCK (09 R272); it folds nothing (R271). -/
def execSigck (v : W32) (s : State) : Out :=
  .next (if s.frag.sig = v then (s.modFrag fun f => { f with sig := startSig }).finishNoFold (.sigck v)
    else s.trap { cause := 0x06, code := 1, sigHi := v })

/-- The checkpoint of a watch after its PAIR.BEGIN (09 R273). -/
def Watch.checkpoint (w : Watch) (f : SplitEntry) : Check :=
  { s := w.s, v := w.v, p := w.p, mask := f.mask, gen := w.gen, srseed := w.srseed, mshape := w.mshape, rbnd := w.rbnd
    sig := f.sig, pc := f.pc }

/-- PAIR.BEGIN (09 R273): the checkpoint is taken once the watch is quiet; the watch then waits for its trailer. -/
def execPairBegin (n : I12) (s : State) : Out :=
  .next (
    if s.cw.pair.isSome || s.divided then s.trap { cause := 0x29 }
    else if !s.cw.lanesIdle || s.cw.mat.isSome || !s.cw.ops.all (·.done) then s
    else
      let t := s.finish (.pairBegin n)
      t.modW fun w => { w with pair := some { slack := n.toNat, check := w.checkpoint t.frag, inj := w.inject } })

/-- PAIR.END (09 R277, R278): the trailer marks its arrival; the leader waits for it and for the last commit. -/
def execPairEnd (s : State) : Out :=
  .next (match s.cw.pair with
    | none => s.trap { cause := 0x29 }
    | some p =>
      if !s.cw.lanesIdle then s
      else if !p.leads then s.modW fun w => { w with pair := some { p with ended := true } }
      else match (s.watch p.partner).pair with
        | some q =>
          if !q.ended then s
          else if p.made ≠ q.made then s.mismatch s.cur 0
          else if p.ents.isEmpty && q.ents.isEmpty then (s.endPair s.cur).finish .pairEnd
          else s
        | none => s)

/-- YIELD (09 R259): the round robin passes the watch over once, and its age is zero. -/
def execYield (s : State) : Out :=
  .next ((s.modW fun w => { w with aged := 0, yielded := true }).finish .yield)

end Sys2Proof.Machine
end

