-- ==== Sys2Proof/Machine/MemCtl.lean ====
section
/-! DEFINITION. The memory instructions of the control stream (06 R191 to R194) with what they share with the lanes': the step of an
atomic (R185, R193), the issue of stores (R178) and of the compare entries of a pair (09 R275, R279). -/

namespace Sys2Proof.Machine

/-- The number of an operation (06 R185, R193). -/
def atomCode (k : AtomOp) : Nat :=
  match k with
  | .add => 0 | .min => 1 | .max => 2 | .minu => 3 | .maxu => 4 | .and => 5 | .or => 6 | .xor => 7 | .swap => 8 | .cas => 9
  | .load => 10 | .store => 11

/-- No path of an operation is at its limit (06 R181). -/
def Watch.pathRoom (w : Watch) (ps : List Nat) : Bool := ps.all fun p => decide (w.pathCount p < 65535)

/-- The size in bytes of a load or store (06 R183, R191). -/
def accBytes (z : Nat) : Nat := match z with
  | 0 => 1 | 1 => 2 | 2 => 4 | 3 => 8 | 4 => 16 | 5 => 1 | 6 => 2 | _ => 4

/-! ## Pairs -/

/-- The words of a number, low word first. -/
def words32 (n x : Nat) : List W32 := (List.range (ceilDiv n 4)).map fun i => BitVec.ofNat 32 (x >>> (32 * i))

/-- The signature of a compare entry (09 R275): the opcode, the size code, and each lane's number, offset and data. -/
def entrySig (opcode size : Nat) (cas : Bool) (accs : List Acc) : W32 :=
  (accs.flatMap fun a =>
    [BitVec.ofNat 32 a.lane] ++ words32 8 (offOf a.addr) ++ words32 a.size a.data ++ (if cas then words32 a.size a.cmp else [])).foldl
    foldSig (foldSig (foldSig startSig (BitVec.ofNat 32 opcode)) (BitVec.ofNat 32 size))

/-- The operand of the lowest lane XORed with XMASK (09 R279). -/
def xorFirst (x : Nat) (l : List Acc) : List Acc :=
  match l with
  | [] => []
  | a :: t => { a with data := a.data ^^^ x % 2 ^ (8 * a.size) } :: t

/-- INJECT fires (09 R279): the corruption of the pair is spent, and ARM is cleared unless the register was written inside the pair. -/
def Watch.fire (w : Watch) : Watch :=
  match w.pair with
  | none => w
  | some p => { w with
    inject := if p.rearmed then w.inject else w.inject &&& ~~~1#64
    pair := some { p with inj := 0 } }

/-- INJECT, as the leader held it at PAIR.BEGIN, on the next store or atomic of the trailer (09 R279): the state, and the accesses as the
trailer makes them. DESIGN CHOICE: one without an active lane has nothing to corrupt, and SKIP does not count it (log 88). -/
def State.injected (s : State) (atom : Bool) (accs : List Acc) : State × List Acc :=
  match s.cw.pair, (s.watch (s.cw.pair.getD {}).partner).pair with
  | some p, some l =>
    if p.leads || accs.isEmpty || !l.inj.getLsbD 0 || (l.inj.extractLsb' 1 2 == 1) != atom then (s, accs)
    else if p.injDone = (l.inj.extractLsb' 8 8).toNat then
      (s.modWatch p.partner Watch.fire, xorFirst (l.inj.extractLsb' 32 32).toNat accs)
    else (s.modW fun w => { w with pair := some { p with injDone := p.injDone + 1 } }, accs)
  | _, _ => (s, accs)

/-- Whether a leader must wait before a further compare entry (09 R275). -/
def Watch.pairFull (w : Watch) : Bool :=
  match w.pair with
  | some p => p.leads && decide (p.slack < p.ents.length + 1)
  | none => false

/-- Put a store or an atomic in flight. Outside a pair a store's bytes enter the store FIFO (06 R178); in a pair the operation
forms a compare entry (09 R275), one without an active lane too, which is no operation in flight (06 R181). -/
def State.issueWrite (s : State) (opcode : Nat) (o : Op) : State :=
  let atom := o.kind != .st && o.kind != .sst
  match s.cw.pair with
  | some _ =>
    let (s, accs) := s.injected atom o.accs
    let o := { o with id := s.next, seq := if o.seq = 0 then s.seq else o.seq, accs := accs }
    let e : PairEnt := { sig := entrySig opcode o.size (o.fn == 9 && atom) accs, store := !atom, lane := o.lane, op := o }
    (if accs.isEmpty then s.bump else s.addOp o).modW fun w => { w with pair := w.pair.map fun p => { p with ents := p.ents ++ [e], made := p.made + 1 } }
  | none =>
    let ents := if atom then [] else o.accs.map fun a =>
      ({ op := s.next, lane := o.lane, seq := if o.seq = 0 then s.seq else o.seq, acc := a } : StoreEnt)
    (s.addOp o).modW fun w => { w with fifo := w.fifo ++ ents }

/-! ## The instructions -/

/-- SLD (06 R191). -/
def State.issueSld (i : Instr) (d a : Reg) (z : Nat) (o : W32) (s : State) : State :=
  let n := accBytes z
  if z = 4 ∧ d.getLsbD 0 then s.trap { cause := 0x01 }
  else s.access { size := n, align := n, tags := [0, 1, 2, 4], dir := true } (dispAddr (s.sreg a) o) fun acc =>
    if !s.cw.pathRoom [loadPath acc.addr] then s
    else (s.addOp { kind := .sld, paths := [loadPath acc.addr], ent := s.ent, at_ := s.frag.pc.toNat, d := d.toNat, size := z
                    accs := [acc] }).finish i

def execSld (d a : Reg) (z : B3) (s : State) : Out := .next (s.issueSld (.sld d a z) d a z.toNat 0)
def execSld64 (d a : Reg) (z : B3) (o : W32) (s : State) : Out := .next (s.issueSld (.sld64 d a z o) d a z.toNat o)

/-- SST (06 R191). -/
def State.issueSst (i : Instr) (a b : Reg) (z : Nat) (o : W32) (s : State) : State :=
  let n := accBytes z
  s.access { size := n, align := n, store := true, tags := [0, 1, 2, 4], dir := true } (dispAddr (s.sreg a) o) fun acc =>
    if s.cw.pairFull || !s.cw.pathRoom [6] then s
    else (s.issueWrite 0x19 { kind := .sst, paths := [6], ent := s.ent, at_ := s.frag.pc.toNat, size := z
                              accs := [{ acc with data := (s.sreg b).toNat % 2 ^ (8 * n) }] }).finish i

def execSst (a b : Reg) (z : B2) (s : State) : Out := .next (s.issueSst (.sst a b z) a b z.toNat 0)
def execSst64 (a b : Reg) (z : B2) (o : W32) (s : State) : Out := .next (s.issueSst (.sst64 a b z o) a b z.toNat o)

/-- The step of SATOM and XATOM after the column is known (06 R193): the release before, the operation, the acquire after. -/
def State.issueAtom (i : Instr) (x : Bool) (pcn : Nat) (d a b : Reg) (k : AtomOp) (c : Reg) (z : Bool) (r : Ord) (sc : Scope)
    (s : State) : State :=
  let n := if z then 8 else 4
  let v (q : Reg) : Nat := (s.sreg q).toNat % 2 ^ (8 * n)
  s.andThen (s.prep pcn { size := n, align := n, atom := true, tags := [0, 1], dir := true } (s.sreg a)) fun acc =>
    if s.cw.pairFull || !s.cw.pathRoom [8] || !s.released r sc then s
    else ((s.issueWrite (if x then 0x1B else 0x1A)
      { kind := if x then .xatom else .satom, paths := [8], ent := s.ent, at_ := s.frag.pc.toNat, d := d.toNat
        size := if z then 3 else 2, ty := 6, fn := atomCode k, ord := r, scope := sc
        accs := [{ acc with data := v b, cmp := v c }] }).acquire r).finish i

/-- SATOM: the home column (06 R193). -/
def execSatom (d a b : Reg) (k : AtomOp) (c : Reg) (z : Bool) (r : Ord) (sc : Scope) (s : State) : Out :=
  .next (s.issueAtom (.satom d a b k c z r sc) false s.cw.home d a b k c z r sc)

/-- XATOM: any live LCN (06 R193, R195). -/
def execXatom (d a b : Reg) (k : AtomOp) (c : Reg) (z : Bool) (r : Ord) (sc : Scope) (s : State) : Out :=
  let v := s.sreg a
  .next (
    if v.extractLsb' 56 8 ≠ 0 ∨ 1 < tagOf v then s.trap { cause := 0x10, addr := v }
    else match (s.ctx s.cw.ctx).pcnLive (effCol v (s.homeLcn s.cw)) with
      | none => s.trap { cause := 0x12, addr := v }
      | some p => s.issueAtom (.xatom d a b k c z r sc) true p d a b k c z r sc)

/-- FENCE (06 R192; log 15). -/
def execFence (r : Ord) (sc : Scope) (s : State) : Out :=
  .next (if s.released r sc then (s.acquire r).finish (.fence r sc) else s)

/-- SPREF has no visible effect (06 R194). -/
def execSpref (a : Reg) (s : State) : Out := .next (s.finish (.spref a))
def execSpref64 (a : Reg) (o : W32) (s : State) : Out := .next (s.finish (.spref64 a o))

end Sys2Proof.Machine
end

