-- ==== Sys2Proof/Machine/LaneInt.lean ====
section
/-! DEFINITION. The integer lane instructions (05 R136 to R142). -/

namespace Sys2Proof.Machine

/-- The count b[4:0] of a lane shift (05 R136). -/
def laneCount (b : W32) : Nat := b.toNat % 32
/-- Clamp(i, −2^31, 2^31 − 1) (05 R136, R138). -/
def clamp32 (i : Int) : W32 := BitVec.ofInt 32 (clampI i (-0x80000000) 0x7FFFFFFF)
def imulhLane (a b : W32) : W32 := BitVec.ofInt 32 (a.toInt * b.toInt / 2 ^ 32)
def imulhuLane (a b : W32) : W32 := BitVec.ofNat 32 (a.toNat * b.toNat / 2 ^ 32)
def iminLane (a b : W32) : W32 := if a.slt b then a else b
def imaxLane (a b : W32) : W32 := if b.slt a then a else b
def iminuLane (a b : W32) : W32 := if a.ult b then a else b
def imaxuLane (a b : W32) : W32 := if b.ult a then a else b
/-- IABS and INEG with SAT (05 R137). -/
def iabsLane (sat : Bool) (a : W32) : W32 := if a = 0x80000000 then (if sat then 0x7FFFFFFF else a) else if a.slt 0 then -a else a
def inegLane (sat : Bool) (a : W32) : W32 := if a = 0x80000000 ∧ sat then 0x7FFFFFFF else -a
def brevLane (a : W32) : W32 := BitVec.ofNat 32 ((List.range 32).foldl (fun n i => n + (if a.getLsbD (31 - i) then 2 ^ i else 0)) 0)
/-- DOT4 (05 R138). -/
def dot4Lane (sat : Bool) (a b c : W32) : W32 :=
  let e (x : W32) (i : Nat) : Int := (x.extractLsb' (8 * i) 8).toInt
  let v := c.toInt + e a 0 * e b 0 + e a 1 * e b 1 + e a 2 * e b 2 + e a 3 * e b 3
  if sat then clamp32 v else BitVec.ofInt 32 v
/-- The length of a bit field (05 R139). -/
def fieldLen (b c : W32) : Nat := min (c.toNat % 64) (32 - laneCount b)
def bfxLane (sx : Bool) (a b c : W32) : W32 :=
  let n := fieldLen b c
  let v := a.toNat >>> laneCount b % 2 ^ n
  BitVec.ofNat 32 (if sx && decide (0 < n) && v.testBit (n - 1) then v + (2 ^ 32 - 2 ^ n) else v)
def bfiLane (a b c d : W32) : W32 :=
  let m := BitVec.ofNat 32 ((2 ^ fieldLen b c - 1) <<< laneCount b)
  (d &&& ~~~m) ||| ((a <<< laneCount b) &&& m)

def execIadd (o : LaneOps) (s : State) : Out := .next (s.lane2 o fun a b => a + b)
def execIsub (o : LaneOps) (s : State) : Out := .next (s.lane2 o fun a b => a - b)
def execImul (o : LaneOps) (s : State) : Out := .next (s.lane2 o fun a b => a * b)
def execImulh (o : LaneOps) (s : State) : Out := .next (s.lane2 o fun a b => imulhLane a b)
def execImulhu (o : LaneOps) (s : State) : Out := .next (s.lane2 o fun a b => imulhuLane a b)
def execImin (o : LaneOps) (s : State) : Out := .next (s.lane2 o fun a b => iminLane a b)
def execImax (o : LaneOps) (s : State) : Out := .next (s.lane2 o fun a b => imaxLane a b)
def execIminu (o : LaneOps) (s : State) : Out := .next (s.lane2 o fun a b => iminuLane a b)
def execImaxu (o : LaneOps) (s : State) : Out := .next (s.lane2 o fun a b => imaxuLane a b)
def execIand (o : LaneOps) (s : State) : Out := .next (s.lane2 o fun a b => a &&& b)
def execIor (o : LaneOps) (s : State) : Out := .next (s.lane2 o fun a b => a ||| b)
def execIxor (o : LaneOps) (s : State) : Out := .next (s.lane2 o fun a b => a ^^^ b)
def execLaneShl (o : LaneOps) (s : State) : Out := .next (s.lane2 o fun a b => a <<< laneCount b)
def execLaneShr (o : LaneOps) (s : State) : Out := .next (s.lane2 o fun a b => a >>> laneCount b)
def execLaneSar (o : LaneOps) (s : State) : Out := .next (s.lane2 o fun a b => a.sshiftRight (laneCount b))
def execRot (o : LaneOps) (s : State) : Out := .next (s.lane2 o fun a b => a.rotateLeft (laneCount b))
def execIadds (o : LaneOps) (s : State) : Out := .next (s.lane2 o fun a b => clamp32 (a.toInt + b.toInt))
def execIsubs (o : LaneOps) (s : State) : Out := .next (s.lane2 o fun a b => clamp32 (a.toInt - b.toInt))
def execIabs (o : LaneOps) (s : State) : Out := .next (s.lane1 o fun a => iabsLane (o.md.getLsbD 0) a)
def execIneg (o : LaneOps) (s : State) : Out := .next (s.lane1 o fun a => inegLane (o.md.getLsbD 0) a)
def execInot (o : LaneOps) (s : State) : Out := .next (s.lane1 o fun a => ~~~a)
def execLanePopc (o : LaneOps) (s : State) : Out := .next (s.lane1 o fun a => BitVec.ofNat 32 (popCount a))
def execLaneClz (o : LaneOps) (s : State) : Out := .next (s.lane1 o fun a => BitVec.ofNat 32 (clzOf a))
def execLaneBrev (o : LaneOps) (s : State) : Out := .next (s.lane1 o fun a => brevLane a)
def execLaneMov (o : LaneOps) (s : State) : Out := .next (s.lane1 o fun a => a)
def execImad (o : LaneOps) (s : State) : Out := .next (s.lane3 o fun a b c _ => a * b + c)
def execDot4 (o : LaneOps) (s : State) : Out := .next (s.lane3 o fun a b c _ => dot4Lane (o.md.getLsbD 0) a b c)
def execBfx (o : LaneOps) (s : State) : Out := .next (s.lane3 o fun a b c _ => bfxLane (o.md.getLsbD 0) a b c)
def execBfi (o : LaneOps) (s : State) : Out := .next (s.lane3 o bfiLane)

/-- IADDC on pairs (05 R138). -/
def execIaddc (o : LaneOps) (s : State) : Out :=
  let a := s.src64 o 0
  let b := s.src64 o 1
  .next (s.putResult64 o (Vector.ofFn fun i => a[i] + b[i]))

/-- The exact product of IMULW (05 R138). -/
def imulwLane (t : B4) (a b : W32) : Word :=
  if t == 7 then BitVec.ofNat 64 (a.toNat * b.toNat) else BitVec.ofInt 64 (a.toInt * b.toInt)

def execImulw (o : LaneOps) (s : State) : Out :=
  let a := s.src o 0
  let b := s.src o 1
  .next (s.putResult64 o (Vector.ofFn fun i => imulwLane o.ty a[i] b[i]))

/-- ICMP (05 R140). -/
def execIcmp (o : LaneOps) (s : State) : Out := .next (s.laneCmp o (icmpCode o.ty o.md))

/-- SEL (05 R141). -/
def execSel (o : LaneOps) (s : State) : Out :=
  let a := s.src o 0
  let b := s.src o 1
  let p := s.cw.preg (o.c.setWidth 4)
  .next (s.putResult o (Vector.ofFn fun i => if p.getLsbD i.val then a[i] else b[i]))

/-- The identifier that LID writes in lane l (05 R142). -/
def State.lidLane (s : State) (md : BitVec 5) (l : Nat) : W32 :=
  BitVec.ofNat 32 (match (md.extractLsb' 0 2).toNat with
    | 0 => l
    | 1 => l % 16
    | 2 => s.cw.pcnOf l
    | _ => s.lcnOf s.cw l)

def execLid (o : LaneOps) (s : State) : Out := .next (s.putResult o (Vector.ofFn fun i => s.lidLane o.md i.val))

end Sys2Proof.Machine
end

