-- ==== Sys2Proof/Machine/LaneFp.lean ====
section
/-! DEFINITION. The floating lane instructions: FP32 (05 R143 to R147), packed halves (R148) and special functions (R149,
R150). -/

namespace Sys2Proof.Machine

/-- FTZ of the arithmetic and special groups (02 R50). -/
def ftzOf (o : LaneOps) : Bool := o.md.getLsbD 2

def execFadd (o : LaneOps) (s : State) : Out := .next (s.lane2 o (f32 (fpAdd .f32 (rmOf o.md) (ftzOf o))))
def execFsub (o : LaneOps) (s : State) : Out := .next (s.lane2 o (f32 (fpSub .f32 (rmOf o.md) (ftzOf o))))
def execFmul (o : LaneOps) (s : State) : Out := .next (s.lane2 o (f32 (fpMul .f32 (rmOf o.md) (ftzOf o))))
def execFmin (o : LaneOps) (s : State) : Out := .next (s.lane2 o (f32 (fpPick .f32 false (ftzOf o))))
def execFmax (o : LaneOps) (s : State) : Out := .next (s.lane2 o (f32 (fpPick .f32 true (ftzOf o))))
def execFfma (o : LaneOps) (s : State) : Out :=
  .next (s.lane3 o fun a b c _ => BitVec.ofNat 32 (fpFma .f32 (rmOf o.md) (ftzOf o) a.toNat b.toNat c.toNat))
def execFabs (o : LaneOps) (s : State) : Out := .next (s.lane1 o (fabsCode (ftzOf o)))
def execFneg (o : LaneOps) (s : State) : Out := .next (s.lane1 o (fnegCode (ftzOf o)))
def execFcmp (o : LaneOps) (s : State) : Out := .next (s.laneCmp o (fcmpCode o.md))
def execFclass (o : LaneOps) (s : State) : Out := .next (s.lane1 o fclassCode)
def execFrint (o : LaneOps) (s : State) : Out := .next (s.lane1 o (frintCode (rmOf o.md) (ftzOf o)))

/-- A packed half instruction (05 R148). -/
def State.halves (s : State) (o : LaneOps) (g : Fm → Nat → Nat → Nat → Nat) : State :=
  s.lane3 o fun a b c _ => half2 (g (halfFm o.ty)) a b c

def execHadd2 (o : LaneOps) (s : State) : Out := .next (s.halves o fun f a b _ => fpAdd f (rmOf o.md) (ftzOf o) a b)
def execHmul2 (o : LaneOps) (s : State) : Out := .next (s.halves o fun f a b _ => fpMul f (rmOf o.md) (ftzOf o) a b)
def execHfma2 (o : LaneOps) (s : State) : Out := .next (s.halves o fun f a b c => fpFma f (rmOf o.md) (ftzOf o) a b c)
def execHmin2 (o : LaneOps) (s : State) : Out := .next (s.halves o fun f a b _ => fpPick f false (ftzOf o) a b)
def execHmax2 (o : LaneOps) (s : State) : Out := .next (s.halves o fun f a b _ => fpPick f true (ftzOf o) a b)

def execRcp (o : LaneOps) (s : State) : Out := .next (s.lane1 o (rcpCode o.md))
def execRsq (o : LaneOps) (s : State) : Out := .next (s.lane1 o (rsqCode o.md))
def execSqrt (o : LaneOps) (s : State) : Out := .next (s.lane1 o (sqrtCode o.md))
def execExp2 (o : LaneOps) (s : State) : Out := .next (s.lane1 o (exp2Code o.md))
def execLog2 (o : LaneOps) (s : State) : Out := .next (s.lane1 o (log2Code o.md))
def execSin (o : LaneOps) (s : State) : Out := .next (s.lane1 o (sinCode o.md))
def execCos (o : LaneOps) (s : State) : Out := .next (s.lane1 o (cosCode o.md))
def execTanh (o : LaneOps) (s : State) : Out := .next (s.lane1 o (tanhCode o.md))
def execSigm (o : LaneOps) (s : State) : Out := .next (s.lane1 o (sigmCode o.md))

end Sys2Proof.Machine
end

