-- ==== Sys2Proof/Machine/LaneConv.lean ====
section
/-! DEFINITION. Conversions with stochastic rounding, QNT and SCALE (05 R151 to R157), the absolute maximum of AMAX (R158), and
the cross-lane instructions (R159 to R165). -/

namespace Sys2Proof.Machine

/-- Leave the generators as the chain's draws have them (03 R86). -/
def State.setGen (s : State) (g : Row) : State := s.modW fun w => { w with chain := some { s.chain with gen := g } }

/-- One step of the generators of the lanes of a mask, where the rounding is stochastic (03 R85). -/
def drawGen (rm : Nat) (act : Mask) (g : Row) : Row :=
  if rm = 4 then Vector.ofFn fun i => if act.getLsbD i.val then stepGen g[i] else g[i] else g

/-- Conv of an element under a conversion word with a draw u (05 R152). -/
def convOf (src : B4) (x : W32) (u : W32) (c : Nat) : Nat :=
  convElem src (cvDtype x) (rmCode (cvRm x) u) (cvSat x) (cvFtz x) c

/-- CVT (05 R153). -/
def execCvt (o : LaneOps) (s : State) : Out :=
  let a := s.src o 0
  let g := drawGen (cvRm o.lit) (s.active o) s.chain.gen
  .next ((s.setGen g).putResult o (Vector.ofFn fun i => BitVec.ofNat 32 (convOf o.ty o.lit g[i] (elemOf o.ty a[i] (cvIdx o.lit)))))

/-- PACK (05 R154): elements e and e + 1 of d; d is read where its elements are narrower than 16 bits. -/
def packLane (o : LaneOps) (ga gb a b d : W32) : W32 :=
  let t := cvDtype o.lit
  let e := cvIdx o.lit
  let va := convOf o.ty o.lit ga (elemOf o.ty a 0)
  let vb := convOf o.ty o.lit gb (elemOf o.ty b 0)
  setElem t (setElem t d e va) (e + 1) vb

def execPack (o : LaneOps) (s : State) : Out :=
  let a := s.src o 0
  let b := s.src o 1
  let d := s.oldD o
  let ga := drawGen (cvRm o.lit) (s.active o) s.chain.gen
  let gb := drawGen (cvRm o.lit) (s.active o) ga
  .next ((s.setGen gb).putResult o (Vector.ofFn fun i => packLane o ga[i] gb[i] a[i] b[i] d[i]))

/-- UNPK (05 R155). DEDUCED: RM = 4 draws as in the other conversions, though 03 does not name UNPK among those that offer SR, since R151
gives it the field; element EIDX draws first (log 65). -/
def execUnpk (o : LaneOps) (s : State) : Out :=
  let a := s.src o 0
  let e := cvIdx o.lit
  let ga := drawGen (cvRm o.lit) (s.active o) s.chain.gen
  let gb := drawGen (cvRm o.lit) (s.active o) ga
  .next ((s.setGen gb).putResult64 o (Vector.ofFn fun i =>
    BitVec.ofNat 32 (convOf o.ty o.lit gb[i] (elemOf o.ty a[i] (e + 1))) ++
      BitVec.ofNat 32 (convOf o.ty o.lit ga[i] (elemOf o.ty a[i] e))))

/-! ## QNT -/

/-- The format of a source that is FP32 or element 0 in BF16 (05 R156, R157). -/
def srcFm (t : B4) : Fm := if t == 2 then .bf16 else .f32
/-- That source's value. -/
def srcVal (t : B4) (ftz : Bool) (x : W32) : Val := readVal (srcFm t) ftz (elemOf t x 0)

/-- Whether a value is an outlier above a threshold (05 R156). -/
def outlier (x c : Val) : Bool :=
  match x, c with
  | .nan _ _, _ => true
  | .inf _, _ => true
  | _, .nan _ _ => false
  | x, c => decide (0 < cmpVal x.abs c)

/-- A value converted to a type of QNT (05 R156). -/
def convVal (t : B4) (m : Rm) (sat : Bool) (v : Val) : Nat :=
  match fmOf t with
  | some f => roundVal f m sat v
  | none => valToInt t m v

/-- The half of a side-list register that entry k goes to (05 R156). -/
def sideWord (k v : Nat) (x : W32) : W32 := setElem 1 x (k % 2) v

/-- What QNT has made so far: d, Pm, Vs, the generators, and the number of outliers. -/
structure QntAcc where
  d : Row
  p : Mask
  side : Row
  gen : Row
  k : Nat
  deriving DecidableEq, Repr

/-- QNT in one lane (05 R156). -/
def qntLane (o : LaneOps) (act : List Nat) (a b c : Row) (q : QntAcc) (l : Nat) : QntAcc :=
  let x := o.lit
  let ftz := cvFtz x
  let t := cvDtype x
  let v := srcVal o.ty ftz (rowAt a l)
  if outlier v (readVal .f32 ftz (rowAt c l).toNat) then
    let f : Fm := if cvSideFmt x then .f16 else .bf16
    let j := act[q.k / 2]?.getD 0
    { q with
      d := setLane q.d l (setElem t (rowAt q.d l) (cvIdx x) 0)
      p := q.p ||| oneLane l
      side := setLane q.side j (sideWord q.k (flushCode f ftz (roundVal f .rne false v)) (rowAt q.side j))
      k := q.k + 1 }
  else
    let g := if cvRm x = 4 then stepGen (rowAt q.gen l) else rowAt q.gen l
    let y := convVal t (rmCode (cvRm x) g) (cvSat x) (mulVal v (readVal .f32 ftz (rowAt b l).toNat))
    { q with
      d := setLane q.d l (setElem t (rowAt q.d l) (cvIdx x) y)
      p := q.p &&& ~~~(oneLane l)
      gen := setLane q.gen l g }

def execQnt (o : LaneOps) (s : State) : Out :=
  let act := lanesOf (s.active o)
  let n := cvOmask o.lit
  let q := act.foldl (qntLane o act (s.src o 0) (s.src o 1) (s.src o 2))
    { d := s.oldD o, p := s.cw.preg (BitVec.ofNat 4 n), side := s.cw.vreg (cvSide o.lit), gen := s.chain.gen, k := 0 }
  .next (((s.setGen q.gen).putResult o q.d).modW fun w => (w.setP (BitVec.ofNat 4 n) q.p).putV (cvSide o.lit) q.side)

/-! ## SCALE and AMAX -/

/-- Max_E (05 R157). -/
def maxE (t : B4) : Nat := match t.toNat with
  | 3 => 448 | 4 => 57344 | 5 => 6 | _ => 127

/-- The scale code of |a| or |a| / |b| (05 R157). -/
def scaleCode (micro : Bool) (t : B4) (y : Val) : Nat :=
  let least (lo hi : Nat) (ok : Nat → Bool) : Nat := lo + firstIdx (hi - lo) (fun i => ok (lo + i))
  match y with
  | .nan _ _ => 0xFF
  | .inf _ => if micro then 0xFF else 0xFE
  | y =>
    if micro then
      if y.isZero then 0 else least 1 0xFF fun c => decide (cmpVal y (mulVal (ofInt 6) (decodeVal .e3m5 c)) ≤ 0)
    else if y.isZero then 0x7F
    else least 0 0xFE fun c => decide (cmpVal y (.fin false (maxE t) ((c : Int) - 127)) ≤ 0)

/-- SCALE in one lane (05 R157). -/
def scaleLane (o : LaneOps) (a b : W32) : W32 :=
  let x := o.lit
  let micro := x.getLsbD 4
  let va := (srcVal o.ty false a).abs
  let code := scaleCode micro (x.extractLsb' 0 4) (if x.getLsbD 6 then divVal va (srcVal o.ty false b).abs else va)
  BitVec.ofNat 32 (
    if !x.getLsbD 5 then code
    else if !micro && code == 0xFF then nanF
    else if micro && code == 0 then 0
    else roundVal .f32 .rne false (divVal (.fin false 1 0) (decodeVal (if micro then .e3m5 else .e8m0) code)))

def execScale (o : LaneOps) (s : State) : Out := .next (s.lane2 o (scaleLane o))

/-- The elements that AMAX reads of a lane, widened to FP32 (05 R158). -/
def amaxElems (t : B4) (a : W32) : List W32 :=
  if t == 2 then [BitVec.ofNat 32 ((elemOf 2 a 0) <<< 16), BitVec.ofNat 32 ((elemOf 2 a 1) <<< 16)] else [a]

/-- m of AMAX over the active lanes (05 R158). -/
def State.amaxOf (s : State) (o : LaneOps) : W32 :=
  (lanesOf (s.active o)).foldl (fun m l => (amaxElems o.ty (rowAt (s.src o 0) l)).foldl amaxCode m) 0

/-! ## Across lanes -/

/-- The segment size of an instruction in the current watch (05 R159), and the start of a lane's segment. -/
def State.seg (s : State) (o : LaneOps) : Nat := segSize s.cw.width o.lit
def segStart (n l : Nat) : Nat := l - l % n

/-- The source lane of SHFL for lane l (05 R161). -/
def shflLane (n mode k : Nat) (b : W32) (l : Nat) : Nat :=
  match mode with
  | 0 => segStart n l + b.toNat % n
  | 1 => if k ≤ l % n then l - k else l
  | 2 => if l % n + k < n then l + k else l
  | 3 => segStart n l + Nat.xor (l % n) k
  | _ => segStart n l + (l % n + k) % n

def execShfl (o : LaneOps) (s : State) : Out :=
  let a := s.src o 0
  let b := s.src o 1
  .next (s.putResult o (Vector.ofFn fun i => rowAt a (shflLane (s.seg o) (segOp o.lit) (segK o.lit) b[i] i.val)))

/-- BALLOT (05 R162). -/
def execBallot (o : LaneOps) (s : State) : Out :=
  let v := s.cw.preg (o.a.setWidth 4) &&& s.active o
  .next (s.putResult o (Vector.replicate 64 (if o.md.getLsbD 0 then v.extractLsb' 32 32 else v.extractLsb' 0 32)))

/-- BPLANE in one lane (05 R163). -/
def bplaneLane (signed : Bool) (act : List Nat) (a : Row) (b p : W32) : W32 :=
  let k := b.toNat % 32
  BitVec.ofNat 32 (act.filter fun j =>
    let key := if signed then rowAt a j ^^^ 0x80000000#32 else rowAt a j
    key.toNat >>> (k + 1) == p.toNat >>> (k + 1) && key.getLsbD k).length

def execBplane (o : LaneOps) (s : State) : Out :=
  let a := s.src o 0
  let b := s.src o 1
  let e := s.src o 2
  .next (s.putResult o (Vector.ofFn fun i => bplaneLane (o.ty == 6) (lanesOf (s.active o)) a b[i] e[i]))

/-- One step of a reduction (05 R164). -/
def redStep (op : Nat) (t : B4) (x y : W32) : W32 :=
  match op with
  | 0 => if t == 0 then f32 (fpAdd .f32 .rne false) x y else x + y
  | 1 => if t == 0 then f32 (fpPick .f32 false false) x y else if t == 6 then iminLane x y else iminuLane x y
  | 2 => if t == 0 then f32 (fpPick .f32 true false) x y else if t == 6 then imaxLane x y else imaxuLane x y
  | 3 => x &&& y
  | 4 => x ||| y
  | _ => x ^^^ y

/-- The identity of an exclusive scan (05 R165). -/
def redUnit (op : Nat) (t : B4) : W32 :=
  match op with
  | 1 => if t == 0 then 0x7F800000 else if t == 6 then 0x7FFFFFFF else 0xFFFFFFFF
  | 2 => if t == 0 then 0xFF800000 else if t == 6 then 0x80000000 else 0
  | 3 => 0xFFFFFFFF
  | _ => 0

/-- The reduction over a list of lanes in order, or the unit (05 R164). -/
def redLanes (op : Nat) (t : B4) (a : Row) (l : List Nat) : W32 :=
  match l with
  | [] => redUnit op t
  | j :: rest => rest.foldl (fun x i => redStep op t x (rowAt a i)) (rowAt a j)

/-- The active lanes of lane l's segment below a bound. -/
def segLanes (act : List Nat) (n l hi : Nat) : List Nat := act.filter fun j => j / n == l / n && decide (j < hi)

def execVred (o : LaneOps) (s : State) : Out :=
  let a := s.src o 0
  let act := lanesOf (s.active o)
  .next (s.putResult o (Vector.ofFn fun i => redLanes (segOp o.lit) o.ty a (segLanes act (s.seg o) i.val 64)))

def execVscan (o : LaneOps) (s : State) : Out :=
  let a := s.src o 0
  let act := lanesOf (s.active o)
  .next (s.putResult o (Vector.ofFn fun i =>
    redLanes (segOp o.lit) o.ty a (segLanes act (s.seg o) i.val (if segExcl o.lit then i.val else i.val + 1))))

end Sys2Proof.Machine
end

