-- ==== Sys2Proof/Machine/LaneMem.lean ====
section
/-! DEFINITION. The memory instructions of lanes as they issue: LD, ST, ATOM, FATOM and ACPY (06 R179 to R190), XST (10 R283 to
R286), and AMAX with its atomic (05 R158). Their performance is in MemEvents.lean. -/

namespace Sys2Proof.Machine

/-- What the lanes of a memory instruction have come to: the watch with the lanes switched off, the accesses, the first access that
does not translate, those whose pages are not resident, and whether a page is draining (06 R179; 12 R339, R340, R345). -/
structure Issue where
  w : Watch := {}
  accs : List Acc := []
  bad : Option (Acc × XRes) := none
  pages : List Acc := []
  wait : Bool := false
  deriving DecidableEq, Repr

/-- Keep the first access that does not translate, and every one whose page is not resident. -/
def Issue.fail (x : Issue) (a : Acc) (r : XRes) : Issue :=
  { x with bad := x.bad.or (some (a, r)), pages := if r = .nonres then x.pages ++ [a] else x.pages }

/-- One lane's access (06 R179; 12 R339): `keep` says that an access which does not translate stays with its operation, as a load
and an atomic do. An access to a page that is not resident always stays (12 R340). -/
def State.laneAccess (s : State) (r : AReq) (keep : Bool) (x : Issue) (l : Nat) (ea : Word) (mk : Acc → Acc) : Issue :=
  let pcn := x.w.pcnOf l
  let r := { r with lane := some l }
  match s.checkAddr s.cw pcn r ea with
  | some f => { x with w := x.w.laneOff l f.why }
  | none =>
    let a := mk { lane := l, pcn := pcn, addr := ea, size := r.size }
    match s.placeOf s.cw pcn r ea with
    | .ok key _ => { x with accs := x.accs ++ [{ a with key := key }] }
    | .nonres => { x with accs := x.accs ++ [{ a with pend := true }] }.fail a .nonres
    | .fault c => (if keep then { x with accs := x.accs ++ [{ a with pend := true }] } else x).fail a (.fault c)
    | .wait => { x with wait := true }

/-- The effective address of a lane: the 64-bit source a with the displacement of word 2 (06 R179, R182). -/
def laneEa (o : LaneOps) (a : Row64) (l : Nat) : Word := dispAddr (row64At a l) o.lit

/-- The lanes of an instruction, ascending. -/
def State.laneIssue (s : State) (o : LaneOps) (f : Issue → Nat → Issue) : Issue :=
  (lanesOf (s.active o)).foldl f { w := s.cw }

/-- What a memory instruction that has issued leaves: the lanes switched off, the chain completed, the operation in flight where a
lane is left (06 R181) or, with `form`, in any case (09 R275), and the trap or the page faults of accesses that do not translate (12 R339,
R340). -/
def State.issued (s : State) (o : LaneOps) (x : Issue) (form : Bool) (put : State → State) : State :=
  if x.wait then s
  else
    let t := (s.setW x.w).noResult o
    let t := if x.accs.isEmpty && !form then t else put t
    let t := match x.bad with
      | none => t
      | some (a, .nonres) => t.pageFault s.cur s.lane.ent true a.pcn a.addr
      | some (a, .fault c) => t.asyncTrap s.cur s.lane.ent { cause := 0x1A, code := c, addr := a.addr }
      | some _ => t
    t.morePages s.cur s.lane.ent x.pages

/-- The operation that a memory instruction puts in flight. -/
def State.laneOp (s : State) (k : OpKind) (paths : List Nat) (x : Issue) : Op :=
  { kind := k, paths := paths, seq := s.lane.seq, lane := true, ent := s.lane.ent, at_ := s.lane.index
    mask := x.accs.foldl (fun m a => m ||| oneLane a.lane) 0, accs := x.accs, xf := x.bad.isSome }

/-- LD (06 R182 to R184). -/
def execLd (o : LaneOps) (s : State) : Out :=
  let z := (o.md.extractLsb' 0 3).toNat
  let n := accBytes z
  let a := s.src64 o 0
  let x := s.laneIssue o fun x l =>
    s.laneAccess { size := n, align := n, tags := [0, 1, 2, 4], dir := true } true x l (laneEa o a l) id
  .next (if !s.cw.pathRoom [0, 1] then s else
    s.issued o x false fun t => t.addOp { s.laneOp .ld (loadPaths x.accs) x with d := o.d.toNat, size := z })

/-- The data of lane l for a store of size code z (06 R183). -/
def State.storeData (s : State) (o : LaneOps) (z l : Nat) : Nat :=
  if z = 4 then (List.range 4).foldl (fun v i => v + (rowAt (s.cw.vreg (o.b.toNat + i)) l).toNat <<< (32 * i)) 0
  else if z = 3 then (row64At (s.src64 o 1) l).toNat
  else (rowAt (s.src o 1) l).toNat % 2 ^ (8 * accBytes z)

/-- ST (06 R182 to R184). -/
def execSt (o : LaneOps) (s : State) : Out :=
  let z := (o.md.extractLsb' 0 3).toNat
  let n := accBytes z
  let a := s.src64 o 0
  let x := s.laneIssue o fun x l =>
    s.laneAccess { size := n, align := n, store := true, tags := [0, 1, 2, 4], dir := true } false x l (laneEa o a l)
      fun c => { c with data := s.storeData o z l }
  .next (if !s.cw.pathRoom [6] || s.cw.pairFull then s else
    s.issued o x s.cw.pair.isSome fun t => t.issueWrite 0xA1 { s.laneOp .st [6] x with size := z })

/-- ATOM (06 R185). -/
def execAtom (o : LaneOps) (s : State) : Out :=
  let a := s.src64 o 0
  let b := s.src o 1
  let c := s.src o 2
  let x := s.laneIssue o fun x l =>
    s.laneAccess { size := 4, align := 4, atom := true, tags := [0, 1] } true x l (laneEa o a l)
      fun k => { k with data := (rowAt b l).toNat, cmp := (rowAt c l).toNat }
  .next (if !s.cw.pathRoom [8] || s.cw.pairFull then s else
    s.issued o x s.cw.pair.isSome fun t => t.issueWrite 0xA2 { s.laneOp .atom [8] x with
      d := o.d.toNat, nw := o.nw, size := 2, ty := o.ty.toNat, fn := (o.md.extractLsb' 0 4).toNat })

/-- FATOM of a kind (06 R187). -/
def State.fatom (s : State) (o : LaneOps) (kind : Nat) : State :=
  let a := s.src64 o 0
  let b := s.src o 1
  let x := s.laneIssue o fun x l =>
    s.laneAccess { size := 4, align := 4, atom := true, tags := [0, 1] } false x l (laneEa o a l)
      fun k => { k with data := (rowAt b l).toNat }
  if !s.cw.pathRoom [8] then s else s.issued o x false fun t => t.addOp { s.laneOp .fatom [8] x with fn := kind }

def execFatom (o : LaneOps) (s : State) : Out := .next (s.fatom o 0)
def execFatomMore (o : LaneOps) (s : State) : Out := .next (s.fatom o 1)
def execFatomSkip (o : LaneOps) (s : State) : Out := .next (s.fatom o 2)

/-- The valid bytes of an ACPY lane (06 R190). -/
def acpyBytes (o : LaneOps) (c : W32) : Nat := if o.md.getLsbD 0 then min c.toNat 32 else 32

/-- One lane of an ACPY (06 R190): the source, if bytes are valid, then the destination. -/
def State.acpyLane (s : State) (o : LaneOps) (a b : Row64) (c : Row) (x : Issue) (l : Nat) : Issue :=
  let pcn := x.w.pcnOf l
  let v := acpyBytes o (rowAt c l)
  let src := laneEa o a l
  let dst := row64At b l
  let rs : AReq := { size := v, align := 4, tags := [0], lane := some l }
  let rd : AReq := { size := 32, align := 32, store := true, tags := [1, 2], lane := some l }
  match if v = 0 then none else s.checkAddr s.cw pcn rs src with
  | some f => { x with w := x.w.laneOff l f.why }
  | none =>
    match s.checkAddr s.cw pcn rd dst with
    | some f => { x with w := x.w.laneOff l f.why }
    | none =>
      let dstKey := match s.placeOf s.cw pcn rd dst with
        | .ok key _ => key
        | _ => 0
      let k : Acc := { lane := l, pcn := pcn, addr := src, size := v, cmp := dst.toNat, count := dstKey }
      match s.relocate s.cw { kind := .acpy, lane := true } k with
      | .ok b => { x with accs := x.accs ++ [b] }
      | .error (b, .nonres) => { x with accs := x.accs ++ [{ k with pend := true }] }.fail { k with addr := b } .nonres
      | .error (b, .fault e) => x.fail { k with addr := b } (.fault e)
      | .error _ => { x with wait := true }

/-- ACPY (06 R190). -/
def execAcpy (o : LaneOps) (s : State) : Out :=
  let x := s.laneIssue o (s.acpyLane o (s.src64 o 0) (s.src64 o 1) (s.src o 2))
  let path := 2 + (o.md.extractLsb' 1 2).toNat
  .next (if !s.cw.pathRoom [path] then s else s.issued o x false fun t => t.addOp (s.laneOp .acpy [path] x))

/-! ## XST -/

/-- The destination ranks of a lane (10 R285). -/
def xstRanks (x : W32) (rk : Option Nat) (n : Nat) (c : W32) : List Nat :=
  let k := (x.extractLsb' 2 10).toNat
  match (x.extractLsb' 0 2).toNat with
  | 0 => [(rk.getD 0 + k) % n]
  | 1 => [Nat.xor (rk.getD 0) k]
  | 2 => if n ≤ k then [k] else if rk = some k then List.range n else []
  | _ => [c.toNat]

/-- The check of one destination (10 R285): why it fails, or its PCN. -/
def State.xstTarget (s : State) (cols : List Nat) (rk : Option Nat) (size off t : Nat) : Except AFail Nat :=
  let col := if rk.isNone then none else (cols[t]?).bind fun lcn => (s.ctx s.cw.ctx).pcnLive lcn
  match col with
  | none => .error .colcross
  | some p =>
    let e := (s.layout s.cw.ctx p).window
    if off % size ≠ 0 then .error .align
    else if e = 0 then .error .nowin
    else if e < off + size then .error .range
    else .ok p

/-- The destinations of one lane, all checked before anything is written (10 R285). -/
def State.xstTargets (s : State) (cols : List Nat) (rk : Option Nat) (size off : Nat) : List Nat → Except AFail (List Nat)
  | [] => .ok []
  | t :: r =>
    match s.xstTarget cols rk size off t with
    | .error e => .error e
    | .ok p =>
      match xstTargets s cols rk size off r with
      | .error e => .error e
      | .ok l => .ok (p :: l)

/-- The address of an offset in the dark bank (06 R170). -/
def darkAddr (off : Nat) : Word := BitVec.ofNat 64 (3 <<< 52 + 0x3FF <<< 42 + off % 2 ^ 42)

/-- One lane of an XST (10 R285). -/
def State.xstLane (s : State) (o : LaneOps) (cols : List Nat) (a : Row64) (b c : Row) (x : Issue) (l : Nat) : Issue :=
  let size := if o.lit.getLsbD 20 then 8 else 4
  let rk := rankOf cols (s.lcnOf s.cw l)
  let off := (rowAt b l).toNat
  match s.xstTargets cols rk size off (xstRanks o.lit rk cols.length (rowAt c l)) with
  | .error e => { x with w := x.w.laneOff l e.why }
  | .ok ps => { x with accs := x.accs ++ ps.map fun p =>
      { lane := l, pcn := p, addr := darkAddr off, size := size, data := (row64At a l).toNat % 2 ^ (8 * size) } }

/-- XST (10 R283 to R286). -/
def execXst (o : LaneOps) (s : State) : Out :=
  let cols := match s.crew s.cw.ctx (xstCrew o.lit) with
    | some g => g.cols
    | none => []
  let a := if o.lit.getLsbD 20 then s.src64 o 0 else wideRow (s.src o 0)
  let x := s.laneIssue o (s.xstLane o cols a (s.src o 1) (s.src o 2))
  .next (if !s.cw.pathRoom [7] then s else s.issued o x false fun t => t.addOp (s.laneOp .xst [7] x))

/-! ## AMAX -/

/-- AMAX (05 R158): the maximum in every active lane, and the atomic of the lowest, which issues when the chain completes: its address is
checked and translated then (log 78). -/
def execAmax (o : LaneOps) (s : State) : Out :=
  let m := s.amaxOf o
  .next (match if o.lit.getLsbD 0 then (lanesOf (s.active o)).head? else none with
    | none => s.putResult o (Vector.replicate 64 m)
    | some l =>
      if !s.cw.pathRoom [8] then s else
      let a : Acc := { lane := l, pcn := s.cw.pcnOf l, addr := s.lane.sb, size := 4, data := m.toNat, pend := true }
      let op := { s.laneOp .amax [8] { accs := [a] } with nw := true, size := 2 }
      (s.modW fun w => { w with chain := some { s.chain with ops := s.chain.ops ++ [op] } }).putResult o (Vector.replicate 64 m))

end Sys2Proof.Machine
end

