-- ==== Sys2Proof/Machine/LaneMatrix.lean ====
section
/-! DEFINITION. The matrix instructions as lanes issue them (07 R207 to R215), and the array's passes (R206, R208) and performances
(R207). -/

namespace Sys2Proof.Machine

/-- A run of V registers as it stands. -/
def Watch.runRows (w : Watch) (v n : Nat) : List Row := (List.range n).map fun i => w.vreg (v + i)

/-- The slot of the engine's queue takes an instruction whose chain completes (07 R207). -/
def State.acceptMat (s : State) (o : LaneOps) (m : MatOp) : State :=
  if s.cw.mat.isSome then s
  else
    let t := s.noResult o
    let n := (t.core t.cw.core).matNext
    let m := { m with ord := n, seq := s.lane.seq, index := s.lane.index, ent := s.lane.ent, mask := s.active o
                      rbnd := s.cw.rbnd, shape := s.cw.mshape }
    (t.modW fun w => { w with mat := if isMma m.instr && m.left.isEmpty then none else some m }).modCore t.cw.core
      fun c => { c with matNext := n + 1 }

/-- The accepted instruction of the watch performs its atomic by the next operation (07 R215). -/
def State.matAtomic (s : State) (a : Acc) : State :=
  s.modW fun w => { w with mat := w.mat.map fun m => { m with acc := some { a with count := s.next } } }

/-- MMA (07 R210). -/
def execMma (o : LaneOps) (s : State) : Out :=
  let w := s.cw
  let t := shapeA w.mshape
  .next (s.acceptMat o
    { instr := .mma o, rowsA := w.runRows o.a.toNat (blockRegs t (shapeK w.mshape))
      rowsB := w.runRows o.b.toNat (scaleRegs t (shapeK w.mshape) (shapeGA w.mshape)), left := quartersOf (s.active o) w.rbnd })

/-- MSOFT (07 R211). -/
def execMsoft (o : LaneOps) (s : State) : Out := .next (s.acceptMat o { instr := .msoft o })

/-- TCLR (07 R212). -/
def execTclr (o : LaneOps) (s : State) : Out := .next (s.acceptMat o { instr := .tclr o })

/-- TSCL (07 R213). -/
def execTscl (o : LaneOps) (s : State) : Out := .next (s.acceptMat o { instr := .tscl o, rowsA := s.cw.runRows o.a.toNat 1 })
def execTsclPend (o : LaneOps) (s : State) : Out := .next (s.acceptMat o { instr := .tsclPend o })
def execTsclDivl (o : LaneOps) (s : State) : Out := .next (s.acceptMat o { instr := .tsclDivl o })

/-- TMOV (07 R214). -/
def execTmovTv (o : LaneOps) (s : State) : Out := .next (s.acceptMat o { instr := .tmovTv o })
def execTmovVt (o : LaneOps) (s : State) : Out :=
  .next (s.acceptMat o { instr := .tmovVt o, rowsA := s.cw.runRows o.a.toNat (runRegs o.lit) })

/-- TDRN (07 R215): its atomic is checked in the lowest active lane and counts on path 8; the engine fills in its operand. -/
def execTdrn (o : LaneOps) (s : State) : Out :=
  let m : MatOp := { instr := .tdrn o, rowsA := if o.lit.getLsbD 28 then s.cw.runRows o.a.toNat 1 else [] }
  .next (match if o.lit.getLsbD 26 then (lanesOf (s.active o)).head? else none with
    | none => s.acceptMat o m
    | some l =>
      if s.cw.mat.isSome || !s.cw.pathRoom [8] then s else
      let ea := row64At (joinRows (s.cw.vreg o.b.toNat) (s.cw.vreg (o.b.toNat + 1))) l
      let x := s.laneAccess { size := 4, align := 4, atom := true, tags := [0, 1] } true { w := s.cw } l ea id
      if x.wait then s else
      let t := s.setW x.w
      match x.accs.head? with
      | none => t.acceptMat o m
      | some a =>
        let t := t.acceptMat o m
        let t := (t.matAtomic a).addOp
          { s.laneOp .tdrn [8] x with nw := true, size := 2 }
        match x.bad with
        | some (_, .nonres) => t.pageFault s.cur s.lane.ent true a.pcn a.addr
        | some (_, .fault c) => t.asyncTrap s.cur s.lane.ent { cause := 0x1A, code := c, addr := a.addr }
        | _ => t)

/-! ## The array -/

/-- The buffer of a quarter, and the bytes of the block that it reads there (07 R206, R209). -/
def quarterBuf (q : Nat) : Nat := q % 2
def quarterLo (m : MatOp) (q : Nat) : Nat := 256 * mmaOff (matOps m.instr).lit (q % 2 == 1)
def matBlock (shape : BitVec 18) : Nat := blockBytes (shapeB shape) (shapeN shape) (shapeK shape) (shapeGB shape)

/-- The bytes that a WLOAD has still to write: buffer, lowest and end (07 R205). -/
def Job.wloadLeft (j : Job) : Nat × Nat × Nat :=
  let v (i : Nat) : Nat := j.cmd.extra[i]?.getD 0
  (v 5, v 3 + 32 * j.step, v 3 + 32 * v 4)

/-- A quarter's B sectors can be read: no WLOAD accepted earlier has still to write there (07 R206). -/
def State.quarterReady (s : State) (core : Nat) (m : MatOp) (q : Nat) : Bool :=
  let lo := quarterLo m q
  !(s.core core).wloads.any fun j =>
    let l := j.wloadLeft
    decide (j.ord < m.ord) && l.1 == quarterBuf q && decide (l.2.1 < lo + matBlock m.shape ∧ lo < l.2.2)

/-- The key of a quarter (07 R208). -/
def quarterKey (m : MatOp) (q : Nat) : Nat × Nat × BitVec 16 := (quarterBuf q, quarterLo m q, m.shape.extractLsb' 0 16)

/-- The watches of a core with an unplaced quarter: number, slot, instruction; the slots ascending from one with wrap (07 R208). -/
def State.queued (s : State) (core first : Nat) : List (Nat × MatOp) :=
  let all := s.watches.filterMap fun x =>
    match x.2.mat with
    | some m => if x.2.core = core ∧ isMma m.instr then some (x.1, x.2.slot, m) else none
    | none => none
  (List.range 32).flatMap fun i => (all.filter fun x => x.2.1 == (first + i) % 32).map fun x => (x.1, x.2.2)

/-- The quarters of a pass with a key (07 R208): the lowest slot first and the lowest quarter first, at most n. -/
def State.passQuarters (s : State) (core n : Nat) (key : Nat × Nat × BitVec 16) : List (Nat × Nat) :=
  ((s.queued core 0).flatMap fun x =>
    ((x.2.left.filter fun q => quarterKey x.2 q == key && s.quarterReady core x.2 q).map fun q => (x.1, q))).take n

/-- A pass of the array (07 R208): it waits where the head quarter is not ready. -/
def execMatrixPass (core : Nat) (s : State) : Out :=
  .next (match s.queued core ((s.core core).lastPass + 1) with
    | [] => s
    | (u, m) :: _ =>
      match m.left with
      | [] => s
      | q :: _ =>
        if !s.quarterReady core m q then s
        else
          let others := (s.passQuarters core 8 (quarterKey m q)).filter (· != (u, q))
          let t := ((u, q) :: others.take 7).foldl (fun s p => s.applyQuarter p.1 p.2) s
          t.modCore core fun c => { c with lastPass := (s.watch u).slot })

/-- Another matrix instruction is performed (07 R207). -/
def execMatrixPerform (w : Nat) (s : State) : Out :=
  .next (match (s.watch w).mat with
    | some m => if isMma m.instr then s else s.performOther w
    | none => s)

end Sys2Proof.Machine
end

