-- ==== Sys2Proof/Machine/Place.lean ====
section
/-! DEFINITION. Where a watch fits: slots, column sets and the register file (01 R11 to R13), and the layout that a column takes (06
R174). Blocks (11 R322), responders (10 R293) and trailers (09 R273) are placed with it. -/

namespace Sys2Proof.Machine

/-- The watches that hold a slot of a core's live bank. -/
def State.residents (s : State) (core : Nat) : List Watch :=
  (s.watches.filter fun x => x.2.core == core && x.2.bank == .live).map (·.2)

/-- The lowest free slot among the residents (01 R12). -/
def freeSlot (rs : List Watch) : Option Nat :=
  let i := firstIdx 32 fun k => !rs.any (·.slot == k)
  if i < 32 then some i else none

/-- The permitted column sets of a width, by their first columns (01 R11). -/
def colSets (width : Nat) : List Nat := if width = 64 then [0] else if width = 32 then [0, 2] else [0, 1, 2, 3]

/-- A role's allotment fits in a column of the core beside the residents (01 R13). -/
def regRoom (rs : List Watch) (pcn allot : Nat) : Bool :=
  decide (((rs.filter fun w => w.cols.contains pcn).foldl (fun n w => n + w.allot) 0) + allot ≤ 4096)

/-- A launch's layout fits in a column: no resident, or the same layout (06 R174). -/
def State.layoutFits (s : State) (rs : List Watch) (ctx pcn scratch xwin : Nat) : Bool :=
  let l := s.layout ctx pcn
  !(rs.any fun w => w.cols.contains pcn) || (l.scratch == scratch && l.xwin == xwin)

/-- A slot and column set of a core for a watch beside the residents: the lowest of each (11 R322). -/
def State.fitIn (s : State) (rs : List Watch) (ctx core scratch xwin width allot : Nat) (sets : List Nat) : Option (Nat × Nat) :=
  let live := (s.ctx ctx).liveCols
  let ok (c : Nat) : Bool := (List.range (width / 16)).all fun i =>
    let p := core * 4 + c + i
    live.contains p && regRoom rs p allot && s.layoutFits rs ctx p scratch xwin
  match freeSlot rs, sets.find? ok with
  | some sl, some c => some (sl, c)
  | _, _ => none

/-- The context runs on a core: its live bank holds it and no switch is under way. -/
def State.runsOn (s : State) (ctx core : Nat) : Bool := (s.core core).live == some ctx && (s.core core).switching.isNone

/-- A started watch takes its place: its columns take the launch's layout where they hold no resident (06 R174). -/
def State.settleWatch (s : State) (w : Watch) (scratch xwin : Nat) : State :=
  let rs := s.residents w.core
  (w.cols.foldl (fun s p => if rs.any fun x => x.cols.contains p then s else s.takeLayout w.ctx p scratch xwin) s).addWatch w

/-- The header fields of a launch (02 R63, R64). -/
def Launch.bits (l : Launch) (i lo n : Nat) : Nat := (l.word i).toNat / 2 ^ lo % 2 ^ n
def Launch.width (l : Launch) : Nat := 16 <<< l.bits 0 32 2
def Launch.nrole (l : Launch) : Nat := l.bits 0 34 2 + 1
def Launch.cosched (l : Launch) : Bool := l.bits 0 36 1 == 1
def Launch.xwin (l : Launch) : Nat := l.bits 0 40 3
def Launch.scratch (l : Launch) : Nat := l.bits 1 0 32
def Launch.paramSz (l : Launch) : Nat := l.bits 1 32 32
def Launch.ctlBase (l : Launch) : Word := l.word 2
def Launch.laneBase (l : Launch) : Word := l.word 3
def Launch.paramBase (l : Launch) : Word := l.word 4
def Launch.hdrBlocks (l : Launch) : Nat := l.bits 5 0 32
def Launch.queue (l : Launch) : Nat := l.bits 5 40 6
def Launch.roleEntry (l : Launch) (r : Nat) : Nat := l.bits (8 + 2 * r) 0 32
def Launch.roleLane (l : Launch) (r : Nat) : Nat := l.bits (8 + 2 * r) 32 25
def Launch.roleAllot (l : Launch) (r : Nat) : Nat := 32 * l.bits (9 + 2 * r) 0 4
def Launch.roleWatches (l : Launch) (r : Nat) : Nat := l.bits (9 + 2 * r) 8 6
def Launch.roleResp (l : Launch) (r : Nat) : Bool := l.bits (9 + 2 * r) 14 1 == 1

/-- The control entry of a role (02 R66): CTLBASE's offset plus ENTRY. -/
def Launch.entryPc (l : Launch) (r : Nat) : Off := BitVec.ofNat 42 (offOf l.ctlBase + l.roleEntry r)

end Sys2Proof.Machine
end

