-- ==== Sys2Proof/Machine/MemEvents.lean ====
section
/-! DEFINITION. Accesses at their order points: loads (06 R177), stores (R178), atomics (R185, R193), ordered adds (R186 to R189),
ACPY (R190), XST (10 R286), stream fetches (08 R238 to R241), the host's and the directory's acknowledgements (06 R192; 10 R296),
the pairs' commits and trailers (09 R273 to R277), and the release of a watch (04 R130). What one watch keeps in order is
13 R360 and R361. -/

namespace Sys2Proof.Machine

/-- Act on a watch that is there. -/
def State.onWatch (s : State) (w : Nat) (k : Watch → State) : State :=
  match Tbl.find s.watches w with
  | some x => k x
  | none => s

/-- Act on an operation that is there. -/
def State.onOp (s : State) (w op : Nat) (k : Watch → Op → State) : State :=
  s.onWatch w fun x => match x.op op with
    | some o => if o.done then s else k x o
    | none => s

/-- An operation with the stamp of its insert (10 R296). -/
def Op.withStamp (o : Op) (n : Nat) : Op := { o with stamp := n }

/-! ## Loads -/

/-- The distinct sectors that a load still misses. -/
def State.sectors (s : State) (ctx : Nat) (o : Op) : List Nat :=
  (o.accs.filter fun a => !a.got && !a.pend).foldl
    (fun l a => let k := s.keyNow ctx a / 32; if l.contains k then l else l ++ [k]) []

/-- An access meets a host address that no range admits since it was issued: it is never sent, and the watch takes XLATE with CODE 4
(14 R386). -/
def State.shutTrap (s : State) (w : Nat) (o : Op) (a : Acc) : State :=
  (s.modWatch w fun x => x.modOp o.id fun o => { o with xf := true }).asyncTrap w o.ent { cause := 0x1A, code := 4, addr := a.addr }

/-- The k-th missing sector of a load returns (06 R177). -/
def execLoadSectorReturn (w op k : Nat) (s : State) : Out :=
  .next (s.onOp w op fun x o =>
    match if o.isLoad && s.isLive x && !x.acqHeld o.seq then (s.sectors x.ctx o)[k]? else none with
    | none => s
    | some sec =>
      let mine := o.accs.zipIdx.filter fun p => !p.1.got && !p.1.pend && s.keyNow x.ctx p.1 / 32 == sec
      if mine.any fun p => s.olderSame x Op.beforeLoad o.seq o.lane p.1 then s
      else match mine.find? fun p => s.hostShut p.1.key with
      | some p => s.shutTrap w o p.1
      | none => (mine.foldl (fun s p => s.returnAcc w o p.2 p.1) s).completeOp w op)

/-! ## Stores -/

/-- A store's bytes are written at the column's order point: those of a host-backed page are forwarded to the host, which takes them when it
acknowledges them, if it has not before (06 R192; 12 R338; 13 R365). -/
def State.storeBytes (s : State) (w : Nat) (e : StoreEnt) (key : Nat) : State :=
  if isHostKey key then
    { s with hostAcks := s.hostAcks ++ [{ w := w, op := e.op, pcn := e.acc.pcn, key := key, size := e.acc.size, data := e.acc.data }] }
  else s.performWrite w e.op key e.acc.size e.acc.data

/-- The oldest store leaves the store FIFO (06 R178). -/
def execStorePerform (w : Nat) (s : State) : Out :=
  .next (s.onWatch w fun x =>
    match x.fifo with
    | [] => s
    | e :: rest =>
      if e.acc.pend || s.storeHeld x e then s
      else
        let t := s.modWatch w fun x => { x.modOp e.op fun o => { o with
          accs := modifyFirst (fun a => a.lane == e.acc.lane && !a.got) (fun a => { a with got := true }) o.accs } with fifo := rest }
        if s.hostShut e.acc.key then ((t.completeOp w e.op).shutTrap w ((x.op e.op).getD {}) e.acc)
        else (t.storeBytes w e (s.keyNow x.ctx e.acc)).completeOp w e.op)

/-- The host acknowledges the oldest store of an operation that a column forwarded, having taken its bytes (06 R192; 12 R338): the stores of
one column arrive in their order. -/
def execHostStoreAcknowledgement (w op : Nat) (s : State) : Out :=
  .next (match s.hostAcks.zipIdx.find? fun p =>
      p.1.w == w && p.1.op == op && !(s.hostAcks.take p.2).any fun h => h.pcn == p.1.pcn with
    | none => s
    | some (h, i) =>
      let t := if h.sent then s else s.writeN h.key h.size h.data
      { t with hostAcks := s.hostAcks.eraseIdx i })

/-! ## Atomics -/

/-- An atomic of a watch: in flight, or one of those a trap holds whose steps may be made while the handler runs (06 R193). -/
def Watch.atomOf (w : Watch) (op : Nat) : Option Op :=
  match w.op op with
  | some o => if o.done || !o.isAtom || w.heldBack op then none else some o
  | none => w.freeAtoms.find? (·.id == op)

/-- The next lane of an atomic reaches its order point (06 R185, R193). -/
def execAtomicPerform (w op : Nat) (s : State) : Out :=
  .next (s.onWatch w fun x =>
    match x.atomOf op with
    | none => s
    | some o =>
      match o.accs.zipIdx.find? fun p => !p.1.got with
      | none => s
      | some (a, i) => if s.atomOpen x o a then s.atomStep w o i a else s)

/-- An insert is acknowledged: no census below its stamp is in flight (10 R296). -/
def execDirectoryInsertAck (w op : Nat) (s : State) : Out :=
  .next (s.onOp w op fun x o =>
    if o.stamp = 0 ∨ (s.ctx x.ctx).censuses.any fun c => decide (c.n + 1 < o.stamp) then s
    else
      let t := s.modWatch w fun x =>
        (x.modOp op fun o => { o with stamp := 0 }).writeOlds { o with stamp := 0 }
      t.completeOp w op)

/-! ## Ordered adds -/

/-- A lane's key (06 R186): the block index, then 64 × wi + l. -/
def fatomKey (w : Watch) (l : Nat) : Nat := w.lblock.toNat * 2 ^ 16 + 64 * w.wi + l

/-- The lanes of a watch that have not ended: those of the split table, or of the one held at a trap. -/
def Watch.liveLanes (w : Watch) : Mask :=
  let sp := match w.held with
    | some h => h.split
    | none => w.split
  sp.foldl (fun m e => if e.valid then e.levels.foldl (fun m v => m ||| v.m) (m ||| e.mask) else m) 0

/-- A FATOM of any kind. -/
def isFatom (i : Instr) : Bool :=
  match i with
  | .fatom _ => true
  | .fatomMore _ => true
  | .fatomSkip _ => true
  | _ => false

/-- The lanes for which a FATOM has yet to issue, from the lane issue queue or what a trap holds of it: they may have ended since (04 R130). -/
def Watch.fatomLanes (w : Watch) : Mask :=
  let held := match w.held with
    | some h => h.lq ++ h.replay.flatMap (·.chain)
    | none => []
  (w.lq ++ held).foldl (fun m e => if isFatom e.instr then m ||| e.mask else m) 0

/-- A contribution of the watch to a word, below a key, that has not arrived. -/
def Watch.fatomComing (w : Watch) (word : Nat) (p : Nat → Bool) : Bool :=
  w.ops.any fun o => o.kind == .fatom && !o.done && o.accs.any fun a => !a.got && a.key == word && p (fatomKey w a.lane)

/-- A key of the launch below K, living in the column, is open for a word (06 R186 to R188). -/
def State.lowerOpen (s : State) (pcn launch word key : Nat) : Bool :=
  let l := s.launch launch
  let c := s.column pcn
  ((List.range (key / 2 ^ 16)).any fun b => !l.placed.contains b) ||
  (c.fatom.any fun k => k.launch == launch && k.word == word && decide (k.key < key)) ||
  s.watches.any fun x =>
    let w := x.2
    w.launch == launch && w.kind != .trailer && w.cols.contains pcn &&
      ((lanesOf (w.liveLanes ||| w.fatomLanes)).any (fun i => w.pcnOf i == pcn && decide (fatomKey w i < key) &&
          !c.closed.any fun k => k.launch == launch && k.key == fatomKey w i && k.word == word) ||
        w.fatomComing word fun k => decide (k < key))

/-- A contribution or a closure can be applied (06 R187, R188): `before` are those of the column that came before it. -/
def State.fatomReady (s : State) (pcn : Nat) (c : Contrib) (before : List Contrib) : Bool :=
  !(before.any fun k => k.launch == c.launch && k.key == c.key && k.word == c.word) &&
    (c.kind == 2 || !s.lowerOpen pcn c.launch c.word c.key)

/-- Apply it (06 R187, R188; 03 R90). -/
def State.fatomApply (s : State) (pcn : Nat) (c : Contrib) : State :=
  let s := if c.kind = 2 then s else s.writeN c.word 4 (fpAdd .f32 .rne false (s.readN c.word 4) c.value.toNat)
  if c.kind = 1 then s
  else s.modColumn pcn fun k => { k with closed := k.closed ++ [{ launch := c.launch, key := c.key, word := c.word }] }

/-- A contribution finds an entry of the column's ordered queue, or a slot in its context's overflow area (06 R189): whether it overflows. -/
def State.fatomRoom (s : State) (cx : Nat) (q : List Contrib) : Option Bool :=
  if (q.filter fun k => k.kind != 2 && !k.ovf).length < 256 then some false
  else if (q.filter fun k => k.ovf && (s.launch k.launch).ctx == cx).length < 4096 then some true
  else none

/-- The next contribution of a FATOM arrives (06 R189): it is applied, or takes an entry or an overflow slot; FATOMOVF escalates where
both are full. DESIGN CHOICE: a SKIP that waits takes neither, for 06 R189 speaks of contributions only (log 67). -/
def execFatomArrive (w op : Nat) (s : State) : Out :=
  .next (s.onOp w op fun x o =>
    match if o.kind == .fatom && !x.acqHeld o.seq then o.accs.zipIdx.find? (fun p => !p.1.got) else none with
    | none => s
    | some (a, i) =>
      if a.pend || s.olderSame x Op.beforeLoad o.seq o.lane a then s
      else
        let c : Contrib := { launch := x.launch, key := fatomKey x a.lane, seq := s.seq, word := a.key, kind := o.fn
                             value := BitVec.ofNat 32 a.data }
        let q := (s.column a.pcn).fatom
        let done (t : State) : State := (t.tick.modWatch w fun x => x.modOp op fun o => o.gotAcc i 0).completeOp w op
        let wait (ovf : Bool) : State := (done s).modColumn a.pcn fun k => { k with fatom := k.fatom ++ [{ c with ovf := ovf }] }
        if s.fatomReady a.pcn c q then (done s).fatomApply a.pcn c
        else if c.kind = 2 then wait false
        else match s.fatomRoom x.ctx q with
          | some ovf => wait ovf
          | none => if (s.ctx x.ctx).rung.isSome then s else s.escalate w { cause := 0x54, addr := a.addr })

/-- A waiting contribution is applied (06 R188). -/
def execFatomApply (pcn k : Nat) (s : State) : Out :=
  .next (
    let q := (s.column pcn).fatom
    match q[k]? with
    | none => s
    | some c =>
      let t := s.modColumn pcn fun x => { x with fatom := q.eraseIdx k }
      if t.fatomReady pcn c (q.take k) then t.fatomApply pcn c else s)

/-! ## ACPY, XST and streams -/

/-- A source byte of an ACPY lies in the page of the first byte, or in that of the last (06 R190). -/
def Acc.srcKey (a : Acc) (i : Nat) : Nat := if offOf a.addr % 2 ^ 18 + i < 2 ^ 18 then a.key + i else a.old - (a.size - 1 - i)

/-- One lane of an ACPY is written as one unit (06 R190). -/
def execAcpyWrite (w op k : Nat) (s : State) : Out :=
  .next (s.onOp w op fun x o =>
    match if o.kind == .acpy && !x.acqHeld o.seq then o.accs[k]? else none with
    | none => s
    | some a =>
      if a.got || a.pend || s.copyHeld x o a then s
      else
        if a.size != 0 && (s.hostShut a.key || s.hostShut a.old) then
          ((s.modWatch w fun x => x.modOp op fun o => o.gotAcc k 0).completeOp w op).shutTrap w o a
        else
        let src := (List.range a.size).map fun i => s.colByte a.pcn (a.srcKey i)
        let t := s.writeBytes (s.keyNow x.ctx a.dest) (src ++ List.replicate (32 - a.size) 0)
        (t.modWatch w fun x => x.modOp op fun o => o.gotAcc k 0).completeOp w op)

/-- One write of an XST is performed in the bank that is dark then (10 R286, R289). -/
def execXstWrite (w op k : Nat) (s : State) : Out :=
  .next (s.onOp w op fun x o =>
    match if o.kind == .xst && !x.acqHeld o.seq then o.accs[k]? else none with
    | none => s
    | some a =>
      let first := !((o.accs.take k).any fun b => !b.got && b.pcn == a.pcn) &&
        !x.ops.any fun q => q.kind == .xst && decide (q.seq < o.seq) && q.accs.any fun b => !b.got && b.pcn == a.pcn
      if a.got || !first || s.lockHit x.ctx a.pcn 3 (offOf a.addr) a.size true then s
      else
        let t := s.writeN (s.keyNow x.ctx a) a.size a.data
        (t.modWatch w fun x => x.modOp op fun o => o.gotAcc k 0).completeOp w op)

/-- The address of element e of a stream in lane l (08 R238). -/
def streamAddr (q : Queue) (l e : Nat) : Word :=
  let d := q.desc
  let b := d[0]?.getD 0
  let sgn (lo : Nat) : Int := (BitVec.ofNat 32 (sdBits d lo 32)).toInt
  let n0 := sdN d 0
  let n1 := sdN d 1
  let o : Int := (offOf b : Int) + (l % 16 : Nat) * sgn 160 + (e % n0 : Nat) * sgn 64 + (e / n0 % n1 : Nat) * sgn 96 +
    (e / (n0 * n1) : Nat) * sgn 128 + (row64At q.base l).toInt
  withOff b (o % 2 ^ 42).toNat

/-- The 32 bits of an element (08 R238). -/
def elemBits (d : List Word) (v : Nat) : W32 :=
  if sdSx d && sdEsz d == 0 then (BitVec.ofNat 8 v).signExtend 32
  else if sdSx d && sdEsz d == 1 then (BitVec.ofNat 16 v).signExtend 32
  else BitVec.ofNat 32 v

/-- What a fetch brings (08 R238, R240, R241): none where it waits. -/
def State.fetchElem (s : State) (w : Watch) (q : Queue) (l : Nat) (a : Word) : Option (Elem ⊕ Unit) :=
  let n := 1 <<< sdEsz q.desc
  let r : AReq := { size := n, align := n, tags := [0, 1, 2], lane := some l }
  match s.checkAddr w (w.pcnOf l) r a with
  | some .lock => none
  | some f => some (.inl (.off f.why))
  | none =>
    match s.placeOf w (w.pcnOf l) r a with
    | .ok key _ =>
      let k := s.keyNow w.ctx { pcn := w.pcnOf l, addr := a, key := key }
      some (.inl (.val (elemBits q.desc (s.colN (w.pcnOf l) k n))))
    | .fault c => some (.inl (.fault c a))
    | .nonres => some (.inr ())
    | .wait => none

/-- A queue after lane l's next element came: ENDED when every lane has fetched its last (08 R239). -/
def Queue.took (q : Queue) (width l : Nat) (e : Elem) : Queue :=
  let next : Vector Nat 64 := Vector.ofFn fun i => if i.val = l then q.next[i] + 1 else q.next[i]
  { q with
    next := next
    elems := Vector.ofFn fun i => if i.val = l then q.elems[i] ++ [e] else q.elems[i]
    st := if (List.range width).all fun i => decide (sdCount q.desc ≤ next[i]?.getD 0) then .ended else q.st }

/-- The engine fetches the next element of a lane (08 R238 to R241), after the acquires older than its GO (13 R361). -/
def execStreamFetch (w qn l : Nat) (s : State) : Out :=
  .next (s.onWatch w fun x =>
    let q := x.queue qn
    let e := q.next[l]?.getD 0
    let may := q.st == .running && s.isLive x && !x.acqHeld q.go && decide (l < x.width) && decide (e < sdCount q.desc) &&
      decide (e < (q.popc[l]?.getD 0) + 64)
    if !may then s
    else match s.fetchElem x q l (streamAddr q l e) with
      | none => s
      | some (.inr ()) => s.pageFault w 0 true (x.pcnOf l) (streamAddr q l e)
      | some (.inl v) => s.modWatch w fun x => x.setQ qn ((x.queue qn).took x.width l v))

/-! ## Pairs -/

/-- The trailer of a watch placed at a slot of a core (09 R273). -/
def Watch.trailer (l : Watch) (p : Pair) (lead core slot : Nat) : Watch :=
  let c := p.check
  { l with
    core := core, slot := slot, kind := .trailer, s := c.s, v := c.v, p := c.p, gen := c.gen, srseed := c.srseed
    mshape := c.mshape, rbnd := c.rbnd, fifo := [], ops := [], lq := [], chain := none, mat := none, off := 0
    split := (rootSplit c.mask c.pc).set 0 { mask := c.mask, pc := c.pc, valid := true, root := true, sig := c.sig }
    pair := some { p with leads := false, partner := lead, placed := true, ents := [], made := 0 } }

/-- The trailer of a pair is placed on the first suitable core after the leader's (09 R273). -/
def execPairTrailerPlace (w : Nat) (s : State) : Out :=
  .next (s.onWatch w fun x =>
    match x.pair with
    | none => s
    | some p =>
      if p.placed || !p.leads || !s.isLive x then s
      else
        let la := s.launch x.launch
        let die := dieOfCore x.core
        let order := (List.range 127).map fun i => die * 128 + (x.core % 128 + 1 + i) % 128
        let fit (c : Nat) : Option (Nat × Nat) :=
          if s.runsOn x.ctx c then s.fitIn (s.residents c) x.ctx c la.scratch la.xwin x.width x.allot [x.col0] else none
        match order.find? fun c => (fit c).isSome with
        | none => s
        | some c =>
          let slot := ((fit c).getD (0, 0)).1
          let n := s.next
          let t := s.settleWatch (x.trailer p w c slot) la.scratch la.xwin
          t.modWatch w fun x => { x with pair := x.pair.map fun p => { p with placed := true, partner := n } })

/-- Commit a store of a watch: its entry's bytes enter the watch's FIFO (09 R276). -/
def Watch.commitStore (w : Watch) (e : PairEnt) : Watch :=
  { w with fifo := w.fifo ++ e.op.accs.map fun a => { op := e.op.id, lane := e.lane, seq := e.op.seq, acc := a } }

/-- The atomic of a pair's entry may be performed (09 R276): nothing that is ordered before one of its lanes is left. -/
def State.commitOpen (s : State) (w : Nat) (e : PairEnt) : Bool := e.op.accs.all fun a => s.atomOpen (s.watch w) e.op a

/-- The new word of a committed atomic enters the trailer's store FIFO where the target is the leader's own column (09 R276). -/
def Watch.mirror (w : Watch) (e f : PairEnt) (id i old : Nat) (a : Acc) : Watch :=
  if e.op.kind == .xatom && colOf a.addr != 0x3FF then w
  else
    let b := { (f.op.accs[i]?).getD a with data := e.op.newValue a old, got := false }
    { w with
      ops := w.ops ++ [{ id := id, kind := if f.lane then .st else .sst, paths := [6], seq := f.op.seq, lane := f.lane, ent := f.op.ent
                         at_ := f.op.at_, size := f.op.size, accs := [b] }]
      fifo := w.fifo ++ [{ op := id, lane := f.lane, seq := f.op.seq, acc := b }] }

/-- Commit an atomic (09 R276): the leader's step is made; the old values go to both destinations, those of an insert when it is
acknowledged (10 R296); the new words of the leader's own columns are stores of the trailer. -/
def State.commitAtom (s : State) (l t : Nat) (e f : PairEnt) : State :=
  let s := e.op.accs.zipIdx.foldl (fun s p =>
    let old := s.readN (s.keyNow (s.watch l).ctx p.1) p.1.size
    let s := s.atomStep l e.op p.2 p.1
    (s.modWatch t fun x => (x.modOp f.op.id fun o => o.gotAcc p.2 old).mirror e f s.next p.2 old p.1).bump) s
  let stamp := match (s.watch l).op e.op.id with
    | some o => o.stamp
    | none => 0
  (s.modWatch t fun x => (x.modOp f.op.id fun o => { o with stamp := stamp }).writeOlds
    (((x.op f.op.id).getD f.op).withStamp stamp)).completeOp t f.op.id

/-- The oldest entries of a pair meet (09 R275 to R277): an atomic commits when its step can be made. -/
def execPairCompare (w : Nat) (s : State) : Out :=
  .next (s.onWatch w fun x =>
    match x.pair with
    | none => s
    | some p =>
      if !p.leads then s
      else match p.ents, (s.watch p.partner).pair with
        | e :: es, some q =>
          match q.ents with
          | [] => s
          | f :: fs =>
            if e.sig ≠ f.sig ∨ e.store ≠ f.store then s.mismatch w 0
            else if !e.store && !s.commitOpen w e then s
            else
              let s := s.modWatch w fun x => { x with pair := some { p with ents := es } }
              let s := s.modWatch p.partner fun x => { x with pair := some { q with ents := fs } }
              if e.store then (s.modWatch w fun x => x.commitStore e).modWatch p.partner fun x => x.commitStore f
              else s.commitAtom w p.partner e f
        | _, _ => s)

/-! ## The release of a watch -/

/-- A watch is finished (04 R130): no valid entry, an empty queue, every counter zero, no accepted matrix instruction. -/
def Watch.finished (w : Watch) : Bool :=
  w.ended && w.lanesIdle && w.fifo.isEmpty && w.mat.isNone && w.ops.all (·.done)

/-- A responder that has ended answers its census: S10, or LOST after a fault (10 R294). -/
def Watch.answerTo (x : Watch) (w : Nat) (k : Census) : Census :=
  if !k.running.contains w then k
  else if x.departed then { k with running := k.running.erase w, lost := k.lost + 1 }
  else { k with running := k.running.erase w, replies := k.replies ++ [(x.core, x.sreg 10)] }

/-- The key of a launch's node state (11 R312). -/
def Launch.stateKey (l : Launch) : Nat := schedKey l.die (l.base + 192)

/-- A watch's fault mask is added to its node's FCNT and FWHY (11 R332). -/
def State.reportMask (s : State) (x : Watch) : State :=
  match Tbl.find s.launches x.launch with
  | none => s
  | some l =>
    if x.kind == .trailer || x.fmask == 0 then s
    else
      let v := s.readN (l.stateKey + 12) 2
      let n := v % 2 ^ 12
      s.writeN (l.stateKey + 12) 2 (min 0xFFF (n + 1) + (if n = 0 then x.fmwhy.toNat else v / 2 ^ 12) <<< 12)

/-- A block whose last watch is gone counts in its node's BLKDONE (11 R312). -/
def State.reportBlock (s : State) (x : Watch) : State :=
  match Tbl.find s.launches x.launch with
  | none => s
  | some l =>
    if x.kind != .responder && !s.watches.any fun y => y.2.launch == x.launch && y.2.lblock == x.lblock && y.2.kind != .responder
    then s.writeN (l.stateKey + 8) 4 (s.readN (l.stateKey + 8) 4 + 1) else s

/-- A watch releases its slot and registers (04 R130): it departs its crews (09 R250) and reports its fault mask to its node
(11 R332). -/
def execWatchRelease (w : Nat) (s : State) : Out :=
  .next (s.onWatch w fun x =>
    if !x.finished then s
    else
      let s := if x.departed then s else s.sendCrew x.ctx (.depart w false (x.fmask != 0) x.fmwhy)
      let s := s.reportMask x
      let s := if x.kind == .responder then s.modCtx x.ctx fun c => { c with censuses := c.censuses.map (x.answerTo w) }
        else s
      ({ s with watches := Tbl.del s.watches w }).reportBlock x)

end Sys2Proof.Machine
end

