-- ==== Sys2Proof/Machine/Issue.lean ====
section
/-! DEFINITION. The issue of lane instructions (01 R17 to R20, R31 to R33; 08 R239, R240; 07 R207, R216) and the interlocks of the
control stream (01 R18; 04 R93, R94; 09 R261). -/

namespace Sys2Proof.Machine

/-- The instruction's opcode and operands. -/
def LqEntry.parts (e : LqEntry) : Option (Nat × LaneOps) := (encodeLaneOp e.instr).map fun p => (p.1.toNat, p.2)

/-- How often an instruction names queue q as a source (01 R32). -/
def popsOf (op : Nat) (o : LaneOps) (q : Nat) : Nat :=
  let sp := laneSpec op o
  let n (u : Use) (x : Sel) : Nat := if (u == .src || u == .pair) && selIsQueue x && selNum x == q then 1 else 0
  n sp.a o.a + n sp.b o.b + n sp.c o.c
def LqEntry.pops (e : LqEntry) (q : Nat) : Nat :=
  match e.parts with
  | some (op, o) => popsOf op o q
  | none => 0

/-- The lanes of an entry less those switched off in its block (01 R19). -/
def Watch.entryMask (w : Watch) (e : LqEntry) : Mask := if e.blk = w.offBlk then e.mask &&& ~~~w.off else e.mask
/-- The active lanes of an entry as the predicates stand. -/
def Watch.entryActive (w : Watch) (e : LqEntry) : Mask :=
  match e.parts with
  | some (_, o) => w.activeIn (w.entryMask e) o
  | none => 0

/-- The pops of queue q in lane l that the entries of a chain make (01 R32). -/
def Watch.chainPops (w : Watch) (c : List LqEntry) (q l : Nat) : Nat :=
  c.foldl (fun n e => if (w.entryActive e).getLsbD l then n + e.pops q else n) 0

/-- The elements that a lane can still pop of a queue (08 R239). -/
def Queue.left (q : Queue) (l : Nat) : Nat := if q.st = .empty then 0 else sdCount q.desc - q.popc[l]?.getD 0

/-- The queues that a chain pops. -/
def chainQueues (c : List LqEntry) : List Nat := (List.range 8).filter fun q => c.any fun e => decide (0 < e.pops q)

/-- The elements that a chain and the ones before it of its block popped of queue q in lane l: `pops` by queue × 64 + lane. The first queue
of an instruction, in the order of its selectors, that is EMPTY or has fewer left in one of the lanes, with its state as `p` asks (08 R239):
an EMPTY queue fails as it is named, whatever the lanes. -/
def Watch.shortOf (w : Watch) (p : QState → Bool) (pops : Tbl Nat) (op : Nat) (o : LaneOps) (lanes : Mask) : Option Nat :=
  (List.range 3).findSome? fun i =>
    let q := selNum (selAt o i)
    if selIsQueue (selAt o i) && p (w.queue q).st && ((w.queue q).st == .empty || (lanesOf lanes).any fun l =>
      decide ((w.queue q).left l < Tbl.getD pops (q * 64 + l) 0 + popsOf op o q)) then some q else none

/-- Every element that a chain pops is there (01 R31). -/
def Watch.elemsReady (w : Watch) (c : List LqEntry) : Bool :=
  (chainQueues c).all fun q => (List.range w.width).all fun l =>
    decide (w.chainPops c q l ≤ ((w.queue q).elems[l]?.getD []).length)

/-- The element that stops a chain: a fetch that met a translation fault or an uncorrectable error (08 R240, 09 R268). -/
def Watch.badElem (w : Watch) (c : List LqEntry) : Option Elem :=
  (chainQueues c).findSome? fun q => (List.range w.width).findSome? fun l =>
    (((w.queue q).elems[l]?.getD []).take (w.chainPops c q l)).find? fun x =>
      match x with
      | .fault _ _ => true
      | .uncor _ => true
      | _ => false

/-- An MMA whose B block runs beyond a buffer that one of the rows uses (07 R202, R210). -/
def Watch.mmaBeyond (w : Watch) (rows : Mask) (o : LaneOps) : Bool :=
  let beyond (hi : Bool) : Bool := decide (262144 < 256 * mmaOff o.lit hi + matBlock w.mshape)
  (lanesOf rows).any fun i => beyond (decide (w.rbnd ≤ i))
def LqEntry.beyond (w : Watch) (rows : Mask) (e : LqEntry) : Bool :=
  match e.instr with
  | .mma o => w.mmaBeyond rows o
  | _ => false

/-- Whether an instruction draws from the generators, or puts an operation in flight that the limit of 15 counts, or uses the matrix
slot. -/
def draws (op : Nat) (o : LaneOps) : Bool := decide (0x80 ≤ op ∧ op ≤ 0x83) && cvRm o.lit == 4
def laneHeavy (op : Nat) (o : LaneOps) : Bool :=
  op == 0xA0 || op == 0xA2 || (op == 0x85 && o.lit.getLsbD 0) || (op == 0xD5 && o.lit.getLsbD 26)
def usesMat (op : Nat) : Bool := decide (0xD0 ≤ op ∧ op ≤ 0xD5)

def LqEntry.isHeavy (e : LqEntry) : Bool :=
  match e.parts with
  | some (op, o) => laneHeavy op o
  | none => false

/-- A chain may begin to issue (01 R31; 07 R207, R216; 09 R261, R275): what it reads and writes is not still to be written, and what
it puts in flight has room. -/
def Watch.chainReady (w : Watch) (c : List LqEntry) : Bool :=
  w.elemsReady c && c.all fun e =>
    match e.parts with
    | none => true
    | some (op, o) =>
      let runs := vReads w op o ++ vWrites op o
      !(w.ops.any fun p => runsMeet p.runs runs) && !(w.mat.any fun m => runsMeet m.runs runs) &&
        (!laneHeavy op o || decide (w.heavy + (c.filter LqEntry.isHeavy).length ≤ 15)) && (!(usesMat op || draws op o) || w.mat.isNone) &&
        (!(op == 0xA1 || op == 0xA2) || !w.pairFull)

/-- The place of the next instruction in its chain, and the chain at the head of the queue. -/
def Watch.chainPos (w : Watch) : Nat := match w.chain with
  | some c => c.latches.length
  | none => 0
def Watch.headChain (w : Watch) : List LqEntry := w.lq.take (w.lq.head?.getD {}).len

/-- The crew that an entry names, where it is an XST (10 R284). -/
def LqEntry.crew (e : LqEntry) : Option Nat :=
  match e.instr with
  | .xst o => some (xstCrew o.lit)
  | _ => none
/-- An entry is an XST whose watch is not a member of its crew (10 R285). -/
def State.notMember (s : State) (n : Nat) (w : Watch) (e : LqEntry) : Bool :=
  match e.crew with
  | none => false
  | some c => match s.crew w.ctx c with
    | some x => !x.has n
    | none => true

/-- How far the checks of a block have come (04 R417): which instructions of the chain left a latch, the pops by queue × 64 + lane, those
made for certain and those that may be made, the predicates written, and whether a lane may be switched off by then. -/
structure Scan where
  latches : List Bool := []
  pops : Tbl Nat := []
  most : Tbl Nat := []
  wrote : List Nat := []
  off : Bool := false
  deriving DecidableEq, Repr

/-- What the checks of a block come to: it passes, it waits for a queue to end, or it fails at an instruction. -/
inductive Verdict where
  | pass
  | wait
  | fail (e : LqEntry) (t : TrapInfo)
  deriving DecidableEq, Repr

/-- An instruction that may switch a lane off (06 R180, R190; 05 R158; 07 R215; 08 R240; 10 R285). -/
def mayOff (op : Nat) (o : LaneOps) : Bool :=
  decide (0xA0 ≤ op ∧ op ≤ 0xA4) || op == 0xC5 || (op == 0x85 && o.lit.getLsbD 0) || (op == 0xD5 && o.lit.getLsbD 26) || popsQueue op o

/-- The cause of a word that fails its first check: LANEOP, or the translation fault of its read. -/
def LqEntry.badInfo (w : Watch) (e : LqEntry) : TrapInfo :=
  { cause := e.bad % 256, code := e.bad / 256, addr := if e.bad % 256 = 0x1A then w.laneAddr e.index else 0 }

/-- What the checks of an instruction come to whose active lanes are at least `act` and at most `most` (04 R417; 08 R239; log 7): none where it
passes. Where they depend on the lanes between, the verdict stands open, and the checks go on when its chain heads the queue. -/
def State.scanOne (s : State) (n : Nat) (w : Watch) (head : Bool) (a : Scan) (e : LqEntry) (op : Nat) (o : LaneOps) (act most : Mask)
    (latches : List Bool) : Option Verdict :=
  let open_ := act != most && e.beyond w most && !e.beyond w act
  match laneCause s w (!s.notMember n w e) (e.beyond w act) op o latches with
  | some c => if open_ && c != 0x02 && c != 0x03 then some .pass else some (.fail e { cause := c })
  | none =>
    if open_ then some .pass
    else match w.shortOf (fun q => q == .empty || q == .ended) a.pops op o act with
      | some q => some (.fail e { cause := 0x17, code := q })
      | none =>
        if (w.shortOf (fun _ => true) a.most op o most).isNone then none
        else match w.shortOf (fun _ => true) a.pops op o act with
          | some q => if head || (List.range w.width).all (fun l => decide ((w.queue q).left l ≤ 64)) then some .wait else some .pass
          | none => some .pass

/-- The checks of the rest of a block, whose first k instructions are the chain about to issue, in block order (04 R417; log 7). Which lanes
a later chain has active is known here only where nothing before it in the block changes that. -/
def State.scanBlock (s : State) (n : Nat) (w : Watch) : Nat → Scan → List LqEntry → Verdict
  | _, _, [] => .pass
  | k, a, e :: t =>
    if e.bad ≠ 0 then .fail e (e.badInfo w) else
    match e.parts with
    | none => .fail e { cause := 0x02 }
    | some (op, o) =>
      let latches := if e.pos = 0 then [] else a.latches
      let known := decide (0 < k) || (!a.off && !a.wrote.contains o.p.toNat)
      let act := if known then w.entryActive e else 0
      let most := if known then w.entryActive e else w.entryMask e
      match s.scanOne n w (decide (0 < k)) a e op o act most latches with
      | some v => v
      | none => s.scanBlock n w (k - 1)
          { latches := latches ++ [makesLatch op], pops := (addPops act o { pops := a.pops }).pops
            most := (addPops most o { pops := a.most }).pops
            wrote := a.wrote ++ pWrites op o, off := a.off || mayOff op o } t

/-- The checks of the block at the head of the queue, as its next chain would issue. -/
def State.headVerdict (s : State) (n : Nat) (w : Watch) : Verdict :=
  s.scanBlock n w w.headChain.length {} (w.lq.takeWhile fun e => e.blk == (w.lq.head?.getD {}).blk)

/-- A check fails before the next instruction issues (04 R417), or the chain pops an element whose fetch failed (08 R240; 09 R268), or an
XST in the middle of its chain finds its watch no longer in the crew (10 R285). -/
def State.headFails (s : State) (n : Nat) (w : Watch) : Bool :=
  if 0 < w.chainPos then s.notMember n w (w.lq[w.chainPos]?.getD {})
  else match s.headVerdict n w with
    | .fail _ _ => true
    | .wait => false
    | .pass => (w.badElem w.headChain).isSome
/-- The head instruction is ready (01 R20, R31), or its check fails. -/
def State.laneReady (s : State) (n : Nat) (w : Watch) : Bool :=
  s.isLive w && !w.lq.isEmpty &&
    (decide (0 < w.chainPos) || s.headFails n w || (s.headVerdict n w == .pass && w.chainReady w.headChain))

/-- The columns of a watch are free: no other watch's chain holds one (01 R20, R31). -/
def State.columnsFree (s : State) (n : Nat) (w : Watch) : Bool :=
  (s.core w.core).holds.all fun h => h == n || !((s.watch h).cols.any fun p => w.cols.contains p)

/-- The ages of the ready watches of a core go on; the others have none (01 R20). -/
def State.ageing (s : State) (core : Nat) : State :=
  { s with watches := s.watches.map fun x =>
      if x.2.core != core then x
      else (x.1, { x.2 with aged := if !s.laneReady x.1 x.2 then 0 else if x.2.aged = 0 then s.seq else x.2.aged }) }

/-- The oldest ready watch whose columns are free (01 R20). DESIGN CHOICE: of two of equal age, which the manual does not order, the one
with the lower watch number is taken (log 2). -/
def State.grantee (s : State) (core : Nat) : Option (Nat × Watch) :=
  (s.watches.filter fun x => x.2.core == core && decide (0 < x.2.aged) && s.columnsFree x.1 x.2).foldl
    (fun b x => match b with
      | none => some x
      | some y => if x.2.aged < y.2.aged then some x else some y) none

/-- A trap at the LX of an entry (08 R239, R240; 07 R222; 04 R94; log 7): the block's entries and the younger ones of its fragment
leave the queue, and the fragment stands at the LX with the signature of before it. -/
def State.lxTrap (s : State) (n : Nat) (e : LqEntry) (t : TrapInfo) : State :=
  let w := s.watch n
  let younger := w.lq.dropWhile fun x => x.blk != e.blk
  let kept := (w.lq.takeWhile fun x => x.blk != e.blk) ++ younger.filter fun x => x.blk != e.blk && x.ent != e.ent
  let f := w.entry e.ent
  let w := { w with lq := kept, chain := none }
  let w := if f.valid && !f.wait then w.setEntry e.ent { f with pc := e.lxPc, sig := e.sig } else w
  let s := (s.putWatch n w).unhold w.core n
  s.asWatch n (w.trapEnt e.ent) fun s => s.trap { t with lane := true, lanePc := e.index % 2 ^ 25 }

/-- The trap of a check that fails. -/
def State.failHead (s : State) (n : Nat) (w : Watch) : State :=
  if 0 < w.chainPos then s.lxTrap n (w.lq[w.chainPos]?.getD {}) { cause := 0x21 }
  else match s.headVerdict n w, w.badElem w.headChain with
    | .fail e t, _ => s.lxTrap n e t
    | .pass, some (.fault k a) => s.lxTrap n (w.lq.head?.getD {}) { cause := 0x1A, code := k, addr := a }
    | .pass, some (.uncor a) => s.lxTrap n (w.lq.head?.getD {}) { cause := 0x19, addr := a }
    | _, _ => s

/-- A marked element that lane l pops with an instruction (08 R240). -/
def Watch.marked (w : Watch) (c : Chain) (op : Nat) (o : LaneOps) (l : Nat) : Option (BitVec 4) :=
  (List.range 8).findSome? fun q =>
    ((((w.queue q).elems[l]?.getD []).drop (c.popsAt q l)).take (popsOf op o q)).findSome? fun x =>
      match x with
      | .off why => some why
      | _ => none

/-- The lanes that pop a marked element are switched off, and their pops are counted (08 R240). -/
def Watch.popMarked (w : Watch) (c : Chain) (e : LqEntry) : Watch × Chain :=
  match e.parts with
  | none => (w, c)
  | some (op, o) =>
    (lanesOf (w.entryActive e)).foldl (fun r l =>
      match r.1.marked r.2 op o l with
      | none => r
      | some why => (r.1.laneOff l why, addPops (oneLane l) o r.2)) (w, c)

/-- The registers that conflict in a chain (01 R34), from what each instruction reads and writes: what one writes and a later one
reads, what one reads and a later one writes, and what one but the last both reads and writes. -/
def conflicts : List (List Nat × List Nat) → List Nat
  | [] => []
  | (r, wr) :: t =>
    (if t.isEmpty then [] else wr.filter r.contains) ++ (t.flatMap fun x => x.1.filter wr.contains ++ x.2.filter r.contains) ++
      conflicts t
/-- What an entry reads and writes: V[n] as n, P[n] as 512 + n (01 R18). -/
def LqEntry.uses (w : Watch) (e : LqEntry) : List Nat × List Nat :=
  let flat (l : List (Nat × Nat)) : List Nat := l.flatMap fun r => (List.range r.2).map (r.1 + ·)
  match e.parts with
  | some (op, o) =>
    (flat (vReads w op o) ++ (pReads op o).map (512 + ·), flat (vWrites op o) ++ (pWrites op o).map (512 + ·))
  | none => ([], [])
/-- The registers that a restarted chain leaves undefined (01 R34): none where it keeps the rules. -/
def Watch.looseRegs (w : Watch) (c : List LqEntry) : List Nat :=
  if c.any (·.again) then (conflicts (c.map fun e => e.uses w)).eraseDups else []

/-- A register of a restarted chain that breaks the chain rules holds a free value (01 R34, 00 R7; log 16). `k` is the place in the
chain, 8 after its last instruction. -/
def Watch.loosen (w : Watch) (c : Chain) (k : Nat) : Watch :=
  c.loose.foldl (fun w r =>
    let free (l : Nat) : W32 := Config.free32 (((c.seed * 16 + k) * 1024 + r) * 64 + l)
    if r < 512 then w.setV r w.full (Vector.ofFn fun l => free l.val)
    else w.setP (BitVec.ofNat 4 r) ((free 1 ++ free 0) &&& w.full)) w

/-- Free values have been drawn (log 16). -/
def State.drawn (s : State) (n : Nat) : State := { s with free := s.free + n }

/-- The check of the atomic of an AMAX (05 R158; 06 R179), made as its chain completes and it issues (DEDUCED, log 78): a failure switches its lane off,
and no atomic is made. -/
def State.checkAmax (s : State) (w id : Nat) : State :=
  s.onOp w id fun x o => match o.accs.head? with
    | none => s
    | some a =>
      match s.checkAddr x a.pcn { atom := true, lane := some a.lane } a.addr with
      | some f => s.modWatch w fun x => { x.laneOff a.lane f.why with ops := x.ops.filter (·.id != id) }
      | none => s

/-- Its translation (12 R339, R340): while its page drains it waits for it (R345). -/
def State.placeAmax (s : State) (w id : Nat) : State :=
  s.onOp w id fun x o => match o.accs.head? with
    | none => s
    | some a =>
      let t := s.modWatch w fun x => x.modOp id fun o => { o with xf := true }
      match s.relocate x o a with
      | .ok b => s.modWatch w fun x => x.modOp id fun o => { o with accs := [b] }
      | .error (_, .fault c) => t.asyncTrap w o.ent { cause := 0x1A, code := c, addr := a.addr }
      | .error (_, .nonres) => t.pageFault w o.ent true a.pcn a.addr
      | .error _ => s

/-- The atomics of the AMAXs of a chain that has just completed issue; `first` is the number of the first operation since. -/
def State.issueAmax (s : State) (w first : Nat) : State :=
  let ids := ((s.watch w).ops.filter fun o => o.kind == .amax && decide (first ≤ o.id)).map (·.id)
  ids.foldl (fun s id => s.placeAmax w id) (ids.foldl (fun s id => s.checkAmax w id) s)

/-- What a lane instruction that completes its chain leaves once it has run: the atomics of its AMAXs issued (05 R158), and the undefined
registers of a restarted chain (01 R34). -/
def loosened (s : State) (o : Out) : Out :=
  if !s.lane.last then o
  else match o with
    | .next t =>
      let t := t.issueAmax s.cur s.next
      .next (if s.chain.loose.isEmpty then t else t.modWatch s.cur fun w => w.loosen s.chain 8)
    | .fault f => .fault f
    | .refused r => .refused r

/-- The column ports are granted to the oldest ready watch (01 R20), which then runs its head lane instruction in the same step. -/
def execLaneIssue (core : Nat) (s : State) : Out :=
  .next (
    let s := (s.ageing core).tick
    match s.grantee core with
    | none => s
    | some (n, w) =>
      if s.headFails n w then s.failHead n w
      else
        let pos := w.chainPos
        let e := w.lq[pos]?.getD {}
        let w := { w with aged := 0, off := if e.blk = w.offBlk then w.off else 0, offBlk := e.blk }
        let c := w.chain.getD { gen := w.gen, loose := w.looseRegs w.headChain, seed := s.free, off := w.off }
        let (w, c) := (w.loosen c pos).popMarked c e
        let s := (s.putWatch n { w with chain := some c }).modCore core
          fun k => { k with holds := k.holds.filter (· != n) ++ [n] }
        { s.drawn c.loose.length with
          cur := n, ent := e.ent, granted := true
          lane := { mask := w.entryMask e, sa := e.sa, sb := e.sb, sc := e.sc, ent := e.ent, index := e.index, pos := pos
                    last := pos + 1 == e.len, seq := e.seq } })

/-- The lane instruction that a grant runs. -/
def State.grantedInstr (s : State) : Instr := (s.cw.lq[s.lane.pos]?.getD {}).instr

/-! ## The interlocks of the control stream -/

/-- The entries of a fragment that may yet fail their checks: every lane of their masks counted, and an XST until it has issued
(04 R94; 10 R285). -/
def State.mayTrap (s : State) (w : Watch) (ent : Nat) : Bool :=
  w.lq.zipIdx.any fun p =>
    let e := p.1
    e.ent == ent && match e.parts with
      | none => true
      | some (op, o) =>
        let latches := ((w.lq.drop (p.2 - e.pos)).take e.pos).map fun x => makesLatch ((x.parts.map (·.1)).getD 0)
        let pops := ((w.lq.take p.2).foldl (fun c x => addPops x.mask (matOps x.instr) c) {}).pops
        e.bad != 0 || e.crew.isSome || (laneCause s w true (e.beyond w e.mask) op o latches).isSome ||
          (w.shortOf (fun _ => true) pops op o e.mask).isSome

/-- The operations in flight and those that a chain in progress has yet to put there (09 R261). -/
def Watch.heavyDue (w : Watch) : Nat := w.heavy + if w.chain.isSome then (w.headChain.filter LqEntry.isHeavy).length else 0

/-- STRM.GO takes effect at once (04 R117). -/
def isStrmGo (i : Instr) : Bool :=
  match i with
  | .strmGo _ => true
  | _ => false

/-- A block of a fragment in the queue is to fail its checks as things stand (04 R94): the head block before its next chain issues, and what
is known of the others whatever goes before them. -/
def State.blockDue (s : State) (n : Nat) (w : Watch) (ent : Nat) : Bool :=
  let head := (w.lq.head?.getD {}).blk
  ((w.lq.filter (·.ent == ent)).map (·.blk)).eraseDups.any fun b =>
    let es := w.lq.filter (·.blk == b)
    match if b = head && w.chain.isNone then s.headVerdict n w
      else s.scanBlock n w 0 { off := true, most := (w.lq.foldl (fun c x => addPops x.mask (matOps x.instr) c) {}).pops }
        (if b = head then es.drop w.headChain.length else es) with
    | .fail _ _ => true
    | _ => false

/-- A control instruction of the executing fragment waits (01 R18; 04 R92 to R94; 09 R261, R273). STRM.GO takes effect at once (04 R117), but
not before a block that is to fail (R94). -/
def State.stalled (s : State) (i : Instr) : Bool :=
  let w := s.cw
  (w.busyS.any fun r => r != 0 && (controlS i).contains r) || w.waitsForLanes i || (isHeavy i && decide (15 ≤ w.heavyDue)) ||
    (w.pair.any fun p => !p.placed || (!p.leads && p.ended)) || (if isStrmGo i then s.blockDue s.cur w s.ent else s.mayTrap w s.ent)

end Sys2Proof.Machine
end

