-- ==== Sys2Proof/Machine/Copy.lean ====
section
/-! DEFINITION. The engines of a core: the tensor copy engine (08 R223 to R233), WLOAD (07 R205, R206), the range-lock tables (08 R234,
R235), and the staging slot table (R242 to R245). -/

namespace Sys2Proof.Machine

/-! ## What engine commands share -/

/-- The barrier object of an engine command, checked as ABAR.ARRIVE checks it but for ABAROVER (09 R258); none with NOBAR. -/
def State.withObject (s : State) (nb : Bool) (b : Reg) (k : Option Nat → State) : State :=
  if nb then k none
  else match s.objectAt s.cw (s.sreg b) with
    | .error cause => s.trap { cause := cause, addr := s.sreg b }
    | .ok key => if s.objectHeld key then s
      else if objMarked (s.readN key 16) then k (some key) else s.trap { cause := 0x23, addr := s.sreg b }

/-- Words 0 and 1 of a 64-bit control instruction. -/
def cmdWords (i : Instr) : W32 × W32 :=
  match encodeControl i with
  | some w => (packFields w.f, w.w1)
  | none => (0, 0)

/-- An engine command issues (08 R224): it waits for the release, then counts on path 9 until it is accepted. -/
def State.issueCmd (s : State) (i : Instr) (r : Ord) (sc : Scope) (c : Cmd) (d : Nat) : State :=
  if !s.released r sc || !s.cw.pathRoom [9] then s
  else
    let w := cmdWords i
    (s.addOp { kind := .engine, paths := [9], ent := s.ent, at_ := s.frag.pc.toNat, d := d, ord := .rlx, scope := sc
               cmd := { c with w0 := w.1, w1 := w.2 } }).finish i

/-- An engine takes a command that waits on path 9: the job it becomes. -/
def State.jobOf (s : State) (w : Nat) (x : Watch) (o : Op) : Job :=
  { id := s.next, w := w, ctx := x.ctx, core := x.core, pcn := x.home, cmd := o.cmd, scope := o.scope, launch := x.launch }

/-- The command is accepted: path 9 falls (06 R181). -/
def State.accepted (s : State) (w op : Nat) : State := (s.modWatch w fun x => x.finishOp op).bump

/-- Act on a command of one major that waits to be accepted. -/
def State.onCmd (s : State) (maj w op : Nat) (k : Watch → Op → State) : State :=
  s.onOp w op fun x o => if o.kind == .engine && o.cmd.maj == maj then k x o else s

/-! ## Range locks -/

/-- Two ranges conflict: they overlap and one is of kind write (08 R235). -/
def Lock.conflicts (a b : Lock) : Bool :=
  a.ctx == b.ctx && a.tag == b.tag && decide (a.lo < b.hi ∧ b.lo < a.hi) && (a.write || b.write)

/-- Every entry of a command can be had (08 R234, R235): ranges with their columns. -/
def State.locksFree (s : State) (l : List (Nat × Lock)) : Bool :=
  l.all fun p =>
    let c := s.column p.1
    decide (c.locks.length + (l.filter fun q => q.1 == p.1).length ≤ 32) && !c.locks.any fun k => p.2.conflicts k

/-- Register ranges (08 R234). -/
def State.takeLocks (s : State) (l : List (Nat × Lock)) : State :=
  l.foldl (fun s p => s.modColumn p.1 fun c => { c with locks := c.locks ++ [p.2] }) s

/-- Release the ranges of a command (08 R234). -/
def State.freeLocks (s : State) (owner : Nat) : State :=
  { s with columns := Tbl.mapV s.columns fun c => { c with locks := c.locks.filter fun k => k.owner != owner } }

/-! ## The copy descriptor -/

/-- The fields of a copy descriptor (08 R225), from its eight words. -/
def cdBits (d : List Word) (lo n : Nat) : Nat := ((d[lo / 64]?.getD 0).toNat >>> (lo % 64)) % 2 ^ n
def cdSrc (d : List Word) : Word := d[0]?.getD 0
def cdDst (d : List Word) : Word := d[1]?.getD 0
def cdSpitch (d : List Word) : Nat := cdBits d 128 32
def cdDpitch (d : List Word) : Nat := cdBits d 160 32
def cdRows (d : List Word) : Nat := cdBits d 192 16
def cdKlen (d : List Word) : Nat := cdBits d 208 16
def cdType (d : List Word) : B4 := BitVec.ofNat 4 (cdBits d 224 4)
def cdForm (d : List Word) : Nat := cdBits d 228 2
def cdDir (d : List Word) : Bool := cdBits d 230 1 == 1
def cdDist (d : List Word) : Nat := cdBits d 231 2
def cdKsCode (d : List Word) : Nat := cdBits d 233 2
def cdKs (d : List Word) : Nat := 32 <<< cdKsCode d
def cdG (d : List Word) : Nat := 16 <<< cdBits d 235 2
def cdNolkd (d : List Word) : Bool := cdBits d 237 1 == 1
def cdMscl (d : List Word) : Word := d[4]?.getD 0
def cdBscl (d : List Word) : Word := d[5]?.getD 0
def cdMspitch (d : List Word) : Nat := cdBits d 384 16
def cdBspitch (d : List Word) : Nat := cdBits d 400 16
def cdRow0 (d : List Word) : Nat := cdBits d 416 32
def cdBlk (d : List Word) : Nat := cdBits d 448 32

/-- The canonical side and the storage side (08 R226), and SB (R228). -/
def cdCanon (d : List Word) : Word := if cdDir d then cdSrc d else cdDst d
def cdStore (d : List Word) : Word := if cdDir d then cdDst d else cdSrc d
def cdBlock (d : List Word) : Nat := blockBytes (cdType d) (cdRows d) (cdKs d) (cdG d)
/-- The bytes of the canonical side. -/
def cdExtent (d : List Word) : Nat := cdKlen d / cdKs d * cdBlock d

/-- The alignment of the storage side (08 R226). -/
def cdAlign (d : List Word) : Nat := if tyWidth (cdType d) = 16 then 2 else 1

/-- A reserved field, or a field that the form does not use, is not zero; or a field lies outside its range (08 R225, R230). DESIGN CHOICE: form 0
uses no scale field, whatever its type (log 81). -/
def cdFieldsBad (d : List Word) : Bool :=
  let f := cdForm d
  let t := cdType d
  let sc := isScaled t
  let micro := isMicro t
  cdBits d 238 18 != 0 || (f == 0 && cdSpitch d != 0) || (f != 3 && cdDpitch d != 0) ||
  ((f == 0 || f == 3) && cdDir d) || cdDist d == 3 || (cdDist d != 0 && f != 1) || cdKsCode d == 3 ||
  (cdDist d == 0 && cdRow0 d != 0) || (cdDist d != 1 && cdBlk d != 0) || (cdDist d == 1 && cdBlk d == 0) ||
  (if f = 3 then
    cdRows d == 0 || cdKlen d == 0 || t != 0 || cdKsCode d != 0 || cdBits d 235 2 != 0 || cdMscl d != 0 || cdBscl d != 0 ||
      cdMspitch d != 0 || cdBspitch d != 0
  else
    !(t == 1 || t == 2 || t == 3 || t == 4 || t == 5 || t == 8) || cdRows d % 8 != 0 || cdRows d == 0 || decide (64 < cdRows d) ||
      cdKlen d == 0 || cdKlen d % cdKs d != 0 || (!sc && cdBits d 235 2 != 0) || (micro && cdKs d == 32) ||
      (if f = 0 ∨ !sc then cdMscl d != 0 || cdBscl d != 0 || cdMspitch d != 0 || cdBspitch d != 0
      else cdBscl d == 0 || (if micro then cdMscl d == 0 || cdBspitch d != 0 else cdMscl d != 0 || cdMspitch d != 0)))

/-- The tags that the form admits, source then destination (08 R226). -/
def cdTagsOk (d : List Word) : Bool :=
  let st := tagOf (cdSrc d)
  let dt := tagOf (cdDst d)
  if cdForm d = 0 ∨ cdForm d = 3 then decide (st ≤ 2 ∧ dt ≤ 3)
  else if cdDir d then (st == 1 || st == 2) && dt == 0
  else st == 0 && decide (1 ≤ dt ∧ dt ≤ 3)

/-- The alignments (08 R226). -/
def cdAligned (d : List Word) : Bool :=
  match cdForm d with
  | 0 => offOf (cdSrc d) % 256 == 0 && offOf (cdDst d) % 256 == 0
  | 3 => true
  | _ => offOf (cdCanon d) % 256 == 0 && offOf (cdStore d) % cdAlign d == 0 && cdSpitch d % cdAlign d == 0

/-- The column of an engine's address: a scratchpad address names one of the core's columns, a global one any LCN (08 R226). A hole is a
column like another at issue (R230). -/
def State.engineCol (s : State) (w : Watch) (a : Word) : Option Nat :=
  let p := if colOf a = 0x3FF then some w.home else (s.ctx w.ctx).cols[colOf a]?
  if tagOf a = 0 then p else p.filter fun p => coreOfCol p == w.core

/-- The bytes that a side of the copy runs over from its address (08 R226, R227). -/
def cdRun (d : List Word) (dst : Bool) : Nat :=
  if cdForm d = 3 then (cdRows d - 1) * (if dst then cdDpitch d else cdSpitch d) + cdKlen d else cdExtent d

/-- The checks of a scratchpad side (08 R230). -/
def State.scratchBad (s : State) (w : Watch) (desc a : Word) (n : Nat) : Bool :=
  if tagOf a = 0 then false
  else match s.engineCol w a with
    | none => true
    | some p =>
      let l := s.layout w.ctx p
      if ((s.ctx w.ctx).pcnLive ((s.ctx w.ctx).lcn p)).isNone then false
      else if tagOf a = 1 then
        decide (l.scratch < offOf a + n) ||
          (some p == s.coreColumn w desc && decide (offOf a < offOf desc + 64 ∧ offOf desc < offOf a + n))
      else decide (l.window < offOf a + n) || l.window == 0 || (tagOf a == 2 && !l.init)

/-- The checks of R230. DESIGN CHOICE: an LCN beyond the context's columns is a field outside its range (log 82). -/
def State.copyBad (s : State) (w : Watch) (at_ : Word) (d : List Word) : Bool :=
  let top (a : Word) : Bool := a.extractLsb' 56 8 != 0
  let glob (a : Word) : Bool := a != 0 && (top a || tagOf a != 0 || (s.engineCol w a).isNone)
  cdFieldsBad d || top (cdSrc d) || top (cdDst d) || !cdTagsOk d || !cdAligned d || glob (cdMscl d) || glob (cdBscl d) ||
    (cdDist d == 0 && (s.engineCol w (cdStore d)).isNone) || (s.engineCol w (cdCanon d)).isNone ||
    s.scratchBad w at_ (cdSrc d) (cdRun d false) || s.scratchBad w at_ (cdDst d) (cdRun d true)

/-! ## The bytes that a copy moves -/

/-- A place that an engine names: its tag, its LCN (as `State.moves` finds it), its PCN and its offset. -/
structure Pl where
  tag : Nat := 0
  pos : Nat := 0
  pcn : Nat := 0
  off : Nat := 0
  deriving DecidableEq, Repr

/-- A move of a byte (part 0), or of a half byte (1 low, 2 high); without a source, zero is written. -/
structure Move where
  dst : Pl
  dpart : Nat := 0
  src : Option Pl := none
  spart : Nat := 0
  deriving DecidableEq, Repr

/-- The place at a displacement from an address in a column. -/
def placeAt (a : Word) (pcn n : Nat) : Pl := { tag := tagOf a, pcn := pcn, off := (offOf a + n) % 2 ^ 42 }

/-- The column that an engine's address names in a job: 0x3FF is the issuing watch's home column (08 R226). -/
def State.jobCol (s : State) (j : Job) (a : Word) : Nat := if colOf a = 0x3FF then j.pcn else ((s.ctx j.ctx).cols[colOf a]?).getD j.pcn

/-- Where row r of an array of the storage side lies (08 R227): `l` is L as PCNs. DESIGN CHOICE: a column-blocked row beyond the last
column of L lies in the column 1023, which no device has (06 R173; log 68). -/
def rowPlace (d : List Word) (l : List Nat) (col : Nat) (a : Word) (pitch r : Nat) : Pl :=
  let i := cdRow0 d + r
  let m := l.length
  match cdDist d with
  | 0 => placeAt a col (r * pitch)
  | 1 => placeAt a (l[i / cdBlk d]?.getD 1023) (i % cdBlk d * pitch)
  | _ => placeAt a (l[i % m]?.getD 1023) (i / m * pitch)

/-- A place further on in its row. -/
def Pl.plus (p : Pl) (n : Nat) : Pl := { p with off := (p.off + n) % 2 ^ 42 }

/-- A move between the storage side and the canonical side (08 R226). -/
def move (dir : Bool) (st : Pl) (sp : Nat) (ca : Pl) (cp : Nat) : Move :=
  if dir then { dst := st, dpart := sp, src := some ca, spart := cp } else { dst := ca, dpart := cp, src := some st, spart := sp }

/-- The moves of element (r, k) of forms 1 and 2 (08 R227, R228). -/
def elemMoves (d : List Word) (l : List Nat) (sc cc r k : Nat) : List Move :=
  let t := cdType d
  let w := tyWidth t
  let ks := cdKs d
  let (b, bit) := canonByte t ks r (k % ks)
  let ca := placeAt (cdCanon d) cc (k / ks * cdBlock d + b)
  let row := cdForm d == 1
  let st := if row then (rowPlace d l sc (cdStore d) (cdSpitch d) r).plus (k * w / 8)
    else placeAt (cdStore d) sc (k * cdSpitch d + r * w / 8)
  if w = 4 then [move (cdDir d) st (1 + (if row then k else r) % 2) ca (1 + bit / 4)]
  else (List.range (w / 8)).map fun i => move (cdDir d) (st.plus i) 0 (ca.plus i) 0

/-- The canonical place of byte x of block b. -/
def blockPlace (d : List Word) (cc b x : Nat) : Pl := placeAt (cdCanon d) cc (b * cdBlock d + x)

/-- The moves of the micro-scales of a block (08 R227, R229). -/
def microMoves (d : List Word) (l : List Nat) (mc cc b : Nat) : List Move :=
  let n := cdRows d
  let ks := cdKs d
  if !isMicro (cdType d) then [] else
  (List.range n).flatMap fun r => (List.range (ks / 8)).map fun m =>
    move (cdDir d) ((rowPlace d l mc (cdMscl d) (cdMspitch d) r).plus (b * (ks / 8) + m)) 0
      (blockPlace d cc b (canonMicro n ks r m (cdType d))) 0

/-- The moves of the band scales or the block scales of a block (08 R227, R229). -/
def bandMoves (d : List Word) (l : List Nat) (bc cc b : Nat) : List Move :=
  let t := cdType d
  let n := cdRows d
  let ks := cdKs d
  let g := cdG d
  let grp (h : Nat) : Nat := (b * ks + h * min g ks) / g
  if isMicro t then
    (List.range (nbOf ks g)).flatMap fun h => (List.range 2).map fun i =>
      move (cdDir d) (placeAt (cdBscl d) bc (2 * grp h + i)) 0 (blockPlace d cc b (canonBand n ks h t + i)) 0
  else if isFp8 t then
    (List.range n).flatMap fun r => (List.range (nbOf ks g)).map fun h =>
      move (cdDir d) ((rowPlace d l bc (cdBscl d) (cdBspitch d) r).plus (grp h)) 0 (blockPlace d cc b (canonScale n ks g r h t)) 0
  else []

/-- The padding that expansion writes as zero (08 R229). -/
def padMoves (d : List Word) (cc b : Nat) : List Move :=
  let t := cdType d
  let n := cdRows d
  let ks := cdKs d
  let used := n * ks * tyWidth t / 8 +
    (if isMicro t then n * ks / 8 + 2 * nbOf ks (cdG d) else if isFp8 t then n * nbOf ks (cdG d) else 0)
  if cdDir d then [] else
    (List.range (cdBlock d - used)).map fun i => { dst := placeAt (cdCanon d) cc (b * cdBlock d + used + i) }

/-- The moves of a copy (08 R227 to R229): the bytes or elements, the micro-scales, the other scales, the padding. -/
structure Moves where
  main : List Move := []
  micro : List Move := []
  band : List Move := []
  pad : List Move := []
  deriving DecidableEq, Repr

def State.moveParts (s : State) (j : Job) : Moves :=
  let d := j.cmd.desc
  let l := j.cmd.extra
  let sc := s.jobCol j (cdSrc d)
  let dc := s.jobCol j (cdDst d)
  let rows := List.range (cdRows d)
  match cdForm d with
  | 0 => { main := (List.range (cdExtent d)).map fun i => { dst := placeAt (cdDst d) dc i, src := some (placeAt (cdSrc d) sc i) } }
  | 3 => { main := rows.flatMap fun r => (List.range (cdKlen d)).map fun i =>
      { dst := placeAt (cdDst d) dc (r * cdDpitch d + i), src := some (placeAt (cdSrc d) sc (r * cdSpitch d + i)) } }
  | _ =>
    let st := if cdDir d then dc else sc
    let ca := if cdDir d then sc else dc
    let blocks := List.range (cdKlen d / cdKs d)
    { main := rows.flatMap fun r => (List.range (cdKlen d)).flatMap fun k => elemMoves d l st ca r k
      micro := blocks.flatMap fun b => microMoves d l (s.jobCol j (cdMscl d)) ca b
      band := blocks.flatMap fun b => bandMoves d l (s.jobCol j (cdBscl d)) ca b
      pad := blocks.flatMap fun b => padMoves d ca b }

/-- The LCN of each PCN that a list of moves writes to; a column outside the context comes last. -/
def State.moveLcns (s : State) (c : Context) (l : List Move) : Tbl Nat :=
  l.foldl (fun t x => if (Tbl.find t x.dst.pcn).isSome then t
    else Tbl.put t x.dst.pcn (if c.cols.contains x.dst.pcn then c.lcn x.dst.pcn else 1023)) []

/-- Every move of a copy. -/
def State.moves (s : State) (j : Job) : List Move :=
  let m := s.moveParts j
  let l := m.main ++ m.micro ++ m.band ++ m.pad
  let t := s.moveLcns (s.ctx j.ctx) l
  l.map fun x => { x with dst := { x.dst with pos := Tbl.getD t x.dst.pcn 1023 } }

/-- The order of destination sectors (08 R232): the ascending order of addresses, the column before the offset, which is the order in L of
the columns that a compaction writes into. -/
def Pl.sector (p : Pl) : Nat × Nat × Nat := (p.pos, p.pcn, p.off / 32)
def sectorLt (a b : Nat × Nat × Nat) : Bool :=
  decide (a.1 < b.1) || (a.1 == b.1 && (decide (a.2.1 < b.2.1) || (a.2.1 == b.2.1 && decide (a.2.2 < b.2.2))))
def insertSector (x : Nat × Nat × Nat) : List (Nat × Nat × Nat) → List (Nat × Nat × Nat)
  | [] => [x]
  | y :: t => if x = y then y :: t else if sectorLt x y then x :: y :: t else y :: insertSector x t
def sectorsOf (m : List Move) : List (Nat × Nat × Nat) := m.foldl (fun l x => insertSector x.dst.sector l) []

/-- The bounding sector extents of a list of places, one for each column (08 R234). -/
def lockRanges (ctx owner : Nat) (write : Bool) (ps : List Pl) : List (Nat × Lock) :=
  (ps.foldl (fun (t : List (Nat × Lock)) p =>
    match Tbl.find t p.pcn with
    | none => Tbl.put t p.pcn { ctx := ctx, tag := p.tag, lo := p.off / 32 * 32, hi := p.off / 32 * 32 + 32, write := write, owner := owner }
    | some k => Tbl.put t p.pcn { k with lo := min k.lo (p.off / 32 * 32), hi := max k.hi (p.off / 32 * 32 + 32) }) []).filter
    fun p => decide (p.1 < 1024)

/-- The ranges that a TCOPY registers (08 R234): its source, its destination unless NOLKD is set, and each scale array. The scale
panels of the canonical side belong to that side's range. -/
def State.copyLocks (s : State) (j : Job) : List (Nat × Lock) :=
  let d := j.cmd.desc
  let m := s.moveParts j
  let all := m.main ++ m.micro ++ m.band ++ m.pad
  let src := if cdDir d then all.filterMap (·.src) else m.main.filterMap (·.src)
  let dst := if cdDir d then m.main.map (·.dst) else all.map (·.dst)
  let stored (l : List Move) : List Pl := if cdDir d then l.map (·.dst) else l.filterMap (·.src)
  lockRanges j.ctx j.id false src ++ (if cdNolkd d then [] else lockRanges j.ctx j.id true dst) ++
    lockRanges j.ctx j.id (cdDir d) (stored m.micro) ++ lockRanges j.ctx j.id (cdDir d) (stored m.band)

/-- The range that a WLOAD registers (07 R205). -/
def Job.wloadLock (j : Job) : List (Nat × Lock) :=
  let v (i : Nat) : Nat := j.cmd.extra[i]?.getD 0
  [(v 1, { ctx := j.ctx, tag := v 0, lo := v 2, hi := v 2 + 32 * v 4, write := false, owner := j.id })]

/-- The fields of an auction descriptor (10 R298). -/
def adScore (d : List Word) : Word := d[0]?.getD 0
def adOut (d : List Word) : Word := d[1]?.getD 0
def adPrice (d : List Word) : Word := d[2]?.getD 0
def adCap (d : List Word) : Word := d[3]?.getD 0
def adEps (d : List Word) : Nat := cdBits d 256 32
def adRlim (d : List Word) : Nat := cdBits d 288 16
def adSpitch (d : List Word) : Nat := cdBits d 304 16
def adRows (d : List Word) : Nat := cdBits d 320 6 + 1
def adCols (d : List Word) : Nat := cdBits d 326 6 + 1
def adPinit (d : List Word) : Bool := cdBits d 332 1 == 1

/-- The areas of an auction: address and length (10 R298). -/
def adAreas (d : List Word) : List (Word × Nat) :=
  [(adScore d, (adRows d - 1) * adSpitch d + 4 * adCols d), (adCap d, adCols d)] ++
    (if adPinit d then [(adPrice d, 4 * adCols d)] else [])

/-- The ranges that an auction registers (10 R297). -/
def State.auctLocks (s : State) (j : Job) : List (Nat × Lock) :=
  let r (a : Word) (n : Nat) (write : Bool) : Nat × Lock :=
    (s.jobCol j a, { ctx := j.ctx, tag := 1, lo := offOf a / 32 * 32, hi := ceilDiv (offOf a + n) 32 * 32, write := write, owner := j.id })
  (adAreas j.cmd.desc).map (fun a => r a.1 a.2 false) ++ [r (adOut j.cmd.desc) 328 true]

/-- The engine of a command has room (08 R223; 10 R297). -/
def State.engineRoom (s : State) (x : Watch) (maj : Nat) : Bool :=
  if maj = 0x30 then decide ((s.core x.core).copies.length < 16)
  else if maj = 0x34 then decide ((s.cluster (clusterOfCore x.core)).auct.length < 4)
  else true

/-- The ranges of a command that registers ranges as it is accepted (08 R234). -/
def State.cmdLocks (s : State) (maj : Nat) (j : Job) : List (Nat × Lock) :=
  if maj = 0x30 then s.copyLocks j else if maj = 0x31 then j.wloadLock else if maj = 0x34 then s.auctLocks j else []

/-- A destination that a copy does not register must still not meet another command's range (08 R235). -/
def State.nolkdRanges (s : State) (maj : Nat) (j : Job) : List (Nat × Lock) :=
  if maj = 0x30 ∧ cdNolkd j.cmd.desc then
    let m := s.moveParts j
    lockRanges j.ctx j.id true ((if cdDir j.cmd.desc then m.main else m.main ++ m.micro ++ m.band ++ m.pad).map (·.dst))
  else []

/-- A waiting command could be accepted now (08 R234, R235). -/
def State.acceptable (s : State) (w : Nat) (x : Watch) (o : Op) : Bool :=
  let j := s.jobOf w x o
  s.engineRoom x o.cmd.maj && s.locksFree (s.cmdLocks o.cmd.maj j) &&
    (s.nolkdRanges o.cmd.maj j).all fun p => !(s.column p.1).locks.any fun k => p.2.conflicts k

/-- A command that waits to register ranges. -/
def Op.waitsLocks (o : Op) : Bool := !o.done && o.kind == .engine && (o.cmd.maj == 0x30 || o.cmd.maj == 0x31 || o.cmd.maj == 0x34)

/-- When a command became acceptable, as far as it is known (08 R234): a command not looked at yet was acceptable from its issue. -/
def State.ripeAt (s : State) (w : Nat) (x : Watch) (o : Op) : Nat :=
  if !s.acceptable w x o then 1 else if o.ripe = 0 then o.seq + 2 else if o.ripe = 1 then s.seq + 2 else o.ripe

/-- A run that waits to start could register its ranges now (08 R234; 15 R404), and every Tender of its strands takes its command (15 R395). -/
def State.startable (s : State) (r : Run) : Bool :=
  s.locksFree r.locks && !r.strands.any fun x => 64 ≤ s.queuedOn (tenderOf x.col)

/-- When a run that waits to start became acceptable, in the same way. -/
def State.runRipeAt (s : State) (r : Run) : Nat :=
  if !s.startable r then 1 else if r.ripe = 0 then r.at_ + 2 else if r.ripe = 1 then s.seq + 2 else r.ripe

/-- The moments at which the waiting commands became acceptable, as of now (08 R234). -/
def State.ripen (s : State) : State :=
  { s with
    watches := s.watches.map fun x => (x.1, if x.2.ops.any Op.waitsLocks then
      { x.2 with ops := x.2.ops.map fun o => if o.waitsLocks then { o with ripe := s.ripeAt x.1 x.2 o } else o } else x.2)
    starts := s.starts.map fun r => { r with ripe := s.runRipeAt r } }

/-- A command that became acceptable before a moment has a range in one of the columns (08 R234). -/
def before (ripe mine : Nat) (locks : List (Nat × Lock)) (cols : List Nat) : Bool :=
  decide (1 < ripe ∧ ripe < mine) && locks.any fun l => cols.contains l.1

/-- Another command, or a run, that became acceptable earlier, with a range in one of the same columns, goes first (08 R234). -/
def State.overtakes (s : State) (id mine : Nat) (cols : List Nat) : Bool :=
  (s.watches.any fun y => s.isLive y.2 && y.2.ops.any fun p =>
    p.waitsLocks && p.id != id && before (s.ripeAt y.1 y.2 p) mine (s.cmdLocks p.cmd.maj (s.jobOf y.1 y.2 p)) cols) ||
  s.starts.any fun r => r.id != id && before (s.runRipeAt r) mine r.locks cols

/-- An engine command, or a run that waits to start, is not the next in that order. -/
def State.outranked (s : State) (w : Nat) (x : Watch) (o : Op) : Bool :=
  s.overtakes o.id (s.ripeAt w x o) ((s.cmdLocks o.cmd.maj (s.jobOf w x o)).map (·.1))
def State.runOutranked (s : State) (r : Run) : Bool := s.overtakes r.id (s.runRipeAt r) (r.locks.map (·.1))

/-- A command registers its ranges, or releases them: the others' moments are settled before and after (08 R234). -/
def State.register (s : State) (l : List (Nat × Lock)) : State := (s.ripen.takeLocks l).ripen
def State.unregister (s : State) (owner : Nat) : State := (s.ripen.freeLocks owner).ripen

/-! ## TCOPY -/

/-- TCOPY (08 R224). -/
def execTcopy (a b : Reg) (nb : Bool) (sc : Scope) (s : State) : Out :=
  let at_ := s.sreg a
  .next (s.unpaired (s.access { size := 64, align := 64, tags := [1] } at_ fun acc => s.reading acc 64 fun v =>
    let d := wordsOf 8 v
    if s.copyBad s.cw at_ d then s.trap { cause := 0x16, addr := at_ }
    else s.withObject nb b fun obj =>
      s.issueCmd (.tcopy a b nb sc) .rel sc
        { maj := 0x30, a := at_, b := s.sreg b, desc := d, obj := obj, extra := (s.ctx s.cw.ctx).liveCols } 0))

/-- The engine accepts a TCOPY once it has room and every lock entry (08 R223, R234). -/
def execTcopyAccept (w op : Nat) (s : State) : Out :=
  .next (s.onCmd 0x30 w op fun x o =>
    let j := s.jobOf w x o
    if !s.acceptable w x o || s.outranked w x o then s
    else ((s.accepted w op).register (s.copyLocks j)).modCore x.core fun c => { c with copies := c.copies ++ [j] })

/-- The place of an engine's byte now, or why there is none (08 R231; 12 R339). -/
def State.placeKey (s : State) (j : Job) (p : Pl) (store : Bool) : XRes :=
  if (s.ctx j.ctx).pcnLive ((s.ctx j.ctx).lcn p.pcn) = none then .fault 0x12
  else if p.tag = 0 then s.engineXlate j.ctx p.pcn p.off store
  else .ok (s.keyNow j.ctx { pcn := p.pcn, addr := BitVec.ofNat 64 (p.tag <<< 52 + p.off), key := memKey .plain j.ctx p.pcn p.off }) false

/-- The first place of a list that does not answer with a key. -/
def State.firstXres (s : State) (j : Job) (store : Bool) (ps : List Pl) : Option (Pl × XRes) :=
  ps.findSome? fun p => match s.placeKey j p store with
    | .ok _ _ => none
    | r => some (p, r)

/-- The number of the sector that a place lies in. -/
def Pl.sectorNo (p : Pl) : Nat := (p.tag * 1024 + p.pcn) * 2 ^ 40 + p.off / 32

/-- The source sectors of a list of places are read whole, unless the copy has read them already (08 R232, R236). -/
def State.readSources (s : State) (j : Job) (ps : List Pl) : Job :=
  ps.foldl (fun j p =>
    if (Tbl.find j.reads p.sectorNo).isSome then j
    else match s.placeKey j p false with
      | .ok key _ => { j with reads := Tbl.put j.reads p.sectorNo (s.colBytes p.pcn (key - p.off % 32) 32) }
      | _ => j) j

/-- The byte that the copy read at a place. -/
def Job.byteRead (j : Job) (p : Pl) : Nat := ((((Tbl.find j.reads p.sectorNo).getD [])[p.off % 32]?).map (·.toNat)).getD 0

/-- A part of a byte, and a byte with a part replaced. -/
def partOf (b part : Nat) : Nat := if part = 1 then b % 16 else if part = 2 then b / 16 else b
def withPart (b part v : Nat) : Nat := if part = 1 then b / 16 * 16 + v else if part = 2 then b % 16 + 16 * v else v

/-- Write one byte or half byte of a destination sector; the places are those of `t`. -/
def State.applyMove (t : State) (j : Job) (s : State) (m : Move) : State :=
  match t.placeKey j m.dst true with
  | .ok key _ =>
    let v := match m.src with
      | some p => partOf (j.byteRead p) m.spart
      | none => 0
    s.colWrite m.dst.pcn key (leBytes 1 (withPart (s.colByte m.dst.pcn key).toNat m.dpart v))
  | _ => s

/-- Change a copy job of a core. -/
def State.modCopy (s : State) (core id : Nat) (f : Job → Job) : State :=
  s.modCore core fun c => { c with copies := modifyFirst (·.id == id) f c.copies }

/-- An engine's byte that does not translate (08 R231; 12 R339): the command waits for the MMP, or fails with a code. -/
def State.engineMiss (s : State) (j : Job) (p : Pl) (r : XRes) (hole xl : Nat) (fail : Nat → State) : State :=
  match r with
  | .fault 0x12 => fail hole
  | .fault _ => fail xl
  | .nonres =>
    if s.waits.any (·.job == j.id) then s
    else s.addWait { ctx := j.ctx, pcn := p.pcn, off := p.off, job := j.id, addr := (s.ctx j.ctx).addrOf p.pcn p.off }
  | _ => s

/-- A place of a copy lies in a range of another command (08 R235). -/
def State.placeLocked (s : State) (j : Job) (store : Bool) (p : Pl) : Bool := s.lockWaits j.id j.ctx p.pcn p.tag p.off 1 store

/-- A destination sector of a copy is written as one unit, from source sectors each read at one point (08 R231, R232), once no range of another
command holds it up (R235). -/
def execTcopySectorWrite (core k : Nat) (s : State) : Out :=
  .next (match (s.core core).copies[k]? with
    | none => s
    | some j =>
      let m := s.moves j
      match if j.fail = 0 then (sectorsOf m)[j.step]? else none with
      | none => s
      | some sec =>
        let mine := m.filter fun x => x.dst.sector == sec
        let src := (mine.filterMap (·.src)).filter fun p => (Tbl.find j.reads p.sectorNo).isNone
        let dst := mine.map (·.dst)
        match (s.firstXres j false src).or (s.firstXres j true dst) with
        | some (p, r) => s.engineMiss j p r 2 3 fun c => s.modCopy core j.id fun j => { j with fail := c }
        | none =>
          if src.any (s.placeLocked j false) || dst.any (s.placeLocked j true) then s
          else
            let i := s.readSources j src
            (mine.foldl (s.applyMove i) s).modCopy core j.id fun j => { j with step := j.step + 1, reads := i.reads })

/-- The place of a tag-1 address of a job. -/
def State.scratchKey (s : State) (j : Job) (a : Word) : Nat := memKey .plain j.ctx (s.jobCol j a) (offOf a)

/-- A copy completes or fails (08 R231, R234): STAT is written, the ranges are released, the object is signalled. -/
def execTcopyComplete (core k : Nat) (s : State) : Out :=
  .next (match (s.core core).copies[k]? with
    | none => s
    | some j =>
      if j.fail = 0 ∧ j.step < (sectorsOf (s.moves j)).length then s
      else if s.lockWaits j.id j.ctx (s.jobCol j j.cmd.a) 1 (offOf j.cmd.a + 56) 8 true then s
      else
        let code := if j.fail = 0 then 1 else j.fail
        let t := s.writeN (s.scratchKey j j.cmd.a + 60) 4 (code + (min 0xFFFFFF j.step) <<< 8)
        let t := (t.modCore core fun c => { c with copies := c.copies.filter (·.id != j.id) }).unregister j.id
        t.engineArrive j.cmd.obj (j.fail != 0))

/-! ## WLOAD -/

/-- WLOAD (07 R205). -/
def execWload (wn : Bool) (a b : Reg) (dst : Byte) (n : I12) (nb : Bool) (sc : Scope) (s : State) : Out :=
  let v := s.sreg a
  let w := s.cw
  let bad (c : Nat) : State := s.trap { cause := c, addr := v }
  .next (s.unpaired (
    if v.extractLsb' 56 8 ≠ 0 ∨ (tagOf v ≠ 1 ∧ tagOf v ≠ 2) then bad 0x10
    else match s.coreColumn w v with
      | none => bad 0x11
      | some p =>
        let l := s.layout w.ctx p
        let bytes := n.toNat * 128
        if tagOf v = 2 ∧ (!l.init || l.window == 0) then bad 0x10
        else if offOf v % 32 ≠ 0 then bad 0x13
        else if (if tagOf v = 1 then l.scratch else l.window) < offOf v + bytes ∨ 262144 < dst.toNat * 1024 + bytes then bad 0x14
        else s.withObject nb b fun obj =>
          s.issueCmd (.wload wn a b dst n nb sc) .rel sc
            { maj := 0x31, a := v, b := s.sreg b, obj := obj
              extra := [tagOf v, p, offOf v, dst.toNat * 1024, 4 * n.toNat, if wn then 1 else 0] } 0))

/-- The engine accepts a WLOAD and registers its source (07 R205, R206). -/
def execWloadAccept (w op : Nat) (s : State) : Out :=
  .next (s.onCmd 0x31 w op fun x o =>
    let j := { s.jobOf w x o with ord := (s.core x.core).matNext }
    if !s.acceptable w x o || s.outranked w x o then s
    else ((s.accepted w op).register j.wloadLock).modCore x.core
      fun c => { c with wloads := c.wloads ++ [j], matNext := c.matNext + 1 })

/-- The next sector of a WLOAD may be written (07 R206): no earlier WLOAD still writes it, and no earlier MMA still reads it. -/
def State.wloadReady (s : State) (core : Nat) (j : Job) : Bool :=
  let (buf, lo, hi) := j.wloadLeft
  decide (lo < hi) &&
  !((s.core core).wloads.any fun i =>
    let l := i.wloadLeft
    decide (i.ord < j.ord) && l.1 == buf && decide (l.2.1 < lo + 32 ∧ lo < l.2.2)) &&
  !s.watches.any fun x => x.2.core == core && x.2.mat.any fun m =>
    decide (m.ord < j.ord) && isMma m.instr && m.left.any fun q =>
      quarterBuf q == buf && decide (quarterLo m q < lo + 32 ∧ lo < quarterLo m q + matBlock m.shape)

/-- A WLOAD writes its next sector (07 R205, R206). -/
def execWloadSectorWrite (core k : Nat) (s : State) : Out :=
  .next (match (s.core core).wloads[k]? with
    | none => s
    | some j =>
      if j.fail ≠ 0 || !s.wloadReady core j then s
      else (s.wloadSector j j.step).modCore core fun c => { c with
        wloads := modifyFirst (·.id == j.id) (fun j => { j with step := j.step + 1 }) c.wloads })

/-- The last sector is written: the lock is released and the object signalled (07 R205). -/
def execWloadComplete (core k : Nat) (s : State) : Out :=
  .next (match (s.core core).wloads[k]? with
    | none => s
    | some j =>
      if j.fail = 0 ∧ j.step < (j.cmd.extra[4]?.getD 0) then s
      else ((s.modCore core fun c => { c with wloads := c.wloads.filter (·.id != j.id) }).unregister j.id).engineArrive
        j.cmd.obj (j.fail != 0))

/-! ## The staging slot table -/

/-- The slot table of the executing watch's context on its core (08 R242). -/
def State.slotTable (s : State) : SlotTable := Tbl.getD (s.core s.cw.core).slots s.cw.ctx {}
def State.setSlots (s : State) (t : SlotTable) : State :=
  s.modCore s.cw.core fun c => { c with slots := Tbl.put c.slots s.cw.ctx t }

/-- The result word (08 R243). -/
def slotWord (n : Nat) (hit : Bool) (count : BitVec 16) : Word :=
  BitVec.ofNat 64 (n + (if hit then 8 else 0) + count.toNat <<< 16)

/-- The valid slot that holds a key (08 R243). -/
def SlotTable.lookup (t : SlotTable) (k : BitVec 48) : Option Nat :=
  (List.range 8).find? fun i => match t.slots[i]? with
    | some x => x.valid && x.key == k
    | none => false
def SlotTable.slot (t : SlotTable) (i : Nat) : StageSlot := t.slots[i]?.getD {}
def SlotTable.mapSlots (t : SlotTable) (f : Nat → StageSlot → StageSlot) : SlotTable :=
  { t with slots := Vector.ofFn fun i => f i.val t.slots[i] }

/-- Ageing after a LOOK (08 R244). -/
def SlotTable.aged (t : SlotTable) : SlotTable :=
  let a := t.age + 1
  if t.period ≠ 0 ∧ a = t.period then { t.mapSlots (fun _ x => { x with count := x.count >>> 1 }) with age := 0 }
  else { t with age := a }

def satInc (c : BitVec 16) : BitVec 16 := if c = 0xFFFF then c else c + 1

/-- SLOT.LOOK (08 R243). -/
def execSlotLook (d a : Reg) (s : State) : Out :=
  let t := s.slotTable
  .next (s.unpaired (match t.lookup ((s.sreg a).extractLsb' 0 48) with
    | none => ((s.setSlots t.aged).setS d 0).finish (.slotLook d a)
    | some i =>
      let t := t.mapSlots fun k x => if k = i then { x with count := satInc x.count } else x
      ((s.setSlots t.aged).setS d (slotWord i true (t.slot i).count)).finish (.slotLook d a)))

/-- The slot with the lowest count, ties to the lowest number (08 R243). -/
def SlotTable.victim (t : SlotTable) : Nat :=
  (List.range 8).foldl (fun b i => if (t.slot i).count.toNat < (t.slot b).count.toNat then i else b) 0

/-- SLOT.VICT (08 R243). -/
def execSlotVict (d : Reg) (s : State) : Out :=
  let t := s.slotTable
  .next (s.unpaired ((s.setS d (slotWord t.victim (t.slot t.victim).valid (t.slot t.victim).count)).finish (.slotVict d)))

/-- SLOT.FILL (08 R243). -/
def execSlotFill (d a : Reg) (s : State) : Out :=
  let t := s.slotTable
  let k := (s.sreg a).extractLsb' 0 48
  let n := ((s.sreg a).extractLsb' 48 3).toNat
  let u := t.mapSlots fun i x =>
    if i = n then { key := k, valid := true, count := 1 } else if x.valid ∧ x.key = k then { x with valid := false, count := 0 } else x
  .next (s.unpaired (((s.setSlots u).setS d (slotWord n (t.slot n).valid (t.slot n).count)).finish (.slotFill d a)))

/-- SLOT.CLR (08 R243). -/
def execSlotClr (d a : Reg) (s : State) : Out :=
  let t := s.slotTable
  let v := s.sreg a
  let u := t.mapSlots fun i x => if v.getLsbD i then { x with valid := false, count := 0 } else x
  let u := if v.getLsbD 8 then { u with period := v.extractLsb' 16 16, age := 0 } else u
  .next (s.unpaired (((s.setSlots u).setS d (BitVec.ofNat 64 (t.period.toNat <<< 16))).finish (.slotClr d a)))

end Sys2Proof.Machine
end

