-- ==== Sys2Proof/Machine/ClusterUnits.lean ====
section
/-! DEFINITION. Solicit and the census (10 R292 to R296), and the auction engine of a cluster (R297 to R301). -/

namespace Sys2Proof.Machine

/-! ## Solicit -/

/-- SOLIC (10 R292). -/
def execSolic (k : B2) (a b : Reg) (cr : Byte) (ro : B2) (cx : Bool) (sc : Scope) (s : State) : Out :=
  let w := s.cw
  let at_ := s.sreg b
  .next (s.unpaired (s.withObject false b fun obj =>
    match s.coreColumn w at_ with
    | none => s.trap { cause := 0x11, addr := at_ }
    | some p =>
      if (s.layout w.ctx p).scratch < offOf at_ + 48 then s.trap { cause := 0x14, addr := at_ }
      else if s.lockHit w.ctx p 1 (offOf at_ + 16) 32 true then s.trap { cause := 0x15, addr := at_ }
      else if (s.launch w.launch).nrole ≤ ro.toNat || !(s.launch w.launch).roleResp ro.toNat then s.trap { cause := 0x40 }
      else if !cx && (s.crew w.ctx cr.toNat).isNone then s.trap { cause := 0x41 }
      else s.issueCmd (.solic k a b cr ro cx sc) .ar sc
        { maj := 0x33, a := s.sreg a, b := at_, obj := obj
          extra := [k.toNat, ro.toNat, if cx then 256 else cr.toNat, w.lblock.toNat, s.homeLcn w] } 0))

/-- The solicited cores (10 R292), fixed at acceptance. -/
def State.solicited (s : State) (ctx sel : Nat) : List Nat :=
  let c := s.ctx ctx
  if sel = 256 then c.allCores
  else match s.crew ctx sel with
    | some g => g.cols.foldl (fun l lcn => insertAsc (coreOfCol ((c.cols[lcn]?).getD 0)) l) []
    | none => []

/-- The census sequencer accepts a SOLIC (10 R292): at most 64 in flight. -/
def execSolicAccept (w op : Nat) (s : State) : Out :=
  .next (s.onCmd 0x33 w op fun x o =>
    let c := s.ctx x.ctx
    let v (i : Nat) : Nat := o.cmd.extra[i]?.getD 0
    if 64 ≤ c.censuses.length then s
    else
      let set := s.solicited x.ctx (v 2)
      (s.accepted w op).modCtx x.ctx fun c => { c with
        nextCensus := c.nextCensus + 1
        censuses := c.censuses ++ [{ n := c.nextCensus, job := s.jobOf w x o, key := o.cmd.a.toNat % 2 ^ 48, role := v 1, fold := v 0
                                     set := set, pending := set }] })

/-- Change a census. -/
def State.modCensus (s : State) (ctx n : Nat) (f : Census → Census) : State :=
  s.modCtx ctx fun c => { c with censuses := modifyFirst (·.n == n) f c.censuses }
/-- A census in flight. -/
def State.onCensus (s : State) (ctx n : Nat) (k : Census → State) : State :=
  match (s.ctx ctx).censuses.find? (·.n == n) with
  | some c => k c
  | none => s

/-- Entry i of a core's tile directory (10 R290, R291). -/
def State.dirWord (s : State) (ctx core i : Nat) : BitVec 256 := BitVec.ofNat 256 (s.readN (memKey .dir ctx core (32 * i)) 32)
def deKey (e : BitVec 256) : Nat := (e.extractLsb' 0 48).toNat
def deState (e : BitVec 256) : Nat := (e.extractLsb' 48 2).toNat
def deCol (e : BitVec 256) : Nat := (e.extractLsb' 50 10).toNat

/-- A core looks its directory up (10 R293). -/
def execDirectoryLookup (cx n core : Nat) (s : State) : Out :=
  .next (s.onCensus cx n fun c =>
    if !c.pending.contains core then s
    else
      let k := s.ctx cx
      let done (f : Census → Census) : State := s.modCensus cx n fun c => f { c with pending := c.pending.erase core }
      let hole := match k.dirCol core with
        | some p => (k.pcnLive (k.lcn p)).isNone
        | none => true
      if hole then done fun c => { c with lost := c.lost + 1 }
      else
        let e (i : Nat) : BitVec 256 := s.dirWord cx core i
        match (List.range 256).find? fun i =>
            deState (e i) == 1 && deKey (e i) == c.key && decide (Tbl.getD k.stamps (core * 256 + i) 0 ≤ n) with
        | some i => done fun c => { c with spawns := c.spawns ++ [{ core := core, index := i, entry := e i }] }
        | none =>
          let stubs := (List.range 256).filter fun i => deState (e i) == 2 && deKey (e i) == c.key
          if stubs.isEmpty then done id
          else done fun c => { c with moved := c.moved + 1, mcol := stubs.foldl (fun m i => min m (deCol (e i))) c.mcol })

/-- The responder of a census (10 R294): S7 to S9 are those of the entry as the lookup found it (R293). -/
def State.responder (s : State) (cx : Nat) (c : Census) (sp : Spawn) (slot col0 : Nat) : Watch :=
  let l := s.launch c.job.launch
  let v (k : Nat) : Nat := c.job.cmd.extra[k]?.getD 0
  let e := sp.entry
  Watch.start
    { ctx := cx, core := sp.core, slot := slot, col0 := col0, width := l.width, role := c.role, index := 0, lblock := BitVec.ofNat 32 (v 3)
      allot := l.roleAllot c.role, laneBase := l.laneBase, laneIdx := l.roleLane c.role, launch := c.job.launch, kind := .responder
      resp := c.n }
    (l.entryPc c.role)
    [l.paramBase, BitVec.ofNat 64 (v 3), BitVec.ofNat 64 l.hdrBlocks, 0, BitVec.ofNat 64 c.role, BitVec.ofNat 64 c.key,
     e.extractLsb' 64 64, (e.extractLsb' 128 32).setWidth 64, (e.extractLsb' 160 32).setWidth 64, 0, BitVec.ofNat 64 (v 4),
     BitVec.ofNat 64 sp.index]

/-- A responder is spawned where it fits (10 R293), once the launch's parameter block stands on the core (11 R324). -/
def execResponderSpawn (cx n core : Nat) (s : State) : Out :=
  .next (s.onCensus cx n fun c =>
    match c.spawns.find? (·.core == core) with
    | none => s
    | some sp =>
      let l := s.launch c.job.launch
      if !s.runsOn cx core || Tbl.find l.cores core != some 0 then s
      else match s.fitIn (s.residents core) cx core l.scratch l.xwin l.width (l.roleAllot c.role) (colSets l.width) with
        | none => s
        | some (slot, col0) =>
          let u := s.next
          (s.settleWatch (s.responder cx c sp slot col0) l.scratch l.xwin).modCensus cx n fun c => { c with
            spawns := c.spawns.filter (·.core != core), running := c.running ++ [u] })

/-- The combined value (10 R295). -/
def Census.value (c : Census) : Word :=
  let rs := c.replies.map (·.2)
  match c.fold with
  | 0 => rs.foldl (· ||| ·) 0
  | 1 => rs.foldl (· + ·) 0
  | 2 => rs.foldl (fun m v => if v.ult m then v else m) (BitVec.allOnes 64)
  | _ => ((c.replies.foldl (fun b r => match b with
      | none => some r
      | some x => if r.1 < x.1 then some r else some x) none).map (·.2)).getD 0

/-- The reply record (10 R295). -/
def Census.record (c : Census) : Nat :=
  c.value.toNat + c.set.length <<< 64 + c.replies.length <<< 80 + c.moved <<< 96 + c.lost <<< 112 + c.mcol <<< 128 +
    (if c.lost = 0 then 1 else 2) <<< 144

/-- Every core has answered (10 R295): the reply record is written, where no command's range holds it up (08 R235), then the object is
signalled. -/
def execCensusComplete (cx n : Nat) (s : State) : Out :=
  .next (s.onCensus cx n fun c =>
    if !c.pending.isEmpty || !c.spawns.isEmpty || !c.running.isEmpty || !s.recordOpen 0 cx c.job.cmd.obj then s
    else
      let t := match c.job.cmd.obj with
        | some key => s.writeN (key + 16) 32 c.record
        | none => s
      (t.modCtx cx fun k => { k with censuses := k.censuses.filter (·.n != n) }).engineArrive c.job.cmd.obj (c.lost != 0))

/-! ## The auction -/

/-- An area in the plain region of one of the core's columns (10 R299). -/
def State.areaOk (s : State) (w : Watch) (a : Word) (n : Nat) : Bool :=
  a.extractLsb' 56 8 == 0 && tagOf a == 1 && match s.coreColumn w a with
    | some p => decide (offOf a + n ≤ (s.layout w.ctx p).scratch)
    | none => false

/-- Two areas of the core's columns overlap. -/
def State.areasMeet (s : State) (w : Watch) (a : Word) (n : Nat) (b : Word) (m : Nat) : Bool :=
  s.coreColumn w a == s.coreColumn w b && decide (offOf a < offOf b + m ∧ offOf b < offOf a + n)

/-- What R299 refuses. -/
def State.auctBad (s : State) (w : Watch) (at_ : Word) (d : List Word) : Bool :=
  let e := decodeVal .f32 (adEps d)
  let neg := match e with
    | .fin n m _ => n && m != 0
    | _ => true
  cdBits d 333 51 != 0 || cdBits d 384 64 != 0 || cdBits d 479 33 != 0 || (adPinit d == (adPrice d == 0)) ||
    !((adAreas d).all fun a => s.areaOk w a.1 a.2) || !s.areaOk w (adOut d) 328 || offOf (adOut d) % 8 != 0 ||
    (adPinit d && offOf (adPrice d) % 4 != 0) ||
    ((at_, 64) :: adAreas d).any (fun a => s.areasMeet w (adOut d) 328 a.1 a.2) || neg || adRlim d == 0 ||
    decide (adSpitch d < 4 * adCols d) || adSpitch d % 4 != 0

/-- AUCT (10 R297). -/
def execAuct (a b : Reg) (nb : Bool) (sc : Scope) (s : State) : Out :=
  let w := s.cw
  let at_ := s.sreg a
  let bad (c : Nat) : State := s.trap { cause := c, addr := at_ }
  .next (s.unpaired (
    if at_.extractLsb' 56 8 ≠ 0 ∨ tagOf at_ ≠ 1 then bad 0x10
    else match s.coreColumn w at_ with
      | none => bad 0x11
      | some p =>
        if offOf at_ % 64 ≠ 0 then bad 0x13
        else if (s.layout w.ctx p).scratch < offOf at_ + 64 then bad 0x14
        else if s.lockHit w.ctx p 1 (offOf at_) 64 false then bad 0x15
        else
          s.reading { pcn := p, addr := at_, key := memKey .plain w.ctx p (offOf at_) } 64 fun v =>
          let d := wordsOf 8 v
          if s.auctBad w at_ d then bad 0x42
          else s.withObject nb b fun obj =>
            s.issueCmd (.auct a b nb sc) .rel sc { maj := 0x34, a := at_, b := s.sreg b, desc := d, obj := obj } 0))

/-- The engine of the cluster accepts an AUCT: up to 4 (10 R297). -/
def execAuctAccept (w op : Nat) (s : State) : Out :=
  .next (s.onCmd 0x34 w op fun x o =>
    let j := s.jobOf w x o
    let cl := clusterOfCore x.core
    if !s.acceptable w x o || s.outranked w x o then s
    else ((s.accepted w op).register (s.auctLocks j)).modCluster cl fun c => { c with auct := c.auct ++ [j] })

/-- An auction under way (10 R300): the price of each column, and the column and bid that each row holds. -/
structure Auction where
  p : List Nat := []
  hold : List (Option (Nat × Nat)) := []
  round : Nat := 0
  deriving DecidableEq, Repr

/-- FP32 steps of the auction, RNE, and its comparisons (10 R300). -/
def subF (a b : Nat) : Nat := fpSub .f32 .rne false a b
def addF (a b : Nat) : Nat := fpAdd .f32 .rne false a b
def finF (a : Nat) : Bool := match decodeVal .f32 a with
  | .fin _ _ _ => true
  | _ => false
def ltF (a b : Nat) : Bool := decide (cmpVal (decodeVal .f32 a) (decodeVal .f32 b) < 0)

/-- The largest of a list of (column, value), ties to the first (10 R300). -/
def bestOf (l : List (Nat × Nat)) : Option (Nat × Nat) :=
  l.foldl (fun b x => match b with
    | none => some x
    | some y => if ltF y.2 x.2 then some x else some y) none

/-- The columns a row can bid on (10 R300). -/
def eligible (cap row : List Nat) : List Nat :=
  (List.range row.length).filter fun j => decide (0 < cap[j]?.getD 0) && finF (row[j]?.getD 0)

/-- A row's bid (10 R300). -/
def bidOf (eps : Nat) (p cap row : List Nat) : Option (Nat × Nat) :=
  let v := (eligible cap row).map fun j => (j, subF (row[j]?.getD 0) (p[j]?.getD 0))
  match bestOf v with
  | none => none
  | some (j, x) =>
    let w := ((bestOf (v.filter fun y => y.1 != j)).getD (j, x)).2
    let bid := addF (addF (p[j]?.getD 0) (subF x w)) eps
    if finF bid then some (j, bid) else none

/-- Insertion by the largest bid, ties to the lower row (10 R300); rows come in ascending order. -/
def insertBid (x : Nat × Nat) : List (Nat × Nat) → List (Nat × Nat)
  | [] => [x]
  | y :: t => if ltF y.2 x.2 then x :: y :: t else y :: insertBid x t

/-- A column keeps its best rows (10 R300); `bids` are the round's bids by row. -/
def settleColumn (cap : List Nat) (bids : List (Option (Nat × Nat))) (a : Auction) (j : Nat) : Auction :=
  let n := cap[j]?.getD 0
  let cand := (List.range a.hold.length).filterMap fun i =>
    match (a.hold[i]?.getD none).or (bids[i]?.getD none) with
    | some (c, b) => if c = j then some (i, b) else none
    | none => none
  let kept := (cand.foldl (fun l x => insertBid x l) []).take n
  let hold := a.hold.zipIdx.map fun h =>
    match kept.find? (·.1 == h.2) with
    | some (_, b) => some (j, b)
    | none => match h.1 with
      | some (c, b) => if c = j then none else some (c, b)
      | none => none
  let p := if 0 < n ∧ kept.length = n then setAt a.p j ((kept.getLast?.getD (0, 0)).2) else a.p
  { a with hold := hold, p := p }

/-- The rows that may still bid. -/
def bidders (cap : List Nat) (s : List (List Nat)) (a : Auction) : Bool :=
  (List.range s.length).any fun i => (a.hold[i]?.getD none).isNone && !(eligible cap (s[i]?.getD [])).isEmpty

/-- The rounds of an auction (10 R300). -/
def auctRounds (eps : Nat) (cap : List Nat) (s : List (List Nat)) : Nat → Auction → Auction
  | 0, a => a
  | n + 1, a =>
    if bidders cap s a then
      let bids := (List.range s.length).map fun i =>
        if (a.hold[i]?.getD none).isNone then bidOf eps a.p cap (s[i]?.getD []) else none
      let b := (List.range a.p.length).foldl (settleColumn cap bids) a
      auctRounds eps cap s n { b with round := a.round + 1 }
    else a

/-- n bytes at a displacement from a tag-1 address of a job. -/
def State.areaN (s : State) (j : Job) (a : Word) (o n : Nat) : Nat := s.readN (s.scratchKey j a + o) n

/-- The auction of a job (10 R300). -/
def State.auction (s : State) (j : Job) : Auction :=
  let d := j.cmd.desc
  let cols := List.range (adCols d)
  let score := (List.range (adRows d)).map fun i => cols.map fun k => s.areaN j (adScore d) (i * adSpitch d + 4 * k) 4
  let cap := cols.map fun k => min 64 (s.areaN j (adCap d) k 1)
  let p := cols.map fun k =>
    let v := if adPinit d then s.areaN j (adPrice d) (4 * k) 4 else 0
    if finF v then v else 0
  auctRounds (adEps d) cap score (adRlim d) { p := p, hold := List.replicate (adRows d) none }

/-- The rows left unassigned. -/
def Auction.left (a : Auction) : List Nat := (List.range a.hold.length).filter fun i => (a.hold[i]?.getD none).isNone

/-- The output area (10 R301). -/
def Auction.bytes (a : Auction) : List Byte :=
  ((List.range 64).map fun i => BitVec.ofNat 8 (((a.hold[i]?.getD none).map (·.1)).getD 0xFF)) ++
  (List.range 64).flatMap (fun j => leBytes 4 (a.p[j]?.getD 0)) ++
  leBytes 8 (a.left.foldl (fun n i => n + 2 ^ i) 0)

/-- The engine runs its oldest auction and writes the output area (10 R300, R301). -/
def execAuctRun (cl : Nat) (s : State) : Out :=
  .next (match (s.cluster cl).auct with
    | [] => s
    | j :: t =>
      if j.step ≠ 0 ∨ j.fail ≠ 0 then s
      else
        let a := s.auction j
        let j' := { j with step := 1, work := [if a.left.isEmpty then 1 else 5, a.round, a.left.length] }
        (s.writeBytes (s.scratchKey j (adOut j.cmd.desc)) a.bytes).modCluster cl fun c => { c with auct := j' :: t })

/-- The status is written, the ranges are released and the object is signalled (10 R297, R301). -/
def execAuctComplete (cl : Nat) (s : State) : Out :=
  .next (match (s.cluster cl).auct with
    | [] => s
    | j :: t =>
      if (j.step = 0 ∧ j.fail = 0) || s.lockWaits j.id j.ctx (s.jobCol j j.cmd.a) 1 (offOf j.cmd.a + 56) 8 true then s
      else
        let v (i : Nat) : Nat := j.work[i]?.getD 0
        let st := if j.fail ≠ 0 then j.fail else v 0 + v 1 <<< 8 + v 2 <<< 24
        let u := s.writeN (s.scratchKey j j.cmd.a + 56) 4 st
        ((u.modCluster cl fun c => { c with auct := t }).unregister j.id).engineArrive j.cmd.obj (j.fail != 0))

end Sys2Proof.Machine
end

