-- ==== Sys2Proof/Machine/Scheduler.lean ====
section
/-! DEFINITION. The launch scheduler of a die (11 R309 to R332): triggers, runs, the checks of a node, placement, parameter writes,
completion, and record queues. -/

namespace Sys2Proof.Machine

/-! ## Graphs and triggers -/

/-- The fields of a graph table entry (11 R310). -/
def geValid (e : BitVec 128) : Bool := e.getLsbD 0
def geBusy (e : BitVec 128) : Bool := e.getLsbD 1
def geNodes (e : BitVec 128) : Nat := (e.extractLsb' 2 12).toNat + 1
def geCtx (e : BitVec 128) : Nat := (e.extractLsb' 16 16).toNat
def geBase (e : BitVec 128) : Nat := (e.extractLsb' 32 22).toNat
def geParea (e : BitVec 128) : Nat := (e.extractLsb' 64 22).toNat
def gePasize (e : BitVec 128) : Nat := (e.extractLsb' 86 18).toNat
def geRuns (e : BitVec 128) : Nat := (e.extractLsb' 104 8).toNat

/-- The words of a patch list of n entries in scheduler memory. -/
def State.patchAt (s : State) (die off n : Nat) : List Word :=
  (List.range (2 * n)).map fun i => BitVec.ofNat 64 (s.readN (schedKey die (off + 8 * i)) 8)

/-- A patch entry that breaks 11 R314 for a parameter area of a size. -/
def patchBad (size : Nat) : List Word → Bool
  | o :: _ :: t => o.extractLsb' 32 32 != 0 || o.toNat % 8 != 0 || decide (size ≤ o.toNat) || patchBad size t
  | _ => false

/-- The checks of a trigger by a context (11 R315): the count, the graph, the entries. -/
def State.triggerOk (s : State) (g ctx n : Nat) (patch : List Word) : Bool :=
  let e := s.graphEntry g
  decide (n ≤ 64) && geValid e && geCtx e == ctx && !patchBad (gePasize e) patch

/-- The trigger FIFO of a die has room (11 R314). -/
def State.fifoRoom (s : State) (die : Nat) : Bool := decide ((s.die die).fifo.length < 256)

/-- A trigger enters the FIFO of its graph's die (11 R314): the header, the patch area. -/
def State.enqueue (s : State) (g ctx : Nat) (patch : List Word) : State :=
  let die := graphDie g
  let f := firstIdx 256 fun i => !(s.die die).fifo.any (·.slot == i)
  let s := s.writeN (schedKey die (0x9000 + 16 * f)) 16 (g % 4096 + (patch.length / 2) <<< 16)
  let s := s.writeBytes (schedKey die (0x10000 + 1024 * f)) (patch.flatMap fun w => leBytes 8 w.toNat)
  s.modDie die fun d => { d with fifo := d.fifo ++ [{ graph := g, ctx := ctx, patch := patch, slot := f }] }

/-- n 64-bit words as control accesses read them (06 R195; 12 R339): each word is translated by itself. -/
def State.readWords (s : State) (r : AReq) (a : Word) : Nat → Except Prep (List Word)
  | 0 => .ok []
  | n + 1 =>
    match s.readWords r a n with
    | .error p => .error p
    | .ok l =>
      let b := a + BitVec.ofNat 64 (8 * n)
      match s.placeOf s.cw s.cw.home r b with
      | .ok key _ =>
        let acc : Acc := { pcn := s.cw.home, addr := b, key := key, size := 8 }
        if s.bytesHeld (s.keyNow s.cw.ctx acc) 8 then .error .wait else .ok (l ++ [BitVec.ofNat 64 (s.readCtl acc 8)])
      | .fault c => .error (.trap { cause := 0x1A, code := c, addr := b })
      | .nonres => .error (.page s.cw.home b)
      | .wait => .error .wait

/-- TRIG (11 R315). -/
def State.trigger (s : State) (a b : Reg) (g : I12) : State :=
  let at_ := s.sreg a
  let n := (s.sreg b).toNat
  let bad (c : Nat) : State := s.trap { cause := c }
  let r : AReq := { size := 16 * n, align := 16, tags := [0, 1] }
  if 64 < n then bad 0x44
  else match if n = 0 then none else s.checkAddr s.cw s.cw.home r at_ with
    | some f => s.trap { cause := f.cause, addr := at_ }
    | none =>
      if !s.triggerOk g.toNat s.cw.ctx n [] then bad 0x44
      else match s.readWords r at_ (2 * n) with
        | .error p => s.andThen p fun _ => s
        | .ok patch =>
          if !s.triggerOk g.toNat s.cw.ctx n patch then bad 0x44
          else s.issueCmd (.trig a b g) .rel .sys { maj := 0x37, a := at_, b := s.sreg b, desc := patch, extra := [g.toNat] } 0

def execTrig (a b : Reg) (g : I12) (s : State) : Out := .next (s.unpaired (s.trigger a b g))

/-- A kernel's trigger is accepted (11 R314, R315). -/
def execTriggerAccept (w op : Nat) (s : State) : Out :=
  .next (s.onCmd 0x37 w op fun x o =>
    let g := o.cmd.extra[0]?.getD 0
    if s.fifoRoom (graphDie g) then (s.accepted w op).enqueue g x.ctx o.cmd.desc else s)

/-- An active queue takes its next ring entry as a trigger, or drops it (11 R316). -/
def execRingEntryTake (die q : Nat) (s : State) : Out :=
  .next (
    let k := queueKey die q
    let v := s.readN k 4
    let hd := s.readN (k + 8) 4
    if !s.queueActive die q || hd == s.readN (k + 12) 4 || 64 ≤ q || 2 ≤ die then s
    else
      let e := s.readN (schedKey die (bitsN v 21 0 + 16 * (hd % 2 ^ bitsN v 25 22))) 16
      let g := bitsN e 11 0
      let n := bitsN e 22 16
      let off := e >>> 64
      let patch := s.patchAt die off n
      let ctx := s.queueCtx die q
      let t := s.writeN (k + 8) 4 (hd + 1)
      if bitsN e 15 12 ≠ 0 ∨ bitsN e 63 23 ≠ 0 ∨ off % 16 ≠ 0 ∨ 2 ^ 22 < off + 16 * n ∨ !s.triggerOk g ctx n patch then
        t.writeN (k + 16) 2 (min 0xFFFF (s.readN (k + 16) 2 + 1))
      else if s.fifoRoom (graphDie g) then t.enqueue g ctx patch
      else s)

/-! ## Runs and nodes -/

/-- Write STATE of a node (11 R312). -/
def State.nodeState (s : State) (l : Launch) (v : Nat) : State := s.writeN l.stateKey 1 v

/-- Reload a context's watchdog (12 R355). -/
def State.reloadWdog (s : State) (cx : Nat) : State := s.modCtx cx fun c => { c with wdog := c.wdogLoad }

/-- Node fields (11 R311): bits counted from byte 128. -/
def Launch.nb (l : Launch) (lo n : Nat) : Nat := l.bits (16 + lo / 64) (lo % 64) n

/-- The launch of node i of a graph, from its record (11 R311). -/
def State.nodeLaunch (s : State) (die g i : Nat) : Launch :=
  let e := s.graphEntry g
  let base := geBase e + 256 * i
  { die := die, graph := g, node := i, base := base, ctx := geCtx e
    header := (List.range 24).map fun k => BitVec.ofNat 64 (s.readN (schedKey die (base + 8 * k)) 8) }

/-- The successors of a node, in list order (11 R311). -/
def State.successors (s : State) (l : Launch) : List Nat :=
  (List.range (l.nb 12 12)).map fun j => s.readN (schedKey l.die (l.nb 32 22 + 2 * j)) 2

/-- A predecessor's completion reaches a successor (11 R318): `ready` where its DEPLEFT becomes 0. -/
def State.release (s : State) (die g i : Nat) (ready : State → State) : State :=
  let k := schedKey die (geBase (s.graphEntry g) + 256 * i + 192)
  let v := s.readN (k + 2) 2
  let t := s.writeN (k + 2) 2 (v / 2 ^ 12 * 2 ^ 12 + (v % 2 ^ 12 - 1))
  if v % 2 ^ 12 = 0 then s else if v % 2 ^ 12 = 1 then ready t else t

/-- A node becomes ready (11 R317 to R319): its record is read, and it enters the placement list of its queue, unless a node of the run
has failed (R320); one without blocks that reads a vector enters it all the same, for it places nothing. A node without blocks that reads
no vector completes at once, and its successors may become ready in turn: no chain of them is longer than the graph has nodes. -/
def State.makeReady : Nat → State → Nat → Nat → Nat → State
  | 0, s, _, _, _ => s
  | n + 1, s, die, g, i =>
    let l := s.nodeLaunch die g i
    if l.hdrBlocks = 0 ∧ l.kind ≠ 2 then
      (s.successors l).foldl (fun s j => s.release die g j fun t => State.makeReady n t die g j) ((s.reloadWdog l.ctx).nodeState l 4)
    else if Tbl.getD (s.die die).running g 0 ≠ 0 ∧ l.hdrBlocks ≠ 0 then s.nodeState l 1
    else
      let t := ({ s with launches := Tbl.put s.launches s.next l }.bump).nodeState l 1
      t.modDie die fun d => { d with places := Tbl.put d.places l.queue (Tbl.getD d.places l.queue [] ++ [s.next]) }

/-- The patches of a trigger, in list order (11 R317). -/
def State.applyPatches (s : State) (die parea : Nat) : List Word → State
  | o :: v :: t => (s.writeN (schedKey die (parea + o.toNat)) 8 v.toNat).applyPatches die parea t
  | _ => s

/-- DEPS of node i of a graph (11 R311). -/
def State.nodeDeps (s : State) (die base i : Nat) : Nat := s.readN (schedKey die (base + 256 * i + 128)) 2 % 2 ^ 12

/-- A run ends when every node is done, or a node failed and no node runs (11 R318, R320). -/
def State.endRun (s : State) (die g : Nat) : State :=
  let e := s.graphEntry g
  match Tbl.find (s.die die).running g with
  | none => s
  | some code =>
    let alive := s.launches.any fun l => l.2.graph == g
    let state (i : Nat) : Nat := s.readN (schedKey die (geBase e + 256 * i + 192)) 1 % 8
    if alive || (code == 0 && (List.range (geNodes e)).any fun i => state i != 4) then s
    else
      let fstat := if code = 0 then 0xFF else code
      let runs := (geRuns e + 1) % 256
      let s := s.writeN (graphKey g) 1 (s.readN (graphKey g) 1 % 256 &&& 0xFD)
      let s := (s.writeN (graphKey g + 13) 1 runs).writeN (graphKey g + 14) 1 fstat
      let s := s.modDie die fun d => { d with running := Tbl.del d.running g }
      s.postEvent die 1 (geCtx e) (g % 4096 + fstat <<< 20) (BitVec.ofNat 64 runs)

/-- A run starts (11 R317): the first trigger of the FIFO whose graph is not busy. -/
def execRunStart (die : Nat) (s : State) : Out :=
  .next (match (s.die die).fifo.find? fun t => !geBusy (s.graphEntry t.graph) with
    | none => s
    | some t =>
      let g := t.graph
      let e := s.graphEntry g
      let nodes := List.range (geNodes e)
      let s := s.modDie die fun d => { d with
        fifo := d.fifo.filter (·.slot != t.slot), running := Tbl.put d.running g 0 }
      let s := s.writeN (graphKey g) 1 (s.readN (graphKey g) 1 ||| 2)
      let s := s.applyPatches die (geParea e) t.patch
      let s := nodes.foldl (fun s i =>
        s.writeN (schedKey die (geBase e + 256 * i + 192)) 64 (s.nodeDeps die (geBase e) i <<< 16)) s
      let s := nodes.foldl (fun s i => if s.nodeDeps die (geBase e) i = 0 then State.makeReady nodes.length s die g i else s) s
      (s.reloadWdog t.ctx).endRun die g)

/-- Unbind the record queues of a launch (11 R327). -/
def State.unbind (s : State) (ln : Nat) : State :=
  { s with dies := Tbl.mapV s.dies fun d => { d with
    recqs := Tbl.mapV d.recqs fun r => if r.bound = some ln then {} else r } }

/-- Take a launch out of the placement lists. -/
def State.unlist (s : State) (ln : Nat) : State :=
  { s with dies := Tbl.mapV s.dies fun d => { d with places := Tbl.mapV d.places fun l => l.filter (· != ln) } }

/-- A node fails with a code (11 R320): the run places no further node. Its blocks that already run go on; nodes of the run that have
not begun are dropped, but for one without blocks, which has none to place (R319). -/
def State.failNode (s : State) (ln code badIdx : Nat) : State :=
  let l := s.launch ln
  let s := s.writeN l.stateKey 2 (5 + code <<< 8)
  let s := if code = 3 then s.writeN (l.stateKey + 14) 2 badIdx else s
  let s := s.modDie l.die fun d => { d with
    running := if Tbl.getD d.running l.graph 0 = 0 then Tbl.put d.running l.graph code else d.running }
  let s := (s.unlist ln).modLaunch ln fun l => { l with failed := true, again := [] }
  let idle := (s.launches.filter fun x => x.2.graph == l.graph && x.2.placed.isEmpty && (x.1 == ln || x.2.hdrBlocks != 0)).map (·.1)
  let s := idle.foldl (fun s n => (s.unlist n).unbind n) s
  { s with launches := s.launches.filter fun x => !idle.contains x.1 }.endRun l.die l.graph

/-- A node is complete (11 R318, R319): it releases its successors in list order, unless it failed, and the run may end. -/
def State.completeNode (s : State) (ln : Nat) (l : Launch) : State :=
  let s := { s.unbind ln with
    launches := Tbl.del s.launches ln
    columns := Tbl.mapV s.columns fun c => { c with closed := c.closed.filter fun k => k.launch != ln } }
  let s := s.reloadWdog l.ctx
  let s := if l.failed then s
    else (s.successors l).foldl (fun s j => s.release l.die l.graph j fun t =>
      State.makeReady (geNodes (s.graphEntry l.graph)) t l.die l.graph j) (s.nodeState l 4)
  s.endRun l.die l.graph

/-! ## The checks of a node -/

/-- A header that breaks 02 R63, R64 or 11 R324. -/
def Launch.headerBad (l : Launch) : Bool :=
  let w0 := l.word 0
  let w5 := l.word 5
  let roles := List.range 4
  w0.extractLsb' 0 32 != 0x4F4D4631#32 || w0.extractLsb' 32 2 == 3#2 || w0.extractLsb' 38 2 != 0 || w0.extractLsb' 43 21 != 0 ||
  decide (4 < l.xwin) || l.scratch % 32 != 0 || decide (2 ^ 19 < l.scratch + 2 * ({ xwin := l.xwin } : Layout).window) ||
  l.paramSz % 8 != 0 || decide (65536 < l.paramSz) || l.laneBase.toNat % 64 != 0 ||
  w5.extractLsb' 35 5 != 0 || w5.extractLsb' 46 18 != 0 || l.word 6 != 0 || l.word 7 != 0 ||
  l.paramBase.extractLsb' 52 12 != 0 || colOf l.paramBase != 0x3FF || offOf l.paramBase % 8 != 0 ||
  roles.any (fun r =>
    if l.nrole ≤ r then l.word (8 + 2 * r) != 0 || l.word (9 + 2 * r) != 0
    else
      let a := l.bits (9 + 2 * r) 0 4
      l.roleEntry r % 4 != 0 || l.bits (8 + 2 * r) 57 7 != 0 || l.bits (9 + 2 * r) 4 4 != 0 || l.bits (9 + 2 * r) 15 49 != 0 ||
        a == 0 || decide (12 < a) || decide (32 < l.roleWatches r) || (l.roleResp r && l.roleWatches r != 0)) ||
  decide (32 < (List.range l.nrole).foldl (fun n r => n + l.roleWatches r) 0)

/-- A field that runs over a word's end. -/
def Launch.nb2 (l : Launch) (lo n : Nat) : Nat :=
  ((l.word (16 + lo / 64)).toNat + (l.word (17 + lo / 64)).toNat <<< 64) >>> (lo % 64) % 2 ^ n
def Launch.rq (l : Launch) : Nat := l.nb 26 6
def Launch.nsucc (l : Launch) : Nat := l.nb 12 12
def Launch.succOff (l : Launch) : Nat := l.nb 32 22
def Launch.pblk (l : Launch) : Nat := l.nb 64 18
def Launch.iring (l : Launch) : Nat := l.nb 96 19
def Launch.islog (l : Launch) : Nat := l.nb 115 4
def Launch.iobj (l : Launch) : Nat := l.nb 128 19
def Launch.ihead (l : Launch) : Nat := l.nb 147 19
def Launch.obj1 (l : Launch) : Nat := l.nb 166 19
def Launch.obj2 (l : Launch) : Nat := l.nb2 185 19
def Launch.nobj (l : Launch) : Nat := l.nb 204 2
def Launch.gvecAddr (l : Launch) : Word := l.word 20
def Launch.gnum (l : Launch) : Nat := l.nb 320 16
def Launch.grows (l : Launch) : Nat := l.nb 336 32

/-- The areas of a persistent node: offset, length and alignment (11 R311, R327). -/
def Launch.areas (l : Launch) : List (Nat × Nat × Nat) :=
  [(l.iring, 32 * 2 ^ l.islog, 32), (l.iobj, 16, 16), (l.ihead, 8, 8)] ++
    (if 1 ≤ l.nobj then [(l.obj1, 16, 16)] else []) ++ (if 2 ≤ l.nobj then [(l.obj2, 16, 16)] else [])

/-- Some areas overlap. -/
def areasOverlap : List (Nat × Nat × Nat) → Bool
  | [] => false
  | a :: t => t.any (fun b => decide (a.1 < b.1 + b.2.1 ∧ b.1 < a.1 + a.2.1)) || areasOverlap t

/-- GVEC names tag 0 and an LCN of the context, or 0x3FF (11 R331). -/
def gvecOk (c : Context) (a : Word) : Bool :=
  a.extractLsb' 52 12 == 0 && (colOf a == 0x3FF || decide (colOf a < c.cols.length))

/-- The record queue of a number (11 R309). -/
def State.recq (s : State) (q : Nat) : RecQ := Tbl.getD (s.die (q / 32)).recqs q {}
def State.setRecq (s : State) (q : Nat) (r : RecQ) : State := s.modDie (q / 32) fun d => { d with recqs := Tbl.put d.recqs q r }

/-- Malformed node fields (11 R311, R327, R331). -/
def State.nodeBad (s : State) (ln : Nat) (l : Launch) : Bool :=
  l.nb 54 10 != 0 || l.nb 82 14 != 0 || l.nb 119 9 != 0 || l.nb 206 50 != 0 || l.nb 368 16 != 0 || l.word 22 != 0 || l.word 23 != 0 ||
  l.pblk % 8 != 0 || l.succOff % 2 != 0 || l.kind == 3 ||
  (if l.kind = 0 then
    l.rq != 0 || l.nb 96 32 != 0 || l.word 18 != 0 || l.word 19 != 0 || l.word 20 != 0 || l.word 21 != 0
  else
    !l.cosched || decide (8 < l.islog) || decide (2 < l.nobj) ||
      (l.areas.any fun a => a.1 % a.2.2 != 0 || decide (l.scratch < a.1 + a.2.1)) || areasOverlap l.areas ||
      ((s.recq l.rq).bound.any fun n => n != ln) ||
      (if l.kind = 1 then l.word 20 != 0 || l.word 21 != 0
       else l.gnum == 0 || decide (4096 < l.gnum) || !gvecOk (s.ctx l.ctx) l.gvecAddr))

/-! ## Placement -/

/-- The watches of a block of a launch that fit on a core beside residents (11 R322), in ascending role and index: `base` are the
residents, whose columns hold a layout, `plan` the launch's own watches planned before this block, which will hold its layout (06 R174),
`acc` those of the block so far. None where one does not fit. -/
def State.fitWatch (s : State) (l : Launch) (core b : Nat) (base plan : List Watch) (acc : Option (List Watch)) (ri : Nat × Nat) :
    Option (List Watch) :=
  match acc with
  | none => none
  | some ws =>
    let rs := base ++ plan ++ ws
    let live := (s.ctx l.ctx).liveCols
    let ok (c : Nat) : Bool := (List.range (l.width / 16)).all fun i =>
      let p := core * 4 + c + i
      live.contains p && regRoom rs p (l.roleAllot ri.1) && s.layoutFits base l.ctx p l.scratch l.xwin
    match freeSlot rs, (colSets l.width).find? ok with
    | some sl, some c =>
      some (ws ++ [{ ctx := l.ctx, core := core, slot := sl, col0 := c, width := l.width, role := ri.1, index := ri.2
                     lblock := BitVec.ofNat 32 b, allot := l.roleAllot ri.1, laneBase := l.laneBase, laneIdx := l.roleLane ri.1 }])
    | _, _ => none

/-- The roles and indices of a block's watches. -/
def Launch.team (l : Launch) : List (Nat × Nat) :=
  (List.range l.nrole).flatMap fun r => (List.range (l.roleWatches r)).map fun i => (r, i)

/-- The watches of a block on a core, where the whole block fits. -/
def State.fitBlock (s : State) (l : Launch) (core b : Nat) (base plan : List Watch) : Option (List Watch) :=
  l.team.foldl (s.fitWatch l core b base plan) (some [])

/-- The block's core: the one with the fewest watches, resident and planned, on which it fits, the lowest of these (11 R322). -/
def State.chooseCore (s : State) (l : Launch) (b : Nat) (cores : List Nat) (base : Nat → List Watch) (plan : List Watch) :
    Option (Nat × List Watch) :=
  let mine (k : Nat) : List Watch := plan.filter (·.core == k)
  let load (k : Nat) : Nat := (base k).length + (mine k).length
  (cores.foldl (fun (best : Option (Nat × List Watch)) k =>
    match s.fitBlock l k b (base k) (mine k) with
    | none => best
    | some ws => match best with
      | some (j, _) => if load k < load j then some (k, ws) else best
      | none => some (k, ws)) none)

/-- Place blocks one after another, each beside those before it: none where one does not fit. -/
def State.planBlocks (s : State) (l : Launch) (cores : List Nat) (base : Nat → List Watch) :
    List Nat → List Watch → Option (List Watch)
  | [], plan => some plan
  | b :: t, plan =>
    match s.chooseCore l b cores base plan with
    | none => none
    | some (_, ws) => s.planBlocks l cores base t (plan ++ ws)

/-- The usable cores of a context (11 R322), and those among them that it runs on now. -/
def State.usable (s : State) (cx : Nat) : List Nat := (s.ctx cx).cores
def State.usableNow (s : State) (cx : Nat) : List Nat := (s.usable cx).filter fun k => s.runsOn cx k

/-- The watches of blocks of a launch on its context's cores, beside the residents or on empty cores: none where one does not fit (11
R322, R323). -/
def State.planned (s : State) (l : Launch) (empty : Bool) (blocks : List Nat) : Option (List Watch) :=
  s.planBlocks l (if empty then s.usable l.ctx else s.usableNow l.ctx) (fun k => if empty then [] else s.residents k) blocks []

/-- The first failing check of a node at the head of its queue (11 R320): its FCODE, none where it passes. The vector of a KIND 2 node
is checked by GVEC_READ. -/
def State.nodeCheck (s : State) (ln : Nat) (l : Launch) : Option Nat :=
  if l.headerBad || ((s.usable l.ctx).all fun k => (s.fitBlock l k 0 [] []).isNone) then some 2
  else if s.nodeBad ln l then some 4
  else none

/-- The co-scheduling test (11 R323): the cores have 8,192 slots in all, and blocks without watches take none (02 R64). -/
def State.coschedFails (s : State) (l : Launch) : Bool :=
  l.cosched && !l.team.isEmpty &&
    (decide (32 * 256 < l.hdrBlocks * l.team.length) || (s.planned l true (List.range l.hdrBlocks)).isNone)

/-- The head of a queue's placement list on an active queue (11 R316). -/
def State.headOf (s : State) (die q : Nat) : Option Nat :=
  if s.queueActive die q then (Tbl.getD (s.die die).places q []).head? else none

/-- The blocks that a head may place now: the whole of a co-scheduled launch, else the next one (11 R322, R323; 12 R340). -/
def Launch.nextBlocks (l : Launch) : List Nat :=
  match l.again with
  | b :: _ => [b]
  | [] => if l.cosched then (if l.blocks = 0 then List.range l.hdrBlocks else []) else if l.blocks < l.hdrBlocks then [l.blocks] else []

/-- A command's range holds up the writing of HEAD in a home column of a persistent node's blocks (08 R235; 11 R327): the column of the
block's first watch. -/
def State.headHeld (s : State) (l : Launch) (ws : List Watch) : Bool :=
  l.kind != 0 && ws.any fun w => (ws.find? fun x => x.lblock == w.lblock).any fun x => s.lockWaits 0 l.ctx x.home 1 l.ihead 8 true

/-- What a head would place now, if it can (11 R321 to R323). -/
def State.headPlan (s : State) (ln : Nat) : Option (List Nat × List Watch) :=
  let l := s.launch ln
  if !l.checked || (l.kind == 2 && l.vec.isEmpty) then none
  else match s.planned l false l.nextBlocks with
    | some ws => if l.nextBlocks.isEmpty || s.headHeld l ws then none else some (l.nextBlocks, ws)
    | none => none

/-- A launch's level (11 R321). -/
def Launch.prio (l : Launch) : Nat := l.bits 5 32 3

/-- The queue served (11 R321): the highest level with a head that can place; there, the first after the queue served last. -/
def State.serve (s : State) (die : Nat) : Option Nat :=
  let can := (List.range 64).filter fun q => (s.headOf die q).any fun ln => (s.headPlan ln).isSome
  let level (q : Nat) : Nat := ((s.headOf die q).map fun ln => (s.launch ln).prio).getD 0
  let top := can.foldl (fun m q => max m (level q)) 0
  let at_ := can.filter fun q => level q == top
  match Tbl.find (s.die die).lastQ top with
  | none => at_.head?
  | some last => (at_.find? fun q => decide (last < q)).or at_.head?

/-- The watches of a block start (02 R66; 11 R324) where the parameter block stands on their core, else when it is written. -/
def State.startWatch (s : State) (ln : Nat) (x : Watch) : State :=
  let l := s.launch ln
  let regs := [l.paramBase, x.lblock.setWidth 64, BitVec.ofNat 64 l.hdrBlocks, BitVec.ofNat 64 x.index, BitVec.ofNat 64 x.role]
  let w := Watch.start { x with launch := ln } (l.entryPc x.role) regs
  s.settleWatch { w with stopped := Tbl.getD l.cores x.core 1 != 0 } l.scratch l.xwin

/-- The key of a plain-region offset in a column of a context. -/
def plainKey (ctx pcn off : Nat) : Nat := memKey .plain ctx pcn off

/-- HEAD and the objects of a block of a persistent node in its home column (11 R327). -/
def State.prologue (s : State) (l : Launch) (home : Nat) : State :=
  let s := s.writeN (plainKey l.ctx home l.ihead) 8 0
  let objs := [l.iobj] ++ (if 1 ≤ l.nobj then [l.obj1] else []) ++ (if 2 ≤ l.nobj then [l.obj2] else [])
  objs.foldl (fun s o => s.writeN (plainKey l.ctx home o) 16 (objInit 1)) s

/-- The records of a grouped product (11 R331), as their first 128 bits. -/
def vecRecords : Nat → List Nat → List Nat
  | e, a :: b :: t =>
    (if b ≤ a then [e % 2 ^ 16]
     else (List.range (ceilDiv (b - a) 32)).map fun k =>
      e % 2 ^ 16 + (min 32 (b - (a + 32 * k))) <<< 16 + (a + 32 * k) <<< 64) ++ vecRecords (e + 1) (b :: t)
  | _, _ => [1 <<< 24]

/-- The place of record n of queue q in scheduler memory (11 R309). -/
def recKey (q n : Nat) : Nat := schedKey (q / 32) (0x50000 + 32768 * (q % 32) + 32 * (n % 1024))

/-- Count a record in RECIN or RECOUT of a node (11 R312). -/
def State.countRec (s : State) (l : Launch) (off : Nat) : State := s.writeN (l.stateKey + off) 8 (s.readN (l.stateKey + off) 8 + 1)

/-- Append a record of 256 bits to a queue (11 R326): one with LAST closes it. -/
def State.append (s : State) (q : Nat) (l : Launch) (v : Nat) : State :=
  let r := s.recq q
  ((s.writeN (recKey q r.appended) 32 v).setRecq q { r with appended := r.appended + 1, closed := r.closed || v.testBit 24 }).countRec l 16

/-- The scheduler appends the records of a grouped product while the queue has room (11 R331). -/
def State.generate (s : State) (ln : Nat) (recs : List Nat) : Nat → State
  | 0 => s
  | n + 1 =>
    let l := s.launch ln
    let r := s.recq l.rq
    match if r.appended - r.taken < 1024 then recs[l.made]? else none with
    | none => s
    | some v => ((s.append l.rq l v).modLaunch ln fun l => { l with made := l.made + 1 }).generate ln recs n

/-- Bind a persistent node's queue to it (11 R327). -/
def State.bindQueue (s : State) (ln : Nat) : State :=
  let l := s.launch ln
  let s := s.setRecq l.rq { bound := some ln }
  if l.kind = 2 then s.generate ln (vecRecords 0 l.vec) 1024 else s

/-- Place planned watches of a launch (11 R322 to R324, R327). A block without watches is done at once (R312). -/
def State.placeBlocks (s : State) (ln : Nat) (bs : List Nat) (ws : List Watch) : State :=
  let l := s.launch ln
  let coreFor (b : Nat) : Option Watch := ws.find? fun w => w.lblock.toNat == b
  let homes := bs.filterMap fun b => (coreFor b).map fun w => (b, w.home)
  let s := s.modLaunch ln fun l => { l with
    placed := l.placed ++ bs.filter fun b => !l.placed.contains b
    blkCore := l.blkCore.filter (fun p => !bs.contains p.1) ++ bs.filterMap fun b => (coreFor b).map fun w => (b, w.core)
    again := l.again.filter fun b => !bs.contains b
    blocks := bs.foldl (fun n b => max n (b + 1)) l.blocks
    cores := ws.foldl (fun t w => if (Tbl.find t w.core).isSome then t else Tbl.put t w.core 1) l.cores
    homes := homes.foldl (fun t p => Tbl.put t p.1 p.2) l.homes
    tails := if l.kind = 0 then l.tails else bs.foldl (fun t b => Tbl.put t b 0) l.tails }
  let s := ws.foldl (fun s w => s.startWatch ln w) s
  let s := if l.kind = 0 then s else (homes.foldl (fun s p => s.prologue l p.2) s).bindQueue ln
  let bare := (bs.filter fun b => (coreFor b).isNone).length
  let l := s.launch ln
  let s := if bare = 0 then s else s.writeN (l.stateKey + 8) 4 (s.readN (l.stateKey + 8) 4 + bare)
  if l.blocks = l.hdrBlocks ∧ l.again = [] then (s.unlist ln).nodeState l 3 else s.nodeState l 2

/-- Check the heads of a die's queues (11 R320): the first head not checked yet passes or fails. -/
def State.checkHead (s : State) (die : Nat) : Option State :=
  ((List.range 64).filterMap fun q => s.headOf die q).findSome? fun ln =>
    let l := s.launch ln
    if l.checked || l.kind == 2 && l.vec.isEmpty && (s.nodeCheck ln l).isNone then none
    else match s.nodeCheck ln l with
      | some c => some (s.failNode ln c 0)
      | none => if s.coschedFails l then some (s.failNode ln 1 0) else some (s.modLaunch ln fun l => { l with checked := true })

/-- The scheduler's placement step (11 R320 to R323): a head reaches its checks, or the queue served places. -/
def execBlockPlace (die : Nat) (s : State) : Out :=
  .next (match s.checkHead die with
    | some t => t
    | none =>
      match s.serve die with
      | none => s
      | some q =>
        match s.headOf die q with
        | none => s
        | some ln =>
          match s.headPlan ln with
          | none => s
          | some (bs, ws) =>
            (s.placeBlocks ln bs ws).modDie die fun d => { d with lastQ := Tbl.put d.lastQ (s.launch ln).prio q })

/-! ## Waits of the scheduler for the MMP -/

/-- The scheduler waits for the MMP's service of a page (11 R324, R331; 12 R339). -/
def State.launchWait (s : State) (ln ctx pcn off : Nat) : State :=
  if s.waits.any fun p => p.job == ln && p.pcn == pcn && p.off == off then s
  else s.addWait { ctx := ctx, pcn := pcn, off := off, job := ln, addr := (s.ctx ctx).addrOf pcn off }

/-- The first place of a list of offsets in columns that does not translate, with what it answers. -/
def State.firstMiss (s : State) (ctx : Nat) (store : Bool) (l : List (Nat × Nat)) : Option (Nat × Nat × XRes) :=
  l.findSome? fun p => match s.engineXlate ctx p.1 p.2 store with
    | .ok _ _ => none
    | r => some (p.1, p.2, r)

/-- A core that was to spawn a responder answers LOST (10 R293, R294). -/
def Census.loseSpawn (k : Census) (core : Nat) : Census :=
  if k.spawns.any fun x => x.core == core then { k with spawns := k.spawns.filter (·.core != core), lost := k.lost + 1 } else k

/-- The scheduler's service is declined for a page of a column (11 R324, R331; 12 R339): PARAMX, or VECREAD before any block is placed. The
watches that wait for the parameter block never start. DEDUCED: a responder that waits for it on that core never starts either, and its core
answers LOST, as for one that departs by fault (10 R294; log 90). -/
def State.declineLaunch (s : State) (ln pcn : Nat) : State :=
  let l := s.launch ln
  let s := { s with watches := s.watches.filter fun w =>
    !(w.2.launch == ln && w.2.stopped && !w.2.departed && Tbl.getD l.cores w.2.core 0 == 1) }
  let s := s.modLaunch ln fun l => { l with cores := l.cores.filter fun c => c.2 != 1 }
  let lose (k : Census) : Census := if k.job.launch = ln then k.loseSpawn (coreOfCol pcn) else k
  let s := s.modCtx l.ctx fun c => { c with censuses := c.censuses.map lose }
  if l.kind == 2 && l.vec.isEmpty then s.failNode ln 6 0 else s.failNode ln 5 0

/-- What a translation that does not answer with a place means to the scheduler (11 R324, R331; 12 R339): it waits while a page drains,
waits for the MMP where the MMP may map the page or make it resident, and its node fails, with `failed`, where the page is forbidden. -/
def State.launchMiss (s : State) (ln ctx : Nat) (m : Nat × Nat × XRes) (failed : State) : State :=
  match m.2.2 with
  | .wait => s
  | .fault c => if c = 0 ∨ c = 2 then s.launchWait ln ctx m.1 m.2.1 else failed
  | _ => s.launchWait ln ctx m.1 m.2.1

/-- The bytes of the offset vector are read in pieces of `u` (11 R331): whole words where GVEC is aligned to them. -/
def vecUnit (a : Word) : Nat := if a.toNat % 4 = 0 then 4 else 1
/-- The words of the vector from its pieces. -/
def vecWords (u n : Nat) (l : List Nat) : List Nat :=
  (List.range n).map fun i => ((l.drop (4 / u * i)).take (4 / u)).foldr (fun b v => b + v <<< (8 * u)) 0

/-- The scheduler reads the offset vector of a KIND 2 node at its queue's head and checks it (11 R331). A node without blocks is complete then
(R319). -/
def execGvecRead (die q : Nat) (s : State) : Out :=
  .next (match s.headOf die q with
    | none => s
    | some ln =>
      let l := s.launch ln
      if l.kind ≠ 2 || !l.vec.isEmpty || (s.nodeCheck ln l).isSome then s
      else
        let c := s.ctx l.ctx
        let lcn := if colOf l.gvecAddr = 0x3FF then 0 else colOf l.gvecAddr
        match c.pcnLive lcn with
        | none => s.failNode ln 6 0
        | some pcn =>
          let u := vecUnit l.gvecAddr
          let offs := (List.range ((l.gnum + 1) * (4 / u))).map fun i => (pcn, (offOf l.gvecAddr + u * i) % 2 ^ 42)
          match s.firstMiss l.ctx false offs with
          | some m => s.launchMiss ln l.ctx m (s.failNode ln 6 0)
          | none =>
            if offs.any fun p => s.lockWaits 0 l.ctx p.1 0 p.2 u false then s else
            let v := vecWords u (l.gnum + 1) (offs.map fun p => match s.engineXlate l.ctx p.1 p.2 false with
              | .ok key _ => s.colN p.1 key u
              | _ => 0)
            let bad (i : Nat) : Bool := decide (l.grows < v[i]?.getD 0) || (decide (1 ≤ i) && decide (v[i]?.getD 0 < v[i - 1]?.getD 0))
            match (List.range v.length).find? bad with
            | some i => s.failNode ln 3 i
            | none =>
              let t := s.modLaunch ln fun l => { l with vec := v }
              if l.hdrBlocks = 0 then (t.unlist ln).completeNode ln l else t)

/-- The parameter block of a launch is due on a core (11 R324): blocks placed there, or a responder to spawn there, wait for it. -/
def State.paramDue (s : State) (ln core : Nat) (l : Launch) : Bool :=
  match Tbl.find l.cores core with
  | some v => v == 1
  | none => (Tbl.find s.launches ln).isSome &&
      (s.ctx l.ctx).censuses.any fun c => c.job.launch == ln && c.spawns.any (·.core == core)

/-- The parameter block is written into the columns of a core (11 R324), and the watches that wait for it start. -/
def execParamWrite (ln core : Nat) (s : State) : Out :=
  .next (
    let l := s.launch ln
    if !s.paramDue ln core l || !s.runsOn l.ctx core then s
    else
      let cols := (s.ctx l.ctx).liveCols.filter fun p => coreOfCol p == core
      let offs := (List.range (l.paramSz / 8)).map fun i => (offOf l.paramBase + 8 * i) % 2 ^ 42
      let places := cols.flatMap fun p => offs.map fun o => (p, o)
      match s.firstMiss l.ctx true places with
      | some m => s.launchMiss ln l.ctx m (s.declineLaunch ln m.1)
      | none =>
        if places.any fun p => s.lockWaits 0 l.ctx p.1 0 p.2 8 true then s else
        let src := schedKey l.die (geParea (s.graphEntry l.graph) + l.pblk)
        let put (p : Nat) (t : State) (i : Nat) : State :=
          match s.engineXlate l.ctx p ((offOf l.paramBase + 8 * i) % 2 ^ 42) true with
          | .ok key _ => t.colWrite p key (leBytes 8 (s.readN (src + 8 * i) 8))
          | _ => t
        let t := cols.foldl (fun t p => (List.range (l.paramSz / 8)).foldl (put p) t) s
        let t := t.modLaunch ln fun l => { l with cores := Tbl.put l.cores core 0 }
        { t with watches := Tbl.mapV t.watches fun (w : Watch) =>
            if w.launch = ln ∧ w.core = core ∧ !w.departed then { w with stopped := false } else w })

/-! ## Completion -/

/-- What a launch still has under way (11 R318). -/
def State.launchBusy (s : State) (ln : Nat) (l : Launch) : Bool :=
  (!l.failed && (decide (l.blocks < l.hdrBlocks) || !l.again.isEmpty)) ||
  (s.watches.any fun w => w.2.launch == ln) ||
  (s.cores.any fun c => c.2.copies.any (·.launch == ln) || c.2.wloads.any (·.launch == ln)) ||
  (s.clusters.any fun c => c.2.auct.any (·.launch == ln)) ||
  (s.columns.any fun c => c.2.fatom.any (·.launch == ln)) ||
  (s.ctxs.any fun c => c.2.censuses.any (fun k => k.job.launch == ln) || c.2.colls.any (·.launch == ln)) ||
  ((s.starts ++ s.runs).any fun r => r.members.any (·.launch == ln)) ||
  (s.hostAcks.any fun h => (Tbl.find s.watches h.w).isNone)

/-- A node completes (11 R318, R319), once nothing of it is under way. -/
def execNodeComplete (ln : Nat) (s : State) : Out :=
  .next (match Tbl.find s.launches ln with
    | none => s
    | some l => if s.launchBusy ln l || (l.kind == 2 && l.vec.isEmpty && !l.failed) then s else s.completeNode ln l)

/-! ## Records -/

/-- A record that breaks 11 R325 and R326, for a context of n columns. -/
def recordBad (n v : Nat) : Bool :=
  let f (hi lo : Nat) : Nat := bitsN v hi lo
  let rows := f 21 16
  f 23 22 != 0 || f 31 27 != 0 || f 63 53 != 0 || f 159 148 != 0 || f 191 160 != 0 || decide (32 < rows) ||
  (if v.testBit 25 then decide (f 52 48 = 0 ∨ rows ≤ f 52 48) else f 47 32 != 0 || f 52 48 != 0) ||
  (f 147 138 == 0 && f 137 128 != 0) || decide (n < f 137 128 + f 147 138)

/-- REC (11 R326). -/
def execRecd (d a q : Reg) (s : State) : Out :=
  let at_ := s.sreg a
  .next (s.unpaired (s.access { size := 32, align := 32, tags := [0, 1] } at_ fun acc =>
    s.reading acc 32 fun v => if recordBad (s.ctx s.cw.ctx).cols.length v then s.trap { cause := 0x43 }
    else s.issueCmd (.recd d a q) .rel .dev { maj := 0x36, a := at_, desc := wordsOf 4 v, extra := [q.toNat] } d.toNat))

/-- The number of a record's words. -/
def wordsNat (l : List Word) : Nat := l.foldr (fun w n => w.toNat + n <<< 64) 0

/-- The status that a queue answers to a watch of a context (11 R326). -/
def State.recStatus (s : State) (ctx q : Nat) : Nat :=
  let r := s.recq q
  match r.bound with
  | none => 4
  | some ln =>
    let l := s.launch ln
    if l.ctx ≠ ctx then 4 else if r.closed || l.kind != 1 then 3 else if 1024 ≤ r.appended - r.taken then 2 else 1

/-- An older REC of a watch to the same queue has no answer yet (11 R326, R330). -/
def Watch.olderRec (w : Watch) (o : Op) : Bool :=
  w.ops.any fun p => p.kind == .engine && p.cmd.maj == 0x36 && !p.done && decide (p.seq < o.seq) && p.cmd.extra == o.cmd.extra

/-- A record queue answers a REC (11 R326): a watch's to one queue in their order. -/
def execRecAnswer (w op : Nat) (s : State) : Out :=
  .next (s.onCmd 0x36 w op fun x o =>
    if x.olderRec o then s else
    let q := o.cmd.extra[0]?.getD 0
    let st := s.recStatus x.ctx q
    let t := s.modWatch w fun x => (x.setS (BitVec.ofNat 6 o.d) (BitVec.ofNat 64 st)).finishOp op
    match if st = 1 then (s.recq q).bound else none with
    | none => t
    | some ln => t.append q (t.launch ln) (wordsNat o.cmd.desc))

/-- TAIL − HEAD of a block (11 R328), HEAD as the home column reads it. -/
def State.fillOf (s : State) (l : Launch) (b : Nat) : Nat :=
  let hd := s.readN (plainKey l.ctx (Tbl.getD l.homes b 0) l.ihead) 8
  (Tbl.getD l.tails b 0 + 2 ^ 64 - hd) % 2 ^ 64

/-- A block can take a record now: its context runs on its core, its ring has a free slot (11 R328), and no command's range holds up the
reading of HEAD or the writing of the slot (08 R235); the arrival on the inbox object meets no range lock (09 R256). -/
def State.slotFree (s : State) (l : Launch) (b : Nat) : Bool :=
  let home := Tbl.getD l.homes b 0
  s.runsOn l.ctx (coreOfCol home) && decide (s.fillOf l b < 2 ^ l.islog) && !s.lockWaits 0 l.ctx home 1 l.ihead 8 false &&
    !s.lockWaits 0 l.ctx home 1 (l.iring + 32 * (Tbl.getD l.tails b 0 % 2 ^ l.islog)) 32 true

/-- Deliver a record to a block (11 R328): the slot, TAIL, the arrival on the inbox object. -/
def State.deliver (s : State) (ln : Nat) (l : Launch) (b v : Nat) : State :=
  let tail := Tbl.getD l.tails b 0
  let home := Tbl.getD l.homes b 0
  let s := s.writeN (plainKey l.ctx home (l.iring + 32 * (tail % 2 ^ l.islog))) 32 v
  (s.modLaunch ln fun l => { l with tails := Tbl.put l.tails b (tail + 1) }).engineArrive (some (plainKey l.ctx home l.iobj)) false

/-- The eligible blocks of a record (11 R328). -/
def State.eligibleBlocks (s : State) (l : Launch) (v : Nat) : List Nat :=
  let lo := bitsN v 137 128
  let n := bitsN v 147 138
  let c := s.ctx l.ctx
  let near := l.placed.filter fun b => (List.range n).any fun i =>
    (c.pcnLive (lo + i)).any fun p => coreOfCol p == coreOfCol (Tbl.getD l.homes b 0)
  if near.isEmpty then l.placed else near

/-- The next record of a queue is taken (11 R328): the queue's counters and the closing records owed after LAST (R329). -/
def State.takeRec (s : State) (q ln : Nat) (l : Launch) (v : Nat) (dst : Option Nat) : State :=
  let s := (s.setRecq q { s.recq q with taken := (s.recq q).taken + 1 }).countRec l 24
  let s := if v.testBit 24 then s.modLaunch ln fun l => { l with closing := l.placed.filter fun b => some b != dst } else s
  if l.kind = 2 then s.generate ln (vecRecords 0 l.vec) 1 else s

/-- The scheduler takes the next record of a bound queue and delivers or skips it (11 R328). -/
def execRecordDeliver (rq : Nat) (s : State) : Out :=
  .next (
    let r := s.recq rq
    match if r.taken < r.appended then r.bound else none with
    | none => s
    | some ln =>
      let l := s.launch ln
      let v := s.readN (recKey rq r.taken) 32
      let rows := bitsN v 21 16
      if rows = 0 ∨ v.testBit 26 then s.takeRec rq ln l v none
      else
        let free := (s.eligibleBlocks l v).filter fun b => s.slotFree l b
        let best := free.foldl (fun (m : Option Nat) b => match m with
          | none => some b
          | some c => if s.fillOf l b < s.fillOf l c ∨ (s.fillOf l b = s.fillOf l c ∧ b < c) then some b else m) none
        match best with
        | none => s
        | some b => (s.deliver ln l b (v + (2 ^ rows - 1) <<< 160)).takeRec rq ln l v (some b))

/-- A closing record is delivered to a block (11 R329). -/
def execClosingRecordDeliver (rq blk : Nat) (s : State) : Out :=
  .next (match (s.recq rq).bound with
    | none => s
    | some ln =>
      let l := s.launch ln
      if !l.closing.contains blk || !s.slotFree l blk then s
      else (s.deliver ln l blk (1 <<< 24)).modLaunch ln fun l => { l with closing := l.closing.filter (· != blk) })

end Sys2Proof.Machine
end

