-- ==== Sys2Proof/Machine/Translation.lean ====
section
/-! DEFINITION. The steps of the crew controller (09 R250, R251), uncorrectable errors (09 R268; 07 R218; 14 R374), page walks, leases and
unmapping (12 R337, R342 to R345), the service of pages (12 R340, R341), the bank switch (12 R348, R349), the timeouts and the watchdog
(12 R352, R355, R356), and the retirement of a column (06 R168). -/

namespace Sys2Proof.Machine

/-! ## The crew controller -/

/-- The next message of a context's crew controller is taken. -/
def State.nextMsg (s : State) (cx : Nat) (k : State → CrewMsg → State) : State :=
  match (s.ctx cx).msgs with
  | [] => s
  | m :: t => k (s.modCtx cx fun c => { c with msgs := t }) m

/-- The controller records an arrival (09 R251, R253). -/
def execCrewControllerArrival (cx : Nat) (s : State) : Out :=
  .next (s.nextMsg cx fun t m => match m with
    | .arrive c w swap => t.arrive cx c w swap
    | .depart _ _ _ _ => s)

/-- The controller processes a departure (09 R250). -/
def execCrewDeparture (cx : Nat) (s : State) : Out :=
  .next (s.nextMsg cx fun t m => match m with
    | .arrive _ _ _ => s
    | .depart w fault off why => t.processDepart cx w fault off why)

/-! ## The retirement of a column -/

/-- Remove a column's bytes: its slice, and every context's places in it (06 R168). -/
def memForgetCol (m : List Host.Cell) (pcn : Nat) : List Host.Cell :=
  m.filter fun c =>
    let sp := c.1 / 2 ^ 96
    !((sp ≤ 4 || sp == 9) && (c.1 / 2 ^ 64) % 2 ^ 16 == pcn)

/-- The column becomes a hole of a context (06 R168): its resident watches end, the ring moves to the lowest live LCN (12 R353), and the
context escalates with COLRET (R354). -/
def State.makeHole (s : State) (cx pcn : Nat) : State :=
  let c := s.ctx cx
  let lcn := c.lcn pcn
  if !c.cols.contains pcn || c.holes.contains lcn then s
  else
    let s := s.modCtx cx fun c => { c with holes := insertAsc lcn c.holes }
    let s := s.modCtx cx fun c => { c with ringCol := if c.ringCol = pcn then (c.liveCols.head?).getD pcn else c.ringCol }
    let s := (s.watchesWith fun w => w.ctx == cx && w.cols.contains pcn && !w.ended).foldl (fun s w => s.killWatch w true) s
    s.contextRung cx { cause := 0x55 }

/-- The MMP retires a column (06 R168). -/
def State.retireColumn (s : State) (pcn : Nat) : State :=
  if (s.column pcn).retired || 1024 ≤ pcn then s
  else
    let s := { s with mem := memForgetCol s.mem pcn, epoch := s.epoch + 1 }
    let s := s.modColumn pcn fun _ => { retired := true }
    (s.ctxs.map (·.1)).foldl (fun s cx => s.makeHole cx pcn) s

def execColumnRetire (pcn : Nat) (s : State) : Out := .next (s.retireColumn pcn)

/-! ## Uncorrectable errors -/

/-- The controller that holds the data of an address in a column. DESIGN CHOICE: the bank port stands for the L2 slice too (log 75). -/
def ctlOf (pcn : Nat) (a : Word) : Ctl := if tagOf a = 0 then .bank pcn else .scratch pcn

/-- The column whose count holds a controller's uncorrectable errors (14 R374). -/
def ctlColumn (c : Ctl) : Option Nat :=
  match c with
  | .bank p => some p
  | .l2 p => some p
  | .scratch p => some p
  | _ => none

/-- Enmon counts an error of a controller (14 R374, R383). -/
def State.countError (s : State) (c : Ctl) (uncor : Bool) : State :=
  let e := s.enmon
  let v := Tbl.getD e.errs c.code (0, 0)
  let errs := Tbl.put e.errs c.code (if uncor then (v.1, v.2 + 1) else (v.1 + 1, v.2))
  { s with enmon := { e with
    errs := errs
    colErrs := match if uncor then ctlColumn c else none with
      | some p => Tbl.put e.colErrs p (Tbl.getD e.colErrs p 0 + 1)
      | none => e.colErrs } }

/-- The immediate error interrupt (14 R374): the log, and the ERROR event (R379). -/
def State.errorInterrupt (s : State) (c : Ctl) (die pcn : Nat) (addr : Word) : State :=
  ((s.enlog [0x19, BitVec.ofNat 64 pcn, addr]).postEvent die 3 0 pcn addr).countError c true

/-- The sector of an address. -/
def sectorAddr (a : Word) : Word := a &&& ~~~31#64

/-- After the fourth error of a column in an epoch the MMP retires it (14 R374). -/
def State.retireDue (s : State) (pcn : Nat) : State := if Tbl.getD s.enmon.colErrs pcn 0 = 4 then s.retireColumn pcn else s

/-- The abort completion of an operation in flight (09 R268): a store into a partly written sector is dropped. -/
def State.abortOp (s : State) (w : Nat) (x : Watch) (o : Op) : State :=
  match o.accs.find? fun a => !a.got with
  | none => s
  | some a =>
    let go (t : State) : State :=
      (t.asyncTrap w o.ent { cause := 0x19, addr := sectorAddr a.addr }).retireDue a.pcn
    let t := s.errorInterrupt (ctlOf a.pcn a.addr) (dieOfCol a.pcn) a.pcn (sectorAddr a.addr)
    if o.isLoad || o.isAtom then go (t.modWatch w fun x => x.modOp o.id fun o => { o with err := true })
    else if o.kind == .st || o.kind == .sst then
      match x.fifo.find? fun e => e.op == o.id with
      | none => s
      | some e =>
        go ((t.modWatch w fun x => { x.modOp o.id (fun o => { o with
            accs := modifyFirst (fun a => a.lane == e.acc.lane && !a.got) (fun a => { a with got := true }) o.accs }) with
          fifo := x.fifo.erase e }).completeOp w o.id)
    else s

/-- Change an engine's command: 0 TCOPY, 1 WLOAD of a core, 2 AUCT of a cluster. -/
def State.modJob (s : State) (kind at_ id : Nat) (f : Job → Job) : State :=
  let g (l : List Job) : List Job := modifyFirst (·.id == id) f l
  match kind with
  | 0 => s.modCore at_ fun c => { c with copies := g c.copies }
  | 1 => s.modCore at_ fun c => { c with wloads := g c.wloads }
  | _ => s.modCluster at_ fun c => { c with auct := g c.auct }
def State.jobList (s : State) (kind at_ : Nat) : List Job :=
  match kind with
  | 0 => (s.core at_).copies
  | 1 => (s.core at_).wloads
  | 2 => (s.cluster at_).auct
  | _ => []

/-- A command still reads data (08 R231; 07 R205; 10 R301): an auction has read all of it when it writes its output area. -/
def State.jobReads (s : State) (kind : Nat) (j : Job) : Bool :=
  match kind with
  | 0 => decide (j.step < (sectorsOf (s.moves j)).length)
  | 1 => decide (j.step < j.cmd.extra[4]?.getD 0)
  | _ => j.step == 0

/-- The matrix instruction of a watch meets an uncorrectable error (07 R218): it has written nothing, and the watch traps. Where the watch
goes on from there, it is performed again. -/
def State.matrixError (s : State) (w : Nat) (x : Watch) (m : MatOp) : State :=
  let back : MatOp := { m with left := if isMma m.instr then quartersOf m.mask m.rbnd else [], before := none }
  let t := s.modWatch w fun x => { x with
    mat := none
    tiles := match m.before with
      | some b => b.1
      | none => x.tiles
    rows := match m.before with
      | some b => b.2
      | none => x.rows }
  let t := t.asyncTrap w m.ent { cause := 0x19, lane := true, lanePc := m.index }
  if x.pair.isNone && (x.inh || x.crgn.isEmpty) then
    t.modWatch w fun y => if y.ended then y else { y with mat := some back }
  else t

/-- A run fails in its strand of a column (15 R406). -/
def Run.failAt (r : Run) (code pcn : Nat) : Run :=
  if r.code = 0 then { r with code := code, fstr := r.strands.findIdx (·.col == pcn) } else r

/-- The scheduler reads the offset vector of a launch (11 R331): a node of KIND 2 at a queue's head whose checks before it pass. -/
def State.vectorDue (s : State) (ln : Nat) : Bool :=
  let l := s.launch ln
  l.kind == 2 && l.vec.isEmpty && (List.range 64).any (fun q => s.headOf l.die q == some ln) && (s.nodeCheck ln l).isNone

/-- A controller withholds data (09 R268; 07 R218). DESIGN CHOICE: an error in a tile or a weight buffer is told with the home column as PCN and
address 0 (log 80). -/
def execUncorAbortCompletion (u : UncorAt) (s : State) : Out :=
  .next (match u with
    | .op w id => s.onOp w id fun x o => s.abortOp w x o
    | .fetch w e at_ => s.onWatch w fun x =>
        let a := sectorAddr at_
        if !(x.entry e).valid || (x.entry e).wait || !s.isLive x then s
        else ((s.errorInterrupt (ctlOf x.home at_) (dieOfCol x.home) x.home a).asWatch w e fun s => s.trap { cause := 0x19, addr := a }).retireDue x.home
    | .elem w q l => s.onWatch w fun x =>
        let k := x.queue q
        let a := sectorAddr (streamAddr k l (k.popc[l]?.getD 0))
        match k.elems[l]?.getD [] with
        | [] => s
        | _ :: t =>
          if x.chain.isSome then s
          else
            let k := { k with elems := Vector.ofFn fun i => if i.val = l then .uncor a :: t else k.elems[i] }
            ((s.errorInterrupt (ctlOf (x.pcnOf l) a) (dieOfCol (x.pcnOf l)) (x.pcnOf l) a).modWatch w fun x => x.setQ q k).retireDue (x.pcnOf l)
    | .matrix w wb => s.onWatch w fun x =>
        match x.mat with
        | none => s
        | some m => (s.errorInterrupt (if wb then .wbuf x.core else .tiles x.core) (dieOfCol x.home) x.home 0).matrixError w x m
    | .engine kind at_ id pcn a =>
        let t := s.errorInterrupt (ctlOf pcn a) (dieOfCol pcn) pcn (sectorAddr a)
        if 1024 ≤ pcn then s
        else if (s.jobList kind at_).any (fun j => j.id == id && s.jobReads kind j) then
          (t.modJob kind at_ id fun j => { j with fail := if j.fail = 0 then 4 else j.fail }).retireDue pcn
        else if kind = 3 ∧ s.runs.any (·.id == id) then
          { t with runs := t.runs.map fun (r : Run) => if r.id = id then r.failAt 4 pcn else r }.retireDue pcn
        else if kind = 4 ∧ s.vectorDue id then (t.failNode id 6 0).retireDue pcn
        else s
    | .sched die a => s.errorInterrupt (.sched die) die 0xFFFF (sectorAddr a)
    | .corrected c => s.countError c false)

/-! ## Walks and leases -/

/-- A translation enters a column's TLB with a lease (12 R342): none where LEASE is 0. -/
def State.fillTlb (s : State) (pcn : Nat) (x : Xlat) : State :=
  if (s.ctx x.ctx).lease = 0 then s
  else s.modColumn pcn fun c =>
    let l := (c.tlb.filter fun y => !(y.ctx == x.ctx && y.page == x.page)) ++ [x]
    { c with tlb := l.drop (l.length - 64) }

/-- Leave out the first n translations of a cluster cache that are not marks of a draining page (12 R344, R345). -/
def dropOldest : Nat → List Xlat → List Xlat
  | 0, l => l
  | _, [] => []
  | n + 1, x :: t => if x.draining then x :: dropOldest (n + 1) t else dropOldest n t

/-- A page walk ends (12 R337, R344): the cluster cache and the L1 TLB take the translation of a resident page. -/
def execPageWalkComplete (pcn cx off : Nat) (s : State) : Out :=
  .next (
    let c := s.ctx cx
    let cl := clusterOfCol pcn
    if (s.core (coreOfCol pcn)).live ≠ some cx || (s.core (coreOfCol pcn)).switching.isSome || (c.pcnLive (c.lcn pcn)).isNone || Config.frameBase ≤ off then s
    else match (s.cluster cl).cache.find? (·.serves cx pcn off) with
      | some x => if x.draining then s else s.fillTlb pcn x
      | none =>
        match s.walk cx pcn off with
        | .error _ => s
        | .ok (leaf, size, cs) =>
          if !pteRes leaf then s
          else
            let x : Xlat := { ctx := cx, page := off / size * size, size := size, pcn := if cs then some pcn else none, leaf := leaf }
            (s.modCluster cl fun k => { k with cache := dropOldest (k.cache.length + 1 - 4096) (k.cache ++ [x]) }).fillTlb pcn x)

/-- A lease runs out (12 R342). -/
def execTlbLeaseExpire (pcn k : Nat) (s : State) : Out := .next (s.modColumn pcn fun c => { c with tlb := c.tlb.eraseIdx k })

/-- The entry at which the walk of an offset ends, with its level (12 R337). -/
def State.walkKeyFrom (s : State) (pcn off : Nat) : Nat → Nat → Nat × Nat
  | level, key =>
    let e := BitVec.ofNat 64 (s.readN key 8)
    let key := if pteValid e && pteCspec e then memKey .slice 0 (ptrPcn (pteTarget e)) (ptrOff (pteTarget e) + 8 * pcn) else key
    let e := BitVec.ofNat 64 (s.readN key 8)
    if !pteValid e || pteLeaf e then (key, level)
    else match level with
      | 0 => (key, 0)
      | l + 1 =>
        walkKeyFrom s pcn off l (memKey .slice 0 (ptrPcn (pteTarget e)) (ptrOff (pteTarget e) + 8 * pageIndex l off))
def State.walkKey (s : State) (cx pcn off : Nat) : Nat × Nat :=
  let t := (s.ctx cx).ptroot % 2 ^ 31
  s.walkKeyFrom pcn off 2 (memKey .slice 0 (ptrPcn t) (ptrOff t + 8 * pageIndex 2 off))

/-! ## The service of pages -/

/-- A block is placed again (12 R340): what stopped leaves, and the launch waits at the head of its queue (log 19). -/
def State.restartBlock (s : State) (ln b : Nat) : State :=
  let mine (w : Watch) : Bool := w.launch == ln && w.lblock.toNat == b && w.stopped && w.departed
  if (s.watchesWith mine).isEmpty || (Tbl.find s.launches ln).isNone then s
  else
    let l := s.launch ln
    let s := { s with watches := s.watches.filter fun w => !mine w.2 }
    let s := s.modLaunch ln fun l => { l with
      again := if l.again.contains b then l.again else l.again ++ [b]
      restarts := Tbl.put l.restarts b (Tbl.getD l.restarts b 0 + 1) }
    (s.modDie l.die fun d =>
      let q := Tbl.getD d.places l.queue []
      { d with places := Tbl.put d.places l.queue (if q.contains ln then q else ln :: q) }).nodeState l 2

/-- What waited for pages that are resident now goes on (12 R340), or meets what the new entry answers (R339). -/
def State.servePages (s : State) (cx : Nat) : State :=
  let served (p : PageWait) : Bool := p.ctx == cx && match s.xlate cx p.pcn p.off false false with
    | .ok _ _ => true
    | .fault c => c != 0 && c != 2
    | _ => false
  let l := s.waits.filter served
  let s := l.foldl (fun s p => match p.blk with
    | some (ln, b) => s.restartBlock ln b
    | none => s) { s with waits := s.waits.filter fun p => !served p }
  { s with watches := Tbl.mapV s.watches fun (w : Watch) => if w.ctx = cx then s.settleAccs w else w }

/-- An engine's command fails, or a run in its strand of a column (12 R339; 15 R406). -/
def State.failJob (s : State) (id code pcn : Nat) : State :=
  let g (j : Job) : Job := if j.id = id ∧ j.fail = 0 then { j with fail := code } else j
  { s with
    cores := Tbl.mapV s.cores fun c => { c with copies := c.copies.map g, wloads := c.wloads.map g }
    clusters := Tbl.mapV s.clusters fun c => { c with auct := c.auct.map g }
    runs := s.runs.map fun r => if r.id = id then r.failAt code pcn else r }

/-- DETAIL of an escalation record becomes 4 (12 R341), while the ring still holds it. -/
def State.detailDeclined (s : State) (cx : Nat) (q : Word) : State :=
  let c := s.ctx cx
  if 64 < (c.seq - q).toNat then s
  else
    let key := memKey .save cx c.ringCol (Config.ringBase + 32 * (q.toNat % 64)) + 1
    s.writeN key 1 (s.readN key 1 % 16 + 64)

/-- The MMP declines a page (12 R341). -/
def State.declinePage (s : State) (p : PageWait) : State :=
  let s := { s with waits := if p.drain = 2 then s.waits else s.waits.erase p }
  match p.blk with
  | some (ln, b) =>
    let s := { s with watches := Tbl.mapV s.watches fun (w : Watch) =>
      if w.launch == ln && w.lblock.toNat == b && w.stopped && w.departed then { w with stopped := false } else w }
    let t : TrapInfo := { cause := 0x1A, code := 4, addr := p.addr }
    s.onWatch p.w fun x => if p.async then s.asyncTrap p.w p.ent t else s.asWatch p.w (x.trapEnt p.ent) fun s => s.trap t
  | none =>
    if p.job ≠ 0 then (if (Tbl.find s.launches p.job).isSome then s.declineLaunch p.job p.pcn else s.failJob p.job 3 p.pcn)
    else if p.drain = 1 then { s with waits := s.waits ++ [{ p with drain := 2 }] }
    else match p.escSeq with
      | some q => s.detailDeclined p.ctx q
      | none => s

def execMmpDecline (k : Nat) (s : State) : Out :=
  .next (match s.waits[k]? with
    | none => s
    | some p => s.declinePage p)

/-! ## Unmapping -/

/-- The live columns of a context whose walk of an offset ends at an entry. -/
def State.walkCols (s : State) (cx key off : Nat) : List Nat := (s.ctx cx).liveCols.filter fun p => (s.walkKey cx p off).1 == key

/-- A translation is of the page that is being unmapped. -/
def Unmap.has (u : Unmap) (x : Xlat) : Bool := x.ctx == u.ctx && x.page == u.off && x.pcn.all u.cols.contains

/-- The marks of a draining page in a cluster's cache (12 R345): one for each column where the page is column-specific. -/
def Unmap.marks (u : Unmap) (cs : Bool) (pte : Word) (cl : Nat) : List Xlat :=
  let x : Xlat := { ctx := u.ctx, page := u.off, size := u.size, leaf := pte, draining := true }
  if cs then (u.cols.filter fun p => clusterOfCol p == cl).map fun p => { x with pcn := some p } else [x]

/-- A new entry that unmaps a leaf, or lowers its WR or RES (12 R345). -/
def pteLowers (leaf pte : Word) : Bool := !pteValid pte || (pte ||| 0x24#64) == (leaf ||| 0x24#64) && pte &&& ~~~leaf == 0

/-- The MMP writes the new entry and marks the page draining (12 R345 steps 1 and 2), as the column `pcn` maps it: the page is unmapped, or WR
or RES falls. -/
def execMmpUnmap (c : CtxCol) (off : Nat) (pte : Word) (s : State) : Out :=
  let ⟨cx, pcn⟩ := c
  .next (
    if !(s.ctx cx).liveCols.contains pcn then s else
    match s.walk cx pcn off with
      | .error _ => s
      | .ok (leaf, size, cs) =>
        let key := (s.walkKey cx pcn off).1
        let page := off / size * size
        let cls := (s.ctx cx).liveCols.foldl (fun l p => insertAsc (clusterOfCol p) l) []
        let u : Unmap := { ctx := cx, off := page, size := size, leaf := leaf, cols := s.walkCols cx key off, acks := cls }
        if (s.unmaps.any fun v => v.ctx == cx && v.off == page && v.cols.contains pcn) || !pteLowers leaf pte then s
        else
          let t := s.writeN key 8 pte.toNat
          let mark (s : State) (c : Nat) : State := s.modCluster c fun k => { k with
            cache := (k.cache.filter fun x => !u.has x) ++ u.marks cs pte c }
          { cls.foldl mark t with unmaps := t.unmaps ++ [u] })

/-- Change an unmapping. -/
def State.modUnmap (s : State) (k : Nat) (f : Unmap → Unmap) : State :=
  { s with unmaps := s.unmaps.zipIdx.map fun p => if p.2 = k then f p.1 else p.1 }

/-- A cluster cache acknowledges the mark (12 R345 step 2). -/
def execDrainMarkAck (k cl : Nat) (s : State) : Out := .next (s.modUnmap k fun u => { u with acks := u.acks.filter (· != cl) })

/-- The wait is over (12 R345 step 3): by then every lease of the page has run out. -/
def execUnmapwaitExpire (k : Nat) (s : State) : Out :=
  .next (match s.unmaps[k]? with
    | none => s
    | some u =>
      if u.waited || !u.acks.isEmpty || s.columns.any (fun c => u.cols.contains c.1 && c.2.tlb.any fun x => x.ctx == u.ctx && x.page == u.off) then s
      else s.modUnmap k fun u => { u with waited := true, probes := (s.ctx u.ctx).liveCols })

/-- An access of a watch used the old translation of a page in a column and is not performed (12 R345 step 4). What a watch that is
switched out holds in its replay queue is translated again. -/
def Watch.usesPage (w : Watch) (pcn off size : Nat) : Bool :=
  let hit (a : Acc) (x : Word) : Bool := a.pcn == pcn && !a.pend && tagOf x == 0 && decide (off ≤ offOf x ∧ offOf x < off + size)
  (w.fifo.any fun e => hit e.acc e.acc.addr) ||
  (w.ops ++ w.freeAtoms).any fun o => !o.done && o.kind != .engine && (w.bank == .live || o.goesOn) && o.accs.any fun a =>
    !a.got && (hit a a.addr || (o.kind == .acpy && a.size != 0 && hit a (a.addr + BitVec.ofNat 64 (a.size - 1))))

/-- A contribution that waits in a column's ordered queue has a place under the old leaf of a page (06 R189; 12 R345). -/
def State.contribUses (s : State) (u : Unmap) (pcn : Nat) : Bool :=
  let lo := leafKey u.leaf u.size pcn u.off
  (s.column pcn).fatom.any fun k => decide (lo ≤ k.word ∧ k.word < lo + u.size)

/-- A watch that runs translates the accesses that waited for a page's drain (12 R345 step 5). -/
def State.undrain (s : State) (u : Unmap) : State :=
  (s.watchesWith fun w => w.ctx == u.ctx && s.isLive w && (s.ctx w.ctx).rung.isNone && w.ops.any fun o => !o.done && o.accs.any fun a =>
    a.pend && u.cols.contains a.pcn && decide (u.off ≤ offOf a.addr ∧ offOf a.addr < u.off + u.size)).foldl State.recheck s

/-- A column answers the drain probe (12 R345 steps 4 to 6); after the last the draining entries go. -/
def execDrainProbeAnswer (k pcn : Nat) (s : State) : Out :=
  .next (match s.unmaps[k]? with
    | none => s
    | some u =>
      if !u.probes.contains pcn || (u.cols.contains pcn && (s.contribUses u pcn ||
          s.watches.any (fun w => w.2.ctx == u.ctx && w.2.usesPage pcn u.off u.size))) then s
      else
        let rest := u.probes.filter (· != pcn)
        if !rest.isEmpty then s.modUnmap k fun u => { u with probes := rest }
        else
          let t : State := { s with
            unmaps := s.unmaps.eraseIdx k
            clusters := Tbl.mapV s.clusters fun c => { c with cache := c.cache.filter fun x => !(u.has x && x.draining) } }
          t.undrain u)

/-! ## The bank switch -/

/-- A switch is requested (12 R348). -/
def execPreemptSwitchRequest (core : Nat) (s : State) : Out :=
  .next (if (s.core core).live.isNone && (s.core core).standby == .free then s else s.requestSwitch core)

/-- Move the watches of a context on a core from one bank to another. -/
def State.moveBank (s : State) (cx core : Nat) (a b : Bank) : State :=
  { s with watches := Tbl.mapV s.watches fun (w : Watch) =>
    if w.ctx = cx ∧ w.core = core ∧ w.bank = a then { w with bank := b } else w }

/-- Incoming watches resume as RTE resumes them (12 R348, R350): what they hold in replay is translated again. -/
def State.resume (s : State) (cx core : Nat) : State :=
  (s.watchesWith fun w => w.ctx == cx && w.core == core && w.bank == .live).foldl (fun s w =>
    (s.modWatch w fun x => { x with
      ops := x.ops.map fun o => if o.replays then s.retranslate x o else o
      held := x.held.map fun h => { h with replay := h.replay.map fun r =>
        if r.kind = 3 then { r with op := s.retranslate x r.op } else r } }).recheck w) s

/-- A switch that waited begins (12 R349). -/
def State.wanted (s : State) (core : Nat) : State :=
  if (s.core core).want then
    match (s.core core).standby with
    | .free => if (s.core core).live.isNone then s.modCore core fun c => { c with want := false } else s.beginSwitch core none
    | .ready x => s.beginSwitch core (some x)
    | _ => s
  else s

/-- The banks have exchanged roles (12 R348, R349). -/
def execSwitchComplete (core : Nat) (s : State) : Out :=
  .next (
    let c := s.core core
    match c.switching with
    | none => s
    | some target =>
      let s := match c.live with
        | some x => s.moveBank x core .live .standby
        | none => s
      let s := match target with
        | some y => s.moveBank y core .standby .live
        | none => s
      let s := s.modCore core fun k => { k with
        switching := none, live := target, standby := match c.live with
          | some x => .spill x
          | none => .free }
      match target with
      | none => s
      | some y =>
        let s := (s.modCtx y fun k => { k with out := false }).queuesOf y
        ((s.reloadWdog y).resume y core).wanted core)

/-- The fill engine starts (12 R349): a context whose state stands in its save area and that may be switched in. -/
def execFillStart (core cx : Nat) (s : State) : Out :=
  .next (
    let c := s.ctx cx
    if (s.core core).standby ≠ .free || (s.core core).switching.isSome || (Tbl.find s.ctxs cx).isNone || c.saveInc || c.doom || c.rung.isSome ||
        !c.saved.contains core then s
    else s.modCore core fun k => { k with standby := .filling cx })

/-- The fill ends (12 R349). -/
def execFillDone (core : Nat) (s : State) : Out :=
  .next (match (s.core core).standby with
    | .filling cx =>
      let s := (s.moveBank cx core .saved .standby).modCtx cx fun c => { c with saved := c.saved.filter (· != core) }
      (s.modCore core fun k => { k with standby := .ready cx }).wanted core
    | _ => s)

/-- A watch's bank may be saved (12 R349; 07 R220): its stores have drained and its matrix instruction is performed. DESIGN CHOICE: a store
that cannot drain, because the MMP declined its page or because it is ordered behind what goes on at resumption only, is saved with the bank,
and those behind it (log 73). -/
def State.drainedOut (s : State) (w : Watch) : Bool :=
  w.mat.isNone && match w.fifo with
    | [] => true
    | e :: _ =>
      if e.acc.pend then !s.waits.any fun p => p.ctx == w.ctx && p.pcn == e.acc.pcn && p.off / 2 ^ 18 == offOf e.acc.addr / 2 ^ 18
      else s.storeHeld w e

/-- The stores that are saved with the bank are translated again when the watch resumes (12 R350). -/
def Watch.unplaceStores (w : Watch) : Watch :=
  { w with
    fifo := w.fifo.map fun e => { e with acc := { e.acc with pend := true } }
    ops := w.ops.map fun o => if o.kind == .st || o.kind == .sst then
        { o with accs := o.accs.map fun a => { a with pend := a.pend || !a.got } } else o }

/-- The split tables of a context's watches on a core enter the context save area (01 R22, 12 R349). -/
def State.saveTables (s : State) (cx core : Nat) : State :=
  (s.watches.filter fun x => x.2.ctx == cx && x.2.core == core && !x.2.ended).foldl
    (fun s x => (List.range 8).foldl (fun s i =>
      s.writeN (memKey .save cx x.2.home (Config.tableBase + 0x100 * x.2.slot + 24 * i)) 24 (x.2.entry i).word) s) s

/-- The spill ends (12 R349): the bank is SAVED, then FREE; a context saved on every core is switched out (11 R316). -/
def execSpillDone (core : Nat) (s : State) : Out :=
  .next (match (s.core core).standby with
    | .spill cx =>
      if s.watches.any fun w => w.2.ctx == cx && w.2.core == core && w.2.bank == .standby && !s.drainedOut w.2 then s
      else
        let s := s.saveTables cx core
        let s := { s with watches := Tbl.mapV s.watches fun (w : Watch) =>
          if w.ctx = cx ∧ w.core = core ∧ w.bank = Bank.standby then w.unplaceStores else w }
        let s := (s.moveBank cx core .standby .saved).modCtx cx fun c => { c with saved := insertAsc core c.saved }
        let s := (s.modCore core fun k => { k with standby := .free }).wanted core
        (s.settleOut cx).queuesOf cx
    | _ => s)

/-! ## Timeouts and the watchdog -/

/-- A handler overruns its timeout (12 R352). -/
def execHandlerTimeout (w : Nat) (s : State) : Out :=
  .next (s.onWatch w fun x =>
    let limit := if x.rung = 0 then (s.ctx x.ctx).wto else (s.ctx x.ctx).cto
    if !x.inh || x.ended || !s.isLive x || limit = 0 then s
    else (s.settleMatrix w).oneRungUp w { cause := 0x51 })

/-- The host has not answered within XTO (12 R352): the partition rung; the firmware destroys the contexts of `kill` (R418; log 17). -/
def execXtoTimeout (cx : Nat) (kill : List Nat) (s : State) : Out :=
  .next (
    let c := s.ctx cx
    if c.rung ≠ some 2 || c.xto = 0 then s else s.partitionRung c.part { cause := 0x51 } kill)

/-- The partition timeout is overrun (12 R352): the device rung. -/
def execPartitionTimeout (p : Nat) (s : State) : Out :=
  .next (if s.ctxs.any fun c => c.2.part == p && c.2.rung == some 3 then s.deviceRung 0x51 else s)

/-- A run of the context is in progress (12 R355). -/
def State.inRun (s : State) (cx : Nat) : Bool :=
  s.dies.any fun d => d.2.running.any fun g => geCtx (s.graphEntry g.1) == cx

/-- The watchdog reaches 0 (12 R355, R356): one that stands at 0 counts no further until it is reloaded. -/
def execWatchdogExpire (x : Expiry) (s : State) : Out :=
  let ⟨cx, kill⟩ := x
  .next (
    let c := s.ctx cx
    if c.wdogLoad = 0 || c.wdog = 0 || c.out || !s.inRun cx then s
    else
      let s := s.modCtx cx fun c => { c with wdog := 0 }
      if s.cores.any fun k => k.2.standby == .spill cx then
        (s.modCtx cx fun c => { c with saveInc := true }).partitionRung c.part { cause := 0x5A } kill
      else s.contextRung cx { cause := 0x53 })

/-- A spill is stuck (12 R356): the device rung. -/
def execSpillstuck (core : Nat) (s : State) : Out :=
  .next (match (s.core core).standby with
    | .spill _ => s.deviceRung 0x56
    | _ => s)

end Sys2Proof.Machine
end

