-- ==== Sys2Proof/Machine/Groups.lean ====
section
/-! DEFINITION. Groups of collectives (15 R397 to R403) and COLL (R401 to R405). -/

namespace Sys2Proof.Machine

/-! ## Descriptors -/

/-- A self address of tag 0 (15 R398). -/
def selfGlobal (a : Word) (align : Nat) : Bool := a.extractLsb' 52 12 == 0 && colOf a == 0x3FF && offOf a % align == 0

/-- A descriptor that breaks 15 R398 and R402. -/
def groupBad (d : List Word) : Bool :=
  let ms := List.range (gdCount d)
  decide (1 < gdBits d 9 2) || gdDt d == 3 || gdFn d == 3 || gdBits d 23 9 != 0 || gdNchk d == 0 || decide (4096 < gdNchk d) ||
  gdNstr d == 0 || decide (1024 < gdNstr d) || decide (gdCount d ≤ gdMy d) || gdBits d 208 48 != 0 ||
  ((List.range 4).any fun i => d[4 + i]?.getD 0 != 0) || !selfGlobal (gdBuf d) 2048 ||
  (if gdProg d = 0 then gdPlen d != 0 else !selfGlobal (gdProg d) 8 || decide (gdPlen d < 2) || decide (256 < gdPlen d)) ||
  (ms.any fun i => gdBits d (560 + 64 * i) 16 != 0) ||
  (if gdNest d then (ms.any fun i => gdSize d i == 0) || decide (65535 < gdRanks d)
   else ms.any fun i => gdSize d i != 1 || gdSub d i != 0)

/-- The header of a chunk program (15 R411). -/
def progBad (len : Nat) (h : Word) : Bool :=
  h.extractLsb' 0 16 != 0x4D43 || (h.extractLsb' 16 12).toNat != len || h.extractLsb' 28 36 != 0

/-- Every stream of a run. -/
def Run.allStreams (r : Run) : List Stream := r.strands.flatMap fun x => x.streams.map (·.2)

/-- DRAIN (15 R397): the group's chunks in the send and landing stores, and the grants not yet filled. -/
def State.drainOf (s : State) (cx g : Nat) : Nat :=
  min 0xFFFF (((s.runs.filter fun r => r.ctx == cx && r.group == g).flatMap Run.allStreams).foldl
      (fun n k => n + k.store.length + (k.given - k.done)) 0 + (s.group cx g).owed.foldl (fun n o => n + o.n) 0)

/-- An entry of the group table (15 R397). -/
def State.groupWord (s : State) (cx g : Nat) : Word :=
  let x := s.group cx g
  BitVec.ofNat 64 ((if x.def_ then 1 else 0) + x.use.toNat <<< 1 + x.run.toNat <<< 9 + x.step.toNat <<< 17 + (if x.abt then 1 else 0) <<< 33 +
    s.drainOf cx g <<< 34)

/-- A DEFINE or a RELEASE waits (15 R402): a run of the group is in progress on this device, or DRAIN is not 0. -/
def State.groupBusy (s : State) (cx g : Nat) : Bool := (s.starts.any fun r => r.ctx == cx && r.group == g) || (s.runs.any fun r => r.ctx == cx && r.group == g) || s.drainOf cx g != 0

/-! ## The control instructions -/

/-- The use named by a flit is one that this device has still to define (15 R391, R402). -/
def Group.before (x : Group) (use : BitVec 8) : Bool := decide (1 ≤ (use - x.use).toNat ∧ (use - x.use).toNat < 128)

/-- A DEFINE's new use (15 R402). DEDUCED (log 89): it is aborted from the start where an ABORT for it has come already (R403, R415). -/
def Group.define (x : Group) (d prog : List Word) : Group :=
  let y : Group := { def_ := true, use := x.use + 1, desc := d, prog := prog, abt := x.ahead.contains (x.use + 1) }
  { y with ahead := x.ahead.filter y.before }

/-- The chunk program of a descriptor (15 R402), read as the descriptor is, under 06 R195: it is not admitted to the directory's offsets (10
R290). -/
def State.readProgram (s : State) (d : List Word) : Except Prep (List Word) :=
  let r : AReq := { size := 8, align := 8, tags := [0] }
  match if gdProg d = 0 then none else s.checkAddr s.cw s.cw.home { r with size := 8 * gdPlen d } (gdProg d) with
  | some f => .error (.trap { cause := f.cause, addr := gdProg d })
  | none => s.readWords r (gdProg d) (gdPlen d)

/-- COLL.DEFINE (15 R402). -/
def State.collDefine (s : State) (i : Instr) (b : Reg) (g : Byte) (sc : Scope) : State :=
  let at_ := s.sreg b
  let r : AReq := { size := 64, align := 64, tags := [0, 1] }
  s.access r at_ fun acc => s.reading acc 64 fun v =>
    let n := 8 + gdCount (wordsOf 8 v)
    match s.checkAddr s.cw s.cw.home { r with size := 8 * n } at_ with
    | some f => s.trap { cause := f.cause, addr := at_ }
    | none =>
      match s.readWords r at_ n with
      | .error p => s.andThen p fun _ => s
      | .ok d =>
        let bad : State := s.trap { cause := 0x45 }
        if groupBad d then bad
        else match s.readProgram d with
          | .error p => s.andThen p fun _ => s
          | .ok prog =>
            if gdProg d != 0 && progBad (gdPlen d) (prog.head?.getD 0) then bad
            else if s.groupBusy s.cw.ctx g.toNat || !s.released .rel sc then s
            else
              let past := s.past.filter fun r => !(r.ctx == s.cw.ctx && r.group == g.toNat)
              ({ s with past := past }.setGroup s.cw.ctx g.toNat ((s.group s.cw.ctx g.toNat).define d prog)).finish i

def execCollDefine (b : Reg) (g : Byte) (sc : Scope) (s : State) : Out :=
  .next (s.unpaired (s.collDefine (.collDefine b g sc) b g sc))

/-- COLL.RELEASE (15 R403). -/
def execCollRelease (g : Byte) (sc : Scope) (s : State) : Out :=
  let x := s.group s.cw.ctx g.toNat
  .next (s.unpaired (
    if !x.def_ then s.trap { cause := 0x47 }
    else if s.groupBusy s.cw.ctx g.toNat || !s.released .rel sc then s
    else (s.setGroup s.cw.ctx g.toNat { x with def_ := false }).finish (.collRelease g sc)))

/-! ## Beam ports and routes -/

def State.port (s : State) (p : Nat) : Port := Tbl.getD s.ports p {}
def State.modPort (s : State) (p : Nat) (f : Port → Port) : State := { s with ports := Tbl.put s.ports p (f (s.port p)) }

/-- The header of a flit as a number, and the CRC-32C over header and payload, as the Fold of 09 R271 (15 R391). -/
def flitHeader (f : Flit) : Nat :=
  f.dst.toNat + f.src.toNat <<< 16 + f.hops.toNat <<< 32 + f.hidx.toNat <<< 64 + f.nhm1.toNat <<< 67 + f.kind.toNat <<< 70 +
    f.group.toNat <<< 74 + f.use.toNat <<< 82 + f.run.toNat <<< 90 + f.strand.toNat <<< 98 + f.seq.toNat <<< 108 + f.flit.toNat <<< 124 +
    (if f.rsv then 1 else 0) <<< 127
def flitCrc (f : Flit) : W32 := (words32 16 (flitHeader f) ++ words32 256 f.pay.toNat).foldl foldSig startSig

/-- A flit in the frame that a port sends it in (15 R391). -/
def Port.frame (x : Port) (seq : Nat) (f : Flit) : Flit :=
  { f with lseq := BitVec.ofNat 16 seq, lack := BitVec.ofNat 16 (x.expect + 65535), crc := flitCrc f }
/-- A sent flit that the neighbour has not acknowledged. -/
def Port.unacked (x : Port) (y : SentFlit) : Bool :=
  decide ((y.seq + 65536 - x.acked) % 65536 < (x.seq + 65536 - x.acked) % 65536)
/-- A flit goes out; the transmitter keeps its last 256 (15 R392). -/
def Port.push (x : Port) (f : Flit) : Port :=
  let l := x.sent ++ [{ seq := x.seq, flit := x.frame x.seq f }]
  { x with sent := l.drop (l.length - 256), seq := (x.seq + 1) % 65536 }
/-- A flit received in order (15 R391): the next one is expected, and it tells what the neighbour has received. -/
def Port.took (x : Port) (f : Flit) : Port :=
  let n := (f.lack.toNat + 1) % 65536
  let acked := if (n + 65536 - x.acked) % 65536 ≤ (x.seq + 65536 - x.acked) % 65536 then n else x.acked
  { x with expect := (x.expect + 1) % 65536, acked := acked }

/-- A port takes a flit (15 R391, R392); a port that is down discards it. -/
def State.portSend (s : State) (p : Nat) (f : Flit) : State :=
  if !(s.port p).up then s else s.modPort p fun x => x.push f

/-- Route i of entry e (15 R393). -/
def State.routeWord (s : State) (e i : Nat) : Word := Tbl.getD s.routes (4 * e + i) 0
/-- The route that an entry uses (15 R393). -/
def State.routeOf (s : State) (e : Nat) : Option Nat :=
  (List.range 4).find? fun i => (s.routeWord e i).getLsbD 0 && !s.badRoutes.contains (e, i)
/-- The hops of a route, as ports. -/
def routeHops (w : Word) : List Nat :=
  (List.range ((w.extractLsb' 1 3).toNat + 1)).map fun h => (w.extractLsb' (4 * h + 4) 4).toNat

/-- Send a flit by the hops of a route (15 R394). -/
def State.sendRoute (s : State) (w : Word) (f : Flit) : State :=
  s.portSend ((routeHops w).head?.getD 0) { f with src := s.address, hops := w.extractLsb' 4 32, hidx := 0, nhm1 := w.extractLsb' 1 3 }
/-- Send a flit by the lowest usable route of an entry, if there is one (15 R393). -/
def State.sendBy (s : State) (e : Nat) (f : Flit) : State :=
  match s.routeOf e with
  | none => s
  | some i => s.sendRoute (s.routeWord e i) f
/-- The route of a stream towards an entry (15 R393): the one it keeps until that is marked unusable, else the lowest usable one. -/
def State.streamRoute (s : State) (k : Stream) (e : Nat) : Option (Nat × Word) :=
  let pick := (s.routeOf e).map fun i => (i, s.routeWord e i)
  match k.route with
  | some r => if r.1 = e ∧ !s.badRoutes.contains (e, r.2.1) then some r.2 else pick
  | none => pick

/-- A flit with no payload. -/
def bareFlit (kind dst : Nat) (g : Nat) (use run : BitVec 8) (strand seq : Nat) : Flit :=
  { dst := BitVec.ofNat 16 dst, src := 0, hops := 0, hidx := 0, nhm1 := 0, kind := BitVec.ofNat 4 kind, group := BitVec.ofNat 8 g
    use := use, run := run, strand := BitVec.ofNat 10 strand, seq := BitVec.ofNat 16 seq, flit := 0, rsv := false, pay := 0 }

/-- ABORT flits to every other rank's device (15 R403), those of an undefined subgroup on the path too (R406). -/
def State.sendAborts (s : State) (cx g : Nat) : State :=
  let x := s.group cx g
  (groupRanks (s.groupPart cx x.desc)).foldl (fun s p =>
    if p.1 = s.address.toNat then s else s.sendBy p.2 (bareFlit 5 p.1 g x.use 0 0 0)) s

/-- Abort the use of a group (15 R403, R406). -/
def State.abortGroup (s : State) (cx g : Nat) : State :=
  (s.setGroup cx g { s.group cx g with abt := true }).sendAborts cx g

/-- COLL.ABORT (15 R403). -/
def execCollAbort (g : Byte) (sc : Scope) (s : State) : Out :=
  .next (s.unpaired (
    if !(s.group s.cw.ctx g.toNat).def_ then s.trap { cause := 0x47 }
    else if !s.released .rel sc then s
    else (s.abortGroup s.cw.ctx g.toNat).finish (.collAbort g sc)))

/-- The fragment waits at a COLL.DEFINE or COLL.RELEASE for longer than WTO (15 R402): the trap, where the control instruction that
stands there is one of them and WTO is not 0. -/
def State.waitsForGroup (s : State) (i : Instr) : Bool :=
  match i with
  | .collDefine _ g _ => s.groupBusy s.cw.ctx g.toNat
  | .collRelease g _ => s.groupBusy s.cw.ctx g.toNat
  | _ => false

/-- The control instruction at the executing fragment, or what stops its fetch (04 R92; 12 R339). -/
def State.fetchInstr (s : State) : Prep × Instr :=
  let pc := s.frag.pc
  match s.codeWord pc with
  | (.ok _, w0) =>
    let n := lenWords w0
    let a := if n = 1 then (Prep.ok {}, 0) else s.codeWord (pc + 4)
    let b := if n = 3 then s.codeWord (pc + 8) else (Prep.ok {}, 0)
    match a, b with
    | (.ok _, w1), (.ok _, w2) => (.ok {}, decode w0 w1 w2)
    | (.ok _, _), (p, _) => (p, .nop)
    | (p, _), _ => (p, .nop)
  | (p, _) => (p, .nop)

def execGrpbusy (w e : Nat) (s : State) : Out :=
  .next (s.onWatch w fun x =>
    let f := x.entry e
    if !f.valid || f.wait || x.ended || !s.isLive x || (s.ctx x.ctx).wto = 0 then s
    else s.asWatch w e fun t => match t.fetchInstr with
      | (.ok _, i) => if t.waitsForGroup i then t.trap { cause := 0x46 } else t
      | _ => t)

/-! ## Runs as a member issues them -/

/-- The pieces that a drain writes (15 R405): column, chunk, byte in the chunk, and the bytes. -/
def Watch.drainParts (uid : Nat) (w : Watch) (t : Nat) (f32 : Bool) (j : Nat → Nat) : List (Nat × Nat × Nat × List Byte) :=
  (List.range w.ncols).flatMap fun c =>
    (List.range 16).map fun r =>
      let row := (List.range 64).map fun n => w.tile uid t (16 * c + r) n
      if f32 then (w.home + c, 2 * j (w.home + c) + r / 8, 256 * (r % 8), row.flatMap fun v => leBytes 4 v.toNat)
      else (w.home + c, j (w.home + c), 128 * r, row.flatMap fun v => leBytes 2 (roundVal .bf16 .rne false (decodeVal .f32 v.toNat)))

/-- The index of a watch among the crew's members that hold a column, in ascending slot (15 R405): members that departed by fault hold theirs
until the run starts (R404). -/
def State.drainIndex (s : State) (crew pcn : Nat) : Nat :=
  match s.crew s.cw.ctx crew with
  | none => 0
  | some x => (x.members.filter fun m => m.cols.contains pcn && decide (m.slot < s.cw.slot)).length

/-- What a drain comes to: it waits, for a page or for another command's range (08 R235), or it writes and gives the run a code, 0 for none,
with the column that has it (15 R405; 12 R339). Code 255 says that the fragment waits. -/
def State.drain (s : State) (d : List Word) (crew t : Nat) (f32 : Bool) : Option (State × Nat × Nat) :=
  let w := s.cw
  let parts := w.drainParts s.cur t f32 (s.drainIndex crew)
  let place (p : Nat × Nat × Nat × List Byte) : XRes := s.engineXlate w.ctx p.1 (chunkOff d 0 p.2.1 + p.2.2.1) true
  let off (p : Nat × Nat × Nat × List Byte) : Nat := chunkOff d 0 p.2.1 + p.2.2.1
  let declined (p : Nat × Nat × Nat × List Byte) : Bool :=
    s.waits.any fun k => k.drain == 2 && k.w == s.cur && k.pcn == p.1 && k.off / 2 ^ 18 == off p / 2 ^ 18
  let inside := parts.filter fun p => decide (p.2.1 < gdNchk d)
  match inside.find? fun p => match place p with
      | .nonres => !declined p
      | .wait => true
      | _ => s.lockWaits 0 w.ctx p.1 0 (off p) p.2.2.2.length true with
  | some p =>
    if s.waits.any fun k => k.drain == 1 && k.w == s.cur && k.pcn == p.1 && k.off == off p then none
    else if place p ≠ .nonres then none
    else some (s.addWait { ctx := w.ctx, pcn := p.1, off := off p, w := s.cur, drain := 1
                           addr := (s.ctx w.ctx).addrOf p.1 (off p) }, 255, 0)
  | none =>
    let put (r : State × Nat × Nat) (p : Nat × Nat × Nat × List Byte) : State × Nat × Nat :=
      match place p with
      | .ok key _ => (r.1.colWrite p.1 key p.2.2.2, r.2)
      | _ => (r.1, if r.2.1 = 0 then (3, p.1) else r.2)
    let r := inside.foldl put ({ s with waits := s.waits.filter fun k => !(k.drain == 2 && k.w == s.cur) }, 0, 0)
    match parts.find? fun p => !decide (p.2.1 < gdNchk d) with
    | some p => some (r.1, if r.2.1 = 0 then (10, p.1) else r.2)
    | none => some r

/-- The arrival of a member at the crew controller (15 R404): the last one starts the run. -/
def State.collArrive (s : State) (i : Instr) (g : Nat) (min key : Nat) (bad : Nat × Nat) (sc : Scope) : State :=
  let x := s.group s.cw.ctx g
  (s.modCtx s.cw.ctx fun c => { c with
    colls := c.colls ++ [{ group := g, crew := gdCrew x.desc, w := s.cur, bad := bad.1, badCol := bad.2, use := x.use, min_ := BitVec.ofNat 6 min
                           obj := key, scope := sc, launch := s.cw.launch }] }).recount s.cw.ctx (gdCrew x.desc) |>.finish i

/-- A run (15 R404, R405). -/
def State.collRun (s : State) (i : Instr) (op : Nat) (t : B3) (dr : B2) (b : Reg) (g : Byte) (sc : Scope) : State :=
  let x := s.group s.cw.ctx g.toNat
  let at_ := s.sreg b
  let bad (c : Nat) : State := s.trap { cause := c, addr := at_ }
  if !x.def_ then s.trap { cause := 0x47 }
  else if !s.isMember (gdCrew x.desc) then s.trap { cause := 0x21 }
  else s.withObject false b fun obj =>
    match s.coreColumn s.cw at_ with
    | none => bad 0x11
    | some p =>
      if (s.layout s.cw.ctx p).scratch < offOf at_ + 48 then bad 0x14
      else if s.lockHit s.cw.ctx p 1 (offOf at_ + 16) 32 true then bad 0x15
      else if !s.released .rel sc || (dr != 0 && s.cw.mat.isSome) then s
      else
        let min := op + dr.toNat * 8
        let key := obj.getD 0
        if dr = 0 then s.collArrive i g.toNat min key (0, 0) sc
        else match s.drain x.desc (gdCrew x.desc) t.toNat (dr == 2) with
          | none => s
          | some (u, code) => if code.1 = 255 then u else u.collArrive i g.toNat min key code sc

def execCollAllred (t : B3) (dr : B2) (b : Reg) (g : Byte) (sc : Scope) (s : State) : Out :=
  .next (s.unpaired (s.collRun (.collAllred t dr b g sc) 0 t dr b g sc))
def execCollReduce (t : B3) (dr : B2) (b : Reg) (g : Byte) (sc : Scope) (s : State) : Out :=
  .next (s.unpaired (s.collRun (.collReduce t dr b g sc) 1 t dr b g sc))
def execCollBcast (t : B3) (dr : B2) (b : Reg) (g : Byte) (sc : Scope) (s : State) : Out :=
  .next (s.unpaired (s.collRun (.collBcast t dr b g sc) 2 t dr b g sc))
def execCollGather (t : B3) (dr : B2) (b : Reg) (g : Byte) (sc : Scope) (s : State) : Out :=
  .next (s.unpaired (s.collRun (.collGather t dr b g sc) 3 t dr b g sc))
def execCollRscat (t : B3) (dr : B2) (b : Reg) (g : Byte) (sc : Scope) (s : State) : Out :=
  .next (s.unpaired (s.collRun (.collRscat t dr b g sc) 4 t dr b g sc))
def execCollRot (t : B3) (dr : B2) (b : Reg) (g : Byte) (sc : Scope) (s : State) : Out :=
  .next (s.unpaired (s.collRun (.collRot t dr b g sc) 5 t dr b g sc))
def execCollProg (t : B3) (dr : B2) (b : Reg) (g : Byte) (sc : Scope) (s : State) : Out :=
  .next (s.unpaired (s.collRun (.collProg t dr b g sc) 6 t dr b g sc))

end Sys2Proof.Machine
end

