-- ==== Sys2Proof/Machine/Tender.lean ====
section
/-! DEFINITION. Runs of collectives (15 R404, R406, R411 to R415), the chunk words (R413), Beam (R390 to R394), and routes. -/

namespace Sys2Proof.Machine

/-! ## Runs and strands -/

def State.runOf (s : State) (id : Nat) : Option Run := s.runs.find? (·.id == id)
def State.modRun (s : State) (id : Nat) (f : Run → Run) : State := { s with runs := modifyFirst (·.id == id) f s.runs }
def State.modStrand (s : State) (id i : Nat) (f : Strand → Strand) : State :=
  s.modRun id fun r => { r with strands := r.strands.zipIdx.map fun p => if p.2 = i then f p.1 else p.1 }
def Strand.stream (x : Strand) (p : Nat) : Stream := Tbl.getD x.streams p {}
def State.modStream (s : State) (id i p : Nat) (f : Stream → Stream) : State :=
  s.modStrand id i fun x => { x with streams := Tbl.put x.streams p (f (x.stream p)) }
/-- A strand halts with a code (15 R413; 02 R52): its run ends. -/
def State.haltStrand (s : State) (id i code : Nat) : State :=
  s.modStrand id i fun x => { x with code := if x.code = 0 then code else x.code }

/-- The run goes on: nothing has ended it (15 R406, R415). -/
def State.runGoes (s : State) (r : Run) : Bool :=
  let g := s.group r.ctx r.group
  r.code == 0 && r.strands.all (fun x => x.code == 0) && !(g.abt && g.use == r.use)

/-! ## Chunks -/

/-- What an access of a run to a chunk comes to: its place, or a wait, or a failure (12 R339). -/
inductive ChunkAt where
  | at (key : Nat)
  | wait
  | service (off : Nat)
  | fail (code : Nat)
  deriving DecidableEq, Repr

/-- The place of chunk c of channel h in a strand's column. -/
def State.chunkAt (s : State) (r : Run) (x : Strand) (h c : Nat) (store : Bool) : ChunkAt :=
  let o := chunkOff r.desc h c
  let k := s.ctx r.ctx
  if (k.pcnLive (k.lcn x.col)).isNone then .fail 2
  else match s.engineXlate r.ctx x.col o store with
    | .ok key _ => .at key
    | .fault _ => .fail 3
    | .nonres => .service o
    | .wait => .wait

/-- A chunk that a strand reads: from its column, or the Tender's own store (log 14). -/
def State.readChunk (s : State) (r : Run) (x : Strand) (h c : Nat) : ChunkAt × List Byte :=
  if h = ownCh then (.at 0, Tbl.getD x.store c (List.replicate 2048 0))
  else match s.chunkAt r x h c false with
    | .at key => (.at key, s.colBytes x.col key 2048)
    | a => (a, [])

/-- A chunk that a strand writes. -/
def State.writeChunk (s : State) (id i : Nat) (r : Run) (x : Strand) (h c : Nat) (v : List Byte) : ChunkAt × State :=
  if h = ownCh then (.at 0, s.modStrand id i fun x => { x with store := Tbl.put x.store c v })
  else match s.chunkAt r x h c true with
    | .at key => (.at key, s.colWrite x.col key v)
    | a => (a, s)

/-- Wait for the MMP, or halt, as an access came to (12 R339; 15 R406). -/
def State.chunkStop (s : State) (id i : Nat) (r : Run) (a : ChunkAt) : State :=
  match a with
  | .at _ => s
  | .wait => s
  | .service o => s.launchWait id r.ctx (r.strand i).col o
  | .fail c => s.haltStrand id i c

/-- The elements of a chunk combined (03 R91): `a` is operand a. -/
def reduceChunk (dt fn : Nat) (a b : List Byte) : List Byte :=
  let n := if dt = 0 then 2 else 4
  let f : Fm := if dt = 0 then .bf16 else .f32
  (List.range (2048 / n)).flatMap fun e =>
    let at_ (l : List Byte) : Nat := leNat ((l.drop (n * e)).take n)
    leBytes n (reduceVal f fn (at_ a) (at_ b))

/-! ## Sending -/

/-- The device and the route entry that a strand uses to reach a peer (15 R413 ROUTE). -/
def Run.via (r : Run) (x : Strand) (p : Nat) : Nat × Nat :=
  let d := r.peers[p]?.getD (0, 0)
  (d.1, Tbl.getD x.routes d.1 d.2)

/-- A flit from a strand to the same strand of a peer, by the route that their stream keeps (15 R393): NOROUTE where no route is usable
(R406). -/
def State.strandFlit (s : State) (r : Run) (i p kind seq flit : Nat) (pay : BitVec 2048) : State :=
  let (dev, e) := r.via (r.strand i) p
  match s.streamRoute ((r.strand i).stream p) e with
  | none => s.haltStrand r.id i 7
  | some (j, w) =>
    (s.modStream r.id i p fun k => { k with route := some (e, j, w) }).sendRoute w
      { bareFlit kind dev r.group r.use r.run i seq with flit := BitVec.ofNat 3 flit, pay := pay }

/-- The bytes of a flit of a chunk. -/
def payOf (v : List Byte) (k : Nat) : BitVec 2048 := BitVec.ofNat 2048 (leNat ((v.drop (256 * k)).take 256))
def payBytes (p : BitVec 2048) : List Byte := leBytes 256 p.toNat

/-- The eight flits of a chunk (15 R391). -/
def State.chunkFlits (s : State) (r : Run) (i p seq : Nat) (v : List Byte) : State :=
  (List.range 8).foldl (fun s k => s.strandFlit r i p 0 seq k (payOf v k)) s

/-- The sending transfer whose chunk has a sequence number in the stream to a peer. -/
def Strand.sender (x : Strand) (p seq : Nat) : Option (Act × Nat) :=
  x.xfers.findSome? fun t => (t.dests.find? fun q => q.1 == p && decide (q.2 ≤ seq ∧ seq < q.2 + t.act.n)).map fun q => (t.act, q.2)

/-- The streams of the strands that a Tender serves. -/
def State.tenderStreams (s : State) (t : Nat) : List Stream :=
  s.runs.flatMap fun r => (r.strands.filter fun x => tenderOf x.col == t).flatMap fun x => x.streams.map (·.2)
/-- A Tender's send store holds 512 chunks (15 R395). -/
def State.sendRoom (s : State) (t : Nat) : Bool := decide ((s.tenderStreams t).foldl (fun n k => n + k.store.length) 0 < 512)
/-- The places of a Tender's landing store, 512 in all, that no grant has given away (15 R395, R412). -/
def State.landRoom (s : State) (t : Nat) : Nat := 512 - (s.tenderStreams t).foldl (fun n k => n + (k.given - k.done)) 0

/-- The next chunk to a peer goes out, where a grant stands (15 R412). -/
def State.sendNext (s : State) (id i p : Nat) : State × Bool :=
  match s.runOf id with
  | none => (s, false)
  | some r =>
    let x := r.strand i
    let k := x.stream p
    if !s.runGoes r || k.grant ≤ k.sendSeq || !s.sendRoom (tenderOf x.col) then (s, false)
    else match x.sender p k.sendSeq with
      | none => (s, false)
      | some (a, base) =>
        match s.readChunk r x a.ch (a.ck + (k.sendSeq - base)) with
        | (.at _, v) =>
          let t := s.modStream id i p fun k => { k with sendSeq := k.sendSeq + 1, store := k.store ++ [(k.sendSeq, v)] }
          (t.chunkFlits r i p k.sendSeq v, true)
        | (w, _) => (s.chunkStop id i r w, false)

/-- A 16-bit count near a count (15 R391). -/
def countNear (base : Nat) (v : B16) : Nat :=
  let d := (v - BitVec.ofNat 16 base).toNat
  if d < 32768 then base + d else base + d - 65536

/-- A list of lengths in 512 bits: how many there are, and the last 31 of them, the latest first. -/
def packLens (l : List Nat) : Nat :=
  l.length % 65536 + (l.reverse.take 31).zipIdx.foldl (fun n t => n + (t.1 % 65536) <<< (16 * (t.2 + 1))) 0
/-- The lengths that stand in 512 bits of a payload, with their places in the list; `near` is a count near theirs. -/
def readLens (p : BitVec 2048) (at_ near : Nat) : List (Nat × Nat) :=
  let n := countNear near (p.extractLsb' at_ 16)
  (List.range (min 31 n)).map fun k => (n - 1 - k, (p.extractLsb' (at_ + 16 * (k + 1)) 16).toNat)

/-- What a GRANT's payload tells (15 R406 NOGROUP, R412; log 21): the definition in bits [575:0], from bit 1024 on the lengths of the
receiving transfers from that peer, and from bit 1536 on those of the sending ones to it. -/
def Run.grantPay (r : Run) (i p : Nat) : BitVec 2048 :=
  let k := (r.strand i).stream p
  BitVec.ofNat 2048 (gdSig r.desc + packLens k.ins <<< 1024 + packLens k.outs <<< 1536)
def grantSig (p : BitVec 2048) : Nat := p.toNat % 2 ^ 1024

/-- Two lists of lengths differ at a place that both know (15 R412). -/
def pairsDiffer (mine : List Nat) (theirs : List (Nat × Nat)) : Bool :=
  theirs.any fun y => (mine[y.1]?).any fun n => n % 65536 != y.2
/-- A pair of transfers of no chunks (15 R412). -/
def pairsEmpty (mine : List Nat) (theirs : List (Nat × Nat)) : Bool := theirs.any fun y => y.2 == 0 && mine[y.1]? == some 0

/-- The lengths told to a peer in a GRANT that grants nothing new (log 21). -/
def State.tellPairs (s : State) (id i p : Nat) : State :=
  match s.runOf id with
  | none => s
  | some r => s.strandFlit r i p 2 ((r.strand i).stream p).given 0 (r.grantPay i p)

/-- A sending transfer whose partner has another length (15 R412): the receiver is told by an ABORT flit with that code (log 21). -/
def State.checkPairs (s : State) (id i p : Nat) : State :=
  match s.runOf id with
  | none => s
  | some r =>
    let k := (r.strand i).stream p
    if s.runGoes r && pairsDiffer k.outs k.theirs then s.strandFlit r i p 5 0 0 0x0C else s

/-- A grant is taken (15 R412): a peer that holds another definition ends the run with NOGROUP (R406), a peer's sending transfer of another
length with BADFLD. The partner of a sending transfer of no chunks is told that the two agree (log 21). -/
def State.takeGrant (s : State) (r : Run) (i p : Nat) (f : Flit) : State :=
  if grantSig f.pay ≠ gdSig r.desc then s.haltStrand r.id i 8
  else
    let k := (r.strand i).stream p
    let theirs := readLens f.pay 1024 k.outs.length
    let sent := readLens f.pay 1536 k.ins.length
    let put (t : Tbl Nat) (l : List (Nat × Nat)) : Tbl Nat := l.foldl (fun t y => Tbl.put t y.1 y.2) t
    let t := s.modStream r.id i p fun k => { k with
      grant := max k.grant (countNear k.grant f.seq), theirs := put k.theirs theirs, sent := put k.sent sent }
    let t := t.checkPairs r.id i p
    let t := if pairsEmpty k.outs (theirs.filter fun y => (Tbl.find k.theirs y.1).isNone) then t.tellPairs r.id i p else t
    if pairsDiffer k.ins sent then t.haltStrand r.id i 0x0C else t

/-- The first receiving transfer of a strand with its place. -/
def Strand.receiver (x : Strand) : Option (Xfer × Nat) :=
  (x.xfers.zipIdx.find? fun t => t.1.act.op == 1 || t.1.act.op == 2)

/-- The strand's first unfinished receiving transfer is from a peer, and its next chunk is not granted yet. -/
def Strand.headWaits (x : Strand) (p : Nat) : Bool :=
  match x.receiver with
  | some (t, _) => t.act.peer == p && t.act.n != 0 && decide ((x.stream p).given ≤ t.base + t.applied)
  | none => false

/-- The receiver's grants to a peer (15 R412): up to 8 transfers in progress, as the Tender's landing store has room. DESIGN CHOICE: the
next chunk of a strand's first unfinished receiving transfer is granted while any place is left; all else only while fewer than 128 of the
512 places are given away, so that no run takes the places that another needs to go on (R396; log 91). -/
def State.giveGrants (s : State) (id i p : Nat) : State :=
  match s.runOf id with
  | none => s
  | some r =>
    let k := (r.strand i).stream p
    let room := s.landRoom (tenderOf (r.strand i).col)
    let n := min k.taken (k.given + max (room - 384) (if (r.strand i).headWaits p then min 1 room else 0))
    if n ≤ k.given || !s.runGoes r then s
    else (s.modStream id i p fun k => { k with given := n }).strandFlit r i p 2 n 0 (r.grantPay i p)

/-! ## Receiving -/

/-- A receiving transfer of no chunks is complete once its partner is known to have none either; one that has some ends the run with BADFLD
(15 R412). -/
def State.emptyXfer (s : State) (id i : Nat) (x : Strand) (t : Xfer) (n : Nat) : State × Bool :=
  match Tbl.find (x.stream t.act.peer).sent t.turn with
  | some 0 => (s.modStrand id i fun x => { x with xfers := x.xfers.eraseIdx n }, true)
  | some _ => (s.haltStrand id i 0x0C, false)
  | none => (s, false)

/-- Landed chunks are applied in the program order of the receiving transfers (15 R412, R413): the next one, if it has landed. -/
def State.applyNext (s : State) (id i : Nat) : State × Bool :=
  match s.runOf id with
  | none => (s, false)
  | some r =>
    let x := r.strand i
    match if s.runGoes r then x.receiver else none with
    | none => (s, false)
    | some (t, n) =>
      let a := t.act
      let k := x.stream a.peer
      if a.n = 0 then s.emptyXfer id i x t n
      else match k.landed.find? fun c => c.1 == t.base + t.applied with
      | none => (s, false)
      | some (_, v) =>
        let old := if a.op = 2 then s.readChunk r x a.ch2 (a.ck2 + t.applied) else (.at 0, [])
        match old with
        | (.at _, o) =>
          let v := if a.op = 2 then (if a.rev then reduceChunk a.dt a.fn v o else reduceChunk a.dt a.fn o v) else v
          match s.writeChunk id i r x a.ch (a.ck + t.applied) v with
          | (.at _, u) =>
            let u := u.modStream id i a.peer fun k => { k with
              done := k.done + 1, landed := k.landed.filter fun c => c.1 != t.base + t.applied }
            let u := u.modStrand id i fun x => { x with
              xfers := if t.applied + 1 = a.n then x.xfers.eraseIdx n
                else x.xfers.zipIdx.map fun y => if y.2 = n then { y.1 with applied := y.1.applied + 1 } else y.1 }
            (u.giveGrants id i a.peer, true)
          | (w, u) => (u.chunkStop id i r w, false)
        | (w, _) => (s.chunkStop id i r w, false)

/-- Sending transfers whose every chunk is acknowledged are complete (15 R413). -/
def Strand.settled (x : Strand) : Strand :=
  { x with xfers := x.xfers.filter fun t =>
      t.dests.isEmpty || t.dests.any fun q => decide ((x.stream q.1).acked < q.2 + t.act.n) }

/-- A strand goes on as far as grants and landed chunks allow. -/
def State.pump (s : State) (id i : Nat) : Nat → State
  | 0 => s
  | n + 1 =>
    match s.applyNext id i with
    | (t, true) => t.pump id i n
    | (t, false) =>
      match t.runOf id with
      | none => t
      | some r =>
        match (List.range r.peers.length).foldl (fun (u : State × Bool) p => if u.2 then u else u.1.sendNext id i p) (t, false) with
        | (u, true) => u.pump id i n
        | (u, false) => ((r.strand i).streams.foldl (fun u k => u.giveGrants id i k.1) u).modStrand id i Strand.settled

/-- How many steps a pump can take: every chunk of the transfers in progress once. -/
def State.pumpAll (s : State) (id i : Nat) : State :=
  match s.runOf id with
  | none => s
  | some r => s.pump id i (1 + (r.strand i).xfers.foldl (fun n t => n + 1 + t.act.n * (1 + t.dests.length)) 0)

/-- Every strand goes on: pages that they waited for may be there (12 R340). -/
def State.pumpRuns (s : State) : State :=
  s.runs.foldl (fun s r => (List.range r.strands.length).foldl (fun s i => s.pumpAll r.id i) s) s

/-! ## Transfers -/

/-- The chunks that a transfer reads, and those that it writes: channel, first, end (15 R411). -/
def Act.reads (a : Act) : List (Nat × Nat × Nat) :=
  match a.op with
  | 1 => []
  | 2 => [(a.ch2, a.ck2, a.ck2 + a.n)]
  | _ => [(a.ch, a.ck, a.ck + a.n)]
def Act.writes (a : Act) : List (Nat × Nat × Nat) :=
  match a.op with
  | 1 => [(a.ch, a.ck, a.ck + a.n)]
  | 2 => [(a.ch, a.ck, a.ck + a.n)]
  | 3 => [(a.ch2, a.ck2, a.ck2 + a.n)]
  | _ => []
def chunksMeet (a b : List (Nat × Nat × Nat)) : Bool :=
  a.any fun x => b.any fun y => x.1 == y.1 && decide (x.2.1 < y.2.2 ∧ y.2.1 < x.2.2)
/-- A transfer waits for an earlier one (15 R411). -/
def Act.after (a b : Act) : Bool :=
  chunksMeet a.reads b.writes || chunksMeet a.writes b.writes || chunksMeet a.writes b.reads

/-- Whether a chunk's place is known. -/
def ChunkAt.isAt : ChunkAt → Bool
  | .at _ => true
  | _ => false

/-- Chunk k of a copy is written; the places and the bytes are those of `s`. -/
def State.copyChunk (s : State) (id i : Nat) (r : Run) (a : Act) (t : State) (k : Nat) : State :=
  let v := (s.readChunk r (r.strand i) a.ch (a.ck + k)).2
  if a.ch2 = ownCh then t.modStrand id i fun x => { x with store := Tbl.put x.store (a.ck2 + k) v }
  else match s.chunkAt r (r.strand i) a.ch2 (a.ck2 + k) true with
    | .at key => t.colWrite (r.strand i).col key v
    | _ => t

/-- Copy chunks within a column, as if through a temporary (15 R413), once every chunk's place is known. -/
def State.copyChunks (s : State) (id i : Nat) (r : Run) (a : Act) : ChunkAt × State :=
  let x := r.strand i
  let src := (List.range a.n).map fun k => (s.readChunk r x a.ch (a.ck + k)).1
  let dst := if a.ch2 = ownCh then [] else (List.range a.n).map fun k => s.chunkAt r x a.ch2 (a.ck2 + k) true
  match (src ++ dst).find? fun c => !c.isAt with
  | some w => (w, s)
  | none => (.at 0, (List.range a.n).foldl (s.copyChunk id i r a) s)

/-- The chunk indices of a transfer lie within the channel (15 R413); the own store has no end (log 14). -/
def Act.inside (nchk : Nat) (a : Act) : Bool :=
  (a.reads ++ a.writes).all fun x => x.1 == ownCh || decide (x.2.2 ≤ nchk)

/-- A stream with one more receiving transfer, or sending transfer, of n chunks (15 R412). -/
def Stream.receiving (k : Stream) (n : Nat) : Stream := { k with taken := k.taken + n, ins := k.ins ++ [n] }
def Stream.sending (k : Stream) (n : Nat) : Stream := { k with queued := k.queued + n, outs := k.outs ++ [n] }

/-- A sending transfer that starts is compared with its partner, where the peer has told of it (15 R412). -/
def State.pairUp (s : State) (id i p : Nat) : State :=
  let t := s.checkPairs id i p
  match t.runOf id with
  | none => t
  | some r =>
    let k := (r.strand i).stream p
    if pairsEmpty k.outs (k.theirs.filter fun y => y.1 + 1 == k.outs.length) then t.tellPairs id i p else t

/-- A transfer of the strand starts (15 R411, R412), or waits. -/
def State.startXfer (s : State) (id i : Nat) (r : Run) (a : Act) (peers : List Nat) (adv : Strand → Strand) : State :=
  let x := r.strand i
  if !a.inside (gdNchk r.desc) then s.haltStrand id i 10
  else if 8 ≤ x.xfers.length || x.xfers.any fun t => a.after t.act then s.pumpAll id i
  else if a.op = 3 then
    match s.copyChunks id i r a with
    | (.at _, t) => t.modStrand id i adv
    | (w, t) => t.chunkStop id i r w
  else if a.op = 1 ∨ a.op = 2 then
    let t := s.modStrand id i fun x => { adv x with
      xfers := x.xfers ++ [{ act := a, base := (x.stream a.peer).taken, turn := (x.stream a.peer).ins.length }]
      streams := Tbl.put x.streams a.peer ((x.stream a.peer).receiving a.n) }
    ((if a.n = 0 then t.tellPairs id i a.peer else t).giveGrants id i a.peer).pumpAll id i
  else
    let t := s.modStrand id i fun x => { adv x with
      xfers := x.xfers ++ (if peers.isEmpty then [] else [{ act := a, dests := peers.map fun p => (p, (x.stream p).queued) }])
      streams := peers.foldl (fun q p => Tbl.put q p ((Tbl.getD q p {}).sending a.n)) x.streams }
    (peers.foldl (fun s p => s.pairUp id i p) t).pumpAll id i

/-! ## Chunk words -/

/-- Act as the strand that runs: its run, the strand, and the run's number and its own. -/
def State.onStrand (s : State) (k : Nat → Nat → Run → Strand → State) : State :=
  match s.runOf s.strand.1 with
  | none => s
  | some r =>
    match r.strands[s.strand.2]? with
    | none => s
    | some x => if !s.runGoes r || x.ended then s else k s.strand.1 s.strand.2 r x

/-- The peer at a signed offset (15 R413). -/
def Run.peerAt (r : Run) (o : B16) : Nat := peerRank r.rank r.nrank o
/-- The other peers. -/
def Run.others (r : Run) : List Nat := (List.range r.nrank).filter (· != r.rank)

/-- The chunk index of a transfer inside loops (15 R411). -/
def Strand.index (x : Strand) (ck n : Nat) : Nat :=
  ck + n * (match x.loops with
    | (_, i, _) :: _ => i
    | [] => 0)

def Strand.next (x : Strand) : Strand := { x with pc := x.pc + 1 }

/-- SEND (15 R413). A stream joins two different ranks (R412): an offset that names the strand's own rank halts with BADFLD. -/
def execChunkSend (ch _dt : B4) (peer ck n : B16) (s : State) : Out :=
  .next (s.onStrand fun id i r x =>
    let p := r.peerAt peer
    if p = r.rank then s.haltStrand id i 0x0C
    else s.startXfer id i r { op := 0, ch := ch.toNat, ck := x.index ck.toNat n.toNat, n := n.toNat, peer := p } [p] Strand.next)

/-- RECV (15 R413). -/
def execChunkRecv (ch _dt : B4) (peer ck n : B16) (s : State) : Out :=
  .next (s.onStrand fun id i r x =>
    let p := r.peerAt peer
    if p = r.rank then s.haltStrand id i 0x0C
    else s.startXfer id i r { op := 1, ch := ch.toNat, ck := x.index ck.toNat n.toNat, n := n.toNat, peer := p } [] Strand.next)

/-- RRED (15 R413). -/
def execChunkRred (ch dt fn : B4) (peer ck n : B16) (s : State) : Out :=
  .next (s.onStrand fun id i r x =>
    let p := r.peerAt peer
    let c := x.index ck.toNat n.toNat
    if p = r.rank ∨ 2 ≤ dt.toNat then s.haltStrand id i 0x0C
    else s.startXfer id i r { op := 2, ch := ch.toNat, ck := c, n := n.toNat, ch2 := ch.toNat, ck2 := c, peer := p, dt := dt.toNat
                              fn := fn.toNat } [] Strand.next)

/-- COPY (15 R413). -/
def execChunkCopy (ch : B4) (dst ck n : B16) (s : State) : Out :=
  .next (s.onStrand fun id i r x =>
    s.startXfer id i r { op := 3, ch := ch.toNat, ck := x.index ck.toNat n.toNat, n := n.toNat, ch2 := ch.toNat, ck2 := dst.toNat } []
      Strand.next)

/-- WAIT (15 R413). -/
def execChunkWait (ck n : B16) (s : State) : Out :=
  .next (s.onStrand fun id i _ x => if ck.toNat ≤ Tbl.getD x.sigs n.toNat 0 then s.modStrand id i Strand.next else s.pumpAll id i)

/-- SIG (15 R413). -/
def execChunkSig (peer n : B16) (s : State) : Out :=
  .next (s.onStrand fun id i r x =>
    let p := r.peerAt peer
    if !x.xfers.isEmpty then s.pumpAll id i
    else if p = r.rank then
      s.modStrand id i fun x => { x.next with sigs := Tbl.put x.sigs n.toNat (Tbl.getD x.sigs n.toNat 0 + 1) }
    else (s.modStrand id i Strand.next).strandFlit r i p 3 n.toNat 0 0)

/-- LOOP (02 R54; 15 R413): a fifth open loop halts with BADFLD. -/
def execChunkLoop (n : B16) (s : State) : Out :=
  .next (s.onStrand fun id i _ x =>
    if 4 ≤ x.loops.length then s.haltStrand id i 0x0C
    else s.modStrand id i fun x => { x.next with loops := (x.pc + 1, 0, n.toNat) :: x.loops })

/-- NEXT (15 R413). -/
def execChunkNext (s : State) : Out :=
  .next (s.onStrand fun id i _ x =>
    match x.loops with
    | [] => s.haltStrand id i 0x0C
    | (start, k, n) :: t =>
      if k + 1 < n then s.modStrand id i fun x => { x with pc := start, loops := (start, k + 1, n) :: t }
      else s.modStrand id i fun x => { x.next with loops := t })

/-- MCAST (15 R413). -/
def execChunkMcast (ch _dt : B4) (ck n : B16) (s : State) : Out :=
  .next (s.onStrand fun id i r x =>
    s.startXfer id i r { op := 8, ch := ch.toNat, ck := x.index ck.toNat n.toNat, n := n.toNat } r.others Strand.next)

/-- ROUTE (15 R413). -/
def execChunkRoute (dev ck : B16) (s : State) : Out :=
  .next (s.onStrand fun id i _ _ =>
    if 255 < ck.toNat then s.haltStrand id i 0x0C
    else s.modStrand id i fun x => { x.next with routes := Tbl.put x.routes dev.toNat ck.toNat })

/-- BAR (15 R413): BARRIER flits tell the count that the strand has reached. -/
def execChunkBar (s : State) : Out :=
  .next (s.onStrand fun id i r x =>
    if !x.xfers.isEmpty then s.pumpAll id i
    else
      let s := if x.barOpen then s
        else r.others.foldl (fun s p => s.strandFlit r i p 4 (x.bars + 1) 0 0)
          (s.modStrand id i fun x => { x with barOpen := true, bars := x.bars + 1 })
      let n := if x.barOpen then x.bars else x.bars + 1
      if r.others.all fun p => decide (n ≤ Tbl.getD x.barSeen p 0) then s.modStrand id i fun x => { x.next with barOpen := false }
      else s)

/-- END (15 R413). -/
def execChunkEnd (s : State) : Out :=
  .next (s.onStrand fun id i _ x =>
    if !x.loops.isEmpty then s.haltStrand id i 0x0C
    else if !x.xfers.isEmpty then s.pumpAll id i
    else s.modStrand id i fun x => { x with ended := true })

/-- A reserved opcode halts the run with BADOP (02 R52). -/
def execBadop (_wd : Word) (s : State) : Out := .next (s.onStrand fun id i _ _ => s.haltStrand id i 0x0B)

/-- A field outside its range halts with BADFLD (02 R52, R54). -/
def State.badField (s : State) : State := s.onStrand fun id i _ _ => s.haltStrand id i 0x0C

/-- The next step of a built-in operation (15 R409; log 14): after the last the strand waits for its transfers and ends. -/
def State.builtinStep (s : State) : State :=
  s.onStrand fun id i r x =>
    match r.acts[x.pc - 1]? with
    | none => if x.xfers.isEmpty then s.modStrand id i fun x => { x with ended := true } else s.pumpAll id i
    | some a => s.startXfer id i r a (if a.op = 0 then [a.peer] else []) Strand.next

/-! ## The start and the end of a run -/

/-- A flit of an older use, or of a run already past, of the group as every context has it (15 R402): not one of a run that has yet to
register its ranges. -/
def State.flitOld (s : State) (f : Flit) : Bool :=
  !(s.starts.any fun r => r.group == f.group.toNat && r.use == f.use && r.run == f.run) && s.ctxs.all fun c =>
    let x := c.2.group f.group.toNat
    if x.use = f.use then decide (128 ≤ (f.run - x.run).toNat) else decide (128 ≤ (f.use - x.use).toNat)

/-- What came early for a run is delivered: grants, signals and barriers (15 R412, R413). -/
def State.earlyFlit (s : State) (id : Nat) (r : Run) (f : Flit) : State :=
  match r.peers.findIdx? fun p => p.1 == f.src.toNat with
  | none => s
  | some p =>
    let i := f.strand.toNat
    let n := f.seq.toNat
    match f.kind.toNat with
    | 2 => s.takeGrant r i p f
    | 3 => s.modStrand id i fun x => { x with sigs := Tbl.put x.sigs n (Tbl.getD x.sigs n 0 + 1) }
    | 4 => s.modStrand id i fun x => { x with barSeen := Tbl.put x.barSeen p (max n (Tbl.getD x.barSeen p 0)) }
    | _ => s

/-- A run whose members have all arrived registers its channels and goes on (15 R404), in the order in which commands become acceptable (08
R234). One that has ended at its start registers nothing. -/
def execCollRunStart (cx g : Nat) (s : State) : Out :=
  .next (match s.starts.find? fun r => r.ctx == cx && r.group == g with
    | none => s
    | some r =>
      if s.runGoes r && (!s.startable r || s.runOutranked r) then s
      else
        let mine (f : Flit) : Bool := f.group.toNat == g && f.use == r.use && f.run == r.run
        let got := s.early.filter mine
        let s := { s with starts := s.starts.filter (·.id != r.id), runs := s.runs ++ [r] }
        let s := { s with early := s.early.filter fun f => !mine f && !s.flitOld f }.register (if s.runGoes r then r.locks else [])
        got.foldl (fun s f => s.earlyFlit r.id r f) s)

/-- The first failing strand and its code (15 R406). -/
def Run.firstBad (r : Run) : Option (Nat × Nat) := (r.strands.zipIdx.find? fun x => x.1.code != 0).map fun x => (x.2, x.1.code)

/-- The reply record (15 R406). -/
def Run.record (r : Run) (code fstr : Nat) : Nat :=
  code + (r.rank % 2 ^ 16) <<< 16 + (r.nrank % 2 ^ 16) <<< 32 + r.use.toNat <<< 48 + r.run.toNat <<< 56 + r.step.toNat <<< 64 +
    (min 0xFFFF r.reroutes.length) <<< 80 + fstr <<< 96

/-- The chunks that an ended run writes hold undefined values (15 R415). -/
def State.forgetWrites (s : State) (r : Run) : State :=
  let chunks := r.strands.flatMap fun x => r.writes.flatMap fun h => (List.range (h.2.2 - h.2.1)).map fun c => (x, h.1, h.2.1 + c)
  let t := chunks.foldl (fun t q => match s.chunkAt r q.1 q.2.1 q.2.2 true with
      | .at key => { t with mem := memForget t.mem key (key + 2048) }
      | _ => t) s
  { t with epoch := t.epoch + 1 }

/-- A complete run is kept, for its acknowledgements (15 R412, R414), until the group is defined anew. -/
def State.keepPast (s : State) (r : Run) : State :=
  { s with past := (s.past.filter fun q => !(q.ctx == r.ctx && q.group == r.group && q.run == r.run)) ++ [r] }

/-- What a run that ends early leaves in DRAIN: the grants that its peers have not filled (15 R397). -/
def State.keepOwed (s : State) (r : Run) : State :=
  let x := s.group r.ctx r.group
  let owed := r.strands.zipIdx.flatMap fun y => y.1.streams.filterMap fun k =>
    let n := k.2.given - (k.2.done + k.2.landed.length)
    if n = 0 then none else some { run := r.run, strand := y.2, dev := (r.peers[k.1]?.getD (0, 0)).1, n := n }
  if x.use = r.use then s.setGroup r.ctx r.group { x with owed := x.owed ++ owed } else s

/-- A rank's part ends (15 R406, R415), once no other command's range holds up a reply record (08 R235). -/
def execCollRunComplete (run : Nat) (s : State) : Out :=
  .next (match s.runOf run with
    | none => s
    | some r =>
      let g := s.group r.ctx r.group
      let aborted := g.abt && g.use == r.use
      if (s.runGoes r && !r.strands.all (·.ended)) || r.members.any fun a => !s.recordOpen run r.ctx (some a.obj) then s
      else
        let (fstr, code) := if r.code ≠ 0 then (r.fstr, r.code) else match r.firstBad with
          | some p => p
          | none => (0, if aborted then 6 else 1)
        let s := if code = 1 then s else s.forgetWrites r
        let s := r.members.foldl (fun s a =>
          (s.writeN (a.obj + 16) 32 (r.record code fstr)).engineArrive (some a.obj) (code != 1)) s
        let s := { s with runs := s.runs.filter (·.id != run), waits := s.waits.filter (·.job != run) }.unregister run
        let s := if code = 1 then s.keepPast r else s.keepOwed r
        if code = 1 ∨ code = 6 ∨ g.use ≠ r.use then s else s.abortGroup r.ctx r.group)

/-! ## Beam -/

/-- A flit that a port receives in order (15 R391, R392): the port is up and the CRC holds. One of a reserved KIND or with a reserved bit is
discarded. -/
def State.received (s : State) (p : Nat) (f : Flit) (k : State → State) : State :=
  let x := s.port p
  if !x.up || f.crc != flitCrc f || f.lseq != BitVec.ofNat 16 x.expect then s
  else
    let t := s.modPort p fun x => x.took f
    if f.rsv || 7 ≤ f.kind.toNat then t else k t

/-- A flit of a kind at the end of its route (15 R394): one for another device is discarded. -/
def State.arrived (s : State) (p kind : Nat) (f : Flit) (k : State → State) : State :=
  if (f.kind.toNat ≠ kind && decide (f.kind.toNat < 7)) || f.hidx ≠ f.nhm1 then s
  else s.received p f fun t => if f.dst ≠ s.address then t else k t

/-- The run, strand and peer that a flit is for (15 R391; which context is the model's choice, log 14). -/
def State.flitTarget (s : State) (f : Flit) : Option (Run × Nat × Nat) :=
  s.runs.findSome? fun r =>
    if r.group == f.group.toNat && r.use == f.use && r.run == f.run && decide (f.strand.toNat < r.strands.length) then
      (r.peers.findIdx? fun p => p.1 == f.src.toNat).map fun p => (r, f.strand.toNat, p)
    else none

/-- Keep a flit for a run that has not started here (15 R412, R413). -/
def State.keepEarly (s : State) (f : Flit) : State := if s.flitOld f then s else { s with early := s.early ++ [f] }

/-- The chunks landed in order: the cumulative count to acknowledge (15 R412). -/
def Stream.landedTo (k : Stream) : Nat :=
  k.done + ((List.range (k.landed.length + 1)).takeWhile fun i => k.landed.any fun c => c.1 == k.done + i).length

/-- The complete run, strand and peer that a flit is for. -/
def State.pastTarget (s : State) (f : Flit) : Option (Run × Nat × Nat) :=
  s.past.findSome? fun r =>
    if r.group == f.group.toNat && r.use == f.use && r.run == f.run && decide (f.strand.toNat < r.strands.length) then
      (r.peers.findIdx? fun p => p.1 == f.src.toNat).map fun p => (r, f.strand.toNat, p)
    else none

/-- A flit of a complete run, by the route that its stream keeps. -/
def State.pastFlit (s : State) (r : Run) (i p kind seq : Nat) (pay : BitVec 2048) : State :=
  let (dev, e) := r.via (r.strand i) p
  match s.streamRoute ((r.strand i).stream p) e with
  | none => s
  | some (_, w) => s.sendRoute w { bareFlit kind dev r.group r.use r.run i seq with pay := pay }

/-- A complete run acknowledges again what landed (15 R412, R414), and tells again of its transfers of no chunks (log 21). -/
def State.ackPast (s : State) (r : Run) (i p : Nat) : State :=
  let k := (r.strand i).stream p
  let s := if k.landedTo = 0 then s else s.pastFlit r i p 1 k.landedTo 0
  if k.outs.contains 0 then s.pastFlit r i p 2 k.given (r.grantPay i p) else s

/-- A grant that reaches a complete run (15 R412): a transfer of another length than its partner's, or one of no chunks, is answered as by a
run in progress. -/
def State.grantPast (s : State) (r : Run) (i p : Nat) (f : Flit) : State :=
  let k := (r.strand i).stream p
  let l := (readLens f.pay 1024 k.outs.length).filter fun y => (Tbl.find k.theirs y.1).isNone
  let know (x : Strand) : Strand := { x with streams := Tbl.put x.streams p { k with theirs := l.foldl (fun t y => Tbl.put t y.1 y.2) k.theirs } }
  let s := { s with past := s.past.map fun q => if q.id = r.id then
    { q with strands := q.strands.zipIdx.map fun y => if y.2 = i then know y.1 else y.1 } else q }
  if pairsDiffer k.outs l then s.pastFlit r i p 5 0 0x0C
  else if pairsEmpty k.outs l then s.pastFlit r i p 2 k.given (r.grantPay i p) else s

/-- A data flit for no run in progress: a complete run acknowledges it again (15 R412), or it fills a grant of a run that ended early
(R397). -/
def State.lateData (s : State) (f : Flit) : State :=
  match if f.flit = 7 then s.pastTarget f else none with
  | some (r, i, p) => s.ackPast r i p
  | none =>
    if f.flit ≠ 7 then s
    else { s with ctxs := Tbl.mapV s.ctxs fun c =>
      let x := c.group f.group.toNat
      let mine (o : Owed) : Bool := o.run == f.run && o.strand == f.strand.toNat && o.dev == f.src.toNat && o.n != 0
      let owed := (modifyFirst mine (fun o => { o with n := o.n - 1 }) x.owed).filter fun o => o.n != 0
      let y := { x with owed := owed }
      if x.use = f.use ∧ x.owed.any mine then { c with groups := Tbl.put c.groups f.group.toNat y } else c }

/-- A data flit (15 R412): a complete chunk lands and is acknowledged; one that has landed is discarded and acknowledged again. A run that
has stopped lets it land, which fills its grant (R397), and goes no further. -/
def execBeamData (p : Nat) (f : Flit) (s : State) : Out :=
  .next (s.arrived p 0 f fun s =>
    match s.flitTarget f with
    | none => s.lateData f
    | some (r, i, q) =>
      let k := (r.strand i).stream q
      let seq := countNear k.done f.seq
      let ack (t : State) : State :=
        match t.runOf r.id with
        | none => t
        | some r => t.strandFlit r i q 1 ((r.strand i).stream q).landedTo 0 0
      if seq < k.done || k.landed.any (·.1 == seq) then (if f.flit = 7 && s.runGoes r then ack s else s)
      else
        let parts := (k.parts.filter fun c => !(c.1 == seq && c.2.1 == f.flit.toNat)) ++ [(seq, f.flit.toNat, payBytes f.pay)]
        let mine := parts.filter (·.1 == seq)
        if mine.length < 8 then s.modStream r.id i q fun k => { k with parts := parts }
        else
          let v := (List.range 8).flatMap fun n => ((mine.find? (·.2.1 == n)).map (·.2.2)).getD []
          let t := s.modStream r.id i q fun k => { k with parts := parts.filter (·.1 != seq), landed := k.landed ++ [(seq, v)] }
          if s.runGoes r then (ack t).pumpAll r.id i else t)

/-- An acknowledgement (15 R412). -/
def execBeamAck (p : Nat) (f : Flit) (s : State) : Out :=
  .next (s.arrived p 1 f fun s =>
    match s.flitTarget f with
    | none => s
    | some (r, i, q) =>
      let n := countNear ((r.strand i).stream q).acked f.seq
      (s.modStream r.id i q fun k =>
        let n := min (max k.acked n) k.sendSeq
        { k with acked := n, store := k.store.filter fun c => decide (n ≤ c.1) }).pumpAll r.id i)

/-- A grant (15 R412). -/
def execBeamGrant (p : Nat) (f : Flit) (s : State) : Out :=
  .next (s.arrived p 2 f fun s =>
    match s.flitTarget f, s.pastTarget f with
    | some (r, i, q), _ => (s.takeGrant r i q f).pumpAll r.id i
    | none, some (r, i, q) => s.grantPast r i q f
    | none, none => s.keepEarly f)

/-- A signal (15 R413). -/
def execBeamSignal (p : Nat) (f : Flit) (s : State) : Out :=
  .next (s.arrived p 3 f fun s =>
    match s.flitTarget f with
    | none => s.keepEarly f
    | some (r, i, _) => s.modStrand r.id i fun x =>
        { x with sigs := Tbl.put x.sigs f.seq.toNat (Tbl.getD x.sigs f.seq.toNat 0 + 1) })

/-- A rank's strand has reached a barrier (15 R413). -/
def execBeamBarrier (p : Nat) (f : Flit) (s : State) : Out :=
  .next (s.arrived p 4 f fun s =>
    match s.flitTarget f with
    | none => s.keepEarly f
    | some (r, i, q) => s.modStrand r.id i fun x =>
        let old := Tbl.getD x.barSeen q 0
        { x with barSeen := Tbl.put x.barSeen q (max old (countNear old f.seq)) })

/-- An ABORT reaches a use of a group in a context (15 R403): the current one, or one that this device has still to define (log 89). -/
def Context.abortUse (c : Context) (g : Nat) (use : BitVec 8) : Context :=
  let x := c.group g
  if x.def_ && x.use == use then { c with groups := Tbl.put c.groups g { x with abt := true } }
  else if x.before use && !x.ahead.contains use then { c with groups := Tbl.put c.groups g { x with ahead := x.ahead ++ [use] } }
  else c

/-- An ABORT (15 R403, R415). One that tells of a transfer of another length ends this rank's part with BADFLD (R412; log 21). -/
def execBeamAbort (p : Nat) (f : Flit) (s : State) : Out :=
  .next (s.arrived p 5 f fun s =>
    match if f.pay = 0x0C then s.flitTarget f else none with
    | some (r, i, _) => s.haltStrand r.id i 0x0C
    | none => { s with ctxs := Tbl.mapV s.ctxs fun c => c.abortUse f.group.toNat f.use })

/-! ## Routes -/

/-- The streams of runs with the routes that they use: run, strand, peer, entry and number. -/
def State.streamRoutes (s : State) (runs : List Run) : List (Run × Nat × Nat × Nat × Nat) :=
  runs.flatMap fun r => r.strands.zipIdx.flatMap fun x => x.1.streams.filterMap fun k =>
    let e := (r.via x.1 k.1).2
    (s.streamRoute k.2 e).map fun y => (r, x.2, k.1, e, y.1)

/-- A stream changes its route (15 R414): what is not acknowledged is sent again, and the latest grant and acknowledgement. With no usable
route left the run ends with NOROUTE. -/
def State.resend (s : State) (id i p : Nat) : State :=
  match s.runOf id with
  | none => s
  | some r =>
    let k := (r.strand i).stream p
    if (s.streamRoute k (r.via (r.strand i) p).2).isNone then s.haltStrand id i 7
    else
      let s := if k.store.isEmpty then s
        else s.modRun id fun r => { r with reroutes := if r.reroutes.contains (i, p) then r.reroutes else r.reroutes ++ [(i, p)] }
      let s := k.store.foldl (fun s c => s.chunkFlits r i p c.1 c.2) s
      let s := if k.given = 0 && !k.outs.contains 0 && !k.ins.contains 0 then s else s.strandFlit r i p 2 k.given 0 (r.grantPay i p)
      if k.landedTo = 0 then s else s.strandFlit r i p 1 k.landedTo 0 0

/-- Routes are marked unusable (15 R392): the streams that used them change (R414). -/
def State.markRoutes (s : State) (bad : List (Nat × Nat)) : State :=
  let hit (l : List Run) : List (Run × Nat × Nat × Nat × Nat) := (s.streamRoutes l).filter fun k => bad.contains (k.2.2.2.1, k.2.2.2.2)
  let t := { s with badRoutes := s.badRoutes ++ bad.filter fun b => !s.badRoutes.contains b }
  let t := (hit s.runs).foldl (fun t k => t.resend k.1.id k.2.1 k.2.2.1) t
  (hit s.past).foldl (fun t k => t.ackPast k.1 k.2.1 k.2.2.1) t

/-- The valid routes of the table that meet p. -/
def State.routesWith (s : State) (p : List Nat → Bool) : List (Nat × Nat) :=
  (s.routes.filter fun r => r.2.getLsbD 0 && p (routeHops r.2)).map fun r => (r.1 / 4, r.1 % 4)

/-- A port goes down (15 R392): its flits are discarded, the routes whose hop 0 it is are unusable, and Enmon logs it. -/
def State.portDown (s : State) (p : Nat) : State :=
  let s := (s.modPort p fun x => { x with up := false, sent := [] }).enlog [0x392, BitVec.ofNat 64 p]
  s.markRoutes (s.routesWith fun h => h.head? == some p)

/-- The ports of a device (15 R390). -/
def ports16 : List Nat := List.range 16

/-- A LINKDOWN notice to a source, flooded on every up port (15 R392): HOPS and HIDX of the flit; NHM1 counts the hops left (log 14). -/
def State.flood (s : State) (f : Flit) (except : Nat) : State :=
  (ports16.filter (· != except)).foldl (fun s p => s.portSend p f) s

/-- The prefix of hops that a notice names. -/
def hopPrefix (f : Flit) : List Nat := (List.range (f.hidx.toNat + 1)).map fun h => (f.hops.extractLsb' (4 * h) 4).toNat
/-- A pair of a source and a hop prefix as a pair of numbers. -/
def noticeKey (src : Nat) (f : Flit) : Nat × Nat := (src, (hopPrefix f).foldl (fun n h => n * 16 + h + 1) 0)

/-- A flit on its way is forwarded (15 R394), or, the port being down, discarded with a notice to its source (R392). -/
def execBeamFlitForward (p : Nat) (f : Flit) (s : State) : Out :=
  .next (
    if !(f.hidx.toNat < f.nhm1.toNat) || f.kind.toNat = 6 then s
    else s.received p f fun s =>
      let g := { f with hidx := f.hidx + 1 }
      let out := (g.hops.extractLsb' (4 * g.hidx.toNat) 4).toNat
      if (s.port out).up then s.portSend out g
      else
        let key := noticeKey f.src.toNat g
        if s.notices.contains key then s
        else { s with notices := s.notices ++ [key] }.flood
          { g with kind := 6, dst := f.src, src := s.address, nhm1 := 7, pay := 0 } 16)

/-- A LINKDOWN notice (15 R392): the source marks its routes with the prefix; another device floods it on. -/
def execBeamLinkdown (p : Nat) (f : Flit) (s : State) : Out :=
  .next (
    if f.kind.toNat ≠ 6 then s
    else s.received p f fun s =>
      if f.dst = s.address then
        s.markRoutes (s.routesWith fun h => decide ((hopPrefix f).length ≤ h.length) && h.take (hopPrefix f).length == hopPrefix f)
      else
        let key := noticeKey f.dst.toNat f
        if s.notices.contains key || f.nhm1 = 0 then s
        else { s with notices := s.notices ++ [key] }.flood { f with nhm1 := f.nhm1 - 1 } p)

/-- A flit failed its CRC at the neighbour (15 R392): the transmitter sends again from it, in order; one sent 32 times without
acknowledgement makes the port down. -/
def execBeamCrcReject (p k : Nat) (s : State) : Out :=
  .next (
    let x := s.port p
    if !x.up || !((x.sent[k]?.map x.unacked).getD false) then s
    else if (x.sent.drop k).any fun y => 32 ≤ y.times then s.portDown p
    else s.modPort p fun x => { x with sent := x.sent.take k ++ (x.sent.drop k).map fun y =>
      { y with flit := x.frame y.seq y.flit, times := y.times + 1 } })

/-- A port loses lock on n more of its lanes (15 R390): it goes on with 4 while no more than 4 of the 8 are lost. -/
def execBeamLaneLoss (p n : Nat) (s : State) : Out :=
  .next (
    let x := s.port p
    if !x.up || n = 0 || 16 ≤ p then s
    else if x.lost + n ≤ 4 then s.modPort p fun x => { x with lanes := 4, lost := x.lost + n }
    else s.portDown p)

def execBeamPortDown (p : Nat) (s : State) : Out := .next (if !(s.port p).up || 16 ≤ p then s else s.portDown p)

/-- Enmon retrains a port (15 R392): its routes are usable again (log 14). -/
def execBeamPortRetrain (p : Nat) (s : State) : Out :=
  .next (
    if (s.port p).up || 16 ≤ p then s
    else
      let back := s.routesWith fun h => h.head? == some p
      { s with badRoutes := s.badRoutes.filter fun b => !back.contains b }.modPort p fun x => { cap := x.cap })

end Sys2Proof.Machine
end

