-- ==== Sys2Proof/Machine/Package.lean ====
section
/-! DEFINITION. The package: the host's windows and events (14 R377 to R381), the mailbox (R382; 12 R347, R351, R418), Enmon
(14 R374, R375, R383 to R387), the tables that the host writes through Enmon's sideband (12 R418; 15 R393), the host link (14 R376)
and bring-up (R388, R389). -/

namespace Sys2Proof.Machine

/-- The host's accesses arrive while the host link is trained (14 R377, R389). -/
def State.ifLink (s : State) (die : Nat) (t : State) : State := if s.linkUp && decide (die < 2) then t else s

/-- An access of 1, 2, 4 or 8 aligned bytes (14 R377). -/
def hostAligned (off n : Nat) : Bool := (n == 1 || n == 2 || n == 4 || n == 8) && off % n == 0

/-- Bits of an old value replaced where a mask has them. -/
def mergeBits (old new mask : Nat) : Nat := old - (old &&& mask) + (new &&& mask)

/-! ## Network links -/

/-- A network link retries a flit, which keeps its place; past the retry limit the device rung follows (11 R308). -/
def execNocFlitRetry (lk : Nat) (dead : Bool) (s : State) : Out :=
  .next (if dead && decide (lk < 1024) then s.deviceRung 0x57 else s)

/-! ## The host windows -/

/-- The host offers a trigger (14 R380). -/
def State.offerTrigger (s : State) (die : Nat) (v : Word) : State :=
  let x := v.toNat
  let g := 2048 * die + bitsN x 11 0 % 2048
  let n := bitsN x 22 16
  let off := bitsN x 45 24
  let ctx := geCtx (s.graphEntry g)
  let patch := s.patchAt die off n
  let bad := bitsN x 15 12 != 0 || x.testBit 23 || bitsN x 63 46 != 0 || bitsN x 11 0 / 2048 != die ||
    (n != 0 && (off % 16 != 0 || decide (off < 0x150000) || decide (2 ^ 22 < off + 16 * n))) ||
    (Tbl.find s.ctxs ctx).isNone || !s.triggerOk g ctx n patch || !s.fifoRoom die
  if bad then s.modDie die fun d => { d with trgstat := (d.trgstat.extractLsb' 32 32 + 1) ++ d.trgstat.extractLsb' 0 32 }
  else (s.enqueue g ctx patch).modDie die fun d => { d with
    trgstat := d.trgstat.extractLsb' 32 32 ++ (d.trgstat.extractLsb' 0 32 + 1) }
def execHostTriggerWrite (die : Nat) (v : Word) (s : State) : Out := .next (s.ifLink die (s.offerTrigger die v))

/-- TAIL as it was written last: the captured value, else the field (14 R378). -/
def State.tailWritten (s : State) (die q : Nat) : W32 :=
  (Tbl.find (s.die die).qtail q).getD (BitVec.ofNat 32 (s.readN (queueKey die q + 12) 4))

/-- TAIL of a hardware queue is written (11 R316; 14 R378): captured while the queue's context is switched out or leaves. -/
def State.writeTail (s : State) (die q : Nat) (v : W32) : State :=
  let cx := s.queueCtx die q
  if (Tbl.find s.ctxs cx).isSome && s.leaving cx then s.modDie die fun d => { d with qtail := Tbl.put d.qtail q v }
  else (s.writeN (queueKey die q + 12) 4 v.toNat).modDie die fun d => { d with qtail := Tbl.del d.qtail q }

def execQtailWrite (die q : Nat) (v : W32) (s : State) : Out :=
  .next (s.ifLink die (if q < 64 then s.writeTail die q v else s))

/-- EVCTL (14 R378): a size outside 4 to 12 leaves it as it is. -/
def State.setEvctl (s : State) (die : Nat) (v : Word) : State :=
  let l := (v.extractLsb' 0 4).toNat
  if l < 4 ∨ 12 < l then s else s.modDie die fun d => { d with evctl := v.extractLsb' 0 5 }
def execEvctlWrite (die : Nat) (v : Word) (s : State) : Out := .next (s.ifLink die (s.setEvctl die v))

/-- EVHEAD (14 R379). -/
def execEvheadWrite (die : Nat) (v : W32) (s : State) : Out := .next (s.ifLink die (s.modDie die fun d => { d with evhead := v }))

/-- The die writes its oldest waiting event (14 R379). -/
def execEventWrite (die : Nat) (s : State) : Out := .next (s.writeEvent die)

/-- The current range of an HRANGE entry (14 R386). -/
def State.hrangeOf (s : State) (k : Nat) : Word × Word := s.enmon.hrange[k]?.getD (0, 0)

/-- HRANGE (14 R386): the first write of the host link sets and locks an entry; its later writes, and firmware's, only narrow a locked one. -/
def State.setRange (s : State) (fw : Bool) (k : Nat) (lo hi : Word) : State :=
  let cur := s.hrangeOf k
  let first := !fw && !s.enmon.hlock.contains k
  let inside := decide (hi ≤ lo) || (decide (cur.1 ≤ lo) && decide (hi ≤ cur.2))
  if 16 ≤ k ∨ (fw && !s.enmon.hlock.contains k) = true ∨ lo.toNat % 2 ^ 18 ≠ 0 ∨ hi.toNat % 2 ^ 18 ≠ 0 ∨ (!first && !inside) = true then s
  else { s with enmon := { s.enmon with
    hrange := (List.range 16).map fun i => if i = k then (lo, hi) else s.hrangeOf i
    hlock := insertAsc k s.enmon.hlock } }

/-- The host, over its link, or firmware writes a whole HRANGE entry (14 R386). -/
def execHrangeWrite (e : RangeEntry) (lo hi : Word) (s : State) : Out :=
  .next (if e.firmware then s.setRange true e.entry lo hi else s.ifLink 0 (s.setRange false e.entry lo hi))

/-- The writable bits of a graph table entry and of a queue state entry (11 R310, R316). -/
def graphMask : Nat := 1 + 0x3FFC + 0xFFFF <<< 16 + (2 ^ 22 - 1) <<< 32 + (2 ^ 22 - 1) <<< 64 + (2 ^ 18 - 1) <<< 86
def queueMask : Nat := (2 ^ 26 - 1) + 0xFFFF <<< 32

/-- n bytes at an offset within an entry, merged under the entry's mask. -/
def mergeEntry (old mask off n v : Nat) : Nat := mergeBits old ((v % 2 ^ (8 * n)) <<< (8 * off)) (mask &&& ((2 ^ (8 * n) - 1) <<< (8 * off)))

/-- The graphs of a die whose VALID is set. -/
def State.validGraphs (s : State) (die : Nat) : List (BitVec 128) :=
  s.mem.filterMap fun c =>
    let off := c.1 - schedKey die 0
    if decide (schedKey die 0 ≤ c.1) && decide (off < 0x8000) && off % 16 == 0 && c.2.getLsbD 0 then
      some (s.graphEntry (2048 * die + off / 16))
    else none

/-- Whether an offset lies in the node state of a graph that exists, which the host may only read (11 R311, R312). -/
def State.inNodeState (s : State) (die off : Nat) : Bool :=
  decide (192 ≤ off % 256) && (s.validGraphs die).any fun e => decide (geBase e ≤ off) && decide (off < geBase e + 256 * geNodes e)

/-- The node states of a graph that begins to exist take their reset value: STATE 6, not started (11 R312). DESIGN CHOICE: 11 R312 gives
the value without the moment; it is the host's write that sets VALID (log 69). -/
def State.freshNodes (s : State) (die : Nat) (e : BitVec 128) : State :=
  (List.range (geNodes e)).foldl (fun s i => s.writeN (schedKey die (geBase e + 256 * i + 192)) 64 6) s

/-- A host write of scheduler memory (11 R309, R310, R312, R316; 14 R378). -/
def State.writeSched (s : State) (die off n v : Nat) : State :=
  if off < 0x8000 then
    let g := 2048 * die + off / 16
    let e := s.graphEntry g
    let t := s.writeN (graphKey g) 16 (mergeEntry e.toNat graphMask (off % 16) n v)
    if !geValid e && !geBusy e && geValid (t.graphEntry g) then t.freshNodes die (t.graphEntry g) else t
  else if off < 0x9000 then
    let q := (off - 0x8000) / 64
    let k := queueKey die q
    let at_ := off % 64
    let old := s.tailWritten die q
    let s := if 8 ≤ at_ ∧ at_ < 16 then
        let t := mergeEntry (old.toNat <<< 32) (0xFFFFFFFF <<< 32) (at_ - 8) n v >>> 32
        if BitVec.ofNat 32 t = old then s else s.writeTail die q (BitVec.ofNat 32 t)
      else s
    if at_ < 8 then (s.writeN k 8 (mergeEntry (s.readN k 8) queueMask at_ n v)).setActive die q else s
  else if off < 0x50000 then s
  else if off < 0x150000 then s
  else if s.inNodeState die off then s
  else s.writeN (schedKey die off) n v

def execSchedmemWrite (die off n : Nat) (v : Word) (s : State) : Out :=
  .next (s.ifLink die (if !hostAligned off n || decide (2 ^ 22 < off + n) then s else s.writeSched die off n v.toNat))

/-- What a host read of an aligned 8-byte word of a window returns (14 R378). -/
def State.windowWord (s : State) (die off : Nat) : Word :=
  let d := s.die die
  let q := (off - 0x1000) / 16
  if off = 0 then BitVec.ofNat 64 (stepping.toNat % 2 ^ 16 + die <<< 16)
  else if off = 0x8 then BitVec.ofNat 64 (s.status die)
  else if off = 0x18 then d.trgstat
  else if off = 0x20 then d.evbase
  else if off = 0x28 then d.evctl.setWidth 64
  else if off = 0x30 then d.evhead.setWidth 64
  else if off = 0x38 then d.evtail.setWidth 64
  else if off = 0x48 then (if die = 0 then d.mbstat.setWidth 64 else 0)
  else if 0x80 ≤ off ∧ off < 0xC0 then (if die = 0 then d.mbdata[(off - 0x80) / 8]?.getD 0 else 0)
  else if 0x100 ≤ off ∧ off < 0x200 then
    (if die = 0 then (if off % 16 = 0 then (s.hrangeOf ((off - 0x100) / 16)).1 else (s.hrangeOf ((off - 0x100) / 16)).2) else 0)
  else if 0x1000 ≤ off ∧ off < 0x1400 then
    BitVec.ofNat 64 (s.readN (queueKey die q + (if off % 16 = 0 then 12 else 8)) 4)
  else if 0x400000 ≤ off ∧ off < 0x800000 then BitVec.ofNat 64 (s.readN (schedKey die (off - 0x400000)) 8)
  else 0

/-- What a host read of n aligned bytes of a window returns (14 R377, R378). -/
def State.windowRead (s : State) (die off n : Nat) : Nat :=
  (s.windowWord die (off - off % 8)).toNat >>> (8 * (off % 8)) % 2 ^ (8 * n)

/-! ## The mailbox -/

/-- A mailbox command ends (14 R382): the result and the context in MBSTAT, and MBDONE. -/
def State.mbDone (s : State) (code cx : Nat) : State :=
  let v := code <<< 8 + (cx % 2 ^ 16) <<< 16
  (s.modDie 0 fun d => { d with mbstat := BitVec.ofNat 32 v }).postEvent 0 7 (cx % 2 ^ 16) v 0

/-- A mailbox command is taken unless the MMP is busy (14 R382). -/
def State.mailbox (s : State) (t : State) : State := s.ifLink 0 (if (s.die 0).mbstat.getLsbD 0 then s else t)

/-- A mailbox command on an existing context. -/
def State.mbOn (s : State) (cx : Nat) (k : State → Context → State × Nat) : State :=
  s.mailbox (match if cx < 2 ^ 16 then Tbl.find s.ctxs cx else none with
    | none => s.mbDone 2 cx
    | some c => let r := k s c; r.1.mbDone r.2 cx)

/-- A descriptor that CREATE refuses (12 R347; 00 R6). -/
def descBad (d : BitVec 512) : Bool :=
  let c : Context := { desc := d }
  let rsv (lo n : Nat) : Bool := (d.toNat >>> lo) % 2 ^ n != 0
  rsv 106 22 || rsv 170 22 || rsv 272 16 || rsv 355 29 || rsv 400 112 ||
  (c.wto != 0 && decide (c.wto < 1024)) || (c.cto != 0 && decide (c.cto < 1024)) || (c.lease != 0 && decide (c.lease < 256)) ||
  c.wvec.toNat % 4 != 0 || c.cvec.toNat % 4 != 0

/-- A core is usable when its four columns lie on a trained stack (14 R389). -/
def State.coreUsable (s : State) (core : Nat) : Bool := s.stackUp (core / 32)

/-- The columns that CREATE gives a context of a partition (12 R418; 06 R167, R168; 14 R389). -/
def State.columnsFor (s : State) (p : Nat) : List Nat :=
  (List.range 1024).filter fun k =>
    (s.parts[p]?.getD 0).getLsbD (clusterOfCol k) && s.coreUsable (coreOfCol k) && !(s.column k).retired

/-- The lowest context number not in use, from 1: MBSTAT.CTX is 0 where CREATE is refused (14 R382). -/
def State.newCtx (s : State) : Nat := firstIdx (2 ^ 16) fun n => n != 0 && (Tbl.find s.ctxs n).isNone

/-- A context stands in the live bank of each of its cores that is idle, and in its save area on the others (12 R349; log 20). -/
def State.install (s : State) (cx : Nat) (c : Context) : State :=
  let idle (k : Nat) : Bool := (s.core k).live.isNone && (s.core k).switching.isNone && (s.core k).standby == .free
  let busy := c.cores.filter fun k => !idle k
  let s := { s with ctxs := Tbl.put s.ctxs cx { c with saved := busy, wantIn := true, out := c.cores.all fun k => !idle k } }
  let s := (c.cores.filter idle).foldl (fun s k => s.modCore k fun x => { x with live := some cx }) s
  s.queuesOf cx

/-- CREATE (14 R382). -/
def State.mbCreate (s : State) (arg : Nat) : State :=
  s.mailbox (
    let d := BitVec.ofNat 512 ((s.die 0).mbdata.foldr (fun w n => w.toNat + n <<< 64) 0)
    let c : Context := { desc := d }
    let cols := s.columnsFor c.part
    let n := s.newCtx
    if arg ≠ 0 ∨ descBad d ∨ cols = [] ∨ 2 ^ 16 ≤ n then s.mbDone 2 0
    else (s.install n { desc := d, cols := cols, ringCol := cols.headD 0, wdog := c.wdogLoad
                        frames := s.tableFrames 2 (c.ptroot % 2 ^ 31) }).mbDone 1 n)
def execCreate (arg : Nat) (s : State) : Out := .next (s.mbCreate arg)

/-- DESTROY (14 R382). -/
def State.mbDestroy (s : State) (arg : Nat) : State := s.mbOn arg fun s _ => (s.destroyContext arg, 1)
def execDestroy (arg : Nat) (s : State) : Out := .next (s.mbDestroy arg)

/-- RESUME (14 R382; 12 R351, R356, R418): the answer to an escalation of the context or the partition rung. -/
def State.mbResume (s : State) (arg : Nat) : State := s.mbOn arg fun s c =>
  if c.saveInc || c.doom || c.rung.isNone then (s, 3)
  else (s.modCtx arg fun c => { c with rung := none, wantIn := true }, 1)
def execResume (arg : Nat) (s : State) : Out := .next (s.mbResume arg)

/-- KICK (14 R382; 12 R355). -/
def State.mbKick (s : State) (arg : Nat) : State := s.mbOn arg fun s _ => (s.reloadWdog arg, 1)
def execKick (arg : Nat) (s : State) : Out := .next (s.mbKick arg)

/-- What waits for a host page at an address (14 R381). -/
def State.hostWaits (s : State) (cx : Nat) (a : Word) : List PageWait :=
  s.waits.filter fun p => p.ctx == cx && p.addr == a && match s.leafOf cx p.pcn p.off with
    | some (.ok (leaf, _)) => pteHost leaf && !pteRes leaf
    | _ => false

/-- RES of the entry that maps an offset is set. -/
def State.setRes (s : State) (p : PageWait) : State :=
  let (key, _) := s.walkKey p.ctx p.pcn p.off
  s.writeN key 1 (s.readN key 1 ||| 0x20)

/-- PAGEDONE (14 R381, R382). -/
def State.mbPagedone (s : State) (arg : Nat) : State := s.mbOn arg fun s _ =>
  match s.hostWaits arg ((s.die 0).mbdata.headD 0) with
  | [] => (s, 2)
  | l => (((l.foldl State.setRes s).servePages arg).pumpRuns, 1)
def execPagedone (arg : Nat) (s : State) : Out := .next (s.mbPagedone arg)

/-- PAGEFAIL (14 R381, R382; 12 R341). -/
def State.mbPagefail (s : State) (arg : Nat) : State := s.mbOn arg fun s _ =>
  match s.hostWaits arg ((s.die 0).mbdata.headD 0) with
  | [] => (s, 2)
  | l => ((l.foldl State.declinePage s).pumpRuns, 1)
def execPagefail (arg : Nat) (s : State) : Out := .next (s.mbPagefail arg)

/-- A reserved command code (14 R382). -/
def execMbcmdReserved (code arg : Nat) (s : State) : Out :=
  .next (s.mailbox (if (1 ≤ code ∧ code ≤ 6) ∨ 256 ≤ code ∨ 2 ^ 56 ≤ arg then s else s.mbDone 2 0))

/-- A write of MBCMD (14 R382): the command and its argument. -/
def State.mbCommand (s : State) (v : Nat) : State :=
  let arg := v / 256
  match v % 256 with
  | 1 => s.mbCreate arg
  | 2 => s.mbDestroy arg
  | 3 => s.mbResume arg
  | 4 => s.mbKick arg
  | 5 => s.mbPagedone arg
  | 6 => s.mbPagefail arg
  | _ => s.mailbox (s.mbDone 2 0)

/-- A host write of n aligned bytes anywhere in a window (14 R377, R378). Bytes that a write leaves out keep their values in a register
that can be read. DESIGN CHOICE: in TRIGGER and MBCMD, which can not, they are zero (log 74). -/
def State.writeWindow (s : State) (die off n : Nat) (v : Word) : State :=
  let into (old : Word) : Word := BitVec.ofNat 64 (mergeEntry old.toNat (2 ^ 64 - 1) (off % 8) n v.toNat)
  let reg := off - off % 8
  let d := s.die die
  let q := (off - 0x1000) / 16
  if reg = 0x10 then s.offerTrigger die (into 0)
  else if reg = 0x20 then s.modDie die fun d => { d with evbase := into d.evbase &&& ~~~0xFFF#64 }
  else if reg = 0x28 then s.setEvctl die (into (d.evctl.setWidth 64))
  else if reg = 0x30 then s.modDie die fun d => { d with evhead := (into (d.evhead.setWidth 64)).extractLsb' 0 32 }
  else if die = 0 ∧ reg = 0x40 then s.mbCommand (into 0).toNat
  else if die = 0 ∧ 0x80 ≤ off ∧ off < 0xC0 then
    let i := (off - 0x80) / 8
    s.modDie 0 fun d => { d with mbdata := d.mbdata.set i (into (d.mbdata[i]?.getD 0)) }
  else if die = 0 ∧ 0x100 ≤ off ∧ off < 0x200 then
    let k := (off - 0x100) / 16
    let r := s.hrangeOf k
    if off % 16 < 8 then s.setRange false k (into r.1) r.2 else s.setRange false k r.1 (into r.2)
  else if 0x1000 ≤ off ∧ off < 0x1400 then
    (if off % 16 < 4 then s.writeTail die q ((into ((s.tailWritten die q).setWidth 64)).extractLsb' 0 32) else s)
  else if 0x400000 ≤ off ∧ off + n ≤ 0x800000 then s.writeSched die (off - 0x400000) n v.toNat
  else s
def execHostWindowWrite (die off n : Nat) (v : Word) (s : State) : Out :=
  .next (s.ifLink die (if hostAligned off n then s.writeWindow die off n v else s))

/-- Frames lo to hi of a column may not be mapped: the MMP has reserved one of them, or an unmapping has not ended in one (12 R335, R345
step 6). -/
def State.frameHeld (s : State) (pcn lo hi : Nat) : Bool :=
  (s.ctxs.any fun c => c.2.frames.any fun f => f.1 == pcn && decide (lo ≤ f.2 ∧ f.2 < hi)) ||
  s.unmaps.any fun u => !pteHost u.leaf && u.cols.contains pcn &&
    decide (pteTarget u.leaf < hi ∧ lo < pteTarget u.leaf + u.size / 2 ^ 18)

/-- The MMP may map a leaf at an entry: it is resident and well formed, and its frames are free in every column that the entry serves. -/
def State.mayMap (s : State) (cx key level off : Nat) (pte : Word) : Bool :=
  pteValid pte && pteLeaf pte && pteRes pte && !s.pteBad level pte &&
    (pteHost pte || !(s.walkCols cx key off).any fun p => s.frameHeld p (pteTarget pte) (pteTarget pte + pageSize level / 2 ^ 18))

/-- The MMP makes a page resident (12 R340): it writes the entry. A host-backed page waits for the host (14 R381). -/
def execMmpPageResident (k : Nat) (pte : Word) (s : State) : Out :=
  .next (match s.waits[k]? with
    | none => s
    | some p =>
      let (key, level) := s.walkKey p.ctx p.pcn p.off
      let old := BitVec.ofNat 64 (s.readN key 8)
      if (pteValid old && pteLeaf old && pteHost old) || !s.mayMap p.ctx key level p.off pte then s
      else ((s.writeN key 8 pte.toNat).servePages p.ctx).pumpRuns)

/-! ## The tables that the host writes through Enmon -/

/-- The partition table (12 R418): no cluster in two partitions, and none removed that a context has a column on. -/
def execPartitionTableWrite (p : Nat) (m : Word) (s : State) : Out :=
  let others := (List.range 8).any fun i => i != p && (s.parts[i]?.getD 0) &&& m != 0
  let lost := (s.parts[p]?.getD 0) &&& ~~~m
  let held := s.ctxs.any fun c => c.2.liveCols.any fun k => lost.getLsbD (clusterOfCol k)
  .next (if h : p < 8 then (if others || held then s else { s with parts := s.parts.set p m h }) else s)

/-- Addresses, injection caps and the route table (15 R393; 14 R386). -/
def execRouteTableWrite (rw : RouteWrite) (s : State) : Out :=
  .next (match rw with
    | .address a => if a = 0 ∨ a = 0xFFFF then s else { s with address := a }
    | .route e i v =>
      if 256 ≤ e ∨ 4 ≤ i then s
      else { s with routes := Tbl.put s.routes (4 * e + i) (v.setWidth 36 |>.setWidth 64), badRoutes := s.badRoutes.filter (· != (e, i)) }
    | .port p cap => if 16 ≤ p ∨ Config.fusedCap p < cap then s else s.modPort p fun x => { x with cap := some cap })

/-! ## Enmon -/

/-- Enmon answers the host over the sideband. -/
def State.answer (s : State) (l : List Nat) : State := { s with enmon := { s.enmon with reports := s.enmon.reports ++ [l] } }

/-- What a sensor measures is what Enmon holds (14 R383). -/
def Enmon.sensor (e : Enmon) (x : Sensor) : Nat := Tbl.getD e.sensors x.code 0
/-- The corrected and the uncorrectable errors that a controller has met (14 R374, R383). -/
def Enmon.counts (e : Enmon) (c : Ctl) : Nat × Nat := Tbl.getD e.errs c.code (0, 0)

/-- Enmon measures a temperature, a voltage or a current (14 R383), or the host reads record k of its log. -/
def execEnmonLogRead (x : EnmonStep) (s : State) : Out :=
  .next (match x with
    | .measure x v => { s with enmon := { s.enmon with sensors := Tbl.put s.enmon.sensors x.code v } }
    | .read k => match if s.enmon.logBase ≤ k then s.enmon.log[k - s.enmon.logBase]? else none with
      | none => s
      | some l => s.answer (l.map (·.toNat)))

/-- The bytes of an image: its security version number and its contents (14 R384). DESIGN CHOICE: where in the image the number stands is
not told (log 18). -/
def imageBytes (im : Image) : List Byte := leBytes 8 im.version ++ leBytes im.size im.contents

/-- The conditions of an update (14 R384): the signature is over the digest of the image's bytes, which are as many as the bank holds at
most. -/
def imageOk (im : Image) : Bool :=
  decide (im.which < 3) && edVerify (leBytes 32 im.key) (sha512 (imageBytes im)) (leBytes 64 im.signature) &&
    Config.fusedKeys.contains (leNat (sha512 (leBytes 32 im.key))) && !Config.revokedKeys.contains (leNat (sha512 (leBytes 32 im.key))) &&
    decide (Config.fuseRollback ≤ im.version ∧ im.version < 2 ^ 64) && decide ((imageBytes im).length ≤ Config.imageBankSize)

/-- The active bank of an image, and the bytes that run. -/
def Enmon.bank (e : Enmon) (which : Nat) : Nat := Tbl.getD e.active which 0
def Enmon.image (e : Enmon) (which : Nat) : List Byte :=
  match Tbl.find e.banks (2 * which + e.bank which) with
  | some im => imageBytes im
  | none => leBytes Config.imageBankSize (Config.factoryImage which)

/-- An image is offered (14 R384): an accepted one goes into the inactive bank. -/
def execFirmwareUpdate (im : Image) (s : State) : Out :=
  .next (if imageOk im then
      { s with enmon := { s.enmon with
        banks := Tbl.put s.enmon.banks (2 * im.which + (1 - s.enmon.bank im.which)) im
        pending := insertAsc im.which s.enmon.pending } }
    else s)

/-- The package power ceiling of the DH8-384 in watts (14 R386). -/
def powerCeiling : Nat := 2800

/-- The fuse settings (14 R384 to R386): the rollback counter, the injection caps, the key digests with those revoked, the power ceiling, and
the other fuses. DESIGN CHOICE: their order in a report is not told (log 18). -/
def fuseBytes : List Byte :=
  leBytes 8 Config.fuseRollback ++ (List.range 16).flatMap (fun p => leBytes 2 (Config.fusedCap p)) ++
    (Config.fusedKeys ++ Config.revokedKeys).flatMap (fun k => leBytes 64 k) ++ leBytes 2 powerCeiling ++ leBytes 8 Config.fuseWord.toNat

/-- What a report signs (14 R385): the nonce, the digests of the active images, the fuse settings and STEPPING. -/
def State.reportBytes (s : State) (nonce : Nat) : List Byte :=
  leBytes 32 nonce ++ (List.range 3).flatMap (fun w => sha512 (s.enmon.image w)) ++ fuseBytes ++ leBytes 8 stepping.toNat

/-- The public half of the device's identity (14 R385). -/
def identityPublic : List Byte := edPublic Config.identitySecret

/-- An attestation report (14 R385): what it signs, and the signature over its digest. -/
def execAttestationReport (nonce : Nat) (s : State) : Out :=
  let body := s.reportBytes nonce
  .next (s.answer ((body ++ edSign Config.identitySecret (sha512 body)).map (·.toNat)))

/-- A log epoch begins: the columns' error counts are cleared (14 R374). -/
def State.newEpoch (s : State) : State :=
  { s with enmon := { s.enmon with colErrs := [], epoch := s.enmon.epoch + 1 } }

/-- Enmon restarts (14 R384, R374): it activates the updated banks, or, where Enmon's new image fails to verify (`bad`), stays with the
old one and logs the failure. -/
def execEnmonReset (bad : Bool) (s : State) : Out :=
  let e := s.enmon
  let fails := bad && e.pending.contains 0
  let go := if fails then e.pending.filter (· != 0) else e.pending
  let t := { s with enmon := { e with active := go.foldl (fun a w => Tbl.put a w (1 - e.bank w)) e.active, pending := [] } }
  .next ((if fails then t.enlog [0x384] else t).newEpoch)

def execLogEpochEnd (s : State) : Out := .next s.newEpoch

/-- The columns of a cluster empty their TLBs (12 R343). -/
def State.emptyTlbs (s : State) (cl : Nat) : State :=
  (List.range 16).foldl (fun s i => s.modColumn (16 * cl + i) fun c => { c with tlb := [] }) s

/-- Enmon sets a clock (14 R375, R389): 0.4 to 2.0 GHz for a core clock, capped at 1.2 GHz before full service. DESIGN CHOICE: a setting
below 0.4 GHz empties the TLBs of the cluster's columns and leaves the clock as it is (12 R343; log 72). -/
def execClockSet (mem : Bool) (k mhz : Nat) (s : State) : Out :=
  .next (
    if mem then (if k < 8 then { s with enmon := { s.enmon with memMhz := Tbl.put s.enmon.memMhz k mhz } } else s)
    else if k < 64 ∧ mhz < 400 then s.emptyTlbs k
    else if 64 ≤ k ∨ 2000 < mhz ∨ (s.phase (k / 32) ≠ 4 ∧ 1200 < mhz) then s
    else s.modCluster k fun c => { c with mhz := mhz })

/-- Firmware sets the sustained power target, at or below the ceiling; the current limiter lowers every core clock to at most a clock, never
below 0.4 GHz (14 R386, R387). -/
def execPowerLimit (x : PowerStep) (s : State) : Out :=
  .next (match x with
    | .target w => if powerCeiling < w then s else { s with enmon := { s.enmon with target := w } }
    | .limit mhz => (List.range 64).foldl (fun s k => s.modCluster k fun c => { c with mhz := min c.mhz (max 400 mhz) }) s)

/-! ## Resets and bring-up -/

/-- 110 °C (14 R387): the dies stop without the ladder, and stay stopped until the device is reset. -/
def execThermalTrip (s : State) : Out :=
  .next (
    let t := s.postReset 0x387
    let u := t.resetDies
    t.bringUp { u with enmon := { u.enmon with running := false } })

/-- A device reset (14 R389): Enmon verifies and starts its image. -/
def execDeviceReset (s : State) : Out := .next (s.bringUp s.resetDies)

/-- The host link is trained (14 R389). -/
def execHostLinkTrained (s : State) : Out :=
  .next (if s.enmon.running && !s.linkUp && !s.modules.isEmpty then s.bringUp { s with linkUp := true } else s)

/-- A memory stack has finished training, or failed (14 R389). -/
def execStackTrained (st : Nat) (ok : Bool) (s : State) : Out :=
  .next (
    if !s.linkUp || decide (8 ≤ st) || s.stackUp st || s.stackFailed st then s
    else s.bringUp { s with stackBits := s.stackBits ||| (1#64 <<< (if ok then st else st + 8)) })

/-- A core's decompressor has passed its self-test (14 R389; 07 R203). -/
def execDecompSelftestPass (core : Nat) (s : State) : Out :=
  .next (if s.enmon.running && decide (core < 256) then s.bringUp (s.modCore core fun c => { c with tested := true }) else s)

/-- A module of the host link is disabled (14 R376); with none left the device takes the device rung. -/
def execLinkModuleFail (m : Nat) (s : State) : Out :=
  .next (
    if !s.modules.contains m then s
    else
      let rest := s.modules.filter (· != m)
      if rest.isEmpty then s.deviceRung 0x57 else { s with modules := rest })

end Sys2Proof.Machine
end

