-- ==== Sys2Proof/Machine/Events.lean ====
section
/-! DEFINITION. Which of its agents the device lets move next (log 2): the control thread that R21 serves, and the steps that other
agents may take by themselves. Every such step is a meaning of its own, which leaves the state as it is where the step cannot be
taken; the order among them is the model's. What the outside decides (the host, Enmon, the fabric's far ends, time, the firmware of the
MMPs) comes in through the agenda alone. -/

namespace Sys2Proof.Machine

/-! ## The control thread served -/

/-- The fragments of a watch that run, from the first after the entry last served, in ascending order (01 R21). -/
def Watch.nextEnts (w : Watch) : List Nat :=
  ((List.range 8).map fun i => (w.lastEnt + 1 + i) % 8).filter fun e => (w.entry e).valid && !(w.entry e).wait

/-- The watches that have control threads, with their numbers. -/
def State.threads (s : State) : List (Nat × Watch) :=
  s.watches.filter fun x => s.isLive x.2 && !x.2.ended && !x.2.nextEnts.isEmpty

/-- The control threads of a core, from the first after the slot last served (01 R21). -/
def State.serveOrder (s : State) (core : Nat) : List (Nat × Watch) :=
  let l := s.threads.filter fun x => x.2.core == core
  (List.range 32).flatMap fun i => l.filter fun x => x.2.slot == ((s.core core).rr + 1 + i) % 32

/-- The fragments of the watches of a core in the order in which they are served (01 R21), of those that have yielded or of the others (09
R259). -/
def State.turnsOf (s : State) (core : Nat) (yielded : Bool) : List (Nat × Nat) :=
  ((s.serveOrder core).filter fun x => x.2.yielded == yielded).flatMap fun x => x.2.nextEnts.map fun e => (x.1, e)

/-- Watch a stands before watch b in that order. -/
def State.stands (s : State) (core a b : Nat) : Bool := ((s.serveOrder core).takeWhile fun x => x.1 != b).any fun x => x.1 == a

/-- A control step of a fragment has done something: one that waits leaves all of this as it was. -/
def State.moved (s t : State) (w e : Nat) : Bool :=
  let x := s.watch w
  let y := t.watch w
  x.entry e != y.entry e || s.seq != t.seq || s.next != t.next || s.free != t.free || s.waits.length != t.waits.length ||
    x.inh != y.inh || x.ended != y.ended || x.stopped != y.stopped || x.pair.map (·.ended) != y.pair.map (·.ended) ||
    x.pair.map (·.retry) != y.pair.map (·.retry) || (s.ctx x.ctx).seq != (t.ctx x.ctx).seq ||
    (s.core x.core).switching != (t.core x.core).switching

/-- The core whose control thread moves next: the cores with one take turns (log 2). -/
def State.nextControl (s : State) : Option Nat :=
  let cores := s.threads.foldl (fun c x => insertAsc x.2.core c) []
  cores[s.rot / 2 % max 1 cores.length]?

/-- A fragment is served: it becomes the one that executes, and the threads of `passed` have passed their turn over. -/
def State.serveThread (s : State) (w e : Nat) (passed : List Nat) : State :=
  let x := s.watch w
  let s := passed.foldl (fun s n => s.modWatch n fun y => { y with yielded := false }) s
  let s := s.modCore x.core fun c => { c with rr := x.slot }
  { s.modWatch w (fun x => { x with lastEnt := e }) with cur := w, ent := e }

/-! ## Steps of the other agents -/

/-- A step that an agent may take by itself. -/
inductive Ev where
  | laneIssue (core : Nat)
  | loadReturn (w op k : Nat)
  | store (w : Nat)
  | atomic (w op : Nat)
  | insertAck (w op : Nat)
  | fatomArrive (w op : Nat)
  | fatomApply (pcn k : Nat)
  | acpy (w op k : Nat)
  | xst (w op k : Nat)
  | stream (w q l : Nat)
  | pass (core : Nat)
  | perform (w : Nat)
  | accept (maj w op : Nat)
  | wloadSector (core k : Nat)
  | wloadDone (core k : Nat)
  | copySector (core k : Nat)
  | copyDone (core k : Nat)
  | crewMsg (cx : Nat)
  | release (w : Nat)
  | ackMark (k cl : Nat)
  | unmapWait (k : Nat)
  | probe (k pcn : Nat)
  | request (core : Nat)
  | switched (core : Nat)
  | fill (core cx : Nat)
  | filled (core : Nat)
  | spilled (core : Nat)
  | trailer (w : Nat)
  | compare (w : Nat)
  | lookup (cx n core : Nat)
  | spawn (cx n core : Nat)
  | census (cx n : Nat)
  | auction (cl : Nat)
  | auctDone (cl : Nat)
  | ring (die q : Nat)
  | runStart (die : Nat)
  | gvec (die q : Nat)
  | place (die : Nat)
  | param (ln core : Nat)
  | node (ln : Nat)
  | record (rq : Nat)
  | closing (rq blk : Nat)
  | event (die : Nat)
  | collStart (cx g : Nat)
  | collDone (run : Nat)
  | hostAck (w op : Nat)
  | strand (run i : Nat)
  deriving DecidableEq, Repr

/-- The first access not performed. -/
def Op.firstOpen (o : Op) : Nat := o.accs.findIdx fun a => !a.got

/-- What may happen to an operation in flight. -/
def opEvents (w : Nat) (o : Op) : List Ev :=
  if o.done then []
  else
    (if o.isLoad then [.loadReturn w o.id 0]
     else if o.isAtom then [.atomic w o.id]
     else match o.kind with
      | .fatom => [.fatomArrive w o.id]
      | .acpy => [.acpy w o.id o.firstOpen]
      | .xst => [.xst w o.id o.firstOpen]
      | .engine => [.accept o.cmd.maj w o.id]
      | _ => []) ++ (if o.stamp = 0 then [] else [.insertAck w o.id])

/-- What may happen to a watch. -/
def watchEvents (n : Nat) (w : Watch) : List Ev :=
  (if w.fifo.isEmpty then [] else [.store n]) ++ (w.ops ++ w.freeAtoms).flatMap (opEvents n) ++
  ((List.range 8).flatMap fun q =>
    if (w.queue q).st == .running then
      (List.range w.width).filterMap fun l =>
        if decide (((w.queue q).elems[l]?.getD []).length < 64) then some (.stream n q l) else none
    else []) ++
  (match w.mat with
    | some m => if isMma m.instr then [] else [.perform n]
    | none => []) ++
  (match w.pair with
    | some p => if p.placed then (if p.ents.isEmpty then [] else [.compare n]) else [.trailer n]
    | none => []) ++
  (if w.ended then [.release n] else [])

/-- What may happen on a core. -/
def State.coreEvents (s : State) (k : Nat) (c : Core) : List Ev :=
  (if s.watches.any fun x => x.2.core == k && !x.2.lq.isEmpty then [.laneIssue k] else []) ++
  (if s.watches.any fun x => x.2.core == k && x.2.mat.isSome then [.pass k] else []) ++
  ((List.range c.copies.length).flatMap fun i => [.copySector k i, .copyDone k i]) ++
  ((List.range c.wloads.length).flatMap fun i => [.wloadSector k i, .wloadDone k i]) ++
  (if c.switching.isSome then [.switched k] else []) ++
  (match c.standby with
    | .filling _ => [.filled k]
    | .spill _ => [.spilled k]
    | .ready _ => if c.live.isNone && c.switching.isNone then [.request k] else []
    | .free => []) ++
  (match c.live with
    | some x => if (s.ctx x).rung.isSome && c.switching.isNone && !c.want then [.request k] else []
    | none => [])

/-- What may happen to a context. -/
def State.ctxEvents (s : State) (n : Nat) (c : Context) : List Ev :=
  (if c.msgs.isEmpty then [] else [.crewMsg n]) ++
  (if c.wantIn then (c.saved.filter fun k => (s.core k).standby == .free).map fun k => .fill k n else []) ++
  c.censuses.flatMap (fun k => k.pending.map (fun x => .lookup n k.n x) ++ k.spawns.map (fun x => .spawn n k.n x.core) ++ [.census n k.n])

/-- What may happen to a die. -/
def State.dieEvents (s : State) (n : Nat) (d : Die) : List Ev :=
  (if d.events.isEmpty then [] else [.event n]) ++ (if d.fifo.isEmpty then [] else [.runStart n]) ++
  ((List.range 64).filter fun q => s.queueActive n q).map (fun q => .ring n q) ++
  (d.places.flatMap fun q => if q.2.isEmpty then [] else [.gvec n q.1, .place n]) ++
  d.recqs.flatMap fun q => match q.2.bound with
    | none => []
    | some ln => (if q.2.taken < q.2.appended then [.record q.1] else []) ++ (s.launch ln).closing.map fun b => .closing q.1 b

/-- What may happen to a launch. -/
def State.launchEvents (s : State) (n : Nat) (l : Launch) : List Ev :=
  l.cores.filterMap (fun c => if c.2 = 1 then some (.param n c.1) else none) ++
  (s.ctx l.ctx).censuses.flatMap (fun c => if c.job.launch = n then c.spawns.map fun x => .param n x.core else []) ++ [.node n]

/-- Every step that some agent may take now. -/
def State.candidates (s : State) : List Ev :=
  s.watches.flatMap (fun x => watchEvents x.1 x.2) ++
  s.cores.flatMap (fun x => s.coreEvents x.1 x.2) ++
  s.columns.flatMap (fun x => (List.range x.2.fatom.length).map fun i => .fatomApply x.1 i) ++
  s.clusters.flatMap (fun x => if x.2.auct.isEmpty then [] else [.auction x.1, .auctDone x.1]) ++
  s.ctxs.flatMap (fun x => s.ctxEvents x.1 x.2) ++
  s.dies.flatMap (fun x => s.dieEvents x.1 x.2) ++
  s.launches.flatMap (fun x => s.launchEvents x.1 x.2) ++
  s.hostAcks.map (fun h => .hostAck h.w h.op) ++
  s.unmaps.zipIdx.flatMap (fun u => u.1.acks.map (fun c => .ackMark u.2 c) ++ [.unmapWait u.2] ++ u.1.probes.map fun p => .probe u.2 p) ++
  s.starts.map (fun r => .collStart r.ctx r.group) ++
  s.runs.flatMap (fun r => (List.range r.strands.length).map (fun i => .strand r.id i) ++ [.collDone r.id])

/-- An engine accepts a command (09 R260). -/
def acceptEv (maj w op : Nat) (s : State) : Out :=
  if maj = 0x30 then execTcopyAccept w op s
  else if maj = 0x31 then execWloadAccept w op s
  else if maj = 0x33 then execSolicAccept w op s
  else if maj = 0x34 then execAuctAccept w op s
  else if maj = 0x36 then execRecAnswer w op s
  else if maj = 0x37 then execTriggerAccept w op s
  else .next s

/-- A message to a crew controller is an arrival or a departure. -/
def crewEv (cx : Nat) (s : State) : Out :=
  match (s.ctx cx).msgs with
  | .arrive _ _ _ :: _ => execCrewControllerArrival cx s
  | _ => execCrewDeparture cx s

/-- Take a step. A strand's is taken by `step` itself. -/
def runEv (e : Ev) (s : State) : Out :=
  match e with
  | .laneIssue core => execLaneIssue core s
  | .loadReturn w op k => execLoadSectorReturn w op k s
  | .store w => execStorePerform w s
  | .atomic w op => execAtomicPerform w op s
  | .insertAck w op => execDirectoryInsertAck w op s
  | .fatomArrive w op => execFatomArrive w op s
  | .fatomApply pcn k => execFatomApply pcn k s
  | .acpy w op k => execAcpyWrite w op k s
  | .xst w op k => execXstWrite w op k s
  | .stream w q l => execStreamFetch w q l s
  | .pass core => execMatrixPass core s
  | .perform w => execMatrixPerform w s
  | .accept maj w op => acceptEv maj w op s
  | .wloadSector core k => execWloadSectorWrite core k s
  | .wloadDone core k => execWloadComplete core k s
  | .copySector core k => execTcopySectorWrite core k s
  | .copyDone core k => execTcopyComplete core k s
  | .crewMsg cx => crewEv cx s
  | .release w => execWatchRelease w s
  | .ackMark k cl => execDrainMarkAck k cl s
  | .unmapWait k => execUnmapwaitExpire k s
  | .probe k pcn => execDrainProbeAnswer k pcn s
  | .request core => execPreemptSwitchRequest core s
  | .switched core => execSwitchComplete core s
  | .fill core cx => execFillStart core cx s
  | .filled core => execFillDone core s
  | .spilled core => execSpillDone core s
  | .trailer w => execPairTrailerPlace w s
  | .compare w => execPairCompare w s
  | .lookup cx n core => execDirectoryLookup cx n core s
  | .spawn cx n core => execResponderSpawn cx n core s
  | .census cx n => execCensusComplete cx n s
  | .auction cl => execAuctRun cl s
  | .auctDone cl => execAuctComplete cl s
  | .ring die q => execRingEntryTake die q s
  | .runStart die => execRunStart die s
  | .gvec die q => execGvecRead die q s
  | .place die => execBlockPlace die s
  | .param ln core => execParamWrite ln core s
  | .node ln => execNodeComplete ln s
  | .record rq => execRecordDeliver rq s
  | .closing rq blk => execClosingRecordDeliver rq blk s
  | .event die => execEventWrite die s
  | .collStart cx g => execCollRunStart cx g s
  | .collDone run => execCollRunComplete run s
  | .hostAck w op => execHostStoreAcknowledgement w op s
  | .strand _ _ => .next s

/-! ## Placing an instruction to fetch -/

/-- The page table of log 3: the level-2 table at offset 0 of slice 0 points to a level-1 table at 4096, whose entry 0 maps the first
16 MiB onto the frames from 64; both tables lie in frame 0. -/
def placeTables (s : State) : State :=
  (s.writeN (memKey .slice 0 0 0) 8 (1 + (16 * 1024) <<< 8)).writeN (memKey .slice 0 0 4096) 8 (0x27 + 64 <<< 8)

/-- The watch of log 3: on core 0, in slot 0 and column 0, its PC 0. -/
def placeWatch : Watch := Watch.start { ctx := 1, core := 0, slot := 0, width := 16, allot := 512 } 0 []

/-- A context, its page table, a watch and the bytes of an instruction at the watch's PC (log 3). -/
def State.placeBytes (s : State) (l : List Byte) : State :=
  let s := (placeTables s).writeBytes (memKey .slice 0 0 (64 * 2 ^ 18)) l
  let s := { s with ctxs := Tbl.put s.ctxs 1 { cols := [0, 1, 2, 3], frames := [(0, 0)] }, watches := [(1, placeWatch)] }
  let s := s.modCore 0 fun c => { c with live := some 1, switching := none }
  let s := s.modColumn 0 fun c => { c with tlb := [] }
  let s := s.modCluster 0 fun c => { c with cache := [] }
  { s with agenda := [], turn := true }

end Sys2Proof.Machine
end

