-- ==== Sys2Proof/Machine/Dispatch.lean ====
section
/-! DEFINITION. Every instruction and every step with its meaning. -/

namespace Sys2Proof.Machine

def exec (i : Instr) (s : State) : Host.Outcome State Fault Refusal :=
  match i with
  | .add x0 x1 x2 => Sys2Proof.Machine.execAdd x0 x1 x2 s
  | .sub x0 x1 x2 => Sys2Proof.Machine.execSub x0 x1 x2 s
  | .mul x0 x1 x2 => Sys2Proof.Machine.execMul x0 x1 x2 s
  | .mulh x0 x1 x2 => Sys2Proof.Machine.execMulh x0 x1 x2 s
  | .mulhu x0 x1 x2 => Sys2Proof.Machine.execMulhu x0 x1 x2 s
  | .div x0 x1 x2 => Sys2Proof.Machine.execDiv x0 x1 x2 s
  | .divu x0 x1 x2 => Sys2Proof.Machine.execDivu x0 x1 x2 s
  | .rem x0 x1 x2 => Sys2Proof.Machine.execRem x0 x1 x2 s
  | .remu x0 x1 x2 => Sys2Proof.Machine.execRemu x0 x1 x2 s
  | .and x0 x1 x2 => Sys2Proof.Machine.execAnd x0 x1 x2 s
  | .or x0 x1 x2 => Sys2Proof.Machine.execOr x0 x1 x2 s
  | .xor x0 x1 x2 => Sys2Proof.Machine.execXor x0 x1 x2 s
  | .andn x0 x1 x2 => Sys2Proof.Machine.execAndn x0 x1 x2 s
  | .shl x0 x1 x2 => Sys2Proof.Machine.execShl x0 x1 x2 s
  | .shr x0 x1 x2 => Sys2Proof.Machine.execShr x0 x1 x2 s
  | .sar x0 x1 x2 => Sys2Proof.Machine.execSar x0 x1 x2 s
  | .rol x0 x1 x2 => Sys2Proof.Machine.execRol x0 x1 x2 s
  | .min x0 x1 x2 => Sys2Proof.Machine.execMin x0 x1 x2 s
  | .max x0 x1 x2 => Sys2Proof.Machine.execMax x0 x1 x2 s
  | .minu x0 x1 x2 => Sys2Proof.Machine.execMinu x0 x1 x2 s
  | .maxu x0 x1 x2 => Sys2Proof.Machine.execMaxu x0 x1 x2 s
  | .popc x0 x1 => Sys2Proof.Machine.execPopc x0 x1 s
  | .clz x0 x1 => Sys2Proof.Machine.execClz x0 x1 s
  | .ctz x0 x1 => Sys2Proof.Machine.execCtz x0 x1 s
  | .seq x0 x1 x2 => Sys2Proof.Machine.execSeq x0 x1 x2 s
  | .sne x0 x1 x2 => Sys2Proof.Machine.execSne x0 x1 x2 s
  | .slt x0 x1 x2 => Sys2Proof.Machine.execSlt x0 x1 x2 s
  | .sltu x0 x1 x2 => Sys2Proof.Machine.execSltu x0 x1 x2 s
  | .brev x0 x1 => Sys2Proof.Machine.execBrev x0 x1 s
  | .mov x0 x1 => Sys2Proof.Machine.execMov x0 x1 s
  | .addi x0 x1 x2 => Sys2Proof.Machine.execAddi x0 x1 x2 s
  | .addi64 x0 x1 x2 => Sys2Proof.Machine.execAddi64 x0 x1 x2 s
  | .andi x0 x1 x2 => Sys2Proof.Machine.execAndi x0 x1 x2 s
  | .andi64 x0 x1 x2 => Sys2Proof.Machine.execAndi64 x0 x1 x2 s
  | .ori x0 x1 x2 => Sys2Proof.Machine.execOri x0 x1 x2 s
  | .ori64 x0 x1 x2 => Sys2Proof.Machine.execOri64 x0 x1 x2 s
  | .xori x0 x1 x2 => Sys2Proof.Machine.execXori x0 x1 x2 s
  | .xori64 x0 x1 x2 => Sys2Proof.Machine.execXori64 x0 x1 x2 s
  | .slti x0 x1 x2 => Sys2Proof.Machine.execSlti x0 x1 x2 s
  | .slti64 x0 x1 x2 => Sys2Proof.Machine.execSlti64 x0 x1 x2 s
  | .shli x0 x1 x2 => Sys2Proof.Machine.execShli x0 x1 x2 s
  | .shri x0 x1 x2 => Sys2Proof.Machine.execShri x0 x1 x2 s
  | .sari x0 x1 x2 => Sys2Proof.Machine.execSari x0 x1 x2 s
  | .li x0 x1 => Sys2Proof.Machine.execLi x0 x1 s
  | .li64 x0 x1 => Sys2Proof.Machine.execLi64 x0 x1 s
  | .lih x0 x1 x2 => Sys2Proof.Machine.execLih x0 x1 x2 s
  | .addr x0 x1 x2 x3 => Sys2Proof.Machine.execAddr x0 x1 x2 x3 s
  | .colxCol x0 x1 => Sys2Proof.Machine.execColxCol x0 x1 s
  | .colxOff x0 x1 => Sys2Proof.Machine.execColxOff x0 x1 s
  | .colxTag x0 x1 => Sys2Proof.Machine.execColxTag x0 x1 s
  | .mad x0 x1 x2 x3 => Sys2Proof.Machine.execMad x0 x1 x2 x3 s
  | .br x0 x1 x2 x3 => Sys2Proof.Machine.execBr x0 x1 x2 x3 s
  | .jmp x0 => Sys2Proof.Machine.execJmp x0 s
  | .call x0 => Sys2Proof.Machine.execCall x0 s
  | .jr x0 => Sys2Proof.Machine.execJr x0 s
  | .callr x0 => Sys2Proof.Machine.execCallr x0 s
  | .split x0 x1 x2 => Sys2Proof.Machine.execSplit x0 x1 x2 s
  | .splitN x0 x1 x2 => Sys2Proof.Machine.execSplitN x0 x1 x2 s
  | .fuse => Sys2Proof.Machine.execFuse s
  | .callv x0 => Sys2Proof.Machine.execCallv x0 s
  | .sld x0 x1 x2 => Sys2Proof.Machine.execSld x0 x1 x2 s
  | .sld64 x0 x1 x2 x3 => Sys2Proof.Machine.execSld64 x0 x1 x2 x3 s
  | .sst x0 x1 x2 => Sys2Proof.Machine.execSst x0 x1 x2 s
  | .sst64 x0 x1 x2 x3 => Sys2Proof.Machine.execSst64 x0 x1 x2 x3 s
  | .satom x0 x1 x2 x3 x4 x5 x6 x7 => Sys2Proof.Machine.execSatom x0 x1 x2 x3 x4 x5 x6 x7 s
  | .xatom x0 x1 x2 x3 x4 x5 x6 x7 => Sys2Proof.Machine.execXatom x0 x1 x2 x3 x4 x5 x6 x7 s
  | .fence x0 x1 => Sys2Proof.Machine.execFence x0 x1 s
  | .spref x0 => Sys2Proof.Machine.execSpref x0 s
  | .spref64 x0 x1 => Sys2Proof.Machine.execSpref64 x0 x1 s
  | .lx x0 x1 => Sys2Proof.Machine.execLx x0 x1 s
  | .strmDef x0 x1 => Sys2Proof.Machine.execStrmDef x0 x1 s
  | .strmGo x0 => Sys2Proof.Machine.execStrmGo x0 s
  | .strmStop x0 => Sys2Proof.Machine.execStrmStop x0 s
  | .shape x0 x1 => Sys2Proof.Machine.execShape x0 x1 s
  | .vget x0 x1 x2 x3 => Sys2Proof.Machine.execVget x0 x1 x2 x3 s
  | .vput x0 x1 x2 x3 => Sys2Proof.Machine.execVput x0 x1 x2 x3 s
  | .vputAll x0 x1 x2 => Sys2Proof.Machine.execVputAll x0 x1 x2 s
  | .pget x0 x1 => Sys2Proof.Machine.execPget x0 x1 s
  | .pput x0 x1 => Sys2Proof.Machine.execPput x0 x1 s
  | .waitp x0 x1 => Sys2Proof.Machine.execWaitp x0 x1 s
  | .crewJoin x0 x1 => Sys2Proof.Machine.execCrewJoin x0 x1 s
  | .crewLeave x0 x1 => Sys2Proof.Machine.execCrewLeave x0 x1 s
  | .crewSize x0 x1 => Sys2Proof.Machine.execCrewSize x0 x1 s
  | .crewRank x0 x1 => Sys2Proof.Machine.execCrewRank x0 x1 s
  | .bar x0 x1 => Sys2Proof.Machine.execBar x0 x1 s
  | .barSwap x0 x1 => Sys2Proof.Machine.execBarSwap x0 x1 s
  | .abarInit x0 x1 x2 x3 => Sys2Proof.Machine.execAbarInit x0 x1 x2 x3 s
  | .abarArrive x0 x1 x2 x3 x4 => Sys2Proof.Machine.execAbarArrive x0 x1 x2 x3 x4 s
  | .abarExpect x0 x1 x2 x3 x4 => Sys2Proof.Machine.execAbarExpect x0 x1 x2 x3 x4 s
  | .abarWait x0 x1 x2 x3 => Sys2Proof.Machine.execAbarWait x0 x1 x2 x3 s
  | .abarTest x0 x1 x2 x3 x4 => Sys2Proof.Machine.execAbarTest x0 x1 x2 x3 x4 s
  | .crgnOpen x0 => Sys2Proof.Machine.execCrgnOpen x0 s
  | .crgnClose => Sys2Proof.Machine.execCrgnClose s
  | .sigck x0 => Sys2Proof.Machine.execSigck x0 s
  | .pairBegin x0 => Sys2Proof.Machine.execPairBegin x0 s
  | .pairEnd => Sys2Proof.Machine.execPairEnd s
  | .yield => Sys2Proof.Machine.execYield s
  | .tcopy x0 x1 x2 x3 => Sys2Proof.Machine.execTcopy x0 x1 x2 x3 s
  | .wload x0 x1 x2 x3 x4 x5 x6 => Sys2Proof.Machine.execWload x0 x1 x2 x3 x4 x5 x6 s
  | .collDefine x0 x1 x2 => Sys2Proof.Machine.execCollDefine x0 x1 x2 s
  | .collRelease x0 x1 => Sys2Proof.Machine.execCollRelease x0 x1 s
  | .collAbort x0 x1 => Sys2Proof.Machine.execCollAbort x0 x1 s
  | .collAllred x0 x1 x2 x3 x4 => Sys2Proof.Machine.execCollAllred x0 x1 x2 x3 x4 s
  | .collReduce x0 x1 x2 x3 x4 => Sys2Proof.Machine.execCollReduce x0 x1 x2 x3 x4 s
  | .collBcast x0 x1 x2 x3 x4 => Sys2Proof.Machine.execCollBcast x0 x1 x2 x3 x4 s
  | .collGather x0 x1 x2 x3 x4 => Sys2Proof.Machine.execCollGather x0 x1 x2 x3 x4 s
  | .collRscat x0 x1 x2 x3 x4 => Sys2Proof.Machine.execCollRscat x0 x1 x2 x3 x4 s
  | .collRot x0 x1 x2 x3 x4 => Sys2Proof.Machine.execCollRot x0 x1 x2 x3 x4 s
  | .collProg x0 x1 x2 x3 x4 => Sys2Proof.Machine.execCollProg x0 x1 x2 x3 x4 s
  | .solic x0 x1 x2 x3 x4 x5 x6 => Sys2Proof.Machine.execSolic x0 x1 x2 x3 x4 x5 x6 s
  | .auct x0 x1 x2 x3 => Sys2Proof.Machine.execAuct x0 x1 x2 x3 s
  | .slotLook x0 x1 => Sys2Proof.Machine.execSlotLook x0 x1 s
  | .slotVict x0 => Sys2Proof.Machine.execSlotVict x0 s
  | .slotFill x0 x1 => Sys2Proof.Machine.execSlotFill x0 x1 s
  | .slotClr x0 x1 => Sys2Proof.Machine.execSlotClr x0 x1 s
  | .recd x0 x1 x2 => Sys2Proof.Machine.execRecd x0 x1 x2 s
  | .trig x0 x1 x2 => Sys2Proof.Machine.execTrig x0 x1 x2 s
  | .sysr x0 x1 => Sys2Proof.Machine.execSysr x0 x1 s
  | .sysw x0 x1 => Sys2Proof.Machine.execSysw x0 x1 s
  | .syswSrseed x0 => Sys2Proof.Machine.execSyswSrseed x0 s
  | .syswFmask x0 => Sys2Proof.Machine.execSyswFmask x0 s
  | .syswRbnd x0 => Sys2Proof.Machine.execSyswRbnd x0 s
  | .syswSigreg x0 => Sys2Proof.Machine.execSyswSigreg x0 s
  | .syswInject x0 => Sys2Proof.Machine.execSyswInject x0 s
  | .trap x0 => Sys2Proof.Machine.execTrap x0 s
  | .rte => Sys2Proof.Machine.execRte s
  | .exit => Sys2Proof.Machine.execExit s
  | .nop => Sys2Proof.Machine.execNop s
  | .nop64 x0 => Sys2Proof.Machine.execNop64 x0 s
  | .nop96 x0 x1 => Sys2Proof.Machine.execNop96 x0 x1 s
  | .iadd x0 => Sys2Proof.Machine.execIadd x0 s
  | .isub x0 => Sys2Proof.Machine.execIsub x0 s
  | .imul x0 => Sys2Proof.Machine.execImul x0 s
  | .imulh x0 => Sys2Proof.Machine.execImulh x0 s
  | .imulhu x0 => Sys2Proof.Machine.execImulhu x0 s
  | .imin x0 => Sys2Proof.Machine.execImin x0 s
  | .imax x0 => Sys2Proof.Machine.execImax x0 s
  | .iminu x0 => Sys2Proof.Machine.execIminu x0 s
  | .imaxu x0 => Sys2Proof.Machine.execImaxu x0 s
  | .iand x0 => Sys2Proof.Machine.execIand x0 s
  | .ior x0 => Sys2Proof.Machine.execIor x0 s
  | .ixor x0 => Sys2Proof.Machine.execIxor x0 s
  | .laneShl x0 => Sys2Proof.Machine.execLaneShl x0 s
  | .laneShr x0 => Sys2Proof.Machine.execLaneShr x0 s
  | .laneSar x0 => Sys2Proof.Machine.execLaneSar x0 s
  | .rot x0 => Sys2Proof.Machine.execRot x0 s
  | .iadds x0 => Sys2Proof.Machine.execIadds x0 s
  | .isubs x0 => Sys2Proof.Machine.execIsubs x0 s
  | .iabs x0 => Sys2Proof.Machine.execIabs x0 s
  | .ineg x0 => Sys2Proof.Machine.execIneg x0 s
  | .inot x0 => Sys2Proof.Machine.execInot x0 s
  | .lanePopc x0 => Sys2Proof.Machine.execLanePopc x0 s
  | .laneClz x0 => Sys2Proof.Machine.execLaneClz x0 s
  | .laneBrev x0 => Sys2Proof.Machine.execLaneBrev x0 s
  | .laneMov x0 => Sys2Proof.Machine.execLaneMov x0 s
  | .imad x0 => Sys2Proof.Machine.execImad x0 s
  | .dot4 x0 => Sys2Proof.Machine.execDot4 x0 s
  | .iaddc x0 => Sys2Proof.Machine.execIaddc x0 s
  | .imulw x0 => Sys2Proof.Machine.execImulw x0 s
  | .bfx x0 => Sys2Proof.Machine.execBfx x0 s
  | .bfi x0 => Sys2Proof.Machine.execBfi x0 s
  | .icmp x0 => Sys2Proof.Machine.execIcmp x0 s
  | .sel x0 => Sys2Proof.Machine.execSel x0 s
  | .lid x0 => Sys2Proof.Machine.execLid x0 s
  | .fadd x0 => Sys2Proof.Machine.execFadd x0 s
  | .fsub x0 => Sys2Proof.Machine.execFsub x0 s
  | .fmul x0 => Sys2Proof.Machine.execFmul x0 s
  | .ffma x0 => Sys2Proof.Machine.execFfma x0 s
  | .fmin x0 => Sys2Proof.Machine.execFmin x0 s
  | .fmax x0 => Sys2Proof.Machine.execFmax x0 s
  | .fabs x0 => Sys2Proof.Machine.execFabs x0 s
  | .fneg x0 => Sys2Proof.Machine.execFneg x0 s
  | .fcmp x0 => Sys2Proof.Machine.execFcmp x0 s
  | .fclass x0 => Sys2Proof.Machine.execFclass x0 s
  | .frint x0 => Sys2Proof.Machine.execFrint x0 s
  | .hadd2 x0 => Sys2Proof.Machine.execHadd2 x0 s
  | .hmul2 x0 => Sys2Proof.Machine.execHmul2 x0 s
  | .hfma2 x0 => Sys2Proof.Machine.execHfma2 x0 s
  | .hmin2 x0 => Sys2Proof.Machine.execHmin2 x0 s
  | .hmax2 x0 => Sys2Proof.Machine.execHmax2 x0 s
  | .rcp x0 => Sys2Proof.Machine.execRcp x0 s
  | .rsq x0 => Sys2Proof.Machine.execRsq x0 s
  | .sqrt x0 => Sys2Proof.Machine.execSqrt x0 s
  | .exp2 x0 => Sys2Proof.Machine.execExp2 x0 s
  | .log2 x0 => Sys2Proof.Machine.execLog2 x0 s
  | .sin x0 => Sys2Proof.Machine.execSin x0 s
  | .cos x0 => Sys2Proof.Machine.execCos x0 s
  | .tanh x0 => Sys2Proof.Machine.execTanh x0 s
  | .sigm x0 => Sys2Proof.Machine.execSigm x0 s
  | .cvt x0 => Sys2Proof.Machine.execCvt x0 s
  | .pack x0 => Sys2Proof.Machine.execPack x0 s
  | .unpk x0 => Sys2Proof.Machine.execUnpk x0 s
  | .qnt x0 => Sys2Proof.Machine.execQnt x0 s
  | .scale x0 => Sys2Proof.Machine.execScale x0 s
  | .amax x0 => Sys2Proof.Machine.execAmax x0 s
  | .shfl x0 => Sys2Proof.Machine.execShfl x0 s
  | .ballot x0 => Sys2Proof.Machine.execBallot x0 s
  | .bplane x0 => Sys2Proof.Machine.execBplane x0 s
  | .vred x0 => Sys2Proof.Machine.execVred x0 s
  | .vscan x0 => Sys2Proof.Machine.execVscan x0 s
  | .ld x0 => Sys2Proof.Machine.execLd x0 s
  | .st x0 => Sys2Proof.Machine.execSt x0 s
  | .atom x0 => Sys2Proof.Machine.execAtom x0 s
  | .fatom x0 => Sys2Proof.Machine.execFatom x0 s
  | .fatomMore x0 => Sys2Proof.Machine.execFatomMore x0 s
  | .fatomSkip x0 => Sys2Proof.Machine.execFatomSkip x0 s
  | .acpy x0 => Sys2Proof.Machine.execAcpy x0 s
  | .xst x0 => Sys2Proof.Machine.execXst x0 s
  | .mma x0 => Sys2Proof.Machine.execMma x0 s
  | .msoft x0 => Sys2Proof.Machine.execMsoft x0 s
  | .tmovTv x0 => Sys2Proof.Machine.execTmovTv x0 s
  | .tmovVt x0 => Sys2Proof.Machine.execTmovVt x0 s
  | .tclr x0 => Sys2Proof.Machine.execTclr x0 s
  | .tscl x0 => Sys2Proof.Machine.execTscl x0 s
  | .tsclPend x0 => Sys2Proof.Machine.execTsclPend x0 s
  | .tsclDivl x0 => Sys2Proof.Machine.execTsclDivl x0 s
  | .tdrn x0 => Sys2Proof.Machine.execTdrn x0 s
  | .laneIssue x0 => Sys2Proof.Machine.execLaneIssue x0 s
  | .loadSectorReturn x0 x1 x2 => Sys2Proof.Machine.execLoadSectorReturn x0 x1 x2 s
  | .storePerform x0 => Sys2Proof.Machine.execStorePerform x0 s
  | .atomicPerform x0 x1 => Sys2Proof.Machine.execAtomicPerform x0 x1 s
  | .fatomArrive x0 x1 => Sys2Proof.Machine.execFatomArrive x0 x1 s
  | .fatomApply x0 x1 => Sys2Proof.Machine.execFatomApply x0 x1 s
  | .acpyWrite x0 x1 x2 => Sys2Proof.Machine.execAcpyWrite x0 x1 x2 s
  | .xstWrite x0 x1 x2 => Sys2Proof.Machine.execXstWrite x0 x1 x2 s
  | .streamFetch x0 x1 x2 => Sys2Proof.Machine.execStreamFetch x0 x1 x2 s
  | .matrixPass x0 => Sys2Proof.Machine.execMatrixPass x0 s
  | .matrixPerform x0 => Sys2Proof.Machine.execMatrixPerform x0 s
  | .wloadAccept x0 x1 => Sys2Proof.Machine.execWloadAccept x0 x1 s
  | .wloadComplete x0 x1 => Sys2Proof.Machine.execWloadComplete x0 x1 s
  | .tcopyAccept x0 x1 => Sys2Proof.Machine.execTcopyAccept x0 x1 s
  | .tcopySectorWrite x0 x1 => Sys2Proof.Machine.execTcopySectorWrite x0 x1 s
  | .tcopyComplete x0 x1 => Sys2Proof.Machine.execTcopyComplete x0 x1 s
  | .crewControllerArrival x0 => Sys2Proof.Machine.execCrewControllerArrival x0 s
  | .crewDeparture x0 => Sys2Proof.Machine.execCrewDeparture x0 s
  | .watchRelease x0 => Sys2Proof.Machine.execWatchRelease x0 s
  | .uncorAbortCompletion x0 => Sys2Proof.Machine.execUncorAbortCompletion x0 s
  | .pageWalkComplete x0 x1 x2 => Sys2Proof.Machine.execPageWalkComplete x0 x1 x2 s
  | .mmpPageResident x0 x1 => Sys2Proof.Machine.execMmpPageResident x0 x1 s
  | .mmpDecline x0 => Sys2Proof.Machine.execMmpDecline x0 s
  | .tlbLeaseExpire x0 x1 => Sys2Proof.Machine.execTlbLeaseExpire x0 x1 s
  | .mmpUnmap x0 x1 x2 => Sys2Proof.Machine.execMmpUnmap x0 x1 x2 s
  | .drainMarkAck x0 x1 => Sys2Proof.Machine.execDrainMarkAck x0 x1 s
  | .unmapwaitExpire x0 => Sys2Proof.Machine.execUnmapwaitExpire x0 s
  | .drainProbeAnswer x0 x1 => Sys2Proof.Machine.execDrainProbeAnswer x0 x1 s
  | .preemptSwitchRequest x0 => Sys2Proof.Machine.execPreemptSwitchRequest x0 s
  | .switchComplete x0 => Sys2Proof.Machine.execSwitchComplete x0 s
  | .fillStart x0 x1 => Sys2Proof.Machine.execFillStart x0 x1 s
  | .fillDone x0 => Sys2Proof.Machine.execFillDone x0 s
  | .spillDone x0 => Sys2Proof.Machine.execSpillDone x0 s
  | .handlerTimeout x0 => Sys2Proof.Machine.execHandlerTimeout x0 s
  | .xtoTimeout x0 x1 => Sys2Proof.Machine.execXtoTimeout x0 x1 s
  | .partitionTimeout x0 => Sys2Proof.Machine.execPartitionTimeout x0 s
  | .watchdogExpire x0 => Sys2Proof.Machine.execWatchdogExpire x0 s
  | .spillstuck x0 => Sys2Proof.Machine.execSpillstuck x0 s
  | .columnRetire x0 => Sys2Proof.Machine.execColumnRetire x0 s
  | .pairTrailerPlace x0 => Sys2Proof.Machine.execPairTrailerPlace x0 s
  | .pairCompare x0 => Sys2Proof.Machine.execPairCompare x0 s
  | .solicAccept x0 x1 => Sys2Proof.Machine.execSolicAccept x0 x1 s
  | .directoryLookup x0 x1 x2 => Sys2Proof.Machine.execDirectoryLookup x0 x1 x2 s
  | .responderSpawn x0 x1 x2 => Sys2Proof.Machine.execResponderSpawn x0 x1 x2 s
  | .censusComplete x0 x1 => Sys2Proof.Machine.execCensusComplete x0 x1 s
  | .directoryInsertAck x0 x1 => Sys2Proof.Machine.execDirectoryInsertAck x0 x1 s
  | .auctAccept x0 x1 => Sys2Proof.Machine.execAuctAccept x0 x1 s
  | .auctRun x0 => Sys2Proof.Machine.execAuctRun x0 s
  | .auctComplete x0 => Sys2Proof.Machine.execAuctComplete x0 s
  | .triggerAccept x0 x1 => Sys2Proof.Machine.execTriggerAccept x0 x1 s
  | .ringEntryTake x0 x1 => Sys2Proof.Machine.execRingEntryTake x0 x1 s
  | .runStart x0 => Sys2Proof.Machine.execRunStart x0 s
  | .gvecRead x0 x1 => Sys2Proof.Machine.execGvecRead x0 x1 s
  | .blockPlace x0 => Sys2Proof.Machine.execBlockPlace x0 s
  | .paramWrite x0 x1 => Sys2Proof.Machine.execParamWrite x0 x1 s
  | .nodeComplete x0 => Sys2Proof.Machine.execNodeComplete x0 s
  | .recAnswer x0 x1 => Sys2Proof.Machine.execRecAnswer x0 x1 s
  | .recordDeliver x0 => Sys2Proof.Machine.execRecordDeliver x0 s
  | .closingRecordDeliver x0 x1 => Sys2Proof.Machine.execClosingRecordDeliver x0 x1 s
  | .nocFlitRetry x0 x1 => Sys2Proof.Machine.execNocFlitRetry x0 x1 s
  | .hostTriggerWrite x0 x1 => Sys2Proof.Machine.execHostTriggerWrite x0 x1 s
  | .qtailWrite x0 x1 x2 => Sys2Proof.Machine.execQtailWrite x0 x1 x2 s
  | .evctlWrite x0 x1 => Sys2Proof.Machine.execEvctlWrite x0 x1 s
  | .evheadWrite x0 x1 => Sys2Proof.Machine.execEvheadWrite x0 x1 s
  | .eventWrite x0 => Sys2Proof.Machine.execEventWrite x0 s
  | .hrangeWrite x0 x1 x2 => Sys2Proof.Machine.execHrangeWrite x0 x1 x2 s
  | .schedmemWrite x0 x1 x2 x3 => Sys2Proof.Machine.execSchedmemWrite x0 x1 x2 x3 s
  | .hostWindowWrite x0 x1 x2 x3 => Sys2Proof.Machine.execHostWindowWrite x0 x1 x2 x3 s
  | .create x0 => Sys2Proof.Machine.execCreate x0 s
  | .destroy x0 => Sys2Proof.Machine.execDestroy x0 s
  | .resume x0 => Sys2Proof.Machine.execResume x0 s
  | .kick x0 => Sys2Proof.Machine.execKick x0 s
  | .pagedone x0 => Sys2Proof.Machine.execPagedone x0 s
  | .pagefail x0 => Sys2Proof.Machine.execPagefail x0 s
  | .mbcmdReserved x0 x1 => Sys2Proof.Machine.execMbcmdReserved x0 x1 s
  | .partitionTableWrite x0 x1 => Sys2Proof.Machine.execPartitionTableWrite x0 x1 s
  | .routeTableWrite x0 => Sys2Proof.Machine.execRouteTableWrite x0 s
  | .enmonLogRead x0 => Sys2Proof.Machine.execEnmonLogRead x0 s
  | .firmwareUpdate x0 => Sys2Proof.Machine.execFirmwareUpdate x0 s
  | .attestationReport x0 => Sys2Proof.Machine.execAttestationReport x0 s
  | .enmonReset x0 => Sys2Proof.Machine.execEnmonReset x0 s
  | .logEpochEnd => Sys2Proof.Machine.execLogEpochEnd s
  | .deviceReset => Sys2Proof.Machine.execDeviceReset s
  | .stackTrained x0 x1 => Sys2Proof.Machine.execStackTrained x0 x1 s
  | .hostLinkTrained => Sys2Proof.Machine.execHostLinkTrained s
  | .decompSelftestPass x0 => Sys2Proof.Machine.execDecompSelftestPass x0 s
  | .linkModuleFail x0 => Sys2Proof.Machine.execLinkModuleFail x0 s
  | .powerLimit x0 => Sys2Proof.Machine.execPowerLimit x0 s
  | .thermalTrip => Sys2Proof.Machine.execThermalTrip s
  | .clockSet x0 x1 x2 => Sys2Proof.Machine.execClockSet x0 x1 x2 s
  | .collRunStart x0 x1 => Sys2Proof.Machine.execCollRunStart x0 x1 s
  | .collRunComplete x0 => Sys2Proof.Machine.execCollRunComplete x0 s
  | .chunkSend x0 x1 x2 x3 x4 => Sys2Proof.Machine.execChunkSend x0 x1 x2 x3 x4 s
  | .chunkRecv x0 x1 x2 x3 x4 => Sys2Proof.Machine.execChunkRecv x0 x1 x2 x3 x4 s
  | .chunkRred x0 x1 x2 x3 x4 x5 => Sys2Proof.Machine.execChunkRred x0 x1 x2 x3 x4 x5 s
  | .chunkCopy x0 x1 x2 x3 => Sys2Proof.Machine.execChunkCopy x0 x1 x2 x3 s
  | .chunkWait x0 x1 => Sys2Proof.Machine.execChunkWait x0 x1 s
  | .chunkSig x0 x1 => Sys2Proof.Machine.execChunkSig x0 x1 s
  | .chunkLoop x0 => Sys2Proof.Machine.execChunkLoop x0 s
  | .chunkNext => Sys2Proof.Machine.execChunkNext s
  | .chunkMcast x0 x1 x2 x3 => Sys2Proof.Machine.execChunkMcast x0 x1 x2 x3 s
  | .chunkRoute x0 x1 => Sys2Proof.Machine.execChunkRoute x0 x1 s
  | .chunkBar => Sys2Proof.Machine.execChunkBar s
  | .chunkEnd => Sys2Proof.Machine.execChunkEnd s
  | .beamFlitForward x0 x1 => Sys2Proof.Machine.execBeamFlitForward x0 x1 s
  | .beamData x0 x1 => Sys2Proof.Machine.execBeamData x0 x1 s
  | .beamAck x0 x1 => Sys2Proof.Machine.execBeamAck x0 x1 s
  | .beamGrant x0 x1 => Sys2Proof.Machine.execBeamGrant x0 x1 s
  | .beamSignal x0 x1 => Sys2Proof.Machine.execBeamSignal x0 x1 s
  | .beamBarrier x0 x1 => Sys2Proof.Machine.execBeamBarrier x0 x1 s
  | .beamAbort x0 x1 => Sys2Proof.Machine.execBeamAbort x0 x1 s
  | .beamLinkdown x0 x1 => Sys2Proof.Machine.execBeamLinkdown x0 x1 s
  | .beamCrcReject x0 x1 => Sys2Proof.Machine.execBeamCrcReject x0 x1 s
  | .beamLaneLoss x0 x1 => Sys2Proof.Machine.execBeamLaneLoss x0 x1 s
  | .beamPortDown x0 => Sys2Proof.Machine.execBeamPortDown x0 s
  | .beamPortRetrain x0 => Sys2Proof.Machine.execBeamPortRetrain x0 s
  | .reservedEncoding x0 => Sys2Proof.Machine.execReservedEncoding x0 s
  | .badop x0 => Sys2Proof.Machine.execBadop x0 s
  | .wloadSectorWrite x0 x1 => Sys2Proof.Machine.execWloadSectorWrite x0 x1 s
  | .hostStoreAcknowledgement x0 x1 => Sys2Proof.Machine.execHostStoreAcknowledgement x0 x1 s
  | .grpbusy x0 x1 => Sys2Proof.Machine.execGrpbusy x0 x1 s

end Sys2Proof.Machine
end

