-- ==== Sys2Proof/Machine/Step.lean ====
section
/-! DEFINITION. A step of the device (log 2): the head of the agenda, or in turn a control thread (01 R21) and another agent. -/

namespace Sys2Proof.Machine

/-- A lane instruction that has the ports runs in the same step (01 R20). -/
def afterGrant (o : Host.Outcome State Fault Refusal) : Host.Outcome State Fault Refusal :=
  match o with
  | .next s => if s.granted then loosened s (exec s.grantedInstr { s with granted := false }) else .next s
  | .fault f => .fault f
  | .refused r => .refused r

/-- The executing fragment's next control instruction is fetched (00 R5, 02 R37) and runs, unless the fetch traps or waits or an
interlock holds it (01 R18; 04 R92 to R94). A fetch that traps waits as the instruction would for the blocks before it (R94). -/
def State.controlStep (s : State) : Host.Outcome State Fault Refusal :=
  match s.fetchInstr with
  | (.ok _, i) => if s.stalled i then .next s else exec i s
  | (p, _) => .next (if s.mayTrap s.cw s.ent then s else s.andThen p fun _ => s)

/-- A fragment's control instruction is ready (01 R21): its step does something. -/
def State.turnReady (s : State) (x : Nat × Nat) : Bool :=
  match ({ s with cur := x.1, ent := x.2 }).controlStep with
  | .next t => s.moved t x.1 x.2
  | _ => true

/-- The first of the fragments in order whose instruction is ready is served (01 R21), those of `passed` having passed their turn over. -/
def State.serveFirst (s : State) (passed : List Nat) : List (Nat × Nat) → Option (Host.Outcome State Fault Refusal)
  | [] => none
  | x :: t =>
    match (s.serveThread x.1 x.2 passed).controlStep with
    | .next y => if s.moved y x.1 x.2 then some (.next y) else serveFirst s passed t
    | o => some o

/-- A core's control turn (01 R21): the watches that have yielded are passed over once, where another is ready (09 R259). -/
def State.controlTurn (s : State) (core : Nat) : Host.Outcome State Fault Refusal :=
  let fresh := s.turnsOf core false
  let late := s.turnsOf core true
  if late.isEmpty then (s.serveFirst [] fresh).getD (.next s)
  else
    let ready := (late.filter s.turnReady).map (·.1)
    match fresh.find? s.turnReady with
    | some x => (s.serveFirst (ready.filter fun n => s.stands core n x.1) [x]).getD (.next s)
    | none => (s.serveFirst ready late).getD (.next s)

/-- A strand's turn (15 R411, R413; 02 R52 to R54): a chunk word, or a step of a built-in operation. -/
def State.strandTurn (s : State) (id i : Nat) : Host.Outcome State Fault Refusal :=
  let s := { s with strand := (id, i) }
  match s.runOf id with
  | none => .next s
  | some r =>
    let x := r.strand i
    if !s.hasContext r i then .next s
    else if r.op ≠ 6 then .next s.builtinStep
    else match r.prog[x.pc]? with
      | none => exec (.badop 0) s
      | some wd =>
        match decodeChunk wd with
        | .ok c => exec c s
        | .badOp => exec (.badop wd) s
        | .badField => .next s.badField

/-- Another agent's step. -/
def State.evStep (s : State) (e : Ev) : Host.Outcome State Fault Refusal :=
  match e with
  | .strand id i => s.strandTurn id i
  | e => afterGrant (runEv e s)

/-- One step of the device. -/
def step (s : State) : Host.Outcome State Fault Refusal :=
  match s.agenda with
  | .control k :: t => { s with agenda := t }.controlTurn k
  | .strand id i :: t => { s with agenda := t }.strandTurn id i
  | .event i :: t => afterGrant (exec i { s with agenda := t })
  | [] =>
    let n := { s with turn := !s.turn, rot := s.rot + 1 }
    let cs := s.candidates
    match s.nextControl, cs[s.rot / 2 % max 1 cs.length]? with
    | none, none => .next n
    | some k, none => n.controlTurn k
    | none, some c => n.evStep c
    | some k, some c => if s.turn then n.controlTurn k else n.evStep c

/-- The state with an instruction stored where the next step fetches (log 3). -/
def State.withFetchWord (s : State) (nbits w : Nat) : State := s.placeBytes (tableBytes (w % 2 ^ nbits))

end Sys2Proof.Machine
end

