-- ==== Sys2Proof/Safety.lean ====
section
/-! DEFINITION. What the statements call a safe step, and the vocabulary in which they say what a step leaves alone. -/

namespace Sys2Proof.Machine

/-- A safe step: the machine goes on. No condition of the device stops it (every cause is a trap, an escalation, a lane switched off
or an engine status), so that every step of a right model is safe. -/
def Goes (o : Host.Outcome State Fault Refusal) : Prop := ∃ t, o = .next t

/-- The instruction or step completes from `s` with a state that meets `P`. -/
def Completes (i : Instr) (s : State) (P : State → Prop) : Prop := ∃ t, exec i s = .next t ∧ P t

/-- Every byte of every place reads in `t` as in `s`: the slices, the scratchpads, host memory and the rest (00 R5). -/
def SameBytes (s t : State) : Prop := ∀ key, memByte t.mem t.epoch key = memByte s.mem s.epoch key

/-- `t` is `s` but for the executing watch, which is `x`: memory and every other part of the device are as before. -/
def OnlyWatch (s t : State) (x : Watch) : Prop := t = s.setW x

/-- Watch `y` differs from `x` in its S registers and its fragments only. -/
def SameButSregs (x y : Watch) : Prop := y = { x with s := y.s, split := y.split }

/-- Fragment e of watch x becomes `f` in y, and no other fragment moves. -/
def FragmentIs (x y : Watch) (e : Nat) (f : SplitEntry) : Prop := (∀ k, k ≠ e → y.entry k = x.entry k) ∧ y.entry e = f

/-- Fragment e goes on at the instruction after `i` and folds word 0 of `i` into its signature (02 R37, 09 R271); no other fragment
moves. The length is that of the encoding of `i`. -/
def Advances (i : Instr) (x y : Watch) (e : Nat) : Prop :=
  ∃ w0 ws, encode i = some (w0 :: ws) ∧ FragmentIs x y e { x.entry e with
    pc := (x.entry e).pc + BitVec.ofNat 42 (4 * (ws.length + 1)), sig := foldSig (x.entry e).sig w0 }

/-- `i` completes in `s`, writing `v` to S[d] (a write to S0 is discarded, 01 R14), and goes on to the next instruction: no other S
register, no other part of the watch and nothing else of the device changes. -/
def WritesScalar (i : Instr) (s : State) (d : Reg) (v : Word) : Prop :=
  ∃ x, exec i s = .next (s.setW x) ∧ SameButSregs s.cw x ∧ x.sreg d = (if d = 0 then 0 else v) ∧
    (∀ r, r ≠ d → x.sreg r = s.sreg r) ∧ Advances i s.cw x s.ent

/-- `i` completes in `s` with no effect but going on to the next instruction. -/
def OnlyAdvances (i : Instr) (s : State) : Prop :=
  ∃ x, exec i s = .next (s.setW x) ∧ x = { s.cw with split := x.split } ∧ Advances i s.cw x s.ent

/-- What a step keeps of the device's bookkeeping: memory stays in its canonical form, and the counters from which fresh numbers, places
in the order of accesses, undefined values and undefined bytes are drawn never go back. -/
def Keeps (s t : State) : Prop :=
  (Memory.wf s.mem = true → Memory.wf t.mem = true) ∧ s.next ≤ t.next ∧ s.seq ≤ t.seq ∧ s.free ≤ t.free ∧ s.epoch ≤ t.epoch

end Sys2Proof.Machine
end

