-- ==== Sys2Proof/Certificates/Slice0/Obligations.lean ====
section
/-! DEFINITION. The statements for the provers: their vocabulary, their parts, and the obligations themselves. -/

/-! ## The scalar instructions (04 R95 to R101) -/

namespace Sys2Proof.Spec
open Sys2Proof.Machine

/-- 1 or 0. -/
def truth (p : Prop) [Decidable p] : Word := if p then 1 else 0

/-- The table of 04 R95 with the edge cases of R96, for S registers that read as `v`: the destination and the result. CLZ and CTZ have
their own statement. -/
def alu (v : Reg → Word) : Instr → Option (Reg × Word)
  | .add d a b => some (d, BitVec.ofNat 64 ((v a).toNat + (v b).toNat))
  | .sub d a b => some (d, BitVec.ofInt 64 ((v a).toInt - (v b).toInt))
  | .mul d a b => some (d, BitVec.ofNat 64 ((v a).toNat * (v b).toNat))
  | .mulh d a b => some (d, BitVec.ofInt 64 ((v a).toInt * (v b).toInt / 2 ^ 64))
  | .mulhu d a b => some (d, BitVec.ofNat 64 ((v a).toNat * (v b).toNat / 2 ^ 64))
  | .div d a b => some (d, if v b = 0 then BitVec.allOnes 64 else BitVec.ofInt 64 ((v a).toInt.tdiv (v b).toInt))
  | .divu d a b => some (d, if v b = 0 then BitVec.allOnes 64 else BitVec.ofNat 64 ((v a).toNat / (v b).toNat))
  | .rem d a b => some (d, if v b = 0 then v a else BitVec.ofInt 64 ((v a).toInt.tmod (v b).toInt))
  | .remu d a b => some (d, if v b = 0 then v a else BitVec.ofNat 64 ((v a).toNat % (v b).toNat))
  | .and d a b => some (d, v a &&& v b)
  | .or d a b => some (d, v a ||| v b)
  | .xor d a b => some (d, v a ^^^ v b)
  | .andn d a b => some (d, v a &&& ~~~v b)
  | .shl d a b => some (d, BitVec.ofNat 64 ((v a).toNat * 2 ^ ((v b).toNat % 64)))
  | .shr d a b => some (d, BitVec.ofNat 64 ((v a).toNat / 2 ^ ((v b).toNat % 64)))
  | .sar d a b => some (d, BitVec.ofInt 64 ((v a).toInt / 2 ^ ((v b).toNat % 64)))
  | .rol d a b => some (d, BitVec.ofNat 64 ((v a).toNat * 2 ^ ((v b).toNat % 64)) ||| BitVec.ofNat 64 ((v a).toNat / 2 ^ (64 - (v b).toNat % 64)))
  | .min d a b => some (d, BitVec.ofInt 64 (min (v a).toInt (v b).toInt))
  | .max d a b => some (d, BitVec.ofInt 64 (max (v a).toInt (v b).toInt))
  | .minu d a b => some (d, BitVec.ofNat 64 (min (v a).toNat (v b).toNat))
  | .maxu d a b => some (d, BitVec.ofNat 64 (max (v a).toNat (v b).toNat))
  | .popc d a => some (d, BitVec.ofNat 64 ((List.range 64).countP fun i => (v a).getLsbD i))
  | .seq d a b => some (d, truth (v a = v b))
  | .sne d a b => some (d, truth (v a ≠ v b))
  | .slt d a b => some (d, truth ((v a).toInt < (v b).toInt))
  | .sltu d a b => some (d, truth ((v a).toNat < (v b).toNat))
  | .brev d a => some (d, BitVec.ofFnLE fun i : Fin 64 => (v a).getLsbD (63 - i.val))
  | .mov d a => some (d, v a)
  | _ => none

/-- The immediate forms, LI and LIH (04 R97, R98). -/
def imm (v : Reg → Word) : Instr → Option (Reg × Word)
  | .addi d a i => some (d, BitVec.ofInt 64 ((v a).toInt + i.toInt))
  | .addi64 d a i => some (d, BitVec.ofInt 64 ((v a).toInt + i.toInt))
  | .andi d a i => some (d, v a &&& BitVec.ofInt 64 i.toInt)
  | .andi64 d a i => some (d, v a &&& BitVec.ofInt 64 i.toInt)
  | .ori d a i => some (d, v a ||| BitVec.ofInt 64 i.toInt)
  | .ori64 d a i => some (d, v a ||| BitVec.ofInt 64 i.toInt)
  | .xori d a i => some (d, v a ^^^ BitVec.ofInt 64 i.toInt)
  | .xori64 d a i => some (d, v a ^^^ BitVec.ofInt 64 i.toInt)
  | .slti d a i => some (d, truth ((v a).toInt < i.toInt))
  | .slti64 d a i => some (d, truth ((v a).toInt < i.toInt))
  | .shli d a n => some (d, BitVec.ofNat 64 ((v a).toNat * 2 ^ n.toNat))
  | .shri d a n => some (d, BitVec.ofNat 64 ((v a).toNat / 2 ^ n.toNat))
  | .sari d a n => some (d, BitVec.ofInt 64 ((v a).toInt / 2 ^ n.toNat))
  | .li d i => some (d, BitVec.ofInt 64 i.toInt)
  | .li64 d i => some (d, BitVec.ofInt 64 i.toInt)
  | .lih d a i => some (d, BitVec.ofNat 64 (i.toNat * 2 ^ 32 + (v a).toNat % 2 ^ 32))
  | _ => none

/-- ADDR, COLX and MAD (04 R99 to R101). -/
def address (v : Reg → Word) : Instr → Option (Reg × Word)
  | .addr d a b t => some (d, BitVec.ofNat 64 (t.toNat * 2 ^ 52 + (v a).toNat % 2 ^ 10 * 2 ^ 42 + (v b).toNat % 2 ^ 42))
  | .colxCol d a => some (d, BitVec.ofNat 64 ((v a).toNat / 2 ^ 42 % 2 ^ 10))
  | .colxOff d a => some (d, BitVec.ofNat 64 ((v a).toNat % 2 ^ 42))
  | .colxTag d a => some (d, BitVec.ofNat 64 ((v a).toNat / 2 ^ 52 % 2 ^ 4))
  | .mad d a b c => some (d, BitVec.ofNat 64 ((v a).toNat * (v b).toNat + (v c).toNat))
  | _ => none

/-- A word 0 of the fields of 02 R40: LEN, MAJ, D, A, B and MIN; and one of the immediate format. -/
def word (len : BitVec 2) (maj d a b min_ : Reg) : W32 := min_ ++ b ++ a ++ d ++ maj ++ len
def immWord (len : BitVec 2) (maj d a : Reg) (i : I12) : W32 := i ++ a ++ d ++ maj ++ len

/-- The word `w` reads as `i`, whatever follows it. -/
def Reads (w : W32) (i : Instr) : Prop := ∀ g1 g2, decode w g1 g2 = i

/-- The word `w` with `v` after it reads as `i`. -/
def Reads2 (w v : W32) (i : Instr) : Prop := ∀ g2, decode w v g2 = i

end Sys2Proof.Spec

open Sys2Proof Sys2Proof.Machine

/-- 04 R95, R96: every instruction of the integer group, major 0x00 with the minor codes of R45, writes the result that the table gives
and changes nothing else; CLZ and CTZ count zeros; no division traps, and the edge cases yield what the table says. -/
def Obligations.IntegerGroupWritesItsResult : Prop :=
  (∀ (i : Instr) (s : State) (d : Reg) (v : Word), s.frag.valid = true → Spec.alu s.sreg i = some (d, v) → WritesScalar i s d v) ∧
  (∀ (s : State) (d a : Reg), s.frag.valid = true →
    (∃ n, n ≤ 64 ∧ WritesScalar (.clz d a) s d (BitVec.ofNat 64 n) ∧ (∀ k, 64 - n ≤ k → k < 64 → (s.sreg a).getLsbD k = false) ∧
      (n < 64 → (s.sreg a).getLsbD (63 - n) = true)) ∧
    (∃ n, n ≤ 64 ∧ WritesScalar (.ctz d a) s d (BitVec.ofNat 64 n) ∧ (∀ k, k < n → (s.sreg a).getLsbD k = false) ∧
      (n < 64 → (s.sreg a).getLsbD n = true))) ∧
  (∀ (s : State) (d a b : Reg), s.frag.valid = true →
    (s.sreg b = 0 → WritesScalar (.div d a b) s d 0xFFFFFFFFFFFFFFFF ∧ WritesScalar (.divu d a b) s d 0xFFFFFFFFFFFFFFFF ∧
      WritesScalar (.rem d a b) s d (s.sreg a) ∧ WritesScalar (.remu d a b) s d (s.sreg a)) ∧
    (s.sreg a = 0x8000000000000000 → s.sreg b = 0xFFFFFFFFFFFFFFFF →
      WritesScalar (.div d a b) s d 0x8000000000000000 ∧ WritesScalar (.rem d a b) s d 0)) ∧
  ∀ (d a b : Reg),
    let op := fun m => Spec.Reads (Spec.word 0 0x00 d a b m)
    let one := fun m => Spec.Reads (Spec.word 0 0x00 d a 0 m)
    op 0x00 (.add d a b) ∧ op 0x01 (.sub d a b) ∧ op 0x02 (.mul d a b) ∧ op 0x03 (.mulh d a b) ∧ op 0x04 (.mulhu d a b) ∧
    op 0x05 (.div d a b) ∧ op 0x06 (.divu d a b) ∧ op 0x07 (.rem d a b) ∧ op 0x08 (.remu d a b) ∧ op 0x09 (.and d a b) ∧
    op 0x0A (.or d a b) ∧ op 0x0B (.xor d a b) ∧ op 0x0C (.andn d a b) ∧ op 0x0D (.shl d a b) ∧ op 0x0E (.shr d a b) ∧
    op 0x0F (.sar d a b) ∧ op 0x10 (.rol d a b) ∧ op 0x11 (.min d a b) ∧ op 0x12 (.max d a b) ∧ op 0x13 (.minu d a b) ∧
    op 0x14 (.maxu d a b) ∧ one 0x15 (.popc d a) ∧ one 0x16 (.clz d a) ∧ one 0x17 (.ctz d a) ∧ op 0x18 (.seq d a b) ∧
    op 0x19 (.sne d a b) ∧ op 0x1A (.slt d a b) ∧ op 0x1B (.sltu d a b) ∧ one 0x1C (.brev d a) ∧ one 0x1D (.mov d a) ∧
    (b ≠ 0 → ∀ m ∈ [0x15, 0x16, 0x17, 0x1C, 0x1D], op m (.reservedEncoding (Spec.word 0 0x00 d a b m)))

/-- 04 R97, R98: the immediate forms, LI and LIH write the result that the table gives, from the immediate of their form; SHI has no 64-bit form
and LIH no 32-bit form; LI and LIH together load any value. -/
def Obligations.ImmediateFormsWriteTheirResult : Prop :=
  (∀ (i : Instr) (s : State) (d : Reg) (v : Word), s.frag.valid = true → Spec.imm s.sreg i = some (d, v) → WritesScalar i s d v) ∧
  (∀ (d a b : Reg) (i : I12) (w : W32),
    let short := fun maj => Spec.Reads (Spec.immWord 0 maj d a i)
    let long := fun maj => Spec.Reads2 (Spec.immWord 1 maj d a 0) w
    short 0x01 (.addi d a i) ∧ short 0x02 (.andi d a i) ∧ short 0x03 (.ori d a i) ∧ short 0x04 (.xori d a i) ∧ short 0x06 (.slti d a i) ∧
    long 0x01 (.addi64 d a w) ∧ long 0x02 (.andi64 d a w) ∧ long 0x03 (.ori64 d a w) ∧ long 0x04 (.xori64 d a w) ∧
    long 0x06 (.slti64 d a w) ∧ Spec.Reads (Spec.immWord 0 0x07 d 0 i) (.li d i) ∧ Spec.Reads2 (Spec.immWord 1 0x07 d 0 0) w (.li64 d w) ∧
    Spec.Reads2 (Spec.word 1 0x0B d a 0 0) w (.lih d a w) ∧
    Spec.Reads (Spec.word 0 0x05 d a b 0x00) (.shli d a b) ∧ Spec.Reads (Spec.word 0 0x05 d a b 0x01) (.shri d a b) ∧
    Spec.Reads (Spec.word 0 0x05 d a b 0x02) (.sari d a b) ∧
    (∀ m, Spec.Reads (Spec.word 1 0x05 d a b m) (.reservedEncoding (Spec.word 1 0x05 d a b m)) ∧
      Spec.Reads (Spec.word 0 0x0B d a b m) (.reservedEncoding (Spec.word 0 0x0B d a b m)))) ∧
  ∀ (v : Word), BitVec.ofNat 64 ((v.extractLsb' 32 32).toNat * 2 ^ 32 + (BitVec.ofInt 64 (v.extractLsb' 0 32).toInt).toNat % 2 ^ 32) = v

/-- 04 R99 to R101: ADDR composes an address of any tag and any column, COLX takes one apart and gives the column field as it is stored, MAD
multiplies and adds; the other minor codes of COLX are reserved. -/
def Obligations.AddressInstructionsWriteTheirResult : Prop :=
  (∀ (i : Instr) (s : State) (d : Reg) (v : Word), s.frag.valid = true → Spec.address s.sreg i = some (d, v) → WritesScalar i s d v) ∧
  ∀ (d a b m : Reg) (t : B4),
    Spec.Reads (Spec.word 0 0x08 d a b (0#2 ++ t)) (.addr d a b t) ∧ Spec.Reads (Spec.word 0 0x0A d a b m) (.mad d a b m) ∧
    Spec.Reads (Spec.word 0 0x09 d a 0 0x00) (.colxCol d a) ∧ Spec.Reads (Spec.word 0 0x09 d a 0 0x01) (.colxOff d a) ∧
    Spec.Reads (Spec.word 0 0x09 d a 0 0x02) (.colxTag d a) ∧
    (3 ≤ m.toNat → Spec.Reads (Spec.word 0 0x09 d a b m) (.reservedEncoding (Spec.word 0 0x09 d a b m)))

/-! ## Branches, calls and fragments (04 R102 to R110; 01 R23 to R25) -/

namespace Sys2Proof.Spec
open Sys2Proof.Machine

/-- The conditions of BR (04 R102). -/
def holds (c : BrCond) (a b : Word) : Bool :=
  match c with
  | .eq => decide (a = b)
  | .ne => decide (a ≠ b)
  | .lt => decide (a.toInt < b.toInt)
  | .ge => decide (b.toInt ≤ a.toInt)
  | .ltu => decide (a.toNat < b.toNat)
  | .geu => decide (b.toNat ≤ a.toNat)

/-- PC + 4 × SExt(offset, 32), an offset of 42 bits (02 R42). -/
def displaced (pc : Off) (o : W32) : Off := BitVec.ofInt 42 (pc.toNat + 4 * o.toInt)

/-- The instruction completes in `s` and the executing fragment becomes `f`; nothing else changes, but that S63 takes `link` where there is
one. -/
def Becomes (i : Instr) (s : State) (f : SplitEntry) (link : Option Word) : Prop :=
  ∃ x, exec i s = .next (s.setW x) ∧ SameButSregs s.cw x ∧ FragmentIs s.cw x s.ent f ∧
    ∀ r, x.sreg r = match link with
      | some v => if r = 63 then v else s.sreg r
      | none => s.sreg r

/-- The executing fragment moves to `pc`, folding nothing into its signature (09 R271). -/
def Jumps (i : Instr) (s : State) (pc : Off) (link : Option Word) : Prop := Becomes i s { s.frag with pc := pc } link

end Sys2Proof.Spec

/-- 04 R102, R104, R105: where BR, JMP, CALL, JR and CALLR go on, and that only CALL and CALLR write S63. CALLR reads S[a] first. -/
def Obligations.BranchesAndCallsGoToTheirTargets : Prop :=
  ∀ (s : State) (a b : Reg) (c : BrCond) (o : W32), s.frag.valid = true →
    Spec.Jumps (.br c a b o) s (if Spec.holds c (s.sreg a) (s.sreg b) then Spec.displaced s.frag.pc o else s.frag.pc + 8) none ∧
    Spec.Jumps (.jmp o) s (Spec.displaced s.frag.pc o) none ∧
    Spec.Jumps (.call o) s (Spec.displaced s.frag.pc o) (some ((s.frag.pc + 8).setWidth 64)) ∧
    ((s.sreg a).toNat % 4 = 0 →
      Spec.Jumps (.jr a) s (BitVec.ofNat 42 (s.sreg a).toNat) none ∧
      Spec.Jumps (.callr a) s (BitVec.ofNat 42 (s.sreg a).toNat) (some ((s.frag.pc + 4).setWidth 64)))

/-- 04 R105, R122, R129; 02 R52: what raises a precise trap by a control instruction, with its cause, whatever else holds: JR and CALLR
with a target that is not a multiple of 4 (PCALIGN), SYSR of a number that R124 does not list and SYSW where the access permits no
write (SYSREG), RTE outside a handler (RTEOUT), a word that no map row defines (ILLOP), TRAP itself (SWTRAP, with its code and the
instruction after it as the frame's PC). `State.trap` is the entry of 09 R262. -/
def Obligations.ControlTrapsAreRaised : Prop :=
  ∀ (s : State) (a d : Reg) (n : I12) (w : W32),
    ((s.sreg a).toNat % 4 ≠ 0 → exec (.jr a) s = .next (s.trap { cause := 0x07 }) ∧ exec (.callr a) s = .next (s.trap { cause := 0x07 })) ∧
    (n ≠ 0x030 → s.sysValue n.toNat = none → exec (.sysr d n) s = .next (s.trap { cause := 0x0C })) ∧
    exec (.sysw a n) s = .next (s.trap { cause := 0x0C }) ∧
    (64 < (s.sreg a).toNat % 128 → exec (.syswRbnd a) s = .next (s.trap { cause := 0x0C })) ∧
    (s.cw.inh = false → exec (.syswSigreg a) s = .next (s.trap { cause := 0x0C }) ∧ exec .rte s = .next (s.trap { cause := 0x0E })) ∧
    exec (.reservedEncoding w) s = .next (s.trap { cause := 0x01 }) ∧
    exec (.trap n) s = .next (s.trap { cause := 0x0D, code := n.toNat, fpc := some (s.frag.pc + 4) })

namespace Sys2Proof.Spec
open Sys2Proof.Machine

/-- The signature that SPLIT's two folds leave (09 R271). -/
def splitSig (i : Instr) (sig : W32) : W32 := foldSig (foldSig sig (opcodeWord i)) 0x9E3779B9

/-- What SPLIT does by the taken lanes T and the others N of the fragment's mask (01 R23), where it does not trap. -/
def SplitStep (i : Instr) (s : State) (pred : Mask) (t x : W32) : Prop :=
  let f := s.frag
  let sig := splitSig i f.sig
  let T := f.mask &&& pred
  let N := f.mask &&& ~~~pred
  (T = 0 → exec i s = .next (s.setW (s.cw.setEntry s.ent { f with pc := f.pc + 12, sig := sig }))) ∧
  (T ≠ 0 → N = 0 → exec i s = .next (s.setW (s.cw.setEntry s.ent { f with pc := displaced f.pc t, sig := sig }))) ∧
  (T ≠ 0 → N ≠ 0 → ∀ c k rest, s.cw.freeEntries = c :: k :: rest → ∃ y, exec i s = .next (s.setW y) ∧ y = { s.cw with split := y.split } ∧
    y.entry c = { mask := T, pc := displaced f.pc t, parent := BitVec.ofNat 3 s.ent, valid := true, sig := sig } ∧
    y.entry k = { mask := N, pc := f.pc + 12, parent := BitVec.ofNat 3 s.ent, valid := true, sig := sig } ∧
    y.entry s.ent = { f with wait := true, reconv := displaced f.pc x, sig := sig } ∧
    ∀ n, n ≠ c → n ≠ k → n ≠ s.ent → y.entry n = s.cw.entry n) ∧
  (T ≠ 0 → N ≠ 0 → s.cw.freeEntries.length < 2 → f.levels.length < 16 →
    exec i s = .next (s.setW (s.cw.setEntry s.ent { f with
      mask := T, pc := displaced f.pc t, sig := sig
      levels := { m := f.mask, pend := N, pendPc := f.pc + 12, x := displaced f.pc x, pendSig := sig } :: f.levels }))) ∧
  (T ≠ 0 → N ≠ 0 → s.cw.freeEntries.length < 2 → 16 ≤ f.levels.length → exec i s = .next (s.trap { cause := 0x05 }))

end Sys2Proof.Spec

/-- 01 R23, 04 R106: SPLIT and SPLIT.N take no lane, every lane, two entries, or a serial level, and raise SPLITDEEP at a seventeenth. -/
def Sys2Proof.Spec.SplitDividesTheFragment : Prop :=
  ∀ (s : State) (p : B4) (t x : W32), s.frag.valid = true →
    Spec.SplitStep (.split p t x) s (s.cw.preg p) t x ∧ Spec.SplitStep (.splitN p t x) s (~~~(s.cw.preg p)) t x

namespace Sys2Proof.Spec
open Sys2Proof.Machine

/-- Fold(Fold(0xFFFFFFFF, 0x00000058), 0x7F4A7C15), which every FUSE leaves (09 R271). -/
def fused : W32 := foldSig (foldSig 0xFFFFFFFF 0x00000058) 0x7F4A7C15

/-- The fragment becomes `f` by a FUSE. -/
def Fuses (s : State) (f : SplitEntry) : Prop := exec .fuse s = .next (s.setW (s.cw.setEntry s.ent f))

end Sys2Proof.Spec

/-- 01 R24, 04 R107: FUSE away from the innermost open join passes; at the reconvergence address of a serial level it starts the pending
half or pops the level; at a table join whose other children have not all arrived it waits; with the last one it joins, or raises INTEG
where the union of the masks is not the parent's. The children of a parent and their arrival are what R24 says. -/
def Obligations.FuseClosesTheInnermostJoin : Prop :=
  ∀ (s : State), s.frag.valid = true →
    let f := s.frag
    let on := { f with pc := f.pc + 4, sig := Spec.fused }
    let p := f.parent.toNat
    let atJoin := f.levels = [] ∧ f.root = false ∧ (s.cw.entry p).wait = true ∧ (s.cw.entry p).reconv = f.pc
    let w := s.cw.setEntry s.ent { f with wait := true, sig := Spec.fused }
    (∀ q k, k ∈ w.children q ↔
      k < 8 ∧ k ≠ q ∧ (w.entry k).valid = true ∧ (w.entry k).root = false ∧ (w.entry k).parent.toNat = q) ∧
    (∀ k, w.arrived k = true ↔ (w.entry k).wait = true ∧ w.children k = []) ∧
    (∀ l rest, f.levels = l :: rest → l.x ≠ f.pc → Spec.Fuses s on) ∧
    (∀ l rest, f.levels = l :: rest → l.x = f.pc → l.phase = false → l.pend ≠ 0 →
      Spec.Fuses s { f with levels := { l with phase := true } :: rest, mask := l.pend, pc := l.pendPc, sig := l.pendSig }) ∧
    (∀ l rest, f.levels = l :: rest → l.x = f.pc → (l.phase = true ∨ l.pend = 0) → Spec.Fuses s { on with levels := rest, mask := l.m }) ∧
    (f.levels = [] → ¬atJoin → Spec.Fuses s on) ∧
    (atJoin → (∃ k ∈ w.children p, w.arrived k = false) → Spec.Fuses s { f with wait := true, sig := Spec.fused }) ∧
    (atJoin → w.children p ≠ [] → (∀ k ∈ w.children p, w.arrived k = true) →
      (w.children p).foldl (fun m k => m ||| (w.entry k).mask) 0 = (w.entry p).mask →
      ∃ y, exec .fuse s = .next (s.setW y) ∧ (y.entry p).wait = false ∧ (y.entry p).pc = f.pc + 4 ∧ (y.entry p).sig = Spec.fused ∧
        (y.entry p).mask = (s.cw.entry p).mask ∧ ∀ k ∈ w.children p, (y.entry k).valid = false) ∧
    (atJoin → w.children p ≠ [] → (∀ k ∈ w.children p, w.arrived k = true) →
      (w.children p).foldl (fun m k => m ||| (w.entry k).mask) 0 ≠ (w.entry p).mask → exec .fuse s = .next (s.trap { cause := 0x06 }))

/-- 04 R108, R109, 09 R271: CALLV of a fragment whose lanes all name one target, its header right and its budget within the allotment: the
group runs on at the target with the start signature, and S63 holds the return point; a pair beyond the allotment raises ALLOT. -/
def Sys2Proof.Spec.CallvCallsOneTarget : Prop :=
  ∀ (s : State) (v : Sel) (t : Off), s.frag.valid = true →
    (s.cw.allot ≤ v.toNat + 1 → exec (.callv v) s = .next (s.trap { cause := 0x04 })) ∧
    (v.toNat + 1 < s.cw.allot → s.frag.levels = [] → s.frag.mask ≠ 0 →
      (∀ l, l < 64 → s.frag.mask.getLsbD l = true →
        (rowAt (s.cw.vreg (v.toNat + 1)) l ++ rowAt (s.cw.vreg v.toNat) l).extractLsb' 0 42 = t) →
      s.checkCall t = none → Spec.Becomes (.callv v) s { s.frag with pc := t, sig := 0xFFFFFFFF } (some ((s.frag.pc + 8).setWidth 64)))

namespace Sys2Proof.Spec
open Sys2Proof.Machine

/-- The target of a lane of CALLV (04 R109). -/
def callTarget (s : State) (v : Sel) (l : Nat) : Off :=
  (rowAt (s.cw.vreg (v.toNat + 1)) l ++ rowAt (s.cw.vreg v.toNat) l).extractLsb' 0 42

/-- The groups of 04 R109: the sets of lanes of the fragment that name one target, every lane in one of them, ordered by the lowest lane. -/
def CallGroups (s : State) (v : Sel) (gs : List (Off × Mask)) : Prop :=
  (∀ g ∈ gs, g.2 ≠ 0 ∧ ∀ l, g.2.getLsbD l = (s.frag.mask.getLsbD l && callTarget s v l == g.1)) ∧
  (∀ l, s.frag.mask.getLsbD l = true → ∃ m, (callTarget s v l, m) ∈ gs) ∧
  ∀ (j k : Nat) (g h : Off × Mask), j < k → gs[j]? = some g → gs[k]? = some h →
    ∃ l, g.2.getLsbD l = true ∧ ∀ m, h.2.getLsbD m = true → l < m

/-- What stops the CALLV at the first group whose header fails. -/
def StopsAt (s : State) (v : Sel) (gs : List (Off × Mask)) : Prop :=
  ∀ (pre rest : List (Off × Mask)) (g : Off × Mask) (p : Prep), gs = pre ++ g :: rest → (∀ h ∈ pre, s.checkCall h.1 = none) →
    s.checkCall g.1 = some p → exec (.callv v) s = .next (s.andThen p fun _ => s)

/-- The check of one group (04 R109): its target is aligned, its header is that of a function, and the budget is within the allotment. -/
def ChecksHeader (s : State) : Prop :=
  (∀ t, t.toNat % 4 ≠ 0 → s.checkCall t = some (.trap { cause := 0x08, addr := t.setWidth 64 })) ∧
  ∀ (t : Off) (a b : Acc) (h0 h1 : W32), t.toNat % 4 = 0 → s.codeWord (t - 8) = (.ok a, h0) → s.codeWord (t - 4) = (.ok b, h1) →
    let n := h1.toNat % 512
    let good := h0 = 0xF5 ∧ h1.toNat / 65536 = 0xF4C1 ∧ h1.toNat / 512 % 128 = 0 ∧ n % 32 = 0 ∧ n ≤ 384
    (¬good → s.checkCall t = some (.trap { cause := 0x08, addr := t.setWidth 64 })) ∧
    (good → s.cw.allot < n → s.checkCall t = some (.trap { cause := 0x09, addr := t.setWidth 64 })) ∧
    (good → n ≤ s.cw.allot → s.checkCall t = none)

end Sys2Proof.Spec

/-- 04 R109: CALLV of several targets. With an invalid entry for each group every header is checked, then each group starts in the lowest
invalid entries as a child of the fragment, which waits for the FUSE at the return point; with fewer the first group alone is checked and runs
on a serial level that holds the others; the CALLV that the FUSE comes back to starts the next group on that level, which stays open while
groups remain. S63 holds the return point. A header that fails stops it before anything changes, and a seventeenth level raises SPLITDEEP. -/
def Sys2Proof.Spec.CallvDividesIntoGroups : Prop :=
  ∀ (s : State) (v : Sel) (gs : List (Off × Mask)), s.frag.valid = true → v.toNat + 1 < s.cw.allot → Spec.CallGroups s v gs →
    let f := s.frag
    let x := f.pc + 8
    let link := some (x.setWidth 64)
    let back := ∃ l rest, f.levels = l :: rest ∧ l.phase = true ∧ l.x = x ∧ l.pendPc = f.pc
    Spec.ChecksHeader s ∧
    (∀ l rest g gr, f.levels = l :: rest → l.phase = true → l.x = x → l.pendPc = f.pc → gs = g :: gr →
      Spec.StopsAt s v [g] ∧ (s.checkCall g.1 = none → Spec.Becomes (.callv v) s { f with
        mask := g.2, pc := g.1, sig := 0xFFFFFFFF
        levels := if gr = [] then f.levels
          else { l with phase := false, pend := f.mask &&& ~~~g.2, pendPc := f.pc, pendSig := f.sig } :: rest } link)) ∧
    (¬back → 2 ≤ gs.length → gs.length ≤ s.cw.freeEntries.length →
      Spec.StopsAt s v gs ∧ ((∀ g ∈ gs, s.checkCall g.1 = none) → ∃ y, exec (.callv v) s = .next (s.setW y) ∧ SameButSregs s.cw y ∧
        (∀ r, y.sreg r = if r = 63 then x.setWidth 64 else s.sreg r) ∧
        (∀ (j e : Nat) (g : Off × Mask), gs[j]? = some g → s.cw.freeEntries[j]? = some e →
          y.entry e = { mask := g.2, pc := g.1, parent := BitVec.ofNat 3 s.ent, valid := true, sig := 0xFFFFFFFF }) ∧
        y.entry s.ent = { f with wait := true, reconv := x, sig := foldSig f.sig (opcodeWord (.callv v)) } ∧
        ∀ n, n ≠ s.ent → n ∉ s.cw.freeEntries.take gs.length → y.entry n = s.cw.entry n)) ∧
    (∀ g gr, ¬back → gs = g :: gr → gr ≠ [] → s.cw.freeEntries.length < gs.length → f.levels.length < 16 →
      Spec.StopsAt s v [g] ∧ (s.checkCall g.1 = none → Spec.Becomes (.callv v) s { f with
        mask := g.2, pc := g.1, sig := 0xFFFFFFFF
        levels := { m := f.mask, pend := f.mask &&& ~~~g.2, pendPc := f.pc, x := x, pendSig := f.sig } :: f.levels } link)) ∧
    (¬back → 2 ≤ gs.length → s.cw.freeEntries.length < gs.length → 16 ≤ f.levels.length →
      exec (.callv v) s = .next (s.trap { cause := 0x05 }))

/-! ## The control stream's memory instructions (06 R191 to R194), NOP, YIELD and WAITP -/

namespace Sys2Proof.Spec
open Sys2Proof.Machine

/-- What an instruction of order `r` leaves of the watch's acquire points (06 R192): an acquiring one adds the place `q`, and every point
that an older access still holds stays; another changes none. -/
def AcquiresAt (x y : Watch) (r : Ord) (q : Nat) : Prop :=
  if r = .acq ∨ r = .ar then q ∈ y.acqs ∧ (∀ k ∈ y.acqs, k = q ∨ k ∈ x.acqs) ∧ ∀ k ∈ x.acqs, x.acqOpen k = true → k ∈ y.acqs
  else y.acqs = x.acqs

/-- `i` completes in `s` by putting the operation `o` of order `r` in flight, under the next number and at the next place in the watch's
order, and goes on. Of the watch only the operations, the store FIFO, the acquire points and the fragment change, and of the device nothing
but the counters of numbers and places: no byte of memory, no S, V or P register. -/
def Issues (i : Instr) (s : State) (o : Op) (fifo : List StoreEnt) (r : Ord) : Prop :=
  ∃ t, exec i s = .next t ∧ t = { s.setW t.cw with next := t.next, seq := t.seq } ∧
    t.cw = { s.cw with
      ops := s.cw.ops ++ [{ o with id := s.next, seq := s.seq }], fifo := s.cw.fifo ++ fifo
      acqs := t.cw.acqs, split := t.cw.split } ∧
    AcquiresAt s.cw t.cw r (s.seq + 1) ∧ Advances i s.cw t.cw s.ent

/-- The 32-bit words of n bytes, low word first (09 R275). -/
def words32Of (n x : Nat) : List W32 := (List.range ((n + 3) / 4)).map fun k => BitVec.ofNat 32 (x / 2 ^ (32 * k))

/-- The compare entry of an operation (09 R275): the folds, from the start value, of the opcode, the size code, and for each lane its number,
Off of its address, and its data; the operand of a compare-and-swap is its pair of values. -/
def entryOf (opcode : Nat) (store cas : Bool) (o : Op) : PairEnt :=
  { sig := ([BitVec.ofNat 32 opcode, BitVec.ofNat 32 o.size] ++ o.accs.flatMap fun a =>
      [BitVec.ofNat 32 a.lane] ++ words32Of 8 (a.addr.toNat % 2 ^ 42) ++ words32Of a.size a.data ++
        (if cas then words32Of a.size a.cmp else [])).foldl foldSig 0xFFFFFFFF
    store := store, lane := o.lane, op := o }

/-- The pair with one entry more. -/
def withEntry (p : Pair) (e : PairEnt) : Pair := { p with ents := p.ents ++ [e], made := p.made + 1 }

/-- No INJECT of the leader corrupts the next store (`atom` false) or atomic of the executing watch (09 R279): it leads, or ARM is clear, or
TARGET names the other kind. -/
def Unharmed (s : State) (p : Pair) (atom : Bool) : Prop :=
  p.leads = true ∨ ∀ l, (s.watch p.partner).pair = some l → l.inj.getLsbD 0 = false ∨ (l.inj.extractLsb' 1 2 = 1 ↔ atom = false)

/-- The operand of the lowest lane XORed with XMASK (09 R279). -/
def harmed (x : W32) : List Acc → List Acc
  | [] => []
  | a :: l => { a with data := a.data ^^^ (x.toNat % 256 ^ a.size) } :: l

/-- `i` completes in `s` by forming a compare entry of the pair (09 R275, R279): nothing enters the store FIFO and no byte of memory changes.
A leader waits where the entry would leave more than its slack awaiting comparison. The trailer's operand is XORed where INJECT fires, and
then ARM clears and the leader's pair is corrupted no more. -/
def Compares (i : Instr) (s : State) (o : Op) (opcode : Nat) (store cas : Bool) (r : Ord) : Prop :=
  ∀ p, s.cw.pair = some p →
    let goesOn := fun (t : State) (p : Pair) (o : Op) =>
      let q := { o with id := s.next, seq := s.seq }
      exec i s = .next t ∧ t.mem = s.mem ∧
      t.cw = { s.cw with
        ops := s.cw.ops ++ [q], pair := some (withEntry p (entryOf opcode store cas q))
        acqs := t.cw.acqs, split := t.cw.split } ∧
      AcquiresAt s.cw t.cw r (s.seq + 1) ∧ Advances i s.cw t.cw s.ent
    (p.leads = true → p.slack < p.ents.length + 1 → exec i s = .next s) ∧
    ((p.leads = true → p.ents.length + 1 ≤ p.slack) → Unharmed s p (!store) → ∃ t, goesOn t p o ∧
      t = { s.setW t.cw with next := t.next, seq := t.seq }) ∧
    (∀ l y, p.leads = false → p.partner ≠ s.cur → Tbl.find s.watches p.partner = some y → y.pair = some l → l.inj.getLsbD 0 = true →
      (l.inj.extractLsb' 1 2 = 1 ↔ store = false) →
      (p.injDone ≠ (l.inj.extractLsb' 8 8).toNat → ∃ t, goesOn t { p with injDone := p.injDone + 1 } o) ∧
      (p.injDone = (l.inj.extractLsb' 8 8).toNat → ∃ t, goesOn t p { o with accs := harmed (l.inj.extractLsb' 32 32) o.accs } ∧
        Tbl.find t.watches p.partner = some { y with
          inject := if l.rearmed then y.inject else y.inject &&& ~~~1#64
          pair := some { l with inj := 0 } }))

/-- The bytes of a size code (06 R183, R191): 1, 2, 4, 8, 16, then 1, 2 and 4 sign-extended. -/
def sizeBytes (z : Nat) : Nat := if z < 5 then 2 ^ z else 2 ^ (z - 5)

/-- The request of a control load, a control store and a control atomic of n bytes (06 R191, R193, R195). -/
def loadReq (n : Nat) : AReq := { size := n, align := n, tags := [0, 1, 2, 4], dir := true }
def storeReq (n : Nat) : AReq := { size := n, align := n, store := true, tags := [0, 1, 2, 4], dir := true }
def atomReq (n : Nat) : AReq := { size := n, align := n, atom := true, tags := [0, 1], dir := true }

/-- a with Off := (Off(a) + disp) mod 2^42 (06 R179, R191). -/
def displacedAddr (a : Word) (o : W32) : Word := a.extractLsb' 42 22 ++ BitVec.ofInt 42 ((a.extractLsb' 0 42).toNat + o.toInt)

/-- The path of a load (06 R181): 1 for the scratchpad and the exchange window, 0 for the rest. -/
def loadPath (a : Word) : Nat := if tagOf a = 1 ∨ tagOf a = 2 then 1 else 0

/-- The n bytes from `key` become those of v; every other byte is as before. -/
def Stores (s t : State) (key n v : Nat) : Prop :=
  ∀ k, memByte t.mem t.epoch k = if key ≤ k ∧ k < key + n then BitVec.ofNat 8 (v / 256 ^ (k - key)) else memByte s.mem s.epoch k

/-- The new word of an atomic of n bytes (06 R185, R193): the operation's number, whether its type is F32, the old word, the operand and the
compare value. -/
def atomWord (fn : Nat) (float : Bool) (n w x c : Nat) : Nat :=
  let m := 2 ^ (8 * n)
  if fn = 0 then (if float then roundVal .f32 .rne false (addVal false (decodeVal .f32 w) (decodeVal .f32 x)) else (w + x) % m)
  else if fn = 1 then (if float then fpPick .f32 false false w x else if Int.bmod x m < Int.bmod w m then x else w)
  else if fn = 2 then (if float then fpPick .f32 true false w x else if Int.bmod w m < Int.bmod x m then x else w)
  else if fn = 3 then min w x
  else if fn = 4 then max w x
  else if fn = 5 then w &&& x
  else if fn = 6 then w ||| x
  else if fn = 7 then w ^^^ x
  else if fn = 9 then (if w = c then x else w)
  else if fn = 10 then w
  else x

end Sys2Proof.Spec

/-- 06 R191, R181: SLD puts a load of its size in flight on path 0 or 1, to write S[d], where the address passes the checks of R195 and
translates and the path has room; a 16-byte load to an odd S[d] raises ILLOP. -/
def Sys2Proof.Spec.SldPutsALoadInFlight : Prop :=
  ∀ (s : State) (d a : Reg) (z : B3) (o : W32) (i : Instr) (x : Acc), s.frag.valid = true →
    (i = .sld d a z ∧ o = 0 ∨ i = .sld64 d a z o) →
    (z = 4 → d.toNat % 2 = 1 → exec i s = .next (s.trap { cause := 0x01 })) ∧
    ((z = 4 → d.toNat % 2 = 0) →
    s.prep s.cw.home (Spec.loadReq (Spec.sizeBytes z.toNat)) (Spec.displacedAddr (s.sreg a) o) = .ok x →
    s.cw.pathCount (Spec.loadPath x.addr) < 65535 →
    Spec.Issues i s { kind := .sld, paths := [Spec.loadPath x.addr], ent := s.ent, at_ := s.frag.pc.toNat, d := d.toNat, size := z.toNat
                      accs := [x] } [] .rlx)

/-- 06 R191, R178: SST puts a store in flight on path 6, and the low bytes of S[b] enter the store FIFO; no byte of memory changes yet. In a
redundant pair the store forms a compare entry instead (09 R275, R279). -/
def Sys2Proof.Spec.SstPutsItsBytesInTheFifo : Prop :=
  ∀ (s : State) (a b : Reg) (z : B2) (o : W32) (i : Instr) (x : Acc), s.frag.valid = true →
    (i = .sst a b z ∧ o = 0 ∨ i = .sst64 a b z o) →
    s.prep s.cw.home (Spec.storeReq (Spec.sizeBytes z.toNat)) (Spec.displacedAddr (s.sreg a) o) = .ok x →
    s.cw.pathCount 6 < 65535 →
    let y := { x with data := (s.sreg b).toNat % 256 ^ Spec.sizeBytes z.toNat }
    let o : Op := { kind := .sst, paths := [6], ent := s.ent, at_ := s.frag.pc.toNat, size := z.toNat, accs := [y] }
    (s.cw.pair = none → Spec.Issues i s o [{ op := s.next, lane := false, seq := s.seq, acc := y }] .rlx) ∧
    Spec.Compares i s o 0x19 true false .rlx

namespace Sys2Proof.Spec
open Sys2Proof.Machine

/-- The operation that SATOM or XATOM puts in flight on path 8 (06 R193). -/
def atomOpOf (s : State) (x : Bool) (d b : Reg) (k : AtomOp) (c : Reg) (z : Bool) (r : Ord) (sc : Scope) (acc : Acc) : Op :=
  let n := if z then 8 else 4
  { kind := if x then .xatom else .satom, paths := [8], ent := s.ent, at_ := s.frag.pc.toNat, d := d.toNat
    size := if z then 3 else 2, ty := 6, fn := Sys2Proof.Machine.atomCode k, ord := r, scope := sc
    accs := [{ acc with data := (s.sreg b).toNat % 256 ^ n, cmp := (s.sreg c).toNat % 256 ^ n }] }

end Sys2Proof.Spec

/-- 06 R193, R192: SATOM at the home column and XATOM at the live LCN that its address names put their atomic in flight on path 8 once the
release, if any, is over; an acquiring one adds an acquire point. In a redundant pair they form a compare entry (09 R275, R279). -/
def Sys2Proof.Spec.AtomicsArePutInFlight : Prop :=
  ∀ (s : State) (d a b c : Reg) (k : AtomOp) (z : Bool) (r : Ord) (sc : Scope) (x : Acc), s.frag.valid = true →
    s.cw.pathCount 8 < 65535 → s.released r sc = true →
    (s.prep s.cw.home (Spec.atomReq (if z then 8 else 4)) (s.sreg a) = .ok x →
      (s.cw.pair = none → Spec.Issues (.satom d a b k c z r sc) s (Spec.atomOpOf s false d b k c z r sc x) [] r) ∧
      Spec.Compares (.satom d a b k c z r sc) s (Spec.atomOpOf s false d b k c z r sc x) 0x1A false (decide (k = .cas)) r) ∧
    (∀ p, (s.sreg a).extractLsb' 56 8 = 0 → tagOf (s.sreg a) ≤ 1 →
      (s.ctx s.cw.ctx).pcnLive (effCol (s.sreg a) (s.homeLcn s.cw)) = some p →
      s.prep p (Spec.atomReq (if z then 8 else 4)) (s.sreg a) = .ok x →
      (s.cw.pair = none → Spec.Issues (.xatom d a b k c z r sc) s (Spec.atomOpOf s true d b k c z r sc x) [] r) ∧
      Spec.Compares (.xatom d a b k c z r sc) s (Spec.atomOpOf s true d b k c z r sc x) 0x1B false (decide (k = .cas)) r)

/-- 06 R192, R194, 04 R131, R121, 09 R259: FENCE goes on once its release is over and makes younger loads and atomics wait where it acquires;
SPREF and NOP only go on; WAITP goes on where the counter is at most S[a], and leaves the state as it is where it waits; YIELD
makes the round robin pass the watch over once, sets its age to 0 and goes on. -/
def Sys2Proof.Spec.FencesHintsAndWaitsGoOn : Prop :=
  ∀ (s : State) (a : Reg) (r : Ord) (sc : Scope) (o x y : W32) (p : B4), s.frag.valid = true →
    (s.released r sc = true → ∃ w, exec (.fence r sc) s = .next { s.setW w with seq := if r = .acq ∨ r = .ar then s.seq + 1 else s.seq } ∧
      w = { s.cw with acqs := w.acqs, split := w.split } ∧ Spec.AcquiresAt s.cw w r s.seq ∧ Advances (.fence r sc) s.cw w s.ent) ∧
    (s.released r sc = false → exec (.fence r sc) s = .next s) ∧
    OnlyAdvances (.spref a) s ∧ OnlyAdvances (.spref64 a o) s ∧
    OnlyAdvances .nop s ∧ OnlyAdvances (.nop64 x) s ∧ OnlyAdvances (.nop96 x y) s ∧
    (s.cw.pathCount p.toNat ≤ (s.sreg a).toNat → OnlyAdvances (.waitp a p) s) ∧
    ((s.sreg a).toNat < s.cw.pathCount p.toNat → exec (.waitp a p) s = .next s) ∧
    (∃ w, exec .yield s = .next (s.setW w) ∧ w = { s.cw with aged := 0, yielded := true, split := w.split } ∧ Advances .yield s.cw w s.ent)

/-! ## Lane blocks, lane values, SHAPE and streams (04 R111 to R120) -/

namespace Sys2Proof.Spec
open Sys2Proof.Machine

/-- `i` completes in `s`: the executing watch becomes `x`, goes on to the next instruction, and nothing else of the device changes. -/
def Runs (i : Instr) (s : State) (x : Watch) : Prop := exec i s = .next (s.setW x) ∧ Advances i s.cw x s.ent

/-- The word an operand selector names in the S registers, 0 where it names none (02 R48; log 8). -/
def scalarOf (s : State) (x : Sel) : Word := if 448 ≤ x.toNat then s.sreg (BitVec.ofNat 6 (x.toNat - 448)) else 0

/-- The chain bit of a lane instruction, and whether it is one after which no chain goes on (01 R28). -/
def chained (x : W32 × W32 × W32) : Prop := x.1.getLsbD 29 = true
def endsItsChain (x : W32 × W32 × W32) : Prop :=
  let op := x.1.toNat / 4 % 256
  (0xA0 ≤ op ∧ op ≤ 0xA4) ∨ op = 0xC5 ∨ (0xD0 ≤ op ∧ op ≤ 0xD5)

/-- Instruction j of a block stands at place `pos` of a chain of `len` (01 R28). -/
def InChain (l : List (W32 × W32 × W32)) (j pos len : Nat) : Prop :=
  pos ≤ j + 1 ∧ pos < len ∧ (∀ k x, j < k + pos → k ≤ j → l[k]? = some x → chained x) ∧
  (∀ k x, k + pos = j → l[k]? = some x → ¬chained x) ∧
  (∀ k, j < k → k + pos < j + len → ∃ x, l[k]? = some x ∧ chained x) ∧ ∀ k x, k + pos = j + len → l[k]? = some x → ¬chained x

/-- Instruction j breaks the chain rules where it starts its chain, or is chained at the start of the block (01 R28). -/
def BreaksChain (l : List (W32 × W32 × W32)) (j len : Nat) : Prop :=
  ∃ x, l[j]? = some x ∧ ((chained x ∧ j = 0) ∨
    (¬chained x ∧ ∃ k y, 1 ≤ k ∧ k < len ∧ l[j + k - 1]? = some y ∧ (8 ≤ k ∨ endsItsChain y)))

/-- Entry j of an accepted block of LX, of three words x (01 R17; log 8): the instruction, the fragment with its mask, PC and signature, its
index and its place, the S registers that its selectors name, its chain, and whether it fails the first check (LANEOP, 04 R417). -/
def IsEntry (s : State) (st : B25) (l : List (W32 × W32 × W32)) (x : W32 × W32 × W32) (j : Nat) (e : LqEntry) : Prop :=
  e.instr = (decodeLane x.1 x.2.1 x.2.2).getD (.reservedEncoding 0) ∧ e.mask = s.frag.mask ∧ e.ent = s.ent ∧ e.lxPc = s.frag.pc ∧
  e.sig = s.frag.sig ∧ e.index = st.toNat + j ∧ e.blk = s.next ∧ e.seq = s.seq + j ∧ e.sa = scalarOf s (matOps e.instr).a ∧
  e.sb = scalarOf s (matOps e.instr).b ∧ e.sc = scalarOf s (matOps e.instr).c ∧ InChain l j e.pos e.len ∧ e.again = false ∧
  (e.bad = 0 ∨ e.bad = 0x02) ∧ (e.bad = 0x02 ↔ decodeLane x.1 x.2.1 x.2.2 = none ∨ BreaksChain l j e.len)

/-- An operation in flight of the executing watch will write S[r] (04 R92; 06 R191, R193; 11 R326). -/
def Owed (s : State) (r : Nat) : Prop :=
  ∃ o ∈ s.cw.ops, o.done = false ∧
    ((o.kind = .sld ∧ (o.d = r ∨ o.size = 4 ∧ o.d + 1 = r)) ∨ ((o.kind = .satom ∨ o.kind = .xatom) ∧ o.d = r) ∨
      (o.kind = .engine ∧ o.cmd.maj = 0x36 ∧ o.d = r))

/-- Some instruction of the block names an S register that is owed. -/
def NamesOwed (s : State) (l : List (W32 × W32 × W32)) : Prop :=
  ∃ x ∈ l, ∃ i, decodeLane x.1 x.2.1 x.2.2 = some i ∧ ∃ n ∈ [(matOps i).a, (matOps i).b, (matOps i).c],
    448 < n.toNat ∧ Owed s (n.toNat - 448)

end Sys2Proof.Spec

/-- 04 R111, 01 R17, R28, 06 R191, 09 R271: LX waits for room for its block, and for the outstanding operations that will write an S register which its
instructions name, whose values it captures (DEDUCED, log 8); then the block enters the lane issue queue instruction by instruction under the
fragment's mask, with the S registers that its selectors name, and the signature folds LX and the first word of each instruction. A fetch that meets a
fault traps. The checks of the block are made at its issue (04 R417), which is DEDUCED (log 7), and no statement of this one. -/
def Obligations.LxQueuesItsBlock : Prop :=
  ∀ (s : State) (st : B25) (n : Reg) (a : Acc) (l : List (W32 × W32 × W32)), s.frag.valid = true →
    (128 < s.cw.lq.length + n.toNat + 1 → exec (.lx st n) s = .next s) ∧
    (∀ t, s.cw.lq.length + n.toNat + 1 ≤ 128 → s.fetchBlock st.toNat (n.toNat + 1) = (.trap t, l) →
      exec (.lx st n) s = .next (s.trap t)) ∧
    (s.cw.lq.length + n.toNat + 1 ≤ 128 → s.fetchBlock st.toNat (n.toNat + 1) = (.ok a, l) →
      (Spec.NamesOwed s l → exec (.lx st n) s = .next s) ∧
      (¬Spec.NamesOwed s l → ∃ x, exec (.lx st n) s =
          .next { s.setW x with next := s.next + 1, seq := s.seq + (n.toNat + 1) } ∧
        x = { s.cw with lq := x.lq, split := x.split } ∧ l.length = n.toNat + 1 ∧ x.lq.length = s.cw.lq.length + (n.toNat + 1) ∧
        x.lq.take s.cw.lq.length = s.cw.lq ∧
        (∀ j w, l[j]? = some w → ∃ e, x.lq[s.cw.lq.length + j]? = some e ∧ Spec.IsEntry s st l w j e) ∧
        FragmentIs s.cw x s.ent { s.frag with
          pc := s.frag.pc + 8, sig := (l.map (·.1)).foldl foldSig (foldSig s.frag.sig (opcodeWord (.lx st n))) }))

namespace Sys2Proof.Spec
open Sys2Proof.Machine

/-- `i` writes v[31:0] to V[n] in the lanes that `on` names, v[63:32] to V[n+1] too where it is a pair, and nothing else. -/
def PutsLanes (i : Instr) (s : State) (n : Nat) (pr : Bool) (on : Nat → Bool) (v : Word) : Prop :=
  ∃ x, Runs i s x ∧ x = { s.cw with v := x.v, split := x.split } ∧ ∀ k m, m < 64 →
    rowAt (x.vreg k) m =
      if k = n ∧ on m then v.extractLsb' 0 32
      else if pr ∧ k = n + 1 ∧ on m then v.extractLsb' 32 32
      else rowAt (s.cw.vreg k) m

end Sys2Proof.Spec

/-- 04 R112, R113: VGET reads any lane of the watch and VPUT writes one lane of the fragment, VPUT.ALL every lane of it; the check of the
allotment comes before that of the lane. -/
def Sys2Proof.Spec.LaneValuesMoveBetweenStreams : Prop :=
  ∀ (s : State) (d a b : Reg) (v : Sel) (pr : Bool), s.frag.valid = true →
    let top := if pr then v.toNat + 1 else v.toNat
    (s.cw.allot ≤ top → exec (.vget d a v pr) s = .next (s.trap { cause := 0x04 }) ∧
      exec (.vput a b v pr) s = .next (s.trap { cause := 0x04 }) ∧ exec (.vputAll a v pr) s = .next (s.trap { cause := 0x04 })) ∧
    (top < s.cw.allot →
      (s.cw.width ≤ (s.sreg a).toNat → exec (.vget d a v pr) s = .next (s.trap { cause := 0x0A })) ∧
      ((s.sreg a).toNat < s.cw.width → WritesScalar (.vget d a v pr) s d
        ((if pr then rowAt (s.cw.vreg (v.toNat + 1)) (s.sreg a).toNat else 0) ++ rowAt (s.cw.vreg v.toNat) (s.sreg a).toNat)) ∧
      (s.cw.width ≤ (s.sreg b).toNat ∨ s.frag.mask.getLsbD (s.sreg b).toNat = false →
        exec (.vput a b v pr) s = .next (s.trap { cause := 0x0A })) ∧
      ((s.sreg b).toNat < s.cw.width → s.frag.mask.getLsbD (s.sreg b).toNat = true →
        Spec.PutsLanes (.vput a b v pr) s v.toNat pr (fun m => m == (s.sreg b).toNat) (s.sreg a)) ∧
      Spec.PutsLanes (.vputAll a v pr) s v.toNat pr (fun m => s.frag.mask.getLsbD m) (s.sreg a))

/-- 04 R114, R115; 01 R14: PGET reads the lanes of the watch, P0 as 1 in each; PPUT writes P[p] in the lanes of the fragment's mask. -/
def Sys2Proof.Spec.PredicatesMoveBetweenStreams : Prop :=
  ∀ (s : State) (d a : Reg) (p : B4), s.frag.valid = true → s.cw.width ≤ 64 →
    (∃ v, WritesScalar (.pget d p) s d v ∧ ∀ l, v.getLsbD l = (decide (l < s.cw.width) && (s.cw.preg p).getLsbD l)) ∧
    (∀ l, (s.cw.preg 0).getLsbD l = decide (l < s.cw.width)) ∧
    (p ≠ 0 → ∃ x, Spec.Runs (.pput a p) s x ∧ x = { s.cw with p := x.p, split := x.split } ∧
      (∀ l, (x.preg p).getLsbD l = if s.frag.mask.getLsbD l then (s.sreg a).getLsbD l else (s.cw.preg p).getLsbD l) ∧
      ∀ q, q ≠ p → x.preg q = s.cw.preg q)

namespace Sys2Proof.Spec
open Sys2Proof.Machine

/-- The K step that the table of 04 R119 grants to the A and B formats (0 is 32, 1 is 64, 2 is 128), where the pair is in it. -/
def kGrant (fa fb k : Nat) : Option Nat :=
  if fa = 5 ∧ fb = 5 then some (max 1 k)
  else if fa ∈ [3, 4] ∧ fb ∈ [3, 4] then some k
  else if (fa = 1 ∧ fb = 1) ∨ (fa = 2 ∧ fb = 2) then some (min 1 k)
  else if fa = 8 ∧ fb = 8 then some k
  else none

/-- The grant by the fields of R120: N, K, AFMT, BFMT, GA, GB, OK and ADJ. -/
def grantFields (n k fa fb ga gb ok adj : Nat) : Word :=
  BitVec.ofNat 64 (n + 4 * k + 16 * fa + 256 * fb + 4096 * ga + 16384 * gb + 65536 * ok + 131072 * adj)

end Sys2Proof.Spec

/-- 04 R118 to R120: SHAPE grants N as requested, the nearest supported K, and the groups of the scaled formats, to S[d] and MSHAPE; a pair
outside the table leaves MSHAPE and answers the request with OK = 0. -/
def Obligations.ShapeGrantsTheTable : Prop :=
  ∀ (s : State) (d : Reg) (x : ShapeReq), s.frag.valid = true → (Instr.shape d x).wellFormed = true →
    match Spec.kGrant x.fa.toNat x.fb.toNat x.k.toNat with
    | none => WritesScalar (.shape d x) s d (Spec.grantFields x.n.toNat x.k.toNat x.fa.toNat x.fb.toNat x.ga.toNat x.gb.toNat 0 0)
    | some k =>
      let scaled := x.fa.toNat ∈ [3, 4, 5]
      let ga := if scaled then x.ga.toNat else 0
      let gb := if scaled then x.gb.toNat else 0
      let g := Spec.grantFields x.n.toNat k x.fa.toNat x.fb.toNat ga gb 1 (if k = x.k.toNat ∧ ga = x.ga.toNat ∧ gb = x.gb.toNat then 0 else 1)
      ∃ y, Spec.Runs (.shape d x) s y ∧ y = { s.cw with s := y.s, mshape := g.setWidth 18, split := y.split } ∧
        y.sreg d = (if d = 0 then 0 else g) ∧ ∀ r, r ≠ d → y.sreg r = s.sreg r

/-- 04 R116, R117, 08 R237, 09 R274: STRM.DEF leaves a DEFINED queue with the descriptor and each lane's base, or an ENDED one where the
descriptor breaks a rule (log 64); GO starts the DEFINED queues of its mask, and changes none where one is EMPTY; STOP empties those of its mask.
DEF and STOP wait for the older lane instructions that pop such a queue, DEF too for what is ordered before its read of the descriptor (13
R361), and a pair runs none of the three. -/
def Obligations.StreamQueuesChangeState : Prop :=
  ∀ (s : State) (a : Reg) (q : B3) (m : Byte), s.frag.valid = true →
    (s.cw.pair ≠ none → exec (.strmDef a q) s = .next (s.trap { cause := 0x29 }) ∧
      exec (.strmGo m) s = .next (s.trap { cause := 0x29 }) ∧ exec (.strmStop m) s = .next (s.trap { cause := 0x29 })) ∧
    (s.cw.pair = none →
      ((∃ e ∈ s.cw.lq, e.popsAny [q.toNat] = true) → exec (.strmDef a q) s = .next s) ∧
      ((∀ e ∈ s.cw.lq, e.popsAny [q.toNat] = false) →
        ((s.cw.queue q.toNat).st = .running → exec (.strmDef a q) s = .next (s.trap { cause := 0x0B })) ∧
        (∀ acc, (s.cw.queue q.toNat).st ≠ .running →
          s.prep s.cw.home { size := 32, align := 32, tags := [0, 1] } (s.sreg a) = .ok acc →
          let d := wordsOf 4 (s.readCtl acc 32)
          (s.bytesHeld (s.keyNow s.cw.ctx acc) 32 = true → exec (.strmDef a q) s = .next s) ∧
          (s.bytesHeld (s.keyNow s.cw.ctx acc) 32 = false → sdBad d = false → sdVen d = true → s.cw.allot ≤ sdVbase d → exec (.strmDef a q) s = .next (s.trap { cause := 0x04 })) ∧
          (s.bytesHeld (s.keyNow s.cw.ctx acc) 32 = false → sdBad d = true ∨ sdVen d = false ∨ (sdVbase d < s.cw.allot ∧ s.cw.vBusy false [(sdVbase d, 1)] = false) →
            ∃ x, Spec.Runs (.strmDef a q) s x ∧ x = { s.cw with q := x.q, split := x.split } ∧
              (∀ k, k ≠ q.toNat → x.queue k = s.cw.queue k) ∧ (∀ l, l < 64 → (x.queue q.toNat).elems[l]? = some []) ∧
              (sdBad d = true → (x.queue q.toNat).st = .ended) ∧
              (sdBad d = false → (x.queue q.toNat).st = .defined ∧ (x.queue q.toNat).desc = d ∧ ∀ l, l < 64 →
                (x.queue q.toNat).base[l]? = some (if sdVen d then (rowAt (s.cw.vreg (sdVbase d)) l).signExtend 64 else 0))))) ∧
      ((∃ k, k < 8 ∧ m.getLsbD k = true ∧ (s.cw.queue k).st = .empty) → exec (.strmGo m) s = .next (s.trap { cause := 0x0B })) ∧
      ((∀ k, k < 8 → m.getLsbD k = true → (s.cw.queue k).st ≠ .empty) →
        ∃ x, Spec.Runs (.strmGo m) s x ∧ x = { s.cw with q := x.q, split := x.split } ∧ ∀ k, x.queue k =
          if k < 8 ∧ m.getLsbD k = true ∧ (s.cw.queue k).st = .defined then { s.cw.queue k with st := .running, go := s.seq } else s.cw.queue k) ∧
      ((∃ e ∈ s.cw.lq, e.popsAny (maskQueues m) = true) → exec (.strmStop m) s = .next s) ∧
      ((∀ e ∈ s.cw.lq, e.popsAny (maskQueues m) = false) →
        ∃ x, Spec.Runs (.strmStop m) s x ∧ x = { s.cw with q := x.q, split := x.split } ∧ ∀ k, x.queue k =
          if k < 8 ∧ m.getLsbD k = true then {} else s.cw.queue k))

/-! ## System registers, traps, RTE and EXIT (04 R122 to R130; 09 R262 to R267; 01 R25) -/

namespace Sys2Proof.Spec
open Sys2Proof.Machine

/-- The value of a system register by its number (04 R124 to R127), where it is listed; CYCLE is apart. -/
def sysReg (s : State) (n : Nat) : Option Word :=
  let w := s.cw
  match n with
  | 0x000 => some (if Config.isA1 then 0x38A1 else 0x38B0)
  | 0x001 => some (BitVec.ofNat 64 (w.slot + 2 ^ 5 * w.col0 + 2 ^ 7 * (if w.width = 64 then 2 else if w.width = 32 then 1 else 0) +
      2 ^ 10 * w.home + 2 ^ 20 * s.homeLcn w + 2 ^ 32 * w.core))
  | 0x002 => some s.frag.mask
  | 0x003 => some (BitVec.ofNat 64 w.ctx)
  | 0x004 => some (w.lblock.setWidth 64)
  | 0x005 => some (BitVec.ofNat 64 (w.role + 4 * w.index))
  | 0x008 => some w.fmask
  | 0x009 => some (w.fmwhy.setWidth 64)
  | 0x010 => some w.srseed
  | 0x011 => some (w.mshape.setWidth 64)
  | 0x012 => some (BitVec.ofNat 64 w.rbnd)
  | 0x013 => some (s.frag.sig.setWidth 64)
  | 0x014 => some w.inject
  | 0x018 => some (BitVec.ofNat 64 ((if w.inh then 1 else 0) + 2 * w.rung.toNat + 16 * w.crgn.length))
  | 0x019 => some w.frame
  | 0x020 => some (BitVec.ofNat 64 (w.pathCount 0))
  | 0x021 => some (BitVec.ofNat 64 (w.pathCount 1))
  | 0x022 => some (BitVec.ofNat 64 (w.pathCount 2))
  | 0x023 => some (BitVec.ofNat 64 (w.pathCount 3))
  | 0x024 => some (BitVec.ofNat 64 (w.pathCount 4))
  | 0x025 => some (BitVec.ofNat 64 (w.pathCount 5))
  | 0x026 => some (BitVec.ofNat 64 (w.pathCount 6))
  | 0x027 => some (BitVec.ofNat 64 (w.pathCount 7))
  | 0x028 => some (BitVec.ofNat 64 (w.pathCount 8))
  | 0x029 => some (BitVec.ofNat 64 (w.pathCount 9))
  | _ => none

end Sys2Proof.Spec

/-- 04 R122, R124 to R127, 09 R271: SYSR writes the register's value to S[d]; a number that is not listed raises SYSREG; SYSR of SIGREG
reads the signature and folds nothing. -/
def Sys2Proof.Spec.SysrReadsTheRegister : Prop :=
  ∀ (s : State) (d : Reg) (n : I12), s.frag.valid = true → n ≠ 0x030 →
    match Spec.sysReg s n.toNat with
    | none => exec (.sysr d n) s = .next (s.trap { cause := 0x0C })
    | some v =>
      (n ≠ 0x013 → WritesScalar (.sysr d n) s d v) ∧
      (n = 0x013 → ∃ x, exec (.sysr d n) s = .next (s.setW x) ∧ SameButSregs s.cw x ∧ x.sreg d = (if d = 0 then 0 else v) ∧
        (∀ r, r ≠ d → x.sreg r = s.sreg r) ∧ FragmentIs s.cw x s.ent { s.frag with pc := s.frag.pc + 4 })

/-- 04 R124: CYCLE reads the core's counter, which goes on by an amount that the manual leaves open (log 6) and never else. -/
def Sys2Proof.Spec.CycleIsRead : Prop :=
  ∀ (s : State) (d : Reg), s.frag.valid = true → ∃ t, exec (.sysr d 0x030) s = .next t ∧
    (t.core s.cw.core).cycle = (s.core s.cw.core).cycle + BitVec.ofNat 64 (Config.freeGap s.free) ∧
    t.cw.sreg d = (if d = 0 then 0 else (t.core s.cw.core).cycle) ∧ (∀ r, r ≠ d → t.cw.sreg r = s.sreg r) ∧
    SameButSregs s.cw t.cw ∧ Advances (.sysr d 0x030) s.cw t.cw s.ent ∧
    (∀ c, c ≠ s.cw.core → t.core c = s.core c) ∧ { t.core s.cw.core with cycle := (s.core s.cw.core).cycle } = s.core s.cw.core ∧
    t = { s.setW t.cw with cores := t.cores, free := s.free + 1 }

/-- 04 R122 to R124, R6, 03 R84, 09 R271, R279: what a SYSW to each writable register leaves, and that nothing else of the watch changes. -/
def Sys2Proof.Spec.SyswWritesTheRegister : Prop :=
  ∀ (s : State) (a : Reg), s.frag.valid = true →
    (∃ x, Spec.Runs (.syswSrseed a) s x ∧
      x = { s.cw with srseed := s.sreg a, gen := Vector.ofFn fun l => seedGen l.val s.cw.wi s.cw.lblock (s.sreg a), split := x.split }) ∧
    (∃ x, Spec.Runs (.syswFmask a) s x ∧ x = { s.cw with fmask := x.fmask, fmwhy := x.fmwhy, split := x.split } ∧
      (∀ l, x.fmask.getLsbD l = (s.cw.fmask.getLsbD l && !(s.sreg a).getLsbD l)) ∧
      x.fmwhy = if x.fmask = 0 then 0 else s.cw.fmwhy) ∧
    ((s.sreg a).toNat % 128 ≤ 64 → ∃ x, Spec.Runs (.syswRbnd a) s x ∧
      x = { s.cw with rbnd := (s.sreg a).toNat % 128, split := x.split }) ∧
    (s.cw.inh = true → ∃ x, exec (.syswSigreg a) s = .next (s.setW x) ∧ x = { s.cw with split := x.split } ∧
      FragmentIs s.cw x s.ent { s.frag with sig := (s.sreg a).setWidth 32, pc := s.frag.pc + 4 }) ∧
    ((s.sreg a).getLsbD 2 = true → exec (.syswInject a) s = .next (s.trap { cause := 0x0C })) ∧
    ((s.sreg a).getLsbD 2 = false → ∃ x, Spec.Runs (.syswInject a) s x ∧
      x = { s.cw with
        inject := s.sreg a &&& 0xFFFFFFFF0000FF07
        pair := s.cw.pair.map fun p => { p with rearmed := true }
        split := x.split })

namespace Sys2Proof.Spec
open Sys2Proof.Machine

/-- The cause word of 09 R265. -/
def causeWord (t : TrapInfo) : Nat :=
  t.cause + 2 ^ 8 * (t.code % 2 ^ 12) + (if t.lane then 2 ^ 20 else 0) + (if t.async then 2 ^ 21 else 0)

/-- The fragment that a handler of the watch rung or of the crew rung starts as: all lanes of the watch, at the vector, its signature at the
start value. -/
def handler (w : Watch) (pc : Off) : SplitEntry := { mask := w.full, pc := pc, valid := true, root := true, sig := 0xFFFFFFFF }

/-- KIND of the replay entry of an operation in flight, none where it goes on by itself at a trap (09 R262, R266): loads of lanes and of the
control stream, atomics of both and those of AMAX and TDRN, and engine commands. -/
def replayKindOf (o : Op) : Option Nat :=
  match o.kind with
  | .ld => some 1
  | .sld => some 2
  | .atom | .satom | .xatom | .amax | .tdrn => some 3
  | .engine => some 4
  | .st | .sst | .fatom | .acpy | .xst => none

/-- The replay entries of a watch (09 R262, R266): one for each unfinished operation of those kinds, in order, and last one for the chain in
progress, which holds its instructions. -/
def replayEntries (w : Watch) : List Replay :=
  (w.ops.filter fun o => !o.done).filterMap (fun o => (replayKindOf o).map fun k => { kind := k, op := o }) ++
    (if w.chain.isNone || w.lq.isEmpty || (w.lq.head?.getD {}).len = 0 then []
      else [{ kind := 5, chain := (w.lq.take (w.lq.head?.getD {}).len).map fun e => { e with again := true } }])

end Sys2Proof.Spec

/-- 09 R262 to R265: what taking a trap does, outside a pair and outside a handler, in a context that has a watch-rung handler and for any
cause but UNCOR. `r` is the machine once the accepted matrix instructions are complete (07 R219) and the loads and atomics are performed
that something that goes on by itself is ordered behind (log 32); with nothing that goes on, that is the first alone. The frame holds the cause word, the PC
that the fragment resumes at, the lane index, the mask, the address, FMASK, the signature, every split-table entry, with the causing fragment at that PC, and every S and P
register; the watch runs the
handler at WVEC as one fragment with all its lanes, with HSTATE.INH set and FRAME at the frame (its column field by log 5); the S, P and V
registers stay. Each unfinished load, atomic and engine command and the aborted chain leave the watch as replay entries, in order, which
the frame lists with their KIND and VALID; they, the lane issue queue behind the chain and the lanes off before it (log 32) are held until RTE. -/
def Obligations.TrapEntrySavesTheWatch : Prop :=
  ∀ (s : State) (t : TrapInfo), s.cw.pair = none → s.cw.inh = false → t.cause ≠ 0x19 → (s.ctx s.cw.ctx).wvec ≠ 0 →
    let m := s.settleMatrix s.cur
    let r := m.settleOrder s.cur
    let w := r.cw
    let f := r.frag
    let u := s.trap t
    let field := fun off n => u.readN (w.frameKey + off) n
    (m.cw.fifo = [] → (∀ o ∈ m.cw.ops, Spec.replayKindOf o ≠ none) → r = m) ∧
    field 0x00 8 = Spec.causeWord t % 2 ^ 64 ∧ field 0x08 8 = (t.fpc.getD f.pc).toNat ∧ field 0x10 8 = t.lanePc % 2 ^ 64 ∧
    field 0x18 8 = f.mask.toNat ∧ field 0x20 8 = t.addr.toNat ∧ field 0x28 8 = w.fmask.toNat ∧
    field 0x30 4 = f.sig.toNat ∧ field 0x34 4 = t.sigHi.toNat ∧
    (∀ k, k < 8 → field (0x100 + 24 * k) 24 =
      (if k = r.ent then { f with pc := t.fpc.getD f.pc } else w.entry k).word % 2 ^ 192) ∧
    (∀ n : Reg, n ≠ 0 → field (0x1C0 + 8 * n.toNat) 8 = (w.sreg n).toNat) ∧
    (∀ p : B4, field (0x3C0 + 8 * p.toNat) 8 = (w.preg p).toNat) ∧
    u.ent = 0 ∧ u.cw.entry 0 = Spec.handler w (r.ctx w.ctx).wvec ∧ (∀ k, k ≠ 0 → (u.cw.entry k).valid = false) ∧
    u.cw.inh = true ∧ u.cw.rung = 0 ∧ u.cw.frame = selfAddr w.frameOff ∧
    (∀ n, u.cw.sreg n = w.sreg n) ∧ (∀ p, u.cw.preg p = w.preg p) ∧ (∀ n, u.cw.vreg n = w.vreg n) ∧ u.cw.tiles = w.tiles ∧
    u.cw.lq = [] ∧ u.cw.chain = none ∧ u.cw.fifo = w.fifo ∧ u.cw.ops = w.ops.filter (fun o => o.done || (Spec.replayKindOf o).isNone) ∧
    ∃ h, u.cw.held = some h ∧ (∀ k, k < 8 → h.split[k]?.getD {} = { w.entry k with bar := (h.split[k]?.getD {}).bar }) ∧ h.ent = r.ent ∧
      h.crgn = w.crgn ∧ h.replay = Spec.replayEntries w ∧
      h.lq = (if w.chain.isNone then w.lq else w.lq.drop (w.lq.head?.getD {}).len) ∧
      h.off = (match w.chain with
        | some c => c.off
        | none => w.off) ∧
      h.at_ = r.seq ∧ field 0x38 8 % 256 = h.replay.length % 256 ∧
      ∀ k x, h.replay[k]? = some x → field (0xE00 + 576 * k) 576 % 32 = x.kind + 16

/-- 09 R267, 04 R129: what RTE does in a handler of the watch rung: it waits until the handler's own work is done; it escalates where the
frame's PC is not a multiple of 4; else S, P and the generators come from the frame, the fragments and the containment stack from the
trap, the faulting fragment's PC and signature from the frame, what the replay queue and the remainders give goes in flight again, and
the handler state is cleared. It reads the frame as a load of the watch finds it, and waits for its own work but not for what only RTE lets
complete (log 32). An atomic in the replay queue that has made its step by then writes its old value, and the lanes of a load
whose address, as the handler left it, fails its check are switched off (log 32). Lane code that it reads again for a remainder that the handler
changed waits or page-faults as its page does. Outside the watch rung an RTE escalates. -/
def Obligations.RteRestoresTheWatch : Prop :=
  ∀ (s : State) (h : Held), s.cw.inh = true → s.cw.held = some h → h.ent < 8 →
    let w := s.cw
    let field := fun off n => s.frameN w off n
    let code := s.lanePages (s.frameRegs w) h
    let own := fun (o : Op) => o.done = false ∧ s.waitsRte w o = false
    (w.rung ≠ 0 → exec .rte s = .next (s.handlerFault 0x0E)) ∧
    (w.rung = 0 → (w.lanesIdle = false ∨ ∃ o ∈ w.ops, own o) → exec .rte s = .next s) ∧
    (w.rung = 0 → w.lanesIdle = true → (∀ o ∈ w.ops, ¬own o) →
      (field 0x08 8 % 4 ≠ 0 → exec .rte s = .next (s.handlerFault 0x07)) ∧
      (field 0x08 8 % 4 = 0 → code ≠ .ok {} → exec .rte s = .next (s.andThen code fun _ => s)) ∧
      (field 0x08 8 % 4 = 0 → code = .ok {} → ∃ x, exec .rte s = .next (({ s.setW x with ent := h.ent }).recheck s.cur) ∧
        let made := (s.reinjected w h).1.filter fun o => o.isAtom && o.stamp == 0 && o.accs.any (·.got)
        (made = [] → (∀ n : Reg, n ≠ 0 → x.sreg n = BitVec.ofNat 64 (field (0x1C0 + 8 * n.toNat) 8)) ∧ x.v = w.v) ∧
        (∀ o a, made = [o] → o.lane = false → o.nw = false → o.accs = [a] → x.v = w.v ∧ ∀ n : Reg, n ≠ 0 → x.sreg n =
          if n = BitVec.ofNat 6 o.d then BitVec.ofNat 64 a.old else BitVec.ofNat 64 (field (0x1C0 + 8 * n.toNat) 8)) ∧
        (∀ l, x.fmask.getLsbD l = true ↔ w.fmask.getLsbD l = true ∨ ∃ k r, h.replay[k]? = some r ∧ r.kind = 1 ∧
          (field (0xE00 + 576 * k) 64).testBit 4 = true ∧ l < 64 ∧ ∃ y, (l, y) ∈ s.reloadFails w k r.op) ∧
        (∀ p : B4, p ≠ 0 → x.preg p = BitVec.ofNat 64 (field (0x3C0 + 8 * p.toNat) 8) &&& w.full) ∧
        (∀ l : Fin 64, x.gen[l] = if field (0x440 + 4 * l.val) 4 = 0 then 1 else BitVec.ofNat 32 (field (0x440 + 4 * l.val) 4)) ∧
        (∀ k, k ≠ h.ent → x.entry k = h.split[k]?.getD {}) ∧
        x.entry h.ent = { h.split[h.ent]?.getD {} with
          pc := BitVec.ofNat 42 (field 0x08 8), sig := BitVec.ofNat 32 (field 0x30 4), bar := (x.entry h.ent).bar } ∧
        x.crgn = h.crgn ∧ x.inh = false ∧ x.rung = 0 ∧ x.frame = 0 ∧ x.held = none ∧ x.off = h.off ∧
        x.ops = w.ops ++ (s.reinjected w h).1.filter (fun o => !(o.isAtom && o.all && o.stamp == 0)) ∧
        x.lq = (s.reinjected w h).2 ++ s.remainders (s.frameRegs w) h ∧
        x = { w with
          s := x.s, v := x.v, p := x.p, gen := x.gen, fmask := x.fmask, fmwhy := x.fmwhy, split := x.split, crgn := x.crgn, inh := x.inh, rung := x.rung, frame := x.frame
          held := x.held, off := x.off, offBlk := x.offBlk, ops := x.ops, lq := x.lq } ∧
        (w.ops = [] → w.fifo = [] → h.replay = [] → exec .rte s = .next { s.setW x with ent := h.ent })))

/-- 01 R25, 04 R130, 09 R274: EXIT ends the lanes of its fragment. The last fragment ends the watch; a child of a waiting fragment leaves it
and its other children to go on; a pending serial half runs next; in a pair EXIT raises PAIRSTATE. -/
def Obligations.ExitEndsTheLanes : Prop :=
  ∀ (s : State), s.frag.valid = true →
    let f := s.frag
    let p := f.parent.toNat
    (s.cw.pair ≠ none → exec .exit s = .next (s.trap { cause := 0x29 })) ∧
    (s.cw.pair = none → f.levels = [] → f.root = true → (∀ k, k ≠ s.ent → (s.cw.entry k).valid = false) →
      ∃ x, exec .exit s = .next (s.setW x) ∧ x = { s.cw with split := x.split, crgn := [], ended := true } ∧
        ∀ k, (x.entry k).valid = false) ∧
    (s.cw.pair = none → f.levels = [] → f.root = false → p ≠ s.ent → (s.cw.entry p).wait = true →
      (s.cw.entry p).mask &&& ~~~f.mask ≠ 0 →
      (∃ k, k < 8 ∧ k ≠ s.ent ∧ k ≠ p ∧ (s.cw.entry k).valid = true ∧ (s.cw.entry k).root = false ∧ (s.cw.entry k).parent.toNat = p ∧
        (s.cw.entry k).wait = false) →
      ∃ x, exec .exit s = .next (s.setW x) ∧ x = { s.cw with split := x.split, crgn := x.crgn } ∧ (x.entry s.ent).valid = false ∧
        (x.entry p).mask = (s.cw.entry p).mask &&& ~~~f.mask ∧
        ∀ k, k ≠ s.ent → x.entry k = (s.cw.entry k).dropLanes f.mask) ∧
    (s.cw.pair = none → ∀ l rest, f.levels = l :: rest → l.phase = false → l.pend &&& ~~~f.mask ≠ 0 →
      ∃ x, exec .exit s = .next (s.setW x) ∧ x = { s.cw with split := x.split, crgn := x.crgn } ∧
        (x.entry s.ent).mask = l.pend &&& ~~~f.mask ∧ (x.entry s.ent).pc = l.pendPc ∧ (x.entry s.ent).sig = l.pendSig ∧
        (x.entry s.ent).valid = true ∧ (x.entry s.ent).levels.length = f.levels.length ∧
        ∀ k, k ≠ s.ent → x.entry k = (s.cw.entry k).dropLanes f.mask)

/-! ## Crews, barriers and barrier objects (09 R246 to R258) -/

namespace Sys2Proof.Spec
open Sys2Proof.Machine

/-- `i` completes in `s`: the device becomes `r`, in which the executing watch goes on with `v` in S[d]. -/
def WritesIn (i : Instr) (s r : State) (d : Reg) (v : Word) : Prop :=
  ∃ x, exec i s = .next (r.setW x) ∧ SameButSregs r.cw x ∧ x.sreg d = (if d = 0 then 0 else v) ∧ (∀ n, n ≠ d → x.sreg n = r.cw.sreg n) ∧
    Advances i r.cw x s.ent

/-- The crew registers of 09 R249. -/
def crewWord (x : Crew) : Word :=
  BitVec.ofNat 64 (x.cols.length % 2 ^ 16 + 2 ^ 16 * (x.count % 2 ^ 16) + 2 ^ 32 * x.fcnt + 2 ^ 44 * x.fwhy.toNat + 2 ^ 48 * (x.phase % 2 ^ 16))

end Sys2Proof.Spec

/-- 09 R248, R249, R247: JOIN makes the watch a member, creating the crew with its own columns as the exchange set where there was none,
and answers the number of members; a ninth crew, there or not, raises CREWFULL. SIZE answers the crew registers, RANK the rank of the home column in the
exchange set or all ones, and CREWNM from outside the crew. A crew number above 255 raises CREWNUM, and a pair runs none of them. -/
def Sys2Proof.Spec.CrewInstructionsAnswer : Prop :=
  ∀ (s : State) (d a : Reg) (sc : Scope) (i : Instr), s.frag.valid = true → (Tbl.find s.ctxs s.cw.ctx).isSome →
    let c := (s.sreg a).toNat
    let cx := s.cw.ctx
    let starts := i ∈ [.crewJoin d a, .crewLeave d a, .crewSize d a, .crewRank d a] ∨ (s.frag.bar = none ∧ i ∈ [.bar a sc, .barSwap a sc])
    let me : Member := { w := s.cur, slot := s.cw.slot, cols := s.cw.cols }
    (s.cw.pair ≠ none → starts → exec i s = .next (s.trap { cause := 0x29 })) ∧
    (s.cw.pair = none → 256 ≤ c → starts → exec i s = .next (s.trap { cause := 0x20 })) ∧
    (s.cw.pair = none → c < 256 →
      (s.crew cx c = none → s.crewCount cx s.cur < 8 →
        Spec.WritesIn (.crewJoin d a) s (s.setCrew cx c { members := [me], cols := s.lcnsOf cx [me] }) d 1) ∧
      (s.crew cx c = none → 8 ≤ s.crewCount cx s.cur → exec (.crewJoin d a) s = .next (s.trap { cause := 0x22 })) ∧
      (s.crew cx c = none → exec (.crewRank d a) s = .next (s.trap { cause := 0x21 }) ∧ exec (.crewLeave d a) s = .next (s.trap { cause := 0x21 }) ∧
        WritesScalar (.crewSize d a) s d 0) ∧
      ∀ x, s.crew cx c = some x →
        (x.has s.cur = true → WritesScalar (.crewJoin d a) s d (BitVec.ofNat 64 x.count)) ∧
        (x.has s.cur = false → s.crewCount cx s.cur < 8 →
          let y := { x with members := x.members.filter (·.w != s.cur) ++ [me] }
          Spec.WritesIn (.crewJoin d a) s (s.setCrew cx c y) d (BitVec.ofNat 64 y.count)) ∧
        (x.has s.cur = false → 8 ≤ s.crewCount cx s.cur → exec (.crewJoin d a) s = .next (s.trap { cause := 0x22 })) ∧
        WritesScalar (.crewSize d a) s d (Spec.crewWord x) ∧
        (x.has s.cur = true → ∀ r, x.cols[r]? = some (s.homeLcn s.cw) → (∀ k, k < r → x.cols[k]? ≠ some (s.homeLcn s.cw)) →
          WritesScalar (.crewRank d a) s d (BitVec.ofNat 64 r)) ∧
        (x.has s.cur = true → s.homeLcn s.cw ∉ x.cols → WritesScalar (.crewRank d a) s d 0xFFFFFFFFFFFFFFFF) ∧
        (x.has s.cur = false → exec (.crewRank d a) s = .next (s.trap { cause := 0x21 }) ∧
          exec (.crewLeave d a) s = .next (s.trap { cause := 0x21 }))) 

/-- 09 R248, R250, R252: LEAVE of a member waits for path 7, then removes the watch, reporting its FMASK; it withdraws the watch's arrival
and resumes its fragments that wait at the crew's BAR without the acquire. The crew is dissolved with its last member. -/
def Sys2Proof.Spec.LeavingACrewRemovesTheWatch : Prop :=
  ∀ (s : State) (d a : Reg) (x : Crew), s.frag.valid = true → (Tbl.find s.ctxs s.cw.ctx).isSome → s.cw.pair = none →
    let c := (s.sreg a).toNat
    let cx := s.cw.ctx
    let off := s.cw.fmask != 0
    c < 256 → s.crew cx c = some x → x.has s.cur = true →
    (s.cw.pathCount 7 ≠ 0 → exec (.crewLeave d a) s = .next s) ∧
    (s.cw.pathCount 7 = 0 → ∃ r, (∃ v, Spec.WritesIn (.crewLeave d a) s r d v ∧
        v = BitVec.ofNat 64 (match r.crew cx c with
          | some y => y.count
          | none => 0)) ∧
      ((∀ m ∈ x.members, m.w = s.cur) → r.crew cx c = none) ∧
      ((∃ m ∈ x.members, m.w ≠ s.cur ∧ m.arrived = false) →
        ((∀ m ∈ x.members, m.faulted = false) ∨ ∀ y ∈ (s.ctx cx).colls, y.crew ≠ c) →
        r.crew cx c = some { (x.report off s.cw.fmwhy) with members := x.members.filter (·.w != s.cur) } ∧
        (∀ k, r.cw.entry k = (s.cw.entry k).releaseBar c x.phase false) ∧
        (r.ctx cx).msgs = (s.ctx cx).msgs.filter (fun m => !m.isArrivalOf c s.cur)))

/-- 09 R251 with R247, R250, 10 R288: when every member has arrived the phase completes: the phase count goes up, the members that departed by
fault go, the exchange set is that of the columns of the members that remain, and no arrival is recorded any more. -/
def Sys2Proof.Spec.CompletedPhaseOpensTheNext : Prop :=
  ∀ (s : State) (cx c : Nat) (x : Crew), s.crew cx c = some x → x.members ≠ [] → (∀ m ∈ x.members, m.arrived = true) →
    let keep := x.members.filter fun m => !m.faulted
    let t := s.checkPhase cx c
    (keep = [] → t.crew cx c = none) ∧
    (keep ≠ [] → ∃ y, t.crew cx c = some y ∧ y.phase = x.phase + 1 ∧ y.members.map (·.w) = keep.map (·.w) ∧
      (∀ m ∈ y.members, m.arrived = false ∧ m.swap = false ∧ m.faulted = false) ∧ y.cols = s.lcnsOf cx keep ∧
      y.fcnt = x.fcnt ∧ y.fwhy = x.fwhy) ∧
    t.mem = s.mem

/-- 09 R253, R254, 04 R93: BAR and BAR.SWAP of a member act as the release and record an arrival of their kind in the open phase, once per
watch, and wait without moving the PC; they read S[a] once. A fragment that the controller has released goes on, with the acquire where the
phase completed. One stopped by a trap or a pre-emption executes from its start, and finds the arrival that it made in its crew (log 11). From
outside the crew they raise CREWNM. -/
def Obligations.BarArrivesOnceAndWaits : Prop :=
  ∀ (s : State) (a : Reg) (sc : Scope) (swap : Bool), s.frag.valid = true → (Tbl.find s.ctxs s.cw.ctx).isSome → s.cw.pair = none →
    let i := if swap then Instr.barSwap a sc else Instr.bar a sc
    let c := (s.sreg a).toNat
    let cx := s.cw.ctx
    let at_ := fun (r : State) (b : BarWait) => r.setW (s.cw.setEntry s.ent { s.frag with bar := some b })
    let arrives := fun (b : BarWait) =>
      let here := { b with phase := s.phaseOf b.crew, sent := true }
      (s.hasArrived b.crew = true → exec i s = .next (at_ s here)) ∧
      (s.hasArrived b.crew = false → s.released .ar sc = false → exec i s = .next (at_ s b)) ∧
      (s.hasArrived b.crew = false → s.released .ar sc = true → ∃ r, exec i s = .next (at_ r here) ∧
        (r.ctx cx).msgs = (s.ctx cx).msgs ++ [.arrive b.crew s.cur swap] ∧ r.crew cx b.crew = s.crew cx b.crew ∧ r.mem = s.mem)
    let starts :=
      (s.isMember c = false → exec i s = .next (s.trap { cause := 0x21 })) ∧
      (s.isMember c = true → arrives { crew := c, phase := s.phaseOf c })
    let goesOn := fun (b : BarWait) => ∃ x, exec i s = .next { s.setW x with seq := if b.acquire then s.seq + 1 else s.seq } ∧
      x = { s.cw with split := x.split, acqs := x.acqs } ∧ Spec.AcquiresAt s.cw x (if b.acquire then .acq else .rlx) s.seq ∧
      ∃ w0 ws, encode i = some (w0 :: ws) ∧ FragmentIs s.cw x s.ent { s.frag with
        bar := none, pc := s.frag.pc + BitVec.ofNat 42 (4 * (ws.length + 1)), sig := foldSig s.frag.sig w0 }
    (s.frag.bar = none → c < 256 → starts) ∧
    ∀ b, s.frag.bar = some b →
      (b.again = false → (b.released = true → goesOn b) ∧ (b.released = false → b.sent = true → exec i s = .next s) ∧
        (b.released = false → b.sent = false → arrives b)) ∧
      (b.again = true → c < 256 →
        (b.crew = c → b.sent = true → (b.released = true → goesOn b) ∧ (b.released = false → exec i s = .next s)) ∧
        (b.crew ≠ c ∨ b.sent = false → starts))

namespace Sys2Proof.Spec
open Sys2Proof.Machine

/-- An ABAR step completes: the 16 bytes at `key` become those of `v`, S[d] takes `tok` where there is one, and the acquire of `r` is made;
every byte outside the object is as before, and nothing else changes but that the fragment goes on. -/
def StepsObject (i : Instr) (s : State) (key : Nat) (v : Nat) (r : Ord) (d : Reg) (tok : Option Word) : Prop :=
  ∃ t, exec i s = .next t ∧ t.readN key 16 = v ∧
    (∀ k, k < key ∨ key + 16 ≤ k → memByte t.mem t.epoch k = memByte s.mem s.epoch k) ∧
    t = { s.setW t.cw with mem := t.mem, seq := if r = .acq ∨ r = .ar then s.seq + 1 else s.seq } ∧
    t.cw = { s.cw with s := t.cw.s, split := t.cw.split, acqs := t.cw.acqs } ∧ AcquiresAt s.cw t.cw r s.seq ∧
    (∀ n, t.cw.sreg n = match tok with
      | some u => if n = d then (if d = 0 then 0 else u) else s.sreg n
      | none => s.sreg n) ∧
    Advances i s.cw t.cw s.ent

/-- The five operations of 09 R257 on one address and order. -/
def abars (d a b : Reg) (r : Ord) (sc : Scope) : List Instr :=
  [.abarInit a b r sc, .abarArrive d a b r sc, .abarExpect d a b r sc, .abarWait a b r sc, .abarTest d a b r sc]

/-- A barrier object of the fields of 09 R256. -/
def object (pending expected phase efail mark : Nat) : Nat := pending + 2 ^ 32 * expected + 2 ^ 64 * phase + 2 ^ 96 * efail + 2 ^ 112 * mark

end Sys2Proof.Spec

/-- 09 R256, R257: each ABAR operation on an object that its address names, by the object's fields: what becomes of the object and of S[d],
when the operation waits and which check stops it; a step that stops or waits writes nothing. -/
def Sys2Proof.Spec.BarrierObjectSteps : Prop :=
  ∀ (s : State) (d a b : Reg) (r : Ord) (sc : Scope) (key p e n : Nat) (ef mk : Nat), s.frag.valid = true → s.cw.pair = none →
    s.objectAt s.cw (s.sreg a) = .ok key → s.released r sc = true → s.objectHeld key = false →
    p < 2 ^ 32 → e < 2 ^ 32 → n < 2 ^ 32 → ef < 2 ^ 16 → mk < 2 ^ 16 → s.readN key 16 = Spec.object p e n ef mk →
    let k := if b = 0 then 1 else (s.sreg b).toNat
    let stop := fun (i : Instr) cause => exec i s = .next (s.trap { cause := cause, addr := s.sreg a })
    let bad := fun (k : Nat) => k = 0 ∨ 2 ^ 31 ≤ k
    (bad (s.sreg b).toNat → stop (.abarInit a b r sc) 0x24) ∧
    (¬bad (s.sreg b).toNat → Spec.StepsObject (.abarInit a b r sc) s key (Spec.object (s.sreg b).toNat (s.sreg b).toNat 0 0 0xAB01) r 0 none) ∧
    (mk ≠ 0xAB01 → ∀ i ∈ (Spec.abars d a b r sc).tail, stop i 0x23) ∧
    (mk = 0xAB01 →
      (bad k → stop (.abarArrive d a b r sc) 0x24) ∧
      (¬bad k → p < k → stop (.abarArrive d a b r sc) 0x25) ∧
      (¬bad k → k < p → Spec.StepsObject (.abarArrive d a b r sc) s key (Spec.object (p - k) e n ef mk) r d (some (BitVec.ofNat 64 n))) ∧
      (¬bad k → k = p →
        Spec.StepsObject (.abarArrive d a b r sc) s key (Spec.object e e ((n + 1) % 2 ^ 32) ef mk) r d (some (BitVec.ofNat 64 n))) ∧
      (bad k ∨ 2 ^ 31 ≤ p + k → stop (.abarExpect d a b r sc) 0x24) ∧
      (¬bad k → p + k < 2 ^ 31 → Spec.StepsObject (.abarExpect d a b r sc) s key (Spec.object (p + k) e n ef mk) r d (some (BitVec.ofNat 64 n))) ∧
      (n = (s.sreg b).toNat % 2 ^ 32 → exec (.abarWait a b r sc) s = .next s) ∧
      (n ≠ (s.sreg b).toNat % 2 ^ 32 → Spec.StepsObject (.abarWait a b r sc) s key (s.readN key 16) r 0 none) ∧
      Spec.StepsObject (.abarTest d a b r sc) s key (s.readN key 16) r d (some (if n ≠ (s.sreg b).toNat % 2 ^ 32 then 1 else 0)))

/-- 09 R257, R274: what stops an ABAR operation before its step: a pair, the checks of its address in their order, and the release or an older
access to the object, for which it waits. -/
def Sys2Proof.Spec.BarrierObjectChecks : Prop :=
  ∀ (s : State) (d a b : Reg) (r : Ord) (sc : Scope) (i : Instr), i ∈ Spec.abars d a b r sc →
    let v := s.sreg a
    let stop := fun cause => exec i s = .next (s.trap { cause := cause, addr := v })
    (s.cw.pair ≠ none → exec i s = .next (s.trap { cause := 0x29 })) ∧
    (s.cw.pair = none →
      (v.toNat / 2 ^ 56 ≠ 0 ∨ tagOf v ≠ 1 → stop 0x10) ∧
      (v.toNat / 2 ^ 56 = 0 → tagOf v = 1 →
        (s.coreColumn s.cw v = none → stop 0x11) ∧
        ∀ p, s.coreColumn s.cw v = some p →
          (offOf v % 16 ≠ 0 → stop 0x13) ∧
          (offOf v % 16 = 0 → (s.layout s.cw.ctx p).scratch < offOf v + 16 → stop 0x14) ∧
          (offOf v % 16 = 0 → offOf v + 16 ≤ (s.layout s.cw.ctx p).scratch →
            s.released r sc = false ∨ s.objectHeld (memKey .plain s.cw.ctx p (offOf v)) = true → exec i s = .next s)))

/-! ## Containment regions, signatures and pairs (09 R268 to R278), the slot table (08 R242 to R244) -/

/-- 09 R269, R274: CRGN.OPEN pushes the handler's address with the fragment's mask, CRGN.CLOSE pops; a fifth region, a divided watch, a CLOSE
with no region and a pair raise their causes. -/
def Sys2Proof.Spec.RegionsOpenAndClose : Prop :=
  ∀ (s : State) (o : W32), s.frag.valid = true →
    (s.cw.pair ≠ none → exec (.crgnOpen o) s = .next (s.trap { cause := 0x29 }) ∧ exec .crgnClose s = .next (s.trap { cause := 0x29 })) ∧
    (s.cw.pair = none →
      (4 ≤ s.cw.crgn.length → exec (.crgnOpen o) s = .next (s.trap { cause := 0x26 })) ∧
      (s.cw.crgn = [] → exec .crgnClose s = .next (s.trap { cause := 0x28 })) ∧
      (s.divided = true → (s.cw.crgn.length < 4 → exec (.crgnOpen o) s = .next (s.trap { cause := 0x27 })) ∧
        (s.cw.crgn ≠ [] → exec .crgnClose s = .next (s.trap { cause := 0x27 }))) ∧
      (s.divided = false →
        (s.cw.crgn.length < 4 → ∃ x, Spec.Runs (.crgnOpen o) s x ∧ x = { s.cw with
          crgn := { h := Spec.displaced s.frag.pc o, m := s.frag.mask, ended := 0 } :: s.cw.crgn, split := x.split }) ∧
        (∀ r rest, s.cw.crgn = r :: rest → ∃ x, Spec.Runs .crgnClose s x ∧ x = { s.cw with crgn := rest, split := x.split })))

/-- 09 R270, 07 R219: an UNCOR inside a region and outside a handler unwinds to the innermost region: one fragment at H with the region's lanes
that have not ended, S62 the address, the region popped, what R262 would keep discarded; stores and what already goes on stay. -/
def Sys2Proof.Spec.UncorUnwindsToTheRegion : Prop :=
  ∀ (s : State) (t : TrapInfo) (g : Region) (rest : List Region), s.cw.pair = none → s.cw.inh = false → t.cause = 0x19 →
    s.cw.crgn ≠ [] → (s.settleMatrix s.cur).cw.crgn = g :: rest →
    let w := (s.settleMatrix s.cur).cw
    let u := s.trap t
    u.ent = 0 ∧ u.cw.entry 0 = { mask := g.m &&& ~~~g.ended, pc := g.h, valid := true, root := true, sig := 0xFFFFFFFF } ∧
    (∀ k, k ≠ 0 → (u.cw.entry k).valid = false) ∧ u.cw.sreg 62 = t.addr ∧ (∀ n : Reg, n ≠ 62 → u.cw.sreg n = w.sreg n) ∧
    u.cw.crgn = rest ∧ u.cw.inh = w.inh ∧ u.cw.lq = [] ∧ u.cw.chain = none ∧ u.cw.fifo = w.fifo ∧ u.cw.v = w.v ∧ u.cw.p = w.p ∧
    u.cw.ops = w.ops.filter (fun o => o.done || o.goesOn) ∧ u.mem = (s.settleMatrix s.cur).mem

/-- 09 R271, R272: SIGCK of the signature that the fragment has leaves the start value and folds nothing; of another it raises INTEG with CODE 1
and the expected value. -/
def Sys2Proof.Spec.SigckChecksTheSignature : Prop :=
  ∀ (s : State) (v : W32), s.frag.valid = true →
    (s.frag.sig = v → ∃ x, exec (.sigck v) s = .next (s.setW x) ∧ x = { s.cw with split := x.split } ∧
      FragmentIs s.cw x s.ent { s.frag with sig := 0xFFFFFFFF, pc := s.frag.pc + 8 }) ∧
    (s.frag.sig ≠ v → exec (.sigck v) s = .next (s.trap { cause := 0x06, code := 1, sigHi := v }))

/-- 09 R273, R278, R279: PAIR.BEGIN waits until the watch is quiet and takes the checkpoint at the next instruction, with INJECT as it stands;
PAIR.END marks the trailer's
arrival, and in the leader ends the pair once the trailer has arrived with as many entries and all have committed. Both raise PAIRSTATE where
they have no place. -/
def Sys2Proof.Spec.PairsBeginAndEnd : Prop :=
  ∀ (s : State) (n : I12), s.frag.valid = true →
    (s.cw.pair ≠ none ∨ s.divided = true → exec (.pairBegin n) s = .next (s.trap { cause := 0x29 })) ∧
    (s.cw.pair = none → s.divided = false → s.cw.lanesIdle = false ∨ s.cw.mat ≠ none ∨ (∃ o ∈ s.cw.ops, o.done = false) →
      exec (.pairBegin n) s = .next s) ∧
    (s.cw.pair = none → s.divided = false → s.cw.lanesIdle = true → s.cw.mat = none → (∀ o ∈ s.cw.ops, o.done = true) →
      ∃ x c, Spec.Runs (.pairBegin n) s x ∧
        x = { s.cw with split := x.split, pair := some { slack := n.toNat, check := c, inj := s.cw.inject } } ∧
        c.s = s.cw.s ∧ c.v = s.cw.v ∧ c.p = s.cw.p ∧ c.mask = s.frag.mask ∧ c.gen = s.cw.gen ∧ c.srseed = s.cw.srseed ∧
        c.mshape = s.cw.mshape ∧ c.rbnd = s.cw.rbnd ∧ c.pc = s.frag.pc + 8 ∧ c.sig = (x.entry s.ent).sig) ∧
    (s.cw.pair = none → exec .pairEnd s = .next (s.trap { cause := 0x29 })) ∧
    (∀ p, s.cw.pair = some p → s.cw.lanesIdle = false → exec .pairEnd s = .next s) ∧
    (∀ p, s.cw.pair = some p → s.cw.lanesIdle = true → p.leads = false →
      exec .pairEnd s = .next (s.setW { s.cw with pair := some { p with ended := true } })) ∧
    (∀ p q, s.cw.pair = some p → s.cw.lanesIdle = true → p.leads = true → p.placed = true → p.partner ≠ s.cur →
      (s.watch p.partner).pair = some q →
      (q.ended = false → exec .pairEnd s = .next s) ∧
      (q.ended = true → p.made ≠ q.made → exec .pairEnd s = .next (s.mismatch s.cur 0)) ∧
      (q.ended = true → p.made = q.made → p.ents ≠ [] ∨ q.ents ≠ [] → exec .pairEnd s = .next s) ∧
      (q.ended = true → p.made = q.made → p.ents = [] → q.ents = [] → ∃ t, exec .pairEnd s = .next t ∧ t.cw.pair = none ∧
        (t.watch p.partner).ended = true ∧ t.mem = s.mem ∧ t.cw.s = s.cw.s ∧ t.cw.v = s.cw.v ∧ t.cw.fifo = s.cw.fifo ∧
        Advances .pairEnd s.cw t.cw s.ent))

/-- 09 R273: the trailer of a pair is placed on the first core after the leader's, in ascending order around its die, on which its context runs
and the watch fits with the leader's COL0; it takes the checkpoint's registers, mask and PC, and the leader goes on. -/
def Sys2Proof.Spec.TrailerTakesTheCheckpoint : Prop :=
  ∀ (s : State) (w : Nat) (x : Watch) (p : Pair), Tbl.find s.watches w = some x → x.pair = some p → p.placed = false → p.leads = true →
    s.isLive x = true → w ≠ s.next →
    let la := s.launch x.launch
    let core := fun k => dieOfCore x.core * 128 + (x.core % 128 + 1 + k) % 128
    let fits := fun c slot => s.runsOn x.ctx c = true ∧
      s.fitIn (s.residents c) x.ctx c la.scratch la.xwin x.width x.allot [x.col0] = some (slot, x.col0)
    (∀ k slot, k < 127 → fits (core k) slot → (∀ j u, j < k → ¬fits (core j) u) →
      ∃ t y q, exec (.pairTrailerPlace w) s = .next t ∧ t.next = s.next + 1 ∧ Tbl.find t.watches s.next = some y ∧
        y.core = core k ∧ y.slot = slot ∧ y.col0 = x.col0 ∧ y.width = x.width ∧ y.kind = .trailer ∧ y.s = p.check.s ∧ y.v = p.check.v ∧
        y.p = p.check.p ∧ y.gen = p.check.gen ∧ y.srseed = p.check.srseed ∧ y.mshape = p.check.mshape ∧ y.rbnd = p.check.rbnd ∧
        y.entry 0 = { mask := p.check.mask, pc := p.check.pc, valid := true, root := true, sig := p.check.sig } ∧
        y.pair = some q ∧ q.leads = false ∧ q.partner = w ∧
        Tbl.find t.watches w = some { x with pair := some { p with placed := true, partner := s.next } }) ∧
    ((∀ k slot, k < 127 → ¬fits (core k) slot) → exec (.pairTrailerPlace w) s = .next s)

/-- 09 R275 to R277: the oldest entries of the leader and the trailer meet: two stores of one signature commit into the FIFO of each watch; two
atomics of one signature commit, when what is ordered before the leader's step has been performed, by one step of the leader whose old values
go to both destinations, and whose new word is a store of the trailer where the target is the leader's own column; a mismatch, below the fourth, sets both watches back to the checkpoint with no entry left, and counts in RETRY. -/
def Sys2Proof.Spec.PairsCompareTheirEntries : Prop :=
  ∀ (s : State) (w : Nat) (x y : Watch) (p q : Pair) (e f : PairEnt) (es fs : List PairEnt), Tbl.find s.watches w = some x →
    Tbl.find s.watches p.partner = some y → w ≠ p.partner → x.pair = some p → y.pair = some q → p.leads = true → q.leads = false →
    q.partner = w → p.ents = e :: es → q.ents = f :: fs →
    (e.sig = f.sig → e.store = true → f.store = true → ∃ t, exec (.pairCompare w) s = .next t ∧ t.mem = s.mem ∧
      Tbl.find t.watches w = some { x with
        pair := some { p with ents := es }
        fifo := x.fifo ++ e.op.accs.map fun a => { op := e.op.id, lane := e.lane, seq := e.op.seq, acc := a } } ∧
      Tbl.find t.watches p.partner = some { y with
        pair := some { q with ents := fs }
        fifo := y.fifo ++ f.op.accs.map fun a => { op := f.op.id, lane := f.lane, seq := f.op.seq, acc := a } }) ∧
    (e.sig = f.sig → e.store = false → f.store = false →
      (s.commitOpen w e = false → exec (.pairCompare w) s = .next s) ∧
      (s.commitOpen w e = true → ∃ u : State, exec (.pairCompare w) s = .next (u.commitAtom w p.partner e f) ∧
        u.mem = s.mem ∧ Tbl.find u.watches w = some { x with pair := some { p with ents := es } } ∧
        Tbl.find u.watches p.partner = some { y with pair := some { q with ents := fs } }) ∧
      (s.commitOpen w e = true → ∀ a b, e.op.kind = .satom ∨ e.op.kind = .xatom → f.op.kind = e.op.kind → e.op.accs = [a] → f.op.accs = [b] →
        x.op e.op.id = some e.op → y.op f.op.id = some f.op → e.op.lane = false → f.op.lane = false → e.op.nw = false → f.op.nw = false →
        e.op.stamp = 0 → f.op.stamp = 0 → a.data < 2 ^ (8 * a.size) → dirEntry (s.keyNow x.ctx a) = none →
        let old := s.readN (s.keyNow x.ctx a) a.size
        let new := Spec.atomWord e.op.fn (e.op.ty = 0) a.size old a.data a.cmp
        ∃ t x' y', exec (.pairCompare w) s = .next t ∧ Spec.Stores s t (s.keyNow x.ctx a) a.size new ∧ Tbl.find t.watches w = some x' ∧
          Tbl.find t.watches p.partner = some y' ∧
          (∀ r : Reg, r ≠ 0 → x'.sreg r = if r = BitVec.ofNat 6 e.op.d then BitVec.ofNat 64 old else x.sreg r) ∧
          (∀ r : Reg, r ≠ 0 → y'.sreg r = if r = BitVec.ofNat 6 f.op.d then BitVec.ofNat 64 old else y.sreg r) ∧
          x'.fifo = x.fifo ∧
          (e.op.kind = .xatom → colOf a.addr ≠ 0x3FF → y'.fifo = y.fifo) ∧
          (e.op.kind = .satom ∨ colOf a.addr = 0x3FF → ∃ id, y'.fifo = y.fifo ++
            [{ op := id, lane := false, seq := f.op.seq, acc := { b with data := new, got := false } }]))) ∧
    (e.sig ≠ f.sig → p.retry < 3 → ∃ t x' p', exec (.pairCompare w) s = .next t ∧ t.mem = s.mem ∧ Tbl.find t.watches w = some x' ∧
      x'.pair = some p' ∧ p'.retry = p.retry + 1 ∧ p'.ents = [] ∧ x'.s = p.check.s ∧ x'.v = p.check.v ∧ x'.p = p.check.p ∧
      x'.gen = p.check.gen ∧ x'.entry 0 = { mask := p.check.mask, pc := p.check.pc, valid := true, root := true, sig := p.check.sig } ∧
      (t.watch p.partner).s = p.check.s ∧ (t.watch p.partner).v = p.check.v ∧ ((t.watch p.partner).entry 0).pc = p.check.pc)

namespace Sys2Proof.Spec
open Sys2Proof.Machine

/-- The staging slot table of the executing watch's context on its core, and the state with another one there. -/
def slotsOf (s : State) : SlotTable := Tbl.getD (s.core s.cw.core).slots s.cw.ctx {}

/-- `i` answers `v` in S[d] and leaves the slot table `u`. -/
def SlotsAnswer (i : Instr) (s : State) (u : SlotTable) (d : Reg) (v : Word) : Prop :=
  ∃ r, WritesIn i s r d v ∧ slotsOf r = u ∧ r.cw = s.cw ∧ r.mem = s.mem ∧ ∀ c, c ≠ s.cw.core → r.core c = s.core c

/-- The result word of 08 R243. -/
def slotResult (n : Nat) (hit : Bool) (count : BitVec 16) : Word := BitVec.ofNat 64 (n + (if hit then 8 else 0) + 2 ^ 16 * count.toNat)

/-- The table after the ageing of 08 R244. -/
def aged (t : SlotTable) : SlotTable :=
  if t.period ≠ 0 ∧ t.age + 1 = t.period then
    { t with slots := t.slots.map (fun x => { x with count := BitVec.ofNat 16 (x.count.toNat / 2) }), age := 0 }
  else { t with age := t.age + 1 }

end Sys2Proof.Spec

/-- 08 R243, R244, 09 R274: the four SLOT operations on the table of the context on the core. -/
def Obligations.SlotOperationsAnswer : Prop :=
  ∀ (s : State) (d a : Reg), s.frag.valid = true →
    let t := Spec.slotsOf s
    let v := s.sreg a
    let key := v.extractLsb' 0 48
    let n := v.toNat / 2 ^ 48 % 8
    let holds := fun (i : Fin 8) => t.slots[i].valid = true ∧ t.slots[i].key = key
    (s.cw.pair ≠ none → ∀ i ∈ [Instr.slotLook d a, .slotVict d, .slotFill d a, .slotClr d a], exec i s = .next (s.trap { cause := 0x29 })) ∧
    (s.cw.pair = none →
      ((∀ i, ¬holds i) → Spec.SlotsAnswer (.slotLook d a) s (Spec.aged t) d 0) ∧
      (∀ i : Fin 8, holds i → (∀ k, k < i → ¬holds k) →
        let c := BitVec.ofNat 16 (min (t.slots[i].count.toNat + 1) 0xFFFF)
        Spec.SlotsAnswer (.slotLook d a) s (Spec.aged { t with slots := t.slots.set i { t.slots[i] with count := c } }) d
          (Spec.slotResult i true c)) ∧
      (∀ i : Fin 8, (∀ k : Fin 8, t.slots[i].count.toNat ≤ t.slots[k].count.toNat) →
        (∀ k : Fin 8, k < i → t.slots[i].count.toNat < t.slots[k].count.toNat) →
        WritesScalar (.slotVict d) s d (Spec.slotResult i t.slots[i].valid t.slots[i].count)) ∧
      (∃ u : SlotTable, Spec.SlotsAnswer (.slotFill d a) s u d (Spec.slotResult n (t.slots[n]?.getD {}).valid (t.slots[n]?.getD {}).count) ∧
        u.period = t.period ∧ u.age = t.age ∧ ∀ i : Fin 8, u.slots[i] =
          if i.val = n then { key := key, valid := true, count := 1 }
          else if t.slots[i].valid = true ∧ t.slots[i].key = key then { t.slots[i] with valid := false, count := 0 } else t.slots[i]) ∧
      (∃ u : SlotTable, Spec.SlotsAnswer (.slotClr d a) s u d (BitVec.ofNat 64 (2 ^ 16 * t.period.toNat)) ∧
        (∀ i : Fin 8, u.slots[i] = if v.getLsbD i = true then { t.slots[i] with valid := false, count := 0 } else t.slots[i]) ∧
        u.period = (if v.getLsbD 8 then BitVec.ofNat 16 (v.toNat / 2 ^ 16) else t.period) ∧ u.age = if v.getLsbD 8 then 0 else t.age))

/-! ## Engine commands and collectives as a watch issues them (08 R224, 07 R205, 10 R292, R297, 11 R315, R326, 15 R401 to R405) -/

namespace Sys2Proof.Spec
open Sys2Proof.Machine

/-- The barrier object that a command names by S[b], which passes the checks of 09 R258: none with NOBAR. -/
def NamesObject (s : State) (nb : Bool) (b : Reg) (obj : Option Nat) : Prop :=
  (nb = true ∧ obj = none) ∨ (nb = false ∧ ∃ key, s.objectAt s.cw (s.sreg b) = .ok key ∧ s.objectHeld key = false ∧
    objMarked (s.readN key 16) = true ∧ obj = some key)

/-- `i` issues the command `c`: it counts on path 9, with the words of `i` itself (09 R266), until its engine accepts it. -/
def IssuesCommand (i : Instr) (s : State) (sc : Scope) (d : Nat) (c : Cmd) : Prop :=
  ∃ w0 w1, encode i = some [w0, w1] ∧ Issues i s
    { kind := .engine, paths := [9], ent := s.ent, at_ := s.frag.pc.toNat, d := d, scope := sc
      cmd := { c with w0 := w0, w1 := w1 } } [] .rlx

/-- The request of a descriptor of n bytes. -/
def descReq (n : Nat) (tags : List Nat) : AReq := { size := n, align := n, tags := tags }

/-- Nothing that is ordered before it keeps `i` from reading n bytes at an access's place (13 R360, R361); it waits while something does. -/
def ReadsFirst (i : Instr) (s : State) (x : Acc) (n : Nat) (then_ : Nat → Prop) : Prop :=
  (s.bytesHeld (s.keyNow s.cw.ctx x) n = true → exec i s = .next s) ∧
  (s.bytesHeld (s.keyNow s.cw.ctx x) n = false → then_ (s.readCtl x n))

end Sys2Proof.Spec

/-- 08 R224, R230, 09 R258: TCOPY reads its 64-byte descriptor from the plain region, after what is ordered before that read (13 R360, R361),
traps COPYDESC where the descriptor breaks a rule, and once the release is over issues its command with the descriptor's copy and the barrier object. -/
def Sys2Proof.Spec.TcopyIssuesItsCommand : Prop :=
  ∀ (s : State) (a b : Reg) (nb : Bool) (sc : Scope) (x : Acc) (obj : Option Nat), s.frag.valid = true → s.cw.pair = none →
    s.prep s.cw.home (Spec.descReq 64 [1]) (s.sreg a) = .ok x → Spec.ReadsFirst (.tcopy a b nb sc) s x 64 fun v =>
    let d := wordsOf 8 v
    (s.copyBad s.cw (s.sreg a) d = true → exec (.tcopy a b nb sc) s = .next (s.trap { cause := 0x16, addr := s.sreg a })) ∧
    (s.copyBad s.cw (s.sreg a) d = false → Spec.NamesObject s nb b obj → s.released .rel sc = true → s.cw.pathCount 9 < 65535 →
      Spec.IssuesCommand (.tcopy a b nb sc) s sc 0
        { maj := 0x30, a := s.sreg a, b := s.sreg b, desc := d, obj := obj, extra := (s.ctx s.cw.ctx).liveCols })

/-- 07 R205: WLOAD checks its source in the plain region or the window of a column of the core and its extent in the buffer, and issues its
command. -/
def Sys2Proof.Spec.WloadIssuesItsCommand : Prop :=
  ∀ (s : State) (wn : Bool) (a b : Reg) (dst : Byte) (n : I12) (nb : Bool) (sc : Scope) (obj : Option Nat) (p : Nat),
    s.frag.valid = true → s.cw.pair = none →
    let v := s.sreg a
    let l := s.layout s.cw.ctx p
    let stop := fun cause => exec (.wload wn a b dst n nb sc) s = .next (s.trap { cause := cause, addr := v })
    let bytes := 128 * n.toNat
    (v.toNat / 2 ^ 56 ≠ 0 ∨ (tagOf v ≠ 1 ∧ tagOf v ≠ 2) → stop 0x10) ∧
    (v.toNat / 2 ^ 56 = 0 → tagOf v = 1 ∨ tagOf v = 2 → s.coreColumn s.cw v = none → stop 0x11) ∧
    (v.toNat / 2 ^ 56 = 0 → s.coreColumn s.cw v = some p → (tagOf v = 1 ∨ (tagOf v = 2 ∧ l.init = true ∧ l.window ≠ 0)) →
      (offOf v % 32 ≠ 0 → stop 0x13) ∧
      (offOf v % 32 = 0 → (if tagOf v = 1 then l.scratch else l.window) < offOf v + bytes ∨ 262144 < 1024 * dst.toNat + bytes → stop 0x14) ∧
      (offOf v % 32 = 0 → offOf v + bytes ≤ (if tagOf v = 1 then l.scratch else l.window) → 1024 * dst.toNat + bytes ≤ 262144 →
        Spec.NamesObject s nb b obj → s.released .rel sc = true → s.cw.pathCount 9 < 65535 →
        Spec.IssuesCommand (.wload wn a b dst n nb sc) s sc 0
          { maj := 0x31, a := v, b := s.sreg b, obj := obj
            extra := [tagOf v, p, offOf v, 1024 * dst.toNat, 4 * n.toNat, if wn then 1 else 0] }))

/-- 10 R292, R297: SOLIC names a responder role of its launch and the context or an existing crew, with room for the reply beside its object;
AUCT reads its descriptor from the plain region of a column of the core. Both issue their commands. -/
def Sys2Proof.Spec.SolicAndAuctIssueTheirCommands : Prop :=
  ∀ (s : State) (k : B2) (a b : Reg) (cr : Byte) (ro : B2) (cx nb : Bool) (sc : Scope) (obj : Option Nat) (p : Nat),
    s.frag.valid = true → s.cw.pair = none → s.cw.pathCount 9 < 65535 →
    (let v := s.sreg b
     let la := s.launch s.cw.launch
     Spec.NamesObject s false b obj → s.coreColumn s.cw v = some p → offOf v + 48 ≤ (s.layout s.cw.ctx p).scratch →
      s.lockHit s.cw.ctx p 1 (offOf v + 16) 32 true = false →
      (la.nrole ≤ ro.toNat ∨ la.roleResp ro.toNat = false → exec (.solic k a b cr ro cx sc) s = .next (s.trap { cause := 0x40 })) ∧
      (ro.toNat < la.nrole → la.roleResp ro.toNat = true →
        (cx = false → s.crew s.cw.ctx cr.toNat = none → exec (.solic k a b cr ro cx sc) s = .next (s.trap { cause := 0x41 })) ∧
        (cx = true ∨ s.crew s.cw.ctx cr.toNat ≠ none → s.released .ar sc = true →
          Spec.IssuesCommand (.solic k a b cr ro cx sc) s sc 0
            { maj := 0x33, a := s.sreg a, b := v, obj := obj
              extra := [k.toNat, ro.toNat, if cx then 256 else cr.toNat, s.cw.lblock.toNat, s.homeLcn s.cw] }))) ∧
    (let v := s.sreg a
     v.toNat / 2 ^ 56 = 0 → tagOf v = 1 → s.coreColumn s.cw v = some p → offOf v % 64 = 0 →
      offOf v + 64 ≤ (s.layout s.cw.ctx p).scratch → s.lockHit s.cw.ctx p 1 (offOf v) 64 false = false →
      Spec.ReadsFirst (.auct a b nb sc) s { pcn := p, addr := v, key := memKey .plain s.cw.ctx p (offOf v) } 64 fun m =>
      let d := wordsOf 8 m
      (s.auctBad s.cw v d = true → exec (.auct a b nb sc) s = .next (s.trap { cause := 0x42, addr := v })) ∧
      (s.auctBad s.cw v d = false → Spec.NamesObject s nb b obj → s.released .rel sc = true →
        Spec.IssuesCommand (.auct a b nb sc) s sc 0 { maj := 0x34, a := v, b := s.sreg b, desc := d, obj := obj }))

/-- 11 R326, R315: REC reads its record and issues it for the queue, to answer in S[d], or raises RECBAD; TRIG checks the count, the graph and
the patches and issues the trigger. -/
def Sys2Proof.Spec.RecAndTrigIssueTheirCommands : Prop :=
  ∀ (s : State) (d a b q : Reg) (g : I12) (x : Acc), s.frag.valid = true → s.cw.pair = none → s.cw.pathCount 9 < 65535 →
    (s.prep s.cw.home (Spec.descReq 32 [0, 1]) (s.sreg a) = .ok x → Spec.ReadsFirst (.recd d a q) s x 32 fun v =>
      (recordBad (s.ctx s.cw.ctx).cols.length v = true → exec (.recd d a q) s = .next (s.trap { cause := 0x43 })) ∧
      (recordBad (s.ctx s.cw.ctx).cols.length v = false → s.released .rel .dev = true →
        Spec.IssuesCommand (.recd d a q) s .dev d.toNat { maj := 0x36, a := s.sreg a, desc := wordsOf 4 v, extra := [q.toNat] })) ∧
    (let n := (s.sreg b).toNat
     let r : AReq := { size := 16 * n, align := 16, tags := [0, 1] }
     let bad := exec (.trig a b g) s = .next (s.trap { cause := 0x44 })
     (64 < n → bad) ∧
     (n ≤ 64 → (n = 0 ∨ s.checkAddr s.cw s.cw.home r (s.sreg a) = none) →
      (s.triggerOk g.toNat s.cw.ctx n [] = false → bad) ∧
      (s.triggerOk g.toNat s.cw.ctx n [] = true → ∀ patch, s.readWords r (s.sreg a) (2 * n) = .ok patch →
        (s.triggerOk g.toNat s.cw.ctx n patch = false → bad) ∧
        (s.triggerOk g.toNat s.cw.ctx n patch = true → s.released .rel .sys = true →
          Spec.IssuesCommand (.trig a b g) s .sys 0
            { maj := 0x37, a := s.sreg a, b := s.sreg b, desc := patch, extra := [g.toNat] }))))

namespace Sys2Proof.Spec
open Sys2Proof.Machine

/-- The seven operations of COLL with their MIN (15 R401), as instructions of one drain, type, object, group and scope. -/
def colls (t : B3) (dr : B2) (b : Reg) (g : Byte) (sc : Scope) : List (Instr × Nat) :=
  [(.collAllred t dr b g sc, 0), (.collReduce t dr b g sc, 1), (.collBcast t dr b g sc, 2), (.collGather t dr b g sc, 3),
   (.collRscat t dr b g sc, 4), (.collRot t dr b g sc, 5), (.collProg t dr b g sc, 6)]

end Sys2Proof.Spec

/-- 15 R404, R405: a run of COLL on an undefined group raises GRPUNDEF, from outside the group's crew CREWNM; with its object and the room for
the result beside it, it records the member's arrival, once the release is over and its drain, if any, has been written, and the crew controller
looks whether it was the last (`State.recount`); with a member still to arrive for each group the arrival is all that changes. -/
def Obligations.CollectivesRecordTheArrival : Prop :=
  ∀ (s : State) (t : B3) (dr : B2) (b : Reg) (g : Byte) (sc : Scope) (i : Instr) (op : Nat) (key p : Nat),
    (i, op) ∈ Spec.colls t dr b g sc → s.frag.valid = true → s.cw.pair = none → (Tbl.find s.ctxs s.cw.ctx).isSome →
    let x := s.group s.cw.ctx g.toNat
    let v := s.sreg b
    let arrival := fun bad : Nat × Nat =>
      ({ group := g.toNat, crew := gdCrew x.desc, w := s.cur, bad := bad.1, badCol := bad.2, use := x.use, min_ := BitVec.ofNat 6 (op + 8 * dr.toNat)
         obj := key, scope := sc, launch := s.cw.launch } : CollArr)
    let arrives := fun (u : State) bad => ∃ (q : State) (r : Watch),
      q = u.modCtx s.cw.ctx (fun c => { c with colls := c.colls ++ [arrival bad] }) ∧
      exec i s = .next ((q.recount s.cw.ctx (gdCrew x.desc)).setW r) ∧ r = { (q.recount s.cw.ctx (gdCrew x.desc)).cw with split := r.split } ∧
      Advances i (q.recount s.cw.ctx (gdCrew x.desc)).cw r s.ent ∧
      ∀ y, q.crew s.cw.ctx (gdCrew x.desc) = some y → (∃ m ∈ y.members, m.arrived = false) →
        (∀ h, ∃ m ∈ y.members, m.faulted = false ∧ ∀ a ∈ (q.ctx s.cw.ctx).colls, a.group = h → a.w ≠ m.w) →
        q.recount s.cw.ctx (gdCrew x.desc) = q
    (x.def_ = false → exec i s = .next (s.trap { cause := 0x47 })) ∧
    (x.def_ = true → s.isMember (gdCrew x.desc) = false → exec i s = .next (s.trap { cause := 0x21 })) ∧
    (x.def_ = true → s.isMember (gdCrew x.desc) = true → Spec.NamesObject s false b (some key) → s.coreColumn s.cw v = some p →
      offOf v + 48 ≤ (s.layout s.cw.ctx p).scratch → s.lockHit s.cw.ctx p 1 (offOf v + 16) 32 true = false → s.released .rel sc = true →
      (dr = 0 → arrives s (0, 0)) ∧
      (dr ≠ 0 → s.cw.mat = none → ∀ u code, s.drain x.desc (gdCrew x.desc) t.toNat (dr == 2) = some (u, code) → code.1 ≠ 255 → arrives u code))

/-- 15 R402, R403: DEFINE reads the descriptor and its chunk program, each under the checks of its address, raises GRPDESC where they break a rule,
waits for the group's run and for DRAIN = 0, and gives the group a new use, which is aborted from the start where an ABORT for it has come (log
89); RELEASE and ABORT of a defined group clear it or abort its use. -/
def Sys2Proof.Spec.GroupsAreDefinedAndReleased : Prop :=
  ∀ (s : State) (b : Reg) (g : Byte) (sc : Scope), s.frag.valid = true → s.cw.pair = none → (Tbl.find s.ctxs s.cw.ctx).isSome →
    let cx := s.cw.ctx
    let x := s.group cx g.toNat
    let becomes := fun (i : Instr) (y : Group) => ∃ r, exec i s = .next r ∧ r.group cx g.toNat = y ∧ r.mem = s.mem ∧
      (∀ k, k ≠ g.toNat → r.group cx k = s.group cx k) ∧ r.cw = { s.cw with split := r.cw.split } ∧ Advances i s.cw r.cw s.ent
    (∀ acc d prog, s.prep s.cw.home (Spec.descReq 64 [0, 1]) (s.sreg b) = .ok acc → Spec.ReadsFirst (.collDefine b g sc) s acc 64 fun v =>
      let n := 8 + gdCount (wordsOf 8 v)
      s.checkAddr s.cw s.cw.home { Spec.descReq 64 [0, 1] with size := 8 * n } (s.sreg b) = none →
      s.readWords (Spec.descReq 64 [0, 1]) (s.sreg b) n = .ok d →
      (groupBad d = true → exec (.collDefine b g sc) s = .next (s.trap { cause := 0x45 })) ∧
      let code := s.checkAddr s.cw s.cw.home { Spec.descReq 8 [0] with size := 8 * gdPlen d } (gdProg d)
      (groupBad d = false → gdProg d ≠ 0 → ∀ f, code = some f →
        exec (.collDefine b g sc) s = .next (s.trap { cause := f.cause, addr := gdProg d })) ∧
      (groupBad d = false → gdProg d = 0 ∨ code = none → s.readWords (Spec.descReq 8 [0]) (gdProg d) (gdPlen d) = .ok prog →
        (gdProg d ≠ 0 → progBad (gdPlen d) (prog.head?.getD 0) = true → exec (.collDefine b g sc) s = .next (s.trap { cause := 0x45 })) ∧
        (gdProg d = 0 ∨ progBad (gdPlen d) (prog.head?.getD 0) = false →
          (s.groupBusy cx g.toNat = true → exec (.collDefine b g sc) s = .next s) ∧
          (s.groupBusy cx g.toNat = false → s.released .rel sc = true →
            becomes (.collDefine b g sc) {
              def_ := true, use := x.use + 1, run := 0, step := 0, desc := d, prog := prog, abt := decide (x.use + 1 ∈ x.ahead)
              ahead := x.ahead.filter fun u => decide (2 ≤ (u - x.use).toNat ∧ (u - x.use).toNat < 129) })))) ∧
    (x.def_ = false → exec (.collRelease g sc) s = .next (s.trap { cause := 0x47 }) ∧ exec (.collAbort g sc) s = .next (s.trap { cause := 0x47 })) ∧
    (x.def_ = true → s.groupBusy cx g.toNat = true → exec (.collRelease g sc) s = .next s) ∧
    (x.def_ = true → s.groupBusy cx g.toNat = false → s.released .rel sc = true → becomes (.collRelease g sc) { x with def_ := false }) ∧
    (x.def_ = true → s.released .rel sc = true → becomes (.collAbort g sc) { x with abt := true })

/-! ## The lane instructions (01 R28 to R33, 05 R133 to R165) -/

namespace Sys2Proof.Spec
open Sys2Proof.Machine

/-- How many of an instruction's selectors name queue q (02 R48). -/
def popsQ (o : LaneOps) (q : Nat) : Nat := [o.a, o.b, o.c].countP fun x => x.toNat = 392 + q

/-- How often the chain of the running lane instruction has popped queue q in lane l once the instruction has issued (01 R32). -/
def popsAfter (o : LaneOps) (s : State) (q l : Nat) : Nat :=
  s.chain.popsAt q l + if (s.active o).getLsbD l then popsQ o q else 0

/-- The running lane instruction issues with a latch value: from `s` to `t` only the chain, the V and P registers and, where the
instruction ends its chain, what the chain leaves behind have changed. Within the chain the latch is appended and the pops are counted;
at its end the chain leaves the lane issue queue, the queue heads and the generators move as its pops and draws say, and the operations
that it kept issue (01 R28 to R33). -/
def LaneStep (o : LaneOps) (s t : State) (g : Row) (latch : Option Row64) : Prop :=
  t = { s.setW t.cw with cores := t.cores, next := t.next, seq := t.seq } ∧
  t.cw = { s.cw with
    v := t.cw.v, p := t.cw.p, chain := t.cw.chain, gen := t.cw.gen, lq := t.cw.lq, q := t.cw.q, ops := t.cw.ops } ∧
  (s.lane.last = false → t.cores = s.cores ∧ t.cw.gen = s.cw.gen ∧ t.cw.lq = s.cw.lq ∧ t.cw.q = s.cw.q ∧ t.cw.ops = s.cw.ops ∧
    ∃ c, t.cw.chain = some c ∧ c.latches = s.chain.latches ++ [latch] ∧ c.gen = g ∧
      ∀ q l, q < 8 → l < 64 → c.popsAt q l = popsAfter o s q l) ∧
  (s.lane.last = true → t.cw.chain = none ∧ t.cw.gen = g ∧ t.cw.lq = s.cw.lq.drop (s.lane.pos + 1) ∧
    (∃ more, t.cw.ops = s.cw.ops ++ more ∧ more.length = s.chain.ops.length) ∧
    (∀ q l, q < 8 → l < 64 → (t.cw.queue q).popc[l]? = ((s.cw.queue q).popc[l]?.map (· + popsAfter o s q l)) ∧
      (t.cw.queue q).elems[l]? = ((s.cw.queue q).elems[l]?.map (·.drop (popsAfter o s q l)))))

/-- The value of a 32-bit source in lane l (05 R133): a V register, the low half of a latch, the next element of a queue, the literal or
the low half of the captured scalar. -/
def source (o : LaneOps) (s : State) (i l : Nat) : W32 :=
  let x := (selAt o i).toNat
  if x < 384 then rowAt (s.cw.vreg x) l
  else if x < 392 then (row64At (s.latch (x - 384)) l).setWidth 32
  else if x < 400 then
    match (((s.cw.queue (x - 392)).elems[l]?).getD [])[s.chain.popsAt (x - 392) l + ((List.range i).countP fun j => selAt o j = selAt o i)]? with
    | some (.val v) => v
    | _ => 0
  else if x = 416 then o.lit
  else if 448 ≤ x then (s.scalarOf i).setWidth 32
  else 0

/-- The 32-bit value that lane l of V[d] holds after an instruction of result `r` (01 R30, 05 R134). -/
def written (o : LaneOps) (s : State) (r : Nat → W32) (l : Nat) : W32 :=
  if (s.active o).getLsbD l && !o.nw then r l else rowAt (s.cw.vreg o.d.toNat) l

/-- The latch that a 32-bit result leaves (01 R29): inactive lanes take the destination's old value, or zero under NW. -/
def latched (o : LaneOps) (s : State) (r : Nat → W32) : Row64 :=
  Vector.ofFn fun l => (if (s.active o).getLsbD l then r l else if o.nw then 0 else rowAt (s.cw.vreg o.d.toNat) l).setWidth 64

/-- `i` completes with the 32-bit result `r` in its active lanes: V[d] there, unless NW, and the latch; no other V register and no P
register changes, nor anything else but the chain. -/
def LaneWrites (i : Instr) (o : LaneOps) (s : State) (g : Row) (r : Nat → W32) : Prop :=
  ∃ t, exec i s = .next t ∧ LaneStep o s t g (some (latched o s r)) ∧ t.cw.p = s.cw.p ∧
    (∀ l, l < 64 → rowAt (t.cw.vreg o.d.toNat) l = written o s r l) ∧ ∀ n, n ≠ o.d.toNat → t.cw.vreg n = s.cw.vreg n

/-- `i` completes with the 64-bit result `r`: its halves in V[d] and V[d+1] in the active lanes, unless NW, and the latch. -/
def LaneWritesPair (i : Instr) (o : LaneOps) (s : State) (g : Row) (r : Nat → Word) : Prop :=
  let d := o.d.toNat
  ∃ t latch, exec i s = .next t ∧ LaneStep o s t g (some latch) ∧ t.cw.p = s.cw.p ∧
    (∀ l, l < 64 → row64At latch l = if (s.active o).getLsbD l then r l else if o.nw then 0
      else rowAt (s.cw.vreg (d + 1)) l ++ rowAt (s.cw.vreg d) l) ∧
    (∀ l, l < 64 → rowAt (t.cw.vreg d) l = written o s (fun l => (r l).setWidth 32) l ∧
      rowAt (t.cw.vreg (d + 1)) l = if (s.active o).getLsbD l && !o.nw then (r l).extractLsb' 32 32 else rowAt (s.cw.vreg (d + 1)) l) ∧
    ∀ n, n ≠ d → n ≠ d + 1 → t.cw.vreg n = s.cw.vreg n

/-- `i` completes with the predicate result `r`: the active lanes of P[d], the others as before, and no latch value (05 R140). -/
def LaneWritesPred (i : Instr) (o : LaneOps) (s : State) (r : Nat → Bool) : Prop :=
  let n := o.d.setWidth 4
  ∃ t, exec i s = .next t ∧ LaneStep o s t s.chain.gen none ∧ t.cw.v = s.cw.v ∧
    (n ≠ 0 → ∀ l, l < 64 → (t.cw.preg n).getLsbD l = if (s.active o).getLsbD l then r l else (s.cw.preg n).getLsbD l) ∧
    ∀ k, k ≠ n → t.cw.preg k = s.cw.preg k

/-- An integer held within the signed 32-bit range (00 R9). -/
def sat32 (x : Int) : W32 := BitVec.ofInt 32 (max (-2 ^ 31) (min (2 ^ 31 - 1) x))

/-- The table of 05 R136 to R139 and R141's MOV, for the sources a, b, c and the old destination d of one lane. -/
def intLane (a b c d : W32) : Instr → Option (LaneOps × W32)
  | .iadd o => some (o, BitVec.ofNat 32 (a.toNat + b.toNat))
  | .isub o => some (o, BitVec.ofInt 32 (a.toInt - b.toInt))
  | .imul o => some (o, BitVec.ofNat 32 (a.toNat * b.toNat))
  | .imulh o => some (o, BitVec.ofInt 32 (a.toInt * b.toInt / 2 ^ 32))
  | .imulhu o => some (o, BitVec.ofNat 32 (a.toNat * b.toNat / 2 ^ 32))
  | .imin o => some (o, BitVec.ofInt 32 (min a.toInt b.toInt))
  | .imax o => some (o, BitVec.ofInt 32 (max a.toInt b.toInt))
  | .iminu o => some (o, BitVec.ofNat 32 (min a.toNat b.toNat))
  | .imaxu o => some (o, BitVec.ofNat 32 (max a.toNat b.toNat))
  | .iand o => some (o, a &&& b)
  | .ior o => some (o, a ||| b)
  | .ixor o => some (o, a ^^^ b)
  | .laneShl o => some (o, BitVec.ofNat 32 (a.toNat * 2 ^ (b.toNat % 32)))
  | .laneShr o => some (o, BitVec.ofNat 32 (a.toNat / 2 ^ (b.toNat % 32)))
  | .laneSar o => some (o, BitVec.ofInt 32 (a.toInt / 2 ^ (b.toNat % 32)))
  | .rot o => some (o, BitVec.ofNat 32 (a.toNat * 2 ^ (b.toNat % 32)) ||| BitVec.ofNat 32 (a.toNat / 2 ^ (32 - b.toNat % 32)))
  | .iadds o => some (o, sat32 (a.toInt + b.toInt))
  | .isubs o => some (o, sat32 (a.toInt - b.toInt))
  | .iabs o => some (o, if o.md.getLsbD 0 then sat32 |a.toInt| else BitVec.ofInt 32 |a.toInt|)
  | .ineg o => some (o, if o.md.getLsbD 0 then sat32 (-a.toInt) else BitVec.ofInt 32 (-a.toInt))
  | .inot o => some (o, BitVec.ofNat 32 (2 ^ 32 - 1 - a.toNat))
  | .lanePopc o => some (o, BitVec.ofNat 32 ((List.range 32).countP fun i => a.getLsbD i))
  | .laneClz o => some (o, BitVec.ofNat 32 (if a = 0 then 32 else 31 - Nat.log2 a.toNat))
  | .laneBrev o => some (o, BitVec.ofFnLE fun i : Fin 32 => a.getLsbD (31 - i.val))
  | .laneMov o => some (o, a)
  | .imad o => some (o, BitVec.ofNat 32 (a.toNat * b.toNat + c.toNat))
  | .dot4 o =>
    let v := c.toInt + ((List.range 4).map fun i => (a.extractLsb' (8 * i) 8).toInt * (b.extractLsb' (8 * i) 8).toInt).sum
    some (o, if o.md.getLsbD 0 then sat32 v else BitVec.ofInt 32 v)
  | .bfx o =>
    let p := b.toNat % 32
    let n := min (c.toNat % 64) (32 - p)
    let v := a.toNat / 2 ^ p % 2 ^ n
    some (o, if o.md.getLsbD 0 ∧ 0 < n ∧ a.getLsbD (p + n - 1) then BitVec.ofInt 32 ((v : Int) - 2 ^ n) else BitVec.ofNat 32 v)
  | .bfi o =>
    let p := b.toNat % 32
    let n := min (c.toNat % 64) (32 - p)
    some (o, BitVec.ofFnLE fun i : Fin 32 => if p ≤ i.val ∧ i.val < p + n then a.getLsbD (i.val - p) else d.getLsbD i.val)
  | _ => none

end Sys2Proof.Spec

/-- 05 R133, R134, R136 to R139, 01 R28 to R33: every integer lane instruction of a 32-bit result writes what the table gives, in its
active lanes. -/
def Obligations.IntegerLanesWriteTheirResult : Prop :=
  ∀ (i : Instr) (o : LaneOps) (s : State) (r : Nat → W32),
    (∀ l, l < 64 → Spec.intLane (Spec.source o s 0 l) (Spec.source o s 1 l) (Spec.source o s 2 l) (rowAt (s.cw.vreg o.d.toNat) l) i
      = some (o, r l)) → Spec.LaneWrites i o s s.chain.gen r

namespace Sys2Proof.Spec
open Sys2Proof.Machine

/-- The FP32 result of an exact value (03 R77, R80) under the rounding mode and FTZ of an instruction. -/
def f32Of (o : LaneOps) (v : Val) : W32 := BitVec.ofNat 32 (flushCode .f32 (o.md.getLsbD 2) (roundVal .f32 (rmOf o.md) false v))

/-- A source in FP32 (03 R80). -/
def f32In (o : LaneOps) (a : W32) : Val := readVal .f32 (o.md.getLsbD 2) a.toNat

/-- Both halves of a packed instruction by one operation (05 R148): FP16 where TYPE is 1, BF16 where it is 2. -/
def halvesOf (o : LaneOps) (f : Fm → Nat → Nat → Nat → Nat) (a b c : W32) : W32 :=
  let g := f (if o.ty = 2 then .bf16 else .f16)
  BitVec.ofNat 16 (g (a.toNat / 2 ^ 16) (b.toNat / 2 ^ 16) (c.toNat / 2 ^ 16)) ++
    BitVec.ofNat 16 (g (a.toNat % 2 ^ 16) (b.toNat % 2 ^ 16) (c.toNat % 2 ^ 16))

/-- The rounded sum, product and fused product of packed halves. -/
def hres (o : LaneOps) (f : Fm) (v : Val) : Nat := flushCode f (o.md.getLsbD 2) (roundVal f (rmOf o.md) false v)
def hin (o : LaneOps) (f : Fm) (a : Nat) : Val := readVal f (o.md.getLsbD 2) a

/-- The table of 05 R143, R144, R146 to R150: each result is the rounded exact value of 03, or the choice that the table states. -/
def floatLane (a b c : W32) : Instr → Option (LaneOps × W32)
  | .fadd o => some (o, f32Of o (addVal (rmOf o.md = .rdn) (f32In o a) (f32In o b)))
  | .fsub o => some (o, f32Of o (if (f32In o b).isNan then addVal (rmOf o.md = .rdn) (f32In o a) (f32In o b)
      else addVal (rmOf o.md = .rdn) (f32In o a) (f32In o b).negate))
  | .fmul o => some (o, f32Of o (mulVal (f32In o a) (f32In o b)))
  | .ffma o => some (o, f32Of o (fmaVal (rmOf o.md = .rdn) (f32In o a) (f32In o b) (f32In o c)))
  | .fmin o => some (o, BitVec.ofNat 32 (fpPick .f32 false (o.md.getLsbD 2) a.toNat b.toNat))
  | .fmax o => some (o, BitVec.ofNat 32 (fpPick .f32 true (o.md.getLsbD 2) a.toNat b.toNat))
  | .fabs o => some (o, BitVec.ofNat 32 (flushCode .f32 (o.md.getLsbD 2) a.toNat % 2 ^ 31))
  | .fneg o => some (o, BitVec.ofNat 32 (flushCode .f32 (o.md.getLsbD 2) a.toNat + 2 ^ 31))
  | .fclass o => some (o, fclassCode a)
  | .frint o => some (o, frintCode (rmOf o.md) (o.md.getLsbD 2) a)
  | .hadd2 o => some (o, halvesOf o (fun f x y _ => hres o f (addVal (rmOf o.md = .rdn) (hin o f x) (hin o f y))) a b c)
  | .hmul2 o => some (o, halvesOf o (fun f x y _ => hres o f (mulVal (hin o f x) (hin o f y))) a b c)
  | .hfma2 o => some (o, halvesOf o (fun f x y z => hres o f (fmaVal (rmOf o.md = .rdn) (hin o f x) (hin o f y) (hin o f z))) a b c)
  | .hmin2 o => some (o, halvesOf o (fun f x y _ => fpPick f false (o.md.getLsbD 2) x y) a b c)
  | .hmax2 o => some (o, halvesOf o (fun f x y _ => fpPick f true (o.md.getLsbD 2) x y) a b c)
  | .rcp o => some (o, rcpCode o.md a)
  | .rsq o => some (o, rsqCode o.md a)
  | .sqrt o => some (o, sqrtCode o.md a)
  | .exp2 o => some (o, exp2Code o.md a)
  | .log2 o => some (o, log2Code o.md a)
  | .sin o => some (o, sinCode o.md a)
  | .cos o => some (o, cosCode o.md a)
  | .tanh o => some (o, tanhCode o.md a)
  | .sigm o => some (o, sigmCode o.md a)
  | _ => none

end Sys2Proof.Spec

/-- 05 R143, R144, R146 to R150: every floating lane instruction of a 32-bit result writes what the table gives, in its active lanes. The
special functions' inexact results are free (05 R149; log 10), and the statement holds for any. -/
def Obligations.FloatLanesWriteTheirResult : Prop :=
  ∀ (i : Instr) (o : LaneOps) (s : State) (r : Nat → W32),
    (∀ l, l < 64 → Spec.floatLane (Spec.source o s 0 l) (Spec.source o s 1 l) (Spec.source o s 2 l) i = some (o, r l)) →
    Spec.LaneWrites i o s s.chain.gen r

namespace Sys2Proof.Spec
open Sys2Proof.Machine

/-- The value of a 64-bit source in lane l (05 R133), of a V register pair, a latch, an element, the literal or the captured scalar. -/
def source64 (o : LaneOps) (s : State) (i l : Nat) : Word :=
  let x := (selAt o i).toNat
  if x < 384 then rowAt (s.cw.vreg (x + 1)) l ++ rowAt (s.cw.vreg x) l
  else if x < 392 then row64At (s.latch (x - 384)) l
  else if x < 400 then (source o s i l).setWidth 64
  else if x = 416 then o.lit.signExtend 64
  else if 448 ≤ x then s.scalarOf i
  else 0

/-- The conditions of ICMP and FCMP by the order of the operands (02 R50). -/
def holdsFor (c : Nat) (lt eq : Bool) : Bool :=
  if c = 0 then eq else if c = 1 then !eq else if c = 2 then lt else if c = 3 then lt || eq else if c = 4 then !lt && !eq
  else if c = 5 then !lt else false

end Sys2Proof.Spec

/-- 05 R138, R140, R141, R142, R145: IADDC and IMULW write a register pair; ICMP and FCMP write a predicate; SEL chooses by a predicate; LID
writes the lane's number, its place in the column, the column's PCN or its LCN. -/
def Obligations.WideComparingAndNamingLanes : Prop :=
  ∀ (s : State) (o : LaneOps),
    Spec.LaneWritesPair (.iaddc o) o s s.chain.gen
      (fun l => BitVec.ofNat 64 ((Spec.source64 o s 0 l).toNat + (Spec.source64 o s 1 l).toNat)) ∧
    Spec.LaneWritesPair (.imulw o) o s s.chain.gen (fun l =>
      if o.ty = 7 then BitVec.ofNat 64 ((Spec.source o s 0 l).toNat * (Spec.source o s 1 l).toNat)
      else BitVec.ofInt 64 ((Spec.source o s 0 l).toInt * (Spec.source o s 1 l).toInt)) ∧
    Spec.LaneWritesPred (.icmp o) o s (fun l =>
      let a := Spec.source o s 0 l
      let b := Spec.source o s 1 l
      Spec.holdsFor (o.md.toNat % 8) (if o.ty = 7 then a.toNat < b.toNat else a.toInt < b.toInt) (a = b)) ∧
    Spec.LaneWritesPred (.fcmp o) o s (fun l =>
      let a := readVal .f32 (o.md.getLsbD 4) (Spec.source o s 0 l).toNat
      let b := readVal .f32 (o.md.getLsbD 4) (Spec.source o s 1 l).toNat
      if a.isNan || b.isNan then o.md.getLsbD 3 || o.md.toNat % 8 = 1
      else Spec.holdsFor (o.md.toNat % 8) (cmpVal a b < 0) (cmpVal a b = 0)) ∧
    Spec.LaneWrites (.sel o) o s s.chain.gen (fun l =>
      if (s.cw.preg (o.c.setWidth 4)).getLsbD l then Spec.source o s 0 l else Spec.source o s 1 l) ∧
    Spec.LaneWrites (.lid o) o s s.chain.gen (fun l => BitVec.ofNat 32 (
      if o.md.toNat % 4 = 0 then l else if o.md.toNat % 4 = 1 then l % 16 else if o.md.toNat % 4 = 2 then s.cw.pcnOf l
      else (s.ctx s.cw.ctx).lcn (s.cw.pcnOf l)))

namespace Sys2Proof.Spec
open Sys2Proof.Machine

/-- Element e of width w of a register (03 R72), and that element replaced. -/
def element (w : Nat) (x : W32) (e : Nat) : Nat := x.toNat / 2 ^ (e * w) % 2 ^ w
def replaced (w : Nat) (x : W32) (e v : Nat) : W32 :=
  BitVec.ofFnLE fun i : Fin 32 => if e * w ≤ i.val ∧ i.val < (e + 1) * w then v.testBit (i.val - e * w) else x.getLsbD i.val

/-- The generators after n draws in each active lane, where RM is 4 (03 R83, R85). -/
def drawn (o : LaneOps) (s : State) (n : Nat) : Row :=
  Vector.ofFn fun l => if cvRm o.lit = 4 ∧ (s.active o).getLsbD l then Nat.iterate stepGen n (rowAt s.chain.gen l) else rowAt s.chain.gen l

/-- A conversion under the conversion word of an instruction, with the generators as `g` has them (05 R151, R152). -/
def convIn (o : LaneOps) (g : Row) (l c : Nat) : Nat :=
  convElem o.ty (cvDtype o.lit) (rmCode (cvRm o.lit) (rowAt g l)) (cvSat o.lit) (cvFtz o.lit) c

end Sys2Proof.Spec

/-- 05 R151 to R155, R157, 03 R72, R83 to R86: CVT, PACK and UNPK convert elements, each conversion with stochastic rounding drawing once from the lane's
generator; SCALE writes its scale. UNPK takes SR too and draws twice, for element EIDX first (DEDUCED, log 65); PACK under NW reads V0 as its old
destination (DESIGN CHOICE, log 25). -/
def Sys2Proof.Spec.ConversionsWriteTheirResult : Prop :=
  ∀ (s : State) (o : LaneOps),
    let w := tyWidth o.ty
    let d := tyWidth (cvDtype o.lit)
    Spec.LaneWrites (.cvt o) o s (Spec.drawn o s 1) (fun l =>
      BitVec.ofNat 32 (Spec.convIn o (Spec.drawn o s 1) l (Spec.element w (Spec.source o s 0 l) (cvIdx o.lit)))) ∧
    ((d = 4 ∨ d = 8 ∨ d = 16) → (cvIdx o.lit + 2) * d ≤ 32 → Spec.LaneWrites (.pack o) o s (Spec.drawn o s 2) (fun l =>
      let a := Spec.convIn o (Spec.drawn o s 1) l (Spec.element w (Spec.source o s 0 l) 0)
      let b := Spec.convIn o (Spec.drawn o s 2) l (Spec.element w (Spec.source o s 1 l) 0)
      Spec.replaced d (Spec.replaced d (rowAt (s.cw.vreg o.d.toNat) l) (cvIdx o.lit) a) (cvIdx o.lit + 1) b)) ∧
    Spec.LaneWritesPair (.unpk o) o s (Spec.drawn o s 2) (fun l =>
      BitVec.ofNat 32 (Spec.convIn o (Spec.drawn o s 2) l (Spec.element w (Spec.source o s 0 l) (cvIdx o.lit + 1))) ++
        BitVec.ofNat 32 (Spec.convIn o (Spec.drawn o s 1) l (Spec.element w (Spec.source o s 0 l) (cvIdx o.lit)))) ∧
    Spec.LaneWrites (.scale o) o s s.chain.gen (fun l => scaleLane o (Spec.source o s 0 l) (Spec.source o s 1 l))

/-- 05 R156: QNT writes the converted product in each active lane that is no outlier; an outlier's element becomes 0, its bit of the mask predicate 1, and
its value enters the side list in lane order. Under NW the old destination is V0 (DESIGN CHOICE, log 25). -/
def Sys2Proof.Spec.QntSeparatesOutliers : Prop :=
  ∀ (s : State) (o : LaneOps),
    let x := o.lit
    let t := cvDtype x
    let n := BitVec.ofNat 4 (cvOmask x)
    let v (l : Nat) : Val := readVal (if o.ty = 2 then .bf16 else .f32) (cvFtz x) (Spec.element (tyWidth o.ty) (Spec.source o s 0 l) 0)
    let out (l : Nat) : Bool := outlier (v l) (readVal .f32 (cvFtz x) (Spec.source o s 2 l).toNat)
    let f : Fm := if cvSideFmt x then .f16 else .bf16
    let act := (List.range 64).filter (s.active o).getLsbD
    let outs := act.filter out
    (o.ty = 0 ∨ o.ty = 2) → (t = 3 ∨ t = 4 ∨ t = 5 ∨ t = 8) → n ≠ 0 → cvIdx x < 32 / tyWidth t → (cvSide x ≠ o.d.toNat ∨ o.nw = true) →
    ∃ u g latch, exec (.qnt o) s = .next u ∧ Spec.LaneStep o s u g (some latch) ∧
      (∀ l, l < 64 → rowAt g l = if (s.active o).getLsbD l ∧ out l = false ∧ cvRm x = 4 then stepGen (rowAt s.chain.gen l)
        else rowAt s.chain.gen l) ∧
      (o.nw = false → ∀ l, l < 64 → rowAt (u.cw.vreg o.d.toNat) l =
        if (s.active o).getLsbD l = false then rowAt (s.cw.vreg o.d.toNat) l
        else Spec.replaced (tyWidth t) (rowAt (s.cw.vreg o.d.toNat) l) (cvIdx x) (if out l then 0
          else convVal t (rmCode (cvRm x) (rowAt g l)) (cvSat x) (mulVal (v l) (readVal .f32 (cvFtz x) (Spec.source o s 1 l).toNat)))) ∧
      (∀ l, l < 64 → (u.cw.preg n).getLsbD l = if (s.active o).getLsbD l then out l else (s.cw.preg n).getLsbD l) ∧
      (∀ k j l, outs[k]? = some j → act[k / 2]? = some l → Spec.element 16 (rowAt (u.cw.vreg (cvSide x)) l) (k % 2)
        = flushCode f (cvFtz x) (roundVal f .rne false (v j)) % 2 ^ 16) ∧
      (∀ l h, l < 64 → h < 2 → (∀ k, k < outs.length → act[k / 2]? = some l → k % 2 ≠ h) →
        Spec.element 16 (rowAt (u.cw.vreg (cvSide x)) l) h = Spec.element 16 (rowAt (s.cw.vreg (cvSide x)) l) h) ∧
      (∀ k, k ≠ cvSide x → (o.nw = true ∨ k ≠ o.d.toNat) → u.cw.vreg k = s.cw.vreg k) ∧ ∀ k, k ≠ n → u.cw.preg k = s.cw.preg k

namespace Sys2Proof.Spec
open Sys2Proof.Machine

/-- The size of the segments of a cross-lane instruction (05 R159). -/
def segment (o : LaneOps) (s : State) : Nat :=
  let c := o.lit.toNat / 2 ^ 10 % 4
  if c = 0 then s.cw.width else if c = 1 then 16 else if c = 2 then 32 else 64

/-- The active lanes of lane l's segment that are below a bound, ascending. -/
def segmentLanes (o : LaneOps) (s : State) (l hi : Nat) : List Nat :=
  (List.range 64).filter fun j => (s.active o).getLsbD j && decide (j / segment o s = l / segment o s) && decide (j < hi)

/-- The source lane of SHFL (05 R161): by index, up, down, by exchange, by rotation. -/
def shuffled (n mode k : Nat) (b : W32) (l : Nat) : Nat :=
  if mode = 0 then l / n * n + b.toNat % n
  else if mode = 1 then (if k ≤ l % n then l - k else l)
  else if mode = 2 then (if l % n + k < n then l + k else l)
  else if mode = 3 then l / n * n + ((l % n) ^^^ k)
  else l / n * n + (l % n + k) % n

end Sys2Proof.Spec

/-- 05 R159 to R165: SHFL takes another lane's value, BALLOT a predicate's bits, BPLANE a count of matching keys; VRED and VSCAN reduce the
segment's active lanes, or those up to the lane, in ascending order. -/
def Obligations.CrossLaneResults : Prop :=
  ∀ (s : State) (o : LaneOps),
    let a := Spec.source o s 0
    Spec.LaneWrites (.shfl o) o s s.chain.gen (fun l =>
      let j := Spec.shuffled (Spec.segment o s) (o.lit.toNat % 8) (o.lit.toNat / 2 ^ 4 % 64) (Spec.source o s 1 l) l
      if j < 64 then a j else 0) ∧
    Spec.LaneWrites (.ballot o) o s s.chain.gen (fun _ =>
      let v := s.cw.preg (o.a.setWidth 4) &&& s.active o
      if o.md.getLsbD 0 then v.extractLsb' 32 32 else v.setWidth 32) ∧
    Spec.LaneWrites (.bplane o) o s s.chain.gen (fun l =>
      let k := (Spec.source o s 1 l).toNat % 32
      let key (j : Nat) : W32 := if o.ty = 6 then a j ^^^ 0x80000000 else a j
      BitVec.ofNat 32 ((List.range 64).countP fun j => (s.active o).getLsbD j &&
        decide ((key j).toNat / 2 ^ (k + 1) = (Spec.source o s 2 l).toNat / 2 ^ (k + 1)) && (key j).getLsbD k)) ∧
    (∀ i, (i = .vred o ∨ i = .vscan o) → Spec.LaneWrites i o s s.chain.gen (fun l =>
      let op := o.lit.toNat % 8
      let hi := if i = .vred o then 64 else if o.lit.getLsbD 3 then l else l + 1
      match Spec.segmentLanes o s l hi with
      | [] => redUnit op o.ty
      | j :: rest => rest.foldl (fun x k => redStep op o.ty x (a k)) (a j)))

/-! ## The memory and matrix instructions of lanes (06 R179 to R190, 10 R283 to R286, 05 R158, 07 R207 to R215) -/

namespace Sys2Proof.Spec
open Sys2Proof.Machine

/-- What one lane of a memory instruction comes to: the reason why it is switched off, or its accesses; none where an address does not
translate, which has its own outcome (12 R339, R340). -/
abbrev LaneAns := Option (Except AFail (List Acc))

/-- One address of a lane: its checks, then its translation (06 R179; 12 R339). -/
def addressOf (s : State) (r : AReq) (l : Nat) (ea : Word) : Option (Except AFail Nat) :=
  match s.checkAddr s.cw (s.cw.pcnOf l) { r with lane := some l } ea with
  | some f => some (.error f)
  | none => match s.placeOf s.cw (s.cw.pcnOf l) { r with lane := some l } ea with
    | .ok key _ => some (.ok key)
    | _ => none

/-- A lane with one access. -/
def oneAccess (s : State) (r : AReq) (l : Nat) (ea : Word) (data cmp : Nat) : LaneAns :=
  (addressOf s r l ea).map fun x => x.map fun key =>
    [{ lane := l, pcn := s.cw.pcnOf l, addr := ea, size := r.size, key := key, data := data, cmp := cmp }]

/-- The accesses of the active lanes, ascending, and the lanes that are switched off. -/
def accesses (o : LaneOps) (s : State) (ans : Nat → LaneAns) : List Acc :=
  ((List.range 64).filter (s.active o).getLsbD).flatMap fun l => match ans l with
    | some (.ok x) => x
    | _ => []
def failing (o : LaneOps) (s : State) (ans : Nat → LaneAns) : List (Nat × AFail) :=
  ((List.range 64).filter (s.active o).getLsbD).filterMap fun l => match ans l with
    | some (.error f) => some (l, f)
    | _ => none

/-- The watch with the failing lanes switched off (06 R180): off for the rest of the block, their bits in FMASK, and the first reason kept
since FMASK was zero. -/
def LanesOff (bad : List (Nat × AFail)) (x y : Watch) : Prop :=
  y = { x with off := y.off, fmask := y.fmask, fmwhy := y.fmwhy } ∧
  (∀ l, l < 64 → y.off.getLsbD l = (x.off.getLsbD l || bad.any fun b => b.1 == l) ∧
    y.fmask.getLsbD l = (x.fmask.getLsbD l || bad.any fun b => b.1 == l)) ∧
  y.fmwhy = match bad with
    | [] => x.fmwhy
    | b :: _ => if x.fmask = 0 then b.2.why else x.fmwhy

/-- The state with the operation `q` in flight under the next number, at its place in the watch's order. -/
def inFlight (u : State) (q : Op) (fifo : List StoreEnt) : State :=
  { u.setW { u.cw with ops := u.cw.ops ++ [{ q with id := u.next, seq := if q.seq = 0 then u.seq else q.seq }], fifo := u.cw.fifo ++ fifo } with
    next := u.next + 1, seq := u.seq + 1 }

/-- The lanes of a list of accesses. -/
def LanesAre (q : Op) : Prop := ∀ l, l < 64 → q.mask.getLsbD l = q.accs.any fun a => a.lane == l

/-- `i`, which ends its chain, completes: the lanes that fail their checks are switched off, and where a lane is left the operation `q`,
of those lanes' accesses, is in flight. -/
def MemIssues (i : Instr) (o : LaneOps) (s : State) (ans : Nat → LaneAns) (q : Op) (store : Bool) : Prop :=
  let accs := accesses o s ans
  ∃ y u m, LanesOff (failing o s ans) s.cw y ∧ LaneStep o (s.setW y) u s.chain.gen none ∧ u.cw.v = s.cw.v ∧ u.cw.p = s.cw.p ∧
    let p := { q with lane := true, ent := s.lane.ent, at_ := s.lane.index, seq := s.lane.seq, accs := accs, mask := m }
    (∀ l, l < 64 → m.getLsbD l = accs.any fun a => a.lane == l) ∧
    exec i s = .next (if accs = [] then u else inFlight u p (if store then accs.map fun a =>
      { op := u.next, lane := true, seq := if s.lane.seq = 0 then u.seq else s.lane.seq, acc := a } else []))

/-- In a redundant pair, `i`, which ends its chain, completes by forming a compare entry of its lanes that pass, also where no lane is left
(09 R275): nothing enters the store FIFO and no byte of memory changes. A leader waits where the entry would leave more than its slack awaiting
comparison. Where INJECT fires on the trailer, the operand of its lowest lane is XORed, and ARM clears (09 R279); an instruction without an
active lane it passes (log 88). -/
def MemCompares (i : Instr) (o : LaneOps) (s : State) (ans : Nat → LaneAns) (q : Op) (opcode : Nat) (store cas : Bool) : Prop :=
  ∀ p, s.cw.pair = some p →
    let accs := accesses o s ans
    (p.leads = true → p.slack < p.ents.length + 1 → exec i s = .next s) ∧
    ((p.leads = true → p.ents.length + 1 ≤ p.slack) → ∃ y u m, LanesOff (failing o s ans) s.cw y ∧
      LaneStep o (s.setW y) u s.chain.gen none ∧ u.cw.v = s.cw.v ∧ u.cw.p = s.cw.p ∧
      (∀ l, l < 64 → BitVec.getLsbD m l = accs.any fun a => a.lane == l) ∧
      let made := fun (accs : List Acc) => { q with
        lane := true, ent := s.lane.ent, at_ := s.lane.index, id := u.next, seq := if s.lane.seq = 0 then u.seq else s.lane.seq
        accs := accs, mask := m }
      let enters := fun (p : Pair) (accs : List Acc) =>
        { u.setW { u.cw with ops := u.cw.ops ++ [made accs], pair := some (withEntry p (entryOf opcode store cas (made accs))) } with
          next := u.next + 1, seq := u.seq + 1 }
      (accs = [] → exec i s = .next { u.setW { u.cw with pair := some (withEntry p (entryOf opcode store cas (made []))) } with
        next := u.next + 1 }) ∧
      (accs ≠ [] → Unharmed s p (!store) → exec i s = .next (enters p accs)) ∧
      (accs ≠ [] → ∀ l z, p.leads = false → p.partner ≠ s.cur → Tbl.find s.watches p.partner = some z → z.pair = some l →
        l.inj.getLsbD 0 = true → (l.inj.extractLsb' 1 2 = 1 ↔ store = false) →
        (p.injDone ≠ (l.inj.extractLsb' 8 8).toNat → exec i s = .next (enters { p with injDone := p.injDone + 1 } accs)) ∧
        (p.injDone = (l.inj.extractLsb' 8 8).toNat → ∃ t, exec i s = .next t ∧ t.mem = s.mem ∧
          t.cw = (enters p (harmed (l.inj.extractLsb' 32 32) accs)).cw ∧ Tbl.find t.watches p.partner = some { z with
            inject := if l.rearmed then z.inject else z.inject &&& ~~~1#64
            pair := some { l with inj := 0 } })))

/-- A path has room (06 R181). -/
def room (s : State) (p : Nat) : Prop := s.cw.pathCount p < 65535

end Sys2Proof.Spec

/-- 06 R179 to R185, R187: LD, ST, ATOM and FATOM of each kind put their accesses in flight in the active lanes whose addresses pass the
checks, on their paths; the lanes that fail are switched off; a store's bytes enter the store FIFO. In a redundant pair ST and ATOM form
compare entries instead, also where no lane is left (09 R275, R279). -/
def Obligations.LaneAccessesArePutInFlight : Prop :=
  ∀ (s : State) (o : LaneOps), s.lane.last = true →
    let z := o.md.toNat % 8
    let n := Spec.sizeBytes z
    let ea (l : Nat) : Word := Spec.displacedAddr (Spec.source64 o s 0 l) o.lit
    let act := (List.range 64).filter (s.active o).getLsbD
    (∀ ans : Nat → Spec.LaneAns, Spec.room s 0 → Spec.room s 1 →
      (∀ l ∈ act, ans l = Spec.oneAccess s { size := n, align := n, tags := [0, 1, 2, 4], dir := true } l (ea l) 0 0) →
      (∀ l ∈ act, (ans l).isSome) → ∃ ps, (∀ p, p ∈ ps ↔ ∃ a ∈ Spec.accesses o s ans, p = Spec.loadPath a.addr) ∧
        Spec.MemIssues (.ld o) o s ans { kind := .ld, paths := ps, d := o.d.toNat, size := z } false) ∧
    (∀ ans : Nat → Spec.LaneAns, Spec.room s 6 →
      (∀ l ∈ act, ans l = Spec.oneAccess s { size := n, align := n, store := true, tags := [0, 1, 2, 4], dir := true } l (ea l)
        (if z = 4 then ((List.range 4).map fun k => (rowAt (s.cw.vreg (o.b.toNat + k)) l).toNat * 2 ^ (32 * k)).sum
          else if z = 3 then (Spec.source64 o s 1 l).toNat else (Spec.source o s 1 l).toNat % 256 ^ n) 0) →
      (∀ l ∈ act, (ans l).isSome) →
      (s.cw.pair = none → Spec.MemIssues (.st o) o s ans { kind := .st, paths := [6], size := z } true) ∧
      Spec.MemCompares (.st o) o s ans { kind := .st, paths := [6], size := z } 0xA1 true false) ∧
    (∀ ans : Nat → Spec.LaneAns, Spec.room s 8 →
      (∀ l ∈ act, ans l = Spec.oneAccess s { atom := true } l (ea l) (Spec.source o s 1 l).toNat (Spec.source o s 2 l).toNat) →
      (∀ l ∈ act, (ans l).isSome) →
      let q : Op := { kind := .atom, paths := [8], d := o.d.toNat, nw := o.nw, size := 2, ty := o.ty.toNat, fn := o.md.toNat % 16 }
      (s.cw.pair = none → Spec.MemIssues (.atom o) o s ans q false) ∧
      Spec.MemCompares (.atom o) o s ans q 0xA2 false (decide (o.md.toNat % 16 = 9))) ∧
    (∀ (ans : Nat → Spec.LaneAns) (i : Instr) (k : Nat), (i = .fatom o ∧ k = 0 ∨ i = .fatomMore o ∧ k = 1 ∨ i = .fatomSkip o ∧ k = 2) →
      Spec.room s 8 →
      (∀ l ∈ act, ans l = Spec.oneAccess s { atom := true } l (ea l) (Spec.source o s 1 l).toNat 0) →
      (∀ l ∈ act, (ans l).isSome) → Spec.MemIssues i o s ans { kind := .fatom, paths := [8], fn := k } false)

namespace Sys2Proof.Spec
open Sys2Proof.Machine

/-- One lane of an ACPY (06 R190): the checks of the source, where it reads bytes, then those of the destination, which is looked up as it
is written. The source may cross into a second page, so its first and its last byte are translated. -/
def acpyAns (o : LaneOps) (s : State) (l : Nat) : LaneAns :=
  let n := if o.md.getLsbD 0 then min (source o s 2 l).toNat 32 else 32
  let src := displacedAddr (source64 o s 0 l) o.lit
  let dst := source64 o s 1 l
  let rd : AReq := { size := 32, align := 32, store := true, tags := [1, 2] }
  let acc (key last : Nat) : Acc :=
    { lane := l, pcn := s.cw.pcnOf l, addr := src, size := n, key := key, old := last, cmp := dst.toNat
      count := match s.placeOf s.cw (s.cw.pcnOf l) { rd with lane := some l } dst with
        | .ok k _ => k
        | _ => 0 }
  let place (ea : Word) : XRes := s.placeOf s.cw (s.cw.pcnOf l) { size := n, align := 4, tags := [0], lane := some l } ea
  if n = 0 then (match s.checkAddr s.cw (s.cw.pcnOf l) { rd with lane := some l } dst with
    | some f => some (.error f)
    | none => some (.ok [acc 0 0]))
  else
  match s.checkAddr s.cw (s.cw.pcnOf l) { size := n, align := 4, tags := [0], lane := some l } src with
  | some f => some (.error f)
  | none => match s.checkAddr s.cw (s.cw.pcnOf l) { rd with lane := some l } dst with
    | some f => some (.error f)
    | none => match place src, place (src + BitVec.ofNat 64 (n - 1)) with
      | .ok key _, .ok last _ => some (.ok [acc key last])
      | _, _ => none

/-- One lane of an XST (10 R285): its destinations, each a live column of the crew at whose window the offset fits. -/
def xstAns (o : LaneOps) (s : State) (cols : List Nat) (l : Nat) : LaneAns :=
  let n := if o.lit.getLsbD 20 then 8 else 4
  let off := (source o s 1 l).toNat
  let data := if o.lit.getLsbD 20 then (source64 o s 0 l).toNat else (source o s 0 l).toNat
  let rk := rankOf cols (s.lcnOf s.cw l)
  match s.xstTargets cols rk n off (xstRanks o.lit rk cols.length (source o s 2 l)) with
  | .error e => some (.error e)
  | .ok ps => some (.ok (ps.map fun p =>
      { lane := l, pcn := p, addr := BitVec.ofNat 64 (3 * 2 ^ 52 + 0x3FF * 2 ^ 42 + off), size := n, data := data }))

/-- m of AMAX (05 R158): over the active lanes, ascending, each element widened to FP32. -/
def largest (o : LaneOps) (s : State) : W32 :=
  ((List.range 64).filter (s.active o).getLsbD).foldl (fun m l => (amaxElems o.ty (source o s 0 l)).foldl amaxCode m) 0

end Sys2Proof.Spec

/-- 06 R190, 10 R283 to R286, 05 R158: ACPY puts its copies in flight on its own path and XST its stores on path 7, in the lanes that pass;
AMAX writes the largest magnitude to every active lane, and where it has an atomic keeps it until its chain completes. Log 78 (DEDUCED): the
atomic's address is checked and translated when the chain completes, where it issues: a lane that fails its check is switched off and makes no
atomic; one whose page is draining waits; and one that does not translate is held at the fault. -/
def Obligations.CopiesExchangesAndMaxima : Prop :=
  ∀ (s : State) (o : LaneOps) (cols : List Nat),
    let act := (List.range 64).filter (s.active o).getLsbD
    (s.lane.last = true → Spec.room s (2 + o.md.toNat / 2 % 4) → (∀ l ∈ act, (Spec.acpyAns o s l).isSome) →
      Spec.MemIssues (.acpy o) o s (Spec.acpyAns o s) { kind := .acpy, paths := [2 + o.md.toNat / 2 % 4] } false) ∧
    (s.lane.last = true → Spec.room s 7 → (s.crew s.cw.ctx (xstCrew o.lit)).map (·.cols) = some cols →
      Spec.MemIssues (.xst o) o s (Spec.xstAns o s cols) { kind := .xst, paths := [7] } false) ∧
    ((o.lit.getLsbD 0 = false ∨ s.active o = 0) → Spec.LaneWrites (.amax o) o s s.chain.gen (fun _ => Spec.largest o s)) ∧
    (∀ l rest, o.lit.getLsbD 0 = true → act = l :: rest → Spec.room s 8 →
      ∃ (m : Mask) (u : State), (∀ k, k < 64 → m.getLsbD k = decide (k = l)) ∧
        u = s.setW { s.cw with chain := some { s.chain with ops := s.chain.ops ++ [
          { kind := .amax, paths := [8], seq := s.lane.seq, lane := true, ent := s.lane.ent, at_ := s.lane.index, mask := m, nw := true
            size := 2, accs := [{ lane := l, pcn := s.cw.pcnOf l, addr := s.lane.sb, size := 4, pend := true
                                  data := (Spec.largest o s).toNat }] }] } } ∧
        ∃ t, exec (.amax o) s = .next t ∧ Spec.LaneStep o u t s.chain.gen (some (Spec.latched o s fun _ => Spec.largest o s)) ∧ t.cw.p = s.cw.p ∧
          (∀ l, l < 64 → rowAt (t.cw.vreg o.d.toNat) l = Spec.written o s (fun _ => Spec.largest o s) l) ∧
          ∀ n, n ≠ o.d.toNat → t.cw.vreg n = s.cw.vreg n) ∧
    ∀ (w first : Nat) (x : Watch) (p : Op) (a : Acc), Tbl.find s.watches w = some x → p.kind = .amax → p.lane = true → p.done = false →
      (x.ops.filter fun q => q.kind == .amax && decide (first ≤ q.id)) = [p] → x.op p.id = some p → p.accs = [a] →
      let r : AReq := { atom := true, lane := some a.lane }
      let tried := s.modWatch w fun x => x.modOp p.id fun q => { q with xf := true }
      (∀ f, s.checkAddr x a.pcn r a.addr = some f →
        ∃ y, Spec.LanesOff [(a.lane, f)] x y ∧ s.issueAmax w first = s.modWatch w fun _ => { y with ops := x.ops.filter (·.id != p.id) }) ∧
      (s.checkAddr x a.pcn r a.addr = none → s.issueAmax w first = match s.placeOf x a.pcn r a.addr with
        | .ok key _ => s.modWatch w fun x => x.modOp p.id fun q => { q with accs := [{ a with key := key, pend := false }] }
        | .fault c => tried.asyncTrap w p.ent { cause := 0x1A, code := c, addr := a.addr }
        | .nonres => tried.pageFault w p.ent true a.pcn a.addr
        | .wait => s)

namespace Sys2Proof.Spec
open Sys2Proof.Machine

/-- The state with `m` in the watch's slot (07 R207): its place in the core's order, its lanes, the row boundary and SHAPE; none where an
MMA has no quarter. -/
def accepted (o : LaneOps) (s u : State) (m : Option MatOp) : State :=
  (u.setW { u.cw with mat := m.map fun m => { m with
    ord := (u.core s.cw.core).matNext, seq := s.lane.seq, index := s.lane.index, ent := s.lane.ent, mask := s.active o
    rbnd := s.cw.rbnd, shape := s.cw.mshape } }).setCore s.cw.core { u.core s.cw.core with matNext := (u.core s.cw.core).matNext + 1 }

/-- The free slot of the watch takes `i` as its chain completes (07 R207). -/
def Accepts (i : Instr) (o : LaneOps) (s : State) (m : Option MatOp) : Prop :=
  s.cw.mat = none → ∃ u, LaneStep o s u s.chain.gen none ∧ u.cw.v = s.cw.v ∧ u.cw.p = s.cw.p ∧ exec i s = .next (accepted o s u m)

/-- V[v] to V[v + n − 1]. -/
def rows (s : State) (v n : Nat) : List Row := (List.range n).map fun i => s.cw.vreg (v + i)

/-- The quarters of an MMA that have an active row (07 R206): of each 8 rows, those that use buffer 0 and those that use buffer 1. -/
def quarters (o : LaneOps) (s : State) : List Nat :=
  (List.range 16).filter fun q => (List.range 64).any fun l =>
    (s.active o).getLsbD l && decide (l / 8 = q / 2) && (decide (s.cw.rbnd ≤ l) == decide (q % 2 = 1))

end Sys2Proof.Spec

/-- 07 R207, R210 to R215: the free slot of a watch takes each matrix instruction as its chain completes, with the operand registers as they
stand; an MMA without an active row takes no slot; TDRN's atomic, which the lowest active lane checks, is in flight on path 8. -/
def Obligations.MatrixInstructionsAreAccepted : Prop :=
  ∀ (s : State) (o : LaneOps),
    Spec.Accepts (.mma o) o s (if Spec.quarters o s = [] then none else some
      { instr := .mma o, rowsA := Spec.rows s o.a.toNat (blockRegs (shapeA s.cw.mshape) (shapeK s.cw.mshape))
        rowsB := Spec.rows s o.b.toNat (scaleRegs (shapeA s.cw.mshape) (shapeK s.cw.mshape) (shapeGA s.cw.mshape))
        left := Spec.quarters o s }) ∧
    Spec.Accepts (.msoft o) o s (some { instr := .msoft o }) ∧
    Spec.Accepts (.tclr o) o s (some { instr := .tclr o }) ∧
    Spec.Accepts (.tscl o) o s (some { instr := .tscl o, rowsA := Spec.rows s o.a.toNat 1 }) ∧
    Spec.Accepts (.tsclPend o) o s (some { instr := .tsclPend o }) ∧
    Spec.Accepts (.tsclDivl o) o s (some { instr := .tsclDivl o }) ∧
    Spec.Accepts (.tmovTv o) o s (some { instr := .tmovTv o }) ∧
    Spec.Accepts (.tmovVt o) o s (some { instr := .tmovVt o, rowsA := Spec.rows s o.a.toNat (runRegs o.lit) }) ∧
    (o.lit.getLsbD 26 = false ∨ s.active o = 0 → Spec.Accepts (.tdrn o) o s
      (some { instr := .tdrn o, rowsA := if o.lit.getLsbD 28 then Spec.rows s o.a.toNat 1 else [] })) ∧
    (∀ l rest key, o.lit.getLsbD 26 = true → (List.range 64).filter (s.active o).getLsbD = l :: rest → Spec.room s 8 → s.cw.mat = none →
      let ea := rowAt (s.cw.vreg (o.b.toNat + 1)) l ++ rowAt (s.cw.vreg o.b.toNat) l
      let a : Acc := { lane := l, pcn := s.cw.pcnOf l, addr := ea, size := 4, key := key }
      Spec.addressOf s { atom := true } l ea = some (.ok key) →
      ∃ u m, Spec.LaneStep o s u s.chain.gen none ∧ u.cw.v = s.cw.v ∧ u.cw.p = s.cw.p ∧ (∀ k, k < 64 → BitVec.getLsbD m k = decide (k = l)) ∧
        exec (.tdrn o) s = .next (Spec.inFlight
          (Spec.accepted o s u (some { instr := .tdrn o, rowsA := if o.lit.getLsbD 28 then Spec.rows s o.a.toNat 1 else []
                                       acc := some { a with count := u.next } }))
          { kind := .tdrn, paths := [8], seq := s.lane.seq, lane := true, ent := s.lane.ent, at_ := s.lane.index, mask := m, nw := true
            size := 2, accs := [a] } [])) ∧
    (s.cw.mat.isSome → ∀ i ∈ [Instr.mma o, .msoft o, .tclr o, .tscl o, .tsclPend o, .tsclDivl o, .tmovTv o, .tmovVt o, .tdrn o],
      exec i s = .next s)

/-! ## The steps of memory, lanes and the array (01 R20, 06 R177 to R190, 10 R286, 08 R238, 07 R207 to R214) -/

namespace Sys2Proof.Spec
open Sys2Proof.Machine

/-- Operation `o` of watch `x` (number `w`) is in flight. -/
def AtOp (s : State) (w op : Nat) (x : Watch) (o : Op) : Prop := Tbl.find s.watches w = some x ∧ x.op op = some o ∧ o.done = false

/-- Watch w becomes y; no other watch changes. -/
def WatchIs (s t : State) (w : Nat) (y : Watch) : Prop :=
  Tbl.find t.watches w = some y ∧ ∀ n, n ≠ w → Tbl.find t.watches n = Tbl.find s.watches n

/-- A watch that may be granted the ports of its core (01 R20). -/
def Ready (u : State) (core : Nat) (x : Nat × Watch) : Prop :=
  x ∈ u.watches ∧ x.2.core = core ∧ 0 < x.2.aged ∧ u.columnsFree x.1 x.2 = true

/-- The reason of the first marked element among those that lane l pops next with an instruction (08 R240). -/
def markOf (w : Watch) (c : Chain) (e : LqEntry) (l : Nat) : Option (BitVec 4) :=
  (((List.range 8).flatMap fun q => (((w.queue q).elems[l]?.getD []).drop (c.popsAt q l)).take (e.pops q)).filterMap fun x => match x with
    | .off why => some why
    | _ => none).head?

end Sys2Proof.Spec

/-- 01 R17, R20, R31, R34: the watches that are ready to issue on the core age from the step at which they became ready; the oldest whose columns
are free is granted them and runs the lane instruction at the place of its chain, under the mask, the fragment and the captured scalars of
its entry; a restarted chain first gives its conflicting registers free values (log 16). A lane that pops a marked element is switched off, and
its pops count (08 R240). Where a check of its block fails instead, or an element of the
chain met a fault, it traps at the LX (04 R417, 08 R240, 10 R285). Where none is ready, only the ages move. -/
def Obligations.OldestReadyWatchIssues : Prop :=
  ∀ (s : State) (core : Nat),
    let u := { s with
      seq := s.seq + 1
      watches := s.watches.map fun x => if x.2.core != core then x else (x.1, { x.2 with
        aged := if s.laneReady x.1 x.2 = false then 0 else if x.2.aged = 0 then s.seq else x.2.aged }) }
    ((∀ x, ¬Spec.Ready u core x) → exec (.laneIssue core) s = .next u) ∧
    ((∃ x, Spec.Ready u core x) → ∃ n w, Spec.Ready u core (n, w) ∧ (∀ x, Spec.Ready u core x → w.aged ≤ x.2.aged) ∧
      (∀ e, w.lq[w.chainPos]? = some e → 0 < w.chainPos → u.notMember n w e = true →
        exec (.laneIssue core) s = .next (u.lxTrap n e { cause := 0x21 })) ∧
      (∀ e t, w.chainPos = 0 → u.headVerdict n w = .fail e t → exec (.laneIssue core) s = .next (u.lxTrap n e t)) ∧
      (∀ e, w.chainPos = 0 → u.headVerdict n w = .pass → w.lq.head? = some e →
        (∀ k a, w.badElem w.headChain = some (.fault k a) →
          exec (.laneIssue core) s = .next (u.lxTrap n e { cause := 0x1A, code := k, addr := a })) ∧
        (∀ a, w.badElem w.headChain = some (.uncor a) → exec (.laneIssue core) s = .next (u.lxTrap n e { cause := 0x19, addr := a }))) ∧
      ∀ e, w.lq[w.chainPos]? = some e → u.headFails n w = false →
        let off := if e.blk = w.offBlk then w.off else 0
        let c := w.chain.getD { gen := w.gen, loose := w.looseRegs w.headChain, seed := s.free, off := off }
        let y := w.loosen c w.chainPos
        let marks := ((List.range 64).filter ({ y with off := off, offBlk := e.blk }.entryActive e).getLsbD).filterMap fun l =>
          (Spec.markOf w c e l).map fun why => (l, why)
        ∃ t d, exec (.laneIssue core) s = .next t ∧ t.cur = n ∧ t.ent = e.ent ∧ t.granted = true ∧ t.mem = s.mem ∧
          n ∈ (t.core core).holds ∧ t.free = s.free + c.loose.length ∧
          t.cw = { w with
            aged := 0, off := t.cw.off, offBlk := e.blk, chain := some { c with pops := d }, v := y.v, p := y.p, fmask := t.cw.fmask, fmwhy := t.cw.fmwhy } ∧
          (∀ l, l < 64 → t.cw.off.getLsbD l = (off.getLsbD l || marks.any fun m => m.1 == l) ∧
            t.cw.fmask.getLsbD l = (w.fmask.getLsbD l || marks.any fun m => m.1 == l) ∧
            ∀ q, q < 8 → ({ c with pops := d } : Chain).popsAt q l =
              c.popsAt q l + if (marks.any fun m => m.1 == l) = true then Spec.popsQ (matOps e.instr) q else 0) ∧
          t.cw.fmwhy = (match marks with
            | [] => w.fmwhy
            | m :: _ => if w.fmask = 0 then m.2 else w.fmwhy) ∧
          t.lane = { mask := e.mask &&& ~~~t.cw.off, sa := e.sa, sb := e.sb, sc := e.sc, ent := e.ent
                     index := e.index, pos := w.chainPos, last := w.chainPos + 1 == e.len, seq := e.seq })

/-- 06 R177, R183, R191, 13 R360: one missing sector of a load returns once no older access to its bytes holds it back: the value of each of
its accesses there, widened by the size code, goes to the lane's registers or the S register; no other lane, no other register and no byte of
memory changes. A host address that no range admits any more is never read (14 R386). -/
def Sys2Proof.Spec.LoadsReturnTheirSectors : Prop :=
  ∀ (s : State) (w op k sec : Nat) (x : Watch) (o : Op), Spec.AtOp s w op x o → o.isLoad = true → s.isLive x = true →
    x.acqHeld o.seq = false → (s.sectors x.ctx o)[k]? = some sec →
    let mine := fun (a : Acc) => a.got = false ∧ a.pend = false ∧ s.keyNow x.ctx a / 32 = sec
    let value := fun (a : Acc) => loadValue o.size (s.loadNat x o.seq a.pcn (s.keyNow x.ctx a) a.size)
    let regs := if o.size = 4 then 4 else if o.size = 3 then 2 else 1
    ((∃ a ∈ o.accs, mine a ∧ s.olderSame x Op.beforeLoad o.seq o.lane a = true) → exec (.loadSectorReturn w op k) s = .next s) ∧
    ((∀ a ∈ o.accs, mine a → s.olderSame x Op.beforeLoad o.seq o.lane a = false) →
    ((∃ a ∈ o.accs, mine a ∧ s.hostShut a.key = true) →
      ∃ a ∈ o.accs, mine a ∧ s.hostShut a.key = true ∧ exec (.loadSectorReturn w op k) s = .next (s.shutTrap w o a)) ∧
    ((∀ a ∈ o.accs, mine a → s.hostShut a.key = false) →
    ∃ t y, exec (.loadSectorReturn w op k) s = .next t ∧ t.mem = s.mem ∧ Spec.WatchIs s t w y ∧ y = { x with s := y.s, v := y.v, ops := y.ops } ∧
      (o.lane = true → y.s = x.s ∧
        (∀ a ∈ o.accs, mine a → (∀ b ∈ o.accs, b.lane = a.lane → b = a) → a.lane < 64 → ∀ n, rowAt (y.vreg n) a.lane =
          if o.d ≤ n ∧ n < o.d + regs then BitVec.ofNat 32 (value a / 2 ^ (32 * (n - o.d))) else rowAt (x.vreg n) a.lane) ∧
        (∀ l n, l < 64 → (∀ a ∈ o.accs, mine a → a.lane ≠ l) → rowAt (y.vreg n) l = rowAt (x.vreg n) l)) ∧
      (o.lane = false → y.v = x.v ∧ ∀ a, o.accs = [a] → mine a → o.d < 63 → ∀ r : Reg, y.sreg r =
        if r = 0 then 0 else if r.toNat = o.d then BitVec.ofNat 64 (value a)
        else if o.size = 4 ∧ r.toNat = o.d + 1 then BitVec.ofNat 64 (value a / 2 ^ 64) else x.sreg r) ∧
      let o' := { o with accs := o.accs.map fun a => if a.got = false ∧ a.pend = false ∧ s.keyNow x.ctx a / 32 = sec then { a with got := true, old := 0 } else a }
      y.ops = (if o'.all = true ∧ o.stamp = 0 then (x.modOp op fun _ => o').finishOp op else x.modOp op fun _ => o').ops))

/-- 06 R178, R190, R192, 10 R286, 12 R338, 13 R360: the oldest store of the FIFO is written once no older access holds it back; one to host
memory is forwarded, and the host takes its bytes as it acknowledges it, those of one column in their order. A lane of an ACPY is written as 32
bytes, zeros after its valid ones; a write of an XST is written in the bank that is dark then. No other byte changes. -/
def Sys2Proof.Spec.StoresReachMemory : Prop :=
  ∀ (s : State) (w op k : Nat) (x : Watch), Tbl.find s.watches w = some x →
    (∀ e rest, x.fifo = e :: rest →
      let key := s.keyNow x.ctx e.acc
      let held := e.acc.pend = true ∨ x.acqHeld e.seq = true ∨ s.olderSame x Op.isLoad e.seq e.lane e.acc = true ∨
        ∃ o ∈ x.ops, o.kind = .acpy ∧ o.lane = e.lane ∧ o.seq < e.seq ∧ ∃ b ∈ o.accs, b.got = false ∧
          s.overlap x.ctx e.acc { pcn := b.pcn, addr := BitVec.ofNat 64 b.cmp, key := b.count, size := 32 } = true
      (held → exec (.storePerform w) s = .next s) ∧
      (¬held → s.hostShut e.acc.key = true → ∃ u : State, u.mem = s.mem ∧ u.hostAcks = s.hostAcks ∧ (u.watch w).fifo = rest ∧
        exec (.storePerform w) s = .next (u.shutTrap w ((x.op e.op).getD {}) e.acc)) ∧
      (¬held → s.hostShut e.acc.key = false →
        ∃ t y, exec (.storePerform w) s = .next t ∧ Spec.WatchIs s t w y ∧ y = { x with fifo := rest, ops := y.ops, held := y.held } ∧
          (dirEntry key = none → y.held = x.held) ∧
          (isHostKey key = false → Spec.Stores s t key e.acc.size e.acc.data ∧ t.hostAcks = s.hostAcks) ∧
          (isHostKey key = true → t.mem = s.mem ∧ t.hostAcks = s.hostAcks ++
            [{ w := w, op := e.op, pcn := e.acc.pcn, key := key, size := e.acc.size, data := e.acc.data }]))) ∧
    (∀ i h, s.hostAcks[i]? = some h → h.w = w → h.op = op →
      (∀ j g, j < i → s.hostAcks[j]? = some g → g.pcn ≠ h.pcn ∧ (g.w ≠ w ∨ g.op ≠ op)) →
      ∃ t, exec (.hostStoreAcknowledgement w op) s = .next t ∧ t = { s with mem := t.mem, hostAcks := s.hostAcks.eraseIdx i } ∧
        (h.sent = false → Spec.Stores s t h.key h.size h.data) ∧ (h.sent = true → t.mem = s.mem)) ∧
    (∀ (o : Op) (a : Acc), Spec.AtOp s w op x o → x.acqHeld o.seq = false → o.accs[k]? = some a → a.got = false → a.pend = false →
      (o.kind = .acpy → s.copyHeld x o a = true → exec (.acpyWrite w op k) s = .next s) ∧
      (o.kind = .acpy → s.copyHeld x o a = false → a.size ≤ 32 → (a.size ≠ 0 → s.hostShut a.key = false ∧ s.hostShut a.old = false) →
        let dst := s.keyNow x.ctx { pcn := a.pcn, addr := BitVec.ofNat 64 a.cmp, key := a.count, size := 32 }
        let src := fun (i : Nat) => if offOf a.addr % 2 ^ 18 + i < 2 ^ 18 then a.key + i else a.old - (a.size - 1 - i)
        ∃ t y, exec (.acpyWrite w op k) s = .next t ∧ Spec.WatchIs s t w y ∧ y = { x with ops := y.ops } ∧
          ∀ b, memByte t.mem t.epoch b = if b < dst ∨ dst + 32 ≤ b then memByte s.mem s.epoch b
            else if b - dst < a.size then s.colByte a.pcn (src (b - dst)) else 0) ∧
      (o.kind = .xst → s.lockHit x.ctx a.pcn 3 (offOf a.addr) a.size true = false →
        (∀ j b, j < k → o.accs[j]? = some b → b.pcn = a.pcn → b.got = true) →
        (∀ q ∈ x.ops, q.kind = .xst → q.seq < o.seq → ∀ b ∈ q.accs, b.pcn = a.pcn → b.got = true) →
        ∃ t y, exec (.xstWrite w op k) s = .next t ∧ Spec.WatchIs s t w y ∧ y = { x with ops := y.ops } ∧
          Spec.Stores s t (s.keyNow x.ctx a) a.size a.data))

namespace Sys2Proof.Spec
open Sys2Proof.Machine

/-- The access `a` at place i is the first of an atomic's that has not been performed, and nothing that is ordered before it is left
(13 R360, R361; what a trap holds, log 32). -/
def NextStep (s : State) (x : Watch) (o : Op) (i : Nat) (a : Acc) : Prop :=
  s.isLive x = true ∧ x.acqHeld o.seq = false ∧ o.accs[i]? = some a ∧ a.got = false ∧ (∀ j b, j < i → o.accs[j]? = some b → b.got = true) ∧
  a.pend = false ∧ x.olderAtom o.seq a.pcn = false ∧ s.olderSame x (fun q => q.beforeLoad && !q.isAtom) o.seq o.lane a = false ∧
  a.data < 2 ^ (8 * a.size)

/-- The word after a step of an atomic (06 R185, R193; 05 R158). -/
def stepWord (s : State) (x : Watch) (o : Op) (a : Acc) : Nat :=
  let old := s.readN (s.keyNow x.ctx a) a.size
  if o.kind = .amax ∨ o.kind = .tdrn then (amaxAtomic (BitVec.ofNat 32 old) (BitVec.ofNat 32 a.data)).toNat
  else atomWord o.fn (o.ty = 0) a.size old a.data a.cmp

end Sys2Proof.Spec

/-- 06 R185, R193, 05 R158, 13 R360: the first access of an atomic that has not been performed is, once nothing older holds it back: one step
reads the old word and writes the new one, and the old word goes to the destination, unless NW. No other byte changes. The step of an atomic
that a trap holds may be made while the handler runs (DEDUCED, log 32); its old word waits for RTE (09 R262, R267). -/
def Sys2Proof.Spec.AtomicsAreOneStep : Prop :=
  ∀ (s : State) (w op i : Nat) (x : Watch) (o : Op) (a : Acc), Spec.NextStep s x o i a →
    let key := s.keyNow x.ctx a
    let old := s.readN key a.size
    (Spec.AtOp s w op x o → o.isAtom = true → x.heldBack op = false →
      ∃ t y, exec (.atomicPerform w op) s = .next t ∧ Spec.WatchIs s t w y ∧ y = { x with s := y.s, v := y.v, ops := y.ops, held := y.held } ∧
        ((∀ h, x.held = some h → ∀ r ∈ h.replay, r.op.id ≠ op) → y.held = x.held) ∧
        Spec.Stores s t key a.size (Spec.stepWord s x o a) ∧
        (o.nw = true → y.s = x.s ∧ y.v = x.v) ∧
        (o.nw = false → o.stamp = 0 → dirEntry key = none →
          (o.lane = true → y.s = x.s ∧ ∀ n l, l < 64 → rowAt (y.vreg n) l =
            if n = o.d ∧ l = a.lane ∧ o.mask.getLsbD l = true then BitVec.ofNat 32 old else rowAt (x.vreg n) l) ∧
          (o.lane = false → o.d < 64 → y.v = x.v ∧ ∀ r : Reg, y.sreg r =
            if r = 0 then 0 else if r.toNat = o.d then BitVec.ofNat 64 old else x.sreg r))) ∧
    (Tbl.find s.watches w = some x → x.op op = none → x.freeAtoms.find? (·.id == op) = some o →
      ∃ t y, exec (.atomicPerform w op) s = .next t ∧ Spec.WatchIs s t w y ∧ y = { x with held := y.held } ∧
        Spec.Stores s t key a.size (Spec.stepWord s x o a))

/-- 06 R186 to R189, 03 R90: a contribution of a FATOM that every lower key has made way for is added to its word and, unless it is MORE,
closes its key; SKIP only closes. One that has to wait takes one of the 256 entries of its column's queue, or one of the 4,096 of its context's
overflow area there, and is applied by the same rule; where all places are taken, FATOMOVF escalates. A SKIP that waits takes no place
(log 67). -/
def Sys2Proof.Spec.OrderedAddsKeepTheirOrder : Prop :=
  ∀ (s : State) (pcn : Nat),
    let q := (s.column pcn).fatom
    let applied := fun (t : State) (c : Contrib) =>
      (c.kind ≠ 2 → Spec.Stores s t c.word 4 (roundVal .f32 .rne false (addVal false (decodeVal .f32 (s.readN c.word 4)) (decodeVal .f32 c.value.toNat)))) ∧
      (c.kind = 2 → t.mem = s.mem) ∧
      (t.column pcn).closed = (s.column pcn).closed ++ if c.kind = 1 then [] else [{ launch := c.launch, key := c.key, word := c.word }]
    (∀ k c, q[k]? = some c →
      let r := s.modColumn pcn fun x => { x with fatom := q.eraseIdx k }
      (r.fatomReady pcn c (q.take k) = false → exec (.fatomApply pcn k) s = .next s) ∧
      (r.fatomReady pcn c (q.take k) = true → ∃ t, exec (.fatomApply pcn k) s = .next t ∧ applied t c ∧ (t.column pcn).fatom = q.eraseIdx k)) ∧
    (∀ (w op i : Nat) (x : Watch) (o : Op) (a : Acc), Spec.AtOp s w op x o → o.kind = .fatom → x.acqHeld o.seq = false → o.accs[i]? = some a → a.got = false →
      (∀ j b, j < i → o.accs[j]? = some b → b.got = true) → a.pcn = pcn →
      let c : Contrib := { launch := x.launch, key := x.lblock.toNat * 2 ^ 16 + 64 * x.wi + a.lane, seq := s.seq, word := a.key, kind := o.fn
                           value := BitVec.ofNat 32 a.data }
      let inQueue := q.countP fun k => k.kind != 2 && !k.ovf
      let inArea := q.countP fun k => k.ovf && (s.launch k.launch).ctx == x.ctx
      let waits := fun ovf => ∃ t, exec (.fatomArrive w op) s = .next t ∧ t.mem = s.mem ∧ (t.column pcn).fatom = q ++ [{ c with ovf := ovf }]
      (a.pend = true ∨ s.olderSame x Op.beforeLoad o.seq o.lane a = true → exec (.fatomArrive w op) s = .next s) ∧
      (a.pend = false → s.olderSame x Op.beforeLoad o.seq o.lane a = false →
        (s.fatomReady pcn c q = true → ∃ t, exec (.fatomArrive w op) s = .next t ∧ applied t c ∧ (t.column pcn).fatom = q) ∧
        (s.fatomReady pcn c q = false →
          (c.kind = 2 ∨ inQueue < 256 → waits false) ∧
          (c.kind ≠ 2 → 256 ≤ inQueue → inArea < 4096 → waits true) ∧
          (c.kind ≠ 2 → 256 ≤ inQueue → 4096 ≤ inArea → exec (.fatomArrive w op) s =
            .next (if (s.ctx x.ctx).rung.isSome then s else s.escalate w { cause := 0x54, addr := a.addr })))))

/-- 08 R238 to R241, 13 R361: a running queue fetches the next element of a lane that has fewer than 64 waiting, once no acquire older than its
GO holds it back: its bits, widened as the descriptor says, are appended, or the mark of a failed check or of a translation fault; a page that
is not resident is a page fault. The queue ends with the last element of its last lane. -/
def Obligations.StreamsFetchInOrder : Prop :=
  ∀ (s : State) (w n l : Nat) (x : Watch), Tbl.find s.watches w = some x → n < 8 → l < x.width → l < 64 →
    let q := x.queue n
    let e := q.next[l]?.getD 0
    let p := x.pcnOf l
    let a := streamAddr q l e
    let z := 2 ^ sdEsz q.desc
    let r : AReq := { size := z, align := z, tags := [0, 1, 2], lane := some l }
    let takes := fun (v : Elem) => ∃ y, exec (.streamFetch w n l) s = .next (s.modWatch w fun _ => y) ∧ y = { x with q := y.q } ∧
      (∀ k, k ≠ n → y.queue k = x.queue k) ∧ (y.queue n).elems[l]? = some (q.elems[l]?.getD [] ++ [v]) ∧ (y.queue n).next[l]? = some (e + 1) ∧
      (∀ k, k ≠ l → (y.queue n).elems[k]? = q.elems[k]? ∧ (y.queue n).next[k]? = q.next[k]?) ∧
      (y.queue n).st = if ∀ k, k < x.width → sdCount q.desc ≤ (if k = l then e + 1 else q.next[k]?.getD 0) then .ended else .running
    q.st = .running → s.isLive x = true → e < sdCount q.desc → e < (q.popc[l]?.getD 0) + 64 →
    (x.acqHeld q.go = true → exec (.streamFetch w n l) s = .next s) ∧
    (x.acqHeld q.go = false →
      (s.checkAddr x p r a = none →
        (∀ key host, s.placeOf x p r a = .ok key host →
          takes (.val (elemBits q.desc (s.colN p (s.keyNow x.ctx { pcn := p, addr := a, key := key }) z)))) ∧
        (∀ c, s.placeOf x p r a = .fault c → takes (.fault c a)) ∧
        (s.placeOf x p r a = .nonres → exec (.streamFetch w n l) s = .next (s.pageFault w 0 true p a)) ∧
        (s.placeOf x p r a = .wait → exec (.streamFetch w n l) s = .next s)) ∧
      (∀ f, s.checkAddr x p r a = some f → f ≠ .lock → takes (.off f.why)) ∧
      (s.checkAddr x p r a = some .lock → exec (.streamFetch w n l) s = .next s))

namespace Sys2Proof.Spec
open Sys2Proof.Machine

/-- Settled(T, i, n) of 07 R199: an element as the pending factor of its row, if it has one, leaves it. -/
def settled (uid : Nat) (w : Watch) (t i n : Nat) (int : Bool) : W32 :=
  let r := w.trow t i
  if r.mark = false then w.tile uid t i n
  else if r.pf = 0 then 0
  else if int then w.tile uid t i n
  else mulF32 (w.tile uid t i n) r.pf

/-- The row state of a row that has been settled (07 R199): its pending factor is spent. -/
def unmarked (r : TileRow) : TileRow := { r with mark := false }

/-- Quarter k of watch n is unplaced and has the key of the head (07 R208), and its B sectors can be read (07 R206). -/
def JoinsPass (s : State) (core : Nat) (head : MatOp) (q : Nat) (n k : Nat) : Prop :=
  ∃ m, (n, m) ∈ s.queued core 0 ∧ k ∈ m.left ∧ quarterKey m k = quarterKey head q ∧ s.quarterReady core m k = true

/-- The order in which quarters enter a pass (07 R208): the lowest slot first, and the lowest quarter first. -/
def Before (s : State) (a b : Nat × Nat) : Prop :=
  (s.watch a.1).slot < (s.watch b.1).slot ∨ (a.1 = b.1 ∧ a.2 < b.2)

/-- What a pass that places the quarters `ks` of an MMA does to its watch (07 R199, R208 to R210; 03 R87 to R89): in the rows of those
quarters the N elements at NPOS become the sum of products of the A row and the B column on top of the settled element, or of zero under Z,
and the row is settled; no other row or tile changes, and the quarters are done. -/
def Placed (s : State) (u : Nat) (x y : Watch) (m : MatOp) (o : LaneOps) (ks : List Nat) : Prop :=
  let c0 := mmaNpos o.lit * shapeN m.shape
  let rows := fun (i : Nat) => m.mask.getLsbD i = true ∧ ∃ k ∈ ks, i / 8 = k / 2 ∧ (m.rbnd ≤ i ↔ k % 2 = 1)
  let b := fun (i off : Nat) => (memByte s.mem s.epoch (memKey .wbuf x.ctx (x.core * 2 + if m.rbnd ≤ i then 1 else 0)
    (256 * ((if m.rbnd ≤ i then o.lit.extractLsb' 10 10 else o.lit.extractLsb' 0 10).toNat) + off))).toNat
  let left := m.left.filter fun k => !ks.contains k
  (∃ before, y = { x with tiles := y.tiles, rows := y.rows, mat := if left = [] then none else some { m with left := left, before := before } }) ∧
  (∀ i n, i < 64 → n < 64 → rows i → y.tile u o.d.toNat i n =
    if c0 ≤ n ∧ n < c0 + shapeN m.shape then mmaElem (operandA m i) (operandB m.shape (b i) (n - c0)) (shapeK m.shape)
      (if mmaZ o.lit then 0 else settled u x o.d.toNat i n (shapeA m.shape == 8))
    else settled u x o.d.toNat i n (shapeA m.shape == 8)) ∧
  (∀ i, i < 64 → rows i → y.trow o.d.toNat i = unmarked (x.trow o.d.toNat i)) ∧
  (∀ T i n, i < 64 → n < 64 → (T ≠ o.d.toNat ∨ ¬rows i) → y.tile u T i n = x.tile u T i n ∧ y.trow T i = x.trow T i)

end Sys2Proof.Spec

/-- 07 R206 to R210, 03 R87 to R89: a pass is headed by the first quarter of the watch whose turn it is; up to 8 ready quarters with its key
join it, of any watch of the core, the lowest slot and the lowest quarter first. The quarters in it are performed on the tiles of their
watches; every other watch stays as it is. Where the head is not ready the pass waits. -/
def Sys2Proof.Spec.MatrixPassUpdatesTheTile : Prop :=
  ∀ (s : State) (core u q : Nat) (m : MatOp) (left : List Nat) (more : List (Nat × MatOp)),
    s.queued core ((s.core core).lastPass + 1) = (u, m) :: more → m.left = q :: left →
    (s.watches.map (·.1)).Nodup → (∀ n x m, Tbl.find s.watches n = some x → x.mat = some m → m.left.Pairwise (· < ·)) →
    (s.quarterReady core m q = false → exec (.matrixPass core) s = .next s) ∧
    (s.quarterReady core m q = true → ∃ (t : State) (P : List (Nat × Nat)), exec (.matrixPass core) s = .next t ∧ t.mem = s.mem ∧
      (t.core core).lastPass = (s.watch u).slot ∧ (u, q) ∈ P ∧ P.length ≤ 8 ∧ (∀ p ∈ P, Spec.JoinsPass s core m q p.1 p.2) ∧
      (∀ n k, Spec.JoinsPass s core m q n k → (n, k) ∉ P → P.length = 8 ∧
        ∀ p ∈ P, p = (u, q) ∨ (s.watch p.1).slot = (s.watch n).slot ∨ Spec.Before s p (n, k)) ∧
      (∀ n k j, Spec.JoinsPass s core m q n k → (n, k) ∉ P → k < j → (n, j) ∉ P) ∧
      ∀ n x, Tbl.find s.watches n = some x →
        ((∀ k, (n, k) ∉ P) → Tbl.find t.watches n = some x) ∧
        ((∃ k, (n, k) ∈ P) → ∃ m o y, x.mat = some m ∧ m.instr = .mma o ∧ Tbl.find t.watches n = some y ∧
          ((mmaNpos o.lit + 1) * shapeN m.shape ≤ 64 → Spec.Placed s n x y m o (m.left.filter fun k => P.contains (n, k)))))

namespace Sys2Proof.Spec
open Sys2Proof.Machine

/-- Tile d of a watch is as `f` gives in the rows of a mask, and every other element is as before. -/
def TileIs (u : Nat) (x y : Watch) (d : Nat) (on : Nat → Prop) (f : Nat → Nat → W32) : Prop :=
  (∀ i n, i < 64 → n < 64 → on i → y.tile u d i n = f i n) ∧
  (∀ T i n, i < 64 → n < 64 → (T ≠ d ∨ ¬on i) → y.tile u T i n = x.tile u T i n)

/-- The row state of tile d is as `f` gives in the rows of a mask, and every other row state is as before. -/
def RowsAre (x y : Watch) (d : Nat) (on : Nat → Prop) (f : Nat → TileRow) : Prop :=
  (∀ i, i < 64 → on i → y.trow d i = f i) ∧ (∀ T i, i < 64 → (T ≠ d ∨ ¬on i) → y.trow T i = x.trow T i)

/-- In the rows of a mask the registers from V[d] on hold the words of `f`; every other element of V is as before. -/
def RunIs (x y : Watch) (d : Nat) (on : Nat → Prop) (f : Nat → List W32) : Prop :=
  ∀ i k, i < 64 → (on i → d ≤ k → k - d < (f i).length → rowAt (y.vreg k) i = (f i)[k - d]?.getD 0) ∧
    (¬(on i ∧ d ≤ k ∧ k - d < (f i).length) → rowAt (y.vreg k) i = rowAt (x.vreg k) i)

/-- Element e of row i as a TDRN reads it (07 R215): stored, multiplied by the row's factor under MUL. -/
def drained (u : Nat) (x : Watch) (o : LaneOps) (a : Row) (i e : Nat) : W32 :=
  let v := x.tile u (o.lit.toNat % 8) i (tmC0 o.lit + e)
  if o.lit.getLsbD 28 then mulF32 v (rowAt a i) else v

/-- Element e of row i as a TDRN converts it (07 R215): with stochastic rounding it draws in ascending e from the lane's generator. -/
def drainCode (u : Nat) (x : Watch) (o : LaneOps) (a : Row) (i e : Nat) : Nat :=
  convElem 0 (tmType o.lit) (if tmRm o.lit = 4 then .sr (Nat.iterate stepGen (e + 1) (rowAt x.gen i)).toNat else rmCode (tmRm o.lit) 0)
    (tmSat o.lit) false (drained u x o a i e).toNat

/-- m of TDRN (07 R215): over the active rows, ascending, and their elements, ascending. -/
def drainMax (u : Nat) (x : Watch) (o : LaneOps) (a : Row) (mask : Mask) : W32 :=
  (((List.range 64).filter mask.getLsbD).flatMap fun i => (List.range (tmCount o.lit)).map fun e => drained u x o a i e).foldl amaxCode 0

end Sys2Proof.Spec

/-- 07 R207, R199, R211 to R215: the accepted instruction of a watch is performed on the rows of its mask. TCLR leaves zeros and no pending
factor; TSCL multiplies the settled elements, TSCL.DIVL divides them by the row's sum, TSCL.PEND settles them, and each spends the pending
factor; MSOFT leaves the row's exponentials, its new maximum and sum, and the new pending factor; TMOV moves between the tile and the V
registers; TDRN converts columns into V registers, clears them under CLR, and leaves the largest magnitude as its atomic's operand. Every
other element, row state and register stays, and the slot is free. -/
def Sys2Proof.Spec.MatrixInstructionsArePerformed : Prop :=
  ∀ (s : State) (u : Nat) (x : Watch) (o : LaneOps) (m : MatOp), Tbl.find s.watches u = some x → x.mat = some m →
    let d := o.d.toNat
    let T := o.lit.toNat % 8
    let on := fun (i : Nat) => m.mask.getLsbD i = true
    let does := fun (P : Watch → Prop) => ∃ t y, exec (.matrixPerform u) s = .next t ∧ t.mem = s.mem ∧ Spec.WatchIs s t u y ∧
      y = { x with v := y.v, gen := y.gen, tiles := y.tiles, rows := y.rows, mat := none, ops := y.ops, chain := y.chain } ∧ P y
    let still := fun (y : Watch) => y.v = x.v ∧ y.gen = x.gen ∧ y.ops = x.ops ∧ y.chain = x.chain
    let spent := fun (i : Nat) => Spec.unmarked (x.trow d i)
    (m.instr = .tclr o → does fun y => still y ∧ Spec.TileIs u x y d on (fun _ _ => 0) ∧
      Spec.RowsAre x y d on fun i => if o.lit.getLsbD 0 then { spent i with smax := 0xFF800000, ssum := 0 } else spent i) ∧
    (m.instr = .tscl o → does fun y => still y ∧ Spec.RowsAre x y d on spent ∧
      Spec.TileIs u x y d on fun i n => mulF32 (Spec.settled u x d i n false) (rowAt (m.rowsA[0]?.getD zeroRow) i)) ∧
    (m.instr = .tsclPend o → does fun y => still y ∧ Spec.RowsAre x y d on spent ∧
      Spec.TileIs u x y d on fun i n => Spec.settled u x d i n false) ∧
    (m.instr = .tsclDivl o → does fun y => still y ∧ Spec.RowsAre x y d on spent ∧
      Spec.TileIs u x y d on fun i n => BitVec.ofNat 32 (roundVal .f32 .rne false (divVal
        (decodeVal .f32 (Spec.settled u x d i n false).toNat) (decodeVal .f32 (x.trow d i).ssum.toNat)))) ∧
    (m.instr = .msoft o →
      let z := fun (i : Nat) => softRow (if o.lit.getLsbD 3 then 0xFF800000 else (x.trow T i).smax) (if o.lit.getLsbD 3 then 0 else (x.trow T i).ssum)
        ((List.range (o.lit.toNat / 16 % 64 + 1)).map fun j => x.tile u d i j)
      does fun y => still y ∧ Spec.TileIs u x y d on (fun i n => (z i).1[n]?.getD 0) ∧
        Spec.RowsAre x y T on fun i =>
          { smax := (z i).2.2.1, ssum := (z i).2.2.2, mark := true
            pf := if (x.trow T i).mark = false then (z i).2.1 else if (z i).2.1 = 0 ∨ (x.trow T i).pf = 0 then 0
              else mulF32 (x.trow T i).pf (z i).2.1 }) ∧
    (m.instr = .tmovVt o → tmC0 o.lit + tmCount o.lit ≤ 64 → does fun y => still y ∧ y.rows = x.rows ∧
      Spec.TileIs u x y d on fun i n => if tmC0 o.lit ≤ n ∧ n < tmC0 o.lit + tmCount o.lit then
        vtElem (tmType o.lit) (elemOf (tmType o.lit) (rowAt (m.rowsA[(n - tmC0 o.lit) / (32 / tyWidth (tmType o.lit))]?.getD zeroRow) i)
          ((n - tmC0 o.lit) % (32 / tyWidth (tmType o.lit))))
      else x.tile u d i n) ∧
    (m.instr = .tmovTv o → does fun y => y.tiles = x.tiles ∧ y.rows = x.rows ∧ y.gen = x.gen ∧ y.ops = x.ops ∧ y.chain = x.chain ∧
      (o.lit.getLsbD 23 = true → Spec.RunIs x y d on fun i => [(x.trow T i).smax, (x.trow T i).ssum]) ∧
      (o.lit.getLsbD 23 = false → Spec.RunIs x y d on fun i => packElems (tmType o.lit) ((List.range (tmCount o.lit)).map fun e =>
        tmElem (tmType o.lit) (tmRm o.lit) (tmSat o.lit) (x.tile u T i (tmC0 o.lit + e))))) ∧
    (m.instr = .tdrn o → tmC0 o.lit + tmCount o.lit ≤ 64 → tmRm o.lit ≤ 4 →
      let a := m.rowsA[0]?.getD zeroRow
      does fun y => y.rows = x.rows ∧
        Spec.RunIs x y d on (fun i => packElems (tmType o.lit) ((List.range (tmCount o.lit)).map (Spec.drainCode u x o a i))) ∧
        Spec.TileIs u x y T on (fun i n => if o.lit.getLsbD 27 = true ∧ tmC0 o.lit ≤ n ∧ n < tmC0 o.lit + tmCount o.lit then 0
          else x.tile u T i n) ∧
        (∀ i, i < 64 → rowAt y.gen i = if on i ∧ tmRm o.lit = 4 then Nat.iterate stepGen (tmCount o.lit) (rowAt x.gen i) else rowAt x.gen i) ∧
        y.chain = x.chain.map (fun c => { c with gen := y.gen }) ∧
        y.ops = x.ops.map fun p => if p.kind = .tdrn ∧ m.acc.any (fun b => b.count == p.id) = true then
          { p with accs := p.accs.map fun b => { b with data := (Spec.drainMax u x o a m.mask).toNat } } else p)

/-! ## The crew controller, the release of watches, uncorrectable errors (09 R246 to R252, R268, 04 R130, 11 R312, R332, 14 R374) -/

namespace Sys2Proof.Spec
open Sys2Proof.Machine

/-- 09 R251, R253: the controller records an arrival of the member, and the phase completes where it was the last one. -/
def ArrivalsAreRecorded : Prop :=
  ∀ (s : State) (cx c w : Nat) (swap : Bool) (rest : List CrewMsg) (x : Crew), (s.ctx cx).msgs = .arrive c w swap :: rest →
    s.crew cx c = some x →
    let y := { x with members := x.members.map fun m => if m.w = w then { m with arrived := true, swap := m.swap || swap } else m }
    let u := s.modCtx cx fun k => { k with msgs := rest, crews := Tbl.put k.crews c y }
    exec (.crewControllerArrival cx) s = .next (u.checkPhase cx c) ∧ (u.crew cx c = some y) ∧
    (y.members ≠ [] → (∃ m ∈ y.members, m.arrived = false) → u.checkPhase cx c = u) ∧ (y.members = [] → (u.checkPhase cx c).crew cx c = none)

/-- 09 R250, R252: the controller processes a departure: the watch leaves each crew that it belongs to. By fault it counts as arrived where it
has not arrived, until the phase completes; otherwise it is removed at once, its fragments at the crew's BAR go on, and its arrivals at runs of
groups are withdrawn (15 R404). A fault mask that is not zero counts in FCNT, and the first reason stays. The crew then counts its members anew,
for its open phase and for the runs of groups that they have arrived for. -/
def DeparturesAreProcessed : Prop :=
  ∀ (s : State) (cx w : Nat) (fault off : Bool) (why : BitVec 4) (rest : List CrewMsg),
    (s.ctx cx).msgs = .depart w fault off why :: rest →
    let u := s.modCtx cx fun k => { k with msgs := rest }
    exec (.crewDeparture cx) s = .next ((u.crewsOf cx w).foldl (fun s c =>
      if fault then s.faultCrew cx c w off why else s.departCrew cx c w off why) u) ∧
    (∀ c, c ∈ u.crewsOf cx w ↔ ∃ x, (c, x) ∈ (s.ctx cx).crews ∧ ∃ m ∈ x.members, m.w = w) ∧
    ∀ (r : State) (c : Nat) (x : Crew), r.crew cx c = some x →
      let y := if off then { x with fcnt := min 4095 (x.fcnt + 1), fwhy := if x.fcnt = 0 then why else x.fwhy } else x
      let here := ∃ m ∈ x.members, m.w = w ∧ m.arrived = true
      (here → r.faultCrew cx c w off why = (r.setCrew cx c { y with members := x.members.filter fun m => m.w != w }).recount cx c) ∧
      (¬here → r.faultCrew cx c w off why = (r.setCrew cx c { y with
        members := x.members.map fun m => if m.w = w then { m with arrived := true, faulted := true } else m }).recount cx c) ∧
      ((∀ a ∈ (r.ctx cx).colls, a.crew ≠ c) → r.recount cx c = r.checkPhase cx c) ∧
      ∃ v : State, r.departCrew cx c w off why = v.recount cx c ∧ (∀ a ∈ (v.ctx cx).colls, a.w ≠ w ∨ a.crew ≠ c) ∧ v.crew cx c = some { y with members := x.members.filter fun m => m.w != w } ∧
        (∀ z, Tbl.find r.watches w = some z → ∃ z', Tbl.find v.watches w = some z' ∧ z' = { z with split := z'.split, held := z'.held } ∧
          ∀ k, z'.entry k = (z.entry k).releaseBar c x.phase false)

/-- 04 R130, 09 R250, 11 R312, R332: a finished watch releases its slot: it departs its crews, its fault mask counts in its node's FCNT with the
first FWHY, and with its block's last watch BLKDONE goes up. -/
def WatchesAreReleased : Prop :=
  ∀ (s : State) (w : Nat) (x : Watch), Tbl.find s.watches w = some x →
    (x.finished = false → exec (.watchRelease w) s = .next s) ∧
    (x.finished = true → ∃ t, exec (.watchRelease w) s = .next t ∧
      (∀ n, Tbl.find t.watches n = if n = w then none else Tbl.find s.watches n) ∧
      ((Tbl.find s.ctxs x.ctx).isSome → (t.ctx x.ctx).msgs = (s.ctx x.ctx).msgs ++
        if x.departed then [] else [.depart w false (x.fmask != 0) x.fmwhy]) ∧
      (Tbl.find s.launches x.launch = none → t.mem = s.mem) ∧
      ∀ l, Tbl.find s.launches x.launch = some l →
        let key := schedKey l.die (l.base + 192)
        let v := s.readN (key + 12) 2
        let last := ∀ p ∈ s.watches, p.1 ≠ w → ¬(p.2.launch = x.launch ∧ p.2.lblock = x.lblock ∧ p.2.kind ≠ .responder)
        t.readN (key + 8) 4 = (s.readN (key + 8) 4 + if x.kind ≠ .responder ∧ last then 1 else 0) % 2 ^ 32 ∧
        t.readN (key + 12) 2 = (if x.fmask = 0 ∨ x.kind = .trailer then v
          else min 4095 (v % 4096 + 1) + 4096 * (if v % 4096 = 0 then x.fmwhy.toNat else v / 4096)) ∧
        ∀ k, k < key + 8 ∨ key + 14 ≤ k → memByte t.mem t.epoch k = memByte s.mem s.epoch k)

/-- The error interrupt of an uncorrectable error (14 R374, R379, R383): Enmon's log, the counts of the controller and of the column whose
bank port, L2 slice or scratchpad it is, the ERROR event of the die. -/
def ErrorTold (s u : State) (c : Ctl) (die pcn : Nat) (a : Word) : Prop :=
  let old := Tbl.getD s.enmon.errs c.code (0, 0)
  u.mem = s.mem ∧ u.watches = s.watches ∧ u.enmon.log.getLast? = some [0x19, BitVec.ofNat 64 pcn, a] ∧
  Tbl.getD u.enmon.errs c.code (0, 0) = (old.1, old.2 + 1) ∧
  (∀ p, (c = .bank p ∨ c = .l2 p ∨ c = .scratch p) → Tbl.getD u.enmon.colErrs p 0 = Tbl.getD s.enmon.colErrs p 0 + 1) ∧
  ((∀ p, c ≠ .bank p ∧ c ≠ .l2 p ∧ c ≠ .scratch p) → u.enmon.colErrs = s.enmon.colErrs) ∧
  ∃ e, (u.die die).events = (s.die die).events ++ [e] ∧ e.words = [BitVec.ofNat 64 (3 + 2 ^ 8 * die + 2 ^ 32 * (pcn % 2 ^ 32)), a]

/-- The controller of a column that holds the data of an address (log 75). -/
def holder (pcn : Nat) (a : Word) : Ctl := if tagOf a = 0 then .bank pcn else .scratch pcn

end Sys2Proof.Spec

/-- 09 R268, 07 R218, 08 R240, 11 R331, 15 R406, 14 R374, R379, R383: an uncorrectable error met by a load, an atomic or a store into a partly written
sector, by a fetch, by a stream, by a matrix instruction, by an engine or by the scheduler is told to Enmon and the host. In the watch it raises UNCOR
with the sector's address, and the store is dropped; the element marks its chain; the command ends with code 4, a run in its strand, a node with code
6. The matrix instruction has written nothing, and where the watch goes on it is performed again (DEDUCED, log 38); its event names the home column and
address 0 (DESIGN CHOICE, log 80). The fourth error of a column in an epoch retires it; which controller counts it is a DESIGN CHOICE (log 75). A
corrected error is only counted. -/
def Obligations.ErrorsReachTheirConsumer : Prop :=
  ∀ (s : State) (w e id : Nat) (at_ : Word) (wb : Bool) (x : Watch), Tbl.find s.watches w = some x →
    (∀ o a, x.op id = some o → o.done = false → o.isLoad = true ∨ o.isAtom = true → o.accs.find? (fun a => !a.got) = some a →
      let sec := a.addr &&& ~~~31
      ∃ u : State, Spec.ErrorTold s u (Spec.holder a.pcn a.addr) (a.pcn / 512) a.pcn sec ∧ exec (.uncorAbortCompletion (.op w id)) s =
        .next (((u.modWatch w fun x => x.modOp id fun o => { o with err := true }).asyncTrap w o.ent { cause := 0x19, addr := sec }).retireDue a.pcn)) ∧
    (∀ o a f, x.op id = some o → o.done = false → o.kind = .st ∨ o.kind = .sst → o.accs.find? (fun a => !a.got) = some a →
      x.fifo.find? (fun f => f.op == id) = some f →
      let sec := a.addr &&& ~~~31
      ∃ (u : State) (y : Watch), Spec.ErrorTold s u (Spec.holder a.pcn a.addr) (a.pcn / 512) a.pcn sec ∧
        y = { x with fifo := x.fifo.erase f, ops := y.ops } ∧ exec (.uncorAbortCompletion (.op w id)) s =
          .next (((u.modWatch w fun _ => y).asyncTrap w o.ent { cause := 0x19, addr := sec }).retireDue a.pcn)) ∧
    ((x.entry e).valid = true → (x.entry e).wait = false → s.isLive x = true →
      ∃ u : State, Spec.ErrorTold s u (Spec.holder x.home at_) (x.home / 512) x.home (at_ &&& ~~~31) ∧
        exec (.uncorAbortCompletion (.fetch w e at_)) s =
          .next ((u.asWatch w e fun s => s.trap { cause := 0x19, addr := at_ &&& ~~~31 }).retireDue x.home)) ∧
    (∀ q l v rest, q < 8 → l < 64 → x.chain = none → (x.queue q).elems[l]? = some (v :: rest) →
      let p := x.pcnOf l
      let sec := streamAddr (x.queue q) l ((x.queue q).popc[l]?.getD 0) &&& ~~~31
      ∃ (u : State) (y : Watch), Spec.ErrorTold s u (Spec.holder p sec) (p / 512) p sec ∧ y = { x with q := y.q } ∧
        (∀ n, n ≠ q → y.queue n = x.queue n) ∧ y.queue q = { x.queue q with elems := (y.queue q).elems } ∧
        (∀ i, (y.queue q).elems[i]? = if i = l then some (.uncor sec :: rest) else (x.queue q).elems[i]?) ∧
        exec (.uncorAbortCompletion (.elem w q l)) s = .next ((u.modWatch w fun _ => y).retireDue p)) ∧
    (∀ m, x.mat = some m → ∃ u : State, Spec.ErrorTold s u (if wb then .wbuf x.core else .tiles x.core) (x.home / 512) x.home 0 ∧
      let r := (u.modWatch w fun x => { x with
        mat := none
        tiles := (m.before.map (·.1)).getD x.tiles
        rows := (m.before.map (·.2)).getD x.rows }).asyncTrap w m.ent { cause := 0x19, lane := true, lanePc := m.index }
      let again : MatOp := { m with left := if isMma m.instr then quartersOf m.mask m.rbnd else [], before := none }
      (x.pair = none → x.inh = true ∨ x.crgn = [] → exec (.uncorAbortCompletion (.matrix w wb)) s =
        .next (r.modWatch w fun y => if y.ended then y else { y with mat := some again })) ∧
      (x.pair ≠ none ∨ (x.inh = false ∧ x.crgn ≠ []) → exec (.uncorAbortCompletion (.matrix w wb)) s = .next r)) ∧
    (∀ kind at2 p, p < 1024 → ∃ u : State, Spec.ErrorTold s u (Spec.holder p at_) (p / 512) p (at_ &&& ~~~31) ∧
      let fails := fun (v : State) => exec (.uncorAbortCompletion (.engine kind at2 id p at_)) s = .next (v.retireDue p)
      let job := ∃ j ∈ s.jobList kind at2, j.id = id ∧ s.jobReads kind j = true
      (job → fails (u.modJob kind at2 id fun j => { j with fail := if j.fail = 0 then 4 else j.fail })) ∧
      (kind = 3 → (∃ r ∈ s.runs, r.id = id) → fails { u with runs := u.runs.map fun r =>
        if r.id = id ∧ r.code = 0 then { r with code := 4, fstr := r.strands.findIdx (·.col == p) } else r }) ∧
      (kind = 4 → s.vectorDue id = true → fails (u.failNode id 6 0))) ∧
    (∀ die, ∃ t, exec (.uncorAbortCompletion (.sched die at_)) s = .next t ∧ Spec.ErrorTold s t (.sched die) die 0xFFFF (at_ &&& ~~~31)) ∧
    (∀ c : Ctl, ∃ t, exec (.uncorAbortCompletion (.corrected c)) s = .next t ∧
      t = { s with enmon := { s.enmon with errs := t.enmon.errs } } ∧
      Tbl.getD t.enmon.errs c.code (0, 0) = ((Tbl.getD s.enmon.errs c.code (0, 0)).1 + 1, (Tbl.getD s.enmon.errs c.code (0, 0)).2)) ∧
    (∀ (r : State) (p : Nat), (Tbl.getD r.enmon.colErrs p 0 ≠ 4 → r.retireDue p = r) ∧
      (Tbl.getD r.enmon.colErrs p 0 = 4 → exec (.columnRetire p) r = .next (r.retireDue p)))


/-! ## Translation, pages and unmapping (12 R335 to R345, 06 R168) -/

namespace Sys2Proof.Spec
open Sys2Proof.Machine

/-- Entry i of the page table, or of the array, at a pointer (12 R336). -/
def entryAt (s : State) (t i : Nat) : Word :=
  BitVec.ofNat 64 (s.readN (memKey .slice 0 (t % 1024) (t / 1024 % 2 ^ 21 * 256 + 8 * i)) 8)

/-- The entry that a column uses at a level (12 R337): through the array where CSPEC is 1. -/
def through (s : State) (pcn : Nat) (e : Word) : Word :=
  if e.getLsbD 0 ∧ e.getLsbD 3 then entryAt s (e.extractLsb' 8 40).toNat pcn else e

/-- 12 R335 to R337: the walk goes from the root's entry down to a leaf, taking at each level the array's element where CSPEC is 1; an invalid
entry ends it UNMAPPED. The page is 1 GiB, 16 MiB or 256 KiB by the leaf's level. An entry is malformed where a reserved bit is 1, where a leaf
that is not in host memory stands at level 2, beyond frame 1535 or off the frame grid of its level, or where a pointer stands at level 0, lies
outside every slice, or names a frame that no context's tables have reserved (R336; log 9). -/
def WalksFollowTheTable : Prop :=
  ∀ (s : State) (cx pcn off : Nat),
    let root := (s.ctx cx).ptroot % 2 ^ 31
    let target := fun (e : Word) => (e.extractLsb' 8 40).toNat
    let r2 := entryAt s root (off / 2 ^ 30)
    let e2 := through s pcn r2
    let r1 := entryAt s (target e2) (off / 2 ^ 24 % 64)
    let e1 := through s pcn r1
    let r0 := entryAt s (target e1) (off / 2 ^ 18 % 64)
    let e0 := through s pcn r0
    let arr := fun (e : Word) => e.getLsbD 0 && e.getLsbD 3
    let fine := fun level (r e : Word) => s.pteBad level e = false ∧
      (arr r = true → s.ptrBad (target r) = false ∧ pteReserved r = false ∧ e.getLsbD 3 = false)
    let lost := fun (t : Nat) => 2 ^ 31 ≤ t ∨ 1536 * 2 ^ 18 ≤ t / 1024 % 2 ^ 21 * 256 ∨
      ∀ c ∈ s.ctxs, (t % 1024, t / 1024 % 2 ^ 21 * 256 / 2 ^ 18) ∉ c.2.frames
    (∀ t, s.ptrBad t = true ↔ lost t) ∧
    (∀ (level : Nat) (e : Word), s.pteBad level e = true ↔ e.extractLsb' 6 2 ≠ 0 ∨ e.extractLsb' 48 16 ≠ 0 ∨
      (e.getLsbD 1 = true ∧ e.getLsbD 4 = false ∧ (level = 2 ∨ 1535 < target e ∨ (level = 1 ∧ target e % 64 ≠ 0))) ∨
      (e.getLsbD 1 = false ∧ (level = 0 ∨ lost (target e)))) ∧
    (e2.getLsbD 0 = false → s.walk cx pcn off = .error 0) ∧
    (e2.getLsbD 0 = true → s.pteBad 2 e2 = true → s.walk cx pcn off = .error 2) ∧
    (e2.getLsbD 0 = true → fine 2 r2 e2 → e2.getLsbD 1 = true → s.walk cx pcn off = .ok (e2, 2 ^ 30, arr r2)) ∧
    (e2.getLsbD 0 = true → fine 2 r2 e2 → e2.getLsbD 1 = false →
      (e1.getLsbD 0 = false → s.walk cx pcn off = .error 0) ∧
      (e1.getLsbD 0 = true → fine 1 r1 e1 → e1.getLsbD 1 = true → s.walk cx pcn off = .ok (e1, 2 ^ 24, arr r2 || arr r1)) ∧
      (e1.getLsbD 0 = true → fine 1 r1 e1 → e1.getLsbD 1 = false →
        (e0.getLsbD 0 = false → s.walk cx pcn off = .error 0) ∧
        (e0.getLsbD 0 = true → fine 0 r0 e0 → s.walk cx pcn off = .ok (e0, 2 ^ 18, arr r2 || arr r1 || arr r0))))

/-- 12 R342, R344: the end of a walk puts a resident page's translation into the cluster's cache and, with a lease, into the column's TLB; a
lease that runs out takes its entry away. While the core switches banks no walk fills them. -/
def WalksFillTheCaches : Prop :=
  ∀ (s : State) (pcn cx off k size : Nat) (leaf : Word) (cs : Bool),
    exec (.tlbLeaseExpire pcn k) s = .next (s.modColumn pcn fun c => { c with tlb := c.tlb.eraseIdx k }) ∧
    ((s.core (coreOfCol pcn)).switching ≠ none → exec (.pageWalkComplete pcn cx off) s = .next s) ∧
    ((s.core (coreOfCol pcn)).live = some cx → (s.core (coreOfCol pcn)).switching = none → ((s.ctx cx).pcnLive ((s.ctx cx).lcn pcn)).isSome → off < Config.frameBase →
      (∀ x ∈ (s.cluster (clusterOfCol pcn)).cache, x.serves cx pcn off = false) → s.walk cx pcn off = .ok (leaf, size, cs) →
      let x : Xlat := { ctx := cx, page := off / size * size, size := size, pcn := if cs then some pcn else none, leaf := leaf }
      (leaf.getLsbD 5 = false → exec (.pageWalkComplete pcn cx off) s = .next s) ∧
      (leaf.getLsbD 5 = true → ∃ t, exec (.pageWalkComplete pcn cx off) s = .next t ∧ t.mem = s.mem ∧ t.watches = s.watches ∧
        (((s.cluster (clusterOfCol pcn)).cache.countP fun y => y.draining) < 4096 → (t.cluster (clusterOfCol pcn)).cache.getLast? = some x) ∧
        ((s.ctx cx).lease ≠ 0 → (t.column pcn).tlb.getLast? = some x) ∧ ((s.ctx cx).lease = 0 → (t.column pcn).tlb = (s.column pcn).tlb)))

/-- 12 R340, R341, R345, 14 R381: the MMP makes a page resident by its entry, in frames that no table and no page being unmapped holds in any column
that the entry serves, and what waited for it goes on; or it declines, and a command that waited ends with code 3, a launch with its own: 6 for the
offset vector of a grouped node, 5 for a parameter block (11 R324, R331), a watch with the code XLATE. The old frame of an unmapping counts as held
until its probes are answered (DEDUCED, log 39). -/
def PagesAreServed : Prop :=
  ∀ (s : State) (k key level : Nat) (pte : Word) (p : PageWait), s.waits[k]? = some p →
    let old := BitVec.ofNat 64 (s.readN key 8)
    let left := if p.drain = 2 then s.waits else s.waits.erase p
    (s.walkKey p.ctx p.pcn p.off = (key, level) → (old.getLsbD 0 && old.getLsbD 1 && old.getLsbD 4) = false →
      pte.getLsbD 0 = true → pte.getLsbD 1 = true → pte.getLsbD 5 = true → s.pteBad level pte = false →
      (pte.getLsbD 4 = true ∨ ∀ c ∈ s.walkCols p.ctx key p.off,
        s.frameHeld c (pte.extractLsb' 8 40).toNat ((pte.extractLsb' 8 40).toNat + 2 ^ (6 * level)) = false) →
      ∃ u : State, Spec.Stores s u key 8 pte.toNat ∧ u.watches = s.watches ∧ exec (.mmpPageResident k pte) s = .next ((u.servePages p.ctx).pumpRuns)) ∧
    (s.walkKey p.ctx p.pcn p.off = (key, level) →
      (old.getLsbD 0 && old.getLsbD 1 && old.getLsbD 4) = true ∨ pte.getLsbD 0 = false ∨ pte.getLsbD 1 = false ∨ pte.getLsbD 5 = false ∨
        s.pteBad level pte = true → exec (.mmpPageResident k pte) s = .next s) ∧
    (∀ (r : State) (cx : Nat) (q : PageWait), q ∈ (r.servePages cx).waits ↔ q ∈ r.waits ∧ ¬(q.ctx = cx ∧
      ((∃ key host, r.xlate cx q.pcn q.off false false = .ok key host) ∨ ∃ c, r.xlate cx q.pcn q.off false false = .fault c ∧ c ≠ 0 ∧ c ≠ 2))) ∧
    (p.blk = none → p.job ≠ 0 → p.drain = 0 → Tbl.find s.launches p.job = none → ∃ t, exec (.mmpDecline k) s = .next t ∧ t.waits = left ∧
      t.mem = s.mem ∧ ∀ c j, j.id = p.job → j.fail = 0 → (j ∈ (s.core c).copies → { j with fail := 3 } ∈ (t.core c).copies) ∧
        (j ∈ (s.core c).wloads → { j with fail := 3 } ∈ (t.core c).wloads) ∧ (j ∈ (s.cluster c).auct → { j with fail := 3 } ∈ (t.cluster c).auct)) ∧
    (∀ l, p.blk = none → p.job ≠ 0 → Tbl.find s.launches p.job = some l → ∃ u : State, u.mem = s.mem ∧ u.waits = left ∧
      exec (.mmpDecline k) s = .next (u.failNode p.job (if l.kind = 2 ∧ l.vec = [] then 6 else 5) 0)) ∧
    (∀ ln b, p.blk = some (ln, b) → (Tbl.find s.watches p.w).isSome → ∃ u : State, u.mem = s.mem ∧ u.waits = left ∧
      let t : TrapInfo := { cause := 0x1A, code := 4, addr := p.addr }
      (p.async = true → exec (.mmpDecline k) s = .next (u.asyncTrap p.w p.ent t)) ∧
      (p.async = false → exec (.mmpDecline k) s = .next (u.asWatch p.w ((u.watch p.w).trapEnt p.ent) fun s => s.trap t)))

/-- 12 R345: unmapping writes the new entry and marks the page draining in every cluster of the context, for the columns whose walk ends at that
entry, where it unmaps the page or lowers WR or RES; each cluster acknowledges; once they have and no TLB of those columns holds the page the wait ends; each column answers its probe once no
access and no waiting contribution by the old entry is left, and after the last one the marks go and what waited is translated again. -/
def UnmappingDrainsThePage : Prop :=
  (∀ (s : State) (cx off pcn size : Nat) (pte leaf : Word) (cs : Bool), pcn ∈ (s.ctx cx).liveCols →
    s.walk cx pcn off = .ok (leaf, size, cs) → (∀ u ∈ s.unmaps, u.ctx = cx → u.off = off / size * size → pcn ∉ u.cols) →
    (pte.getLsbD 0 = true → ∀ i, pte.getLsbD i = leaf.getLsbD i ∨ (i = 2 ∨ i = 5) ∧ pte.getLsbD i = false) →
    let key := (s.walkKey cx pcn off).1
    let cols := (s.ctx cx).liveCols.filter fun p => (s.walkKey cx p off).1 == key
    ∃ t acks, exec (.mmpUnmap ⟨cx, pcn⟩ off pte) s = .next t ∧ Spec.Stores s t key 8 pte.toNat ∧ t.watches = s.watches ∧
      t.unmaps = s.unmaps ++ [{ ctx := cx, off := off / size * size, size := size, leaf := leaf, cols := cols, acks := acks }] ∧
      (∀ c, c ∈ acks ↔ ∃ p ∈ (s.ctx cx).liveCols, clusterOfCol p = c) ∧
      let x : Xlat := { ctx := cx, page := off / size * size, size := size, leaf := pte, draining := true }
      ∀ c ∈ acks, (cs = false → x ∈ (t.cluster c).cache) ∧
        (cs = true → ∀ p ∈ cols, clusterOfCol p = c → { x with pcn := some p } ∈ (t.cluster c).cache)) ∧
  (∀ (s : State) (k cl pcn : Nat) (u : Unmap), s.unmaps[k]? = some u →
    let inUse := pcn ∈ u.cols ∧ (s.contribUses u pcn = true ∨ ∃ w ∈ s.watches, w.2.ctx = u.ctx ∧ w.2.usesPage pcn u.off u.size = true)
    exec (.drainMarkAck k cl) s = .next { s with unmaps := s.unmaps.set k { u with acks := u.acks.filter (· != cl) } } ∧
    (u.waited = false → u.acks = [] → (∀ c ∈ s.columns, c.1 ∈ u.cols → ∀ x ∈ c.2.tlb, x.ctx = u.ctx → x.page ≠ u.off) →
      exec (.unmapwaitExpire k) s = .next { s with unmaps := s.unmaps.set k { u with waited := true, probes := (s.ctx u.ctx).liveCols } }) ∧
    (pcn ∈ u.probes → inUse → exec (.drainProbeAnswer k pcn) s = .next s) ∧
    (pcn ∈ u.probes → ¬inUse →
      ((∃ p ∈ u.probes, p ≠ pcn) →
        exec (.drainProbeAnswer k pcn) s = .next { s with unmaps := s.unmaps.set k { u with probes := u.probes.filter (· != pcn) } }) ∧
      ((∀ p ∈ u.probes, p = pcn) → ∃ v : State, exec (.drainProbeAnswer k pcn) s = .next (v.undrain u) ∧ v.unmaps = s.unmaps.eraseIdx k ∧
        v.mem = s.mem ∧ v.watches = s.watches ∧
        ∀ c x, x ∈ (v.cluster c).cache ↔ x ∈ (s.cluster c).cache ∧
          ¬(x.ctx = u.ctx ∧ x.page = u.off ∧ (∀ p, x.pcn = some p → p ∈ u.cols) ∧ x.draining = true))))

/-- 06 R168, 12 R354: a retired column loses its bytes and becomes a hole of every context that has it: the context's watches there end by fault,
their crews told so, and the context escalates with COLRET (DEDUCED, log 40). Another retirement of it does nothing. -/
def RetiredColumnsBecomeHoles : Prop :=
  ∀ (s : State) (pcn : Nat), ((s.column pcn).retired = true ∨ 1024 ≤ pcn → exec (.columnRetire pcn) s = .next s) ∧
    ((s.column pcn).retired = false → pcn < 1024 → ∃ u : State, u.epoch = s.epoch + 1 ∧ (u.column pcn).retired = true ∧ u.watches = s.watches ∧
      (∀ off, off < 2 ^ 64 → memFind u.mem (memKey .slice 0 pcn off) = none) ∧
      (∀ c off, c < 1024 → c ≠ pcn → off < 2 ^ 64 → memFind u.mem (memKey .slice 0 c off) = memFind s.mem (memKey .slice 0 c off)) ∧
      exec (.columnRetire pcn) s = .next ((s.ctxs.map (·.1)).foldl (fun s cx => s.makeHole cx pcn) u)) ∧
    ∀ (r : State) (cx : Nat), (Tbl.find r.ctxs cx).isSome → pcn ∈ (r.ctx cx).cols → (r.ctx cx).lcn pcn ∉ (r.ctx cx).holes →
      ∃ v : State, r.makeHole cx pcn = v.contextRung cx { cause := 0x55 } ∧ (r.ctx cx).lcn pcn ∈ (v.ctx cx).holes ∧
        ((r.watches.map (·.1)).Nodup → ∀ n w, Tbl.find r.watches n = some w → ∃ y, Tbl.find v.watches n = some y ∧
          let hit := w.ctx = cx ∧ pcn ∈ w.cols ∧ w.ended = false
          (¬hit → y = w) ∧
          (hit → y = { w with
            ended := true, departed := true, lq := [], chain := none, crgn := [], held := none, pair := none, ops := y.ops, split := y.split } ∧
            (∀ e, (y.entry e).valid = false) ∧ (w.departed = false → .depart n true (w.fmask != 0) w.fmwhy ∈ (v.ctx cx).msgs)))

end Sys2Proof.Spec

/-! ## Switching contexts, handlers and timeouts (12 R347 to R356) -/

namespace Sys2Proof.Spec
open Sys2Proof.Machine

/-- A context's watches on a core move from bank a to bank b, and nothing else of a watch changes. -/
def Moves (s t : State) (cx core : Nat) (a b : Bank) : Prop :=
  ∀ n, Tbl.find t.watches n = (Tbl.find s.watches n).map fun w => if w.ctx = cx ∧ w.core = core ∧ w.bank = a then { w with bank := b } else w

/-- Nothing of a watch goes on by itself while it is stopped: no store, copy, exchange or contribution. -/
def Calm (w : Watch) : Prop := w.fifo = [] ∧ ∀ o ∈ w.ops, replayKindOf o ≠ none

/-- 12 R348, R349, 09 R253: a switch request begins a switch to what the standby bank holds ready, aborting the chains, stopping the BARs and
emptying the TLBs of the core, or waits for the standby bank. `r` is the machine once the loads and atomics are performed that something of an
outgoing watch that goes on by itself is ordered behind (DEDUCED, log 32); with nothing that goes on it is the machine as it was. -/
def SwitchesBegin : Prop :=
  ∀ (s : State) (core : Nat), (s.core core).switching = none →
    let c := s.core core
    let live := s.watchesWith fun w => w.core == core && w.bank == .live
    let r := live.foldl (fun s n => s.settleOrder n) s
    ((∀ n ∈ live, Calm (s.watch n)) → r = s) ∧
    let begins := fun (target : Option Nat) => ∃ t, exec (.preemptSwitchRequest core) s = .next t ∧ t.mem = r.mem ∧
      t.core core = { c with switching := some target, want := false, holds := [] } ∧
      (∀ i, i < 4 → (t.column (4 * core + i)).tlb = []) ∧
      ∀ n, Tbl.find t.watches n = (Tbl.find r.watches n).map fun w =>
        let k := if w.chain = none then 0 else (w.lq.head?.getD {}).len
        if w.core = core ∧ w.bank = .live then { w with
          chain := none, off := (w.chain.map (·.off)).getD w.off, lq := ((w.lq.take k).map fun e => { e with again := true }) ++ w.lq.drop k
          split := w.split.map fun f => { f with bar := f.bar.map fun b => { b with again := true } } } else w
    (c.standby = .free → c.live = none → exec (.preemptSwitchRequest core) s = .next s) ∧
    (c.standby = .free → c.live ≠ none → begins none) ∧
    (∀ x, c.standby = .ready x → begins (some x)) ∧
    (∀ x, c.standby = .spill x ∨ c.standby = .filling x → exec (.preemptSwitchRequest core) s = .next (s.setCore core { c with want := true }))

/-- 12 R348 to R350, 11 R316: when a switch completes the banks have exchanged their roles, the incoming context is no longer switched out, its
queues follow, its watchdog is reloaded and its watches resume; a switch that was asked for meanwhile begins. -/
def SwitchesComplete : Prop :=
  ∀ (s : State) (core : Nat), ((s.core core).switching = none → exec (.switchComplete core) s = .next s) ∧
    ∀ target x, (s.core core).switching = some target → (s.core core).live = some x → target ≠ some x →
      ∃ u : State, u.mem = s.mem ∧ u.core core = { s.core core with switching := none, live := target, standby := .spill x } ∧
        (∀ n, Tbl.find u.watches n = (Tbl.find s.watches n).map fun w =>
          if w.ctx = x ∧ w.core = core ∧ w.bank = .live then { w with bank := .standby }
          else if target = some w.ctx ∧ w.core = core ∧ w.bank = .standby then { w with bank := .live } else w) ∧
        (target = none → exec (.switchComplete core) s = .next u) ∧
        (∀ y, target = some y → exec (.switchComplete core) s =
          .next (((((u.modCtx y fun k => { k with out := false }).queuesOf y).reloadWdog y).resume y core).wanted core))

/-- 12 R349, 11 R316: a fill loads a saved context into the free standby bank, and ends with the bank READY; a spill ends, once the watches'
stores and matrix instructions are done, with the context saved and the bank FREE, and a context saved on every core is switched out. Stores that
cannot leave the FIFO before the context resumes are saved with the bank and translated again then (DESIGN CHOICE, log 73). -/
def BanksFillAndSpill : Prop :=
  ∀ (s : State) (core cx : Nat),
    ((s.core core).standby = .free → (s.core core).switching = none → (Tbl.find s.ctxs cx).isSome → (s.ctx cx).saveInc = false →
      (s.ctx cx).doom = false → (s.ctx cx).rung = none → core ∈ (s.ctx cx).saved →
      exec (.fillStart core cx) s = .next (s.setCore core { s.core core with standby := .filling cx })) ∧
    ((s.core core).standby = .filling cx → (s.core core).want = false → ∃ t, exec (.fillDone core) s = .next t ∧ t.mem = s.mem ∧
      t.core core = { s.core core with standby := .ready cx } ∧ (t.ctx cx).saved = (s.ctx cx).saved.filter (· != core) ∧
      Moves s t cx core .saved .standby) ∧
    ((s.core core).standby = .spill cx → (∃ w ∈ s.watches, w.2.ctx = cx ∧ w.2.core = core ∧ w.2.bank = .standby ∧ s.drainedOut w.2 = false) →
      exec (.spillDone core) s = .next s) ∧
    ((s.core core).standby = .spill cx → (s.core core).want = false → (Tbl.find s.ctxs cx).isSome → (s.ctx cx).doom = false →
      (∀ w ∈ s.watches, w.2.ctx = cx → w.2.core = core → w.2.bank = .standby → s.drainedOut w.2 = true) →
      ∃ t, exec (.spillDone core) s = .next t ∧ t.core core = { s.core core with standby := .free } ∧
        (∀ n, Tbl.find t.watches n = (Tbl.find s.watches n).map fun w => if w.ctx = cx ∧ w.core = core ∧ w.bank = .standby then { w with
          bank := .saved, fifo := w.fifo.map fun e => { e with acc := { e.acc with pend := true } }
          ops := w.ops.map fun o => if o.kind = .st ∨ o.kind = .sst then
            { o with accs := o.accs.map fun a => { a with pend := a.pend || !a.got } } else o } else w) ∧
        core ∈ (t.ctx cx).saved ∧ ((∀ k ∈ (s.ctx cx).cores, k = core ∨ k ∈ (s.ctx cx).saved) → (t.ctx cx).out = true) ∧
        ((∃ k ∈ (s.ctx cx).cores, k ≠ core ∧ k ∉ (s.ctx cx).saved) → (t.ctx cx).out = (s.ctx cx).out)) ∧
    ∀ w : Watch, s.drainedOut w = true ↔ w.mat = none ∧ ∀ e rest, w.fifo = e :: rest →
      if e.acc.pend = true then ∀ p ∈ s.waits, ¬(p.ctx = w.ctx ∧ p.pcn = e.acc.pcn ∧ p.off / 2 ^ 18 = offOf e.acc.addr / 2 ^ 18)
      else s.storeHeld w e = true

/-- 12 R351, R353: the context rung writes its record at the next place of the ring, posts ESCAL in the ring of die 0, and marks the context.
Outside scheduler memory, where the context's queues may become inactive (11 R316), no other byte changes; then the context is switched out, which
changes none either while no watch that runs has anything that goes on by itself (log 32). -/
def ContextRungsAreRecorded : Prop :=
  ∀ (s : State) (cx : Nat) (x : Esc), (Tbl.find s.ctxs cx).isSome → cx < 2 ^ 16 → (s.ctx cx).ringCol < 1024 → (s.ctx cx).doom = false → x.cause < 256 → x.detail < 16 → x.tcode < 256 → x.core < 2 ^ 16 →
    let c := s.ctx cx
    let key := memKey .save cx c.ringCol (Config.ringBase + 32 * (c.seq.toNat % 64))
    let told := fun (t : State) =>
      t.readN key 8 = x.cause + 2 ^ 8 * 2 + (if c.saveInc then 2 ^ 11 else 0) + 2 ^ 12 * x.detail + 2 ^ 16 * x.tcode + 2 ^ 32 * x.watch.toNat ∧
      t.readN (key + 8) 2 = x.core ∧ t.readN (key + 16) 8 = x.addr.toNat ∧ t.readN (key + 24) 8 = c.seq.toNat ∧
      (∀ k, k < key ∨ key + 32 ≤ k → k / 2 ^ 96 ≠ 7 → memByte t.mem t.epoch k = memByte s.mem s.epoch k) ∧
      (t.ctx cx).seq = c.seq + 1 ∧ (t.ctx cx).rung = some 2 ∧
      ∃ e, (t.die 0).events = (s.die 0).events ++ [e] ∧ e.words = [BitVec.ofNat 64 (2 + 2 ^ 16 * cx + 2 ^ 32 * c.hevt), c.seq]
    (∃ v, s.contextRung cx x = v.switchOut cx ∧ told v) ∧
    ((∀ w ∈ s.watches, w.2.bank = .live → Calm w.2) → told (s.contextRung cx x))

/-- 12 R352, R355, R356, R418: a handler that overruns its limit goes one rung up with HTIMEOUT; the host's silence goes to the partition rung, the
partition's to the device rung, both with HTIMEOUT, 0x51 (DEDUCED, log 38); the watchdog of a context with a run in progress escalates it with WDOG,
or its partition with SAVEINC while a spill of it runs, once until it is reloaded; a stuck spill is the device's. -/
def TimeoutsEscalate : Prop :=
  ∀ (s : State) (w cx core p : Nat) (kill : List Nat) (x : Watch),
    (Tbl.find s.watches w = some x → x.inh = true → x.ended = false → s.isLive x = true →
      (if x.rung = 0 then (s.ctx x.ctx).wto else (s.ctx x.ctx).cto) ≠ 0 →
      exec (.handlerTimeout w) s = .next ((s.settleMatrix w).oneRungUp w { cause := 0x51 })) ∧
    ((s.ctx cx).rung = some 2 → (s.ctx cx).xto ≠ 0 →
      exec (.xtoTimeout cx kill) s = .next (s.partitionRung (s.ctx cx).part { cause := 0x51 } kill)) ∧
    ((∃ c ∈ s.ctxs, c.2.part = p ∧ c.2.rung = some 3) → exec (.partitionTimeout p) s = .next (s.deviceRung 0x51)) ∧
    ((s.ctx cx).wdog = 0 → exec (.watchdogExpire ⟨cx, kill⟩) s = .next s) ∧
    ((s.ctx cx).wdogLoad ≠ 0 → (s.ctx cx).wdog ≠ 0 → (s.ctx cx).out = false → s.inRun cx = true →
      let u := s.modCtx cx fun c => { c with wdog := 0 }
      ((∀ k ∈ s.cores, k.2.standby ≠ .spill cx) → exec (.watchdogExpire ⟨cx, kill⟩) s = .next (u.contextRung cx { cause := 0x53 })) ∧
      ((∃ k ∈ s.cores, k.2.standby = .spill cx) → exec (.watchdogExpire ⟨cx, kill⟩) s =
        .next ((u.modCtx cx fun c => { c with saveInc := true }).partitionRung (s.ctx cx).part { cause := 0x5A } kill))) ∧
    (∀ k, (s.core core).standby = .spill k → exec (.spillstuck core) s = .next (s.deviceRung 0x56))

/-- 09 R263, 12 R351, R352: a fault in a handler of the watch rung goes to the crew rung: with CVEC 0 the context escalates with NOVEC, else the watch
ends by fault and a handler starts in its place at CVEC, with the record's address in S1 and the cause in S2. From a crew-rung handler the context
escalates. An escalation raised inside a handler goes one rung above it with HFAULT; one without a trap (PAGEF, FATOMOVF) has its own code in TCODE
(DESIGN CHOICE, log 71). -/
def RungsGoUp : Prop :=
  ∀ (s : State) (w : Nat) (x : Esc),
    let v := s.watch w
    let y := s.escOf w x
    (v.inh = true → v.ended = false → s.escalate w x = (s.settleMatrix w).oneRungUp w { x with cause := 0x52, tcode := x.cause }) ∧
    (v.inh = false ∨ v.ended = true → s.escalate w x = s.contextRung v.ctx y) ∧
    (v.rung ≠ 0 → s.oneRungUp w x = s.contextRung v.ctx y) ∧
    (v.rung = 0 → (s.ctx v.ctx).cvec = 0 → s.oneRungUp w x = s.contextRung v.ctx { y with cause := 0x59, tcode := x.tcode }) ∧
    (v.rung = 0 → (s.ctx v.ctx).cvec ≠ 0 → (Tbl.find s.watches w).isSome → w ≠ s.next → ∃ z, Tbl.find (s.oneRungUp w x).watches s.next = some z ∧
      z.kind = .crewHandler ∧ z.inh = true ∧ z.rung = 1 ∧ z.core = v.core ∧ z.slot = v.slot ∧ z.col0 = v.col0 ∧ z.width = v.width ∧
      z.entry 0 = handler v (s.ctx v.ctx).cvec ∧ z.sreg 1 = (s.ctx v.ctx).recordAddr ∧ z.sreg 2 = BitVec.ofNat 64 x.cause ∧
      ((s.oneRungUp w x).watch w).ended = true)

end Sys2Proof.Spec

/-! ## The engines (08 R223 to R235, 07 R205, R206, 10 R292 to R301) -/

namespace Sys2Proof.Spec
open Sys2Proof.Machine

/-- A command of an engine waits on path 9 to be accepted. -/
def Waits (s : State) (w op maj : Nat) (x : Watch) (o : Op) : Prop := AtOp s w op x o ∧ o.kind = .engine ∧ o.cmd.maj = maj

/-- A watch but for the moments at which its waiting commands became acceptable (08 R234), which only order their acceptance. -/
def Ripened (x y : Watch) : Prop :=
  y = { x with ops := y.ops } ∧ y.ops.map (fun o => { o with ripe := 0 }) = x.ops.map fun o => { o with ripe := 0 }

/-- Watch w becomes y, and every other watch stays, but for those moments. -/
def WatchesTo (s t : State) (w : Nat) (y : Watch) : Prop :=
  (∃ z, Tbl.find t.watches w = some z ∧ Ripened y z) ∧
  ∀ n, n ≠ w → (Tbl.find s.watches n = none → Tbl.find t.watches n = none) ∧
    ∀ x, Tbl.find s.watches n = some x → ∃ z, Tbl.find t.watches n = some z ∧ Ripened x z

/-- Every watch stays, but for those moments. -/
def WatchesStay (s t : State) : Prop :=
  ∀ n, (Tbl.find s.watches n = none → Tbl.find t.watches n = none) ∧
    ∀ x, Tbl.find s.watches n = some x → ∃ z, Tbl.find t.watches n = some z ∧ Ripened x z

/-- The command is accepted: path 9 falls, and nothing is written. -/
def Taken (s t : State) (w op : Nat) (x : Watch) : Prop := WatchesTo s t w (x.finishOp op) ∧ t.next = s.next + 1 ∧ t.mem = s.mem

/-- The ranges `l` stand at the end of the columns' lock tables. -/
def LocksTaken (s t : State) (l : List (Nat × Lock)) : Prop :=
  ∀ c, (t.column c).locks = (s.column c).locks ++ (l.filter fun p => p.1 == c).map (·.2)

/-- No column holds a range of the command `id` any more, and every other range stands. -/
def LocksFreed (s t : State) (id : Nat) : Prop := ∀ c, (t.column c).locks = (s.column c).locks.filter fun k => k.owner != id

/-- 08 R234, R235: the ranges of a command can be had when each column has room for its own among 32 and none of them conflicts with a range that is held:
they overlap, and one of the two is of kind write. A column-blocked row beyond the last column stands for column 1023 in the ranges (DESIGN CHOICE,
log 68). -/
def RangesConflictOverWrites : Prop :=
  ∀ (s : State) (l : List (Nat × Lock)), s.locksFree l = true ↔ ∀ p ∈ l,
    (s.column p.1).locks.length + (l.filter fun q => q.1 == p.1).length ≤ 32 ∧
    ∀ k ∈ (s.column p.1).locks, ¬(p.2.ctx = k.ctx ∧ p.2.tag = k.tag ∧ p.2.lo < k.hi ∧ k.lo < p.2.hi ∧ (p.2.write = true ∨ k.write = true))

/-- 09 R258: the end of a command arrives once at its barrier object, and with a failure sets EFAIL first; PENDING 0 stays 0. Without an object nothing is
written. -/
def EnginesSignalTheirObject : Prop :=
  ∀ (s : State) (key p e n ef mk : Nat) (fail : Bool), p < 2 ^ 32 → e < 2 ^ 32 → n < 2 ^ 32 → ef < 2 ^ 16 → mk < 2 ^ 16 →
    s.readN key 16 = object p e n ef mk →
    let f := if fail then ef ||| 1 else ef
    s.engineArrive none fail = s ∧
    Stores s (s.engineArrive (some key) fail) key 16
      (if p = 0 then object 0 e n f mk else if p = 1 then object e e ((n + 1) % 2 ^ 32) f mk else object (p - 1) e n f mk) ∧
    (s.engineArrive (some key) fail).watches = s.watches

/-- The place of row r of an array of the storage side (08 R227, 06 R173): by its address and pitch in its own column, or spread over the
columns L of the context in blocks of BLK rows or in turn. A block beyond the last column has the place 1023 (log 68). -/
def rowOf (d : List Word) (l : List Nat) (col : Nat) (a : Word) (pitch r n : Nat) : Pl :=
  let i := cdRow0 d + r
  if cdDist d = 0 then placeAt a col (r * pitch + n)
  else if cdDist d = 1 then placeAt a (l[i / cdBlk d]?.getD 1023) (i % cdBlk d * pitch + n)
  else placeAt a (l[i % l.length]?.getD 1023) (i / l.length * pitch + n)

/-- A move between the storage side and the canonical side, in the direction of DIR; the parts name a whole byte (0) or its low or high half
(1, 2). -/
def carries (d : List Word) (st : Pl) (sp : Nat) (ca : Pl) (cp : Nat) : Move :=
  if cdDir d then { dst := st, dpart := sp, src := some ca, spart := cp } else { dst := ca, dpart := cp, src := some st, spart := sp }

/-- What a copy of form 1 or 2 moves (08 R227 to R229), the columns of the storage side, of the canonical side, and of the micro-scale and the
band or block scale arrays given: every element between its storage place and its place in the canonical blocks, each scale between its array
and the scale panel of its block, and in an expansion zeros into the padding. -/
def Carried (d : List Word) (l : List Nat) (sc cc mc bc : Nat) (m : Move) : Prop :=
  let t := cdType d
  let w := tyWidth t
  let ks := cdKs d
  let n := cdRows d
  let nb := max 1 (ks / cdG d)
  let panel := n * ks * w / 8
  let size := panel + if t = 5 then n * ks / 8 + 2 * nb else if t = 3 ∨ t = 4 then n * nb else 0
  let sb := (size + 255) / 256 * 256
  let canon := fun b x => placeAt (cdCanon d) cc (b * sb + x)
  let grp := fun b h => (b * ks + h * min (cdG d) ks) / cdG d
  (∃ r k, r < n ∧ k < cdKlen d ∧
    let y := k % ks * w / 8
    let at_ := r / 8 * (8 * ks * w / 8) + y / 32 * 256 + r % 8 * 32 + y % 32
    let st := fun z => if cdForm d = 1 then rowOf d l sc (cdStore d) (cdSpitch d) r (k * w / 8 + z)
      else placeAt (cdStore d) sc (k * cdSpitch d + r * w / 8 + z)
    if w = 4 then m = carries d (st 0) (1 + (if cdForm d = 1 then k else r) % 2) (canon (k / ks) at_) (1 + k % 2)
    else ∃ z, z < w / 8 ∧ m = carries d (st z) 0 (canon (k / ks) (at_ + z)) 0) ∨
  (∃ b, b < cdKlen d / ks ∧
    ((t = 5 ∧ ∃ r j, r < n ∧ j < ks / 8 ∧
        m = carries d (rowOf d l mc (cdMscl d) (cdMspitch d) r (b * (ks / 8) + j)) 0 (canon b (panel + r * (ks / 8) + j)) 0) ∨
      (t = 5 ∧ ∃ h z, h < nb ∧ z < 2 ∧
        m = carries d (placeAt (cdBscl d) bc (2 * grp b h + z)) 0 (canon b (panel + n * (ks / 8) + 2 * h + z)) 0) ∨
      ((t = 3 ∨ t = 4) ∧ ∃ r h, r < n ∧ h < nb ∧
        m = carries d (rowOf d l bc (cdBscl d) (cdBspitch d) r (grp b h)) 0 (canon b (panel + r * nb + h)) 0) ∨
      (cdDir d = false ∧ ∃ x, size ≤ x ∧ x < sb ∧ m = { dst := canon b x })))

/-- 08 R223, R227 to R236: the copy engine takes up to 16 commands, each with its ranges, those that became acceptable first going first; it writes its
destination sectors one by one in their order, each byte or half byte from its source, every source sector having been read at one point; and it ends
with STAT, its ranges freed and its object signalled. It waits for the ranges of other commands, and for a page that is not resident. A place that is
a hole ends it with code 2, another that does not translate with 3; a column-blocked row beyond the last column is such a hole (DESIGN CHOICE, log
68). -/
def CopiesMoveTheirBytes : Prop :=
  (∀ (s : State) (w op : Nat) (x : Watch) (o : Op), Waits s w op 0x30 x o →
    let j := s.jobOf w x o
    let l := s.copyLocks j
    let clear := ∀ p ∈ s.nolkdRanges 0x30 j, ∀ k ∈ (s.column p.1).locks, p.2.conflicts k = false
    (16 ≤ (s.core x.core).copies.length ∨ s.locksFree l = false ∨ ¬clear ∨ s.outranked w x o = true → exec (.tcopyAccept w op) s = .next s) ∧
    ((s.core x.core).copies.length < 16 → s.locksFree l = true → clear → s.outranked w x o = false →
      ∃ t, exec (.tcopyAccept w op) s = .next t ∧ Taken s t w op x ∧
        LocksTaken s t l ∧ t.core x.core = { s.core x.core with copies := (s.core x.core).copies ++ [j] })) ∧
  (∀ (s : State) (j : Job) (m : Move),
    let d := j.cmd.desc
    let to_ := fun n => placeAt (cdDst d) (s.jobCol j (cdDst d)) n
    let from_ := fun n => placeAt (cdSrc d) (s.jobCol j (cdSrc d)) n
    let bare := { m with dst := { m.dst with pos := 0 } }
    let moved := fun (P : Prop) => m ∈ s.moves j ↔ P ∧
      m.dst.pos = if (s.ctx j.ctx).cols.contains m.dst.pcn then (s.ctx j.ctx).lcn m.dst.pcn else 1023
    (cdForm d = 0 → moved (∃ i, i < cdExtent d ∧ bare = { dst := to_ i, src := some (from_ i) })) ∧
    (cdForm d = 3 → moved (∃ r i, r < cdRows d ∧ i < cdKlen d ∧
      bare = { dst := to_ (r * cdDpitch d + i), src := some (from_ (r * cdSpitch d + i)) })) ∧
    (cdForm d = 1 ∨ cdForm d = 2 → moved (Carried d j.cmd.extra (s.jobCol j (cdStore d)) (s.jobCol j (cdCanon d)) (s.jobCol j (cdMscl d))
      (s.jobCol j (cdBscl d)) bare))) ∧
  ∀ (s : State) (core k : Nat) (j : Job), (s.core core).copies[k]? = some j → (∀ i ∈ (s.core core).copies, i.id = j.id → i = j) →
    (∀ sec, j.fail = 0 → (sectorsOf (s.moves j))[j.step]? = some sec →
      let mine := (s.moves j).filter fun m => m.dst.sector == sec
      let at_ := fun (m : Move) b => ∃ h, s.placeKey j m.dst true = .ok b h
      let src := (mine.filterMap (·.src)).filter fun p => (Tbl.find j.reads p.sectorNo).isNone
      let miss := (s.firstXres j false src).or (s.firstXres j true (mine.map (·.dst)))
      let locked := (∃ p ∈ src, s.placeLocked j false p = true) ∨ ∃ m ∈ mine, s.placeLocked j true m.dst = true
      let i := s.readSources j src
      (∀ n v, Tbl.find j.reads n = some v → Tbl.find i.reads n = some v) ∧
      (miss = none → ∀ p ∈ src, ∃ q ∈ src, ∃ key h, q.sectorNo = p.sectorNo ∧ s.placeKey j q false = .ok key h ∧
        Tbl.find i.reads p.sectorNo = some (s.colBytes q.pcn (key - q.off % 32) 32)) ∧
      (miss = none → locked → exec (.tcopySectorWrite core k) s = .next s) ∧
      (miss = none → ¬locked → ∃ t, exec (.tcopySectorWrite core k) s = .next t ∧ t.watches = s.watches ∧
        { j with step := j.step + 1, reads := i.reads } ∈ (t.core core).copies ∧
        (s.hostAcks = [] ∨ (∀ m ∈ mine, ∀ b, at_ m b → isHostKey b = false) →
          (∀ b, (∀ m ∈ mine, ¬at_ m b) → memByte t.mem t.epoch b = memByte s.mem s.epoch b) ∧
          ∀ m ∈ mine, ∀ b, at_ m b → (∀ z ∈ mine, at_ z b → z = m) → m.dpart = 0 → m.spart = 0 → (mine.filter (· == m)).length = 1 →
            memByte t.mem t.epoch b = BitVec.ofNat 8 ((m.src.map i.byteRead).getD 0))) ∧
      (∀ p c, miss = some (p, .fault c) → exec (.tcopySectorWrite core k) s = .next (s.modCopy core j.id fun j =>
        { j with fail := if c = 0x12 then 2 else 3 })) ∧
      (∀ p, miss = some (p, .nonres) → (∀ z ∈ s.waits, z.job ≠ j.id) → exec (.tcopySectorWrite core k) s =
        .next (s.addWait { ctx := j.ctx, pcn := p.pcn, off := p.off, job := j.id, addr := (s.ctx j.ctx).addrOf p.pcn p.off }))) ∧
    (j.fail = 0 → j.step < (sectorsOf (s.moves j)).length → exec (.tcopyComplete core k) s = .next s) ∧
    (let shut := s.lockWaits j.id j.ctx (s.jobCol j j.cmd.a) 1 (offOf j.cmd.a + 56) 8 true = true
     j.fail ≠ 0 ∨ (sectorsOf (s.moves j)).length ≤ j.step → (shut → exec (.tcopyComplete core k) s = .next s) ∧
      (¬shut → ∃ u : State, exec (.tcopyComplete core k) s = .next (u.engineArrive j.cmd.obj (j.fail != 0)) ∧
        Stores s u (s.scratchKey j j.cmd.a + 60) 4 ((if j.fail = 0 then 1 else j.fail) + 2 ^ 8 * min 0xFFFFFF j.step) ∧ WatchesStay s u ∧
        LocksFreed s u j.id ∧ (u.core core).copies = (s.core core).copies.filter fun i => i.id != j.id))

/-- 07 R205, R206, 08 R234, R235: a WLOAD is accepted with its source range and takes its place among the array's users; it copies its next sector
into the buffer once no earlier WLOAD has still to write there and no earlier MMA to read there; and it ends with its range freed and its object
signalled, which no range lock holds up (09 R256). -/
def WloadsFillTheBuffer : Prop :=
  (∀ (s : State) (w op : Nat) (x : Watch) (o : Op), Waits s w op 0x31 x o →
    let j := { s.jobOf w x o with ord := (s.core x.core).matNext }
    (s.locksFree j.wloadLock = false ∨ s.outranked w x o = true → exec (.wloadAccept w op) s = .next s) ∧
    (s.locksFree j.wloadLock = true → s.outranked w x o = false →
      ∃ t, exec (.wloadAccept w op) s = .next t ∧ Taken s t w op x ∧ LocksTaken s t j.wloadLock ∧
        t.core x.core = { s.core x.core with wloads := (s.core x.core).wloads ++ [j], matNext := (s.core x.core).matNext + 1 })) ∧
  ∀ (s : State) (core k : Nat) (j : Job), (s.core core).wloads[k]? = some j → (∀ i ∈ (s.core core).wloads, i.id = j.id → i = j) →
    let v := fun (i : Nat) => j.cmd.extra[i]?.getD 0
    let off := v 2 + 32 * j.step
    let src := s.keyNow j.ctx { pcn := v 1, addr := BitVec.ofNat 64 (v 0) <<< 52 ||| BitVec.ofNat 64 off, key := memKey .plain j.ctx (v 1) off }
    let dst := memKey .wbuf j.ctx (j.core * 2 + v 5) (v 3 + 32 * j.step)
    (j.fail = 0 → s.wloadReady core j = false → exec (.wloadSectorWrite core k) s = .next s) ∧
    (j.fail = 0 → s.wloadReady core j = true → ∃ t, exec (.wloadSectorWrite core k) s = .next t ∧ t.watches = s.watches ∧
      { j with step := j.step + 1 } ∈ (t.core core).wloads ∧
      ∀ b, memByte t.mem t.epoch b = if dst ≤ b ∧ b < dst + 32 then memByte s.mem s.epoch (src + (b - dst)) else memByte s.mem s.epoch b) ∧
    (j.fail = 0 → j.step < v 4 → exec (.wloadComplete core k) s = .next s) ∧
    (j.fail ≠ 0 ∨ v 4 ≤ j.step → ∃ u : State, exec (.wloadComplete core k) s = .next (u.engineArrive j.cmd.obj (j.fail != 0)) ∧ u.mem = s.mem ∧
        WatchesStay s u ∧ LocksFreed s u j.id ∧ (u.core core).wloads = (s.core core).wloads.filter fun i => i.id != j.id)

/-- A census that is in flight, the only one of its number. -/
def CensusIs (s : State) (cx n : Nat) (c : Census) : Prop :=
  (Tbl.find s.ctxs cx).isSome ∧ (s.ctx cx).censuses.find? (fun c => c.n == n) = some c

/-- `t` is `s` but for that census. -/
def CensusTo (s t : State) (cx n : Nat) (c : Census) : Prop := t = s.modCensus cx n fun _ => c

/-- 10 R292 to R296: a SOLIC opens a census over the cores solicited then, at most 64 of a context being in flight; each core looks its directory up:
a hole counts as lost, a held entry of the key that was stored before calls for a responder, else stubs count as moved, with the
lowest column; once all have answered, and no command's range holds those bytes, the reply record stands at the object's bytes 16 to 47 and the
object is signalled. Its value is the OR, the sum, the minimum or the first core's of the replies. -/
def CensusesAnswer : Prop :=
  (∀ (s : State) (w op : Nat) (x : Watch) (o : Op), Waits s w op 0x33 x o → (Tbl.find s.ctxs x.ctx).isSome →
    let c := s.ctx x.ctx
    let v := fun (i : Nat) => o.cmd.extra[i]?.getD 0
    let set := s.solicited x.ctx (v 2)
    (64 ≤ c.censuses.length → exec (.solicAccept w op) s = .next s) ∧
    (c.censuses.length < 64 → ∃ t, exec (.solicAccept w op) s = .next t ∧ Taken s t w op x ∧ t.ctx x.ctx = { c with
      nextCensus := c.nextCensus + 1
      censuses := c.censuses ++ [{ n := c.nextCensus, job := s.jobOf w x o, key := o.cmd.a.toNat % 2 ^ 48, role := v 1, fold := v 0
                                   set := set, pending := set }] })) ∧
  ∀ (s : State) (cx n core : Nat) (c : Census), CensusIs s cx n c →
    let did := { c with pending := c.pending.erase core }
    let lookup := fun (z : Census) => exec (.directoryLookup cx n core) s = .next (s.modCensus cx n fun _ => z)
    let e := fun (i : Nat) => s.dirWord cx core i
    let held := fun (i : Nat) => deState (e i) = 1 ∧ deKey (e i) = c.key ∧ Tbl.getD (s.ctx cx).stamps (core * 256 + i) 0 ≤ n
    let stub := fun (i : Nat) => deState (e i) = 2 ∧ deKey (e i) = c.key
    (core ∉ c.pending → exec (.directoryLookup cx n core) s = .next s) ∧
    (core ∈ c.pending →
      ((s.ctx cx).dirCol core = none → lookup { did with lost := c.lost + 1 }) ∧
      ∀ p, (s.ctx cx).dirCol core = some p →
        ((s.ctx cx).pcnLive ((s.ctx cx).lcn p) = none → lookup { did with lost := c.lost + 1 }) ∧
        ((s.ctx cx).pcnLive ((s.ctx cx).lcn p) ≠ none →
          (∀ i, i < 256 → held i → (∀ k, k < i → ¬held k) → 
            lookup { did with spawns := c.spawns ++ [{ core := core, index := i, entry := e i }] }) ∧
          ((∀ i, i < 256 → ¬held i) → (∀ i, i < 256 → ¬stub i) → lookup did) ∧
          ((∀ i, i < 256 → ¬held i) → ∀ i, i < 256 → stub i → ∃ m, lookup { did with moved := c.moved + 1, mcol := m } ∧
            m ≤ c.mcol ∧ m ≤ deCol (e i) ∧ (m = c.mcol ∨ ∃ k, k < 256 ∧ stub k ∧ m = deCol (e k))))) ∧
    (c.pending ≠ [] ∨ c.spawns ≠ [] ∨ c.running ≠ [] → exec (.censusComplete cx n) s = .next s) ∧
    (c.pending = [] → c.spawns = [] → c.running = [] → ∀ key, c.job.cmd.obj = some key →
      let shut := s.lockWaits 0 cx (key / 2 ^ 64 % 2 ^ 16) 1 (key % 2 ^ 64 + 16) 32 true = true
      (shut → exec (.censusComplete cx n) s = .next s) ∧ (¬shut → ∃ u : State,
      exec (.censusComplete cx n) s = .next (u.engineArrive (some key) (c.lost != 0)) ∧ u.watches = s.watches ∧
      (u.ctx cx).censuses = (s.ctx cx).censuses.filter (fun k => k.n != n) ∧
      Stores s u (key + 16) 32 (c.value.toNat + 2 ^ 64 * c.set.length + 2 ^ 80 * c.replies.length + 2 ^ 96 * c.moved + 2 ^ 112 * c.lost + 2 ^ 128 * c.mcol +
        2 ^ 144 * if c.lost = 0 then 1 else 2))) ∧
    (c.fold = 1 → c.value = c.replies.foldl (fun v r => v + r.2) 0) ∧ (c.fold = 0 → c.value = c.replies.foldl (fun v r => v ||| r.2) 0) ∧
    (c.fold = 3 → c.replies = [] → c.value = 0) ∧
    (c.fold = 3 → c.replies ≠ [] → ∃ r ∈ c.replies, r.2 = c.value ∧ ∀ q ∈ c.replies, r.1 ≤ q.1) ∧
    (c.fold = 2 → c.replies = [] → c.value = BitVec.allOnes 64) ∧
    (c.fold = 2 → c.replies ≠ [] → (∀ r ∈ c.replies, c.value.toNat ≤ r.2.toNat) ∧ ∃ r ∈ c.replies, r.2 = c.value)

/-- 10 R293, R294, 01 R12: a responder that a census calls for is spawned where the core has a slot and columns for it, with its entry, its
parameters, and in its registers the directory entry as the lookup found it, the key, the asker's home LCN and the entry's index. -/
def RespondersAreSpawned : Prop :=
  ∀ (s : State) (cx n core slot col0 : Nat) (c : Census) (sp : Spawn), CensusIs s cx n c → c.spawns.find? (fun p => p.core == core) = some sp →
    let l := s.launch c.job.launch
    s.runsOn cx core = true → Tbl.find l.cores core = some 0 →
    s.fitIn (s.residents core) cx core l.scratch l.xwin l.width (l.roleAllot c.role) (colSets l.width) = some (slot, col0) →
    ∃ t x, exec (.responderSpawn cx n core) s = .next t ∧ Tbl.find t.watches s.next = some x ∧
      (∀ k, k ≠ s.next → Tbl.find t.watches k = Tbl.find s.watches k) ∧
      (t.ctx cx).censuses.find? (fun c => c.n == n) = some { c with spawns := c.spawns.filter (fun p => p.core != core), running := c.running ++ [s.next] } ∧
      x.kind = .responder ∧ x.ctx = cx ∧ x.core = core ∧ x.slot = slot ∧ x.col0 = col0 ∧ x.width = l.width ∧ x.role = c.role ∧
      (x.entry 0).valid = true ∧ (x.entry 0).pc = l.entryPc c.role ∧ (x.entry 0).mask = x.full ∧
      x.sreg 1 = l.paramBase ∧ x.sreg 2 = BitVec.ofNat 64 (c.job.cmd.extra[3]?.getD 0) ∧ x.sreg 3 = BitVec.ofNat 64 l.hdrBlocks ∧ x.sreg 4 = 0 ∧
      x.sreg 5 = BitVec.ofNat 64 c.role ∧ x.sreg 6 = BitVec.ofNat 64 c.key ∧ x.sreg 7 = sp.entry.extractLsb' 64 64 ∧
      x.sreg 8 = (sp.entry.extractLsb' 128 32).setWidth 64 ∧ x.sreg 9 = (sp.entry.extractLsb' 160 32).setWidth 64 ∧ x.sreg 10 = 0 ∧
      x.sreg 11 = BitVec.ofNat 64 (c.job.cmd.extra[4]?.getD 0) ∧ x.sreg 12 = BitVec.ofNat 64 sp.index

/-- 10 R291: an access to a directory entry that waits for its acknowledgement answers once no census that was in flight when it wrote
is left. -/
def DirectoryWritesAreAcknowledged : Prop :=
  ∀ (s : State) (w op : Nat) (x : Watch) (o : Op), AtOp s w op x o → o.stamp ≠ 0 →
    ((∃ c ∈ (s.ctx x.ctx).censuses, c.n + 1 < o.stamp) → exec (.directoryInsertAck w op) s = .next s) ∧
    ((∀ c ∈ (s.ctx x.ctx).censuses, o.stamp ≤ c.n + 1) → ∃ t y, exec (.directoryInsertAck w op) s = .next t ∧ WatchIs s t w y ∧ t.mem = s.mem ∧
      y = { x with s := y.s, v := y.v, ops := y.ops } ∧
      let z := x.modOp op fun _ => { o with stamp := 0 }
      y.ops = (if o.all = true then z.finishOp op else z).ops)

/-- 10 R297, R300, R301: a cluster's auction engine takes up to 4 commands, each with its ranges; it runs the oldest and writes the output area:
each row's column or 0xFF, the prices, and the rows left over; then STAT, once no other command's range holds it, its ranges freed and its
object signalled. One that met an uncorrectable error writes no output area, and ends with code 4 and EFAIL. -/
def AuctionsRun : Prop :=
  (∀ (s : State) (w op : Nat) (x : Watch) (o : Op), Waits s w op 0x34 x o →
    let j := s.jobOf w x o
    let cl := s.cluster (clusterOfCore x.core)
    let l := s.auctLocks j
    (4 ≤ cl.auct.length ∨ s.locksFree l = false ∨ s.outranked w x o = true → exec (.auctAccept w op) s = .next s) ∧
    (cl.auct.length < 4 → s.locksFree l = true → s.outranked w x o = false →
      ∃ t, exec (.auctAccept w op) s = .next t ∧ Taken s t w op x ∧ LocksTaken s t l ∧
        t.cluster (clusterOfCore x.core) = { cl with auct := cl.auct ++ [j] })) ∧
  ∀ (s : State) (cl : Nat) (j : Job) (rest : List Job), (s.cluster cl).auct = j :: rest →
    let a := s.auction j
    let out := s.scratchKey j (adOut j.cmd.desc)
    let shut := s.lockWaits j.id j.ctx (s.jobCol j j.cmd.a) 1 (offOf j.cmd.a + 56) 8 true = true
    let ends := fun status => (shut → exec (.auctComplete cl) s = .next s) ∧ (¬shut → ∃ u : State,
      exec (.auctComplete cl) s = .next (u.engineArrive j.cmd.obj (j.fail != 0)) ∧
      Stores s u (s.scratchKey j j.cmd.a + 56) 4 status ∧ WatchesStay s u ∧ LocksFreed s u j.id ∧ (u.cluster cl).auct = rest)
    (j.step = 0 → j.fail = 0 → exec (.auctComplete cl) s = .next s ∧ ∃ t j', exec (.auctRun cl) s = .next t ∧ t.watches = s.watches ∧
      (t.cluster cl).auct = j' :: rest ∧ j' = { j with step := 1, work := [if a.left = [] then 1 else 5, a.round, a.left.length] } ∧
      (∀ b, b < out ∨ out + 328 ≤ b → memByte t.mem t.epoch b = memByte s.mem s.epoch b) ∧
      (∀ i, i < 64 → memByte t.mem t.epoch (out + i) = BitVec.ofNat 8 (((a.hold[i]?.getD none).map (·.1)).getD 0xFF)) ∧
      (∀ i, i < 64 → t.readN (out + 64 + 4 * i) 4 = (a.p[i]?.getD 0) % 2 ^ 32) ∧
      ∀ i, i < 64 → ((t.readN (out + 320) 8).testBit i = true ↔ a.hold[i]? = some none)) ∧
    (j.step ≠ 0 → j.fail = 0 → exec (.auctRun cl) s = .next s ∧ ∀ c r n, j.work = [c, r, n] → ends (c + 2 ^ 8 * r + 2 ^ 24 * n)) ∧
    (j.fail ≠ 0 → exec (.auctRun cl) s = .next s ∧ ends j.fail)

end Sys2Proof.Spec

/-! ## The launch scheduler (11 R309 to R332) -/

namespace Sys2Proof.Spec
open Sys2Proof.Machine

/-- A trigger of graph g by context cx with a patch list enters the FIFO of the graph's die (11 R314): its header and its patches stand in
scheduler memory at a slot of the FIFO, and no other byte changes. -/
def Enqueued (s t : State) (g cx : Nat) (patch : List Word) : Prop :=
  let die := graphDie g
  ∃ f, f < 256 ∧ (∀ x ∈ (s.die die).fifo, x.slot ≠ f) ∧
    (t.die die).fifo = (s.die die).fifo ++ [{ graph := g, ctx := cx, patch := patch, slot := f }] ∧
    t.readN (schedKey die (0x9000 + 16 * f)) 16 = (g % 4096 + 2 ^ 16 * (patch.length / 2)) % 2 ^ 128 ∧
    (∀ (i : Nat) v, patch[i]? = some v → t.readN (schedKey die (0x10000 + 1024 * f + 8 * i)) 8 = v.toNat) ∧
    ∀ k, (∀ i, i < 16 → k ≠ schedKey die (0x9000 + 16 * f) + i) → (∀ i, i < 8 * patch.length → k ≠ schedKey die (0x10000 + 1024 * f) + i) →
      memByte t.mem t.epoch k = memByte s.mem s.epoch k

/-- 11 R314 to R316: a kernel's trigger is accepted once the FIFO has room; an active queue takes the entry at HEAD as a trigger, or counts it as bad
where it breaks the rules, and HEAD goes up; where the FIFO is full it stays. The ring at RBASE and the patch list stand at offsets of scheduler
memory (DEDUCED, log 35). -/
def TriggersEnterTheFifo : Prop :=
  (∀ (s : State) (w op g : Nat) (x : Watch) (o : Op), Waits s w op 0x37 x o → o.cmd.extra = [g] →
    (256 ≤ (s.die (graphDie g)).fifo.length → exec (.triggerAccept w op) s = .next s) ∧
    ((s.die (graphDie g)).fifo.length < 256 → ∃ t, exec (.triggerAccept w op) s = .next t ∧ WatchIs s t w (x.finishOp op) ∧
      Enqueued s t g x.ctx o.cmd.desc)) ∧
  ∀ (s : State) (die q : Nat), die < 2 → q < 64 →
    let k := queueKey die q
    let hd := s.readN (k + 8) 4
    let conf := s.readN k 4
    let e := s.readN (schedKey die (conf % 2 ^ 22 + 16 * (hd % 2 ^ (conf / 2 ^ 22 % 16)))) 16
    let g := e % 2 ^ 12
    let n := e / 2 ^ 16 % 2 ^ 7
    let off := e / 2 ^ 64
    let patch := s.patchAt die off n
    let bad := e / 2 ^ 12 % 16 ≠ 0 ∨ e / 2 ^ 23 % 2 ^ 41 ≠ 0 ∨ off % 16 ≠ 0 ∨ 2 ^ 22 < off + 16 * n ∨ s.triggerOk g (s.queueCtx die q) n patch = false
    let go := s.queueActive die q = true ∧ hd ≠ s.readN (k + 12) 4
    (¬go → exec (.ringEntryTake die q) s = .next s) ∧
    (go → bad → ∃ t, exec (.ringEntryTake die q) s = .next t ∧ t.watches = s.watches ∧ t.readN (k + 8) 4 = (hd + 1) % 2 ^ 32 ∧
      t.readN (k + 16) 2 = min 0xFFFF (s.readN (k + 16) 2 + 1) ∧
      ∀ b, (b < k + 8 ∨ k + 12 ≤ b) → (b < k + 16 ∨ k + 18 ≤ b) → memByte t.mem t.epoch b = memByte s.mem s.epoch b) ∧
    (go → ¬bad → 256 ≤ (s.die (graphDie g)).fifo.length → exec (.ringEntryTake die q) s = .next s) ∧
    (go → ¬bad → (s.die (graphDie g)).fifo.length < 256 → ∃ u t : State, Stores s u (k + 8) 4 (hd + 1) ∧ u.watches = s.watches ∧ u.dies = s.dies ∧
      exec (.ringEntryTake die q) s = .next t ∧ t.watches = s.watches ∧ Enqueued u t g (s.queueCtx die q) patch) ∧
    (s.triggerOk g (s.queueCtx die q) n patch = true ↔ n ≤ 64 ∧ geValid (s.graphEntry g) = true ∧ geCtx (s.graphEntry g) = s.queueCtx die q ∧
      patchBad (gePasize (s.graphEntry g)) patch = false)

/-- 11 R317, R319: a run starts with the oldest trigger whose graph is not BUSY: the trigger leaves the FIFO, BUSY is set, the patches are written in
their order, every node's state area becomes its count of predecessors, and the nodes without any become ready. A node that becomes ready is listed
with its queue; one without blocks and without a vector completes at once, and its successors in list order may become ready by it. Patches are read
at offsets of scheduler memory (DEDUCED, log 35). -/
def RunsStart : Prop :=
  (∀ (s : State) (die : Nat), ((∀ t ∈ (s.die die).fifo, geBusy (s.graphEntry t.graph) = true) → exec (.runStart die) s = .next s) ∧
    ∀ t, (s.die die).fifo.find? (fun t => !geBusy (s.graphEntry t.graph)) = some t →
      let g := t.graph
      let e := s.graphEntry g
      let area := fun i => schedKey die (geBase e + 256 * i + 192)
      ∃ u v : State, (u.die die).fifo = (s.die die).fifo.filter (fun x => x.slot != t.slot) ∧ Tbl.find (u.die die).running g = some 0 ∧
        Stores s u (graphKey g) 1 (s.readN (graphKey g) 1 ||| 2) ∧ u.watches = s.watches ∧ u.launches = s.launches ∧
        (let p := u.applyPatches die (geParea e) t.patch
         v.launches = p.launches ∧ v.watches = p.watches ∧ v.dies = p.dies ∧
         (∀ i k, i < geNodes e → k < 64 → memByte v.mem v.epoch (area i + k) = BitVec.ofNat 8 (2 ^ 16 * p.nodeDeps die (geBase e) i / 256 ^ k)) ∧
         ∀ b, (∀ i, i < geNodes e → b < area i ∨ area i + 64 ≤ b) → memByte v.mem v.epoch b = memByte p.mem p.epoch b) ∧
        exec (.runStart die) s = .next ((((List.range (geNodes e)).foldl (fun r i =>
          if r.nodeDeps die (geBase e) i = 0 then State.makeReady (geNodes e) r die g i else r) v).reloadWdog t.ctx).endRun die g)) ∧
  (∀ (s : State) (die area : Nat) (o v : Word) (rest : List Word), s.applyPatches die area [] = s ∧ ∃ u : State,
    Stores s u (schedKey die (area + o.toNat)) 8 v.toNat ∧ u.dies = s.dies ∧ s.applyPatches die area (o :: v :: rest) = u.applyPatches die area rest) ∧
  (∀ (s : State) (cx n : Nat), ((s.reloadWdog cx).ctx n).wdog = if n = cx then (s.ctx cx).wdogLoad else (s.ctx n).wdog) ∧
  ∀ (s : State) (die g i fuel : Nat),
    let b := s.nodeLaunch die g i
    let bare := b.hdrBlocks = 0 ∧ b.kind ≠ 2
    let failed := Tbl.getD (s.die die).running g 0 ≠ 0 ∧ b.hdrBlocks ≠ 0
    let t := State.makeReady (fuel + 1) s die g i
    (s.successors b = (List.range b.nsucc).map fun j => s.readN (schedKey die (b.succOff + 2 * j)) 2) ∧
    (bare → t = (s.successors b).foldl (fun r j => r.release die g j fun v => State.makeReady fuel v die g j)
      ((s.reloadWdog b.ctx).nodeState b 4)) ∧
    (¬bare → failed → t = s.nodeState b 1) ∧
    (¬bare → ¬failed → ∃ l, Tbl.find t.launches s.next = some l ∧ (∀ n, n ≠ s.next → Tbl.find t.launches n = Tbl.find s.launches n) ∧
      l.die = die ∧ l.graph = g ∧ l.node = i ∧ l.base = geBase (s.graphEntry g) + 256 * i ∧ l.ctx = geCtx (s.graphEntry g) ∧ l.blocks = 0 ∧ l.placed = [] ∧
      (∀ k, k < 24 → l.word k = BitVec.ofNat 64 (s.readN (schedKey die (l.base + 8 * k)) 8)) ∧ Stores s t l.stateKey 1 1 ∧ t.watches = s.watches ∧
      ∀ q, Tbl.getD (t.die die).places q [] = Tbl.getD (s.die die).places q [] ++
        if q = l.queue then [s.next] else [])

/-- 11 R318 to R320: a failed node takes STATE 5 and its code, and the run its first code; nodes that have not begun are dropped, but for those without
blocks, which R319 still completes. A node that has
nothing more under way completes: its queue is unbound, its context's watchdog reloaded, and it releases its successors in list order,
each of which counts one predecessor less and becomes ready at 0. The run ends once no node of it runs and
either all are done or one failed: BUSY falls, RUNS goes up, FSTAT and the event say how it ended. -/
def NodesCompleteAndFail : Prop :=
  (∀ (s : State) (ln : Nat) (l : Launch), Tbl.find s.launches ln = some l →
    let idle := s.launchBusy ln l = false ∧ ¬(l.kind = 2 ∧ l.vec = [] ∧ l.failed = false)
    (¬idle → exec (.nodeComplete ln) s = .next s) ∧ (idle → exec (.nodeComplete ln) s = .next (s.completeNode ln l)) ∧
    (∃ u : State, u.mem = s.mem ∧ u.watches = s.watches ∧ (∀ n, Tbl.find u.launches n = if n = ln then none else Tbl.find s.launches n) ∧
      (∀ d q, Tbl.getD (u.die d).recqs q {} = if (Tbl.getD (s.die d).recqs q {}).bound = some ln then {} else Tbl.getD (s.die d).recqs q {}) ∧
      (∀ c, (u.column c).closed = (s.column c).closed.filter fun k => k.launch != ln) ∧
      (l.failed = true → s.completeNode ln l = (u.reloadWdog l.ctx).endRun l.die l.graph) ∧
      (l.failed = false → s.completeNode ln l = ((u.successors l).foldl (fun r j => r.release l.die l.graph j fun v =>
        State.makeReady (geNodes (u.graphEntry l.graph)) v l.die l.graph j) ((u.reloadWdog l.ctx).nodeState l 4)).endRun l.die l.graph))) ∧
  (∀ (s : State) (l : Launch) (v : Nat), Stores s (s.nodeState l v) l.stateKey 1 v) ∧
  (∀ (s : State) (die g i : Nat) (ready : State → State),
    let k := schedKey die (geBase (s.graphEntry g) + 256 * i + 192)
    let v := s.readN (k + 2) 2
    (v % 4096 = 0 → s.release die g i ready = s) ∧
    (v % 4096 ≠ 0 → ∃ u : State, Stores s u (k + 2) 2 (v - 1) ∧ u.dies = s.dies ∧ u.launches = s.launches ∧ u.watches = s.watches ∧
      s.release die g i ready = if v % 4096 = 1 then ready u else u)) ∧
  (∀ (s : State) (die g code : Nat), Tbl.find (s.die die).running g = some code → code < 256 →
    let e := s.graphEntry g
    let over_ := (∀ l ∈ s.launches, l.2.graph ≠ g) ∧
      (code = 0 → ∀ i, i < geNodes e → s.readN (schedKey die (geBase e + 256 * i + 192)) 1 % 8 = 4)
    let f := if code = 0 then 0xFF else code
    let t := s.endRun die g
    (¬over_ → t = s) ∧
    (over_ → t.watches = s.watches ∧ t.launches = s.launches ∧ Tbl.find (t.die die).running g = none ∧
      t.readN (graphKey g) 1 = s.readN (graphKey g) 1 &&& 0xFD ∧ t.readN (graphKey g + 13) 1 = (geRuns e + 1) % 256 ∧ t.readN (graphKey g + 14) 1 = f ∧
      (∀ b, b ≠ graphKey g → b ≠ graphKey g + 13 → b ≠ graphKey g + 14 → memByte t.mem t.epoch b = memByte s.mem s.epoch b) ∧
      ∃ r, (t.die die).events = (s.die die).events ++ [r] ∧
        r.words = [BitVec.ofNat 64 (1 + 2 ^ 8 * die + 2 ^ 16 * geCtx e + 2 ^ 32 * (g % 4096 + 2 ^ 20 * f)), BitVec.ofNat 64 ((geRuns e + 1) % 256)])) ∧
  ∀ (s : State) (ln code bad : Nat), (Tbl.find s.launches ln).isSome → 0 < code → code < 256 →
    let l := s.launch ln
    ∃ u : State, s.failNode ln code bad = u.endRun l.die l.graph ∧ u.watches = s.watches ∧
      u.readN l.stateKey 2 = 5 + 2 ^ 8 * code ∧ (code = 3 → u.readN (l.stateKey + 14) 2 = bad % 2 ^ 16) ∧
      Tbl.getD (u.die l.die).running l.graph 0 = (if Tbl.getD (s.die l.die).running l.graph 0 = 0 then code else Tbl.getD (s.die l.die).running l.graph 0) ∧
      (l.placed ≠ [] → (s.launches.map (·.1)).Nodup → ∃ m, Tbl.find u.launches ln = some m ∧ m = { l with failed := true, again := [] }) ∧
      (∀ n m, Tbl.find u.launches n = some m → m.graph = l.graph → m.placed ≠ [] ∨ (m.hdrBlocks = 0 ∧ n ≠ ln)) ∧
      ((s.launches.map (·.1)).Nodup → ∀ n m, n ≠ ln → Tbl.find s.launches n = some m → m.graph ≠ l.graph ∨ m.placed ≠ [] ∨ m.hdrBlocks = 0 →
        Tbl.find u.launches n = some m)

/-- 11 R320: the first head that has not passed its checks passes or fails; R321 to R324: once all have, the queue served is one of the highest
level whose head can place, and its blocks are placed: each planned watch gets a fresh number with its slot, its columns, its entry and
its parameters, stopped until the parameter block stands on its core; STATE becomes 2, or 3 with the last block. -/
def HeadsAreCheckedAndPlaced : Prop :=
  (∀ (s : State) (die q ln : Nat),
    let due := fun (n : Nat) => (s.launch n).checked = false ∧
      ¬((s.launch n).kind = 2 ∧ (s.launch n).vec = [] ∧ s.nodeCheck n (s.launch n) = none)
    s.headOf die q = some ln → q < 64 → due ln → (∀ p n, p < q → s.headOf die p = some n → ¬due n) →
      (∀ c, s.nodeCheck ln (s.launch ln) = some c → exec (.blockPlace die) s = .next (s.failNode ln c 0)) ∧
      (s.nodeCheck ln (s.launch ln) = none →
        (s.coschedFails (s.launch ln) = true → exec (.blockPlace die) s = .next (s.failNode ln 1 0)) ∧
        (s.coschedFails (s.launch ln) = false → exec (.blockPlace die) s = .next (s.modLaunch ln fun l => { l with checked := true })))) ∧
  (∀ (s : State) (l : Launch), l.cosched = false ∨ l.team = [] → s.coschedFails l = false) ∧
  (∀ (s : State) (die q : Nat), s.serve die = some q → ∃ ln, s.headOf die q = some ln ∧ (s.headPlan ln).isSome ∧
    ∀ p n, p < 64 → s.headOf die p = some n → (s.headPlan n).isSome → (s.launch n).prio ≤ (s.launch ln).prio) ∧
  ∀ (s : State) (die q ln : Nat) (bs : List Nat) (ws : List Watch), s.checkHead die = none → s.serve die = some q → s.headOf die q = some ln →
    s.headPlan ln = some (bs, ws) → (∀ x ∈ s.watches, x.1 < s.next) →
    let l := s.launch ln
    ∃ t, exec (.blockPlace die) s = .next t ∧ (∀ n, n < s.next → Tbl.find t.watches n = Tbl.find s.watches n) ∧
      Tbl.find (t.die die).lastQ l.prio = some q ∧
      (∀ b, b ∈ (t.launch ln).placed ↔ b ∈ l.placed ∨ b ∈ bs) ∧
      t.readN l.stateKey 1 = (if (t.launch ln).blocks = l.hdrBlocks ∧ (t.launch ln).again = [] then 3 else 2) ∧
      ∀ (i : Nat) x, ws[i]? = some x → ∃ y, Tbl.find t.watches (s.next + i) = some y ∧
        y.launch = ln ∧ y.ctx = x.ctx ∧ y.core = x.core ∧ y.slot = x.slot ∧ y.col0 = x.col0 ∧ y.width = x.width ∧ y.role = x.role ∧ y.index = x.index ∧
        y.lblock = x.lblock ∧ y.allot = x.allot ∧ y.stopped = (Tbl.getD l.cores x.core 1 != 0) ∧
        y.sreg 1 = l.paramBase ∧ y.sreg 2 = x.lblock.setWidth 64 ∧ y.sreg 3 = BitVec.ofNat 64 l.hdrBlocks ∧ y.sreg 4 = BitVec.ofNat 64 x.index ∧
        y.sreg 5 = BitVec.ofNat 64 x.role ∧ (y.entry 0).valid = true ∧ (y.entry 0).mask = x.full ∧ (y.entry 0).pc = l.entryPc x.role

/-- What the scheduler does at a place of a column that does not translate (11 R324, R331; 12 R339): it waits while the page drains, waits for the
MMP where the page is absent or not resident, and comes to `failed` where the page is forbidden. -/
def Missed (s : State) (i : Instr) (ln ctx pcn off : Nat) (store : Bool) (failed : State) : Prop :=
  let x := s.engineXlate ctx pcn off store
  (x = .wait → exec i s = .next s) ∧
  (x = .nonres → exec i s = .next (s.launchWait ln ctx pcn off)) ∧
  ∀ c, x = .fault c → exec i s = .next (if c = 0 ∨ c = 2 then s.launchWait ln ctx pcn off else failed)

/-- 11 R324, R331: the offset vector of a grouped node is read and checked: a hole or a forbidden page fails the node with code 6, a vector that
falls or exceeds GROWS with code 3 and the place; a page that is not resident waits for the MMP, and a byte in a command's range for its
release; a node without blocks is complete then. The parameter block is written into every live column of a core that waits for it, for blocks
placed there or a responder, from the graph's parameter area, and the core's watches start. A forbidden page fails the node with code 5: the
watches that wait for the block on a core never start, and a responder that was to start there answers LOST (DEDUCED, log 90). -/
def ParametersAndVectorsAreServed : Prop :=
  (∀ (s : State) (die q ln : Nat), s.headOf die q = some ln →
    let l := s.launch ln
    let c := s.ctx l.ctx
    let lcn := if colOf l.gvecAddr = 0x3FF then 0 else colOf l.gvecAddr
    let unit := if l.gvecAddr.toNat % 4 = 0 then 4 else 1
    let n := (l.gnum + 1) * (4 / unit)
    let off := fun i => (offOf l.gvecAddr + unit * i) % 2 ^ 42
    l.kind = 2 → l.vec = [] → s.nodeCheck ln l = none →
    (c.pcnLive lcn = none → exec (.gvecRead die q) s = .next (s.failNode ln 6 0)) ∧
    ∀ pcn, c.pcnLive lcn = some pcn →
      (∀ i, i < n → (∀ k, k < i → ∃ key h, s.engineXlate l.ctx pcn (off k) false = .ok key h) →
        Missed s (.gvecRead die q) ln l.ctx pcn (off i) false (s.failNode ln 6 0)) ∧
      ∀ (key : Nat → Nat), (∀ i, i < n → ∃ h, s.engineXlate l.ctx pcn (off i) false = .ok (key i) h) →
        let held := ∃ i, i < n ∧ s.lockWaits 0 l.ctx pcn 0 (off i) unit false = true
        let byte := fun i => s.colN pcn (key i) 1
        let v := fun i => if unit = 4 then s.colN pcn (key i) 4
          else byte (4 * i) + 2 ^ 8 * byte (4 * i + 1) + 2 ^ 16 * byte (4 * i + 2) + 2 ^ 24 * byte (4 * i + 3)
        let bad := fun i => l.grows < v i ∨ (1 ≤ i ∧ v i < v (i - 1))
        (held → exec (.gvecRead die q) s = .next s) ∧
        (¬held → ∀ i, i ≤ l.gnum → bad i → (∀ k, k < i → ¬bad k) → exec (.gvecRead die q) s = .next (s.failNode ln 3 i)) ∧
        (¬held → (∀ i, i ≤ l.gnum → ¬bad i) →
          let u := s.modLaunch ln fun l => { l with vec := (List.range (l.gnum + 1)).map v }
          exec (.gvecRead die q) s = .next (if l.hdrBlocks = 0 then (u.unlist ln).completeNode ln l else u))) ∧
  (∀ (s : State) (ln ctx pcn off : Nat), s.launchWait ln ctx pcn off =
    if ∃ p ∈ s.waits, p.job = ln ∧ p.pcn = pcn ∧ p.off = off then s
    else s.addWait { ctx := ctx, pcn := pcn, off := off, job := ln, addr := (s.ctx ctx).addrOf pcn off }) ∧
  (∀ (s : State) (ln pcn : Nat) (l : Launch), Tbl.find s.launches ln = some l →
    ∃ u : State, s.declineLaunch ln pcn = u.failNode ln (if l.kind = 2 ∧ l.vec = [] then 6 else 5) 0 ∧ u.mem = s.mem ∧ u.dies = s.dies ∧
      (∀ x, x ∈ u.watches ↔ x ∈ s.watches ∧
        ¬(x.2.launch = ln ∧ x.2.stopped = true ∧ x.2.departed = false ∧ Tbl.getD l.cores x.2.core 0 = 1)) ∧
      Tbl.find u.launches ln = some { l with cores := l.cores.filter fun c => c.2 != 1 } ∧
      (∀ n, n ≠ ln → Tbl.find u.launches n = Tbl.find s.launches n) ∧
      (u.ctx l.ctx).censuses = (s.ctx l.ctx).censuses.map fun k => if k.job.launch = ln ∧ (∃ x ∈ k.spawns, x.core = coreOfCol pcn)
        then { k with spawns := k.spawns.filter fun x => x.core != coreOfCol pcn, lost := k.lost + 1 } else k) ∧
  ∀ (s : State) (ln core : Nat), (Tbl.find s.launches ln).isSome →
    let l := s.launch ln
    (s.paramDue ln core l = true ↔ Tbl.find l.cores core = some 1 ∨ (Tbl.find l.cores core = none ∧
      ∃ c ∈ (s.ctx l.ctx).censuses, c.job.launch = ln ∧ ∃ x ∈ c.spawns, x.core = core)) ∧
    let cols := (s.ctx l.ctx).liveCols.filter fun p => coreOfCol p == core
    let off := fun i => (offOf l.paramBase + 8 * i) % 2 ^ 42
    let places := cols.flatMap fun p => (List.range (l.paramSz / 8)).map fun i => (p, off i)
    let src := schedKey l.die (geParea (s.graphEntry l.graph) + l.pblk)
    let go := s.paramDue ln core l = true ∧ s.runsOn l.ctx core = true
    (¬go → exec (.paramWrite ln core) s = .next s) ∧
    (go → ∀ a p o b, places = a ++ (p, o) :: b → (∀ z ∈ a, ∃ key h, s.engineXlate l.ctx z.1 z.2 true = .ok key h) →
      Missed s (.paramWrite ln core) ln l.ctx p o true (s.declineLaunch ln p)) ∧
    (go → ∀ (key : Nat → Nat → Nat), (∀ p i, p ∈ cols → i < l.paramSz / 8 → ∃ h, s.engineXlate l.ctx p (off i) true = .ok (key p i) h) →
      let held := ∃ z ∈ places, s.lockWaits 0 l.ctx z.1 0 z.2 8 true = true
      (held → exec (.paramWrite ln core) s = .next s) ∧
      (¬held → ∃ t, exec (.paramWrite ln core) s = .next t ∧ Tbl.find (t.launch ln).cores core = some 0 ∧
        (∀ n, Tbl.find t.watches n = (Tbl.find s.watches n).map fun w =>
          if w.launch = ln ∧ w.core = core ∧ w.departed = false then { w with stopped := false } else w) ∧
        (s.hostAcks = [] ∨ (∀ p i, p ∈ cols → i < l.paramSz / 8 → isHostKey (key p i) = false) →
          (∀ b, (∀ p i, p ∈ cols → i < l.paramSz / 8 → b < key p i ∨ key p i + 8 ≤ b) → memByte t.mem t.epoch b = memByte s.mem s.epoch b) ∧
          ((∀ p i r k, p ∈ cols → r ∈ cols → i < l.paramSz / 8 → k < l.paramSz / 8 →
              key p i = key r k ∧ i = k ∨ key p i + 8 ≤ key r k ∨ key r k + 8 ≤ key p i) →
            ∀ p i, p ∈ cols → i < l.paramSz / 8 → t.readN (key p i) 8 = s.readN (src + 8 * i) 8))))

/-- 11 R326 to R330: a REC is answered after the watch's older ones to the queue, with 4 where the queue is not bound to a node of its context, 3 where it is closed or its node makes its own
records, 2 where 1,024 records are waiting, else 1, and the record stands at its place in the queue. The scheduler takes the queue's next
record: an empty or skipped one only counts; another goes, with its lane mask, to the block with the fewest waiting among those eligible
with a free slot, ties to the lowest; after the one with LAST every other block gets a closing record. -/
def RecordsAreDelivered : Prop :=
  (∀ (s : State) (w op q : Nat) (x : Watch) (o : Op), Waits s w op 0x36 x o → o.cmd.extra = [q] →
    let r := s.recq q
    let ans := fun (t : State) (c : Nat) => WatchIs s t w ((x.setS (BitVec.ofNat 6 o.d) (BitVec.ofNat 64 c)).finishOp op)
    let older := ∃ p ∈ x.ops, p.kind = .engine ∧ p.cmd.maj = 0x36 ∧ p.done = false ∧ p.seq < o.seq ∧ p.cmd.extra = [q]
    let tells := fun (c : Nat) => ∃ t, exec (.recAnswer w op) s = .next t ∧ ans t c ∧ t.mem = s.mem ∧ t.recq q = r
    (older → exec (.recAnswer w op) s = .next s) ∧
    (¬older → r.bound = none → tells 4) ∧
    ∀ ln, ¬older → r.bound = some ln →
      let l := s.launch ln
      (l.ctx ≠ x.ctx → tells 4) ∧
      (l.ctx = x.ctx → r.closed = true ∨ l.kind ≠ 1 → tells 3) ∧
      (l.ctx = x.ctx → r.closed = false → l.kind = 1 → 1024 ≤ r.appended - r.taken → tells 2) ∧
      (l.ctx = x.ctx → r.closed = false → l.kind = 1 → r.appended - r.taken < 1024 → ∃ u t : State, exec (.recAnswer w op) s = .next t ∧ ans t 1 ∧
        Stores s u (recKey q r.appended) 32 (wordsNat o.cmd.desc) ∧ Stores u t (l.stateKey + 16) 8 (u.readN (l.stateKey + 16) 8 + 1) ∧
        t.recq q = { r with appended := r.appended + 1, closed := r.closed || (wordsNat o.cmd.desc).testBit 24 })) ∧
  (∀ (s : State) (q ln : Nat), (s.recq q).bound = some ln → (s.recq q).taken < (s.recq q).appended →
    let l := s.launch ln
    let v := s.readN (recKey q (s.recq q).taken) 32
    let rows := v / 2 ^ 16 % 2 ^ 6
    let can := fun b => b ∈ s.eligibleBlocks l v ∧ s.slotFree l b = true
    (rows = 0 ∨ v.testBit 26 = true → exec (.recordDeliver q) s = .next (s.takeRec q ln l v none)) ∧
    (rows ≠ 0 → v.testBit 26 = false → (∀ b, ¬can b) → exec (.recordDeliver q) s = .next s) ∧
    (rows ≠ 0 → v.testBit 26 = false → ∀ b, can b → (∀ c, can c → s.fillOf l b < s.fillOf l c ∨ (s.fillOf l b = s.fillOf l c ∧ b ≤ c)) →
      exec (.recordDeliver q) s = .next ((s.deliver ln l b (v + 2 ^ 160 * (2 ^ rows - 1))).takeRec q ln l v (some b))) ∧
    (∀ b, b ∈ s.eligibleBlocks l v → b ∈ l.placed) ∧
    (∀ b, s.slotFree l b = true → s.runsOn l.ctx (coreOfCol (Tbl.getD l.homes b 0)) = true ∧ s.fillOf l b < 2 ^ l.islog)) ∧
  (∀ (s : State) (q : Nat), ((s.recq q).bound = none ∨ (s.recq q).appended ≤ (s.recq q).taken → exec (.recordDeliver q) s = .next s)) ∧
  (∀ (s : State) (q ln blk : Nat), (s.recq q).bound = some ln →
    let l := s.launch ln
    (blk ∉ l.closing ∨ s.slotFree l blk = false → exec (.closingRecordDeliver q blk) s = .next s) ∧
    (blk ∈ l.closing → s.slotFree l blk = true → exec (.closingRecordDeliver q blk) s =
      .next ((s.deliver ln l blk (2 ^ 24)).modLaunch ln fun l => { l with closing := l.closing.filter (· != blk) }))) ∧
  (∀ (s : State) (ln b v : Nat) (l : Launch), Tbl.find s.launches ln = some l →
    let tail := Tbl.getD l.tails b 0
    let home := Tbl.getD l.homes b 0
    ∃ u : State, Stores s u (plainKey l.ctx home (l.iring + 32 * (tail % 2 ^ l.islog))) 32 v ∧ u.watches = s.watches ∧ u.dies = s.dies ∧
      (∀ n, Tbl.find u.launches n = if n = ln then some { l with tails := Tbl.put l.tails b (tail + 1) } else Tbl.find s.launches n) ∧
      s.deliver ln l b v = u.engineArrive (some (plainKey l.ctx home l.iobj)) false) ∧
  ∀ (s : State) (q ln v : Nat) (l : Launch) (dst : Option Nat), Tbl.find s.launches ln = some l → l.kind = 1 →
    let t := s.takeRec q ln l v dst
    Stores s t (l.stateKey + 24) 8 (s.readN (l.stateKey + 24) 8 + 1) ∧ t.recq q = { s.recq q with taken := (s.recq q).taken + 1 } ∧
    ∃ m, Tbl.find t.launches ln = some m ∧ m = { l with closing := if v.testBit 24 = true then l.placed.filter (fun b => some b != dst) else l.closing }

end Sys2Proof.Spec

/-! ## The package (14 R374 to R389, 12 R347, R418, 11 R308 to R316, 15 R393) -/

namespace Sys2Proof.Spec
open Sys2Proof.Machine

/-- Old bytes of an entry, with the n bytes from `off` replaced by v where the entry's mask allows it. -/
def Merged (old new mask off n v : Nat) : Prop :=
  ∀ i, new.testBit i = if 8 * off ≤ i ∧ i < 8 * (off + n) ∧ mask.testBit i then v.testBit (i - 8 * off) else old.testBit i

/-- The command of the mailbox that a value of MBCMD is (14 R382). -/
def IsCommand (v : Nat) (i : Instr) : Prop :=
  let arg := v / 256
  if v % 256 = 1 then i = .create arg
  else if v % 256 = 2 then i = .destroy arg
  else if v % 256 = 3 then i = .resume arg
  else if v % 256 = 4 then i = .kick arg
  else if v % 256 = 5 then i = .pagedone arg
  else if v % 256 = 6 then i = .pagefail arg
  else i = .mbcmdReserved (v % 256) arg

/-- 14 R377 to R380, R386, 11 R309, R312, R314, R316: what the host writes through a window while the link is trained, and firmware's writes to HRANGE,
where only the host's first write to an entry sets and locks it. A trigger is counted as accepted or as refused; TAIL is written, or captured while
the queue's context is leaving; EVCTL with a size outside 4 to 12 is ignored; the nodes of a graph whose VALID the host sets take STATE 6; a die
writes its oldest event, and sends an interrupt message, while its ring is enabled and has room in a host range. Choices of the model: POFF is not
checked where there are no patches, and an empty HRANGE narrows any (log 44); the state of a node that starts is STATE 6 over zeros (log 69); an event
waits for a host range that admits it (log 76). A write of 1, 2, 4 or 8 aligned bytes reaches every register as a write of all of it would, with the
bytes left out as they were (zero in TRIGGER and MBCMD: log 74). -/
def HostWindowsWork : Prop :=
  (∀ (s : State) (die q off n k : Nat) (v lo hi : Word) (x : W32), s.linkUp = false ∨ 2 ≤ die →
    exec (.hostTriggerWrite die v) s = .next s ∧ exec (.qtailWrite die q x) s = .next s ∧ exec (.evctlWrite die v) s = .next s ∧
    exec (.evheadWrite die x) s = .next s ∧ exec (.schedmemWrite die off n v) s = .next s ∧ exec (.hostWindowWrite die off n v) s = .next s ∧
    (s.linkUp = false → exec (.hrangeWrite ⟨k, false⟩ lo hi) s = .next s)) ∧
  (∀ (s : State) (die : Nat) (v : Word), s.linkUp = true → die < 2 →
    let d := s.die die
    let z := v.toNat
    let g := 2048 * die + z % 2048
    let n := z / 2 ^ 16 % 2 ^ 7
    let off := z / 2 ^ 24 % 2 ^ 22
    let patch := s.patchAt die off n
    let good := z / 2 ^ 12 % 2 ^ 4 = 0 ∧ z / 2 ^ 23 % 2 = 0 ∧ z / 2 ^ 46 = 0 ∧ z / 2 ^ 11 % 2 = die ∧
      (n = 0 ∨ (off % 16 = 0 ∧ 0x150000 ≤ off ∧ off + 16 * n ≤ 2 ^ 22)) ∧ (Tbl.find s.ctxs (geCtx (s.graphEntry g))).isSome ∧
      s.triggerOk g (geCtx (s.graphEntry g)) n patch = true ∧ d.fifo.length < 256
    (¬good → exec (.hostTriggerWrite die v) s = .next (s.modDie die fun d => { d with
      trgstat := (d.trgstat.extractLsb' 32 32 + 1) ++ d.trgstat.extractLsb' 0 32 })) ∧
    (good → ∃ t, exec (.hostTriggerWrite die v) s = .next t ∧ Enqueued s t g (geCtx (s.graphEntry g)) patch ∧ t.watches = s.watches ∧
      (t.die die).trgstat = d.trgstat.extractLsb' 32 32 ++ (d.trgstat.extractLsb' 0 32 + 1))) ∧
  (∀ (s : State) (die q : Nat) (x : W32), s.linkUp = true → die < 2 → q < 64 →
    let cx := s.queueCtx die q
    ((Tbl.find s.ctxs cx).isSome → s.leaving cx = true → ∃ t, exec (.qtailWrite die q x) s = .next t ∧ t.mem = s.mem ∧
      Tbl.find (t.die die).qtail q = some x) ∧
    (Tbl.find s.ctxs cx = none ∨ s.leaving cx = false → ∃ t, exec (.qtailWrite die q x) s = .next t ∧ Stores s t (queueKey die q + 12) 4 x.toNat ∧
      Tbl.find (t.die die).qtail q = none ∧ t.watches = s.watches)) ∧
  (∀ (s : State) (die : Nat) (v : Word) (x : W32), s.linkUp = true → die < 2 →
    let z := v.toNat % 16
    (z < 4 ∨ 12 < z → exec (.evctlWrite die v) s = .next s) ∧
    (4 ≤ z → z ≤ 12 → exec (.evctlWrite die v) s = .next (s.modDie die fun d => { d with evctl := v.extractLsb' 0 5 })) ∧
    exec (.evheadWrite die x) s = .next (s.modDie die fun d => { d with evhead := x })) ∧
  (∀ (s : State) (die : Nat),
    let d := s.die die
    let size := 2 ^ (d.evctl.extractLsb' 0 4).toNat
    let at_ := d.evbase.toNat + 16 * (d.evtail.toNat % size)
    let room := d.evctl.getLsbD 4 = true ∧ (d.evtail - d.evhead).toNat < size ∧ s.hostAllows at_ = true
    (d.events = [] ∨ ¬room → exec (.eventWrite die) s = .next s) ∧
    ∀ a b rest, d.events = { words := [a, b] } :: rest → room → ∃ t, exec (.eventWrite die) s = .next t ∧ t.watches = s.watches ∧
      Stores s t (memKey .host 0 0 at_) 16 (a.toNat + 2 ^ 64 * b.toNat) ∧
      t.die die = { d with events := rest, evtail := d.evtail + 1, irqs := d.irqs + 1 }) ∧
  (∀ (s : State) (k : Nat) (fw : Bool) (lo hi : Word), fw = true ∨ s.linkUp = true →
    let cur := s.hrangeOf k
    let ok := k < 16 ∧ lo.toNat % 2 ^ 18 = 0 ∧ hi.toNat % 2 ^ 18 = 0 ∧
      ((fw = false ∧ k ∉ s.enmon.hlock) ∨
        (k ∈ s.enmon.hlock ∧ (hi.toNat ≤ lo.toNat ∨ (cur.1.toNat ≤ lo.toNat ∧ hi.toNat ≤ cur.2.toNat))))
    (¬ok → exec (.hrangeWrite ⟨k, fw⟩ lo hi) s = .next s) ∧
    (ok → ∃ t, exec (.hrangeWrite ⟨k, fw⟩ lo hi) s = .next t ∧ t.mem = s.mem ∧ t.watches = s.watches ∧ t.hrangeOf k = (lo, hi) ∧ k ∈ t.enmon.hlock ∧
      ∀ i, i < 16 → i ≠ k → t.hrangeOf i = s.hrangeOf i)) ∧
  (∀ (s : State) (die off n : Nat) (v : Word), s.linkUp = true → die < 2 →
    let aligned := (n = 1 ∨ n = 2 ∨ n = 4 ∨ n = 8) ∧ off % n = 0
    (¬aligned ∨ 2 ^ 22 < off + n → exec (.schedmemWrite die off n v) s = .next s) ∧
    (aligned → off < 0x8000 → ∃ (u : State) (new : Nat), Stores s u (schedKey die (off / 16 * 16)) 16 new ∧ u.watches = s.watches ∧
      (let e := s.graphEntry (2048 * die + off / 16)
       let f := u.graphEntry (2048 * die + off / 16)
       let area := fun i => schedKey die (geBase f + 256 * i + 192)
       let starts := geValid e = false ∧ geBusy e = false ∧ geValid f = true
       (¬starts → exec (.schedmemWrite die off n v) s = .next u) ∧
       (starts → ∃ t, exec (.schedmemWrite die off n v) s = .next t ∧ t.watches = s.watches ∧
         (∀ i k, i < geNodes f → k < 64 → memByte t.mem t.epoch (area i + k) = if k = 0 then 6 else 0) ∧
         ∀ b, (∀ i, i < geNodes f → b < area i ∨ area i + 64 ≤ b) → memByte t.mem t.epoch b = memByte u.mem u.epoch b)) ∧
      Merged (s.readN (schedKey die (off / 16 * 16)) 16) new (0x3FFD + 2 ^ 16 * 0xFFFF + 2 ^ 32 * (2 ^ 22 - 1) + 2 ^ 64 * (2 ^ 22 - 1) + 2 ^ 86 * (2 ^ 18 - 1))
        (off % 16) n v.toNat) ∧
    (aligned → 0x9000 ≤ off → off < 0x150000 → exec (.schedmemWrite die off n v) s = .next s) ∧
    (aligned → 0x150000 ≤ off → off + n ≤ 2 ^ 22 → s.inNodeState die off = true → exec (.schedmemWrite die off n v) s = .next s) ∧
    (aligned → 0x150000 ≤ off → off + n ≤ 2 ^ 22 → s.inNodeState die off = false → ∃ t, exec (.schedmemWrite die off n v) s = .next t ∧
      t.watches = s.watches ∧ Stores s t (schedKey die off) n v.toNat) ∧
    (s.inNodeState die off = true → 192 ≤ off % 256) ∧
    (Memory.wf s.mem → 192 ≤ off % 256 → (∃ g, g < 4096 ∧ g / 2048 = die ∧ geValid (s.graphEntry g) = true ∧ geBase (s.graphEntry g) ≤ off ∧
      off < geBase (s.graphEntry g) + 256 * geNodes (s.graphEntry g)) → s.inNodeState die off = true) ∧
    (aligned → 0x8000 ≤ off → off < 0x9000 → 16 ≤ off % 64 → exec (.schedmemWrite die off n v) s = .next s) ∧
    (aligned → 0x8000 ≤ off → off < 0x9000 → 12 ≤ off % 64 → off % 64 < 16 →
      let q := (off - 0x8000) / 64
      let old := (Tbl.find (s.die die).qtail q).getD (BitVec.ofNat 32 (s.readN (queueKey die q + 12) 4))
      ∃ new, Merged old.toNat new (2 ^ 32 - 1) (off % 64 - 12) n v.toNat ∧
        exec (.schedmemWrite die off n v) s = if BitVec.ofNat 32 new = old then .next s else exec (.qtailWrite die q (BitVec.ofNat 32 new)) s) ∧
    (aligned → 0x8000 ≤ off → off < 0x9000 → off % 64 < 8 → ∃ u new, Stores s u (queueKey die ((off - 0x8000) / 64)) 8 new ∧ u.watches = s.watches ∧
      Merged (s.readN (queueKey die ((off - 0x8000) / 64)) 8) new (2 ^ 26 - 1 + 2 ^ 32 * 0xFFFF) (off % 64) n v.toNat ∧
      exec (.schedmemWrite die off n v) s = .next (u.setActive die ((off - 0x8000) / 64))) ∧
    (let reg := off / 8 * 8
     let d := s.die die
     let write := exec (.hostWindowWrite die off n v) s
     let into := fun (old new : Nat) => Merged old new (2 ^ 64 - 1) (off % 8) n v.toNat
     (¬aligned → write = .next s) ∧
     (aligned → reg = 0x10 → ∃ new, into 0 new ∧ write = exec (.hostTriggerWrite die (BitVec.ofNat 64 new)) s) ∧
     (aligned → reg = 0x20 → ∃ new, into d.evbase.toNat new ∧
       write = .next (s.modDie die fun d => { d with evbase := BitVec.ofNat 64 (new / 2 ^ 12 * 2 ^ 12) })) ∧
     (aligned → reg = 0x28 → ∃ new, into d.evctl.toNat new ∧ write = exec (.evctlWrite die (BitVec.ofNat 64 new)) s) ∧
     (aligned → reg = 0x30 → ∃ new, into d.evhead.toNat new ∧ write = exec (.evheadWrite die (BitVec.ofNat 32 new)) s) ∧
     (aligned → die = 0 → reg = 0x40 → ∃ new i, into 0 new ∧ IsCommand new i ∧ write = exec i s) ∧
     (aligned → die = 0 → 0x80 ≤ off → off < 0xC0 → ∃ new, into (d.mbdata[(off - 0x80) / 8]?.getD 0).toNat new ∧
       write = .next (s.modDie 0 fun d => { d with mbdata := d.mbdata.set ((off - 0x80) / 8) (BitVec.ofNat 64 new) })) ∧
     (aligned → die = 0 → 0x100 ≤ off → off < 0x200 →
       let k := (off - 0x100) / 16
       let r := s.hrangeOf k
       ∃ new, into (if off % 16 < 8 then r.1.toNat else r.2.toNat) new ∧
         write = exec (.hrangeWrite ⟨k, false⟩ (if off % 16 < 8 then BitVec.ofNat 64 new else r.1) (if off % 16 < 8 then r.2 else BitVec.ofNat 64 new)) s) ∧
     (aligned → 0x1000 ≤ off → off < 0x1400 →
       let q := (off - 0x1000) / 16
       (4 ≤ off % 16 → write = .next s) ∧
       (off % 16 < 4 → ∃ new, into ((Tbl.find d.qtail q).getD (BitVec.ofNat 32 (s.readN (queueKey die q + 12) 4))).toNat new ∧
         write = exec (.qtailWrite die q (BitVec.ofNat 32 new)) s)) ∧
     (0x400000 ≤ off → write = exec (.schedmemWrite die (off - 0x400000) n v) s) ∧
     (off < 0x10 ∨ (0x18 ≤ off ∧ off < 0x20) ∨ (0x38 ≤ off ∧ off < 0x40) ∨ (0x48 ≤ off ∧ off < 0x80) ∨ (0xC0 ≤ off ∧ off < 0x100) ∨
       (die = 1 ∧ 0x40 ≤ off ∧ off < 0x200) ∨ (0x200 ≤ off ∧ off < 0x1000) ∨ (0x1400 ≤ off ∧ off < 0x400000) → write = .next s)))

/-- A mailbox command ends (14 R382): MBSTAT holds the result and the context, and MBDONE waits for the ring of die 0. -/
def Ends (s t : State) (code cx : Nat) : Prop :=
  t.mem = s.mem ∧ t.watches = s.watches ∧ t.ctxs = s.ctxs ∧ t.cores = s.cores ∧ t.launches = s.launches ∧ t.waits = s.waits ∧
  (t.die 0).mbstat = BitVec.ofNat 32 (2 ^ 8 * code + 2 ^ 16 * (cx % 2 ^ 16)) ∧ (t.die 0).mbdata = (s.die 0).mbdata ∧
  ∃ e, (t.die 0).events = (s.die 0).events ++ [e] ∧
    e.words = [BitVec.ofNat 64 (7 + 2 ^ 16 * (cx % 2 ^ 16) + 2 ^ 32 * ((2 ^ 8 * code + 2 ^ 16 * (cx % 2 ^ 16)) % 2 ^ 32)), 0]

/-- The commands on a context. -/
def OnContext (cx : Nat) (i : Instr) : Prop := i = .destroy cx ∨ i = .resume cx ∨ i = .kick cx ∨ i = .pagedone cx ∨ i = .pagefail cx

/-- 14 R381, R382, 12 R347, R351, R355, R418: the mailbox takes a command over a trained link unless the MMP is busy. CREATE makes a context with the
lowest free number over the usable columns of its partition; a bad descriptor, an absent context and a reserved code end with 2, a RESUME of a context
that waits for none with 3. The number and the codes of arguments that 14 R382 leaves open are choices of the model (log 43), as is that the new
context is live at once on the cores that are idle (log 20). -/
def MailboxCommandsEnd : Prop :=
  (∀ (s : State) (a code : Nat) (i : Instr), s.linkUp = false ∨ (s.die 0).mbstat.getLsbD 0 = true →
    OnContext a i ∨ i = .create a ∨ i = .mbcmdReserved code a → exec i s = .next s) ∧
  (∀ (s : State) (cx : Nat) (i : Instr), s.linkUp = true → (s.die 0).mbstat.getLsbD 0 = false → OnContext cx i →
    2 ^ 16 ≤ cx ∨ Tbl.find s.ctxs cx = none → ∃ t, exec i s = .next t ∧ Ends s t 2 cx) ∧
  (∀ (s : State) (cx : Nat) (c : Context), s.linkUp = true → (s.die 0).mbstat.getLsbD 0 = false → cx < 2 ^ 16 → Tbl.find s.ctxs cx = some c →
    let does := fun (i : Instr) (code : Nat) (r : State) => ∃ t, exec i s = .next t ∧ Ends r t code cx
    (∃ r : State, does (.destroy cx) 1 r ∧ Tbl.find r.ctxs cx = none ∧ (∀ n, n ≠ cx → Tbl.find r.ctxs n = Tbl.find s.ctxs n) ∧
      (∀ x, x ∈ r.watches ↔ x ∈ s.watches ∧ x.2.ctx ≠ cx) ∧ (∀ x, x ∈ r.launches ↔ x ∈ s.launches ∧ x.2.ctx ≠ cx) ∧
      (∀ k, (r.core k).live = if (s.core k).live = some cx then none else (s.core k).live)) ∧
    (c.saveInc = true ∨ c.doom = true ∨ c.rung = none → does (.resume cx) 3 s) ∧
    (c.saveInc = false → c.doom = false → c.rung ≠ none → does (.resume cx) 1 (s.modCtx cx fun c => { c with rung := none, wantIn := true })) ∧
    does (.kick cx) 1 (s.modCtx cx fun c => { c with wdog := c.wdogLoad }) ∧
    (let l := s.hostWaits cx ((s.die 0).mbdata.headD 0)
     (l = [] → does (.pagedone cx) 2 s ∧ does (.pagefail cx) 2 s) ∧
     (l ≠ [] → does (.pagedone cx) 1 ((l.foldl State.setRes s).servePages cx).pumpRuns ∧ does (.pagefail cx) 1 (l.foldl State.declinePage s).pumpRuns) ∧
     ∀ p, p ∈ l → p ∈ s.waits ∧ p.ctx = cx ∧ p.addr = (s.die 0).mbdata.headD 0)) ∧
  (∀ (s : State) (p : PageWait),
    let key := (s.walkKey p.ctx p.pcn p.off).1
    Stores s (s.setRes p) key 1 (s.readN key 1 ||| 0x20)) ∧
  (∀ (s : State) (code arg : Nat), s.linkUp = true → (s.die 0).mbstat.getLsbD 0 = false → code < 256 → arg < 2 ^ 56 → code = 0 ∨ 6 < code →
    ∃ t, exec (.mbcmdReserved code arg) s = .next t ∧ Ends s t 2 0) ∧
  (∀ (s : State) (arg : Nat), s.linkUp = true → (s.die 0).mbstat.getLsbD 0 = false →
    let d := BitVec.ofNat 512 ((s.die 0).mbdata.foldr (fun w n => w.toNat + 2 ^ 64 * n) 0)
    let c : Context := { desc := d }
    let cols := s.columnsFor c.part
    (arg ≠ 0 ∨ descBad d = true ∨ cols = [] → ∃ t, exec (.create arg) s = .next t ∧ Ends s t 2 0) ∧
    ∀ n, n ≠ 0 → n < 2 ^ 16 → Tbl.find s.ctxs n = none → (∀ m, 0 < m → m < n → (Tbl.find s.ctxs m).isSome) →
      arg = 0 → descBad d = false → cols ≠ [] → ∃ (r t : State) (k : Context), exec (.create arg) s = .next t ∧ Ends r t 1 n ∧ r.watches = s.watches ∧
        Tbl.find r.ctxs n = some k ∧ k.desc = d ∧ k.cols = cols ∧ k.wdog = k.wdogLoad ∧ k.frames = s.tableFrames 2 (c.ptroot % 2 ^ 31) ∧
        (∀ m, m ≠ n → Tbl.find r.ctxs m = Tbl.find s.ctxs m) ∧
        ∀ core ∈ k.cores, (s.core core).live = none → (s.core core).switching = none → (s.core core).standby = .free → (r.core core).live = some n) ∧
  ∀ (s : State) (p k : Nat), k ∈ s.columnsFor p ↔
    k < 1024 ∧ (s.parts[p]?.getD 0).getLsbD (clusterOfCol k) = true ∧ s.stackBits.getLsbD (coreOfCol k / 32) = true ∧ (s.column k).retired = false

/-- 12 R418, 15 R393, 14 R374, R375, R383 to R387: the tables that Enmon writes for the host, its log, updates and reports, the log epochs, and the
clocks. Choices of the model: the layouts of an image and of a report (log 18), the marks of routes, and what becomes of caps, clocks and targets out
of range (log 47), the words of the log, 0x384 among them (log 48), and a clock below 0.4 GHz, which only empties TLBs (log 72). -/
def EnmonServesTheHost : Prop :=
  (∀ (s : State) (p : Nat) (m : Word), p < 8 →
    let ok := (∀ i, i < 8 → i ≠ p → s.parts[i]?.getD 0 &&& m = 0) ∧
      ∀ c ∈ s.ctxs, ∀ k ∈ c.2.liveCols, ¬((s.parts[p]?.getD 0).getLsbD (clusterOfCol k) = true ∧ m.getLsbD (clusterOfCol k) = false)
    (¬ok → exec (.partitionTableWrite p m) s = .next s) ∧
    (ok → ∃ t, exec (.partitionTableWrite p m) s = .next t ∧ t = { s with parts := t.parts } ∧ t.parts[p]? = some m ∧
      ∀ i, i ≠ p → t.parts[i]? = s.parts[i]?)) ∧
  (∀ (s : State) (a : BitVec 16) (e i p cap : Nat) (v : Word),
    (a = 0 ∨ a = 0xFFFF → exec (.routeTableWrite (.address a)) s = .next s) ∧
    (a ≠ 0 → a ≠ 0xFFFF → exec (.routeTableWrite (.address a)) s = .next { s with address := a }) ∧
    (256 ≤ e ∨ 4 ≤ i → exec (.routeTableWrite (.route e i v)) s = .next s) ∧
    (e < 256 → i < 4 → ∃ t, exec (.routeTableWrite (.route e i v)) s = .next t ∧ t.mem = s.mem ∧ t.watches = s.watches ∧
      Tbl.find t.routes (4 * e + i) = some (BitVec.ofNat 64 (v.toNat % 2 ^ 36)) ∧ (∀ n, n ≠ 4 * e + i → Tbl.find t.routes n = Tbl.find s.routes n) ∧
      ∀ b, b ∈ t.badRoutes ↔ b ∈ s.badRoutes ∧ b ≠ (e, i)) ∧
    (16 ≤ p ∨ Config.fusedCap p < cap → exec (.routeTableWrite (.port p cap)) s = .next s) ∧
    (p < 16 → cap ≤ Config.fusedCap p → exec (.routeTableWrite (.port p cap)) s = .next (s.modPort p fun x => { x with cap := some cap }))) ∧
  (∀ (s : State) (k v : Nat) (x : Sensor) (l : List Word),
    (k < s.enmon.logBase ∨ s.enmon.logBase + s.enmon.log.length ≤ k → exec (.enmonLogRead (.read k)) s = .next s) ∧
    (s.enmon.logBase ≤ k → s.enmon.log[k - s.enmon.logBase]? = some l →
      exec (.enmonLogRead (.read k)) s = .next (s.answer (l.map (·.toNat)))) ∧
    ∃ t, exec (.enmonLogRead (.measure x v)) s = .next t ∧ t = { s with enmon := t.enmon } ∧ t.enmon.sensor x = v ∧
      t.enmon = { s.enmon with sensors := t.enmon.sensors } ∧ ∀ y, y ≠ x → t.enmon.sensor y = s.enmon.sensor y) ∧
  (∀ (s : State) (im : Image),
    let bytes := leBytes 8 im.version ++ leBytes im.size im.contents
    let digest := leNat (sha512 (leBytes 32 im.key))
    let ok := im.which < 3 ∧ edVerify (leBytes 32 im.key) (sha512 bytes) (leBytes 64 im.signature) = true ∧ digest ∈ Config.fusedKeys ∧
      digest ∉ Config.revokedKeys ∧ Config.fuseRollback ≤ im.version ∧ im.version < 2 ^ 64 ∧ 8 + im.size ≤ Config.imageBankSize
    (¬ok → exec (.firmwareUpdate im) s = .next s) ∧
    (ok → ∃ t, exec (.firmwareUpdate im) s = .next t ∧ t = { s with enmon := t.enmon } ∧ t.enmon.active = s.enmon.active ∧
      Tbl.find t.enmon.banks (2 * im.which + (1 - s.enmon.bank im.which)) = some im ∧ im.which ∈ t.enmon.pending ∧
      (∀ w, w ∈ s.enmon.pending → w ∈ t.enmon.pending) ∧ (s.enmon.bank im.which ≤ 1 → t.enmon.image im.which = s.enmon.image im.which))) ∧
  (∀ (s : State) (n : Nat),
    let body := leBytes 32 n ++ sha512 (s.enmon.image 0) ++ sha512 (s.enmon.image 1) ++ sha512 (s.enmon.image 2) ++ fuseBytes ++ leBytes 8 stepping.toNat
    exec (.attestationReport n) s = .next (s.answer ((body ++ edSign Config.identitySecret (sha512 body)).map (·.toNat)))) ∧
  (∀ (s : State), ∃ t, exec .logEpochEnd s = .next t ∧ t = { s with enmon := t.enmon } ∧ t.enmon.epoch = s.enmon.epoch + 1 ∧
    t.enmon = { s.enmon with epoch := t.enmon.epoch, colErrs := t.enmon.colErrs } ∧ ∀ c, Tbl.getD t.enmon.colErrs c 0 = 0) ∧
  (∀ (s : State) (bad : Bool), ∃ t, exec (.enmonReset bad) s = .next t ∧ t.mem = s.mem ∧ t.watches = s.watches ∧ t.enmon.epoch = s.enmon.epoch + 1 ∧
    t.enmon.pending = [] ∧ (∀ c, Tbl.getD t.enmon.colErrs c 0 = 0) ∧ t.enmon.errs = s.enmon.errs ∧ (∀ w, w ∉ s.enmon.pending → t.enmon.bank w = s.enmon.bank w) ∧
    (s.enmon.pending.Nodup → ∀ w, w ∈ s.enmon.pending → ¬(bad = true ∧ w = 0) → t.enmon.bank w = 1 - s.enmon.bank w) ∧
    (bad = true → 0 ∈ s.enmon.pending → t.enmon.bank 0 = s.enmon.bank 0 ∧ t.enmon.log.getLast? = some [0x384])) ∧
  ∀ (s : State) (k mhz : Nat),
    (k < 64 → mhz < 400 → ∃ t, exec (.clockSet false k mhz) s = .next t ∧ t.mem = s.mem ∧ t.watches = s.watches ∧ t.clusters = s.clusters ∧
      ∀ c, t.column c = if c / 16 = k then { s.column c with tlb := [] } else s.column c) ∧
    (2000 < mhz ∨ 64 ≤ k ∨ (400 ≤ mhz ∧ s.phase (k / 32) ≠ 4 ∧ 1200 < mhz) → exec (.clockSet false k mhz) s = .next s) ∧
    (400 ≤ mhz → mhz ≤ 2000 → k < 64 → s.phase (k / 32) = 4 ∨ mhz ≤ 1200 →
      exec (.clockSet false k mhz) s = .next (s.modCluster k fun c => { c with mhz := mhz })) ∧
    (k < 8 → ∃ t, exec (.clockSet true k mhz) s = .next t ∧ t = { s with enmon := t.enmon } ∧ Tbl.find t.enmon.memMhz k = some mhz) ∧
    (2800 < mhz → exec (.powerLimit (.target mhz)) s = .next s) ∧
    (mhz ≤ 2800 → exec (.powerLimit (.target mhz)) s = .next { s with enmon := { s.enmon with target := mhz } }) ∧
    ∃ t, exec (.powerLimit (.limit mhz)) s = .next t ∧ t.mem = s.mem ∧ t.watches = s.watches ∧
      ∀ c, t.cluster c = if c < 64 then { s.cluster c with mhz := min (s.cluster c).mhz (max 400 mhz) } else s.cluster c

/-- No context and no watch is left, the columns, the scratchpads and the scheduler's memory hold nothing, and nothing of the device is trained. -/
def Cleared (t : State) : Prop :=
  t.ctxs = [] ∧ t.watches = [] ∧ t.launches = [] ∧ t.linkUp = false ∧ t.stackBits = 0 ∧ ∀ k, isHostKey k = false → memFind t.mem k = none

/-- 14 R376, R387, R389, 12 R351, R353, 11 R308: the resets and bring-up. A thermal trip logs its cause, clears the dies and leaves them stopped; a device
reset clears them and starts Enmon's image; the device rung logs its cause and resets. Each change of STATUS in bring-up posts an event. A link past
its retry limit and the loss of the last module are the device rung's. What 14 R376, R387 and R389 leave open of bring-up is the model's choice (log
46), as are the words of the log, 0x387 among them (log 48). -/
def ResetsAndBringUp : Prop :=
  (∀ (s : State), (∃ u : State, exec .thermalTrip s = .next u ∧ Cleared u ∧ u.enmon.running = false ∧ u.enmon.log.getLast? = some [0x387]) ∧
    (∃ u : State, exec .deviceReset s = .next u ∧ Cleared u ∧ u.enmon.running = true ∧ u.enmon.log = s.enmon.log) ∧
    ∀ c, let u := s.deviceRung c
      Cleared u ∧ u.enmon.running = true ∧ u.enmon.log.getLast? = some [BitVec.ofNat 64 c]) ∧
  (∀ (s u : State) (die : Nat), die < 2 → (s.bringUp u).mem = u.mem ∧ (s.bringUp u).watches = u.watches ∧
    ((s.bringUp u).die die).events = (u.die die).events ++ if u.status die = s.status die then []
      else [{ words := [BitVec.ofNat 64 (6 + 2 ^ 8 * die + 2 ^ 32 * (u.status die % 2 ^ 32)), 0] }]) ∧
  (∀ (s : State) (lk st core : Nat) (ok : Bool),
    exec (.nocFlitRetry lk false) s = .next s ∧ (lk < 1024 → exec (.nocFlitRetry lk true) s = .next (s.deviceRung 0x57)) ∧
    (s.enmon.running = true → s.linkUp = false → s.modules ≠ [] → exec .hostLinkTrained s = .next (s.bringUp { s with linkUp := true })) ∧
    (s.enmon.running = false ∨ s.linkUp = true ∨ s.modules = [] → exec .hostLinkTrained s = .next s) ∧
    (s.linkUp = true → st < 8 → s.stackBits.getLsbD st = false → s.stackBits.getLsbD (8 + st) = false →
      ∃ u : State, exec (.stackTrained st ok) s = .next (s.bringUp u) ∧ u = { s with stackBits := u.stackBits } ∧
        ∀ i, u.stackBits.getLsbD i = (s.stackBits.getLsbD i || decide (i = if ok then st else st + 8))) ∧
    (s.linkUp = false ∨ 8 ≤ st ∨ s.stackBits.getLsbD st = true ∨ s.stackBits.getLsbD (8 + st) = true → exec (.stackTrained st ok) s = .next s) ∧
    (s.enmon.running = true → core < 256 →
      exec (.decompSelftestPass core) s = .next (s.bringUp (s.modCore core fun c => { c with tested := true })))) ∧
  ∀ (s : State) (m : Nat), (m ∉ s.modules → exec (.linkModuleFail m) s = .next s) ∧
    (m ∈ s.modules → (∀ x ∈ s.modules, x = m) → exec (.linkModuleFail m) s = .next (s.deviceRung 0x57)) ∧
    (m ∈ s.modules → (∃ x ∈ s.modules, x ≠ m) → exec (.linkModuleFail m) s = .next { s with modules := s.modules.filter (· != m) })

end Sys2Proof.Spec

/-! ## Collectives and Beam (15 R390 to R415, 02 R52, R54) -/

namespace Sys2Proof.Spec
open Sys2Proof.Machine

/-- Every member of a crew that has not departed by fault has arrived for a run of a group, and all arrivals that it takes are from that crew (15
R404). -/
def AllArrived (s : State) (cx c : Nat) (x : Crew) (g : Nat) : Prop :=
  let arrs := takeArrivals g (s.ctx cx).colls
  arrs ≠ [] ∧ (∀ a ∈ arrs, a.crew = c) ∧ ∀ m ∈ x.members, m.faulted = false → ∃ a ∈ arrs, a.w = m.w

/-- 15 R404 to R406, 08 R234: the last arrival starts a run: the group's run number goes up, for ROT its step too, the members' arrivals are taken, and a
run of a strand for each column of the exchange set waits for its ranges; one that fails at once names its first failing strand and wants
none. Members that departed by fault go then. -/
def LastArrivalStartsTheRun : Prop :=
  (∀ (s : State) (cx c g : Nat) (x : Crew), (Tbl.find s.ctxs cx).isSome →
    let k := s.ctx cx
    let y := s.group cx g
    let arrs := takeArrivals g k.colls
    (¬AllArrived s cx c x g → s.startColl cx c x g = s) ∧
    (AllArrived s cx c x g →
      let path := s.groupPath cx y.desc
      let p := s.groupPart cx y.desc
      let pcns := x.cols.map fun l => (k.pcnLive l).getD 1023
      let op := ((arrs.head?.getD {}).min_.extractLsb' 0 3).toNat
      let code := runCode y arrs path (x.cols.map k.pcnLive) op
      let step := if op = 5 then y.step else 0
      let ch := opChannels op step.toNat (pathRank p) y.prog
      ∃ r t, s.startColl cx c x g = t ∧ t.mem = s.mem ∧ t.watches = s.watches ∧ t.runs = s.runs ∧ t.next = s.next + 1 ∧ t.starts = s.starts ++ [r] ∧
        r.id = s.next ∧ r.ctx = cx ∧ r.group = g ∧ r.use = y.use ∧ r.run = y.run ∧ r.step = step ∧ r.op = op ∧ r.code = code ∧
        (code = 2 → ∀ k', k' < r.fstr → ∀ l, x.cols[k']? = some l → (k.pcnLive l).isSome) ∧
        (code = 2 → ∀ l, x.cols[r.fstr]? = some l → k.pcnLive l = none) ∧
        (∀ a, arrs.find? (fun a => a.bad != 0) = some a → code = a.bad → code ≠ 2 → r.fstr = pcns.findIdx (· == a.badCol)) ∧
        r.members = arrs ∧ r.rank = pathRank p ∧ r.nrank = gdRanks y.desc ∧ r.prog = y.prog ∧ r.strands = pcns.map (fun q => { col := q }) ∧
        r.locks = (if code = 0 then runLocks cx s.next y.desc pcns ch.1 ch.2 else []) ∧
        t.group cx g = { y with run := y.run + 1, step := if op = 5 then y.step + 1 else y.step } ∧
        (t.ctx cx).colls = k.colls.filter fun a => !arrs.contains a) ∧
    (gdNest y.desc = false → s.groupPart cx y.desc = [y.desc] ∧ s.groupPath cx y.desc = some [y.desc])) ∧
  ∀ (s : State) (cx c : Nat), (Tbl.find s.ctxs cx).isSome →
    (s.crew cx c = none → s.recount cx c = s) ∧
    ∀ x, s.crew cx c = some x → (∃ m ∈ x.members, m.arrived = false ∧ m.faulted = false) →
      ((∀ g, ¬AllArrived s cx c x g) → s.recount cx c = s) ∧
      ∀ g, AllArrived s cx c x g → (∀ a ∈ (s.ctx cx).colls, a.group = g ∨ a.crew = c → a ∈ takeArrivals g (s.ctx cx).colls) →
        let t := s.recount cx c
        t.starts = (s.startColl cx c x g).starts ∧ t.group cx g = (s.startColl cx c x g).group cx g ∧ t.mem = s.mem ∧ t.watches = s.watches ∧
        t.crew cx c = some { x with members := x.members.filter fun m => !m.faulted }

/-- 15 R395, R404, 08 R234, R235: a run whose members have all arrived registers its ranges and goes on when they can be had, the command queues
of its Tenders have room, and no command that became acceptable earlier has a range in one of its columns. One that has ended at its start
registers none. -/
def RunsOfGroupsStart : Prop :=
  ∀ (s : State) (cx g : Nat),
    ((∀ r ∈ s.starts, ¬(r.ctx = cx ∧ r.group = g)) → exec (.collRunStart cx g) s = .next s) ∧
    ∀ r pre post, s.starts = pre ++ r :: post → (∀ q ∈ pre, ¬(q.ctx = cx ∧ q.group = g)) → r.ctx = cx → r.group = g →
      let full := ∃ x ∈ r.strands, 64 ≤ s.queuedOn (tenderOf x.col)
      let first := ∀ q ∈ s.starts, q.id ≠ r.id → ¬(1 < s.runRipeAt q ∧ s.runRipeAt q < s.runRipeAt r ∧ ∃ l ∈ q.locks, ∃ m ∈ r.locks, l.1 = m.1)
      let goes := fun (l : List (Nat × Lock)) => ∃ t, exec (.collRunStart cx g) s = .next t ∧ t.mem = s.mem ∧ WatchesStay s t ∧ t.next = s.next ∧
        LocksTaken s t l ∧ t.runs = s.runs ++ [r] ∧
        t.starts.map (fun q => { q with ripe := 0 }) = (s.starts.filter fun q => q.id != r.id).map fun q => { q with ripe := 0 }
      (s.runGoes r = true → s.locksFree r.locks = false ∨ full ∨ ¬first → exec (.collRunStart cx g) s = .next s) ∧
      ((∀ f ∈ s.early, ¬(f.group.toNat = g ∧ f.use = r.use ∧ f.run = r.run)) →
        (s.runGoes r = false → goes []) ∧
        (s.runGoes r = true → s.locksFree r.locks = true → ¬full → s.runOutranked r = false → goes r.locks))

/-- 15 R406, R415: a rank's part ends when every strand has ended, or something ended the run: the reply record goes to bytes 16 to 47 of each member's
object, once no other command's range holds one of them (08 R235), the objects are signalled, the ranges are freed, and a failure other than ABORTED
aborts the group. Chunks that an unsuccessful run writes become undefined (R415 says it of aborted ones, log 42 DEDUCES it of the others): those of
its operation, or that its program writes, in each strand's column. A complete run is kept for its acknowledgements; one that ends early leaves in
DRAIN the grants that its peers have not filled (R397; log 77). -/
def RunsOfGroupsComplete : Prop :=
  (∀ (s : State) (id : Nat), s.runOf id = none → exec (.collRunComplete id) s = .next s) ∧
  (∀ (s : State) (id : Nat) (r : Run), s.runOf id = some r →
    let g := s.group r.ctx r.group
    let fails := (r.strands.zipIdx.filter fun x => x.1.code != 0).map fun x => (x.2, x.1.code)
    let fc := if r.code ≠ 0 then (r.fstr, r.code) else fails.head?.getD (0, if g.abt = true ∧ g.use = r.use then 6 else 1)
    let shut := ∃ a ∈ r.members, s.lockWaits id r.ctx (a.obj / 2 ^ 64 % 2 ^ 16) 1 (a.obj % 2 ^ 64 + 16) 32 true = true
    (s.runGoes r = true → (∃ x ∈ r.strands, x.ended = false) → exec (.collRunComplete id) s = .next s) ∧
    (shut → exec (.collRunComplete id) s = .next s) ∧
    (¬shut → s.runGoes r = false ∨ (∀ x ∈ r.strands, x.ended = true) → ∃ u : State,
      (let v := r.members.foldl (fun q a => (q.writeN (a.obj + 16) 32 (r.record fc.2 fc.1)).engineArrive (some a.obj) (fc.2 != 1))
        (if fc.2 = 1 then s else s.forgetWrites r)
       u.mem = v.mem ∧ u.epoch = v.epoch) ∧
      WatchesStay s u ∧ u.runs = s.runs.filter (fun r => r.id != id) ∧ u.waits = s.waits.filter (fun p => p.job != id) ∧ LocksFreed s u id ∧
      (let z := if fc.2 = 1 then u.keepPast r else u.keepOwed r
       exec (.collRunComplete id) s = .next (if fc.2 = 1 ∨ fc.2 = 6 ∨ g.use ≠ r.use then z else z.abortGroup r.ctx r.group)))) ∧
  (∀ (s : State) (r : Run) (b : Nat),
    let hit := ∃ x ∈ r.strands, ∃ h ∈ r.writes, ∃ c key, h.2.1 ≤ c ∧ c < h.2.2 ∧ s.chunkAt r x h.1 c true = .at key ∧ key ≤ b ∧ b < key + 2048
    (s.forgetWrites r).epoch = s.epoch + 1 ∧ (s.forgetWrites r).watches = s.watches ∧
    (¬hit → Tbl.find (s.forgetWrites r).mem b = Tbl.find s.mem b) ∧ (hit → Tbl.find (s.forgetWrites r).mem b = none)) ∧
  (∀ (op step rank k nchk : Nat) (prog : List Word), (∀ x ∈ opWrites op step rank k nchk prog, op < 6 → x.2.2 ≤ nchk) ∧
    (op = 3 → opWrites op step rank k nchk prog = [(3, 0, k * (nchk / k))]) ∧ (op = 4 → opWrites op step rank k nchk prog = [(3, 0, nchk / k)]) ∧
    (op = 5 → opWrites op step rank k nchk prog = [(1 + (step + 1) % 2, 0, nchk)]) ∧
    (op = 0 ∨ (op = 1 ∧ rank = 0) ∨ (op = 2 ∧ rank ≠ 0) → opWrites op step rank k nchk prog = [(0, 0, nchk)]) ∧
    ((op = 1 ∧ rank ≠ 0) ∨ (op = 2 ∧ rank = 0) → opWrites op step rank k nchk prog = [])) ∧
  (∀ (s : State) (r : Run), s.keepPast r = { s with past := (s.keepPast r).past } ∧
    (∀ q, q ∈ (s.keepPast r).past ↔ q = r ∨ (q ∈ s.past ∧ ¬(q.ctx = r.ctx ∧ q.group = r.group ∧ q.run = r.run))) ∧
    ((s.group r.ctx r.group).use ≠ r.use → s.keepOwed r = s) ∧
    ((s.group r.ctx r.group).use = r.use → ∃ l, s.keepOwed r = s.setGroup r.ctx r.group { s.group r.ctx r.group with
        owed := (s.group r.ctx r.group).owed ++ l } ∧
      ∀ o, o ∈ l ↔ ∃ (i : Nat) (x : Strand) (k : Nat × Stream), r.strands[i]? = some x ∧ k ∈ x.streams ∧ k.2.done + k.2.landed.length < k.2.given ∧
        o = { run := r.run, strand := i, dev := (r.peers[k.1]?.getD (0, 0)).1, n := k.2.given - (k.2.done + k.2.landed.length) })) ∧
  ∀ (r : Run) (code f : Nat), r.record code f = code + 2 ^ 16 * (r.rank % 2 ^ 16) + 2 ^ 32 * (r.nrank % 2 ^ 16) + 2 ^ 48 * r.use.toNat +
    2 ^ 56 * r.run.toNat + 2 ^ 64 * r.step.toNat + 2 ^ 80 * min 0xFFFF r.reroutes.length + 2 ^ 96 * f

/-- Strand i of run id is the one whose turn it is, and goes on. -/
def StrandRuns (s : State) (id i : Nat) (r : Run) (x : Strand) : Prop :=
  s.strand = (id, i) ∧ s.runOf id = some r ∧ r.strands[i]? = some x ∧ s.runGoes r = true ∧ x.ended = false

/-- The strand becomes y. -/
def strandTo (s : State) (id i : Nat) (y : Strand) : State := s.modStrand id i fun _ => y

/-- 15 R411, R413, 02 R52, R54: the chunk words that move chunks: each becomes one transfer of its strand, at CK plus N for every past iteration of the
innermost loop, with the peer at PEER from the own rank, modulo the ranks. The own rank as a peer, and a type that RRED does not have, halt with
BADFLD. DEDUCED (log 41): the own rank as a peer halts, and COPY's destination does not move with the loop. -/
def ChunkWordsTransfer : Prop :=
  ∀ (s : State) (id i : Nat) (r : Run) (x : Strand) (ch dt fn : B4) (peer ck n dst : B16), StrandRuns s id i r x →
    let p := ((r.rank + peer.toInt) % (r.nrank : Int)).toNat
    let c := ck.toNat + n.toNat * (match x.loops with
      | (_, k, _) :: _ => k
      | [] => 0)
    let next := fun (x : Strand) => { x with pc := x.pc + 1 }
    (p = r.rank → ∀ w, (w = .chunkSend ch dt peer ck n ∨ w = .chunkRecv ch dt peer ck n ∨ w = .chunkRred ch dt fn peer ck n) →
      exec w s = .next (s.haltStrand id i 0x0C)) ∧
    (2 ≤ dt.toNat → exec (.chunkRred ch dt fn peer ck n) s = .next (s.haltStrand id i 0x0C)) ∧
    (p ≠ r.rank →
      exec (.chunkSend ch dt peer ck n) s = .next (s.startXfer id i r { op := 0, ch := ch.toNat, ck := c, n := n.toNat, peer := p } [p] next) ∧
      exec (.chunkRecv ch dt peer ck n) s = .next (s.startXfer id i r { op := 1, ch := ch.toNat, ck := c, n := n.toNat, peer := p } [] next) ∧
      (dt.toNat < 2 → exec (.chunkRred ch dt fn peer ck n) s = .next (s.startXfer id i r
        { op := 2, ch := ch.toNat, ck := c, n := n.toNat, ch2 := ch.toNat, ck2 := c, peer := p, dt := dt.toNat, fn := fn.toNat } [] next))) ∧
    exec (.chunkCopy ch dst ck n) s = .next (s.startXfer id i r
      { op := 3, ch := ch.toNat, ck := c, n := n.toNat, ch2 := ch.toNat, ck2 := dst.toNat } [] next) ∧
    exec (.chunkMcast ch dt ck n) s = .next (s.startXfer id i r { op := 8, ch := ch.toNat, ck := c, n := n.toNat }
      ((List.range r.nrank).filter fun k => k != r.rank) next)

/-- 15 R411 to R413: a transfer of chunks outside the channels halts with BADCHUNK; with 8 in progress, or one in progress whose chunks it must follow,
it waits. A copy is done at once, as if through a temporary; a receiving transfer takes up its chunks of the peer's stream, and a
sending one its places in the stream to each peer; each keeps its length and its turn there, to be compared with its partner (log 21). A
receiver grants what its landing store has room for (log 91). -/
def TransfersStart : Prop :=
  (∀ (s : State) (id i : Nat) (r : Run) (x : Strand) (a : Act) (peers : List Nat) (adv : Strand → Strand), StrandRuns s id i r x →
    let inside := ∀ c ∈ a.reads ++ a.writes, c.1 = 16 ∨ c.2.2 ≤ gdNchk r.desc
    let waits := 8 ≤ x.xfers.length ∨ ∃ t ∈ x.xfers, a.after t.act = true
    (¬inside → s.startXfer id i r a peers adv = s.haltStrand id i 10) ∧
    (inside → waits → s.startXfer id i r a peers adv = s.pumpAll id i) ∧
    (inside → ¬waits → a.op = 1 ∨ a.op = 2 →
      let k := x.stream a.peer
      let t := s.modStrand id i fun x => { adv x with
        xfers := x.xfers ++ [{ act := a, base := k.taken, turn := k.ins.length }]
        streams := Tbl.put x.streams a.peer { k with taken := k.taken + a.n, ins := k.ins ++ [a.n] } }
      s.startXfer id i r a peers adv = ((if a.n = 0 then t.tellPairs id i a.peer else t).giveGrants id i a.peer).pumpAll id i) ∧
    (inside → ¬waits → a.op = 0 ∨ a.op = 8 → peers ≠ [] → peers.Nodup → ∃ st : Tbl Stream,
      s.startXfer id i r a peers adv = (peers.foldl (fun s p => s.pairUp id i p) (s.modStrand id i fun _ => { adv x with
        xfers := x.xfers ++ [{ act := a, dests := peers.map fun p => (p, (x.stream p).queued) }], streams := st })).pumpAll id i ∧
      ∀ p, Tbl.getD st p {} =
        if p ∈ peers then { x.stream p with queued := (x.stream p).queued + a.n, outs := (x.stream p).outs ++ [a.n] } else x.stream p) ∧
    (inside → ¬waits → a.op = 3 → a.ch < 16 → a.ch2 < 16 →
      ∀ (src dst : Nat → Nat), (∀ k, k < a.n → s.chunkAt r x a.ch (a.ck + k) false = .at (src k)) →
        (∀ k, k < a.n → s.chunkAt r x a.ch2 (a.ck2 + k) true = .at (dst k)) →
        (∀ j k, j < k → k < a.n → dst j + 2048 ≤ dst k ∨ dst k + 2048 ≤ dst j) → ∃ u : State,
          s.startXfer id i r a peers adv = u.modStrand id i adv ∧ u.runs = s.runs ∧ u.watches = s.watches ∧
          (s.hostAcks = [] ∨ (∀ k, k < a.n → isHostKey (dst k) = false ∧ ∀ b, b < 2048 → isHostKey (src k + b) = false) →
          (∀ k b, k < a.n → b < 2048 → memByte u.mem u.epoch (dst k + b) = memByte s.mem s.epoch (src k + b)) ∧
          ∀ b, (∀ k, k < a.n → b < dst k ∨ dst k + 2048 ≤ b) → memByte u.mem u.epoch b = memByte s.mem s.epoch b))) ∧
  (∀ (s : State) (id i p : Nat) (r : Run), s.runOf id = some r →
    let x := r.strand i
    let k := x.stream p
    let room := 512 - (s.tenderStreams (tenderOf x.col)).foldl (fun n k => n + (k.given - k.done)) 0
    let most := if x.headWaits p && room != 0 then max 1 (room - 384) else room - 384
    let n := min k.taken (k.given + most)
    let tells := fun (t : State) given => t.strandFlit r i p 2 given 0 (r.grantPay i p)
    let differ := ∃ y ∈ k.theirs, ∃ m, k.outs[y.1]? = some m ∧ m % 65536 ≠ y.2
    (n ≤ k.given ∨ s.runGoes r = false → s.giveGrants id i p = s) ∧
    (k.given < n → s.runGoes r = true → s.giveGrants id i p = tells (s.modStream id i p fun k => { k with given := n }) n) ∧
    (x.headWaits p = true ↔ ∃ a t b, x.xfers = a ++ t :: b ∧ (∀ y ∈ a, y.act.op ≠ 1 ∧ y.act.op ≠ 2) ∧ (t.act.op = 1 ∨ t.act.op = 2) ∧
      t.act.peer = p ∧ t.act.n ≠ 0 ∧ k.given ≤ t.base + t.applied) ∧
    s.tellPairs id i p = tells s k.given ∧
    (s.runGoes r = true → differ → s.checkPairs id i p = s.strandFlit r i p 5 0 0 0x0C) ∧
    (s.runGoes r = false ∨ ¬differ → s.checkPairs id i p = s)) ∧
  ∀ (s : State) (id i : Nat) (r : Run) (x : Strand) (f : Strand → Strand), s.runOf id = some r → r.strands[i]? = some x →
    let t := s.modStrand id i f
    t.runOf id = some { r with strands := r.strands.set i (f x) } ∧ t = { s with runs := t.runs } ∧
    ∀ code, s.haltStrand id i code = s.modStrand id i fun x => { x with code := if x.code = 0 then code else x.code }

/-- 15 R413, 02 R52, R54: the chunk words that move nothing, and the words that halt: WAIT, SIG, LOOP, NEXT, ROUTE, BAR, END, a reserved opcode. -/
def ChunkWordsControl : Prop :=
  (∀ (s : State) (i : Instr), s.runOf s.strand.1 = none → (∃ ck n peer wd, i = .chunkWait ck n ∨ i = .chunkSig peer n ∨ i = .chunkLoop n ∨
    i = .chunkNext ∨ i = .chunkRoute peer ck ∨ i = .chunkBar ∨ i = .chunkEnd ∨ i = .badop wd) → exec i s = .next s) ∧
  ∀ (s : State) (id i : Nat) (r : Run) (x : Strand) (peer ck n : B16) (wd : Word), StrandRuns s id i r x →
    let p := ((r.rank + peer.toInt) % (r.nrank : Int)).toNat
    let to_ := fun (y : Strand) => strandTo s id i y
    let sig := Tbl.getD x.sigs n.toNat 0
    (ck.toNat ≤ sig → exec (.chunkWait ck n) s = .next (to_ { x with pc := x.pc + 1 })) ∧
    (sig < ck.toNat → exec (.chunkWait ck n) s = .next (s.pumpAll id i)) ∧
    (x.xfers ≠ [] → exec (.chunkSig peer n) s = .next (s.pumpAll id i)) ∧
    (x.xfers = [] → p = r.rank → exec (.chunkSig peer n) s = .next (to_ { x with pc := x.pc + 1, sigs := Tbl.put x.sigs n.toNat (sig + 1) })) ∧
    (x.xfers = [] → p ≠ r.rank → exec (.chunkSig peer n) s = .next ((to_ { x with pc := x.pc + 1 }).strandFlit r i p 3 n.toNat 0 0)) ∧
    (4 ≤ x.loops.length → exec (.chunkLoop n) s = .next (s.haltStrand id i 0x0C)) ∧
    (x.loops.length < 4 → exec (.chunkLoop n) s = .next (to_ { x with pc := x.pc + 1, loops := (x.pc + 1, 0, n.toNat) :: x.loops })) ∧
    (x.loops = [] → exec .chunkNext s = .next (s.haltStrand id i 0x0C)) ∧
    (∀ a k m t, x.loops = (a, k, m) :: t →
      (k + 1 < m → exec .chunkNext s = .next (to_ { x with pc := a, loops := (a, k + 1, m) :: t })) ∧
      (m ≤ k + 1 → exec .chunkNext s = .next (to_ { x with pc := x.pc + 1, loops := t }))) ∧
    (255 < ck.toNat → exec (.chunkRoute peer ck) s = .next (s.haltStrand id i 0x0C)) ∧
    (ck.toNat ≤ 255 → exec (.chunkRoute peer ck) s = .next (to_ { x with pc := x.pc + 1, routes := Tbl.put x.routes peer.toNat ck.toNat })) ∧
    (x.xfers ≠ [] → exec .chunkBar s = .next (s.pumpAll id i)) ∧
    (x.xfers = [] → x.barOpen = true →
      ((∀ q, q < r.nrank → q ≠ r.rank → x.bars ≤ Tbl.getD x.barSeen q 0) → exec .chunkBar s = .next (to_ { x with pc := x.pc + 1, barOpen := false })) ∧
      ((∃ q, q < r.nrank ∧ q ≠ r.rank ∧ Tbl.getD x.barSeen q 0 < x.bars) → exec .chunkBar s = .next s)) ∧
    (x.xfers = [] → x.barOpen = false →
      let u := r.others.foldl (fun s p => s.strandFlit r i p 4 (x.bars + 1) 0 0) (to_ { x with barOpen := true, bars := x.bars + 1 })
      ((∀ q, q < r.nrank → q ≠ r.rank → x.bars + 1 ≤ Tbl.getD x.barSeen q 0) →
        exec .chunkBar s = .next (u.modStrand id i fun x => { x with pc := x.pc + 1, barOpen := false })) ∧
      ((∃ q, q < r.nrank ∧ q ≠ r.rank ∧ Tbl.getD x.barSeen q 0 < x.bars + 1) → exec .chunkBar s = .next u)) ∧
    (x.loops ≠ [] → exec .chunkEnd s = .next (s.haltStrand id i 0x0C)) ∧
    (x.loops = [] → x.xfers ≠ [] → exec .chunkEnd s = .next (s.pumpAll id i)) ∧
    (x.loops = [] → x.xfers = [] → exec .chunkEnd s = .next (to_ { x with ended := true })) ∧
    exec (.badop wd) s = .next (s.haltStrand id i 0x0B)

/-- Port p is up, and the flit is the next in order with its CRC (15 R391, R392). -/
def InOrder (s : State) (p : Nat) (f : Flit) : Prop :=
  (s.port p).up = true ∧ f.crc = flitCrc f ∧ f.lseq = BitVec.ofNat 16 (s.port p).expect

/-- The flit of a kind is for this device and received in order by port p. -/
def ForUs (s : State) (p kind : Nat) (f : Flit) : Prop :=
  f.kind.toNat = kind ∧ f.hidx = f.nhm1 ∧ f.dst = s.address ∧ InOrder s p f ∧ f.rsv = false

/-- Port p has received a flit, which tells what the neighbour has received (15 R391). -/
def got (s : State) (p : Nat) (f : Flit) : State := s.modPort p fun x =>
  let n := (f.lack.toNat + 1) % 65536
  { x with
    expect := (x.expect + 1) % 65536
    acked := if (n + 65536 - x.acked) % 65536 ≤ (x.seq + 65536 - x.acked) % 65536 then n else x.acked }

/-- 15 R391, R403, R412, R413, R415: flits for a strand of a run here: a data flit whose chunk is then complete lands it and is acknowledged, and one of a
chunk that has landed is acknowledged again, by a complete run too; acknowledgements and grants only go up; signals and barriers are counted; an ABORT
marks the use of the group that it names, or waits for a use to come (log 89). A run that has stopped lets its chunks land and no more. What no run
here takes is kept for the device (DESIGN CHOICE, log 53) or dropped, and fills a grant that a run ended early had given (log 77). A grant carries its
definition and the lengths of the transfers, and an ABORT its code (DESIGN CHOICE, log 21); SEQ numbers a signal and a barrier (DESIGN CHOICE, log
31). A flit out of order or with a wrong CRC is not taken. -/
def FlitsReachTheirStrand : Prop :=
  (∀ (s : State) (p : Nat) (f : Flit),
    let all := fun (t : State) (k : Nat → Prop) => (k 0 → exec (.beamData p f) s = .next t) ∧ (k 1 → exec (.beamAck p f) s = .next t) ∧
      (k 2 → exec (.beamGrant p f) s = .next t) ∧ (k 3 → exec (.beamSignal p f) s = .next t) ∧ (k 4 → exec (.beamBarrier p f) s = .next t) ∧
      (k 5 → exec (.beamAbort p f) s = .next t)
    (¬InOrder s p f ∨ f.hidx ≠ f.nhm1 → all s fun _ => True) ∧
    (f.kind.toNat < 7 → all s fun k => f.kind.toNat ≠ k) ∧
    (InOrder s p f → f.hidx = f.nhm1 → f.rsv = true ∨ f.dst ≠ s.address ∨ 7 ≤ f.kind.toNat →
      all (got s p f) fun k => f.kind.toNat = k ∨ 7 ≤ f.kind.toNat) ∧
    (∀ r i q, s.flitTarget f = none → s.pastTarget f = some (r, i, q) → ForUs s p 2 f →
      exec (.beamGrant p f) s = .next ((got s p f).grantPast r i q f)) ∧
    (s.flitTarget f = none →
      let kept := if s.flitOld f then got s p f else { got s p f with early := s.early ++ [f] }
      (ForUs s p 0 f → exec (.beamData p f) s = .next ((got s p f).lateData f)) ∧ (ForUs s p 1 f → exec (.beamAck p f) s = .next (got s p f)) ∧
      (ForUs s p 2 f → s.pastTarget f = none → exec (.beamGrant p f) s = .next kept) ∧ (ForUs s p 3 f → exec (.beamSignal p f) s = .next kept) ∧
      (ForUs s p 4 f → exec (.beamBarrier p f) s = .next kept)) ∧
    (ForUs s p 5 f → f.pay ≠ 0x0C ∨ s.flitTarget f = none → ∃ t, exec (.beamAbort p f) s = .next t ∧ t.mem = s.mem ∧ t.watches = s.watches ∧
      ∀ cx, (Tbl.find s.ctxs cx).isSome → ∀ g, t.group cx g =
        let x := s.group cx g
        let d := (f.use - x.use).toNat
        if g = f.group.toNat ∧ x.def_ = true ∧ x.use = f.use then { x with abt := true }
        else if g = f.group.toNat ∧ 1 ≤ d ∧ d < 128 ∧ f.use ∉ x.ahead then { x with ahead := x.ahead ++ [f.use] } else x) ∧
    (ForUs s p 5 f → f.pay = 0x0C → ∀ r i q, s.flitTarget f = some (r, i, q) →
      exec (.beamAbort p f) s = .next ((got s p f).haltStrand r.id i 0x0C))) ∧
  (∀ (s : State) (f : Flit) (r : Run) (i q : Nat), s.pastTarget f = some (r, i, q) → f.flit = 7 →
    let k := (r.strand i).stream q
    let d := r.via (r.strand i) q
    let tell := fun (t : State) kind seq (pay : BitVec 2048) => match s.streamRoute k d.2 with
      | none => t
      | some (_, w) => t.sendRoute w { bareFlit kind d.1 r.group r.use r.run i seq with pay := pay }
    let a := if k.landedTo = 0 then s else tell s 1 k.landedTo 0
    s.lateData f = s.ackPast r i q ∧ s.ackPast r i q = if 0 ∈ k.outs then tell a 2 k.given (r.grantPay i q) else a) ∧
  (∀ (s : State) (f : Flit), (f.flit ≠ 7 → s.lateData f = s) ∧
    (f.flit = 7 → s.pastTarget f = none → s.lateData f = { s with ctxs := (s.lateData f).ctxs } ∧
      ∀ cx, (Tbl.find s.ctxs cx).isSome → ∀ g,
        let x := s.group cx g
        let mine := fun (o : Sys2Proof.Machine.Owed) => o.run = f.run ∧ o.strand = f.strand.toNat ∧ o.dev = f.src.toNat ∧ o.n ≠ 0
        (g ≠ f.group.toNat ∨ x.use ≠ f.use ∨ (∀ o ∈ x.owed, ¬mine o) → (s.lateData f).group cx g = x) ∧
        ∀ a o b, g = f.group.toNat → x.use = f.use → x.owed = a ++ o :: b → (∀ z ∈ a, ¬mine z) → mine o → (∀ z ∈ x.owed, z.n ≠ 0) →
          (s.lateData f).group cx g = { x with owed := a ++ (if o.n = 1 then [] else [{ o with n := o.n - 1 }]) ++ b })) ∧
  ∀ (s : State) (p q i : Nat) (f : Flit) (r : Run), s.flitTarget f = some (r, i, q) →
    let x := r.strand i
    let k := x.stream q
    let v := got s p f
    let seq := countNear k.done f.seq
    let dup := seq < k.done ∨ ∃ c ∈ k.landed, c.1 = seq
    let parts := (k.parts.filter fun c => !(c.1 == seq && c.2.1 == f.flit.toNat)) ++ [(seq, f.flit.toNat, payBytes f.pay)]
    (ForUs s p 0 f → s.runOf r.id = some r →
      (dup → exec (.beamData p f) s = .next (if f.flit = 7 ∧ s.runGoes r = true then v.strandFlit r i q 1 k.landedTo 0 0 else v)) ∧
      (¬dup → (parts.filter fun c => c.1 == seq).length < 8 →
        exec (.beamData p f) s = .next (v.modStream r.id i q fun k => { k with parts := parts })) ∧
      (¬dup → 8 ≤ (parts.filter fun c => c.1 == seq).length → i < r.strands.length →
        let bytes := (List.range 8).flatMap fun n => (((parts.filter fun c => c.1 == seq).find? fun c => c.2.1 == n).map (·.2.2)).getD []
        let k' := { k with parts := parts.filter (fun c => c.1 != seq), landed := k.landed ++ [(seq, bytes)] }
        ∃ u : State, ∃ r' : Run, u = v.modStream r.id i q (fun _ => k') ∧ u.runOf r.id = some r' ∧
          exec (.beamData p f) s = .next (if s.runGoes r = true then (u.strandFlit r' i q 1 k'.landedTo 0 0).pumpAll r.id i else u))) ∧
    (ForUs s p 1 f → exec (.beamAck p f) s = .next ((v.modStream r.id i q fun k' =>
      let n := min (max k'.acked (countNear k.acked f.seq)) k'.sendSeq
      { k' with acked := n, store := k'.store.filter fun c => decide (n ≤ c.1) }).pumpAll r.id i)) ∧
    (ForUs s p 2 f → exec (.beamGrant p f) s = .next ((v.takeGrant r i q f).pumpAll r.id i) ∧
      (grantSig f.pay ≠ gdSig r.desc → v.takeGrant r i q f = v.haltStrand r.id i 8) ∧
      (grantSig f.pay = gdSig r.desc →
        let theirs := readLens f.pay 1024 k.outs.length
        let sent := readLens f.pay 1536 k.ins.length
        let knows := fun (t u : Tbl Nat) (l : List (Nat × Nat)) => (∀ y ∈ l, Tbl.find u y.1 = some y.2) ∧
          ∀ n, (∀ y ∈ l, y.1 ≠ n) → Tbl.find u n = Tbl.find t n
        ∃ th se, knows k.theirs th theirs ∧ knows k.sent se sent ∧
          let a := (v.modStream r.id i q fun k => { k with
            grant := max k.grant (countNear k.grant f.seq), theirs := th, sent := se }).checkPairs r.id i q
          let new := ∃ y ∈ theirs, Tbl.find k.theirs y.1 = none ∧ y.2 = 0 ∧ k.outs[y.1]? = some 0
          let differ := ∃ y ∈ sent, ∃ n, k.ins[y.1]? = some n ∧ n % 65536 ≠ y.2
          ∃ b, (new → b = a.tellPairs r.id i q) ∧ (¬new → b = a) ∧ (differ → v.takeGrant r i q f = b.haltStrand r.id i 0x0C) ∧
            (¬differ → v.takeGrant r i q f = b))) ∧
    (ForUs s p 3 f → exec (.beamSignal p f) s = .next (v.modStrand r.id i fun x =>
      { x with sigs := Tbl.put x.sigs f.seq.toNat (Tbl.getD x.sigs f.seq.toNat 0 + 1) })) ∧
    (ForUs s p 4 f → exec (.beamBarrier p f) s = .next (v.modStrand r.id i fun x =>
      { x with barSeen := Tbl.put x.barSeen q (max (Tbl.getD x.barSeen q 0) (countNear (Tbl.getD x.barSeen q 0) f.seq)) }))

/-- 15 R390 to R394, R414: a flit on its way goes out by its next hop with HIDX one higher; where that port is down, the source is told, once, by a notice
on every port that is up. A source marks the routes with the notice's hops, another device passes it on while hops are left. A flit goes out in a
frame with the port's sequence number, the last it received in order and the CRC; a port keeps its last 256. A CRC error sends again from the flit
that failed; one sent 32 times without acknowledgement takes the port down, as does a loss of more than 4 lanes. A port that goes down discards its
flits, and its routes are marked until it is retrained. Lanes that lose lock add up (DESIGN CHOICE, log 47). A stream keeps its route until that is
marked; with none left its run ends with NOROUTE. -/
def BeamForwardsAndRecovers : Prop :=
  (∀ (s : State) (p : Nat) (f : Flit),
    let g := { f with hidx := f.hidx + 1 }
    let out := (f.hops.toNat / 2 ^ (4 * (f.hidx.toNat + 1))) % 16
    let bad := f.rsv = true ∨ 7 ≤ f.kind.toNat
    let key := noticeKey f.src.toNat g
    (¬InOrder s p f ∨ f.nhm1.toNat ≤ f.hidx.toNat ∨ f.kind.toNat = 6 → exec (.beamFlitForward p f) s = .next s) ∧
    (InOrder s p f → f.hidx.toNat < f.nhm1.toNat → f.kind.toNat ≠ 6 →
      (bad → exec (.beamFlitForward p f) s = .next (got s p f)) ∧
      (¬bad → (s.port out).up = true → exec (.beamFlitForward p f) s = .next ((got s p f).portSend out g)) ∧
      (¬bad → (s.port out).up = false → key ∈ s.notices → exec (.beamFlitForward p f) s = .next (got s p f)) ∧
      (¬bad → (s.port out).up = false → key ∉ s.notices → exec (.beamFlitForward p f) s =
        .next ({ got s p f with notices := s.notices ++ [key] }.flood { g with kind := 6, dst := f.src, src := s.address, nhm1 := 7, pay := 0 } 16))) ∧
    (f.kind.toNat ≠ 6 ∨ ¬InOrder s p f → exec (.beamLinkdown p f) s = .next s) ∧
    (InOrder s p f → f.kind.toNat = 6 →
      (f.rsv = true → exec (.beamLinkdown p f) s = .next (got s p f)) ∧
      (f.rsv = false → f.dst = s.address → exec (.beamLinkdown p f) s = .next ((got s p f).markRoutes (s.routesWith fun h =>
        decide ((hopPrefix f).length ≤ h.length) && h.take (hopPrefix f).length == hopPrefix f))) ∧
      (f.rsv = false → f.dst ≠ s.address → noticeKey f.dst.toNat f ∈ s.notices ∨ f.nhm1 = 0 → exec (.beamLinkdown p f) s = .next (got s p f)) ∧
      (f.rsv = false → f.dst ≠ s.address → noticeKey f.dst.toNat f ∉ s.notices → f.nhm1 ≠ 0 → exec (.beamLinkdown p f) s =
        .next ({ got s p f with notices := s.notices ++ [noticeKey f.dst.toNat f] }.flood { f with nhm1 := f.nhm1 - 1 } p)))) ∧
  (∀ (s : State) (p : Nat) (f : Flit) (w : Word),
    let x := s.port p
    let y : SentFlit := { seq := x.seq, flit := { f with lseq := BitVec.ofNat 16 x.seq, lack := BitVec.ofNat 16 (x.expect + 65535), crc := flitCrc f } }
    (x.up = false → s.portSend p f = s) ∧
    (x.up = true → ∃ l, s.portSend p f = s.modPort p (fun x => { x with sent := l, seq := (x.seq + 1) % 65536 }) ∧ l.length ≤ 256 ∧
      l.getLast? = some y ∧ (x.sent.length < 256 → l = x.sent ++ [y])) ∧
    s.sendRoute w f = s.portSend (w.extractLsb' 4 4).toNat
      { f with src := s.address, hops := w.extractLsb' 4 32, hidx := 0, nhm1 := w.extractLsb' 1 3 }) ∧
  (∀ (s : State) (r : Run) (i p kind seq flit : Nat) (pay : BitVec 2048),
    let k := (r.strand i).stream p
    let d := r.via (r.strand i) p
    let usable := fun j => (s.routeWord d.2 j).getLsbD 0 = true ∧ (d.2, j) ∉ s.badRoutes
    let keeps := ∃ j w, k.route = some (d.2, j, w) ∧ (d.2, j) ∉ s.badRoutes
    (∀ j w, k.route = some (d.2, j, w) → (d.2, j) ∉ s.badRoutes → s.streamRoute k d.2 = some (j, w)) ∧
    (¬keeps → ∀ j, j < 4 → usable j → (∀ n, n < j → ¬usable n) → s.streamRoute k d.2 = some (j, s.routeWord d.2 j)) ∧
    (¬keeps → (∀ j, j < 4 → ¬usable j) → s.streamRoute k d.2 = none) ∧
    (s.streamRoute k d.2 = none → s.strandFlit r i p kind seq flit pay = s.haltStrand r.id i 7 ∧
      ∀ q, s.runOf q = some r → s.resend q i p = s.haltStrand q i 7) ∧
    ∀ j w, s.streamRoute k d.2 = some (j, w) → s.strandFlit r i p kind seq flit pay =
      (s.modStream r.id i p fun k => { k with route := some (d.2, j, w) }).sendRoute w
        { bareFlit kind d.1 r.group r.use r.run i seq with flit := BitVec.ofNat 3 flit, pay := pay }) ∧
  (∀ (s : State) (p k n : Nat),
    let x := s.port p
    let waits := ∃ y, x.sent[k]? = some y ∧ (y.seq + 65536 - x.acked) % 65536 < (x.seq + 65536 - x.acked) % 65536
    (x.up = false ∨ ¬waits → exec (.beamCrcReject p k) s = .next s) ∧
    (x.up = true → waits → (∃ y ∈ x.sent.drop k, 32 ≤ y.times) → exec (.beamCrcReject p k) s = .next (s.portDown p)) ∧
    (x.up = true → waits → (∀ y ∈ x.sent.drop k, y.times < 32) → exec (.beamCrcReject p k) s = .next (s.modPort p fun x => { x with
      sent := x.sent.take k ++ (x.sent.drop k).map fun y => { y with
        times := y.times + 1
        flit := { y.flit with lseq := BitVec.ofNat 16 y.seq, lack := BitVec.ofNat 16 (x.expect + 65535), crc := flitCrc y.flit } } })) ∧
    (x.up = false ∨ n = 0 ∨ 16 ≤ p → exec (.beamLaneLoss p n) s = .next s) ∧
    (x.up = true → p < 16 → 0 < n → x.lost + n ≤ 4 → exec (.beamLaneLoss p n) s = .next (s.modPort p fun x => { x with lanes := 4, lost := x.lost + n })) ∧
    (x.up = true → p < 16 → 0 < n → 4 < x.lost + n → exec (.beamLaneLoss p n) s = .next (s.portDown p)) ∧
    (x.up = false ∨ 16 ≤ p → exec (.beamPortDown p) s = .next s) ∧
    (x.up = true → p < 16 → exec (.beamPortDown p) s = .next (s.portDown p)) ∧
    (x.up = true ∨ 16 ≤ p → exec (.beamPortRetrain p) s = .next s) ∧
    (x.up = false → p < 16 → ∃ t, exec (.beamPortRetrain p) s = .next t ∧ t.port p = { cap := x.cap } ∧ (∀ q, q ≠ p → t.port q = s.port q) ∧
      t.mem = s.mem ∧ ∀ b, b ∈ t.badRoutes ↔ b ∈ s.badRoutes ∧ b ∉ s.routesWith fun h => h.head? == some p)) ∧
  ∀ (s : State) (p : Nat), ∃ u : State, s.portDown p = u.markRoutes (s.routesWith fun h => h.head? == some p) ∧ u.mem = s.mem ∧
    u.port p = { s.port p with up := false, sent := [] } ∧ (∀ q, q ≠ p → u.port q = s.port q) ∧ u.enmon.log.getLast? = some [0x392, BitVec.ofNat 64 p] ∧
    ∀ l b, b ∈ (u.markRoutes l).badRoutes ↔ b ∈ u.badRoutes ∨ b ∈ l

end Sys2Proof.Spec

/-! ## A group that stays busy (15 R402) -/

namespace Sys2Proof.Spec
open Sys2Proof.Machine

/-- 15 R397, R402: a fragment that has waited for WTO at a COLL.DEFINE or a COLL.RELEASE of a group with a run in progress, or with DRAIN not 0, traps
GRPBUSY; where it stands at anything else, or WTO is 0, nothing happens. DRAIN counts, over the streams of the group's runs here, the chunks in
the send store and what was given and is not done, which are the chunks in the landing store and the grants not yet filled; and of runs that
ended early the grants that their peers have not filled (log 77). It stands in the group's word beside the definition, the use, the run, the
step and ABT. -/
def GroupWaitsTimeOut : Prop :=
  ∀ (s : State) (w e : Nat) (x : Watch), Tbl.find s.watches w = some x → (x.entry e).valid = true → (x.entry e).wait = false → x.ended = false →
    s.isLive x = true →
    let u := { s with cur := w, ent := e }
    ((s.ctx x.ctx).wto = 0 → exec (.grpbusy w e) s = .next s) ∧
    ((s.ctx x.ctx).wto ≠ 0 → ∀ p i, u.fetchInstr = (.ok p, i) →
      (∀ b g c, i = .collDefine b g c ∨ i = .collRelease g c → s.groupBusy x.ctx g.toNat = true →
        exec (.grpbusy w e) s = .next (s.asWatch w e fun t => t.trap { cause := 0x46 })) ∧
      ((∀ b g c, i ≠ .collDefine b g c ∧ i ≠ .collRelease g c) → exec (.grpbusy w e) s = .next s)) ∧
    ∀ cx g,
      let y := s.group cx g
      let v := (s.groupWord cx g).toNat
      let streams := ((s.runs.filter fun r => r.ctx == cx && r.group == g).flatMap (·.strands)).flatMap fun z => z.streams.map (·.2)
      (s.groupBusy cx g = true ↔ (∃ r ∈ s.starts ++ s.runs, r.ctx = cx ∧ r.group = g) ∨ s.drainOf cx g ≠ 0) ∧
      s.drainOf cx g = min 0xFFFF ((streams.map fun k => k.store.length + (k.given - k.done)).sum + (y.owed.map (·.n)).sum) ∧
      v % 2 = (if y.def_ = true then 1 else 0) ∧ v / 2 % 2 ^ 8 = y.use.toNat ∧ v / 2 ^ 9 % 2 ^ 8 = y.run.toNat ∧ v / 2 ^ 17 % 2 ^ 16 = y.step.toNat ∧
      v / 2 ^ 33 % 2 = (if y.abt = true then 1 else 0) ∧ v / 2 ^ 34 = s.drainOf cx g

end Sys2Proof.Spec

/-! ## Steps, encodings and the whole machine -/

namespace Sys2Proof.Spec
open Sys2Proof.Machine

/-- The executing watch fetches the word v at an offset of its control code (00 R5, 02 R37). -/
def Fetches (s : State) (o : Off) (v : W32) : Prop := ∃ p, s.codeWord o = (.ok p, v)

end Sys2Proof.Spec

/-- 00 R5, 01 R18, R21, 09 R259, 02 R37, R52 to R54: a core's control turn goes through its fragments that do not wait, from the slot after the one last
served and in it from the entry after the one last served, and serves the first that is ready, which is the first whose step does anything
(`State.moved`; log 2); watches that have yielded are passed over once where another is ready. That step runs the instruction that the words at
the fragment's PC decode to, unless an interlock holds it. A step in which a strand that holds a context has the turn runs the chunk word at
its place; a step of another agent is that agent's row, after which a lane instruction that was granted the ports runs; where it completes its
chain, the atomics of its AMAXs issue (05 R158, log 78), and a restarted chain leaves undefined what 01 R34 says. -/
def Obligations.AStepRunsTheDecodedInstruction : Prop :=
  (∀ (s : State) (core : Nat) (rest : List Turn), s.agenda = .control core :: rest →
    let v := { s with agenda := rest }
    let serve := fun (n e : Nat) (passed : List Nat) => (v.serveThread n e passed).controlStep
    let does := fun (n e : Nat) (passed : List Nat) => ∀ t, serve n e passed = .next t → v.moved t n e = true
    let goes := fun (passed : List Nat) (l : List (Nat × Nat)) =>
      (∀ pre n e post, l = pre ++ (n, e) :: post → (∀ y ∈ pre, ¬does y.1 y.2 passed) → does n e passed → step s = serve n e passed) ∧
      ((∀ y ∈ l, ¬does y.1 y.2 passed) → step s = .next v)
    let fresh := v.turnsOf core false
    let late := v.turnsOf core true
    let passing := (late.filter v.turnReady).map (·.1)
    (late = [] → goes [] fresh) ∧
    (late ≠ [] → (∀ y ∈ fresh, v.turnReady y = false) → goes passing late) ∧
    (late ≠ [] → ∀ pre x post, fresh = pre ++ x :: post → (∀ y ∈ pre, v.turnReady y = false) → v.turnReady x = true →
      goes (passing.filter fun n => v.stands core n x.1) [x])) ∧
  (∀ (s : State) (core : Nat) (b : Bool),
    let thread := fun (n : Nat) (x : Watch) e => (n, x) ∈ s.watches ∧ x.core = core ∧ s.isLive x = true ∧ x.ended = false ∧ e < 8 ∧
      (x.entry e).valid = true ∧ (x.entry e).wait = false
    let far := fun (x : Watch) => (x.slot + 63 - (s.core core).rr) % 32
    let farE := fun (x : Watch) (e : Nat) => (e + 15 - x.lastEnt) % 8
    (s.core core).rr < 32 → (∀ n x e, thread n x e → x.slot < 32 ∧ x.lastEnt < 8) →
    (∀ n e, (n, e) ∈ s.turnsOf core b ↔ ∃ x, thread n x e ∧ x.yielded = b) ∧
    ((s.watches.map (·.1)).Nodup → (∀ n x e k y f, thread n x e → thread k y f → (x.slot = y.slot ∨ n = k) → (n, x) = (k, y)) →
      ∀ (i j n e k f : Nat) (x y : Watch), i < j → (s.turnsOf core b)[i]? = some (n, e) → (s.turnsOf core b)[j]? = some (k, f) → thread n x e → thread k y f →
        far x < far y ∨ (n = k ∧ farE x e < farE x f))) ∧
  (∀ (s : State) (w e : Nat) (x : Watch) (passed : List Nat), Tbl.find s.watches w = some x →
    let u := s.serveThread w e passed
    let pc := (x.entry e).pc
    u.cur = w ∧ u.ent = e ∧ u.frag = x.entry e ∧ u.mem = s.mem ∧ (u.core x.core).rr = x.slot ∧ (u.watch w).lastEnt = e ∧
      (∀ n ∈ passed, (u.watch n).yielded = false) ∧
      ∀ (w0 w1 w2 : W32) (i : Instr), Spec.Fetches u pc w0 → (1 < lenWords w0 → Spec.Fetches u (pc + 4) w1) →
        (2 < lenWords w0 → Spec.Fetches u (pc + 8) w2) → decode w0 w1 w2 = i →
        (u.stalled i = false → u.controlStep = exec i u) ∧ (u.stalled i = true → u.controlStep = .next u)) ∧
  (∀ (s : State) (i : Instr) (rest : List Turn), s.agenda = .event i :: rest →
    step s = match exec i { s with agenda := rest } with
      | .next t =>
        if t.granted = false then .next t
        else if t.lane.last = false then exec t.grantedInstr { t with granted := false }
        else match exec t.grantedInstr { t with granted := false } with
          | .next u =>
            let v := u.issueAmax t.cur t.next
            .next (if t.chain.loose = [] then v else v.modWatch t.cur fun w => w.loosen t.chain 8)
          | o => o
      | o => o) ∧
  ∀ (s : State) (id i : Nat) (rest : List Turn) (r : Run) (wd : Word), s.agenda = .strand id i :: rest → s.runOf id = some r → r.op = 6 →
    s.hasContext r i = true → r.prog[(r.strand i).pc]? = some wd →
    let u := { s with agenda := rest, strand := (id, i) }
    (∀ c, decodeChunk wd = .ok c → step s = exec c u) ∧ (decodeChunk wd = .badOp → step s = exec (.badop wd) u) ∧
    (decodeChunk wd = .badField → step s = .next u.badField)

/-- 02 R39 to R54, in words that the spec writes out: what the decoder reads from them. -/
def Obligations.WordsReadAsTheSpecWritesThem : Prop :=
  decode 0x00510300 0 0 = .add 3 4 5 ∧
  decode 0x02018604 0 0 = .addi 6 6 32 ∧
  decode 0x00018605 0x000186A0 0 = .addi64 6 6 100000 ∧
  decode 0x08718041 0xFFFFFFFF 0 = .br .lt 6 7 (-1) ∧
  decode 0x0000C056 4 9 = .split 3 4 9 ∧
  decode 0x0400C056 4 9 = .splitN 3 4 9 ∧
  decode 0x00000081 0x08000010 0 = .lx 0x10 4 ∧
  decode 0x00000071 0x00000016 0 = .fence .rel .dev ∧
  decode 0x2495056D 0x000002BE 0 = .xatom 5 20 9 .cas 10 true .ar .dev ∧
  decode 0x055500C5 0x00400813 0 = .wload true 20 21 64 512 false .core ∧
  decode 0x054200CD 0x00002079 0 = .solic 1 8 20 3 1 false .crew ∧
  decode 0x215080C9 0x00000136 0 = .collAllred 2 1 21 9 .dev ∧
  decodeLane 0x0020290E 0x00081403 0 = some (.ffma ⟨10, false, 2, false, 3, 10, 2, false, 0, 0, 0⟩) ∧
  decodeLane 0x18901402 0x035001A0 7 = some (.iadd ⟨5, false, 0x189, false, 0x1A0, 0, 4, true, 6, 0, 7⟩) ∧
  decodeLane 0x04000B42 0x01800060 0x00208800 = some (.mma ⟨2, false, 64, false, 96, 0, 0, false, 3, 0, 0x00208800⟩)

/-- 02 R37 to R54: the words of every well-formed instruction decode to it, whatever words follow; and what the decoder reads is encoded by the words
that it read: no bit of an encoding is dropped. -/
def Obligations.EncodedInstructionsDecodeToThemselves : Prop :=
  (∀ (i : Instr) (ws : List W32), i.wellFormed = true → encode i = some ws →
    ((encodeControl i).isSome → ∃ w0 rest, ws = w0 :: rest ∧ ws.length = lenWords w0 ∧
      ∀ g1 g2, decode w0 (rest[0]?.getD g1) (rest[1]?.getD g2) = i) ∧
    ((encodeLaneOp i).isSome → ∃ w0 w1 w2, ws = [w0, w1, w2] ∧ decodeLane w0 w1 w2 = some i) ∧
    ((encodeChunk i).isSome → ∃ lo hi, ws = [lo, hi] ∧ decodeChunk (hi ++ lo) = .ok i)) ∧
  (∀ (w0 w1 w2 : W32) (i : Instr), decode w0 w1 w2 = i → i ≠ .reservedEncoding w0 →
    i.controlRanges = true ∧ encode i = some ([w0, w1, w2].take (lenWords w0))) ∧
  (∀ (w0 w1 w2 : W32) (i : Instr), decodeLane w0 w1 w2 = some i → i.laneRow = true ∧ encode i = some [w0, w1, w2]) ∧
  ∀ (w : Word) (i : Instr), decodeChunk w = .ok i → i.chunkRanges = true ∧ encodeChunk i = some w

/-- INVARIANT of every step (00 R5; the form is this model's): memory keeps its canonical form, so that equal memories are equal data. -/
def Sys2Proof.Spec.StepsKeepMemoryCanonical : Prop :=
  ∀ (s t : State), Memory.wf s.mem = true → step s = .next t → Memory.wf t.mem = true

/-- DESIGN CHOICE (log 56), which no rule states: no condition of the device stops the machine. Every step answers a next state, in which the counters
behind fresh numbers, the order of accesses and the free values have not gone back. -/
def Sys2Proof.Spec.StepsAlwaysGoOn : Prop :=
  ∀ (s : State), ∃ t, step s = .next t ∧ s.next ≤ t.next ∧ s.seq ≤ t.seq ∧ s.free ≤ t.free ∧ s.epoch ≤ t.epoch

/-- 14 R388, R379, 12 R418, 02 R66, 01 R14, 04 R116, 09 R271: what reset leaves (STATUS 0, no event, every cluster in partition 0), and what a watch starts
with: S1 on from its arguments, every other S register, every V register and P1 to P15 0, every queue EMPTY, one fragment with every lane at the
entry. -/
def Obligations.ResetAndStart : Prop :=
  Memory.wf State.reset.mem = true ∧ State.reset.ctxs = [] ∧ State.reset.watches = [] ∧ State.reset.linkUp = false ∧ State.reset.stackBits = 0 ∧
  State.reset.parts[0]? = some 0xFFFFFFFFFFFFFFFF ∧ (∀ p, 0 < p → p < 8 → State.reset.parts[p]? = some 0) ∧
  (∀ die, die < 2 → State.reset.status die = 0 ∧ (State.reset.die die).evctl = 0 ∧ (State.reset.die die).events = []) ∧
  ∀ (base : Watch) (pc : Off) (l : List Word),
    let x := Watch.start base pc l
    (∀ r : Reg, x.sreg r = if r = 0 then 0 else l[r.toNat - 1]?.getD 0) ∧ (∀ n i, i < 64 → rowAt (x.vreg n) i = 0) ∧
    (∀ n, 0 < n → n < 16 → x.p[n]? = some 0) ∧ (∀ n, n < 8 → (x.queue n).st = .empty) ∧ x.fmask = 0 ∧ x.ops = [] ∧ x.fifo = [] ∧ x.lq = [] ∧ x.pair = none ∧ x.inh = false ∧
    (x.entry 0).valid = true ∧ (x.entry 0).pc = pc ∧ (x.entry 0).mask = base.full ∧ (x.entry 0).sig = 0xFFFFFFFF ∧ ∀ e, 0 < e → e < 8 → (x.entry e).valid = false

/-! ## The obligations that take several statements together -/

/-- SPLIT divides a fragment by a predicate; CALLV calls one target or several. -/
def Obligations.FragmentsSplit : Prop :=
  Spec.SplitDividesTheFragment ∧ Spec.CallvCallsOneTarget ∧ Spec.CallvDividesIntoGroups

/-- SLD puts a load in flight; SST puts its bytes in the store FIFO and writes no memory yet. -/
def Obligations.ControlLoadsAndStoresAreIssued : Prop :=
  Spec.SldPutsALoadInFlight ∧ Spec.SstPutsItsBytesInTheFifo

/-- SATOM and XATOM are put in flight; FENCE, SPREF, NOP, WAITP and YIELD go on or wait. -/
def Obligations.ControlAtomicsAndFences : Prop :=
  Spec.AtomicsArePutInFlight ∧ Spec.FencesHintsAndWaitsGoOn

/-- VGET, VPUT, PGET and PPUT move lane values and predicates. -/
def Obligations.LaneValuesMoveBetweenStreams : Prop :=
  Spec.LaneValuesMoveBetweenStreams ∧ Spec.PredicatesMoveBetweenStreams

/-- SYSR reads every listed system register; CYCLE goes on by a free amount (log 6). -/
def Obligations.SystemRegistersAreRead : Prop :=
  Spec.SysrReadsTheRegister ∧ Spec.CycleIsRead

/-- SYSW writes each writable system register. -/
def Obligations.SystemRegistersAreWritten : Prop :=
  Spec.SyswWritesTheRegister

/-- CREW.JOIN, LEAVE, SIZE and RANK. -/
def Obligations.CrewsChangeMembers : Prop :=
  Spec.CrewInstructionsAnswer ∧ Spec.LeavingACrewRemovesTheWatch

/-- ABAR operations: the step on the object, and what stops it. -/
def Obligations.BarrierObjectsStep : Prop :=
  Spec.BarrierObjectSteps ∧ Spec.BarrierObjectChecks

/-- Containment regions, the unwinding of UNCOR, and SIGCK. -/
def Obligations.RegionsAndSignatures : Prop :=
  Spec.RegionsOpenAndClose ∧ Spec.UncorUnwindsToTheRegion ∧ Spec.SigckChecksTheSignature

/-- PAIR.BEGIN and END, the trailer, and the comparison of entries. -/
def Obligations.PairsRunAndCompare : Prop :=
  Spec.PairsBeginAndEnd ∧ Spec.TrailerTakesTheCheckpoint ∧ Spec.PairsCompareTheirEntries

/-- TCOPY and WLOAD check their operands and issue their commands. -/
def Obligations.CopiesAndWeightLoadsAreIssued : Prop :=
  Spec.TcopyIssuesItsCommand ∧ Spec.WloadIssuesItsCommand

/-- SOLIC, AUCT, REC and TRIG check their operands and issue their commands. -/
def Obligations.EngineCommandsAreIssued : Prop :=
  Spec.SolicAndAuctIssueTheirCommands ∧ Spec.RecAndTrigIssueTheirCommands

/-- COLL.DEFINE, RELEASE and ABORT; a wait for a busy group times out; the last arrival starts a run. -/
def Obligations.GroupsAreDefinedAndReleased : Prop :=
  Spec.GroupsAreDefinedAndReleased ∧ Spec.GroupWaitsTimeOut ∧ Spec.LastArrivalStartsTheRun

/-- CVT, PACK, UNPK, SCALE and QNT. -/
def Obligations.ConversionsWriteTheirResult : Prop :=
  Spec.ConversionsWriteTheirResult ∧ Spec.QntSeparatesOutliers

/-- A sector of a load returns; the oldest store, copy and exchange are written. -/
def Obligations.LoadsReturnAndStoresReachMemory : Prop :=
  Spec.LoadsReturnTheirSectors ∧ Spec.StoresReachMemory

/-- An atomic reads and writes in one step; ordered adds keep the order of their keys. -/
def Obligations.AtomicsAreOneStep : Prop :=
  Spec.AtomicsAreOneStep ∧ Spec.OrderedAddsKeepTheirOrder

/-- A matrix pass, and the other matrix instructions, on the tile. -/
def Obligations.MatrixInstructionsArePerformed : Prop :=
  Spec.MatrixPassUpdatesTheTile ∧ Spec.MatrixInstructionsArePerformed

/-- Arrivals, completed phases, departures and the release of ended watches. -/
def Obligations.PhasesCompleteAndWatchesLeave : Prop :=
  Spec.CompletedPhaseOpensTheNext ∧ Spec.ArrivalsAreRecorded ∧ Spec.DeparturesAreProcessed ∧ Spec.WatchesAreReleased

/-- A page walk follows the table and fills the caches. -/
def Obligations.WalksFollowTheTable : Prop :=
  Spec.WalksFollowTheTable ∧ Spec.WalksFillTheCaches

/-- Pages are made resident, declined, unmapped, and lost with a retired column. -/
def Obligations.PagesAreServedAndUnmapped : Prop :=
  Spec.PagesAreServed ∧ Spec.UnmappingDrainsThePage ∧ Spec.RetiredColumnsBecomeHoles

/-- A core's banks exchange contexts, fill and spill. -/
def Obligations.ContextsSwitch : Prop :=
  Spec.SwitchesBegin ∧ Spec.SwitchesComplete ∧ Spec.BanksFillAndSpill

/-- The rungs of the ladder: records, timeouts, and the next rung up. -/
def Obligations.EscalationsGoUp : Prop :=
  Spec.ContextRungsAreRecorded ∧ Spec.TimeoutsEscalate ∧ Spec.RungsGoUp

/-- Locks, the copy engine, the weight loads and their barrier object. -/
def Obligations.EnginesMoveBytes : Prop :=
  Spec.RangesConflictOverWrites ∧ Spec.EnginesSignalTheirObject ∧ Spec.CopiesMoveTheirBytes ∧ Spec.WloadsFillTheBuffer

/-- Censuses, responders, directory acknowledgements and auctions. -/
def Obligations.CensusesAndAuctionsRun : Prop :=
  Spec.CensusesAnswer ∧ Spec.RespondersAreSpawned ∧ Spec.DirectoryWritesAreAcknowledged ∧ Spec.AuctionsRun

/-- Triggers, run starts, and the end of nodes and runs. -/
def Obligations.RunsStartAndComplete : Prop :=
  Spec.TriggersEnterTheFifo ∧ Spec.RunsStart ∧ Spec.NodesCompleteAndFail

/-- Heads are checked and placed; parameters, vectors and records are served. -/
def Obligations.HeadsAndRecordsAreServed : Prop :=
  Spec.HeadsAreCheckedAndPlaced ∧ Spec.ParametersAndVectorsAreServed ∧ Spec.RecordsAreDelivered

/-- The host windows, the event rings and the mailbox. -/
def Obligations.HostWindowsAndMailbox : Prop :=
  Spec.HostWindowsWork ∧ Spec.MailboxCommandsEnd

/-- Enmon's services, the resets and bring-up. -/
def Obligations.EnmonServesAndResets : Prop :=
  Spec.EnmonServesTheHost ∧ Spec.ResetsAndBringUp

/-- Runs of groups, transfers and the chunk words. -/
def Obligations.CollectiveRunsMove : Prop :=
  Spec.RunsOfGroupsStart ∧ Spec.RunsOfGroupsComplete ∧ Spec.ChunkWordsTransfer ∧ Spec.TransfersStart ∧ Spec.ChunkWordsControl

/-- Beam: flits reach their strand, are forwarded and recovered. -/
def Obligations.BeamCarriesFlits : Prop :=
  Spec.FlitsReachTheirStrand ∧ Spec.BeamForwardsAndRecovers

/-- Every step keeps memory in its canonical form and goes on to a next state. -/
def Obligations.StepsKeepMemoryCanonical : Prop :=
  Spec.StepsKeepMemoryCanonical ∧ Spec.StepsAlwaysGoOn
end

