-- ==== Sys2Proof/Laws/Table.lean ====
section
/-! SUPPORT. What the sparse tables do: a lookup after a change, and the rising order of the keys. -/

namespace Sys2Proof.Machine

theorem Tbl.find_put_same {α : Type} (t : Tbl α) (k : Nat) (v : α) : Tbl.find (Tbl.put t k v) k = some v := by
  induction t with
  | nil => simp [Tbl.put, Tbl.find]
  | cons p t ih =>
    obtain ⟨j, u⟩ := p
    unfold Tbl.put
    split
    · simp [Tbl.find]
    · split
      · simp [Tbl.find]
      · simp [Tbl.find, *]

theorem Tbl.find_put_other {α : Type} (t : Tbl α) {k j : Nat} (v : α) (h : j ≠ k) :
    Tbl.find (Tbl.put t k v) j = Tbl.find t j := by
  induction t with
  | nil => simp [Tbl.put, Tbl.find, h]
  | cons p t ih =>
    obtain ⟨i, u⟩ := p
    unfold Tbl.put
    split
    · simp [Tbl.find, h]
    · split
      · subst_vars
        simp [Tbl.find, h]
      · simp only [Tbl.find]
        split <;> simp [ih]

@[simp] theorem Tbl.getD_put_same {α : Type} (t : Tbl α) (k : Nat) (v d : α) : Tbl.getD (Tbl.put t k v) k d = v := by
  simp [Tbl.getD, Tbl.find_put_same]

theorem Tbl.getD_put_other {α : Type} (t : Tbl α) {k j : Nat} (v d : α) (h : j ≠ k) :
    Tbl.getD (Tbl.put t k v) j d = Tbl.getD t j d := by
  simp [Tbl.getD, Tbl.find_put_other t v h]

theorem Tbl.find_alter_other {α : Type} (t : Tbl α) {k j : Nat} (f : α → α) (h : j ≠ k) :
    Tbl.find (Tbl.alter t k f) j = Tbl.find t j := by
  unfold Tbl.alter
  split
  · rfl
  · exact Tbl.find_put_other t _ h

theorem Tbl.find_alter_same {α : Type} (t : Tbl α) (k : Nat) (f : α → α) :
    Tbl.find (Tbl.alter t k f) k = (Tbl.find t k).map f := by
  unfold Tbl.alter
  split
  · simp [*]
  · simp [Tbl.find_put_same, *]

/-- A change of a table's value at a key is the same as setting it, where the key is there. -/
theorem Tbl.getD_alter_same {α : Type} (t : Tbl α) (k : Nat) (f : α → α) (d : α) (h : (Tbl.find t k).isSome) :
    Tbl.getD (Tbl.alter t k f) k d = f (Tbl.getD t k d) := by
  obtain ⟨v, hv⟩ := Option.isSome_iff_exists.mp h
  simp [Tbl.getD, Tbl.find_alter_same, hv]

theorem Tbl.getD_alter_other {α : Type} (t : Tbl α) {k j : Nat} (f : α → α) (d : α) (h : j ≠ k) :
    Tbl.getD (Tbl.alter t k f) j d = Tbl.getD t j d := by
  simp [Tbl.getD, Tbl.find_alter_other t f h]

/-- Two changes at one key. -/
@[simp] theorem Tbl.put_put {α : Type} (t : Tbl α) (k : Nat) (u v : α) : Tbl.put (Tbl.put t k u) k v = Tbl.put t k v := by
  induction t with
  | nil => simp [Tbl.put]
  | cons p t ih =>
    obtain ⟨j, x⟩ := p
    simp only [Tbl.put]
    split
    · simp [Tbl.put]
    · split
      · simp [Tbl.put]
      · simp [Tbl.put, *]

/-! ## Rising keys -/

theorem Tbl.rising_iff {α : Type} (t : Tbl α) : Tbl.rising t = true ↔ t.Pairwise (fun p q => p.1 < q.1) := by
  induction t with
  | nil => simp [Tbl.rising]
  | cons p t ih =>
    cases t with
    | nil => simp [Tbl.rising]
    | cons q t =>
      simp only [Tbl.rising, Bool.and_eq_true, decide_eq_true_eq, ih, List.pairwise_cons, List.mem_cons, forall_eq_or_imp]
      constructor
      · rintro ⟨h, h1, h2⟩
        exact ⟨⟨h, fun r hr => h.trans (h1 r hr)⟩, h1, h2⟩
      · rintro ⟨⟨h, -⟩, h1, h2⟩
        exact ⟨h, h1, h2⟩

/-- A table that lost entries keeps its order. -/
theorem Tbl.rising_filter {α : Type} {t : Tbl α} (p : Nat × α → Bool) (h : Tbl.rising t = true) :
    Tbl.rising (t.filter p) = true := by
  rw [Tbl.rising_iff] at *
  exact h.filter _

theorem Tbl.find_eq_none_iff {α : Type} (t : Tbl α) (k : Nat) : Tbl.find t k = none ↔ ∀ p ∈ t, p.1 ≠ k := by
  induction t with
  | nil => simp [Tbl.find]
  | cons p t ih =>
    obtain ⟨j, v⟩ := p
    unfold Tbl.find
    split
    · rename_i h
      simp [h]
    · rename_i h
      simp only [ih, List.mem_cons, forall_eq_or_imp]
      exact ⟨fun g => ⟨fun e => h e.symm, g⟩, fun g => g.2⟩

/-- In a table with rising keys, the entries are what a lookup finds. -/
theorem Tbl.find_eq_some_iff {α : Type} {t : Tbl α} (h : Tbl.rising t = true) (k : Nat) (v : α) :
    Tbl.find t k = some v ↔ (k, v) ∈ t := by
  rw [Tbl.rising_iff] at h
  induction t with
  | nil => simp [Tbl.find]
  | cons p t ih =>
    obtain ⟨j, u⟩ := p
    have h2 := List.pairwise_cons.mp h
    unfold Tbl.find
    split
    · rename_i e
      subst e
      simp only [List.mem_cons, Prod.mk.injEq, true_and, Option.some.injEq]
      constructor
      · intro g
        exact Or.inl g.symm
      · rintro (g | g)
        · exact g.symm
        · exact absurd (h2.1 _ g) (lt_irrefl _)
    · rename_i e
      simp [ih h2.2, e]

/-- Two tables with rising keys in which every lookup finds the same are one table. -/
theorem Tbl.ext_find {α : Type} {t u : Tbl α} (ht : Tbl.rising t = true) (hu : Tbl.rising u = true)
    (h : ∀ k, Tbl.find t k = Tbl.find u k) : t = u := by
  have pt := (Tbl.rising_iff t).mp ht
  have pu := (Tbl.rising_iff u).mp hu
  have hm : ∀ p, p ∈ t ↔ p ∈ u := by
    rintro ⟨k, v⟩
    rw [← Tbl.find_eq_some_iff ht, ← Tbl.find_eq_some_iff hu, h]
  have nd {l : Tbl α} (hl : l.Pairwise (fun p q => p.1 < q.1)) : l.Nodup := hl.imp fun {a b} hab e => by
    subst e
    exact lt_irrefl _ hab
  have perm : t.Perm u := (List.perm_ext_iff_of_nodup (nd pt) (nd pu)).mpr hm
  exact perm.eq_of_pairwise (fun a b _ _ h1 h2 => absurd h1 (lt_asymm h2)) pt pu

end Sys2Proof.Machine
end

