-- ==== Sys2Proof/Laws/Memory.lean ====
section
/-! SUPPORT. Memory: a read after a write, and that every operation keeps the canonical form, in which equal memories are equal
lists. -/

namespace Sys2Proof.Machine

theorem Memory.wf_iff (m : List Host.Cell) :
    Memory.wf m = true ↔ Tbl.rising m = true ∧ ∀ c ∈ m, memDefault c.1 ≠ some c.2 := by
  simp [Memory.wf]

theorem Memory.wf_nil : Memory.wf [] = true := rfl

theorem memCells_cons (key : Nat) (b : Byte) (t : List Byte) : memCells key (b :: t) =
    if memDefault key = some b then memCells (key + 1) t else (key, b) :: memCells (key + 1) t := rfl

theorem mem_memCells {key : Nat} {l : List Byte} {c : Host.Cell} :
    c ∈ memCells key l ↔ ∃ i, l[i]? = some c.2 ∧ c.1 = key + i ∧ memDefault c.1 ≠ some c.2 := by
  induction l generalizing key with
  | nil => simp [memCells]
  | cons b t ih =>
    have tail : (∃ i, (b :: t)[i + 1]? = some c.2 ∧ c.1 = key + (i + 1) ∧ memDefault c.1 ≠ some c.2) ↔ c ∈ memCells (key + 1) t := by
      rw [ih]
      constructor <;>
      · rintro ⟨i, h1, h2, h3⟩
        exact ⟨i, by simpa using h1, by omega, h3⟩
    have split_ : (∃ i, (b :: t)[i]? = some c.2 ∧ c.1 = key + i ∧ memDefault c.1 ≠ some c.2) ↔
        (b = c.2 ∧ c.1 = key ∧ memDefault c.1 ≠ some c.2) ∨ c ∈ memCells (key + 1) t := by
      rw [← tail]
      constructor
      · rintro ⟨i | i, h1, h2, h3⟩
        · exact Or.inl ⟨by simpa using h1, h2, h3⟩
        · exact Or.inr ⟨i, h1, h2, h3⟩
      · rintro (⟨h1, h2, h3⟩ | ⟨i, h⟩)
        · exact ⟨0, by simpa using h1, h2, h3⟩
        · exact ⟨i + 1, h⟩
    rw [split_, memCells_cons]
    split
    · rename_i h
      constructor
      · exact Or.inr
      · rintro (⟨rfl, e, h3⟩ | h1)
        · exact absurd (e ▸ h) h3
        · exact h1
    · rename_i h
      rw [List.mem_cons]
      constructor
      · rintro (h1 | h1)
        · subst h1
          exact Or.inl ⟨rfl, rfl, h⟩
        · exact Or.inr h1
      · rintro (⟨h1, h2, -⟩ | h1)
        · exact Or.inl (Prod.ext h2 h1.symm)
        · exact Or.inr h1

theorem memCells_range {key : Nat} {l : List Byte} {c : Host.Cell} (h : c ∈ memCells key l) :
    key ≤ c.1 ∧ c.1 < key + l.length := by
  obtain ⟨i, h1, h2, -⟩ := mem_memCells.mp h
  have := (List.getElem?_eq_some_iff.mp h1).1
  omega

theorem memCells_rising (key : Nat) (l : List Byte) : (memCells key l).Pairwise (fun p q => p.1 < q.1) := by
  induction l generalizing key with
  | nil => simp [memCells]
  | cons b t ih =>
    rw [memCells_cons]
    split
    · exact ih _
    · refine List.pairwise_cons.mpr ⟨fun q hq => ?_, ih _⟩
      have := (memCells_range hq).1
      simpa using this

/-- A write keeps the canonical form. -/
theorem memWrite_wf {m : List Host.Cell} (h : Memory.wf m = true) (key : Nat) (l : List Byte) :
    Memory.wf (memWrite m key l) = true := by
  rw [Memory.wf_iff] at *
  obtain ⟨hr, hd⟩ := h
  rw [Tbl.rising_iff] at *
  constructor
  · unfold memWrite
    rw [List.pairwise_append, List.pairwise_append]
    refine ⟨⟨hr.filter _, memCells_rising key l, ?_⟩, hr.filter _, ?_⟩
    · intro a ha b hb
      have h1 : a.1 < key := by simpa using (List.mem_filter.mp ha).2
      have := (memCells_range hb).1
      omega
    · intro a ha b hb
      have h1 : key + l.length ≤ b.1 := by simpa using (List.mem_filter.mp hb).2
      rcases List.mem_append.mp ha with ha | ha
      · have : a.1 < key := by simpa using (List.mem_filter.mp ha).2
        omega
      · have := (memCells_range ha).2
        omega
  · intro c hc
    unfold memWrite at hc
    rcases List.mem_append.mp hc with hc | hc
    · rcases List.mem_append.mp hc with hc | hc
      · exact hd c (List.mem_filter.mp hc).1
      · obtain ⟨-, -, -, h3⟩ := mem_memCells.mp hc
        exact h3
    · exact hd c (List.mem_filter.mp hc).1

/-- Removing entries keeps the canonical form. -/
theorem Memory.wf_filter {m : List Host.Cell} (p : Host.Cell → Bool) (h : Memory.wf m = true) :
    Memory.wf (m.filter p) = true := by
  rw [Memory.wf_iff] at *
  exact ⟨Tbl.rising_filter p h.1, fun c hc => h.2 c (List.mem_filter.mp hc).1⟩

theorem memForget_wf {m : List Host.Cell} (h : Memory.wf m = true) (lo hi : Nat) : Memory.wf (memForget m lo hi) = true :=
  Memory.wf_filter _ h

theorem Tbl.find_filter {α : Type} (t : Tbl α) (p : Nat → Bool) (k : Nat) :
    Tbl.find (t.filter fun c => p c.1) k = if p k then Tbl.find t k else none := by
  induction t with
  | nil => simp [Tbl.find]
  | cons c t ih =>
    obtain ⟨j, v⟩ := c
    by_cases h : p j
    · rw [List.filter_cons_of_pos (by simpa using h)]
      simp only [Tbl.find]
      split
      · subst_vars
        simp [h]
      · exact ih
    · rw [List.filter_cons_of_neg (by simpa using h), ih]
      by_cases e : k = j
      · subst e
        simp [h]
      · simp [Tbl.find, e]

theorem Tbl.find_append {α : Type} (t u : Tbl α) (k : Nat) :
    Tbl.find (t ++ u) k = (Tbl.find t k).or (Tbl.find u k) := by
  induction t with
  | nil => simp [Tbl.find]
  | cons c t ih =>
    obtain ⟨j, v⟩ := c
    simp only [List.cons_append, Tbl.find]
    split
    · simp
    · exact ih

theorem find_memCells (key : Nat) (l : List Byte) (k : Nat) :
    (Tbl.find (memCells key l) k).or (memDefault k) =
      if key ≤ k ∧ k < key + l.length then l[k - key]? else memDefault k := by
  induction l generalizing key with
  | nil =>
    simp [memCells, Tbl.find]
  | cons b t ih =>
    have rest : k ≠ key → (if key + 1 ≤ k ∧ k < key + 1 + t.length then t[k - (key + 1)]? else memDefault k) =
        if key ≤ k ∧ k < key + (b :: t).length then (b :: t)[k - key]? else memDefault k := by
      intro hk
      by_cases h : key + 1 ≤ k ∧ k < key + 1 + t.length
      · have h' : key ≤ k ∧ k < key + (b :: t).length := by simp only [List.length_cons]; omega
        rw [if_pos h, if_pos h', show k - key = (k - (key + 1)) + 1 by omega, List.getElem?_cons_succ]
      · have h' : ¬(key ≤ k ∧ k < key + (b :: t).length) := by simp only [List.length_cons]; omega
        rw [if_neg h, if_neg h']
    have here : k = key → (if key ≤ k ∧ k < key + (b :: t).length then (b :: t)[k - key]? else memDefault k) = some b := by
      rintro rfl
      simp
    rw [memCells_cons]
    split
    · rename_i h
      rw [ih]
      by_cases hk : k = key
      · rw [here hk, if_neg (by omega), hk, h]
      · exact rest hk
    · simp only [Tbl.find]
      split
      · rename_i hk
        rw [here hk]
        simp
      · rename_i hk
        rw [ih]
        exact rest hk

/-- A read of memory after a write (00 R5): the bytes written, and every other byte as before. -/
theorem memFind_memWrite (m : List Host.Cell) (key : Nat) (l : List Byte) (k : Nat) :
    memFind (memWrite m key l) k = if key ≤ k ∧ k < key + l.length then l[k - key]? else memFind m k := by
  unfold memFind memWrite
  have e1 := Tbl.find_filter m (fun j => decide (j < key)) k
  have e2 := Tbl.find_filter m (fun j => decide (key + l.length ≤ j)) k
  have e3 := find_memCells key l k
  rw [Tbl.find_append, Tbl.find_append, e1, e2]
  by_cases h : key ≤ k ∧ k < key + l.length
  · have h1 : ¬(k < key) := by omega
    have h2 : ¬(key + l.length ≤ k) := by omega
    simpa [h1, h2, h] using e3
  · have e4 : Tbl.find (memCells key l) k = none := by
      rw [Tbl.find_eq_none_iff]
      intro p hp e
      have := memCells_range hp
      omega
    rw [if_neg h, e4]
    by_cases h1 : k < key
    · have h2 : ¬(key + l.length ≤ k) := by omega
      simp [h1, h2]
    · have h2 : key + l.length ≤ k := by omega
      simp [h1, h2]

/-- A write leaves every byte outside it. -/
theorem memByte_memWrite_other (m : List Host.Cell) (e key : Nat) (l : List Byte) {k : Nat}
    (h : ¬(key ≤ k ∧ k < key + l.length)) : memByte (memWrite m key l) e k = memByte m e k := by
  simp [memByte, memFind_memWrite, h]

/-- A byte just written reads as written. -/
theorem memByte_memWrite (m : List Host.Cell) (e key : Nat) (l : List Byte) {i : Nat} (h : i < l.length) :
    memByte (memWrite m key l) e (key + i) = l[i] := by
  simp [memByte, memFind_memWrite, h]

@[simp] theorem leBytes_length (n x : Nat) : (leBytes n x).length = n := by simp [leBytes]

theorem leNat_leBytes (n x : Nat) : leNat (leBytes n x) = x % 256 ^ n := by
  induction n generalizing x with
  | zero => simp [leBytes, leNat, Nat.mod_one]
  | succ n ih =>
    have h : leBytes (n + 1) x = byteOf x 0 :: leBytes n (x / 256) := by
      simp only [leBytes, List.range_succ_eq_map, List.map_cons, List.map_map]
      congr 1
      apply List.map_congr_left
      intro i _
      simp only [Function.comp, byteOf]
      congr 1
      rw [Nat.shiftRight_eq_div_pow, Nat.shiftRight_eq_div_pow, Nat.div_div_eq_div_mul, show 8 * i.succ = 8 + 8 * i by omega, pow_add]
      norm_num
    rw [h]
    simp only [leNat, ih, byteOf, Nat.mul_zero, Nat.shiftRight_zero, BitVec.toNat_ofNat]
    rw [show (2 : Nat) ^ 8 = 256 by norm_num, pow_succ, mul_comm (256 ^ n) 256, Nat.mod_mul]

/-- n bytes just written read as the number written (00 R5). -/
theorem memNat_memWrite (m : List Host.Cell) (e key n x : Nat) :
    memNat (memWrite m key (leBytes n x)) e key n = x % 256 ^ n := by
  have : (List.range n).map (fun i => memByte (memWrite m key (leBytes n x)) e (key + i)) = leBytes n x := by
    apply List.ext_getElem (by simp)
    intro i h1 h2
    simp only [List.getElem_map, List.getElem_range]
    exact memByte_memWrite m e key _ h2
  rw [memNat, this, leNat_leBytes]

/-- n bytes outside a write read as before. -/
theorem memNat_memWrite_other (m : List Host.Cell) (e key : Nat) (l : List Byte) (k n : Nat)
    (h : k + n ≤ key ∨ key + l.length ≤ k) : memNat (memWrite m key l) e k n = memNat m e k n := by
  unfold memNat
  congr 1
  apply List.map_congr_left
  intro i hi
  have := List.mem_range.mp hi
  exact memByte_memWrite_other m e key l (by omega)

/-- In the canonical form, two memories of which every byte reads the same are one. -/
theorem Memory.ext_find {m n : List Host.Cell} (hm : Memory.wf m = true) (hn : Memory.wf n = true)
    (h : ∀ k, memFind m k = memFind n k) : m = n := by
  rw [Memory.wf_iff] at hm hn
  refine Tbl.ext_find hm.1 hn.1 fun k => ?_
  have hk := h k
  unfold memFind at hk
  cases e1 : Tbl.find m k with
  | some a =>
    have h1 := hm.2 _ ((Tbl.find_eq_some_iff hm.1 k a).mp e1)
    cases e2 : Tbl.find n k with
    | some b => simpa [e1, e2] using hk
    | none =>
      rw [e1, e2] at hk
      exact absurd hk.symm (by simpa using h1)
  | none =>
    cases e2 : Tbl.find n k with
    | some b =>
      have h2 := hn.2 _ ((Tbl.find_eq_some_iff hn.1 k b).mp e2)
      rw [e1, e2] at hk
      exact absurd hk (by simpa using h2)
    | none => rfl

end Sys2Proof.Machine
end

