-- ==== Sys2Proof/Laws/KeepCore.lean ====
section
/-! SUPPORT. What `Keeps` says of a step, operation by
operation: the shared operations, the control stream.
The lemma of an operation has its name and the ending _keeps (written by tools/gen_keep_files.py from the signatures). -/

set_option linter.unusedTactic false
set_option linter.unreachableTactic false
set_option linter.unusedSimpArgs false
set_option linter.unusedVariables false
set_option Elab.async false

namespace Sys2Proof.Machine

/-- A fold over a list keeps what each of its steps keeps. -/
theorem keeps_foldl {α : Type} {r s : State} {f : State → α → State} {l : List α} (h : Keeps r s)
    (hf : ∀ t a, Keeps r t → Keeps r (f t a)) : Keeps r (l.foldl f s) := by
  induction l generalizing s with
  | nil => exact h
  | cons a t ih => exact ih (hf s a h)

theorem Keeps.refl (s : State) : Keeps s s := ⟨id, le_rfl, le_rfl, le_rfl, le_rfl⟩

theorem Keeps.trans {r s t : State} (h : Keeps r s) (g : Keeps s t) : Keeps r t :=
  ⟨fun w => g.1 (h.1 w), h.2.1.trans g.2.1, h.2.2.1.trans g.2.2.1, h.2.2.2.1.trans g.2.2.2.1, h.2.2.2.2.trans g.2.2.2.2⟩

/-- A state that differs from `s` outside memory and the counters. -/
theorem keeps_same {r s t : State} (h : Keeps r s) (hm : t.mem = s.mem) (h1 : t.next = s.next) (h2 : t.seq = s.seq)
    (h3 : t.free = s.free) (h4 : t.epoch = s.epoch) : Keeps r t := by
  obtain ⟨a, b, c, d, e⟩ := h
  exact ⟨fun w => hm ▸ a w, h1 ▸ b, h2 ▸ c, h3 ▸ d, h4 ▸ e⟩

/-- An outcome that is a next state, which keeps what `Keeps` says. -/
def KeepsO (r : State) (o : Host.Outcome State Fault Refusal) : Prop := ∃ t, o = .next t ∧ Keeps r t

theorem keepsO_next {r t : State} (h : Keeps r t) : KeepsO r (.next t) := ⟨t, rfl, h⟩

/-- A state with the memory and the counters of `s` keeps what `s` keeps. -/
theorem keeps_mk_iff (r s : State)
    (watches_ : Tbl Watch) (columns_ : Tbl Column) (layouts_ : Tbl Layout) (cores_ : Tbl Core) (clusters_ : Tbl Cluster)
    (dies_ : Tbl Die) (ctxs_ : Tbl Context) (launches_ : Tbl Launch) (waits_ : List PageWait) (hostAcks_ : List HostAck)
    (unmaps_ : List Unmap) (starts_ : List Run) (runs_ : List Run) (past_ : List Run) (early_ : List Flit)
    (ports_ : Tbl Port) (routes_ : Tbl Word) (badRoutes_ : List (Nat × Nat)) (notices_ : List (Nat × Nat))
    (address_ : BitVec 16) (parts_ : Vector Word 8) (enmon_ : Enmon) (stackBits_ : Mask) (modules_ : List Nat)
    (linkUp_ : Bool) (cur_ : Nat) (ent_ : Nat) (lane_ : LaneCtx) (strand_ : Nat × Nat) (granted_ : Bool)
    (agenda_ : List Turn) (turn_ : Bool) (rot_ : Nat) :
    Keeps r (State.mk s.mem watches_ columns_ layouts_ cores_ clusters_ dies_ ctxs_ launches_ waits_ hostAcks_ unmaps_ starts_ runs_ past_
    early_ ports_ routes_ badRoutes_ notices_ address_ parts_ enmon_ stackBits_ modules_ linkUp_ cur_ ent_ lane_ strand_
    granted_ agenda_ turn_ rot_ s.free s.epoch s.next s.seq) ↔ Keeps r s := Iff.rfl

/-- A state with the counters of `s`, whose memory is canonical where that of `s` is. -/
theorem keeps_mem {r s : State} (h : Keeps r s) {m : List Host.Cell}
    (hm : Memory.wf s.mem = true → Memory.wf m = true)
    (watches_ : Tbl Watch) (columns_ : Tbl Column) (layouts_ : Tbl Layout) (cores_ : Tbl Core) (clusters_ : Tbl Cluster)
    (dies_ : Tbl Die) (ctxs_ : Tbl Context) (launches_ : Tbl Launch) (waits_ : List PageWait) (hostAcks_ : List HostAck)
    (unmaps_ : List Unmap) (starts_ : List Run) (runs_ : List Run) (past_ : List Run) (early_ : List Flit)
    (ports_ : Tbl Port) (routes_ : Tbl Word) (badRoutes_ : List (Nat × Nat)) (notices_ : List (Nat × Nat))
    (address_ : BitVec 16) (parts_ : Vector Word 8) (enmon_ : Enmon) (stackBits_ : Mask) (modules_ : List Nat)
    (linkUp_ : Bool) (cur_ : Nat) (ent_ : Nat) (lane_ : LaneCtx) (strand_ : Nat × Nat) (granted_ : Bool)
    (agenda_ : List Turn) (turn_ : Bool) (rot_ : Nat) :
    Keeps r (State.mk m watches_ columns_ layouts_ cores_ clusters_ dies_ ctxs_ launches_ waits_ hostAcks_ unmaps_ starts_ runs_ past_
    early_ ports_ routes_ badRoutes_ notices_ address_ parts_ enmon_ stackBits_ modules_ linkUp_ cur_ ent_ lane_ strand_
    granted_ agenda_ turn_ rot_ s.free s.epoch s.next s.seq) :=
  ⟨fun w => hm (h.1 w), h.2.1, h.2.2.1, h.2.2.2.1, h.2.2.2.2⟩

/-- A fold over a list keeps a property that each of its steps keeps. -/
theorem foldl_keeps {α β : Type} (p : β → Prop) {f : β → α → β} {b : β} {l : List α} (h : p b)
    (hf : ∀ c a, p c → p (f c a)) : p (l.foldl f b) := by
  induction l generalizing b with
  | nil => exact h
  | cons a t ih => exact ih (hf b a h)

theorem keeps_fst {α : Type} {r t : State} {p : State × α} {a : α} (e : p = (t, a)) (g : Keeps r p.1) : Keeps r t := by
  subst e
  exact g

theorem keeps_snd {α : Type} {r t : State} {p : α × State} {a : α} (e : p = (a, t)) (g : Keeps r p.2) : Keeps r t := by
  subst e
  exact g

/-! ## Access -/

theorem State.putWatch_keeps {r s : State} (h : Keeps r s) (w : Nat) (x : Watch) :
    Keeps r (State.putWatch s w x) := by
  exact keeps_same h rfl rfl rfl rfl rfl

theorem State.setW_keeps {r s : State} (h : Keeps r s) (x : Watch) :
    Keeps r (State.setW s x) := by
  exact keeps_same h rfl rfl rfl rfl rfl

theorem State.modW_keeps {r s : State} (h : Keeps r s) (f : Watch → Watch) :
    Keeps r (State.modW s f) := by
  exact keeps_same h rfl rfl rfl rfl rfl

theorem State.modWatch_keeps {r s : State} (h : Keeps r s) (w : Nat) (f : Watch → Watch) :
    Keeps r (State.modWatch s w f) := by
  exact keeps_same h rfl rfl rfl rfl rfl

theorem State.setCore_keeps {r s : State} (h : Keeps r s) (c : Nat) (x : Core) :
    Keeps r (State.setCore s c x) := by
  exact keeps_same h rfl rfl rfl rfl rfl

theorem State.modCore_keeps {r s : State} (h : Keeps r s) (c : Nat) (f : Core → Core) :
    Keeps r (State.modCore s c f) := by
  exact keeps_same h rfl rfl rfl rfl rfl

theorem State.modColumn_keeps {r s : State} (h : Keeps r s) (c : Nat) (f : Column → Column) :
    Keeps r (State.modColumn s c f) := by
  exact keeps_same h rfl rfl rfl rfl rfl

theorem State.modCluster_keeps {r s : State} (h : Keeps r s) (c : Nat) (f : Cluster → Cluster) :
    Keeps r (State.modCluster s c f) := by
  exact keeps_same h rfl rfl rfl rfl rfl

theorem State.modDie_keeps {r s : State} (h : Keeps r s) (d : Nat) (f : Die → Die) :
    Keeps r (State.modDie s d f) := by
  exact keeps_same h rfl rfl rfl rfl rfl

theorem State.modCtx_keeps {r s : State} (h : Keeps r s) (c : Nat) (f : Context → Context) :
    Keeps r (State.modCtx s c f) := by
  exact keeps_same h rfl rfl rfl rfl rfl

theorem State.modLaunch_keeps {r s : State} (h : Keeps r s) (n : Nat) (f : Launch → Launch) :
    Keeps r (State.modLaunch s n f) := by
  exact keeps_same h rfl rfl rfl rfl rfl

theorem State.modLayout_keeps {r s : State} (h : Keeps r s) (ctx : Nat) (pcn : Nat) (f : Layout → Layout) :
    Keeps r (State.modLayout s ctx pcn f) := by
  exact keeps_same h rfl rfl rfl rfl rfl

theorem State.bump_keeps {r s : State} (h : Keeps r s) :
    Keeps r (State.bump s) := by
  exact h.trans ⟨id, Nat.le_succ _, le_rfl, le_rfl, le_rfl⟩

theorem State.tick_keeps {r s : State} (h : Keeps r s) :
    Keeps r (State.tick s) := by
  exact h.trans ⟨id, le_rfl, Nat.le_succ _, le_rfl, le_rfl⟩

theorem State.setS_keeps {r s : State} (h : Keeps r s) (n : Reg) (v : Word) :
    Keeps r (State.setS s n v) := by
  exact keeps_same h rfl rfl rfl rfl rfl

theorem State.modFrag_keeps {r s : State} (h : Keeps r s) (f : SplitEntry → SplitEntry) :
    Keeps r (State.modFrag s f) := by
  exact keeps_same h rfl rfl rfl rfl rfl

/-! ## Mem -/

theorem State.writeN_keeps {r s : State} (h : Keeps r s) (key : Nat) (n : Nat) (v : Nat) :
    Keeps r (State.writeN s key n v) := by
  exact h.trans ⟨fun w => memWrite_wf w _ _, le_rfl, le_rfl, le_rfl, le_rfl⟩

theorem State.writeBytes_keeps {r s : State} (h : Keeps r s) (key : Nat) (l : List Byte) :
    Keeps r (State.writeBytes s key l) := by
  exact h.trans ⟨fun w => memWrite_wf w _ _, le_rfl, le_rfl, le_rfl, le_rfl⟩

theorem State.hostTakes_keeps {r s : State} (h : Keeps r s) (pcn : Nat) :
    Keeps r (State.hostTakes s pcn) := by
  unfold State.hostTakes
  try dsimp only
  repeat' (first | with_reducible assumption | intro _ | with_reducible apply State.writeN_keeps |
                  with_reducible apply keepsO_next | with_reducible apply keeps_foldl | split | simp only [keeps_mk_iff])

theorem State.colWrite_keeps {r s : State} (h : Keeps r s) (pcn : Nat) (key : Nat) (l : List Byte) :
    Keeps r (State.colWrite s pcn key l) := by
  unfold State.colWrite
  try dsimp only
  repeat' (first | with_reducible assumption | intro _ | with_reducible apply State.hostTakes_keeps |
                  with_reducible apply State.writeBytes_keeps | with_reducible apply keepsO_next |
                  with_reducible apply keeps_foldl | split | simp only [keeps_mk_iff])

/-! ## Flags -/

theorem State.finish_keeps {r s : State} (h : Keeps r s) (i : Instr) :
    Keeps r (State.finish i s) := by
  exact keeps_same h rfl rfl rfl rfl rfl

theorem State.finishNoFold_keeps {r s : State} (h : Keeps r s) (i : Instr) :
    Keeps r (State.finishNoFold i s) := by
  exact keeps_same h rfl rfl rfl rfl rfl

theorem State.jumpTo_keeps {r s : State} (h : Keeps r s) (t : Off) :
    Keeps r (State.jumpTo t s) := by
  exact keeps_same h rfl rfl rfl rfl rfl

/-! ## Operands -/

theorem State.addOp_keeps {r s : State} (h : Keeps r s) (o : Op) :
    Keeps r (State.addOp s o) := by
  unfold State.addOp
  try dsimp only
  repeat' (first | with_reducible assumption | intro _ | with_reducible apply State.bump_keeps |
                  with_reducible apply State.modW_keeps | with_reducible apply State.tick_keeps |
                  with_reducible apply keepsO_next | with_reducible apply keeps_foldl | split | simp only [keeps_mk_iff])

theorem State.laneIssued_keeps {r s : State} (h : Keeps r s) (o : LaneOps) (latch : Option Row64) :
    Keeps r (State.laneIssued s o latch) := by
  unfold State.laneIssued
  try dsimp only
  repeat' (first | with_reducible assumption | intro _ | with_reducible apply State.addOp_keeps |
                  with_reducible apply State.modCore_keeps | with_reducible apply State.modW_keeps |
                  with_reducible apply keepsO_next | with_reducible apply keeps_foldl | split | simp only [keeps_mk_iff])

theorem State.putResult_keeps {r s : State} (h : Keeps r s) (o : LaneOps) (r_ : Row) :
    Keeps r (State.putResult s o r_) := by
  unfold State.putResult
  try dsimp only
  repeat' (first | with_reducible assumption | intro _ | with_reducible apply State.laneIssued_keeps |
                  with_reducible apply State.modW_keeps | with_reducible apply keepsO_next | with_reducible apply keeps_foldl |
                  split | simp only [keeps_mk_iff])

theorem State.putResult64_keeps {r s : State} (h : Keeps r s) (o : LaneOps) (r_ : Row64) :
    Keeps r (State.putResult64 s o r_) := by
  unfold State.putResult64
  try dsimp only
  repeat' (first | with_reducible assumption | intro _ | with_reducible apply State.laneIssued_keeps |
                  with_reducible apply State.modW_keeps | with_reducible apply keepsO_next | with_reducible apply keeps_foldl |
                  split | simp only [keeps_mk_iff])

theorem State.putPred_keeps {r s : State} (h : Keeps r s) (o : LaneOps) (m : Mask) :
    Keeps r (State.putPred s o m) := by
  unfold State.putPred
  try dsimp only
  repeat' (first | with_reducible assumption | intro _ | with_reducible apply State.laneIssued_keeps |
                  with_reducible apply State.modW_keeps | with_reducible apply keepsO_next | with_reducible apply keeps_foldl |
                  split | simp only [keeps_mk_iff])

theorem State.noResult_keeps {r s : State} (h : Keeps r s) (o : LaneOps) :
    Keeps r (State.noResult s o) := by
  unfold State.noResult
  try dsimp only
  repeat' (first | with_reducible assumption | intro _ | with_reducible apply State.laneIssued_keeps |
                  with_reducible apply keepsO_next | with_reducible apply keeps_foldl | split | simp only [keeps_mk_iff])

theorem State.lane3_keeps {r s : State} (h : Keeps r s) (o : LaneOps) (f : W32 → W32 → W32 → W32 → W32) :
    Keeps r (State.lane3 s o f) := by
  unfold State.lane3
  try dsimp only
  repeat' (first | with_reducible assumption | intro _ | with_reducible apply State.putResult_keeps |
                  with_reducible apply keepsO_next | with_reducible apply keeps_foldl | split | simp only [keeps_mk_iff])

theorem State.lane2_keeps {r s : State} (h : Keeps r s) (o : LaneOps) (f : W32 → W32 → W32) :
    Keeps r (State.lane2 s o f) := by
  unfold State.lane2
  try dsimp only
  repeat' (first | with_reducible assumption | intro _ | with_reducible apply State.lane3_keeps |
                  with_reducible apply keepsO_next | with_reducible apply keeps_foldl | split | simp only [keeps_mk_iff])

theorem State.lane1_keeps {r s : State} (h : Keeps r s) (o : LaneOps) (f : W32 → W32) :
    Keeps r (State.lane1 s o f) := by
  unfold State.lane1
  try dsimp only
  repeat' (first | with_reducible assumption | intro _ | with_reducible apply State.lane3_keeps |
                  with_reducible apply keepsO_next | with_reducible apply keeps_foldl | split | simp only [keeps_mk_iff])

theorem State.laneCmp_keeps {r s : State} (h : Keeps r s) (o : LaneOps) (f : W32 → W32 → Bool) :
    Keeps r (State.laneCmp s o f) := by
  unfold State.laneCmp
  try dsimp only
  repeat' (first | with_reducible assumption | intro _ | with_reducible apply State.putPred_keeps |
                  with_reducible apply keepsO_next | with_reducible apply keeps_foldl | split | simp only [keeps_mk_iff])

/-! ## Coll -/

theorem State.setGroup_keeps {r s : State} (h : Keeps r s) (cx : Nat) (g : Nat) (x : Group) :
    Keeps r (State.setGroup s cx g x) := by
  unfold State.setGroup
  try dsimp only
  repeat' (first | with_reducible assumption | intro _ | with_reducible apply State.modCtx_keeps |
                  with_reducible apply keepsO_next | with_reducible apply keeps_foldl | split | simp only [keeps_mk_iff])

/-! ## Crew -/

theorem State.setCrew_keeps {r s : State} (h : Keeps r s) (ctx : Nat) (c : Nat) (x : Crew) :
    Keeps r (State.setCrew s ctx c x) := by
  unfold State.setCrew
  try dsimp only
  repeat' (first | with_reducible assumption | intro _ | with_reducible apply State.modCtx_keeps |
                  with_reducible apply keepsO_next | with_reducible apply keeps_foldl | split | simp only [keeps_mk_iff])

theorem State.delCrew_keeps {r s : State} (h : Keeps r s) (ctx : Nat) (c : Nat) :
    Keeps r (State.delCrew s ctx c) := by
  unfold State.delCrew
  try dsimp only
  repeat' (first | with_reducible assumption | intro _ | with_reducible apply State.modCtx_keeps |
                  with_reducible apply keepsO_next | with_reducible apply keeps_foldl | split | simp only [keeps_mk_iff])

theorem State.swapColumn_keeps {r s : State} (h : Keeps r s) (ctx : Nat) (lcn : Nat) :
    Keeps r (State.swapColumn s ctx lcn) := by
  unfold State.swapColumn
  try dsimp only
  repeat' (first | with_reducible assumption | intro _ | with_reducible apply State.modLayout_keeps |
                  with_reducible apply keepsO_next | with_reducible apply keeps_foldl | split | simp only [keeps_mk_iff])

theorem State.completePhase_keeps {r s : State} (h : Keeps r s) (ctx : Nat) (c : Nat) (x : Crew) :
    Keeps r (State.completePhase s ctx c x) := by
  unfold State.completePhase
  try dsimp only
  repeat' (first | with_reducible assumption | intro _ | with_reducible apply State.arrived_keeps |
                  with_reducible apply State.delCrew_keeps | with_reducible apply State.modWatch_keeps |
                  with_reducible apply State.setCrew_keeps | with_reducible apply State.swapColumn_keeps |
                  with_reducible apply keepsO_next | with_reducible apply keeps_foldl | split | simp only [keeps_mk_iff])

theorem State.checkPhase_keeps {r s : State} (h : Keeps r s) (ctx : Nat) (c : Nat) :
    Keeps r (State.checkPhase s ctx c) := by
  unfold State.checkPhase
  try dsimp only
  repeat' (first | with_reducible assumption | intro _ | with_reducible apply State.arrived_keeps |
                  with_reducible apply State.completePhase_keeps | with_reducible apply State.delCrew_keeps |
                  with_reducible apply keepsO_next | with_reducible apply keeps_foldl | split | simp only [keeps_mk_iff])

theorem State.startColl_keeps {r s : State} (h : Keeps r s) (ctx : Nat) (c : Nat) (x : Crew) (g : Nat) :
    Keeps r (State.startColl s ctx c x g) := by
  unfold State.startColl
  try dsimp only
  repeat' (first | with_reducible assumption | intro _ | with_reducible apply State.bump_keeps |
                  with_reducible apply State.modCtx_keeps | with_reducible apply State.setGroup_keeps |
                  with_reducible apply keepsO_next | with_reducible apply keeps_foldl | split | simp only [keeps_mk_iff])

theorem State.dropFaulted_keeps {r s : State} (h : Keeps r s) (ctx : Nat) (c : Nat) :
    Keeps r (State.dropFaulted s ctx c) := by
  unfold State.dropFaulted
  try dsimp only
  repeat' (first | with_reducible assumption | intro _ | with_reducible apply State.delCrew_keeps |
                  with_reducible apply State.setCrew_keeps | with_reducible apply keepsO_next |
                  with_reducible apply keeps_foldl | split | simp only [keeps_mk_iff])

theorem State.recount_keeps {r s : State} (h : Keeps r s) (ctx : Nat) (c : Nat) :
    Keeps r (State.recount s ctx c) := by
  unfold State.recount
  try dsimp only
  repeat' (first | with_reducible assumption | intro _ | with_reducible apply State.checkPhase_keeps |
                  with_reducible apply State.dropFaulted_keeps | with_reducible apply State.startColl_keeps |
                  with_reducible apply keepsO_next | with_reducible apply keeps_foldl | split | simp only [keeps_mk_iff])

theorem State.arrive_keeps {r s : State} (h : Keeps r s) (ctx : Nat) (c : Nat) (w : Nat) (swap : Bool) :
    Keeps r (State.arrive s ctx c w swap) := by
  unfold State.arrive
  try dsimp only
  repeat' (first | with_reducible assumption | intro _ | with_reducible apply State.arrived_keeps |
                  with_reducible apply State.checkPhase_keeps | with_reducible apply State.setCrew_keeps |
                  with_reducible apply keepsO_next | with_reducible apply keeps_foldl | split | simp only [keeps_mk_iff])

theorem State.departCrew_keeps {r s : State} (h : Keeps r s) (ctx : Nat) (c : Nat) (w : Nat) (off : Bool) (why : BitVec 4) :
    Keeps r (State.departCrew s ctx c w off why) := by
  unfold State.departCrew
  try dsimp only
  repeat' (first | with_reducible assumption | intro _ | with_reducible apply State.modCtx_keeps |
                  with_reducible apply State.modWatch_keeps | with_reducible apply State.recount_keeps |
                  with_reducible apply State.setCrew_keeps | with_reducible apply keepsO_next |
                  with_reducible apply keeps_foldl | split | simp only [keeps_mk_iff])

theorem State.faultCrew_keeps {r s : State} (h : Keeps r s) (ctx : Nat) (c : Nat) (w : Nat) (off : Bool) (why : BitVec 4) :
    Keeps r (State.faultCrew s ctx c w off why) := by
  unfold State.faultCrew
  try dsimp only
  repeat' (first | with_reducible assumption | intro _ | with_reducible apply State.arrived_keeps |
                  with_reducible apply State.recount_keeps | with_reducible apply State.setCrew_keeps |
                  with_reducible apply keepsO_next | with_reducible apply keeps_foldl | split | simp only [keeps_mk_iff])

theorem State.processDepart_keeps {r s : State} (h : Keeps r s) (ctx : Nat) (w : Nat) (fault : Bool) (off : Bool) (why : BitVec
    4) :
    Keeps r (State.processDepart s ctx w fault off why) := by
  unfold State.processDepart
  try dsimp only
  repeat' (first | with_reducible assumption | intro _ | with_reducible apply State.departCrew_keeps |
                  with_reducible apply State.faultCrew_keeps | with_reducible apply keepsO_next |
                  with_reducible apply keeps_foldl | split | simp only [keeps_mk_iff])

theorem State.sendCrew_keeps {r s : State} (h : Keeps r s) (ctx : Nat) (m : CrewMsg) :
    Keeps r (State.sendCrew s ctx m) := by
  unfold State.sendCrew
  try dsimp only
  repeat' (first | with_reducible assumption | intro _ | with_reducible apply State.modCtx_keeps |
                  with_reducible apply keepsO_next | with_reducible apply keeps_foldl | split | simp only [keeps_mk_iff])

/-! ## MatrixCore -/

theorem State.applyQuarter_keeps {r s : State} (h : Keeps r s) (uid : Nat) (q : Nat) :
    Keeps r (State.applyQuarter s uid q) := by
  unfold State.applyQuarter
  try dsimp only
  repeat' (first | with_reducible assumption | intro _ | with_reducible apply State.putWatch_keeps |
                  with_reducible apply keepsO_next | with_reducible apply keeps_foldl | split | simp only [keeps_mk_iff])

theorem State.wloadSector_keeps {r s : State} (h : Keeps r s) (j : Job) (k : Nat) :
    Keeps r (State.wloadSector s j k) := by
  unfold State.wloadSector
  try dsimp only
  repeat' (first | with_reducible assumption | intro _ | with_reducible apply State.writeBytes_keeps |
                  with_reducible apply keepsO_next | with_reducible apply keeps_foldl | split | simp only [keeps_mk_iff])

theorem State.wloadAll_keeps {r s : State} (h : Keeps r s) (j : Job) :
    Keeps r (State.wloadAll s j) := by
  unfold State.wloadAll
  try dsimp only
  repeat' (first | with_reducible assumption | intro _ | with_reducible apply State.modCore_keeps |
                  with_reducible apply State.wloadSector_keeps | with_reducible apply keepsO_next |
                  with_reducible apply keeps_foldl | split | simp only [keeps_mk_iff])

theorem State.performOther_keeps {r s : State} (h : Keeps r s) (uid : Nat) :
    Keeps r (State.performOther s uid) := by
  unfold State.performOther
  try dsimp only
  repeat' (first | with_reducible assumption | intro _ | with_reducible apply State.putWatch_keeps |
                  with_reducible apply keepsO_next | with_reducible apply keeps_foldl | split | simp only [keeps_mk_iff])

theorem State.performAll_keeps {r s : State} (h : Keeps r s) (uid : Nat) :
    Keeps r (State.performAll s uid) := by
  unfold State.performAll
  try dsimp only
  repeat' (first | with_reducible assumption | intro _ | with_reducible apply State.applyQuarter_keeps |
                  with_reducible apply State.performOther_keeps | with_reducible apply keepsO_next |
                  with_reducible apply keeps_foldl | split | simp only [keeps_mk_iff])

theorem State.flushMatrix_keeps {r s : State} (h : Keeps r s) (core : Nat) (upto : Nat) :
    Keeps r (State.flushMatrix s core upto) := by
  unfold State.flushMatrix
  try dsimp only
  repeat' (first | with_reducible assumption | intro _ | with_reducible apply State.performAll_keeps |
                  with_reducible apply State.wloadAll_keeps | with_reducible apply keepsO_next |
                  with_reducible apply keeps_foldl | split | simp only [keeps_mk_iff])

/-! ## Order -/

theorem State.completeOp_keeps {r s : State} (h : Keeps r s) (w : Nat) (op : Nat) :
    Keeps r (State.completeOp s w op) := by
  unfold State.completeOp
  try dsimp only
  repeat' (first | with_reducible assumption | intro _ | with_reducible apply State.modWatch_keeps |
                  with_reducible apply keepsO_next | with_reducible apply keeps_foldl | split | simp only [keeps_mk_iff])

theorem State.returnAcc_keeps {r s : State} (h : Keeps r s) (w : Nat) (o : Op) (i : Nat) (a : Acc) :
    Keeps r (State.returnAcc s w o i a) := by
  unfold State.returnAcc
  try dsimp only
  repeat' (first | with_reducible assumption | intro _ | with_reducible apply State.modWatch_keeps |
                  with_reducible apply keepsO_next | with_reducible apply keeps_foldl | split | simp only [keeps_mk_iff])

theorem State.performWrite_keeps {r s : State} (h : Keeps r s) (w : Nat) (op : Nat) (key : Nat) (n : Nat) (v : Nat) :
    Keeps r (State.performWrite s w op key n v) := by
  unfold State.performWrite
  try dsimp only
  repeat' (first | with_reducible assumption | intro _ | with_reducible apply State.modCtx_keeps |
                  with_reducible apply State.modWatch_keeps | with_reducible apply State.writeN_keeps |
                  with_reducible apply keepsO_next | with_reducible apply keeps_foldl | split | simp only [keeps_mk_iff])

theorem State.atomStep_keeps {r s : State} (h : Keeps r s) (w : Nat) (o : Op) (i : Nat) (a : Acc) :
    Keeps r (State.atomStep s w o i a) := by
  unfold State.atomStep
  try dsimp only
  repeat' (first | with_reducible assumption | intro _ | with_reducible apply State.completeOp_keeps |
                  with_reducible apply State.modWatch_keeps | with_reducible apply State.performWrite_keeps |
                  with_reducible apply keepsO_next | with_reducible apply keeps_foldl | split | simp only [keeps_mk_iff])

theorem State.settleAccess_keeps {r s : State} (h : Keeps r s) (n : Nat) (o : Op) (i : Nat) (a : Acc) :
    Keeps r (State.settleAccess s n o i a) := by
  unfold State.settleAccess
  try dsimp only
  repeat' (first | with_reducible assumption | intro _ | with_reducible apply State.atomStep_keeps |
                  with_reducible apply State.returnAcc_keeps | with_reducible apply keepsO_next |
                  with_reducible apply keeps_foldl | split | simp only [keeps_mk_iff])

theorem State.settleOp_keeps {r s : State} (h : Keeps r s) (n : Nat) (o : Op) :
    Keeps r (State.settleOp s n o) := by
  unfold State.settleOp
  try dsimp only
  repeat' (first | with_reducible assumption | intro _ | with_reducible apply State.completeOp_keeps |
                  with_reducible apply State.settleAccess_keeps | with_reducible apply keepsO_next |
                  with_reducible apply keeps_foldl | split | simp only [keeps_mk_iff])

theorem State.settleOrder_keeps {r s : State} (h : Keeps r s) (n : Nat) :
    Keeps r (State.settleOrder s n) := by
  unfold State.settleOrder
  try dsimp only
  repeat' (first | with_reducible assumption | intro _ | with_reducible apply State.settleOp_keeps |
                  with_reducible apply keepsO_next | with_reducible apply keeps_foldl | split | simp only [keeps_mk_iff])

/-! ## Ladder -/

theorem State.postEvent_keeps {r s : State} (h : Keeps r s) (die : Nat) (kind : Nat) (ctx : Nat) (arg0 : Nat) (arg1 : Word) :
    Keeps r (State.postEvent s die kind ctx arg0 arg1) := by
  unfold State.postEvent
  try dsimp only
  repeat' (first | with_reducible assumption | intro _ | with_reducible apply State.modDie_keeps |
                  with_reducible apply keepsO_next | with_reducible apply keeps_foldl | split | simp only [keeps_mk_iff])

theorem State.writeEvent_keeps {r s : State} (h : Keeps r s) (die : Nat) :
    Keeps r (State.writeEvent s die) := by
  unfold State.writeEvent
  try dsimp only
  repeat' (first | with_reducible assumption | intro _ | with_reducible apply State.modDie_keeps |
                  with_reducible apply State.writeBytes_keeps | with_reducible apply keepsO_next |
                  with_reducible apply keeps_foldl | split | simp only [keeps_mk_iff])

theorem State.writeEvents_keeps {r s : State} (h : Keeps r s) (die n : Nat) : Keeps r (s.writeEvents die n) := by
  induction n generalizing s with
  | zero => exact h
  | succ n ih => exact ih (State.writeEvent_keeps h die)

theorem State.escRecord_keeps {r s : State} (h : Keeps r s) (cx : Nat) (rung : Nat) (x : Esc) :
    Keeps r (State.escRecord s cx rung x) := by
  unfold State.escRecord
  try dsimp only
  repeat' (first | with_reducible assumption | intro _ | with_reducible apply State.modCtx_keeps |
                  with_reducible apply State.writeN_keeps | with_reducible apply keepsO_next |
                  with_reducible apply keeps_foldl | split | simp only [keeps_mk_iff])

theorem State.takeLayout_keeps {r s : State} (h : Keeps r s) (ctx : Nat) (pcn : Nat) (scratch : Nat) (xwin : Nat) :
    Keeps r (State.takeLayout s ctx pcn scratch xwin) := by
  unfold State.takeLayout
  refine h.trans ⟨fun w => ?_, le_rfl, le_rfl, le_rfl, Nat.le_succ _⟩
  exact memForget_wf (memForget_wf (memForget_wf w _ _) _ _) _ _

theorem State.freshWindows_keeps {r s : State} (h : Keeps r s) (w : Watch) :
    Keeps r (State.freshWindows s w) := by
  exact h.trans ⟨fun g => foldl_keeps (fun m => Memory.wf m = true) g fun m p g => memForget_wf g _ _, le_rfl, le_rfl, le_rfl,
      Nat.le_succ _⟩

theorem State.addWatch_keeps {r s : State} (h : Keeps r s) (w : Watch) :
    Keeps r (State.addWatch s w) := by
  unfold State.addWatch
  try dsimp only
  repeat' (first | with_reducible assumption | intro _ | with_reducible apply State.bump_keeps |
                  with_reducible apply State.freshWindows_keeps | with_reducible apply State.putWatch_keeps |
                  with_reducible apply keepsO_next | with_reducible apply keeps_foldl | split | simp only [keeps_mk_iff])

theorem State.unhold_keeps {r s : State} (h : Keeps r s) (core : Nat) (w : Nat) :
    Keeps r (State.unhold s core w) := by
  unfold State.unhold
  try dsimp only
  repeat' (first | with_reducible assumption | intro _ | with_reducible apply State.modCore_keeps |
                  with_reducible apply keepsO_next | with_reducible apply keeps_foldl | split | simp only [keeps_mk_iff])

theorem State.killWatch_keeps {r s : State} (h : Keeps r s) (w : Nat) (fault : Bool) :
    Keeps r (State.killWatch s w fault) := by
  unfold State.killWatch
  try dsimp only
  repeat' (first | with_reducible assumption | intro _ | with_reducible apply State.modWatch_keeps |
                  with_reducible apply State.sendCrew_keeps | with_reducible apply State.unhold_keeps |
                  with_reducible apply keepsO_next | with_reducible apply keeps_foldl | split | simp only [keeps_mk_iff])

theorem State.beginSwitch_keeps {r s : State} (h : Keeps r s) (core : Nat) (target : Option Nat) :
    Keeps r (State.beginSwitch s core target) := by
  unfold State.beginSwitch
  try dsimp only
  repeat' (first | with_reducible assumption | intro _ | with_reducible apply State.modColumn_keeps |
                  with_reducible apply State.modCore_keeps | with_reducible apply State.settleOrder_keeps |
                  with_reducible apply keepsO_next | with_reducible apply keeps_foldl | split | simp only [keeps_mk_iff])

theorem State.requestSwitch_keeps {r s : State} (h : Keeps r s) (core : Nat) :
    Keeps r (State.requestSwitch s core) := by
  unfold State.requestSwitch
  try dsimp only
  repeat' (first | with_reducible assumption | intro _ | with_reducible apply State.beginSwitch_keeps |
                  with_reducible apply State.modCore_keeps | with_reducible apply keepsO_next |
                  with_reducible apply keeps_foldl | split | simp only [keeps_mk_iff])

theorem State.dropStandby_keeps {r s : State} (h : Keeps r s) (cx : Nat) (core : Nat) :
    Keeps r (State.dropStandby s cx core) := by
  unfold State.dropStandby
  try dsimp only
  repeat' (first | with_reducible assumption | intro _ | with_reducible apply State.modCore_keeps |
                  with_reducible apply State.modCtx_keeps | with_reducible apply keepsO_next |
                  with_reducible apply keeps_foldl | split | simp only [keeps_mk_iff])

theorem State.setActive_keeps {r s : State} (h : Keeps r s) (die : Nat) (q : Nat) :
    Keeps r (State.setActive s die q) := by
  unfold State.setActive
  try dsimp only
  repeat' (first | with_reducible assumption | intro _ | with_reducible apply State.modDie_keeps |
                  with_reducible apply State.writeN_keeps | with_reducible apply keepsO_next |
                  with_reducible apply keeps_foldl | split | simp only [keeps_mk_iff])

theorem State.queuesOf_keeps {r s : State} (h : Keeps r s) (cx : Nat) :
    Keeps r (State.queuesOf s cx) := by
  unfold State.queuesOf
  try dsimp only
  repeat' (first | with_reducible assumption | intro _ | with_reducible apply State.setActive_keeps |
                  with_reducible apply keepsO_next | with_reducible apply keeps_foldl | split | simp only [keeps_mk_iff])

theorem State.dropGraphs_keeps {r s : State} (h : Keeps r s) (cx : Nat) :
    Keeps r (State.dropGraphs s cx) := by
  unfold State.dropGraphs
  try dsimp only
  repeat' (first | with_reducible assumption | intro _ | with_reducible apply State.writeN_keeps |
                  with_reducible apply keepsO_next | with_reducible apply keeps_foldl | split | simp only [keeps_mk_iff])

theorem State.destroyContext_keeps {r s : State} (h : Keeps r s) (cx : Nat) :
    Keeps r (State.destroyContext s cx) := by
  unfold State.destroyContext
  refine State.queuesOf_keeps ?_ cx
  refine keeps_mem (State.dropGraphs_keeps h cx) (fun w => ?_) ..
  exact Memory.wf_filter _ w

theorem State.settleOut_keeps {r s : State} (h : Keeps r s) (cx : Nat) :
    Keeps r (State.settleOut s cx) := by
  unfold State.settleOut
  try dsimp only
  repeat' (first | with_reducible assumption | intro _ | with_reducible apply State.destroyContext_keeps |
                  with_reducible apply State.modCtx_keeps | with_reducible apply State.queuesOf_keeps |
                  with_reducible apply keepsO_next | with_reducible apply keeps_foldl | split | simp only [keeps_mk_iff])

theorem State.switchOut_keeps {r s : State} (h : Keeps r s) (cx : Nat) :
    Keeps r (State.switchOut s cx) := by
  unfold State.switchOut
  try dsimp only
  repeat' (first | with_reducible assumption | intro _ | with_reducible apply State.dropStandby_keeps |
                  with_reducible apply State.modCore_keeps | with_reducible apply State.modCtx_keeps |
                  with_reducible apply State.requestSwitch_keeps | with_reducible apply State.settleOut_keeps |
                  with_reducible apply keepsO_next | with_reducible apply keeps_foldl | split | simp only [keeps_mk_iff])

theorem State.contextRung_keeps {r s : State} (h : Keeps r s) (cx : Nat) (x : Esc) :
    Keeps r (State.contextRung s cx x) := by
  unfold State.contextRung
  try dsimp only
  repeat' (first | with_reducible assumption | intro _ | with_reducible apply State.escRecord_keeps |
                  with_reducible apply State.modCtx_keeps | with_reducible apply State.postEvent_keeps |
                  with_reducible apply State.switchOut_keeps | with_reducible apply keepsO_next |
                  with_reducible apply keeps_foldl | split | simp only [keeps_mk_iff])

theorem State.crewRung_keeps {r s : State} (h : Keeps r s) (w : Nat) (x : Esc) (tcode : Nat) :
    Keeps r (State.crewRung s w x tcode) := by
  unfold State.crewRung
  try dsimp only
  repeat' (first | with_reducible assumption | intro _ | with_reducible apply State.addWatch_keeps |
                  with_reducible apply State.contextRung_keeps | with_reducible apply State.escRecord_keeps |
                  with_reducible apply State.killWatch_keeps | with_reducible apply keepsO_next |
                  with_reducible apply keeps_foldl | split | simp only [keeps_mk_iff])

theorem State.oneRungUp_keeps {r s : State} (h : Keeps r s) (w : Nat) (x : Esc) :
    Keeps r (State.oneRungUp s w x) := by
  unfold State.oneRungUp
  try dsimp only
  repeat' (first | with_reducible assumption | intro _ | with_reducible apply State.contextRung_keeps |
                  with_reducible apply State.crewRung_keeps | with_reducible apply keepsO_next |
                  with_reducible apply keeps_foldl | split | simp only [keeps_mk_iff])

theorem State.partitionRung_keeps {r s : State} (h : Keeps r s) (p : Nat) (x : Esc) (kill : List Nat) :
    Keeps r (State.partitionRung s p x kill) := by
  unfold State.partitionRung
  try dsimp only
  repeat' (first | with_reducible assumption | intro _ | with_reducible apply State.escRecord_keeps |
                  with_reducible apply State.modCtx_keeps | with_reducible apply State.postEvent_keeps |
                  with_reducible apply State.switchOut_keeps | with_reducible apply keepsO_next |
                  with_reducible apply keeps_foldl | split | simp only [keeps_mk_iff])

theorem State.bringUp_keeps {r t : State} (h : Keeps r t) (s : State) : Keeps r (s.bringUp t) := by
  have one (t : State) (h : Keeps r t) (die : Nat) :
      Keeps r (if t.status die = s.status die then t else t.postEvent die 6 0 (t.status die) 0) := by
    split
    · exact h
    · exact State.postEvent_keeps h _ _ _ _ _
  exact one _ (one _ h 0) 1

theorem State.resetDies_keeps {r s : State} (h : Keeps r s) :
    Keeps r (State.resetDies s) := by
  exact h.trans ⟨fun w => Memory.wf_filter _ w, le_rfl, le_rfl, le_rfl, Nat.le_succ _⟩

theorem State.enlog_keeps {r s : State} (h : Keeps r s) (l : List Word) :
    Keeps r (State.enlog s l) := by
  unfold State.enlog
  try dsimp only
  repeat' (first | with_reducible assumption | intro _ | with_reducible apply keepsO_next | with_reducible apply keeps_foldl |
                  split | simp only [keeps_mk_iff])

theorem State.postReset_keeps {r s : State} (h : Keeps r s) (cause : Nat) :
    Keeps r (State.postReset s cause) := by
  unfold State.postReset
  try dsimp only
  repeat' (first | with_reducible assumption | intro _ | with_reducible apply State.enlog_keeps |
                  with_reducible apply State.postEvent_keeps | with_reducible apply State.writeEvents_keeps |
                  with_reducible apply keepsO_next | with_reducible apply keeps_foldl | split | simp only [keeps_mk_iff])

theorem State.deviceRung_keeps {r s : State} (h : Keeps r s) (cause : Nat) :
    Keeps r (State.deviceRung s cause) := by
  unfold State.deviceRung
  refine State.bringUp_keeps (State.resetDies_keeps (State.postReset_keeps (keeps_foldl h fun t a g => ?_) _)) _
  exact State.escRecord_keeps g _ _ _

/-! ## Ops -/

theorem State.asWatch_keeps {r s : State} (h : Keeps r s) (w : Nat) (e : Nat) (f : State → State)
    (hf : ∀ (a0 : State), Keeps r a0 → Keeps r (f a0)) :
    Keeps r (State.asWatch s w e f) := by
  unfold State.asWatch
  try dsimp only
  repeat' (first | with_reducible assumption | intro _ | with_reducible apply hf | with_reducible apply keepsO_next |
                  with_reducible apply keeps_foldl | split | simp only [keeps_mk_iff])

theorem State.writeFrame_keeps {r s : State} (h : Keeps r s) (w : Watch) (f : SplitEntry) (t : TrapInfo) (replay : List Replay)
    (runs : List (List LqEntry)) :
    Keeps r (State.writeFrame s w f t replay runs) := by
  unfold State.writeFrame
  refine keeps_foldl (keeps_mem h (fun w => memForget_wf w _ _) ..) fun t a g => ?_
  exact State.writeN_keeps g _ _ _

theorem State.settleMatrix_keeps {r s : State} (h : Keeps r s) (w : Nat) :
    Keeps r (State.settleMatrix s w) := by
  unfold State.settleMatrix
  try dsimp only
  repeat' (first | with_reducible assumption | intro _ | with_reducible apply State.flushMatrix_keeps |
                  with_reducible apply keepsO_next | with_reducible apply keeps_foldl | split | simp only [keeps_mk_iff])

theorem State.enterTrap_keeps {r s : State} (h : Keeps r s) (t : TrapInfo) :
    Keeps r (State.enterTrap s t) := by
  unfold State.enterTrap
  try dsimp only
  repeat' (first | with_reducible assumption | intro _ | with_reducible apply State.setW_keeps |
                  with_reducible apply State.settleMatrix_keeps | with_reducible apply State.settleOrder_keeps |
                  with_reducible apply State.unhold_keeps | with_reducible apply State.writeFrame_keeps |
                  with_reducible apply keepsO_next | with_reducible apply keeps_foldl | split | simp only [keeps_mk_iff])

theorem State.unwind_keeps {r s : State} (h : Keeps r s) (addr : Word) :
    Keeps r (State.unwind s addr) := by
  unfold State.unwind
  try dsimp only
  repeat' (first | with_reducible assumption | intro _ | with_reducible apply State.setS_keeps |
                  with_reducible apply State.setW_keeps | with_reducible apply State.settleMatrix_keeps |
                  with_reducible apply State.unhold_keeps | with_reducible apply keepsO_next |
                  with_reducible apply keeps_foldl | split | simp only [keeps_mk_iff])

theorem State.trapCore_keeps {r s : State} (h : Keeps r s) (t : TrapInfo) :
    Keeps r (State.trapCore s t) := by
  unfold State.trapCore
  try dsimp only
  repeat' (first | with_reducible assumption | intro _ | with_reducible apply State.crewRung_keeps |
                  with_reducible apply State.enterTrap_keeps | with_reducible apply State.oneRungUp_keeps |
                  with_reducible apply State.settleMatrix_keeps | with_reducible apply State.unwind_keeps |
                  with_reducible apply keepsO_next | with_reducible apply keeps_foldl | split | simp only [keeps_mk_iff])

theorem State.endPair_keeps {r s : State} (h : Keeps r s) (l : Nat) :
    Keeps r (State.endPair s l) := by
  unfold State.endPair
  try dsimp only
  repeat' (first | with_reducible assumption | intro _ | with_reducible apply State.killWatch_keeps |
                  with_reducible apply State.modWatch_keeps | with_reducible apply keepsO_next |
                  with_reducible apply keeps_foldl | split | simp only [keeps_mk_iff])

theorem State.mismatch_keeps {r s : State} (h : Keeps r s) (l : Nat) (cause : Nat) :
    Keeps r (State.mismatch s l cause) := by
  unfold State.mismatch
  try dsimp only
  repeat' (first | with_reducible assumption | intro _ | with_reducible apply State.asWatch_keeps |
                  with_reducible apply State.endPair_keeps | with_reducible apply State.modWatch_keeps |
                  with_reducible apply State.trapCore_keeps | with_reducible apply State.unhold_keeps |
                  with_reducible apply keepsO_next | with_reducible apply keeps_foldl | split | simp only [keeps_mk_iff])

theorem State.trap_keeps {r s : State} (h : Keeps r s) (t : TrapInfo) :
    Keeps r (State.trap t s) := by
  unfold State.trap
  try dsimp only
  repeat' (first | with_reducible assumption | intro _ | with_reducible apply State.asWatch_keeps |
                  with_reducible apply State.endPair_keeps | with_reducible apply State.mismatch_keeps |
                  with_reducible apply State.trapCore_keeps | with_reducible apply keepsO_next |
                  with_reducible apply keeps_foldl | split | simp only [keeps_mk_iff])

theorem State.asyncTrap_keeps {r s : State} (h : Keeps r s) (w : Nat) (e : Nat) (t : TrapInfo) :
    Keeps r (State.asyncTrap s w e t) := by
  unfold State.asyncTrap
  try dsimp only
  repeat' (first | with_reducible assumption | intro _ | with_reducible apply State.asWatch_keeps |
                  with_reducible apply State.trap_keeps | with_reducible apply keepsO_next | with_reducible apply keeps_foldl |
                  split | simp only [keeps_mk_iff])

theorem State.addWait_keeps {r s : State} (h : Keeps r s) (p : PageWait) :
    Keeps r (State.addWait s p) := by
  unfold State.addWait
  try dsimp only
  repeat' (first | with_reducible assumption | intro _ | with_reducible apply State.postEvent_keeps |
                  with_reducible apply keepsO_next | with_reducible apply keeps_foldl | split | simp only [keeps_mk_iff])

theorem State.escalate_keeps {r s : State} (h : Keeps r s) (w : Nat) (x : Esc) :
    Keeps r (State.escalate s w x) := by
  unfold State.escalate
  try dsimp only
  repeat' (first | with_reducible assumption | intro _ | with_reducible apply State.contextRung_keeps |
                  with_reducible apply State.oneRungUp_keeps | with_reducible apply State.settleMatrix_keeps |
                  with_reducible apply keepsO_next | with_reducible apply keeps_foldl | split | simp only [keeps_mk_iff])

theorem State.pageFault_keeps {r s : State} (h : Keeps r s) (w : Nat) (ent : Nat) (async : Bool) (pcn : Nat) (addr : Word) :
    Keeps r (State.pageFault s w ent async pcn addr) := by
  unfold State.pageFault
  try dsimp only
  repeat' (first | with_reducible assumption | intro _ | with_reducible apply State.addWait_keeps |
                  with_reducible apply State.escalate_keeps | with_reducible apply State.modWatch_keeps |
                  with_reducible apply State.sendCrew_keeps | with_reducible apply State.unhold_keeps |
                  with_reducible apply keepsO_next | with_reducible apply keeps_foldl | split | simp only [keeps_mk_iff])

theorem State.morePages_keeps {r s : State} (h : Keeps r s) (w : Nat) (ent : Nat) (l : List Acc) :
    Keeps r (State.morePages s w ent l) := by
  unfold State.morePages
  try dsimp only
  repeat' (first | with_reducible assumption | intro _ | with_reducible apply State.addWait_keeps |
                  with_reducible apply keepsO_next | with_reducible apply keeps_foldl | split | simp only [keeps_mk_iff])

theorem State.andThen_keeps {r s : State} (h : Keeps r s) (p : Prep) (k : Acc → State)
    (hk : ∀ (a0 : Acc), Keeps r (k a0)) :
    Keeps r (State.andThen s p k) := by
  unfold State.andThen
  try dsimp only
  repeat' (first | with_reducible assumption | intro _ | with_reducible apply hk | with_reducible apply State.pageFault_keeps |
                  with_reducible apply State.trap_keeps | with_reducible apply keepsO_next | with_reducible apply keeps_foldl |
                  split | simp only [keeps_mk_iff])

theorem State.access_keeps {r s : State} (h : Keeps r s) (r_ : AReq) (a : Word) (k : Acc → State)
    (hk : ∀ (a0 : Acc), Keeps r (k a0)) :
    Keeps r (State.access s r_ a k) := by
  unfold State.access
  try dsimp only
  repeat' (first | with_reducible assumption | intro _ | with_reducible apply hk | with_reducible apply State.andThen_keeps |
                  with_reducible apply keepsO_next | with_reducible apply keeps_foldl | split | simp only [keeps_mk_iff])

theorem State.acquire_keeps {r s : State} (h : Keeps r s) (r_ : Ord) :
    Keeps r (State.acquire s r_) := by
  unfold State.acquire
  try dsimp only
  repeat' (first | with_reducible assumption | intro _ | with_reducible apply State.modW_keeps |
                  with_reducible apply State.tick_keeps | with_reducible apply keepsO_next | with_reducible apply keeps_foldl |
                  split | simp only [keeps_mk_iff])

theorem State.reading_keeps {r s : State} (h : Keeps r s) (a : Acc) (n : Nat) (k : Nat → State)
    (hk : ∀ (a0 : Nat), Keeps r (k a0)) :
    Keeps r (State.reading s a n k) := by
  unfold State.reading
  try dsimp only
  repeat' (first | with_reducible assumption | intro _ | with_reducible apply hk | with_reducible apply keepsO_next |
                  with_reducible apply keeps_foldl | split | simp only [keeps_mk_iff])

/-! ## Scalar -/

theorem State.writeS_keeps {r s : State} (h : Keeps r s) (i : Instr) (d : Reg) (v : Word) :
    KeepsO r (State.writeS i d v s) := by
  unfold State.writeS
  try dsimp only
  repeat' (first | with_reducible assumption | intro _ | with_reducible apply State.finish_keeps |
                  with_reducible apply State.setS_keeps | with_reducible apply keepsO_next | with_reducible apply keeps_foldl |
                  split | simp only [keeps_mk_iff])

theorem execAdd_keeps {r s : State} (h : Keeps r s) (d : Reg) (a : Reg) (b : Reg) :
    KeepsO r (execAdd d a b s) := by
  unfold execAdd
  try dsimp only
  repeat' (first | with_reducible assumption | intro _ | with_reducible apply State.writeS_keeps |
                  with_reducible apply keepsO_next | with_reducible apply keeps_foldl | split | simp only [keeps_mk_iff])

theorem execSub_keeps {r s : State} (h : Keeps r s) (d : Reg) (a : Reg) (b : Reg) :
    KeepsO r (execSub d a b s) := by
  unfold execSub
  try dsimp only
  repeat' (first | with_reducible assumption | intro _ | with_reducible apply State.writeS_keeps |
                  with_reducible apply keepsO_next | with_reducible apply keeps_foldl | split | simp only [keeps_mk_iff])

theorem execMul_keeps {r s : State} (h : Keeps r s) (d : Reg) (a : Reg) (b : Reg) :
    KeepsO r (execMul d a b s) := by
  unfold execMul
  try dsimp only
  repeat' (first | with_reducible assumption | intro _ | with_reducible apply State.writeS_keeps |
                  with_reducible apply keepsO_next | with_reducible apply keeps_foldl | split | simp only [keeps_mk_iff])

theorem execMulh_keeps {r s : State} (h : Keeps r s) (d : Reg) (a : Reg) (b : Reg) :
    KeepsO r (execMulh d a b s) := by
  unfold execMulh
  try dsimp only
  repeat' (first | with_reducible assumption | intro _ | with_reducible apply State.writeS_keeps |
                  with_reducible apply keepsO_next | with_reducible apply keeps_foldl | split | simp only [keeps_mk_iff])

theorem execMulhu_keeps {r s : State} (h : Keeps r s) (d : Reg) (a : Reg) (b : Reg) :
    KeepsO r (execMulhu d a b s) := by
  unfold execMulhu
  try dsimp only
  repeat' (first | with_reducible assumption | intro _ | with_reducible apply State.writeS_keeps |
                  with_reducible apply keepsO_next | with_reducible apply keeps_foldl | split | simp only [keeps_mk_iff])

theorem execDiv_keeps {r s : State} (h : Keeps r s) (d : Reg) (a : Reg) (b : Reg) :
    KeepsO r (execDiv d a b s) := by
  unfold execDiv
  try dsimp only
  repeat' (first | with_reducible assumption | intro _ | with_reducible apply State.writeS_keeps |
                  with_reducible apply keepsO_next | with_reducible apply keeps_foldl | split | simp only [keeps_mk_iff])

theorem execDivu_keeps {r s : State} (h : Keeps r s) (d : Reg) (a : Reg) (b : Reg) :
    KeepsO r (execDivu d a b s) := by
  unfold execDivu
  try dsimp only
  repeat' (first | with_reducible assumption | intro _ | with_reducible apply State.writeS_keeps |
                  with_reducible apply keepsO_next | with_reducible apply keeps_foldl | split | simp only [keeps_mk_iff])

theorem execRem_keeps {r s : State} (h : Keeps r s) (d : Reg) (a : Reg) (b : Reg) :
    KeepsO r (execRem d a b s) := by
  unfold execRem
  try dsimp only
  repeat' (first | with_reducible assumption | intro _ | with_reducible apply State.writeS_keeps |
                  with_reducible apply keepsO_next | with_reducible apply keeps_foldl | split | simp only [keeps_mk_iff])

theorem execRemu_keeps {r s : State} (h : Keeps r s) (d : Reg) (a : Reg) (b : Reg) :
    KeepsO r (execRemu d a b s) := by
  unfold execRemu
  try dsimp only
  repeat' (first | with_reducible assumption | intro _ | with_reducible apply State.writeS_keeps |
                  with_reducible apply keepsO_next | with_reducible apply keeps_foldl | split | simp only [keeps_mk_iff])

theorem execAnd_keeps {r s : State} (h : Keeps r s) (d : Reg) (a : Reg) (b : Reg) :
    KeepsO r (execAnd d a b s) := by
  unfold execAnd
  try dsimp only
  repeat' (first | with_reducible assumption | intro _ | with_reducible apply State.writeS_keeps |
                  with_reducible apply keepsO_next | with_reducible apply keeps_foldl | split | simp only [keeps_mk_iff])

theorem execOr_keeps {r s : State} (h : Keeps r s) (d : Reg) (a : Reg) (b : Reg) :
    KeepsO r (execOr d a b s) := by
  unfold execOr
  try dsimp only
  repeat' (first | with_reducible assumption | intro _ | with_reducible apply State.writeS_keeps |
                  with_reducible apply keepsO_next | with_reducible apply keeps_foldl | split | simp only [keeps_mk_iff])

theorem execXor_keeps {r s : State} (h : Keeps r s) (d : Reg) (a : Reg) (b : Reg) :
    KeepsO r (execXor d a b s) := by
  unfold execXor
  try dsimp only
  repeat' (first | with_reducible assumption | intro _ | with_reducible apply State.writeS_keeps |
                  with_reducible apply keepsO_next | with_reducible apply keeps_foldl | split | simp only [keeps_mk_iff])

theorem execAndn_keeps {r s : State} (h : Keeps r s) (d : Reg) (a : Reg) (b : Reg) :
    KeepsO r (execAndn d a b s) := by
  unfold execAndn
  try dsimp only
  repeat' (first | with_reducible assumption | intro _ | with_reducible apply State.writeS_keeps |
                  with_reducible apply keepsO_next | with_reducible apply keeps_foldl | split | simp only [keeps_mk_iff])

theorem execShl_keeps {r s : State} (h : Keeps r s) (d : Reg) (a : Reg) (b : Reg) :
    KeepsO r (execShl d a b s) := by
  unfold execShl
  try dsimp only
  repeat' (first | with_reducible assumption | intro _ | with_reducible apply State.writeS_keeps |
                  with_reducible apply keepsO_next | with_reducible apply keeps_foldl | split | simp only [keeps_mk_iff])

theorem execShr_keeps {r s : State} (h : Keeps r s) (d : Reg) (a : Reg) (b : Reg) :
    KeepsO r (execShr d a b s) := by
  unfold execShr
  try dsimp only
  repeat' (first | with_reducible assumption | intro _ | with_reducible apply State.writeS_keeps |
                  with_reducible apply keepsO_next | with_reducible apply keeps_foldl | split | simp only [keeps_mk_iff])

theorem execSar_keeps {r s : State} (h : Keeps r s) (d : Reg) (a : Reg) (b : Reg) :
    KeepsO r (execSar d a b s) := by
  unfold execSar
  try dsimp only
  repeat' (first | with_reducible assumption | intro _ | with_reducible apply State.writeS_keeps |
                  with_reducible apply keepsO_next | with_reducible apply keeps_foldl | split | simp only [keeps_mk_iff])

theorem execRol_keeps {r s : State} (h : Keeps r s) (d : Reg) (a : Reg) (b : Reg) :
    KeepsO r (execRol d a b s) := by
  unfold execRol
  try dsimp only
  repeat' (first | with_reducible assumption | intro _ | with_reducible apply State.writeS_keeps |
                  with_reducible apply keepsO_next | with_reducible apply keeps_foldl | split | simp only [keeps_mk_iff])

theorem execMin_keeps {r s : State} (h : Keeps r s) (d : Reg) (a : Reg) (b : Reg) :
    KeepsO r (execMin d a b s) := by
  unfold execMin
  try dsimp only
  repeat' (first | with_reducible assumption | intro _ | with_reducible apply State.writeS_keeps |
                  with_reducible apply keepsO_next | with_reducible apply keeps_foldl | split | simp only [keeps_mk_iff])

theorem execMax_keeps {r s : State} (h : Keeps r s) (d : Reg) (a : Reg) (b : Reg) :
    KeepsO r (execMax d a b s) := by
  unfold execMax
  try dsimp only
  repeat' (first | with_reducible assumption | intro _ | with_reducible apply State.writeS_keeps |
                  with_reducible apply keepsO_next | with_reducible apply keeps_foldl | split | simp only [keeps_mk_iff])

theorem execMinu_keeps {r s : State} (h : Keeps r s) (d : Reg) (a : Reg) (b : Reg) :
    KeepsO r (execMinu d a b s) := by
  unfold execMinu
  try dsimp only
  repeat' (first | with_reducible assumption | intro _ | with_reducible apply State.writeS_keeps |
                  with_reducible apply keepsO_next | with_reducible apply keeps_foldl | split | simp only [keeps_mk_iff])

theorem execMaxu_keeps {r s : State} (h : Keeps r s) (d : Reg) (a : Reg) (b : Reg) :
    KeepsO r (execMaxu d a b s) := by
  unfold execMaxu
  try dsimp only
  repeat' (first | with_reducible assumption | intro _ | with_reducible apply State.writeS_keeps |
                  with_reducible apply keepsO_next | with_reducible apply keeps_foldl | split | simp only [keeps_mk_iff])

theorem execPopc_keeps {r s : State} (h : Keeps r s) (d : Reg) (a : Reg) :
    KeepsO r (execPopc d a s) := by
  unfold execPopc
  try dsimp only
  repeat' (first | with_reducible assumption | intro _ | with_reducible apply State.writeS_keeps |
                  with_reducible apply keepsO_next | with_reducible apply keeps_foldl | split | simp only [keeps_mk_iff])

theorem execClz_keeps {r s : State} (h : Keeps r s) (d : Reg) (a : Reg) :
    KeepsO r (execClz d a s) := by
  unfold execClz
  try dsimp only
  repeat' (first | with_reducible assumption | intro _ | with_reducible apply State.writeS_keeps |
                  with_reducible apply keepsO_next | with_reducible apply keeps_foldl | split | simp only [keeps_mk_iff])

theorem execCtz_keeps {r s : State} (h : Keeps r s) (d : Reg) (a : Reg) :
    KeepsO r (execCtz d a s) := by
  unfold execCtz
  try dsimp only
  repeat' (first | with_reducible assumption | intro _ | with_reducible apply State.writeS_keeps |
                  with_reducible apply keepsO_next | with_reducible apply keeps_foldl | split | simp only [keeps_mk_iff])

theorem execSeq_keeps {r s : State} (h : Keeps r s) (d : Reg) (a : Reg) (b : Reg) :
    KeepsO r (execSeq d a b s) := by
  unfold execSeq
  try dsimp only
  repeat' (first | with_reducible assumption | intro _ | with_reducible apply State.writeS_keeps |
                  with_reducible apply keepsO_next | with_reducible apply keeps_foldl | split | simp only [keeps_mk_iff])

theorem execSne_keeps {r s : State} (h : Keeps r s) (d : Reg) (a : Reg) (b : Reg) :
    KeepsO r (execSne d a b s) := by
  unfold execSne
  try dsimp only
  repeat' (first | with_reducible assumption | intro _ | with_reducible apply State.writeS_keeps |
                  with_reducible apply keepsO_next | with_reducible apply keeps_foldl | split | simp only [keeps_mk_iff])

theorem execSlt_keeps {r s : State} (h : Keeps r s) (d : Reg) (a : Reg) (b : Reg) :
    KeepsO r (execSlt d a b s) := by
  unfold execSlt
  try dsimp only
  repeat' (first | with_reducible assumption | intro _ | with_reducible apply State.writeS_keeps |
                  with_reducible apply keepsO_next | with_reducible apply keeps_foldl | split | simp only [keeps_mk_iff])

theorem execSltu_keeps {r s : State} (h : Keeps r s) (d : Reg) (a : Reg) (b : Reg) :
    KeepsO r (execSltu d a b s) := by
  unfold execSltu
  try dsimp only
  repeat' (first | with_reducible assumption | intro _ | with_reducible apply State.writeS_keeps |
                  with_reducible apply keepsO_next | with_reducible apply keeps_foldl | split | simp only [keeps_mk_iff])

theorem execBrev_keeps {r s : State} (h : Keeps r s) (d : Reg) (a : Reg) :
    KeepsO r (execBrev d a s) := by
  unfold execBrev
  try dsimp only
  repeat' (first | with_reducible assumption | intro _ | with_reducible apply State.writeS_keeps |
                  with_reducible apply keepsO_next | with_reducible apply keeps_foldl | split | simp only [keeps_mk_iff])

theorem execMov_keeps {r s : State} (h : Keeps r s) (d : Reg) (a : Reg) :
    KeepsO r (execMov d a s) := by
  unfold execMov
  try dsimp only
  repeat' (first | with_reducible assumption | intro _ | with_reducible apply State.writeS_keeps |
                  with_reducible apply keepsO_next | with_reducible apply keeps_foldl | split | simp only [keeps_mk_iff])

theorem execAddi_keeps {r s : State} (h : Keeps r s) (d : Reg) (a : Reg) (i : I12) :
    KeepsO r (execAddi d a i s) := by
  unfold execAddi
  try dsimp only
  repeat' (first | with_reducible assumption | intro _ | with_reducible apply State.writeS_keeps |
                  with_reducible apply keepsO_next | with_reducible apply keeps_foldl | split | simp only [keeps_mk_iff])

theorem execAddi64_keeps {r s : State} (h : Keeps r s) (d : Reg) (a : Reg) (i : W32) :
    KeepsO r (execAddi64 d a i s) := by
  unfold execAddi64
  try dsimp only
  repeat' (first | with_reducible assumption | intro _ | with_reducible apply State.writeS_keeps |
                  with_reducible apply keepsO_next | with_reducible apply keeps_foldl | split | simp only [keeps_mk_iff])

theorem execAndi_keeps {r s : State} (h : Keeps r s) (d : Reg) (a : Reg) (i : I12) :
    KeepsO r (execAndi d a i s) := by
  unfold execAndi
  try dsimp only
  repeat' (first | with_reducible assumption | intro _ | with_reducible apply State.writeS_keeps |
                  with_reducible apply keepsO_next | with_reducible apply keeps_foldl | split | simp only [keeps_mk_iff])

theorem execAndi64_keeps {r s : State} (h : Keeps r s) (d : Reg) (a : Reg) (i : W32) :
    KeepsO r (execAndi64 d a i s) := by
  unfold execAndi64
  try dsimp only
  repeat' (first | with_reducible assumption | intro _ | with_reducible apply State.writeS_keeps |
                  with_reducible apply keepsO_next | with_reducible apply keeps_foldl | split | simp only [keeps_mk_iff])

theorem execOri_keeps {r s : State} (h : Keeps r s) (d : Reg) (a : Reg) (i : I12) :
    KeepsO r (execOri d a i s) := by
  unfold execOri
  try dsimp only
  repeat' (first | with_reducible assumption | intro _ | with_reducible apply State.writeS_keeps |
                  with_reducible apply keepsO_next | with_reducible apply keeps_foldl | split | simp only [keeps_mk_iff])

theorem execOri64_keeps {r s : State} (h : Keeps r s) (d : Reg) (a : Reg) (i : W32) :
    KeepsO r (execOri64 d a i s) := by
  unfold execOri64
  try dsimp only
  repeat' (first | with_reducible assumption | intro _ | with_reducible apply State.writeS_keeps |
                  with_reducible apply keepsO_next | with_reducible apply keeps_foldl | split | simp only [keeps_mk_iff])

theorem execXori_keeps {r s : State} (h : Keeps r s) (d : Reg) (a : Reg) (i : I12) :
    KeepsO r (execXori d a i s) := by
  unfold execXori
  try dsimp only
  repeat' (first | with_reducible assumption | intro _ | with_reducible apply State.writeS_keeps |
                  with_reducible apply keepsO_next | with_reducible apply keeps_foldl | split | simp only [keeps_mk_iff])

theorem execXori64_keeps {r s : State} (h : Keeps r s) (d : Reg) (a : Reg) (i : W32) :
    KeepsO r (execXori64 d a i s) := by
  unfold execXori64
  try dsimp only
  repeat' (first | with_reducible assumption | intro _ | with_reducible apply State.writeS_keeps |
                  with_reducible apply keepsO_next | with_reducible apply keeps_foldl | split | simp only [keeps_mk_iff])

theorem execSlti_keeps {r s : State} (h : Keeps r s) (d : Reg) (a : Reg) (i : I12) :
    KeepsO r (execSlti d a i s) := by
  unfold execSlti
  try dsimp only
  repeat' (first | with_reducible assumption | intro _ | with_reducible apply State.writeS_keeps |
                  with_reducible apply keepsO_next | with_reducible apply keeps_foldl | split | simp only [keeps_mk_iff])

theorem execSlti64_keeps {r s : State} (h : Keeps r s) (d : Reg) (a : Reg) (i : W32) :
    KeepsO r (execSlti64 d a i s) := by
  unfold execSlti64
  try dsimp only
  repeat' (first | with_reducible assumption | intro _ | with_reducible apply State.writeS_keeps |
                  with_reducible apply keepsO_next | with_reducible apply keeps_foldl | split | simp only [keeps_mk_iff])

theorem execShli_keeps {r s : State} (h : Keeps r s) (d : Reg) (a : Reg) (n : Reg) :
    KeepsO r (execShli d a n s) := by
  unfold execShli
  try dsimp only
  repeat' (first | with_reducible assumption | intro _ | with_reducible apply State.writeS_keeps |
                  with_reducible apply keepsO_next | with_reducible apply keeps_foldl | split | simp only [keeps_mk_iff])

theorem execShri_keeps {r s : State} (h : Keeps r s) (d : Reg) (a : Reg) (n : Reg) :
    KeepsO r (execShri d a n s) := by
  unfold execShri
  try dsimp only
  repeat' (first | with_reducible assumption | intro _ | with_reducible apply State.writeS_keeps |
                  with_reducible apply keepsO_next | with_reducible apply keeps_foldl | split | simp only [keeps_mk_iff])

theorem execSari_keeps {r s : State} (h : Keeps r s) (d : Reg) (a : Reg) (n : Reg) :
    KeepsO r (execSari d a n s) := by
  unfold execSari
  try dsimp only
  repeat' (first | with_reducible assumption | intro _ | with_reducible apply State.writeS_keeps |
                  with_reducible apply keepsO_next | with_reducible apply keeps_foldl | split | simp only [keeps_mk_iff])

theorem execLi_keeps {r s : State} (h : Keeps r s) (d : Reg) (i : I12) :
    KeepsO r (execLi d i s) := by
  unfold execLi
  try dsimp only
  repeat' (first | with_reducible assumption | intro _ | with_reducible apply State.writeS_keeps |
                  with_reducible apply keepsO_next | with_reducible apply keeps_foldl | split | simp only [keeps_mk_iff])

theorem execLi64_keeps {r s : State} (h : Keeps r s) (d : Reg) (i : W32) :
    KeepsO r (execLi64 d i s) := by
  unfold execLi64
  try dsimp only
  repeat' (first | with_reducible assumption | intro _ | with_reducible apply State.writeS_keeps |
                  with_reducible apply keepsO_next | with_reducible apply keeps_foldl | split | simp only [keeps_mk_iff])

theorem execLih_keeps {r s : State} (h : Keeps r s) (d : Reg) (a : Reg) (i : W32) :
    KeepsO r (execLih d a i s) := by
  unfold execLih
  try dsimp only
  repeat' (first | with_reducible assumption | intro _ | with_reducible apply State.writeS_keeps |
                  with_reducible apply keepsO_next | with_reducible apply keeps_foldl | split | simp only [keeps_mk_iff])

theorem execAddr_keeps {r s : State} (h : Keeps r s) (d : Reg) (a : Reg) (b : Reg) (t : B4) :
    KeepsO r (execAddr d a b t s) := by
  unfold execAddr
  try dsimp only
  repeat' (first | with_reducible assumption | intro _ | with_reducible apply State.writeS_keeps |
                  with_reducible apply keepsO_next | with_reducible apply keeps_foldl | split | simp only [keeps_mk_iff])

theorem execColxCol_keeps {r s : State} (h : Keeps r s) (d : Reg) (a : Reg) :
    KeepsO r (execColxCol d a s) := by
  unfold execColxCol
  try dsimp only
  repeat' (first | with_reducible assumption | intro _ | with_reducible apply State.writeS_keeps |
                  with_reducible apply keepsO_next | with_reducible apply keeps_foldl | split | simp only [keeps_mk_iff])

theorem execColxOff_keeps {r s : State} (h : Keeps r s) (d : Reg) (a : Reg) :
    KeepsO r (execColxOff d a s) := by
  unfold execColxOff
  try dsimp only
  repeat' (first | with_reducible assumption | intro _ | with_reducible apply State.writeS_keeps |
                  with_reducible apply keepsO_next | with_reducible apply keeps_foldl | split | simp only [keeps_mk_iff])

theorem execColxTag_keeps {r s : State} (h : Keeps r s) (d : Reg) (a : Reg) :
    KeepsO r (execColxTag d a s) := by
  unfold execColxTag
  try dsimp only
  repeat' (first | with_reducible assumption | intro _ | with_reducible apply State.writeS_keeps |
                  with_reducible apply keepsO_next | with_reducible apply keeps_foldl | split | simp only [keeps_mk_iff])

theorem execMad_keeps {r s : State} (h : Keeps r s) (d : Reg) (a : Reg) (b : Reg) (c : Reg) :
    KeepsO r (execMad d a b c s) := by
  unfold execMad
  try dsimp only
  repeat' (first | with_reducible assumption | intro _ | with_reducible apply State.writeS_keeps |
                  with_reducible apply keepsO_next | with_reducible apply keeps_foldl | split | simp only [keeps_mk_iff])

/-! ## Branch -/

theorem execBr_keeps {r s : State} (h : Keeps r s) (c : BrCond) (a : Reg) (b : Reg) (o : W32) :
    KeepsO r (execBr c a b o s) := by
  unfold execBr
  try dsimp only
  repeat' (first | with_reducible assumption | intro _ | with_reducible apply State.jumpTo_keeps |
                  with_reducible apply keepsO_next | with_reducible apply keeps_foldl | split | simp only [keeps_mk_iff])

theorem execJmp_keeps {r s : State} (h : Keeps r s) (o : W32) :
    KeepsO r (execJmp o s) := by
  unfold execJmp
  try dsimp only
  repeat' (first | with_reducible assumption | intro _ | with_reducible apply State.jumpTo_keeps |
                  with_reducible apply keepsO_next | with_reducible apply keeps_foldl | split | simp only [keeps_mk_iff])

theorem execCall_keeps {r s : State} (h : Keeps r s) (o : W32) :
    KeepsO r (execCall o s) := by
  unfold execCall
  try dsimp only
  repeat' (first | with_reducible assumption | intro _ | with_reducible apply State.jumpTo_keeps |
                  with_reducible apply State.setS_keeps | with_reducible apply keepsO_next | with_reducible apply keeps_foldl |
                  split | simp only [keeps_mk_iff])

theorem execJr_keeps {r s : State} (h : Keeps r s) (a : Reg) :
    KeepsO r (execJr a s) := by
  unfold execJr
  try dsimp only
  repeat' (first | with_reducible assumption | intro _ | with_reducible apply State.jumpTo_keeps |
                  with_reducible apply State.trap_keeps | with_reducible apply keepsO_next | with_reducible apply keeps_foldl |
                  split | simp only [keeps_mk_iff])

theorem execCallr_keeps {r s : State} (h : Keeps r s) (a : Reg) :
    KeepsO r (execCallr a s) := by
  unfold execCallr
  try dsimp only
  repeat' (first | with_reducible assumption | intro _ | with_reducible apply State.jumpTo_keeps |
                  with_reducible apply State.setS_keeps | with_reducible apply State.trap_keeps |
                  with_reducible apply keepsO_next | with_reducible apply keeps_foldl | split | simp only [keeps_mk_iff])

theorem State.splitBy_keeps {r s : State} (h : Keeps r s) (i : Instr) (taken : Mask) (t : W32) (x : W32) :
    Keeps r (State.splitBy i taken t x s) := by
  unfold State.splitBy
  try dsimp only
  repeat' (first | with_reducible assumption | intro _ | with_reducible apply State.setW_keeps |
                  with_reducible apply State.trap_keeps | with_reducible apply keepsO_next | with_reducible apply keeps_foldl |
                  split | simp only [keeps_mk_iff])

theorem execSplit_keeps {r s : State} (h : Keeps r s) (p : B4) (t : W32) (x : W32) :
    KeepsO r (execSplit p t x s) := by
  unfold execSplit
  try dsimp only
  repeat' (first | with_reducible assumption | intro _ | with_reducible apply State.splitBy_keeps |
                  with_reducible apply keepsO_next | with_reducible apply keeps_foldl | split | simp only [keeps_mk_iff])

theorem execSplitN_keeps {r s : State} (h : Keeps r s) (p : B4) (t : W32) (x : W32) :
    KeepsO r (execSplitN p t x s) := by
  unfold execSplitN
  try dsimp only
  repeat' (first | with_reducible assumption | intro _ | with_reducible apply State.splitBy_keeps |
                  with_reducible apply keepsO_next | with_reducible apply keeps_foldl | split | simp only [keeps_mk_iff])

theorem execFuse_keeps {r s : State} (h : Keeps r s) :
    KeepsO r (execFuse s) := by
  unfold execFuse
  try dsimp only
  repeat' (first | with_reducible assumption | intro _ | with_reducible apply State.setW_keeps |
                  with_reducible apply State.trap_keeps | with_reducible apply keepsO_next | with_reducible apply keeps_foldl |
                  split | simp only [keeps_mk_iff])

theorem State.checkEnded_keeps {r s : State} (h : Keeps r s) (w : Nat) :
    Keeps r (State.checkEnded s w) := by
  unfold State.checkEnded
  try dsimp only
  repeat' (first | with_reducible assumption | intro _ | with_reducible apply State.modWatch_keeps |
                  with_reducible apply keepsO_next | with_reducible apply keeps_foldl | split | simp only [keeps_mk_iff])

theorem execExit_keeps {r s : State} (h : Keeps r s) :
    KeepsO r (execExit s) := by
  unfold execExit
  try dsimp only
  repeat' (first | with_reducible assumption | intro _ | with_reducible apply State.checkEnded_keeps |
                  with_reducible apply State.setW_keeps | with_reducible apply State.trap_keeps |
                  with_reducible apply keepsO_next | with_reducible apply keeps_foldl | split | simp only [keeps_mk_iff])

theorem State.callIf_keeps {r s : State} (h : Keeps r s) (gs : List (Off × Mask)) (k : State)
    (hk : Keeps r k) :
    Keeps r (State.callIf s gs k) := by
  unfold State.callIf
  split
  · exact State.andThen_keeps h _ _ fun _ => h
  · exact hk

theorem State.callVector_keeps {r s : State} (h : Keeps r s) (i : Instr) (v : Sel) :
    Keeps r (State.callVector i v s) := by
  unfold State.callVector
  try dsimp only
  repeat' (first | with_reducible assumption | intro _ | with_reducible apply State.callIf_keeps |
                  with_reducible apply State.modW_keeps | with_reducible apply State.setS_keeps |
                  with_reducible apply State.trap_keeps | with_reducible apply keepsO_next | with_reducible apply keeps_foldl |
                  split | simp only [keeps_mk_iff])

theorem execCallv_keeps {r s : State} (h : Keeps r s) (v : Sel) :
    KeepsO r (execCallv v s) := by
  unfold execCallv
  try dsimp only
  repeat' (first | with_reducible assumption | intro _ | with_reducible apply State.callVector_keeps |
                  with_reducible apply keepsO_next | with_reducible apply keeps_foldl | split | simp only [keeps_mk_iff])

/-! ## Block -/

theorem State.startBlock_keeps {r s : State} (h : Keeps r s) (i : Instr) (st : B25) (n : Reg) :
    Keeps r (State.startBlock i st n s) := by
  unfold State.startBlock
  dsimp only
  split
  · exact h
  · split
    · split
      · exact h
      · exact ⟨h.1, h.2.1.trans (Nat.le_succ _), h.2.2.1.trans (Nat.le_add_right _ _), h.2.2.2.1, h.2.2.2.2⟩
    · exact State.andThen_keeps h _ _ fun _ => h

theorem execLx_keeps {r s : State} (h : Keeps r s) (st : B25) (n : Reg) :
    KeepsO r (execLx st n s) := by
  unfold execLx
  try dsimp only
  repeat' (first | with_reducible assumption | intro _ | with_reducible apply State.startBlock_keeps |
                  with_reducible apply keepsO_next | with_reducible apply keeps_foldl | split | simp only [keeps_mk_iff])

theorem execVget_keeps {r s : State} (h : Keeps r s) (d : Reg) (a : Reg) (v : Sel) (pr : Bool) :
    KeepsO r (execVget d a v pr s) := by
  unfold execVget
  try dsimp only
  repeat' (first | with_reducible assumption | intro _ | with_reducible apply State.trap_keeps |
                  with_reducible apply State.writeS_keeps | with_reducible apply keepsO_next |
                  with_reducible apply keeps_foldl | split | simp only [keeps_mk_iff])

theorem execVput_keeps {r s : State} (h : Keeps r s) (a : Reg) (b : Reg) (v : Sel) (pr : Bool) :
    KeepsO r (execVput a b v pr s) := by
  unfold execVput
  try dsimp only
  repeat' (first | with_reducible assumption | intro _ | with_reducible apply State.finish_keeps |
                  with_reducible apply State.modW_keeps | with_reducible apply State.trap_keeps |
                  with_reducible apply keepsO_next | with_reducible apply keeps_foldl | split | simp only [keeps_mk_iff])

theorem execVputAll_keeps {r s : State} (h : Keeps r s) (a : Reg) (v : Sel) (pr : Bool) :
    KeepsO r (execVputAll a v pr s) := by
  unfold execVputAll
  try dsimp only
  repeat' (first | with_reducible assumption | intro _ | with_reducible apply State.finish_keeps |
                  with_reducible apply State.modW_keeps | with_reducible apply State.trap_keeps |
                  with_reducible apply keepsO_next | with_reducible apply keeps_foldl | split | simp only [keeps_mk_iff])

theorem execPget_keeps {r s : State} (h : Keeps r s) (d : Reg) (p : B4) :
    KeepsO r (execPget d p s) := by
  unfold execPget
  try dsimp only
  repeat' (first | with_reducible assumption | intro _ | with_reducible apply State.writeS_keeps |
                  with_reducible apply keepsO_next | with_reducible apply keeps_foldl | split | simp only [keeps_mk_iff])

theorem execPput_keeps {r s : State} (h : Keeps r s) (a : Reg) (p : B4) :
    KeepsO r (execPput a p s) := by
  unfold execPput
  try dsimp only
  repeat' (first | with_reducible assumption | intro _ | with_reducible apply State.finish_keeps |
                  with_reducible apply State.modW_keeps | with_reducible apply keepsO_next | with_reducible apply keeps_foldl |
                  split | simp only [keeps_mk_iff])

theorem State.strmDefine_keeps {r s : State} (h : Keeps r s) (i : Instr) (a : Reg) (q : Nat) :
    Keeps r (State.strmDefine i a q s) := by
  unfold State.strmDefine
  try dsimp only
  repeat' (first | with_reducible assumption | intro _ | with_reducible apply State.access_keeps |
                  with_reducible apply State.finish_keeps | with_reducible apply State.modW_keeps |
                  with_reducible apply State.reading_keeps | with_reducible apply State.trap_keeps |
                  with_reducible apply keepsO_next | with_reducible apply keeps_foldl | split | simp only [keeps_mk_iff])

theorem execStrmDef_keeps {r s : State} (h : Keeps r s) (a : Reg) (q : B3) :
    KeepsO r (execStrmDef a q s) := by
  unfold execStrmDef
  try dsimp only
  repeat' (first | with_reducible assumption | intro _ | with_reducible apply State.strmDefine_keeps |
                  with_reducible apply keepsO_next | with_reducible apply keeps_foldl | split | simp only [keeps_mk_iff])

theorem execStrmGo_keeps {r s : State} (h : Keeps r s) (m : Byte) :
    KeepsO r (execStrmGo m s) := by
  unfold execStrmGo
  try dsimp only
  repeat' (first | with_reducible assumption | intro _ | with_reducible apply State.finish_keeps |
                  with_reducible apply State.modW_keeps | with_reducible apply State.trap_keeps |
                  with_reducible apply keepsO_next | with_reducible apply keeps_foldl | split | simp only [keeps_mk_iff])

theorem execStrmStop_keeps {r s : State} (h : Keeps r s) (m : Byte) :
    KeepsO r (execStrmStop m s) := by
  unfold execStrmStop
  try dsimp only
  repeat' (first | with_reducible assumption | intro _ | with_reducible apply State.finish_keeps |
                  with_reducible apply State.modW_keeps | with_reducible apply State.trap_keeps |
                  with_reducible apply keepsO_next | with_reducible apply keeps_foldl | split | simp only [keeps_mk_iff])

theorem execShape_keeps {r s : State} (h : Keeps r s) (d : Reg) (x : ShapeReq) :
    KeepsO r (execShape d x s) := by
  unfold execShape
  try dsimp only
  repeat' (first | with_reducible assumption | intro _ | with_reducible apply State.finish_keeps |
                  with_reducible apply State.modW_keeps | with_reducible apply State.setS_keeps |
                  with_reducible apply keepsO_next | with_reducible apply keeps_foldl | split | simp only [keeps_mk_iff])

theorem execWaitp_keeps {r s : State} (h : Keeps r s) (a : Reg) (p : B4) :
    KeepsO r (execWaitp a p s) := by
  unfold execWaitp
  try dsimp only
  repeat' (first | with_reducible assumption | intro _ | with_reducible apply State.finish_keeps |
                  with_reducible apply keepsO_next | with_reducible apply keeps_foldl | split | simp only [keeps_mk_iff])

/-! ## System -/

theorem State.advanceCycle_keeps {r s : State} (h : Keeps r s) :
    Keeps r (State.advanceCycle s) := by
  exact ⟨h.1, h.2.1, h.2.2.1, h.2.2.2.1.trans (Nat.le_succ _), h.2.2.2.2⟩

theorem execSysr_keeps {r s : State} (h : Keeps r s) (d : Reg) (n : I12) :
    KeepsO r (execSysr d n s) := by
  unfold execSysr
  try dsimp only
  repeat' (first | with_reducible assumption | intro _ | with_reducible apply State.advanceCycle_keeps |
                  with_reducible apply State.finish_keeps | with_reducible apply State.finishNoFold_keeps |
                  with_reducible apply State.setS_keeps | with_reducible apply State.trap_keeps |
                  with_reducible apply keepsO_next | with_reducible apply keeps_foldl | split | simp only [keeps_mk_iff])

theorem execSyswSrseed_keeps {r s : State} (h : Keeps r s) (a : Reg) :
    KeepsO r (execSyswSrseed a s) := by
  unfold execSyswSrseed
  try dsimp only
  repeat' (first | with_reducible assumption | intro _ | with_reducible apply State.finish_keeps |
                  with_reducible apply State.modW_keeps | with_reducible apply keepsO_next | with_reducible apply keeps_foldl |
                  split | simp only [keeps_mk_iff])

theorem execSyswFmask_keeps {r s : State} (h : Keeps r s) (a : Reg) :
    KeepsO r (execSyswFmask a s) := by
  unfold execSyswFmask
  try dsimp only
  repeat' (first | with_reducible assumption | intro _ | with_reducible apply State.finish_keeps |
                  with_reducible apply State.modW_keeps | with_reducible apply keepsO_next | with_reducible apply keeps_foldl |
                  split | simp only [keeps_mk_iff])

theorem execSyswRbnd_keeps {r s : State} (h : Keeps r s) (a : Reg) :
    KeepsO r (execSyswRbnd a s) := by
  unfold execSyswRbnd
  try dsimp only
  repeat' (first | with_reducible assumption | intro _ | with_reducible apply State.finish_keeps |
                  with_reducible apply State.modW_keeps | with_reducible apply State.trap_keeps |
                  with_reducible apply keepsO_next | with_reducible apply keeps_foldl | split | simp only [keeps_mk_iff])

theorem execSyswSigreg_keeps {r s : State} (h : Keeps r s) (a : Reg) :
    KeepsO r (execSyswSigreg a s) := by
  unfold execSyswSigreg
  try dsimp only
  repeat' (first | with_reducible assumption | intro _ | with_reducible apply State.finishNoFold_keeps |
                  with_reducible apply State.modFrag_keeps | with_reducible apply State.trap_keeps |
                  with_reducible apply keepsO_next | with_reducible apply keeps_foldl | split | simp only [keeps_mk_iff])

theorem execSyswInject_keeps {r s : State} (h : Keeps r s) (a : Reg) :
    KeepsO r (execSyswInject a s) := by
  unfold execSyswInject
  try dsimp only
  repeat' (first | with_reducible assumption | intro _ | with_reducible apply State.finish_keeps |
                  with_reducible apply State.modW_keeps | with_reducible apply State.trap_keeps |
                  with_reducible apply keepsO_next | with_reducible apply keeps_foldl | split | simp only [keeps_mk_iff])

theorem execSysw_keeps {r s : State} (h : Keeps r s) (x_a : Reg) (x_n : I12) :
    KeepsO r (execSysw x_a x_n s) := by
  unfold execSysw
  try dsimp only
  repeat' (first | with_reducible assumption | intro _ | with_reducible apply State.trap_keeps |
                  with_reducible apply keepsO_next | with_reducible apply keeps_foldl | split | simp only [keeps_mk_iff])

theorem execTrap_keeps {r s : State} (h : Keeps r s) (c : I12) :
    KeepsO r (execTrap c s) := by
  unfold execTrap
  try dsimp only
  repeat' (first | with_reducible assumption | intro _ | with_reducible apply State.trap_keeps |
                  with_reducible apply keepsO_next | with_reducible apply keeps_foldl | split | simp only [keeps_mk_iff])

theorem State.handlerFault_keeps {r s : State} (h : Keeps r s) (tcode : Nat) :
    Keeps r (State.handlerFault s tcode) := by
  unfold State.handlerFault
  try dsimp only
  repeat' (first | with_reducible assumption | intro _ | with_reducible apply State.oneRungUp_keeps |
                  with_reducible apply State.settleMatrix_keeps | with_reducible apply keepsO_next |
                  with_reducible apply keeps_foldl | split | simp only [keeps_mk_iff])

theorem State.recheck_keeps {r s : State} (h : Keeps r s) (w : Nat) :
    Keeps r (State.recheck s w) := by
  unfold State.recheck
  try dsimp only
  repeat' (first | with_reducible assumption | intro _ | with_reducible apply State.asyncTrap_keeps |
                  with_reducible apply State.modWatch_keeps | with_reducible apply State.morePages_keeps |
                  with_reducible apply State.pageFault_keeps | with_reducible apply keepsO_next |
                  with_reducible apply keeps_foldl | split | simp only [keeps_mk_iff])

theorem State.returnTrap_keeps {r s : State} (h : Keeps r s) :
    Keeps r (State.returnTrap s) := by
  unfold State.returnTrap
  try dsimp only
  repeat' (first | with_reducible assumption | intro _ | with_reducible apply State.andThen_keeps |
                  with_reducible apply State.handlerFault_keeps | with_reducible apply State.recheck_keeps |
                  with_reducible apply State.setW_keeps | with_reducible apply State.trap_keeps |
                  with_reducible apply keepsO_next | with_reducible apply keeps_foldl | split | simp only [keeps_mk_iff])

theorem execRte_keeps {r s : State} (h : Keeps r s) :
    KeepsO r (execRte s) := by
  unfold execRte
  try dsimp only
  repeat' (first | with_reducible assumption | intro _ | with_reducible apply State.returnTrap_keeps |
                  with_reducible apply keepsO_next | with_reducible apply keeps_foldl | split | simp only [keeps_mk_iff])

theorem execNop_keeps {r s : State} (h : Keeps r s) :
    KeepsO r (execNop s) := by
  unfold execNop
  try dsimp only
  repeat' (first | with_reducible assumption | intro _ | with_reducible apply State.finish_keeps |
                  with_reducible apply keepsO_next | with_reducible apply keeps_foldl | split | simp only [keeps_mk_iff])

theorem execNop64_keeps {r s : State} (h : Keeps r s) (x : W32) :
    KeepsO r (execNop64 x s) := by
  unfold execNop64
  try dsimp only
  repeat' (first | with_reducible assumption | intro _ | with_reducible apply State.finish_keeps |
                  with_reducible apply keepsO_next | with_reducible apply keeps_foldl | split | simp only [keeps_mk_iff])

theorem execNop96_keeps {r s : State} (h : Keeps r s) (x : W32) (y : W32) :
    KeepsO r (execNop96 x y s) := by
  unfold execNop96
  try dsimp only
  repeat' (first | with_reducible assumption | intro _ | with_reducible apply State.finish_keeps |
                  with_reducible apply keepsO_next | with_reducible apply keeps_foldl | split | simp only [keeps_mk_iff])

theorem execReservedEncoding_keeps {r s : State} (h : Keeps r s) (x_w : W32) :
    KeepsO r (execReservedEncoding x_w s) := by
  unfold execReservedEncoding
  try dsimp only
  repeat' (first | with_reducible assumption | intro _ | with_reducible apply State.trap_keeps |
                  with_reducible apply keepsO_next | with_reducible apply keeps_foldl | split | simp only [keeps_mk_iff])

/-! ## CoreControl -/

theorem State.unpaired_keeps {r s : State} (h : Keeps r s) (k : State)
    (hk : Keeps r k) :
    Keeps r (State.unpaired s k) := by
  unfold State.unpaired
  try dsimp only
  repeat' (first | with_reducible assumption | intro _ | with_reducible apply State.trap_keeps |
                  with_reducible apply keepsO_next | with_reducible apply keeps_foldl | split | simp only [keeps_mk_iff])

theorem State.withCrew_keeps {r s : State} (h : Keeps r s) (a : Reg) (k : Nat → State)
    (hk : ∀ (a0 : Nat), Keeps r (k a0)) :
    Keeps r (State.withCrew s a k) := by
  unfold State.withCrew
  try dsimp only
  repeat' (first | with_reducible assumption | intro _ | with_reducible apply hk | with_reducible apply State.trap_keeps |
                  with_reducible apply State.unpaired_keeps | with_reducible apply keepsO_next |
                  with_reducible apply keeps_foldl | split | simp only [keeps_mk_iff])

theorem State.joinCrew_keeps {r s : State} (h : Keeps r s) (c : Nat) :
    ∀ t, State.joinCrew s c = some t → Keeps r t.1 := by
  intro t e
  unfold State.joinCrew at e
  dsimp only at e
  split at e
  · split at e
    · cases e
      exact h
    · split at e
      · cases e
      · cases e
        exact State.setCrew_keeps h _ _ _
  · split at e
    · cases e
    · cases e
      exact State.setCrew_keeps h _ _ _

theorem execCrewJoin_keeps {r s : State} (h : Keeps r s) (d : Reg) (a : Reg) :
    KeepsO r (execCrewJoin d a s) := by
  unfold execCrewJoin
  refine keepsO_next (State.withCrew_keeps h _ _ fun c => ?_)
  split
  · rename_i e
    exact State.finish_keeps (State.setS_keeps (State.joinCrew_keeps h _ _ e) _ _) _
  · exact State.trap_keeps h _

theorem execCrewLeave_keeps {r s : State} (h : Keeps r s) (d : Reg) (a : Reg) :
    KeepsO r (execCrewLeave d a s) := by
  unfold execCrewLeave
  try dsimp only
  repeat' (first | with_reducible assumption | intro _ | with_reducible apply State.departCrew_keeps |
                  with_reducible apply State.finish_keeps | with_reducible apply State.setS_keeps |
                  with_reducible apply State.trap_keeps | with_reducible apply State.withCrew_keeps |
                  with_reducible apply keepsO_next | with_reducible apply keeps_foldl | split | simp only [keeps_mk_iff])

theorem execCrewSize_keeps {r s : State} (h : Keeps r s) (d : Reg) (a : Reg) :
    KeepsO r (execCrewSize d a s) := by
  unfold execCrewSize
  try dsimp only
  repeat' (first | with_reducible assumption | intro _ | with_reducible apply State.finish_keeps |
                  with_reducible apply State.setS_keeps | with_reducible apply State.withCrew_keeps |
                  with_reducible apply keepsO_next | with_reducible apply keeps_foldl | split | simp only [keeps_mk_iff])

theorem execCrewRank_keeps {r s : State} (h : Keeps r s) (d : Reg) (a : Reg) :
    KeepsO r (execCrewRank d a s) := by
  unfold execCrewRank
  try dsimp only
  repeat' (first | with_reducible assumption | intro _ | with_reducible apply State.finish_keeps |
                  with_reducible apply State.setS_keeps | with_reducible apply State.trap_keeps |
                  with_reducible apply State.withCrew_keeps | with_reducible apply keepsO_next |
                  with_reducible apply keeps_foldl | split | simp only [keeps_mk_iff])

theorem State.barAt_keeps {r s : State} (h : Keeps r s) (i : Instr) (b : BarWait) (c : Scope) (swap : Bool) :
    Keeps r (State.barAt s i b c swap) := by
  unfold State.barAt
  try dsimp only
  repeat' (first | with_reducible assumption | intro _ | with_reducible apply State.acquire_keeps |
                  with_reducible apply State.arrive_keeps | with_reducible apply State.finish_keeps |
                  with_reducible apply State.modFrag_keeps | with_reducible apply State.sendCrew_keeps |
                  with_reducible apply keepsO_next | with_reducible apply keeps_foldl | split | simp only [keeps_mk_iff])

theorem State.barrier_keeps {r s : State} (h : Keeps r s) (i : Instr) (a : Reg) (c : Scope) (swap : Bool) :
    Keeps r (State.barrier s i a c swap) := by
  unfold State.barrier
  try dsimp only
  repeat' (first | with_reducible assumption | intro _ | with_reducible apply State.barAt_keeps |
                  with_reducible apply State.trap_keeps | with_reducible apply State.withCrew_keeps |
                  with_reducible apply keepsO_next | with_reducible apply keeps_foldl | split | simp only [keeps_mk_iff])

theorem execBar_keeps {r s : State} (h : Keeps r s) (a : Reg) (c : Scope) :
    KeepsO r (execBar a c s) := by
  unfold execBar
  try dsimp only
  repeat' (first | with_reducible assumption | intro _ | with_reducible apply State.barrier_keeps |
                  with_reducible apply keepsO_next | with_reducible apply keeps_foldl | split | simp only [keeps_mk_iff])

theorem execBarSwap_keeps {r s : State} (h : Keeps r s) (a : Reg) (c : Scope) :
    KeepsO r (execBarSwap a c s) := by
  unfold execBarSwap
  try dsimp only
  repeat' (first | with_reducible assumption | intro _ | with_reducible apply State.barrier_keeps |
                  with_reducible apply keepsO_next | with_reducible apply keeps_foldl | split | simp only [keeps_mk_iff])

theorem State.engineArrive_keeps {r s : State} (h : Keeps r s) (obj : Option Nat) (fail : Bool) :
    Keeps r (State.engineArrive s obj fail) := by
  unfold State.engineArrive
  try dsimp only
  repeat' (first | with_reducible assumption | intro _ | with_reducible apply State.writeN_keeps |
                  with_reducible apply keepsO_next | with_reducible apply keeps_foldl | split | simp only [keeps_mk_iff])

theorem State.abar_keeps {r s : State} (h : Keeps r s) (a : Reg) (r_ : Ord) (c : Scope) (step : Nat → Nat → State)
    (hstep : ∀ (a0 : Nat) (a1 : Nat), Keeps r (step a0 a1)) :
    Keeps r (State.abar s a r_ c step) := by
  unfold State.abar
  try dsimp only
  repeat' (first | with_reducible assumption | intro _ | with_reducible apply hstep | with_reducible apply State.trap_keeps |
                  with_reducible apply State.unpaired_keeps | with_reducible apply keepsO_next |
                  with_reducible apply keeps_foldl | split | simp only [keeps_mk_iff])

theorem State.marked_keeps {r s : State} (h : Keeps r s) (a : Reg) (v : Nat) (k : State)
    (hk : Keeps r k) :
    Keeps r (State.marked s a v k) := by
  unfold State.marked
  try dsimp only
  repeat' (first | with_reducible assumption | intro _ | with_reducible apply State.trap_keeps |
                  with_reducible apply keepsO_next | with_reducible apply keeps_foldl | split | simp only [keeps_mk_iff])

theorem execAbarInit_keeps {r s : State} (h : Keeps r s) (a : Reg) (b : Reg) (r_ : Ord) (c : Scope) :
    KeepsO r (execAbarInit a b r_ c s) := by
  unfold execAbarInit
  try dsimp only
  repeat' (first | with_reducible assumption | intro _ | with_reducible apply State.abar_keeps |
                  with_reducible apply State.acquire_keeps | with_reducible apply State.finish_keeps |
                  with_reducible apply State.trap_keeps | with_reducible apply State.writeN_keeps |
                  with_reducible apply keepsO_next | with_reducible apply keeps_foldl | split | simp only [keeps_mk_iff])

theorem execAbarArrive_keeps {r s : State} (h : Keeps r s) (d : Reg) (a : Reg) (b : Reg) (r_ : Ord) (c : Scope) :
    KeepsO r (execAbarArrive d a b r_ c s) := by
  unfold execAbarArrive
  try dsimp only
  repeat' (first | with_reducible assumption | intro _ | with_reducible apply State.abar_keeps |
                  with_reducible apply State.acquire_keeps | with_reducible apply State.finish_keeps |
                  with_reducible apply State.marked_keeps | with_reducible apply State.setS_keeps |
                  with_reducible apply State.trap_keeps | with_reducible apply State.writeN_keeps |
                  with_reducible apply keepsO_next | with_reducible apply keeps_foldl | split | simp only [keeps_mk_iff])

theorem execAbarExpect_keeps {r s : State} (h : Keeps r s) (d : Reg) (a : Reg) (b : Reg) (r_ : Ord) (c : Scope) :
    KeepsO r (execAbarExpect d a b r_ c s) := by
  unfold execAbarExpect
  try dsimp only
  repeat' (first | with_reducible assumption | intro _ | with_reducible apply State.abar_keeps |
                  with_reducible apply State.acquire_keeps | with_reducible apply State.finish_keeps |
                  with_reducible apply State.marked_keeps | with_reducible apply State.setS_keeps |
                  with_reducible apply State.trap_keeps | with_reducible apply State.writeN_keeps |
                  with_reducible apply keepsO_next | with_reducible apply keeps_foldl | split | simp only [keeps_mk_iff])

theorem execAbarWait_keeps {r s : State} (h : Keeps r s) (a : Reg) (b : Reg) (r_ : Ord) (c : Scope) :
    KeepsO r (execAbarWait a b r_ c s) := by
  unfold execAbarWait
  try dsimp only
  repeat' (first | with_reducible assumption | intro _ | with_reducible apply State.abar_keeps |
                  with_reducible apply State.acquire_keeps | with_reducible apply State.finish_keeps |
                  with_reducible apply State.marked_keeps | with_reducible apply keepsO_next |
                  with_reducible apply keeps_foldl | split | simp only [keeps_mk_iff])

theorem execAbarTest_keeps {r s : State} (h : Keeps r s) (d : Reg) (a : Reg) (b : Reg) (r_ : Ord) (c : Scope) :
    KeepsO r (execAbarTest d a b r_ c s) := by
  unfold execAbarTest
  try dsimp only
  repeat' (first | with_reducible assumption | intro _ | with_reducible apply State.abar_keeps |
                  with_reducible apply State.acquire_keeps | with_reducible apply State.finish_keeps |
                  with_reducible apply State.marked_keeps | with_reducible apply State.setS_keeps |
                  with_reducible apply keepsO_next | with_reducible apply keeps_foldl | split | simp only [keeps_mk_iff])

theorem execCrgnOpen_keeps {r s : State} (h : Keeps r s) (o : W32) :
    KeepsO r (execCrgnOpen o s) := by
  unfold execCrgnOpen
  try dsimp only
  repeat' (first | with_reducible assumption | intro _ | with_reducible apply State.finish_keeps |
                  with_reducible apply State.modW_keeps | with_reducible apply State.trap_keeps |
                  with_reducible apply State.unpaired_keeps | with_reducible apply keepsO_next |
                  with_reducible apply keeps_foldl | split | simp only [keeps_mk_iff])

theorem execCrgnClose_keeps {r s : State} (h : Keeps r s) :
    KeepsO r (execCrgnClose s) := by
  unfold execCrgnClose
  try dsimp only
  repeat' (first | with_reducible assumption | intro _ | with_reducible apply State.finish_keeps |
                  with_reducible apply State.modW_keeps | with_reducible apply State.trap_keeps |
                  with_reducible apply State.unpaired_keeps | with_reducible apply keepsO_next |
                  with_reducible apply keeps_foldl | split | simp only [keeps_mk_iff])

theorem execSigck_keeps {r s : State} (h : Keeps r s) (v : W32) :
    KeepsO r (execSigck v s) := by
  unfold execSigck
  try dsimp only
  repeat' (first | with_reducible assumption | intro _ | with_reducible apply State.finishNoFold_keeps |
                  with_reducible apply State.modFrag_keeps | with_reducible apply State.trap_keeps |
                  with_reducible apply keepsO_next | with_reducible apply keeps_foldl | split | simp only [keeps_mk_iff])

theorem execPairBegin_keeps {r s : State} (h : Keeps r s) (n : I12) :
    KeepsO r (execPairBegin n s) := by
  unfold execPairBegin
  try dsimp only
  repeat' (first | with_reducible assumption | intro _ | with_reducible apply State.finish_keeps |
                  with_reducible apply State.modW_keeps | with_reducible apply State.trap_keeps |
                  with_reducible apply keepsO_next | with_reducible apply keeps_foldl | split | simp only [keeps_mk_iff])

theorem execPairEnd_keeps {r s : State} (h : Keeps r s) :
    KeepsO r (execPairEnd s) := by
  unfold execPairEnd
  try dsimp only
  repeat' (first | with_reducible assumption | intro _ | with_reducible apply State.endPair_keeps |
                  with_reducible apply State.finish_keeps | with_reducible apply State.mismatch_keeps |
                  with_reducible apply State.modW_keeps | with_reducible apply State.trap_keeps |
                  with_reducible apply keepsO_next | with_reducible apply keeps_foldl | split | simp only [keeps_mk_iff])

theorem execYield_keeps {r s : State} (h : Keeps r s) :
    KeepsO r (execYield s) := by
  unfold execYield
  try dsimp only
  repeat' (first | with_reducible assumption | intro _ | with_reducible apply State.finish_keeps |
                  with_reducible apply State.modW_keeps | with_reducible apply keepsO_next | with_reducible apply keeps_foldl |
                  split | simp only [keeps_mk_iff])

/-! ## MemCtl -/

theorem State.injected_keeps {r s : State} (h : Keeps r s) (atom : Bool) (accs : List Acc) :
    Keeps r (State.injected s atom accs).1 := by
  unfold State.injected
  try dsimp only
  repeat' (first | with_reducible assumption | intro _ | with_reducible apply State.modW_keeps |
                  with_reducible apply State.modWatch_keeps | with_reducible apply keepsO_next |
                  with_reducible apply keeps_foldl | split | simp only [keeps_mk_iff])

theorem State.issueWrite_keeps {r s : State} (h : Keeps r s) (opcode : Nat) (o : Op) :
    Keeps r (State.issueWrite s opcode o) := by
  unfold State.issueWrite
  try dsimp only
  repeat' (first | with_reducible assumption | intro _ | with_reducible apply State.addOp_keeps |
                  with_reducible apply State.bump_keeps | with_reducible apply State.injected_keeps |
                  with_reducible apply State.modW_keeps | with_reducible apply keepsO_next | with_reducible apply keeps_foldl |
                  split | simp only [keeps_mk_iff])

theorem State.issueSld_keeps {r s : State} (h : Keeps r s) (i : Instr) (d : Reg) (a : Reg) (z : Nat) (o : W32) :
    Keeps r (State.issueSld i d a z o s) := by
  unfold State.issueSld
  try dsimp only
  repeat' (first | with_reducible assumption | intro _ | with_reducible apply State.access_keeps |
                  with_reducible apply State.addOp_keeps | with_reducible apply State.finish_keeps |
                  with_reducible apply State.trap_keeps | with_reducible apply keepsO_next | with_reducible apply keeps_foldl |
                  split | simp only [keeps_mk_iff])

theorem execSld_keeps {r s : State} (h : Keeps r s) (d : Reg) (a : Reg) (z : B3) :
    KeepsO r (execSld d a z s) := by
  unfold execSld
  try dsimp only
  repeat' (first | with_reducible assumption | intro _ | with_reducible apply State.issueSld_keeps |
                  with_reducible apply keepsO_next | with_reducible apply keeps_foldl | split | simp only [keeps_mk_iff])

theorem execSld64_keeps {r s : State} (h : Keeps r s) (d : Reg) (a : Reg) (z : B3) (o : W32) :
    KeepsO r (execSld64 d a z o s) := by
  unfold execSld64
  try dsimp only
  repeat' (first | with_reducible assumption | intro _ | with_reducible apply State.issueSld_keeps |
                  with_reducible apply keepsO_next | with_reducible apply keeps_foldl | split | simp only [keeps_mk_iff])

theorem State.issueSst_keeps {r s : State} (h : Keeps r s) (i : Instr) (a : Reg) (b : Reg) (z : Nat) (o : W32) :
    Keeps r (State.issueSst i a b z o s) := by
  unfold State.issueSst
  try dsimp only
  repeat' (first | with_reducible assumption | intro _ | with_reducible apply State.access_keeps |
                  with_reducible apply State.finish_keeps | with_reducible apply State.issueWrite_keeps |
                  with_reducible apply keepsO_next | with_reducible apply keeps_foldl | split | simp only [keeps_mk_iff])

theorem execSst_keeps {r s : State} (h : Keeps r s) (a : Reg) (b : Reg) (z : B2) :
    KeepsO r (execSst a b z s) := by
  unfold execSst
  try dsimp only
  repeat' (first | with_reducible assumption | intro _ | with_reducible apply State.issueSst_keeps |
                  with_reducible apply keepsO_next | with_reducible apply keeps_foldl | split | simp only [keeps_mk_iff])

theorem execSst64_keeps {r s : State} (h : Keeps r s) (a : Reg) (b : Reg) (z : B2) (o : W32) :
    KeepsO r (execSst64 a b z o s) := by
  unfold execSst64
  try dsimp only
  repeat' (first | with_reducible assumption | intro _ | with_reducible apply State.issueSst_keeps |
                  with_reducible apply keepsO_next | with_reducible apply keeps_foldl | split | simp only [keeps_mk_iff])

theorem State.issueAtom_keeps {r s : State} (h : Keeps r s) (i : Instr) (x : Bool) (pcn : Nat) (d : Reg) (a : Reg) (b : Reg) (k
    : AtomOp) (c : Reg) (z : Bool) (r_ : Ord) (sc : Scope) :
    Keeps r (State.issueAtom i x pcn d a b k c z r_ sc s) := by
  unfold State.issueAtom
  try dsimp only
  repeat' (first | with_reducible assumption | intro _ | with_reducible apply State.acquire_keeps |
                  with_reducible apply State.andThen_keeps | with_reducible apply State.finish_keeps |
                  with_reducible apply State.issueWrite_keeps | with_reducible apply keepsO_next |
                  with_reducible apply keeps_foldl | split | simp only [keeps_mk_iff])

theorem execSatom_keeps {r s : State} (h : Keeps r s) (d : Reg) (a : Reg) (b : Reg) (k : AtomOp) (c : Reg) (z : Bool) (r_ : Ord)
    (sc : Scope) :
    KeepsO r (execSatom d a b k c z r_ sc s) := by
  unfold execSatom
  try dsimp only
  repeat' (first | with_reducible assumption | intro _ | with_reducible apply State.issueAtom_keeps |
                  with_reducible apply keepsO_next | with_reducible apply keeps_foldl | split | simp only [keeps_mk_iff])

theorem execXatom_keeps {r s : State} (h : Keeps r s) (d : Reg) (a : Reg) (b : Reg) (k : AtomOp) (c : Reg) (z : Bool) (r_ : Ord)
    (sc : Scope) :
    KeepsO r (execXatom d a b k c z r_ sc s) := by
  unfold execXatom
  try dsimp only
  repeat' (first | with_reducible assumption | intro _ | with_reducible apply State.issueAtom_keeps |
                  with_reducible apply State.trap_keeps | with_reducible apply keepsO_next | with_reducible apply keeps_foldl |
                  split | simp only [keeps_mk_iff])

theorem execFence_keeps {r s : State} (h : Keeps r s) (r_ : Ord) (sc : Scope) :
    KeepsO r (execFence r_ sc s) := by
  unfold execFence
  try dsimp only
  repeat' (first | with_reducible assumption | intro _ | with_reducible apply State.acquire_keeps |
                  with_reducible apply State.finish_keeps | with_reducible apply keepsO_next |
                  with_reducible apply keeps_foldl | split | simp only [keeps_mk_iff])

theorem execSpref_keeps {r s : State} (h : Keeps r s) (a : Reg) :
    KeepsO r (execSpref a s) := by
  unfold execSpref
  try dsimp only
  repeat' (first | with_reducible assumption | intro _ | with_reducible apply State.finish_keeps |
                  with_reducible apply keepsO_next | with_reducible apply keeps_foldl | split | simp only [keeps_mk_iff])

theorem execSpref64_keeps {r s : State} (h : Keeps r s) (a : Reg) (o : W32) :
    KeepsO r (execSpref64 a o s) := by
  unfold execSpref64
  try dsimp only
  repeat' (first | with_reducible assumption | intro _ | with_reducible apply State.finish_keeps |
                  with_reducible apply keepsO_next | with_reducible apply keeps_foldl | split | simp only [keeps_mk_iff])

end Sys2Proof.Machine
end

