-- ==== Sys2Proof/Laws/KeepLanes.lean ====
section
/-! SUPPORT. What `Keeps` says of a step, operation by
operation: the lane instructions and the events of memory, lanes and engines.
The lemma of an operation has its name and the ending _keeps (written by tools/gen_keep_files.py from the signatures). -/

set_option linter.unusedTactic false
set_option linter.unreachableTactic false
set_option linter.unusedSimpArgs false
set_option linter.unusedVariables false
set_option Elab.async false

namespace Sys2Proof.Machine

/-! ## LaneInt -/

theorem execIadd_keeps {r s : State} (h : Keeps r s) (o : LaneOps) :
    KeepsO r (execIadd o s) := by
  unfold execIadd
  try dsimp only
  repeat' (first | with_reducible assumption | intro _ | with_reducible apply State.lane2_keeps |
                  with_reducible apply keepsO_next | with_reducible apply keeps_foldl | split | simp only [keeps_mk_iff])

theorem execIsub_keeps {r s : State} (h : Keeps r s) (o : LaneOps) :
    KeepsO r (execIsub o s) := by
  unfold execIsub
  try dsimp only
  repeat' (first | with_reducible assumption | intro _ | with_reducible apply State.lane2_keeps |
                  with_reducible apply keepsO_next | with_reducible apply keeps_foldl | split | simp only [keeps_mk_iff])

theorem execImul_keeps {r s : State} (h : Keeps r s) (o : LaneOps) :
    KeepsO r (execImul o s) := by
  unfold execImul
  try dsimp only
  repeat' (first | with_reducible assumption | intro _ | with_reducible apply State.lane2_keeps |
                  with_reducible apply keepsO_next | with_reducible apply keeps_foldl | split | simp only [keeps_mk_iff])

theorem execImulh_keeps {r s : State} (h : Keeps r s) (o : LaneOps) :
    KeepsO r (execImulh o s) := by
  unfold execImulh
  try dsimp only
  repeat' (first | with_reducible assumption | intro _ | with_reducible apply State.lane2_keeps |
                  with_reducible apply keepsO_next | with_reducible apply keeps_foldl | split | simp only [keeps_mk_iff])

theorem execImulhu_keeps {r s : State} (h : Keeps r s) (o : LaneOps) :
    KeepsO r (execImulhu o s) := by
  unfold execImulhu
  try dsimp only
  repeat' (first | with_reducible assumption | intro _ | with_reducible apply State.lane2_keeps |
                  with_reducible apply keepsO_next | with_reducible apply keeps_foldl | split | simp only [keeps_mk_iff])

theorem execImin_keeps {r s : State} (h : Keeps r s) (o : LaneOps) :
    KeepsO r (execImin o s) := by
  unfold execImin
  try dsimp only
  repeat' (first | with_reducible assumption | intro _ | with_reducible apply State.lane2_keeps |
                  with_reducible apply keepsO_next | with_reducible apply keeps_foldl | split | simp only [keeps_mk_iff])

theorem execImax_keeps {r s : State} (h : Keeps r s) (o : LaneOps) :
    KeepsO r (execImax o s) := by
  unfold execImax
  try dsimp only
  repeat' (first | with_reducible assumption | intro _ | with_reducible apply State.lane2_keeps |
                  with_reducible apply keepsO_next | with_reducible apply keeps_foldl | split | simp only [keeps_mk_iff])

theorem execIminu_keeps {r s : State} (h : Keeps r s) (o : LaneOps) :
    KeepsO r (execIminu o s) := by
  unfold execIminu
  try dsimp only
  repeat' (first | with_reducible assumption | intro _ | with_reducible apply State.lane2_keeps |
                  with_reducible apply keepsO_next | with_reducible apply keeps_foldl | split | simp only [keeps_mk_iff])

theorem execImaxu_keeps {r s : State} (h : Keeps r s) (o : LaneOps) :
    KeepsO r (execImaxu o s) := by
  unfold execImaxu
  try dsimp only
  repeat' (first | with_reducible assumption | intro _ | with_reducible apply State.lane2_keeps |
                  with_reducible apply keepsO_next | with_reducible apply keeps_foldl | split | simp only [keeps_mk_iff])

theorem execIand_keeps {r s : State} (h : Keeps r s) (o : LaneOps) :
    KeepsO r (execIand o s) := by
  unfold execIand
  try dsimp only
  repeat' (first | with_reducible assumption | intro _ | with_reducible apply State.lane2_keeps |
                  with_reducible apply keepsO_next | with_reducible apply keeps_foldl | split | simp only [keeps_mk_iff])

theorem execIor_keeps {r s : State} (h : Keeps r s) (o : LaneOps) :
    KeepsO r (execIor o s) := by
  unfold execIor
  try dsimp only
  repeat' (first | with_reducible assumption | intro _ | with_reducible apply State.lane2_keeps |
                  with_reducible apply keepsO_next | with_reducible apply keeps_foldl | split | simp only [keeps_mk_iff])

theorem execIxor_keeps {r s : State} (h : Keeps r s) (o : LaneOps) :
    KeepsO r (execIxor o s) := by
  unfold execIxor
  try dsimp only
  repeat' (first | with_reducible assumption | intro _ | with_reducible apply State.lane2_keeps |
                  with_reducible apply keepsO_next | with_reducible apply keeps_foldl | split | simp only [keeps_mk_iff])

theorem execLaneShl_keeps {r s : State} (h : Keeps r s) (o : LaneOps) :
    KeepsO r (execLaneShl o s) := by
  unfold execLaneShl
  try dsimp only
  repeat' (first | with_reducible assumption | intro _ | with_reducible apply State.lane2_keeps |
                  with_reducible apply keepsO_next | with_reducible apply keeps_foldl | split | simp only [keeps_mk_iff])

theorem execLaneShr_keeps {r s : State} (h : Keeps r s) (o : LaneOps) :
    KeepsO r (execLaneShr o s) := by
  unfold execLaneShr
  try dsimp only
  repeat' (first | with_reducible assumption | intro _ | with_reducible apply State.lane2_keeps |
                  with_reducible apply keepsO_next | with_reducible apply keeps_foldl | split | simp only [keeps_mk_iff])

theorem execLaneSar_keeps {r s : State} (h : Keeps r s) (o : LaneOps) :
    KeepsO r (execLaneSar o s) := by
  unfold execLaneSar
  try dsimp only
  repeat' (first | with_reducible assumption | intro _ | with_reducible apply State.lane2_keeps |
                  with_reducible apply keepsO_next | with_reducible apply keeps_foldl | split | simp only [keeps_mk_iff])

theorem execRot_keeps {r s : State} (h : Keeps r s) (o : LaneOps) :
    KeepsO r (execRot o s) := by
  unfold execRot
  try dsimp only
  repeat' (first | with_reducible assumption | intro _ | with_reducible apply State.lane2_keeps |
                  with_reducible apply keepsO_next | with_reducible apply keeps_foldl | split | simp only [keeps_mk_iff])

theorem execIadds_keeps {r s : State} (h : Keeps r s) (o : LaneOps) :
    KeepsO r (execIadds o s) := by
  unfold execIadds
  try dsimp only
  repeat' (first | with_reducible assumption | intro _ | with_reducible apply State.lane2_keeps |
                  with_reducible apply keepsO_next | with_reducible apply keeps_foldl | split | simp only [keeps_mk_iff])

theorem execIsubs_keeps {r s : State} (h : Keeps r s) (o : LaneOps) :
    KeepsO r (execIsubs o s) := by
  unfold execIsubs
  try dsimp only
  repeat' (first | with_reducible assumption | intro _ | with_reducible apply State.lane2_keeps |
                  with_reducible apply keepsO_next | with_reducible apply keeps_foldl | split | simp only [keeps_mk_iff])

theorem execIabs_keeps {r s : State} (h : Keeps r s) (o : LaneOps) :
    KeepsO r (execIabs o s) := by
  unfold execIabs
  try dsimp only
  repeat' (first | with_reducible assumption | intro _ | with_reducible apply State.lane1_keeps |
                  with_reducible apply keepsO_next | with_reducible apply keeps_foldl | split | simp only [keeps_mk_iff])

theorem execIneg_keeps {r s : State} (h : Keeps r s) (o : LaneOps) :
    KeepsO r (execIneg o s) := by
  unfold execIneg
  try dsimp only
  repeat' (first | with_reducible assumption | intro _ | with_reducible apply State.lane1_keeps |
                  with_reducible apply keepsO_next | with_reducible apply keeps_foldl | split | simp only [keeps_mk_iff])

theorem execInot_keeps {r s : State} (h : Keeps r s) (o : LaneOps) :
    KeepsO r (execInot o s) := by
  unfold execInot
  try dsimp only
  repeat' (first | with_reducible assumption | intro _ | with_reducible apply State.lane1_keeps |
                  with_reducible apply keepsO_next | with_reducible apply keeps_foldl | split | simp only [keeps_mk_iff])

theorem execLanePopc_keeps {r s : State} (h : Keeps r s) (o : LaneOps) :
    KeepsO r (execLanePopc o s) := by
  unfold execLanePopc
  try dsimp only
  repeat' (first | with_reducible assumption | intro _ | with_reducible apply State.lane1_keeps |
                  with_reducible apply keepsO_next | with_reducible apply keeps_foldl | split | simp only [keeps_mk_iff])

theorem execLaneClz_keeps {r s : State} (h : Keeps r s) (o : LaneOps) :
    KeepsO r (execLaneClz o s) := by
  unfold execLaneClz
  try dsimp only
  repeat' (first | with_reducible assumption | intro _ | with_reducible apply State.lane1_keeps |
                  with_reducible apply keepsO_next | with_reducible apply keeps_foldl | split | simp only [keeps_mk_iff])

theorem execLaneBrev_keeps {r s : State} (h : Keeps r s) (o : LaneOps) :
    KeepsO r (execLaneBrev o s) := by
  unfold execLaneBrev
  try dsimp only
  repeat' (first | with_reducible assumption | intro _ | with_reducible apply State.lane1_keeps |
                  with_reducible apply keepsO_next | with_reducible apply keeps_foldl | split | simp only [keeps_mk_iff])

theorem execLaneMov_keeps {r s : State} (h : Keeps r s) (o : LaneOps) :
    KeepsO r (execLaneMov o s) := by
  unfold execLaneMov
  try dsimp only
  repeat' (first | with_reducible assumption | intro _ | with_reducible apply State.lane1_keeps |
                  with_reducible apply keepsO_next | with_reducible apply keeps_foldl | split | simp only [keeps_mk_iff])

theorem execImad_keeps {r s : State} (h : Keeps r s) (o : LaneOps) :
    KeepsO r (execImad o s) := by
  unfold execImad
  try dsimp only
  repeat' (first | with_reducible assumption | intro _ | with_reducible apply State.lane3_keeps |
                  with_reducible apply keepsO_next | with_reducible apply keeps_foldl | split | simp only [keeps_mk_iff])

theorem execDot4_keeps {r s : State} (h : Keeps r s) (o : LaneOps) :
    KeepsO r (execDot4 o s) := by
  unfold execDot4
  try dsimp only
  repeat' (first | with_reducible assumption | intro _ | with_reducible apply State.lane3_keeps |
                  with_reducible apply keepsO_next | with_reducible apply keeps_foldl | split | simp only [keeps_mk_iff])

theorem execBfx_keeps {r s : State} (h : Keeps r s) (o : LaneOps) :
    KeepsO r (execBfx o s) := by
  unfold execBfx
  try dsimp only
  repeat' (first | with_reducible assumption | intro _ | with_reducible apply State.lane3_keeps |
                  with_reducible apply keepsO_next | with_reducible apply keeps_foldl | split | simp only [keeps_mk_iff])

theorem execBfi_keeps {r s : State} (h : Keeps r s) (o : LaneOps) :
    KeepsO r (execBfi o s) := by
  unfold execBfi
  try dsimp only
  repeat' (first | with_reducible assumption | intro _ | with_reducible apply State.lane3_keeps |
                  with_reducible apply keepsO_next | with_reducible apply keeps_foldl | split | simp only [keeps_mk_iff])

theorem execIaddc_keeps {r s : State} (h : Keeps r s) (o : LaneOps) :
    KeepsO r (execIaddc o s) := by
  unfold execIaddc
  try dsimp only
  repeat' (first | with_reducible assumption | intro _ | with_reducible apply State.putResult64_keeps |
                  with_reducible apply keepsO_next | with_reducible apply keeps_foldl | split | simp only [keeps_mk_iff])

theorem execImulw_keeps {r s : State} (h : Keeps r s) (o : LaneOps) :
    KeepsO r (execImulw o s) := by
  unfold execImulw
  try dsimp only
  repeat' (first | with_reducible assumption | intro _ | with_reducible apply State.putResult64_keeps |
                  with_reducible apply keepsO_next | with_reducible apply keeps_foldl | split | simp only [keeps_mk_iff])

theorem execIcmp_keeps {r s : State} (h : Keeps r s) (o : LaneOps) :
    KeepsO r (execIcmp o s) := by
  unfold execIcmp
  try dsimp only
  repeat' (first | with_reducible assumption | intro _ | with_reducible apply State.laneCmp_keeps |
                  with_reducible apply keepsO_next | with_reducible apply keeps_foldl | split | simp only [keeps_mk_iff])

theorem execSel_keeps {r s : State} (h : Keeps r s) (o : LaneOps) :
    KeepsO r (execSel o s) := by
  unfold execSel
  try dsimp only
  repeat' (first | with_reducible assumption | intro _ | with_reducible apply State.putResult_keeps |
                  with_reducible apply keepsO_next | with_reducible apply keeps_foldl | split | simp only [keeps_mk_iff])

theorem execLid_keeps {r s : State} (h : Keeps r s) (o : LaneOps) :
    KeepsO r (execLid o s) := by
  unfold execLid
  try dsimp only
  repeat' (first | with_reducible assumption | intro _ | with_reducible apply State.putResult_keeps |
                  with_reducible apply keepsO_next | with_reducible apply keeps_foldl | split | simp only [keeps_mk_iff])

/-! ## LaneFp -/

theorem execFadd_keeps {r s : State} (h : Keeps r s) (o : LaneOps) :
    KeepsO r (execFadd o s) := by
  unfold execFadd
  try dsimp only
  repeat' (first | with_reducible assumption | intro _ | with_reducible apply State.lane2_keeps |
                  with_reducible apply keepsO_next | with_reducible apply keeps_foldl | split | simp only [keeps_mk_iff])

theorem execFsub_keeps {r s : State} (h : Keeps r s) (o : LaneOps) :
    KeepsO r (execFsub o s) := by
  unfold execFsub
  try dsimp only
  repeat' (first | with_reducible assumption | intro _ | with_reducible apply State.lane2_keeps |
                  with_reducible apply keepsO_next | with_reducible apply keeps_foldl | split | simp only [keeps_mk_iff])

theorem execFmul_keeps {r s : State} (h : Keeps r s) (o : LaneOps) :
    KeepsO r (execFmul o s) := by
  unfold execFmul
  try dsimp only
  repeat' (first | with_reducible assumption | intro _ | with_reducible apply State.lane2_keeps |
                  with_reducible apply keepsO_next | with_reducible apply keeps_foldl | split | simp only [keeps_mk_iff])

theorem execFmin_keeps {r s : State} (h : Keeps r s) (o : LaneOps) :
    KeepsO r (execFmin o s) := by
  unfold execFmin
  try dsimp only
  repeat' (first | with_reducible assumption | intro _ | with_reducible apply State.lane2_keeps |
                  with_reducible apply keepsO_next | with_reducible apply keeps_foldl | split | simp only [keeps_mk_iff])

theorem execFmax_keeps {r s : State} (h : Keeps r s) (o : LaneOps) :
    KeepsO r (execFmax o s) := by
  unfold execFmax
  try dsimp only
  repeat' (first | with_reducible assumption | intro _ | with_reducible apply State.lane2_keeps |
                  with_reducible apply keepsO_next | with_reducible apply keeps_foldl | split | simp only [keeps_mk_iff])

theorem execFfma_keeps {r s : State} (h : Keeps r s) (o : LaneOps) :
    KeepsO r (execFfma o s) := by
  unfold execFfma
  try dsimp only
  repeat' (first | with_reducible assumption | intro _ | with_reducible apply State.lane3_keeps |
                  with_reducible apply keepsO_next | with_reducible apply keeps_foldl | split | simp only [keeps_mk_iff])

theorem execFabs_keeps {r s : State} (h : Keeps r s) (o : LaneOps) :
    KeepsO r (execFabs o s) := by
  unfold execFabs
  try dsimp only
  repeat' (first | with_reducible assumption | intro _ | with_reducible apply State.lane1_keeps |
                  with_reducible apply keepsO_next | with_reducible apply keeps_foldl | split | simp only [keeps_mk_iff])

theorem execFneg_keeps {r s : State} (h : Keeps r s) (o : LaneOps) :
    KeepsO r (execFneg o s) := by
  unfold execFneg
  try dsimp only
  repeat' (first | with_reducible assumption | intro _ | with_reducible apply State.lane1_keeps |
                  with_reducible apply keepsO_next | with_reducible apply keeps_foldl | split | simp only [keeps_mk_iff])

theorem execFcmp_keeps {r s : State} (h : Keeps r s) (o : LaneOps) :
    KeepsO r (execFcmp o s) := by
  unfold execFcmp
  try dsimp only
  repeat' (first | with_reducible assumption | intro _ | with_reducible apply State.laneCmp_keeps |
                  with_reducible apply keepsO_next | with_reducible apply keeps_foldl | split | simp only [keeps_mk_iff])

theorem execFclass_keeps {r s : State} (h : Keeps r s) (o : LaneOps) :
    KeepsO r (execFclass o s) := by
  unfold execFclass
  try dsimp only
  repeat' (first | with_reducible assumption | intro _ | with_reducible apply State.lane1_keeps |
                  with_reducible apply keepsO_next | with_reducible apply keeps_foldl | split | simp only [keeps_mk_iff])

theorem execFrint_keeps {r s : State} (h : Keeps r s) (o : LaneOps) :
    KeepsO r (execFrint o s) := by
  unfold execFrint
  try dsimp only
  repeat' (first | with_reducible assumption | intro _ | with_reducible apply State.lane1_keeps |
                  with_reducible apply keepsO_next | with_reducible apply keeps_foldl | split | simp only [keeps_mk_iff])

theorem State.halves_keeps {r s : State} (h : Keeps r s) (o : LaneOps) (g : Fm → Nat → Nat → Nat → Nat) :
    Keeps r (State.halves s o g) := by
  unfold State.halves
  try dsimp only
  repeat' (first | with_reducible assumption | intro _ | with_reducible apply State.lane3_keeps |
                  with_reducible apply keepsO_next | with_reducible apply keeps_foldl | split | simp only [keeps_mk_iff])

theorem execHadd2_keeps {r s : State} (h : Keeps r s) (o : LaneOps) :
    KeepsO r (execHadd2 o s) := by
  unfold execHadd2
  try dsimp only
  repeat' (first | with_reducible assumption | intro _ | with_reducible apply State.halves_keeps |
                  with_reducible apply keepsO_next | with_reducible apply keeps_foldl | split | simp only [keeps_mk_iff])

theorem execHmul2_keeps {r s : State} (h : Keeps r s) (o : LaneOps) :
    KeepsO r (execHmul2 o s) := by
  unfold execHmul2
  try dsimp only
  repeat' (first | with_reducible assumption | intro _ | with_reducible apply State.halves_keeps |
                  with_reducible apply keepsO_next | with_reducible apply keeps_foldl | split | simp only [keeps_mk_iff])

theorem execHfma2_keeps {r s : State} (h : Keeps r s) (o : LaneOps) :
    KeepsO r (execHfma2 o s) := by
  unfold execHfma2
  try dsimp only
  repeat' (first | with_reducible assumption | intro _ | with_reducible apply State.halves_keeps |
                  with_reducible apply keepsO_next | with_reducible apply keeps_foldl | split | simp only [keeps_mk_iff])

theorem execHmin2_keeps {r s : State} (h : Keeps r s) (o : LaneOps) :
    KeepsO r (execHmin2 o s) := by
  unfold execHmin2
  try dsimp only
  repeat' (first | with_reducible assumption | intro _ | with_reducible apply State.halves_keeps |
                  with_reducible apply keepsO_next | with_reducible apply keeps_foldl | split | simp only [keeps_mk_iff])

theorem execHmax2_keeps {r s : State} (h : Keeps r s) (o : LaneOps) :
    KeepsO r (execHmax2 o s) := by
  unfold execHmax2
  try dsimp only
  repeat' (first | with_reducible assumption | intro _ | with_reducible apply State.halves_keeps |
                  with_reducible apply keepsO_next | with_reducible apply keeps_foldl | split | simp only [keeps_mk_iff])

theorem execRcp_keeps {r s : State} (h : Keeps r s) (o : LaneOps) :
    KeepsO r (execRcp o s) := by
  unfold execRcp
  try dsimp only
  repeat' (first | with_reducible assumption | intro _ | with_reducible apply State.lane1_keeps |
                  with_reducible apply keepsO_next | with_reducible apply keeps_foldl | split | simp only [keeps_mk_iff])

theorem execRsq_keeps {r s : State} (h : Keeps r s) (o : LaneOps) :
    KeepsO r (execRsq o s) := by
  unfold execRsq
  try dsimp only
  repeat' (first | with_reducible assumption | intro _ | with_reducible apply State.lane1_keeps |
                  with_reducible apply keepsO_next | with_reducible apply keeps_foldl | split | simp only [keeps_mk_iff])

theorem execSqrt_keeps {r s : State} (h : Keeps r s) (o : LaneOps) :
    KeepsO r (execSqrt o s) := by
  unfold execSqrt
  try dsimp only
  repeat' (first | with_reducible assumption | intro _ | with_reducible apply State.lane1_keeps |
                  with_reducible apply keepsO_next | with_reducible apply keeps_foldl | split | simp only [keeps_mk_iff])

theorem execExp2_keeps {r s : State} (h : Keeps r s) (o : LaneOps) :
    KeepsO r (execExp2 o s) := by
  unfold execExp2
  try dsimp only
  repeat' (first | with_reducible assumption | intro _ | with_reducible apply State.lane1_keeps |
                  with_reducible apply keepsO_next | with_reducible apply keeps_foldl | split | simp only [keeps_mk_iff])

theorem execLog2_keeps {r s : State} (h : Keeps r s) (o : LaneOps) :
    KeepsO r (execLog2 o s) := by
  unfold execLog2
  try dsimp only
  repeat' (first | with_reducible assumption | intro _ | with_reducible apply State.lane1_keeps |
                  with_reducible apply keepsO_next | with_reducible apply keeps_foldl | split | simp only [keeps_mk_iff])

theorem execSin_keeps {r s : State} (h : Keeps r s) (o : LaneOps) :
    KeepsO r (execSin o s) := by
  unfold execSin
  try dsimp only
  repeat' (first | with_reducible assumption | intro _ | with_reducible apply State.lane1_keeps |
                  with_reducible apply keepsO_next | with_reducible apply keeps_foldl | split | simp only [keeps_mk_iff])

theorem execCos_keeps {r s : State} (h : Keeps r s) (o : LaneOps) :
    KeepsO r (execCos o s) := by
  unfold execCos
  try dsimp only
  repeat' (first | with_reducible assumption | intro _ | with_reducible apply State.lane1_keeps |
                  with_reducible apply keepsO_next | with_reducible apply keeps_foldl | split | simp only [keeps_mk_iff])

theorem execTanh_keeps {r s : State} (h : Keeps r s) (o : LaneOps) :
    KeepsO r (execTanh o s) := by
  unfold execTanh
  try dsimp only
  repeat' (first | with_reducible assumption | intro _ | with_reducible apply State.lane1_keeps |
                  with_reducible apply keepsO_next | with_reducible apply keeps_foldl | split | simp only [keeps_mk_iff])

theorem execSigm_keeps {r s : State} (h : Keeps r s) (o : LaneOps) :
    KeepsO r (execSigm o s) := by
  unfold execSigm
  try dsimp only
  repeat' (first | with_reducible assumption | intro _ | with_reducible apply State.lane1_keeps |
                  with_reducible apply keepsO_next | with_reducible apply keeps_foldl | split | simp only [keeps_mk_iff])

/-! ## LaneConv -/

theorem State.setGen_keeps {r s : State} (h : Keeps r s) (g : Row) :
    Keeps r (State.setGen s g) := by
  unfold State.setGen
  try dsimp only
  repeat' (first | with_reducible assumption | intro _ | with_reducible apply State.modW_keeps |
                  with_reducible apply keepsO_next | with_reducible apply keeps_foldl | split | simp only [keeps_mk_iff])

theorem execCvt_keeps {r s : State} (h : Keeps r s) (o : LaneOps) :
    KeepsO r (execCvt o s) := by
  unfold execCvt
  try dsimp only
  repeat' (first | with_reducible assumption | intro _ | with_reducible apply State.putResult_keeps |
                  with_reducible apply State.setGen_keeps | with_reducible apply keepsO_next |
                  with_reducible apply keeps_foldl | split | simp only [keeps_mk_iff])

theorem execPack_keeps {r s : State} (h : Keeps r s) (o : LaneOps) :
    KeepsO r (execPack o s) := by
  unfold execPack
  try dsimp only
  repeat' (first | with_reducible assumption | intro _ | with_reducible apply State.putResult_keeps |
                  with_reducible apply State.setGen_keeps | with_reducible apply keepsO_next |
                  with_reducible apply keeps_foldl | split | simp only [keeps_mk_iff])

theorem execUnpk_keeps {r s : State} (h : Keeps r s) (o : LaneOps) :
    KeepsO r (execUnpk o s) := by
  unfold execUnpk
  try dsimp only
  repeat' (first | with_reducible assumption | intro _ | with_reducible apply State.putResult64_keeps |
                  with_reducible apply State.setGen_keeps | with_reducible apply keepsO_next |
                  with_reducible apply keeps_foldl | split | simp only [keeps_mk_iff])

theorem execQnt_keeps {r s : State} (h : Keeps r s) (o : LaneOps) :
    KeepsO r (execQnt o s) := by
  unfold execQnt
  try dsimp only
  repeat' (first | with_reducible assumption | intro _ | with_reducible apply State.modW_keeps |
                  with_reducible apply State.putResult_keeps | with_reducible apply State.setGen_keeps |
                  with_reducible apply keepsO_next | with_reducible apply keeps_foldl | split | simp only [keeps_mk_iff])

theorem execScale_keeps {r s : State} (h : Keeps r s) (o : LaneOps) :
    KeepsO r (execScale o s) := by
  unfold execScale
  try dsimp only
  repeat' (first | with_reducible assumption | intro _ | with_reducible apply State.lane2_keeps |
                  with_reducible apply keepsO_next | with_reducible apply keeps_foldl | split | simp only [keeps_mk_iff])

theorem execShfl_keeps {r s : State} (h : Keeps r s) (o : LaneOps) :
    KeepsO r (execShfl o s) := by
  unfold execShfl
  try dsimp only
  repeat' (first | with_reducible assumption | intro _ | with_reducible apply State.putResult_keeps |
                  with_reducible apply keepsO_next | with_reducible apply keeps_foldl | split | simp only [keeps_mk_iff])

theorem execBallot_keeps {r s : State} (h : Keeps r s) (o : LaneOps) :
    KeepsO r (execBallot o s) := by
  unfold execBallot
  try dsimp only
  repeat' (first | with_reducible assumption | intro _ | with_reducible apply State.putResult_keeps |
                  with_reducible apply keepsO_next | with_reducible apply keeps_foldl | split | simp only [keeps_mk_iff])

theorem execBplane_keeps {r s : State} (h : Keeps r s) (o : LaneOps) :
    KeepsO r (execBplane o s) := by
  unfold execBplane
  try dsimp only
  repeat' (first | with_reducible assumption | intro _ | with_reducible apply State.putResult_keeps |
                  with_reducible apply keepsO_next | with_reducible apply keeps_foldl | split | simp only [keeps_mk_iff])

theorem execVred_keeps {r s : State} (h : Keeps r s) (o : LaneOps) :
    KeepsO r (execVred o s) := by
  unfold execVred
  try dsimp only
  repeat' (first | with_reducible assumption | intro _ | with_reducible apply State.putResult_keeps |
                  with_reducible apply keepsO_next | with_reducible apply keeps_foldl | split | simp only [keeps_mk_iff])

theorem execVscan_keeps {r s : State} (h : Keeps r s) (o : LaneOps) :
    KeepsO r (execVscan o s) := by
  unfold execVscan
  try dsimp only
  repeat' (first | with_reducible assumption | intro _ | with_reducible apply State.putResult_keeps |
                  with_reducible apply keepsO_next | with_reducible apply keeps_foldl | split | simp only [keeps_mk_iff])

/-! ## LaneMem -/

theorem State.issued_keeps {r s : State} (h : Keeps r s) (o : LaneOps) (x : Issue) (form : Bool) (put : State → State)
    (hput : ∀ (a0 : State), Keeps r a0 → Keeps r (put a0)) :
    Keeps r (State.issued s o x form put) := by
  unfold State.issued
  try dsimp only
  repeat' (first | with_reducible assumption | intro _ | with_reducible apply hput |
                  with_reducible apply State.asyncTrap_keeps | with_reducible apply State.morePages_keeps |
                  with_reducible apply State.noResult_keeps | with_reducible apply State.pageFault_keeps |
                  with_reducible apply State.setW_keeps | with_reducible apply keepsO_next | with_reducible apply keeps_foldl |
                  split | simp only [keeps_mk_iff])

theorem execLd_keeps {r s : State} (h : Keeps r s) (o : LaneOps) :
    KeepsO r (execLd o s) := by
  unfold execLd
  try dsimp only
  repeat' (first | with_reducible assumption | intro _ | with_reducible apply State.addOp_keeps |
                  with_reducible apply State.issued_keeps | with_reducible apply keepsO_next |
                  with_reducible apply keeps_foldl | split | simp only [keeps_mk_iff])

theorem execSt_keeps {r s : State} (h : Keeps r s) (o : LaneOps) :
    KeepsO r (execSt o s) := by
  unfold execSt
  try dsimp only
  repeat' (first | with_reducible assumption | intro _ | with_reducible apply State.issueWrite_keeps |
                  with_reducible apply State.issued_keeps | with_reducible apply keepsO_next |
                  with_reducible apply keeps_foldl | split | simp only [keeps_mk_iff])

theorem execAtom_keeps {r s : State} (h : Keeps r s) (o : LaneOps) :
    KeepsO r (execAtom o s) := by
  unfold execAtom
  try dsimp only
  repeat' (first | with_reducible assumption | intro _ | with_reducible apply State.issueWrite_keeps |
                  with_reducible apply State.issued_keeps | with_reducible apply keepsO_next |
                  with_reducible apply keeps_foldl | split | simp only [keeps_mk_iff])

theorem State.fatom_keeps {r s : State} (h : Keeps r s) (o : LaneOps) (kind : Nat) :
    Keeps r (State.fatom s o kind) := by
  unfold State.fatom
  try dsimp only
  repeat' (first | with_reducible assumption | intro _ | with_reducible apply State.addOp_keeps |
                  with_reducible apply State.issued_keeps | with_reducible apply keepsO_next |
                  with_reducible apply keeps_foldl | split | simp only [keeps_mk_iff])

theorem execFatom_keeps {r s : State} (h : Keeps r s) (o : LaneOps) :
    KeepsO r (execFatom o s) := by
  unfold execFatom
  try dsimp only
  repeat' (first | with_reducible assumption | intro _ | with_reducible apply State.fatom_keeps |
                  with_reducible apply keepsO_next | with_reducible apply keeps_foldl | split | simp only [keeps_mk_iff])

theorem execFatomMore_keeps {r s : State} (h : Keeps r s) (o : LaneOps) :
    KeepsO r (execFatomMore o s) := by
  unfold execFatomMore
  try dsimp only
  repeat' (first | with_reducible assumption | intro _ | with_reducible apply State.fatom_keeps |
                  with_reducible apply keepsO_next | with_reducible apply keeps_foldl | split | simp only [keeps_mk_iff])

theorem execFatomSkip_keeps {r s : State} (h : Keeps r s) (o : LaneOps) :
    KeepsO r (execFatomSkip o s) := by
  unfold execFatomSkip
  try dsimp only
  repeat' (first | with_reducible assumption | intro _ | with_reducible apply State.fatom_keeps |
                  with_reducible apply keepsO_next | with_reducible apply keeps_foldl | split | simp only [keeps_mk_iff])

theorem execAcpy_keeps {r s : State} (h : Keeps r s) (o : LaneOps) :
    KeepsO r (execAcpy o s) := by
  unfold execAcpy
  try dsimp only
  repeat' (first | with_reducible assumption | intro _ | with_reducible apply State.addOp_keeps |
                  with_reducible apply State.issued_keeps | with_reducible apply keepsO_next |
                  with_reducible apply keeps_foldl | split | simp only [keeps_mk_iff])

theorem execXst_keeps {r s : State} (h : Keeps r s) (o : LaneOps) :
    KeepsO r (execXst o s) := by
  unfold execXst
  try dsimp only
  repeat' (first | with_reducible assumption | intro _ | with_reducible apply State.addOp_keeps |
                  with_reducible apply State.issued_keeps | with_reducible apply keepsO_next |
                  with_reducible apply keeps_foldl | split | simp only [keeps_mk_iff])

theorem execAmax_keeps {r s : State} (h : Keeps r s) (o : LaneOps) :
    KeepsO r (execAmax o s) := by
  unfold execAmax
  try dsimp only
  repeat' (first | with_reducible assumption | intro _ | with_reducible apply State.modW_keeps |
                  with_reducible apply State.putResult_keeps | with_reducible apply keepsO_next |
                  with_reducible apply keeps_foldl | split | simp only [keeps_mk_iff])

/-! ## LaneMatrix -/

theorem State.acceptMat_keeps {r s : State} (h : Keeps r s) (o : LaneOps) (m : MatOp) :
    Keeps r (State.acceptMat s o m) := by
  unfold State.acceptMat
  try dsimp only
  repeat' (first | with_reducible assumption | intro _ | with_reducible apply State.modCore_keeps |
                  with_reducible apply State.modW_keeps | with_reducible apply State.noResult_keeps |
                  with_reducible apply keepsO_next | with_reducible apply keeps_foldl | split | simp only [keeps_mk_iff])

theorem State.matAtomic_keeps {r s : State} (h : Keeps r s) (a : Acc) :
    Keeps r (State.matAtomic s a) := by
  unfold State.matAtomic
  try dsimp only
  repeat' (first | with_reducible assumption | intro _ | with_reducible apply State.modW_keeps |
                  with_reducible apply keepsO_next | with_reducible apply keeps_foldl | split | simp only [keeps_mk_iff])

theorem execMma_keeps {r s : State} (h : Keeps r s) (o : LaneOps) :
    KeepsO r (execMma o s) := by
  unfold execMma
  try dsimp only
  repeat' (first | with_reducible assumption | intro _ | with_reducible apply State.acceptMat_keeps |
                  with_reducible apply keepsO_next | with_reducible apply keeps_foldl | split | simp only [keeps_mk_iff])

theorem execMsoft_keeps {r s : State} (h : Keeps r s) (o : LaneOps) :
    KeepsO r (execMsoft o s) := by
  unfold execMsoft
  try dsimp only
  repeat' (first | with_reducible assumption | intro _ | with_reducible apply State.acceptMat_keeps |
                  with_reducible apply keepsO_next | with_reducible apply keeps_foldl | split | simp only [keeps_mk_iff])

theorem execTclr_keeps {r s : State} (h : Keeps r s) (o : LaneOps) :
    KeepsO r (execTclr o s) := by
  unfold execTclr
  try dsimp only
  repeat' (first | with_reducible assumption | intro _ | with_reducible apply State.acceptMat_keeps |
                  with_reducible apply keepsO_next | with_reducible apply keeps_foldl | split | simp only [keeps_mk_iff])

theorem execTscl_keeps {r s : State} (h : Keeps r s) (o : LaneOps) :
    KeepsO r (execTscl o s) := by
  unfold execTscl
  try dsimp only
  repeat' (first | with_reducible assumption | intro _ | with_reducible apply State.acceptMat_keeps |
                  with_reducible apply keepsO_next | with_reducible apply keeps_foldl | split | simp only [keeps_mk_iff])

theorem execTsclPend_keeps {r s : State} (h : Keeps r s) (o : LaneOps) :
    KeepsO r (execTsclPend o s) := by
  unfold execTsclPend
  try dsimp only
  repeat' (first | with_reducible assumption | intro _ | with_reducible apply State.acceptMat_keeps |
                  with_reducible apply keepsO_next | with_reducible apply keeps_foldl | split | simp only [keeps_mk_iff])

theorem execTsclDivl_keeps {r s : State} (h : Keeps r s) (o : LaneOps) :
    KeepsO r (execTsclDivl o s) := by
  unfold execTsclDivl
  try dsimp only
  repeat' (first | with_reducible assumption | intro _ | with_reducible apply State.acceptMat_keeps |
                  with_reducible apply keepsO_next | with_reducible apply keeps_foldl | split | simp only [keeps_mk_iff])

theorem execTmovTv_keeps {r s : State} (h : Keeps r s) (o : LaneOps) :
    KeepsO r (execTmovTv o s) := by
  unfold execTmovTv
  try dsimp only
  repeat' (first | with_reducible assumption | intro _ | with_reducible apply State.acceptMat_keeps |
                  with_reducible apply keepsO_next | with_reducible apply keeps_foldl | split | simp only [keeps_mk_iff])

theorem execTmovVt_keeps {r s : State} (h : Keeps r s) (o : LaneOps) :
    KeepsO r (execTmovVt o s) := by
  unfold execTmovVt
  try dsimp only
  repeat' (first | with_reducible assumption | intro _ | with_reducible apply State.acceptMat_keeps |
                  with_reducible apply keepsO_next | with_reducible apply keeps_foldl | split | simp only [keeps_mk_iff])

theorem execTdrn_keeps {r s : State} (h : Keeps r s) (o : LaneOps) :
    KeepsO r (execTdrn o s) := by
  unfold execTdrn
  try dsimp only
  repeat' (first | with_reducible assumption | intro _ | with_reducible apply State.acceptMat_keeps |
                  with_reducible apply State.addOp_keeps | with_reducible apply State.asyncTrap_keeps |
                  with_reducible apply State.matAtomic_keeps | with_reducible apply State.pageFault_keeps |
                  with_reducible apply State.setW_keeps | with_reducible apply keepsO_next | with_reducible apply keeps_foldl |
                  split | simp only [keeps_mk_iff])

theorem execMatrixPass_keeps {r s : State} (h : Keeps r s) (core : Nat) :
    KeepsO r (execMatrixPass core s) := by
  unfold execMatrixPass
  try dsimp only
  repeat' (first | with_reducible assumption | intro _ | with_reducible apply State.applyQuarter_keeps |
                  with_reducible apply State.modCore_keeps | with_reducible apply keepsO_next |
                  with_reducible apply keeps_foldl | split | simp only [keeps_mk_iff])

theorem execMatrixPerform_keeps {r s : State} (h : Keeps r s) (w : Nat) :
    KeepsO r (execMatrixPerform w s) := by
  unfold execMatrixPerform
  try dsimp only
  repeat' (first | with_reducible assumption | intro _ | with_reducible apply State.performOther_keeps |
                  with_reducible apply keepsO_next | with_reducible apply keeps_foldl | split | simp only [keeps_mk_iff])

/-! ## Place -/

theorem State.settleWatch_keeps {r s : State} (h : Keeps r s) (w : Watch) (scratch : Nat) (xwin : Nat) :
    Keeps r (State.settleWatch s w scratch xwin) := by
  unfold State.settleWatch
  try dsimp only
  repeat' (first | with_reducible assumption | intro _ | with_reducible apply State.addWatch_keeps |
                  with_reducible apply State.takeLayout_keeps | with_reducible apply keepsO_next |
                  with_reducible apply keeps_foldl | split | simp only [keeps_mk_iff])

/-! ## MemEvents -/

theorem State.onWatch_keeps {r s : State} (h : Keeps r s) (w : Nat) (k : Watch → State)
    (hk : ∀ (a0 : Watch), Keeps r (k a0)) :
    Keeps r (State.onWatch s w k) := by
  unfold State.onWatch
  try dsimp only
  repeat' (first | with_reducible assumption | intro _ | with_reducible apply hk | with_reducible apply keepsO_next |
                  with_reducible apply keeps_foldl | split | simp only [keeps_mk_iff])

theorem State.onOp_keeps {r s : State} (h : Keeps r s) (w : Nat) (op : Nat) (k : Watch → Op → State)
    (hk : ∀ (a0 : Watch) (a1 : Op), Keeps r (k a0 a1)) :
    Keeps r (State.onOp s w op k) := by
  unfold State.onOp
  try dsimp only
  repeat' (first | with_reducible assumption | intro _ | with_reducible apply hk | with_reducible apply State.onWatch_keeps |
                  with_reducible apply keepsO_next | with_reducible apply keeps_foldl | split | simp only [keeps_mk_iff])

theorem State.shutTrap_keeps {r s : State} (h : Keeps r s) (w : Nat) (o : Op) (a : Acc) :
    Keeps r (State.shutTrap s w o a) := by
  unfold State.shutTrap
  try dsimp only
  repeat' (first | with_reducible assumption | intro _ | with_reducible apply State.asyncTrap_keeps |
                  with_reducible apply State.modWatch_keeps | with_reducible apply keepsO_next |
                  with_reducible apply keeps_foldl | split | simp only [keeps_mk_iff])

theorem execLoadSectorReturn_keeps {r s : State} (h : Keeps r s) (w : Nat) (op : Nat) (k : Nat) :
    KeepsO r (execLoadSectorReturn w op k s) := by
  unfold execLoadSectorReturn
  try dsimp only
  repeat' (first | with_reducible assumption | intro _ | with_reducible apply State.completeOp_keeps |
                  with_reducible apply State.onOp_keeps | with_reducible apply State.returnAcc_keeps |
                  with_reducible apply State.shutTrap_keeps | with_reducible apply keepsO_next |
                  with_reducible apply keeps_foldl | split | simp only [keeps_mk_iff])

theorem State.storeBytes_keeps {r s : State} (h : Keeps r s) (w : Nat) (e : StoreEnt) (key : Nat) :
    Keeps r (State.storeBytes s w e key) := by
  unfold State.storeBytes
  try dsimp only
  repeat' (first | with_reducible assumption | intro _ | with_reducible apply State.performWrite_keeps |
                  with_reducible apply keepsO_next | with_reducible apply keeps_foldl | split | simp only [keeps_mk_iff])

theorem execStorePerform_keeps {r s : State} (h : Keeps r s) (w : Nat) :
    KeepsO r (execStorePerform w s) := by
  unfold execStorePerform
  try dsimp only
  repeat' (first | with_reducible assumption | intro _ | with_reducible apply State.completeOp_keeps |
                  with_reducible apply State.modWatch_keeps | with_reducible apply State.onWatch_keeps |
                  with_reducible apply State.shutTrap_keeps | with_reducible apply State.storeBytes_keeps |
                  with_reducible apply keepsO_next | with_reducible apply keeps_foldl | split | simp only [keeps_mk_iff])

theorem execHostStoreAcknowledgement_keeps {r s : State} (h : Keeps r s) (w : Nat) (op : Nat) :
    KeepsO r (execHostStoreAcknowledgement w op s) := by
  unfold execHostStoreAcknowledgement
  try dsimp only
  repeat' (first | with_reducible assumption | intro _ | with_reducible apply State.writeN_keeps |
                  with_reducible apply keepsO_next | with_reducible apply keeps_foldl | split | simp only [keeps_mk_iff])

theorem execAtomicPerform_keeps {r s : State} (h : Keeps r s) (w : Nat) (op : Nat) :
    KeepsO r (execAtomicPerform w op s) := by
  unfold execAtomicPerform
  try dsimp only
  repeat' (first | with_reducible assumption | intro _ | with_reducible apply State.atomStep_keeps |
                  with_reducible apply State.onWatch_keeps | with_reducible apply keepsO_next |
                  with_reducible apply keeps_foldl | split | simp only [keeps_mk_iff])

theorem execDirectoryInsertAck_keeps {r s : State} (h : Keeps r s) (w : Nat) (op : Nat) :
    KeepsO r (execDirectoryInsertAck w op s) := by
  unfold execDirectoryInsertAck
  try dsimp only
  repeat' (first | with_reducible assumption | intro _ | with_reducible apply State.completeOp_keeps |
                  with_reducible apply State.modWatch_keeps | with_reducible apply State.onOp_keeps |
                  with_reducible apply keepsO_next | with_reducible apply keeps_foldl | split | simp only [keeps_mk_iff])

theorem State.fatomApply_keeps {r s : State} (h : Keeps r s) (pcn : Nat) (c : Contrib) :
    Keeps r (State.fatomApply s pcn c) := by
  unfold State.fatomApply
  try dsimp only
  repeat' (first | with_reducible assumption | intro _ | with_reducible apply State.modColumn_keeps |
                  with_reducible apply State.writeN_keeps | with_reducible apply keepsO_next |
                  with_reducible apply keeps_foldl | split | simp only [keeps_mk_iff])

theorem execFatomArrive_keeps {r s : State} (h : Keeps r s) (w : Nat) (op : Nat) :
    KeepsO r (execFatomArrive w op s) := by
  unfold execFatomArrive
  try dsimp only
  repeat' (first | with_reducible assumption | intro _ | with_reducible apply State.completeOp_keeps |
                  with_reducible apply State.escalate_keeps | with_reducible apply State.fatom_keeps |
                  with_reducible apply State.fatomApply_keeps | with_reducible apply State.modColumn_keeps |
                  with_reducible apply State.modWatch_keeps | with_reducible apply State.onOp_keeps |
                  with_reducible apply State.tick_keeps | with_reducible apply keepsO_next | with_reducible apply keeps_foldl |
                  split | simp only [keeps_mk_iff])

theorem execFatomApply_keeps {r s : State} (h : Keeps r s) (pcn : Nat) (k : Nat) :
    KeepsO r (execFatomApply pcn k s) := by
  unfold execFatomApply
  try dsimp only
  repeat' (first | with_reducible assumption | intro _ | with_reducible apply State.fatom_keeps |
                  with_reducible apply State.fatomApply_keeps | with_reducible apply State.modColumn_keeps |
                  with_reducible apply keepsO_next | with_reducible apply keeps_foldl | split | simp only [keeps_mk_iff])

theorem execAcpyWrite_keeps {r s : State} (h : Keeps r s) (w : Nat) (op : Nat) (k : Nat) :
    KeepsO r (execAcpyWrite w op k s) := by
  unfold execAcpyWrite
  try dsimp only
  repeat' (first | with_reducible assumption | intro _ | with_reducible apply State.completeOp_keeps |
                  with_reducible apply State.modWatch_keeps | with_reducible apply State.onOp_keeps |
                  with_reducible apply State.shutTrap_keeps | with_reducible apply State.writeBytes_keeps |
                  with_reducible apply keepsO_next | with_reducible apply keeps_foldl | split | simp only [keeps_mk_iff])

theorem execXstWrite_keeps {r s : State} (h : Keeps r s) (w : Nat) (op : Nat) (k : Nat) :
    KeepsO r (execXstWrite w op k s) := by
  unfold execXstWrite
  try dsimp only
  repeat' (first | with_reducible assumption | intro _ | with_reducible apply State.completeOp_keeps |
                  with_reducible apply State.modWatch_keeps | with_reducible apply State.onOp_keeps |
                  with_reducible apply State.writeN_keeps | with_reducible apply keepsO_next |
                  with_reducible apply keeps_foldl | split | simp only [keeps_mk_iff])

theorem execStreamFetch_keeps {r s : State} (h : Keeps r s) (w : Nat) (qn : Nat) (l : Nat) :
    KeepsO r (execStreamFetch w qn l s) := by
  unfold execStreamFetch
  try dsimp only
  repeat' (first | with_reducible assumption | intro _ | with_reducible apply State.modWatch_keeps |
                  with_reducible apply State.onWatch_keeps | with_reducible apply State.pageFault_keeps |
                  with_reducible apply keepsO_next | with_reducible apply keeps_foldl | split | simp only [keeps_mk_iff])

theorem execPairTrailerPlace_keeps {r s : State} (h : Keeps r s) (w : Nat) :
    KeepsO r (execPairTrailerPlace w s) := by
  unfold execPairTrailerPlace
  try dsimp only
  repeat' (first | with_reducible assumption | intro _ | with_reducible apply State.modWatch_keeps |
                  with_reducible apply State.onWatch_keeps | with_reducible apply State.settleWatch_keeps |
                  with_reducible apply keepsO_next | with_reducible apply keeps_foldl | split | simp only [keeps_mk_iff])

theorem State.commitAtom_keeps {r s : State} (h : Keeps r s) (l : Nat) (t : Nat) (e : PairEnt) (f : PairEnt) :
    Keeps r (State.commitAtom s l t e f) := by
  unfold State.commitAtom
  try dsimp only
  repeat' (first | with_reducible assumption | intro _ | with_reducible apply State.atomStep_keeps |
                  with_reducible apply State.bump_keeps | with_reducible apply State.completeOp_keeps |
                  with_reducible apply State.modWatch_keeps | with_reducible apply keepsO_next |
                  with_reducible apply keeps_foldl | split | simp only [keeps_mk_iff])

theorem execPairCompare_keeps {r s : State} (h : Keeps r s) (w : Nat) :
    KeepsO r (execPairCompare w s) := by
  unfold execPairCompare
  try dsimp only
  repeat' (first | with_reducible assumption | intro _ | with_reducible apply State.commitAtom_keeps |
                  with_reducible apply State.mismatch_keeps | with_reducible apply State.modWatch_keeps |
                  with_reducible apply State.onWatch_keeps | with_reducible apply keepsO_next |
                  with_reducible apply keeps_foldl | split | simp only [keeps_mk_iff])

theorem State.reportMask_keeps {r s : State} (h : Keeps r s) (x : Watch) :
    Keeps r (State.reportMask s x) := by
  unfold State.reportMask
  try dsimp only
  repeat' (first | with_reducible assumption | intro _ | with_reducible apply State.writeN_keeps |
                  with_reducible apply keepsO_next | with_reducible apply keeps_foldl | split | simp only [keeps_mk_iff])

theorem State.reportBlock_keeps {r s : State} (h : Keeps r s) (x : Watch) :
    Keeps r (State.reportBlock s x) := by
  unfold State.reportBlock
  try dsimp only
  repeat' (first | with_reducible assumption | intro _ | with_reducible apply State.writeN_keeps |
                  with_reducible apply keepsO_next | with_reducible apply keeps_foldl | split | simp only [keeps_mk_iff])

theorem execWatchRelease_keeps {r s : State} (h : Keeps r s) (w : Nat) :
    KeepsO r (execWatchRelease w s) := by
  unfold execWatchRelease
  try dsimp only
  repeat' (first | with_reducible assumption | intro _ | with_reducible apply State.modCtx_keeps |
                  with_reducible apply State.onWatch_keeps | with_reducible apply State.reportBlock_keeps |
                  with_reducible apply State.reportMask_keeps | with_reducible apply State.sendCrew_keeps |
                  with_reducible apply keepsO_next | with_reducible apply keeps_foldl | split | simp only [keeps_mk_iff])

/-! ## Issue -/

theorem State.ageing_keeps {r s : State} (h : Keeps r s) (core : Nat) :
    Keeps r (State.ageing s core) := by
  unfold State.ageing
  try dsimp only
  repeat' (first | with_reducible assumption | intro _ | with_reducible apply keepsO_next | with_reducible apply keeps_foldl |
                  split | simp only [keeps_mk_iff])

theorem State.lxTrap_keeps {r s : State} (h : Keeps r s) (n : Nat) (e : LqEntry) (t : TrapInfo) :
    Keeps r (State.lxTrap s n e t) := by
  unfold State.lxTrap
  try dsimp only
  repeat' (first | with_reducible assumption | intro _ | with_reducible apply State.asWatch_keeps |
                  with_reducible apply State.putWatch_keeps | with_reducible apply State.trap_keeps |
                  with_reducible apply State.unhold_keeps | with_reducible apply keepsO_next |
                  with_reducible apply keeps_foldl | split | simp only [keeps_mk_iff])

theorem State.failHead_keeps {r s : State} (h : Keeps r s) (n : Nat) (w : Watch) :
    Keeps r (State.failHead s n w) := by
  unfold State.failHead
  try dsimp only
  repeat' (first | with_reducible assumption | intro _ | with_reducible apply State.lxTrap_keeps |
                  with_reducible apply keepsO_next | with_reducible apply keeps_foldl | split | simp only [keeps_mk_iff])

theorem State.drawn_keeps {r s : State} (h : Keeps r s) (n : Nat) :
    Keeps r (State.drawn s n) := by
  exact h.trans ⟨id, le_rfl, le_rfl, Nat.le_add_right _ _, le_rfl⟩

theorem State.checkAmax_keeps {r s : State} (h : Keeps r s) (w : Nat) (id : Nat) :
    Keeps r (State.checkAmax s w id) := by
  unfold State.checkAmax
  try dsimp only
  repeat' (first | with_reducible assumption | intro _ | with_reducible apply State.modWatch_keeps |
                  with_reducible apply State.onOp_keeps | with_reducible apply keepsO_next | with_reducible apply keeps_foldl |
                  split | simp only [keeps_mk_iff])

theorem State.placeAmax_keeps {r s : State} (h : Keeps r s) (w : Nat) (id : Nat) :
    Keeps r (State.placeAmax s w id) := by
  unfold State.placeAmax
  try dsimp only
  repeat' (first | with_reducible assumption | intro _ | with_reducible apply State.asyncTrap_keeps |
                  with_reducible apply State.modWatch_keeps | with_reducible apply State.onOp_keeps |
                  with_reducible apply State.pageFault_keeps | with_reducible apply keepsO_next |
                  with_reducible apply keeps_foldl | split | simp only [keeps_mk_iff])

theorem State.issueAmax_keeps {r s : State} (h : Keeps r s) (w : Nat) (first : Nat) :
    Keeps r (State.issueAmax s w first) := by
  unfold State.issueAmax
  try dsimp only
  repeat' (first | with_reducible assumption | intro _ | with_reducible apply State.checkAmax_keeps |
                  with_reducible apply State.placeAmax_keeps | with_reducible apply keepsO_next |
                  with_reducible apply keeps_foldl | split | simp only [keeps_mk_iff])

theorem execLaneIssue_keeps {r s : State} (h : Keeps r s) (core : Nat) :
    KeepsO r (execLaneIssue core s) := by
  unfold execLaneIssue
  try dsimp only
  repeat' (first | with_reducible assumption | intro _ | with_reducible apply State.ageing_keeps |
                  with_reducible apply State.drawn_keeps | with_reducible apply State.failHead_keeps |
                  with_reducible apply State.modCore_keeps | with_reducible apply State.putWatch_keeps |
                  with_reducible apply State.tick_keeps | with_reducible apply keepsO_next | with_reducible apply keeps_foldl |
                  split | simp only [keeps_mk_iff])

/-! ## Copy -/

theorem State.withObject_keeps {r s : State} (h : Keeps r s) (nb : Bool) (b : Reg) (k : Option Nat → State)
    (hk : ∀ (a0 : Option Nat), Keeps r (k a0)) :
    Keeps r (State.withObject s nb b k) := by
  unfold State.withObject
  try dsimp only
  repeat' (first | with_reducible assumption | intro _ | with_reducible apply hk | with_reducible apply State.trap_keeps |
                  with_reducible apply keepsO_next | with_reducible apply keeps_foldl | split | simp only [keeps_mk_iff])

theorem State.issueCmd_keeps {r s : State} (h : Keeps r s) (i : Instr) (r_ : Ord) (sc : Scope) (c : Cmd) (d : Nat) :
    Keeps r (State.issueCmd s i r_ sc c d) := by
  unfold State.issueCmd
  try dsimp only
  repeat' (first | with_reducible assumption | intro _ | with_reducible apply State.addOp_keeps |
                  with_reducible apply State.finish_keeps | with_reducible apply keepsO_next |
                  with_reducible apply keeps_foldl | split | simp only [keeps_mk_iff])

theorem State.accepted_keeps {r s : State} (h : Keeps r s) (w : Nat) (op : Nat) :
    Keeps r (State.accepted s w op) := by
  unfold State.accepted
  try dsimp only
  repeat' (first | with_reducible assumption | intro _ | with_reducible apply State.bump_keeps |
                  with_reducible apply State.modWatch_keeps | with_reducible apply keepsO_next |
                  with_reducible apply keeps_foldl | split | simp only [keeps_mk_iff])

theorem State.onCmd_keeps {r s : State} (h : Keeps r s) (maj : Nat) (w : Nat) (op : Nat) (k : Watch → Op → State)
    (hk : ∀ (a0 : Watch) (a1 : Op), Keeps r (k a0 a1)) :
    Keeps r (State.onCmd s maj w op k) := by
  unfold State.onCmd
  try dsimp only
  repeat' (first | with_reducible assumption | intro _ | with_reducible apply hk | with_reducible apply State.onOp_keeps |
                  with_reducible apply keepsO_next | with_reducible apply keeps_foldl | split | simp only [keeps_mk_iff])

theorem State.takeLocks_keeps {r s : State} (h : Keeps r s) (l : List (Nat × Lock)) :
    Keeps r (State.takeLocks s l) := by
  unfold State.takeLocks
  try dsimp only
  repeat' (first | with_reducible assumption | intro _ | with_reducible apply State.modColumn_keeps |
                  with_reducible apply keepsO_next | with_reducible apply keeps_foldl | split | simp only [keeps_mk_iff])

theorem State.freeLocks_keeps {r s : State} (h : Keeps r s) (owner : Nat) :
    Keeps r (State.freeLocks s owner) := by
  unfold State.freeLocks
  try dsimp only
  repeat' (first | with_reducible assumption | intro _ | with_reducible apply keepsO_next | with_reducible apply keeps_foldl |
                  split | simp only [keeps_mk_iff])

theorem State.ripen_keeps {r s : State} (h : Keeps r s) :
    Keeps r (State.ripen s) := by
  unfold State.ripen
  try dsimp only
  repeat' (first | with_reducible assumption | intro _ | with_reducible apply keepsO_next | with_reducible apply keeps_foldl |
                  split | simp only [keeps_mk_iff])

theorem State.register_keeps {r s : State} (h : Keeps r s) (l : List (Nat × Lock)) :
    Keeps r (State.register s l) := by
  unfold State.register
  try dsimp only
  repeat' (first | with_reducible assumption | intro _ | with_reducible apply State.ripen_keeps |
                  with_reducible apply State.takeLocks_keeps | with_reducible apply keepsO_next |
                  with_reducible apply keeps_foldl | split | simp only [keeps_mk_iff])

theorem State.unregister_keeps {r s : State} (h : Keeps r s) (owner : Nat) :
    Keeps r (State.unregister s owner) := by
  unfold State.unregister
  try dsimp only
  repeat' (first | with_reducible assumption | intro _ | with_reducible apply State.freeLocks_keeps |
                  with_reducible apply State.ripen_keeps | with_reducible apply keepsO_next |
                  with_reducible apply keeps_foldl | split | simp only [keeps_mk_iff])

theorem execTcopy_keeps {r s : State} (h : Keeps r s) (a : Reg) (b : Reg) (nb : Bool) (sc : Scope) :
    KeepsO r (execTcopy a b nb sc s) := by
  unfold execTcopy
  try dsimp only
  repeat' (first | with_reducible assumption | intro _ | with_reducible apply State.access_keeps |
                  with_reducible apply State.issueCmd_keeps | with_reducible apply State.reading_keeps |
                  with_reducible apply State.trap_keeps | with_reducible apply State.unpaired_keeps |
                  with_reducible apply State.withObject_keeps | with_reducible apply keepsO_next |
                  with_reducible apply keeps_foldl | split | simp only [keeps_mk_iff])

theorem execTcopyAccept_keeps {r s : State} (h : Keeps r s) (w : Nat) (op : Nat) :
    KeepsO r (execTcopyAccept w op s) := by
  unfold execTcopyAccept
  try dsimp only
  repeat' (first | with_reducible assumption | intro _ | with_reducible apply State.accepted_keeps |
                  with_reducible apply State.modCore_keeps | with_reducible apply State.onCmd_keeps |
                  with_reducible apply State.register_keeps | with_reducible apply keepsO_next |
                  with_reducible apply keeps_foldl | split | simp only [keeps_mk_iff])

theorem State.applyMove_keeps {r s : State} (h : Keeps r s) (j : Job) (s_ : State) (m : Move)
    (hs_ : Keeps r s_) :
    Keeps r (State.applyMove s j s_ m) := by
  unfold State.applyMove
  try dsimp only
  repeat' (first | with_reducible assumption | intro _ | with_reducible apply State.colWrite_keeps |
                  with_reducible apply keepsO_next | with_reducible apply keeps_foldl | split | simp only [keeps_mk_iff])

theorem State.modCopy_keeps {r s : State} (h : Keeps r s) (core : Nat) (id : Nat) (f : Job → Job) :
    Keeps r (State.modCopy s core id f) := by
  unfold State.modCopy
  try dsimp only
  repeat' (first | with_reducible assumption | intro _ | with_reducible apply State.modCore_keeps |
                  with_reducible apply keepsO_next | with_reducible apply keeps_foldl | split | simp only [keeps_mk_iff])

theorem State.engineMiss_keeps {r s : State} (h : Keeps r s) (j : Job) (p : Pl) (r_ : XRes) (hole : Nat) (xl : Nat) (fail : Nat
    → State)
    (hfail : ∀ (a0 : Nat), Keeps r (fail a0)) :
    Keeps r (State.engineMiss s j p r_ hole xl fail) := by
  unfold State.engineMiss
  try dsimp only
  repeat' (first | with_reducible assumption | intro _ | with_reducible apply hfail |
                  with_reducible apply State.addWait_keeps | with_reducible apply keepsO_next |
                  with_reducible apply keeps_foldl | split | simp only [keeps_mk_iff])

theorem execTcopySectorWrite_keeps {r s : State} (h : Keeps r s) (core : Nat) (k : Nat) :
    KeepsO r (execTcopySectorWrite core k s) := by
  unfold execTcopySectorWrite
  try dsimp only
  repeat' (first | with_reducible assumption | intro _ | with_reducible apply State.applyMove_keeps |
                  with_reducible apply State.engineMiss_keeps | with_reducible apply State.modCopy_keeps |
                  with_reducible apply keepsO_next | with_reducible apply keeps_foldl | split | simp only [keeps_mk_iff])

theorem execTcopyComplete_keeps {r s : State} (h : Keeps r s) (core : Nat) (k : Nat) :
    KeepsO r (execTcopyComplete core k s) := by
  unfold execTcopyComplete
  try dsimp only
  repeat' (first | with_reducible assumption | intro _ | with_reducible apply State.engineArrive_keeps |
                  with_reducible apply State.modCore_keeps | with_reducible apply State.unregister_keeps |
                  with_reducible apply State.writeN_keeps | with_reducible apply keepsO_next |
                  with_reducible apply keeps_foldl | split | simp only [keeps_mk_iff])

theorem execWload_keeps {r s : State} (h : Keeps r s) (wn : Bool) (a : Reg) (b : Reg) (dst : Byte) (n : I12) (nb : Bool) (sc :
    Scope) :
    KeepsO r (execWload wn a b dst n nb sc s) := by
  unfold execWload
  try dsimp only
  repeat' (first | with_reducible assumption | intro _ | with_reducible apply State.issueCmd_keeps |
                  with_reducible apply State.trap_keeps | with_reducible apply State.unpaired_keeps |
                  with_reducible apply State.withObject_keeps | with_reducible apply keepsO_next |
                  with_reducible apply keeps_foldl | split | simp only [keeps_mk_iff])

theorem execWloadAccept_keeps {r s : State} (h : Keeps r s) (w : Nat) (op : Nat) :
    KeepsO r (execWloadAccept w op s) := by
  unfold execWloadAccept
  try dsimp only
  repeat' (first | with_reducible assumption | intro _ | with_reducible apply State.accepted_keeps |
                  with_reducible apply State.modCore_keeps | with_reducible apply State.onCmd_keeps |
                  with_reducible apply State.register_keeps | with_reducible apply keepsO_next |
                  with_reducible apply keeps_foldl | split | simp only [keeps_mk_iff])

theorem execWloadSectorWrite_keeps {r s : State} (h : Keeps r s) (core : Nat) (k : Nat) :
    KeepsO r (execWloadSectorWrite core k s) := by
  unfold execWloadSectorWrite
  try dsimp only
  repeat' (first | with_reducible assumption | intro _ | with_reducible apply State.modCore_keeps |
                  with_reducible apply State.wloadSector_keeps | with_reducible apply keepsO_next |
                  with_reducible apply keeps_foldl | split | simp only [keeps_mk_iff])

theorem execWloadComplete_keeps {r s : State} (h : Keeps r s) (core : Nat) (k : Nat) :
    KeepsO r (execWloadComplete core k s) := by
  unfold execWloadComplete
  try dsimp only
  repeat' (first | with_reducible assumption | intro _ | with_reducible apply State.engineArrive_keeps |
                  with_reducible apply State.modCore_keeps | with_reducible apply State.unregister_keeps |
                  with_reducible apply keepsO_next | with_reducible apply keeps_foldl | split | simp only [keeps_mk_iff])

theorem State.setSlots_keeps {r s : State} (h : Keeps r s) (t : SlotTable) :
    Keeps r (State.setSlots s t) := by
  unfold State.setSlots
  try dsimp only
  repeat' (first | with_reducible assumption | intro _ | with_reducible apply State.modCore_keeps |
                  with_reducible apply keepsO_next | with_reducible apply keeps_foldl | split | simp only [keeps_mk_iff])

theorem execSlotLook_keeps {r s : State} (h : Keeps r s) (d : Reg) (a : Reg) :
    KeepsO r (execSlotLook d a s) := by
  unfold execSlotLook
  try dsimp only
  repeat' (first | with_reducible assumption | intro _ | with_reducible apply State.finish_keeps |
                  with_reducible apply State.setS_keeps | with_reducible apply State.setSlots_keeps |
                  with_reducible apply State.unpaired_keeps | with_reducible apply keepsO_next |
                  with_reducible apply keeps_foldl | split | simp only [keeps_mk_iff])

theorem execSlotVict_keeps {r s : State} (h : Keeps r s) (d : Reg) :
    KeepsO r (execSlotVict d s) := by
  unfold execSlotVict
  try dsimp only
  repeat' (first | with_reducible assumption | intro _ | with_reducible apply State.finish_keeps |
                  with_reducible apply State.setS_keeps | with_reducible apply State.unpaired_keeps |
                  with_reducible apply keepsO_next | with_reducible apply keeps_foldl | split | simp only [keeps_mk_iff])

theorem execSlotFill_keeps {r s : State} (h : Keeps r s) (d : Reg) (a : Reg) :
    KeepsO r (execSlotFill d a s) := by
  unfold execSlotFill
  try dsimp only
  repeat' (first | with_reducible assumption | intro _ | with_reducible apply State.finish_keeps |
                  with_reducible apply State.setS_keeps | with_reducible apply State.setSlots_keeps |
                  with_reducible apply State.unpaired_keeps | with_reducible apply keepsO_next |
                  with_reducible apply keeps_foldl | split | simp only [keeps_mk_iff])

theorem execSlotClr_keeps {r s : State} (h : Keeps r s) (d : Reg) (a : Reg) :
    KeepsO r (execSlotClr d a s) := by
  unfold execSlotClr
  try dsimp only
  repeat' (first | with_reducible assumption | intro _ | with_reducible apply State.finish_keeps |
                  with_reducible apply State.setS_keeps | with_reducible apply State.setSlots_keeps |
                  with_reducible apply State.unpaired_keeps | with_reducible apply keepsO_next |
                  with_reducible apply keeps_foldl | split | simp only [keeps_mk_iff])

/-! ## ClusterUnits -/

theorem execSolic_keeps {r s : State} (h : Keeps r s) (k : B2) (a : Reg) (b : Reg) (cr : Byte) (ro : B2) (cx : Bool) (sc :
    Scope) :
    KeepsO r (execSolic k a b cr ro cx sc s) := by
  unfold execSolic
  try dsimp only
  repeat' (first | with_reducible assumption | intro _ | with_reducible apply State.issueCmd_keeps |
                  with_reducible apply State.trap_keeps | with_reducible apply State.unpaired_keeps |
                  with_reducible apply State.withObject_keeps | with_reducible apply keepsO_next |
                  with_reducible apply keeps_foldl | split | simp only [keeps_mk_iff])

theorem execSolicAccept_keeps {r s : State} (h : Keeps r s) (w : Nat) (op : Nat) :
    KeepsO r (execSolicAccept w op s) := by
  unfold execSolicAccept
  try dsimp only
  repeat' (first | with_reducible assumption | intro _ | with_reducible apply State.accepted_keeps |
                  with_reducible apply State.modCtx_keeps | with_reducible apply State.onCmd_keeps |
                  with_reducible apply keepsO_next | with_reducible apply keeps_foldl | split | simp only [keeps_mk_iff])

theorem State.modCensus_keeps {r s : State} (h : Keeps r s) (ctx : Nat) (n : Nat) (f : Census → Census) :
    Keeps r (State.modCensus s ctx n f) := by
  unfold State.modCensus
  try dsimp only
  repeat' (first | with_reducible assumption | intro _ | with_reducible apply State.modCtx_keeps |
                  with_reducible apply keepsO_next | with_reducible apply keeps_foldl | split | simp only [keeps_mk_iff])

theorem State.onCensus_keeps {r s : State} (h : Keeps r s) (ctx : Nat) (n : Nat) (k : Census → State)
    (hk : ∀ (a0 : Census), Keeps r (k a0)) :
    Keeps r (State.onCensus s ctx n k) := by
  unfold State.onCensus
  try dsimp only
  repeat' (first | with_reducible assumption | intro _ | with_reducible apply hk | with_reducible apply keepsO_next |
                  with_reducible apply keeps_foldl | split | simp only [keeps_mk_iff])

theorem execDirectoryLookup_keeps {r s : State} (h : Keeps r s) (cx : Nat) (n : Nat) (core : Nat) :
    KeepsO r (execDirectoryLookup cx n core s) := by
  unfold execDirectoryLookup
  try dsimp only
  repeat' (first | with_reducible assumption | intro _ | with_reducible apply State.modCensus_keeps |
                  with_reducible apply State.onCensus_keeps | with_reducible apply keepsO_next |
                  with_reducible apply keeps_foldl | split | simp only [keeps_mk_iff])

theorem execResponderSpawn_keeps {r s : State} (h : Keeps r s) (cx : Nat) (n : Nat) (core : Nat) :
    KeepsO r (execResponderSpawn cx n core s) := by
  unfold execResponderSpawn
  try dsimp only
  repeat' (first | with_reducible assumption | intro _ | with_reducible apply State.modCensus_keeps |
                  with_reducible apply State.onCensus_keeps | with_reducible apply State.settleWatch_keeps |
                  with_reducible apply keepsO_next | with_reducible apply keeps_foldl | split | simp only [keeps_mk_iff])

theorem execCensusComplete_keeps {r s : State} (h : Keeps r s) (cx : Nat) (n : Nat) :
    KeepsO r (execCensusComplete cx n s) := by
  unfold execCensusComplete
  try dsimp only
  repeat' (first | with_reducible assumption | intro _ | with_reducible apply State.engineArrive_keeps |
                  with_reducible apply State.modCtx_keeps | with_reducible apply State.onCensus_keeps |
                  with_reducible apply State.writeN_keeps | with_reducible apply keepsO_next |
                  with_reducible apply keeps_foldl | split | simp only [keeps_mk_iff])

theorem execAuct_keeps {r s : State} (h : Keeps r s) (a : Reg) (b : Reg) (nb : Bool) (sc : Scope) :
    KeepsO r (execAuct a b nb sc s) := by
  unfold execAuct
  try dsimp only
  repeat' (first | with_reducible assumption | intro _ | with_reducible apply State.issueCmd_keeps |
                  with_reducible apply State.reading_keeps | with_reducible apply State.trap_keeps |
                  with_reducible apply State.unpaired_keeps | with_reducible apply State.withObject_keeps |
                  with_reducible apply keepsO_next | with_reducible apply keeps_foldl | split | simp only [keeps_mk_iff])

theorem execAuctAccept_keeps {r s : State} (h : Keeps r s) (w : Nat) (op : Nat) :
    KeepsO r (execAuctAccept w op s) := by
  unfold execAuctAccept
  try dsimp only
  repeat' (first | with_reducible assumption | intro _ | with_reducible apply State.accepted_keeps |
                  with_reducible apply State.modCluster_keeps | with_reducible apply State.onCmd_keeps |
                  with_reducible apply State.register_keeps | with_reducible apply keepsO_next |
                  with_reducible apply keeps_foldl | split | simp only [keeps_mk_iff])

theorem execAuctRun_keeps {r s : State} (h : Keeps r s) (cl : Nat) :
    KeepsO r (execAuctRun cl s) := by
  unfold execAuctRun
  try dsimp only
  repeat' (first | with_reducible assumption | intro _ | with_reducible apply State.modCluster_keeps |
                  with_reducible apply State.writeBytes_keeps | with_reducible apply keepsO_next |
                  with_reducible apply keeps_foldl | split | simp only [keeps_mk_iff])

theorem execAuctComplete_keeps {r s : State} (h : Keeps r s) (cl : Nat) :
    KeepsO r (execAuctComplete cl s) := by
  unfold execAuctComplete
  try dsimp only
  repeat' (first | with_reducible assumption | intro _ | with_reducible apply State.engineArrive_keeps |
                  with_reducible apply State.modCluster_keeps | with_reducible apply State.unregister_keeps |
                  with_reducible apply State.writeN_keeps | with_reducible apply keepsO_next |
                  with_reducible apply keeps_foldl | split | simp only [keeps_mk_iff])

end Sys2Proof.Machine
end

