-- ==== Sys2Proof/Laws/KeepDevice.lean ====
section
/-! SUPPORT. What `Keeps` says of a step, operation by
operation: the schedulers, the translation, the collectives and the package.
The lemma of an operation has its name and the ending _keeps (written by tools/gen_keep_files.py from the signatures). -/

set_option linter.unusedTactic false
set_option linter.unreachableTactic false
set_option linter.unusedSimpArgs false
set_option linter.unusedVariables false
set_option Elab.async false

namespace Sys2Proof.Machine

/-! ## Scheduler -/

theorem State.enqueue_keeps {r s : State} (h : Keeps r s) (g : Nat) (ctx : Nat) (patch : List Word) :
    Keeps r (State.enqueue s g ctx patch) := by
  unfold State.enqueue
  try dsimp only
  repeat' (first | with_reducible assumption | intro _ | with_reducible apply State.modDie_keeps |
                  with_reducible apply State.writeBytes_keeps | with_reducible apply State.writeN_keeps |
                  with_reducible apply keepsO_next | with_reducible apply keeps_foldl | split | simp only [keeps_mk_iff])

theorem State.trigger_keeps {r s : State} (h : Keeps r s) (a : Reg) (b : Reg) (g : I12) :
    Keeps r (State.trigger s a b g) := by
  unfold State.trigger
  try dsimp only
  repeat' (first | with_reducible assumption | intro _ | with_reducible apply State.andThen_keeps |
                  with_reducible apply State.issueCmd_keeps | with_reducible apply State.trap_keeps |
                  with_reducible apply keepsO_next | with_reducible apply keeps_foldl | split | simp only [keeps_mk_iff])

theorem execTrig_keeps {r s : State} (h : Keeps r s) (a : Reg) (b : Reg) (g : I12) :
    KeepsO r (execTrig a b g s) := by
  unfold execTrig
  try dsimp only
  repeat' (first | with_reducible assumption | intro _ | with_reducible apply State.trigger_keeps |
                  with_reducible apply State.unpaired_keeps | with_reducible apply keepsO_next |
                  with_reducible apply keeps_foldl | split | simp only [keeps_mk_iff])

theorem execTriggerAccept_keeps {r s : State} (h : Keeps r s) (w : Nat) (op : Nat) :
    KeepsO r (execTriggerAccept w op s) := by
  unfold execTriggerAccept
  try dsimp only
  repeat' (first | with_reducible assumption | intro _ | with_reducible apply State.accepted_keeps |
                  with_reducible apply State.enqueue_keeps | with_reducible apply State.onCmd_keeps |
                  with_reducible apply keepsO_next | with_reducible apply keeps_foldl | split | simp only [keeps_mk_iff])

theorem execRingEntryTake_keeps {r s : State} (h : Keeps r s) (die : Nat) (q : Nat) :
    KeepsO r (execRingEntryTake die q s) := by
  unfold execRingEntryTake
  try dsimp only
  repeat' (first | with_reducible assumption | intro _ | with_reducible apply State.enqueue_keeps |
                  with_reducible apply State.writeN_keeps | with_reducible apply keepsO_next |
                  with_reducible apply keeps_foldl | split | simp only [keeps_mk_iff])

theorem State.nodeState_keeps {r s : State} (h : Keeps r s) (l : Launch) (v : Nat) :
    Keeps r (State.nodeState s l v) := by
  unfold State.nodeState
  try dsimp only
  repeat' (first | with_reducible assumption | intro _ | with_reducible apply State.writeN_keeps |
                  with_reducible apply keepsO_next | with_reducible apply keeps_foldl | split | simp only [keeps_mk_iff])

theorem State.reloadWdog_keeps {r s : State} (h : Keeps r s) (cx : Nat) :
    Keeps r (State.reloadWdog s cx) := by
  unfold State.reloadWdog
  try dsimp only
  repeat' (first | with_reducible assumption | intro _ | with_reducible apply State.modCtx_keeps |
                  with_reducible apply keepsO_next | with_reducible apply keeps_foldl | split | simp only [keeps_mk_iff])

theorem State.release_keeps {r s : State} (h : Keeps r s) (die : Nat) (g : Nat) (i : Nat) (ready : State → State)
    (hready : ∀ (a0 : State), Keeps r a0 → Keeps r (ready a0)) :
    Keeps r (State.release s die g i ready) := by
  unfold State.release
  try dsimp only
  repeat' (first | with_reducible assumption | intro _ | with_reducible apply hready |
                  with_reducible apply State.writeN_keeps | with_reducible apply keepsO_next |
                  with_reducible apply keeps_foldl | split | simp only [keeps_mk_iff])

theorem State.makeReady_keeps {r s : State} (h : Keeps r s) (n die g i : Nat) : Keeps r (State.makeReady n s die g i) := by
  induction n generalizing s i with
  | zero => exact h
  | succ n ih =>
    unfold State.makeReady
    dsimp only
    split
    · exact keeps_foldl (State.nodeState_keeps (State.reloadWdog_keeps h _) _ _) fun t j k =>
        State.release_keeps k _ _ _ _ fun u hu => ih hu _
    · split
      · exact State.nodeState_keeps h _ _
      · with_reducible apply State.modDie_keeps
        with_reducible apply State.nodeState_keeps
        exact State.bump_keeps h

theorem State.applyPatches_keeps {r s : State} (h : Keeps r s) (die parea : Nat) (l : List Word) :
    Keeps r (s.applyPatches die parea l) := by
  match l with
  | [] => exact h
  | [_] => exact h
  | o :: v :: t => exact State.applyPatches_keeps (State.writeN_keeps h _ _ _) die parea t

theorem State.endRun_keeps {r s : State} (h : Keeps r s) (die : Nat) (g : Nat) :
    Keeps r (State.endRun s die g) := by
  unfold State.endRun
  try dsimp only
  repeat' (first | with_reducible assumption | intro _ | with_reducible apply State.modDie_keeps |
                  with_reducible apply State.postEvent_keeps | with_reducible apply State.writeN_keeps |
                  with_reducible apply keepsO_next | with_reducible apply keeps_foldl | split | simp only [keeps_mk_iff])

theorem execRunStart_keeps {r s : State} (h : Keeps r s) (die : Nat) :
    KeepsO r (execRunStart die s) := by
  unfold execRunStart
  try dsimp only
  repeat' (first | with_reducible assumption | intro _ | with_reducible apply State.applyPatches_keeps |
                  with_reducible apply State.endRun_keeps | with_reducible apply State.makeReady_keeps |
                  with_reducible apply State.modDie_keeps | with_reducible apply State.reloadWdog_keeps |
                  with_reducible apply State.writeN_keeps | with_reducible apply keepsO_next |
                  with_reducible apply keeps_foldl | split | simp only [keeps_mk_iff])

theorem State.unbind_keeps {r s : State} (h : Keeps r s) (ln : Nat) :
    Keeps r (State.unbind s ln) := by
  unfold State.unbind
  try dsimp only
  repeat' (first | with_reducible assumption | intro _ | with_reducible apply keepsO_next | with_reducible apply keeps_foldl |
                  split | simp only [keeps_mk_iff])

theorem State.unlist_keeps {r s : State} (h : Keeps r s) (ln : Nat) :
    Keeps r (State.unlist s ln) := by
  unfold State.unlist
  try dsimp only
  repeat' (first | with_reducible assumption | intro _ | with_reducible apply keepsO_next | with_reducible apply keeps_foldl |
                  split | simp only [keeps_mk_iff])

theorem State.failNode_keeps {r s : State} (h : Keeps r s) (ln : Nat) (code : Nat) (badIdx : Nat) :
    Keeps r (State.failNode s ln code badIdx) := by
  unfold State.failNode
  try dsimp only
  repeat' (first | with_reducible assumption | intro _ | with_reducible apply State.endRun_keeps |
                  with_reducible apply State.modDie_keeps | with_reducible apply State.modLaunch_keeps |
                  with_reducible apply State.unbind_keeps | with_reducible apply State.unlist_keeps |
                  with_reducible apply State.writeN_keeps | with_reducible apply keepsO_next |
                  with_reducible apply keeps_foldl | split | simp only [keeps_mk_iff])

theorem State.completeNode_keeps {r s : State} (h : Keeps r s) (ln : Nat) (l : Launch) :
    Keeps r (State.completeNode s ln l) := by
  unfold State.completeNode
  try dsimp only
  repeat' (first | with_reducible assumption | intro _ | with_reducible apply State.endRun_keeps |
                  with_reducible apply State.makeReady_keeps | with_reducible apply State.nodeState_keeps |
                  with_reducible apply State.release_keeps | with_reducible apply State.reloadWdog_keeps |
                  with_reducible apply State.unbind_keeps | with_reducible apply keepsO_next |
                  with_reducible apply keeps_foldl | split | simp only [keeps_mk_iff])

theorem State.setRecq_keeps {r s : State} (h : Keeps r s) (q : Nat) (r_ : RecQ) :
    Keeps r (State.setRecq s q r_) := by
  unfold State.setRecq
  try dsimp only
  repeat' (first | with_reducible assumption | intro _ | with_reducible apply State.modDie_keeps |
                  with_reducible apply keepsO_next | with_reducible apply keeps_foldl | split | simp only [keeps_mk_iff])

theorem State.startWatch_keeps {r s : State} (h : Keeps r s) (ln : Nat) (x : Watch) :
    Keeps r (State.startWatch s ln x) := by
  unfold State.startWatch
  try dsimp only
  repeat' (first | with_reducible assumption | intro _ | with_reducible apply State.settleWatch_keeps |
                  with_reducible apply keepsO_next | with_reducible apply keeps_foldl | split | simp only [keeps_mk_iff])

theorem State.prologue_keeps {r s : State} (h : Keeps r s) (l : Launch) (home : Nat) :
    Keeps r (State.prologue s l home) := by
  unfold State.prologue
  try dsimp only
  repeat' (first | with_reducible assumption | intro _ | with_reducible apply State.writeN_keeps |
                  with_reducible apply keepsO_next | with_reducible apply keeps_foldl | split | simp only [keeps_mk_iff])

theorem State.countRec_keeps {r s : State} (h : Keeps r s) (l : Launch) (off : Nat) :
    Keeps r (State.countRec s l off) := by
  unfold State.countRec
  try dsimp only
  repeat' (first | with_reducible assumption | intro _ | with_reducible apply State.writeN_keeps |
                  with_reducible apply keepsO_next | with_reducible apply keeps_foldl | split | simp only [keeps_mk_iff])

theorem State.append_keeps {r s : State} (h : Keeps r s) (q : Nat) (l : Launch) (v : Nat) :
    Keeps r (State.append s q l v) := by
  unfold State.append
  try dsimp only
  repeat' (first | with_reducible assumption | intro _ | with_reducible apply State.countRec_keeps |
                  with_reducible apply State.setRecq_keeps | with_reducible apply State.writeN_keeps |
                  with_reducible apply keepsO_next | with_reducible apply keeps_foldl | split | simp only [keeps_mk_iff])

theorem State.generate_keeps {r s : State} (h : Keeps r s) (ln : Nat) (recs : List Nat) (n : Nat) :
    Keeps r (s.generate ln recs n) := by
  induction n generalizing s with
  | zero => exact h
  | succ n ih =>
    unfold State.generate
    dsimp only
    split
    · exact h
    · exact ih (State.modLaunch_keeps (State.append_keeps h _ _ _) _ _)

theorem State.bindQueue_keeps {r s : State} (h : Keeps r s) (ln : Nat) :
    Keeps r (State.bindQueue s ln) := by
  unfold State.bindQueue
  try dsimp only
  repeat' (first | with_reducible assumption | intro _ | with_reducible apply State.generate_keeps |
                  with_reducible apply State.setRecq_keeps | with_reducible apply keepsO_next |
                  with_reducible apply keeps_foldl | split | simp only [keeps_mk_iff])

theorem State.placeBlocks_keeps {r s : State} (h : Keeps r s) (ln : Nat) (bs : List Nat) (ws : List Watch) :
    Keeps r (State.placeBlocks s ln bs ws) := by
  unfold State.placeBlocks
  try dsimp only
  repeat' (first | with_reducible assumption | intro _ | with_reducible apply State.bindQueue_keeps |
                  with_reducible apply State.modLaunch_keeps | with_reducible apply State.nodeState_keeps |
                  with_reducible apply State.prologue_keeps | with_reducible apply State.startWatch_keeps |
                  with_reducible apply State.unlist_keeps | with_reducible apply State.writeN_keeps |
                  with_reducible apply keepsO_next | with_reducible apply keeps_foldl | split | simp only [keeps_mk_iff])

theorem State.checkHead_keeps {r s : State} (h : Keeps r s) (die : Nat) : ∀ t, s.checkHead die = some t → Keeps r t := by
  intro t e
  unfold State.checkHead at e
  obtain ⟨ln, -, e⟩ := List.exists_of_findSome?_eq_some e
  dsimp only at e
  split at e
  · cases e
  · split at e
    · cases e
      exact State.failNode_keeps h _ _ _
    · split at e
      · cases e
        exact State.failNode_keeps h _ _ _
      · cases e
        exact State.modLaunch_keeps h _ _

theorem execBlockPlace_keeps {r s : State} (h : Keeps r s) (die : Nat) :
    KeepsO r (execBlockPlace die s) := by
  unfold execBlockPlace
  refine keepsO_next ?_
  split
  · rename_i e
    exact State.checkHead_keeps h _ _ e
  · repeat' (first | with_reducible assumption | with_reducible apply State.modDie_keeps |
      with_reducible apply State.placeBlocks_keeps | split)

theorem State.launchWait_keeps {r s : State} (h : Keeps r s) (ln : Nat) (ctx : Nat) (pcn : Nat) (off : Nat) :
    Keeps r (State.launchWait s ln ctx pcn off) := by
  unfold State.launchWait
  try dsimp only
  repeat' (first | with_reducible assumption | intro _ | with_reducible apply State.addWait_keeps |
                  with_reducible apply keepsO_next | with_reducible apply keeps_foldl | split | simp only [keeps_mk_iff])

theorem State.declineLaunch_keeps {r s : State} (h : Keeps r s) (ln : Nat) (pcn : Nat) :
    Keeps r (State.declineLaunch s ln pcn) := by
  unfold State.declineLaunch
  try dsimp only
  repeat' (first | with_reducible assumption | intro _ | with_reducible apply State.failNode_keeps |
                  with_reducible apply State.modCtx_keeps | with_reducible apply State.modLaunch_keeps |
                  with_reducible apply keepsO_next | with_reducible apply keeps_foldl | split | simp only [keeps_mk_iff])

theorem State.launchMiss_keeps {r s : State} (h : Keeps r s) (ln : Nat) (ctx : Nat) (m : Nat × Nat × XRes) (failed : State)
    (hfailed : Keeps r failed) :
    Keeps r (State.launchMiss s ln ctx m failed) := by
  unfold State.launchMiss
  try dsimp only
  repeat' (first | with_reducible assumption | intro _ | with_reducible apply State.launchWait_keeps |
                  with_reducible apply keepsO_next | with_reducible apply keeps_foldl | split | simp only [keeps_mk_iff])

theorem execGvecRead_keeps {r s : State} (h : Keeps r s) (die : Nat) (q : Nat) :
    KeepsO r (execGvecRead die q s) := by
  unfold execGvecRead
  try dsimp only
  repeat' (first | with_reducible assumption | intro _ | with_reducible apply State.completeNode_keeps |
                  with_reducible apply State.failNode_keeps | with_reducible apply State.launchMiss_keeps |
                  with_reducible apply State.modLaunch_keeps | with_reducible apply State.unlist_keeps |
                  with_reducible apply keepsO_next | with_reducible apply keeps_foldl | split | simp only [keeps_mk_iff])

theorem execParamWrite_keeps {r s : State} (h : Keeps r s) (ln : Nat) (core : Nat) :
    KeepsO r (execParamWrite ln core s) := by
  unfold execParamWrite
  try dsimp only
  repeat' (first | with_reducible assumption | intro _ | with_reducible apply State.colWrite_keeps |
                  with_reducible apply State.declineLaunch_keeps | with_reducible apply State.launchMiss_keeps |
                  with_reducible apply State.modLaunch_keeps | with_reducible apply keepsO_next |
                  with_reducible apply keeps_foldl | split | simp only [keeps_mk_iff])

theorem execNodeComplete_keeps {r s : State} (h : Keeps r s) (ln : Nat) :
    KeepsO r (execNodeComplete ln s) := by
  unfold execNodeComplete
  try dsimp only
  repeat' (first | with_reducible assumption | intro _ | with_reducible apply State.completeNode_keeps |
                  with_reducible apply keepsO_next | with_reducible apply keeps_foldl | split | simp only [keeps_mk_iff])

theorem execRecd_keeps {r s : State} (h : Keeps r s) (d : Reg) (a : Reg) (q : Reg) :
    KeepsO r (execRecd d a q s) := by
  unfold execRecd
  try dsimp only
  repeat' (first | with_reducible assumption | intro _ | with_reducible apply State.access_keeps |
                  with_reducible apply State.issueCmd_keeps | with_reducible apply State.reading_keeps |
                  with_reducible apply State.trap_keeps | with_reducible apply State.unpaired_keeps |
                  with_reducible apply keepsO_next | with_reducible apply keeps_foldl | split | simp only [keeps_mk_iff])

theorem execRecAnswer_keeps {r s : State} (h : Keeps r s) (w : Nat) (op : Nat) :
    KeepsO r (execRecAnswer w op s) := by
  unfold execRecAnswer
  try dsimp only
  repeat' (first | with_reducible assumption | intro _ | with_reducible apply State.append_keeps |
                  with_reducible apply State.modWatch_keeps | with_reducible apply State.onCmd_keeps |
                  with_reducible apply State.setS_keeps | with_reducible apply keepsO_next | with_reducible apply keeps_foldl |
                  split | simp only [keeps_mk_iff])

theorem State.deliver_keeps {r s : State} (h : Keeps r s) (ln : Nat) (l : Launch) (b : Nat) (v : Nat) :
    Keeps r (State.deliver s ln l b v) := by
  unfold State.deliver
  try dsimp only
  repeat' (first | with_reducible assumption | intro _ | with_reducible apply State.engineArrive_keeps |
                  with_reducible apply State.modLaunch_keeps | with_reducible apply State.writeN_keeps |
                  with_reducible apply keepsO_next | with_reducible apply keeps_foldl | split | simp only [keeps_mk_iff])

theorem State.takeRec_keeps {r s : State} (h : Keeps r s) (q : Nat) (ln : Nat) (l : Launch) (v : Nat) (dst : Option Nat) :
    Keeps r (State.takeRec s q ln l v dst) := by
  unfold State.takeRec
  try dsimp only
  repeat' (first | with_reducible assumption | intro _ | with_reducible apply State.countRec_keeps |
                  with_reducible apply State.generate_keeps | with_reducible apply State.modLaunch_keeps |
                  with_reducible apply State.setRecq_keeps | with_reducible apply keepsO_next |
                  with_reducible apply keeps_foldl | split | simp only [keeps_mk_iff])

theorem execRecordDeliver_keeps {r s : State} (h : Keeps r s) (rq : Nat) :
    KeepsO r (execRecordDeliver rq s) := by
  unfold execRecordDeliver
  try dsimp only
  repeat' (first | with_reducible assumption | intro _ | with_reducible apply State.deliver_keeps |
                  with_reducible apply State.takeRec_keeps | with_reducible apply keepsO_next |
                  with_reducible apply keeps_foldl | split | simp only [keeps_mk_iff])

theorem execClosingRecordDeliver_keeps {r s : State} (h : Keeps r s) (rq : Nat) (blk : Nat) :
    KeepsO r (execClosingRecordDeliver rq blk s) := by
  unfold execClosingRecordDeliver
  try dsimp only
  repeat' (first | with_reducible assumption | intro _ | with_reducible apply State.deliver_keeps |
                  with_reducible apply State.modLaunch_keeps | with_reducible apply keepsO_next |
                  with_reducible apply keeps_foldl | split | simp only [keeps_mk_iff])

/-! ## Translation -/

theorem State.nextMsg_keeps {r s : State} (h : Keeps r s) (cx : Nat) (k : State → CrewMsg → State)
    (hk : ∀ (a0 : State) (a1 : CrewMsg), Keeps r a0 → Keeps r (k a0 a1)) :
    Keeps r (State.nextMsg s cx k) := by
  unfold State.nextMsg
  try dsimp only
  repeat' (first | with_reducible assumption | intro _ | with_reducible apply hk | with_reducible apply State.modCtx_keeps |
                  with_reducible apply keepsO_next | with_reducible apply keeps_foldl | split | simp only [keeps_mk_iff])

theorem execCrewControllerArrival_keeps {r s : State} (h : Keeps r s) (cx : Nat) :
    KeepsO r (execCrewControllerArrival cx s) := by
  unfold execCrewControllerArrival
  try dsimp only
  repeat' (first | with_reducible assumption | intro _ | with_reducible apply State.arrive_keeps |
                  with_reducible apply State.nextMsg_keeps | with_reducible apply keepsO_next |
                  with_reducible apply keeps_foldl | split | simp only [keeps_mk_iff])

theorem execCrewDeparture_keeps {r s : State} (h : Keeps r s) (cx : Nat) :
    KeepsO r (execCrewDeparture cx s) := by
  unfold execCrewDeparture
  try dsimp only
  repeat' (first | with_reducible assumption | intro _ | with_reducible apply State.arrive_keeps |
                  with_reducible apply State.nextMsg_keeps | with_reducible apply State.processDepart_keeps |
                  with_reducible apply keepsO_next | with_reducible apply keeps_foldl | split | simp only [keeps_mk_iff])

theorem State.makeHole_keeps {r s : State} (h : Keeps r s) (cx : Nat) (pcn : Nat) :
    Keeps r (State.makeHole s cx pcn) := by
  unfold State.makeHole
  try dsimp only
  repeat' (first | with_reducible assumption | intro _ | with_reducible apply State.contextRung_keeps |
                  with_reducible apply State.killWatch_keeps | with_reducible apply State.modCtx_keeps |
                  with_reducible apply keepsO_next | with_reducible apply keeps_foldl | split | simp only [keeps_mk_iff])

theorem State.retireColumn_keeps {r s : State} (h : Keeps r s) (pcn : Nat) :
    Keeps r (State.retireColumn s pcn) := by
  unfold State.retireColumn
  split
  · exact h
  · refine keeps_foldl (State.modColumn_keeps ?_ _ _) fun t a g => State.makeHole_keeps g _ _
    exact h.trans ⟨fun w => Memory.wf_filter _ w, le_rfl, le_rfl, le_rfl, Nat.le_succ _⟩

theorem execColumnRetire_keeps {r s : State} (h : Keeps r s) (pcn : Nat) :
    KeepsO r (execColumnRetire pcn s) := by
  unfold execColumnRetire
  try dsimp only
  repeat' (first | with_reducible assumption | intro _ | with_reducible apply State.retireColumn_keeps |
                  with_reducible apply keepsO_next | with_reducible apply keeps_foldl | split | simp only [keeps_mk_iff])

theorem State.countError_keeps {r s : State} (h : Keeps r s) (c : Ctl) (uncor : Bool) :
    Keeps r (State.countError s c uncor) := by
  unfold State.countError
  try dsimp only
  repeat' (first | with_reducible assumption | intro _ | with_reducible apply keepsO_next | with_reducible apply keeps_foldl |
                  split | simp only [keeps_mk_iff])

theorem State.errorInterrupt_keeps {r s : State} (h : Keeps r s) (c : Ctl) (die : Nat) (pcn : Nat) (addr : Word) :
    Keeps r (State.errorInterrupt s c die pcn addr) := by
  unfold State.errorInterrupt
  try dsimp only
  repeat' (first | with_reducible assumption | intro _ | with_reducible apply State.countError_keeps |
                  with_reducible apply State.enlog_keeps | with_reducible apply State.postEvent_keeps |
                  with_reducible apply keepsO_next | with_reducible apply keeps_foldl | split | simp only [keeps_mk_iff])

theorem State.retireDue_keeps {r s : State} (h : Keeps r s) (pcn : Nat) :
    Keeps r (State.retireDue s pcn) := by
  unfold State.retireDue
  try dsimp only
  repeat' (first | with_reducible assumption | intro _ | with_reducible apply State.retireColumn_keeps |
                  with_reducible apply keepsO_next | with_reducible apply keeps_foldl | split | simp only [keeps_mk_iff])

theorem State.abortOp_keeps {r s : State} (h : Keeps r s) (w : Nat) (x : Watch) (o : Op) :
    Keeps r (State.abortOp s w x o) := by
  unfold State.abortOp
  try dsimp only
  repeat' (first | with_reducible assumption | intro _ | with_reducible apply State.asyncTrap_keeps |
                  with_reducible apply State.completeOp_keeps | with_reducible apply State.errorInterrupt_keeps |
                  with_reducible apply State.modWatch_keeps | with_reducible apply State.retireDue_keeps |
                  with_reducible apply keepsO_next | with_reducible apply keeps_foldl | split | simp only [keeps_mk_iff])

theorem State.modJob_keeps {r s : State} (h : Keeps r s) (kind : Nat) (at_ : Nat) (id : Nat) (f : Job → Job) :
    Keeps r (State.modJob s kind at_ id f) := by
  unfold State.modJob
  try dsimp only
  repeat' (first | with_reducible assumption | intro _ | with_reducible apply State.modCluster_keeps |
                  with_reducible apply State.modCore_keeps | with_reducible apply keepsO_next |
                  with_reducible apply keeps_foldl | split | simp only [keeps_mk_iff])

theorem State.matrixError_keeps {r s : State} (h : Keeps r s) (w : Nat) (x : Watch) (m : MatOp) :
    Keeps r (State.matrixError s w x m) := by
  unfold State.matrixError
  try dsimp only
  repeat' (first | with_reducible assumption | intro _ | with_reducible apply State.asyncTrap_keeps |
                  with_reducible apply State.modWatch_keeps | with_reducible apply keepsO_next |
                  with_reducible apply keeps_foldl | split | simp only [keeps_mk_iff])

theorem execUncorAbortCompletion_keeps {r s : State} (h : Keeps r s) (u : UncorAt) :
    KeepsO r (execUncorAbortCompletion u s) := by
  unfold execUncorAbortCompletion
  try dsimp only
  repeat' (first | with_reducible assumption | intro _ | with_reducible apply State.abortOp_keeps |
                  with_reducible apply State.asWatch_keeps | with_reducible apply State.countError_keeps |
                  with_reducible apply State.errorInterrupt_keeps | with_reducible apply State.failNode_keeps |
                  with_reducible apply State.matrixError_keeps | with_reducible apply State.modJob_keeps |
                  with_reducible apply State.modWatch_keeps | with_reducible apply State.onOp_keeps |
                  with_reducible apply State.onWatch_keeps | with_reducible apply State.retireDue_keeps |
                  with_reducible apply State.trap_keeps | with_reducible apply keepsO_next | with_reducible apply keeps_foldl |
                  split | simp only [keeps_mk_iff])

theorem State.fillTlb_keeps {r s : State} (h : Keeps r s) (pcn : Nat) (x : Xlat) :
    Keeps r (State.fillTlb s pcn x) := by
  unfold State.fillTlb
  try dsimp only
  repeat' (first | with_reducible assumption | intro _ | with_reducible apply State.modColumn_keeps |
                  with_reducible apply keepsO_next | with_reducible apply keeps_foldl | split | simp only [keeps_mk_iff])

theorem execPageWalkComplete_keeps {r s : State} (h : Keeps r s) (pcn : Nat) (cx : Nat) (off : Nat) :
    KeepsO r (execPageWalkComplete pcn cx off s) := by
  unfold execPageWalkComplete
  try dsimp only
  repeat' (first | with_reducible assumption | intro _ | with_reducible apply State.fillTlb_keeps |
                  with_reducible apply State.modCluster_keeps | with_reducible apply keepsO_next |
                  with_reducible apply keeps_foldl | split | simp only [keeps_mk_iff])

theorem execTlbLeaseExpire_keeps {r s : State} (h : Keeps r s) (pcn : Nat) (k : Nat) :
    KeepsO r (execTlbLeaseExpire pcn k s) := by
  unfold execTlbLeaseExpire
  try dsimp only
  repeat' (first | with_reducible assumption | intro _ | with_reducible apply State.modColumn_keeps |
                  with_reducible apply keepsO_next | with_reducible apply keeps_foldl | split | simp only [keeps_mk_iff])

theorem State.restartBlock_keeps {r s : State} (h : Keeps r s) (ln : Nat) (b : Nat) :
    Keeps r (State.restartBlock s ln b) := by
  unfold State.restartBlock
  try dsimp only
  repeat' (first | with_reducible assumption | intro _ | with_reducible apply State.modDie_keeps |
                  with_reducible apply State.modLaunch_keeps | with_reducible apply State.nodeState_keeps |
                  with_reducible apply keepsO_next | with_reducible apply keeps_foldl | split | simp only [keeps_mk_iff])

theorem State.servePages_keeps {r s : State} (h : Keeps r s) (cx : Nat) :
    Keeps r (State.servePages s cx) := by
  unfold State.servePages
  try dsimp only
  repeat' (first | with_reducible assumption | intro _ | with_reducible apply State.restartBlock_keeps |
                  with_reducible apply keepsO_next | with_reducible apply keeps_foldl | split | simp only [keeps_mk_iff])

theorem State.failJob_keeps {r s : State} (h : Keeps r s) (id : Nat) (code : Nat) (pcn : Nat) :
    Keeps r (State.failJob s id code pcn) := by
  unfold State.failJob
  try dsimp only
  repeat' (first | with_reducible assumption | intro _ | with_reducible apply keepsO_next | with_reducible apply keeps_foldl |
                  split | simp only [keeps_mk_iff])

theorem State.detailDeclined_keeps {r s : State} (h : Keeps r s) (cx : Nat) (q : Word) :
    Keeps r (State.detailDeclined s cx q) := by
  unfold State.detailDeclined
  try dsimp only
  repeat' (first | with_reducible assumption | intro _ | with_reducible apply State.writeN_keeps |
                  with_reducible apply keepsO_next | with_reducible apply keeps_foldl | split | simp only [keeps_mk_iff])

theorem State.declinePage_keeps {r s : State} (h : Keeps r s) (p : PageWait) :
    Keeps r (State.declinePage s p) := by
  unfold State.declinePage
  try dsimp only
  repeat' (first | with_reducible assumption | intro _ | with_reducible apply State.asWatch_keeps |
                  with_reducible apply State.asyncTrap_keeps | with_reducible apply State.declineLaunch_keeps |
                  with_reducible apply State.detailDeclined_keeps | with_reducible apply State.drain_keeps |
                  with_reducible apply State.failJob_keeps | with_reducible apply State.onWatch_keeps |
                  with_reducible apply State.trap_keeps | with_reducible apply keepsO_next | with_reducible apply keeps_foldl |
                  split | simp only [keeps_mk_iff])

theorem execMmpDecline_keeps {r s : State} (h : Keeps r s) (k : Nat) :
    KeepsO r (execMmpDecline k s) := by
  unfold execMmpDecline
  try dsimp only
  repeat' (first | with_reducible assumption | intro _ | with_reducible apply State.declinePage_keeps |
                  with_reducible apply keepsO_next | with_reducible apply keeps_foldl | split | simp only [keeps_mk_iff])

theorem execMmpUnmap_keeps {r s : State} (h : Keeps r s) (c : CtxCol) (off : Nat) (pte : Word) :
    KeepsO r (execMmpUnmap c off pte s) := by
  unfold execMmpUnmap
  try dsimp only
  repeat' (first | with_reducible assumption | intro _ | with_reducible apply State.modCluster_keeps |
                  with_reducible apply State.writeN_keeps | with_reducible apply keepsO_next |
                  with_reducible apply keeps_foldl | split | simp only [keeps_mk_iff])

theorem State.modUnmap_keeps {r s : State} (h : Keeps r s) (k : Nat) (f : Unmap → Unmap) :
    Keeps r (State.modUnmap s k f) := by
  unfold State.modUnmap
  try dsimp only
  repeat' (first | with_reducible assumption | intro _ | with_reducible apply keepsO_next | with_reducible apply keeps_foldl |
                  split | simp only [keeps_mk_iff])

theorem execDrainMarkAck_keeps {r s : State} (h : Keeps r s) (k : Nat) (cl : Nat) :
    KeepsO r (execDrainMarkAck k cl s) := by
  unfold execDrainMarkAck
  try dsimp only
  repeat' (first | with_reducible assumption | intro _ | with_reducible apply State.modUnmap_keeps |
                  with_reducible apply keepsO_next | with_reducible apply keeps_foldl | split | simp only [keeps_mk_iff])

theorem execUnmapwaitExpire_keeps {r s : State} (h : Keeps r s) (k : Nat) :
    KeepsO r (execUnmapwaitExpire k s) := by
  unfold execUnmapwaitExpire
  try dsimp only
  repeat' (first | with_reducible assumption | intro _ | with_reducible apply State.modUnmap_keeps |
                  with_reducible apply keepsO_next | with_reducible apply keeps_foldl | split | simp only [keeps_mk_iff])

theorem State.undrain_keeps {r s : State} (h : Keeps r s) (u : Unmap) :
    Keeps r (State.undrain s u) := by
  unfold State.undrain
  try dsimp only
  repeat' (first | with_reducible assumption | intro _ | with_reducible apply State.recheck_keeps |
                  with_reducible apply keepsO_next | with_reducible apply keeps_foldl | split | simp only [keeps_mk_iff])

theorem execDrainProbeAnswer_keeps {r s : State} (h : Keeps r s) (k : Nat) (pcn : Nat) :
    KeepsO r (execDrainProbeAnswer k pcn s) := by
  unfold execDrainProbeAnswer
  try dsimp only
  repeat' (first | with_reducible assumption | intro _ | with_reducible apply State.modUnmap_keeps |
                  with_reducible apply State.undrain_keeps | with_reducible apply keepsO_next |
                  with_reducible apply keeps_foldl | split | simp only [keeps_mk_iff])

theorem execPreemptSwitchRequest_keeps {r s : State} (h : Keeps r s) (core : Nat) :
    KeepsO r (execPreemptSwitchRequest core s) := by
  unfold execPreemptSwitchRequest
  try dsimp only
  repeat' (first | with_reducible assumption | intro _ | with_reducible apply State.requestSwitch_keeps |
                  with_reducible apply keepsO_next | with_reducible apply keeps_foldl | split | simp only [keeps_mk_iff])

theorem State.moveBank_keeps {r s : State} (h : Keeps r s) (cx : Nat) (core : Nat) (a : Bank) (b : Bank) :
    Keeps r (State.moveBank s cx core a b) := by
  unfold State.moveBank
  try dsimp only
  repeat' (first | with_reducible assumption | intro _ | with_reducible apply keepsO_next | with_reducible apply keeps_foldl |
                  split | simp only [keeps_mk_iff])

theorem State.resume_keeps {r s : State} (h : Keeps r s) (cx : Nat) (core : Nat) :
    Keeps r (State.resume s cx core) := by
  unfold State.resume
  try dsimp only
  repeat' (first | with_reducible assumption | intro _ | with_reducible apply State.modWatch_keeps |
                  with_reducible apply State.recheck_keeps | with_reducible apply keepsO_next |
                  with_reducible apply keeps_foldl | split | simp only [keeps_mk_iff])

theorem State.wanted_keeps {r s : State} (h : Keeps r s) (core : Nat) :
    Keeps r (State.wanted s core) := by
  unfold State.wanted
  try dsimp only
  repeat' (first | with_reducible assumption | intro _ | with_reducible apply State.beginSwitch_keeps |
                  with_reducible apply State.modCore_keeps | with_reducible apply keepsO_next |
                  with_reducible apply keeps_foldl | split | simp only [keeps_mk_iff])

theorem execSwitchComplete_keeps {r s : State} (h : Keeps r s) (core : Nat) :
    KeepsO r (execSwitchComplete core s) := by
  unfold execSwitchComplete
  try dsimp only
  repeat' (first | with_reducible assumption | intro _ | with_reducible apply State.modCore_keeps |
                  with_reducible apply State.modCtx_keeps | with_reducible apply State.moveBank_keeps |
                  with_reducible apply State.queuesOf_keeps | with_reducible apply State.reloadWdog_keeps |
                  with_reducible apply State.resume_keeps | with_reducible apply State.wanted_keeps |
                  with_reducible apply keepsO_next | with_reducible apply keeps_foldl | split | simp only [keeps_mk_iff])

theorem execFillStart_keeps {r s : State} (h : Keeps r s) (core : Nat) (cx : Nat) :
    KeepsO r (execFillStart core cx s) := by
  unfold execFillStart
  try dsimp only
  repeat' (first | with_reducible assumption | intro _ | with_reducible apply State.modCore_keeps |
                  with_reducible apply keepsO_next | with_reducible apply keeps_foldl | split | simp only [keeps_mk_iff])

theorem execFillDone_keeps {r s : State} (h : Keeps r s) (core : Nat) :
    KeepsO r (execFillDone core s) := by
  unfold execFillDone
  try dsimp only
  repeat' (first | with_reducible assumption | intro _ | with_reducible apply State.modCore_keeps |
                  with_reducible apply State.modCtx_keeps | with_reducible apply State.moveBank_keeps |
                  with_reducible apply State.wanted_keeps | with_reducible apply keepsO_next |
                  with_reducible apply keeps_foldl | split | simp only [keeps_mk_iff])

theorem State.saveTables_keeps {r s : State} (h : Keeps r s) (cx : Nat) (core : Nat) :
    Keeps r (State.saveTables s cx core) := by
  unfold State.saveTables
  try dsimp only
  repeat' (first | with_reducible assumption | intro _ | with_reducible apply State.writeN_keeps |
                  with_reducible apply keepsO_next | with_reducible apply keeps_foldl | split | simp only [keeps_mk_iff])

theorem execSpillDone_keeps {r s : State} (h : Keeps r s) (core : Nat) :
    KeepsO r (execSpillDone core s) := by
  unfold execSpillDone
  try dsimp only
  repeat' (first | with_reducible assumption | intro _ | with_reducible apply State.modCore_keeps |
                  with_reducible apply State.modCtx_keeps | with_reducible apply State.moveBank_keeps |
                  with_reducible apply State.queuesOf_keeps | with_reducible apply State.saveTables_keeps |
                  with_reducible apply State.settleOut_keeps | with_reducible apply State.wanted_keeps |
                  with_reducible apply keepsO_next | with_reducible apply keeps_foldl | split | simp only [keeps_mk_iff])

theorem execHandlerTimeout_keeps {r s : State} (h : Keeps r s) (w : Nat) :
    KeepsO r (execHandlerTimeout w s) := by
  unfold execHandlerTimeout
  try dsimp only
  repeat' (first | with_reducible assumption | intro _ | with_reducible apply State.onWatch_keeps |
                  with_reducible apply State.oneRungUp_keeps | with_reducible apply State.settleMatrix_keeps |
                  with_reducible apply keepsO_next | with_reducible apply keeps_foldl | split | simp only [keeps_mk_iff])

theorem execXtoTimeout_keeps {r s : State} (h : Keeps r s) (cx : Nat) (kill : List Nat) :
    KeepsO r (execXtoTimeout cx kill s) := by
  unfold execXtoTimeout
  try dsimp only
  repeat' (first | with_reducible assumption | intro _ | with_reducible apply State.partitionRung_keeps |
                  with_reducible apply keepsO_next | with_reducible apply keeps_foldl | split | simp only [keeps_mk_iff])

theorem execPartitionTimeout_keeps {r s : State} (h : Keeps r s) (p : Nat) :
    KeepsO r (execPartitionTimeout p s) := by
  unfold execPartitionTimeout
  try dsimp only
  repeat' (first | with_reducible assumption | intro _ | with_reducible apply State.deviceRung_keeps |
                  with_reducible apply keepsO_next | with_reducible apply keeps_foldl | split | simp only [keeps_mk_iff])

theorem execWatchdogExpire_keeps {r s : State} (h : Keeps r s) (x : Expiry) :
    KeepsO r (execWatchdogExpire x s) := by
  unfold execWatchdogExpire
  try dsimp only
  repeat' (first | with_reducible assumption | intro _ | with_reducible apply State.contextRung_keeps |
                  with_reducible apply State.modCtx_keeps | with_reducible apply State.partitionRung_keeps |
                  with_reducible apply keepsO_next | with_reducible apply keeps_foldl | split | simp only [keeps_mk_iff])

theorem execSpillstuck_keeps {r s : State} (h : Keeps r s) (core : Nat) :
    KeepsO r (execSpillstuck core s) := by
  unfold execSpillstuck
  try dsimp only
  repeat' (first | with_reducible assumption | intro _ | with_reducible apply State.deviceRung_keeps |
                  with_reducible apply keepsO_next | with_reducible apply keeps_foldl | split | simp only [keeps_mk_iff])

/-! ## Groups -/

theorem State.collDefine_keeps {r s : State} (h : Keeps r s) (i : Instr) (b : Reg) (g : Byte) (sc : Scope) :
    Keeps r (State.collDefine s i b g sc) := by
  unfold State.collDefine
  try dsimp only
  repeat' (first | with_reducible assumption | intro _ | with_reducible apply State.access_keeps |
                  with_reducible apply State.andThen_keeps | with_reducible apply State.finish_keeps |
                  with_reducible apply State.reading_keeps | with_reducible apply State.setGroup_keeps |
                  with_reducible apply State.trap_keeps | with_reducible apply keepsO_next | with_reducible apply keeps_foldl |
                  split | simp only [keeps_mk_iff])

theorem execCollDefine_keeps {r s : State} (h : Keeps r s) (b : Reg) (g : Byte) (sc : Scope) :
    KeepsO r (execCollDefine b g sc s) := by
  unfold execCollDefine
  try dsimp only
  repeat' (first | with_reducible assumption | intro _ | with_reducible apply State.collDefine_keeps |
                  with_reducible apply State.unpaired_keeps | with_reducible apply keepsO_next |
                  with_reducible apply keeps_foldl | split | simp only [keeps_mk_iff])

theorem execCollRelease_keeps {r s : State} (h : Keeps r s) (g : Byte) (sc : Scope) :
    KeepsO r (execCollRelease g sc s) := by
  unfold execCollRelease
  try dsimp only
  repeat' (first | with_reducible assumption | intro _ | with_reducible apply State.finish_keeps |
                  with_reducible apply State.setGroup_keeps | with_reducible apply State.trap_keeps |
                  with_reducible apply State.unpaired_keeps | with_reducible apply keepsO_next |
                  with_reducible apply keeps_foldl | split | simp only [keeps_mk_iff])

theorem State.modPort_keeps {r s : State} (h : Keeps r s) (p : Nat) (f : Port → Port) :
    Keeps r (State.modPort s p f) := by
  unfold State.modPort
  try dsimp only
  repeat' (first | with_reducible assumption | intro _ | with_reducible apply keepsO_next | with_reducible apply keeps_foldl |
                  split | simp only [keeps_mk_iff])

theorem State.portSend_keeps {r s : State} (h : Keeps r s) (p : Nat) (f : Flit) :
    Keeps r (State.portSend s p f) := by
  unfold State.portSend
  try dsimp only
  repeat' (first | with_reducible assumption | intro _ | with_reducible apply State.modPort_keeps |
                  with_reducible apply keepsO_next | with_reducible apply keeps_foldl | split | simp only [keeps_mk_iff])

theorem State.sendRoute_keeps {r s : State} (h : Keeps r s) (w : Word) (f : Flit) :
    Keeps r (State.sendRoute s w f) := by
  unfold State.sendRoute
  try dsimp only
  repeat' (first | with_reducible assumption | intro _ | with_reducible apply State.portSend_keeps |
                  with_reducible apply keepsO_next | with_reducible apply keeps_foldl | split | simp only [keeps_mk_iff])

theorem State.sendBy_keeps {r s : State} (h : Keeps r s) (e : Nat) (f : Flit) :
    Keeps r (State.sendBy s e f) := by
  unfold State.sendBy
  try dsimp only
  repeat' (first | with_reducible assumption | intro _ | with_reducible apply State.sendRoute_keeps |
                  with_reducible apply keepsO_next | with_reducible apply keeps_foldl | split | simp only [keeps_mk_iff])

theorem State.sendAborts_keeps {r s : State} (h : Keeps r s) (cx : Nat) (g : Nat) :
    Keeps r (State.sendAborts s cx g) := by
  unfold State.sendAborts
  try dsimp only
  repeat' (first | with_reducible assumption | intro _ | with_reducible apply State.sendBy_keeps |
                  with_reducible apply keepsO_next | with_reducible apply keeps_foldl | split | simp only [keeps_mk_iff])

theorem State.abortGroup_keeps {r s : State} (h : Keeps r s) (cx : Nat) (g : Nat) :
    Keeps r (State.abortGroup s cx g) := by
  unfold State.abortGroup
  try dsimp only
  repeat' (first | with_reducible assumption | intro _ | with_reducible apply State.sendAborts_keeps |
                  with_reducible apply State.setGroup_keeps | with_reducible apply keepsO_next |
                  with_reducible apply keeps_foldl | split | simp only [keeps_mk_iff])

theorem execCollAbort_keeps {r s : State} (h : Keeps r s) (g : Byte) (sc : Scope) :
    KeepsO r (execCollAbort g sc s) := by
  unfold execCollAbort
  try dsimp only
  repeat' (first | with_reducible assumption | intro _ | with_reducible apply State.abortGroup_keeps |
                  with_reducible apply State.finish_keeps | with_reducible apply State.trap_keeps |
                  with_reducible apply State.unpaired_keeps | with_reducible apply keepsO_next |
                  with_reducible apply keeps_foldl | split | simp only [keeps_mk_iff])

theorem execGrpbusy_keeps {r s : State} (h : Keeps r s) (w : Nat) (e : Nat) :
    KeepsO r (execGrpbusy w e s) := by
  unfold execGrpbusy
  try dsimp only
  repeat' (first | with_reducible assumption | intro _ | with_reducible apply State.asWatch_keeps |
                  with_reducible apply State.onWatch_keeps | with_reducible apply State.trap_keeps |
                  with_reducible apply keepsO_next | with_reducible apply keeps_foldl | split | simp only [keeps_mk_iff])

theorem State.drain_keeps {r s : State} (h : Keeps r s) (d : List Word) (crew t : Nat) (f32 : Bool) :
    ∀ u, s.drain d crew t f32 = some u → Keeps r u.1 := by
  intro u e
  unfold State.drain at e
  dsimp only at e
  split at e
  · split at e
    · cases e
    · split at e
      · cases e
      · cases e
        exact State.addWait_keeps h _
  · rename_i inside _
    have f (l : List (Nat × Nat × Nat × List Byte)) (q : State × Nat × Nat) (g : Keeps r q.1) :
        Keeps r (l.foldl (fun (r : State × Nat × Nat) p =>
          match s.engineXlate s.cw.ctx p.1 (chunkOff d 0 p.2.1 + p.2.2.1) true with
          | .ok key _ => (r.1.colWrite p.1 key p.2.2.2, r.2)
          | _ => (r.1, if r.2.1 = 0 then (3, p.1) else r.2)) q).1 := by
      refine foldl_keeps (fun q : State × Nat × Nat => Keeps r q.1) g fun q p g => ?_
      split
      · exact State.colWrite_keeps g _ _ _
      · exact g
    have k := f (((s.cw.drainParts s.cur t f32 (s.drainIndex crew)).filter fun p => decide (p.2.1 < gdNchk d)))
      ({ s with waits := s.waits.filter fun k => !(k.drain == 2 && k.w == s.cur) }, 0, 0) h
    split at e <;> cases e <;> exact k

theorem State.collArrive_keeps {r s : State} (h : Keeps r s) (i : Instr) (g : Nat) (min : Nat) (key : Nat) (bad : Nat × Nat) (sc
    : Scope) :
    Keeps r (State.collArrive s i g min key bad sc) := by
  unfold State.collArrive
  try dsimp only
  repeat' (first | with_reducible assumption | intro _ | with_reducible apply State.finish_keeps |
                  with_reducible apply State.modCtx_keeps | with_reducible apply State.recount_keeps |
                  with_reducible apply keepsO_next | with_reducible apply keeps_foldl | split | simp only [keeps_mk_iff])

theorem State.collRun_keeps {r s : State} (h : Keeps r s) (i : Instr) (op : Nat) (t : B3) (dr : B2) (b : Reg) (g : Byte) (sc :
    Scope) :
    Keeps r (State.collRun s i op t dr b g sc) := by
  unfold State.collRun
  dsimp only
  repeat' (first | with_reducible assumption | exact State.trap_keeps h _ |
    (refine State.withObject_keeps h _ _ _ fun o => ?_) | with_reducible apply State.collArrive_keeps |
    (rename_i e; exact State.drain_keeps h _ _ _ _ _ e) | (rename_i e _; exact State.drain_keeps h _ _ _ _ _ e) |
    split)

theorem execCollAllred_keeps {r s : State} (h : Keeps r s) (t : B3) (dr : B2) (b : Reg) (g : Byte) (sc : Scope) :
    KeepsO r (execCollAllred t dr b g sc s) := by
  unfold execCollAllred
  try dsimp only
  repeat' (first | with_reducible assumption | intro _ | with_reducible apply State.collRun_keeps |
                  with_reducible apply State.unpaired_keeps | with_reducible apply keepsO_next |
                  with_reducible apply keeps_foldl | split | simp only [keeps_mk_iff])

theorem execCollReduce_keeps {r s : State} (h : Keeps r s) (t : B3) (dr : B2) (b : Reg) (g : Byte) (sc : Scope) :
    KeepsO r (execCollReduce t dr b g sc s) := by
  unfold execCollReduce
  try dsimp only
  repeat' (first | with_reducible assumption | intro _ | with_reducible apply State.collRun_keeps |
                  with_reducible apply State.unpaired_keeps | with_reducible apply keepsO_next |
                  with_reducible apply keeps_foldl | split | simp only [keeps_mk_iff])

theorem execCollBcast_keeps {r s : State} (h : Keeps r s) (t : B3) (dr : B2) (b : Reg) (g : Byte) (sc : Scope) :
    KeepsO r (execCollBcast t dr b g sc s) := by
  unfold execCollBcast
  try dsimp only
  repeat' (first | with_reducible assumption | intro _ | with_reducible apply State.collRun_keeps |
                  with_reducible apply State.unpaired_keeps | with_reducible apply keepsO_next |
                  with_reducible apply keeps_foldl | split | simp only [keeps_mk_iff])

theorem execCollGather_keeps {r s : State} (h : Keeps r s) (t : B3) (dr : B2) (b : Reg) (g : Byte) (sc : Scope) :
    KeepsO r (execCollGather t dr b g sc s) := by
  unfold execCollGather
  try dsimp only
  repeat' (first | with_reducible assumption | intro _ | with_reducible apply State.collRun_keeps |
                  with_reducible apply State.unpaired_keeps | with_reducible apply keepsO_next |
                  with_reducible apply keeps_foldl | split | simp only [keeps_mk_iff])

theorem execCollRscat_keeps {r s : State} (h : Keeps r s) (t : B3) (dr : B2) (b : Reg) (g : Byte) (sc : Scope) :
    KeepsO r (execCollRscat t dr b g sc s) := by
  unfold execCollRscat
  try dsimp only
  repeat' (first | with_reducible assumption | intro _ | with_reducible apply State.collRun_keeps |
                  with_reducible apply State.unpaired_keeps | with_reducible apply keepsO_next |
                  with_reducible apply keeps_foldl | split | simp only [keeps_mk_iff])

theorem execCollRot_keeps {r s : State} (h : Keeps r s) (t : B3) (dr : B2) (b : Reg) (g : Byte) (sc : Scope) :
    KeepsO r (execCollRot t dr b g sc s) := by
  unfold execCollRot
  try dsimp only
  repeat' (first | with_reducible assumption | intro _ | with_reducible apply State.collRun_keeps |
                  with_reducible apply State.unpaired_keeps | with_reducible apply keepsO_next |
                  with_reducible apply keeps_foldl | split | simp only [keeps_mk_iff])

theorem execCollProg_keeps {r s : State} (h : Keeps r s) (t : B3) (dr : B2) (b : Reg) (g : Byte) (sc : Scope) :
    KeepsO r (execCollProg t dr b g sc s) := by
  unfold execCollProg
  try dsimp only
  repeat' (first | with_reducible assumption | intro _ | with_reducible apply State.collRun_keeps |
                  with_reducible apply State.unpaired_keeps | with_reducible apply keepsO_next |
                  with_reducible apply keeps_foldl | split | simp only [keeps_mk_iff])

/-! ## Tender -/

theorem State.modRun_keeps {r s : State} (h : Keeps r s) (id : Nat) (f : Run → Run) :
    Keeps r (State.modRun s id f) := by
  unfold State.modRun
  try dsimp only
  repeat' (first | with_reducible assumption | intro _ | with_reducible apply keepsO_next | with_reducible apply keeps_foldl |
                  split | simp only [keeps_mk_iff])

theorem State.modStrand_keeps {r s : State} (h : Keeps r s) (id : Nat) (i : Nat) (f : Strand → Strand) :
    Keeps r (State.modStrand s id i f) := by
  unfold State.modStrand
  try dsimp only
  repeat' (first | with_reducible assumption | intro _ | with_reducible apply State.modRun_keeps |
                  with_reducible apply keepsO_next | with_reducible apply keeps_foldl | split | simp only [keeps_mk_iff])

theorem State.modStream_keeps {r s : State} (h : Keeps r s) (id : Nat) (i : Nat) (p : Nat) (f : Stream → Stream) :
    Keeps r (State.modStream s id i p f) := by
  unfold State.modStream
  try dsimp only
  repeat' (first | with_reducible assumption | intro _ | with_reducible apply State.modStrand_keeps |
                  with_reducible apply keepsO_next | with_reducible apply keeps_foldl | split | simp only [keeps_mk_iff])

theorem State.haltStrand_keeps {r s : State} (h : Keeps r s) (id : Nat) (i : Nat) (code : Nat) :
    Keeps r (State.haltStrand s id i code) := by
  unfold State.haltStrand
  try dsimp only
  repeat' (first | with_reducible assumption | intro _ | with_reducible apply State.modStrand_keeps |
                  with_reducible apply keepsO_next | with_reducible apply keeps_foldl | split | simp only [keeps_mk_iff])

theorem State.writeChunk_keeps {r s : State} (h : Keeps r s) (id : Nat) (i : Nat) (r_ : Run) (x : Strand) (h_ : Nat) (c : Nat)
    (v : List Byte) :
    Keeps r (State.writeChunk s id i r_ x h_ c v).2 := by
  unfold State.writeChunk
  try dsimp only
  repeat' (first | with_reducible assumption | intro _ | with_reducible apply State.colWrite_keeps |
                  with_reducible apply State.modStrand_keeps | with_reducible apply keepsO_next |
                  with_reducible apply keeps_foldl | split | simp only [keeps_mk_iff])

theorem State.chunkStop_keeps {r s : State} (h : Keeps r s) (id : Nat) (i : Nat) (r_ : Run) (a : ChunkAt) :
    Keeps r (State.chunkStop s id i r_ a) := by
  unfold State.chunkStop
  try dsimp only
  repeat' (first | with_reducible assumption | intro _ | with_reducible apply State.haltStrand_keeps |
                  with_reducible apply State.launchWait_keeps | with_reducible apply keepsO_next |
                  with_reducible apply keeps_foldl | split | simp only [keeps_mk_iff])

theorem State.strandFlit_keeps {r s : State} (h : Keeps r s) (r_ : Run) (i : Nat) (p : Nat) (kind : Nat) (seq : Nat) (flit :
    Nat) (pay : BitVec 2048) :
    Keeps r (State.strandFlit s r_ i p kind seq flit pay) := by
  unfold State.strandFlit
  try dsimp only
  repeat' (first | with_reducible assumption | intro _ | with_reducible apply State.haltStrand_keeps |
                  with_reducible apply State.modStream_keeps | with_reducible apply State.sendRoute_keeps |
                  with_reducible apply keepsO_next | with_reducible apply keeps_foldl | split | simp only [keeps_mk_iff])

theorem State.chunkFlits_keeps {r s : State} (h : Keeps r s) (r_ : Run) (i : Nat) (p : Nat) (seq : Nat) (v : List Byte) :
    Keeps r (State.chunkFlits s r_ i p seq v) := by
  unfold State.chunkFlits
  try dsimp only
  repeat' (first | with_reducible assumption | intro _ | with_reducible apply State.strandFlit_keeps |
                  with_reducible apply keepsO_next | with_reducible apply keeps_foldl | split | simp only [keeps_mk_iff])

theorem State.sendNext_keeps {r s : State} (h : Keeps r s) (id : Nat) (i : Nat) (p : Nat) :
    Keeps r (State.sendNext s id i p).1 := by
  unfold State.sendNext
  try dsimp only
  repeat' (first | with_reducible assumption | intro _ | with_reducible apply State.chunkFlits_keeps |
                  with_reducible apply State.chunkStop_keeps | with_reducible apply State.modStream_keeps |
                  with_reducible apply keepsO_next | with_reducible apply keeps_foldl | split | simp only [keeps_mk_iff])

theorem State.tellPairs_keeps {r s : State} (h : Keeps r s) (id : Nat) (i : Nat) (p : Nat) :
    Keeps r (State.tellPairs s id i p) := by
  unfold State.tellPairs
  try dsimp only
  repeat' (first | with_reducible assumption | intro _ | with_reducible apply State.strandFlit_keeps |
                  with_reducible apply keepsO_next | with_reducible apply keeps_foldl | split | simp only [keeps_mk_iff])

theorem State.checkPairs_keeps {r s : State} (h : Keeps r s) (id : Nat) (i : Nat) (p : Nat) :
    Keeps r (State.checkPairs s id i p) := by
  unfold State.checkPairs
  try dsimp only
  repeat' (first | with_reducible assumption | intro _ | with_reducible apply State.strandFlit_keeps |
                  with_reducible apply keepsO_next | with_reducible apply keeps_foldl | split | simp only [keeps_mk_iff])

theorem State.takeGrant_keeps {r s : State} (h : Keeps r s) (r_ : Run) (i : Nat) (p : Nat) (f : Flit) :
    Keeps r (State.takeGrant s r_ i p f) := by
  unfold State.takeGrant
  try dsimp only
  repeat' (first | with_reducible assumption | intro _ | with_reducible apply State.checkPairs_keeps |
                  with_reducible apply State.haltStrand_keeps | with_reducible apply State.modStream_keeps |
                  with_reducible apply State.tellPairs_keeps | with_reducible apply keepsO_next |
                  with_reducible apply keeps_foldl | split | simp only [keeps_mk_iff])

theorem State.giveGrants_keeps {r s : State} (h : Keeps r s) (id : Nat) (i : Nat) (p : Nat) :
    Keeps r (State.giveGrants s id i p) := by
  unfold State.giveGrants
  try dsimp only
  repeat' (first | with_reducible assumption | intro _ | with_reducible apply State.modStream_keeps |
                  with_reducible apply State.strandFlit_keeps | with_reducible apply keepsO_next |
                  with_reducible apply keeps_foldl | split | simp only [keeps_mk_iff])

theorem State.emptyXfer_keeps {r s : State} (h : Keeps r s) (id : Nat) (i : Nat) (x : Strand) (t : Xfer) (n : Nat) :
    Keeps r (State.emptyXfer s id i x t n).1 := by
  unfold State.emptyXfer
  try dsimp only
  repeat' (first | with_reducible assumption | intro _ | with_reducible apply State.haltStrand_keeps |
                  with_reducible apply State.modStrand_keeps | with_reducible apply keepsO_next |
                  with_reducible apply keeps_foldl | split | simp only [keeps_mk_iff])

theorem State.applyNext_keeps {r s : State} (h : Keeps r s) (id : Nat) (i : Nat) :
    Keeps r (State.applyNext s id i).1 := by
  unfold State.applyNext
  dsimp only
  repeat' (first | with_reducible assumption | with_reducible apply State.chunkStop_keeps |
    with_reducible apply State.giveGrants_keeps | with_reducible apply State.modStrand_keeps |
    with_reducible apply State.modStream_keeps | exact State.emptyXfer_keeps h _ _ _ _ _ | split)
  all_goals
    rename_i e
    exact keeps_snd e (State.writeChunk_keeps h _ _ _ _ _ _ _)

theorem State.pump_keeps {r s : State} (h : Keeps r s) (id i n : Nat) : Keeps r (s.pump id i n) := by
  induction n generalizing s with
  | zero => exact h
  | succ n ih =>
    unfold State.pump
    split
    · rename_i e
      exact ih (keeps_fst e (State.applyNext_keeps h id i))
    · rename_i t e
      have g : Keeps r t := keeps_fst e (State.applyNext_keeps h id i)
      split
      · exact g
      · rename_i x _
        have f : Keeps r ((List.range x.peers.length).foldl
            (fun (u : State × Bool) p => if u.2 then u else u.1.sendNext id i p) (t, false)).1 := by
          refine foldl_keeps (fun q : State × Bool => Keeps r q.1) g fun q p g => ?_
          split
          · exact g
          · exact State.sendNext_keeps g _ _ _
        split
        · rename_i e
          exact ih (keeps_fst e f)
        · rename_i e
          exact State.modStrand_keeps (keeps_foldl (keeps_fst e f) fun t a g => State.giveGrants_keeps g _ _ _) _ _ _

theorem State.pumpAll_keeps {r s : State} (h : Keeps r s) (id : Nat) (i : Nat) :
    Keeps r (State.pumpAll s id i) := by
  unfold State.pumpAll
  try dsimp only
  repeat' (first | with_reducible assumption | intro _ | with_reducible apply State.pump_keeps |
                  with_reducible apply keepsO_next | with_reducible apply keeps_foldl | split | simp only [keeps_mk_iff])

theorem State.pumpRuns_keeps {r s : State} (h : Keeps r s) :
    Keeps r (State.pumpRuns s) := by
  unfold State.pumpRuns
  try dsimp only
  repeat' (first | with_reducible assumption | intro _ | with_reducible apply State.pumpAll_keeps |
                  with_reducible apply keepsO_next | with_reducible apply keeps_foldl | split | simp only [keeps_mk_iff])

theorem State.copyChunk_keeps {r s : State} (h : Keeps r s) (id : Nat) (i : Nat) (r_ : Run) (a : Act) (t : State) (k : Nat)
    (ht : Keeps r t) :
    Keeps r (State.copyChunk s id i r_ a t k) := by
  unfold State.copyChunk
  try dsimp only
  repeat' (first | with_reducible assumption | intro _ | with_reducible apply State.colWrite_keeps |
                  with_reducible apply State.modStrand_keeps | with_reducible apply keepsO_next |
                  with_reducible apply keeps_foldl | split | simp only [keeps_mk_iff])

theorem State.copyChunks_keeps {r s : State} (h : Keeps r s) (id : Nat) (i : Nat) (r_ : Run) (a : Act) :
    Keeps r (State.copyChunks s id i r_ a).2 := by
  unfold State.copyChunks
  dsimp only
  split
  · exact h
  · exact keeps_foldl h fun t k g => State.copyChunk_keeps h _ _ _ _ _ _ g

theorem State.pairUp_keeps {r s : State} (h : Keeps r s) (id : Nat) (i : Nat) (p : Nat) :
    Keeps r (State.pairUp s id i p) := by
  unfold State.pairUp
  try dsimp only
  repeat' (first | with_reducible assumption | intro _ | with_reducible apply State.checkPairs_keeps |
                  with_reducible apply State.tellPairs_keeps | with_reducible apply keepsO_next |
                  with_reducible apply keeps_foldl | split | simp only [keeps_mk_iff])

theorem State.startXfer_keeps {r s : State} (h : Keeps r s) (id : Nat) (i : Nat) (r_ : Run) (a : Act) (peers : List Nat) (adv :
    Strand → Strand) :
    Keeps r (State.startXfer s id i r_ a peers adv) := by
  unfold State.startXfer
  dsimp only
  repeat' (first | with_reducible assumption | with_reducible apply State.haltStrand_keeps |
    with_reducible apply State.pumpAll_keeps | with_reducible apply State.giveGrants_keeps |
    with_reducible apply State.modStrand_keeps | with_reducible apply State.chunkStop_keeps |
    with_reducible apply State.tellPairs_keeps |
    (refine keeps_foldl ?_ fun t a g => State.pairUp_keeps g _ _ _) | split)
  all_goals
    rename_i e
    exact keeps_snd e (State.copyChunks_keeps h _ _ _ _)

theorem State.onStrand_keeps {r s : State} (h : Keeps r s) (k : Nat → Nat → Run → Strand → State)
    (hk : ∀ (a0 : Nat) (a1 : Nat) (a2 : Run) (a3 : Strand), Keeps r (k a0 a1 a2 a3)) :
    Keeps r (State.onStrand s k) := by
  unfold State.onStrand
  try dsimp only
  repeat' (first | with_reducible assumption | intro _ | with_reducible apply hk | with_reducible apply keepsO_next |
                  with_reducible apply keeps_foldl | split | simp only [keeps_mk_iff])

theorem execChunkSend_keeps {r s : State} (h : Keeps r s) (ch : B4) (x_dt : B4) (peer : B16) (ck : B16) (n : B16) :
    KeepsO r (execChunkSend ch x_dt peer ck n s) := by
  unfold execChunkSend
  try dsimp only
  repeat' (first | with_reducible assumption | intro _ | with_reducible apply State.haltStrand_keeps |
                  with_reducible apply State.onStrand_keeps | with_reducible apply State.startXfer_keeps |
                  with_reducible apply keepsO_next | with_reducible apply keeps_foldl | split | simp only [keeps_mk_iff])

theorem execChunkRecv_keeps {r s : State} (h : Keeps r s) (ch : B4) (x_dt : B4) (peer : B16) (ck : B16) (n : B16) :
    KeepsO r (execChunkRecv ch x_dt peer ck n s) := by
  unfold execChunkRecv
  try dsimp only
  repeat' (first | with_reducible assumption | intro _ | with_reducible apply State.haltStrand_keeps |
                  with_reducible apply State.onStrand_keeps | with_reducible apply State.startXfer_keeps |
                  with_reducible apply keepsO_next | with_reducible apply keeps_foldl | split | simp only [keeps_mk_iff])

theorem execChunkRred_keeps {r s : State} (h : Keeps r s) (ch : B4) (dt : B4) (fn : B4) (peer : B16) (ck : B16) (n : B16) :
    KeepsO r (execChunkRred ch dt fn peer ck n s) := by
  unfold execChunkRred
  try dsimp only
  repeat' (first | with_reducible assumption | intro _ | with_reducible apply State.haltStrand_keeps |
                  with_reducible apply State.onStrand_keeps | with_reducible apply State.startXfer_keeps |
                  with_reducible apply keepsO_next | with_reducible apply keeps_foldl | split | simp only [keeps_mk_iff])

theorem execChunkCopy_keeps {r s : State} (h : Keeps r s) (ch : B4) (dst : B16) (ck : B16) (n : B16) :
    KeepsO r (execChunkCopy ch dst ck n s) := by
  unfold execChunkCopy
  try dsimp only
  repeat' (first | with_reducible assumption | intro _ | with_reducible apply State.onStrand_keeps |
                  with_reducible apply State.startXfer_keeps | with_reducible apply keepsO_next |
                  with_reducible apply keeps_foldl | split | simp only [keeps_mk_iff])

theorem execChunkWait_keeps {r s : State} (h : Keeps r s) (ck : B16) (n : B16) :
    KeepsO r (execChunkWait ck n s) := by
  unfold execChunkWait
  try dsimp only
  repeat' (first | with_reducible assumption | intro _ | with_reducible apply State.modStrand_keeps |
                  with_reducible apply State.onStrand_keeps | with_reducible apply State.pumpAll_keeps |
                  with_reducible apply keepsO_next | with_reducible apply keeps_foldl | split | simp only [keeps_mk_iff])

theorem execChunkSig_keeps {r s : State} (h : Keeps r s) (peer : B16) (n : B16) :
    KeepsO r (execChunkSig peer n s) := by
  unfold execChunkSig
  try dsimp only
  repeat' (first | with_reducible assumption | intro _ | with_reducible apply State.modStrand_keeps |
                  with_reducible apply State.onStrand_keeps | with_reducible apply State.pumpAll_keeps |
                  with_reducible apply State.strandFlit_keeps | with_reducible apply keepsO_next |
                  with_reducible apply keeps_foldl | split | simp only [keeps_mk_iff])

theorem execChunkLoop_keeps {r s : State} (h : Keeps r s) (n : B16) :
    KeepsO r (execChunkLoop n s) := by
  unfold execChunkLoop
  try dsimp only
  repeat' (first | with_reducible assumption | intro _ | with_reducible apply State.haltStrand_keeps |
                  with_reducible apply State.modStrand_keeps | with_reducible apply State.onStrand_keeps |
                  with_reducible apply keepsO_next | with_reducible apply keeps_foldl | split | simp only [keeps_mk_iff])

theorem execChunkNext_keeps {r s : State} (h : Keeps r s) :
    KeepsO r (execChunkNext s) := by
  unfold execChunkNext
  try dsimp only
  repeat' (first | with_reducible assumption | intro _ | with_reducible apply State.haltStrand_keeps |
                  with_reducible apply State.modStrand_keeps | with_reducible apply State.onStrand_keeps |
                  with_reducible apply keepsO_next | with_reducible apply keeps_foldl | split | simp only [keeps_mk_iff])

theorem execChunkMcast_keeps {r s : State} (h : Keeps r s) (ch : B4) (x_dt : B4) (ck : B16) (n : B16) :
    KeepsO r (execChunkMcast ch x_dt ck n s) := by
  unfold execChunkMcast
  try dsimp only
  repeat' (first | with_reducible assumption | intro _ | with_reducible apply State.onStrand_keeps |
                  with_reducible apply State.startXfer_keeps | with_reducible apply keepsO_next |
                  with_reducible apply keeps_foldl | split | simp only [keeps_mk_iff])

theorem execChunkRoute_keeps {r s : State} (h : Keeps r s) (dev : B16) (ck : B16) :
    KeepsO r (execChunkRoute dev ck s) := by
  unfold execChunkRoute
  try dsimp only
  repeat' (first | with_reducible assumption | intro _ | with_reducible apply State.haltStrand_keeps |
                  with_reducible apply State.modStrand_keeps | with_reducible apply State.onStrand_keeps |
                  with_reducible apply keepsO_next | with_reducible apply keeps_foldl | split | simp only [keeps_mk_iff])

theorem execChunkBar_keeps {r s : State} (h : Keeps r s) :
    KeepsO r (execChunkBar s) := by
  unfold execChunkBar
  try dsimp only
  repeat' (first | with_reducible assumption | intro _ | with_reducible apply State.modStrand_keeps |
                  with_reducible apply State.onStrand_keeps | with_reducible apply State.pumpAll_keeps |
                  with_reducible apply State.strandFlit_keeps | with_reducible apply keepsO_next |
                  with_reducible apply keeps_foldl | split | simp only [keeps_mk_iff])

theorem execChunkEnd_keeps {r s : State} (h : Keeps r s) :
    KeepsO r (execChunkEnd s) := by
  unfold execChunkEnd
  try dsimp only
  repeat' (first | with_reducible assumption | intro _ | with_reducible apply State.haltStrand_keeps |
                  with_reducible apply State.modStrand_keeps | with_reducible apply State.onStrand_keeps |
                  with_reducible apply State.pumpAll_keeps | with_reducible apply keepsO_next |
                  with_reducible apply keeps_foldl | split | simp only [keeps_mk_iff])

theorem execBadop_keeps {r s : State} (h : Keeps r s) (x_wd : Word) :
    KeepsO r (execBadop x_wd s) := by
  unfold execBadop
  try dsimp only
  repeat' (first | with_reducible assumption | intro _ | with_reducible apply State.haltStrand_keeps |
                  with_reducible apply State.onStrand_keeps | with_reducible apply keepsO_next |
                  with_reducible apply keeps_foldl | split | simp only [keeps_mk_iff])

theorem State.badField_keeps {r s : State} (h : Keeps r s) :
    Keeps r (State.badField s) := by
  unfold State.badField
  try dsimp only
  repeat' (first | with_reducible assumption | intro _ | with_reducible apply State.haltStrand_keeps |
                  with_reducible apply State.onStrand_keeps | with_reducible apply keepsO_next |
                  with_reducible apply keeps_foldl | split | simp only [keeps_mk_iff])

theorem State.builtinStep_keeps {r s : State} (h : Keeps r s) :
    Keeps r (State.builtinStep s) := by
  unfold State.builtinStep
  try dsimp only
  repeat' (first | with_reducible assumption | intro _ | with_reducible apply State.modStrand_keeps |
                  with_reducible apply State.onStrand_keeps | with_reducible apply State.pumpAll_keeps |
                  with_reducible apply State.startXfer_keeps | with_reducible apply keepsO_next |
                  with_reducible apply keeps_foldl | split | simp only [keeps_mk_iff])

theorem State.earlyFlit_keeps {r s : State} (h : Keeps r s) (id : Nat) (r_ : Run) (f : Flit) :
    Keeps r (State.earlyFlit s id r_ f) := by
  unfold State.earlyFlit
  try dsimp only
  repeat' (first | with_reducible assumption | intro _ | with_reducible apply State.modStrand_keeps |
                  with_reducible apply State.takeGrant_keeps | with_reducible apply keepsO_next |
                  with_reducible apply keeps_foldl | split | simp only [keeps_mk_iff])

theorem execCollRunStart_keeps {r s : State} (h : Keeps r s) (cx : Nat) (g : Nat) :
    KeepsO r (execCollRunStart cx g s) := by
  unfold execCollRunStart
  try dsimp only
  repeat' (first | with_reducible assumption | intro _ | with_reducible apply State.earlyFlit_keeps |
                  with_reducible apply State.register_keeps | with_reducible apply keepsO_next |
                  with_reducible apply keeps_foldl | split | simp only [keeps_mk_iff])

theorem State.forgetWrites_keeps {r s : State} (h : Keeps r s) (r_ : Run) :
    Keeps r (State.forgetWrites s r_) := by
  unfold State.forgetWrites
  dsimp only
  have g := keeps_foldl (l := r_.strands.flatMap fun x => r_.writes.flatMap fun k =>
      (List.range (k.2.2 - k.2.1)).map fun c => (x, k.1, k.2.1 + c))
    (f := fun (t : State) q => match s.chunkAt r_ q.1 q.2.1 q.2.2 true with
      | .at key => { t with mem := memForget t.mem key (key + 2048) }
      | _ => t) h fun t a g => by
    split
    · exact keeps_mem g (fun w => memForget_wf w _ _) ..
    · exact g
  exact ⟨g.1, g.2.1, g.2.2.1, g.2.2.2.1, g.2.2.2.2.trans (Nat.le_succ _)⟩

theorem State.keepPast_keeps {r s : State} (h : Keeps r s) (r_ : Run) :
    Keeps r (State.keepPast s r_) := by
  unfold State.keepPast
  try dsimp only
  repeat' (first | with_reducible assumption | intro _ | with_reducible apply keepsO_next | with_reducible apply keeps_foldl |
                  split | simp only [keeps_mk_iff])

theorem State.keepOwed_keeps {r s : State} (h : Keeps r s) (r_ : Run) :
    Keeps r (State.keepOwed s r_) := by
  unfold State.keepOwed
  try dsimp only
  repeat' (first | with_reducible assumption | intro _ | with_reducible apply State.setGroup_keeps |
                  with_reducible apply keepsO_next | with_reducible apply keeps_foldl | split | simp only [keeps_mk_iff])

theorem execCollRunComplete_keeps {r s : State} (h : Keeps r s) (run : Nat) :
    KeepsO r (execCollRunComplete run s) := by
  unfold execCollRunComplete
  try dsimp only
  repeat' (first | with_reducible assumption | intro _ | with_reducible apply State.abortGroup_keeps |
                  with_reducible apply State.engineArrive_keeps | with_reducible apply State.forgetWrites_keeps |
                  with_reducible apply State.keepOwed_keeps | with_reducible apply State.keepPast_keeps |
                  with_reducible apply State.unregister_keeps | with_reducible apply State.writeN_keeps |
                  with_reducible apply keepsO_next | with_reducible apply keeps_foldl | split | simp only [keeps_mk_iff])

theorem State.received_keeps {r s : State} (h : Keeps r s) (p : Nat) (f : Flit) (k : State → State)
    (hk : ∀ (a0 : State), Keeps r a0 → Keeps r (k a0)) :
    Keeps r (State.received s p f k) := by
  unfold State.received
  try dsimp only
  repeat' (first | with_reducible assumption | intro _ | with_reducible apply hk | with_reducible apply State.modPort_keeps |
                  with_reducible apply keepsO_next | with_reducible apply keeps_foldl | split | simp only [keeps_mk_iff])

theorem State.arrived_keeps {r s : State} (h : Keeps r s) (p : Nat) (kind : Nat) (f : Flit) (k : State → State)
    (hk : ∀ (a0 : State), Keeps r a0 → Keeps r (k a0)) :
    Keeps r (State.arrived s p kind f k) := by
  unfold State.arrived
  try dsimp only
  repeat' (first | with_reducible assumption | intro _ | with_reducible apply hk | with_reducible apply State.received_keeps |
                  with_reducible apply keepsO_next | with_reducible apply keeps_foldl | split | simp only [keeps_mk_iff])

theorem State.keepEarly_keeps {r s : State} (h : Keeps r s) (f : Flit) :
    Keeps r (State.keepEarly s f) := by
  unfold State.keepEarly
  try dsimp only
  repeat' (first | with_reducible assumption | intro _ | with_reducible apply keepsO_next | with_reducible apply keeps_foldl |
                  split | simp only [keeps_mk_iff])

theorem State.pastFlit_keeps {r s : State} (h : Keeps r s) (r_ : Run) (i : Nat) (p : Nat) (kind : Nat) (seq : Nat) (pay : BitVec
    2048) :
    Keeps r (State.pastFlit s r_ i p kind seq pay) := by
  unfold State.pastFlit
  try dsimp only
  repeat' (first | with_reducible assumption | intro _ | with_reducible apply State.sendRoute_keeps |
                  with_reducible apply keepsO_next | with_reducible apply keeps_foldl | split | simp only [keeps_mk_iff])

theorem State.ackPast_keeps {r s : State} (h : Keeps r s) (r_ : Run) (i : Nat) (p : Nat) :
    Keeps r (State.ackPast s r_ i p) := by
  unfold State.ackPast
  try dsimp only
  repeat' (first | with_reducible assumption | intro _ | with_reducible apply State.pastFlit_keeps |
                  with_reducible apply keepsO_next | with_reducible apply keeps_foldl | split | simp only [keeps_mk_iff])

theorem State.grantPast_keeps {r s : State} (h : Keeps r s) (r_ : Run) (i : Nat) (p : Nat) (f : Flit) :
    Keeps r (State.grantPast s r_ i p f) := by
  unfold State.grantPast
  try dsimp only
  repeat' (first | with_reducible assumption | intro _ | with_reducible apply State.pastFlit_keeps |
                  with_reducible apply keepsO_next | with_reducible apply keeps_foldl | split | simp only [keeps_mk_iff])

theorem State.lateData_keeps {r s : State} (h : Keeps r s) (f : Flit) :
    Keeps r (State.lateData s f) := by
  unfold State.lateData
  try dsimp only
  repeat' (first | with_reducible assumption | intro _ | with_reducible apply State.ackPast_keeps |
                  with_reducible apply keepsO_next | with_reducible apply keeps_foldl | split | simp only [keeps_mk_iff])

theorem execBeamData_keeps {r s : State} (h : Keeps r s) (p : Nat) (f : Flit) :
    KeepsO r (execBeamData p f s) := by
  unfold execBeamData
  try dsimp only
  repeat' (first | with_reducible assumption | intro _ | with_reducible apply State.arrived_keeps |
                  with_reducible apply State.lateData_keeps | with_reducible apply State.modStream_keeps |
                  with_reducible apply State.pumpAll_keeps | with_reducible apply State.strandFlit_keeps |
                  with_reducible apply keepsO_next | with_reducible apply keeps_foldl | split | simp only [keeps_mk_iff])

theorem execBeamAck_keeps {r s : State} (h : Keeps r s) (p : Nat) (f : Flit) :
    KeepsO r (execBeamAck p f s) := by
  unfold execBeamAck
  try dsimp only
  repeat' (first | with_reducible assumption | intro _ | with_reducible apply State.arrived_keeps |
                  with_reducible apply State.modStream_keeps | with_reducible apply State.pumpAll_keeps |
                  with_reducible apply keepsO_next | with_reducible apply keeps_foldl | split | simp only [keeps_mk_iff])

theorem execBeamGrant_keeps {r s : State} (h : Keeps r s) (p : Nat) (f : Flit) :
    KeepsO r (execBeamGrant p f s) := by
  unfold execBeamGrant
  try dsimp only
  repeat' (first | with_reducible assumption | intro _ | with_reducible apply State.arrived_keeps |
                  with_reducible apply State.grantPast_keeps | with_reducible apply State.keepEarly_keeps |
                  with_reducible apply State.pumpAll_keeps | with_reducible apply State.takeGrant_keeps |
                  with_reducible apply keepsO_next | with_reducible apply keeps_foldl | split | simp only [keeps_mk_iff])

theorem execBeamSignal_keeps {r s : State} (h : Keeps r s) (p : Nat) (f : Flit) :
    KeepsO r (execBeamSignal p f s) := by
  unfold execBeamSignal
  try dsimp only
  repeat' (first | with_reducible assumption | intro _ | with_reducible apply State.arrived_keeps |
                  with_reducible apply State.keepEarly_keeps | with_reducible apply State.modStrand_keeps |
                  with_reducible apply keepsO_next | with_reducible apply keeps_foldl | split | simp only [keeps_mk_iff])

theorem execBeamBarrier_keeps {r s : State} (h : Keeps r s) (p : Nat) (f : Flit) :
    KeepsO r (execBeamBarrier p f s) := by
  unfold execBeamBarrier
  try dsimp only
  repeat' (first | with_reducible assumption | intro _ | with_reducible apply State.arrived_keeps |
                  with_reducible apply State.keepEarly_keeps | with_reducible apply State.modStrand_keeps |
                  with_reducible apply keepsO_next | with_reducible apply keeps_foldl | split | simp only [keeps_mk_iff])

theorem execBeamAbort_keeps {r s : State} (h : Keeps r s) (p : Nat) (f : Flit) :
    KeepsO r (execBeamAbort p f s) := by
  unfold execBeamAbort
  try dsimp only
  repeat' (first | with_reducible assumption | intro _ | with_reducible apply State.arrived_keeps |
                  with_reducible apply State.haltStrand_keeps | with_reducible apply keepsO_next |
                  with_reducible apply keeps_foldl | split | simp only [keeps_mk_iff])

theorem State.resend_keeps {r s : State} (h : Keeps r s) (id : Nat) (i : Nat) (p : Nat) :
    Keeps r (State.resend s id i p) := by
  unfold State.resend
  try dsimp only
  repeat' (first | with_reducible assumption | intro _ | with_reducible apply State.chunkFlits_keeps |
                  with_reducible apply State.haltStrand_keeps | with_reducible apply State.modRun_keeps |
                  with_reducible apply State.strandFlit_keeps | with_reducible apply keepsO_next |
                  with_reducible apply keeps_foldl | split | simp only [keeps_mk_iff])

theorem State.markRoutes_keeps {r s : State} (h : Keeps r s) (bad : List (Nat × Nat)) :
    Keeps r (State.markRoutes s bad) := by
  unfold State.markRoutes
  try dsimp only
  repeat' (first | with_reducible assumption | intro _ | with_reducible apply State.ackPast_keeps |
                  with_reducible apply State.resend_keeps | with_reducible apply keepsO_next |
                  with_reducible apply keeps_foldl | split | simp only [keeps_mk_iff])

theorem State.portDown_keeps {r s : State} (h : Keeps r s) (p : Nat) :
    Keeps r (State.portDown s p) := by
  unfold State.portDown
  try dsimp only
  repeat' (first | with_reducible assumption | intro _ | with_reducible apply State.enlog_keeps |
                  with_reducible apply State.markRoutes_keeps | with_reducible apply State.modPort_keeps |
                  with_reducible apply keepsO_next | with_reducible apply keeps_foldl | split | simp only [keeps_mk_iff])

theorem State.flood_keeps {r s : State} (h : Keeps r s) (f : Flit) (except : Nat) :
    Keeps r (State.flood s f except) := by
  unfold State.flood
  try dsimp only
  repeat' (first | with_reducible assumption | intro _ | with_reducible apply State.portSend_keeps |
                  with_reducible apply keepsO_next | with_reducible apply keeps_foldl | split | simp only [keeps_mk_iff])

theorem execBeamFlitForward_keeps {r s : State} (h : Keeps r s) (p : Nat) (f : Flit) :
    KeepsO r (execBeamFlitForward p f s) := by
  unfold execBeamFlitForward
  try dsimp only
  repeat' (first | with_reducible assumption | intro _ | with_reducible apply State.flood_keeps |
                  with_reducible apply State.portSend_keeps | with_reducible apply State.received_keeps |
                  with_reducible apply keepsO_next | with_reducible apply keeps_foldl | split | simp only [keeps_mk_iff])

theorem execBeamLinkdown_keeps {r s : State} (h : Keeps r s) (p : Nat) (f : Flit) :
    KeepsO r (execBeamLinkdown p f s) := by
  unfold execBeamLinkdown
  try dsimp only
  repeat' (first | with_reducible assumption | intro _ | with_reducible apply State.flood_keeps |
                  with_reducible apply State.markRoutes_keeps | with_reducible apply State.received_keeps |
                  with_reducible apply keepsO_next | with_reducible apply keeps_foldl | split | simp only [keeps_mk_iff])

theorem execBeamCrcReject_keeps {r s : State} (h : Keeps r s) (p : Nat) (k : Nat) :
    KeepsO r (execBeamCrcReject p k s) := by
  unfold execBeamCrcReject
  try dsimp only
  repeat' (first | with_reducible assumption | intro _ | with_reducible apply State.modPort_keeps |
                  with_reducible apply State.portDown_keeps | with_reducible apply keepsO_next |
                  with_reducible apply keeps_foldl | split | simp only [keeps_mk_iff])

theorem execBeamLaneLoss_keeps {r s : State} (h : Keeps r s) (p : Nat) (n : Nat) :
    KeepsO r (execBeamLaneLoss p n s) := by
  unfold execBeamLaneLoss
  try dsimp only
  repeat' (first | with_reducible assumption | intro _ | with_reducible apply State.modPort_keeps |
                  with_reducible apply State.portDown_keeps | with_reducible apply keepsO_next |
                  with_reducible apply keeps_foldl | split | simp only [keeps_mk_iff])

theorem execBeamPortDown_keeps {r s : State} (h : Keeps r s) (p : Nat) :
    KeepsO r (execBeamPortDown p s) := by
  unfold execBeamPortDown
  try dsimp only
  repeat' (first | with_reducible assumption | intro _ | with_reducible apply State.portDown_keeps |
                  with_reducible apply keepsO_next | with_reducible apply keeps_foldl | split | simp only [keeps_mk_iff])

theorem execBeamPortRetrain_keeps {r s : State} (h : Keeps r s) (p : Nat) :
    KeepsO r (execBeamPortRetrain p s) := by
  unfold execBeamPortRetrain
  try dsimp only
  repeat' (first | with_reducible assumption | intro _ | with_reducible apply State.modPort_keeps |
                  with_reducible apply keepsO_next | with_reducible apply keeps_foldl | split | simp only [keeps_mk_iff])

/-! ## Package -/

theorem State.ifLink_keeps {r s : State} (h : Keeps r s) (die : Nat) (t : State)
    (ht : Keeps r t) :
    Keeps r (State.ifLink s die t) := by
  unfold State.ifLink
  try dsimp only
  repeat' (first | with_reducible assumption | intro _ | with_reducible apply keepsO_next | with_reducible apply keeps_foldl |
                  split | simp only [keeps_mk_iff])

theorem execNocFlitRetry_keeps {r s : State} (h : Keeps r s) (lk : Nat) (dead : Bool) :
    KeepsO r (execNocFlitRetry lk dead s) := by
  unfold execNocFlitRetry
  try dsimp only
  repeat' (first | with_reducible assumption | intro _ | with_reducible apply State.deviceRung_keeps |
                  with_reducible apply keepsO_next | with_reducible apply keeps_foldl | split | simp only [keeps_mk_iff])

theorem State.offerTrigger_keeps {r s : State} (h : Keeps r s) (die : Nat) (v : Word) :
    Keeps r (State.offerTrigger s die v) := by
  unfold State.offerTrigger
  try dsimp only
  repeat' (first | with_reducible assumption | intro _ | with_reducible apply State.enqueue_keeps |
                  with_reducible apply State.modDie_keeps | with_reducible apply keepsO_next |
                  with_reducible apply keeps_foldl | split | simp only [keeps_mk_iff])

theorem execHostTriggerWrite_keeps {r s : State} (h : Keeps r s) (die : Nat) (v : Word) :
    KeepsO r (execHostTriggerWrite die v s) := by
  unfold execHostTriggerWrite
  try dsimp only
  repeat' (first | with_reducible assumption | intro _ | with_reducible apply State.ifLink_keeps |
                  with_reducible apply State.offerTrigger_keeps | with_reducible apply keepsO_next |
                  with_reducible apply keeps_foldl | split | simp only [keeps_mk_iff])

theorem State.writeTail_keeps {r s : State} (h : Keeps r s) (die : Nat) (q : Nat) (v : W32) :
    Keeps r (State.writeTail s die q v) := by
  unfold State.writeTail
  try dsimp only
  repeat' (first | with_reducible assumption | intro _ | with_reducible apply State.modDie_keeps |
                  with_reducible apply State.writeN_keeps | with_reducible apply keepsO_next |
                  with_reducible apply keeps_foldl | split | simp only [keeps_mk_iff])

theorem execQtailWrite_keeps {r s : State} (h : Keeps r s) (die : Nat) (q : Nat) (v : W32) :
    KeepsO r (execQtailWrite die q v s) := by
  unfold execQtailWrite
  try dsimp only
  repeat' (first | with_reducible assumption | intro _ | with_reducible apply State.ifLink_keeps |
                  with_reducible apply State.writeTail_keeps | with_reducible apply keepsO_next |
                  with_reducible apply keeps_foldl | split | simp only [keeps_mk_iff])

theorem State.setEvctl_keeps {r s : State} (h : Keeps r s) (die : Nat) (v : Word) :
    Keeps r (State.setEvctl s die v) := by
  unfold State.setEvctl
  try dsimp only
  repeat' (first | with_reducible assumption | intro _ | with_reducible apply State.modDie_keeps |
                  with_reducible apply keepsO_next | with_reducible apply keeps_foldl | split | simp only [keeps_mk_iff])

theorem execEvctlWrite_keeps {r s : State} (h : Keeps r s) (die : Nat) (v : Word) :
    KeepsO r (execEvctlWrite die v s) := by
  unfold execEvctlWrite
  try dsimp only
  repeat' (first | with_reducible assumption | intro _ | with_reducible apply State.ifLink_keeps |
                  with_reducible apply State.setEvctl_keeps | with_reducible apply keepsO_next |
                  with_reducible apply keeps_foldl | split | simp only [keeps_mk_iff])

theorem execEvheadWrite_keeps {r s : State} (h : Keeps r s) (die : Nat) (v : W32) :
    KeepsO r (execEvheadWrite die v s) := by
  unfold execEvheadWrite
  try dsimp only
  repeat' (first | with_reducible assumption | intro _ | with_reducible apply State.ifLink_keeps |
                  with_reducible apply State.modDie_keeps | with_reducible apply keepsO_next |
                  with_reducible apply keeps_foldl | split | simp only [keeps_mk_iff])

theorem execEventWrite_keeps {r s : State} (h : Keeps r s) (die : Nat) :
    KeepsO r (execEventWrite die s) := by
  unfold execEventWrite
  try dsimp only
  repeat' (first | with_reducible assumption | intro _ | with_reducible apply State.writeEvent_keeps |
                  with_reducible apply keepsO_next | with_reducible apply keeps_foldl | split | simp only [keeps_mk_iff])

theorem State.setRange_keeps {r s : State} (h : Keeps r s) (fw : Bool) (k : Nat) (lo : Word) (hi : Word) :
    Keeps r (State.setRange s fw k lo hi) := by
  unfold State.setRange
  try dsimp only
  repeat' (first | with_reducible assumption | intro _ | with_reducible apply keepsO_next | with_reducible apply keeps_foldl |
                  split | simp only [keeps_mk_iff])

theorem execHrangeWrite_keeps {r s : State} (h : Keeps r s) (e : RangeEntry) (lo : Word) (hi : Word) :
    KeepsO r (execHrangeWrite e lo hi s) := by
  unfold execHrangeWrite
  try dsimp only
  repeat' (first | with_reducible assumption | intro _ | with_reducible apply State.ifLink_keeps |
                  with_reducible apply State.setRange_keeps | with_reducible apply keepsO_next |
                  with_reducible apply keeps_foldl | split | simp only [keeps_mk_iff])

theorem State.freshNodes_keeps {r s : State} (h : Keeps r s) (die : Nat) (e : BitVec 128) :
    Keeps r (State.freshNodes s die e) := by
  unfold State.freshNodes
  try dsimp only
  repeat' (first | with_reducible assumption | intro _ | with_reducible apply State.writeN_keeps |
                  with_reducible apply keepsO_next | with_reducible apply keeps_foldl | split | simp only [keeps_mk_iff])

theorem State.writeSched_keeps {r s : State} (h : Keeps r s) (die : Nat) (off : Nat) (n : Nat) (v : Nat) :
    Keeps r (State.writeSched s die off n v) := by
  unfold State.writeSched
  try dsimp only
  repeat' (first | with_reducible assumption | intro _ | with_reducible apply State.freshNodes_keeps |
                  with_reducible apply State.setActive_keeps | with_reducible apply State.writeN_keeps |
                  with_reducible apply State.writeTail_keeps | with_reducible apply keepsO_next |
                  with_reducible apply keeps_foldl | split | simp only [keeps_mk_iff])

theorem execSchedmemWrite_keeps {r s : State} (h : Keeps r s) (die : Nat) (off : Nat) (n : Nat) (v : Word) :
    KeepsO r (execSchedmemWrite die off n v s) := by
  unfold execSchedmemWrite
  try dsimp only
  repeat' (first | with_reducible assumption | intro _ | with_reducible apply State.ifLink_keeps |
                  with_reducible apply State.writeSched_keeps | with_reducible apply keepsO_next |
                  with_reducible apply keeps_foldl | split | simp only [keeps_mk_iff])

theorem State.mbDone_keeps {r s : State} (h : Keeps r s) (code : Nat) (cx : Nat) :
    Keeps r (State.mbDone s code cx) := by
  unfold State.mbDone
  try dsimp only
  repeat' (first | with_reducible assumption | intro _ | with_reducible apply State.modDie_keeps |
                  with_reducible apply State.postEvent_keeps | with_reducible apply keepsO_next |
                  with_reducible apply keeps_foldl | split | simp only [keeps_mk_iff])

theorem State.mailbox_keeps {r s : State} (h : Keeps r s) (t : State)
    (ht : Keeps r t) :
    Keeps r (State.mailbox s t) := by
  unfold State.mailbox
  try dsimp only
  repeat' (first | with_reducible assumption | intro _ | with_reducible apply State.ifLink_keeps |
                  with_reducible apply keepsO_next | with_reducible apply keeps_foldl | split | simp only [keeps_mk_iff])

theorem State.mbOn_keeps {r s : State} (h : Keeps r s) (cx : Nat) (k : State → Context → State × Nat)
    (hk : ∀ (a0 : State) (a1 : Context), Keeps r a0 → Keeps r (k a0 a1).1) :
    Keeps r (State.mbOn s cx k) := by
  unfold State.mbOn
  try dsimp only
  repeat' (first | with_reducible assumption | intro _ | with_reducible apply hk | with_reducible apply State.mailbox_keeps |
                  with_reducible apply State.mbDone_keeps | with_reducible apply keepsO_next |
                  with_reducible apply keeps_foldl | split | simp only [keeps_mk_iff])

theorem State.install_keeps {r s : State} (h : Keeps r s) (cx : Nat) (c : Context) :
    Keeps r (State.install s cx c) := by
  unfold State.install
  try dsimp only
  repeat' (first | with_reducible assumption | intro _ | with_reducible apply State.modCore_keeps |
                  with_reducible apply State.queuesOf_keeps | with_reducible apply keepsO_next |
                  with_reducible apply keeps_foldl | split | simp only [keeps_mk_iff])

theorem State.mbCreate_keeps {r s : State} (h : Keeps r s) (arg : Nat) :
    Keeps r (State.mbCreate s arg) := by
  unfold State.mbCreate
  try dsimp only
  repeat' (first | with_reducible assumption | intro _ | with_reducible apply State.install_keeps |
                  with_reducible apply State.mailbox_keeps | with_reducible apply State.mbDone_keeps |
                  with_reducible apply keepsO_next | with_reducible apply keeps_foldl | split | simp only [keeps_mk_iff])

theorem execCreate_keeps {r s : State} (h : Keeps r s) (arg : Nat) :
    KeepsO r (execCreate arg s) := by
  unfold execCreate
  try dsimp only
  repeat' (first | with_reducible assumption | intro _ | with_reducible apply State.mbCreate_keeps |
                  with_reducible apply keepsO_next | with_reducible apply keeps_foldl | split | simp only [keeps_mk_iff])

theorem State.mbDestroy_keeps {r s : State} (h : Keeps r s) (arg : Nat) :
    Keeps r (State.mbDestroy s arg) := by
  unfold State.mbDestroy
  try dsimp only
  repeat' (first | with_reducible assumption | intro _ | with_reducible apply State.destroyContext_keeps |
                  with_reducible apply State.mbOn_keeps | with_reducible apply keepsO_next | with_reducible apply keeps_foldl |
                  split | simp only [keeps_mk_iff])

theorem execDestroy_keeps {r s : State} (h : Keeps r s) (arg : Nat) :
    KeepsO r (execDestroy arg s) := by
  unfold execDestroy
  try dsimp only
  repeat' (first | with_reducible assumption | intro _ | with_reducible apply State.mbDestroy_keeps |
                  with_reducible apply keepsO_next | with_reducible apply keeps_foldl | split | simp only [keeps_mk_iff])

theorem State.mbResume_keeps {r s : State} (h : Keeps r s) (arg : Nat) :
    Keeps r (State.mbResume s arg) := by
  unfold State.mbResume
  try dsimp only
  repeat' (first | with_reducible assumption | intro _ | with_reducible apply State.mbOn_keeps |
                  with_reducible apply State.modCtx_keeps | with_reducible apply keepsO_next |
                  with_reducible apply keeps_foldl | split | simp only [keeps_mk_iff])

theorem execResume_keeps {r s : State} (h : Keeps r s) (arg : Nat) :
    KeepsO r (execResume arg s) := by
  unfold execResume
  try dsimp only
  repeat' (first | with_reducible assumption | intro _ | with_reducible apply State.mbResume_keeps |
                  with_reducible apply keepsO_next | with_reducible apply keeps_foldl | split | simp only [keeps_mk_iff])

theorem State.mbKick_keeps {r s : State} (h : Keeps r s) (arg : Nat) :
    Keeps r (State.mbKick s arg) := by
  unfold State.mbKick
  try dsimp only
  repeat' (first | with_reducible assumption | intro _ | with_reducible apply State.mbOn_keeps |
                  with_reducible apply State.reloadWdog_keeps | with_reducible apply keepsO_next |
                  with_reducible apply keeps_foldl | split | simp only [keeps_mk_iff])

theorem execKick_keeps {r s : State} (h : Keeps r s) (arg : Nat) :
    KeepsO r (execKick arg s) := by
  unfold execKick
  try dsimp only
  repeat' (first | with_reducible assumption | intro _ | with_reducible apply State.mbKick_keeps |
                  with_reducible apply keepsO_next | with_reducible apply keeps_foldl | split | simp only [keeps_mk_iff])

theorem State.setRes_keeps {r s : State} (h : Keeps r s) (p : PageWait) :
    Keeps r (State.setRes s p) := by
  unfold State.setRes
  try dsimp only
  repeat' (first | with_reducible assumption | intro _ | with_reducible apply State.writeN_keeps |
                  with_reducible apply keepsO_next | with_reducible apply keeps_foldl | split | simp only [keeps_mk_iff])

theorem State.mbPagedone_keeps {r s : State} (h : Keeps r s) (arg : Nat) :
    Keeps r (State.mbPagedone s arg) := by
  unfold State.mbPagedone
  try dsimp only
  repeat' (first | with_reducible assumption | intro _ | with_reducible apply State.mbOn_keeps |
                  with_reducible apply State.pumpRuns_keeps | with_reducible apply State.servePages_keeps |
                  with_reducible apply State.setRes_keeps | with_reducible apply keepsO_next |
                  with_reducible apply keeps_foldl | split | simp only [keeps_mk_iff])

theorem execPagedone_keeps {r s : State} (h : Keeps r s) (arg : Nat) :
    KeepsO r (execPagedone arg s) := by
  unfold execPagedone
  try dsimp only
  repeat' (first | with_reducible assumption | intro _ | with_reducible apply State.mbPagedone_keeps |
                  with_reducible apply keepsO_next | with_reducible apply keeps_foldl | split | simp only [keeps_mk_iff])

theorem State.mbPagefail_keeps {r s : State} (h : Keeps r s) (arg : Nat) :
    Keeps r (State.mbPagefail s arg) := by
  unfold State.mbPagefail
  try dsimp only
  repeat' (first | with_reducible assumption | intro _ | with_reducible apply State.declinePage_keeps |
                  with_reducible apply State.mbOn_keeps | with_reducible apply State.pumpRuns_keeps |
                  with_reducible apply keepsO_next | with_reducible apply keeps_foldl | split | simp only [keeps_mk_iff])

theorem execPagefail_keeps {r s : State} (h : Keeps r s) (arg : Nat) :
    KeepsO r (execPagefail arg s) := by
  unfold execPagefail
  try dsimp only
  repeat' (first | with_reducible assumption | intro _ | with_reducible apply State.mbPagefail_keeps |
                  with_reducible apply keepsO_next | with_reducible apply keeps_foldl | split | simp only [keeps_mk_iff])

theorem execMbcmdReserved_keeps {r s : State} (h : Keeps r s) (code : Nat) (arg : Nat) :
    KeepsO r (execMbcmdReserved code arg s) := by
  unfold execMbcmdReserved
  try dsimp only
  repeat' (first | with_reducible assumption | intro _ | with_reducible apply State.mailbox_keeps |
                  with_reducible apply State.mbDone_keeps | with_reducible apply keepsO_next |
                  with_reducible apply keeps_foldl | split | simp only [keeps_mk_iff])

theorem State.mbCommand_keeps {r s : State} (h : Keeps r s) (v : Nat) :
    Keeps r (State.mbCommand s v) := by
  unfold State.mbCommand
  try dsimp only
  repeat' (first | with_reducible assumption | intro _ | with_reducible apply State.mailbox_keeps |
                  with_reducible apply State.mbCreate_keeps | with_reducible apply State.mbDestroy_keeps |
                  with_reducible apply State.mbDone_keeps | with_reducible apply State.mbKick_keeps |
                  with_reducible apply State.mbPagedone_keeps | with_reducible apply State.mbPagefail_keeps |
                  with_reducible apply State.mbResume_keeps | with_reducible apply keepsO_next |
                  with_reducible apply keeps_foldl | split | simp only [keeps_mk_iff])

theorem State.writeWindow_keeps {r s : State} (h : Keeps r s) (die : Nat) (off : Nat) (n : Nat) (v : Word) :
    Keeps r (State.writeWindow s die off n v) := by
  unfold State.writeWindow
  try dsimp only
  repeat' (first | with_reducible assumption | intro _ | with_reducible apply State.mbCommand_keeps |
                  with_reducible apply State.modDie_keeps | with_reducible apply State.offerTrigger_keeps |
                  with_reducible apply State.setEvctl_keeps | with_reducible apply State.setRange_keeps |
                  with_reducible apply State.writeSched_keeps | with_reducible apply State.writeTail_keeps |
                  with_reducible apply keepsO_next | with_reducible apply keeps_foldl | split | simp only [keeps_mk_iff])

theorem execHostWindowWrite_keeps {r s : State} (h : Keeps r s) (die : Nat) (off : Nat) (n : Nat) (v : Word) :
    KeepsO r (execHostWindowWrite die off n v s) := by
  unfold execHostWindowWrite
  try dsimp only
  repeat' (first | with_reducible assumption | intro _ | with_reducible apply State.ifLink_keeps |
                  with_reducible apply State.writeWindow_keeps | with_reducible apply keepsO_next |
                  with_reducible apply keeps_foldl | split | simp only [keeps_mk_iff])

theorem execMmpPageResident_keeps {r s : State} (h : Keeps r s) (k : Nat) (pte : Word) :
    KeepsO r (execMmpPageResident k pte s) := by
  unfold execMmpPageResident
  try dsimp only
  repeat' (first | with_reducible assumption | intro _ | with_reducible apply State.pumpRuns_keeps |
                  with_reducible apply State.servePages_keeps | with_reducible apply State.writeN_keeps |
                  with_reducible apply keepsO_next | with_reducible apply keeps_foldl | split | simp only [keeps_mk_iff])

theorem execPartitionTableWrite_keeps {r s : State} (h : Keeps r s) (p : Nat) (m : Word) :
    KeepsO r (execPartitionTableWrite p m s) := by
  unfold execPartitionTableWrite
  try dsimp only
  repeat' (first | with_reducible assumption | intro _ | with_reducible apply keepsO_next | with_reducible apply keeps_foldl |
                  split | simp only [keeps_mk_iff])

theorem execRouteTableWrite_keeps {r s : State} (h : Keeps r s) (rw : RouteWrite) :
    KeepsO r (execRouteTableWrite rw s) := by
  unfold execRouteTableWrite
  try dsimp only
  repeat' (first | with_reducible assumption | intro _ | with_reducible apply State.modPort_keeps |
                  with_reducible apply keepsO_next | with_reducible apply keeps_foldl | split | simp only [keeps_mk_iff])

theorem State.answer_keeps {r s : State} (h : Keeps r s) (l : List Nat) :
    Keeps r (State.answer s l) := by
  unfold State.answer
  try dsimp only
  repeat' (first | with_reducible assumption | intro _ | with_reducible apply keepsO_next | with_reducible apply keeps_foldl |
                  split | simp only [keeps_mk_iff])

theorem execEnmonLogRead_keeps {r s : State} (h : Keeps r s) (x : EnmonStep) :
    KeepsO r (execEnmonLogRead x s) := by
  unfold execEnmonLogRead
  try dsimp only
  repeat' (first | with_reducible assumption | intro _ | with_reducible apply State.answer_keeps |
                  with_reducible apply keepsO_next | with_reducible apply keeps_foldl | split | simp only [keeps_mk_iff])

theorem execFirmwareUpdate_keeps {r s : State} (h : Keeps r s) (im : Image) :
    KeepsO r (execFirmwareUpdate im s) := by
  unfold execFirmwareUpdate
  try dsimp only
  repeat' (first | with_reducible assumption | intro _ | with_reducible apply keepsO_next | with_reducible apply keeps_foldl |
                  split | simp only [keeps_mk_iff])

theorem execAttestationReport_keeps {r s : State} (h : Keeps r s) (nonce : Nat) :
    KeepsO r (execAttestationReport nonce s) := by
  unfold execAttestationReport
  try dsimp only
  repeat' (first | with_reducible assumption | intro _ | with_reducible apply State.answer_keeps |
                  with_reducible apply keepsO_next | with_reducible apply keeps_foldl | split | simp only [keeps_mk_iff])

theorem State.newEpoch_keeps {r s : State} (h : Keeps r s) :
    Keeps r (State.newEpoch s) := by
  unfold State.newEpoch
  try dsimp only
  repeat' (first | with_reducible assumption | intro _ | with_reducible apply keepsO_next | with_reducible apply keeps_foldl |
                  split | simp only [keeps_mk_iff])

theorem execEnmonReset_keeps {r s : State} (h : Keeps r s) (bad : Bool) :
    KeepsO r (execEnmonReset bad s) := by
  unfold execEnmonReset
  try dsimp only
  repeat' (first | with_reducible assumption | intro _ | with_reducible apply State.enlog_keeps |
                  with_reducible apply State.newEpoch_keeps | with_reducible apply keepsO_next |
                  with_reducible apply keeps_foldl | split | simp only [keeps_mk_iff])

theorem execLogEpochEnd_keeps {r s : State} (h : Keeps r s) :
    KeepsO r (execLogEpochEnd s) := by
  unfold execLogEpochEnd
  try dsimp only
  repeat' (first | with_reducible assumption | intro _ | with_reducible apply State.newEpoch_keeps |
                  with_reducible apply keepsO_next | with_reducible apply keeps_foldl | split | simp only [keeps_mk_iff])

theorem State.emptyTlbs_keeps {r s : State} (h : Keeps r s) (cl : Nat) :
    Keeps r (State.emptyTlbs s cl) := by
  unfold State.emptyTlbs
  try dsimp only
  repeat' (first | with_reducible assumption | intro _ | with_reducible apply State.modColumn_keeps |
                  with_reducible apply keepsO_next | with_reducible apply keeps_foldl | split | simp only [keeps_mk_iff])

theorem execClockSet_keeps {r s : State} (h : Keeps r s) (mem : Bool) (k : Nat) (mhz : Nat) :
    KeepsO r (execClockSet mem k mhz s) := by
  unfold execClockSet
  try dsimp only
  repeat' (first | with_reducible assumption | intro _ | with_reducible apply State.emptyTlbs_keeps |
                  with_reducible apply State.modCluster_keeps | with_reducible apply keepsO_next |
                  with_reducible apply keeps_foldl | split | simp only [keeps_mk_iff])

theorem execPowerLimit_keeps {r s : State} (h : Keeps r s) (x : PowerStep) :
    KeepsO r (execPowerLimit x s) := by
  unfold execPowerLimit
  try dsimp only
  repeat' (first | with_reducible assumption | intro _ | with_reducible apply State.modCluster_keeps |
                  with_reducible apply keepsO_next | with_reducible apply keeps_foldl | split | simp only [keeps_mk_iff])

theorem execThermalTrip_keeps {r s : State} (h : Keeps r s) :
    KeepsO r (execThermalTrip s) := by
  unfold execThermalTrip
  try dsimp only
  repeat' (first | with_reducible assumption | intro _ | with_reducible apply State.bringUp_keeps |
                  with_reducible apply State.postReset_keeps | with_reducible apply State.resetDies_keeps |
                  with_reducible apply keepsO_next | with_reducible apply keeps_foldl | split | simp only [keeps_mk_iff])

theorem execDeviceReset_keeps {r s : State} (h : Keeps r s) :
    KeepsO r (execDeviceReset s) := by
  unfold execDeviceReset
  try dsimp only
  repeat' (first | with_reducible assumption | intro _ | with_reducible apply State.bringUp_keeps |
                  with_reducible apply State.resetDies_keeps | with_reducible apply keepsO_next |
                  with_reducible apply keeps_foldl | split | simp only [keeps_mk_iff])

theorem execHostLinkTrained_keeps {r s : State} (h : Keeps r s) :
    KeepsO r (execHostLinkTrained s) := by
  unfold execHostLinkTrained
  try dsimp only
  repeat' (first | with_reducible assumption | intro _ | with_reducible apply State.bringUp_keeps |
                  with_reducible apply keepsO_next | with_reducible apply keeps_foldl | split | simp only [keeps_mk_iff])

theorem execStackTrained_keeps {r s : State} (h : Keeps r s) (st : Nat) (ok : Bool) :
    KeepsO r (execStackTrained st ok s) := by
  unfold execStackTrained
  try dsimp only
  repeat' (first | with_reducible assumption | intro _ | with_reducible apply State.bringUp_keeps |
                  with_reducible apply keepsO_next | with_reducible apply keeps_foldl | split | simp only [keeps_mk_iff])

theorem execDecompSelftestPass_keeps {r s : State} (h : Keeps r s) (core : Nat) :
    KeepsO r (execDecompSelftestPass core s) := by
  unfold execDecompSelftestPass
  try dsimp only
  repeat' (first | with_reducible assumption | intro _ | with_reducible apply State.bringUp_keeps |
                  with_reducible apply State.modCore_keeps | with_reducible apply keepsO_next |
                  with_reducible apply keeps_foldl | split | simp only [keeps_mk_iff])

theorem execLinkModuleFail_keeps {r s : State} (h : Keeps r s) (m : Nat) :
    KeepsO r (execLinkModuleFail m s) := by
  unfold execLinkModuleFail
  try dsimp only
  repeat' (first | with_reducible assumption | intro _ | with_reducible apply State.deviceRung_keeps |
                  with_reducible apply keepsO_next | with_reducible apply keeps_foldl | split | simp only [keeps_mk_iff])

/-! ## Events -/

theorem State.serveThread_keeps {r s : State} (h : Keeps r s) (w : Nat) (e : Nat) (passed : List Nat) :
    Keeps r (State.serveThread s w e passed) := by
  unfold State.serveThread
  try dsimp only
  repeat' (first | with_reducible assumption | intro _ | with_reducible apply State.modCore_keeps |
                  with_reducible apply State.modWatch_keeps | with_reducible apply keepsO_next |
                  with_reducible apply keeps_foldl | split | simp only [keeps_mk_iff])

theorem acceptEv_keeps {r s : State} (h : Keeps r s) (maj : Nat) (w : Nat) (op : Nat) :
    KeepsO r (acceptEv maj w op s) := by
  unfold acceptEv
  try dsimp only
  repeat' (first | with_reducible assumption | intro _ | with_reducible apply execAuctAccept_keeps |
                  with_reducible apply execRecAnswer_keeps | with_reducible apply execSolicAccept_keeps |
                  with_reducible apply execTcopyAccept_keeps | with_reducible apply execTriggerAccept_keeps |
                  with_reducible apply execWloadAccept_keeps | with_reducible apply keepsO_next |
                  with_reducible apply keeps_foldl | split | simp only [keeps_mk_iff])

theorem crewEv_keeps {r s : State} (h : Keeps r s) (cx : Nat) :
    KeepsO r (crewEv cx s) := by
  unfold crewEv
  try dsimp only
  repeat' (first | with_reducible assumption | intro _ | with_reducible apply State.arrive_keeps |
                  with_reducible apply execCrewControllerArrival_keeps | with_reducible apply execCrewDeparture_keeps |
                  with_reducible apply keepsO_next | with_reducible apply keeps_foldl | split | simp only [keeps_mk_iff])

theorem runEv_keeps {r s : State} (h : Keeps r s) (e : Ev) :
    KeepsO r (runEv e s) := by
  unfold runEv
  try dsimp only
  repeat' (first | with_reducible assumption | intro _ | with_reducible apply acceptEv_keeps |
                  with_reducible apply crewEv_keeps | with_reducible apply execAcpyWrite_keeps |
                  with_reducible apply execAtomicPerform_keeps | with_reducible apply execAuctComplete_keeps |
                  with_reducible apply execAuctRun_keeps | with_reducible apply execBlockPlace_keeps |
                  with_reducible apply execCensusComplete_keeps | with_reducible apply execClosingRecordDeliver_keeps |
                  with_reducible apply execCollRunComplete_keeps | with_reducible apply execCollRunStart_keeps |
                  with_reducible apply execDirectoryInsertAck_keeps | with_reducible apply execDirectoryLookup_keeps |
                  with_reducible apply execDrainMarkAck_keeps | with_reducible apply execDrainProbeAnswer_keeps |
                  with_reducible apply execEventWrite_keeps | with_reducible apply execFatomApply_keeps |
                  with_reducible apply execFatomArrive_keeps | with_reducible apply execFillDone_keeps |
                  with_reducible apply execFillStart_keeps | with_reducible apply execGvecRead_keeps |
                  with_reducible apply execHostStoreAcknowledgement_keeps | with_reducible apply execLaneIssue_keeps |
                  with_reducible apply execLoadSectorReturn_keeps | with_reducible apply execMatrixPass_keeps |
                  with_reducible apply execMatrixPerform_keeps | with_reducible apply execNodeComplete_keeps |
                  with_reducible apply execPairCompare_keeps | with_reducible apply execPairTrailerPlace_keeps |
                  with_reducible apply execParamWrite_keeps | with_reducible apply execPreemptSwitchRequest_keeps |
                  with_reducible apply execRecordDeliver_keeps | with_reducible apply execResponderSpawn_keeps |
                  with_reducible apply execRingEntryTake_keeps | with_reducible apply execRunStart_keeps |
                  with_reducible apply execSpillDone_keeps | with_reducible apply execStorePerform_keeps |
                  with_reducible apply execStreamFetch_keeps | with_reducible apply execSwitchComplete_keeps |
                  with_reducible apply execTcopyComplete_keeps | with_reducible apply execTcopySectorWrite_keeps |
                  with_reducible apply execUnmapwaitExpire_keeps | with_reducible apply execWatchRelease_keeps |
                  with_reducible apply execWloadComplete_keeps | with_reducible apply execWloadSectorWrite_keeps |
                  with_reducible apply execXstWrite_keeps | with_reducible apply State.fatomApply_keeps |
                  with_reducible apply State.release_keeps | with_reducible apply State.wloadSector_keeps |
                  with_reducible apply keepsO_next | with_reducible apply keeps_foldl | split | simp only [keeps_mk_iff])

theorem placeTables_keeps {r s : State} (h : Keeps r s) :
    Keeps r (placeTables s) := by
  unfold placeTables
  try dsimp only
  repeat' (first | with_reducible assumption | intro _ | with_reducible apply State.writeN_keeps |
                  with_reducible apply keepsO_next | with_reducible apply keeps_foldl | split | simp only [keeps_mk_iff])

theorem State.placeBytes_keeps {r s : State} (h : Keeps r s) (l : List Byte) :
    Keeps r (State.placeBytes s l) := by
  unfold State.placeBytes
  try dsimp only
  repeat' (first | with_reducible assumption | intro _ | with_reducible apply State.modCluster_keeps |
                  with_reducible apply State.modColumn_keeps | with_reducible apply State.modCore_keeps |
                  with_reducible apply placeTables_keeps | with_reducible apply State.writeBytes_keeps |
                  with_reducible apply keepsO_next | with_reducible apply keeps_foldl | split | simp only [keeps_mk_iff])

end Sys2Proof.Machine
end

