-- ==== Sys2Proof/Laws/PerInstr.lean ====
section
/-! SUPPORT. The words of every instruction read back as it (02 R37 to R54), constructor by constructor: what the encoder writes for a
well-formed instruction, the decoder takes for that instruction again. -/

set_option Elab.async false
set_option linter.unusedVariables false
set_option linter.unusedSimpArgs false

namespace Sys2Proof

/-! ## Fields of words -/

theorem scopeOf_code (s : Scope) : scopeOf (scopeCode s) = s := by cases s <;> rfl
theorem ordOf_code (s : Ord) : ordOf (ordCode s) = s := by cases s <;> rfl
theorem extract_low {m n : Nat} (x : BitVec m) (y : BitVec n) (a k : Nat) (h : a + k ≤ n) :
    (x ++ y).extractLsb' a k = y.extractLsb' a k := by
  ext i hi
  simp only [BitVec.getElem_extractLsb', BitVec.getLsbD_append]
  rw [if_pos (by omega)]
theorem extract_high {m n : Nat} (x : BitVec m) (y : BitVec n) (a k : Nat) (h : n ≤ a) :
    (x ++ y).extractLsb' a k = x.extractLsb' (a - n) k := by
  ext i hi
  simp only [BitVec.getElem_extractLsb', BitVec.getLsbD_append]
  rw [if_neg (by omega)]
  congr 1; omega
theorem bit_low {m n : Nat} (x : BitVec m) (y : BitVec n) (k : Nat) (h : k < n) : (x ++ y).getLsbD k = y.getLsbD k := by
  rw [BitVec.getLsbD_append, if_pos h]
theorem bit_high {m n : Nat} (x : BitVec m) (y : BitVec n) (k : Nat) (h : n ≤ k) : (x ++ y).getLsbD k = x.getLsbD (k - n) := by
  rw [BitVec.getLsbD_append, if_neg (by omega)]
theorem extract_all {n : Nat} (x : BitVec n) : x.extractLsb' 0 n = x := by
  ext i hi
  simp [BitVec.getElem_extractLsb']
theorem xcScope_xc (s r t c f) : xcScope (xc s r t c f) = s := by
  rw [xcScope, xc, extract_low _ _ _ _ (by omega), extract_all, scopeOf_code]
theorem xcOrd_xc (s r t c f) : xcOrd (xc s r t c f) = r := by
  rw [xcOrd, xc, extract_high _ _ _ _ (by omega), extract_low _ _ _ _ (by omega), extract_all, ordOf_code]
theorem xcTag_xc (s r t c f) : xcTag (xc s r t c f) = t := by
  rw [xcTag, xc, extract_high _ _ _ _ (by omega), extract_high _ _ _ _ (by omega), extract_low _ _ _ _ (by omega), extract_all]
theorem xcCount_xc (s r t c f) : xcCount (xc s r t c f) = c := by
  rw [xcCount, xc, extract_high _ _ _ _ (by omega), extract_high _ _ _ _ (by omega), extract_high _ _ _ _ (by omega), extract_low _ _ _ _ (by omega), extract_all]
theorem imm12_fieldsI (l m d a i) : imm12 (fieldsI l m d a i) = i := by
  apply BitVec.eq_of_getLsbD_eq
  intro k hk
  rw [imm12, fieldsI]
  by_cases h : k < 6
  · rw [bit_low _ _ _ h]; simp [BitVec.getLsbD_extractLsb', h]
  · rw [bit_high _ _ _ (by omega), BitVec.getLsbD_extractLsb', decide_eq_true (by omega : k - 6 < 6)]
    simp; congr 1; omega
theorem xcFlag_xc (s r t c f) : (xc s r t c f).getLsbD 25 = f := by
  rw [xc, bit_high _ _ _ (by omega), bit_high _ _ _ (by omega), bit_high _ _ _ (by omega), bit_high _ _ _ (by omega)]; cases f <;> rfl
theorem unpack_pack (f : Fields) : unpackFields (packFields f) = f := by
  obtain ⟨l, m, d, a, b, n⟩ := f
  simp only [unpackFields, packFields, Fields.mk.injEq]
  refine ⟨?_, ?_, ?_, ?_, ?_, ?_⟩ <;>
    repeat (first | rw [extract_low _ _ _ _ (by omega)] | rw [extract_high _ _ _ _ (by omega)] | exact extract_all _)
theorem xvReg_xv (v p a) : xvReg (xv v p a) = v := by
  rw [xvReg, xv, extract_low _ _ _ _ (by omega), extract_all]
theorem xvPair_xv (v p a) : (xv v p a).getLsbD 9 = p := by
  rw [xv, bit_high _ _ _ (by omega), bit_low _ _ _ (by omega)]; cases p <;> rfl
theorem xvAll_xv (v p a) : (xv v p a).getLsbD 10 = a := by
  rw [xv, bit_high _ _ _ (by omega), bit_high _ _ _ (by omega), bit_low _ _ _ (by omega)]; cases a <;> rfl
theorem xl_st (st n) : (xl st n).extractLsb' 0 25 = st := by rw [xl, extract_low _ _ _ _ (by omega), extract_all]
theorem xl_n (st n) : (xl st n).extractLsb' 25 6 = n := by rw [xl, extract_high _ _ _ _ (by omega), extract_low _ _ _ _ (by omega), extract_all]
theorem xsOf_xs (x) : xsOf (xs x) = x := by
  obtain ⟨n, k, fa, fb, ga, gb⟩ := x
  simp only [xsOf, xs, ShapeReq.mk.injEq]
  refine ⟨?_, ?_, ?_, ?_, ?_, ?_⟩ <;>
    repeat (first | rw [extract_low _ _ _ _ (by omega)] | rw [extract_high _ _ _ _ (by omega)] | exact extract_all _)
theorem setWidth_wide {m : Nat} (n : Nat) (h : m ≤ n) (x : BitVec m) : (x.setWidth n).setWidth m = x := by
  apply BitVec.eq_of_getLsbD_eq
  intro k hk
  simp only [BitVec.getLsbD_setWidth, hk, decide_true, Bool.true_and, decide_eq_true (Nat.lt_of_lt_of_le hk h)]
theorem brCond_code (c) : brCond (brCode c) = some c := by cases c <;> rfl
theorem atomOp_code (c) : atomOp (atomCode c) = some c := by cases c <;> rfl
theorem atomTag_reg (z c s r n f) : (xc s r (atomTag z c) n f).extractLsb' 6 6 = c := by
  rw [xc, extract_high _ _ _ _ (by omega), extract_high _ _ _ _ (by omega), extract_low _ _ _ _ (by omega), atomTag,
    extract_high _ _ _ _ (by omega), extract_low _ _ _ _ (by omega), extract_all]
theorem atomTag_z (z c s r n f) : (xc s r (atomTag z c) n f).getLsbD 5 = z := by
  rw [xc, bit_high _ _ _ (by omega), bit_high _ _ _ (by omega), bit_low _ _ _ (by omega), atomTag, bit_low _ _ _ (by omega)]; cases z <;> rfl
theorem drCode_dr (dr op) : (drCode dr op).extractLsb' 3 2 = dr := by
  rw [drCode, extract_high _ _ _ _ (by omega), extract_low _ _ _ _ (by omega), extract_all]
theorem drCode_op (dr op) : (drCode dr op).extractLsb' 0 3 = op := by
  rw [drCode, extract_low _ _ _ _ (by omega), extract_all]
theorem bit_field (b) : (bit b).getLsbD 0 = b := by cases b <;> rfl
theorem solicRole (s r t) (ro : B2) (f) : (xc s r t (ro.setWidth 12) f).extractLsb' 13 2 = ro := by
  rw [xc, extract_high _ _ _ _ (by omega), extract_high _ _ _ _ (by omega), extract_high _ _ _ _ (by omega), extract_low _ _ _ _ (by omega)]
  exact setWidth_wide 12 (by omega) ro
theorem recQueue (s r) (q : Reg) (n f) : (xc s r (q.setWidth 8) n f).extractLsb' 5 6 = q := by
  rw [xc, extract_high _ _ _ _ (by omega), extract_high _ _ _ _ (by omega), extract_low _ _ _ _ (by omega)]
  exact setWidth_wide 8 (by omega) q

/-! ## The fields of a chunk word -/

theorem word_op (op ch dt fn peer ck n) : (chunkWord op ch dt fn peer ck n).extractLsb' 0 4 = op := by
  rw [chunkWord]
  repeat (first | rw [extract_low _ _ _ _ (by omega)] | rw [extract_high _ _ _ _ (by omega)] | exact extract_all _)
theorem word_ch (op ch dt fn peer ck n) : (chunkWord op ch dt fn peer ck n).extractLsb' 4 4 = ch := by
  rw [chunkWord]
  repeat (first | rw [extract_low _ _ _ _ (by omega)] | rw [extract_high _ _ _ _ (by omega)] | exact extract_all _)
theorem word_dt (op ch dt fn peer ck n) : (chunkWord op ch dt fn peer ck n).extractLsb' 8 4 = dt := by
  rw [chunkWord]
  repeat (first | rw [extract_low _ _ _ _ (by omega)] | rw [extract_high _ _ _ _ (by omega)] | exact extract_all _)
theorem word_fn (op ch dt fn peer ck n) : (chunkWord op ch dt fn peer ck n).extractLsb' 12 4 = fn := by
  rw [chunkWord]
  repeat (first | rw [extract_low _ _ _ _ (by omega)] | rw [extract_high _ _ _ _ (by omega)] | exact extract_all _)
theorem word_peer (op ch dt fn peer ck n) : (chunkWord op ch dt fn peer ck n).extractLsb' 16 16 = peer := by
  rw [chunkWord]
  repeat (first | rw [extract_low _ _ _ _ (by omega)] | rw [extract_high _ _ _ _ (by omega)] | exact extract_all _)
theorem word_ck (op ch dt fn peer ck n) : (chunkWord op ch dt fn peer ck n).extractLsb' 32 16 = ck := by
  rw [chunkWord]
  repeat (first | rw [extract_low _ _ _ _ (by omega)] | rw [extract_high _ _ _ _ (by omega)] | exact extract_all _)
theorem word_n (op ch dt fn peer ck n) : (chunkWord op ch dt fn peer ck n).extractLsb' 48 16 = n := by
  rw [chunkWord]
  repeat (first | rw [extract_low _ _ _ _ (by omega)] | rw [extract_high _ _ _ _ (by omega)] | exact extract_all _)

/-! ## One lemma for each constructor -/

/-- What the encoder writes for an instruction whose fields lie in their ranges, the decoder reads as it: the words of a control
instruction, the opcode and operands of a lane instruction, a chunk word. -/
def Laws.WordsRead.Statement (i : Instr) : Prop :=
  (i.controlRanges = true → ∀ w, encodeControl i = some w → decodeControl w = some i) ∧
  (i.laneRow = true → ∀ op o, encodeLaneOp i = some (op, o) → laneOfOp op o = some i) ∧
  (i.chunkRanges = true → ∀ w, encodeChunk i = some w → decodeChunk w = .ok i)

theorem of_none {i : Instr} (hc : encodeControl i = none) (hl : encodeLaneOp i = none) (hk : encodeChunk i = none) :
    Laws.WordsRead.Statement i := by
  refine ⟨fun _ _ h => ?_, fun _ _ _ h => ?_, fun _ _ h => ?_⟩
  · rw [hc] at h; exact nomatch h
  · rw [hl] at h; exact nomatch h
  · rw [hk] at h; exact nomatch h

theorem of_control {i : Instr} {w : CtlWords} (e : encodeControl i = some w) (hl : encodeLaneOp i = none)
    (hk : encodeChunk i = none) (ht : trimWords w = w) (hc : i.controlRanges = true → candidate w = some i) :
    Laws.WordsRead.Statement i := by
  refine ⟨fun hr v hw => ?_, fun _ _ _ h => ?_, fun _ _ h => ?_⟩
  · cases Option.some.inj (hw.symm.trans e)
    simp only [decodeControl, ht, hc hr, hr, e, decide_true, Bool.and_self, if_true]
  · rw [hl] at h; exact nomatch h
  · rw [hk] at h; exact nomatch h

theorem of_lane {i : Instr} {op : BitVec 8} {o : LaneOps} (e : encodeLaneOp i = some (op, o)) (hc : encodeControl i = none)
    (hk : encodeChunk i = none) (h : i.laneRow = true → laneOfOp op o = some i) : Laws.WordsRead.Statement i := by
  refine ⟨fun _ _ g => ?_, fun hr op' o' g => ?_, fun _ _ g => ?_⟩
  · rw [hc] at g; exact nomatch g
  · cases Option.some.inj (g.symm.trans e)
    exact h hr
  · rw [hk] at g; exact nomatch g

theorem of_chunk {i : Instr} {w : Word} (e : encodeChunk i = some w) (hc : encodeControl i = none) (hl : encodeLaneOp i = none)
    (h : chunkCandidate w = some i) : Laws.WordsRead.Statement i := by
  refine ⟨fun _ _ g => ?_, fun _ _ _ g => ?_, fun hr v g => ?_⟩
  · rw [hc] at g; exact nomatch g
  · rw [hl] at g; exact nomatch g
  · cases Option.some.inj (g.symm.trans e)
    simp only [decodeChunk, h, hr, e, decide_true, Bool.and_self, if_true]

theorem Laws.WordsRead.add d a b : Laws.WordsRead.Statement (.add d a b) :=
  of_control rfl rfl rfl rfl fun _ => rfl
theorem Laws.WordsRead.sub d a b : Laws.WordsRead.Statement (.sub d a b) :=
  of_control rfl rfl rfl rfl fun _ => rfl
theorem Laws.WordsRead.mul d a b : Laws.WordsRead.Statement (.mul d a b) :=
  of_control rfl rfl rfl rfl fun _ => rfl
theorem Laws.WordsRead.mulh d a b : Laws.WordsRead.Statement (.mulh d a b) :=
  of_control rfl rfl rfl rfl fun _ => rfl
theorem Laws.WordsRead.mulhu d a b : Laws.WordsRead.Statement (.mulhu d a b) :=
  of_control rfl rfl rfl rfl fun _ => rfl
theorem Laws.WordsRead.div d a b : Laws.WordsRead.Statement (.div d a b) :=
  of_control rfl rfl rfl rfl fun _ => rfl
theorem Laws.WordsRead.divu d a b : Laws.WordsRead.Statement (.divu d a b) :=
  of_control rfl rfl rfl rfl fun _ => rfl
theorem Laws.WordsRead.rem d a b : Laws.WordsRead.Statement (.rem d a b) :=
  of_control rfl rfl rfl rfl fun _ => rfl
theorem Laws.WordsRead.remu d a b : Laws.WordsRead.Statement (.remu d a b) :=
  of_control rfl rfl rfl rfl fun _ => rfl
theorem Laws.WordsRead.and d a b : Laws.WordsRead.Statement (.and d a b) :=
  of_control rfl rfl rfl rfl fun _ => rfl
theorem Laws.WordsRead.or d a b : Laws.WordsRead.Statement (.or d a b) :=
  of_control rfl rfl rfl rfl fun _ => rfl
theorem Laws.WordsRead.xor d a b : Laws.WordsRead.Statement (.xor d a b) :=
  of_control rfl rfl rfl rfl fun _ => rfl
theorem Laws.WordsRead.andn d a b : Laws.WordsRead.Statement (.andn d a b) :=
  of_control rfl rfl rfl rfl fun _ => rfl
theorem Laws.WordsRead.shl d a b : Laws.WordsRead.Statement (.shl d a b) :=
  of_control rfl rfl rfl rfl fun _ => rfl
theorem Laws.WordsRead.shr d a b : Laws.WordsRead.Statement (.shr d a b) :=
  of_control rfl rfl rfl rfl fun _ => rfl
theorem Laws.WordsRead.sar d a b : Laws.WordsRead.Statement (.sar d a b) :=
  of_control rfl rfl rfl rfl fun _ => rfl
theorem Laws.WordsRead.rol d a b : Laws.WordsRead.Statement (.rol d a b) :=
  of_control rfl rfl rfl rfl fun _ => rfl
theorem Laws.WordsRead.min d a b : Laws.WordsRead.Statement (.min d a b) :=
  of_control rfl rfl rfl rfl fun _ => rfl
theorem Laws.WordsRead.max d a b : Laws.WordsRead.Statement (.max d a b) :=
  of_control rfl rfl rfl rfl fun _ => rfl
theorem Laws.WordsRead.minu d a b : Laws.WordsRead.Statement (.minu d a b) :=
  of_control rfl rfl rfl rfl fun _ => rfl
theorem Laws.WordsRead.maxu d a b : Laws.WordsRead.Statement (.maxu d a b) :=
  of_control rfl rfl rfl rfl fun _ => rfl
theorem Laws.WordsRead.popc d a : Laws.WordsRead.Statement (.popc d a) :=
  of_control rfl rfl rfl rfl fun _ => rfl
theorem Laws.WordsRead.clz d a : Laws.WordsRead.Statement (.clz d a) :=
  of_control rfl rfl rfl rfl fun _ => rfl
theorem Laws.WordsRead.ctz d a : Laws.WordsRead.Statement (.ctz d a) :=
  of_control rfl rfl rfl rfl fun _ => rfl
theorem Laws.WordsRead.seq d a b : Laws.WordsRead.Statement (.seq d a b) :=
  of_control rfl rfl rfl rfl fun _ => rfl
theorem Laws.WordsRead.sne d a b : Laws.WordsRead.Statement (.sne d a b) :=
  of_control rfl rfl rfl rfl fun _ => rfl
theorem Laws.WordsRead.slt d a b : Laws.WordsRead.Statement (.slt d a b) :=
  of_control rfl rfl rfl rfl fun _ => rfl
theorem Laws.WordsRead.sltu d a b : Laws.WordsRead.Statement (.sltu d a b) :=
  of_control rfl rfl rfl rfl fun _ => rfl
theorem Laws.WordsRead.brev d a : Laws.WordsRead.Statement (.brev d a) :=
  of_control rfl rfl rfl rfl fun _ => rfl
theorem Laws.WordsRead.mov d a : Laws.WordsRead.Statement (.mov d a) :=
  of_control rfl rfl rfl rfl fun _ => rfl
theorem Laws.WordsRead.addi d a i : Laws.WordsRead.Statement (.addi d a i) :=
  of_control rfl rfl rfl rfl fun _ => by
    show (some (Instr.addi (fieldsI 0 1 (d) (a) i).d (fieldsI 0 1 (d) (a) i).a (imm12 (fieldsI 0 1 (d) (a) i)))) = _
    simp only [imm12_fieldsI, xcScope_xc, xcOrd_xc, xcTag_xc, xcCount_xc, xcFlag_xc, xvReg_xv, xvPair_xv, xvAll_xv, setWidth_wide,
      Nat.reduceLeDiff,
      atomOp_code, atomTag_reg, atomTag_z, bit_field, solicRole, recQueue, Option.map_some, if_true, Bool.false_eq_true, if_false]
    rfl
theorem Laws.WordsRead.addi64 d a i : Laws.WordsRead.Statement (.addi64 d a i) :=
  of_control rfl rfl rfl rfl fun _ => rfl
theorem Laws.WordsRead.andi d a i : Laws.WordsRead.Statement (.andi d a i) :=
  of_control rfl rfl rfl rfl fun _ => by
    show (some (Instr.andi (fieldsI 0 2 (d) (a) i).d (fieldsI 0 2 (d) (a) i).a (imm12 (fieldsI 0 2 (d) (a) i)))) = _
    simp only [imm12_fieldsI, xcScope_xc, xcOrd_xc, xcTag_xc, xcCount_xc, xcFlag_xc, xvReg_xv, xvPair_xv, xvAll_xv, setWidth_wide,
      Nat.reduceLeDiff,
      atomOp_code, atomTag_reg, atomTag_z, bit_field, solicRole, recQueue, Option.map_some, if_true, Bool.false_eq_true, if_false]
    rfl
theorem Laws.WordsRead.andi64 d a i : Laws.WordsRead.Statement (.andi64 d a i) :=
  of_control rfl rfl rfl rfl fun _ => rfl
theorem Laws.WordsRead.ori d a i : Laws.WordsRead.Statement (.ori d a i) :=
  of_control rfl rfl rfl rfl fun _ => by
    show (some (Instr.ori (fieldsI 0 3 (d) (a) i).d (fieldsI 0 3 (d) (a) i).a (imm12 (fieldsI 0 3 (d) (a) i)))) = _
    simp only [imm12_fieldsI, xcScope_xc, xcOrd_xc, xcTag_xc, xcCount_xc, xcFlag_xc, xvReg_xv, xvPair_xv, xvAll_xv, setWidth_wide,
      Nat.reduceLeDiff,
      atomOp_code, atomTag_reg, atomTag_z, bit_field, solicRole, recQueue, Option.map_some, if_true, Bool.false_eq_true, if_false]
    rfl
theorem Laws.WordsRead.ori64 d a i : Laws.WordsRead.Statement (.ori64 d a i) :=
  of_control rfl rfl rfl rfl fun _ => rfl
theorem Laws.WordsRead.xori d a i : Laws.WordsRead.Statement (.xori d a i) :=
  of_control rfl rfl rfl rfl fun _ => by
    show (some (Instr.xori (fieldsI 0 4 (d) (a) i).d (fieldsI 0 4 (d) (a) i).a (imm12 (fieldsI 0 4 (d) (a) i)))) = _
    simp only [imm12_fieldsI, xcScope_xc, xcOrd_xc, xcTag_xc, xcCount_xc, xcFlag_xc, xvReg_xv, xvPair_xv, xvAll_xv, setWidth_wide,
      Nat.reduceLeDiff,
      atomOp_code, atomTag_reg, atomTag_z, bit_field, solicRole, recQueue, Option.map_some, if_true, Bool.false_eq_true, if_false]
    rfl
theorem Laws.WordsRead.xori64 d a i : Laws.WordsRead.Statement (.xori64 d a i) :=
  of_control rfl rfl rfl rfl fun _ => rfl
theorem Laws.WordsRead.slti d a i : Laws.WordsRead.Statement (.slti d a i) :=
  of_control rfl rfl rfl rfl fun _ => by
    show (some (Instr.slti (fieldsI 0 6 (d) (a) i).d (fieldsI 0 6 (d) (a) i).a (imm12 (fieldsI 0 6 (d) (a) i)))) = _
    simp only [imm12_fieldsI, xcScope_xc, xcOrd_xc, xcTag_xc, xcCount_xc, xcFlag_xc, xvReg_xv, xvPair_xv, xvAll_xv, setWidth_wide,
      Nat.reduceLeDiff,
      atomOp_code, atomTag_reg, atomTag_z, bit_field, solicRole, recQueue, Option.map_some, if_true, Bool.false_eq_true, if_false]
    rfl
theorem Laws.WordsRead.slti64 d a i : Laws.WordsRead.Statement (.slti64 d a i) :=
  of_control rfl rfl rfl rfl fun _ => rfl
theorem Laws.WordsRead.shli d a n : Laws.WordsRead.Statement (.shli d a n) :=
  of_control rfl rfl rfl rfl fun _ => rfl
theorem Laws.WordsRead.shri d a n : Laws.WordsRead.Statement (.shri d a n) :=
  of_control rfl rfl rfl rfl fun _ => rfl
theorem Laws.WordsRead.sari d a n : Laws.WordsRead.Statement (.sari d a n) :=
  of_control rfl rfl rfl rfl fun _ => rfl
theorem Laws.WordsRead.li d i : Laws.WordsRead.Statement (.li d i) :=
  of_control rfl rfl rfl rfl fun _ => by
    show (some (Instr.li (fieldsI 0 7 (d) (0) i).d (imm12 (fieldsI 0 7 (d) (0) i)))) = _
    simp only [imm12_fieldsI, xcScope_xc, xcOrd_xc, xcTag_xc, xcCount_xc, xcFlag_xc, xvReg_xv, xvPair_xv, xvAll_xv, setWidth_wide,
      Nat.reduceLeDiff,
      atomOp_code, atomTag_reg, atomTag_z, bit_field, solicRole, recQueue, Option.map_some, if_true, Bool.false_eq_true, if_false]
    rfl
theorem Laws.WordsRead.li64 d i : Laws.WordsRead.Statement (.li64 d i) :=
  of_control rfl rfl rfl rfl fun _ => rfl
theorem Laws.WordsRead.lih d a i : Laws.WordsRead.Statement (.lih d a i) :=
  of_control rfl rfl rfl rfl fun _ => rfl
theorem Laws.WordsRead.addr d a b t : Laws.WordsRead.Statement (.addr d a b t) :=
  of_control rfl rfl rfl rfl fun _ => by
    simp [candidate, candidate32, candidate64, candidate96, xcScope_xc, xcOrd_xc, xcTag_xc, xcCount_xc, xvReg_xv, xl_st, xl_n, xsOf_xs,
      setWidth_wide, brCond_code, atomOp_code, drCode_dr, drCode_op]
theorem Laws.WordsRead.colxCol d a : Laws.WordsRead.Statement (.colxCol d a) :=
  of_control rfl rfl rfl rfl fun _ => rfl
theorem Laws.WordsRead.colxOff d a : Laws.WordsRead.Statement (.colxOff d a) :=
  of_control rfl rfl rfl rfl fun _ => rfl
theorem Laws.WordsRead.colxTag d a : Laws.WordsRead.Statement (.colxTag d a) :=
  of_control rfl rfl rfl rfl fun _ => rfl
theorem Laws.WordsRead.mad d a b c : Laws.WordsRead.Statement (.mad d a b c) :=
  of_control rfl rfl rfl rfl fun _ => rfl
theorem Laws.WordsRead.br c a b o : Laws.WordsRead.Statement (.br c a b o) :=
  of_control rfl rfl rfl rfl fun _ => by
    simp [candidate, candidate32, candidate64, candidate96, xcScope_xc, xcOrd_xc, xcTag_xc, xcCount_xc, xvReg_xv, xl_st, xl_n, xsOf_xs,
      setWidth_wide, brCond_code, atomOp_code, drCode_dr, drCode_op]
theorem Laws.WordsRead.jmp o : Laws.WordsRead.Statement (.jmp o) :=
  of_control rfl rfl rfl rfl fun _ => rfl
theorem Laws.WordsRead.call o : Laws.WordsRead.Statement (.call o) :=
  of_control rfl rfl rfl rfl fun _ => rfl
theorem Laws.WordsRead.jr a : Laws.WordsRead.Statement (.jr a) :=
  of_control rfl rfl rfl rfl fun _ => rfl
theorem Laws.WordsRead.callr a : Laws.WordsRead.Statement (.callr a) :=
  of_control rfl rfl rfl rfl fun _ => rfl
theorem Laws.WordsRead.split p t x : Laws.WordsRead.Statement (.split p t x) :=
  of_control rfl rfl rfl rfl fun _ => by
    simp [candidate, candidate32, candidate64, candidate96, xcScope_xc, xcOrd_xc, xcTag_xc, xcCount_xc, xvReg_xv, xl_st, xl_n, xsOf_xs,
      setWidth_wide, brCond_code, atomOp_code, drCode_dr, drCode_op]
theorem Laws.WordsRead.splitN p t x : Laws.WordsRead.Statement (.splitN p t x) :=
  of_control rfl rfl rfl rfl fun _ => by
    simp [candidate, candidate32, candidate64, candidate96, xcScope_xc, xcOrd_xc, xcTag_xc, xcCount_xc, xvReg_xv, xl_st, xl_n, xsOf_xs,
      setWidth_wide, brCond_code, atomOp_code, drCode_dr, drCode_op]
theorem Laws.WordsRead.callv v : Laws.WordsRead.Statement (.callv v) :=
  of_control rfl rfl rfl rfl fun _ => by
    simp [candidate, candidate32, candidate64, candidate96, xcScope_xc, xcOrd_xc, xcTag_xc, xcCount_xc, xvReg_xv, xl_st, xl_n, xsOf_xs,
      setWidth_wide, brCond_code, atomOp_code, drCode_dr, drCode_op]
theorem Laws.WordsRead.sld d a z : Laws.WordsRead.Statement (.sld d a z) :=
  of_control rfl rfl rfl rfl fun _ => by
    simp [candidate, candidate32, candidate64, candidate96, xcScope_xc, xcOrd_xc, xcTag_xc, xcCount_xc, xvReg_xv, xl_st, xl_n, xsOf_xs,
      setWidth_wide, brCond_code, atomOp_code, drCode_dr, drCode_op]
theorem Laws.WordsRead.sld64 d a z o : Laws.WordsRead.Statement (.sld64 d a z o) :=
  of_control rfl rfl rfl rfl fun _ => by
    simp [candidate, candidate32, candidate64, candidate96, xcScope_xc, xcOrd_xc, xcTag_xc, xcCount_xc, xvReg_xv, xl_st, xl_n, xsOf_xs,
      setWidth_wide, brCond_code, atomOp_code, drCode_dr, drCode_op]
theorem Laws.WordsRead.sst a b z : Laws.WordsRead.Statement (.sst a b z) :=
  of_control rfl rfl rfl rfl fun _ => by
    simp [candidate, candidate32, candidate64, candidate96, xcScope_xc, xcOrd_xc, xcTag_xc, xcCount_xc, xvReg_xv, xl_st, xl_n, xsOf_xs,
      setWidth_wide, brCond_code, atomOp_code, drCode_dr, drCode_op]
theorem Laws.WordsRead.sst64 a b z o : Laws.WordsRead.Statement (.sst64 a b z o) :=
  of_control rfl rfl rfl rfl fun _ => by
    simp [candidate, candidate32, candidate64, candidate96, xcScope_xc, xcOrd_xc, xcTag_xc, xcCount_xc, xvReg_xv, xl_st, xl_n, xsOf_xs,
      setWidth_wide, brCond_code, atomOp_code, drCode_dr, drCode_op]
theorem Laws.WordsRead.satom d a b k c z r s : Laws.WordsRead.Statement (.satom d a b k c z r s) :=
  of_control rfl rfl rfl rfl fun _ => by
    show ((atomOp (Fields.mk 1 26 d a b (atomCode k)).m).map fun op => Instr.satom (Fields.mk 1 26 d a b (atomCode k)).d (Fields.mk 1 26
        d a b (atomCode k)).a (Fields.mk 1 26 d a b (atomCode k)).b op ((xc s r (atomTag z c) 0 false).extractLsb' 6 6) ((xc s r
        (atomTag z c) 0 false).getLsbD 5) (xcOrd (xc s r (atomTag z c) 0 false)) (xcScope (xc s r (atomTag z c) 0 false))) = _
    simp only [imm12_fieldsI, xcScope_xc, xcOrd_xc, xcTag_xc, xcCount_xc, xcFlag_xc, xvReg_xv, xvPair_xv, xvAll_xv, setWidth_wide,
      Nat.reduceLeDiff,
      atomOp_code, atomTag_reg, atomTag_z, bit_field, solicRole, recQueue, Option.map_some, if_true, Bool.false_eq_true, if_false]
theorem Laws.WordsRead.xatom d a b k c z r s : Laws.WordsRead.Statement (.xatom d a b k c z r s) :=
  of_control rfl rfl rfl rfl fun _ => by
    show ((atomOp (Fields.mk 1 27 d a b (atomCode k)).m).map fun op => Instr.xatom (Fields.mk 1 27 d a b (atomCode k)).d (Fields.mk 1 27
        d a b (atomCode k)).a (Fields.mk 1 27 d a b (atomCode k)).b op ((xc s r (atomTag z c) 0 false).extractLsb' 6 6) ((xc s r
        (atomTag z c) 0 false).getLsbD 5) (xcOrd (xc s r (atomTag z c) 0 false)) (xcScope (xc s r (atomTag z c) 0 false))) = _
    simp only [imm12_fieldsI, xcScope_xc, xcOrd_xc, xcTag_xc, xcCount_xc, xcFlag_xc, xvReg_xv, xvPair_xv, xvAll_xv, setWidth_wide,
      Nat.reduceLeDiff,
      atomOp_code, atomTag_reg, atomTag_z, bit_field, solicRole, recQueue, Option.map_some, if_true, Bool.false_eq_true, if_false]
theorem Laws.WordsRead.fence r s : Laws.WordsRead.Statement (.fence r s) :=
  of_control rfl rfl rfl rfl fun _ => by
    simp [candidate, candidate32, candidate64, candidate96, xcScope_xc, xcOrd_xc, xcTag_xc, xcCount_xc, xvReg_xv, xl_st, xl_n, xsOf_xs,
      setWidth_wide, brCond_code, atomOp_code, drCode_dr, drCode_op]
theorem Laws.WordsRead.spref a : Laws.WordsRead.Statement (.spref a) :=
  of_control rfl rfl rfl rfl fun _ => rfl
theorem Laws.WordsRead.spref64 a o : Laws.WordsRead.Statement (.spref64 a o) :=
  of_control rfl rfl rfl rfl fun _ => rfl
theorem Laws.WordsRead.lx st n : Laws.WordsRead.Statement (.lx st n) :=
  of_control rfl rfl rfl rfl fun _ => by
    simp [candidate, candidate32, candidate64, candidate96, xcScope_xc, xcOrd_xc, xcTag_xc, xcCount_xc, xvReg_xv, xl_st, xl_n, xsOf_xs,
      setWidth_wide, brCond_code, atomOp_code, drCode_dr, drCode_op]
theorem Laws.WordsRead.strmDef a q : Laws.WordsRead.Statement (.strmDef a q) :=
  of_control rfl rfl rfl rfl fun _ => by
    simp [candidate, candidate32, candidate64, candidate96, xcScope_xc, xcOrd_xc, xcTag_xc, xcCount_xc, xvReg_xv, xl_st, xl_n, xsOf_xs,
      setWidth_wide, brCond_code, atomOp_code, drCode_dr, drCode_op]
theorem Laws.WordsRead.strmGo m : Laws.WordsRead.Statement (.strmGo m) :=
  of_control rfl rfl rfl rfl fun _ => by
    simp [candidate, candidate32, candidate64, candidate96, xcScope_xc, xcOrd_xc, xcTag_xc, xcCount_xc, xvReg_xv, xl_st, xl_n, xsOf_xs,
      setWidth_wide, brCond_code, atomOp_code, drCode_dr, drCode_op]
theorem Laws.WordsRead.strmStop m : Laws.WordsRead.Statement (.strmStop m) :=
  of_control rfl rfl rfl rfl fun _ => by
    simp [candidate, candidate32, candidate64, candidate96, xcScope_xc, xcOrd_xc, xcTag_xc, xcCount_xc, xvReg_xv, xl_st, xl_n, xsOf_xs,
      setWidth_wide, brCond_code, atomOp_code, drCode_dr, drCode_op]
theorem Laws.WordsRead.shape d x : Laws.WordsRead.Statement (.shape d x) :=
  of_control rfl rfl rfl rfl fun _ => by
    simp [candidate, candidate32, candidate64, candidate96, xcScope_xc, xcOrd_xc, xcTag_xc, xcCount_xc, xvReg_xv, xl_st, xl_n, xsOf_xs,
      setWidth_wide, brCond_code, atomOp_code, drCode_dr, drCode_op]
theorem Laws.WordsRead.vget d a v pr : Laws.WordsRead.Statement (.vget d a v pr) :=
  of_control rfl rfl rfl rfl fun _ => by
    show (some (Instr.vget (Fields.mk 1 35 d a 0 0).d (Fields.mk 1 35 d a 0 0).a (xvReg (xv v pr false)) ((xv v pr false).getLsbD 9))) = _
    simp only [imm12_fieldsI, xcScope_xc, xcOrd_xc, xcTag_xc, xcCount_xc, xcFlag_xc, xvReg_xv, xvPair_xv, xvAll_xv, setWidth_wide,
      Nat.reduceLeDiff,
      atomOp_code, atomTag_reg, atomTag_z, bit_field, solicRole, recQueue, Option.map_some, if_true, Bool.false_eq_true, if_false]
theorem Laws.WordsRead.vput a b v pr : Laws.WordsRead.Statement (.vput a b v pr) :=
  of_control rfl rfl rfl rfl fun _ => by
    show (if (xv v pr false).getLsbD 10 then some (Instr.vputAll (Fields.mk 1 36 0 a b 0).a (xvReg (xv v pr false)) ((xv v pr
        false).getLsbD 9)) else some (Instr.vput (Fields.mk 1 36 0 a b 0).a (Fields.mk 1 36 0 a b 0).b (xvReg (xv v pr false)) ((xv v pr
        false).getLsbD 9))) = _
    simp only [imm12_fieldsI, xcScope_xc, xcOrd_xc, xcTag_xc, xcCount_xc, xcFlag_xc, xvReg_xv, xvPair_xv, xvAll_xv, setWidth_wide,
      Nat.reduceLeDiff,
      atomOp_code, atomTag_reg, atomTag_z, bit_field, solicRole, recQueue, Option.map_some, if_true, Bool.false_eq_true, if_false]
theorem Laws.WordsRead.vputAll a v pr : Laws.WordsRead.Statement (.vputAll a v pr) :=
  of_control rfl rfl rfl rfl fun _ => by
    show (if (xv v pr true).getLsbD 10 then some (Instr.vputAll (Fields.mk 1 36 0 a 0 0).a (xvReg (xv v pr true)) ((xv v pr
        true).getLsbD 9)) else some (Instr.vput (Fields.mk 1 36 0 a 0 0).a (Fields.mk 1 36 0 a 0 0).b (xvReg (xv v pr true)) ((xv v pr
        true).getLsbD 9))) = _
    simp only [imm12_fieldsI, xcScope_xc, xcOrd_xc, xcTag_xc, xcCount_xc, xcFlag_xc, xvReg_xv, xvPair_xv, xvAll_xv, setWidth_wide,
      Nat.reduceLeDiff,
      atomOp_code, atomTag_reg, atomTag_z, bit_field, solicRole, recQueue, Option.map_some, if_true, Bool.false_eq_true, if_false]
theorem Laws.WordsRead.pget d p : Laws.WordsRead.Statement (.pget d p) :=
  of_control rfl rfl rfl rfl fun _ => by
    simp [candidate, candidate32, candidate64, candidate96, xcScope_xc, xcOrd_xc, xcTag_xc, xcCount_xc, xvReg_xv, xl_st, xl_n, xsOf_xs,
      setWidth_wide, brCond_code, atomOp_code, drCode_dr, drCode_op]
theorem Laws.WordsRead.pput a p : Laws.WordsRead.Statement (.pput a p) :=
  of_control rfl rfl rfl rfl fun _ => by
    simp [candidate, candidate32, candidate64, candidate96, xcScope_xc, xcOrd_xc, xcTag_xc, xcCount_xc, xvReg_xv, xl_st, xl_n, xsOf_xs,
      setWidth_wide, brCond_code, atomOp_code, drCode_dr, drCode_op]
theorem Laws.WordsRead.waitp a p : Laws.WordsRead.Statement (.waitp a p) :=
  of_control rfl rfl rfl rfl fun _ => by
    simp [candidate, candidate32, candidate64, candidate96, xcScope_xc, xcOrd_xc, xcTag_xc, xcCount_xc, xvReg_xv, xl_st, xl_n, xsOf_xs,
      setWidth_wide, brCond_code, atomOp_code, drCode_dr, drCode_op]
theorem Laws.WordsRead.crewJoin d a : Laws.WordsRead.Statement (.crewJoin d a) :=
  of_control rfl rfl rfl rfl fun _ => rfl
theorem Laws.WordsRead.crewLeave d a : Laws.WordsRead.Statement (.crewLeave d a) :=
  of_control rfl rfl rfl rfl fun _ => rfl
theorem Laws.WordsRead.crewSize d a : Laws.WordsRead.Statement (.crewSize d a) :=
  of_control rfl rfl rfl rfl fun _ => rfl
theorem Laws.WordsRead.crewRank d a : Laws.WordsRead.Statement (.crewRank d a) :=
  of_control rfl rfl rfl rfl fun _ => rfl
theorem Laws.WordsRead.bar a s : Laws.WordsRead.Statement (.bar a s) :=
  of_control rfl rfl rfl rfl fun _ => by
    simp [candidate, candidate32, candidate64, candidate96, xcScope_xc, xcOrd_xc, xcTag_xc, xcCount_xc, xvReg_xv, xl_st, xl_n, xsOf_xs,
      setWidth_wide, brCond_code, atomOp_code, drCode_dr, drCode_op]
theorem Laws.WordsRead.barSwap a s : Laws.WordsRead.Statement (.barSwap a s) :=
  of_control rfl rfl rfl rfl fun _ => by
    simp [candidate, candidate32, candidate64, candidate96, xcScope_xc, xcOrd_xc, xcTag_xc, xcCount_xc, xvReg_xv, xl_st, xl_n, xsOf_xs,
      setWidth_wide, brCond_code, atomOp_code, drCode_dr, drCode_op]
theorem Laws.WordsRead.abarInit a b r s : Laws.WordsRead.Statement (.abarInit a b r s) :=
  of_control rfl rfl rfl rfl fun _ => by
    simp [candidate, candidate32, candidate64, candidate96, xcScope_xc, xcOrd_xc, xcTag_xc, xcCount_xc, xvReg_xv, xl_st, xl_n, xsOf_xs,
      setWidth_wide, brCond_code, atomOp_code, drCode_dr, drCode_op]
theorem Laws.WordsRead.abarArrive d a b r s : Laws.WordsRead.Statement (.abarArrive d a b r s) :=
  of_control rfl rfl rfl rfl fun _ => by
    simp [candidate, candidate32, candidate64, candidate96, xcScope_xc, xcOrd_xc, xcTag_xc, xcCount_xc, xvReg_xv, xl_st, xl_n, xsOf_xs,
      setWidth_wide, brCond_code, atomOp_code, drCode_dr, drCode_op]
theorem Laws.WordsRead.abarExpect d a b r s : Laws.WordsRead.Statement (.abarExpect d a b r s) :=
  of_control rfl rfl rfl rfl fun _ => by
    simp [candidate, candidate32, candidate64, candidate96, xcScope_xc, xcOrd_xc, xcTag_xc, xcCount_xc, xvReg_xv, xl_st, xl_n, xsOf_xs,
      setWidth_wide, brCond_code, atomOp_code, drCode_dr, drCode_op]
theorem Laws.WordsRead.abarWait a b r s : Laws.WordsRead.Statement (.abarWait a b r s) :=
  of_control rfl rfl rfl rfl fun _ => by
    simp [candidate, candidate32, candidate64, candidate96, xcScope_xc, xcOrd_xc, xcTag_xc, xcCount_xc, xvReg_xv, xl_st, xl_n, xsOf_xs,
      setWidth_wide, brCond_code, atomOp_code, drCode_dr, drCode_op]
theorem Laws.WordsRead.abarTest d a b r s : Laws.WordsRead.Statement (.abarTest d a b r s) :=
  of_control rfl rfl rfl rfl fun _ => by
    simp [candidate, candidate32, candidate64, candidate96, xcScope_xc, xcOrd_xc, xcTag_xc, xcCount_xc, xvReg_xv, xl_st, xl_n, xsOf_xs,
      setWidth_wide, brCond_code, atomOp_code, drCode_dr, drCode_op]
theorem Laws.WordsRead.crgnOpen o : Laws.WordsRead.Statement (.crgnOpen o) :=
  of_control rfl rfl rfl rfl fun _ => rfl
theorem Laws.WordsRead.sigck v : Laws.WordsRead.Statement (.sigck v) :=
  of_control rfl rfl rfl rfl fun _ => rfl
theorem Laws.WordsRead.pairBegin n : Laws.WordsRead.Statement (.pairBegin n) :=
  of_control rfl rfl rfl rfl fun _ => by
    simp [candidate, candidate32, candidate64, candidate96, xcScope_xc, xcOrd_xc, xcTag_xc, xcCount_xc, xvReg_xv, xl_st, xl_n, xsOf_xs,
      setWidth_wide, brCond_code, atomOp_code, drCode_dr, drCode_op]
theorem Laws.WordsRead.tcopy a b nb s : Laws.WordsRead.Statement (.tcopy a b nb s) :=
  of_control rfl rfl rfl rfl fun _ => by
    show (some (Instr.tcopy (Fields.mk 1 48 0 a b 0).a (Fields.mk 1 48 0 a b 0).b ((xc s .rel 0 0 nb).getLsbD 25) (xcScope (xc s .rel 0
        0 nb)))) = _
    simp only [imm12_fieldsI, xcScope_xc, xcOrd_xc, xcTag_xc, xcCount_xc, xcFlag_xc, xvReg_xv, xvPair_xv, xvAll_xv, setWidth_wide,
      Nat.reduceLeDiff,
      atomOp_code, atomTag_reg, atomTag_z, bit_field, solicRole, recQueue, Option.map_some, if_true, Bool.false_eq_true, if_false]
theorem Laws.WordsRead.wload w a b dst n nb s : Laws.WordsRead.Statement (.wload w a b dst n nb s) :=
  of_control rfl rfl rfl rfl fun _ => by
    show (some (Instr.wload ((Fields.mk 1 49 0 a b (bit w)).m.getLsbD 0) (Fields.mk 1 49 0 a b (bit w)).a (Fields.mk 1 49 0 a b (bit
        w)).b (xcTag (xc s .rel dst n nb)) (xcCount (xc s .rel dst n nb)) ((xc s .rel dst n nb).getLsbD 25) (xcScope (xc s .rel dst n
        nb)))) = _
    simp only [imm12_fieldsI, xcScope_xc, xcOrd_xc, xcTag_xc, xcCount_xc, xcFlag_xc, xvReg_xv, xvPair_xv, xvAll_xv, setWidth_wide,
      Nat.reduceLeDiff,
      atomOp_code, atomTag_reg, atomTag_z, bit_field, solicRole, recQueue, Option.map_some, if_true, Bool.false_eq_true, if_false]
theorem Laws.WordsRead.collDefine b g s : Laws.WordsRead.Statement (.collDefine b g s) :=
  of_control rfl rfl rfl rfl fun _ => by
    simp [candidate, candidate32, candidate64, candidate96, xcScope_xc, xcOrd_xc, xcTag_xc, xcCount_xc, xvReg_xv, xl_st, xl_n, xsOf_xs,
      setWidth_wide, brCond_code, atomOp_code, drCode_dr, drCode_op]
theorem Laws.WordsRead.collRelease g s : Laws.WordsRead.Statement (.collRelease g s) :=
  of_control rfl rfl rfl rfl fun _ => by
    simp [candidate, candidate32, candidate64, candidate96, xcScope_xc, xcOrd_xc, xcTag_xc, xcCount_xc, xvReg_xv, xl_st, xl_n, xsOf_xs,
      setWidth_wide, brCond_code, atomOp_code, drCode_dr, drCode_op]
theorem Laws.WordsRead.collAbort g s : Laws.WordsRead.Statement (.collAbort g s) :=
  of_control rfl rfl rfl rfl fun _ => by
    simp [candidate, candidate32, candidate64, candidate96, xcScope_xc, xcOrd_xc, xcTag_xc, xcCount_xc, xvReg_xv, xl_st, xl_n, xsOf_xs,
      setWidth_wide, brCond_code, atomOp_code, drCode_dr, drCode_op]
theorem Laws.WordsRead.collAllred t dr b g s : Laws.WordsRead.Statement (.collAllred t dr b g s) :=
  of_control rfl rfl rfl rfl fun _ => by
    simp [candidate, candidate32, candidate64, candidate96, xcScope_xc, xcOrd_xc, xcTag_xc, xcCount_xc, xvReg_xv, xl_st, xl_n, xsOf_xs,
      setWidth_wide, brCond_code, atomOp_code, drCode_dr, drCode_op]
theorem Laws.WordsRead.collReduce t dr b g s : Laws.WordsRead.Statement (.collReduce t dr b g s) :=
  of_control rfl rfl rfl rfl fun _ => by
    simp [candidate, candidate32, candidate64, candidate96, xcScope_xc, xcOrd_xc, xcTag_xc, xcCount_xc, xvReg_xv, xl_st, xl_n, xsOf_xs,
      setWidth_wide, brCond_code, atomOp_code, drCode_dr, drCode_op]
theorem Laws.WordsRead.collBcast t dr b g s : Laws.WordsRead.Statement (.collBcast t dr b g s) :=
  of_control rfl rfl rfl rfl fun _ => by
    simp [candidate, candidate32, candidate64, candidate96, xcScope_xc, xcOrd_xc, xcTag_xc, xcCount_xc, xvReg_xv, xl_st, xl_n, xsOf_xs,
      setWidth_wide, brCond_code, atomOp_code, drCode_dr, drCode_op]
theorem Laws.WordsRead.collGather t dr b g s : Laws.WordsRead.Statement (.collGather t dr b g s) :=
  of_control rfl rfl rfl rfl fun _ => by
    simp [candidate, candidate32, candidate64, candidate96, xcScope_xc, xcOrd_xc, xcTag_xc, xcCount_xc, xvReg_xv, xl_st, xl_n, xsOf_xs,
      setWidth_wide, brCond_code, atomOp_code, drCode_dr, drCode_op]
theorem Laws.WordsRead.collRscat t dr b g s : Laws.WordsRead.Statement (.collRscat t dr b g s) :=
  of_control rfl rfl rfl rfl fun _ => by
    simp [candidate, candidate32, candidate64, candidate96, xcScope_xc, xcOrd_xc, xcTag_xc, xcCount_xc, xvReg_xv, xl_st, xl_n, xsOf_xs,
      setWidth_wide, brCond_code, atomOp_code, drCode_dr, drCode_op]
theorem Laws.WordsRead.collRot t dr b g s : Laws.WordsRead.Statement (.collRot t dr b g s) :=
  of_control rfl rfl rfl rfl fun _ => by
    simp [candidate, candidate32, candidate64, candidate96, xcScope_xc, xcOrd_xc, xcTag_xc, xcCount_xc, xvReg_xv, xl_st, xl_n, xsOf_xs,
      setWidth_wide, brCond_code, atomOp_code, drCode_dr, drCode_op]
theorem Laws.WordsRead.collProg t dr b g s : Laws.WordsRead.Statement (.collProg t dr b g s) :=
  of_control rfl rfl rfl rfl fun _ => by
    simp [candidate, candidate32, candidate64, candidate96, xcScope_xc, xcOrd_xc, xcTag_xc, xcCount_xc, xvReg_xv, xl_st, xl_n, xsOf_xs,
      setWidth_wide, brCond_code, atomOp_code, drCode_dr, drCode_op]
theorem Laws.WordsRead.solic k a b cr ro cx s : Laws.WordsRead.Statement (.solic k a b cr ro cx s) :=
  of_control rfl rfl rfl rfl fun _ => by
    show (some (Instr.solic ((Fields.mk 1 51 0 a b (k.setWidth 6)).m.setWidth 2) (Fields.mk 1 51 0 a b (k.setWidth 6)).a (Fields.mk 1 51
        0 a b (k.setWidth 6)).b (xcTag (xc s .ar cr (ro.setWidth 12) cx)) ((xc s .ar cr (ro.setWidth 12) cx).extractLsb' 13 2) ((xc s
        .ar cr (ro.setWidth 12) cx).getLsbD 25) (xcScope (xc s .ar cr (ro.setWidth 12) cx)))) = _
    simp only [imm12_fieldsI, xcScope_xc, xcOrd_xc, xcTag_xc, xcCount_xc, xcFlag_xc, xvReg_xv, xvPair_xv, xvAll_xv, setWidth_wide,
      Nat.reduceLeDiff,
      atomOp_code, atomTag_reg, atomTag_z, bit_field, solicRole, recQueue, Option.map_some, if_true, Bool.false_eq_true, if_false]
theorem Laws.WordsRead.auct a b nb s : Laws.WordsRead.Statement (.auct a b nb s) :=
  of_control rfl rfl rfl rfl fun _ => by
    show (some (Instr.auct (Fields.mk 1 52 0 a b 0).a (Fields.mk 1 52 0 a b 0).b ((xc s .rel 0 0 nb).getLsbD 25) (xcScope (xc s .rel 0 0
        nb)))) = _
    simp only [imm12_fieldsI, xcScope_xc, xcOrd_xc, xcTag_xc, xcCount_xc, xcFlag_xc, xvReg_xv, xvPair_xv, xvAll_xv, setWidth_wide,
      Nat.reduceLeDiff,
      atomOp_code, atomTag_reg, atomTag_z, bit_field, solicRole, recQueue, Option.map_some, if_true, Bool.false_eq_true, if_false]
theorem Laws.WordsRead.slotLook d a : Laws.WordsRead.Statement (.slotLook d a) :=
  of_control rfl rfl rfl rfl fun _ => rfl
theorem Laws.WordsRead.slotVict d : Laws.WordsRead.Statement (.slotVict d) :=
  of_control rfl rfl rfl rfl fun _ => rfl
theorem Laws.WordsRead.slotFill d a : Laws.WordsRead.Statement (.slotFill d a) :=
  of_control rfl rfl rfl rfl fun _ => rfl
theorem Laws.WordsRead.slotClr d a : Laws.WordsRead.Statement (.slotClr d a) :=
  of_control rfl rfl rfl rfl fun _ => rfl
theorem Laws.WordsRead.recd d a q : Laws.WordsRead.Statement (.recd d a q) :=
  of_control rfl rfl rfl rfl fun _ => by
    show (some (Instr.recd (Fields.mk 1 54 d a 0 0).d (Fields.mk 1 54 d a 0 0).a ((xc .wch .rlx (q.setWidth 8) 0 false).extractLsb' 5
        6))) = _
    simp only [imm12_fieldsI, xcScope_xc, xcOrd_xc, xcTag_xc, xcCount_xc, xcFlag_xc, xvReg_xv, xvPair_xv, xvAll_xv, setWidth_wide,
      Nat.reduceLeDiff,
      atomOp_code, atomTag_reg, atomTag_z, bit_field, solicRole, recQueue, Option.map_some, if_true, Bool.false_eq_true, if_false]
theorem Laws.WordsRead.trig a b g : Laws.WordsRead.Statement (.trig a b g) :=
  of_control rfl rfl rfl rfl fun _ => by
    simp [candidate, candidate32, candidate64, candidate96, xcScope_xc, xcOrd_xc, xcTag_xc, xcCount_xc, xvReg_xv, xl_st, xl_n, xsOf_xs,
      setWidth_wide, brCond_code, atomOp_code, drCode_dr, drCode_op]
theorem Laws.WordsRead.sysr d n : Laws.WordsRead.Statement (.sysr d n) :=
  of_control rfl rfl rfl rfl fun _ => by
    show (some (Instr.sysr (fieldsI 0 56 (d) (0) n).d (imm12 (fieldsI 0 56 (d) (0) n)))) = _
    simp only [imm12_fieldsI, xcScope_xc, xcOrd_xc, xcTag_xc, xcCount_xc, xcFlag_xc, xvReg_xv, xvPair_xv, xvAll_xv, setWidth_wide,
      Nat.reduceLeDiff,
      atomOp_code, atomTag_reg, atomTag_z, bit_field, solicRole, recQueue, Option.map_some, if_true, Bool.false_eq_true, if_false]
    rfl
theorem Laws.WordsRead.sysw a n : Laws.WordsRead.Statement (.sysw a n) :=
  of_control rfl rfl rfl rfl fun h => by
    show (if imm12 (fieldsI 0 57 0 a n) = 16 then _ else _) = _
    simp only [Instr.controlRanges, Bool.and_eq_true, bne_iff_ne, ne_eq] at h
    rw [imm12_fieldsI, if_neg h.1.1.1.1, if_neg h.1.1.1.2, if_neg h.1.1.2, if_neg h.1.2, if_neg h.2]
    rfl
theorem Laws.WordsRead.syswSrseed a : Laws.WordsRead.Statement (.syswSrseed a) :=
  of_control rfl rfl rfl rfl fun _ => by
    show (if imm12 (fieldsI 0 57 0 a 16) = 16 then _ else _) = _
    rw [imm12_fieldsI]
    rfl
theorem Laws.WordsRead.syswFmask a : Laws.WordsRead.Statement (.syswFmask a) :=
  of_control rfl rfl rfl rfl fun _ => by
    show (if imm12 (fieldsI 0 57 0 a 8) = 16 then _ else _) = _
    rw [imm12_fieldsI]
    rfl
theorem Laws.WordsRead.syswRbnd a : Laws.WordsRead.Statement (.syswRbnd a) :=
  of_control rfl rfl rfl rfl fun _ => by
    show (if imm12 (fieldsI 0 57 0 a 18) = 16 then _ else _) = _
    rw [imm12_fieldsI]
    rfl
theorem Laws.WordsRead.syswSigreg a : Laws.WordsRead.Statement (.syswSigreg a) :=
  of_control rfl rfl rfl rfl fun _ => by
    show (if imm12 (fieldsI 0 57 0 a 19) = 16 then _ else _) = _
    rw [imm12_fieldsI]
    rfl
theorem Laws.WordsRead.syswInject a : Laws.WordsRead.Statement (.syswInject a) :=
  of_control rfl rfl rfl rfl fun _ => by
    show (if imm12 (fieldsI 0 57 0 a 20) = 16 then _ else _) = _
    rw [imm12_fieldsI]
    rfl
theorem Laws.WordsRead.trap c : Laws.WordsRead.Statement (.trap c) :=
  of_control rfl rfl rfl rfl fun _ => by
    show (some (Instr.trap (imm12 (fieldsI 0 58 (0) (0) c)))) = _
    simp only [imm12_fieldsI, xcScope_xc, xcOrd_xc, xcTag_xc, xcCount_xc, xcFlag_xc, xvReg_xv, xvPair_xv, xvAll_xv, setWidth_wide,
      Nat.reduceLeDiff,
      atomOp_code, atomTag_reg, atomTag_z, bit_field, solicRole, recQueue, Option.map_some, if_true, Bool.false_eq_true, if_false]
theorem Laws.WordsRead.nop64 x : Laws.WordsRead.Statement (.nop64 x) :=
  of_control rfl rfl rfl rfl fun _ => rfl
theorem Laws.WordsRead.nop96 x y : Laws.WordsRead.Statement (.nop96 x y) :=
  of_control rfl rfl rfl rfl fun _ => rfl
theorem Laws.WordsRead.iadd o : Laws.WordsRead.Statement (.iadd o) := of_lane rfl rfl rfl fun _ => rfl
theorem Laws.WordsRead.isub o : Laws.WordsRead.Statement (.isub o) := of_lane rfl rfl rfl fun _ => rfl
theorem Laws.WordsRead.imul o : Laws.WordsRead.Statement (.imul o) := of_lane rfl rfl rfl fun _ => rfl
theorem Laws.WordsRead.imulh o : Laws.WordsRead.Statement (.imulh o) := of_lane rfl rfl rfl fun _ => rfl
theorem Laws.WordsRead.imulhu o : Laws.WordsRead.Statement (.imulhu o) := of_lane rfl rfl rfl fun _ => rfl
theorem Laws.WordsRead.imin o : Laws.WordsRead.Statement (.imin o) := of_lane rfl rfl rfl fun _ => rfl
theorem Laws.WordsRead.imax o : Laws.WordsRead.Statement (.imax o) := of_lane rfl rfl rfl fun _ => rfl
theorem Laws.WordsRead.iminu o : Laws.WordsRead.Statement (.iminu o) := of_lane rfl rfl rfl fun _ => rfl
theorem Laws.WordsRead.imaxu o : Laws.WordsRead.Statement (.imaxu o) := of_lane rfl rfl rfl fun _ => rfl
theorem Laws.WordsRead.iand o : Laws.WordsRead.Statement (.iand o) := of_lane rfl rfl rfl fun _ => rfl
theorem Laws.WordsRead.ior o : Laws.WordsRead.Statement (.ior o) := of_lane rfl rfl rfl fun _ => rfl
theorem Laws.WordsRead.ixor o : Laws.WordsRead.Statement (.ixor o) := of_lane rfl rfl rfl fun _ => rfl
theorem Laws.WordsRead.laneShl o : Laws.WordsRead.Statement (.laneShl o) := of_lane rfl rfl rfl fun _ => rfl
theorem Laws.WordsRead.laneShr o : Laws.WordsRead.Statement (.laneShr o) := of_lane rfl rfl rfl fun _ => rfl
theorem Laws.WordsRead.laneSar o : Laws.WordsRead.Statement (.laneSar o) := of_lane rfl rfl rfl fun _ => rfl
theorem Laws.WordsRead.rot o : Laws.WordsRead.Statement (.rot o) := of_lane rfl rfl rfl fun _ => rfl
theorem Laws.WordsRead.iadds o : Laws.WordsRead.Statement (.iadds o) := of_lane rfl rfl rfl fun _ => rfl
theorem Laws.WordsRead.isubs o : Laws.WordsRead.Statement (.isubs o) := of_lane rfl rfl rfl fun _ => rfl
theorem Laws.WordsRead.iabs o : Laws.WordsRead.Statement (.iabs o) := of_lane rfl rfl rfl fun _ => rfl
theorem Laws.WordsRead.ineg o : Laws.WordsRead.Statement (.ineg o) := of_lane rfl rfl rfl fun _ => rfl
theorem Laws.WordsRead.inot o : Laws.WordsRead.Statement (.inot o) := of_lane rfl rfl rfl fun _ => rfl
theorem Laws.WordsRead.lanePopc o : Laws.WordsRead.Statement (.lanePopc o) := of_lane rfl rfl rfl fun _ => rfl
theorem Laws.WordsRead.laneClz o : Laws.WordsRead.Statement (.laneClz o) := of_lane rfl rfl rfl fun _ => rfl
theorem Laws.WordsRead.laneBrev o : Laws.WordsRead.Statement (.laneBrev o) := of_lane rfl rfl rfl fun _ => rfl
theorem Laws.WordsRead.laneMov o : Laws.WordsRead.Statement (.laneMov o) := of_lane rfl rfl rfl fun _ => rfl
theorem Laws.WordsRead.imad o : Laws.WordsRead.Statement (.imad o) := of_lane rfl rfl rfl fun _ => rfl
theorem Laws.WordsRead.dot4 o : Laws.WordsRead.Statement (.dot4 o) := of_lane rfl rfl rfl fun _ => rfl
theorem Laws.WordsRead.iaddc o : Laws.WordsRead.Statement (.iaddc o) := of_lane rfl rfl rfl fun _ => rfl
theorem Laws.WordsRead.imulw o : Laws.WordsRead.Statement (.imulw o) := of_lane rfl rfl rfl fun _ => rfl
theorem Laws.WordsRead.bfx o : Laws.WordsRead.Statement (.bfx o) := of_lane rfl rfl rfl fun _ => rfl
theorem Laws.WordsRead.bfi o : Laws.WordsRead.Statement (.bfi o) := of_lane rfl rfl rfl fun _ => rfl
theorem Laws.WordsRead.icmp o : Laws.WordsRead.Statement (.icmp o) := of_lane rfl rfl rfl fun _ => rfl
theorem Laws.WordsRead.sel o : Laws.WordsRead.Statement (.sel o) := of_lane rfl rfl rfl fun _ => rfl
theorem Laws.WordsRead.lid o : Laws.WordsRead.Statement (.lid o) := of_lane rfl rfl rfl fun _ => rfl
theorem Laws.WordsRead.fadd o : Laws.WordsRead.Statement (.fadd o) := of_lane rfl rfl rfl fun _ => rfl
theorem Laws.WordsRead.fsub o : Laws.WordsRead.Statement (.fsub o) := of_lane rfl rfl rfl fun _ => rfl
theorem Laws.WordsRead.fmul o : Laws.WordsRead.Statement (.fmul o) := of_lane rfl rfl rfl fun _ => rfl
theorem Laws.WordsRead.ffma o : Laws.WordsRead.Statement (.ffma o) := of_lane rfl rfl rfl fun _ => rfl
theorem Laws.WordsRead.fmin o : Laws.WordsRead.Statement (.fmin o) := of_lane rfl rfl rfl fun _ => rfl
theorem Laws.WordsRead.fmax o : Laws.WordsRead.Statement (.fmax o) := of_lane rfl rfl rfl fun _ => rfl
theorem Laws.WordsRead.fabs o : Laws.WordsRead.Statement (.fabs o) := of_lane rfl rfl rfl fun _ => rfl
theorem Laws.WordsRead.fneg o : Laws.WordsRead.Statement (.fneg o) := of_lane rfl rfl rfl fun _ => rfl
theorem Laws.WordsRead.fcmp o : Laws.WordsRead.Statement (.fcmp o) := of_lane rfl rfl rfl fun _ => rfl
theorem Laws.WordsRead.fclass o : Laws.WordsRead.Statement (.fclass o) := of_lane rfl rfl rfl fun _ => rfl
theorem Laws.WordsRead.frint o : Laws.WordsRead.Statement (.frint o) := of_lane rfl rfl rfl fun _ => rfl
theorem Laws.WordsRead.hadd2 o : Laws.WordsRead.Statement (.hadd2 o) := of_lane rfl rfl rfl fun _ => rfl
theorem Laws.WordsRead.hmul2 o : Laws.WordsRead.Statement (.hmul2 o) := of_lane rfl rfl rfl fun _ => rfl
theorem Laws.WordsRead.hfma2 o : Laws.WordsRead.Statement (.hfma2 o) := of_lane rfl rfl rfl fun _ => rfl
theorem Laws.WordsRead.hmin2 o : Laws.WordsRead.Statement (.hmin2 o) := of_lane rfl rfl rfl fun _ => rfl
theorem Laws.WordsRead.hmax2 o : Laws.WordsRead.Statement (.hmax2 o) := of_lane rfl rfl rfl fun _ => rfl
theorem Laws.WordsRead.rcp o : Laws.WordsRead.Statement (.rcp o) := of_lane rfl rfl rfl fun _ => rfl
theorem Laws.WordsRead.rsq o : Laws.WordsRead.Statement (.rsq o) := of_lane rfl rfl rfl fun _ => rfl
theorem Laws.WordsRead.sqrt o : Laws.WordsRead.Statement (.sqrt o) := of_lane rfl rfl rfl fun _ => rfl
theorem Laws.WordsRead.exp2 o : Laws.WordsRead.Statement (.exp2 o) := of_lane rfl rfl rfl fun _ => rfl
theorem Laws.WordsRead.log2 o : Laws.WordsRead.Statement (.log2 o) := of_lane rfl rfl rfl fun _ => rfl
theorem Laws.WordsRead.sin o : Laws.WordsRead.Statement (.sin o) := of_lane rfl rfl rfl fun _ => rfl
theorem Laws.WordsRead.cos o : Laws.WordsRead.Statement (.cos o) := of_lane rfl rfl rfl fun _ => rfl
theorem Laws.WordsRead.tanh o : Laws.WordsRead.Statement (.tanh o) := of_lane rfl rfl rfl fun _ => rfl
theorem Laws.WordsRead.sigm o : Laws.WordsRead.Statement (.sigm o) := of_lane rfl rfl rfl fun _ => rfl
theorem Laws.WordsRead.cvt o : Laws.WordsRead.Statement (.cvt o) := of_lane rfl rfl rfl fun _ => rfl
theorem Laws.WordsRead.pack o : Laws.WordsRead.Statement (.pack o) := of_lane rfl rfl rfl fun _ => rfl
theorem Laws.WordsRead.unpk o : Laws.WordsRead.Statement (.unpk o) := of_lane rfl rfl rfl fun _ => rfl
theorem Laws.WordsRead.qnt o : Laws.WordsRead.Statement (.qnt o) := of_lane rfl rfl rfl fun _ => rfl
theorem Laws.WordsRead.scale o : Laws.WordsRead.Statement (.scale o) := of_lane rfl rfl rfl fun _ => rfl
theorem Laws.WordsRead.amax o : Laws.WordsRead.Statement (.amax o) := of_lane rfl rfl rfl fun _ => rfl
theorem Laws.WordsRead.shfl o : Laws.WordsRead.Statement (.shfl o) := of_lane rfl rfl rfl fun _ => rfl
theorem Laws.WordsRead.ballot o : Laws.WordsRead.Statement (.ballot o) := of_lane rfl rfl rfl fun _ => rfl
theorem Laws.WordsRead.bplane o : Laws.WordsRead.Statement (.bplane o) := of_lane rfl rfl rfl fun _ => rfl
theorem Laws.WordsRead.vred o : Laws.WordsRead.Statement (.vred o) := of_lane rfl rfl rfl fun _ => rfl
theorem Laws.WordsRead.vscan o : Laws.WordsRead.Statement (.vscan o) := of_lane rfl rfl rfl fun _ => rfl
theorem Laws.WordsRead.ld o : Laws.WordsRead.Statement (.ld o) := of_lane rfl rfl rfl fun _ => rfl
theorem Laws.WordsRead.st o : Laws.WordsRead.Statement (.st o) := of_lane rfl rfl rfl fun _ => rfl
theorem Laws.WordsRead.atom o : Laws.WordsRead.Statement (.atom o) := of_lane rfl rfl rfl fun _ => rfl
theorem Laws.WordsRead.fatom o : Laws.WordsRead.Statement (.fatom o) :=
  of_lane rfl rfl rfl fun h => by
    simp_all [laneOfOp, Instr.laneRow]
theorem Laws.WordsRead.fatomMore o : Laws.WordsRead.Statement (.fatomMore o) :=
  of_lane rfl rfl rfl fun h => by
    simp_all [laneOfOp, Instr.laneRow]
theorem Laws.WordsRead.fatomSkip o : Laws.WordsRead.Statement (.fatomSkip o) :=
  of_lane rfl rfl rfl fun h => by
    simp_all [laneOfOp, Instr.laneRow]
theorem Laws.WordsRead.acpy o : Laws.WordsRead.Statement (.acpy o) := of_lane rfl rfl rfl fun _ => rfl
theorem Laws.WordsRead.xst o : Laws.WordsRead.Statement (.xst o) := of_lane rfl rfl rfl fun _ => rfl
theorem Laws.WordsRead.mma o : Laws.WordsRead.Statement (.mma o) := of_lane rfl rfl rfl fun _ => rfl
theorem Laws.WordsRead.msoft o : Laws.WordsRead.Statement (.msoft o) := of_lane rfl rfl rfl fun _ => rfl
theorem Laws.WordsRead.tmovTv o : Laws.WordsRead.Statement (.tmovTv o) :=
  of_lane rfl rfl rfl fun h => by
    simp_all [laneOfOp, Instr.laneRow]
theorem Laws.WordsRead.tmovVt o : Laws.WordsRead.Statement (.tmovVt o) :=
  of_lane rfl rfl rfl fun h => by
    simp_all [laneOfOp, Instr.laneRow]
theorem Laws.WordsRead.tclr o : Laws.WordsRead.Statement (.tclr o) := of_lane rfl rfl rfl fun _ => rfl
theorem Laws.WordsRead.tscl o : Laws.WordsRead.Statement (.tscl o) :=
  of_lane rfl rfl rfl fun h => by
    simp_all [laneOfOp, Instr.laneRow]
theorem Laws.WordsRead.tsclPend o : Laws.WordsRead.Statement (.tsclPend o) :=
  of_lane rfl rfl rfl fun h => by
    simp_all [laneOfOp, Instr.laneRow]
theorem Laws.WordsRead.tsclDivl o : Laws.WordsRead.Statement (.tsclDivl o) :=
  of_lane rfl rfl rfl fun h => by
    simp_all [laneOfOp, Instr.laneRow]
theorem Laws.WordsRead.tdrn o : Laws.WordsRead.Statement (.tdrn o) := of_lane rfl rfl rfl fun _ => rfl
theorem Laws.WordsRead.chunkSend ch dt peer ck n : Laws.WordsRead.Statement (.chunkSend ch dt peer ck n) :=
  of_chunk rfl rfl rfl (by simp only [chunkCandidate, word_op, word_ch, word_dt, word_fn, word_peer, word_ck, word_n]; rfl)
theorem Laws.WordsRead.chunkRecv ch dt peer ck n : Laws.WordsRead.Statement (.chunkRecv ch dt peer ck n) :=
  of_chunk rfl rfl rfl (by simp only [chunkCandidate, word_op, word_ch, word_dt, word_fn, word_peer, word_ck, word_n]; rfl)
theorem Laws.WordsRead.chunkRred ch dt fn peer ck n : Laws.WordsRead.Statement (.chunkRred ch dt fn peer ck n) :=
  of_chunk rfl rfl rfl (by simp only [chunkCandidate, word_op, word_ch, word_dt, word_fn, word_peer, word_ck, word_n]; rfl)
theorem Laws.WordsRead.chunkCopy ch dst ck n : Laws.WordsRead.Statement (.chunkCopy ch dst ck n) :=
  of_chunk rfl rfl rfl (by simp only [chunkCandidate, word_op, word_ch, word_dt, word_fn, word_peer, word_ck, word_n]; rfl)
theorem Laws.WordsRead.chunkWait ck n : Laws.WordsRead.Statement (.chunkWait ck n) :=
  of_chunk rfl rfl rfl (by simp only [chunkCandidate, word_op, word_ch, word_dt, word_fn, word_peer, word_ck, word_n]; rfl)
theorem Laws.WordsRead.chunkSig peer n : Laws.WordsRead.Statement (.chunkSig peer n) :=
  of_chunk rfl rfl rfl (by simp only [chunkCandidate, word_op, word_ch, word_dt, word_fn, word_peer, word_ck, word_n]; rfl)
theorem Laws.WordsRead.chunkLoop n : Laws.WordsRead.Statement (.chunkLoop n) :=
  of_chunk rfl rfl rfl (by simp only [chunkCandidate, word_op, word_ch, word_dt, word_fn, word_peer, word_ck, word_n]; rfl)
theorem Laws.WordsRead.chunkMcast ch dt ck n : Laws.WordsRead.Statement (.chunkMcast ch dt ck n) :=
  of_chunk rfl rfl rfl (by simp only [chunkCandidate, word_op, word_ch, word_dt, word_fn, word_peer, word_ck, word_n]; rfl)
theorem Laws.WordsRead.chunkRoute dev ck : Laws.WordsRead.Statement (.chunkRoute dev ck) :=
  of_chunk rfl rfl rfl (by simp only [chunkCandidate, word_op, word_ch, word_dt, word_fn, word_peer, word_ck, word_n]; rfl)
theorem Laws.WordsRead.reservedEncoding w0 : Laws.WordsRead.Statement (.reservedEncoding w0) := of_none rfl rfl rfl
theorem Laws.WordsRead.badop wd : Laws.WordsRead.Statement (.badop wd) := of_none rfl rfl rfl
theorem Laws.WordsRead.laneIssue core : Laws.WordsRead.Statement (.laneIssue core) := of_none rfl rfl rfl
theorem Laws.WordsRead.loadSectorReturn w op k : Laws.WordsRead.Statement (.loadSectorReturn w op k) := of_none rfl rfl rfl
theorem Laws.WordsRead.storePerform w : Laws.WordsRead.Statement (.storePerform w) := of_none rfl rfl rfl
theorem Laws.WordsRead.atomicPerform w op : Laws.WordsRead.Statement (.atomicPerform w op) := of_none rfl rfl rfl
theorem Laws.WordsRead.fatomArrive w op : Laws.WordsRead.Statement (.fatomArrive w op) := of_none rfl rfl rfl
theorem Laws.WordsRead.fatomApply pcn k : Laws.WordsRead.Statement (.fatomApply pcn k) := of_none rfl rfl rfl
theorem Laws.WordsRead.acpyWrite w op k : Laws.WordsRead.Statement (.acpyWrite w op k) := of_none rfl rfl rfl
theorem Laws.WordsRead.xstWrite w op k : Laws.WordsRead.Statement (.xstWrite w op k) := of_none rfl rfl rfl
theorem Laws.WordsRead.streamFetch w q l : Laws.WordsRead.Statement (.streamFetch w q l) := of_none rfl rfl rfl
theorem Laws.WordsRead.matrixPass core : Laws.WordsRead.Statement (.matrixPass core) := of_none rfl rfl rfl
theorem Laws.WordsRead.matrixPerform w : Laws.WordsRead.Statement (.matrixPerform w) := of_none rfl rfl rfl
theorem Laws.WordsRead.wloadAccept w op : Laws.WordsRead.Statement (.wloadAccept w op) := of_none rfl rfl rfl
theorem Laws.WordsRead.wloadComplete core k : Laws.WordsRead.Statement (.wloadComplete core k) := of_none rfl rfl rfl
theorem Laws.WordsRead.tcopyAccept w op : Laws.WordsRead.Statement (.tcopyAccept w op) := of_none rfl rfl rfl
theorem Laws.WordsRead.tcopySectorWrite core k : Laws.WordsRead.Statement (.tcopySectorWrite core k) := of_none rfl rfl rfl
theorem Laws.WordsRead.tcopyComplete core k : Laws.WordsRead.Statement (.tcopyComplete core k) := of_none rfl rfl rfl
theorem Laws.WordsRead.crewControllerArrival cx : Laws.WordsRead.Statement (.crewControllerArrival cx) := of_none rfl rfl rfl
theorem Laws.WordsRead.crewDeparture cx : Laws.WordsRead.Statement (.crewDeparture cx) := of_none rfl rfl rfl
theorem Laws.WordsRead.watchRelease w : Laws.WordsRead.Statement (.watchRelease w) := of_none rfl rfl rfl
theorem Laws.WordsRead.uncorAbortCompletion u : Laws.WordsRead.Statement (.uncorAbortCompletion u) := of_none rfl rfl rfl
theorem Laws.WordsRead.pageWalkComplete pcn cx off : Laws.WordsRead.Statement (.pageWalkComplete pcn cx off) := of_none rfl rfl rfl
theorem Laws.WordsRead.mmpPageResident k pte : Laws.WordsRead.Statement (.mmpPageResident k pte) := of_none rfl rfl rfl
theorem Laws.WordsRead.mmpDecline k : Laws.WordsRead.Statement (.mmpDecline k) := of_none rfl rfl rfl
theorem Laws.WordsRead.tlbLeaseExpire pcn k : Laws.WordsRead.Statement (.tlbLeaseExpire pcn k) := of_none rfl rfl rfl
theorem Laws.WordsRead.mmpUnmap c off pte : Laws.WordsRead.Statement (.mmpUnmap c off pte) := of_none rfl rfl rfl
theorem Laws.WordsRead.drainMarkAck k cl : Laws.WordsRead.Statement (.drainMarkAck k cl) := of_none rfl rfl rfl
theorem Laws.WordsRead.unmapwaitExpire k : Laws.WordsRead.Statement (.unmapwaitExpire k) := of_none rfl rfl rfl
theorem Laws.WordsRead.drainProbeAnswer k pcn : Laws.WordsRead.Statement (.drainProbeAnswer k pcn) := of_none rfl rfl rfl
theorem Laws.WordsRead.preemptSwitchRequest core : Laws.WordsRead.Statement (.preemptSwitchRequest core) := of_none rfl rfl rfl
theorem Laws.WordsRead.switchComplete core : Laws.WordsRead.Statement (.switchComplete core) := of_none rfl rfl rfl
theorem Laws.WordsRead.fillStart core cx : Laws.WordsRead.Statement (.fillStart core cx) := of_none rfl rfl rfl
theorem Laws.WordsRead.fillDone core : Laws.WordsRead.Statement (.fillDone core) := of_none rfl rfl rfl
theorem Laws.WordsRead.spillDone core : Laws.WordsRead.Statement (.spillDone core) := of_none rfl rfl rfl
theorem Laws.WordsRead.handlerTimeout w : Laws.WordsRead.Statement (.handlerTimeout w) := of_none rfl rfl rfl
theorem Laws.WordsRead.xtoTimeout cx kill : Laws.WordsRead.Statement (.xtoTimeout cx kill) := of_none rfl rfl rfl
theorem Laws.WordsRead.partitionTimeout p : Laws.WordsRead.Statement (.partitionTimeout p) := of_none rfl rfl rfl
theorem Laws.WordsRead.watchdogExpire x : Laws.WordsRead.Statement (.watchdogExpire x) := of_none rfl rfl rfl
theorem Laws.WordsRead.spillstuck core : Laws.WordsRead.Statement (.spillstuck core) := of_none rfl rfl rfl
theorem Laws.WordsRead.columnRetire pcn : Laws.WordsRead.Statement (.columnRetire pcn) := of_none rfl rfl rfl
theorem Laws.WordsRead.pairTrailerPlace w : Laws.WordsRead.Statement (.pairTrailerPlace w) := of_none rfl rfl rfl
theorem Laws.WordsRead.pairCompare w : Laws.WordsRead.Statement (.pairCompare w) := of_none rfl rfl rfl
theorem Laws.WordsRead.solicAccept w op : Laws.WordsRead.Statement (.solicAccept w op) := of_none rfl rfl rfl
theorem Laws.WordsRead.directoryLookup cx n core : Laws.WordsRead.Statement (.directoryLookup cx n core) := of_none rfl rfl rfl
theorem Laws.WordsRead.responderSpawn cx n core : Laws.WordsRead.Statement (.responderSpawn cx n core) := of_none rfl rfl rfl
theorem Laws.WordsRead.censusComplete cx n : Laws.WordsRead.Statement (.censusComplete cx n) := of_none rfl rfl rfl
theorem Laws.WordsRead.directoryInsertAck w op : Laws.WordsRead.Statement (.directoryInsertAck w op) := of_none rfl rfl rfl
theorem Laws.WordsRead.auctAccept w op : Laws.WordsRead.Statement (.auctAccept w op) := of_none rfl rfl rfl
theorem Laws.WordsRead.auctRun cl : Laws.WordsRead.Statement (.auctRun cl) := of_none rfl rfl rfl
theorem Laws.WordsRead.auctComplete cl : Laws.WordsRead.Statement (.auctComplete cl) := of_none rfl rfl rfl
theorem Laws.WordsRead.triggerAccept w op : Laws.WordsRead.Statement (.triggerAccept w op) := of_none rfl rfl rfl
theorem Laws.WordsRead.ringEntryTake die q : Laws.WordsRead.Statement (.ringEntryTake die q) := of_none rfl rfl rfl
theorem Laws.WordsRead.runStart die : Laws.WordsRead.Statement (.runStart die) := of_none rfl rfl rfl
theorem Laws.WordsRead.gvecRead die q : Laws.WordsRead.Statement (.gvecRead die q) := of_none rfl rfl rfl
theorem Laws.WordsRead.blockPlace die : Laws.WordsRead.Statement (.blockPlace die) := of_none rfl rfl rfl
theorem Laws.WordsRead.paramWrite ln core : Laws.WordsRead.Statement (.paramWrite ln core) := of_none rfl rfl rfl
theorem Laws.WordsRead.nodeComplete ln : Laws.WordsRead.Statement (.nodeComplete ln) := of_none rfl rfl rfl
theorem Laws.WordsRead.recAnswer w op : Laws.WordsRead.Statement (.recAnswer w op) := of_none rfl rfl rfl
theorem Laws.WordsRead.recordDeliver rq : Laws.WordsRead.Statement (.recordDeliver rq) := of_none rfl rfl rfl
theorem Laws.WordsRead.closingRecordDeliver rq blk : Laws.WordsRead.Statement (.closingRecordDeliver rq blk) := of_none rfl rfl rfl
theorem Laws.WordsRead.nocFlitRetry lk dead : Laws.WordsRead.Statement (.nocFlitRetry lk dead) := of_none rfl rfl rfl
theorem Laws.WordsRead.hostTriggerWrite die v : Laws.WordsRead.Statement (.hostTriggerWrite die v) := of_none rfl rfl rfl
theorem Laws.WordsRead.qtailWrite die q v : Laws.WordsRead.Statement (.qtailWrite die q v) := of_none rfl rfl rfl
theorem Laws.WordsRead.evctlWrite die v : Laws.WordsRead.Statement (.evctlWrite die v) := of_none rfl rfl rfl
theorem Laws.WordsRead.evheadWrite die v : Laws.WordsRead.Statement (.evheadWrite die v) := of_none rfl rfl rfl
theorem Laws.WordsRead.eventWrite die : Laws.WordsRead.Statement (.eventWrite die) := of_none rfl rfl rfl
theorem Laws.WordsRead.hrangeWrite k lo hi : Laws.WordsRead.Statement (.hrangeWrite k lo hi) := of_none rfl rfl rfl
theorem Laws.WordsRead.schedmemWrite die off n v : Laws.WordsRead.Statement (.schedmemWrite die off n v) := of_none rfl rfl rfl
theorem Laws.WordsRead.hostWindowWrite die off n v : Laws.WordsRead.Statement (.hostWindowWrite die off n v) := of_none rfl rfl rfl
theorem Laws.WordsRead.create arg : Laws.WordsRead.Statement (.create arg) := of_none rfl rfl rfl
theorem Laws.WordsRead.destroy arg : Laws.WordsRead.Statement (.destroy arg) := of_none rfl rfl rfl
theorem Laws.WordsRead.resume arg : Laws.WordsRead.Statement (.resume arg) := of_none rfl rfl rfl
theorem Laws.WordsRead.kick arg : Laws.WordsRead.Statement (.kick arg) := of_none rfl rfl rfl
theorem Laws.WordsRead.pagedone arg : Laws.WordsRead.Statement (.pagedone arg) := of_none rfl rfl rfl
theorem Laws.WordsRead.pagefail arg : Laws.WordsRead.Statement (.pagefail arg) := of_none rfl rfl rfl
theorem Laws.WordsRead.mbcmdReserved code arg : Laws.WordsRead.Statement (.mbcmdReserved code arg) := of_none rfl rfl rfl
theorem Laws.WordsRead.partitionTableWrite p m : Laws.WordsRead.Statement (.partitionTableWrite p m) := of_none rfl rfl rfl
theorem Laws.WordsRead.routeTableWrite rw : Laws.WordsRead.Statement (.routeTableWrite rw) := of_none rfl rfl rfl
theorem Laws.WordsRead.enmonLogRead x : Laws.WordsRead.Statement (.enmonLogRead x) := of_none rfl rfl rfl
theorem Laws.WordsRead.firmwareUpdate im : Laws.WordsRead.Statement (.firmwareUpdate im) := of_none rfl rfl rfl
theorem Laws.WordsRead.attestationReport nonce : Laws.WordsRead.Statement (.attestationReport nonce) := of_none rfl rfl rfl
theorem Laws.WordsRead.enmonReset bad : Laws.WordsRead.Statement (.enmonReset bad) := of_none rfl rfl rfl
theorem Laws.WordsRead.stackTrained st ok : Laws.WordsRead.Statement (.stackTrained st ok) := of_none rfl rfl rfl
theorem Laws.WordsRead.decompSelftestPass core : Laws.WordsRead.Statement (.decompSelftestPass core) := of_none rfl rfl rfl
theorem Laws.WordsRead.linkModuleFail m : Laws.WordsRead.Statement (.linkModuleFail m) := of_none rfl rfl rfl
theorem Laws.WordsRead.powerLimit x : Laws.WordsRead.Statement (.powerLimit x) := of_none rfl rfl rfl
theorem Laws.WordsRead.clockSet mem k mhz : Laws.WordsRead.Statement (.clockSet mem k mhz) := of_none rfl rfl rfl
theorem Laws.WordsRead.collRunStart cx g : Laws.WordsRead.Statement (.collRunStart cx g) := of_none rfl rfl rfl
theorem Laws.WordsRead.collRunComplete run : Laws.WordsRead.Statement (.collRunComplete run) := of_none rfl rfl rfl
theorem Laws.WordsRead.beamFlitForward p f : Laws.WordsRead.Statement (.beamFlitForward p f) := of_none rfl rfl rfl
theorem Laws.WordsRead.beamData p f : Laws.WordsRead.Statement (.beamData p f) := of_none rfl rfl rfl
theorem Laws.WordsRead.beamAck p f : Laws.WordsRead.Statement (.beamAck p f) := of_none rfl rfl rfl
theorem Laws.WordsRead.beamGrant p f : Laws.WordsRead.Statement (.beamGrant p f) := of_none rfl rfl rfl
theorem Laws.WordsRead.beamSignal p f : Laws.WordsRead.Statement (.beamSignal p f) := of_none rfl rfl rfl
theorem Laws.WordsRead.beamBarrier p f : Laws.WordsRead.Statement (.beamBarrier p f) := of_none rfl rfl rfl
theorem Laws.WordsRead.beamAbort p f : Laws.WordsRead.Statement (.beamAbort p f) := of_none rfl rfl rfl
theorem Laws.WordsRead.beamLinkdown p f : Laws.WordsRead.Statement (.beamLinkdown p f) := of_none rfl rfl rfl
theorem Laws.WordsRead.beamCrcReject p k : Laws.WordsRead.Statement (.beamCrcReject p k) := of_none rfl rfl rfl
theorem Laws.WordsRead.beamLaneLoss p n : Laws.WordsRead.Statement (.beamLaneLoss p n) := of_none rfl rfl rfl
theorem Laws.WordsRead.beamPortDown p : Laws.WordsRead.Statement (.beamPortDown p) := of_none rfl rfl rfl
theorem Laws.WordsRead.beamPortRetrain p : Laws.WordsRead.Statement (.beamPortRetrain p) := of_none rfl rfl rfl
theorem Laws.WordsRead.wloadSectorWrite core k : Laws.WordsRead.Statement (.wloadSectorWrite core k) := of_none rfl rfl rfl
theorem Laws.WordsRead.hostStoreAcknowledgement w op : Laws.WordsRead.Statement (.hostStoreAcknowledgement w op) := of_none rfl rfl rfl
theorem Laws.WordsRead.grpbusy w e : Laws.WordsRead.Statement (.grpbusy w e) := of_none rfl rfl rfl
theorem Laws.WordsRead.fuse : Laws.WordsRead.Statement (.fuse) :=
  of_control rfl rfl rfl rfl fun _ => rfl
theorem Laws.WordsRead.crgnClose : Laws.WordsRead.Statement (.crgnClose) :=
  of_control rfl rfl rfl rfl fun _ => rfl
theorem Laws.WordsRead.pairEnd : Laws.WordsRead.Statement (.pairEnd) :=
  of_control rfl rfl rfl rfl fun _ => rfl
theorem Laws.WordsRead.yield : Laws.WordsRead.Statement (.yield) :=
  of_control rfl rfl rfl rfl fun _ => rfl
theorem Laws.WordsRead.rte : Laws.WordsRead.Statement (.rte) :=
  of_control rfl rfl rfl rfl fun _ => rfl
theorem Laws.WordsRead.exit : Laws.WordsRead.Statement (.exit) :=
  of_control rfl rfl rfl rfl fun _ => rfl
theorem Laws.WordsRead.nop : Laws.WordsRead.Statement (.nop) :=
  of_control rfl rfl rfl rfl fun _ => rfl
theorem Laws.WordsRead.logEpochEnd : Laws.WordsRead.Statement (.logEpochEnd) := of_none rfl rfl rfl
theorem Laws.WordsRead.deviceReset : Laws.WordsRead.Statement (.deviceReset) := of_none rfl rfl rfl
theorem Laws.WordsRead.hostLinkTrained : Laws.WordsRead.Statement (.hostLinkTrained) := of_none rfl rfl rfl
theorem Laws.WordsRead.thermalTrip : Laws.WordsRead.Statement (.thermalTrip) := of_none rfl rfl rfl
theorem Laws.WordsRead.chunkNext : Laws.WordsRead.Statement (.chunkNext) :=
  of_chunk rfl rfl rfl (by simp only [chunkCandidate, word_op, word_ch, word_dt, word_fn, word_peer, word_ck, word_n]; rfl)
theorem Laws.WordsRead.chunkBar : Laws.WordsRead.Statement (.chunkBar) :=
  of_chunk rfl rfl rfl (by simp only [chunkCandidate, word_op, word_ch, word_dt, word_fn, word_peer, word_ck, word_n]; rfl)
theorem Laws.WordsRead.chunkEnd : Laws.WordsRead.Statement (.chunkEnd) :=
  of_chunk rfl rfl rfl (by simp only [chunkCandidate, word_op, word_ch, word_dt, word_fn, word_peer, word_ck, word_n]; rfl)

end Sys2Proof
end

