-- ==== Sys2Proof/Laws/State.lean ====
section
/-! SUPPORT. What each update of the state leaves in each field: one lemma per field per update, true by unfolding (written by
tools/gen_laws.py from the fields of State). -/

namespace Sys2Proof.Machine

/-! ## putWatch -/

@[simp] theorem State.putWatch_mem (s : State) (w : Nat) (x : Watch) : (s.putWatch w x).mem = s.mem := rfl
@[simp] theorem State.putWatch_watches (s : State) (w : Nat) (x : Watch) : (s.putWatch w x).watches = Tbl.put s.watches w x := rfl
@[simp] theorem State.putWatch_columns (s : State) (w : Nat) (x : Watch) : (s.putWatch w x).columns = s.columns := rfl
@[simp] theorem State.putWatch_layouts (s : State) (w : Nat) (x : Watch) : (s.putWatch w x).layouts = s.layouts := rfl
@[simp] theorem State.putWatch_cores (s : State) (w : Nat) (x : Watch) : (s.putWatch w x).cores = s.cores := rfl
@[simp] theorem State.putWatch_clusters (s : State) (w : Nat) (x : Watch) : (s.putWatch w x).clusters = s.clusters := rfl
@[simp] theorem State.putWatch_dies (s : State) (w : Nat) (x : Watch) : (s.putWatch w x).dies = s.dies := rfl
@[simp] theorem State.putWatch_ctxs (s : State) (w : Nat) (x : Watch) : (s.putWatch w x).ctxs = s.ctxs := rfl
@[simp] theorem State.putWatch_launches (s : State) (w : Nat) (x : Watch) : (s.putWatch w x).launches = s.launches := rfl
@[simp] theorem State.putWatch_waits (s : State) (w : Nat) (x : Watch) : (s.putWatch w x).waits = s.waits := rfl
@[simp] theorem State.putWatch_hostAcks (s : State) (w : Nat) (x : Watch) : (s.putWatch w x).hostAcks = s.hostAcks := rfl
@[simp] theorem State.putWatch_unmaps (s : State) (w : Nat) (x : Watch) : (s.putWatch w x).unmaps = s.unmaps := rfl
@[simp] theorem State.putWatch_starts (s : State) (w : Nat) (x : Watch) : (s.putWatch w x).starts = s.starts := rfl
@[simp] theorem State.putWatch_runs (s : State) (w : Nat) (x : Watch) : (s.putWatch w x).runs = s.runs := rfl
@[simp] theorem State.putWatch_past (s : State) (w : Nat) (x : Watch) : (s.putWatch w x).past = s.past := rfl
@[simp] theorem State.putWatch_early (s : State) (w : Nat) (x : Watch) : (s.putWatch w x).early = s.early := rfl
@[simp] theorem State.putWatch_ports (s : State) (w : Nat) (x : Watch) : (s.putWatch w x).ports = s.ports := rfl
@[simp] theorem State.putWatch_routes (s : State) (w : Nat) (x : Watch) : (s.putWatch w x).routes = s.routes := rfl
@[simp] theorem State.putWatch_badRoutes (s : State) (w : Nat) (x : Watch) : (s.putWatch w x).badRoutes = s.badRoutes := rfl
@[simp] theorem State.putWatch_notices (s : State) (w : Nat) (x : Watch) : (s.putWatch w x).notices = s.notices := rfl
@[simp] theorem State.putWatch_address (s : State) (w : Nat) (x : Watch) : (s.putWatch w x).address = s.address := rfl
@[simp] theorem State.putWatch_parts (s : State) (w : Nat) (x : Watch) : (s.putWatch w x).parts = s.parts := rfl
@[simp] theorem State.putWatch_enmon (s : State) (w : Nat) (x : Watch) : (s.putWatch w x).enmon = s.enmon := rfl
@[simp] theorem State.putWatch_stackBits (s : State) (w : Nat) (x : Watch) : (s.putWatch w x).stackBits = s.stackBits := rfl
@[simp] theorem State.putWatch_modules (s : State) (w : Nat) (x : Watch) : (s.putWatch w x).modules = s.modules := rfl
@[simp] theorem State.putWatch_linkUp (s : State) (w : Nat) (x : Watch) : (s.putWatch w x).linkUp = s.linkUp := rfl
@[simp] theorem State.putWatch_cur (s : State) (w : Nat) (x : Watch) : (s.putWatch w x).cur = s.cur := rfl
@[simp] theorem State.putWatch_ent (s : State) (w : Nat) (x : Watch) : (s.putWatch w x).ent = s.ent := rfl
@[simp] theorem State.putWatch_lane (s : State) (w : Nat) (x : Watch) : (s.putWatch w x).lane = s.lane := rfl
@[simp] theorem State.putWatch_strand (s : State) (w : Nat) (x : Watch) : (s.putWatch w x).strand = s.strand := rfl
@[simp] theorem State.putWatch_granted (s : State) (w : Nat) (x : Watch) : (s.putWatch w x).granted = s.granted := rfl
@[simp] theorem State.putWatch_agenda (s : State) (w : Nat) (x : Watch) : (s.putWatch w x).agenda = s.agenda := rfl
@[simp] theorem State.putWatch_turn (s : State) (w : Nat) (x : Watch) : (s.putWatch w x).turn = s.turn := rfl
@[simp] theorem State.putWatch_rot (s : State) (w : Nat) (x : Watch) : (s.putWatch w x).rot = s.rot := rfl
@[simp] theorem State.putWatch_free (s : State) (w : Nat) (x : Watch) : (s.putWatch w x).free = s.free := rfl
@[simp] theorem State.putWatch_epoch (s : State) (w : Nat) (x : Watch) : (s.putWatch w x).epoch = s.epoch := rfl
@[simp] theorem State.putWatch_next (s : State) (w : Nat) (x : Watch) : (s.putWatch w x).next = s.next := rfl
@[simp] theorem State.putWatch_seq (s : State) (w : Nat) (x : Watch) : (s.putWatch w x).seq = s.seq := rfl

/-! ## setW -/

@[simp] theorem State.setW_mem (s : State) (x : Watch) : (s.setW x).mem = s.mem := rfl
@[simp] theorem State.setW_watches (s : State) (x : Watch) : (s.setW x).watches = Tbl.put s.watches s.cur x := rfl
@[simp] theorem State.setW_columns (s : State) (x : Watch) : (s.setW x).columns = s.columns := rfl
@[simp] theorem State.setW_layouts (s : State) (x : Watch) : (s.setW x).layouts = s.layouts := rfl
@[simp] theorem State.setW_cores (s : State) (x : Watch) : (s.setW x).cores = s.cores := rfl
@[simp] theorem State.setW_clusters (s : State) (x : Watch) : (s.setW x).clusters = s.clusters := rfl
@[simp] theorem State.setW_dies (s : State) (x : Watch) : (s.setW x).dies = s.dies := rfl
@[simp] theorem State.setW_ctxs (s : State) (x : Watch) : (s.setW x).ctxs = s.ctxs := rfl
@[simp] theorem State.setW_launches (s : State) (x : Watch) : (s.setW x).launches = s.launches := rfl
@[simp] theorem State.setW_waits (s : State) (x : Watch) : (s.setW x).waits = s.waits := rfl
@[simp] theorem State.setW_hostAcks (s : State) (x : Watch) : (s.setW x).hostAcks = s.hostAcks := rfl
@[simp] theorem State.setW_unmaps (s : State) (x : Watch) : (s.setW x).unmaps = s.unmaps := rfl
@[simp] theorem State.setW_starts (s : State) (x : Watch) : (s.setW x).starts = s.starts := rfl
@[simp] theorem State.setW_runs (s : State) (x : Watch) : (s.setW x).runs = s.runs := rfl
@[simp] theorem State.setW_past (s : State) (x : Watch) : (s.setW x).past = s.past := rfl
@[simp] theorem State.setW_early (s : State) (x : Watch) : (s.setW x).early = s.early := rfl
@[simp] theorem State.setW_ports (s : State) (x : Watch) : (s.setW x).ports = s.ports := rfl
@[simp] theorem State.setW_routes (s : State) (x : Watch) : (s.setW x).routes = s.routes := rfl
@[simp] theorem State.setW_badRoutes (s : State) (x : Watch) : (s.setW x).badRoutes = s.badRoutes := rfl
@[simp] theorem State.setW_notices (s : State) (x : Watch) : (s.setW x).notices = s.notices := rfl
@[simp] theorem State.setW_address (s : State) (x : Watch) : (s.setW x).address = s.address := rfl
@[simp] theorem State.setW_parts (s : State) (x : Watch) : (s.setW x).parts = s.parts := rfl
@[simp] theorem State.setW_enmon (s : State) (x : Watch) : (s.setW x).enmon = s.enmon := rfl
@[simp] theorem State.setW_stackBits (s : State) (x : Watch) : (s.setW x).stackBits = s.stackBits := rfl
@[simp] theorem State.setW_modules (s : State) (x : Watch) : (s.setW x).modules = s.modules := rfl
@[simp] theorem State.setW_linkUp (s : State) (x : Watch) : (s.setW x).linkUp = s.linkUp := rfl
@[simp] theorem State.setW_cur (s : State) (x : Watch) : (s.setW x).cur = s.cur := rfl
@[simp] theorem State.setW_ent (s : State) (x : Watch) : (s.setW x).ent = s.ent := rfl
@[simp] theorem State.setW_lane (s : State) (x : Watch) : (s.setW x).lane = s.lane := rfl
@[simp] theorem State.setW_strand (s : State) (x : Watch) : (s.setW x).strand = s.strand := rfl
@[simp] theorem State.setW_granted (s : State) (x : Watch) : (s.setW x).granted = s.granted := rfl
@[simp] theorem State.setW_agenda (s : State) (x : Watch) : (s.setW x).agenda = s.agenda := rfl
@[simp] theorem State.setW_turn (s : State) (x : Watch) : (s.setW x).turn = s.turn := rfl
@[simp] theorem State.setW_rot (s : State) (x : Watch) : (s.setW x).rot = s.rot := rfl
@[simp] theorem State.setW_free (s : State) (x : Watch) : (s.setW x).free = s.free := rfl
@[simp] theorem State.setW_epoch (s : State) (x : Watch) : (s.setW x).epoch = s.epoch := rfl
@[simp] theorem State.setW_next (s : State) (x : Watch) : (s.setW x).next = s.next := rfl
@[simp] theorem State.setW_seq (s : State) (x : Watch) : (s.setW x).seq = s.seq := rfl

/-! ## modW -/

@[simp] theorem State.modW_mem (s : State) (f : Watch → Watch) : (s.modW f).mem = s.mem := rfl
@[simp] theorem State.modW_watches (s : State) (f : Watch → Watch) : (s.modW f).watches = Tbl.put s.watches s.cur (f s.cw) := rfl
@[simp] theorem State.modW_columns (s : State) (f : Watch → Watch) : (s.modW f).columns = s.columns := rfl
@[simp] theorem State.modW_layouts (s : State) (f : Watch → Watch) : (s.modW f).layouts = s.layouts := rfl
@[simp] theorem State.modW_cores (s : State) (f : Watch → Watch) : (s.modW f).cores = s.cores := rfl
@[simp] theorem State.modW_clusters (s : State) (f : Watch → Watch) : (s.modW f).clusters = s.clusters := rfl
@[simp] theorem State.modW_dies (s : State) (f : Watch → Watch) : (s.modW f).dies = s.dies := rfl
@[simp] theorem State.modW_ctxs (s : State) (f : Watch → Watch) : (s.modW f).ctxs = s.ctxs := rfl
@[simp] theorem State.modW_launches (s : State) (f : Watch → Watch) : (s.modW f).launches = s.launches := rfl
@[simp] theorem State.modW_waits (s : State) (f : Watch → Watch) : (s.modW f).waits = s.waits := rfl
@[simp] theorem State.modW_hostAcks (s : State) (f : Watch → Watch) : (s.modW f).hostAcks = s.hostAcks := rfl
@[simp] theorem State.modW_unmaps (s : State) (f : Watch → Watch) : (s.modW f).unmaps = s.unmaps := rfl
@[simp] theorem State.modW_starts (s : State) (f : Watch → Watch) : (s.modW f).starts = s.starts := rfl
@[simp] theorem State.modW_runs (s : State) (f : Watch → Watch) : (s.modW f).runs = s.runs := rfl
@[simp] theorem State.modW_past (s : State) (f : Watch → Watch) : (s.modW f).past = s.past := rfl
@[simp] theorem State.modW_early (s : State) (f : Watch → Watch) : (s.modW f).early = s.early := rfl
@[simp] theorem State.modW_ports (s : State) (f : Watch → Watch) : (s.modW f).ports = s.ports := rfl
@[simp] theorem State.modW_routes (s : State) (f : Watch → Watch) : (s.modW f).routes = s.routes := rfl
@[simp] theorem State.modW_badRoutes (s : State) (f : Watch → Watch) : (s.modW f).badRoutes = s.badRoutes := rfl
@[simp] theorem State.modW_notices (s : State) (f : Watch → Watch) : (s.modW f).notices = s.notices := rfl
@[simp] theorem State.modW_address (s : State) (f : Watch → Watch) : (s.modW f).address = s.address := rfl
@[simp] theorem State.modW_parts (s : State) (f : Watch → Watch) : (s.modW f).parts = s.parts := rfl
@[simp] theorem State.modW_enmon (s : State) (f : Watch → Watch) : (s.modW f).enmon = s.enmon := rfl
@[simp] theorem State.modW_stackBits (s : State) (f : Watch → Watch) : (s.modW f).stackBits = s.stackBits := rfl
@[simp] theorem State.modW_modules (s : State) (f : Watch → Watch) : (s.modW f).modules = s.modules := rfl
@[simp] theorem State.modW_linkUp (s : State) (f : Watch → Watch) : (s.modW f).linkUp = s.linkUp := rfl
@[simp] theorem State.modW_cur (s : State) (f : Watch → Watch) : (s.modW f).cur = s.cur := rfl
@[simp] theorem State.modW_ent (s : State) (f : Watch → Watch) : (s.modW f).ent = s.ent := rfl
@[simp] theorem State.modW_lane (s : State) (f : Watch → Watch) : (s.modW f).lane = s.lane := rfl
@[simp] theorem State.modW_strand (s : State) (f : Watch → Watch) : (s.modW f).strand = s.strand := rfl
@[simp] theorem State.modW_granted (s : State) (f : Watch → Watch) : (s.modW f).granted = s.granted := rfl
@[simp] theorem State.modW_agenda (s : State) (f : Watch → Watch) : (s.modW f).agenda = s.agenda := rfl
@[simp] theorem State.modW_turn (s : State) (f : Watch → Watch) : (s.modW f).turn = s.turn := rfl
@[simp] theorem State.modW_rot (s : State) (f : Watch → Watch) : (s.modW f).rot = s.rot := rfl
@[simp] theorem State.modW_free (s : State) (f : Watch → Watch) : (s.modW f).free = s.free := rfl
@[simp] theorem State.modW_epoch (s : State) (f : Watch → Watch) : (s.modW f).epoch = s.epoch := rfl
@[simp] theorem State.modW_next (s : State) (f : Watch → Watch) : (s.modW f).next = s.next := rfl
@[simp] theorem State.modW_seq (s : State) (f : Watch → Watch) : (s.modW f).seq = s.seq := rfl

/-! ## modWatch -/

@[simp] theorem State.modWatch_mem (s : State) (w : Nat) (f : Watch → Watch) : (s.modWatch w f).mem = s.mem := rfl
@[simp] theorem State.modWatch_watches (s : State) (w : Nat) (f : Watch → Watch) : (s.modWatch w f).watches = Tbl.alter s.watches w f := rfl
@[simp] theorem State.modWatch_columns (s : State) (w : Nat) (f : Watch → Watch) : (s.modWatch w f).columns = s.columns := rfl
@[simp] theorem State.modWatch_layouts (s : State) (w : Nat) (f : Watch → Watch) : (s.modWatch w f).layouts = s.layouts := rfl
@[simp] theorem State.modWatch_cores (s : State) (w : Nat) (f : Watch → Watch) : (s.modWatch w f).cores = s.cores := rfl
@[simp] theorem State.modWatch_clusters (s : State) (w : Nat) (f : Watch → Watch) : (s.modWatch w f).clusters = s.clusters := rfl
@[simp] theorem State.modWatch_dies (s : State) (w : Nat) (f : Watch → Watch) : (s.modWatch w f).dies = s.dies := rfl
@[simp] theorem State.modWatch_ctxs (s : State) (w : Nat) (f : Watch → Watch) : (s.modWatch w f).ctxs = s.ctxs := rfl
@[simp] theorem State.modWatch_launches (s : State) (w : Nat) (f : Watch → Watch) : (s.modWatch w f).launches = s.launches := rfl
@[simp] theorem State.modWatch_waits (s : State) (w : Nat) (f : Watch → Watch) : (s.modWatch w f).waits = s.waits := rfl
@[simp] theorem State.modWatch_hostAcks (s : State) (w : Nat) (f : Watch → Watch) : (s.modWatch w f).hostAcks = s.hostAcks := rfl
@[simp] theorem State.modWatch_unmaps (s : State) (w : Nat) (f : Watch → Watch) : (s.modWatch w f).unmaps = s.unmaps := rfl
@[simp] theorem State.modWatch_starts (s : State) (w : Nat) (f : Watch → Watch) : (s.modWatch w f).starts = s.starts := rfl
@[simp] theorem State.modWatch_runs (s : State) (w : Nat) (f : Watch → Watch) : (s.modWatch w f).runs = s.runs := rfl
@[simp] theorem State.modWatch_past (s : State) (w : Nat) (f : Watch → Watch) : (s.modWatch w f).past = s.past := rfl
@[simp] theorem State.modWatch_early (s : State) (w : Nat) (f : Watch → Watch) : (s.modWatch w f).early = s.early := rfl
@[simp] theorem State.modWatch_ports (s : State) (w : Nat) (f : Watch → Watch) : (s.modWatch w f).ports = s.ports := rfl
@[simp] theorem State.modWatch_routes (s : State) (w : Nat) (f : Watch → Watch) : (s.modWatch w f).routes = s.routes := rfl
@[simp] theorem State.modWatch_badRoutes (s : State) (w : Nat) (f : Watch → Watch) : (s.modWatch w f).badRoutes = s.badRoutes := rfl
@[simp] theorem State.modWatch_notices (s : State) (w : Nat) (f : Watch → Watch) : (s.modWatch w f).notices = s.notices := rfl
@[simp] theorem State.modWatch_address (s : State) (w : Nat) (f : Watch → Watch) : (s.modWatch w f).address = s.address := rfl
@[simp] theorem State.modWatch_parts (s : State) (w : Nat) (f : Watch → Watch) : (s.modWatch w f).parts = s.parts := rfl
@[simp] theorem State.modWatch_enmon (s : State) (w : Nat) (f : Watch → Watch) : (s.modWatch w f).enmon = s.enmon := rfl
@[simp] theorem State.modWatch_stackBits (s : State) (w : Nat) (f : Watch → Watch) : (s.modWatch w f).stackBits = s.stackBits := rfl
@[simp] theorem State.modWatch_modules (s : State) (w : Nat) (f : Watch → Watch) : (s.modWatch w f).modules = s.modules := rfl
@[simp] theorem State.modWatch_linkUp (s : State) (w : Nat) (f : Watch → Watch) : (s.modWatch w f).linkUp = s.linkUp := rfl
@[simp] theorem State.modWatch_cur (s : State) (w : Nat) (f : Watch → Watch) : (s.modWatch w f).cur = s.cur := rfl
@[simp] theorem State.modWatch_ent (s : State) (w : Nat) (f : Watch → Watch) : (s.modWatch w f).ent = s.ent := rfl
@[simp] theorem State.modWatch_lane (s : State) (w : Nat) (f : Watch → Watch) : (s.modWatch w f).lane = s.lane := rfl
@[simp] theorem State.modWatch_strand (s : State) (w : Nat) (f : Watch → Watch) : (s.modWatch w f).strand = s.strand := rfl
@[simp] theorem State.modWatch_granted (s : State) (w : Nat) (f : Watch → Watch) : (s.modWatch w f).granted = s.granted := rfl
@[simp] theorem State.modWatch_agenda (s : State) (w : Nat) (f : Watch → Watch) : (s.modWatch w f).agenda = s.agenda := rfl
@[simp] theorem State.modWatch_turn (s : State) (w : Nat) (f : Watch → Watch) : (s.modWatch w f).turn = s.turn := rfl
@[simp] theorem State.modWatch_rot (s : State) (w : Nat) (f : Watch → Watch) : (s.modWatch w f).rot = s.rot := rfl
@[simp] theorem State.modWatch_free (s : State) (w : Nat) (f : Watch → Watch) : (s.modWatch w f).free = s.free := rfl
@[simp] theorem State.modWatch_epoch (s : State) (w : Nat) (f : Watch → Watch) : (s.modWatch w f).epoch = s.epoch := rfl
@[simp] theorem State.modWatch_next (s : State) (w : Nat) (f : Watch → Watch) : (s.modWatch w f).next = s.next := rfl
@[simp] theorem State.modWatch_seq (s : State) (w : Nat) (f : Watch → Watch) : (s.modWatch w f).seq = s.seq := rfl

/-! ## setCore -/

@[simp] theorem State.setCore_mem (s : State) (k : Nat) (x : Core) : (s.setCore k x).mem = s.mem := rfl
@[simp] theorem State.setCore_watches (s : State) (k : Nat) (x : Core) : (s.setCore k x).watches = s.watches := rfl
@[simp] theorem State.setCore_columns (s : State) (k : Nat) (x : Core) : (s.setCore k x).columns = s.columns := rfl
@[simp] theorem State.setCore_layouts (s : State) (k : Nat) (x : Core) : (s.setCore k x).layouts = s.layouts := rfl
@[simp] theorem State.setCore_cores (s : State) (k : Nat) (x : Core) : (s.setCore k x).cores = Tbl.put s.cores k x := rfl
@[simp] theorem State.setCore_clusters (s : State) (k : Nat) (x : Core) : (s.setCore k x).clusters = s.clusters := rfl
@[simp] theorem State.setCore_dies (s : State) (k : Nat) (x : Core) : (s.setCore k x).dies = s.dies := rfl
@[simp] theorem State.setCore_ctxs (s : State) (k : Nat) (x : Core) : (s.setCore k x).ctxs = s.ctxs := rfl
@[simp] theorem State.setCore_launches (s : State) (k : Nat) (x : Core) : (s.setCore k x).launches = s.launches := rfl
@[simp] theorem State.setCore_waits (s : State) (k : Nat) (x : Core) : (s.setCore k x).waits = s.waits := rfl
@[simp] theorem State.setCore_hostAcks (s : State) (k : Nat) (x : Core) : (s.setCore k x).hostAcks = s.hostAcks := rfl
@[simp] theorem State.setCore_unmaps (s : State) (k : Nat) (x : Core) : (s.setCore k x).unmaps = s.unmaps := rfl
@[simp] theorem State.setCore_starts (s : State) (k : Nat) (x : Core) : (s.setCore k x).starts = s.starts := rfl
@[simp] theorem State.setCore_runs (s : State) (k : Nat) (x : Core) : (s.setCore k x).runs = s.runs := rfl
@[simp] theorem State.setCore_past (s : State) (k : Nat) (x : Core) : (s.setCore k x).past = s.past := rfl
@[simp] theorem State.setCore_early (s : State) (k : Nat) (x : Core) : (s.setCore k x).early = s.early := rfl
@[simp] theorem State.setCore_ports (s : State) (k : Nat) (x : Core) : (s.setCore k x).ports = s.ports := rfl
@[simp] theorem State.setCore_routes (s : State) (k : Nat) (x : Core) : (s.setCore k x).routes = s.routes := rfl
@[simp] theorem State.setCore_badRoutes (s : State) (k : Nat) (x : Core) : (s.setCore k x).badRoutes = s.badRoutes := rfl
@[simp] theorem State.setCore_notices (s : State) (k : Nat) (x : Core) : (s.setCore k x).notices = s.notices := rfl
@[simp] theorem State.setCore_address (s : State) (k : Nat) (x : Core) : (s.setCore k x).address = s.address := rfl
@[simp] theorem State.setCore_parts (s : State) (k : Nat) (x : Core) : (s.setCore k x).parts = s.parts := rfl
@[simp] theorem State.setCore_enmon (s : State) (k : Nat) (x : Core) : (s.setCore k x).enmon = s.enmon := rfl
@[simp] theorem State.setCore_stackBits (s : State) (k : Nat) (x : Core) : (s.setCore k x).stackBits = s.stackBits := rfl
@[simp] theorem State.setCore_modules (s : State) (k : Nat) (x : Core) : (s.setCore k x).modules = s.modules := rfl
@[simp] theorem State.setCore_linkUp (s : State) (k : Nat) (x : Core) : (s.setCore k x).linkUp = s.linkUp := rfl
@[simp] theorem State.setCore_cur (s : State) (k : Nat) (x : Core) : (s.setCore k x).cur = s.cur := rfl
@[simp] theorem State.setCore_ent (s : State) (k : Nat) (x : Core) : (s.setCore k x).ent = s.ent := rfl
@[simp] theorem State.setCore_lane (s : State) (k : Nat) (x : Core) : (s.setCore k x).lane = s.lane := rfl
@[simp] theorem State.setCore_strand (s : State) (k : Nat) (x : Core) : (s.setCore k x).strand = s.strand := rfl
@[simp] theorem State.setCore_granted (s : State) (k : Nat) (x : Core) : (s.setCore k x).granted = s.granted := rfl
@[simp] theorem State.setCore_agenda (s : State) (k : Nat) (x : Core) : (s.setCore k x).agenda = s.agenda := rfl
@[simp] theorem State.setCore_turn (s : State) (k : Nat) (x : Core) : (s.setCore k x).turn = s.turn := rfl
@[simp] theorem State.setCore_rot (s : State) (k : Nat) (x : Core) : (s.setCore k x).rot = s.rot := rfl
@[simp] theorem State.setCore_free (s : State) (k : Nat) (x : Core) : (s.setCore k x).free = s.free := rfl
@[simp] theorem State.setCore_epoch (s : State) (k : Nat) (x : Core) : (s.setCore k x).epoch = s.epoch := rfl
@[simp] theorem State.setCore_next (s : State) (k : Nat) (x : Core) : (s.setCore k x).next = s.next := rfl
@[simp] theorem State.setCore_seq (s : State) (k : Nat) (x : Core) : (s.setCore k x).seq = s.seq := rfl

/-! ## modCore -/

@[simp] theorem State.modCore_mem (s : State) (k : Nat) (f : Core → Core) : (s.modCore k f).mem = s.mem := rfl
@[simp] theorem State.modCore_watches (s : State) (k : Nat) (f : Core → Core) : (s.modCore k f).watches = s.watches := rfl
@[simp] theorem State.modCore_columns (s : State) (k : Nat) (f : Core → Core) : (s.modCore k f).columns = s.columns := rfl
@[simp] theorem State.modCore_layouts (s : State) (k : Nat) (f : Core → Core) : (s.modCore k f).layouts = s.layouts := rfl
@[simp] theorem State.modCore_cores (s : State) (k : Nat) (f : Core → Core) : (s.modCore k f).cores = Tbl.put s.cores k (f (s.core k)) := rfl
@[simp] theorem State.modCore_clusters (s : State) (k : Nat) (f : Core → Core) : (s.modCore k f).clusters = s.clusters := rfl
@[simp] theorem State.modCore_dies (s : State) (k : Nat) (f : Core → Core) : (s.modCore k f).dies = s.dies := rfl
@[simp] theorem State.modCore_ctxs (s : State) (k : Nat) (f : Core → Core) : (s.modCore k f).ctxs = s.ctxs := rfl
@[simp] theorem State.modCore_launches (s : State) (k : Nat) (f : Core → Core) : (s.modCore k f).launches = s.launches := rfl
@[simp] theorem State.modCore_waits (s : State) (k : Nat) (f : Core → Core) : (s.modCore k f).waits = s.waits := rfl
@[simp] theorem State.modCore_hostAcks (s : State) (k : Nat) (f : Core → Core) : (s.modCore k f).hostAcks = s.hostAcks := rfl
@[simp] theorem State.modCore_unmaps (s : State) (k : Nat) (f : Core → Core) : (s.modCore k f).unmaps = s.unmaps := rfl
@[simp] theorem State.modCore_starts (s : State) (k : Nat) (f : Core → Core) : (s.modCore k f).starts = s.starts := rfl
@[simp] theorem State.modCore_runs (s : State) (k : Nat) (f : Core → Core) : (s.modCore k f).runs = s.runs := rfl
@[simp] theorem State.modCore_past (s : State) (k : Nat) (f : Core → Core) : (s.modCore k f).past = s.past := rfl
@[simp] theorem State.modCore_early (s : State) (k : Nat) (f : Core → Core) : (s.modCore k f).early = s.early := rfl
@[simp] theorem State.modCore_ports (s : State) (k : Nat) (f : Core → Core) : (s.modCore k f).ports = s.ports := rfl
@[simp] theorem State.modCore_routes (s : State) (k : Nat) (f : Core → Core) : (s.modCore k f).routes = s.routes := rfl
@[simp] theorem State.modCore_badRoutes (s : State) (k : Nat) (f : Core → Core) : (s.modCore k f).badRoutes = s.badRoutes := rfl
@[simp] theorem State.modCore_notices (s : State) (k : Nat) (f : Core → Core) : (s.modCore k f).notices = s.notices := rfl
@[simp] theorem State.modCore_address (s : State) (k : Nat) (f : Core → Core) : (s.modCore k f).address = s.address := rfl
@[simp] theorem State.modCore_parts (s : State) (k : Nat) (f : Core → Core) : (s.modCore k f).parts = s.parts := rfl
@[simp] theorem State.modCore_enmon (s : State) (k : Nat) (f : Core → Core) : (s.modCore k f).enmon = s.enmon := rfl
@[simp] theorem State.modCore_stackBits (s : State) (k : Nat) (f : Core → Core) : (s.modCore k f).stackBits = s.stackBits := rfl
@[simp] theorem State.modCore_modules (s : State) (k : Nat) (f : Core → Core) : (s.modCore k f).modules = s.modules := rfl
@[simp] theorem State.modCore_linkUp (s : State) (k : Nat) (f : Core → Core) : (s.modCore k f).linkUp = s.linkUp := rfl
@[simp] theorem State.modCore_cur (s : State) (k : Nat) (f : Core → Core) : (s.modCore k f).cur = s.cur := rfl
@[simp] theorem State.modCore_ent (s : State) (k : Nat) (f : Core → Core) : (s.modCore k f).ent = s.ent := rfl
@[simp] theorem State.modCore_lane (s : State) (k : Nat) (f : Core → Core) : (s.modCore k f).lane = s.lane := rfl
@[simp] theorem State.modCore_strand (s : State) (k : Nat) (f : Core → Core) : (s.modCore k f).strand = s.strand := rfl
@[simp] theorem State.modCore_granted (s : State) (k : Nat) (f : Core → Core) : (s.modCore k f).granted = s.granted := rfl
@[simp] theorem State.modCore_agenda (s : State) (k : Nat) (f : Core → Core) : (s.modCore k f).agenda = s.agenda := rfl
@[simp] theorem State.modCore_turn (s : State) (k : Nat) (f : Core → Core) : (s.modCore k f).turn = s.turn := rfl
@[simp] theorem State.modCore_rot (s : State) (k : Nat) (f : Core → Core) : (s.modCore k f).rot = s.rot := rfl
@[simp] theorem State.modCore_free (s : State) (k : Nat) (f : Core → Core) : (s.modCore k f).free = s.free := rfl
@[simp] theorem State.modCore_epoch (s : State) (k : Nat) (f : Core → Core) : (s.modCore k f).epoch = s.epoch := rfl
@[simp] theorem State.modCore_next (s : State) (k : Nat) (f : Core → Core) : (s.modCore k f).next = s.next := rfl
@[simp] theorem State.modCore_seq (s : State) (k : Nat) (f : Core → Core) : (s.modCore k f).seq = s.seq := rfl

/-! ## modColumn -/

@[simp] theorem State.modColumn_mem (s : State) (k : Nat) (f : Column → Column) : (s.modColumn k f).mem = s.mem := rfl
@[simp] theorem State.modColumn_watches (s : State) (k : Nat) (f : Column → Column) : (s.modColumn k f).watches = s.watches := rfl
@[simp] theorem State.modColumn_columns (s : State) (k : Nat) (f : Column → Column) : (s.modColumn k f).columns = Tbl.put s.columns k (f (s.column k)) := rfl
@[simp] theorem State.modColumn_layouts (s : State) (k : Nat) (f : Column → Column) : (s.modColumn k f).layouts = s.layouts := rfl
@[simp] theorem State.modColumn_cores (s : State) (k : Nat) (f : Column → Column) : (s.modColumn k f).cores = s.cores := rfl
@[simp] theorem State.modColumn_clusters (s : State) (k : Nat) (f : Column → Column) : (s.modColumn k f).clusters = s.clusters := rfl
@[simp] theorem State.modColumn_dies (s : State) (k : Nat) (f : Column → Column) : (s.modColumn k f).dies = s.dies := rfl
@[simp] theorem State.modColumn_ctxs (s : State) (k : Nat) (f : Column → Column) : (s.modColumn k f).ctxs = s.ctxs := rfl
@[simp] theorem State.modColumn_launches (s : State) (k : Nat) (f : Column → Column) : (s.modColumn k f).launches = s.launches := rfl
@[simp] theorem State.modColumn_waits (s : State) (k : Nat) (f : Column → Column) : (s.modColumn k f).waits = s.waits := rfl
@[simp] theorem State.modColumn_hostAcks (s : State) (k : Nat) (f : Column → Column) : (s.modColumn k f).hostAcks = s.hostAcks := rfl
@[simp] theorem State.modColumn_unmaps (s : State) (k : Nat) (f : Column → Column) : (s.modColumn k f).unmaps = s.unmaps := rfl
@[simp] theorem State.modColumn_starts (s : State) (k : Nat) (f : Column → Column) : (s.modColumn k f).starts = s.starts := rfl
@[simp] theorem State.modColumn_runs (s : State) (k : Nat) (f : Column → Column) : (s.modColumn k f).runs = s.runs := rfl
@[simp] theorem State.modColumn_past (s : State) (k : Nat) (f : Column → Column) : (s.modColumn k f).past = s.past := rfl
@[simp] theorem State.modColumn_early (s : State) (k : Nat) (f : Column → Column) : (s.modColumn k f).early = s.early := rfl
@[simp] theorem State.modColumn_ports (s : State) (k : Nat) (f : Column → Column) : (s.modColumn k f).ports = s.ports := rfl
@[simp] theorem State.modColumn_routes (s : State) (k : Nat) (f : Column → Column) : (s.modColumn k f).routes = s.routes := rfl
@[simp] theorem State.modColumn_badRoutes (s : State) (k : Nat) (f : Column → Column) : (s.modColumn k f).badRoutes = s.badRoutes := rfl
@[simp] theorem State.modColumn_notices (s : State) (k : Nat) (f : Column → Column) : (s.modColumn k f).notices = s.notices := rfl
@[simp] theorem State.modColumn_address (s : State) (k : Nat) (f : Column → Column) : (s.modColumn k f).address = s.address := rfl
@[simp] theorem State.modColumn_parts (s : State) (k : Nat) (f : Column → Column) : (s.modColumn k f).parts = s.parts := rfl
@[simp] theorem State.modColumn_enmon (s : State) (k : Nat) (f : Column → Column) : (s.modColumn k f).enmon = s.enmon := rfl
@[simp] theorem State.modColumn_stackBits (s : State) (k : Nat) (f : Column → Column) : (s.modColumn k f).stackBits = s.stackBits := rfl
@[simp] theorem State.modColumn_modules (s : State) (k : Nat) (f : Column → Column) : (s.modColumn k f).modules = s.modules := rfl
@[simp] theorem State.modColumn_linkUp (s : State) (k : Nat) (f : Column → Column) : (s.modColumn k f).linkUp = s.linkUp := rfl
@[simp] theorem State.modColumn_cur (s : State) (k : Nat) (f : Column → Column) : (s.modColumn k f).cur = s.cur := rfl
@[simp] theorem State.modColumn_ent (s : State) (k : Nat) (f : Column → Column) : (s.modColumn k f).ent = s.ent := rfl
@[simp] theorem State.modColumn_lane (s : State) (k : Nat) (f : Column → Column) : (s.modColumn k f).lane = s.lane := rfl
@[simp] theorem State.modColumn_strand (s : State) (k : Nat) (f : Column → Column) : (s.modColumn k f).strand = s.strand := rfl
@[simp] theorem State.modColumn_granted (s : State) (k : Nat) (f : Column → Column) : (s.modColumn k f).granted = s.granted := rfl
@[simp] theorem State.modColumn_agenda (s : State) (k : Nat) (f : Column → Column) : (s.modColumn k f).agenda = s.agenda := rfl
@[simp] theorem State.modColumn_turn (s : State) (k : Nat) (f : Column → Column) : (s.modColumn k f).turn = s.turn := rfl
@[simp] theorem State.modColumn_rot (s : State) (k : Nat) (f : Column → Column) : (s.modColumn k f).rot = s.rot := rfl
@[simp] theorem State.modColumn_free (s : State) (k : Nat) (f : Column → Column) : (s.modColumn k f).free = s.free := rfl
@[simp] theorem State.modColumn_epoch (s : State) (k : Nat) (f : Column → Column) : (s.modColumn k f).epoch = s.epoch := rfl
@[simp] theorem State.modColumn_next (s : State) (k : Nat) (f : Column → Column) : (s.modColumn k f).next = s.next := rfl
@[simp] theorem State.modColumn_seq (s : State) (k : Nat) (f : Column → Column) : (s.modColumn k f).seq = s.seq := rfl

/-! ## modCluster -/

@[simp] theorem State.modCluster_mem (s : State) (k : Nat) (f : Cluster → Cluster) : (s.modCluster k f).mem = s.mem := rfl
@[simp] theorem State.modCluster_watches (s : State) (k : Nat) (f : Cluster → Cluster) : (s.modCluster k f).watches = s.watches := rfl
@[simp] theorem State.modCluster_columns (s : State) (k : Nat) (f : Cluster → Cluster) : (s.modCluster k f).columns = s.columns := rfl
@[simp] theorem State.modCluster_layouts (s : State) (k : Nat) (f : Cluster → Cluster) : (s.modCluster k f).layouts = s.layouts := rfl
@[simp] theorem State.modCluster_cores (s : State) (k : Nat) (f : Cluster → Cluster) : (s.modCluster k f).cores = s.cores := rfl
@[simp] theorem State.modCluster_clusters (s : State) (k : Nat) (f : Cluster → Cluster) : (s.modCluster k f).clusters = Tbl.put s.clusters k (f (s.cluster k)) := rfl
@[simp] theorem State.modCluster_dies (s : State) (k : Nat) (f : Cluster → Cluster) : (s.modCluster k f).dies = s.dies := rfl
@[simp] theorem State.modCluster_ctxs (s : State) (k : Nat) (f : Cluster → Cluster) : (s.modCluster k f).ctxs = s.ctxs := rfl
@[simp] theorem State.modCluster_launches (s : State) (k : Nat) (f : Cluster → Cluster) : (s.modCluster k f).launches = s.launches := rfl
@[simp] theorem State.modCluster_waits (s : State) (k : Nat) (f : Cluster → Cluster) : (s.modCluster k f).waits = s.waits := rfl
@[simp] theorem State.modCluster_hostAcks (s : State) (k : Nat) (f : Cluster → Cluster) : (s.modCluster k f).hostAcks = s.hostAcks := rfl
@[simp] theorem State.modCluster_unmaps (s : State) (k : Nat) (f : Cluster → Cluster) : (s.modCluster k f).unmaps = s.unmaps := rfl
@[simp] theorem State.modCluster_starts (s : State) (k : Nat) (f : Cluster → Cluster) : (s.modCluster k f).starts = s.starts := rfl
@[simp] theorem State.modCluster_runs (s : State) (k : Nat) (f : Cluster → Cluster) : (s.modCluster k f).runs = s.runs := rfl
@[simp] theorem State.modCluster_past (s : State) (k : Nat) (f : Cluster → Cluster) : (s.modCluster k f).past = s.past := rfl
@[simp] theorem State.modCluster_early (s : State) (k : Nat) (f : Cluster → Cluster) : (s.modCluster k f).early = s.early := rfl
@[simp] theorem State.modCluster_ports (s : State) (k : Nat) (f : Cluster → Cluster) : (s.modCluster k f).ports = s.ports := rfl
@[simp] theorem State.modCluster_routes (s : State) (k : Nat) (f : Cluster → Cluster) : (s.modCluster k f).routes = s.routes := rfl
@[simp] theorem State.modCluster_badRoutes (s : State) (k : Nat) (f : Cluster → Cluster) : (s.modCluster k f).badRoutes = s.badRoutes := rfl
@[simp] theorem State.modCluster_notices (s : State) (k : Nat) (f : Cluster → Cluster) : (s.modCluster k f).notices = s.notices := rfl
@[simp] theorem State.modCluster_address (s : State) (k : Nat) (f : Cluster → Cluster) : (s.modCluster k f).address = s.address := rfl
@[simp] theorem State.modCluster_parts (s : State) (k : Nat) (f : Cluster → Cluster) : (s.modCluster k f).parts = s.parts := rfl
@[simp] theorem State.modCluster_enmon (s : State) (k : Nat) (f : Cluster → Cluster) : (s.modCluster k f).enmon = s.enmon := rfl
@[simp] theorem State.modCluster_stackBits (s : State) (k : Nat) (f : Cluster → Cluster) : (s.modCluster k f).stackBits = s.stackBits := rfl
@[simp] theorem State.modCluster_modules (s : State) (k : Nat) (f : Cluster → Cluster) : (s.modCluster k f).modules = s.modules := rfl
@[simp] theorem State.modCluster_linkUp (s : State) (k : Nat) (f : Cluster → Cluster) : (s.modCluster k f).linkUp = s.linkUp := rfl
@[simp] theorem State.modCluster_cur (s : State) (k : Nat) (f : Cluster → Cluster) : (s.modCluster k f).cur = s.cur := rfl
@[simp] theorem State.modCluster_ent (s : State) (k : Nat) (f : Cluster → Cluster) : (s.modCluster k f).ent = s.ent := rfl
@[simp] theorem State.modCluster_lane (s : State) (k : Nat) (f : Cluster → Cluster) : (s.modCluster k f).lane = s.lane := rfl
@[simp] theorem State.modCluster_strand (s : State) (k : Nat) (f : Cluster → Cluster) : (s.modCluster k f).strand = s.strand := rfl
@[simp] theorem State.modCluster_granted (s : State) (k : Nat) (f : Cluster → Cluster) : (s.modCluster k f).granted = s.granted := rfl
@[simp] theorem State.modCluster_agenda (s : State) (k : Nat) (f : Cluster → Cluster) : (s.modCluster k f).agenda = s.agenda := rfl
@[simp] theorem State.modCluster_turn (s : State) (k : Nat) (f : Cluster → Cluster) : (s.modCluster k f).turn = s.turn := rfl
@[simp] theorem State.modCluster_rot (s : State) (k : Nat) (f : Cluster → Cluster) : (s.modCluster k f).rot = s.rot := rfl
@[simp] theorem State.modCluster_free (s : State) (k : Nat) (f : Cluster → Cluster) : (s.modCluster k f).free = s.free := rfl
@[simp] theorem State.modCluster_epoch (s : State) (k : Nat) (f : Cluster → Cluster) : (s.modCluster k f).epoch = s.epoch := rfl
@[simp] theorem State.modCluster_next (s : State) (k : Nat) (f : Cluster → Cluster) : (s.modCluster k f).next = s.next := rfl
@[simp] theorem State.modCluster_seq (s : State) (k : Nat) (f : Cluster → Cluster) : (s.modCluster k f).seq = s.seq := rfl

/-! ## modDie -/

@[simp] theorem State.modDie_mem (s : State) (k : Nat) (f : Die → Die) : (s.modDie k f).mem = s.mem := rfl
@[simp] theorem State.modDie_watches (s : State) (k : Nat) (f : Die → Die) : (s.modDie k f).watches = s.watches := rfl
@[simp] theorem State.modDie_columns (s : State) (k : Nat) (f : Die → Die) : (s.modDie k f).columns = s.columns := rfl
@[simp] theorem State.modDie_layouts (s : State) (k : Nat) (f : Die → Die) : (s.modDie k f).layouts = s.layouts := rfl
@[simp] theorem State.modDie_cores (s : State) (k : Nat) (f : Die → Die) : (s.modDie k f).cores = s.cores := rfl
@[simp] theorem State.modDie_clusters (s : State) (k : Nat) (f : Die → Die) : (s.modDie k f).clusters = s.clusters := rfl
@[simp] theorem State.modDie_dies (s : State) (k : Nat) (f : Die → Die) : (s.modDie k f).dies = Tbl.put s.dies k (f (s.die k)) := rfl
@[simp] theorem State.modDie_ctxs (s : State) (k : Nat) (f : Die → Die) : (s.modDie k f).ctxs = s.ctxs := rfl
@[simp] theorem State.modDie_launches (s : State) (k : Nat) (f : Die → Die) : (s.modDie k f).launches = s.launches := rfl
@[simp] theorem State.modDie_waits (s : State) (k : Nat) (f : Die → Die) : (s.modDie k f).waits = s.waits := rfl
@[simp] theorem State.modDie_hostAcks (s : State) (k : Nat) (f : Die → Die) : (s.modDie k f).hostAcks = s.hostAcks := rfl
@[simp] theorem State.modDie_unmaps (s : State) (k : Nat) (f : Die → Die) : (s.modDie k f).unmaps = s.unmaps := rfl
@[simp] theorem State.modDie_starts (s : State) (k : Nat) (f : Die → Die) : (s.modDie k f).starts = s.starts := rfl
@[simp] theorem State.modDie_runs (s : State) (k : Nat) (f : Die → Die) : (s.modDie k f).runs = s.runs := rfl
@[simp] theorem State.modDie_past (s : State) (k : Nat) (f : Die → Die) : (s.modDie k f).past = s.past := rfl
@[simp] theorem State.modDie_early (s : State) (k : Nat) (f : Die → Die) : (s.modDie k f).early = s.early := rfl
@[simp] theorem State.modDie_ports (s : State) (k : Nat) (f : Die → Die) : (s.modDie k f).ports = s.ports := rfl
@[simp] theorem State.modDie_routes (s : State) (k : Nat) (f : Die → Die) : (s.modDie k f).routes = s.routes := rfl
@[simp] theorem State.modDie_badRoutes (s : State) (k : Nat) (f : Die → Die) : (s.modDie k f).badRoutes = s.badRoutes := rfl
@[simp] theorem State.modDie_notices (s : State) (k : Nat) (f : Die → Die) : (s.modDie k f).notices = s.notices := rfl
@[simp] theorem State.modDie_address (s : State) (k : Nat) (f : Die → Die) : (s.modDie k f).address = s.address := rfl
@[simp] theorem State.modDie_parts (s : State) (k : Nat) (f : Die → Die) : (s.modDie k f).parts = s.parts := rfl
@[simp] theorem State.modDie_enmon (s : State) (k : Nat) (f : Die → Die) : (s.modDie k f).enmon = s.enmon := rfl
@[simp] theorem State.modDie_stackBits (s : State) (k : Nat) (f : Die → Die) : (s.modDie k f).stackBits = s.stackBits := rfl
@[simp] theorem State.modDie_modules (s : State) (k : Nat) (f : Die → Die) : (s.modDie k f).modules = s.modules := rfl
@[simp] theorem State.modDie_linkUp (s : State) (k : Nat) (f : Die → Die) : (s.modDie k f).linkUp = s.linkUp := rfl
@[simp] theorem State.modDie_cur (s : State) (k : Nat) (f : Die → Die) : (s.modDie k f).cur = s.cur := rfl
@[simp] theorem State.modDie_ent (s : State) (k : Nat) (f : Die → Die) : (s.modDie k f).ent = s.ent := rfl
@[simp] theorem State.modDie_lane (s : State) (k : Nat) (f : Die → Die) : (s.modDie k f).lane = s.lane := rfl
@[simp] theorem State.modDie_strand (s : State) (k : Nat) (f : Die → Die) : (s.modDie k f).strand = s.strand := rfl
@[simp] theorem State.modDie_granted (s : State) (k : Nat) (f : Die → Die) : (s.modDie k f).granted = s.granted := rfl
@[simp] theorem State.modDie_agenda (s : State) (k : Nat) (f : Die → Die) : (s.modDie k f).agenda = s.agenda := rfl
@[simp] theorem State.modDie_turn (s : State) (k : Nat) (f : Die → Die) : (s.modDie k f).turn = s.turn := rfl
@[simp] theorem State.modDie_rot (s : State) (k : Nat) (f : Die → Die) : (s.modDie k f).rot = s.rot := rfl
@[simp] theorem State.modDie_free (s : State) (k : Nat) (f : Die → Die) : (s.modDie k f).free = s.free := rfl
@[simp] theorem State.modDie_epoch (s : State) (k : Nat) (f : Die → Die) : (s.modDie k f).epoch = s.epoch := rfl
@[simp] theorem State.modDie_next (s : State) (k : Nat) (f : Die → Die) : (s.modDie k f).next = s.next := rfl
@[simp] theorem State.modDie_seq (s : State) (k : Nat) (f : Die → Die) : (s.modDie k f).seq = s.seq := rfl

/-! ## modCtx -/

@[simp] theorem State.modCtx_mem (s : State) (k : Nat) (f : Context → Context) : (s.modCtx k f).mem = s.mem := rfl
@[simp] theorem State.modCtx_watches (s : State) (k : Nat) (f : Context → Context) : (s.modCtx k f).watches = s.watches := rfl
@[simp] theorem State.modCtx_columns (s : State) (k : Nat) (f : Context → Context) : (s.modCtx k f).columns = s.columns := rfl
@[simp] theorem State.modCtx_layouts (s : State) (k : Nat) (f : Context → Context) : (s.modCtx k f).layouts = s.layouts := rfl
@[simp] theorem State.modCtx_cores (s : State) (k : Nat) (f : Context → Context) : (s.modCtx k f).cores = s.cores := rfl
@[simp] theorem State.modCtx_clusters (s : State) (k : Nat) (f : Context → Context) : (s.modCtx k f).clusters = s.clusters := rfl
@[simp] theorem State.modCtx_dies (s : State) (k : Nat) (f : Context → Context) : (s.modCtx k f).dies = s.dies := rfl
@[simp] theorem State.modCtx_ctxs (s : State) (k : Nat) (f : Context → Context) : (s.modCtx k f).ctxs = Tbl.alter s.ctxs k f := rfl
@[simp] theorem State.modCtx_launches (s : State) (k : Nat) (f : Context → Context) : (s.modCtx k f).launches = s.launches := rfl
@[simp] theorem State.modCtx_waits (s : State) (k : Nat) (f : Context → Context) : (s.modCtx k f).waits = s.waits := rfl
@[simp] theorem State.modCtx_hostAcks (s : State) (k : Nat) (f : Context → Context) : (s.modCtx k f).hostAcks = s.hostAcks := rfl
@[simp] theorem State.modCtx_unmaps (s : State) (k : Nat) (f : Context → Context) : (s.modCtx k f).unmaps = s.unmaps := rfl
@[simp] theorem State.modCtx_starts (s : State) (k : Nat) (f : Context → Context) : (s.modCtx k f).starts = s.starts := rfl
@[simp] theorem State.modCtx_runs (s : State) (k : Nat) (f : Context → Context) : (s.modCtx k f).runs = s.runs := rfl
@[simp] theorem State.modCtx_past (s : State) (k : Nat) (f : Context → Context) : (s.modCtx k f).past = s.past := rfl
@[simp] theorem State.modCtx_early (s : State) (k : Nat) (f : Context → Context) : (s.modCtx k f).early = s.early := rfl
@[simp] theorem State.modCtx_ports (s : State) (k : Nat) (f : Context → Context) : (s.modCtx k f).ports = s.ports := rfl
@[simp] theorem State.modCtx_routes (s : State) (k : Nat) (f : Context → Context) : (s.modCtx k f).routes = s.routes := rfl
@[simp] theorem State.modCtx_badRoutes (s : State) (k : Nat) (f : Context → Context) : (s.modCtx k f).badRoutes = s.badRoutes := rfl
@[simp] theorem State.modCtx_notices (s : State) (k : Nat) (f : Context → Context) : (s.modCtx k f).notices = s.notices := rfl
@[simp] theorem State.modCtx_address (s : State) (k : Nat) (f : Context → Context) : (s.modCtx k f).address = s.address := rfl
@[simp] theorem State.modCtx_parts (s : State) (k : Nat) (f : Context → Context) : (s.modCtx k f).parts = s.parts := rfl
@[simp] theorem State.modCtx_enmon (s : State) (k : Nat) (f : Context → Context) : (s.modCtx k f).enmon = s.enmon := rfl
@[simp] theorem State.modCtx_stackBits (s : State) (k : Nat) (f : Context → Context) : (s.modCtx k f).stackBits = s.stackBits := rfl
@[simp] theorem State.modCtx_modules (s : State) (k : Nat) (f : Context → Context) : (s.modCtx k f).modules = s.modules := rfl
@[simp] theorem State.modCtx_linkUp (s : State) (k : Nat) (f : Context → Context) : (s.modCtx k f).linkUp = s.linkUp := rfl
@[simp] theorem State.modCtx_cur (s : State) (k : Nat) (f : Context → Context) : (s.modCtx k f).cur = s.cur := rfl
@[simp] theorem State.modCtx_ent (s : State) (k : Nat) (f : Context → Context) : (s.modCtx k f).ent = s.ent := rfl
@[simp] theorem State.modCtx_lane (s : State) (k : Nat) (f : Context → Context) : (s.modCtx k f).lane = s.lane := rfl
@[simp] theorem State.modCtx_strand (s : State) (k : Nat) (f : Context → Context) : (s.modCtx k f).strand = s.strand := rfl
@[simp] theorem State.modCtx_granted (s : State) (k : Nat) (f : Context → Context) : (s.modCtx k f).granted = s.granted := rfl
@[simp] theorem State.modCtx_agenda (s : State) (k : Nat) (f : Context → Context) : (s.modCtx k f).agenda = s.agenda := rfl
@[simp] theorem State.modCtx_turn (s : State) (k : Nat) (f : Context → Context) : (s.modCtx k f).turn = s.turn := rfl
@[simp] theorem State.modCtx_rot (s : State) (k : Nat) (f : Context → Context) : (s.modCtx k f).rot = s.rot := rfl
@[simp] theorem State.modCtx_free (s : State) (k : Nat) (f : Context → Context) : (s.modCtx k f).free = s.free := rfl
@[simp] theorem State.modCtx_epoch (s : State) (k : Nat) (f : Context → Context) : (s.modCtx k f).epoch = s.epoch := rfl
@[simp] theorem State.modCtx_next (s : State) (k : Nat) (f : Context → Context) : (s.modCtx k f).next = s.next := rfl
@[simp] theorem State.modCtx_seq (s : State) (k : Nat) (f : Context → Context) : (s.modCtx k f).seq = s.seq := rfl

/-! ## modLaunch -/

@[simp] theorem State.modLaunch_mem (s : State) (k : Nat) (f : Launch → Launch) : (s.modLaunch k f).mem = s.mem := rfl
@[simp] theorem State.modLaunch_watches (s : State) (k : Nat) (f : Launch → Launch) : (s.modLaunch k f).watches = s.watches := rfl
@[simp] theorem State.modLaunch_columns (s : State) (k : Nat) (f : Launch → Launch) : (s.modLaunch k f).columns = s.columns := rfl
@[simp] theorem State.modLaunch_layouts (s : State) (k : Nat) (f : Launch → Launch) : (s.modLaunch k f).layouts = s.layouts := rfl
@[simp] theorem State.modLaunch_cores (s : State) (k : Nat) (f : Launch → Launch) : (s.modLaunch k f).cores = s.cores := rfl
@[simp] theorem State.modLaunch_clusters (s : State) (k : Nat) (f : Launch → Launch) : (s.modLaunch k f).clusters = s.clusters := rfl
@[simp] theorem State.modLaunch_dies (s : State) (k : Nat) (f : Launch → Launch) : (s.modLaunch k f).dies = s.dies := rfl
@[simp] theorem State.modLaunch_ctxs (s : State) (k : Nat) (f : Launch → Launch) : (s.modLaunch k f).ctxs = s.ctxs := rfl
@[simp] theorem State.modLaunch_launches (s : State) (k : Nat) (f : Launch → Launch) : (s.modLaunch k f).launches = Tbl.alter s.launches k f := rfl
@[simp] theorem State.modLaunch_waits (s : State) (k : Nat) (f : Launch → Launch) : (s.modLaunch k f).waits = s.waits := rfl
@[simp] theorem State.modLaunch_hostAcks (s : State) (k : Nat) (f : Launch → Launch) : (s.modLaunch k f).hostAcks = s.hostAcks := rfl
@[simp] theorem State.modLaunch_unmaps (s : State) (k : Nat) (f : Launch → Launch) : (s.modLaunch k f).unmaps = s.unmaps := rfl
@[simp] theorem State.modLaunch_starts (s : State) (k : Nat) (f : Launch → Launch) : (s.modLaunch k f).starts = s.starts := rfl
@[simp] theorem State.modLaunch_runs (s : State) (k : Nat) (f : Launch → Launch) : (s.modLaunch k f).runs = s.runs := rfl
@[simp] theorem State.modLaunch_past (s : State) (k : Nat) (f : Launch → Launch) : (s.modLaunch k f).past = s.past := rfl
@[simp] theorem State.modLaunch_early (s : State) (k : Nat) (f : Launch → Launch) : (s.modLaunch k f).early = s.early := rfl
@[simp] theorem State.modLaunch_ports (s : State) (k : Nat) (f : Launch → Launch) : (s.modLaunch k f).ports = s.ports := rfl
@[simp] theorem State.modLaunch_routes (s : State) (k : Nat) (f : Launch → Launch) : (s.modLaunch k f).routes = s.routes := rfl
@[simp] theorem State.modLaunch_badRoutes (s : State) (k : Nat) (f : Launch → Launch) : (s.modLaunch k f).badRoutes = s.badRoutes := rfl
@[simp] theorem State.modLaunch_notices (s : State) (k : Nat) (f : Launch → Launch) : (s.modLaunch k f).notices = s.notices := rfl
@[simp] theorem State.modLaunch_address (s : State) (k : Nat) (f : Launch → Launch) : (s.modLaunch k f).address = s.address := rfl
@[simp] theorem State.modLaunch_parts (s : State) (k : Nat) (f : Launch → Launch) : (s.modLaunch k f).parts = s.parts := rfl
@[simp] theorem State.modLaunch_enmon (s : State) (k : Nat) (f : Launch → Launch) : (s.modLaunch k f).enmon = s.enmon := rfl
@[simp] theorem State.modLaunch_stackBits (s : State) (k : Nat) (f : Launch → Launch) : (s.modLaunch k f).stackBits = s.stackBits := rfl
@[simp] theorem State.modLaunch_modules (s : State) (k : Nat) (f : Launch → Launch) : (s.modLaunch k f).modules = s.modules := rfl
@[simp] theorem State.modLaunch_linkUp (s : State) (k : Nat) (f : Launch → Launch) : (s.modLaunch k f).linkUp = s.linkUp := rfl
@[simp] theorem State.modLaunch_cur (s : State) (k : Nat) (f : Launch → Launch) : (s.modLaunch k f).cur = s.cur := rfl
@[simp] theorem State.modLaunch_ent (s : State) (k : Nat) (f : Launch → Launch) : (s.modLaunch k f).ent = s.ent := rfl
@[simp] theorem State.modLaunch_lane (s : State) (k : Nat) (f : Launch → Launch) : (s.modLaunch k f).lane = s.lane := rfl
@[simp] theorem State.modLaunch_strand (s : State) (k : Nat) (f : Launch → Launch) : (s.modLaunch k f).strand = s.strand := rfl
@[simp] theorem State.modLaunch_granted (s : State) (k : Nat) (f : Launch → Launch) : (s.modLaunch k f).granted = s.granted := rfl
@[simp] theorem State.modLaunch_agenda (s : State) (k : Nat) (f : Launch → Launch) : (s.modLaunch k f).agenda = s.agenda := rfl
@[simp] theorem State.modLaunch_turn (s : State) (k : Nat) (f : Launch → Launch) : (s.modLaunch k f).turn = s.turn := rfl
@[simp] theorem State.modLaunch_rot (s : State) (k : Nat) (f : Launch → Launch) : (s.modLaunch k f).rot = s.rot := rfl
@[simp] theorem State.modLaunch_free (s : State) (k : Nat) (f : Launch → Launch) : (s.modLaunch k f).free = s.free := rfl
@[simp] theorem State.modLaunch_epoch (s : State) (k : Nat) (f : Launch → Launch) : (s.modLaunch k f).epoch = s.epoch := rfl
@[simp] theorem State.modLaunch_next (s : State) (k : Nat) (f : Launch → Launch) : (s.modLaunch k f).next = s.next := rfl
@[simp] theorem State.modLaunch_seq (s : State) (k : Nat) (f : Launch → Launch) : (s.modLaunch k f).seq = s.seq := rfl

/-! ## modLayout -/

@[simp] theorem State.modLayout_mem (s : State) (c p : Nat) (f : Layout → Layout) : (s.modLayout c p f).mem = s.mem := rfl
@[simp] theorem State.modLayout_watches (s : State) (c p : Nat) (f : Layout → Layout) : (s.modLayout c p f).watches = s.watches := rfl
@[simp] theorem State.modLayout_columns (s : State) (c p : Nat) (f : Layout → Layout) : (s.modLayout c p f).columns = s.columns := rfl
@[simp] theorem State.modLayout_layouts (s : State) (c p : Nat) (f : Layout → Layout) : (s.modLayout c p f).layouts = Tbl.put s.layouts (layoutKey c p) (f (s.layout c p)) := rfl
@[simp] theorem State.modLayout_cores (s : State) (c p : Nat) (f : Layout → Layout) : (s.modLayout c p f).cores = s.cores := rfl
@[simp] theorem State.modLayout_clusters (s : State) (c p : Nat) (f : Layout → Layout) : (s.modLayout c p f).clusters = s.clusters := rfl
@[simp] theorem State.modLayout_dies (s : State) (c p : Nat) (f : Layout → Layout) : (s.modLayout c p f).dies = s.dies := rfl
@[simp] theorem State.modLayout_ctxs (s : State) (c p : Nat) (f : Layout → Layout) : (s.modLayout c p f).ctxs = s.ctxs := rfl
@[simp] theorem State.modLayout_launches (s : State) (c p : Nat) (f : Layout → Layout) : (s.modLayout c p f).launches = s.launches := rfl
@[simp] theorem State.modLayout_waits (s : State) (c p : Nat) (f : Layout → Layout) : (s.modLayout c p f).waits = s.waits := rfl
@[simp] theorem State.modLayout_hostAcks (s : State) (c p : Nat) (f : Layout → Layout) : (s.modLayout c p f).hostAcks = s.hostAcks := rfl
@[simp] theorem State.modLayout_unmaps (s : State) (c p : Nat) (f : Layout → Layout) : (s.modLayout c p f).unmaps = s.unmaps := rfl
@[simp] theorem State.modLayout_starts (s : State) (c p : Nat) (f : Layout → Layout) : (s.modLayout c p f).starts = s.starts := rfl
@[simp] theorem State.modLayout_runs (s : State) (c p : Nat) (f : Layout → Layout) : (s.modLayout c p f).runs = s.runs := rfl
@[simp] theorem State.modLayout_past (s : State) (c p : Nat) (f : Layout → Layout) : (s.modLayout c p f).past = s.past := rfl
@[simp] theorem State.modLayout_early (s : State) (c p : Nat) (f : Layout → Layout) : (s.modLayout c p f).early = s.early := rfl
@[simp] theorem State.modLayout_ports (s : State) (c p : Nat) (f : Layout → Layout) : (s.modLayout c p f).ports = s.ports := rfl
@[simp] theorem State.modLayout_routes (s : State) (c p : Nat) (f : Layout → Layout) : (s.modLayout c p f).routes = s.routes := rfl
@[simp] theorem State.modLayout_badRoutes (s : State) (c p : Nat) (f : Layout → Layout) : (s.modLayout c p f).badRoutes = s.badRoutes := rfl
@[simp] theorem State.modLayout_notices (s : State) (c p : Nat) (f : Layout → Layout) : (s.modLayout c p f).notices = s.notices := rfl
@[simp] theorem State.modLayout_address (s : State) (c p : Nat) (f : Layout → Layout) : (s.modLayout c p f).address = s.address := rfl
@[simp] theorem State.modLayout_parts (s : State) (c p : Nat) (f : Layout → Layout) : (s.modLayout c p f).parts = s.parts := rfl
@[simp] theorem State.modLayout_enmon (s : State) (c p : Nat) (f : Layout → Layout) : (s.modLayout c p f).enmon = s.enmon := rfl
@[simp] theorem State.modLayout_stackBits (s : State) (c p : Nat) (f : Layout → Layout) : (s.modLayout c p f).stackBits = s.stackBits := rfl
@[simp] theorem State.modLayout_modules (s : State) (c p : Nat) (f : Layout → Layout) : (s.modLayout c p f).modules = s.modules := rfl
@[simp] theorem State.modLayout_linkUp (s : State) (c p : Nat) (f : Layout → Layout) : (s.modLayout c p f).linkUp = s.linkUp := rfl
@[simp] theorem State.modLayout_cur (s : State) (c p : Nat) (f : Layout → Layout) : (s.modLayout c p f).cur = s.cur := rfl
@[simp] theorem State.modLayout_ent (s : State) (c p : Nat) (f : Layout → Layout) : (s.modLayout c p f).ent = s.ent := rfl
@[simp] theorem State.modLayout_lane (s : State) (c p : Nat) (f : Layout → Layout) : (s.modLayout c p f).lane = s.lane := rfl
@[simp] theorem State.modLayout_strand (s : State) (c p : Nat) (f : Layout → Layout) : (s.modLayout c p f).strand = s.strand := rfl
@[simp] theorem State.modLayout_granted (s : State) (c p : Nat) (f : Layout → Layout) : (s.modLayout c p f).granted = s.granted := rfl
@[simp] theorem State.modLayout_agenda (s : State) (c p : Nat) (f : Layout → Layout) : (s.modLayout c p f).agenda = s.agenda := rfl
@[simp] theorem State.modLayout_turn (s : State) (c p : Nat) (f : Layout → Layout) : (s.modLayout c p f).turn = s.turn := rfl
@[simp] theorem State.modLayout_rot (s : State) (c p : Nat) (f : Layout → Layout) : (s.modLayout c p f).rot = s.rot := rfl
@[simp] theorem State.modLayout_free (s : State) (c p : Nat) (f : Layout → Layout) : (s.modLayout c p f).free = s.free := rfl
@[simp] theorem State.modLayout_epoch (s : State) (c p : Nat) (f : Layout → Layout) : (s.modLayout c p f).epoch = s.epoch := rfl
@[simp] theorem State.modLayout_next (s : State) (c p : Nat) (f : Layout → Layout) : (s.modLayout c p f).next = s.next := rfl
@[simp] theorem State.modLayout_seq (s : State) (c p : Nat) (f : Layout → Layout) : (s.modLayout c p f).seq = s.seq := rfl

/-! ## bump -/

@[simp] theorem State.bump_mem (s : State) : (s.bump).mem = s.mem := rfl
@[simp] theorem State.bump_watches (s : State) : (s.bump).watches = s.watches := rfl
@[simp] theorem State.bump_columns (s : State) : (s.bump).columns = s.columns := rfl
@[simp] theorem State.bump_layouts (s : State) : (s.bump).layouts = s.layouts := rfl
@[simp] theorem State.bump_cores (s : State) : (s.bump).cores = s.cores := rfl
@[simp] theorem State.bump_clusters (s : State) : (s.bump).clusters = s.clusters := rfl
@[simp] theorem State.bump_dies (s : State) : (s.bump).dies = s.dies := rfl
@[simp] theorem State.bump_ctxs (s : State) : (s.bump).ctxs = s.ctxs := rfl
@[simp] theorem State.bump_launches (s : State) : (s.bump).launches = s.launches := rfl
@[simp] theorem State.bump_waits (s : State) : (s.bump).waits = s.waits := rfl
@[simp] theorem State.bump_hostAcks (s : State) : (s.bump).hostAcks = s.hostAcks := rfl
@[simp] theorem State.bump_unmaps (s : State) : (s.bump).unmaps = s.unmaps := rfl
@[simp] theorem State.bump_starts (s : State) : (s.bump).starts = s.starts := rfl
@[simp] theorem State.bump_runs (s : State) : (s.bump).runs = s.runs := rfl
@[simp] theorem State.bump_past (s : State) : (s.bump).past = s.past := rfl
@[simp] theorem State.bump_early (s : State) : (s.bump).early = s.early := rfl
@[simp] theorem State.bump_ports (s : State) : (s.bump).ports = s.ports := rfl
@[simp] theorem State.bump_routes (s : State) : (s.bump).routes = s.routes := rfl
@[simp] theorem State.bump_badRoutes (s : State) : (s.bump).badRoutes = s.badRoutes := rfl
@[simp] theorem State.bump_notices (s : State) : (s.bump).notices = s.notices := rfl
@[simp] theorem State.bump_address (s : State) : (s.bump).address = s.address := rfl
@[simp] theorem State.bump_parts (s : State) : (s.bump).parts = s.parts := rfl
@[simp] theorem State.bump_enmon (s : State) : (s.bump).enmon = s.enmon := rfl
@[simp] theorem State.bump_stackBits (s : State) : (s.bump).stackBits = s.stackBits := rfl
@[simp] theorem State.bump_modules (s : State) : (s.bump).modules = s.modules := rfl
@[simp] theorem State.bump_linkUp (s : State) : (s.bump).linkUp = s.linkUp := rfl
@[simp] theorem State.bump_cur (s : State) : (s.bump).cur = s.cur := rfl
@[simp] theorem State.bump_ent (s : State) : (s.bump).ent = s.ent := rfl
@[simp] theorem State.bump_lane (s : State) : (s.bump).lane = s.lane := rfl
@[simp] theorem State.bump_strand (s : State) : (s.bump).strand = s.strand := rfl
@[simp] theorem State.bump_granted (s : State) : (s.bump).granted = s.granted := rfl
@[simp] theorem State.bump_agenda (s : State) : (s.bump).agenda = s.agenda := rfl
@[simp] theorem State.bump_turn (s : State) : (s.bump).turn = s.turn := rfl
@[simp] theorem State.bump_rot (s : State) : (s.bump).rot = s.rot := rfl
@[simp] theorem State.bump_free (s : State) : (s.bump).free = s.free := rfl
@[simp] theorem State.bump_epoch (s : State) : (s.bump).epoch = s.epoch := rfl
@[simp] theorem State.bump_next (s : State) : (s.bump).next = s.next + 1 := rfl
@[simp] theorem State.bump_seq (s : State) : (s.bump).seq = s.seq := rfl

/-! ## tick -/

@[simp] theorem State.tick_mem (s : State) : (s.tick).mem = s.mem := rfl
@[simp] theorem State.tick_watches (s : State) : (s.tick).watches = s.watches := rfl
@[simp] theorem State.tick_columns (s : State) : (s.tick).columns = s.columns := rfl
@[simp] theorem State.tick_layouts (s : State) : (s.tick).layouts = s.layouts := rfl
@[simp] theorem State.tick_cores (s : State) : (s.tick).cores = s.cores := rfl
@[simp] theorem State.tick_clusters (s : State) : (s.tick).clusters = s.clusters := rfl
@[simp] theorem State.tick_dies (s : State) : (s.tick).dies = s.dies := rfl
@[simp] theorem State.tick_ctxs (s : State) : (s.tick).ctxs = s.ctxs := rfl
@[simp] theorem State.tick_launches (s : State) : (s.tick).launches = s.launches := rfl
@[simp] theorem State.tick_waits (s : State) : (s.tick).waits = s.waits := rfl
@[simp] theorem State.tick_hostAcks (s : State) : (s.tick).hostAcks = s.hostAcks := rfl
@[simp] theorem State.tick_unmaps (s : State) : (s.tick).unmaps = s.unmaps := rfl
@[simp] theorem State.tick_starts (s : State) : (s.tick).starts = s.starts := rfl
@[simp] theorem State.tick_runs (s : State) : (s.tick).runs = s.runs := rfl
@[simp] theorem State.tick_past (s : State) : (s.tick).past = s.past := rfl
@[simp] theorem State.tick_early (s : State) : (s.tick).early = s.early := rfl
@[simp] theorem State.tick_ports (s : State) : (s.tick).ports = s.ports := rfl
@[simp] theorem State.tick_routes (s : State) : (s.tick).routes = s.routes := rfl
@[simp] theorem State.tick_badRoutes (s : State) : (s.tick).badRoutes = s.badRoutes := rfl
@[simp] theorem State.tick_notices (s : State) : (s.tick).notices = s.notices := rfl
@[simp] theorem State.tick_address (s : State) : (s.tick).address = s.address := rfl
@[simp] theorem State.tick_parts (s : State) : (s.tick).parts = s.parts := rfl
@[simp] theorem State.tick_enmon (s : State) : (s.tick).enmon = s.enmon := rfl
@[simp] theorem State.tick_stackBits (s : State) : (s.tick).stackBits = s.stackBits := rfl
@[simp] theorem State.tick_modules (s : State) : (s.tick).modules = s.modules := rfl
@[simp] theorem State.tick_linkUp (s : State) : (s.tick).linkUp = s.linkUp := rfl
@[simp] theorem State.tick_cur (s : State) : (s.tick).cur = s.cur := rfl
@[simp] theorem State.tick_ent (s : State) : (s.tick).ent = s.ent := rfl
@[simp] theorem State.tick_lane (s : State) : (s.tick).lane = s.lane := rfl
@[simp] theorem State.tick_strand (s : State) : (s.tick).strand = s.strand := rfl
@[simp] theorem State.tick_granted (s : State) : (s.tick).granted = s.granted := rfl
@[simp] theorem State.tick_agenda (s : State) : (s.tick).agenda = s.agenda := rfl
@[simp] theorem State.tick_turn (s : State) : (s.tick).turn = s.turn := rfl
@[simp] theorem State.tick_rot (s : State) : (s.tick).rot = s.rot := rfl
@[simp] theorem State.tick_free (s : State) : (s.tick).free = s.free := rfl
@[simp] theorem State.tick_epoch (s : State) : (s.tick).epoch = s.epoch := rfl
@[simp] theorem State.tick_next (s : State) : (s.tick).next = s.next := rfl
@[simp] theorem State.tick_seq (s : State) : (s.tick).seq = s.seq + 1 := rfl

/-! ## writeN -/

@[simp] theorem State.writeN_mem (s : State) (key n v : Nat) : (s.writeN key n v).mem = memWrite s.mem key (leBytes n v) := rfl
@[simp] theorem State.writeN_watches (s : State) (key n v : Nat) : (s.writeN key n v).watches = s.watches := rfl
@[simp] theorem State.writeN_columns (s : State) (key n v : Nat) : (s.writeN key n v).columns = s.columns := rfl
@[simp] theorem State.writeN_layouts (s : State) (key n v : Nat) : (s.writeN key n v).layouts = s.layouts := rfl
@[simp] theorem State.writeN_cores (s : State) (key n v : Nat) : (s.writeN key n v).cores = s.cores := rfl
@[simp] theorem State.writeN_clusters (s : State) (key n v : Nat) : (s.writeN key n v).clusters = s.clusters := rfl
@[simp] theorem State.writeN_dies (s : State) (key n v : Nat) : (s.writeN key n v).dies = s.dies := rfl
@[simp] theorem State.writeN_ctxs (s : State) (key n v : Nat) : (s.writeN key n v).ctxs = s.ctxs := rfl
@[simp] theorem State.writeN_launches (s : State) (key n v : Nat) : (s.writeN key n v).launches = s.launches := rfl
@[simp] theorem State.writeN_waits (s : State) (key n v : Nat) : (s.writeN key n v).waits = s.waits := rfl
@[simp] theorem State.writeN_hostAcks (s : State) (key n v : Nat) : (s.writeN key n v).hostAcks = s.hostAcks := rfl
@[simp] theorem State.writeN_unmaps (s : State) (key n v : Nat) : (s.writeN key n v).unmaps = s.unmaps := rfl
@[simp] theorem State.writeN_starts (s : State) (key n v : Nat) : (s.writeN key n v).starts = s.starts := rfl
@[simp] theorem State.writeN_runs (s : State) (key n v : Nat) : (s.writeN key n v).runs = s.runs := rfl
@[simp] theorem State.writeN_past (s : State) (key n v : Nat) : (s.writeN key n v).past = s.past := rfl
@[simp] theorem State.writeN_early (s : State) (key n v : Nat) : (s.writeN key n v).early = s.early := rfl
@[simp] theorem State.writeN_ports (s : State) (key n v : Nat) : (s.writeN key n v).ports = s.ports := rfl
@[simp] theorem State.writeN_routes (s : State) (key n v : Nat) : (s.writeN key n v).routes = s.routes := rfl
@[simp] theorem State.writeN_badRoutes (s : State) (key n v : Nat) : (s.writeN key n v).badRoutes = s.badRoutes := rfl
@[simp] theorem State.writeN_notices (s : State) (key n v : Nat) : (s.writeN key n v).notices = s.notices := rfl
@[simp] theorem State.writeN_address (s : State) (key n v : Nat) : (s.writeN key n v).address = s.address := rfl
@[simp] theorem State.writeN_parts (s : State) (key n v : Nat) : (s.writeN key n v).parts = s.parts := rfl
@[simp] theorem State.writeN_enmon (s : State) (key n v : Nat) : (s.writeN key n v).enmon = s.enmon := rfl
@[simp] theorem State.writeN_stackBits (s : State) (key n v : Nat) : (s.writeN key n v).stackBits = s.stackBits := rfl
@[simp] theorem State.writeN_modules (s : State) (key n v : Nat) : (s.writeN key n v).modules = s.modules := rfl
@[simp] theorem State.writeN_linkUp (s : State) (key n v : Nat) : (s.writeN key n v).linkUp = s.linkUp := rfl
@[simp] theorem State.writeN_cur (s : State) (key n v : Nat) : (s.writeN key n v).cur = s.cur := rfl
@[simp] theorem State.writeN_ent (s : State) (key n v : Nat) : (s.writeN key n v).ent = s.ent := rfl
@[simp] theorem State.writeN_lane (s : State) (key n v : Nat) : (s.writeN key n v).lane = s.lane := rfl
@[simp] theorem State.writeN_strand (s : State) (key n v : Nat) : (s.writeN key n v).strand = s.strand := rfl
@[simp] theorem State.writeN_granted (s : State) (key n v : Nat) : (s.writeN key n v).granted = s.granted := rfl
@[simp] theorem State.writeN_agenda (s : State) (key n v : Nat) : (s.writeN key n v).agenda = s.agenda := rfl
@[simp] theorem State.writeN_turn (s : State) (key n v : Nat) : (s.writeN key n v).turn = s.turn := rfl
@[simp] theorem State.writeN_rot (s : State) (key n v : Nat) : (s.writeN key n v).rot = s.rot := rfl
@[simp] theorem State.writeN_free (s : State) (key n v : Nat) : (s.writeN key n v).free = s.free := rfl
@[simp] theorem State.writeN_epoch (s : State) (key n v : Nat) : (s.writeN key n v).epoch = s.epoch := rfl
@[simp] theorem State.writeN_next (s : State) (key n v : Nat) : (s.writeN key n v).next = s.next := rfl
@[simp] theorem State.writeN_seq (s : State) (key n v : Nat) : (s.writeN key n v).seq = s.seq := rfl

/-! ## writeBytes -/

@[simp] theorem State.writeBytes_mem (s : State) (key : Nat) (l : List Byte) : (s.writeBytes key l).mem = memWrite s.mem key l := rfl
@[simp] theorem State.writeBytes_watches (s : State) (key : Nat) (l : List Byte) : (s.writeBytes key l).watches = s.watches := rfl
@[simp] theorem State.writeBytes_columns (s : State) (key : Nat) (l : List Byte) : (s.writeBytes key l).columns = s.columns := rfl
@[simp] theorem State.writeBytes_layouts (s : State) (key : Nat) (l : List Byte) : (s.writeBytes key l).layouts = s.layouts := rfl
@[simp] theorem State.writeBytes_cores (s : State) (key : Nat) (l : List Byte) : (s.writeBytes key l).cores = s.cores := rfl
@[simp] theorem State.writeBytes_clusters (s : State) (key : Nat) (l : List Byte) : (s.writeBytes key l).clusters = s.clusters := rfl
@[simp] theorem State.writeBytes_dies (s : State) (key : Nat) (l : List Byte) : (s.writeBytes key l).dies = s.dies := rfl
@[simp] theorem State.writeBytes_ctxs (s : State) (key : Nat) (l : List Byte) : (s.writeBytes key l).ctxs = s.ctxs := rfl
@[simp] theorem State.writeBytes_launches (s : State) (key : Nat) (l : List Byte) : (s.writeBytes key l).launches = s.launches := rfl
@[simp] theorem State.writeBytes_waits (s : State) (key : Nat) (l : List Byte) : (s.writeBytes key l).waits = s.waits := rfl
@[simp] theorem State.writeBytes_hostAcks (s : State) (key : Nat) (l : List Byte) : (s.writeBytes key l).hostAcks = s.hostAcks := rfl
@[simp] theorem State.writeBytes_unmaps (s : State) (key : Nat) (l : List Byte) : (s.writeBytes key l).unmaps = s.unmaps := rfl
@[simp] theorem State.writeBytes_starts (s : State) (key : Nat) (l : List Byte) : (s.writeBytes key l).starts = s.starts := rfl
@[simp] theorem State.writeBytes_runs (s : State) (key : Nat) (l : List Byte) : (s.writeBytes key l).runs = s.runs := rfl
@[simp] theorem State.writeBytes_past (s : State) (key : Nat) (l : List Byte) : (s.writeBytes key l).past = s.past := rfl
@[simp] theorem State.writeBytes_early (s : State) (key : Nat) (l : List Byte) : (s.writeBytes key l).early = s.early := rfl
@[simp] theorem State.writeBytes_ports (s : State) (key : Nat) (l : List Byte) : (s.writeBytes key l).ports = s.ports := rfl
@[simp] theorem State.writeBytes_routes (s : State) (key : Nat) (l : List Byte) : (s.writeBytes key l).routes = s.routes := rfl
@[simp] theorem State.writeBytes_badRoutes (s : State) (key : Nat) (l : List Byte) : (s.writeBytes key l).badRoutes = s.badRoutes := rfl
@[simp] theorem State.writeBytes_notices (s : State) (key : Nat) (l : List Byte) : (s.writeBytes key l).notices = s.notices := rfl
@[simp] theorem State.writeBytes_address (s : State) (key : Nat) (l : List Byte) : (s.writeBytes key l).address = s.address := rfl
@[simp] theorem State.writeBytes_parts (s : State) (key : Nat) (l : List Byte) : (s.writeBytes key l).parts = s.parts := rfl
@[simp] theorem State.writeBytes_enmon (s : State) (key : Nat) (l : List Byte) : (s.writeBytes key l).enmon = s.enmon := rfl
@[simp] theorem State.writeBytes_stackBits (s : State) (key : Nat) (l : List Byte) : (s.writeBytes key l).stackBits = s.stackBits := rfl
@[simp] theorem State.writeBytes_modules (s : State) (key : Nat) (l : List Byte) : (s.writeBytes key l).modules = s.modules := rfl
@[simp] theorem State.writeBytes_linkUp (s : State) (key : Nat) (l : List Byte) : (s.writeBytes key l).linkUp = s.linkUp := rfl
@[simp] theorem State.writeBytes_cur (s : State) (key : Nat) (l : List Byte) : (s.writeBytes key l).cur = s.cur := rfl
@[simp] theorem State.writeBytes_ent (s : State) (key : Nat) (l : List Byte) : (s.writeBytes key l).ent = s.ent := rfl
@[simp] theorem State.writeBytes_lane (s : State) (key : Nat) (l : List Byte) : (s.writeBytes key l).lane = s.lane := rfl
@[simp] theorem State.writeBytes_strand (s : State) (key : Nat) (l : List Byte) : (s.writeBytes key l).strand = s.strand := rfl
@[simp] theorem State.writeBytes_granted (s : State) (key : Nat) (l : List Byte) : (s.writeBytes key l).granted = s.granted := rfl
@[simp] theorem State.writeBytes_agenda (s : State) (key : Nat) (l : List Byte) : (s.writeBytes key l).agenda = s.agenda := rfl
@[simp] theorem State.writeBytes_turn (s : State) (key : Nat) (l : List Byte) : (s.writeBytes key l).turn = s.turn := rfl
@[simp] theorem State.writeBytes_rot (s : State) (key : Nat) (l : List Byte) : (s.writeBytes key l).rot = s.rot := rfl
@[simp] theorem State.writeBytes_free (s : State) (key : Nat) (l : List Byte) : (s.writeBytes key l).free = s.free := rfl
@[simp] theorem State.writeBytes_epoch (s : State) (key : Nat) (l : List Byte) : (s.writeBytes key l).epoch = s.epoch := rfl
@[simp] theorem State.writeBytes_next (s : State) (key : Nat) (l : List Byte) : (s.writeBytes key l).next = s.next := rfl
@[simp] theorem State.writeBytes_seq (s : State) (key : Nat) (l : List Byte) : (s.writeBytes key l).seq = s.seq := rfl

/-! ## setS -/

@[simp] theorem State.setS_mem (s : State) (n : Reg) (v : Word) : (s.setS n v).mem = s.mem := rfl
@[simp] theorem State.setS_watches (s : State) (n : Reg) (v : Word) : (s.setS n v).watches = Tbl.put s.watches s.cur (s.cw.setS n v) := rfl
@[simp] theorem State.setS_columns (s : State) (n : Reg) (v : Word) : (s.setS n v).columns = s.columns := rfl
@[simp] theorem State.setS_layouts (s : State) (n : Reg) (v : Word) : (s.setS n v).layouts = s.layouts := rfl
@[simp] theorem State.setS_cores (s : State) (n : Reg) (v : Word) : (s.setS n v).cores = s.cores := rfl
@[simp] theorem State.setS_clusters (s : State) (n : Reg) (v : Word) : (s.setS n v).clusters = s.clusters := rfl
@[simp] theorem State.setS_dies (s : State) (n : Reg) (v : Word) : (s.setS n v).dies = s.dies := rfl
@[simp] theorem State.setS_ctxs (s : State) (n : Reg) (v : Word) : (s.setS n v).ctxs = s.ctxs := rfl
@[simp] theorem State.setS_launches (s : State) (n : Reg) (v : Word) : (s.setS n v).launches = s.launches := rfl
@[simp] theorem State.setS_waits (s : State) (n : Reg) (v : Word) : (s.setS n v).waits = s.waits := rfl
@[simp] theorem State.setS_hostAcks (s : State) (n : Reg) (v : Word) : (s.setS n v).hostAcks = s.hostAcks := rfl
@[simp] theorem State.setS_unmaps (s : State) (n : Reg) (v : Word) : (s.setS n v).unmaps = s.unmaps := rfl
@[simp] theorem State.setS_starts (s : State) (n : Reg) (v : Word) : (s.setS n v).starts = s.starts := rfl
@[simp] theorem State.setS_runs (s : State) (n : Reg) (v : Word) : (s.setS n v).runs = s.runs := rfl
@[simp] theorem State.setS_past (s : State) (n : Reg) (v : Word) : (s.setS n v).past = s.past := rfl
@[simp] theorem State.setS_early (s : State) (n : Reg) (v : Word) : (s.setS n v).early = s.early := rfl
@[simp] theorem State.setS_ports (s : State) (n : Reg) (v : Word) : (s.setS n v).ports = s.ports := rfl
@[simp] theorem State.setS_routes (s : State) (n : Reg) (v : Word) : (s.setS n v).routes = s.routes := rfl
@[simp] theorem State.setS_badRoutes (s : State) (n : Reg) (v : Word) : (s.setS n v).badRoutes = s.badRoutes := rfl
@[simp] theorem State.setS_notices (s : State) (n : Reg) (v : Word) : (s.setS n v).notices = s.notices := rfl
@[simp] theorem State.setS_address (s : State) (n : Reg) (v : Word) : (s.setS n v).address = s.address := rfl
@[simp] theorem State.setS_parts (s : State) (n : Reg) (v : Word) : (s.setS n v).parts = s.parts := rfl
@[simp] theorem State.setS_enmon (s : State) (n : Reg) (v : Word) : (s.setS n v).enmon = s.enmon := rfl
@[simp] theorem State.setS_stackBits (s : State) (n : Reg) (v : Word) : (s.setS n v).stackBits = s.stackBits := rfl
@[simp] theorem State.setS_modules (s : State) (n : Reg) (v : Word) : (s.setS n v).modules = s.modules := rfl
@[simp] theorem State.setS_linkUp (s : State) (n : Reg) (v : Word) : (s.setS n v).linkUp = s.linkUp := rfl
@[simp] theorem State.setS_cur (s : State) (n : Reg) (v : Word) : (s.setS n v).cur = s.cur := rfl
@[simp] theorem State.setS_ent (s : State) (n : Reg) (v : Word) : (s.setS n v).ent = s.ent := rfl
@[simp] theorem State.setS_lane (s : State) (n : Reg) (v : Word) : (s.setS n v).lane = s.lane := rfl
@[simp] theorem State.setS_strand (s : State) (n : Reg) (v : Word) : (s.setS n v).strand = s.strand := rfl
@[simp] theorem State.setS_granted (s : State) (n : Reg) (v : Word) : (s.setS n v).granted = s.granted := rfl
@[simp] theorem State.setS_agenda (s : State) (n : Reg) (v : Word) : (s.setS n v).agenda = s.agenda := rfl
@[simp] theorem State.setS_turn (s : State) (n : Reg) (v : Word) : (s.setS n v).turn = s.turn := rfl
@[simp] theorem State.setS_rot (s : State) (n : Reg) (v : Word) : (s.setS n v).rot = s.rot := rfl
@[simp] theorem State.setS_free (s : State) (n : Reg) (v : Word) : (s.setS n v).free = s.free := rfl
@[simp] theorem State.setS_epoch (s : State) (n : Reg) (v : Word) : (s.setS n v).epoch = s.epoch := rfl
@[simp] theorem State.setS_next (s : State) (n : Reg) (v : Word) : (s.setS n v).next = s.next := rfl
@[simp] theorem State.setS_seq (s : State) (n : Reg) (v : Word) : (s.setS n v).seq = s.seq := rfl

/-! ## modFrag -/

@[simp] theorem State.modFrag_mem (s : State) (f : SplitEntry → SplitEntry) : (s.modFrag f).mem = s.mem := rfl
@[simp] theorem State.modFrag_watches (s : State) (f : SplitEntry → SplitEntry) : (s.modFrag f).watches = Tbl.put s.watches s.cur (s.cw.setEntry s.ent (f s.frag)) := rfl
@[simp] theorem State.modFrag_columns (s : State) (f : SplitEntry → SplitEntry) : (s.modFrag f).columns = s.columns := rfl
@[simp] theorem State.modFrag_layouts (s : State) (f : SplitEntry → SplitEntry) : (s.modFrag f).layouts = s.layouts := rfl
@[simp] theorem State.modFrag_cores (s : State) (f : SplitEntry → SplitEntry) : (s.modFrag f).cores = s.cores := rfl
@[simp] theorem State.modFrag_clusters (s : State) (f : SplitEntry → SplitEntry) : (s.modFrag f).clusters = s.clusters := rfl
@[simp] theorem State.modFrag_dies (s : State) (f : SplitEntry → SplitEntry) : (s.modFrag f).dies = s.dies := rfl
@[simp] theorem State.modFrag_ctxs (s : State) (f : SplitEntry → SplitEntry) : (s.modFrag f).ctxs = s.ctxs := rfl
@[simp] theorem State.modFrag_launches (s : State) (f : SplitEntry → SplitEntry) : (s.modFrag f).launches = s.launches := rfl
@[simp] theorem State.modFrag_waits (s : State) (f : SplitEntry → SplitEntry) : (s.modFrag f).waits = s.waits := rfl
@[simp] theorem State.modFrag_hostAcks (s : State) (f : SplitEntry → SplitEntry) : (s.modFrag f).hostAcks = s.hostAcks := rfl
@[simp] theorem State.modFrag_unmaps (s : State) (f : SplitEntry → SplitEntry) : (s.modFrag f).unmaps = s.unmaps := rfl
@[simp] theorem State.modFrag_starts (s : State) (f : SplitEntry → SplitEntry) : (s.modFrag f).starts = s.starts := rfl
@[simp] theorem State.modFrag_runs (s : State) (f : SplitEntry → SplitEntry) : (s.modFrag f).runs = s.runs := rfl
@[simp] theorem State.modFrag_past (s : State) (f : SplitEntry → SplitEntry) : (s.modFrag f).past = s.past := rfl
@[simp] theorem State.modFrag_early (s : State) (f : SplitEntry → SplitEntry) : (s.modFrag f).early = s.early := rfl
@[simp] theorem State.modFrag_ports (s : State) (f : SplitEntry → SplitEntry) : (s.modFrag f).ports = s.ports := rfl
@[simp] theorem State.modFrag_routes (s : State) (f : SplitEntry → SplitEntry) : (s.modFrag f).routes = s.routes := rfl
@[simp] theorem State.modFrag_badRoutes (s : State) (f : SplitEntry → SplitEntry) : (s.modFrag f).badRoutes = s.badRoutes := rfl
@[simp] theorem State.modFrag_notices (s : State) (f : SplitEntry → SplitEntry) : (s.modFrag f).notices = s.notices := rfl
@[simp] theorem State.modFrag_address (s : State) (f : SplitEntry → SplitEntry) : (s.modFrag f).address = s.address := rfl
@[simp] theorem State.modFrag_parts (s : State) (f : SplitEntry → SplitEntry) : (s.modFrag f).parts = s.parts := rfl
@[simp] theorem State.modFrag_enmon (s : State) (f : SplitEntry → SplitEntry) : (s.modFrag f).enmon = s.enmon := rfl
@[simp] theorem State.modFrag_stackBits (s : State) (f : SplitEntry → SplitEntry) : (s.modFrag f).stackBits = s.stackBits := rfl
@[simp] theorem State.modFrag_modules (s : State) (f : SplitEntry → SplitEntry) : (s.modFrag f).modules = s.modules := rfl
@[simp] theorem State.modFrag_linkUp (s : State) (f : SplitEntry → SplitEntry) : (s.modFrag f).linkUp = s.linkUp := rfl
@[simp] theorem State.modFrag_cur (s : State) (f : SplitEntry → SplitEntry) : (s.modFrag f).cur = s.cur := rfl
@[simp] theorem State.modFrag_ent (s : State) (f : SplitEntry → SplitEntry) : (s.modFrag f).ent = s.ent := rfl
@[simp] theorem State.modFrag_lane (s : State) (f : SplitEntry → SplitEntry) : (s.modFrag f).lane = s.lane := rfl
@[simp] theorem State.modFrag_strand (s : State) (f : SplitEntry → SplitEntry) : (s.modFrag f).strand = s.strand := rfl
@[simp] theorem State.modFrag_granted (s : State) (f : SplitEntry → SplitEntry) : (s.modFrag f).granted = s.granted := rfl
@[simp] theorem State.modFrag_agenda (s : State) (f : SplitEntry → SplitEntry) : (s.modFrag f).agenda = s.agenda := rfl
@[simp] theorem State.modFrag_turn (s : State) (f : SplitEntry → SplitEntry) : (s.modFrag f).turn = s.turn := rfl
@[simp] theorem State.modFrag_rot (s : State) (f : SplitEntry → SplitEntry) : (s.modFrag f).rot = s.rot := rfl
@[simp] theorem State.modFrag_free (s : State) (f : SplitEntry → SplitEntry) : (s.modFrag f).free = s.free := rfl
@[simp] theorem State.modFrag_epoch (s : State) (f : SplitEntry → SplitEntry) : (s.modFrag f).epoch = s.epoch := rfl
@[simp] theorem State.modFrag_next (s : State) (f : SplitEntry → SplitEntry) : (s.modFrag f).next = s.next := rfl
@[simp] theorem State.modFrag_seq (s : State) (f : SplitEntry → SplitEntry) : (s.modFrag f).seq = s.seq := rfl

end Sys2Proof.Machine
end

