-- ==== Sys2Proof/Laws/Watch.lean ====
section
/-! SUPPORT. The executing watch: reading a part of it after a change of another, the frame of the register and fragment updates,
and the end of an instruction (`finish`), which moves only the fragment's PC and signature. -/

namespace Sys2Proof.Machine

/-! ## The watch that executes -/

@[simp] theorem State.cw_setW (s : State) (x : Watch) : (s.setW x).cw = x := by
  simp [State.cw, State.watch, State.setW_watches, State.setW_cur]

@[simp] theorem State.cw_modW (s : State) (f : Watch → Watch) : (s.modW f).cw = f s.cw := State.cw_setW _ _

@[simp] theorem State.setW_setW (s : State) (x y : Watch) : (s.setW x).setW y = s.setW y := by
  simp [State.setW, State.putWatch]

@[simp] theorem State.modW_setW (s : State) (x : Watch) (f : Watch → Watch) : (s.setW x).modW f = s.setW (f x) := by
  simp [State.modW]

theorem State.modW_eq (s : State) (f : Watch → Watch) : s.modW f = s.setW (f s.cw) := rfl

@[simp] theorem State.modW_modW (s : State) (f g : Watch → Watch) : (s.modW f).modW g = s.modW (fun w => g (f w)) := by
  simp [State.modW_eq]

/-- Another watch is as before. -/
theorem State.watch_setW_other (s : State) (x : Watch) {n : Nat} (h : n ≠ s.cur) : (s.setW x).watch n = s.watch n := by
  simp [State.watch, Tbl.getD_put_other, h]

theorem State.setS_eq (s : State) (n : Reg) (v : Word) : s.setS n v = s.setW (s.cw.setS n v) := rfl

theorem State.modFrag_eq (s : State) (f : SplitEntry → SplitEntry) :
    s.modFrag f = s.setW (s.cw.setEntry s.ent (f s.frag)) := rfl

@[simp] theorem State.cw_setS (s : State) (n : Reg) (v : Word) : (s.setS n v).cw = s.cw.setS n v := State.cw_setW _ _

/-! ## Fragments -/

theorem Watch.entry_setEntry_same (w : Watch) {e : Nat} (x : SplitEntry) (h : e < 8) : (w.setEntry e x).entry e = x := by
  simp [Watch.entry, Watch.setEntry, h]

theorem Watch.entry_setEntry_other (w : Watch) {e k : Nat} (x : SplitEntry) (h : k ≠ e) : (w.setEntry e x).entry k = w.entry k := by
  unfold Watch.entry Watch.setEntry
  by_cases hk : k < 8 <;> simp [hk, h]

@[simp] theorem Watch.setEntry_s (w : Watch) (e : Nat) (x : SplitEntry) : (w.setEntry e x).s = w.s := rfl
@[simp] theorem Watch.sreg_setEntry (w : Watch) (e : Nat) (x : SplitEntry) (r : Reg) : (w.setEntry e x).sreg r = w.sreg r := rfl
@[simp] theorem Watch.preg_setEntry (w : Watch) (e : Nat) (x : SplitEntry) (p : BitVec 4) : (w.setEntry e x).preg p = w.preg p := rfl
@[simp] theorem Watch.vreg_setEntry (w : Watch) (e : Nat) (x : SplitEntry) (n : Nat) : (w.setEntry e x).vreg n = w.vreg n := rfl

/-! ## Scalar registers -/

@[simp] theorem Watch.setS_split (w : Watch) (n : Reg) (v : Word) : (w.setS n v).split = w.split := by
  unfold Watch.setS
  split <;> rfl

@[simp] theorem Watch.entry_setS (w : Watch) (n : Reg) (v : Word) (e : Nat) : (w.setS n v).entry e = w.entry e := by
  simp [Watch.entry]

/-- A write of S[n] is read back, but for S0 (01 R14). -/
theorem Watch.sreg_setS_same (w : Watch) (n : Reg) (v : Word) : (w.setS n v).sreg n = if n = 0 then 0 else v := by
  unfold Watch.setS Watch.sreg
  split
  · rfl
  · simp

theorem Watch.sreg_setS_other (w : Watch) {n r : Reg} (v : Word) (h : r ≠ n) : (w.setS n v).sreg r = w.sreg r := by
  unfold Watch.setS Watch.sreg
  by_cases h0 : n = 0
  · simp [h0]
  · have : n.toNat ≠ r.toNat := fun e => h (BitVec.eq_of_toNat_eq e.symm)
    split
    · rfl
    · simp [this]

/-- Writing S[n] touches the S registers only. -/
theorem Watch.setS_frame (w : Watch) (n : Reg) (v : Word) : w.setS n v = { w with s := (w.setS n v).s } := by
  unfold Watch.setS
  split <;> rfl

/-- A change of a fragment touches the split table only. -/
theorem Watch.setEntry_frame (w : Watch) (e : Nat) (x : SplitEntry) : w.setEntry e x = { w with split := (w.setEntry e x).split } :=
  rfl

/-! ## The end of an instruction -/

theorem State.finish_eq (i : Instr) (s : State) :
    s.finish i = s.setW (s.cw.setEntry s.ent { s.frag with
      sig := foldSig s.frag.sig (opcodeWord i), pc := s.frag.pc + BitVec.ofNat 42 (byteLen i) }) := rfl

theorem State.finishNoFold_eq (i : Instr) (s : State) :
    s.finishNoFold i = s.setW (s.cw.setEntry s.ent { s.frag with pc := s.frag.pc + BitVec.ofNat 42 (byteLen i) }) := rfl

/-- What an instruction that changes the executing watch to `x` and ends leaves: only the watch differs. -/
theorem State.finish_setW (i : Instr) (s : State) (x : Watch) :
    (s.setW x).finish i = s.setW (x.setEntry s.ent { x.entry s.ent with
      sig := foldSig (x.entry s.ent).sig (opcodeWord i), pc := (x.entry s.ent).pc + BitVec.ofNat 42 (byteLen i) }) := by
  simp [State.finish_eq, State.frag]

/-! ## The vocabulary of the statements -/

theorem OnlyWatch.bytes {s t : State} {x : Watch} (h : OnlyWatch s t x) : SameBytes s t := by
  subst h
  exact fun _ => rfl

theorem OnlyWatch.cw {s t : State} {x : Watch} (h : OnlyWatch s t x) : t.cw = x := by
  subst h
  simp

theorem completes_next {i : Instr} {s t : State} {P : State → Prop} (h : exec i s = .next t) (p : P t) : Completes i s P := ⟨t, h, p⟩

theorem Goes.next (t : State) : Goes (.next t) := ⟨t, rfl⟩

/-! ## Advancing -/

theorem lenWords_pos (w : W32) : 1 ≤ lenWords w ∧ lenWords w ≤ 3 := by
  unfold lenWords
  split <;> simp

/-- The encoding of a control instruction: its word 0, and as many further words as its length says. -/
theorem encode_control {i : Instr} (h : (encodeControl i).isSome) :
    ∃ ws, encode i = some (opcodeWord i :: ws) ∧ 4 * (ws.length + 1) = byteLen i := by
  obtain ⟨w, hw⟩ := Option.isSome_iff_exists.mp h
  have e : encode i = some ([packFields w.f, w.w1, w.w2].take (lenWords (packFields w.f))) := by simp [encode, hw]
  have o : opcodeWord i = packFields w.f := by simp [opcodeWord, hw]
  obtain ⟨p, q⟩ := lenWords_pos (packFields w.f)
  obtain ⟨n, hn⟩ : ∃ n, lenWords (packFields w.f) = n + 1 := ⟨_, (Nat.sub_add_cancel p).symm⟩
  refine ⟨[w.w1, w.w2].take n, ?_, ?_⟩
  · rw [e, o, hn]
    rfl
  · rw [byteLen, o, hn, List.length_take]
    simp only [List.length_cons, List.length_nil]
    omega

theorem valid_lt {w : Watch} {e : Nat} (h : (w.entry e).valid = true) : e < 8 := by
  by_contra hn
  simp [Watch.entry, hn] at h

/-- The end of a control instruction advances the executing fragment. -/
theorem advances_finish {i : Instr} {x : Watch} {e : Nat} (h : (encodeControl i).isSome) (he : e < 8) :
    Advances i x (x.setEntry e { x.entry e with
      sig := foldSig (x.entry e).sig (opcodeWord i), pc := (x.entry e).pc + BitVec.ofNat 42 (byteLen i) }) e := by
  obtain ⟨ws, h1, h2⟩ := encode_control h
  refine ⟨_, ws, h1, fun k hk => Watch.entry_setEntry_other _ _ hk, ?_⟩
  rw [Watch.entry_setEntry_same _ _ he, h2]

/-- An instruction that changes parts of the watch other than its fragments, and ends, advances. -/
theorem advances_of {i : Instr} {x y : Watch} {e : Nat} (h : (encodeControl i).isSome) (he : e < 8) (hs : y.split = x.split) :
    Advances i x (y.setEntry e { y.entry e with
      sig := foldSig (y.entry e).sig (opcodeWord i), pc := (y.entry e).pc + BitVec.ofNat 42 (byteLen i) }) e := by
  have g : ∀ k, y.entry k = x.entry k := fun k => by simp [Watch.entry, hs]
  obtain ⟨ws, h1, h2⟩ := encode_control h
  refine ⟨_, ws, h1, fun k hk => (Watch.entry_setEntry_other _ _ hk).trans (g k), ?_⟩
  rw [Watch.entry_setEntry_same _ _ he, h2, g]

/-- What `writeS` does, in the words of the statements. -/
theorem writesScalar {i : Instr} {s : State} {d : Reg} {v : Word} (h : exec i s = s.writeS i d v) (hc : (encodeControl i).isSome)
    (he : s.ent < 8) : WritesScalar i s d v := by
  refine ⟨_, ?_, ?_, ?_, ?_, advances_of (y := s.cw.setS d v) hc he (Watch.setS_split _ _ _)⟩
  · rw [h, State.writeS, State.setS_eq, State.finish_setW]
  · rw [SameButSregs, Watch.setEntry_frame, Watch.setS_frame]
  · rw [Watch.sreg_setEntry, Watch.sreg_setS_same]
  · intro r hr
    rw [Watch.sreg_setEntry, Watch.sreg_setS_other _ _ hr]
    rfl

theorem onlyAdvances {i : Instr} {s : State} (h : exec i s = .next (s.finish i)) (hc : (encodeControl i).isSome) (he : s.ent < 8) :
    OnlyAdvances i s :=
  ⟨_, by rw [h, State.finish_eq]; rfl, rfl, advances_finish hc he⟩

end Sys2Proof.Machine
end

