-- ==== Sys2Proof/Tests/Slice0.lean ====
section
/-! SUPPORT. Tests: ill-formed terms that WellFormed refuses, words of the spec's encodings that decode to their instructions, states that meet
the hypotheses of each obligation, and single steps whose results are worked out by hand from the rules. -/

set_option maxRecDepth 100000
set_option Elab.async false

open Sys2Proof Sys2Proof.Machine

namespace Sys2Proof.Tests

/-- A device with one context of core 0's four columns and one watch of 16 lanes on core 0, about to execute (log 3). -/
def bench : State := { State.reset.withFetchWord 96 0 with cur := 1, ent := 0 }

/-- The bench with its watch changed. -/
def benchW (f : Watch → Watch) : State := bench.setW (f bench.cw)

/-- The bench with S registers set. -/
def benchS (l : List (Reg × Word)) : State := benchW fun w => l.foldl (fun w x => w.setS x.1 x.2) w

/-- What an instruction's own step answers, as a state (the bench where it stops). -/
def after (i : Instr) (s : State) : State :=
  match exec i s with
  | .next t => t
  | _ => bench

/-- A row whose lanes all hold one value. -/
def row (v : W32) : Row := Vector.replicate 64 v

/-- Words of the context's memory at an offset of its first 16 MiB, which the bench's page table maps (log 3). -/
def coded (o : Nat) (l : List W32) (s : State) : State :=
  s.writeN (memKey .slice 0 0 (64 * 2 ^ 18 + o)) (4 * l.length) (l.foldr (fun w n => w.toNat + 2 ^ 32 * n) 0)

/-- WellFormed refuses a term for each of its checks (02 R41 to R54). -/
theorem wellFormed_refuses_control :
    (Instr.callv 41).wellFormed = false ∧ (Instr.vget 1 2 3 true).wellFormed = false ∧ (Instr.vput 1 2 3 true).wellFormed = false ∧
    (Instr.vputAll 1 3 true).wellFormed = false ∧ (Instr.sld 3 1 4).wellFormed = false ∧ (Instr.sld64 3 1 4 0).wellFormed = false ∧
    (Instr.satom 1 2 3 .add 4 false .rlx .wch).wellFormed = false ∧ (Instr.satom 1 2 3 .load 0 false .rlx .wch).wellFormed = false ∧
    (Instr.xatom 1 2 3 .add 4 false .rlx .wch).wellFormed = false ∧ (Instr.xatom 1 2 3 .load 0 false .rlx .wch).wellFormed = false ∧
    (Instr.fence .rlx .wch).wellFormed = false ∧ (Instr.bar 1 .wch).wellFormed = false ∧ (Instr.barSwap 1 .wch).wellFormed = false ∧
    (Instr.shape 1 ⟨3, 0, 2, 2, 0, 0⟩).wellFormed = false ∧ (Instr.shape 1 ⟨0, 3, 2, 2, 0, 0⟩).wellFormed = false ∧
    (Instr.shape 1 ⟨0, 0, 0, 2, 0, 0⟩).wellFormed = false ∧ (Instr.shape 1 ⟨0, 0, 2, 7, 0, 0⟩).wellFormed = false ∧
    (Instr.pput 1 0).wellFormed = false ∧ (Instr.waitp 1 10).wellFormed = false ∧ (Instr.pairBegin 0).wellFormed = false ∧
    (Instr.pairBegin 65).wellFormed = false := by decide

theorem wellFormed_refuses_engines_and_chunks :
    (Instr.wload false 1 2 0 0 false .wch).wellFormed = false ∧ (Instr.wload false 1 2 0 2049 false .wch).wellFormed = false ∧
    (Instr.wload false 1 2 0 1 true .wch).wellFormed = false ∧ (Instr.tcopy 1 2 true .wch).wellFormed = false ∧
    (Instr.auct 1 2 true .wch).wellFormed = false ∧ (Instr.solic 0 1 2 3 0 true .wch).wellFormed = false ∧
    (Instr.collAllred 0 3 1 0 .wch).wellFormed = false ∧ (Instr.collReduce 1 0 1 0 .wch).wellFormed = false ∧
    (Instr.collBcast 0 3 1 0 .wch).wellFormed = false ∧ (Instr.collGather 1 0 1 0 .wch).wellFormed = false ∧
    (Instr.collRscat 0 3 1 0 .wch).wellFormed = false ∧ (Instr.collRot 1 0 1 0 .wch).wellFormed = false ∧
    (Instr.collProg 0 3 1 0 .wch).wellFormed = false ∧ (Instr.sysw 1 0x010).wellFormed = false ∧ (Instr.sysw 1 0x008).wellFormed = false ∧
    (Instr.sysw 1 0x012).wellFormed = false ∧ (Instr.sysw 1 0x013).wellFormed = false ∧ (Instr.sysw 1 0x014).wellFormed = false ∧
    (Instr.chunkSend 0 3 0 0 1).wellFormed = false ∧ (Instr.chunkSend 0 0 0 0 0).wellFormed = false ∧
    (Instr.chunkRecv 0 3 0 0 1).wellFormed = false ∧ (Instr.chunkRecv 0 0 0 0 0).wellFormed = false ∧
    (Instr.chunkRred 0 2 0 0 0 1).wellFormed = false ∧ (Instr.chunkRred 0 0 3 0 0 1).wellFormed = false ∧
    (Instr.chunkRred 0 0 0 0 0 0).wellFormed = true ∧ (Instr.chunkCopy 0 0 0 0).wellFormed = true ∧
    (Instr.chunkWait 0 64).wellFormed = false ∧ (Instr.chunkSig 0 64).wellFormed = false ∧ (Instr.chunkLoop 0).wellFormed = false ∧
    (Instr.chunkMcast 0 3 0 1).wellFormed = false ∧ (Instr.chunkMcast 0 0 0 0).wellFormed = true := by decide

/-- A lane instruction of zeros but for its modifiers and its literal. -/
def laneZ (md : BitVec 5) (lit : W32) : LaneOps := ⟨0, false, 0, false, 0, 0, 0, false, 0, md, lit⟩

theorem wellFormed_refuses_lane_rows :
    (Instr.fatom (laneZ 1 0)).wellFormed = false ∧ (Instr.fatom (laneZ 2 0)).wellFormed = false ∧ (Instr.fatomMore (laneZ 0 0)).wellFormed = false ∧
    (Instr.fatomSkip (laneZ 1 0)).wellFormed = false ∧ (Instr.tmovTv (laneZ 1 0)).wellFormed = false ∧ (Instr.tmovVt (laneZ 0 0)).wellFormed = false ∧
    (Instr.tscl (laneZ 0 1)).wellFormed = false ∧ (Instr.tscl (laneZ 0 2)).wellFormed = false ∧ (Instr.tsclPend (laneZ 0 0)).wellFormed = false ∧
    (Instr.tsclDivl (laneZ 0 1)).wellFormed = false := by decide

/-! ## Witnesses of the hypotheses: the scalar instructions -/

theorem witness_IntegerGroupWritesItsResult :
    (bench.frag.valid = true ∧ Spec.alu bench.sreg (.add 3 4 5) = some (3, 0)) ∧
    (let s := benchS [(4, 7)]; s.frag.valid = true ∧ s.sreg 5 = 0) ∧
    (let s := benchS [(4, 0x8000000000000000), (5, 0xFFFFFFFFFFFFFFFF)]
     s.frag.valid = true ∧ s.sreg 4 = 0x8000000000000000 ∧ s.sreg 5 = 0xFFFFFFFFFFFFFFFF) ∧
    (1 : Reg) ≠ 0 := by decide +kernel

theorem witness_ImmediateFormsWriteTheirResult :
    bench.frag.valid = true ∧ Spec.imm bench.sreg (.addi 3 4 0xFFF) = some (3, 0xFFFFFFFFFFFFFFFF) := by decide +kernel

theorem witness_AddressInstructionsWriteTheirResult :
    bench.frag.valid = true ∧ Spec.address bench.sreg (.addr 3 4 5 15) = some (3, 0xF0000000000000) ∧ 3 ≤ (3 : Reg).toNat := by decide +kernel

theorem witness_BranchesAndCallsGoToTheirTargets :
    (let s := benchS [(4, 0x3FFFFFFFFFC)]; s.frag.valid = true ∧ (s.sreg 4).toNat % 4 = 0) := by decide +kernel

theorem witness_ControlTrapsAreRaised :
    ((benchS [(4, 1)]).sreg 4).toNat % 4 ≠ 0 ∧ ((benchS [(4, 3)]).sreg 4).toNat % 4 ≠ 0 ∧
    ((0x006 : I12) ≠ 0x030 ∧ bench.sysValue (0x006 : I12).toNat = none) ∧ ((0xFFF : I12) ≠ 0x030 ∧ bench.sysValue (0xFFF : I12).toNat = none) ∧
    64 < ((benchS [(4, 65)]).sreg 4).toNat % 128 ∧ bench.cw.inh = false := by decide +kernel

/-- The bench with P1 true in lane 0 only, and the fragment's serial levels. -/
def benchSplit (levels : List Level) (full : Bool) : State :=
  benchW fun w => { (w.setEntry 0 { w.entry 0 with levels := levels }) with
    p := w.p.set 1 1
    split := (w.setEntry 0 { w.entry 0 with levels := levels }).split.mapIdx fun i f => if full ∧ 0 < i then { f with valid := true } else f }

theorem witness_FragmentsSplit :
    (bench.frag.valid = true ∧ bench.frag.mask &&& bench.cw.preg 1 = 0) ∧
    (bench.frag.mask &&& bench.cw.preg 0 ≠ 0 ∧ bench.frag.mask &&& ~~~bench.cw.preg 0 = 0) ∧
    (let s := benchSplit [] false
     s.frag.valid = true ∧ s.frag.mask &&& s.cw.preg 1 ≠ 0 ∧ s.frag.mask &&& ~~~s.cw.preg 1 ≠ 0 ∧
       s.cw.freeEntries = 1 :: 2 :: [3, 4, 5, 6, 7]) ∧
    (let s := benchSplit (List.replicate 15 {}) true
     s.frag.valid = true ∧ s.frag.mask &&& s.cw.preg 1 ≠ 0 ∧ s.frag.mask &&& ~~~s.cw.preg 1 ≠ 0 ∧ s.cw.freeEntries.length < 2 ∧
       s.frag.levels.length < 16) ∧
    (let s := benchSplit (List.replicate 16 {}) true
     s.frag.valid = true ∧ s.frag.mask &&& s.cw.preg 1 ≠ 0 ∧ s.frag.mask &&& ~~~s.cw.preg 1 ≠ 0 ∧ s.cw.freeEntries.length < 2 ∧
       16 ≤ s.frag.levels.length) := by decide +kernel

/-- The bench with 32 registers, V30 holding 16 in every lane, V31 zero, and a callable header before offset 16. -/
def benchCall : State := coded 8 [0xF5, 0xF4C10020] (benchW fun w => { w with allot := 32, v := [(30, row 16)] })

theorem witness_FragmentsSplit_callv :
    (benchCall.frag.valid = true ∧ benchCall.cw.allot ≤ (31 : Sel).toNat + 1) ∧
    ((30 : Sel).toNat + 1 < benchCall.cw.allot ∧ benchCall.frag.levels = [] ∧ benchCall.frag.mask ≠ 0 ∧
      (∀ l, l < 64 → benchCall.frag.mask.getLsbD l = true →
        (rowAt (benchCall.cw.vreg ((30 : Sel).toNat + 1)) l ++ rowAt (benchCall.cw.vreg (30 : Sel).toNat) l).extractLsb' 0 42 = (16 : Off)) ∧
      benchCall.checkCall 16 = none) := by decide +kernel

/-- The bench as the fragment of an open join: entry 1 a child of entry 0, entry 2 another, each with its mask. -/
def benchJoin (m0 m1 m2 : Mask) (w2 : Bool) : State :=
  { benchW fun w => ((w.setEntry 0 { w.entry 0 with mask := m0, wait := true, reconv := 0 }).setEntry 1
      { mask := m1, valid := true, parent := 0 }).setEntry 2 { mask := m2, valid := true, parent := 0, wait := w2 } with ent := 1 }

theorem witness_FuseClosesTheInnermostJoin :
    (let s := benchSplit [{ x := 4 }] false; s.frag.valid = true ∧ s.frag.levels = [{ x := 4 }] ∧ (4 : Off) ≠ s.frag.pc) ∧
    (let s := benchSplit [{ pend := 1 }] false
     s.frag.valid = true ∧ s.frag.levels = [{ pend := 1 }] ∧ (0 : Off) = s.frag.pc ∧ (1 : Mask) ≠ 0) ∧
    (let s := benchSplit [{}] false; s.frag.valid = true ∧ s.frag.levels = [{}] ∧ (0 : Off) = s.frag.pc) ∧
    (let s := benchSplit [{ pend := 1, phase := true }] false; s.frag.valid = true ∧ s.frag.levels = [{ pend := 1, phase := true }]) ∧
    (bench.frag.levels = [] ∧ bench.frag.root = true) ∧
    (let s := benchJoin 3 1 2 false
     let w := s.cw.setEntry s.ent { s.frag with wait := true, sig := Spec.fused }
     s.frag.valid = true ∧ s.frag.levels = [] ∧ s.frag.root = false ∧ (s.cw.entry s.frag.parent.toNat).wait = true ∧
       (s.cw.entry s.frag.parent.toNat).reconv = s.frag.pc ∧ ∃ k ∈ w.children s.frag.parent.toNat, w.arrived k = false) ∧
    (let s := benchJoin 3 1 2 true
     let w := s.cw.setEntry s.ent { s.frag with wait := true, sig := Spec.fused }
     s.frag.valid = true ∧ w.children 0 ≠ [] ∧ (∀ k ∈ w.children 0, w.arrived k = true) ∧
       (w.children 0).foldl (fun m k => m ||| (w.entry k).mask) 0 = (w.entry 0).mask) ∧
    (let s := benchJoin 7 1 2 true
     let w := s.cw.setEntry s.ent { s.frag with wait := true, sig := Spec.fused }
     (∀ k ∈ w.children 0, w.arrived k = true) ∧ (w.children 0).foldl (fun m k => m ||| (w.entry k).mask) 0 ≠ (w.entry 0).mask) := by
  decide +kernel

/-- The bench with a scratchpad of 64 KiB and an exchange window of 16 KiB in column 0. -/
def benchP : State := bench.modLayout 1 0 fun _ => { scratch := 65536, xwin := 1, init := true }

/-- Its watch changed, and S registers set. -/
def benchPW (f : Watch → Watch) : State := benchP.setW (f benchP.cw)
def benchPS (l : List (Reg × Word)) : State := benchPW fun w => l.foldl (fun w x => w.setS x.1 x.2) w

/-- A byte of the own column's plain region, as an address. -/
def plain (o : Word) : Word := 0x1FFC0000000000 + o

/-- The access that a check and a translation answer, and a list that holds it. -/
def okAcc (p : Prep) : Acc :=
  match p with
  | .ok a => a
  | _ => {}
def okKey {ε : Type} (x : Except ε Nat) : Nat :=
  match x with
  | .ok a => a
  | _ => 0

/-! ## Witnesses: control accesses, LX, lane values, SHAPE, streams, system registers -/

theorem witness_ControlLoadsAndStoresAreIssued :
    (bench.frag.valid = true ∧ (4 : B3) = 4 ∧ (3 : Reg).toNat % 2 = 1) ∧
    ((4 : B3) = 4 ∧ (62 : Reg).toNat % 2 = 0 ∧
      bench.prep bench.cw.home (Spec.loadReq 16) 0 = .ok (okAcc (bench.prep bench.cw.home (Spec.loadReq 16) 0)) ∧
      bench.cw.pathCount (Spec.loadPath 0) < 65535) ∧
    (let s := benchPS [(4, plain 65535)]
     let p := s.prep s.cw.home (Spec.loadReq 1) (Spec.displacedAddr (s.sreg 4) 0)
     s.frag.valid = true ∧ p = .ok (okAcc p) ∧ s.cw.pathCount (Spec.loadPath (s.sreg 4)) < 65535) ∧
    (let s := benchPS [(4, plain 65536)]
     let p := s.prep s.cw.home (Spec.storeReq 8) (Spec.displacedAddr (s.sreg 4) 0xFFFFFFF8)
     s.frag.valid = true ∧ p = .ok (okAcc p) ∧ s.cw.pair = none ∧ s.cw.pathCount 6 < 65535) := by decide +kernel

theorem witness_ControlAtomicsAndFences :
    (bench.frag.valid = true ∧ bench.cw.pair = none ∧ bench.cw.pathCount 8 < 65535 ∧ bench.released .ar .sys = true) ∧
    (let p := bench.prep bench.cw.home (Spec.atomReq 8) (bench.sreg 4); p = .ok (okAcc p)) ∧
    (let s := benchPS [(4, plain 65532)]
     let p := s.prep 0 (Spec.atomReq 4) (s.sreg 4)
     (s.sreg 4).extractLsb' 56 8 = 0 ∧ tagOf (s.sreg 4) ≤ 1 ∧ (s.ctx s.cw.ctx).pcnLive (effCol (s.sreg 4) (s.homeLcn s.cw)) = some 0 ∧ p = .ok (okAcc p)) ∧
    (benchW fun w => { w with ops := [{ kind := .st, paths := [6], seq := 0 }] }).released .rel .dev = false ∧
    bench.cw.pathCount (9 : B4).toNat ≤ (bench.sreg 4).toNat ∧
    (let s := benchW fun w => { w with ops := [{ kind := .ld, paths := [0] }] }
     (s.sreg 4).toNat < s.cw.pathCount (0 : B4).toNat) := by decide +kernel

/-- The bench with a lane block of one IADD, or of a reserved word, at the lane code's first index. -/
def benchLane (w0 w1 : W32) : State := coded 0 [w0, w1, 0] bench

theorem witness_LxQueuesItsBlock :
    (let s := benchW fun w => { w with lq := List.replicate 65 {} }
     s.frag.valid = true ∧ 128 < s.cw.lq.length + (63 : Reg).toNat + 1) ∧
    (let s := benchLane 0x00100802 0x03000003
     let f := s.fetchBlock 0 1
     s.frag.valid = true ∧ (benchW fun w => { w with lq := List.replicate 127 {} }).cw.lq.length + (0 : Reg).toNat + 1 ≤ 128 ∧
     (∃ a ∈ [okAcc f.1], f.1 = .ok a) ∧ f.2 = [(0x00100802, 0x03000003, 0)] ∧ s.cw.ops = [] ∧
     decodeLane 0x00100802 0x03000003 0 = some (.iadd ⟨2, false, 1, false, 3, 0, 0, false, 6, 0, 0⟩)) ∧
    (let s := coded 0 [0x1C100802, 0x03000003, 0] (benchW fun w => { w with ops := [{ kind := .satom, paths := [8], d := 1 }] })
     let f := s.fetchBlock 0 1
     f.1 = .ok (okAcc f.1) ∧ f.2 = [(0x1C100802, 0x03000003, 0)] ∧ (∃ o ∈ s.cw.ops, o.done = false ∧ o.kind = .satom ∧ o.d = 449 - 448) ∧
       ∃ i ∈ decodeLane 0x1C100802 0x03000003 0, (matOps i).a = 449) ∧
    (let s := benchW fun w => { w with laneBase := 0x3FFFFFFE000 }
     s.frag.valid = true ∧ (match s.fetchBlock 0 1 with
       | (.trap _, _) => true
       | _ => false) = true) := by decide +kernel

theorem witness_LaneValuesMoveBetweenStreams :
    (let s := benchW fun w => { w with allot := 32 }
     s.frag.valid = true ∧ s.cw.allot ≤ (if true then (31 : Sel).toNat + 1 else (31 : Sel).toNat) ∧ (31 : Sel).toNat < s.cw.allot) ∧
    (let s := benchS [(4, 16), (5, 15)]
     s.cw.width ≤ (s.sreg 4).toNat ∧ (s.sreg 5).toNat < s.cw.width ∧ s.frag.mask.getLsbD (s.sreg 5).toNat = true) ∧
    (let s := benchJoin 3 1 2 false; s.cw.width > (s.sreg 4).toNat ∧ { s with ent := 2 }.frag.mask.getLsbD (s.sreg 4).toNat = false) ∧
    (bench.frag.valid = true ∧ bench.cw.width ≤ 64 ∧ (15 : B4) ≠ 0) := by decide +kernel

theorem witness_ShapeGrantsTheTable :
    bench.frag.valid = true ∧ (Instr.shape 3 ⟨2, 2, 5, 5, 1, 0⟩).wellFormed = true ∧ Spec.kGrant 5 5 2 = some 2 ∧ Spec.kGrant 5 5 0 = some 1 ∧
    (Instr.shape 3 ⟨0, 0, 1, 2, 0, 0⟩).wellFormed = true ∧ Spec.kGrant 1 2 0 = none ∧ Spec.kGrant 1 1 2 = some 1 := by decide +kernel

/-- The bench with queue 2 in a state, and a stream descriptor at offset 32. -/
def benchQ (st : QState) (d : List W32) (allot : Nat) : State :=
  coded 32 d ((benchW fun w => { (w.setS 4 32) with allot := allot, q := w.q.set 2 { st := st } }))

/-- A stream descriptor of one element at offset 4096, with the fields of its last word from bit 16 on (08 R237). -/
def streamDesc (x : W32) : List W32 := [0x1000, 0xFFC00, 0, 0, 0, 0, 0x10001, 1 + x <<< 16]

theorem witness_StreamQueuesChangeState :
    ((benchW fun w => { w with pair := some {} }).cw.pair ≠ none) ∧
    (let s := benchW fun w => { w with lq := [{ instr := .iadd ⟨2, false, 394, false, 3, 0, 0, false, 6, 0, 0⟩ }] }
     s.cw.pair = none ∧ (∃ e ∈ s.cw.lq, e.popsAny [(2 : B3).toNat] = true) ∧ ∃ e ∈ s.cw.lq, e.popsAny (maskQueues 4) = true) ∧
    (let s := benchQ .running [] 32; s.cw.pair = none ∧ (∀ e ∈ s.cw.lq, e.popsAny [(2 : B3).toNat] = false) ∧ (s.cw.queue 2).st = .running) ∧
    (let s := benchQ .empty [0, 0, 0, 0, 0, 0, 0, 0] 32
     let p := s.prep s.cw.home { size := 32, align := 32, tags := [0, 1] } (s.sreg 4)
     (s.cw.queue 2).st ≠ .running ∧ p = .ok (okAcc p) ∧ sdBad (wordsOf 4 (s.readCtl (okAcc p) 32)) = true ∧
       s.bytesHeld (s.keyNow s.cw.ctx (okAcc p)) 32 = false) ∧
    (let s := (benchQ .empty [0, 0, 0, 0, 0, 0, 0, 0] 32)
     let p := s.prep s.cw.home { size := 32, align := 32, tags := [0, 1] } (s.sreg 4)
     let s := s.setW { s.cw with ops := [{ kind := .satom, paths := [8], accs := [{ okAcc p with size := 8 }] }] }
     (s.cw.queue 2).st ≠ .running ∧ s.prep s.cw.home { size := 32, align := 32, tags := [0, 1] } (s.sreg 4) = .ok (okAcc p) ∧
       s.bytesHeld (s.keyNow s.cw.ctx (okAcc p)) 32 = true) ∧
    (let s := benchQ .ended (streamDesc 0x20A) 32
     let d := wordsOf 4 (s.readCtl (okAcc (s.prep s.cw.home { size := 32, align := 32, tags := [0, 1] } (s.sreg 4))) 32)
     sdBad d = false ∧ sdVen d = true ∧ s.cw.allot ≤ sdVbase d) ∧
    (let s := benchQ .ended (streamDesc 0x1FA) 32
     let d := wordsOf 4 (s.readCtl (okAcc (s.prep s.cw.home { size := 32, align := 32, tags := [0, 1] } (s.sreg 4))) 32)
     sdBad d = false ∧ sdVbase d < s.cw.allot ∧ s.cw.vBusy false [(sdVbase d, 1)] = false) ∧
    (let s := benchQ .ended (streamDesc 2) 32
     let d := wordsOf 4 (s.readCtl (okAcc (s.prep s.cw.home { size := 32, align := 32, tags := [0, 1] } (s.sreg 4))) 32)
     sdBad d = false ∧ sdVen d = false) ∧
    (let s := benchQ .defined [] 32
     (∃ k, k < 8 ∧ (1 : Byte).getLsbD k = true ∧ (s.cw.queue k).st = .empty) ∧
       (∀ k, k < 8 → (4 : Byte).getLsbD k = true → (s.cw.queue k).st ≠ .empty)) := by decide +kernel

theorem witness_SystemRegistersAreRead :
    bench.frag.valid = true ∧ (0x029 : I12) ≠ 0x030 ∧ Spec.sysReg bench (0x029 : I12).toNat = some 0 ∧ Spec.sysReg bench (0x02A : I12).toNat = none ∧
    Spec.sysReg bench (0x013 : I12).toNat = some 0xFFFFFFFF := by decide +kernel

theorem witness_SystemRegistersAreWritten :
    bench.frag.valid = true ∧ ((benchS [(4, 64)]).sreg 4).toNat % 128 ≤ 64 ∧ (benchW fun w => { w with inh := true }).cw.inh = true ∧
    ((benchS [(4, 4)]).sreg 4).getLsbD 2 = true ∧ ((benchS [(4, 3)]).sreg 4).getLsbD 2 = false := by decide +kernel

/-! ## Witnesses: traps, RTE, EXIT, crews, barriers, regions, pairs, slots -/

/-- The bench with a context descriptor (12 R347). -/
def benchD (d : BitVec 512) : State := bench.modCtx 1 fun c => { c with desc := d }

theorem witness_TrapEntrySavesTheWatch :
    let s := benchD (4 * 2 ^ 64)
    s.cw.pair = none ∧ s.cw.inh = false ∧ ({ cause := 0x0D } : TrapInfo).cause ≠ 0x19 ∧ (s.ctx s.cw.ctx).wvec ≠ 0 := by decide +kernel

/-- The bench in a handler of the watch rung, with what the watch holds. -/
def benchH (rung : BitVec 3) (ops : List Op) (pc : Nat) : State :=
  let s := benchW fun w => { w with inh := true, held := some { ent := 7 }, ops := ops, rung := rung }
  s.writeN (s.cw.frameKey + 8) 8 pc

theorem witness_RteRestoresTheWatch :
    (let s := benchH 1 [] 0; s.cw.inh = true ∧ s.cw.held = some { ent := 7 } ∧ s.cw.rung ≠ 0) ∧
    (let s := benchH 0 [{}] 0; s.cw.rung = 0 ∧ ∃ o ∈ s.cw.ops, o.done = false) ∧
    (let s := benchH 0 [] 2
     s.cw.rung = 0 ∧ s.cw.lanesIdle = true ∧ (∀ o ∈ s.cw.ops, o.done = true) ∧ s.readN (s.cw.frameKey + 8) 8 % 4 ≠ 0) ∧
    (let s := benchH 0 [] 4
     s.cw.rung = 0 ∧ s.cw.lanesIdle = true ∧ (∀ o ∈ s.cw.ops, o.done = true) ∧ s.readN (s.cw.frameKey + 8) 8 % 4 = 0 ∧ s.cw.fifo = []) := by
  decide +kernel

theorem witness_ExitEndsTheLanes :
    (benchW fun w => { w with pair := some {} }).cw.pair ≠ none ∧
    (bench.frag.valid = true ∧ bench.cw.pair = none ∧ bench.frag.levels = [] ∧ bench.frag.root = true ∧
      ∀ k, k < 8 → k ≠ bench.ent → (bench.cw.entry k).valid = false) ∧
    (let s := benchJoin 3 1 2 false
     let p := s.frag.parent.toNat
     s.frag.valid = true ∧ s.cw.pair = none ∧ s.frag.levels = [] ∧ s.frag.root = false ∧ p ≠ s.ent ∧ (s.cw.entry p).wait = true ∧
       (s.cw.entry p).mask &&& ~~~s.frag.mask ≠ 0 ∧ ∃ k, k < 8 ∧ k ≠ s.ent ∧ k ≠ p ∧ (s.cw.entry k).valid = true ∧ (s.cw.entry k).root = false ∧
         (s.cw.entry k).parent.toNat = p ∧ (s.cw.entry k).wait = false) ∧
    (let s := benchSplit [{ pend := 0x10000 }] false
     s.cw.pair = none ∧ s.frag.levels = [{ pend := 0x10000 }] ∧ (0x10000 : Mask) &&& ~~~s.frag.mask ≠ 0) := by decide +kernel

/-- The bench with a crew. -/
def benchCrew (n : Nat) (x : Crew) (l : List (Reg × Word)) : State := (benchS l).setCrew 1 n x

/-- The bench's watch as a member of a crew. -/
def mine (a : Bool) : Member := { w := 1, arrived := a }

theorem witness_CrewsChangeMembers :
    ((Tbl.find bench.ctxs bench.cw.ctx).isSome ∧ 256 ≤ ((benchS [(4, 256)]).sreg 4).toNat ∧ ((benchS [(4, 255)]).sreg 4).toNat < 256) ∧
    (bench.crew 1 0 = none ∧ bench.crewCount 1 bench.cur < 8) ∧
    (let s := benchCrew 0 { members := [mine false], cols := [0] } []
     s.crew 1 0 = some { members := [mine false], cols := [0] } ∧ (Crew.has { members := [mine false], cols := [0] } s.cur) = true ∧
       ([0] : List Nat)[0]? = some (s.homeLcn s.cw) ∧ s.cw.pathCount 7 = 0 ∧ ∀ m ∈ [mine false], m.w = s.cur) ∧
    (let s := benchCrew 0 { members := [{ w := 2 }], cols := [5] } []
     s.crew 1 0 = some { members := [{ w := 2 }], cols := [5] } ∧ (Crew.has { members := [{ w := 2 }] } s.cur) = false ∧ s.homeLcn s.cw ∉ [5]) ∧
    (let s := (List.range 8).foldl (fun s k => s.setCrew 1 (k + 1) { members := [mine false] }) (benchCrew 0 { members := [{ w := 2 }] } [])
     8 ≤ s.crewCount 1 s.cur) ∧
    (∃ m ∈ [mine true, { w := 2 }], m.w ≠ bench.cur ∧ m.arrived = false) ∧
    (benchW fun w => { w with ops := [{ kind := .xst, paths := [7] }] }).cw.pathCount 7 ≠ 0 := by decide +kernel

theorem witness_BarArrivesOnceAndWaits :
    (bench.frag.bar = none ∧ bench.isMember 0 = false) ∧
    (let s := benchCrew 0 { members := [mine true] } []; s.frag.bar = none ∧ s.isMember 0 = true ∧ s.hasArrived 0 = true) ∧
    (let s := benchCrew 255 { members := [mine false] } [(4, 255)]
     s.isMember (s.sreg 4).toNat = true ∧ s.hasArrived 255 = false ∧ s.released .ar .crew = true) ∧
    (let s := (benchW fun w => { w with ops := [{ kind := .st, paths := [6], seq := 0 }] }).setCrew 1 0 { members := [mine false] }
     s.isMember 0 = true ∧ s.hasArrived 0 = false ∧ s.released .ar .crew = false) ∧
    (let f := fun r => (benchW fun w => w.setEntry 0 { w.entry 0 with bar := some { released := r } }).frag.bar
     f false = some { released := false } ∧ f true = some { released := true }) := by decide +kernel

/-- A barrier object in the scratchpad at offset 16, named by S20, with the count in S21. -/
def benchObj (pending expected phase mark : Nat) (count : Word) : State :=
  (benchPS [(20, plain 16), (21, count)]).writeN (memKey .plain 1 0 16) 16 (Spec.object pending expected phase 0 mark)

/-- The hypotheses of the barrier object statement at an object. -/
def isObj (s : State) (p e n mk : Nat) : Bool :=
  s.frag.valid && decide (s.cw.pair = none) && decide (okKey (s.objectAt s.cw (s.sreg 20)) = memKey .plain 1 0 16) && s.released .ar .core &&
    !s.objectHeld (memKey .plain 1 0 16) && decide (p < 2 ^ 32 ∧ e < 2 ^ 32 ∧ n < 2 ^ 32 ∧ mk < 2 ^ 16) &&
    decide (s.readN (memKey .plain 1 0 16) 16 = Spec.object p e n 0 mk)

theorem witness_BarrierObjectsStep :
    (isObj (benchObj 1 2 0xFFFFFFFF 0xAB01 0x7FFFFFFF) 1 2 0xFFFFFFFF 0xAB01 = true ∧ ¬((0x7FFFFFFF : Word).toNat = 0 ∨ 2 ^ 31 ≤ (0x7FFFFFFF : Word).toNat)) ∧
    (isObj (benchObj 0 0 0 0 0) 0 0 0 0 = true ∧ (0 : Nat) ≠ 0xAB01 ∧ (0 : Word).toNat = 0) ∧
    (isObj (benchObj 0 1 0 0xAB01 0x80000000) 0 1 0 0xAB01 = true ∧ 2 ^ 31 ≤ (0x80000000 : Word).toNat) ∧
    (isObj (benchObj 0 1 0 0xAB01 1) 0 1 0 0xAB01 = true ∧ 0 < (1 : Word).toNat) ∧
    (isObj (benchObj 2 2 0 0xAB01 1) 2 2 0 0xAB01 = true ∧ (1 : Word).toNat < 2) ∧
    (isObj (benchObj 2 2 2 0xAB01 2) 2 2 2 0xAB01 = true ∧ (2 : Word).toNat = 2 ∧ 2 + 2 < 2 ^ 31 ∧ 2 = (2 : Word).toNat % 2 ^ 32) ∧
    (isObj (benchObj 0x7FFFFFFF 1 1 0xAB01 1) 0x7FFFFFFF 1 1 0xAB01 = true ∧ 2 ^ 31 ≤ 0x7FFFFFFF + (1 : Word).toNat) ∧
    (isObj (benchObj 1 1 3 0xAB01 1) 1 1 3 0xAB01 = true ∧ 3 ≠ (1 : Word).toNat % 2 ^ 32) := by decide +kernel

theorem witness_BarrierObjectsStep_checks :
    (let v : Word := plain 16; v.toNat / 2 ^ 56 = 0 ∧ tagOf v = 1 ∧ benchP.coreColumn benchP.cw v = some 0 ∧ offOf v % 16 = 0) ∧
    (let v : Word := 0x100000000000000; v.toNat / 2 ^ 56 ≠ 0) ∧
    (let v : Word := 0x10000000000000 + 4 * 2 ^ 42; v.toNat / 2 ^ 56 = 0 ∧ tagOf v = 1 ∧ benchP.coreColumn benchP.cw v = none) ∧
    offOf (plain 8) % 16 ≠ 0 ∧ (benchP.layout 1 0).scratch < offOf (plain 65536) + 16 ∧ offOf (plain 65520) + 16 ≤ (benchP.layout 1 0).scratch ∧
    (let s := benchPW fun w => { w with ops := [{ kind := .satom, paths := [8], accs := [{ size := 4, key := memKey .plain 1 0 31 }] }] }
     s.objectHeld (memKey .plain 1 0 16) = true) := by decide +kernel

theorem witness_RegionsAndSignatures :
    (let s := benchW fun w => { w with crgn := List.replicate 4 {} }; s.frag.valid = true ∧ s.cw.pair = none ∧ 4 ≤ s.cw.crgn.length) ∧
    (bench.cw.crgn = [] ∧ bench.divided = false) ∧
    (let s := benchJoin 3 1 2 false; s.divided = true ∧ s.cw.crgn.length < 4) ∧
    (let s := benchW fun w => { w with crgn := List.replicate 3 {} }
     s.divided = false ∧ s.cw.crgn.length < 4 ∧ s.cw.crgn = {} :: List.replicate 2 {} ∧ s.cw.inh = false ∧ ({ cause := 0x19 } : TrapInfo).cause = 0x19 ∧
       (s.settleMatrix s.cur).cw.crgn = {} :: List.replicate 2 {}) ∧
    bench.frag.sig = 0xFFFFFFFF ∧ bench.frag.sig ≠ 0 := by decide +kernel

/-- The bench as the leader (watch 1) of a pair with a trailer (watch 2) on core 1. -/
def benchPair (p q : Pair) : State :=
  let s := benchW fun w => { w with pair := some { p with placed := true, partner := 2 } }
  { s with watches := Tbl.put s.watches 2 { bench.cw with core := 1, kind := .trailer, pair := some { q with leads := false, partner := 1 } }, next := 3 }

/-- An entry of a pair. -/
def pairEntry (sig : W32) (store : Bool) : PairEnt := { sig := sig, store := store, op := { kind := .sst, accs := [{ size := 4 }] } }

theorem witness_PairsRunAndCompare :
    (bench.cw.pair = none ∧ bench.divided = false ∧ bench.cw.lanesIdle = true ∧ ∀ o ∈ bench.cw.ops, o.done = true) ∧
    (benchW fun w => { w with lq := [{}] }).cw.lanesIdle = false ∧
    (let s := benchPair {} { ended := false }
     s.frag.valid = true ∧ ∃ p ∈ s.cw.pair, p.leads = true ∧ p.placed = true ∧ p.partner ≠ s.cur ∧ ∃ q ∈ (s.watch p.partner).pair, q.ended = false) ∧
    (let s := benchPair {} { ended := true, made := 1 }; ∃ p ∈ s.cw.pair, ∃ q ∈ (s.watch p.partner).pair, q.ended = true ∧ p.made ≠ q.made) ∧
    (let s := benchPair { ents := [{}] } { ended := true }
     ∃ p ∈ s.cw.pair, ∃ q ∈ (s.watch p.partner).pair, q.ended = true ∧ p.made = q.made ∧ p.ents ≠ []) ∧
    (let s := benchPair {} { ended := true }
     ∃ p ∈ s.cw.pair, ∃ q ∈ (s.watch p.partner).pair, q.ended = true ∧ p.made = q.made ∧ p.ents = [] ∧ q.ents = []) ∧
    (let s := { benchPair {} {} with cur := 2 }; ∃ p ∈ s.cw.pair, p.leads = false ∧ s.cw.lanesIdle = true) := by decide +kernel

theorem witness_PairsRunAndCompare_trailer :
    (let s := (benchW fun w => { w with pair := some { placed := false } }).modCore 1 fun c => { c with live := some 1 }
     let s := { (s.modCtx 1 fun c => { c with cols := [0, 1, 2, 3, 4, 5, 6, 7] }) with next := 2 }
     let x := s.watch 1
     let la := s.launch x.launch
     Tbl.find s.watches 1 = some x ∧ (∃ p ∈ x.pair, p.placed = false ∧ p.leads = true) ∧ s.isLive x = true ∧ 1 ≠ s.next ∧
       s.runsOn x.ctx (dieOfCore x.core * 128 + (x.core % 128 + 1 + 0) % 128) = true ∧
       s.fitIn (s.residents 1) x.ctx 1 la.scratch la.xwin x.width x.allot [x.col0] = some (0, x.col0)) ∧
    (let s := benchW fun w => { w with pair := some { placed := false } }
     let x := s.watch 1
     ∀ k, k < 127 → s.runsOn x.ctx (dieOfCore x.core * 128 + (x.core % 128 + 1 + k) % 128) = false) := by decide +kernel

theorem witness_PairsRunAndCompare_entries :
    (let s := benchPair { ents := [pairEntry 5 true] } { ents := [pairEntry 5 true] }
     Tbl.find s.watches 1 = some (s.watch 1) ∧ Tbl.find s.watches 2 = some (s.watch 2) ∧
       (∃ p ∈ (s.watch 1).pair, p.leads = true ∧ p.partner = 2 ∧ p.ents = pairEntry 5 true :: []) ∧
       ∃ q ∈ (s.watch 2).pair, q.leads = false ∧ q.partner = 1 ∧ q.ents = pairEntry 5 true :: []) ∧
    (pairEntry 5 false).store = false ∧
    (pairEntry 5 true).sig ≠ (pairEntry 6 true).sig ∧ ∃ p ∈ ((benchPair { retry := 2 } {}).watch 1).pair, p.retry < 3 := by decide +kernel

theorem witness_SlotOperationsAnswer :
    (benchW fun w => { w with pair := some {} }).cw.pair ≠ none ∧
    (let t := Spec.slotsOf bench
     ∀ i : Fin 8, ¬(t.slots[i].valid = true ∧ t.slots[i].key = (bench.sreg 4).extractLsb' 0 48)) ∧
    (let s := bench.modCore 0 fun c => { c with slots := [(1, { slots := Vector.replicate 8 { valid := true, count := 0xFFFF } })] }
     let t := Spec.slotsOf s
     t.slots[(0 : Fin 8)].valid = true ∧ t.slots[(0 : Fin 8)].key = (s.sreg 4).extractLsb' 0 48 ∧
       ∀ k : Fin 8, t.slots[(0 : Fin 8)].count.toNat ≤ t.slots[k].count.toNat) := by decide +kernel

/-! ## Witnesses: engine commands, collectives and groups as a watch issues them -/

/-- The bench with a barrier object at the scratchpad's start, 64-bit words at a place of it, and S20 and S21. -/
def benchCmd (off : Nat) (l : List Word) (a : Word) : State :=
  ((benchPS [(20, a), (21, plain 0)]).writeN (memKey .plain 1 0 0) 16 (Spec.object 1 1 0 0 0xAB01)).writeN (memKey .plain 1 0 off) (8 * l.length)
    (l.foldr (fun w n => w.toNat + 2 ^ 64 * n) 0)

/-- S21 names an object (Spec.NamesObject). -/
def named (s : State) : Bool :=
  let k := okKey (s.objectAt s.cw (s.sreg 21))
  decide (k = memKey .plain 1 0 0) && !s.objectHeld k && objMarked (s.readN k 16)

/-- A copy of 32 bytes from offset 4096 of the own column to its plain offset 1024 (08 R225). -/
def copyDesc (rows : Word) : List Word := [0xFFC0000001000, plain 1024, 0, rows + 32 <<< 16 + 3 <<< 36, 0, 0, 0, 0]

theorem witness_CopiesAndWeightLoadsAreIssued_tcopy :
    (let s := benchCmd 64 (copyDesc 1) (plain 64)
     let p := s.prep s.cw.home (Spec.descReq 64 [1]) (s.sreg 20)
     s.frag.valid = true ∧ s.cw.pair = none ∧ p = .ok (okAcc p) ∧ s.copyBad s.cw (s.sreg 20) (wordsOf 8 (s.readCtl (okAcc p) 64)) = false ∧
       named s = true ∧ s.released .rel .core = true ∧ s.cw.pathCount 9 < 65535) ∧
    (let s := benchCmd 64 (copyDesc 0) (plain 64)
     let p := s.prep s.cw.home (Spec.descReq 64 [1]) (s.sreg 20)
     s.copyBad s.cw (s.sreg 20) (wordsOf 8 (s.readCtl (okAcc p) 64)) = true) := by decide +kernel

theorem witness_CopiesAndWeightLoadsAreIssued_wload :
    (let s := benchCmd 64 [] (plain 65408)
     let v := s.sreg 20
     v.toNat / 2 ^ 56 = 0 ∧ tagOf v = 1 ∧ s.coreColumn s.cw v = some 0 ∧ offOf v % 32 = 0 ∧ offOf v + 128 * (1 : I12).toNat ≤ (s.layout 1 0).scratch ∧
       1024 * (255 : Byte).toNat + 128 * (1 : I12).toNat ≤ 262144 ∧ named s = true ∧ s.released .rel .core = true ∧ s.cw.pathCount 9 < 65535) ∧
    ((0x100000000000000 : Word).toNat / 2 ^ 56 ≠ 0 ∧ tagOf (0xFFC0000000000 : Word) ≠ 1 ∧ tagOf (0xFFC0000000000 : Word) ≠ 2) ∧
    benchP.coreColumn benchP.cw (0x10000000000000 + 4 * 2 ^ 42) = none ∧
    (tagOf (0x2FFC0000000000 : Word) = 2 ∧ (benchP.layout 1 0).init = true ∧ (benchP.layout 1 0).window ≠ 0) ∧
    offOf (plain 16) % 32 ≠ 0 ∧ (benchP.layout 1 0).scratch < offOf (plain 65440) + 128 ∧ 262144 < 1024 * (255 : Byte).toNat + 128 * (9 : I12).toNat := by
  decide +kernel

/-- A launch of context 1 with words of its header (02 R64; 11 R311). -/
def launchOf (l : List (Nat × Word)) : Launch := { ctx := 1, header := (List.range 24).map fun i => ((l.find? fun x => x.1 == i).map (·.2)).getD 0 }

/-- A device whose watch belongs to that launch, its number 1. -/
def inLaunch (l : List (Nat × Word)) (s : State) : State :=
  { (s.setW { s.cw with launch := 1 }) with launches := [(1, launchOf l)], next := 2 }

theorem witness_EngineCommandsAreIssued_solic :
    (let s := (inLaunch [(9, 1 <<< 14)] (benchCmd 64 [] 5)).setCrew 1 3 {}
     s.frag.valid = true ∧ s.cw.pair = none ∧ s.cw.pathCount 9 < 65535 ∧ named s = true ∧ s.coreColumn s.cw (s.sreg 21) = some 0 ∧
       offOf (s.sreg 21) + 48 ≤ (s.layout s.cw.ctx 0).scratch ∧ s.lockHit s.cw.ctx 0 1 (offOf (s.sreg 21) + 16) 32 true = false ∧
       (0 : B2).toNat < (s.launch s.cw.launch).nrole ∧ (s.launch s.cw.launch).roleResp (0 : B2).toNat = true ∧ s.crew s.cw.ctx 3 ≠ none ∧
       s.crew s.cw.ctx 4 = none ∧ s.released .ar .crew = true ∧ (s.launch s.cw.launch).nrole ≤ (1 : B2).toNat) ∧
    (let s := inLaunch [] benchP; (s.launch s.cw.launch).roleResp 0 = false) := by decide +kernel

/-- An auction of one row and one column: score, output, capacity areas and epsilon 1 (10 R298). -/
def auctDesc (rlim : Word) : List Word := [plain 1024, plain 2048, 0, plain 1032, 0x3F800000 + rlim <<< 32 + 4 <<< 48, 0, 0, 0]

theorem witness_EngineCommandsAreIssued_auct :
    (let s := benchCmd 64 (auctDesc 1) (plain 64)
     let v := s.sreg 20
     let d := wordsOf 8 (s.readCtl { pcn := 0, addr := v, key := memKey .plain s.cw.ctx 0 (offOf v) } 64)
     v.toNat / 2 ^ 56 = 0 ∧ tagOf v = 1 ∧ s.coreColumn s.cw v = some 0 ∧ offOf v % 64 = 0 ∧ offOf v + 64 ≤ (s.layout s.cw.ctx 0).scratch ∧
       s.lockHit s.cw.ctx 0 1 (offOf v) 64 false = false ∧ s.auctBad s.cw v d = false ∧ named s = true ∧ s.released .rel .clu = true) ∧
    (let s := benchCmd 64 (auctDesc 0) (plain 64)
     s.auctBad s.cw (s.sreg 20) (wordsOf 8 (s.readCtl { pcn := 0, addr := s.sreg 20, key := memKey .plain s.cw.ctx 0 64 } 64)) = true) := by
  decide +kernel

theorem witness_EngineCommandsAreIssued_rec_and_trig :
    (let s := benchCmd 64 [1 <<< 16, 0, 0, 0] (plain 64)
     let p := s.prep s.cw.home (Spec.descReq 32 [0, 1]) (s.sreg 20)
     s.frag.valid = true ∧ p = .ok (okAcc p) ∧ recordBad (s.ctx s.cw.ctx).cols.length (s.readCtl (okAcc p) 32) = false ∧
       s.released .rel .dev = true ∧ recordBad 4 (33 <<< 16) = true) ∧
    (let s := benchS [(20, 4096)]
     (s.sreg 21).toNat ≤ 64 ∧ (s.sreg 21).toNat = 0 ∧ s.triggerOk (12 : I12).toNat s.cw.ctx 0 [] = false) ∧
    64 < (65 : Word).toNat ∧
    (let s := (benchS [(20, 4096), (21, 64)]).writeN (graphKey 12) 16 (1 + 1 <<< 16 + 8 <<< 86)
     let r : AReq := { size := 16 * 64, align := 16, tags := [0, 1] }
     s.checkAddr s.cw s.cw.home r (s.sreg 20) = none ∧ s.triggerOk (12 : I12).toNat s.cw.ctx 64 [] = true ∧ s.released .rel .sys = true ∧
       s.triggerOk (12 : I12).toNat s.cw.ctx 1 [0, 7] = true ∧ s.triggerOk (12 : I12).toNat s.cw.ctx 1 [8, 7] = false ∧
       (match s.readWords { r with size := 16 } (s.sreg 20) 2 with
         | .ok l => decide (l.length = 2)
         | _ => false) = true) := by decide +kernel

/-- A group of two members for crew 3 (15 R398). -/
def groupDesc (nchk : Word) : List Word := [1 <<< 1 + 3 <<< 15 + nchk <<< 32 + 1 <<< 48, 0xFFC0000010000, 0, 0, 0, 0, 0, 0, 1 + 1 <<< 32, 2 + 1 <<< 32]

/-- The bench with group 9 defined for crew 3. -/
def benchGroup (member : Bool) : State :=
  let s := (benchCmd 64 [] 0).setGroup 1 9 { def_ := true, desc := groupDesc 1 }
  if member then s.setCrew 1 3 { members := [mine false], cols := [0] } else s

theorem witness_CollectivesRecordTheArrival :
    (benchP.group 1 9).def_ = false ∧
    (let s := benchGroup false; (s.group 1 9).def_ = true ∧ s.isMember (gdCrew (s.group 1 9).desc) = false) ∧
    (let s := benchGroup true
     s.frag.valid = true ∧ (s.group 1 9).def_ = true ∧ s.isMember (gdCrew (s.group 1 9).desc) = true ∧ named s = true ∧
       s.coreColumn s.cw (s.sreg 21) = some 0 ∧ offOf (s.sreg 21) + 48 ≤ (s.layout s.cw.ctx 0).scratch ∧
       s.lockHit s.cw.ctx 0 1 (offOf (s.sreg 21) + 16) 32 true = false ∧ s.released .rel .dev = true ∧ s.cw.mat = none ∧ (1 : B2) ≠ 0 ∧
       (match s.drain (s.group 1 9).desc 3 0 false with
         | some x => decide (x.2 = 0)
         | none => false) = true) := by decide +kernel

theorem witness_GroupsAreDefinedAndReleased :
    (let s := benchCmd 64 (groupDesc 1) (plain 64)
     let p := s.prep s.cw.home (Spec.descReq 64 [0, 1]) (s.sreg 20)
     let n := 8 + gdCount (wordsOf 8 (s.readCtl (okAcc p) 64))
     p = .ok (okAcc p) ∧ n = 10 ∧ s.checkAddr s.cw s.cw.home { Spec.descReq 64 [0, 1] with size := 8 * n } (s.sreg 20) = none ∧
       groupBad (groupDesc 1) = false ∧ groupBad (groupDesc 0) = true ∧ gdProg (groupDesc 1) = 0 ∧ s.groupBusy 1 9 = false ∧
       progBad 2 0x24D43 = false ∧ progBad 3 0x24D43 = true ∧
       (match s.readWords (Spec.descReq 64 [0, 1]) (s.sreg 20) n with
         | .ok d => decide (d = groupDesc 1)
         | _ => false) = true) ∧
    ({ benchGroup true with runs := [{ ctx := 1, group := 9 }] }).groupBusy 1 9 = true ∧
    (let s := { (benchGroup true).modCtx 1 (fun c => { c with desc := 1 <<< 192 }) with runs := [{ ctx := 1, group := 9 }] }
     let x := s.watch 1
     (x.entry 0).valid = true ∧ (x.entry 0).wait = false ∧ x.ended = false ∧ s.isLive x = true ∧ (s.ctx x.ctx).wto ≠ 0 ∧
       { coded 0 [0x3C0000C9, 0x136] s with cur := 1, ent := 0 }.fetchInstr.2 = .collRelease 9 .dev) := by decide +kernel

/-! ## Witnesses: lane instructions, and the steps of memory, lanes and the array -/

/-- The bench with a lane instruction running under a mask, V1 and V2 holding a value in every lane. -/
def benchV (m : Mask) (a b : W32) : State :=
  { benchPW fun w => { w with v := [(1, row a), (2, row b)] } with lane := { mask := m, seq := 1 } }

/-- Operands: V3 := V1, V2. -/
def ops3 (ty : B4) (lit : W32) : LaneOps := ⟨3, false, 1, false, 2, 0, 0, false, ty, 0, lit⟩

theorem witness_IntegerLanesWriteTheirResult :
    (let s := benchV 0xFFFF 0xFFFFFFFF 2
     let o := ops3 6 0
     ∀ l, l < 64 → Spec.intLane (Spec.source o s 0 l) (Spec.source o s 1 l) (Spec.source o s 2 l) (rowAt (s.cw.vreg o.d.toNat) l) (.iadd o) = some (o, 1)) ∧
    (let s := benchV 1 0x80000000 31
     let o := { ops3 6 0 with md := 1 }
     ∀ l, l < 64 → Spec.intLane (Spec.source o s 0 l) (Spec.source o s 1 l) (Spec.source o s 2 l) (rowAt (s.cw.vreg o.d.toNat) l) (.iabs o) =
       some (o, 0x7FFFFFFF)) := by decide +kernel

theorem witness_FloatLanesWriteTheirResult :
    let s := benchV 0xFFFF 0x3F800000 0x40000000
    let o := ops3 0 0
    ∀ l, l < 64 → Spec.floatLane (Spec.source o s 0 l) (Spec.source o s 1 l) (Spec.source o s 2 l) (.fadd o) = some (o, 0x40400000) := by
  decide +kernel

theorem witness_ConversionsWriteTheirResult :
    (let o := ops3 0 0x483; (tyWidth (cvDtype o.lit) = 8) ∧ (cvIdx o.lit + 2) * tyWidth (cvDtype o.lit) ≤ 32) ∧
    (let o : LaneOps := ⟨0x12, false, 7, false, 0x1CA, 0x1CB, 1, false, 0, 0, 0x286083⟩
     (o.ty = 0 ∨ o.ty = 2) ∧ cvDtype o.lit = 3 ∧ BitVec.ofNat 4 (cvOmask o.lit) ≠ 0 ∧ cvIdx o.lit < 32 / tyWidth (cvDtype o.lit) ∧
       cvSide o.lit ≠ o.d.toNat) := by decide +kernel

theorem witness_LaneAccessesArePutInFlight :
    (let s := benchV 3 65532 0
     let o := ⟨4, false, 1, false, 0, 0, 0, false, 6, 2, 4⟩
     let act := (List.range 64).filter (s.active o).getLsbD
     s.lane.last = true ∧ s.cw.pair = none ∧ s.cw.pathCount 0 < 65535 ∧ s.cw.pathCount 1 < 65535 ∧ act = [0, 1] ∧
       ∀ l ∈ act, (Spec.oneAccess s { size := 4, align := 4, tags := [0, 1, 2, 4], dir := true } l (Spec.displacedAddr (Spec.source64 o s 0 l) o.lit) 0 0).isSome) ∧
    (let s := benchV 3 2 0
     let o := ⟨4, false, 1, false, 0, 0, 0, false, 6, 2, 0⟩
     ∀ l ∈ [0, 1], (Spec.oneAccess s { size := 4, align := 4, tags := [0, 1, 2, 4], dir := true } l (Spec.displacedAddr (Spec.source64 o s 0 l) o.lit) 0 0) =
       some (.error .align)) ∧
    (let s := benchV 3 64 0
     let o := ⟨0, false, 1, false, 2, 2, 0, false, 6, 0, 0⟩
     s.cw.pathCount 6 < 65535 ∧ s.cw.pathCount 8 < 65535 ∧
       ∀ l ∈ [0, 1], (Spec.oneAccess s { atom := true } l (Spec.displacedAddr (Spec.source64 o s 0 l) o.lit) (Spec.source o s 1 l).toNat (Spec.source o s 2 l).toNat).isSome ∧
         (Spec.oneAccess s { size := 1, align := 1, store := true, tags := [0, 1, 2, 4], dir := true } l (Spec.displacedAddr (Spec.source64 o s 0 l) o.lit) 0 0).isSome) := by
  decide +kernel

theorem witness_CopiesExchangesAndMaxima :
    (let s := { benchPW fun w => { w with v := [(1, row 64), (2, row 1024), (3, row 0x1FFC00)] } with lane := { mask := 3 } }
     let o : LaneOps := ⟨0, false, 1, false, 2, 0, 0, false, 6, 7, 0⟩
     let act := (List.range 64).filter (s.active o).getLsbD
     s.lane.last = true ∧ s.cw.pathCount (2 + o.md.toNat / 2 % 4) < 65535 ∧ act = [0, 1] ∧ ∀ l ∈ act, (Spec.acpyAns o s l).isSome) ∧
    (let s := (benchV 1 7 0).setCrew 1 7 { members := [mine false], cols := [0] }
     let o : LaneOps := ⟨0, false, 1, false, 2, 0, 0, false, 6, 0, 0x7000⟩
     s.lane.last = true ∧ s.cw.pathCount 7 < 65535 ∧ (s.crew s.cw.ctx (xstCrew o.lit)).map (·.cols) = some [0]) ∧
    (let s := benchV 2 0 0
     let o : LaneOps := ⟨3, false, 1, false, 0, 0, 0, false, 0, 0, 1⟩
     o.lit.getLsbD 0 = true ∧ (List.range 64).filter (s.active o).getLsbD = [1] ∧ s.cw.pathCount 8 < 65535 ∧
       (match Spec.addressOf s { atom := true } 1 s.lane.sb with
         | some (.ok _) => true
         | _ => false) = true ∧ (0 : W32).getLsbD 0 = false) := by decide +kernel

theorem witness_MatrixInstructionsAreAccepted :
    (let s := benchV 0xFFFF 0 0
     let o : LaneOps := ⟨2, false, 64, false, 96, 0, 0, false, 3, 0, 0⟩
     s.cw.mat = none ∧ Spec.quarters o s = [0, 2] ∧ o.lit.getLsbD 26 = false) ∧
    (let s := benchV 0 0 0; Spec.quarters ⟨2, false, 64, false, 96, 0, 0, false, 3, 0, 0⟩ s = []) ∧
    (let s := benchV 4 64 0
     let o : LaneOps := ⟨60, false, 10, false, 1, 0, 0, false, 0, 0, 0x04000000⟩
     o.lit.getLsbD 26 = true ∧ (List.range 64).filter (s.active o).getLsbD = [2] ∧ s.cw.pathCount 8 < 65535 ∧
       (match Spec.addressOf s { atom := true } 2 (rowAt (s.cw.vreg 2) 2 ++ rowAt (s.cw.vreg 1) 2) with
         | some (.ok _) => true
         | _ => false) = true) ∧
    (benchW fun w => { w with mat := some {} }).cw.mat.isSome := by decide +kernel

/-- An operation of the watch 1, at seven of its order. -/
def benchOp (o : Op) : State := benchPW fun w => { w with ops := [{ o with id := 9, seq := 7 }] }

/-- The single operation of `benchOp`. -/
def opOf (o : Op) : Op := { o with id := 9, seq := 7 }

theorem witness_OldestReadyWatchIssues :
    (let e : LqEntry := { instr := .iadd (ops3 6 0), mask := 1, index := 0 }
     let s := benchW fun w => { w with lq := [e], v := [(1, row 1), (2, row 2)] }
     let u : State := { s with seq := s.seq + 1, watches := s.watches.map fun (x : Nat × Watch) => (x.1, { x.2 with aged := if s.laneReady x.1 x.2 = false then 0 else if x.2.aged = 0 then s.seq else x.2.aged }) }
     (1, u.watch 1) ∈ u.watches ∧ (u.watch 1).core = 0 ∧ 0 < (u.watch 1).aged ∧ u.columnsFree 1 (u.watch 1) = true ∧
       (u.watch 1).lq[(u.watch 1).chainPos]? = some e ∧ u.headFails 1 (u.watch 1) = false ∧ ∀ q, q < 8 → e.pops q = 0) ∧
    (∀ x ∈ bench.watches, bench.laneReady x.1 x.2 = false) := by decide +kernel

theorem witness_LoadsReturnAndStoresReachMemory :
    (let o := opOf { kind := .ld, paths := [1], lane := true, d := 3, size := 2, accs := [{ size := 4, addr := plain 64, key := memKey .plain 1 0 64 }] }
     let s := benchOp o
     let x := s.watch 1
     Tbl.find s.watches 1 = some x ∧ x.op 9 = some o ∧ o.done = false ∧ o.isLoad = true ∧ s.isLive x = true ∧ x.acqHeld o.seq = false ∧
       (s.sectors x.ctx o)[0]? = some (memKey .plain 1 0 64 / 32) ∧
       ∀ a ∈ o.accs, a.got = false ∧ a.pend = false ∧ s.keyNow x.ctx a / 32 = memKey .plain 1 0 64 / 32 ∧
         s.olderSame x Op.beforeLoad o.seq o.lane a = false) ∧
    (let o := opOf { kind := .sld, paths := [0], d := 62, size := 4, accs := [{ size := 16 }] }
     o.isLoad = true ∧ o.lane = false ∧ o.accs = [{ size := 16 }] ∧ o.d < 63) ∧
    (let e : StoreEnt := { op := 9, seq := 7, acc := { size := 4, data := 5, key := memKey .plain 1 0 0, addr := plain 0 } }
     let s := benchPW fun w => { w with fifo := [e] }
     let x := s.watch 1
     x.fifo = [e] ∧ e.acc.pend = false ∧ x.acqHeld e.seq = false ∧ s.olderSame x Op.isLoad e.seq e.lane e.acc = false ∧ x.ops = []) ∧
    (let o := opOf { kind := .acpy, paths := [2], accs := [{ size := 4, addr := 64, key := memKey .slice 0 0 64, cmp := (plain 32).toNat, count := memKey .plain 1 0 32 }] }
     let s := benchOp o
     ∃ a ∈ o.accs, Tbl.find s.watches 1 = some (s.watch 1) ∧ (s.watch 1).op 9 = some o ∧ o.kind = .acpy ∧ (s.watch 1).acqHeld o.seq = false ∧
       o.accs[0]? = some a ∧ a.got = false ∧ a.pend = false ∧ a.size ≤ 32) ∧
    (let o := opOf { kind := .xst, paths := [7], accs := [{ size := 4, addr := 0x3FFC0000000000 }] }
     let s := benchOp o
     ∃ a ∈ o.accs, o.kind = .xst ∧ s.lockHit 1 a.pcn 3 (offOf a.addr) a.size true = false ∧
       ∀ q ∈ (s.watch 1).ops, q.kind = .xst → q.seq < o.seq → ∀ b ∈ q.accs, b.pcn = a.pcn → b.got = true) := by decide +kernel

theorem witness_AtomicsAreOneStep :
    (let o := opOf { kind := .satom, paths := [8], d := 63, size := 3, ty := 6, accs := [{ size := 8, data := 2 ^ 64 - 1, addr := plain 0, key := memKey .plain 1 0 0 }] }
     let s := benchOp o
     let x := s.watch 1
     ∃ a ∈ o.accs, Tbl.find s.watches 1 = some x ∧ x.op 9 = some o ∧ o.done = false ∧ o.isAtom = true ∧ s.isLive x = true ∧ x.acqHeld o.seq = false ∧
       x.heldBack 9 = false ∧ o.accs[0]? = some a ∧ a.got = false ∧ a.pend = false ∧ x.olderAtom o.seq a.pcn = false ∧
       s.olderSame x (fun q => q.beforeLoad && !q.isAtom) o.seq o.lane a = false ∧ a.data < 2 ^ (8 * a.size) ∧ o.nw = false ∧ o.stamp = 0 ∧
       dirEntry (s.keyNow x.ctx a) = none ∧ o.d < 64) ∧
    (let o := opOf { kind := .amax, paths := [8], lane := true, nw := true, size := 2, accs := [{ size := 4 }] }; o.isAtom = true ∧ o.nw = true) := by
  decide +kernel

theorem witness_AtomicsAreOneStep_ordered :
    (let s := benchP.modColumn 0 fun c => { c with fatom := [{ kind := 2 }] }
     (s.column 0).fatom[0]? = some { kind := 2 }) ∧
    (let o := opOf { kind := .fatom, paths := [8], lane := true, accs := [{ size := 4, data := 0x3F800000, addr := plain 0, key := memKey .plain 1 0 0 }] }
     let s := inLaunch [(5, 1)] (benchOp o)
     let x := s.watch 1
     ∃ a ∈ o.accs, Tbl.find s.watches 1 = some x ∧ x.op 9 = some o ∧ o.kind = .fatom ∧ x.acqHeld o.seq = false ∧ o.accs[0]? = some a ∧ a.got = false ∧
       a.pend = false ∧ a.pcn = 0 ∧ s.olderSame x Op.beforeLoad o.seq o.lane a = false ∧
       s.fatomReady 0 { launch := x.launch, key := x.lblock.toNat * 2 ^ 16 + 64 * x.wi + a.lane, seq := s.seq, word := a.key, kind := o.fn, value := BitVec.ofNat 32 a.data } [] = true ∧
       s.fatomReady 0 { launch := x.launch, key := 1, word := a.key } [{ launch := x.launch, key := 0, word := a.key }] = false) ∧
    (bench.ctx 1).rung = none := by decide +kernel

/-- The bench with queue 2 running over one element at an offset of the own column. -/
def benchStream (base : Word) : State :=
  benchPW fun w => { w with q := w.q.set 2 { st := .running, desc := [base, 0, 0, 0x2000100010001] } }

theorem witness_StreamsFetchInOrder :
    (let s := benchStream 0xFFC0000001000
     let x := s.watch 1
     let q := x.queue 2
     let r : AReq := { size := 4, align := 4, tags := [0, 1, 2], lane := some 15 }
     Tbl.find s.watches 1 = some x ∧ 15 < x.width ∧ q.st = .running ∧ s.isLive x = true ∧ q.next[15]?.getD 0 < sdCount q.desc ∧
       q.next[15]?.getD 0 < q.popc[15]?.getD 0 + 64 ∧ 2 ^ sdEsz q.desc = 4 ∧ s.checkAddr x (x.pcnOf 15) r (streamAddr q 15 0) = none ∧
       (match s.placeOf x (x.pcnOf 15) r (streamAddr q 15 0) with
         | .ok _ _ => true
         | _ => false) = true) ∧
    (let s := benchStream 0xFFC0000001002
     let x := s.watch 1
     s.checkAddr x (x.pcnOf 15) { size := 4, align := 4, tags := [0, 1, 2], lane := some 15 } (streamAddr (x.queue 2) 15 0) = some .align) ∧
    (let s := (benchStream (plain 64)).modColumn 0 fun c => { c with locks := [{ ctx := 1, tag := 1, lo := 0, hi := 128, write := true }] }
     let x := s.watch 1
     s.checkAddr x (x.pcnOf 0) { size := 4, align := 4, tags := [0, 1, 2], lane := some 0 } (streamAddr (x.queue 2) 0 0) = some .lock) := by
  decide +kernel

/-- The bench with an accepted matrix instruction of the first eight rows. -/
def benchMat (i : Instr) (left : List Nat) : State :=
  benchW fun w => { w with mat := some { instr := i, mask := 0xFF, left := left, rowsA := List.replicate 16 (row 0), rowsB := List.replicate 4 (row 0) } }

theorem witness_MatrixInstructionsArePerformed :
    (let o : LaneOps := ⟨2, false, 64, false, 96, 0, 0, false, 2, 0, 0⟩
     let s := benchMat (.mma o) [0]
     ∃ m ∈ (s.watch 1).mat, m.instr = .mma o ∧ m.left = [0] ∧ s.queued 0 ((s.core 0).lastPass + 1) = [(1, m)] ∧ s.quarterReady 0 m 0 = true ∧
       s.passQuarters 0 8 (quarterKey m 0) = [(1, 0)] ∧ (mmaNpos o.lit + 1) * shapeN m.shape ≤ 64) ∧
    ((benchMat (.tclr ⟨3, false, 0, false, 0, 0, 0, false, 0, 0, 0⟩) []).watch 1).mat.isSome := by decide +kernel

/-! ## Witnesses: crew controllers, pages, contexts, the ladder -/

/-- The bench's context with messages to its crew controller and a crew. -/
def benchMsg (l : List CrewMsg) (x : Crew) : State := (bench.modCtx 1 fun k => { k with msgs := l }).setCrew 1 0 x

theorem witness_PhasesCompleteAndWatchesLeave_controller :
    (let s := benchMsg [.arrive 0 1 true] { members := [mine false, { w := 2 }], cols := [0] }
     (s.ctx 1).msgs = .arrive 0 1 true :: [] ∧ s.crew 1 0 = some { members := [mine false, { w := 2 }], cols := [0] } ∧
       ∃ m ∈ [mine true, { w := 2 }], m.arrived = false) ∧
    (let s := benchMsg [.arrive 0 1 false] {}; (s.ctx 1).msgs = .arrive 0 1 false :: [] ∧ s.crew 1 0 = some {}) ∧
    (let s := benchMsg [.depart 1 true true 3] { members := [mine true], fcnt := 4095 }
     (s.ctx 1).msgs = .depart 1 true true 3 :: [] ∧ s.crew 1 0 = some { members := [mine true], fcnt := 4095 } ∧
       ∃ m ∈ [mine true], m.w = 1 ∧ m.arrived = true) ∧
    (let s := benchMsg [.depart 1 true false 0] { members := [mine false] }
     s.crew 1 0 = some { members := [mine false] } ∧ ¬∃ m ∈ [mine false], m.w = 1 ∧ m.arrived = true) := by decide +kernel

theorem witness_PhasesCompleteAndWatchesLeave_release :
    (Tbl.find bench.watches 1 = some bench.cw ∧ bench.cw.finished = false) ∧
    (let s := inLaunch [] (benchW fun w => { w with ended := true, fmask := 2, fmwhy := 3 })
     Tbl.find s.watches 1 = some s.cw ∧ s.cw.finished = true ∧ (Tbl.find s.ctxs s.cw.ctx).isSome ∧ s.cw.departed = false ∧
       Tbl.find s.launches s.cw.launch = some (launchOf []) ∧ s.cw.kind ≠ .responder ∧ ∀ p ∈ s.watches, ¬p.1 ≠ 1) ∧
    (let s := benchW fun w => { w with ended := true }
     s.cw.finished = true ∧ Tbl.find s.launches s.cw.launch = none) := by decide +kernel

theorem witness_ErrorsReachTheirConsumer :
    (let o : Op := { id := 5, kind := .ld, accs := [{ addr := 0x25, got := true }, { addr := 0x45 }] }
     let s := benchW fun w => { w with ops := [o] }
     Tbl.find s.watches 1 = some s.cw ∧ s.cw.op 5 = some o ∧ o.done = false ∧ o.isLoad = true ∧ o.accs.find? (fun a => !a.got) = some { addr := 0x45 }) ∧
    ((bench.cw.entry 0).valid = true ∧ (bench.cw.entry 0).wait = false ∧ bench.isLive bench.cw = true) ∧
    (let s := benchW fun w => { w with mat := some {} }; Tbl.find s.watches 1 = some s.cw ∧ s.cw.mat = some {}) ∧
    (let f := fun (w : Watch) => { w with mat := some { before := some (w.tiles, w.rows) } }
     ((benchW f).cw.pair = none ∧ (benchW f).cw.crgn = []) ∧ (benchW fun w => { f w with pair := some {} }).cw.pair ≠ none ∧
       (let s := benchW fun w => { f w with crgn := [{}] }; s.cw.inh = false ∧ s.cw.crgn ≠ [])) ∧
    Tbl.getD bench.enmon.colErrs 0 0 ≠ 4 := by decide +kernel

/-- A page table of context 1: the root in frame 128 of slice 0, level 1 in 129, level 0 in 130, a CSPEC array in 131, at the frames'
starts; words by their places. -/
def tableAt (l : List (Nat × Nat × Word)) : State :=
  l.foldl (fun s x => s.writeN (memKey .slice 0 0 ((128 + x.1) * 2 ^ 18 + 8 * x.2.1)) 8 x.2.2.toNat)
    (((benchD (BitVec.ofNat 512 (pointer 0))).modColumn 0 fun c => { c with tlb := [] }).modCtx 1 fun c =>
      { c with frames := [(0, 128), (0, 129), (0, 130), (0, 131)] })
where
  /-- The pointer to one of those tables (12 R336). -/
  pointer (k : Nat) : Nat := 1024 * ((128 + k) * 1024)

/-- An entry that points to one of those tables, CSPEC or not; a leaf with flags on a frame (12 R336). -/
def down (k : Nat) (cspec : Bool) : Word := BitVec.ofNat 64 (1 + (if cspec then 8 else 0) + 256 * tableAt.pointer k)
def leafOn (flags frame : Nat) : Word := BitVec.ofNat 64 (flags + 256 * frame)

theorem witness_WalksFollowTheTable :
    (let s := tableAt [(0, 0, 0)]; (Spec.through s 0 (Spec.entryAt s ((s.ctx 1).ptroot % 2 ^ 31) 0)).getLsbD 0 = false) ∧
    (let e := leafOn 0x23 64
     let s := tableAt [(0, 0, e)]
     let e2 := Spec.through s 0 (Spec.entryAt s ((s.ctx 1).ptroot % 2 ^ 31) 0)
     e2.getLsbD 0 = true ∧ s.pteBad 2 e2 = true) ∧
    (let s := tableAt [(0, 0, leafOn 0x37 0)]
     let e2 := Spec.through s 0 (Spec.entryAt s ((s.ctx 1).ptroot % 2 ^ 31) 0)
     e2.getLsbD 0 = true ∧ e2.getLsbD 1 = true ∧ s.pteBad 2 e2 = false) ∧
    (let s := tableAt [(0, 0, down 1 false), (1, 1, down 3 true), (3, 2, leafOn 0x23 64), (1, 2, down 2 false), (2, 1, leafOn 0x23 65), (1, 3, 0)]
     let e2 := Spec.through s 2 (Spec.entryAt s ((s.ctx 1).ptroot % 2 ^ 31) 0)
     let r1 := Spec.entryAt s (e2.extractLsb' 8 40).toNat 1
     let e1 := Spec.through s 2 r1
     let b1 := Spec.through s 2 (Spec.entryAt s (e2.extractLsb' 8 40).toNat 2)
     let e0 := Spec.through s 2 (Spec.entryAt s (b1.extractLsb' 8 40).toNat 1)
     e2.getLsbD 0 = true ∧ s.pteBad 2 e2 = false ∧ e2.getLsbD 1 = false ∧ e1.getLsbD 0 = true ∧ e1.getLsbD 1 = true ∧ s.pteBad 1 e1 = false ∧
       r1.getLsbD 3 = true ∧ s.ptrBad (r1.extractLsb' 8 40).toNat = false ∧ pteReserved r1 = false ∧ e1.getLsbD 3 = false ∧
       b1.getLsbD 0 = true ∧ b1.getLsbD 1 = false ∧ s.pteBad 1 b1 = false ∧ e0.getLsbD 0 = true ∧ s.pteBad 0 e0 = false ∧
       (Spec.through s 2 (Spec.entryAt s (e2.extractLsb' 8 40).toNat 3)).getLsbD 0 = false) ∧
    (let s := tableAt []
     let far := tableAt.pointer 4
     s.ptrBad far = true ∧ s.ptrBad (tableAt.pointer 3) = false ∧ s.ptrBad (2 ^ 31) = true ∧ s.pteBad 0 (down 1 false) = true ∧
       s.pteBad 2 (leafOn 3 64) = true ∧ s.pteBad 1 (leafOn 3 65) = true ∧ s.pteBad 0 (leafOn 3 1536) = true ∧ s.pteBad 1 (leafOn 0x43 64) = true ∧
       s.pteBad 2 (down 4 false) = true) := by
  decide +kernel

theorem witness_WalksFollowTheTable_caches :
    let s := tableAt [(0, 0, down 1 false), (1, 1, leafOn 0x23 64), (1, 2, leafOn 3 64)]
    (s.core (coreOfCol 0)).live = some 1 ∧ ((s.ctx 1).pcnLive ((s.ctx 1).lcn 0)).isSome ∧ (s.cluster (clusterOfCol 0)).cache = [] ∧
      (match s.walk 1 0 (2 ^ 24) with
        | .ok (e, n, cs) => decide (e = leafOn 0x23 64 ∧ n = 2 ^ 24 ∧ cs = false)
        | .error _ => false) = true ∧
      (match s.walk 1 0 (2 ^ 25) with
        | .ok (e, _, _) => !e.getLsbD 5
        | .error _ => false) = true ∧ (s.ctx 1).lease = 0 ∧ (s.core (coreOfCol 0)).switching = none ∧
      ((s.modCore 0 fun k => { k with switching := some none }).core (coreOfCol 0)).switching ≠ none := by decide +kernel

theorem witness_PagesAreServedAndUnmapped_serve :
    (let s := { tableAt [(0, 0, down 1 false), (1, 1, leafOn 3 0)] with waits := [{ ctx := 1, pcn := 0, off := 2 ^ 24 + 32, job := 5 }] }
     let kl := s.walkKey 1 0 (2 ^ 24 + 32)
     let old := BitVec.ofNat 64 (s.readN kl.1 8)
     let pte := leafOn 0x23 64
     s.waits[0]? = some { ctx := 1, pcn := 0, off := 2 ^ 24 + 32, job := 5 } ∧ (old.getLsbD 0 && old.getLsbD 1 && old.getLsbD 4) = false ∧
       pte.getLsbD 0 = true ∧ pte.getLsbD 1 = true ∧ pte.getLsbD 5 = true ∧ s.pteBad kl.2 pte = false ∧ Tbl.find s.launches 5 = none ∧
       ∀ c ∈ s.walkCols 1 kl.1 (2 ^ 24 + 32), s.frameHeld c (pte.extractLsb' 8 40).toNat ((pte.extractLsb' 8 40).toNat + 2 ^ (6 * kl.2)) = false) ∧
    ([true, false].all fun b =>
      let p : PageWait := { ctx := 1, w := 1, blk := some (1, 0), async := b }
      let s := { bench with waits := [p] }
      decide (s.waits[0]? = some p) && (Tbl.find s.watches 1).isSome) = true := by decide +kernel

theorem witness_PagesAreServedAndUnmapped_unmap :
    (let s := tableAt [(0, 0, down 1 false), (1, 1, leafOn 0x27 64)]
     0 ∈ (s.ctx 1).liveCols ∧ s.unmaps = [] ∧ (0 : Word).getLsbD 0 = false ∧ leafOn 0x23 64 = leafOn 0x27 64 &&& ~~~4#64 ∧
       (match s.walk 1 0 (2 ^ 24) with
         | .ok (e, _, cs) => decide (e = leafOn 0x27 64) && !cs
         | .error _ => false) = true) ∧
    (let s := tableAt [(0, 0, down 3 true), (3, 0, down 1 false), (3, 1, down 2 false), (1, 1, leafOn 0x27 64), (2, 1, leafOn 0x27 65)]
     0 ∈ (s.ctx 1).liveCols ∧ (s.walkKey 1 0 (2 ^ 24)).1 ≠ (s.walkKey 1 1 (2 ^ 24)).1 ∧
       (match s.walk 1 0 (2 ^ 24) with
         | .ok (_, _, cs) => cs
         | .error _ => false) = true) := by
  decide +kernel

/-- A page of 16 MiB that drains for columns 0 and 1. -/
def drainOf (probes : List Nat) : Unmap := { ctx := 1, off := 2 ^ 24, size := 2 ^ 24, cols := [0, 1], probes := probes }
def draining (u : Unmap) (f : Watch → Watch) : State := { (benchW f).modColumn 0 fun c => { c with tlb := [] } with unmaps := [u] }

theorem witness_PagesAreServedAndUnmapped_drain :
    (let u := drainOf [0]
     let s := draining u id
     s.unmaps[0]? = some u ∧ u.waited = false ∧ u.acks = [] ∧ (∀ c ∈ s.columns, c.1 ∈ u.cols → ∀ x ∈ c.2.tlb, x.ctx = u.ctx → x.page ≠ u.off) ∧
       0 ∈ u.probes ∧ s.contribUses u 0 = false ∧ (∀ w ∈ s.watches, w.2.ctx = u.ctx → w.2.usesPage 0 u.off u.size = false) ∧ ∀ p ∈ u.probes, p = 0) ∧
    (let u := drainOf [0, 1]
     let s := draining u fun w => { w with fifo := [{ acc := { addr := 0x1000040 } }] }
     s.unmaps[0]? = some u ∧ 0 ∈ u.probes ∧ 0 ∈ u.cols ∧ (∃ w ∈ s.watches, w.2.ctx = u.ctx ∧ w.2.usesPage 0 u.off u.size = true) ∧
       ∃ p ∈ u.probes, p ≠ 0) ∧
    (let u := drainOf [2]
     let s := draining u fun w => { w with fifo := [{ acc := { addr := 0x1000040 } }] }
     s.unmaps[0]? = some u ∧ 2 ∈ u.probes ∧ 2 ∉ u.cols) := by
  decide +kernel

theorem witness_PagesAreServedAndUnmapped_retire :
    ((bench.column 0).retired = false ∧ ((bench.modColumn 0 fun c => { c with retired := true }).column 0).retired = true) ∧
    (Tbl.find bench.ctxs 1).isSome ∧ 0 ∈ (bench.ctx 1).cols ∧ (bench.ctx 1).lcn 0 ∉ (bench.ctx 1).holes := by decide +kernel

/-- The bench with its core changed. -/
def benchK (f : Core → Core) : State := bench.modCore 0 f

theorem witness_ContextsSwitch_begin :
    ((bench.core 5).switching = none ∧ (bench.core 5).standby = .free ∧ (bench.core 5).live = none) ∧
    ((bench.core 0).switching = none ∧ (bench.core 0).standby = .free ∧ (bench.core 0).live ≠ none) ∧
    (let s := benchK fun c => { c with standby := .ready 2 }; (s.core 0).switching = none ∧ (s.core 0).standby = .ready 2) ∧
    (let s := benchK fun c => { c with standby := .filling 2 }; (s.core 0).switching = none ∧ (s.core 0).standby = .filling 2) := by decide +kernel

theorem witness_ContextsSwitch_complete :
    (bench.core 0).switching = none ∧
    (let s := benchK fun c => { c with switching := some none }; (s.core 0).switching = some none ∧ (s.core 0).live = some 1) ∧
    (let s := benchK fun c => { c with switching := some (some 2) }
     (s.core 0).switching = some (some 2) ∧ (s.core 0).live = some 1 ∧ (some 2 : Option Nat) ≠ some 1 ∧ (s.ctx 2).out = false) := by decide +kernel

theorem witness_ContextsSwitch_banks :
    (let s := bench.modCtx 1 fun k => { k with saved := [0] }
     (s.core 0).standby = .free ∧ (s.core 0).switching = none ∧ (Tbl.find s.ctxs 1).isSome ∧ (s.ctx 1).saveInc = false ∧ (s.ctx 1).rung = none ∧
       (s.ctx 1).doom = false ∧ 0 ∈ (s.ctx 1).saved) ∧
    (let s := benchK fun c => { c with standby := .filling 1 }; (s.core 0).standby = .filling 1 ∧ (s.core 0).want = false) ∧
    (let s := (benchW fun w => { w with bank := .standby, mat := some {} }).modCore 0 fun c => { c with standby := .spill 1 }
     (s.core 0).standby = .spill 1 ∧ ∃ w ∈ s.watches, w.2.ctx = 1 ∧ w.2.core = 0 ∧ w.2.bank = .standby ∧ s.drainedOut w.2 = false) ∧
    (let s := (benchW fun w => { w with bank := .standby }).modCore 0 fun c => { c with standby := .spill 1 }
     (s.core 0).standby = .spill 1 ∧ (s.core 0).want = false ∧ (Tbl.find s.ctxs 1).isSome ∧
       (s.ctx 1).doom = false ∧ (∀ w ∈ s.watches, w.2.ctx = 1 → w.2.core = 0 → w.2.bank = .standby → s.drainedOut w.2 = true) ∧
       ∀ k ∈ (s.ctx 1).cores, k = 0 ∨ k ∈ (s.ctx 1).saved) ∧
    (let s := (bench.modCtx 1 fun k => { k with cols := [0, 4] }).modCore 0 fun c => { c with standby := .spill 1 }
     ∃ k ∈ (s.ctx 1).cores, k ≠ 0 ∧ k ∉ (s.ctx 1).saved) := by decide +kernel

theorem witness_EscalationsGoUp_records :
    let x : Esc := { cause := 0x51, detail := 15, tcode := 255, core := 0xFF }
    (Tbl.find bench.ctxs 1).isSome ∧ (bench.ctx 1).ringCol < 1024 ∧ (bench.ctx 1).doom = false ∧ x.cause < 256 ∧ x.detail < 16 ∧ x.tcode < 256 ∧ x.core < 2 ^ 16 := by decide +kernel

theorem witness_EscalationsGoUp_timeouts :
    (let s := (benchD (1 * 2 ^ 192)).setW { bench.cw with inh := true }
     Tbl.find s.watches 1 = some s.cw ∧ s.cw.inh = true ∧ s.cw.ended = false ∧ s.isLive s.cw = true ∧ s.cw.rung = 0 ∧ (s.ctx s.cw.ctx).wto ≠ 0) ∧
    (let s := (benchD (1 * 2 ^ 288)).modCtx 1 fun c => { c with rung := some 2 }; (s.ctx 1).rung = some 2 ∧ (s.ctx 1).xto ≠ 0) ∧
    (let s := bench.modCtx 1 fun c => { c with rung := some 3 }; ∃ c ∈ s.ctxs, c.2.part = 0 ∧ c.2.rung = some 3) ∧
    (let s := ((benchD (1 * 2 ^ 320)).modDie 0 fun d => { d with running := [(12, 0)] }).writeN (graphKey 12) 16 (1 + 1 <<< 16)
     let t := s.modCtx 1 fun c => { c with wdog := 5 }
     (s.ctx 1).wdog = 0 ∧ (t.ctx 1).wdog ≠ 0 ∧ (t.ctx 1).wdogLoad ≠ 0 ∧ (t.ctx 1).out = false ∧ t.inRun 1 = true ∧
       (∀ k ∈ t.cores, k.2.standby ≠ .spill 1) ∧ ∃ k ∈ (t.modCore 0 fun c => { c with standby := .spill 1 }).cores, k.2.standby = .spill 1) ∧
    (let s := benchK fun c => { c with standby := .spill 3 }; (s.core 0).standby = .spill 3) := by decide +kernel

theorem witness_EscalationsGoUp_rungs :
    (let s := benchW fun w => { w with rung := 1, inh := true }
     (s.watch 1).rung ≠ 0 ∧ (s.watch 1).inh = true ∧ (s.watch 1).ended = false ∧ (bench.watch 1).inh = false) ∧
    ((bench.watch 1).rung = 0 ∧ (bench.ctx (bench.watch 1).ctx).cvec = 0) ∧
    (let s := { benchD (4 * 2 ^ 128) with next := 2 }
     (s.watch 1).rung = 0 ∧ (s.ctx (s.watch 1).ctx).cvec ≠ 0 ∧ (Tbl.find s.watches 1).isSome ∧ 1 ≠ s.next) := by decide +kernel

/-! ## Witnesses: the engines -/

/-- An engine command of the bench's watch that waits to be accepted, number 5. -/
def waiting (maj : Nat) (c : Cmd) : Op := { id := 5, kind := .engine, paths := [9], cmd := { c with maj := maj } }
def withOp (o : Op) (s : State) : State := s.setW { s.cw with ops := [o] }

/-- Whether it waits there (Spec.Waits). -/
def waits (s : State) (maj : Nat) (o : Op) : Bool :=
  decide (Tbl.find s.watches 1 = some s.cw ∧ s.cw.op 5 = some o ∧ o.done = false ∧ o.kind = .engine ∧ o.cmd.maj = maj)

/-- A copy accepted by core 0's engine, its descriptor the bench's. -/
def copying (rows : Word) (j : Job → Job) : Job := j { id := 9, w := 1, ctx := 1, cmd := { maj := 0x30, a := plain 64, desc := copyDesc rows } }

theorem witness_EnginesMoveBytes_locks :
    (let s := benchP.modColumn 0 fun c => { c with locks := [{ ctx := 1, tag := 1, lo := 0, hi := 32, write := true }] }
     s.locksFree [(0, { ctx := 1, tag := 1, lo := 31, hi := 33 })] = false ∧ s.locksFree [(0, { ctx := 1, tag := 1, lo := 32, hi := 33 })] = true) ∧
    (let s := benchCmd 64 [] 0; s.readN (memKey .plain 1 0 0) 16 = Spec.object 1 1 0 0 0xAB01) := by decide +kernel

theorem witness_EnginesMoveBytes_accepts :
    let o := waiting 0x30 { a := plain 64, desc := copyDesc 1 }
    let s := withOp o (benchCmd 64 (copyDesc 1) 0)
    let full := s.modCore 0 fun c => { c with copies := List.replicate 16 {} }
    let late := withOp { o with ripe := 2 } (s.modColumn 0 fun c => { c with locks := [{ ctx := 1, tag := 1, lo := 1024, hi := 1056, write := true }] })
    waits s 0x30 o = true ∧ (s.core 0).copies.length < 16 ∧ s.locksFree (s.copyLocks (s.jobOf 1 s.cw o)) = true ∧
      s.outranked 1 s.cw o = false ∧ s.nolkdRanges 0x30 (s.jobOf 1 s.cw o) = [] ∧
      waits full 0x30 o = true ∧ 16 ≤ (full.core 0).copies.length ∧ late.locksFree (late.copyLocks (late.jobOf 1 late.cw o)) = false := by decide +kernel

/-- A copy of n bytes in core 0's engine, and the bench with it. -/
def small (n : Word) (f : Job → Job) : Job :=
  f { id := 9, w := 1, ctx := 1, cmd := { maj := 0x30, a := plain 64, desc := (copyDesc 1).set 3 (1 + n <<< 16 + 3 <<< 36) } }
def benchCopy (j : Job) (s : State) : State := s.modCore 0 fun c => { c with copies := [j] }

/-- The hypotheses on a sector of it that Spec.CopiesMoveTheirBytes names: 1 it is written, 2 it waits for a range, 3 a fault, 4 a page. -/
def sectorForm (s : State) (j : Job) : Nat :=
  match (sectorsOf (s.moves j))[j.step]? with
  | none => 0
  | some sec =>
    let mine := (s.moves j).filter fun m => m.dst.sector == sec
    let src := (mine.filterMap (·.src)).filter fun p => (Tbl.find j.reads p.sectorNo).isNone
    match (s.firstXres j false src).or (s.firstXres j true (mine.map (·.dst))) with
    | none => if src.any (s.placeLocked j false) || mine.any fun m => s.placeLocked j true m.dst then 2 else 1
    | some (_, .fault _) => 3
    | some (_, .nonres) => 4
    | some _ => 5

theorem witness_EnginesMoveBytes_copies :
    (let j := small 1 id
     let s := benchCopy j (coded 4096 [1] benchP)
     let t := benchCopy j ((coded 4096 [1] benchP).modColumn 0 fun c => { c with locks := [{ ctx := 1, tag := 0, lo := 4096, hi := 4128, write := true, owner := 8 }] })
     (s.core 0).copies[0]? = some j ∧ j.fail = 0 ∧ cdForm j.cmd.desc = 3 ∧ (sectorsOf (s.moves j)).length = 1 ∧ s.hostAcks = [] ∧ sectorForm s j = 1 ∧
       sectorForm t j = 2 ∧ sectorForm (benchCopy j (benchP.modCtx 1 fun c => { c with holes := [0] })) j = 3 ∧ s.waits = [] ∧
       s.lockWaits 9 1 (s.jobCol j j.cmd.a) 1 (offOf j.cmd.a + 56) 8 true = false) ∧
    (let j := small 1 fun j => { j with cmd := { j.cmd with desc := j.cmd.desc.set 0 0xFFC0001000000 } }; sectorForm (benchCopy j (benchP.writeN (memKey .slice 0 0 4104) 8 0x8003)) j = 4) ∧
    (let j := small 1 fun j => { j with fail := 3 }; j.fail ≠ 0) ∧
    (let j := small 1 fun j => { j with step := 1 }
     let s := benchCopy j benchP
     (s.core 0).copies[0]? = some j ∧ (sectorsOf (s.moves j)).length ≤ j.step) ∧
    (cdForm (small 0 id).cmd.desc = 3 ∧ cdForm (copyDesc 1 |>.set 3 0) = 0 ∧ cdForm (copyDesc 1 |>.set 3 (1 <<< 36)) = 1 ∧
      cdForm (copyDesc 1 |>.set 3 (2 <<< 36)) = 2) := by decide +kernel

theorem witness_EnginesMoveBytes_wloads :
    (let o := waiting 0x31 { a := plain 0, extra := [1, 0, 0, 0, 4, 0] }
     let s := withOp o benchP
     let j := { s.jobOf 1 s.cw o with ord := 0 }
     let t := s.modColumn 0 fun c => { c with locks := [{ ctx := 1, tag := 1, lo := 0, hi := 32, write := true }] }
     waits s 0x31 o = true ∧ s.locksFree j.wloadLock = true ∧ t.locksFree j.wloadLock = false) ∧
    (let j : Job := { id := 9, ctx := 1, cmd := { maj := 0x31, extra := [1, 0, 0, 0, 4, 0] } }
     let s := benchP.modCore 0 fun c => { c with wloads := [j], matNext := 1 }
     (s.core 0).wloads[0]? = some j ∧ j.fail = 0 ∧ s.wloadReady 0 j = true ∧ j.step < 4) ∧
    (let j : Job := { id := 9, ctx := 1, ord := 1, cmd := { maj := 0x31, extra := [1, 0, 0, 0, 4, 0] } }
     let s := benchP.modCore 0 fun c => { c with wloads := [{ j with id := 8, ord := 0 }, j], matNext := 2 }
     s.wloadReady 0 j = false) ∧
    (let j : Job := { id := 9, ctx := 1, step := 4, cmd := { maj := 0x31, extra := [1, 0, 0, 0, 4, 0] } }; j.fail = 0 ∧ 4 ≤ j.step) := by
  decide +kernel

/-- A census of context 1 for key 7 (10 R292), and the bench with it. -/
def census (f : Census → Census) : Census := f { n := 0, key := 7, set := [0], pending := [0], job := { ctx := 1, cmd := { obj := some (memKey .plain 1 0 0) } } }
def benchCensus (f : Census → Census) : State := benchP.modCtx 1 fun k => { k with censuses := [census f], nextCensus := 1 }

/-- An entry of core 0's directory. -/
def entry (i : Nat) (e : Nat) (s : State) : State := s.writeN (memKey .dir 1 0 (32 * i)) 32 e

theorem witness_CensusesAndAuctionsRun_solic :
    (let o := waiting 0x33 { a := 7, extra := [0, 0, 0] }
     let s := withOp o benchP
     let t := s.modCtx 1 fun k => { k with censuses := List.replicate 64 {} }
     waits s 0x33 o = true ∧ (Tbl.find s.ctxs s.cw.ctx).isSome ∧ (s.ctx 1).censuses.length < 64 ∧ waits t 0x33 o = true ∧
       64 ≤ (t.ctx 1).censuses.length) ∧
    (let s := benchCensus id
     (Tbl.find s.ctxs 1).isSome ∧ (s.ctx 1).censuses.find? (fun c => c.n == 0) = some (census id) ∧ 0 ∈ (census id).pending ∧ 1 ∉ (census id).pending ∧
       (s.ctx 1).dirCol 0 = some 0 ∧ (s.ctx 1).pcnLive ((s.ctx 1).lcn 0) ≠ none) ∧
    (let s := (benchCensus id).modCtx 1 fun k => { k with holes := [(k.lcn 0)] }
     (s.ctx 1).dirCol 0 = some 0 → (s.ctx 1).pcnLive ((s.ctx 1).lcn 0) = none) ∧
    ((benchCensus id).ctx 1).dirCol 5 = none ∧
    (let s := entry 3 (7 + 2 ^ 48) (benchCensus id)
     deState (s.dirWord 1 0 3) = 1 ∧ deKey (s.dirWord 1 0 3) = 7 ∧ Tbl.getD (s.ctx 1).stamps (0 * 256 + 3) 0 ≤ 0 ∧
       ∀ k, k < 3 → deState (s.dirWord 1 0 k) ≠ 1) ∧
    (let s := entry 2 (7 + 2 * 2 ^ 48) (benchCensus id)
     deState (s.dirWord 1 0 2) = 2 ∧ deKey (s.dirWord 1 0 2) = 7 ∧ ∀ k, k < 256 → deState (s.dirWord 1 0 k) ≠ 1) ∧
    (let c := census fun c => { c with pending := [], replies := [(0, 5), (1, 6)], lost := 1 }
     c.pending = [] ∧ c.spawns = [] ∧ c.running = [] ∧ c.job.cmd.obj = some (memKey .plain 1 0 0)) ∧
    (census fun c => { c with fold := 2, replies := [(0, 5), (1, 6)] }).replies ≠ [] := by decide +kernel

theorem witness_CensusesAndAuctionsRun_responder :
    let c := census fun c => { c with pending := [], spawns := [{ core := 0, index := 3 }], job := { c.job with launch := 1 } }
    let s := inLaunch [(9, 1 + 1 <<< 14)] ((benchCensus fun _ => c).modLayout 1 0 fun _ => {})
    let s := { s with launches := [(1, { launchOf [(9, 1 + 1 <<< 14)] with cores := [(0, 0)] })] }
    let l := s.launch c.job.launch
    (Tbl.find s.ctxs 1).isSome ∧ (s.ctx 1).censuses.find? (fun c => c.n == 0) = some c ∧ c.spawns.find? (fun p => p.core == 0) = some { core := 0, index := 3 } ∧
      s.runsOn 1 0 = true ∧ Tbl.find l.cores 0 = some 0 ∧
      (s.fitIn (s.residents 0) 1 0 l.scratch l.xwin l.width (l.roleAllot c.role) (colSets l.width)) = some (1, 0) := by decide +kernel

theorem witness_CensusesAndAuctionsRun_ack :
    (let o : Op := { id := 5, kind := .atom, stamp := 2 }
     let s := withOp o (benchCensus id)
     Tbl.find s.watches 1 = some s.cw ∧ s.cw.op 5 = some o ∧ o.done = false ∧ o.stamp ≠ 0 ∧ ∃ c ∈ (s.ctx 1).censuses, c.n + 1 < o.stamp) ∧
    (let o : Op := { id := 5, kind := .atom, stamp := 1 }
     let s := withOp o (benchCensus id)
     o.stamp ≠ 0 ∧ ∀ c ∈ (s.ctx 1).censuses, o.stamp ≤ c.n + 1) := by decide +kernel

theorem witness_CensusesAndAuctionsRun_auct :
    (let o := waiting 0x34 { a := plain 64, desc := auctDesc 1 }
     let s := withOp o (benchCmd 64 (auctDesc 1) 0)
     let t := s.modCluster 0 fun c => { c with auct := [{}, {}, {}, {}] }
     waits s 0x34 o = true ∧ (s.cluster 0).auct.length < 4 ∧ s.locksFree (s.auctLocks (s.jobOf 1 s.cw o)) = true ∧ 4 ≤ (t.cluster 0).auct.length) ∧
    (let j : Job := { id := 9, ctx := 1, cmd := { maj := 0x34, a := plain 64, desc := auctDesc 1 } }
     let s := benchP.modCluster 0 fun c => { c with auct := [j] }
     (s.cluster 0).auct = j :: [] ∧ j.step = 0 ∧ j.fail = 0 ∧ { j with step := 1, work := [1, 1, 0] }.work = [1, 1, 0]) := by decide +kernel

/-! ## Witnesses: the launch scheduler -/

/-- Graph 12 of context 1 with n nodes at 0x100000, its parameter area of 8 bytes at 0x200000 (11 R310). -/
def graphAt (n busy runs : Nat) (s : State) : State :=
  s.writeN (graphKey 12) 16 (1 + busy <<< 1 + (n - 1) <<< 2 + 1 <<< 16 + 0x100000 <<< 32 + 0x200000 <<< 64 + 8 <<< 86 + runs <<< 104)

/-- Hardware queue 0 of die 0 of context 1, active, its ring of two entries at 0x300000 (11 R316). -/
def queueAt (hd tl : Nat) (s : State) : State :=
  s.writeN (queueKey 0 0) 20 (0x300000 + 1 <<< 22 + 1 <<< 32 + 1 <<< 48 + hd <<< 64 + tl <<< 96)

/-- Its ring's entry. -/
def ringAt (i e : Nat) (s : State) : State := s.writeN (schedKey 0 (0x300000 + 16 * i)) 16 e

theorem witness_HeadsAndRecordsAreServed_trigger :
    (let o := waiting 0x37 { extra := [12], desc := [0, 7] }
     let s := withOp o (graphAt 1 0 0 bench)
     let t := s.modDie 0 fun d => { d with fifo := List.replicate 256 {} }
     waits s 0x37 o = true ∧ (s.die (graphDie 12)).fifo.length < 256 ∧ waits t 0x37 o = true ∧ 256 ≤ (t.die (graphDie 12)).fifo.length) ∧
    (bench.queueActive 0 0 = false ∧ (queueAt 3 3 bench).readN (queueKey 0 0 + 8) 4 = (queueAt 3 3 bench).readN (queueKey 0 0 + 12) 4) ∧
    (let s := ringAt 1 12 (queueAt 3 4 (graphAt 1 0 0 bench))
     s.queueActive 0 0 = true ∧ s.readN (queueKey 0 0 + 8) 4 ≠ s.readN (queueKey 0 0 + 12) 4 ∧ s.readN (schedKey 0 (0x300000 + 16 * (3 % 2 ^ 1))) 16 = 12 ∧
       s.triggerOk 12 (s.queueCtx 0 0) 0 [] = true ∧ (s.die (graphDie 12)).fifo.length < 256) ∧
    (let s := ringAt 1 13 (queueAt 3 4 bench)
     s.queueActive 0 0 = true ∧ s.triggerOk 13 (s.queueCtx 0 0) 0 [] = false) ∧
    (let s := ringAt 1 12 (queueAt 3 4 (graphAt 1 0 0 (bench.modDie 0 fun d => { d with fifo := List.replicate 256 {} })))
     s.triggerOk 12 (s.queueCtx 0 0) 0 [] = true ∧ 256 ≤ (s.die (graphDie 12)).fifo.length) := by decide +kernel

theorem witness_RunsStartAndComplete_start :
    (let s := (graphAt 2 1 0 bench).modDie 0 fun d => { d with fifo := [{ graph := 12, ctx := 1 }] }
     ∀ t ∈ (s.die 0).fifo, geBusy (s.graphEntry t.graph) = true) ∧
    (let t : Trig := { graph := 12, ctx := 1, patch := [0, 7] }
     let s := (graphAt 2 0 0 bench).modDie 0 fun d => { d with fifo := [{ graph := 12, ctx := 1, patch := [0, 7] }] }
     let e := s.graphEntry 12
     (s.die 0).fifo.find? (fun t => !geBusy (s.graphEntry t.graph)) = some t ∧ geNodes e = 2 ∧
       ∀ i, i < 2 → schedKey 0 (geBase e + 256 * i + 192) + 64 ≤ graphKey 12 ∨ graphKey 12 + 16 ≤ schedKey 0 (geBase e + 256 * i + 192)) := by
  decide +kernel

/-- A launch of one block of one watch with a layout of 1,024 bytes, a node of graph 12 (02 R63, R64; 11 R311), with further words. -/
def nodeOf (l : List (Nat × Word)) (f : Launch → Launch) : Launch :=
  f { launchOf (l ++ ([(0, 0x4F4D4631), (1, 1024 + 8 <<< 32), (4, 0xFFC0000000000), (5, 1), (9, 1 + 1 <<< 8)] : List (Nat × Word))) with graph := 12, base := 0x100000 }

/-- The bench without a watch, with that launch as number 1 at the head of queue 0, and a run of graph 12 in progress. -/
def benchNode (l : Launch) : State :=
  let s := graphAt 1 1 255 (queueAt 3 3 { benchP with watches := [], launches := [(1, l)], next := 2 })
  s.modDie 0 fun d => { d with places := [(0, [1])], running := [(12, 0)] }

theorem witness_RunsStartAndComplete_nodes :
    (let l := nodeOf [] fun l => { l with blocks := 1, placed := [0] }
     let s := benchNode l
     Tbl.find s.launches 1 = some l ∧ s.launchBusy 1 l = false ∧ l.kind ≠ 2 ∧ l.failed = false) ∧
    (let l := nodeOf [] fun l => { l with failed := true }; (benchNode l).launchBusy 1 l = false ∧ l.failed = true) ∧
    (let l := nodeOf [] id; (benchNode l).launchBusy 1 l = true) ∧
    (let s := (benchNode (nodeOf [] id)).writeN (schedKey 0 (0x100000 + 194)) 2 1
     s.readN (schedKey 0 (geBase (s.graphEntry 12) + 256 * 0 + 192) + 2) 2 % 4096 ≠ 0 ∧
       (benchNode (nodeOf [] id)).readN (schedKey 0 (0x100000 + 194)) 2 % 4096 = 0) ∧
    (let s := { benchNode (nodeOf [] id) with launches := [] }
     let t := s.writeN (schedKey 0 (0x100000 + 192)) 1 4
     Tbl.find (s.die 0).running 12 = some 0 ∧ (∀ l ∈ t.launches, l.2.graph ≠ 12) ∧ geNodes (t.graphEntry 12) = 1 ∧
       t.readN (schedKey 0 (geBase (t.graphEntry 12) + 256 * 0 + 192)) 1 % 8 = 4 ∧ s.readN (schedKey 0 (geBase (s.graphEntry 12) + 256 * 0 + 192)) 1 % 8 ≠ 4) ∧
    (let s := (benchNode (nodeOf [] id)); (Tbl.find s.launches 1).isSome ∧ (s.launches.map (·.1)).Nodup ∧
      (nodeOf [] fun l => { l with placed := [0] }).placed ≠ []) := by decide +kernel

theorem witness_HeadsAndRecordsAreServed_heads :
    (let s := benchNode (nodeOf [] id)
     s.headOf 0 0 = some 1 ∧ (s.launch 1).checked = false ∧ s.nodeCheck 1 (s.launch 1) = none ∧ (s.launch 1).kind = 0 ∧
       s.coschedFails (s.launch 1) = false) ∧
    (let s := benchNode (nodeOf [(6, 1)] id); s.headOf 0 0 = some 1 ∧ s.nodeCheck 1 (s.launch 1) = some 2) ∧
    (let s := benchNode (nodeOf [(0, 0x4F4D4631 + 1 <<< 36), (5, 8192)] id)
     s.nodeCheck 1 (s.launch 1) = none ∧ s.coschedFails (s.launch 1) = true) ∧
    (let s := benchNode (nodeOf [] fun l => { l with checked := true })
     s.serve 0 = some 0 ∧ s.headOf 0 0 = some 1 ∧ (s.headPlan 1).isSome ∧ (s.checkHead 0).isNone ∧ ∀ x ∈ s.watches, x.1 < s.next) := by
  decide +kernel

/-- A persistent node of KIND k: its inbox ring of one slot at 0, its object at 32 and HEAD at 64 of the scratchpad, queue 0, GVEC and 2 groups of
at most 40 rows for KIND 2 (11 R311, R327, R331). -/
def inboxNode (k : Word) (a : Word) (f : Launch → Launch) : Launch :=
  nodeOf [(0, 0x4F4D4631 + 1 <<< 36), (16, k <<< 24), (18, 32 + 64 <<< 19), (20, a), (21, if k = 2 then 2 + 40 <<< 16 else 0)] f

theorem witness_HeadsAndRecordsAreServed_vectors :
    (let l := inboxNode 2 4096 id
     let s := coded 4096 [0, 7, 40] (benchNode l)
     s.headOf 0 0 = some 1 ∧ l.kind = 2 ∧ l.vec = [] ∧ s.nodeCheck 1 l = none ∧ (s.ctx 1).pcnLive 0 = some 0 ∧ l.gnum = 2 ∧
       (∀ i, i ≤ 2 → s.engineXlate 1 0 (4096 + 4 * i) false = .ok (memKey .slice 0 0 (64 * 2 ^ 18 + 4096 + 4 * i)) false) ∧
       (∀ i, i ≤ 2 → s.readN (memKey .slice 0 0 (64 * 2 ^ 18 + 4096 + 4 * i)) 4 ≤ l.grows)) ∧
    (let l := inboxNode 2 4096 id
     let s := coded 4096 [0, 41, 40] (benchNode l)
     l.grows < s.readN (memKey .slice 0 0 (64 * 2 ^ 18 + 4096 + 4)) 4) ∧
    (let l := inboxNode 2 (3 * 2 ^ 42) id
     let s := (benchNode l).modCtx 1 fun c => { c with holes := [3] }
     s.headOf 0 0 = some 1 ∧ s.nodeCheck 1 l = none ∧ (s.ctx 1).pcnLive 3 = none) ∧
    (let l := inboxNode 2 0x1000000 id
     let s := (benchNode l).writeN (memKey .slice 0 0 4104) 8 0
     s.nodeCheck 1 l = none ∧
       (match s.engineXlate 1 0 0x1000000 false with
         | .fault _ => true
         | _ => false) = true) := by decide +kernel

theorem witness_HeadsAndRecordsAreServed_params :
    let l := nodeOf [] fun l => { l with cores := [(0, 1)], placed := [0], blocks := 1 }
    let s := benchNode l
    (Tbl.find s.launches 1).isSome ∧ s.paramDue 1 0 l = true ∧ l.failed = false ∧ s.runsOn 1 0 = true ∧ s.paramDue 1 5 l = false ∧ l.paramSz / 8 = 1 ∧
      (∀ p, p < 4 → s.engineXlate 1 p 0 true = .ok (memKey .slice 0 p (64 * 2 ^ 18)) false) := by decide +kernel

/-- The bench with a REC to queue 0 waiting, the queue bound to node 1 of a KIND, and its counts. -/
def benchRec (k : Word) (r : RecQ) (f : Launch → Launch) : State :=
  (withOp (waiting 0x36 { extra := [0], desc := [32 <<< 16, 0, 0, 0] })
    { benchP with launches := [(1, inboxNode k 0 f)], next := 2 }).modDie 0 fun d => { d with recqs := [(0, r)] }

theorem witness_HeadsAndRecordsAreServed_records :
    (let s := benchRec 1 { bound := some 1 } id
     waits s 0x36 (waiting 0x36 { extra := [0], desc := [32 <<< 16, 0, 0, 0] }) = true ∧ (s.recq 0).bound = some 1 ∧ (s.launch 1).ctx = s.cw.ctx ∧
       (s.recq 0).closed = false ∧ (s.launch 1).kind = 1) ∧
    ((benchRec 1 {} id).recq 0).bound = none ∧ ((benchRec 1 { bound := some 1 } fun l => { l with ctx := 2 }).launch 1).ctx ≠ 1 ∧
    ((benchRec 2 { bound := some 1 } id).launch 1).kind ≠ 1 ∧ 1024 ≤ ((benchRec 1 { bound := some 1, appended := 1024 } id).recq 0).appended := by
  decide +kernel

/-- The bench with a record of `rows` rows waiting in queue 0, and block 0 of its node at home in column 0, its HEAD word 0. -/
def benchTake (v : Nat) (f : Launch → Launch) : State :=
  ((benchRec 1 { bound := some 1, appended := 1 } fun l => f { l with placed := [0], homes := [(0, 0)], tails := [(0, 0)] }).writeN (recKey 0 0) 32
    v).writeN (plainKey 1 0 64) 8 0

theorem witness_HeadsAndRecordsAreServed_deliveries :
    (let s := benchTake 0 id
     (s.recq 0).bound = some 1 ∧ (s.recq 0).taken < (s.recq 0).appended ∧ s.readN (recKey 0 (s.recq 0).taken) 32 / 2 ^ 16 % 2 ^ 6 = 0) ∧
    (let s := benchTake (32 <<< 16) id
     let v := s.readN (recKey 0 (s.recq 0).taken) 32
     v / 2 ^ 16 % 2 ^ 6 = 32 ∧ v.testBit 26 = false ∧ s.eligibleBlocks (s.launch 1) v = [0] ∧ s.slotFree (s.launch 1) 0 = true) ∧
    (let s := benchTake (32 <<< 16) fun l => { l with tails := [(0, 1)] }
     s.slotFree (s.launch 1) 0 = false) ∧
    (let s := benchTake 0 fun l => { l with closing := [0] }
     (s.recq 0).bound = some 1 ∧ 0 ∈ (s.launch 1).closing ∧ s.slotFree (s.launch 1) 0 = true ∧ 1 ∉ (s.launch 1).closing ∧
       Tbl.find s.launches 1 = some (s.launch 1) ∧ (s.launch 1).kind = 1) ∧
    (benchP.recq 0).bound = none := by decide +kernel

/-! ## Witnesses: the package -/

/-- The bench with its link trained (14 R376), and die 0 changed. -/
def benchLink (f : Die → Die) : State := { benchP.modDie 0 f with linkUp := true }

theorem witness_HostWindowsAndMailbox_triggers :
    (State.reset.linkUp = false ∧ (benchLink id).linkUp = true) ∧
    (let s := graphAt 1 0 0 (benchLink id)
     let z := 12
     z / 2 ^ 12 % 2 ^ 4 = 0 ∧ z / 2 ^ 23 % 2 = 0 ∧ z / 2 ^ 46 = 0 ∧ z / 2 ^ 11 % 2 = 0 ∧ z / 2 ^ 16 % 2 ^ 7 = 0 ∧
       (Tbl.find s.ctxs (geCtx (s.graphEntry 12))).isSome ∧ s.triggerOk 12 (geCtx (s.graphEntry 12)) 0 [] = true ∧ (s.die 0).fifo.length < 256) ∧
    (1 <<< 12 / 2 ^ 12 % 2 ^ 4 ≠ 0) ∧
    (let s := (queueAt 3 3 (benchLink id)).modCtx 1 fun c => { c with out := true }
     s.queueCtx 0 0 = 1 ∧ (Tbl.find s.ctxs 1).isSome ∧ s.leaving 1 = true ∧ (queueAt 3 3 (benchLink id)).leaving 1 = false) := by decide +kernel

theorem witness_HostWindowsAndMailbox_events :
    ((3 < 4 ∨ 12 < 3) ∧ 4 ≤ 12 ∧ 13 % 16 = 13) ∧
    (let s := benchLink fun d => { d with evctl := 0x14, evtail := 0xFFFFFFFF, evhead := 0xFFFFFFF0, events := [{ words := [1, 2] }] }
     let d := s.die 0
     d.events = { words := [1, 2] } :: [] ∧ d.evctl.getLsbD 4 = true ∧ (d.evtail - d.evhead).toNat < 2 ^ (d.evctl.extractLsb' 0 4).toNat) ∧
    (let s := benchLink fun d => { d with evctl := 0x14, evtail := 16 }
     let d := s.die 0
     ¬(d.evtail - d.evhead).toNat < 2 ^ (d.evctl.extractLsb' 0 4).toNat) := by decide +kernel

theorem witness_HostWindowsAndMailbox_windows :
    (let s := { benchLink id with enmon := { hlock := [15], hrange := List.replicate 16 (0, 0x80000) } }
     let cur := s.hrangeOf 15
     15 < 16 ∧ (0x40000 : Word).toNat % 2 ^ 18 = 0 ∧ 15 ∈ s.enmon.hlock ∧ cur.1.toNat ≤ (0x40000 : Word).toNat ∧ (0x80000 : Word).toNat ≤ cur.2.toNat ∧
       ¬((0xC0000 : Word).toNat ≤ cur.2.toNat) ∧ 14 ∉ s.enmon.hlock) ∧
    (0x7FF8 % 8 = 0 ∧ 0x7FF8 < 0x8000) ∧ (0x8000 % 8 = 0 ∧ 0x8000 % 64 < 8 ∧ 0x8FC4 % 4 = 0 ∧ 0x8FC4 % 64 < 8) ∧ (0x9000 % 8 = 0 ∧ 0x14FFF8 < 0x150000) ∧
    (0x3FFFF8 + 8 ≤ 2 ^ 22 ∧ 0x3FFFF8 % 8 = 0) ∧ (0x20 % 8 = 0 ∧ 0x24 < 0x28) ∧ (0xB8 % 8 = 0 ∧ 0xB8 < 0xC0) ∧ ((benchLink id).die 0).mbdata.length = 8 ∧
    3 % 2 ≠ 0 := by decide +kernel

theorem witness_HostWindowsAndMailbox_mailbox :
    (let s := benchLink id
     s.linkUp = true ∧ (s.die 0).mbstat.getLsbD 0 = false ∧ Tbl.find s.ctxs 5 = none ∧ (Tbl.find s.ctxs 1).isSome ∧ (s.ctx 1).rung = none ∧
       s.hostWaits 1 ((s.die 0).mbdata.headD 0) = []) ∧
    ((benchLink fun d => { d with mbstat := 1 }).die 0).mbstat.getLsbD 0 = true ∧
    (let s := (benchLink id).modCtx 1 fun c => { c with rung := some 2 }; (s.ctx 1).saveInc = false ∧ (s.ctx 1).rung ≠ none) ∧
    (let s := { tableAt [(0, 0, down 1 false), (1, 1, leafOn 19 64)] with waits := [{ ctx := 1, off := 2 ^ 24 }], linkUp := true }
     s.hostWaits 1 ((s.die 0).mbdata.headD 0) ≠ []) := by decide +kernel

theorem witness_HostWindowsAndMailbox_create :
    (let s := { benchLink id with stackBits := 1, parts := Vector.ofFn fun i => if i.val = 0 then 1#64 else 0 }
     let d := BitVec.ofNat 512 ((s.die 0).mbdata.foldr (fun w n => w.toNat + 2 ^ 64 * n) 0)
     descBad d = false ∧ 0 ∈ s.columnsFor 0 ∧ Tbl.find s.ctxs 2 = none ∧ (Tbl.find s.ctxs 1).isSome) ∧
    descBad (4 * 2 ^ 192) = true ∧ descBad (1024 * 2 ^ 192) = false ∧ (1 ≠ 0) := by decide +kernel

theorem witness_EnmonServesAndResets_tables :
    ((∀ i, i < 8 → i ≠ 0 → State.reset.parts[i]?.getD 0 &&& 1 = 0) ∧ State.reset.ctxs = []) ∧
    (State.reset.parts[0]?.getD 0 &&& 1 ≠ 0) ∧ (1 : BitVec 16) ≠ 0 ∧ (1 : BitVec 16) ≠ 0xFFFF ∧ (255 < 256 ∧ 3 < 4) ∧
    (let e : Enmon := { log := [[1], [2]], logBase := 7 }; e.logBase ≤ 8 ∧ e.log[8 - e.logBase]? = some [2] ∧ e.logBase + e.log.length ≤ 9 ∧ 6 < e.logBase) := by
  decide +kernel

theorem witness_EnmonServesAndResets_images :
    (let s := { State.reset with enmon := { pending := [0, 2] } }
     s.enmon.pending.Nodup ∧ 2 ∈ s.enmon.pending ∧ ¬(true = true ∧ 2 = 0) ∧ 1 ∉ s.enmon.pending ∧ s.enmon.bank 0 ≤ 1) ∧
    (400 ≤ 1200 ∧ 1200 ≤ 2000 ∧ 63 < 64 ∧ 2000 < 2001 ∧ 399 < 400 ∧ State.reset.phase 0 ≠ 4 ∧ 1200 < 1201) := by decide +kernel

theorem witness_EnmonServesAndResets_resets :
    (let s := { State.reset with enmon := { running := true } }; s.enmon.running = true ∧ s.linkUp = false ∧ s.modules ≠ []) ∧
    ((benchLink id).linkUp = true ∧ (benchLink id).stackBits.getLsbD 7 = false ∧ (benchLink id).stackBits.getLsbD (8 + 7) = false) ∧
    (3 ∈ State.reset.modules ∧ (∃ x ∈ State.reset.modules, x ≠ 3) ∧ 4 ∉ State.reset.modules) ∧
    (let s := { State.reset with modules := [3] }; 3 ∈ s.modules ∧ ∀ x ∈ s.modules, x = 3) := by decide +kernel

/-! ## Witnesses: collectives and Beam -/

/-- An arrival of the bench's watch for group 9 and operation op, and the bench with group 9 and those arrivals. -/
def arrival (op : BitVec 6) : CollArr := { group := 9, crew := 3, w := 1, min_ := op, obj := memKey .plain 1 0 0 }
def benchColl (l : List CollArr) (members : List Member) : State :=
  ((benchGroup true).setCrew 1 3 { members := members, cols := [0] }).modCtx 1 fun c => { c with colls := l }

/-- The hypotheses of Spec.AllArrived: 0 no arrival, 1 a member is missing, 2 an arrival of another crew, 3 all have arrived. -/
def arrivedForm (s : State) (c g : Nat) : Nat :=
  let arrs := takeArrivals g (s.ctx 1).colls
  if arrs.isEmpty then 0 else if arrs.any fun a => a.crew != c then 2
  else if ((s.crew 1 c).getD {}).members.any fun m => !m.faulted && !arrs.any fun a => a.w == m.w then 1 else 3

theorem witness_GroupsAreDefinedAndReleased_lastArrival :
    ([(benchColl [] [mine false], 0), (benchColl [arrival 0] [mine false, { w := 2 }], 1), (benchColl [{ arrival 0 with crew := 4 }] [mine false], 2),
        (benchColl [arrival 0] [mine false], 3), (benchColl [arrival 0] [mine false, { w := 2, faulted := true, arrived := true }], 3)].all fun x =>
      arrivedForm x.1 3 9 == x.2 && (Tbl.find x.1.ctxs 1).isSome && (x.1.crew 1 3).any (fun y => y.members.any fun m => !m.arrived && !m.faulted)) = true ∧
    (let s := benchColl [arrival 0] [mine false]
     (∀ a ∈ (s.ctx 1).colls, a ∈ takeArrivals 9 (s.ctx 1).colls) ∧ s.crew 1 4 = none ∧ gdNest (s.group 1 9).desc = false ∧
       runCode (s.group 1 9) [arrival 0] (s.groupPath 1 (s.group 1 9).desc) [some 0] 0 = 0 ∧
       runCode (s.group 1 9) [arrival 0] (s.groupPath 1 (s.group 1 9).desc) [none] 0 = 2 ∧
       runCode (s.group 1 9) [{ arrival 0 with bad := 3 }] (s.groupPath 1 (s.group 1 9).desc) [some 0] 0 = 3) := by decide +kernel

/-- The bench with the run that the last arrival has started. -/
def benchStart : State :=
  let s := benchColl [arrival 0] [mine false]
  s.startColl 1 3 ((s.crew 1 3).getD {}) 9

/-- The hypotheses of Spec.RunsOfGroupsStart on the first run that waits: 0 it has ended, 1 its ranges, 2 a Tender, 3 one before it, 4 it goes. -/
def startForm (s : State) : Nat :=
  match s.starts with
  | [] => 9
  | r :: _ => if !s.runGoes r then 0 else if !s.locksFree r.locks then 1 else if r.strands.any fun x => decide (64 ≤ s.queuedOn (tenderOf x.col)) then 2
    else if s.runOutranked r then 3 else 4

theorem witness_CollectiveRunsMove_start :
    (let s := benchStart
     let old := (s.starts.map fun r => { r with id := 77, ripe := 2, group := 8 })
     (benchColl [] [mine false]).starts = [] ∧ s.starts.length = 1 ∧ s.early = [] ∧ (s.starts.all fun r => r.ctx == 1 && r.group == 9) = true ∧
       startForm s = 4 ∧ startForm { s with starts := s.starts.map fun r => { r with code := 2 } } = 0 ∧
       startForm ({ s with columns := [] }.modColumn 0 fun c => { c with locks := List.replicate 32 {} }) = 1 ∧
       startForm { s with starts := (s.starts.map fun r => { r with ripe := 9 }) ++ old } = 3) := by decide +kernel

/-- Two ranks of one strand on column 0, this one rank 0, and the bench with that run, its turn, and its program. -/
def runOn (f : Run → Run) (g : Strand → Strand) : Run :=
  f { id := 5, ctx := 1, group := 9, op := 6, desc := groupDesc 1, members := [arrival 6], peers := [(1, 0), (2, 0)], nrank := 2, strands := [g { pc := 1 }] }
def benchRun (f : Run → Run) (g : Strand → Strand) : State :=
  { benchColl [] [mine false] with runs := [runOn f g], strand := (5, 0), next := 9, address := 1 }

theorem witness_CollectiveRunsMove_complete :
    benchP.runOf 5 = none ∧
    (let s := benchRun id id
     s.runOf 5 = some (runOn id id) ∧ s.runGoes (runOn id id) = true ∧ ∃ x ∈ (runOn id id).strands, x.ended = false) ∧
    (let r := runOn id fun x => { x with ended := true }
     (benchRun id fun x => { x with ended := true }).runOf 5 = some r ∧ ∀ x ∈ r.strands, x.ended = true) ∧
    (let r := runOn id fun x => { x with code := 10 }; (benchRun id fun x => { x with code := 10 }).runGoes r = false) := by decide +kernel

theorem witness_CollectiveRunsMove_words :
    (let s := benchRun id id
     s.strand = (5, 0) ∧ s.runOf 5 = some (runOn id id) ∧ (runOn id id).strands[0]? = some ({ pc := 1 } : Strand) ∧ s.runGoes (runOn id id) = true) ∧
    ((((0 : Nat) : Int) + (1 : B16).toInt) % ((2 : Nat) : Int)).toNat = 1 ∧ ((((0 : Nat) : Int) + (0xFFFE : B16).toInt) % ((2 : Nat) : Int)).toNat = 0 ∧
    (let a : Act := { op := 0, ch := 15, ck := 0, n := 1, peer := 1 }
     (∀ c ∈ a.reads ++ a.writes, c.1 = 16 ∨ c.2.2 ≤ gdNchk (groupDesc 1)) ∧
       ¬(∀ c ∈ { a with n := 2 }.reads ++ { a with n := 2 }.writes, c.1 = 16 ∨ c.2.2 ≤ gdNchk (groupDesc 1))) ∧
    (let a : Act := { op := 1, ch := 3, ck := 0, n := 1, peer := 1 }; a.after { op := 0, ch := 3, ck := 0, n := 1, peer := 1 } = true) ∧
    (let s := benchRun (fun r => { r with desc := [1 <<< 1 + 3 <<< 15 + 2 <<< 32 + 1 <<< 48, 0xFFC0000010000] }) id
     (match s.runOf 5 with
       | some r => (match s.chunkAt r { pc := 1 } 2 0 false, s.chunkAt r { pc := 1 } 3 0 true with
         | .at a, .at b => decide (a + 2048 ≤ b)
         | _, _ => false)
       | none => false) = true) := by decide +kernel

theorem witness_CollectiveRunsMove_control :
    benchP.runOf benchP.strand.1 = none ∧
    (let x : Strand := { sigs := [(7, 3)] }; (3 : B16).toNat ≤ Tbl.getD x.sigs (7 : B16).toNat 0 ∧ Tbl.getD x.sigs (7 : B16).toNat 0 < (4 : B16).toNat) ∧
    (4 ≤ ({ loops := [(1, 0, 2), (1, 0, 2), (1, 0, 2), (1, 0, 2)] } : Strand).loops.length) ∧ (0 + 1 < 2 ∧ 2 ≤ 1 + 1) ∧ 255 < (256 : B16).toNat ∧
    (let r := runOn id id; ∃ q, q < r.nrank ∧ q ≠ r.rank ∧ Tbl.getD ([] : Tbl Nat) q 0 < 0 + 1) ∧
    (let r := runOn id id; ∀ q, q < r.nrank → q ≠ r.rank → 1 ≤ Tbl.getD ([(1, 1)] : Tbl Nat) q 0) := by decide +kernel

/-- A flit of a kind from device 2 to strand 0 of that run, with a payload. -/
def flit (kind : BitVec 4) (f : Flit → Flit) : Flit :=
  let g := f { dst := 1, src := 2, hops := 0, hidx := 0, nhm1 := 0, kind := kind, group := 9, use := 0, run := 0, strand := 0, seq := 0, flit := 0, rsv := false, pay := 0 }
  { g with crc := flitCrc g }

/-- A port receives the flit in order (Spec.InOrder). -/
def inOrder (s : State) (p : Nat) (f : Flit) : Bool := (s.port p).up && f.crc == flitCrc f && f.lseq == BitVec.ofNat 16 (s.port p).expect

theorem witness_BeamCarriesFlits_data :
    (let s := benchRun id id
     let f := flit 0 id
     f.hidx = f.nhm1 ∧ f.dst = s.address ∧ inOrder s 3 f = true ∧ f.rsv = false ∧ (s.flitTarget f).map (fun p => (p.1.id, p.2)) = some (5, 0, 1) ∧
       s.runGoes (runOn id id) = true ∧ s.runOf 5 = some (runOn id id)) ∧
    (let s := benchRun id id; s.flitTarget (flit 2 fun f => { f with run := 1 }) = none ∧ s.flitOld (flit 2 fun f => { f with run := 1 }) = false ∧
      s.flitOld (flit 2 fun f => { f with run := 255 }) = true) ∧
    (let k : Stream := { parts := (List.range 7).map fun n => (0, n, []) }
     ¬(0 < k.done ∨ ∃ c ∈ k.landed, c.1 = 0) ∧ (k.parts.filter fun c => c.1 == 0).length + 1 = 8) ∧
    (let k : Stream := { done := 1 }; 0 < k.done) ∧ (0 : BitVec 2048) ≠ 0x0C ∧
    (grantSig (0 : BitVec 2048) ≠ gdSig (groupDesc 1) ∧ grantSig (BitVec.ofNat 2048 (gdSig (groupDesc 1))) = gdSig (groupDesc 1)) := by decide +kernel

theorem witness_BeamCarriesFlits_ports :
    (let f := flit 0 fun f => { f with nhm1 := 2, hidx := 1, hops := 0x370 }
     f.hidx.toNat < f.nhm1.toNat ∧ f.kind.toNat ≠ 6 ∧ (f.hops.toNat / 2 ^ (4 * (f.hidx.toNat + 1))) % 16 = 3 ∧ inOrder benchP 3 f = true ∧ f.rsv = false ∧ (benchP.port 3).up = true ∧
       ((benchP.modPort 3 fun x => { x with up := false }).port 3).up = false ∧ benchP.notices = []) ∧
    ((flit 6 id).kind.toNat = 6 ∧ inOrder (benchRun id id) 3 (flit 6 id) = true ∧ (flit 6 id).rsv = false ∧ (flit 6 id).dst = (benchRun id id).address ∧ (flit 6 id).dst ≠ 7 ∧
      (flit 6 id).nhm1 = 0 ∧ (flit 6 fun f => { f with nhm1 := 7 }).nhm1 ≠ 0) ∧
    (let y : SentFlit := { seq := 65535, flit := flit 0 id, times := 32 }
     let x : Port := { sent := [y], seq := 0, acked := 65535, lost := 2 }
     x.up = true ∧ x.sent[0]? = some y ∧ (y.seq + 65536 - x.acked) % 65536 < (x.seq + 65536 - x.acked) % 65536 ∧ (∃ z ∈ x.sent.drop 0, 32 ≤ z.times) ∧
       (∀ z ∈ [{ y with times := 31 }], z.times < 32) ∧ ¬((y.seq + 65536 - 0) % 65536 < (x.seq + 65536 - 0) % 65536) ∧ 15 < 16 ∧ x.lost + 2 ≤ 4 ∧
       4 < x.lost + 3) := by decide +kernel

theorem witness_BeamCarriesFlits_late :
    (let f := flit 0 fun f => { f with flit := 7 }
     let r := runOn id fun x => { x with streams := [(1, { done := 1 })] }
     let s := { benchP with past := [r], address := 1, routes := [(12, 1)] }
     (s.pastTarget f).map (fun p => (p.1.id, p.2)) = some (5, 0, 1) ∧ f.flit = 7 ∧ ((r.strand 0).stream 1).landedTo ≠ 0 ∧
       s.streamRoute ((r.strand 0).stream 1) 3 = some (0, 1) ∧ s.streamRoute ((r.strand 0).stream 1) 0 = none ∧ s.pastTarget (flit 0 fun f => { f with run := 1 }) = none) ∧
    (let x : Group := { owed := [{ run := 1, strand := 0, dev := 3, n := 1 }, { run := 0, strand := 0, dev := 2, n := 2 }] }
     let s := benchP.setGroup 1 9 x
     let f := flit 0 fun f => { f with flit := 7 }
     s.pastTarget f = none ∧ (Tbl.find s.ctxs 1).isSome ∧ f.group.toNat = 9 ∧ (s.group 1 9).use = f.use ∧
       (s.group 1 9).owed = [{ run := 1, strand := 0, dev := 3, n := 1 }] ++ { run := 0, strand := 0, dev := 2, n := 2 } :: [] ∧
       ∀ z ∈ (s.group 1 9).owed, z.n ≠ 0) ∧
    (let k : Stream := { route := some (3, 1, 5) }
     k.route = some (3, 1, 5) ∧ (3, 1) ∉ benchP.badRoutes ∧ ({ benchP with badRoutes := [(3, 1)] }.badRoutes) = [(3, 1)] ∧
       ({ benchP with routes := [(13, 1)] }.routeWord 3 1).getLsbD 0 = true ∧ (benchP.routeWord 3 0).getLsbD 0 = false) := by decide +kernel

theorem witness_CollectiveRunsMove_ends :
    (let r := runOn (fun r => { r with code := 2, fstr := 0 }) fun x => { x with streams := [(1, { given := 3, done := 1, landed := [(1, [])] })] }
     let s := benchRun (fun _ => r) id
     r.code ≠ 0 ∧ s.runGoes r = false ∧ (s.group 1 9).use = r.use ∧ (s.group 1 9).use ≠ { r with use := 7 }.use ∧ 1 + ([(1, [])] : List (Nat × List Byte)).length < 3) ∧
    (let c := benchColl [] []; ∃ q ∈ [0], c.queuedOn (tenderOf q) < 64) := by decide +kernel

/-! ## Witnesses: the rest of the array, the step, the encodings -/

/-- The bench's array slot holds this instruction on its first eight rows (07 R207). -/
def holdsMat (i : Instr) : Bool := let x := (benchMat i []).watch 1
  decide ((Tbl.find (benchMat i []).watches 1).isSome ∧ (x.mat.map fun m => (m.instr, m.mask)) = some (i, 0xFF))

theorem witness_MatrixInstructionsArePerformed_rest :
    (let o : LaneOps := ⟨3, false, 1, false, 0, 0, 0, false, 0, 0, 0x1F2⟩
     holdsMat (.tscl o) = true ∧ holdsMat (.tsclPend o) = true ∧ holdsMat (.tsclDivl o) = true ∧ holdsMat (.msoft o) = true ∧
       o.lit.toNat % 8 ≠ o.d.toNat) ∧
    (let o : LaneOps := ⟨3, false, 1, false, 0, 0, 0, false, 0, 0, 0⟩; holdsMat (.tmovVt o) = true ∧ tmC0 o.lit + tmCount o.lit ≤ 64) ∧
    (let o : LaneOps := ⟨3, false, 1, false, 0, 0, 0, false, 0, 0, 0x800000⟩; holdsMat (.tmovTv o) = true ∧ o.lit.getLsbD 23 = true) := by
  decide +kernel

/-- The bench's watch about to execute ADD S3 := S4 + S5 (02 R39), and a LX, with the turn. -/
def benchWord (w : Nat) : State := { State.reset.withFetchWord 96 w with agenda := [.control 0] }

/-- Whether the step of a fragment that a control turn goes through does anything. -/
def does (s : State) (passed : List Nat) (x : Nat × Nat) : Bool :=
  match (s.serveThread x.1 x.2 passed).controlStep with
  | .next t => s.moved t x.1 x.2
  | _ => false

/-- A second watch of core 0 in slot 1, with the code of the first. -/
def benchTwo (f g : Watch → Watch) : State :=
  let s := benchWord 0x00510300
  { s with agenda := [], watches := [(1, f (s.watch 1)), (2, g { s.watch 1 with slot := 1 })] }

theorem witness_AStepRunsTheDecodedInstruction :
    (let s := benchWord 0x00510300
     let v := { s with agenda := [] }
     let u := v.serveThread 1 0 []
     s.agenda = .control 0 :: [] ∧ v.turnsOf 0 false = [(1, 0)] ∧ v.turnsOf 0 true = [] ∧ does v [] (1, 0) = true ∧ Tbl.find s.watches 1 = some (s.watch 1) ∧
       (s.watches.map (·.1)).Nodup ∧ (s.core 0).rr < 32 ∧ (s.watch 1).slot < 32 ∧ (s.watch 1).lastEnt < 8 ∧
       (match u.codeWord ((s.watch 1).entry 0).pc with
         | (.ok _, v) => decide (v = 0x00510300 ∧ lenWords v = 1 ∧ decode v 0 0 = .add 3 4 5)
         | _ => false) = true ∧ u.stalled (.add 3 4 5) = false) ∧
    (let waits := fun (w : Watch) => { w with ops := [{ kind := .sld, paths := [0], d := 4 }] }
     let s := benchTwo waits id
     s.turnsOf 0 false = [(1, 0), (2, 0)] ∧ does s [] (2, 0) = true ∧ does s [] (1, 0) = false ∧ (s.serveThread 1 0 []).stalled (.add 3 4 5) = true) ∧
    (let late := fun (w : Watch) => { w with yielded := true }
     let s := benchTwo id late
     let t := benchTwo late late
     s.turnsOf 0 true = [(2, 0)] ∧ s.turnsOf 0 false = [(1, 0)] ∧ s.turnReady (1, 0) = true ∧ s.turnReady (2, 0) = true ∧ s.stands 0 1 2 = true ∧
       s.stands 0 2 1 = false ∧ t.turnsOf 0 false = [] ∧ t.turnsOf 0 true = [(1, 0), (2, 0)] ∧ does t [1, 2] (1, 0) = true) ∧
    (let s := { State.reset with agenda := [.control 0] }; s.agenda = .control 0 :: [] ∧ s.turnsOf 0 false = []) ∧
    (let s := { bench with agenda := [.event .logEpochEnd] }; s.agenda = .event .logEpochEnd :: []) ∧
    (let s := { benchRun (fun r => { r with prog := [0, 0xF] }) id with agenda := [.strand 5 0] }
     s.agenda = .strand 5 0 :: [] ∧ (s.runOf 5).any (fun r => s.hasContext r 0) = true ∧ (s.runOf 5).map (fun r => (r.op, r.prog[(r.strand 0).pc]?)) = some (6, some 0xF) ∧
       (match decodeChunk 0xF with
         | .ok _ => true
         | _ => false) = true ∧ decodeChunk 0xB = .badOp) := by decide +kernel

theorem witness_EncodedInstructionsDecodeToThemselves :
    (Instr.wellFormed (.add 3 4 5) = true ∧ encode (.add 3 4 5) = some [0x00510300] ∧ (encodeControl (.add 3 4 5)).isSome) ∧
    (let i : Instr := .ffma ⟨10, false, 2, false, 3, 10, 2, false, 0, 0, 0⟩
     i.wellFormed = true ∧ (encodeLaneOp i).isSome ∧ decodeLane 0x0020290E 0x00081403 0 = some i) ∧
    (Instr.wellFormed .chunkEnd = true ∧ (encodeChunk .chunkEnd).isSome) ∧ Instr.add 3 4 5 ≠ .reservedEncoding 0x00510300 := by decide +kernel

theorem reset_mem_wf : Memory.wf State.reset.mem = true := by decide

theorem witness_StepsKeepMemoryCanonical :
    let s := { State.reset with agenda := [.event .logEpochEnd] }
    Memory.wf s.mem = true ∧ (match step s with
      | .next t => decide (t.enmon.epoch = 1)
      | _ => false) = true := by decide +kernel

theorem witness_ResetAndStart : State.reset.status 0 = 0 ∧ State.reset.status 1 = 0 ∧ (0 < 7 ∧ 7 < 8) := by decide +kernel

/-! ## Witnesses: redundant pairs, orders of accesses, and the other forms of the statements above -/

/-- Two watches of core 0: watch 1 leads, watch 2 trails; watch k executes, and both hold the S registers of `l`. -/
def benchDuo (p q : Pair) (l : List (Reg × Word)) (k : Nat) : State :=
  let s := benchPW fun w => l.foldl (fun w x => w.setS x.1 x.2) { w with pair := some { p with partner := 2 } }
  { s with
    watches := Tbl.put s.watches 2 { s.cw with kind := .trailer, slot := 1, pair := some { q with leads := false, partner := 1 } }
    cur := k
    next := 3 }

/-- The hypotheses on a pair of Spec.Compares: 0 waits, 1 goes on, 2 the trailer is passed over by INJECT, 3 it is corrupted. -/
def pairForm (s : State) (store : Bool) : Nat :=
  match s.cw.pair with
  | none => 9
  | some p =>
    if p.leads then (if p.slack < p.ents.length + 1 then 0 else 1)
    else match (s.watch p.partner).pair with
      | none => 9
      | some l => if !l.inj.getLsbD 0 || decide (l.inj.extractLsb' 1 2 = 1) == store then 1
        else if p.injDone ≠ (l.inj.extractLsb' 8 8).toNat then 2 else 3

/-- The four forms at a store and at an atomic. -/
def duos (store : Bool) (l : List (Reg × Word)) : List (State × Nat) :=
  let arm : Word := if store then 1 else 3
  [(benchDuo { ents := [pairEntry 5 true] } {} l 1, 0), (benchDuo {} {} l 1, 1), (benchDuo {} {} l 2, 1), (benchDuo { inj := 4 - arm } {} l 2, 1),
   (benchDuo { inj := arm + 0x300 } {} l 2, 2), (benchDuo { inj := arm } {} l 2, 3)]

theorem witness_ControlLoadsAndStoresAreIssued_pairs :
    (duos true [(4, plain 65528)]).all (fun x =>
      let s := x.1
      let p := s.prep s.cw.home (Spec.storeReq 8) (Spec.displacedAddr (s.sreg 4) 0)
      s.frag.valid && decide (p = .ok (okAcc p)) && decide (s.cw.pathCount 6 < 65535) && pairForm s true == x.2) = true := by decide +kernel

theorem witness_ControlAtomicsAndFences_pairs :
    (duos false [(4, plain 65532)]).all (fun x =>
      let s := x.1
      let p := s.prep s.cw.home (Spec.atomReq 4) (s.sreg 4)
      s.frag.valid && decide (p = .ok (okAcc p)) && decide (s.cw.pathCount 8 < 65535) && s.released .ar .sys && pairForm s false == x.2 &&
        decide ((s.ctx s.cw.ctx).pcnLive (effCol (s.sreg 4) (s.homeLcn s.cw)) = some 0)) = true := by decide +kernel


/-- The bench with an outstanding control store to the bytes at a place of the scratchpad. -/
def behindStore (off : Nat) (s : State) : State :=
  s.setW { s.cw with ops := [{ kind := .sst, paths := [6], accs := [{ size := 4, key := memKey .plain 1 0 off, addr := plain (BitVec.ofNat 64 off) }] }] }

theorem witness_RteRestoresTheWatch_made :
    let o : Op := { id := 7, kind := .satom, d := 5, size := 2, accs := [{ size := 4, got := true, old := 9 }] }
    let h : Held := { replay := [{ kind := 3, op := o }] }
    let s := benchPW fun w => { w with inh := true, held := some h }
    let s := (s.writeN (s.cw.frameKey + 8) 8 4).writeN (s.cw.frameKey + 0xE00) 64 (3 + 16)
    s.cw.inh = true ∧ s.cw.held = some h ∧ h.ent < 8 ∧ s.cw.rung = 0 ∧ s.cw.lanesIdle = true ∧ s.cw.ops = [] ∧
      s.readN (s.cw.frameKey + 8) 8 % 4 = 0 ∧
      ((s.reinjected s.cw h).1.filter fun o => o.isAtom && o.stamp == 0 && o.accs.any (·.got)) = [o] ∧ o.lane = false ∧ o.nw = false := by
  decide +kernel

theorem witness_BarArrivesOnceAndWaits_again :
    let f := fun (b : BarWait) => benchCrew 0 { members := [mine b.sent] } [] |>.modWatch 1 fun w => w.setEntry 0 { w.entry 0 with bar := some b }
    ([(false, false), (false, true), (true, false), (true, true)].all fun x => [false, true].all fun r =>
      let b : BarWait := { again := x.1, sent := x.2, released := r }
      let s := f b
      s.frag.valid && decide (s.frag.bar = some b) && s.isMember 0 && decide ((s.sreg 4).toNat = 0)) = true ∧
    (f { crew := 1, again := true }).frag.bar = some { crew := 1, again := true } := by decide +kernel

theorem witness_BarrierObjectsStep_waits : (behindStore 28 benchP).objectHeld (memKey .plain 1 0 16) = true := by decide +kernel

theorem witness_PairsRunAndCompare_begin :
    (let s := benchW fun w => { w with mat := some {} }; s.cw.pair = none ∧ s.divided = false ∧ s.cw.mat ≠ none) ∧
    bench.cw.mat = none ∧ (∃ p ∈ (benchDuo {} {} [] 1).cw.pair, p.leads = true) := by decide +kernel

/-- A pair whose oldest entries are atomics of one signature, on the leader's word at the scratchpad's start; and the leader with operations. -/
def atomPair (k : OpKind) (d : Nat) (ops : List Op) : State :=
  let o : Op := { id := 9, kind := k, paths := [8], seq := 7, d := d, size := 2, ty := 6, accs := [{ size := 4, data := 5, key := memKey .plain 1 0 0, addr := plain 0 }] }
  let e : PairEnt := { sig := 5, op := o }
  let s := benchDuo { ents := [e], placed := true } { ents := [e] } [] 1
  (s.modWatch 1 fun w => { w with ops := ops ++ [o] }).modWatch 2 fun w => { w with ops := [o], pair := w.pair.map fun p => { p with ents := [e] } }

theorem witness_PairsRunAndCompare_atoms :
    ([OpKind.satom, .xatom].all fun k =>
      let s := atomPair k 63 []
      let x := s.watch 1
      let y := s.watch 2
      (match x.pair, y.pair with
        | some p, some q => match p.ents, q.ents with
          | [e], [f] => p.leads && !q.leads && p.partner == 2 && q.partner == 1 && e.sig == f.sig && !e.store && !f.store && s.commitOpen 1 e &&
              decide (f.op.kind = e.op.kind ∧ x.op e.op.id = some e.op ∧ y.op f.op.id = some f.op ∧ e.op.lane = false ∧ e.op.nw = false ∧ e.op.stamp = 0) &&
              (match e.op.accs, f.op.accs with
                | [a], [_] => decide (a.data < 2 ^ (8 * a.size) ∧ dirEntry (s.keyNow x.ctx a) = none ∧ colOf a.addr = 0x3FF)
                | _, _ => false)
          | _, _ => false
        | _, _ => false)) = true ∧
    (let s := atomPair .satom 5 [{ id := 8, kind := .sld, seq := 6, accs := [{ size := 4, key := memKey .plain 1 0 0, addr := plain 0 }] }]
     (match (s.watch 1).pair with
       | some p => p.ents.any fun e => !s.commitOpen 1 e
       | none => false) = true) := by decide +kernel

theorem witness_StreamQueuesChangeState_waits :
    let s := behindStore 64 (benchPS [(4, plain 64)])
    let p := s.prep s.cw.home { size := 32, align := 32, tags := [0, 1] } (s.sreg 4)
    p = .ok (okAcc p) ∧ s.bytesHeld (s.keyNow s.cw.ctx (okAcc p)) 32 = true := by decide +kernel

theorem witness_CopiesAndWeightLoadsAreIssued_waits :
    let s := behindStore 96 (benchCmd 64 (copyDesc 1) (plain 64))
    let p := s.prep s.cw.home (Spec.descReq 64 [1]) (s.sreg 20)
    s.frag.valid = true ∧ s.cw.pair = none ∧ p = .ok (okAcc p) ∧ s.bytesHeld (s.keyNow s.cw.ctx (okAcc p)) 64 = true := by decide +kernel

theorem witness_EngineCommandsAreIssued_waits :
    (let s := behindStore 64 (benchCmd 64 (auctDesc 1) (plain 64))
     let v := s.sreg 20
     v.toNat / 2 ^ 56 = 0 ∧ tagOf v = 1 ∧ s.coreColumn s.cw v = some 0 ∧ offOf v % 64 = 0 ∧ offOf v + 64 ≤ (s.layout s.cw.ctx 0).scratch ∧
       s.lockHit s.cw.ctx 0 1 (offOf v) 64 false = false ∧ s.bytesHeld (memKey .plain s.cw.ctx 0 (offOf v)) 64 = true) ∧
    (let s := behindStore 64 (benchCmd 64 [0, 0, 0, 0] (plain 64))
     let p := s.prep s.cw.home (Spec.descReq 32 [0, 1]) (s.sreg 20)
     p = .ok (okAcc p) ∧ s.bytesHeld (s.keyNow s.cw.ctx (okAcc p)) 32 = true) := by decide +kernel

theorem witness_GroupsAreDefinedAndReleased_waits :
    let s := behindStore 64 (benchCmd 64 [] (plain 64))
    let p := s.prep s.cw.home (Spec.descReq 64 [0, 1]) (s.sreg 20)
    p = .ok (okAcc p) ∧ s.bytesHeld (s.keyNow s.cw.ctx (okAcc p)) 64 = true := by decide +kernel

/-- The bench's watch once the ages have moved (Spec.Ready), and that it may be granted its columns. -/
def agedOf (s : State) : State :=
  { s with seq := s.seq + 1, watches := s.watches.map fun (x : Nat × Watch) => (x.1, { x.2 with aged := if s.laneReady x.1 x.2 = false then 0 else if x.2.aged = 0 then s.seq else x.2.aged }) }
def readyIn (u : State) : Bool := decide (0 < (u.watch 1).aged) && u.columnsFree 1 (u.watch 1)

theorem witness_OldestReadyWatchIssues_checks :
    (let e : LqEntry := { instr := .iadd (ops3 6 0), mask := 1, bad := 2 }
     let u := agedOf (benchW fun w => { w with lq := [e] })
     readyIn u = true ∧ (u.watch 1).chainPos = 0 ∧ u.headVerdict 1 (u.watch 1) = .fail e { cause := 2 }) ∧
    (let x : LqEntry := { instr := .xst ⟨0, false, 1, false, 2, 0, 0, false, 6, 0, 0x7000⟩, mask := 1, pos := 1, len := 2 }
     let u := agedOf (benchW fun w => { w with lq := [{ instr := .iadd (ops3 6 0), mask := 1, len := 2 }, x], chain := some { latches := [none] } })
     readyIn u = true ∧ (u.watch 1).lq[(u.watch 1).chainPos]? = some x ∧ 0 < (u.watch 1).chainPos ∧ u.notMember 1 (u.watch 1) x = true) ∧
    ([Elem.fault 1 64, .uncor 64].all fun v =>
      let e : LqEntry := { instr := .laneMov ⟨3, false, 392, false, 0, 0, 0, false, 6, 0, 0⟩, mask := 1 }
      let u := agedOf (benchW fun w => { w with lq := [e], q := w.q.set 0 { st := .running, desc := [0, 0, 0, 0x2000100010001], elems := Vector.replicate 64 [v] } })
      readyIn u && decide ((u.watch 1).chainPos = 0 ∧ u.headVerdict 1 (u.watch 1) = .pass ∧ (u.watch 1).lq.head? = some e ∧
        (u.watch 1).badElem (u.watch 1).headChain = some v)) = true := by decide +kernel

/-- The bench's watch with lane instruction operands in its V registers, as a member of a pair. -/
def duoV (p q : Pair) (k : Nat) : State :=
  let f := fun (w : Watch) => { w with v := [(1, row 64)] }
  { ((benchDuo p q [] k).modWatch 1 f).modWatch 2 f with lane := { mask := 3, seq := 1 } }

theorem witness_LaneAccessesArePutInFlight_pairs :
    ([true, false].all fun store =>
      let arm : Word := if store then 1 else 3
      let o : LaneOps := ⟨4, false, 1, false, 2, 2, 0, false, 6, if store then 2 else 0, 0⟩
      [(duoV { ents := [pairEntry 5 true] } {} 1, 0), (duoV {} {} 1, 1), (duoV {} {} 2, 1), (duoV { inj := arm + 0x300 } {} 2, 2),
        (duoV { inj := arm } {} 2, 3)].all fun x =>
        let s := x.1
        s.lane.last && pairForm s store == x.2 && decide (s.cw.pathCount 6 < 65535 ∧ s.cw.pathCount 8 < 65535 ∧
          (List.range 64).filter (s.active o).getLsbD = [0, 1]) && [0, 1].all fun l =>
          (Spec.oneAccess s { size := 4, align := 4, store := true, tags := [0, 1, 2, 4], dir := true } l (Spec.displacedAddr (Spec.source64 o s 0 l) o.lit)
            (Spec.source o s 1 l).toNat 0).isSome || !store &&
          (Spec.oneAccess s { atom := true } l (Spec.displacedAddr (Spec.source64 o s 0 l) o.lit) (Spec.source o s 1 l).toNat
            (Spec.source o s 2 l).toNat).isSome) = true ∧
    (let s := { duoV {} {} 1 with lane := { mask := 0, seq := 1 } }
     Spec.accesses (ops3 6 0) s (fun _ => none) = []) := by decide +kernel

/-- An access to host memory, which the bench's ranges admit or not (14 R386), and one behind an older access of its stream. -/
def hostAcc : Acc := { size := 4, data := 5, key := memKey .host 0 0 64, addr := 64 }
def olderLoad : Op := { id := 3, kind := .ld, seq := 2, lane := true, accs := [{ size := 1, key := memKey .host 0 0 67, addr := 67 }] }
def openHost (s : State) : State := { s with enmon := { s.enmon with hrange := [(0, 0x40000)] } }

theorem witness_LoadsReturnAndStoresReachMemory_holds :
    (let o := opOf { kind := .ld, lane := true, d := 3, size := 2, accs := [hostAcc] }
     let a := hostAcc
     let s := benchOp o
     let t := s.modWatch 1 fun w => { w with ops := olderLoad :: w.ops }
     let x := s.watch 1
     x.op 9 = some o ∧ o.isLoad = true ∧ s.isLive x = true ∧ x.acqHeld 7 = false ∧ (s.sectors 1 o)[0]? = some (s.keyNow 1 a / 32) ∧
       s.olderSame x Op.beforeLoad 7 true a = false ∧ s.hostShut a.key = true ∧ (openHost s).hostShut a.key = false ∧
       (t.watch 1).op 9 = some o ∧ t.olderSame (t.watch 1) Op.beforeLoad 7 true a = true) ∧
    (let e : StoreEnt := { op := 9, seq := 7, lane := true, acc := hostAcc }
     let s := benchPW fun w => { w with fifo := [e] }
     let x := s.watch 1
     let t := s.modWatch 1 fun w => { w with ops := [olderLoad] }
     x.fifo = e :: [] ∧ e.acc.pend = false ∧ x.acqHeld e.seq = false ∧ s.olderSame x Op.isLoad e.seq e.lane e.acc = false ∧ x.ops = [] ∧
       s.hostShut e.acc.key = true ∧ (openHost s).hostShut e.acc.key = false ∧ isHostKey (s.keyNow 1 e.acc) = true ∧
       isHostKey (memKey .plain 1 0 0) = false ∧ dirEntry (s.keyNow 1 e.acc) = none ∧ t.olderSame (t.watch 1) Op.isLoad e.seq e.lane e.acc = true) ∧
    ([true, false].all fun b =>
      let h : HostAck := { w := 1, op := 9, pcn := 0, key := memKey .host 0 0 64, size := 4, data := 5, sent := b }
      let s := { benchP with hostAcks := [{ h with w := 2, pcn := 1 }, h] }
      decide (s.hostAcks[1]? = some h ∧ s.hostAcks[0]?.map (fun g => (g.pcn ≠ h.pcn && g.w ≠ 1 : Bool)) = some true)) = true := by decide +kernel

theorem witness_LoadsReturnAndStoresReachMemory_copies :
    let a : Acc := { size := 8, addr := 0x3FFFC, key := memKey .slice 0 0 0x103FFFC, old := memKey .slice 0 0 0x2000003, cmp := (plain 32).toNat, count := memKey .plain 1 0 32 }
    let o := opOf { kind := .acpy, paths := [2], accs := [a] }
    let s := benchOp o
    let x := s.watch 1
    let t := s.modWatch 1 fun w => { w with ops := { id := 3, kind := .st, paths := [6], seq := 2, lane := true } :: w.ops
                                            fifo := [{ op := 3, seq := 2, lane := true, acc := { size := 4, key := memKey .plain 1 0 60, addr := plain 60 } }] }
    x.op 9 = some o ∧ o.accs[0]? = some a ∧ s.copyHeld x o a = false ∧ s.hostShut a.key = false ∧ s.hostShut a.old = false ∧ offOf a.addr % 2 ^ 18 + 3 < 2 ^ 18 ∧
      ¬(offOf a.addr % 2 ^ 18 + 4 < 2 ^ 18) ∧ (t.watch 1).op 9 = some o ∧ t.copyHeld (t.watch 1) o a = true := by decide +kernel

theorem witness_AtomicsAreOneStep_held :
    let a : Acc := { size := 4, data := 5, addr := plain 0, key := memKey .plain 1 0 0 }
    let o := opOf { kind := .satom, paths := [8], size := 2, ty := 6, accs := [a] }
    let s := benchPW fun w => { w with inh := true, held := some { replay := [{ kind := 3, op := o }] } }
    let x := s.watch 1
    s.isLive x = true ∧ x.acqHeld o.seq = false ∧ o.accs[0]? = some a ∧ a.got = false ∧ a.pend = false ∧ x.olderAtom o.seq a.pcn = false ∧
      s.olderSame x (fun q => q.beforeLoad && !q.isAtom) o.seq o.lane a = false ∧ a.data < 2 ^ (8 * a.size) ∧
      x.op 9 = none ∧ x.freeAtoms.find? (·.id == 9) = some o := by decide +kernel

/-- A column's waiting contributions, in its queue and in the overflow area of context 1. -/
def fatoms (inQueue inArea : Nat) : List Contrib :=
  List.replicate inQueue { launch := 0 } ++ List.replicate inArea { ovf := true, launch := 1 }

theorem witness_AtomicsAreOneStep_rooms :
    let s := inLaunch [(5, 1)] benchP
    (fatoms 255 0).countP (fun k => k.kind != 2 && !k.ovf) = 255 ∧ (fatoms 256 0).countP (fun k => k.kind != 2 && !k.ovf) = 256 ∧
      (fatoms 256 4095).countP (fun k => k.ovf && (s.launch k.launch).ctx == 1) = 4095 ∧
      (fatoms 256 4096).countP (fun k => k.ovf && (s.launch k.launch).ctx == 1) = 4096 ∧
      (let o := opOf { kind := .fatom, lane := true, accs := [hostAcc] }
       let t := (benchOp o).modWatch 1 fun w => { w with ops := olderLoad :: w.ops }
       t.olderSame (t.watch 1) Op.beforeLoad 7 true hostAcc = true) := by decide +kernel

/-- What a translation comes to: 0 a place, 1 a fault, 2 a page that is not resident, 3 one that drains. -/
def outcome (x : XRes) : Nat :=
  match x with
  | .ok _ _ => 0
  | .fault _ => 1
  | .nonres => 2
  | .wait => 3

theorem witness_StreamsFetchInOrder_waits :
    (let s := (benchStream 0xFFC0000001000).modWatch 1 fun w => { w with ops := [{ kind := .satom, ord := .ar, seq := 0, accs := [{ size := 4 }] }] }
     (s.watch 1).acqHeld ((s.watch 1).queue 2).go = false ∧
       (let t := s.modWatch 1 fun w => { w with q := w.q.set 2 { w.queue 2 with go := 1 } }; (t.watch 1).acqHeld ((t.watch 1).queue 2).go = true)) ∧
    (let r : AReq := { size := 4, align := 4, tags := [0, 1, 2], lane := some 15 }
     let s := benchStream 0xFFC0001000000
     let x := s.watch 1
     let a := streamAddr (x.queue 2) 15 0
     let gone := s.writeN (memKey .slice 0 0 4104) 8 0
     let away := s.writeN (memKey .slice 0 0 4104) 8 0x8003
     let drains := s.modCluster 0 fun c => { c with cache := [{ ctx := 1, page := 2 ^ 24, size := 2 ^ 24, draining := true }] }
     s.checkAddr x (x.pcnOf 15) r a = none ∧
       ([gone, away, drains].map fun t => outcome (t.placeOf x (x.pcnOf 15) r a)) = [1, 2, 3]) := by decide +kernel

theorem witness_MatrixPassUpdatesTheTile :
    (let o : LaneOps := ⟨2, false, 64, false, 96, 0, 0, false, 2, 0, 0⟩
     let s := benchMat (.mma o) [0, 1]
     ∃ m ∈ (s.watch 1).mat, s.queued 0 ((s.core 0).lastPass + 1) = (1, m) :: [] ∧ m.left = 0 :: [1] ∧ (s.watches.map (·.1)).Nodup ∧
       (∀ x ∈ s.watches, ∀ m ∈ x.2.mat, m.left.Pairwise (· < ·)) ∧ s.quarterReady 0 m 0 = true) ∧
    (let o : LaneOps := ⟨2, false, 64, false, 96, 0, 0, false, 2, 0, 0⟩
     let s := (benchMat (.mma o) [0]).modCore 0 fun c => { c with wloads := [{ id := 9, ctx := 1, cmd := { maj := 0x31, extra := [1, 0, 0, 0, 4, 0] } }], matNext := 1 }
     let s := s.modWatch 1 fun w => { w with mat := w.mat.map fun m => { m with ord := 1 } }
     ∃ m ∈ (s.watch 1).mat, s.quarterReady 0 m 0 = false) := by decide +kernel

theorem witness_MatrixInstructionsArePerformed_tdrn :
    (let o : LaneOps := ⟨60, false, 10, false, 1, 0, 0, false, 0, 0, 0x18000000⟩
     holdsMat (.tdrn o) = true ∧ tmC0 o.lit + tmCount o.lit ≤ 64 ∧ tmRm o.lit ≤ 4 ∧ o.lit.getLsbD 27 = true ∧ o.lit.getLsbD 28 = true) ∧
    (let o : LaneOps := ⟨3, false, 0, false, 0, 0, 0, false, 0, 0, 0⟩; holdsMat (.tclr o) = true ∧ o.lit.getLsbD 0 = false) := by decide +kernel

/-- The scratchpad of column 0 with the bytes lo to hi in a range of another command. -/
def lockedBy (lo hi : Nat) (s : State) : State :=
  s.modColumn 0 fun c => { c with locks := [{ ctx := 1, tag := 1, lo := lo, hi := hi, write := true, owner := 77 }] }

/-- Two commands that wait for the same column, the other one acceptable before. -/
def outrankedBy (maj : Nat) (c : Cmd) (s : State) : State :=
  s.setW { s.cw with ops := [{ waiting maj c with ripe := 9 }, { waiting maj c with id := 6, ripe := 2 }] }

theorem witness_EnginesMoveBytes_order :
    ([(0x30, ({ a := plain 64, desc := copyDesc 1 } : Cmd)), (0x31, { a := plain 0, extra := [1, 0, 0, 0, 4, 0] }),
        (0x34, { a := plain 64, desc := auctDesc 1 })].all fun x =>
      let s := outrankedBy x.1 x.2 (benchCmd 64 x.2.desc 0)
      let o := { waiting x.1 x.2 with ripe := 9 }
      let e := withOp o s
      waits s x.1 o && s.outranked 1 s.cw o && waits e x.1 o && !e.outranked 1 e.cw o) = true ∧
    (let s := lockedBy 1024 1056 (benchCmd 64 (copyDesc 1) 0)
     s.locksFree (s.copyLocks (s.jobOf 1 s.cw (waiting 0x30 { a := plain 64, desc := copyDesc 1 }))) = false) ∧
    (let s := lockedBy 0 4 (benchCmd 64 (auctDesc 1) 0)
     (s.locksFree (s.auctLocks (s.jobOf 1 s.cw (waiting 0x34 { a := plain 64, desc := auctDesc 1 })))) = true) ∧
    (let s := lockedBy 127 128 benchP; s.lockWaits 9 1 0 1 (64 + 56) 8 true = true) := by decide +kernel

theorem witness_EnginesMoveBytes_forms :
    let j := fun (w : Word) => ({ id := 9, w := 1, ctx := 1, cmd := { maj := 0x30, a := plain 64, desc := (copyDesc 1).set 3 w } } : Job)
    cdForm (j (1 <<< 36)).cmd.desc = 1 ∧ cdForm (j (2 <<< 36)).cmd.desc = 2 ∧ cdForm (j 0).cmd.desc = 0 := by decide +kernel

theorem witness_CensusesAndAuctionsRun_ends :
    (let k := memKey .plain 1 0 0
     [(40, 48), (47, 48), (15, 16), (48, 64)].map (fun x => (lockedBy x.1 x.2 (benchCensus id)).lockWaits 0 1 (k / 2 ^ 64 % 2 ^ 16) 1 (k % 2 ^ 64 + 16) 32 true) =
       [true, true, false, false]) ∧
    (let j : Job := { id := 9, ctx := 1, fail := 4, cmd := { maj := 0x34, a := plain 64, desc := auctDesc 1 } }
     let s := benchP.modCluster 0 fun c => { c with auct := [j] }
     (s.cluster 0).auct = j :: [] ∧ j.fail ≠ 0 ∧ { j with fail := 0, step := 1, work := [1, 1, 0] }.step ≠ 0 ∧
       s.lockWaits 9 1 (s.jobCol j j.cmd.a) 1 (offOf j.cmd.a + 56) 8 true = false) := by decide +kernel

theorem witness_RunsStartAndComplete_ready :
    (let s := (graphAt 1 1 0 bench).writeN (schedKey 0 0x100000) 192 0
     let b := s.nodeLaunch 0 12 0
     b.hdrBlocks = 0 ∧ b.kind ≠ 2 ∧ Tbl.getD (s.die 0).running 12 0 = 0) ∧
    (let s := ((graphAt 1 1 0 bench).writeN (schedKey 0 0x100000) 192 (2 ^ 320)).modDie 0 fun d => { d with running := [(12, 3)] }
     (s.nodeLaunch 0 12 0).hdrBlocks = 1 ∧ Tbl.getD (s.die 0).running 12 0 ≠ 0 ∧
       Tbl.getD ((s.modDie 0 fun d => { d with running := [(12, 0)] }).die 0).running 12 0 = 0) := by decide +kernel

theorem witness_HeadsAndRecordsAreServed_misses :
    (let s := (benchNode (inboxNode 2 0x1000000 id)).writeN (memKey .slice 0 0 4104) 8 0
     let away := s.writeN (memKey .slice 0 0 4104) 8 0x8003
     let drains := s.modCluster 0 fun c => { c with cache := [{ ctx := 1, page := 2 ^ 24, size := 2 ^ 24, draining := true }] }
     let shut := s.writeN (memKey .slice 0 0 4104) 8 0x8023
     ([s, away, drains].map fun t => outcome (t.engineXlate 1 0 0x1000000 false)) = [1, 2, 3] ∧ s.engineXlate 1 0 0x1000000 false = .fault 0 ∧
       shut.engineXlate 1 0 0x1000000 true = .fault 1 ∧ shut.engineXlate 1 0 Config.dirBase false = .fault 1) ∧
    (let s := { benchP with waits := [{ ctx := 1, pcn := 0, off := 64, job := 7 }] }
     (∃ p ∈ s.waits, p.job = 7 ∧ p.pcn = 0 ∧ p.off = 64) ∧ ¬∃ p ∈ s.waits, p.job = 8) := by decide +kernel

theorem witness_HeadsAndRecordsAreServed_holds :
    (let l := inboxNode 2 4098 id
     let s := coded 4096 [0, 7, 40, 0] (benchNode l)
     let t := s.modColumn 0 fun c => { c with locks := [{ ctx := 1, tag := 0, lo := 4099, hi := 4100, write := true, owner := 77 }] }
     s.headOf 0 0 = some 1 ∧ l.gvecAddr.toNat % 4 ≠ 0 ∧ s.nodeCheck 1 l = none ∧
       (∀ i, i < 12 → s.engineXlate 1 0 (4098 + i) false = .ok (memKey .slice 0 0 (64 * 2 ^ 18 + 4098 + i)) false) ∧
       s.lockWaits 0 1 0 0 4099 1 false = false ∧ t.lockWaits 0 1 0 0 4099 1 false = true) ∧
    (let s := benchNode (nodeOf [] fun l => { l with cores := [(0, 1)], placed := [0], blocks := 1 })
     s.hostAcks = [] ∧ (∀ p, p < 4 → s.engineXlate 1 p 0 true = .ok (memKey .slice 0 p (64 * 2 ^ 18)) false) ∧
       (∀ p, p < 4 → s.lockWaits 0 1 p 0 0 8 true = false) ∧
       (s.modColumn 2 fun c => { c with locks := [{ ctx := 1, tag := 0, lo := 7, hi := 8, owner := 77 }] }).lockWaits 0 1 2 0 0 8 true = true) := by decide +kernel

theorem witness_HeadsAndRecordsAreServed_older :
    let o := { waiting 0x36 { extra := [0], desc := [32 <<< 16, 0, 0, 0] } with seq := 4 }
    let s := withOp o (benchRec 1 { bound := some 1, appended := 1024, taken := 1 } id)
    let t := s.setW { s.cw with ops := [{ waiting 0x36 { extra := [0] } with id := 4, seq := 3 }, o] }
    waits s 0x36 o = true ∧ (s.recq 0).appended - (s.recq 0).taken < 1024 ∧
      waits t 0x36 o = true ∧ ∃ p ∈ t.cw.ops, p.kind = .engine ∧ p.cmd.maj = 0x36 ∧ p.done = false ∧ p.seq < o.seq ∧ p.cmd.extra = [0] := by decide +kernel

theorem witness_HostWindowsAndMailbox_events_ranges :
    let s := benchLink fun d => { d with evctl := 0x14, evbase := 0x1000, events := [{ words := [1, 2] }] }
    let at_ := ((s.die 0).evbase.toNat + 16 * ((s.die 0).evtail.toNat % 16))
    s.hostAllows at_ = false ∧ (openHost s).hostAllows at_ = true ∧ (openHost s).linkUp = true := by decide +kernel

theorem witness_HostWindowsAndMailbox_writes :
    ((0x7FFC % 4 = 0 ∧ 0x7FFC < 0x8000 ∧ 0x803E % 2 = 0 ∧ 16 ≤ 0x803E % 64) ∧ (0x800E % 2 = 0 ∧ 12 ≤ 0x800E % 64 ∧ 0x800E % 64 < 16) ∧
      (0x8007 % 1 = 0 ∧ 0x8007 % 64 < 8) ∧ (0x150000 + 4 ≤ 2 ^ 22) ∧ ¬(0x21 % 2 = 0)) ∧
    (let s := graphAt 1 0 0 (benchLink id)
     s.inNodeState 0 (0x100000 + 191) = false ∧ s.inNodeState 0 (0x100000 + 448) = false ∧ Memory.wf s.mem = true ∧ geValid (s.graphEntry 12) = true ∧ geBase (s.graphEntry 12) = 0x100000) ∧
    (let s := (benchLink id).writeN (graphKey 12) 16 (1 + 1 <<< 16 + 0x200000 <<< 32)
     s.inNodeState 0 (0x200000 + 192) = true ∧ s.inNodeState 0 (0x200000 + 191) = false ∧ geBase (s.graphEntry 12) ≤ 0x200000 + 192 ∧
       0x200000 + 192 < geBase (s.graphEntry 12) + 256 * geNodes (s.graphEntry 12) ∧ 192 ≤ (0x200000 + 192) % 256) ∧
    (geValid ((benchLink id).graphEntry 12) = false ∧ geBusy ((benchLink id).graphEntry 12) = false ∧ geValid (graphAt 1 0 0 (benchLink id) |>.graphEntry 12) = true) ∧
    (0x100 % 8 = 0 ∧ 0x1FF < 0x200 ∧ 0x13F3 % 16 < 4 ∧ 4 ≤ 0x13F4 % 16 ∧ 0x400000 ≤ 0x400001) := by decide +kernel

theorem witness_HostWindowsAndMailbox_commands :
    ([0, 1, 2, 3, 4, 5, 6, 7].all fun v => decide (v < 256)) = true ∧
    (let s := (benchLink id).modCtx 1 fun c => { c with doom := true }; (s.ctx 1).doom = true) ∧
    (let s := (benchLink id).modCtx 1 fun c => { c with rung := some 2 }; (s.ctx 1).doom = false ∧ (s.ctx 1).rung ≠ none) := by decide +kernel

theorem witness_EnmonServesAndResets_measures :
    ((0 : Nat) < 400 ∧ 2000 < 2001 ∧ 2800 < 2801 ∧ 7 < 8) ∧ Tbl.getD State.reset.enmon.memMhz 7 0 = 1200 ∧
    (let e : Enmon := { colErrs := [(3, 4)] }; Tbl.getD e.colErrs 3 0 = 4 ∧ e.pending.Nodup) := by decide +kernel

/-- The digest of "abc" (FIPS 180-4's example). -/
theorem test_sha512_abc : sha512 [0x61, 0x62, 0x63] = beBytes 64 0xddaf35a193617abacc417349ae20413112e6fa4e89a97ea20a9eeee64b55d39a2192992a274fc1a836ba3c23a3feebbd454d4423643ce80e2a9ac94fa54ca49f := by
  decide +kernel

/-- The signature of the empty message under the first key of RFC 8032, 7.1. -/
theorem test_ed25519_first : edVerify (beBytes 32 0xd75a980182b10ab7d54bfed3c964073a0ee172f3daa62325af021a68f707511a) []
    (beBytes 64 0xe5564300c360ac729086e2cc806e828a84877f1eb8e5d974d873e065224901555fb8821590a33bacc61e39701cf9b46bd25bf5f0595bbe24655141438e7a100b) = true := by
  decide +kernel

/-! ## Witnesses: groups of CALLV, watches of eight crews, atomics of AMAX, marked elements, and what a trap, a switch or an error meets -/

/-- The bench with V30 16 in lane 0 and 32 in the other lanes, callable headers before both, and `free` invalid entries. -/
def benchGroups (free : Nat) (levels : List Level) : State :=
  let s := benchW fun w => { w with
    allot := 32, v := [(30, (row 32).set 0 16)]
    split := (w.setEntry 0 { w.entry 0 with levels := levels }).split.mapIdx fun i f => if 0 < i ∧ i + free < 8 then { f with valid := true } else f }
  coded 40 [0, 0] <| coded 24 [0xF5, 0xF4C10020] (coded 8 [0xF5, 0xF4C10020] s)

/-- The groups of Spec.CallGroups there. -/
def groupsOf : List (Off × Mask) := [(16, 1), (32, 0xFFFE)]

theorem witness_FragmentsSplit_groups :
    ([(benchGroups 7 [], 7), (benchGroups 2 [], 2), (benchGroups 1 (List.replicate 15 {}), 1), (benchGroups 1 (List.replicate 16 {}), 1)].all fun x =>
      let s := x.1
      s.frag.valid && decide ((30 : Sel).toNat + 1 < s.cw.allot) && decide (s.cw.freeEntries.length = x.2) &&
        (groupsOf.all fun g => g.2 != 0 && (List.range 64).all fun l => g.2.getLsbD l == (s.frag.mask.getLsbD l && Spec.callTarget s 30 l == g.1)) &&
        (List.range 64).all fun l => !s.frag.mask.getLsbD l || groupsOf.any fun g => Spec.callTarget s 30 l == g.1) = true ∧
    ((benchGroups 7 []).checkCall 16 = none ∧ (benchGroups 7 []).checkCall 32 = none ∧ (benchGroups 7 []).checkCall 48 ≠ none ∧ (2 : Off).toNat % 4 ≠ 0) ∧
    (let l : Level := { m := 0xFFFF, pend := 0xFFFE, phase := true, x := 8 }
     let s := benchGroups 7 [l]
     s.frag.levels = l :: [] ∧ l.x = s.frag.pc + 8 ∧ l.pendPc = s.frag.pc) := by decide +kernel

theorem witness_CrewsChangeMembers_eight :
    (let s := (List.range 8).foldl (fun s k => s.setCrew 1 (k + 1) { members := [mine false] }) (benchCrew 9 { members := [{ w := 2 }] } [])
     s.crew 1 0 = none ∧ 8 ≤ s.crewCount 1 s.cur ∧ (Tbl.find s.ctxs s.cw.ctx).isSome) ∧
    (benchCrew 0 { members := [mine false] } []).crewCount 1 1 = 1 ∧ ∀ m ∈ [mine false], m.faulted = false := by decide +kernel

theorem witness_CollectivesRecordTheArrival_others :
    (let s := (benchGroup true).setCrew 1 3 { members := [mine false, { w := 2 }], cols := [0] }
     let q := s.modCtx 1 fun c => { c with colls := c.colls ++ [arrival 0] }
     q.crew 1 3 = some { members := [mine false, { w := 2 }], cols := [0] } ∧ (∃ m ∈ [mine false, { w := 2 }], m.arrived = false) ∧
       ∃ m ∈ [mine false, { w := 2 }], m.faulted = false ∧ ∀ a ∈ (q.ctx 1).colls, a.w ≠ m.w) ∧
    gdCrew (groupDesc 1) = 3 := by decide +kernel

theorem witness_GroupsAreDefinedAndReleased_checks :
    gdProg ((groupDesc 1).set 2 (plain 64)) = plain 64 ∧
    (let r : AReq := { Spec.descReq 8 [0] with size := 8 }
     benchP.checkAddr benchP.cw benchP.cw.home r (plain 64) = some .space) ∧
    (let r : AReq := { Spec.descReq 8 [0] with size := 8 }
     benchP.checkAddr benchP.cw benchP.cw.home r 64 = none) ∧
    (let x : Group := { ahead := [1, 3] }; x.use + 1 ∈ x.ahead ∧ (3 - x.use).toNat = 3) := by decide +kernel

/-- The bench with the atomic of an AMAX of its chain at an address, and its outcome (`outcome`): 4 where its check fails. -/
def benchAmax (a : Word) : State :=
  benchPW fun w => { w with ops := [{ id := 5, kind := .amax, lane := true, nw := true, size := 2, accs := [{ addr := a, size := 4, pend := true }] }] }
def amaxOutcome (s : State) : Nat :=
  match (s.watch 1).op 5 with
  | none => 9
  | some p =>
    match p.accs with
    | [a] => if (s.checkAddr (s.watch 1) a.pcn { atom := true, lane := some a.lane } a.addr).isSome then 4
      else outcome (s.placeOf (s.watch 1) a.pcn { atom := true, lane := some a.lane } a.addr)
    | _ => 9

theorem witness_CopiesExchangesAndMaxima_atomics :
    (let s := benchAmax (plain 64)
     (s.watch 1).ops.filter (fun q => q.kind == .amax && decide (5 ≤ q.id)) = (s.watch 1).ops ∧ Tbl.find s.watches 1 = some (s.watch 1) ∧
       amaxOutcome s = 0) ∧
    amaxOutcome (benchAmax (plain 66)) = 4 ∧
    (let s := benchAmax 0x1000000
     ([s.writeN (memKey .slice 0 0 4104) 8 0, s.writeN (memKey .slice 0 0 4104) 8 0x8007,
        s.modCluster 0 fun c => { c with cache := [{ ctx := 1, page := 2 ^ 24, size := 2 ^ 24, draining := true }] }].map amaxOutcome) = [1, 2, 3]) := by decide +kernel

theorem witness_OldestReadyWatchIssues_marks :
    let e : LqEntry := { instr := .laneMov ⟨3, false, 392, false, 0, 0, 0, false, 6, 0, 0⟩, mask := 1 }
    let u := agedOf (benchW fun w => { w with lq := [e], q := w.q.set 0 { st := .running, desc := [0, 0, 0, 0x2000100010001], elems := Vector.replicate 64 [.off 3] } })
    let w := u.watch 1
    readyIn u = true ∧ w.lq[w.chainPos]? = some e ∧ u.headFails 1 w = false ∧ Spec.markOf w {} e 0 = some 3 ∧ Spec.popsQ (matOps e.instr) 0 = 1 := by decide +kernel

theorem witness_LoadsReturnAndStoresReachMemory_behindCopies :
    let b : Acc := { size := 4, addr := 64, key := memKey .slice 0 0 64, cmp := (plain 32).toNat, count := memKey .plain 1 0 32 }
    let e : StoreEnt := { op := 9, seq := 8, lane := true, acc := { size := 4, key := memKey .plain 1 0 60, addr := plain 60 } }
    let s := benchPW fun w => { w with fifo := [e], ops := [{ id := 3, kind := .acpy, paths := [2], seq := 2, lane := true, accs := [b] }] }
    (s.watch 1).fifo = e :: [] ∧ s.overlap 1 e.acc { pcn := b.pcn, addr := BitVec.ofNat 64 b.cmp, key := b.count, size := 32 } = true ∧ b.got = false ∧
      s.overlap 1 { e.acc with key := memKey .plain 1 0 64, addr := plain 64 } { pcn := b.pcn, addr := BitVec.ofNat 64 b.cmp, key := b.count, size := 32 } = false := by decide +kernel

theorem witness_ErrorsReachTheirConsumer_others :
    (let o : Op := { id := 5, kind := .st, accs := [{ addr := 0x25 }] }
     let f : StoreEnt := { op := 5, acc := { addr := 0x25 } }
     let s := benchW fun w => { w with ops := [o], fifo := [f] }
     Tbl.find s.watches 1 = some s.cw ∧ s.cw.op 5 = some o ∧ o.accs.find? (fun a => !a.got) = some { addr := 0x25 } ∧
       s.cw.fifo.find? (fun f => f.op == 5) = some f) ∧
    (let s := benchW fun w => { w with q := w.q.set 2 { st := .running, desc := [0, 0, 0, 0x2000100010001], elems := Vector.replicate 64 [.val 7] } }
     s.cw.chain = none ∧ (s.cw.queue 2).elems[15]? = some (.val 7 :: [])) ∧
    (let j := small 1 id
     let s := benchCopy j (coded 4096 [1] benchP)
     (∃ k ∈ s.jobList 0 0, k.id = 9 ∧ s.jobReads 0 k = true) ∧ ∃ r ∈ (benchRun id id).runs, r.id = 5) ∧
    (let l := inboxNode 2 4096 id
     (coded 4096 [0, 7, 40] (benchNode l)).vectorDue 1 = true) ∧
    (let s := { bench with enmon := { bench.enmon with colErrs := [(3, 4)] } }
     Tbl.getD s.enmon.colErrs 3 0 = 4 ∧ Tbl.getD s.enmon.colErrs 2 0 ≠ 4) ∧
    ((bench.cluster 0).cache.countP fun y => y.draining) < 4096 := by decide +kernel

theorem witness_PagesAreServedAndUnmapped_others :
    (let s := tableAt [(0, 0, down 1 false), (1, 1, leafOn 0x13 0)]
     let kl := s.walkKey 1 0 (2 ^ 24)
     let old := BitVec.ofNat 64 (s.readN kl.1 8)
     (old.getLsbD 0 && old.getLsbD 1 && old.getLsbD 4) = true ∧ (0 : Word).getLsbD 0 = false) ∧
    ([0, 2].all fun d =>
      let p : PageWait := { ctx := 1, pcn := 0, off := 64, job := 1, drain := d }
      let s := { benchNode (inboxNode 2 4096 id) with waits := [p] }
      decide (s.waits[0]? = some p) && p.blk.isNone && decide (p.job ≠ 0) && decide (Tbl.find s.launches 1 = some (inboxNode 2 4096 id) ∧
        (inboxNode 2 4096 id).kind = 2 ∧ (inboxNode 2 4096 id).vec = [])) = true ∧
    (let p : PageWait := { ctx := 1, pcn := 0, off := 2 ^ 24 }
     let s := { tableAt [(0, 0, down 1 false), (1, 1, leafOn 0x27 64)] with waits := [p] }
     p ∈ s.waits ∧
       (match s.xlate 1 0 (2 ^ 24) false false with
         | .ok _ _ => true
         | _ => false) = true) ∧
    (∀ i, i < 64 → (leafOn 0x03 64).getLsbD i = (leafOn 0x27 64).getLsbD i ∨ (i = 2 ∨ i = 5) ∧ (leafOn 0x03 64).getLsbD i = false) ∧
    (let w := bench.watch 1
     (bench.watches.map (·.1)).Nodup ∧ Tbl.find bench.watches 1 = some w ∧ w.ctx = 1 ∧ 0 ∈ w.cols ∧ 5 ∉ w.cols ∧ w.ended = false ∧ w.departed = false) := by decide +kernel

theorem witness_ContextsSwitch_stores :
    (bench.cw.fifo = [] ∧ bench.cw.ops = [] ∧ Spec.replayKindOf { kind := .sld } ≠ none ∧ Spec.replayKindOf { kind := .sst } = none) ∧
    (let e : StoreEnt := { op := 9, acc := { size := 4, pend := true, addr := 2 ^ 24, key := 0 } }
     let s := (benchW fun w => { w with bank := .standby, fifo := [e] }).modCore 0 fun c => { c with standby := .spill 1 }
     let t := { s with waits := [{ ctx := 1, off := 2 ^ 24 }] }
     s.cw.fifo = e :: [] ∧ s.drainedOut s.cw = true ∧ t.drainedOut t.cw = false) ∧
    (let e : StoreEnt := { op := 9, seq := 7, lane := true, acc := hostAcc }
     let s := benchPW fun w => { w with fifo := [e] }
     let t := benchPW fun w => { w with fifo := [e], ops := [olderLoad] }
     s.storeHeld s.cw e = false ∧ t.storeHeld t.cw e = true) := by decide +kernel

theorem witness_TrapEntrySavesTheWatch_replay :
    let o : Op := { id := 5, kind := .sld, d := 4, accs := [{ size := 4 }] }
    let e : LqEntry := { instr := .iadd (ops3 6 0), mask := 1, len := 1 }
    let s := (benchD (4 * 2 ^ 64)).setW { (benchD (4 * 2 ^ 64)).cw with ops := [o], lq := [e], chain := some { off := 2 } }
    s.cw.fifo = [] ∧ (∀ p ∈ s.cw.ops, Spec.replayKindOf p ≠ none) ∧
      (Spec.replayEntries s.cw = [{ kind := 1 + 1, op := o }, { kind := 5, chain := [{ e with again := true }] }]) := by decide +kernel

/-- What the reading of the lane code of a remainder comes to, which the handler moved to the second page with the given entry: 0 a page fault,
1 a wait, 2 it can be read. -/
def codeForm (pte : Nat) (drains : Bool) : Nat :=
  let h : Held := { lq := [{}] }
  let s := (benchH 0 [] 4).setW { (benchH 0 [] 4).cw with held := some h }
  let s := (s.writeN (s.cw.frameKey + 0x600) 16 (2 ^ 21 + 2 ^ 31)).writeN (memKey .slice 0 0 4104) 8 pte
  let s := if drains then s.modCluster 0 fun c => { c with cache := [{ ctx := 1, page := 2 ^ 24, size := 2 ^ 24, draining := true }] } else s
  match s.lanePages s.cw h with
  | .page _ _ => 0
  | .wait => 1
  | _ => 2

theorem witness_RteRestoresTheWatch_code : [codeForm 0x8003 false, codeForm 0x8023 true, codeForm 0x8023 false] = [0, 1, 2] := by decide +kernel

theorem witness_RteRestoresTheWatch_own :
    (let o : Op := { id := 5, kind := .sst, seq := 9, accs := [{ size := 4, key := memKey .plain 1 0 0, addr := plain 0 }] }
     let older : Op := { id := 4, kind := .sld, seq := 3, accs := [{ size := 4, key := memKey .plain 1 0 0, addr := plain 0 }] }
     let f : StoreEnt := { op := 5, seq := 9, acc := { size := 4, key := memKey .plain 1 0 0, addr := plain 0 } }
     let s := benchPW fun w => { w with inh := true, ops := [o], fifo := [f], held := some { replay := [{ kind := 2, op := older }], at_ := 20 } }
     let t := benchPW fun w => { w with inh := true, ops := [o], fifo := [f], held := some { at_ := 20 } }
     s.waitsRte s.cw o = true ∧ t.waitsRte t.cw o = false ∧ o.done = false) := by decide +kernel

theorem witness_RunsStartAndComplete_bare :
    (let l := nodeOf [] fun l => { l with blocks := 1, placed := [0] }
     let bare := nodeOf [(5, 0)] id
     let s := { benchNode l with launches := [(1, l), (2, bare)], next := 3 }
     (s.launches.map (·.1)).Nodup ∧ Tbl.find s.launches 2 = some bare ∧ bare.graph = l.graph ∧ bare.placed = [] ∧ bare.hdrBlocks = 0 ∧ l.hdrBlocks ≠ 0 ∧
       (2 : Nat) ≠ 1) ∧
    (let l := nodeOf [(0, 0x4F4D4631 + 1 <<< 36), (4, 0), (5, 8193), (9, 0)] id; l.cosched = true ∧ l.team = [] ∧ 32 * 256 < l.hdrBlocks) := by decide +kernel

theorem witness_HeadsAndRecordsAreServed_responders :
    (let l := nodeOf [] fun l => { l with cores := [(0, 0)], placed := [0] }
     let c := census fun c => { c with spawns := [{ core := 5, index := 0 }], job := { c.job with launch := 1 } }
     let s := (benchNode l).modCtx 1 fun k => { k with censuses := [c] }
     Tbl.find s.launches 1 = some l ∧ s.paramDue 1 5 l = true ∧ Tbl.find l.cores 5 = none ∧ s.paramDue 1 0 l = false ∧ s.paramDue 1 6 l = false ∧
       c ∈ (s.ctx l.ctx).censuses ∧ c.job.launch = 1 ∧ ∃ x ∈ c.spawns, x.core = coreOfCol 20) ∧
    (let l := nodeOf [] fun l => { l with cores := [(0, 1)], placed := [0] }
     let s := benchNode l
     let s := { s with watches := [(1, { bench.cw with launch := 1, stopped := true })] }
     s.paramDue 1 0 l = true ∧ s.runsOn l.ctx 0 = true ∧
       ∃ x ∈ s.watches, x.2.launch = 1 ∧ x.2.stopped = true ∧ x.2.departed = false ∧ Tbl.getD l.cores x.2.core 0 = 1) := by decide +kernel

theorem witness_HostWindowsAndMailbox_firmware :
    let s := { benchLink id with enmon := { hlock := [15], hrange := List.replicate 16 (0, 0x80000) }, linkUp := false }
    let cur := s.hrangeOf 15
    (15 < 16 ∧ (0x40000 : Word).toNat % 2 ^ 18 = 0 ∧ 15 ∈ s.enmon.hlock ∧ cur.1.toNat ≤ (0x40000 : Word).toNat ∧ (0x80000 : Word).toNat ≤ cur.2.toNat) ∧
      14 ∉ s.enmon.hlock := by decide +kernel

theorem witness_CollectiveRunsMove_held :
    (let s := lockedBy 47 48 (benchRun id fun x => { x with ended := true })
     let r := runOn id fun x => { x with ended := true }
     s.runOf 5 = some r ∧ ∃ a ∈ r.members, s.lockWaits 5 r.ctx (a.obj / 2 ^ 64 % 2 ^ 16) 1 (a.obj % 2 ^ 64 + 16) 32 true = true) ∧
    (let r := runOn (fun r => { r with writes := [(0, 0, 1)] }) id
     let s := benchRun (fun r => { r with writes := [(0, 0, 1)] }) id
     ∃ x ∈ r.strands, ∃ h ∈ r.writes, h.2.1 ≤ 0 ∧ 0 < h.2.2 ∧
       (match s.chunkAt r x h.1 0 true with
         | .at _ => true
         | _ => false) = true) ∧
    (let r := runOn id fun x => { x with streams := [(1, { given := 3, done := 1 })] }
     (benchP.group 1 9).use = r.use ∧ ∃ x ∈ r.strands, ∃ k ∈ x.streams, k.2.done + k.2.landed.length < k.2.given) := by decide +kernel

theorem witness_CollectiveRunsMove_grants :
    (let act : Act := { op := 1, ch := 0, ck := 0, n := 3, peer := 1 }
     let f := fun (x : Strand) => { x with xfers := [{ act := act }], streams := [(1, { taken := 3, ins := [3] })] }
     let s := benchRun id f
     let r := runOn id f
     s.runOf 5 = some r ∧ s.runGoes r = true ∧ (r.strand 0).headWaits 1 = true ∧ (r.strand 0).headWaits 2 = false ∧
       (s.tenderStreams (tenderOf 0)).foldl (fun n k => n + (k.given - k.done)) 0 = 0 ∧ min 3 (0 + (512 - 384)) = 3) ∧
    (let k : Stream := { outs := [2, 0], theirs := [(0, 3)], ins := [0] }
     (∃ y ∈ k.theirs, ∃ m ∈ k.outs[y.1]?, m % 65536 ≠ y.2) ∧ ¬∃ y ∈ ({ k with theirs := [(0, 2)] } : Stream).theirs, ∃ m ∈ k.outs[y.1]?, m % 65536 ≠ y.2) ∧
    (let a : Act := { op := 0, ch := 0, ck := 0, n := 0, peer := 1 }
     (∀ c ∈ a.reads ++ a.writes, c.1 = 16 ∨ c.2.2 ≤ gdNchk (groupDesc 1)) ∧ a.op = 0 ∧ [1] ≠ [] ∧ [1].Nodup) := by decide +kernel

theorem witness_BeamCarriesFlits_aborts :
    (let s := benchRun id id
     let f := flit 5 fun f => { f with use := 1 }
     inOrder s 3 f = true ∧ f.pay ≠ 0x0C ∧ s.flitTarget f = none ∧ 1 ≤ (f.use - (s.group 1 9).use).toNat ∧ (f.use - (s.group 1 9).use).toNat < 128 ∧
       f.use ∉ (s.group 1 9).ahead ∧ (s.flitTarget (flit 5 fun f => { f with pay := 0x0C })).isSome) ∧
    (let r := runOn id fun x => { x with streams := [(1, { outs := [0] })] }
     let s := { benchP with past := [r], address := 1 }
     (s.pastTarget (flit 2 id)).isSome ∧ s.flitTarget (flit 2 id) = none ∧ 0 ∈ ((r.strand 0).stream 1).outs) ∧
    (readLens (BitVec.ofNat 2048 0) 1024 0 = [] ∧ (let k : Stream := { outs := [0] }; Tbl.find k.theirs 0 = none ∧ k.outs[0]? = some 0)) ∧
    (let r := runOn id fun x => { x with code := 10 }; (benchRun id fun x => { x with code := 10 }).runGoes r = false) := by decide +kernel

/-! ## One step of an instruction: results worked out by hand from the rules, or the spec's own examples -/

/-- S[d] after a control instruction, from given S registers. -/
def ctl (i : Instr) (l : List (Reg × Word)) (d : Reg) : Word := (after i (benchS l)).cw.sreg d

/-- R95: each result wraps, shifts by b[5:0], or compares as its row says. -/
theorem test_integer_results :
    ctl (.add 3 4 5) [(4, 0xFFFFFFFFFFFFFFFF), (5, 2)] 3 = 1 ∧ ctl (.sub 3 4 5) [(4, 1), (5, 2)] 3 = 0xFFFFFFFFFFFFFFFF ∧
    ctl (.mul 3 4 5) [(4, 0x100000001), (5, 0x100000001)] 3 = 0x200000001 ∧ ctl (.mulh 3 4 5) [(4, 0xFFFFFFFFFFFFFFFF), (5, 2)] 3 = 0xFFFFFFFFFFFFFFFF ∧
    ctl (.mulhu 3 4 5) [(4, 0xFFFFFFFFFFFFFFFF), (5, 2)] 3 = 1 ∧ ctl (.andn 3 4 5) [(4, 0xFF), (5, 0x0F)] 3 = 0xF0 ∧
    ctl (.shl 3 4 5) [(4, 3), (5, 65)] 3 = 6 ∧ ctl (.shr 3 4 5) [(4, 0x8000000000000000), (5, 63)] 3 = 1 ∧
    ctl (.sar 3 4 5) [(4, 0x8000000000000000), (5, 63)] 3 = 0xFFFFFFFFFFFFFFFF ∧ ctl (.rol 3 4 5) [(4, 0x8000000000000001), (5, 1)] 3 = 3 ∧
    ctl (.min 3 4 5) [(4, 0xFFFFFFFFFFFFFFFF), (5, 2)] 3 = 0xFFFFFFFFFFFFFFFF ∧ ctl (.minu 3 4 5) [(4, 0xFFFFFFFFFFFFFFFF), (5, 2)] 3 = 2 ∧
    ctl (.max 3 4 5) [(4, 0xFFFFFFFFFFFFFFFF), (5, 2)] 3 = 2 ∧ ctl (.maxu 3 4 5) [(4, 0xFFFFFFFFFFFFFFFF), (5, 2)] 3 = 0xFFFFFFFFFFFFFFFF ∧
    ctl (.popc 3 4) [(4, 0xF0F)] 3 = 8 ∧ ctl (.clz 3 4) [(4, 1)] 3 = 63 ∧ ctl (.clz 3 4) [] 3 = 64 ∧ ctl (.ctz 3 4) [(4, 8)] 3 = 3 ∧ ctl (.ctz 3 4) [] 3 = 64 ∧
    ctl (.seq 3 4 5) [(4, 7), (5, 7)] 3 = 1 ∧ ctl (.sne 3 4 5) [(4, 7), (5, 7)] 3 = 0 ∧ ctl (.slt 3 4 5) [(4, 0xFFFFFFFFFFFFFFFF)] 3 = 1 ∧
    ctl (.sltu 3 4 5) [(4, 0xFFFFFFFFFFFFFFFF)] 3 = 0 ∧ ctl (.brev 3 4) [(4, 1)] 3 = 0x8000000000000000 ∧ ctl (.mov 3 4) [(4, 9)] 3 = 9 ∧
    ctl (.xor 3 4 5) [(4, 5), (5, 3)] 3 = 6 ∧ ctl (.or 3 4 5) [(4, 5), (5, 3)] 3 = 7 ∧ ctl (.and 3 4 5) [(4, 5), (5, 3)] 3 = 1 := by decide +kernel

/-- R96: the edge cases of division; R8: the destination may be a source, and S0 stays 0. -/
theorem test_division_edges :
    ctl (.div 3 4 5) [(4, 0xFFFFFFFFFFFFFFF9), (5, 2)] 3 = 0xFFFFFFFFFFFFFFFD ∧ ctl (.rem 3 4 5) [(4, 0xFFFFFFFFFFFFFFF9), (5, 2)] 3 = 0xFFFFFFFFFFFFFFFF ∧
    ctl (.div 3 4 5) [(4, 7)] 3 = 0xFFFFFFFFFFFFFFFF ∧ ctl (.rem 3 4 5) [(4, 7)] 3 = 7 ∧ ctl (.divu 3 4 5) [(4, 7)] 3 = 0xFFFFFFFFFFFFFFFF ∧
    ctl (.remu 3 4 5) [(4, 7)] 3 = 7 ∧ ctl (.div 3 4 5) [(4, 0x8000000000000000), (5, 0xFFFFFFFFFFFFFFFF)] 3 = 0x8000000000000000 ∧
    ctl (.rem 3 4 5) [(4, 0x8000000000000000), (5, 0xFFFFFFFFFFFFFFFF)] 3 = 0 ∧ ctl (.divu 3 3 5) [(3, 0xFFFFFFFFFFFFFFFF), (5, 2)] 3 = 0x7FFFFFFFFFFFFFFF ∧
    ctl (.add 0 4 4) [(4, 1)] 0 = 0 := by decide +kernel

/-- R97 to R101: sign extension of the immediate, LI with LIH, addresses (the field places of R99, R100), MAD. -/
theorem test_immediates_and_addresses :
    ctl (.addi 3 4 0xFFF) [(4, 5)] 3 = 4 ∧ ctl (.addi64 3 4 0xFFFFFFFF) [(4, 5)] 3 = 4 ∧ ctl (.andi 3 4 0x800) [(4, 0xFFFFFFFFFFFFFFFF)] 3 = 0xFFFFFFFFFFFFF800 ∧
    ctl (.ori 3 4 1) [(4, 2)] 3 = 3 ∧ ctl (.xori 3 4 0xFFF) [] 3 = 0xFFFFFFFFFFFFFFFF ∧ ctl (.slti 3 4 0xFFF) [] 3 = 0 ∧
    ctl (.shli 3 4 63) [(4, 1)] 3 = 0x8000000000000000 ∧ ctl (.shri 3 4 12) [(4, 0x5000)] 3 = 5 ∧ ctl (.sari 3 4 1) [(4, 0x8000000000000000)] 3 = 0xC000000000000000 ∧
    ctl (.li 3 0xFFB) [] 3 = 0xFFFFFFFFFFFFFFFB ∧ ctl (.li64 3 0x80000000) [] 3 = 0xFFFFFFFF80000000 ∧
    ctl (.lih 3 3 0x12345678) [(3, 0xFFFFFFFF80000000)] 3 = 0x1234567880000000 ∧
    ctl (.addr 3 4 5 1) [(4, 0x7FF), (5, 0xFFFFFFFFFFFFFFFF)] 3 = 0x001FFFFFFFFFFFFF ∧ ctl (.colxCol 3 4) [(4, 0x2C000000000000)] 3 = 0x300 ∧
    ctl (.colxOff 3 4) [(4, 0xFFFFFC0000000005)] 3 = 5 ∧ ctl (.colxTag 3 4) [(4, 0x00F0000000000000)] 3 = 15 ∧
    ctl (.mad 3 4 5 6) [(4, 6), (5, 7), (6, 0xFFFFFFFFFFFFFFFF)] 3 = 41 := by decide +kernel

/-- The offset of the fragment after a control instruction that stands at 64. -/
def pcOf (i : Instr) (l : List (Reg × Word)) : Off :=
  (after i ((benchS l).modFrag fun f => { f with pc := 64 })).frag.pc

/-- R102 to R105: taken and not taken, by the word; the link; bits above 41 of a target are ignored. -/
theorem test_branches :
    pcOf (.br .lt 3 4 0xFFFFFFFA) [(3, 0xFFFFFFFFFFFFFFFF)] = 40 ∧ pcOf (.br .ltu 3 4 0xFFFFFFFA) [(3, 0xFFFFFFFFFFFFFFFF)] = 72 ∧
    pcOf (.br .eq 3 4 0) [] = 64 ∧ pcOf (.jmp 3) [] = 76 ∧ pcOf (.jr 3) [(3, 0xFFC0000000000080)] = 0x80 ∧ pcOf (.add 3 4 5) [] = 68 ∧
    ((after (.call 40) (bench.modFrag fun f => { f with pc := 64 })).cw.sreg 63 = 72) ∧
    (let t := after (.callr 63) ((benchS [(63, 0x100)]).modFrag fun f => { f with pc := 64 }); t.cw.sreg 63 = 68 ∧ t.frag.pc = 0x100) := by decide +kernel

/-- R105, R260: a target off a word raises PCALIGN: with a vector set, the watch stands at it in its handler, the cause in the frame's record. -/
theorem test_trap_goes_to_the_vector :
    let s := (benchD (0x400 * 2 ^ 64)).setW (bench.cw.setS 3 2)
    let t := after (.jr 3) s
    t.cw.inh = true ∧ (t.cw.entry 0).pc = 0x400 ∧ (t.cw.entry 0).valid = true := by decide +kernel

/-- V3 of lane 0 after a lane instruction V3 := op V1, V2 whose lanes 0 and 1 are active. -/
def lane (i : Instr) (a b : W32) : W32 := rowAt ((after i (benchV 3 a b)).cw.vreg 3) 0

/-- Operands with a TYPE and a MOD. -/
def typed (ty : B4) (md : BitVec 5) : LaneOps := { ops3 ty 0 with md := md }

/-- R136 to R139. -/
theorem test_integer_lanes :
    lane (.iadd (typed 6 0)) 0xFFFFFFFF 2 = 1 ∧ lane (.isub (typed 6 0)) 1 2 = 0xFFFFFFFF ∧ lane (.imul (typed 6 0)) 0x10001 0x10001 = 0x20001 ∧
    lane (.imulh (typed 6 0)) 0xFFFFFFFF 2 = 0xFFFFFFFF ∧ lane (.imulhu (typed 6 0)) 0xFFFFFFFF 2 = 1 ∧ lane (.imin (typed 6 0)) 0xFFFFFFFF 2 = 0xFFFFFFFF ∧
    lane (.imaxu (typed 6 0)) 0xFFFFFFFF 2 = 0xFFFFFFFF ∧ lane (.laneShl (typed 6 0)) 3 33 = 6 ∧ lane (.laneSar (typed 6 0)) 0x80000000 31 = 0xFFFFFFFF ∧
    lane (.rot (typed 6 0)) 0x80000001 1 = 3 ∧ lane (.iadds (typed 6 0)) 0x7FFFFFFF 1 = 0x7FFFFFFF ∧ lane (.isubs (typed 6 0)) 0x80000000 1 = 0x80000000 ∧
    lane (.iabs (typed 6 0)) 0x80000000 0 = 0x80000000 ∧ lane (.iabs (typed 6 1)) 0x80000000 0 = 0x7FFFFFFF ∧ lane (.inot (typed 6 0)) 0 0 = 0xFFFFFFFF ∧
    lane (.laneClz (typed 6 0)) 0 0 = 32 ∧ lane (.laneBrev (typed 6 0)) 1 0 = 0x80000000 ∧ lane (.lanePopc (typed 6 0)) 0xF0F 0 = 8 ∧
    lane (.dot4 { typed 8 0 with c := 1 }) 0x01FF0203 0x01020304 = 0x01FF0203 + 0x01 - 2 + 6 + 12 ∧
    rowAt ((after (.bfx { typed 6 1 with c := 2 }) (benchV 3 0xF00 4)).cw.vreg 3) 0 = 0 := by decide +kernel

/-- A lane that is not active keeps its destination (R17). -/
theorem test_inactive_lanes_keep :
    let t := after (.iadd (typed 6 0)) (benchV 1 5 6)
    rowAt (t.cw.vreg 3) 0 = 11 ∧ rowAt (t.cw.vreg 3) 1 = 0 := by decide +kernel

/-- R143 to R147: 1.0 + 2.0, 2^24 + 1 under RNE and RUP, −0 below +0, NaN classes, the sign of a rounded zero. -/
theorem test_float_lanes :
    lane (.fadd (typed 0 0)) 0x3F800000 0x40000000 = 0x40400000 ∧ lane (.fadd (typed 0 0)) 0x4B800000 0x3F800000 = 0x4B800000 ∧
    lane (.fadd (typed 0 3)) 0x4B800000 0x3F800000 = 0x4B800001 ∧ lane (.fsub (typed 0 0)) 0x3F800000 0x3F800000 = 0 ∧
    lane (.fmul (typed 0 0)) 0xC0000000 0x40400000 = 0xC0C00000 ∧ lane (.ffma { typed 0 0 with c := 1 }) 0x7F800000 0 = 0x7FC00000 ∧
    lane (.fmin (typed 0 0)) 0 0x80000000 = 0x80000000 ∧ lane (.fmax (typed 0 0)) 0x7FC00001 0x3F800000 = 0x3F800000 ∧
    lane (.fabs (typed 0 0)) 0xFFA00001 0 = 0x7FA00001 ∧ lane (.fneg (typed 0 0)) 0 0 = 0x80000000 ∧ lane (.fclass (typed 0 0)) 0x7FA00000 0 = 0x100 ∧
    lane (.fclass (typed 0 0)) 0x80000001 0 = 4 ∧ lane (.frint (typed 0 0)) 0xBE800000 0 = 0x80000000 ∧ lane (.rcp (typed 0 0)) 0x40800000 0 = 0x3E800000 ∧
    lane (.sqrt (typed 0 0)) 0x40000000 0 = 0x3FB504F3 ∧ lane (.exp2 (typed 0 0)) 0x40400000 0 = 0x41000000 ∧ lane (.log2 (typed 0 0)) 0x41000000 0 = 0x40400000 ∧
    lane (.hadd2 (typed 1 0)) 0x3C004000 0x3C003C00 = 0x40004200 := by decide +kernel

/-- R140, R141, R145: the predicate of the active lanes. -/
theorem test_compares :
    (let s := (benchV 3 0xFFFFFFFF 2).setW { (benchV 3 0xFFFFFFFF 2).cw with p := Vector.replicate 16 0xF0 }
     ((after (.icmp (typed 6 2)) s).cw.preg 3 = 0xF3 ∧ (after (.icmp (typed 7 2)) s).cw.preg 3 = 0xF0)) ∧
    (let s := benchV 3 0x7FC00000 2
     (after (.fcmp (typed 0 1)) s).cw.preg 3 = 3 ∧ (after (.fcmp (typed 0 0)) s).cw.preg 3 = 0 ∧ (after (.fcmp (typed 0 8)) s).cw.preg 3 = 3) := by
  decide +kernel

/-- The spec's own examples of R154, R153, R156 and R157. -/
theorem test_conversions :
    (let s := { benchPW (fun w => { w with v := [(4, row 0x3F800000), (5, row 0xC0400000), (14, row 0x11223344)] }) with lane := { mask := 1 } }
     let t := after (.pack ⟨14, false, 4, false, 5, 0, 0, false, 0, 0, 0x483⟩) s
     rowAt (t.cw.vreg 14) 0 = 0xC4383344) ∧
    (let s := { benchPW (fun w => { w with v := [(3, row 0xC4383344)] }) with lane := { mask := 1 } }
     rowAt ((after (.cvt ⟨12, false, 3, false, 0, 0, 0, false, 3, 0, 0x400⟩) s).cw.vreg 12) 0 = 0x3F800000) ∧
    (let s := { benchPW (fun w => { w with v := [(7, row 0x42C80000)] }) with lane := { mask := 1 } }
     rowAt ((after (.scale ⟨8, false, 7, false, 0, 0, 0, false, 0, 0, 0x3⟩) s).cw.vreg 8) 0 = 0x7D ∧
       rowAt ((after (.scale ⟨8, false, 7, false, 0, 0, 0, false, 0, 0, 0x23⟩) s).cw.vreg 8) 0 = 0x40800000) := by decide +kernel

/-- The example of R156: 1.0, −0.75, 9.5, 3.0, −20.0, 0.1, 7.9, 100.0 under the scale 2.0 and the threshold 8.0. -/
theorem test_qnt_example :
    let x : Row := Vector.ofFn fun i => ([0x3F800000, 0xBF400000, 0x41180000, 0x40400000, 0xC1A00000, 0x3DCCCCCD, 0x40FCCCCD, 0x42C80000][i.val]?).getD 0
    let s := benchPW fun w => { w with v := [(7, x), (1, row 0x40000000), (2, row 0x41000000)], p := w.p.set 1 0xFF }
    let t := after (.qnt ⟨18, false, 7, false, 1, 2, 1, false, 0, 0, 0x286083⟩) { s with lane := { mask := 0xFFFF } }
    (List.range 8).map (rowAt (t.cw.vreg 18)) = [0x40, 0xBC, 0, 0x4C, 0, 0x25, 0x58, 0] ∧ t.cw.preg 6 = 0x94 ∧
      rowAt (t.cw.vreg 40) 0 = 0xC1A04118 ∧ rowAt (t.cw.vreg 40) 1 = 0x42C8 := by decide +kernel

/-- R161 to R165, R142: a butterfly, a ballot, a sum and a scan over two active lanes, and the lane's own number. -/
theorem test_cross_lanes :
    (let x : Row := Vector.ofFn fun i => BitVec.ofNat 32 (10 + i.val)
     let s := { benchPW (fun w => { w with v := [(1, x), (2, row 1)] }) with lane := { mask := 0xFFFF } }
     let v := fun (i : Instr) n => rowAt ((after i s).cw.vreg 3) n
     v (.vred (typed 6 0)) 5 = 16 * 10 + 120 ∧ v (.vscan (typed 6 0)) 2 = 10 + 11 + 12 ∧ v (.lid (typed 6 0)) 7 = 7 ∧ v (.lid (typed 6 1)) 7 = 7) := by
  decide +kernel

/-- R191, R178: a control store waits in the FIFO, its little-endian bytes reach memory at the order point, a load returns them. -/
theorem test_store_reaches_memory_in_bytes :
    let s := after (.sst 4 5 2) (benchPS [(4, plain 8), (5, 0x11223344AABBCCDD)])
    let t := after (.storePerform 1) { s with lane := {} }
    s.cw.fifo.length = 1 ∧ t.readN (memKey .plain 1 0 8) 4 = 0xAABBCCDD ∧
      memByte t.mem t.epoch (memKey .plain 1 0 8) = 0xDD ∧ t.cw.fifo = [] := by decide +kernel

/-- R257: ABAR.INIT, and the arrival that completes the phase: the object's words, and the token. -/
theorem test_barrier_object :
    (let t := after (.abarInit 20 21 .rlx .core) (benchPS [(20, plain 0), (21, 3)])
     t.readN (memKey .plain 1 0 0) 16 = 3 + 3 * 2 ^ 32 + 0xAB01 * 2 ^ 112) ∧
    (let s := (benchPS [(20, plain 0), (21, 1)]).writeN (memKey .plain 1 0 0) 16 (1 + 5 * 2 ^ 32 + 9 * 2 ^ 64 + 0xAB01 * 2 ^ 112)
     let t := after (.abarArrive 3 20 21 .rlx .core) s
     t.readN (memKey .plain 1 0 0) 16 = 5 + 5 * 2 ^ 32 + 10 * 2 ^ 64 + 0xAB01 * 2 ^ 112) := by decide +kernel

/-- R34: the pair that the rule rejects conflicts in V7, which the first line writes and the second reads; the pair that passes the product
through B0 does not; a chain that was never aborted leaves nothing undefined. -/
theorem test_chain_conflicts :
    let mul (d : Sel) (nw : Bool) : LqEntry := { instr := .fmul ⟨d, nw, 2, false, 3, 0, 0, false, 0, 0, 0⟩, again := true, len := 2 }
    let add (a : Sel) : LqEntry := { instr := .fadd ⟨10, false, a, true, 4, 0, 0, false, 0, 0, 0⟩, again := true, len := 2, pos := 1 }
    let w : Watch := { width := 16 }
    w.looseRegs [mul 7 false, add 7] = [7] ∧ w.looseRegs [mul 0 true, add 0x180] = [] ∧
      w.looseRegs [{ mul 7 false with again := false }, { add 7 with again := false }] = [] ∧ w.looseRegs [mul 2 false, add 0x180] = [2] := by
  decide +kernel

/-- R175: a private window has an owner while a watch lives in its slot and column. -/
theorem test_windows_without_owner :
    bench.ownerless {} (memKey .priv 1 0 (5 * 2 ^ 18)) = true ∧ bench.ownerless {} (memKey .priv 1 0 64) = false ∧
      bench.ownerless {} (memKey .priv 1 9 0) = true ∧ bench.ownerless {} (memKey .slice 0 0 0) = false := by decide +kernel

theorem test_decode_integer_1 :
    decode 0x00510300 0 0 = .add 3 4 5 ∧
    decode 0x0440C200 0 0 = .sub 2 3 4 ∧
    decode 0x08920700 0 0 = .mul 7 8 9 ∧
    decode 0x0C614400 0 0 = .mulh 4 5 6 ∧
    decode 0x10718500 0 0 = .mulhu 5 6 7 ∧
    decode 0x1481C600 0 0 = .div 6 7 8 ∧
    decode 0x18920700 0 0 = .divu 7 8 9 ∧
    decode 0x1CA24800 0 0 = .rem 8 9 10 ∧
    decode 0x20B28900 0 0 = .remu 9 10 11 ∧
    decode 0x24C2CA00 0 0 = .and 10 11 12 := by
  decide +kernel

theorem test_decode_integer_2 :
    decode 0x28D30B00 0 0 = .or 11 12 13 ∧
    decode 0x2CE34C00 0 0 = .xor 12 13 14 ∧
    decode 0x30F38D00 0 0 = .andn 13 14 15 ∧
    decode 0x3503CE00 0 0 = .shl 14 15 16 ∧
    decode 0x39140F00 0 0 = .shr 15 16 17 ∧
    decode 0x3D245000 0 0 = .sar 16 17 18 ∧
    decode 0x41349100 0 0 = .rol 17 18 19 ∧
    decode 0x4544D200 0 0 = .min 18 19 20 ∧
    decode 0x49551300 0 0 = .max 19 20 21 ∧
    decode 0x4D655400 0 0 = .minu 20 21 22 := by
  decide +kernel

theorem test_decode_integer_3 :
    decode 0x51759500 0 0 = .maxu 21 22 23 ∧
    decode 0x54010300 0 0 = .popc 3 4 ∧
    decode 0x58061700 0 0 = .clz 23 24 ∧
    decode 0x5C065800 0 0 = .ctz 24 25 ∧
    decode 0x61B69900 0 0 = .seq 25 26 27 ∧
    decode 0x65C6DA00 0 0 = .sne 26 27 28 ∧
    decode 0x69D71B00 0 0 = .slt 27 28 29 ∧
    decode 0x6DE75C00 0 0 = .sltu 28 29 30 ∧
    decode 0x70079D00 0 0 = .brev 29 30 ∧
    decode 0x7407DE00 0 0 = .mov 30 31 := by
  decide +kernel

theorem test_decode_immediate_1 :
    decode 0x02018604 0 0 = .addi 6 6 32 ∧
    decode 0x00018605 0x186a0 0 = .addi64 6 6 100000 ∧
    decode 0x0FF10408 0 0 = .andi 4 4 0xFF ∧
    decode 0x00018509 0xfffffff0 0 = .andi64 5 6 0xFFFFFFF0 ∧
    decode 0xFFE2070C 0 0 = .ori 7 8 0xFFE ∧
    decode 0x0002070D 0x5 0 = .ori64 7 8 5 ∧
    decode 0x00128910 0 0 = .xori 9 10 1 ∧
    decode 0x00028911 0x7 0 = .xori64 9 10 7 ∧
    decode 0xFFF0C218 0 0 = .slti 2 3 0xFFF ∧
    decode 0x0000C219 0x9 0 = .slti64 2 3 9 := by
  decide +kernel

theorem test_decode_immediate_2 :
    decode 0x03F14414 0 0 = .shli 4 5 63 ∧
    decode 0x04C10414 0 0 = .shri 4 4 12 ∧
    decode 0x08114414 0 0 = .sari 4 5 1 ∧
    decode 0xFFB0091C 0 0 = .li 9 0xFFB ∧
    decode 0x0000051D 0x0 0 = .li64 5 0 ∧
    decode 0x0001452D 0x0 0 = .lih 5 5 0 := by
  decide +kernel

theorem test_decode_address :
    decode 0x05655420 0 0 = .addr 20 21 22 1 ∧
    decode 0x00050324 0 0 = .colxCol 3 20 ∧
    decode 0x04050324 0 0 = .colxOff 3 20 ∧
    decode 0x08050324 0 0 = .colxTag 3 20 ∧
    decode 0x34C2CA28 0 0 = .mad 10 11 12 13 := by
  decide +kernel

theorem test_decode_branch_1 :
    decode 0x08718041 0xffffffff 0 = .br .lt 6 7 0xFFFFFFFF ∧
    decode 0x1440C041 0xfffffffa 0 = .br .geu 3 4 0xFFFFFFFA ∧
    decode 0x00204041 0x9 0 = .br .eq 1 2 9 ∧
    decode 0x04204041 0x9 0 = .br .ne 1 2 9 ∧
    decode 0x0C204041 0x9 0 = .br .ge 1 2 9 ∧
    decode 0x10204041 0x9 0 = .br .ltu 1 2 9 ∧
    decode 0x00000045 0x3 0 = .jmp 3 ∧
    decode 0x00000049 0x28 0 = .call 40 ∧
    decode 0x000FC04C 0 0 = .jr 63 ∧
    decode 0x00044050 0 0 = .callr 17 := by
  decide +kernel

theorem test_decode_branch_2 :
    decode 0x0000C056 0x4 0x9 = .split 3 4 9 ∧
    decode 0x0400C056 0x4 0x9 = .splitN 3 4 9 ∧
    decode 0x00000058 0 0 = .fuse ∧
    decode 0x0000005D 0x228 0 = .callv 40 := by
  decide +kernel

theorem test_decode_control_memory_1 :
    decode 0x0C050760 0 0 = .sld 7 20 3 ∧
    decode 0x1C050761 0x18 0 = .sld64 7 20 7 24 ∧
    decode 0x08950064 0 0 = .sst 20 9 2 ∧
    decode 0x08950065 0x8 0 = .sst64 20 9 2 8 ∧
    decode 0x00950569 0x16 0 = .satom 5 20 9 .add 0 false .rel .dev ∧
    decode 0x04950569 0x9 0 = .satom 5 20 9 .min 0 false .acq .crew ∧
    decode 0x08950569 0x12 0 = .satom 5 20 9 .max 0 false .rel .col ∧
    decode 0x0C950569 0x1b 0 = .satom 5 20 9 .minu 0 false .ar .core ∧
    decode 0x10950569 0x4 0 = .satom 5 20 9 .maxu 0 false .rlx .clu ∧
    decode 0x14950569 0xd 0 = .satom 5 20 9 .and 0 false .acq .die := by
  decide +kernel

theorem test_decode_control_memory_2 :
    decode 0x18950569 0x16 0 = .satom 5 20 9 .or 0 false .rel .dev ∧
    decode 0x1C950569 0x1f 0 = .satom 5 20 9 .xor 0 false .ar .sys ∧
    decode 0x20950569 0x0 0 = .satom 5 20 9 .swap 0 false .rlx .wch ∧
    decode 0x0095056D 0x16 0 = .xatom 5 20 9 .add 0 false .rel .dev ∧
    decode 0x2495056D 0x2be 0 = .xatom 5 20 9 .cas 10 true .ar .dev ∧
    decode 0x2555076D 0xe 0 = .xatom 7 20 21 .cas 0 false .acq .dev ∧
    decode 0x2805886D 0x0 0 = .xatom 8 22 0 .load 0 false .rlx .wch ∧
    decode 0x2C02806D 0x6 0 = .xatom 0 10 0 .store 0 false .rlx .dev ∧
    decode 0x2D14806D 0x20 0 = .xatom 0 18 17 .store 0 true .rlx .wch ∧
    decode 0x00000071 0x16 0 = .fence .rel .dev := by
  decide +kernel

theorem test_decode_control_memory_3 :
    decode 0x00000071 0x19 0 = .fence .ar .crew ∧
    decode 0x00000071 0xa 0 = .fence .acq .col ∧
    decode 0x00050074 0 0 = .spref 20 ∧
    decode 0x00050075 0x1000 0 = .spref64 20 4096 := by
  decide +kernel

theorem test_decode_lane_control_1 :
    decode 0x00000081 0x8000010 0 = .lx 0x10 4 ∧
    decode 0x00038085 0x2 0 = .strmDef 14 2 ∧
    decode 0x04000085 0x5 0 = .strmGo 5 ∧
    decode 0x08000085 0xff 0 = .strmStop 0xFF ∧
    decode 0x00000C89 0x155a 0 = .shape 12 ⟨2, 2, 5, 5, 1, 0⟩ ∧
    decode 0x0001C68D 0xc 0 = .vget 6 7 12 false ∧
    decode 0x0001C68D 0x20c 0 = .vget 6 7 12 true ∧
    decode 0x00A24091 0x3 0 = .vput 9 10 3 false ∧
    decode 0x00024091 0x403 0 = .vputAll 9 3 false ∧
    decode 0x00024091 0x604 0 = .vputAll 9 4 true := by
  decide +kernel

theorem test_decode_lane_control_2 :
    decode 0x0000C594 0 0 = .pget 5 3 ∧
    decode 0x00414098 0 0 = .pput 5 4 ∧
    decode 0x0012009C 0 0 = .waitp 8 1 := by
  decide +kernel

theorem test_decode_crews_1 :
    decode 0x000185A0 0 0 = .crewJoin 5 6 ∧
    decode 0x040185A0 0 0 = .crewLeave 5 6 ∧
    decode 0x080187A0 0 0 = .crewSize 7 6 ∧
    decode 0x0C0188A0 0 0 = .crewRank 8 6 ∧
    decode 0x000180A5 0x19 0 = .bar 6 .crew ∧
    decode 0x040180A5 0x1c 0 = .barSwap 6 .clu ∧
    decode 0x015500A9 0x0 0 = .abarInit 20 21 .rlx .wch ∧
    decode 0x040516A9 0x13 0 = .abarArrive 22 20 0 .rel .core ∧
    decode 0x098516A9 0x0 0 = .abarExpect 22 20 24 .rlx .wch ∧
    decode 0x0D6500A9 0xb 0 = .abarWait 20 22 .acq .core := by
  decide +kernel

theorem test_decode_crews_2 :
    decode 0x116517A9 0x0 0 = .abarTest 23 20 22 .rlx .wch ∧
    decode 0x000000AD 0x5 0 = .crgnOpen 5 ∧
    decode 0x040000AC 0 0 = .crgnClose ∧
    decode 0x000000B1 0x1234abcd 0 = .sigck 0x1234ABCD ∧
    decode 0x000000B5 0x8000 0 = .pairBegin 4 ∧
    decode 0x040000B4 0 0 = .pairEnd ∧
    decode 0x000000B8 0 0 = .yield := by
  decide +kernel

theorem test_decode_engines_1 :
    decode 0x015500C1 0x13 0 = .tcopy 20 21 false .core ∧
    decode 0x000500C1 0x2000016 0 = .tcopy 20 0 true .dev ∧
    decode 0x055500C5 0x400813 0 = .wload true 20 21 64 512 false .core ∧
    decode 0x215080C9 0x136 0 = .collAllred 2 1 21 9 .dev ∧
    decode 0x014000C9 0x76 0 = .collAllred 0 0 20 3 .dev ∧
    decode 0x054000C9 0x76 0 = .collReduce 0 0 20 3 .dev ∧
    decode 0x094000C9 0x76 0 = .collBcast 0 0 20 3 .dev ∧
    decode 0x0D4000C9 0x76 0 = .collGather 0 0 20 3 .dev ∧
    decode 0x114000C9 0x76 0 = .collRscat 0 0 20 3 .dev ∧
    decode 0x154000C9 0x76 0 = .collRot 0 0 20 3 .dev := by
  decide +kernel

theorem test_decode_engines_2 :
    decode 0x194000C9 0x76 0 = .collProg 0 0 20 3 .dev ∧
    decode 0x1CA000C9 0x76 0 = .collDefine 10 3 .dev ∧
    decode 0x3C0000C9 0x76 0 = .collRelease 3 .dev ∧
    decode 0x5C0000C9 0x76 0 = .collAbort 3 .dev ∧
    decode 0x054200CD 0x2079 0 = .solic 1 8 20 3 1 false .crew ∧
    decode 0x0D4200CD 0x200401e 0 = .solic 3 8 20 0 2 true .dev ∧
    decode 0x015500D1 0x14 0 = .auct 20 21 false .clu ∧
    decode 0x000500D1 0x2000014 0 = .auct 20 0 true .clu ∧
    decode 0x000185D4 0 0 = .slotLook 5 6 ∧
    decode 0x040007D4 0 0 = .slotVict 7 := by
  decide +kernel

theorem test_decode_engines_3 :
    decode 0x080248D4 0 0 = .slotFill 8 9 ∧
    decode 0x0C02CAD4 0 0 = .slotClr 10 11 ∧
    decode 0x00038FD9 0xa0 0 = .recd 15 14 5 ∧
    decode 0x015500DD 0x18000 0 = .trig 20 21 12 := by
  decide +kernel

theorem test_decode_system_1 :
    decode 0x010003E0 0 0 = .sysr 3 0x010 ∧
    decode 0x0120C0E4 0 0 = .syswRbnd 3 ∧
    decode 0x0141C0E4 0 0 = .syswInject 7 ∧
    decode 0x010100E4 0 0 = .syswSrseed 4 ∧
    decode 0x008100E4 0 0 = .syswFmask 4 ∧
    decode 0x013100E4 0 0 = .syswSigreg 4 ∧
    decode 0x000100E4 0 0 = .sysw 4 0 ∧
    decode 0x123000E8 0 0 = .trap 0x123 ∧
    decode 0x000000EC 0 0 = .rte ∧
    decode 0x000000F0 0 0 = .exit := by
  decide +kernel

theorem test_decode_system_2 :
    decode 0x000000F4 0 0 = .nop ∧
    decode 0x000000F5 0x7 0 = .nop64 7 ∧
    decode 0x000000F6 0x7 0x8 = .nop96 7 8 := by
  decide +kernel

theorem test_decode_reserved_1 :
    decode 0x00000003 0x0 0 = .reservedEncoding 0x3 ∧
    decode 0x00000030 0x0 0 = .reservedEncoding 0x30 ∧
    decode 0x00000078 0x0 0 = .reservedEncoding 0x78 ∧
    decode 0x000000BC 0x0 0 = .reservedEncoding 0xBC ∧
    decode 0x000000F8 0x0 0 = .reservedEncoding 0xF8 ∧
    decode 0x78308100 0x0 0 = .reservedEncoding 0x78308100 ∧
    decode 0x0000C156 0x0 0 = .reservedEncoding 0xC156 ∧
    decode 0x00000145 0x0 0 = .reservedEncoding 0x145 ∧
    decode 0x000180A5 0x0 0 = .reservedEncoding 0x180A5 ∧
    decode 0x00014098 0x0 0 = .reservedEncoding 0x14098 := by
  decide +kernel

theorem test_decode_reserved_2 :
    decode 0x00A2009C 0x0 0 = .reservedEncoding 0xA2009C ∧
    decode 0x100185A0 0x0 0 = .reservedEncoding 0x100185A0 := by
  decide +kernel

theorem test_decode_lane_integer_1 :
    decodeLane 0x18901402 0x035001A0 0x00000007 = some (.iadd ⟨5, false, 393, false, 416, 0, 4, true, 6, 0, 0x7⟩) ∧
    decodeLane 0x00300806 0x03000004 0x00000000 = some (.isub ⟨2, false, 3, false, 4, 0, 0, false, 6, 0, 0x0⟩) ∧
    decodeLane 0x00400C0A 0x03000005 0x00000000 = some (.imul ⟨3, false, 4, false, 5, 0, 0, false, 6, 0, 0x0⟩) ∧
    decodeLane 0x0050100E 0x03000006 0x00000000 = some (.imulh ⟨4, false, 5, false, 6, 0, 0, false, 6, 0, 0x0⟩) ∧
    decodeLane 0x00601412 0x03000007 0x00000000 = some (.imulhu ⟨5, false, 6, false, 7, 0, 0, false, 6, 0, 0x0⟩) ∧
    decodeLane 0x00801C1A 0x03000009 0x00000000 = some (.imin ⟨7, false, 8, false, 9, 0, 0, false, 6, 0, 0x0⟩) ∧
    decodeLane 0x0090201E 0x0300000A 0x00000000 = some (.imax ⟨8, false, 9, false, 10, 0, 0, false, 6, 0, 0x0⟩) ∧
    decodeLane 0x00A02422 0x0300000B 0x00000000 = some (.iminu ⟨9, false, 10, false, 11, 0, 0, false, 6, 0, 0x0⟩) ∧
    decodeLane 0x00B02826 0x0300000C 0x00000000 = some (.imaxu ⟨10, false, 11, false, 12, 0, 0, false, 6, 0, 0x0⟩) ∧
    decodeLane 0x00E03432 0x0300000F 0x00000000 = some (.iand ⟨13, false, 14, false, 15, 0, 0, false, 6, 0, 0x0⟩) := by
  decide +kernel

theorem test_decode_lane_integer_2 :
    decodeLane 0x00F03836 0x03000010 0x00000000 = some (.ior ⟨14, false, 15, false, 16, 0, 0, false, 6, 0, 0x0⟩) ∧
    decodeLane 0x01003C3A 0x03000011 0x00000000 = some (.ixor ⟨15, false, 16, false, 17, 0, 0, false, 6, 0, 0x0⟩) ∧
    decodeLane 0x01204442 0x03000013 0x00000000 = some (.laneShl ⟨17, false, 18, false, 19, 0, 0, false, 6, 0, 0x0⟩) ∧
    decodeLane 0x01304846 0x03000014 0x00000000 = some (.laneShr ⟨18, false, 19, false, 20, 0, 0, false, 6, 0, 0x0⟩) ∧
    decodeLane 0x01404C4A 0x03000015 0x00000000 = some (.laneSar ⟨19, false, 20, false, 21, 0, 0, false, 6, 0, 0x0⟩) ∧
    decodeLane 0x0150504E 0x03000016 0x00000000 = some (.rot ⟨20, false, 21, false, 22, 0, 0, false, 6, 0, 0x0⟩) ∧
    decodeLane 0x01B06866 0x0300001C 0x00000000 = some (.iadds ⟨26, false, 27, false, 28, 0, 0, false, 6, 0, 0x0⟩) ∧
    decodeLane 0x01C06C6A 0x0300001D 0x00000000 = some (.isubs ⟨27, false, 28, false, 29, 0, 0, false, 6, 0, 0x0⟩) ∧
    decodeLane 0x0020042A 0x03000000 0x00000000 = some (.iabs ⟨1, false, 2, false, 0, 0, 0, false, 6, 0, 0x0⟩) ∧
    decodeLane 0x0020042E 0x03000000 0x00000000 = some (.ineg ⟨1, false, 2, false, 0, 0, 0, false, 6, 0, 0x0⟩) := by
  decide +kernel

theorem test_decode_lane_integer_3 :
    decodeLane 0x0020043E 0x03000000 0x00000000 = some (.inot ⟨1, false, 2, false, 0, 0, 0, false, 6, 0, 0x0⟩) ∧
    decodeLane 0x00200452 0x03000000 0x00000000 = some (.lanePopc ⟨1, false, 2, false, 0, 0, 0, false, 6, 0, 0x0⟩) ∧
    decodeLane 0x00200456 0x03000000 0x00000000 = some (.laneClz ⟨1, false, 2, false, 0, 0, 0, false, 6, 0, 0x0⟩) ∧
    decodeLane 0x0020045A 0x03000000 0x00000000 = some (.laneBrev ⟨1, false, 2, false, 0, 0, 0, false, 6, 0, 0x0⟩) ∧
    decodeLane 0x0020048A 0x03000000 0x00000000 = some (.laneMov ⟨1, false, 2, false, 0, 0, 0, false, 6, 0, 0x0⟩) ∧
    decodeLane 0x00102016 0x03000602 0x00000000 = some (.imad ⟨8, false, 1, false, 2, 3, 0, false, 6, 0, 0x0⟩) ∧
    decodeLane 0x0010206E 0x04000602 0x00000000 = some (.dot4 ⟨8, false, 1, false, 2, 3, 0, false, 8, 0, 0x0⟩) ∧
    decodeLane 0x0020045E 0x03000803 0x00000000 = some (.bfx ⟨1, false, 2, false, 3, 4, 0, false, 6, 0, 0x0⟩) ∧
    decodeLane 0x00200462 0x03000803 0x00000000 = some (.bfi ⟨1, false, 2, false, 3, 4, 0, false, 6, 0, 0x0⟩) ∧
    decodeLane 0x00400872 0x03000006 0x00000000 = some (.iaddc ⟨2, false, 4, false, 6, 0, 0, false, 6, 0, 0x0⟩) := by
  decide +kernel

theorem test_decode_lane_integer_4 :
    decodeLane 0x00400876 0x03800006 0x00000000 = some (.imulw ⟨2, false, 4, false, 6, 0, 0, false, 7, 0, 0x0⟩) ∧
    decodeLane 0x00400C82 0x230001A0 0x00000064 = some (.icmp ⟨3, false, 4, false, 416, 0, 0, false, 6, 4, 0x64⟩) ∧
    decodeLane 0x00801C86 0x03000A09 0x00000000 = some (.sel ⟨7, false, 8, false, 9, 5, 0, false, 6, 0, 0x0⟩) ∧
    decodeLane 0x0000088E 0x1B000000 0x00000000 = some (.lid ⟨2, false, 0, false, 0, 0, 0, false, 6, 3, 0x0⟩) := by
  decide +kernel

theorem test_decode_lane_floating_1 :
    decodeLane 0x00200502 0x28000003 0x00000000 = some (.fadd ⟨1, false, 2, false, 3, 0, 0, false, 0, 5, 0x0⟩) ∧
    decodeLane 0x38002902 0x00000004 0x00000000 = some (.fadd ⟨10, false, 384, true, 4, 0, 0, false, 0, 0, 0x0⟩) ∧
    decodeLane 0x00200506 0x00000003 0x00000000 = some (.fsub ⟨1, false, 2, false, 3, 0, 0, false, 0, 0, 0x0⟩) ∧
    decodeLane 0x0028010A 0x00000003 0x00000000 = some (.fmul ⟨0, true, 2, false, 3, 0, 0, false, 0, 0, 0x0⟩) ∧
    decodeLane 0x0020290E 0x00081403 0x00000000 = some (.ffma ⟨10, false, 2, false, 3, 10, 2, false, 0, 0, 0x0⟩) ∧
    decodeLane 0x00200512 0x00000003 0x00000000 = some (.fmin ⟨1, false, 2, false, 3, 0, 0, false, 0, 0, 0x0⟩) ∧
    decodeLane 0x00200516 0x00000003 0x00000000 = some (.fmax ⟨1, false, 2, false, 3, 0, 0, false, 0, 0, 0x0⟩) ∧
    decodeLane 0x0020051A 0x00000000 0x00000000 = some (.fabs ⟨1, false, 2, false, 0, 0, 0, false, 0, 0, 0x0⟩) ∧
    decodeLane 0x0020051E 0x00000000 0x00000000 = some (.fneg ⟨1, false, 2, false, 0, 0, 0, false, 0, 0, 0x0⟩) ∧
    decodeLane 0x00200526 0x00000000 0x00000000 = some (.fclass ⟨1, false, 2, false, 0, 0, 0, false, 0, 0, 0x0⟩) := by
  decide +kernel

theorem test_decode_lane_floating_2 :
    decodeLane 0x0020052A 0x00000000 0x00000000 = some (.frint ⟨1, false, 2, false, 0, 0, 0, false, 0, 0, 0x0⟩) ∧
    decodeLane 0x00500922 0x50000006 0x00000000 = some (.fcmp ⟨2, false, 5, false, 6, 0, 0, false, 0, 10, 0x0⟩) ∧
    decodeLane 0x00200542 0x00800003 0x00000000 = some (.hadd2 ⟨1, false, 2, false, 3, 0, 0, false, 1, 0, 0x0⟩) ∧
    decodeLane 0x00200546 0x00800003 0x00000000 = some (.hmul2 ⟨1, false, 2, false, 3, 0, 0, false, 1, 0, 0x0⟩) ∧
    decodeLane 0x0020054E 0x00800003 0x00000000 = some (.hmin2 ⟨1, false, 2, false, 3, 0, 0, false, 1, 0, 0x0⟩) ∧
    decodeLane 0x00200552 0x00800003 0x00000000 = some (.hmax2 ⟨1, false, 2, false, 3, 0, 0, false, 1, 0, 0x0⟩) ∧
    decodeLane 0x0150514A 0x01002816 0x00000000 = some (.hfma2 ⟨20, false, 21, false, 22, 20, 0, false, 2, 0, 0x0⟩) ∧
    decodeLane 0x00400F82 0x20000000 0x00000000 = some (.rcp ⟨3, false, 4, false, 0, 0, 0, false, 0, 4, 0x0⟩) ∧
    decodeLane 0x00400F86 0x20000000 0x00000000 = some (.rsq ⟨3, false, 4, false, 0, 0, 0, false, 0, 4, 0x0⟩) ∧
    decodeLane 0x00400F8A 0x20000000 0x00000000 = some (.sqrt ⟨3, false, 4, false, 0, 0, 0, false, 0, 4, 0x0⟩) := by
  decide +kernel

theorem test_decode_lane_floating_3 :
    decodeLane 0x00400F8E 0x20000000 0x00000000 = some (.exp2 ⟨3, false, 4, false, 0, 0, 0, false, 0, 4, 0x0⟩) ∧
    decodeLane 0x00400F92 0x20000000 0x00000000 = some (.log2 ⟨3, false, 4, false, 0, 0, 0, false, 0, 4, 0x0⟩) ∧
    decodeLane 0x00400F96 0x20000000 0x00000000 = some (.sin ⟨3, false, 4, false, 0, 0, 0, false, 0, 4, 0x0⟩) ∧
    decodeLane 0x00400F9A 0x20000000 0x00000000 = some (.cos ⟨3, false, 4, false, 0, 0, 0, false, 0, 4, 0x0⟩) ∧
    decodeLane 0x00400F9E 0x20000000 0x00000000 = some (.tanh ⟨3, false, 4, false, 0, 0, 0, false, 0, 4, 0x0⟩) ∧
    decodeLane 0x00400FA2 0x20000000 0x00000000 = some (.sigm ⟨3, false, 4, false, 0, 0, 0, false, 0, 4, 0x0⟩) := by
  decide +kernel

theorem test_decode_lane_conversion :
    decodeLane 0x00403A0A 0x00000005 0x00000483 = some (.pack ⟨14, false, 4, false, 5, 0, 0, false, 0, 0, 0x483⟩) ∧
    decodeLane 0x00303202 0x01800000 0x00000400 = some (.cvt ⟨12, false, 3, false, 0, 0, 0, false, 3, 0, 0x400⟩) ∧
    decodeLane 0x00704A06 0x000797CA 0x00286083 = some (.qnt ⟨18, false, 7, false, 458, 459, 1, false, 0, 0, 0x286083⟩) ∧
    decodeLane 0x0030320E 0x00800000 0x00000000 = some (.unpk ⟨12, false, 3, false, 0, 0, 0, false, 1, 0, 0x0⟩) ∧
    decodeLane 0x00303212 0x00000004 0x00000000 = some (.scale ⟨12, false, 3, false, 4, 0, 0, false, 0, 0, 0x0⟩) ∧
    decodeLane 0x00303216 0x01000000 0x00000000 = some (.amax ⟨12, false, 3, false, 0, 0, 0, false, 2, 0, 0x0⟩) := by
  decide +kernel

theorem test_decode_lane_cross_lane :
    decodeLane 0x01F07B02 0x03000000 0x00000053 = some (.shfl ⟨30, false, 31, false, 0, 0, 0, false, 6, 0, 0x53⟩) ∧
    decodeLane 0x00200706 0x0B000000 0x00000000 = some (.ballot ⟨1, false, 2, false, 0, 0, 0, false, 6, 1, 0x0⟩) ∧
    decodeLane 0x0330CB0A 0x0383ABD4 0x00000000 = some (.bplane ⟨50, false, 51, false, 468, 469, 0, false, 7, 0, 0x0⟩) ∧
    decodeLane 0x03D0F30E 0x00000000 0x00000000 = some (.vred ⟨60, false, 61, false, 0, 0, 0, false, 0, 0, 0x0⟩) ∧
    decodeLane 0x03D0F312 0x03000000 0x00000008 = some (.vscan ⟨60, false, 61, false, 0, 0, 0, false, 6, 0, 0x8⟩) := by
  decide +kernel

theorem test_decode_lane_memory :
    decodeLane 0x00A01282 0x13000000 0x00000010 = some (.ld ⟨4, false, 10, false, 0, 0, 0, false, 6, 2, 0x10⟩) ∧
    decodeLane 0x00C00286 0x1B0C0014 0xFFFFFFF8 = some (.st ⟨0, false, 12, false, 20, 0, 3, false, 6, 3, 0xFFFFFFF8⟩) ∧
    decodeLane 0x00C01A8A 0x4B001007 0x00000000 = some (.atom ⟨6, false, 12, false, 7, 8, 0, false, 6, 9, 0x0⟩) ∧
    decodeLane 0x00C0028E 0x00000009 0x00000000 = some (.fatom ⟨0, false, 12, false, 9, 0, 0, false, 0, 0, 0x0⟩) ∧
    decodeLane 0x00C0028E 0x08000009 0x00000000 = some (.fatomMore ⟨0, false, 12, false, 9, 0, 0, false, 0, 1, 0x0⟩) ∧
    decodeLane 0x00C0028E 0x10000000 0x00000000 = some (.fatomSkip ⟨0, false, 12, false, 0, 0, 0, false, 0, 2, 0x0⟩) ∧
    decodeLane 0x01400292 0x2B003C16 0x00000040 = some (.acpy ⟨0, false, 20, false, 22, 30, 0, false, 6, 5, 0x40⟩) ∧
    decodeLane 0x01400316 0x030001C5 0x0000700C = some (.xst ⟨0, false, 20, false, 453, 0, 0, false, 6, 0, 0x700C⟩) ∧
    decodeLane 0x00C00316 0x03040403 0x00001003 = some (.xst ⟨0, false, 12, false, 3, 2, 1, false, 6, 0, 0x1003⟩) := by
  decide +kernel

theorem test_decode_lane_matrix :
    decodeLane 0x04000B42 0x01800060 0x00208800 = some (.mma ⟨2, false, 64, false, 96, 0, 0, false, 3, 0, 0x208800⟩) ∧
    decodeLane 0x02000342 0x01000000 0x00100004 = some (.mma ⟨0, false, 32, false, 0, 0, 0, false, 2, 0, 0x100004⟩) ∧
    decodeLane 0x00000746 0x00000000 0x000003FB = some (.msoft ⟨1, false, 0, false, 0, 0, 0, false, 0, 0, 0x3FB⟩) ∧
    decodeLane 0x0000A34A 0x00000000 0x007E0011 = some (.tmovTv ⟨40, false, 0, false, 0, 0, 0, false, 0, 0, 0x7E0011⟩) ∧
    decodeLane 0x0080134A 0x08000000 0x001E0000 = some (.tmovVt ⟨4, false, 8, false, 0, 0, 0, false, 0, 1, 0x1E0000⟩) ∧
    decodeLane 0x00000F4E 0x00000000 0x00000000 = some (.tclr ⟨3, false, 0, false, 0, 0, 0, false, 0, 0, 0x0⟩) ∧
    decodeLane 0x00900F52 0x00000000 0x00000000 = some (.tscl ⟨3, false, 9, false, 0, 0, 0, false, 0, 0, 0x0⟩) ∧
    decodeLane 0x00000F52 0x00000000 0x00000001 = some (.tsclPend ⟨3, false, 0, false, 0, 0, 0, false, 0, 0, 0x1⟩) ∧
    decodeLane 0x00000F52 0x00000000 0x00000002 = some (.tsclDivl ⟨3, false, 0, false, 0, 0, 0, false, 0, 0, 0x2⟩) ∧
    decodeLane 0x00A0F356 0x0000000C 0x177E041B = some (.tdrn ⟨60, false, 10, false, 12, 0, 0, false, 0, 0, 0x177E041B⟩) := by
  decide +kernel

theorem test_decode_chunks :
    decodeChunk 0x0001000000010210 = .ok (.chunkSend 1 2 1 0 1) ∧
    decodeChunk 0x00010000FFFF0221 = .ok (.chunkRecv 2 2 0xFFFF 0 1) ∧
    decodeChunk 0x0005000400012132 = .ok (.chunkRred 3 1 2 1 4 5) ∧
    decodeChunk 0x0005000400090033 = .ok (.chunkCopy 3 9 4 5) ∧
    decodeChunk 0x003F000700000004 = .ok (.chunkWait 7 63) ∧
    decodeChunk 0x0001000000020005 = .ok (.chunkSig 2 1) ∧
    decodeChunk 0xFFFF000000000006 = .ok (.chunkLoop 65535) ∧
    decodeChunk 0x0000000000000007 = .ok (.chunkNext) ∧
    decodeChunk 0x0002000300000018 = .ok (.chunkMcast 1 0 3 2) ∧
    decodeChunk 0x0000000512340009 = .ok (.chunkRoute 0x1234 5) ∧
    decodeChunk 0x000000000000000A = .ok (.chunkBar) ∧
    decodeChunk 0x000000000000000F = .ok (.chunkEnd) ∧
    decodeChunk 0xB = .badOp ∧
    decodeChunk 0x100000000000A = .badField ∧
    decodeChunk 0x0001000000010310 = .badField := by
  decide +kernel

end Sys2Proof.Tests
end

/-! # Proofs: every step goes on and keeps the bookkeeping; which instruction a step runs -/

namespace Sys2Proof.Machine

/-! ## Every step keeps memory canonical and the counters rising -/

/-- The dispatcher answers a next state at every instruction, which keeps what `Keeps` says. -/
theorem exec_keeps {r s : State} (h : Keeps r s) (i : Instr) : KeepsO r (exec i s) :=
  match i with
  | .add .. => execAdd_keeps h ..
  | .sub .. => execSub_keeps h ..
  | .mul .. => execMul_keeps h ..
  | .mulh .. => execMulh_keeps h ..
  | .mulhu .. => execMulhu_keeps h ..
  | .div .. => execDiv_keeps h ..
  | .divu .. => execDivu_keeps h ..
  | .rem .. => execRem_keeps h ..
  | .remu .. => execRemu_keeps h ..
  | .and .. => execAnd_keeps h ..
  | .or .. => execOr_keeps h ..
  | .xor .. => execXor_keeps h ..
  | .andn .. => execAndn_keeps h ..
  | .shl .. => execShl_keeps h ..
  | .shr .. => execShr_keeps h ..
  | .sar .. => execSar_keeps h ..
  | .rol .. => execRol_keeps h ..
  | .min .. => execMin_keeps h ..
  | .max .. => execMax_keeps h ..
  | .minu .. => execMinu_keeps h ..
  | .maxu .. => execMaxu_keeps h ..
  | .popc .. => execPopc_keeps h ..
  | .clz .. => execClz_keeps h ..
  | .ctz .. => execCtz_keeps h ..
  | .seq .. => execSeq_keeps h ..
  | .sne .. => execSne_keeps h ..
  | .slt .. => execSlt_keeps h ..
  | .sltu .. => execSltu_keeps h ..
  | .brev .. => execBrev_keeps h ..
  | .mov .. => execMov_keeps h ..
  | .addi .. => execAddi_keeps h ..
  | .addi64 .. => execAddi64_keeps h ..
  | .andi .. => execAndi_keeps h ..
  | .andi64 .. => execAndi64_keeps h ..
  | .ori .. => execOri_keeps h ..
  | .ori64 .. => execOri64_keeps h ..
  | .xori .. => execXori_keeps h ..
  | .xori64 .. => execXori64_keeps h ..
  | .slti .. => execSlti_keeps h ..
  | .slti64 .. => execSlti64_keeps h ..
  | .shli .. => execShli_keeps h ..
  | .shri .. => execShri_keeps h ..
  | .sari .. => execSari_keeps h ..
  | .li .. => execLi_keeps h ..
  | .li64 .. => execLi64_keeps h ..
  | .lih .. => execLih_keeps h ..
  | .addr .. => execAddr_keeps h ..
  | .colxCol .. => execColxCol_keeps h ..
  | .colxOff .. => execColxOff_keeps h ..
  | .colxTag .. => execColxTag_keeps h ..
  | .mad .. => execMad_keeps h ..
  | .br .. => execBr_keeps h ..
  | .jmp .. => execJmp_keeps h ..
  | .call .. => execCall_keeps h ..
  | .jr .. => execJr_keeps h ..
  | .callr .. => execCallr_keeps h ..
  | .split .. => execSplit_keeps h ..
  | .splitN .. => execSplitN_keeps h ..
  | .fuse => execFuse_keeps h
  | .callv .. => execCallv_keeps h ..
  | .sld .. => execSld_keeps h ..
  | .sld64 .. => execSld64_keeps h ..
  | .sst .. => execSst_keeps h ..
  | .sst64 .. => execSst64_keeps h ..
  | .satom .. => execSatom_keeps h ..
  | .xatom .. => execXatom_keeps h ..
  | .fence .. => execFence_keeps h ..
  | .spref .. => execSpref_keeps h ..
  | .spref64 .. => execSpref64_keeps h ..
  | .lx .. => execLx_keeps h ..
  | .strmDef .. => execStrmDef_keeps h ..
  | .strmGo .. => execStrmGo_keeps h ..
  | .strmStop .. => execStrmStop_keeps h ..
  | .shape .. => execShape_keeps h ..
  | .vget .. => execVget_keeps h ..
  | .vput .. => execVput_keeps h ..
  | .vputAll .. => execVputAll_keeps h ..
  | .pget .. => execPget_keeps h ..
  | .pput .. => execPput_keeps h ..
  | .waitp .. => execWaitp_keeps h ..
  | .crewJoin .. => execCrewJoin_keeps h ..
  | .crewLeave .. => execCrewLeave_keeps h ..
  | .crewSize .. => execCrewSize_keeps h ..
  | .crewRank .. => execCrewRank_keeps h ..
  | .bar .. => execBar_keeps h ..
  | .barSwap .. => execBarSwap_keeps h ..
  | .abarInit .. => execAbarInit_keeps h ..
  | .abarArrive .. => execAbarArrive_keeps h ..
  | .abarExpect .. => execAbarExpect_keeps h ..
  | .abarWait .. => execAbarWait_keeps h ..
  | .abarTest .. => execAbarTest_keeps h ..
  | .crgnOpen .. => execCrgnOpen_keeps h ..
  | .crgnClose => execCrgnClose_keeps h
  | .sigck .. => execSigck_keeps h ..
  | .pairBegin .. => execPairBegin_keeps h ..
  | .pairEnd => execPairEnd_keeps h
  | .yield => execYield_keeps h
  | .tcopy .. => execTcopy_keeps h ..
  | .wload .. => execWload_keeps h ..
  | .collDefine .. => execCollDefine_keeps h ..
  | .collRelease .. => execCollRelease_keeps h ..
  | .collAbort .. => execCollAbort_keeps h ..
  | .collAllred .. => execCollAllred_keeps h ..
  | .collReduce .. => execCollReduce_keeps h ..
  | .collBcast .. => execCollBcast_keeps h ..
  | .collGather .. => execCollGather_keeps h ..
  | .collRscat .. => execCollRscat_keeps h ..
  | .collRot .. => execCollRot_keeps h ..
  | .collProg .. => execCollProg_keeps h ..
  | .solic .. => execSolic_keeps h ..
  | .auct .. => execAuct_keeps h ..
  | .slotLook .. => execSlotLook_keeps h ..
  | .slotVict .. => execSlotVict_keeps h ..
  | .slotFill .. => execSlotFill_keeps h ..
  | .slotClr .. => execSlotClr_keeps h ..
  | .recd .. => execRecd_keeps h ..
  | .trig .. => execTrig_keeps h ..
  | .sysr .. => execSysr_keeps h ..
  | .sysw a n => execSysw_keeps h a n
  | .syswSrseed .. => execSyswSrseed_keeps h ..
  | .syswFmask .. => execSyswFmask_keeps h ..
  | .syswRbnd .. => execSyswRbnd_keeps h ..
  | .syswSigreg .. => execSyswSigreg_keeps h ..
  | .syswInject .. => execSyswInject_keeps h ..
  | .trap .. => execTrap_keeps h ..
  | .rte => execRte_keeps h
  | .exit => execExit_keeps h
  | .nop => execNop_keeps h
  | .nop64 .. => execNop64_keeps h ..
  | .nop96 .. => execNop96_keeps h ..
  | .iadd .. => execIadd_keeps h ..
  | .isub .. => execIsub_keeps h ..
  | .imul .. => execImul_keeps h ..
  | .imulh .. => execImulh_keeps h ..
  | .imulhu .. => execImulhu_keeps h ..
  | .imin .. => execImin_keeps h ..
  | .imax .. => execImax_keeps h ..
  | .iminu .. => execIminu_keeps h ..
  | .imaxu .. => execImaxu_keeps h ..
  | .iand .. => execIand_keeps h ..
  | .ior .. => execIor_keeps h ..
  | .ixor .. => execIxor_keeps h ..
  | .laneShl .. => execLaneShl_keeps h ..
  | .laneShr .. => execLaneShr_keeps h ..
  | .laneSar .. => execLaneSar_keeps h ..
  | .rot .. => execRot_keeps h ..
  | .iadds .. => execIadds_keeps h ..
  | .isubs .. => execIsubs_keeps h ..
  | .iabs .. => execIabs_keeps h ..
  | .ineg .. => execIneg_keeps h ..
  | .inot .. => execInot_keeps h ..
  | .lanePopc .. => execLanePopc_keeps h ..
  | .laneClz .. => execLaneClz_keeps h ..
  | .laneBrev .. => execLaneBrev_keeps h ..
  | .laneMov .. => execLaneMov_keeps h ..
  | .imad .. => execImad_keeps h ..
  | .dot4 .. => execDot4_keeps h ..
  | .iaddc .. => execIaddc_keeps h ..
  | .imulw .. => execImulw_keeps h ..
  | .bfx .. => execBfx_keeps h ..
  | .bfi .. => execBfi_keeps h ..
  | .icmp .. => execIcmp_keeps h ..
  | .sel .. => execSel_keeps h ..
  | .lid .. => execLid_keeps h ..
  | .fadd .. => execFadd_keeps h ..
  | .fsub .. => execFsub_keeps h ..
  | .fmul .. => execFmul_keeps h ..
  | .ffma .. => execFfma_keeps h ..
  | .fmin .. => execFmin_keeps h ..
  | .fmax .. => execFmax_keeps h ..
  | .fabs .. => execFabs_keeps h ..
  | .fneg .. => execFneg_keeps h ..
  | .fcmp .. => execFcmp_keeps h ..
  | .fclass .. => execFclass_keeps h ..
  | .frint .. => execFrint_keeps h ..
  | .hadd2 .. => execHadd2_keeps h ..
  | .hmul2 .. => execHmul2_keeps h ..
  | .hfma2 .. => execHfma2_keeps h ..
  | .hmin2 .. => execHmin2_keeps h ..
  | .hmax2 .. => execHmax2_keeps h ..
  | .rcp .. => execRcp_keeps h ..
  | .rsq .. => execRsq_keeps h ..
  | .sqrt .. => execSqrt_keeps h ..
  | .exp2 .. => execExp2_keeps h ..
  | .log2 .. => execLog2_keeps h ..
  | .sin .. => execSin_keeps h ..
  | .cos .. => execCos_keeps h ..
  | .tanh .. => execTanh_keeps h ..
  | .sigm .. => execSigm_keeps h ..
  | .cvt .. => execCvt_keeps h ..
  | .pack .. => execPack_keeps h ..
  | .unpk .. => execUnpk_keeps h ..
  | .qnt .. => execQnt_keeps h ..
  | .scale .. => execScale_keeps h ..
  | .amax .. => execAmax_keeps h ..
  | .shfl .. => execShfl_keeps h ..
  | .ballot .. => execBallot_keeps h ..
  | .bplane .. => execBplane_keeps h ..
  | .vred .. => execVred_keeps h ..
  | .vscan .. => execVscan_keeps h ..
  | .ld .. => execLd_keeps h ..
  | .st .. => execSt_keeps h ..
  | .atom .. => execAtom_keeps h ..
  | .fatom .. => execFatom_keeps h ..
  | .fatomMore .. => execFatomMore_keeps h ..
  | .fatomSkip .. => execFatomSkip_keeps h ..
  | .acpy .. => execAcpy_keeps h ..
  | .xst .. => execXst_keeps h ..
  | .mma .. => execMma_keeps h ..
  | .msoft .. => execMsoft_keeps h ..
  | .tmovTv .. => execTmovTv_keeps h ..
  | .tmovVt .. => execTmovVt_keeps h ..
  | .tclr .. => execTclr_keeps h ..
  | .tscl .. => execTscl_keeps h ..
  | .tsclPend .. => execTsclPend_keeps h ..
  | .tsclDivl .. => execTsclDivl_keeps h ..
  | .tdrn .. => execTdrn_keeps h ..
  | .laneIssue .. => execLaneIssue_keeps h ..
  | .loadSectorReturn .. => execLoadSectorReturn_keeps h ..
  | .storePerform .. => execStorePerform_keeps h ..
  | .atomicPerform .. => execAtomicPerform_keeps h ..
  | .fatomArrive .. => execFatomArrive_keeps h ..
  | .fatomApply .. => execFatomApply_keeps h ..
  | .acpyWrite .. => execAcpyWrite_keeps h ..
  | .xstWrite .. => execXstWrite_keeps h ..
  | .streamFetch .. => execStreamFetch_keeps h ..
  | .matrixPass .. => execMatrixPass_keeps h ..
  | .matrixPerform .. => execMatrixPerform_keeps h ..
  | .wloadAccept .. => execWloadAccept_keeps h ..
  | .wloadComplete .. => execWloadComplete_keeps h ..
  | .tcopyAccept .. => execTcopyAccept_keeps h ..
  | .tcopySectorWrite .. => execTcopySectorWrite_keeps h ..
  | .tcopyComplete .. => execTcopyComplete_keeps h ..
  | .crewControllerArrival .. => execCrewControllerArrival_keeps h ..
  | .crewDeparture .. => execCrewDeparture_keeps h ..
  | .watchRelease .. => execWatchRelease_keeps h ..
  | .uncorAbortCompletion .. => execUncorAbortCompletion_keeps h ..
  | .pageWalkComplete .. => execPageWalkComplete_keeps h ..
  | .mmpPageResident .. => execMmpPageResident_keeps h ..
  | .mmpDecline .. => execMmpDecline_keeps h ..
  | .tlbLeaseExpire .. => execTlbLeaseExpire_keeps h ..
  | .mmpUnmap .. => execMmpUnmap_keeps h ..
  | .drainMarkAck .. => execDrainMarkAck_keeps h ..
  | .unmapwaitExpire .. => execUnmapwaitExpire_keeps h ..
  | .drainProbeAnswer .. => execDrainProbeAnswer_keeps h ..
  | .preemptSwitchRequest .. => execPreemptSwitchRequest_keeps h ..
  | .switchComplete .. => execSwitchComplete_keeps h ..
  | .fillStart .. => execFillStart_keeps h ..
  | .fillDone .. => execFillDone_keeps h ..
  | .spillDone .. => execSpillDone_keeps h ..
  | .handlerTimeout .. => execHandlerTimeout_keeps h ..
  | .xtoTimeout .. => execXtoTimeout_keeps h ..
  | .partitionTimeout .. => execPartitionTimeout_keeps h ..
  | .watchdogExpire .. => execWatchdogExpire_keeps h ..
  | .spillstuck .. => execSpillstuck_keeps h ..
  | .columnRetire .. => execColumnRetire_keeps h ..
  | .pairTrailerPlace .. => execPairTrailerPlace_keeps h ..
  | .pairCompare .. => execPairCompare_keeps h ..
  | .solicAccept .. => execSolicAccept_keeps h ..
  | .directoryLookup .. => execDirectoryLookup_keeps h ..
  | .responderSpawn .. => execResponderSpawn_keeps h ..
  | .censusComplete .. => execCensusComplete_keeps h ..
  | .directoryInsertAck .. => execDirectoryInsertAck_keeps h ..
  | .auctAccept .. => execAuctAccept_keeps h ..
  | .auctRun .. => execAuctRun_keeps h ..
  | .auctComplete .. => execAuctComplete_keeps h ..
  | .triggerAccept .. => execTriggerAccept_keeps h ..
  | .ringEntryTake .. => execRingEntryTake_keeps h ..
  | .runStart .. => execRunStart_keeps h ..
  | .gvecRead .. => execGvecRead_keeps h ..
  | .blockPlace .. => execBlockPlace_keeps h ..
  | .paramWrite .. => execParamWrite_keeps h ..
  | .nodeComplete .. => execNodeComplete_keeps h ..
  | .recAnswer .. => execRecAnswer_keeps h ..
  | .recordDeliver .. => execRecordDeliver_keeps h ..
  | .closingRecordDeliver .. => execClosingRecordDeliver_keeps h ..
  | .nocFlitRetry .. => execNocFlitRetry_keeps h ..
  | .hostTriggerWrite .. => execHostTriggerWrite_keeps h ..
  | .qtailWrite .. => execQtailWrite_keeps h ..
  | .evctlWrite .. => execEvctlWrite_keeps h ..
  | .evheadWrite .. => execEvheadWrite_keeps h ..
  | .eventWrite .. => execEventWrite_keeps h ..
  | .hrangeWrite .. => execHrangeWrite_keeps h ..
  | .schedmemWrite .. => execSchedmemWrite_keeps h ..
  | .hostWindowWrite .. => execHostWindowWrite_keeps h ..
  | .create .. => execCreate_keeps h ..
  | .destroy .. => execDestroy_keeps h ..
  | .resume .. => execResume_keeps h ..
  | .kick .. => execKick_keeps h ..
  | .pagedone .. => execPagedone_keeps h ..
  | .pagefail .. => execPagefail_keeps h ..
  | .mbcmdReserved .. => execMbcmdReserved_keeps h ..
  | .partitionTableWrite .. => execPartitionTableWrite_keeps h ..
  | .routeTableWrite .. => execRouteTableWrite_keeps h ..
  | .enmonLogRead .. => execEnmonLogRead_keeps h ..
  | .firmwareUpdate .. => execFirmwareUpdate_keeps h ..
  | .attestationReport .. => execAttestationReport_keeps h ..
  | .enmonReset .. => execEnmonReset_keeps h ..
  | .logEpochEnd => execLogEpochEnd_keeps h
  | .deviceReset => execDeviceReset_keeps h
  | .stackTrained .. => execStackTrained_keeps h ..
  | .hostLinkTrained => execHostLinkTrained_keeps h
  | .decompSelftestPass .. => execDecompSelftestPass_keeps h ..
  | .linkModuleFail .. => execLinkModuleFail_keeps h ..
  | .powerLimit .. => execPowerLimit_keeps h ..
  | .thermalTrip => execThermalTrip_keeps h
  | .clockSet .. => execClockSet_keeps h ..
  | .collRunStart .. => execCollRunStart_keeps h ..
  | .collRunComplete .. => execCollRunComplete_keeps h ..
  | .chunkSend _ dt _ _ _ => execChunkSend_keeps h _ dt ..
  | .chunkRecv _ dt _ _ _ => execChunkRecv_keeps h _ dt ..
  | .chunkRred .. => execChunkRred_keeps h ..
  | .chunkCopy .. => execChunkCopy_keeps h ..
  | .chunkWait .. => execChunkWait_keeps h ..
  | .chunkSig .. => execChunkSig_keeps h ..
  | .chunkLoop .. => execChunkLoop_keeps h ..
  | .chunkNext => execChunkNext_keeps h
  | .chunkMcast _ dt _ _ => execChunkMcast_keeps h _ dt ..
  | .chunkRoute .. => execChunkRoute_keeps h ..
  | .chunkBar => execChunkBar_keeps h
  | .chunkEnd => execChunkEnd_keeps h
  | .beamFlitForward .. => execBeamFlitForward_keeps h ..
  | .beamData .. => execBeamData_keeps h ..
  | .beamAck .. => execBeamAck_keeps h ..
  | .beamGrant .. => execBeamGrant_keeps h ..
  | .beamSignal .. => execBeamSignal_keeps h ..
  | .beamBarrier .. => execBeamBarrier_keeps h ..
  | .beamAbort .. => execBeamAbort_keeps h ..
  | .beamLinkdown .. => execBeamLinkdown_keeps h ..
  | .beamCrcReject .. => execBeamCrcReject_keeps h ..
  | .beamLaneLoss .. => execBeamLaneLoss_keeps h ..
  | .beamPortDown .. => execBeamPortDown_keeps h ..
  | .beamPortRetrain .. => execBeamPortRetrain_keeps h ..
  | .reservedEncoding w0 => execReservedEncoding_keeps h w0
  | .badop wd => execBadop_keeps h wd
  | .wloadSectorWrite .. => execWloadSectorWrite_keeps h ..
  | .hostStoreAcknowledgement .. => execHostStoreAcknowledgement_keeps h ..
  | .grpbusy .. => execGrpbusy_keeps h ..
theorem loosened_keeps {r : State} (s : State) {o : Out} (h : KeepsO r o) : KeepsO r (loosened s o) := by
  obtain ⟨t, rfl, ht⟩ := h
  unfold loosened
  split
  · exact keepsO_next ht
  · refine keepsO_next ?_
    split
    · exact State.issueAmax_keeps ht ..
    · exact State.modWatch_keeps (State.issueAmax_keeps ht ..) ..

theorem afterGrant_keeps {r : State} {o : Out} (h : KeepsO r o) : KeepsO r (afterGrant o) := by
  obtain ⟨t, rfl, ht⟩ := h
  simp only [afterGrant]
  split
  · exact loosened_keeps t (exec_keeps (s := { t with granted := false }) ht _)
  · exact keepsO_next ht

theorem State.controlStep_keeps {r s : State} (h : Keeps r s) : KeepsO r s.controlStep := by
  unfold State.controlStep
  split
  · split
    · exact keepsO_next h
    · exact exec_keeps h _
  · refine keepsO_next ?_
    split
    · exact h
    · exact State.andThen_keeps h _ _ fun _ => h

theorem State.serveFirst_keeps {r s : State} (h : Keeps r s) (passed : List Nat) (l : List (Nat × Nat)) :
    KeepsO r ((s.serveFirst passed l).getD (.next s)) := by
  induction l with
  | nil => exact keepsO_next h
  | cons x l ih =>
    obtain ⟨t, ht, kt⟩ := State.controlStep_keeps (State.serveThread_keeps h x.1 x.2 passed)
    simp only [State.serveFirst, ht]
    split
    · exact keepsO_next kt
    · exact ih

theorem State.controlTurn_keeps {r s : State} (h : Keeps r s) (core : Nat) : KeepsO r (s.controlTurn core) := by
  simp only [State.controlTurn]
  split
  · exact serveFirst_keeps h ..
  · split <;> exact serveFirst_keeps h ..

theorem State.strandTurn_keeps {r s : State} (h : Keeps r s) (id i : Nat) : KeepsO r (s.strandTurn id i) := by
  have hs : Keeps r { s with strand := (id, i) } := h
  simp only [State.strandTurn]
  split
  · exact keepsO_next hs
  · split
    · exact keepsO_next hs
    · split
      · exact keepsO_next (builtinStep_keeps hs)
      · split
        · exact exec_keeps hs _
        · split
          · exact exec_keeps hs _
          · exact exec_keeps hs _
          · exact keepsO_next (badField_keeps hs)

theorem State.evStep_keeps {r s : State} (h : Keeps r s) (e : Ev) : KeepsO r (s.evStep e) := by
  unfold State.evStep
  split
  · exact strandTurn_keeps h ..
  · exact afterGrant_keeps (runEv_keeps h _)

/-- One step of the device answers a next state, which keeps what `Keeps` says. -/
theorem step_keeps (s : State) : KeepsO s (step s) := by
  have same (agenda : List Turn) : Keeps s { s with agenda := agenda } := Keeps.refl s
  have turned : Keeps s { s with turn := !s.turn, rot := s.rot + 1 } := Keeps.refl s
  unfold step
  split
  · exact State.controlTurn_keeps (same _) _
  · exact State.strandTurn_keeps (same _) ..
  · exact afterGrant_keeps (exec_keeps (same _) _)
  · dsimp only
    split
    · exact keepsO_next turned
    · exact State.controlTurn_keeps turned _
    · exact State.evStep_keeps turned _
    · split
      · exact State.controlTurn_keeps turned _
      · exact State.evStep_keeps turned _

end Sys2Proof.Machine

namespace Sys2Proof

open Machine

/-- Settles O59: by the `_keeps` lemma of every step, put together in `step_keeps`. -/
theorem stepsKeepMemoryCanonical : Obligations.StepsKeepMemoryCanonical := by
  constructor
  · intro s t hw ht
    obtain ⟨t', ht', hk⟩ := step_keeps s
    cases ht.symm.trans ht'
    exact hk.1 hw
  · intro s
    obtain ⟨t, ht, hk⟩ := step_keeps s
    exact ⟨t, ht, hk.2⟩

end Sys2Proof

namespace Sys2Proof

/-! ## The words that the decoder reads -/

/-- The words beyond the length that word 0 gives are not read (02 R37). -/
theorem decode_congr {w0 w1 w2 v1 v2 : W32} (h1 : 1 < lenWords w0 → w1 = v1) (h2 : 2 < lenWords w0 → w2 = v2) :
    decode w0 w1 w2 = decode w0 v1 v2 := by
  have hlt : (w0.extractLsb' 0 2).toNat < 4 := (w0.extractLsb' 0 2).isLt
  unfold lenWords at h1 h2
  unfold decode decodeControl candidate trimWords unpackFields
  obtain h | h | h | h : (w0.extractLsb' 0 2).toNat = 0 ∨ (w0.extractLsb' 0 2).toNat = 1 ∨
      (w0.extractLsb' 0 2).toNat = 2 ∨ (w0.extractLsb' 0 2).toNat = 3 := by omega
  · simp only [h]
  · simp only [h] at h1 ⊢
    rw [h1 (by decide)]
  · simp only [h] at h1 h2 ⊢
    rw [h1 (by decide), h2 (by decide)]
  · simp only [h]

namespace Machine

/-- A fetch whose words can be read reads the instruction that they decode to. -/
theorem State.fetchInstr_of_fetches {s : State} {w0 w1 w2 : W32} (h0 : Spec.Fetches s s.frag.pc w0)
    (h1 : 1 < lenWords w0 → Spec.Fetches s (s.frag.pc + 4) w1) (h2 : 2 < lenWords w0 → Spec.Fetches s (s.frag.pc + 8) w2) :
    s.fetchInstr = (.ok {}, decode w0 w1 w2) := by
  obtain ⟨p0, e0⟩ := h0
  have hlen := lenWords_pos w0
  simp only [State.fetchInstr, e0]
  obtain h | h | h : lenWords w0 = 1 ∨ lenWords w0 = 2 ∨ lenWords w0 = 3 := by omega
  · simp only [h, if_true, if_neg (show ¬1 = 3 by decide)]
    rw [decode_congr (w1 := 0) (w2 := 0) (v1 := w1) (v2 := w2) (by omega) (by omega)]
  · obtain ⟨p1, e1⟩ := h1 (by omega)
    simp only [h, if_neg (show ¬2 = 1 by decide), if_neg (show ¬2 = 3 by decide), e1]
    rw [decode_congr (w2 := 0) (v2 := w2) (fun _ => rfl) (by omega)]
  · obtain ⟨p1, e1⟩ := h1 (by omega)
    obtain ⟨p2, e2⟩ := h2 (by omega)
    simp only [h, if_neg (show ¬3 = 1 by decide), if_true, e1, e2]

/-- A control step runs the instruction fetched, unless an interlock holds it (01 R18). -/
theorem State.controlStep_of_fetchInstr {s : State} {p : Acc} {i : Instr} (h : s.fetchInstr = (.ok p, i)) :
    s.controlStep = if s.stalled i then .next s else exec i s := by
  simp only [State.controlStep, h]

/-! ## The thread that is served -/

/-- A watch whose turn is passed over has not yielded any more (09 R259). -/
def Watch.passOver (w : Watch) : Watch := { w with yielded := false }

/-- The watches once those of `passed` are passed over. -/
def passTurns (t : Tbl Watch) (passed : List Nat) : Tbl Watch := passed.foldl (fun t n => Tbl.alter t n Watch.passOver) t

theorem State.foldl_passOver (s : State) (passed : List Nat) :
    passed.foldl (fun s n => s.modWatch n Watch.passOver) s = { s with watches := passTurns s.watches passed } := by
  induction passed generalizing s with
  | nil => rfl
  | cons n l ih => exact ih _

theorem find_passTurns (t : Tbl Watch) (passed : List Nat) (w : Nat) :
    Tbl.find (passTurns t passed) w = (Tbl.find t w).map fun x => if w ∈ passed then x.passOver else x := by
  induction passed generalizing t with
  | nil => simp [passTurns]
  | cons n l ih =>
    have step_ : passTurns t (n :: l) = passTurns (Tbl.alter t n Watch.passOver) l := rfl
    rw [step_, ih]
    by_cases e : w = n
    · subst e
      rw [Tbl.find_alter_same, Option.map_map]
      congr 1
      funext x
      simp [Watch.passOver]
    · rw [Tbl.find_alter_other _ _ e]
      simp [e]

/-- What serving a fragment leaves. -/
theorem State.serveThread_eq (s : State) (w e : Nat) (passed : List Nat) :
    s.serveThread w e passed = { s with
      watches := Tbl.alter (passTurns s.watches passed) w fun x => { x with lastEnt := e }
      cores := Tbl.put s.cores (s.watch w).core { s.core (s.watch w).core with rr := (s.watch w).slot }
      cur := w, ent := e } := by
  have h := s.foldl_passOver passed
  unfold Watch.passOver at h
  unfold State.serveThread
  rw [h]
  rfl

theorem State.serveThread_mem (s : State) (w e : Nat) (passed : List Nat) : (s.serveThread w e passed).mem = s.mem := by
  rw [serveThread_eq]

/-- The watch served, which keeps everything but the entry last served and that it has yielded. -/
theorem State.find_serveThread_same {s : State} {w e : Nat} {x : Watch} (passed : List Nat) (h : Tbl.find s.watches w = some x) :
    Tbl.find (s.serveThread w e passed).watches w =
      some { (if w ∈ passed then x.passOver else x) with lastEnt := e } := by
  simp [serveThread_eq, Tbl.find_alter_same, find_passTurns, h]

theorem State.find_serveThread_other (s : State) {w n : Nat} (e : Nat) (passed : List Nat) (h : n ≠ w) :
    Tbl.find (s.serveThread w e passed).watches n =
      (Tbl.find s.watches n).map fun x => if n ∈ passed then x.passOver else x := by
  simp [serveThread_eq, Tbl.find_alter_other _ _ h, find_passTurns]

theorem State.watch_of_find {s : State} {w : Nat} {x : Watch} (h : Tbl.find s.watches w = some x) : s.watch w = x := by
  simp [State.watch, Tbl.getD, h]

/-- The watches passed over have not yielded any more. -/
theorem State.serveThread_yielded {s : State} {w : Nat} {x : Watch} (e : Nat) {passed : List Nat}
    (h : Tbl.find s.watches w = some x) {n : Nat} (hn : n ∈ passed) : ((s.serveThread w e passed).watch n).yielded = false := by
  by_cases hw : n = w
  · subst hw
    rw [watch_of_find (find_serveThread_same passed h), if_pos hn]
    rfl
  · rw [State.watch, Tbl.getD, find_serveThread_other s e passed hw]
    cases Tbl.find s.watches n <;> simp [hn, Watch.passOver]

/-- The fragment that executes is the one served, as it was. -/
theorem State.serveThread_frag {s : State} {w e : Nat} {x : Watch} (passed : List Nat) (h : Tbl.find s.watches w = some x) :
    (s.serveThread w e passed).frag = x.entry e := by
  have hc : (s.serveThread w e passed).cw = { (if w ∈ passed then x.passOver else x) with lastEnt := e } :=
    watch_of_find (find_serveThread_same passed h)
  rw [State.frag, hc]
  split <;> rfl

theorem State.serveThread_rr {s : State} {w : Nat} {x : Watch} (e : Nat) (passed : List Nat) (h : Tbl.find s.watches w = some x) :
    ((s.serveThread w e passed).core x.core).rr = x.slot := by
  simp [serveThread_eq, watch_of_find h, State.core]

end Machine
end Sys2Proof

namespace Sys2Proof.Machine

/-! ## The first fragment that is ready is served (01 R21) -/

/-- The turn of a fragment does something: its step, where it answers a next state, moves it. -/
def State.Does (s : State) (passed : List Nat) (x : Nat × Nat) : Prop :=
  ∀ t, (s.serveThread x.1 x.2 passed).controlStep = .next t → s.moved t x.1 x.2 = true

theorem State.serveFirst_cons_of_does {s : State} {passed : List Nat} {x : Nat × Nat} (l : List (Nat × Nat))
    (h : s.Does passed x) : s.serveFirst passed (x :: l) = some (s.serveThread x.1 x.2 passed).controlStep := by
  obtain ⟨t, ht, -⟩ := controlStep_keeps (Keeps.refl (s.serveThread x.1 x.2 passed))
  simp only [serveFirst, ht, h t ht, if_true]

theorem State.serveFirst_cons_of_not_does {s : State} {passed : List Nat} {x : Nat × Nat} (l : List (Nat × Nat))
    (h : ¬s.Does passed x) : s.serveFirst passed (x :: l) = s.serveFirst passed l := by
  obtain ⟨t, ht, hm⟩ : ∃ t, (s.serveThread x.1 x.2 passed).controlStep = .next t ∧ ¬s.moved t x.1 x.2 = true := by
    simpa [Does] using h
  simp only [serveFirst, ht, if_neg hm]

theorem State.serveFirst_append_of_not_does {s : State} {passed : List Nat} {pre : List (Nat × Nat)} (l : List (Nat × Nat))
    (h : ∀ y ∈ pre, ¬s.Does passed y) : s.serveFirst passed (pre ++ l) = s.serveFirst passed l := by
  induction pre with
  | nil => rfl
  | cons y pre ih =>
    rw [List.cons_append, serveFirst_cons_of_not_does _ (h y List.mem_cons_self)]
    exact ih fun z hz => h z (List.mem_cons_of_mem _ hz)

/-- What serving the first ready fragment of `l` answers: the step of the first that does anything, and nothing where none does. -/
theorem State.serveFirst_goes {s : State} {passed : List Nat} {l : List (Nat × Nat)} {o : Out}
    (ho : o = (s.serveFirst passed l).getD (.next s)) :
    (∀ pre n e post, l = pre ++ (n, e) :: post → (∀ y ∈ pre, ¬s.Does passed y) → s.Does passed (n, e) →
      o = (s.serveThread n e passed).controlStep) ∧
    ((∀ y ∈ l, ¬s.Does passed y) → o = .next s) := by
  subst ho
  constructor
  · rintro pre n e post rfl hpre hx
    rw [serveFirst_append_of_not_does _ hpre, serveFirst_cons_of_does _ hx]
    rfl
  · intro h
    rw [← List.append_nil l, serveFirst_append_of_not_does _ h]
    rfl

/-! ## The watches that have yielded are passed over (09 R259) -/

theorem State.controlTurn_of_none_late {s : State} {core : Nat} (h : s.turnsOf core true = []) :
    s.controlTurn core = (s.serveFirst [] (s.turnsOf core false)).getD (.next s) := by
  simp [controlTurn, h]

theorem State.controlTurn_of_none_ready {s : State} {core : Nat} (h : s.turnsOf core true ≠ [])
    (hf : ∀ y ∈ s.turnsOf core false, s.turnReady y = false) :
    s.controlTurn core = (s.serveFirst (((s.turnsOf core true).filter s.turnReady).map (·.1)) (s.turnsOf core true)).getD (.next s) := by
  have none_ : (s.turnsOf core false).find? s.turnReady = none := List.find?_eq_none.mpr (by simpa using hf)
  simp [controlTurn, h, none_]

theorem State.controlTurn_of_ready {s : State} {core : Nat} (h : s.turnsOf core true ≠ []) {pre post : List (Nat × Nat)}
    {x : Nat × Nat} (hf : s.turnsOf core false = pre ++ x :: post) (hpre : ∀ y ∈ pre, s.turnReady y = false)
    (hx : s.turnReady x = true) :
    s.controlTurn core = (s.serveFirst
      ((((s.turnsOf core true).filter s.turnReady).map (·.1)).filter fun n => s.stands core n x.1) [x]).getD (.next s) := by
  have some_ : (s.turnsOf core false).find? s.turnReady = some x :=
    List.find?_eq_some_iff_append.mpr ⟨hx, pre, post, hf, by simpa using hpre⟩
  simp [controlTurn, h, some_]

/-! ## The order in which the control threads of a core are served (01 R21) -/

/-- Fragment `e` of watch `x`, of number `n`, is a control thread of the core: it runs and does not wait. -/
def State.Thread (s : State) (core n : Nat) (x : Watch) (e : Nat) : Prop :=
  (n, x) ∈ s.watches ∧ x.core = core ∧ s.isLive x = true ∧ x.ended = false ∧ e < 8 ∧ (x.entry e).valid = true ∧ (x.entry e).wait = false

/-- How far a watch's slot lies after the one last served, and an entry after the one last served of its watch. -/
def State.far (s : State) (core : Nat) (x : Watch) : Nat := (x.slot + 63 - (s.core core).rr) % 32
def Watch.farEntry (x : Watch) (e : Nat) : Nat := (e + 15 - x.lastEnt) % 8

theorem Watch.mem_nextEnts {x : Watch} {e : Nat} :
    e ∈ x.nextEnts ↔ e < 8 ∧ (x.entry e).valid = true ∧ (x.entry e).wait = false := by
  have place : (∃ i < 8, (x.lastEnt + 1 + i) % 8 = e) ↔ e < 8 := by
    constructor
    · rintro ⟨i, -, rfl⟩
      omega
    · intro h
      exact ⟨(e + 15 - x.lastEnt % 8) % 8, by omega, by omega⟩
  simp [nextEnts, ← place]

/-- The entries are served in the order of how far they lie. -/
theorem Watch.nextEnts_pairwise {x : Watch} (h : x.lastEnt < 8) :
    x.nextEnts.Pairwise fun e f => x.farEntry e < x.farEntry f := by
  refine List.Pairwise.filter _ (List.pairwise_map.mpr ?_)
  refine List.pairwise_lt_range.imp_of_mem fun {i j} hi hj hij => ?_
  have := List.mem_range.mp hi
  have := List.mem_range.mp hj
  simp only [farEntry]
  omega

theorem State.mem_threads {s : State} {core n : Nat} {x : Watch} :
    (n, x) ∈ s.threads ∧ x.core = core ↔ ∃ e, s.Thread core n x e := by
  simp only [threads, Thread, List.mem_filter, Bool.and_eq_true, Bool.not_eq_true', List.isEmpty_eq_false_iff_exists_mem,
    Watch.mem_nextEnts]
  tauto

theorem State.mem_serveOrder {s : State} {core n : Nat} {x : Watch} (hr : (s.core core).rr < 32)
    (hs : ∀ e, s.Thread core n x e → x.slot < 32) :
    (n, x) ∈ s.serveOrder core ↔ ∃ e, s.Thread core n x e := by
  simp only [serveOrder, List.mem_flatMap, List.mem_range, List.mem_filter, beq_iff_eq, ← mem_threads]
  constructor
  · rintro ⟨i, -, h, -⟩
    exact h
  · intro h
    obtain ⟨e, he⟩ := mem_threads.mp h
    have := hs e he
    exact ⟨s.far core x, by unfold far; omega, h, by unfold far; omega⟩

theorem State.mem_turnsOf {s : State} {core n e : Nat} {b : Bool} (hr : (s.core core).rr < 32)
    (hs : ∀ n x e, s.Thread core n x e → x.slot < 32) :
    (n, e) ∈ s.turnsOf core b ↔ ∃ x, s.Thread core n x e ∧ x.yielded = b := by
  simp only [turnsOf, List.mem_flatMap, List.mem_filter, beq_iff_eq, List.mem_map, Prod.mk.injEq, Prod.exists]
  constructor
  · rintro ⟨n, x, ⟨h, hb⟩, e, he, rfl, rfl⟩
    obtain ⟨-, hw, hc, hl, hd, -⟩ := (mem_serveOrder hr (hs n x)).mp h
    exact ⟨x, ⟨hw, hc, hl, hd, Watch.mem_nextEnts.mp he⟩, hb⟩
  · rintro ⟨x, h, hb⟩
    have ⟨_, _, _, _, he⟩ := h
    exact ⟨n, x, ⟨(mem_serveOrder hr (hs n x)).mpr ⟨e, h⟩, hb⟩, e, Watch.mem_nextEnts.mpr he, rfl, rfl⟩

section
variable {s : State} {core : Nat} (hr : (s.core core).rr < 32) (hn : (s.watches.map (·.1)).Nodup)
  (hu : ∀ n x e k y f, s.Thread core n x e → s.Thread core k y f → x.slot = y.slot ∨ n = k → (n, x) = (k, y))
include hr hn hu

/-- The watches are served in the order of how far their slots lie. -/
theorem State.serveOrder_pairwise : (s.serveOrder core).Pairwise fun p q => s.far core p.2 < s.far core q.2 := by
  rw [serveOrder, List.pairwise_flatMap]
  constructor
  · intro i _
    have nd : s.watches.Nodup := List.Nodup.of_map _ hn
    refine (((nd.filter _).filter _).filter _).imp_of_mem fun {p q} hp hq hne => absurd ?_ hne
    simp only [List.mem_filter, beq_iff_eq] at hp hq
    obtain ⟨⟨hp, cp⟩, sp⟩ := hp
    obtain ⟨⟨hq, cq⟩, sq⟩ := hq
    obtain ⟨e, he⟩ := mem_threads.mp ⟨hp, cp⟩
    obtain ⟨f, hf⟩ := mem_threads.mp ⟨hq, cq⟩
    exact hu _ _ _ _ _ _ he hf (Or.inl (sp.trans sq.symm))
  · refine List.pairwise_lt_range.imp_of_mem fun {i j} hi hj hij p hp q hq => ?_
    have := List.mem_range.mp hi
    have := List.mem_range.mp hj
    have sp := (List.mem_filter.mp hp).2
    have sq := (List.mem_filter.mp hq).2
    simp only [beq_iff_eq] at sp sq
    simp only [far, sp, sq]
    omega

/-- The fragments are served in the order of how far their watches' slots lie, those of one watch in that of their entries. -/
theorem State.turnsOf_pairwise (hs : ∀ n x e, s.Thread core n x e → x.slot < 32 ∧ x.lastEnt < 8) (b : Bool) :
    (s.turnsOf core b).Pairwise fun p q => ∀ x y, s.Thread core p.1 x p.2 → s.Thread core q.1 y q.2 →
      s.far core x < s.far core y ∨ (p.1 = q.1 ∧ x.farEntry p.2 < x.farEntry q.2) := by
  have served : ∀ p ∈ (s.serveOrder core).filter (fun x => x.2.yielded == b), ∃ e, s.Thread core p.1 p.2 e := fun p hp =>
    (mem_serveOrder hr fun e h => (hs _ _ e h).1).mp (List.mem_filter.mp hp).1
  rw [turnsOf, List.pairwise_flatMap]
  constructor
  · intro p hp
    obtain ⟨e, he⟩ := served p hp
    refine List.pairwise_map.mpr ((Watch.nextEnts_pairwise (hs _ _ e he).2).imp fun h x y hx _ => Or.inr ⟨rfl, ?_⟩)
    cases hu _ _ _ _ _ _ hx he (Or.inr rfl)
    exact h
  · refine ((serveOrder_pairwise hr hn hu).filter _).imp_of_mem fun {p q} hp hq h a ha c hc x y hx hy => Or.inl ?_
    obtain ⟨e, he⟩ := served p hp
    obtain ⟨f, hf⟩ := served q hq
    obtain ⟨_, -, rfl⟩ := List.mem_map.mp ha
    obtain ⟨_, -, rfl⟩ := List.mem_map.mp hc
    cases hu _ _ _ _ _ _ hx he (Or.inr rfl)
    cases hu _ _ _ _ _ _ hy hf (Or.inr rfl)
    exact h

end

/-! ## The steps of the agenda -/

/-- A lane instruction that was granted the ports runs in the same step (01 R20), and completes its chain where it is the last (01 R34, 05 R158). -/
theorem afterGrant_next (t : State) :
    afterGrant (.next t) =
      if t.granted = false then .next t
      else if t.lane.last = false then exec t.grantedInstr { t with granted := false }
      else match exec t.grantedInstr { t with granted := false } with
        | .next u =>
          let v := u.issueAmax t.cur t.next
          .next (if t.chain.loose = [] then v else v.modWatch t.cur fun w => w.loosen t.chain 8)
        | o => o := by
  obtain ⟨u, hu, -⟩ := exec_keeps (Keeps.refl { t with granted := false }) t.grantedInstr
  cases hg : t.granted <;> cases hl : t.lane.last <;> simp [afterGrant, loosened, hg, hl, hu]

/-- The turn of a strand that holds a context, in a program: the chunk word at its place (15 R411, R413). -/
theorem State.strandTurn_of_prog {s : State} {id i : Nat} {r : Run} {wd : Word} (hr : s.runOf id = some r) (ho : r.op = 6)
    (hc : s.hasContext r i = true) (hw : r.prog[(r.strand i).pc]? = some wd) :
    let u := { s with strand := (id, i) }
    (∀ c, decodeChunk wd = .ok c → s.strandTurn id i = exec c u) ∧
    (decodeChunk wd = .badOp → s.strandTurn id i = exec (.badop wd) u) ∧
    (decodeChunk wd = .badField → s.strandTurn id i = .next u.badField) := by
  intro u
  have hr' : u.runOf id = some r := hr
  have hc' : u.hasContext r i = true := hc
  refine ⟨fun c hd => ?_, fun hd => ?_, fun hd => ?_⟩ <;>
    simp [strandTurn, u, hr', hc', ho, hw, hd]

end Sys2Proof.Machine

namespace Sys2Proof

open Machine

/-- Settles O56: a control turn by `serveFirst_goes` and the three forms of `controlTurn`, the order of its fragments by `turnsOf_pairwise`, the
fragment served by the lemmas of `serveThread` and of the fetch, the agenda's other turns by `afterGrant_next` and `strandTurn_of_prog`. -/
theorem aStepRunsTheDecodedInstruction : Obligations.AStepRunsTheDecodedInstruction := by
  refine ⟨fun s core rest h => ?_, fun s core b => ?_, fun s w e x passed h => ?_, fun s i rest h => ?_,
    fun s id i rest r wd h hr ho hc hw => ?_⟩
  · have turn : step s = { s with agenda := rest }.controlTurn core := by simp only [step, h]
    intro v serve does goes fresh late passing
    exact ⟨fun hl => State.serveFirst_goes (turn.trans (State.controlTurn_of_none_late hl)),
      fun hl hf => State.serveFirst_goes (turn.trans (State.controlTurn_of_none_ready hl hf)),
      fun hl pre x post hf hpre hx => State.serveFirst_goes (turn.trans (State.controlTurn_of_ready hl hf hpre hx))⟩
  · intro thread far farE hr hs
    refine ⟨fun n e => State.mem_turnsOf hr fun n x e ht => (hs n x e ht).1, fun hn hu i j n e k f x y hij hi hj hx hy => ?_⟩
    obtain ⟨hi', ei⟩ := List.getElem?_eq_some_iff.mp hi
    obtain ⟨hj', ej⟩ := List.getElem?_eq_some_iff.mp hj
    have order := List.pairwise_iff_getElem.mp (State.turnsOf_pairwise hr hn hu hs b) i j hi' hj' hij
    rw [ei, ej] at order
    exact order x y hx hy
  · intro u pc
    refine ⟨rfl, rfl, State.serveThread_frag passed h, State.serveThread_mem .., State.serveThread_rr e passed h, ?_,
      fun n hn => State.serveThread_yielded e h hn, ?_⟩
    · rw [State.watch_of_find (State.find_serveThread_same passed h)]
    · intro w0 w1 w2 i h0 h1 h2 hi
      have hpc : u.frag.pc = pc := congrArg SplitEntry.pc (State.serveThread_frag passed h)
      have hstep := State.controlStep_of_fetchInstr (State.fetchInstr_of_fetches (hpc ▸ h0) (hpc ▸ h1) (hpc ▸ h2))
      rw [hi] at hstep
      exact ⟨fun hs => by rw [hstep, hs]; rfl, fun hs => by rw [hstep, hs]; rfl⟩
  · obtain ⟨t, ht, -⟩ := exec_keeps (Keeps.refl { s with agenda := rest }) i
    have turn : step s = afterGrant (exec i { s with agenda := rest }) := by simp only [step, h]
    rw [turn, ht]
    exact afterGrant_next t
  · have turn : step s = { s with agenda := rest }.strandTurn id i := by simp only [step, h]
    rw [turn]
    exact State.strandTurn_of_prog (s := { s with agenda := rest }) hr ho hc hw

end Sys2Proof

namespace Sys2Proof.Machine

/-! ## Targets, masks and the entries of the split table -/

/-- The target of a displacement, as 02 R42 writes it. -/
theorem State.target_eq (s : State) (o : W32) : s.target o = Spec.displaced s.frag.pc o := by
  have pc : BitVec.ofInt 42 (s.frag.pc.toNat : Int) = s.frag.pc := by simp
  have four : BitVec.ofInt 42 4 = 4 := rfl
  rw [State.target, Spec.displaced, BitVec.ofInt_add, BitVec.ofInt_mul, pc, four, BitVec.mul_comm]
  rfl

theorem and_not_and (m p : Mask) : m &&& ~~~(m &&& p) = m &&& ~~~p := by
  ext i hi
  cases h : m[i] <;> simp [h]

theorem Watch.mem_freeEntries {w : Watch} {e : Nat} : e ∈ w.freeEntries ↔ e < 8 ∧ (w.entry e).valid = false := by
  simp [Watch.freeEntries]

theorem Watch.freeEntries_nodup (w : Watch) : w.freeEntries.Nodup := List.nodup_range.filter _

/-- A valid entry is none of the invalid ones. -/
theorem Watch.ne_of_mem_freeEntries {w : Watch} {e k : Nat} (h : k ∈ w.freeEntries) (hv : (w.entry e).valid = true) : k ≠ e := by
  rintro rfl
  simp [(Watch.mem_freeEntries.mp h).2] at hv

/-- A watch that differs from `w` in its fragments alone still does once an entry changes. -/
theorem Watch.setEntry_frame_of {w y : Watch} (h : y = { w with split := y.split }) (e : Nat) (f : SplitEntry) :
    y.setEntry e f = { w with split := (y.setEntry e f).split } := by
  rw [Watch.setEntry_frame]
  generalize (y.setEntry e f).split = S
  rw [h]

/-! ## SPLIT (01 R23) -/

section
variable {w : Watch} {e : Nat} {t n : Mask} {target next x : Off} {sig : W32}

theorem Watch.splitFrag_of_none_taken :
    w.splitFrag e 0 n target next x sig = some (w.setEntry e { w.entry e with pc := next, sig := sig }) := rfl

theorem Watch.splitFrag_of_all_taken (ht : t ≠ 0) :
    w.splitFrag e t 0 target next x sig = some (w.setEntry e { w.entry e with pc := target, sig := sig }) := by
  rw [Watch.splitFrag, if_neg ht, if_pos rfl]

theorem Watch.splitFrag_of_entries (ht : t ≠ 0) (hn : n ≠ 0) {c k : Nat} {rest : List Nat} (hf : w.freeEntries = c :: k :: rest) :
    w.splitFrag e t n target next x sig =
      some (((w.setEntry c { mask := t, pc := target, parent := BitVec.ofNat 3 e, valid := true, sig := sig }).setEntry k
        { mask := n, pc := next, parent := BitVec.ofNat 3 e, valid := true, sig := sig }).setEntry e
        { w.entry e with wait := true, reconv := x, sig := sig }) := by
  rw [Watch.splitFrag, if_neg ht, if_neg hn, hf]

/-- With fewer than two invalid entries a serial level is opened, but for a seventeenth. -/
theorem Watch.splitFrag_of_full (ht : t ≠ 0) (hn : n ≠ 0) (hf : w.freeEntries.length < 2) :
    w.splitFrag e t n target next x sig = if (w.entry e).levels.length < 16 then
      some (w.setEntry e { w.entry e with
        levels := { m := (w.entry e).mask, pend := n, pendPc := next, x := x, pendSig := sig } :: (w.entry e).levels
        mask := t, pc := target, sig := sig })
      else none := by
  unfold Watch.splitFrag
  rw [if_neg ht, if_neg hn]
  rcases h : w.freeEntries with _ | ⟨c, _ | ⟨k, rest⟩⟩
  · rfl
  · rfl
  · simp [h] at hf

end

/-- What SPLIT and SPLIT.N do, which take the lanes of `pred`. -/
theorem splitStep_of_exec {i : Instr} {s : State} {pred : Mask} {t x : W32} (hv : s.frag.valid = true)
    (h : exec i s = .next (s.splitBy i pred t x)) : Spec.SplitStep i s pred t x := by
  have he : s.ent < 8 := valid_lt hv
  have run : exec i s = .next (match s.cw.splitFrag s.ent (s.frag.mask &&& pred) (s.frag.mask &&& ~~~pred)
      (Spec.displaced s.frag.pc t) (s.frag.pc + 12) (Spec.displaced s.frag.pc x) (Spec.splitSig i s.frag.sig) with
    | some w => s.setW w
    | none => s.trap { cause := 0x05 }) := by
    rw [h, State.splitBy, and_not_and, State.target_eq, State.target_eq]
    rfl
  unfold Spec.SplitStep
  intro f sig T N
  refine ⟨fun hT => ?_, fun hT hN => ?_, fun hT hN c k rest hfree => ?_, fun hT hN hfree hl => ?_, fun hT hN hfree hl => ?_⟩
  · rw [run, show s.frag.mask &&& pred = 0 from hT, Watch.splitFrag_of_none_taken]
    rfl
  · rw [run, show s.frag.mask &&& ~~~pred = 0 from hN, Watch.splitFrag_of_all_taken hT]
    rfl
  · have hc : c ∈ s.cw.freeEntries := by simp [hfree]
    have hk : k ∈ s.cw.freeEntries := by simp [hfree]
    have hce := Watch.ne_of_mem_freeEntries hc hv
    have hke := Watch.ne_of_mem_freeEntries hk hv
    have hck : c ≠ k := by
      have := s.cw.freeEntries_nodup
      rw [hfree] at this
      simp_all
    rw [run, Watch.splitFrag_of_entries hT hN hfree]
    refine ⟨_, rfl, Watch.setEntry_frame_of (Watch.setEntry_frame_of (Watch.setEntry_frame ..) ..) .., ?_, ?_, Watch.entry_setEntry_same _ _ he, fun n hnc hnk hne => ?_⟩
    · rw [Watch.entry_setEntry_other _ _ hce, Watch.entry_setEntry_other _ _ hck,
        Watch.entry_setEntry_same _ _ (Watch.mem_freeEntries.mp hc).1]
    · rw [Watch.entry_setEntry_other _ _ hke, Watch.entry_setEntry_same _ _ (Watch.mem_freeEntries.mp hk).1]
    · rw [Watch.entry_setEntry_other _ _ hne, Watch.entry_setEntry_other _ _ hnk, Watch.entry_setEntry_other _ _ hnc]
  · have level : (s.cw.entry s.ent).levels.length < 16 := hl
    rw [run, Watch.splitFrag_of_full hT hN hfree, if_pos level]
    rfl
  · have level : ¬(s.cw.entry s.ent).levels.length < 16 := Nat.not_lt.mpr hl
    rw [run, Watch.splitFrag_of_full hT hN hfree, if_neg level]

theorem splitDividesTheFragment : Spec.SplitDividesTheFragment :=
  fun _ _ _ _ hv => ⟨splitStep_of_exec hv rfl, splitStep_of_exec hv rfl⟩

/-! ## The groups of a CALLV (04 R109) -/

/-- `gs` are the groups of the lanes `ls` by their targets, ordered by the lowest lane. -/
structure GroupsOf (t : Nat → Off) (ls : List Nat) (gs : List (Off × Mask)) : Prop where
  lanes : ∀ g ∈ gs, ∀ l, g.2.getLsbD l = true ↔ l ∈ ls ∧ t l = g.1
  inhabited : ∀ g ∈ gs, ∃ l ∈ ls, t l = g.1
  all : ∀ l ∈ ls, ∃ m, (t l, m) ∈ gs
  ordered : gs.Pairwise fun g h => ∃ l, g.2.getLsbD l = true ∧ ∀ m, h.2.getLsbD m = true → l < m

theorem getLsbD_oneLane {l : Nat} (h : l < 64) (k : Nat) : (oneLane l).getLsbD k = decide (k = l) := by
  simp only [oneLane, BitVec.getLsbD_shiftLeft, BitVec.getLsbD_one]
  by_cases hk : k = l <;> simp [hk] <;> omega

theorem mem_lanesOf {m : Mask} {l : Nat} : l ∈ lanesOf m ↔ m.getLsbD l = true := by
  simp only [lanesOf, List.mem_filter, List.mem_range, and_iff_right_iff_imp]
  exact BitVec.lt_of_getLsbD

theorem lanesOf_pairwise (m : Mask) : (lanesOf m).Pairwise (· < ·) := List.Pairwise.filter _ List.pairwise_lt_range

/-- A lane below all others goes in front with the lanes of its target, which the other groups lose. -/
theorem GroupsOf.cons {t : Nat → Off} {l : Nat} {ls : List Nat} {gs hs : List (Off × Mask)} {m : Mask} (h : GroupsOf t ls gs)
    (hl : ∀ k ∈ ls, l < k) (hm : ∀ k, m.getLsbD k = true ↔ k ∈ l :: ls ∧ t k = t l) (hsub : hs.Sublist gs)
    (hmem : ∀ g, g ∈ hs ↔ g ∈ gs ∧ g.1 ≠ t l) : GroupsOf t (l :: ls) ((t l, m) :: hs) where
  lanes g hg k := by
    rcases List.mem_cons.mp hg with rfl | hg
    · exact hm k
    · obtain ⟨hg, hne⟩ := (hmem g).mp hg
      have : t k = g.1 → k ≠ l := fun e h => hne (h ▸ e.symm)
      have := h.lanes g hg k
      simp only [List.mem_cons]
      tauto
  inhabited g hg := by
    rcases List.mem_cons.mp hg with rfl | hg
    · exact ⟨l, List.mem_cons_self, rfl⟩
    · obtain ⟨k, hk, e⟩ := h.inhabited g ((hmem g).mp hg).1
      exact ⟨k, List.mem_cons_of_mem _ hk, e⟩
  all k hk := by
    by_cases e : t k = t l
    · exact ⟨m, by simp [e]⟩
    · have hk : k ∈ ls := (List.mem_cons.mp hk).resolve_left fun h => e (h ▸ rfl)
      obtain ⟨m', hm'⟩ := h.all k hk
      exact ⟨m', List.mem_cons_of_mem _ ((hmem _).mpr ⟨hm', e⟩)⟩
  ordered := by
    refine List.pairwise_cons.mpr ⟨fun g hg => ⟨l, (hm l).mpr ⟨List.mem_cons_self, rfl⟩, fun k hk => ?_⟩, h.ordered.sublist hsub⟩
    exact hl k ((h.lanes g ((hmem g).mp hg).1 k).mp hk).1

theorem callGroups_groupsOf (t : Nat → Off) {ls : List Nat} (hs : ls.Pairwise (· < ·)) (hb : ∀ l ∈ ls, l < 64) :
    GroupsOf t ls (callGroups t ls) := by
  induction ls with
  | nil => exact ⟨by simp [callGroups], by simp [callGroups], by simp, List.Pairwise.nil⟩
  | cons l ls ih =>
    obtain ⟨hl, hs⟩ := List.pairwise_cons.mp hs
    have g := ih hs fun k hk => hb k (List.mem_cons_of_mem _ hk)
    have one := getLsbD_oneLane (hb l List.mem_cons_self)
    simp only [callGroups]
    split
    · next p hp =>
      have hpm := List.mem_of_find?_eq_some hp
      have hpt : p.1 = t l := by simpa using List.find?_some hp
      refine g.cons hl (fun k => ?_) List.filter_sublist fun q => by simp
      have := g.lanes p hpm k
      simp only [BitVec.getLsbD_or, one, Bool.or_eq_true, decide_eq_true_eq, this, hpt, List.mem_cons]
      constructor
      · rintro (h | rfl)
        · exact ⟨.inr h.1, h.2⟩
        · exact ⟨.inl rfl, rfl⟩
      · rintro ⟨rfl | h, e⟩
        · exact .inr rfl
        · exact .inl ⟨h, e⟩
    · next hp =>
      have absent : ∀ q ∈ callGroups t ls, q.1 ≠ t l := by simpa using hp
      refine g.cons hl (fun k => ?_) (List.Sublist.refl _) fun q => ⟨fun h => ⟨h, absent q h⟩, And.left⟩
      simp only [one, decide_eq_true_eq, List.mem_cons]
      constructor
      · rintro rfl
        exact ⟨.inl rfl, rfl⟩
      · rintro ⟨rfl | h, e⟩
        · rfl
        · obtain ⟨m, hm⟩ := g.all k h
          exact absurd e (absent _ hm)

/-- The groups are determined by the lanes and their targets. -/
theorem GroupsOf.unique {t : Nat → Off} {ls : List Nat} {gs hs : List (Off × Mask)} (hg : GroupsOf t ls gs) (hh : GroupsOf t ls hs) :
    gs = hs := by
  have sub {as bs : List (Off × Mask)} (ha : GroupsOf t ls as) (hb : GroupsOf t ls bs) (g : Off × Mask) (h : g ∈ as) : g ∈ bs := by
    obtain ⟨l, hl, e⟩ := ha.inhabited g h
    obtain ⟨m, hm⟩ := hb.all l hl
    have same : g.2 = m := BitVec.eq_of_getLsbD_eq fun k _ => by
      rw [Bool.eq_iff_iff, ha.lanes g h k, hb.lanes _ hm k, e]
    have : g = (t l, m) := Prod.ext e.symm same
    exact this ▸ hm
  have nodup {as : List (Off × Mask)} (ha : GroupsOf t ls as) : as.Nodup := by
    refine ha.ordered.imp ?_
    rintro a _ ⟨l, hl, h⟩ rfl
    exact (h l hl).false
  have perm : gs.Perm hs := (List.perm_ext_iff_of_nodup (nodup hg) (nodup hh)).mpr fun g => ⟨sub hg hh g, sub hh hg g⟩
  refine perm.eq_of_pairwise ?_ hg.ordered hh.ordered
  rintro a b - - ⟨l, hl, h⟩ ⟨k, hk, h'⟩
  exact absurd ((h k hk).trans (h' l hl)) (Nat.lt_irrefl _)

/-- The groups that the model forms. -/
def State.groupsOf (s : State) (v : Sel) : List (Off × Mask) := callGroups (Spec.callTarget s v) (lanesOf s.frag.mask)

theorem State.groupsOf_groupsOf (s : State) (v : Sel) : GroupsOf (Spec.callTarget s v) (lanesOf s.frag.mask) (s.groupsOf v) :=
  callGroups_groupsOf _ (lanesOf_pairwise _) fun _ hl => BitVec.lt_of_getLsbD (mem_lanesOf.mp hl)

theorem groupsOf_of_callGroups {s : State} {v : Sel} {gs : List (Off × Mask)} (h : Spec.CallGroups s v gs) : s.groupsOf v = gs := by
  obtain ⟨hg, hall, hord⟩ := h
  refine (s.groupsOf_groupsOf v).unique ⟨fun g h l => ?_, fun g h => ?_, fun l hl => hall l (mem_lanesOf.mp hl), ?_⟩
  · rw [(hg g h).2 l, mem_lanesOf]
    simp
  · by_contra none_
    refine (hg g h).1 (BitVec.eq_of_getLsbD_eq fun l _ => ?_)
    rw [(hg g h).2 l, show BitVec.getLsbD (0 : Mask) l = false from BitVec.getLsbD_zero, Bool.eq_false_iff]
    simp only [ne_eq, Bool.and_eq_true, beq_iff_eq]
    exact fun hl => none_ ⟨l, mem_lanesOf.mpr hl.1, hl.2⟩
  · exact List.pairwise_iff_getElem.mpr fun j k hj hk hjk =>
      hord j k _ _ hjk (List.getElem?_eq_getElem hj) (List.getElem?_eq_getElem hk)

end Sys2Proof.Machine

namespace Sys2Proof.Machine

/-! ## The checks of a CALLV's groups (04 R109) -/

theorem extractLsb'_eq_iff {m n k : Nat} (x : BitVec m) (y : BitVec n) : x.extractLsb' k n = y ↔ x.toNat / 2 ^ k % 2 ^ n = y.toNat := by
  rw [← BitVec.toNat_inj, BitVec.extractLsb'_toNat, Nat.shiftRight_eq_div_pow]

/-- The check of a header, by the words that the code reads there. -/
theorem State.checkCall_of_words {s : State} {t : Off} {a b : Acc} {h0 h1 : W32} (ht : t.toNat % 4 = 0)
    (ha : s.codeWord (t - 8) = (.ok a, h0)) (hb : s.codeWord (t - 4) = (.ok b, h1)) :
    let n := h1.toNat % 512
    s.checkCall t =
      if ¬(h0 = 0xF5 ∧ h1.toNat / 65536 = 0xF4C1 ∧ h1.toNat / 512 % 128 = 0 ∧ n % 32 = 0 ∧ n ≤ 384) then
        some (.trap { cause := 0x08, addr := t.setWidth 64 })
      else if s.cw.allot < n then some (.trap { cause := 0x09, addr := t.setWidth 64 })
      else none := by
  intro n
  have aligned : t.extractLsb' 0 2 = 0 := by rw [extractLsb'_eq_iff]; simpa using ht
  have magic : h1.extractLsb' 16 16 = 0xF4C1 ↔ h1.toNat / 65536 = 0xF4C1 := by
    have := h1.isLt
    rw [extractLsb'_eq_iff]
    simp
    omega
  have zeros : h1.extractLsb' 9 7 = 0 ↔ h1.toNat / 512 % 128 = 0 := by rw [extractLsb'_eq_iff]; simp
  have budget : (h1.extractLsb' 0 9).toNat = n := by simp [n]
  simp only [State.checkCall, ha, hb, aligned, ne_eq, not_true_eq_false, if_false, magic, zeros, budget]
  by_cases good : h0 = 0xF5 ∧ h1.toNat / 65536 = 0xF4C1 ∧ h1.toNat / 512 % 128 = 0
  · have range : (¬n = 0 ∧ (¬n % 32 = 0 ∨ 384 < n)) ↔ ¬(n % 32 = 0 ∧ n ≤ 384) := by omega
    simp [good, range]
  · have bad : ¬h0 = 0xF5 ∨ ¬h1.toNat / 65536 = 0xF4C1 ∨ ¬h1.toNat / 512 % 128 = 0 := by tauto
    have : ¬(h0 = 0xF5 ∧ h1.toNat / 65536 = 0xF4C1 ∧ h1.toNat / 512 % 128 = 0 ∧ n % 32 = 0 ∧ n ≤ 384) := by tauto
    rw [if_pos bad, if_pos this]

theorem checksHeader (s : State) : Spec.ChecksHeader s := by
  refine ⟨fun t ht => ?_, fun t a b h0 h1 ht ha hb => ?_⟩
  · have off : t.extractLsb' 0 2 ≠ 0 := by rw [ne_eq, extractLsb'_eq_iff]; simpa using ht
    simp only [State.checkCall, if_pos off]
  · have check := State.checkCall_of_words ht ha hb
    refine ⟨fun bad => ?_, fun good hn => ?_, fun good hn => ?_⟩
    · rw [check, if_pos bad]
    · rw [check, if_neg (not_not.mpr good), if_pos hn]
    · rw [check, if_neg (not_not.mpr good), if_neg (Nat.not_lt.mpr hn)]

theorem State.checkCalls_eq_none {s : State} {gs : List (Off × Mask)} (h : ∀ g ∈ gs, s.checkCall g.1 = none) : s.checkCalls gs = none := by
  induction gs with
  | nil => rfl
  | cons g gs ih =>
    rw [checkCalls, h g List.mem_cons_self]
    exact ih fun k hk => h k (List.mem_cons_of_mem _ hk)

theorem State.checkCalls_append {s : State} {pre rest : List (Off × Mask)} {g : Off × Mask} {p : Prep}
    (hpre : ∀ h ∈ pre, s.checkCall h.1 = none) (hg : s.checkCall g.1 = some p) : s.checkCalls (pre ++ g :: rest) = some p := by
  induction pre with
  | nil => simp [checkCalls, hg]
  | cons k pre ih =>
    rw [List.cons_append, checkCalls, hpre k List.mem_cons_self]
    exact ih fun h hh => hpre h (List.mem_cons_of_mem _ hh)

/-- Where no group is stopped, the CALLV goes on. -/
theorem State.callIf_of_none {s k : State} {gs : List (Off × Mask)} (h : ∀ g ∈ gs, s.checkCall g.1 = none) : s.callIf gs k = k := by
  rw [callIf, checkCalls_eq_none h]

/-- The first header that fails stops it. -/
theorem stopsAt_of_exec {s k : State} {v : Sel} {gs : List (Off × Mask)} (h : exec (.callv v) s = .next (s.callIf gs k)) :
    Spec.StopsAt s v gs := by
  rintro pre rest g p rfl hpre hg
  rw [h, State.callIf, State.checkCalls_append hpre hg]

/-! ## CALLV (04 R108, R109) -/

/-- S63 takes the return point and the fragment becomes `f`. -/
def State.called (s : State) (f : SplitEntry) : State :=
  s.setW ((s.cw.setS linkReg ((s.frag.pc + 8).setWidth 64)).setEntry s.ent f)

theorem State.called_eq (s : State) (f : SplitEntry) :
    (s.setS linkReg ((s.frag.pc + 8).setWidth 64)).modW (fun w => w.setEntry s.ent f) = s.called f := by
  rw [State.setS_eq, State.modW_setW]
  rfl

theorem sameButSregs_setS_setEntry (w : Watch) (r : Reg) (v : Word) (e : Nat) (f : SplitEntry) :
    SameButSregs w ((w.setS r v).setEntry e f) := by
  rw [SameButSregs, Watch.setEntry_frame, Watch.setS_frame]

/-- The S registers once S63 took the return point. -/
theorem Watch.sreg_setS_link (w : Watch) (v : Word) (r : Reg) : (w.setS linkReg v).sreg r = if r = 63 then v else w.sreg r := by
  by_cases h : r = 63
  · rw [h, if_pos rfl]
    exact Watch.sreg_setS_same w 63 v
  · rw [if_neg h]
    exact Watch.sreg_setS_other w v h

theorem becomes_of_called {i : Instr} {s : State} {f : SplitEntry} (he : s.ent < 8) (h : exec i s = .next (s.called f)) :
    Spec.Becomes i s f (some ((s.frag.pc + 8).setWidth 64)) := by
  refine ⟨_, h, sameButSregs_setS_setEntry .., ⟨fun k hk => ?_, Watch.entry_setEntry_same _ _ he⟩, fun r => ?_⟩
  · rw [Watch.entry_setEntry_other _ _ hk, Watch.entry_setS]
  · rw [Watch.sreg_setEntry, Watch.sreg_setS_link]
    rfl

/-- A group starts in the lowest invalid entry, as a child of entry `p`. -/
def Watch.startGroup (p : Nat) (w : Watch) (g : Off × Mask) : Watch :=
  w.setEntry (w.freeEntries.head?.getD 0) { mask := g.2, pc := g.1, parent := BitVec.ofNat 3 p, valid := true, sig := startSig }

theorem Watch.foldl_startGroup_frame (p : Nat) (gs : List (Off × Mask)) (w : Watch) :
    gs.foldl (startGroup p) w = { w with split := (gs.foldl (startGroup p) w).split } := by
  induction gs generalizing w with
  | nil => rfl
  | cons g gs ih => exact ih _

theorem State.foldl_modW_startGroup (s : State) (gs : List (Off × Mask)) (w : Watch) :
    gs.foldl (fun (s : State) g => s.modW fun w => w.startGroup s.ent g) (s.setW w) = s.setW (gs.foldl (Watch.startGroup s.ent) w) := by
  induction gs generalizing w with
  | nil => rfl
  | cons g gs ih =>
    rw [List.foldl_cons, State.modW_setW]
    exact ih _

theorem Watch.freeEntries_congr {x y : Watch} (h : ∀ k, (x.entry k).valid = (y.entry k).valid) : x.freeEntries = y.freeEntries := by
  simp [freeEntries, h]

/-- An entry that becomes valid is no longer among the invalid ones. -/
theorem Watch.freeEntries_setEntry_head {w : Watch} {e : Nat} {rest : List Nat} (h : w.freeEntries = e :: rest) {f : SplitEntry}
    (hf : f.valid = true) : (w.setEntry e f).freeEntries = rest := by
  have he : e < 8 := (mem_freeEntries.mp (h ▸ List.mem_cons_self : e ∈ w.freeEntries)).1
  have nd := w.freeEntries_nodup
  rw [h, List.nodup_cons] at nd
  have less : (w.setEntry e f).freeEntries = w.freeEntries.filter (· != e) := by
    rw [freeEntries, freeEntries, List.filter_filter]
    refine List.filter_congr fun k _ => ?_
    by_cases hk : k = e
    · subst hk
      simp [entry_setEntry_same _ _ he, hf]
    · simp [entry_setEntry_other _ _ hk, hk]
  rw [less, h, List.filter_cons_of_neg (by simp), List.filter_eq_self]
  intro k hk
  exact bne_iff_ne.mpr fun h => nd.1 (h ▸ hk)

/-- The groups start in the lowest invalid entries, in their order, and no other entry moves. -/
theorem Watch.entry_foldl_startGroup {p : Nat} {gs : List (Off × Mask)} {w : Watch} (h : gs.length ≤ w.freeEntries.length) :
    (∀ (j e : Nat) (g : Off × Mask), gs[j]? = some g → w.freeEntries[j]? = some e →
      (gs.foldl (startGroup p) w).entry e =
        { mask := g.2, pc := g.1, parent := BitVec.ofNat 3 p, valid := true, sig := startSig }) ∧
    ∀ n, n ∉ w.freeEntries.take gs.length → (gs.foldl (startGroup p) w).entry n = w.entry n := by
  induction gs generalizing w with
  | nil => simp
  | cons g gs ih =>
    obtain ⟨e, rest, hw⟩ : ∃ e rest, w.freeEntries = e :: rest := List.exists_cons_of_length_pos (by simp at h; omega)
    have he : e < 8 := (mem_freeEntries.mp (hw ▸ List.mem_cons_self : e ∈ w.freeEntries)).1
    have nd := w.freeEntries_nodup
    rw [hw, List.nodup_cons] at nd
    have start : w.startGroup p g =
        w.setEntry e { mask := g.2, pc := g.1, parent := BitVec.ofNat 3 p, valid := true, sig := startSig } := by
      simp [startGroup, hw]
    have free : (w.startGroup p g).freeEntries = rest := by
      rw [start]
      exact freeEntries_setEntry_head hw rfl
    have len : gs.length ≤ (w.startGroup p g).freeEntries.length := by
      rw [free]
      simp [hw] at h
      exact h
    obtain ⟨got, others⟩ := ih len
    rw [free] at got others
    rw [hw]
    refine ⟨fun j e' g' hj hj' => ?_, fun n hn => ?_⟩
    · cases j with
      | zero =>
        cases hj
        cases hj'
        rw [List.foldl_cons, others e fun hm => nd.1 (List.mem_of_mem_take hm), start, entry_setEntry_same _ _ he]
      | succ j => exact got j e' g' hj hj'
    · simp only [List.length_cons, List.take_succ_cons, List.mem_cons, not_or] at hn
      rw [List.foldl_cons, others n hn.2, start, entry_setEntry_other _ _ hn.1]

/-- The fragment comes back by the FUSE of the serial level that holds the groups of this CALLV. -/
def SplitEntry.comesBack (f : SplitEntry) : Prop :=
  ∃ l rest, f.levels = l :: rest ∧ l.phase = true ∧ l.x = f.pc + 8 ∧ l.pendPc = f.pc

/-- The fragment as a group of it runs on with the serial levels `ls`. -/
def SplitEntry.runsGroup (f : SplitEntry) (g : Off × Mask) (ls : List Level) : SplitEntry :=
  { f with mask := g.2, pc := g.1, sig := 0xFFFFFFFF, levels := ls }

/-- The serial level that the CALLV comes back to, as the model tests it. -/
theorem SplitEntry.comesBack_iff (f : SplitEntry) :
    let top := f.levels.head?.getD {}
    (!f.levels.isEmpty && top.phase && top.x == f.pc + 8 && top.pendPc == f.pc) = true ↔ f.comesBack := by
  unfold comesBack
  cases f.levels <;> simp [and_assoc]

section
variable {s : State} {v : Sel} (hb : v.toNat + 1 < s.cw.allot)
include hb

/-- The model's CALLV within the allotment, by its groups. -/
theorem exec_callv_eq :
    let f := s.frag
    let gs := s.groupsOf v
    let g1 := gs.head?.getD (0, 0)
    let top := f.levels.head?.getD {}
    exec (.callv v) s = .next (
      if !f.levels.isEmpty && top.phase && top.x == f.pc + 8 && top.pendPc == f.pc then
        s.callIf [g1] (s.called (f.runsGroup g1 (if gs.length > 1
          then { top with phase := false, pend := f.mask &&& ~~~g1.2, pendPc := f.pc, pendSig := f.sig } :: f.levels.tail
          else f.levels)))
      else if gs.length ≤ 1 then s.callIf [g1] (s.called { f with pc := g1.1, sig := startSig })
      else if gs.length ≤ s.cw.freeEntries.length then
        s.callIf gs (gs.foldl (fun (s : State) g => s.modW fun w => w.startGroup s.ent g)
          (s.called { f with wait := true, reconv := f.pc + 8, sig := foldSig f.sig (opcodeWord (.callv v)) }))
      else if f.levels.length < 16 then
        s.callIf [g1] (s.called (f.runsGroup g1
          ({ m := f.mask, pend := f.mask &&& ~~~g1.2, pendPc := f.pc, x := f.pc + 8, phase := false, pendSig := f.sig } :: f.levels)))
      else s.trap { cause := 0x05 }) := by
  intro f gs g1 top
  have e : exec (.callv v) s = .next (s.callVector (.callv v) v) := rfl
  simp only [e, State.callVector, if_neg (Nat.not_le.mpr hb), State.called_eq]
  rfl

theorem exec_callv_of_comesBack {l : Level} {rest : List Level} {g : Off × Mask} {gr : List (Off × Mask)}
    (hl : s.frag.levels = l :: rest) (hp : l.phase = true) (hx : l.x = s.frag.pc + 8) (hpc : l.pendPc = s.frag.pc)
    (hg : s.groupsOf v = g :: gr) :
    exec (.callv v) s = .next (s.callIf [g] (s.called (s.frag.runsGroup g (if gr = [] then s.frag.levels
      else { l with phase := false, pend := s.frag.mask &&& ~~~g.2, pendPc := s.frag.pc, pendSig := s.frag.sig } :: rest)))) := by
  rw [exec_callv_eq hb, if_pos ((SplitEntry.comesBack_iff _).mpr ⟨l, rest, hl, hp, hx, hpc⟩), hg]
  cases gr <;> simp [hl]

theorem exec_callv_of_one {g : Off × Mask} (hback : ¬s.frag.comesBack) (hg : s.groupsOf v = [g]) :
    exec (.callv v) s = .next (s.callIf [g] (s.called { s.frag with pc := g.1, sig := startSig })) := by
  rw [exec_callv_eq hb, if_neg ((SplitEntry.comesBack_iff _).not.mpr hback), hg]
  rfl

variable (hback : ¬s.frag.comesBack) (h2 : 2 ≤ (s.groupsOf v).length)
include hback h2

theorem exec_callv_of_room (hf : (s.groupsOf v).length ≤ s.cw.freeEntries.length) :
    exec (.callv v) s = .next (s.callIf (s.groupsOf v) (s.setW ((s.groupsOf v).foldl (Watch.startGroup s.ent)
      ((s.cw.setS linkReg ((s.frag.pc + 8).setWidth 64)).setEntry s.ent
        { s.frag with wait := true, reconv := s.frag.pc + 8, sig := foldSig s.frag.sig (opcodeWord (.callv v)) })))) := by
  rw [exec_callv_eq hb, if_neg ((SplitEntry.comesBack_iff _).not.mpr hback), if_neg (by omega), if_pos hf, State.called,
    State.foldl_modW_startGroup]

theorem exec_callv_of_level {g : Off × Mask} {gr : List (Off × Mask)} (hg : s.groupsOf v = g :: gr)
    (hf : s.cw.freeEntries.length < (s.groupsOf v).length) (hl : s.frag.levels.length < 16) :
    exec (.callv v) s = .next (s.callIf [g] (s.called (s.frag.runsGroup g
      ({ m := s.frag.mask, pend := s.frag.mask &&& ~~~g.2, pendPc := s.frag.pc, x := s.frag.pc + 8, pendSig := s.frag.sig } ::
        s.frag.levels)))) := by
  rw [exec_callv_eq hb, if_neg ((SplitEntry.comesBack_iff _).not.mpr hback), if_neg (by omega), if_neg (by omega), if_pos hl, hg]
  rfl

theorem exec_callv_of_full (hf : s.cw.freeEntries.length < (s.groupsOf v).length) (hl : 16 ≤ s.frag.levels.length) :
    exec (.callv v) s = .next (s.trap { cause := 0x05 }) := by
  rw [exec_callv_eq hb, if_neg ((SplitEntry.comesBack_iff _).not.mpr hback), if_neg (by omega), if_neg (by omega),
    if_neg (Nat.not_lt.mpr hl)]

end

/-- A group that goes on alone, once its header is checked. -/
theorem stopsAt_and_becomes {s : State} {v : Sel} {g : Off × Mask} {f : SplitEntry} (he : s.ent < 8)
    (h : exec (.callv v) s = .next (s.callIf [g] (s.called f))) :
    Spec.StopsAt s v [g] ∧
      (s.checkCall g.1 = none → Spec.Becomes (.callv v) s f (some ((s.frag.pc + 8).setWidth 64))) := by
  refine ⟨stopsAt_of_exec h, fun ok => becomes_of_called he ?_⟩
  rw [h, State.callIf_of_none (by simpa using ok)]

theorem callvCallsOneTarget : Spec.CallvCallsOneTarget := by
  intro s v t hv
  refine ⟨fun hb => ?_, fun hb hl hm ht ok => ?_⟩
  · have e : exec (.callv v) s = .next (s.callVector (.callv v) v) := rfl
    rw [e, State.callVector, if_pos hb]
  · have groups : s.groupsOf v = [(t, s.frag.mask)] := by
      refine groupsOf_of_callGroups ⟨?_, fun l hl => ⟨s.frag.mask, ?_⟩, ?_⟩
      · simp only [List.mem_singleton, forall_eq]
        refine ⟨hm, fun l => ?_⟩
        cases hl : s.frag.mask.getLsbD l
        · rfl
        · have target : Spec.callTarget s v l = t := ht l (BitVec.lt_of_getLsbD hl) hl
          simp [target]
      · have target : Spec.callTarget s v l = t := ht l (BitVec.lt_of_getLsbD hl) hl
        rw [target]
        exact List.mem_singleton_self _
      · intro j k g h hjk hj hk
        have := (List.getElem?_eq_some_iff.mp hk).1
        simp only [List.length_singleton] at this
        omega
    have alone : ¬s.frag.comesBack := by
      rintro ⟨l, rest, h, -⟩
      simp [hl] at h
    exact (stopsAt_and_becomes (valid_lt hv) (exec_callv_of_one hb alone groups)).2 ok

theorem callvDividesIntoGroups : Spec.CallvDividesIntoGroups := by
  intro s v gs hv hb hgs
  obtain rfl := groupsOf_of_callGroups hgs
  intro f x link back
  have he : s.ent < 8 := valid_lt hv
  refine ⟨checksHeader s, fun l rest g gr hl hp hx hpc hg => ?_, fun hback h2 hf => ?_, fun g gr hback hg hgr hf hl => ?_,
    fun hback h2 hf hl => exec_callv_of_full hb hback h2 hf hl⟩
  · exact stopsAt_and_becomes he (exec_callv_of_comesBack hb hl hp hx hpc hg)
  · have run := exec_callv_of_room hb hback h2 hf
    refine ⟨stopsAt_of_exec run, fun ok => ⟨_, by rw [run, State.callIf_of_none ok], ?_, fun r => ?_, ?_⟩⟩
    all_goals
      generalize hw : (s.cw.setS linkReg ((s.frag.pc + 8).setWidth 64)).setEntry s.ent
        { s.frag with wait := true, reconv := s.frag.pc + 8, sig := foldSig s.frag.sig (opcodeWord (.callv v)) } = w
    · rw [SameButSregs, Watch.foldl_startGroup_frame, ← hw, Watch.setEntry_frame, Watch.setS_frame]
    · rw [Watch.foldl_startGroup_frame, ← hw]
      exact Watch.sreg_setS_link ..
    · have own : w.entry s.ent =
          { s.frag with wait := true, reconv := s.frag.pc + 8, sig := foldSig s.frag.sig (opcodeWord (.callv v)) } := by
        rw [← hw, Watch.entry_setEntry_same _ _ he]
      have others (n : Nat) (hn : n ≠ s.ent) : w.entry n = s.cw.entry n := by
        rw [← hw, Watch.entry_setEntry_other _ _ hn, Watch.entry_setS]
      have free : w.freeEntries = s.cw.freeEntries := Watch.freeEntries_congr fun k => by
        by_cases hk : k = s.ent
        · rw [hk, own]
          rfl
        · rw [others k hk]
      obtain ⟨got, kept⟩ := Watch.entry_foldl_startGroup (p := s.ent) (gs := s.groupsOf v) (w := w) (by rw [free]; exact hf)
      rw [free] at got kept
      refine ⟨got, ?_, fun n hn hfree => (kept n hfree).trans (others n hn)⟩
      rw [kept s.ent fun h => Watch.ne_of_mem_freeEntries (List.mem_of_mem_take h) hv rfl, own]
  · refine stopsAt_and_becomes he (exec_callv_of_level hb hback ?_ hg hf hl)
    cases gr with
    | nil => exact absurd rfl hgr
    | cons => simp [hg]

end Sys2Proof.Machine

namespace Sys2Proof

open Machine

/-- Settles O6: SPLIT by the cases of `splitFrag`, the groups of CALLV by their uniqueness (`GroupsOf.unique`), and the cases of `callVector`. -/
theorem fragmentsSplit : Obligations.FragmentsSplit :=
  ⟨splitDividesTheFragment, callvCallsOneTarget, callvDividesIntoGroups⟩

end Sys2Proof

namespace Sys2Proof.Machine

/-! ## Changes of several entries -/

theorem Watch.entry_of_le {w : Watch} {k : Nat} (h : 8 ≤ k) : w.entry k = {} := by
  simp [Watch.entry, h]

/-- A change that leaves an entry beyond the table as it is can be read at any index. -/
theorem Watch.entry_setEntry_map {f : SplitEntry → SplitEntry} (h0 : f {} = {}) (w : Watch) (i k : Nat) :
    (w.setEntry i (f (w.entry i))).entry k = if k = i then f (w.entry k) else w.entry k := by
  split
  · next h =>
    subst h
    rcases Nat.lt_or_ge k 8 with hk | hk
    · exact entry_setEntry_same _ _ hk
    · rw [entry_of_le hk, entry_of_le hk, h0]
  · next h => exact entry_setEntry_other _ _ h

/-- The same change of every entry of a list. -/
theorem Watch.entry_foldl_setEntry {f : SplitEntry → SplitEntry} (h0 : f {} = {}) {l : List Nat} (hl : l.Nodup) (w : Watch) (k : Nat) :
    (l.foldl (fun w i => w.setEntry i (f (w.entry i))) w).entry k = if k ∈ l then f (w.entry k) else w.entry k := by
  induction l generalizing w with
  | nil => rfl
  | cons i l ih =>
    obtain ⟨hi, hl⟩ := List.nodup_cons.mp hl
    rw [List.foldl_cons, ih hl, entry_setEntry_map h0]
    by_cases hk : k = i
    · subst hk
      simp [hi]
    · simp [hk]

theorem Watch.foldl_setEntry_frame (f : SplitEntry → SplitEntry) (l : List Nat) (w : Watch) :
    l.foldl (fun w i => w.setEntry i (f (w.entry i))) w =
      { w with split := (l.foldl (fun w i => w.setEntry i (f (w.entry i))) w).split } := by
  induction l generalizing w with
  | nil => rfl
  | cons i l ih => exact ih _

/-! ## Joins (01 R24) -/

theorem fuseSig_eq : fuseSig = Spec.fused := rfl

theorem Watch.mem_children {w : Watch} {q k : Nat} : k ∈ w.children q ↔
    k < 8 ∧ k ≠ q ∧ (w.entry k).valid = true ∧ (w.entry k).root = false ∧ (w.entry k).parent.toNat = q := by
  simp only [children, List.mem_filter, List.mem_range, Bool.and_eq_true, Bool.not_eq_true', beq_iff_eq, bne_iff_ne]
  tauto

theorem Watch.arrived_iff {w : Watch} {k : Nat} : w.arrived k = true ↔ (w.entry k).wait = true ∧ w.children k = [] := by
  simp [arrived]

theorem Watch.children_nodup (w : Watch) (q : Nat) : (w.children q).Nodup := List.nodup_range.filter _

/-- A fragment that its join has ended. -/
def SplitEntry.joined (f : SplitEntry) : SplitEntry := { f with valid := false, wait := false }

section
variable {w : Watch} {p : Nat}

/-- A join waits while a child has not arrived. -/
theorem Watch.join_of_waiting (h : ∃ k ∈ w.children p, w.arrived k = false) : w.join p = some w := by
  obtain ⟨k, hk, hw⟩ := h
  have some_ : (w.children p).all w.arrived = false := List.all_eq_false.mpr ⟨k, hk, by simp [hw]⟩
  simp [join, some_]

variable (hne : w.children p ≠ []) (hall : ∀ k ∈ w.children p, w.arrived k = true)
include hne hall

/-- With every child arrived, the parent goes on behind the join, and its children end. -/
theorem Watch.join_of_union (hp : p < 8) (hu : (w.children p).foldl (fun m k => m ||| (w.entry k).mask) 0 = (w.entry p).mask) :
    ∃ y, w.join p = some y ∧ y.entry p = { w.entry p with wait := false, pc := (w.entry p).reconv + 4, sig := Spec.fused } ∧
      ∀ k ∈ w.children p, (y.entry k).valid = false := by
  have all_ : (w.children p).all w.arrived = true := List.all_eq_true.mpr hall
  have here : (w.children p).isEmpty = false := List.isEmpty_eq_false_iff.mpr hne
  have run : w.join p = some (((w.children p).foldl (fun w i => w.setEntry i (w.entry i).joined) w).setEntry p
      { w.entry p with wait := false, pc := (w.entry p).reconv + 4, sig := fuseSig }) := by
    simp only [join, here, all_, hu, Bool.not_true, Bool.or_false, Bool.false_eq_true, if_false, ne_eq, not_true_eq_false]
    rfl
  refine ⟨_, run, ?_, fun k hk => ?_⟩
  · rw [entry_setEntry_same _ _ hp, fuseSig_eq]
  · rw [entry_setEntry_other _ _ (mem_children.mp hk).2.1, entry_foldl_setEntry (f := SplitEntry.joined) rfl (w.children_nodup p),
      if_pos hk]
    rfl

/-- Where the union of the masks is not the parent's, INTEG. -/
theorem Watch.join_of_mismatch (hu : (w.children p).foldl (fun m k => m ||| (w.entry k).mask) 0 ≠ (w.entry p).mask) : w.join p = none := by
  have all_ : (w.children p).all w.arrived = true := List.all_eq_true.mpr hall
  have here : (w.children p).isEmpty = false := List.isEmpty_eq_false_iff.mpr hne
  simp only [join, here, all_, Bool.not_true, Bool.or_false, Bool.false_eq_true, if_false, if_pos hu]

end

/-! ## FUSE (01 R24, 04 R107) -/

theorem exec_fuse_of_some {s : State} {w : Watch} (h : s.cw.fuse s.ent = some w) : exec .fuse s = .next (s.setW w) := by
  have e : exec .fuse s = execFuse s := rfl
  rw [e, execFuse, h]

theorem exec_fuse_of_none {s : State} (h : s.cw.fuse s.ent = none) : exec .fuse s = .next (s.trap { cause := 0x06 }) := by
  have e : exec .fuse s = execFuse s := rfl
  rw [e, execFuse, h]

section
variable {w : Watch} {e : Nat}

theorem Watch.fuse_of_other {l : Level} {rest : List Level} (hl : (w.entry e).levels = l :: rest) (hx : l.x ≠ (w.entry e).pc) :
    w.fuse e = some (w.setEntry e { w.entry e with pc := (w.entry e).pc + 4, sig := Spec.fused }) := by
  simp [fuse, hl, hx, fuseSig_eq]

theorem Watch.fuse_of_pending {l : Level} {rest : List Level} (hl : (w.entry e).levels = l :: rest) (hx : l.x = (w.entry e).pc)
    (hp : l.phase = false) (hpend : l.pend ≠ 0) :
    w.fuse e = some (w.setEntry e { w.entry e with
      levels := { l with phase := true } :: rest, mask := l.pend, pc := l.pendPc, sig := l.pendSig }) := by
  have next_ : (!l.phase && l.pend != 0) = true := by simpa [hp] using hpend
  simp only [fuse, hl, hx, ne_eq, not_true_eq_false, if_false, next_, if_true]

theorem Watch.fuse_of_done {l : Level} {rest : List Level} (hl : (w.entry e).levels = l :: rest) (hx : l.x = (w.entry e).pc)
    (hd : l.phase = true ∨ l.pend = 0) :
    w.fuse e = some (w.setEntry e { w.entry e with levels := rest, mask := l.m, pc := (w.entry e).pc + 4, sig := Spec.fused }) := by
  rcases hd with h | h <;> simp [fuse, hl, hx, h, fuseSig_eq]

/-- The fragment stands at the reconvergence address of its waiting parent. -/
def Watch.atJoin (w : Watch) (e : Nat) : Prop :=
  let f := w.entry e
  f.levels = [] ∧ f.root = false ∧ (w.entry f.parent.toNat).wait = true ∧ (w.entry f.parent.toNat).reconv = f.pc

theorem Watch.fuse_of_none (hl : (w.entry e).levels = []) (h : ¬w.atJoin e) :
    w.fuse e = some (w.setEntry e { w.entry e with pc := (w.entry e).pc + 4, sig := Spec.fused }) := by
  have away : (!(w.entry e).root && (w.entry (w.entry e).parent.toNat).wait &&
      (w.entry (w.entry e).parent.toNat).reconv == (w.entry e).pc) = false := by
    rw [Bool.eq_false_iff]
    simp only [ne_eq, Bool.and_eq_true, Bool.not_eq_true', beq_iff_eq]
    exact fun ⟨⟨h1, h2⟩, h3⟩ => h ⟨hl, h1, h2, h3⟩
  simp [fuse, hl, away, fuseSig_eq]

theorem Watch.fuse_of_atJoin (h : w.atJoin e) :
    w.fuse e = (w.setEntry e { w.entry e with wait := true, sig := Spec.fused }).join (w.entry e).parent.toNat := by
  obtain ⟨hl, hr, hw, hx⟩ := h
  simp [fuse, hl, hr, hw, hx, fuseSig_eq]

end

end Sys2Proof.Machine

namespace Sys2Proof

open Machine

/-- Settles O7, by the cases of `Watch.fuse` and of `Watch.join`. -/
theorem fuseClosesTheInnermostJoin : Obligations.FuseClosesTheInnermostJoin := by
  intro s hv f on p atJoin w
  have here : atJoin → s.cw.atJoin s.ent := id
  refine ⟨fun q k => Watch.mem_children, fun k => Watch.arrived_iff, fun l rest hl hx => exec_fuse_of_some (Watch.fuse_of_other hl hx),
    fun l rest hl hx hp hpend => exec_fuse_of_some (Watch.fuse_of_pending hl hx hp hpend),
    fun l rest hl hx hd => ?_, fun hl h => exec_fuse_of_some (Watch.fuse_of_none hl h),
    fun h hk => exec_fuse_of_some ((Watch.fuse_of_atJoin (here h)).trans (Watch.join_of_waiting hk)), fun h hne hall hu => ?_,
    fun h hne hall hu => exec_fuse_of_none ((Watch.fuse_of_atJoin (here h)).trans (Watch.join_of_mismatch hne hall hu))⟩
  · dsimp only [on]
    exact exec_fuse_of_some (Watch.fuse_of_done hl hx hd)
  have hp : p < 8 := f.parent.isLt
  have parent : (w.entry p).reconv = (s.cw.entry p).reconv ∧ (w.entry p).mask = (s.cw.entry p).mask := by
    by_cases hpe : p = s.ent
    · rw [show w.entry p = { f with wait := true, sig := Spec.fused } from hpe ▸ Watch.entry_setEntry_same _ _ (valid_lt hv), hpe]
      exact ⟨rfl, rfl⟩
    · rw [show w.entry p = s.cw.entry p from Watch.entry_setEntry_other _ _ hpe]
      exact ⟨rfl, rfl⟩
  obtain ⟨y, hy, joined, ended⟩ := Watch.join_of_union hne hall hp hu
  have hx : (s.cw.entry p).reconv = f.pc := h.2.2.2
  refine ⟨y, exec_fuse_of_some ((Watch.fuse_of_atJoin (here h)).trans hy), ?_, ?_, ?_, ?_, ended⟩
  all_goals rw [joined]
  · rw [parent.1, hx]
  · exact parent.2

end Sys2Proof

namespace Sys2Proof.Machine

/-! ## EXIT (01 R25, 04 R130) -/

/-- The fragments other than `e` lose the lanes of `m`. -/
def Watch.othersLose (w : Watch) (e : Nat) (m : Mask) : Watch :=
  ((List.range 8).filter (· ≠ e)).foldl (fun w i => w.setEntry i ((w.entry i).dropLanes m)) w

/-- The serial levels of a fragment lose the lanes of `m`. -/
def SplitEntry.levelsLose (f : SplitEntry) (m : Mask) : SplitEntry :=
  { f with levels := f.levels.map fun l => { l with m := l.m &&& ~~~m, pend := l.pend &&& ~~~m } }

theorem SplitEntry.levelsLose_of_nil {f : SplitEntry} (h : f.levels = []) (m : Mask) : f.levelsLose m = f := by
  rw [levelsLose, h, List.map_nil, ← h]

theorem SplitEntry.levelsLose_levels_of_cons {f : SplitEntry} {l : Level} {rest : List Level} (h : f.levels = l :: rest) (m : Mask) :
    ∃ more, (f.levelsLose m).levels = { l with m := l.m &&& ~~~m, pend := l.pend &&& ~~~m } :: more ∧ more.length = rest.length :=
  ⟨_, congrArg (List.map _) h, List.length_map _⟩

/-- The lanes of `m` have ended in the open regions. -/
def Watch.regionsLose (w : Watch) (m : Mask) : Watch :=
  { w with crgn := w.crgn.map fun (r : Region) => { r with ended := r.ended ||| m } }

/-- The watch once the lanes of fragment `e` have left the masks of the other fragments, of its own levels and of the open regions. -/
def Watch.lanesLeave (w : Watch) (e : Nat) : Watch :=
  let m := (w.entry e).mask
  let x := w.othersLose e m
  (x.setEntry e ((x.entry e).levelsLose m)).regionsLose m

theorem Watch.foldl_dropLanes (w : Watch) (e : Nat) (m : Mask) :
    (List.range 8).foldl (fun w i => if i = e then w else w.setEntry i ((w.entry i).dropLanes m)) w = w.othersLose e m := by
  rw [othersLose, List.foldl_filter]
  congr 1
  funext w i
  by_cases h : i = e <;> simp [h]

theorem Watch.exitLanes_eq (w : Watch) (e : Nat) : w.exitLanes e = exitFrag 9 (w.lanesLeave e) e := by
  simp only [exitLanes, foldl_dropLanes]
  rfl

theorem Watch.entry_othersLose (w : Watch) (e k : Nat) (m : Mask) :
    (w.othersLose e m).entry k = if k = e then w.entry k else (w.entry k).dropLanes m := by
  have empty : SplitEntry.dropLanes {} m = {} := rfl
  rw [othersLose, entry_foldl_setEntry (f := (·.dropLanes m)) empty (List.nodup_range.filter _)]
  rcases Nat.lt_or_ge k 8 with hk | hk
  · by_cases h : k = e <;> simp [hk, h]
  · rw [entry_of_le hk, empty, ite_self, ite_self]

theorem Watch.lanesLeave_frame (w : Watch) (e : Nat) :
    w.lanesLeave e = { w with split := (w.lanesLeave e).split, crgn := (w.lanesLeave e).crgn } := by
  have others : w.othersLose e (w.entry e).mask = { w with split := (w.othersLose e (w.entry e).mask).split } :=
    foldl_setEntry_frame (·.dropLanes (w.entry e).mask) _ w
  simp only [lanesLeave, regionsLose]
  rw [setEntry_frame_of others]

theorem Watch.entry_lanesLeave_other (w : Watch) {e k : Nat} (h : k ≠ e) :
    (w.lanesLeave e).entry k = (w.entry k).dropLanes (w.entry e).mask := by
  refine (entry_setEntry_other _ _ h).trans ?_
  rw [entry_othersLose, if_neg h]

theorem Watch.entry_lanesLeave_same (w : Watch) {e : Nat} (h : e < 8) :
    (w.lanesLeave e).entry e = (w.entry e).levelsLose (w.entry e).mask := by
  refine (entry_setEntry_same _ _ h).trans ?_
  rw [entry_othersLose, if_pos rfl]

/-- The lanes of fragment `e` have ended: its entry becomes invalid. -/
def Watch.endFrag (w : Watch) (e : Nat) : Watch :=
  w.setEntry e { w.entry e with valid := false, wait := false, levels := [], mask := 0 }

section
variable {w : Watch} {e n : Nat}

/-- The pending half of the innermost serial level runs next. -/
theorem Watch.exitFrag_of_pending {l : Level} {rest : List Level} (hl : (w.entry e).levels = l :: rest) (hp : l.phase = false)
    (hpend : l.pend ≠ 0) :
    exitFrag (n + 1) w e = some (w.setEntry e { w.entry e with
      wait := false, levels := { l with phase := true } :: rest, mask := l.pend, pc := l.pendPc, sig := l.pendSig }) := by
  have next_ : (!l.phase && l.pend != 0) = true := by simpa [hp] using hpend
  simp only [exitFrag, hl, resolveLevels, next_, if_true]

theorem Watch.exitFrag_of_root (hl : (w.entry e).levels = []) (hr : (w.entry e).root = true) :
    exitFrag (n + 1) w e = some (w.endFrag e) := by
  simp [exitFrag, resolveLevels, hl, hr, endFrag]

/-- A child leaves its parent, whose join may be complete then. -/
theorem Watch.exitFrag_of_child (hl : (w.entry e).levels = []) (hr : (w.entry e).root = false)
    (hm : ((w.endFrag e).entry (w.entry e).parent.toNat).mask ≠ 0) :
    exitFrag (n + 1) w e = (w.endFrag e).join (w.entry e).parent.toNat := by
  have child : ¬(w.entry e).root = true := by simp [hr]
  simp only [exitFrag, hl, resolveLevels, if_neg child]
  exact if_neg hm

end

theorem Watch.anyValid_iff {w : Watch} : w.anyValid = true ↔ ∃ k, (w.entry k).valid = true := by
  simp only [anyValid, List.any_eq_true, List.mem_range]
  exact ⟨fun ⟨k, _, h⟩ => ⟨k, h⟩, fun ⟨k, h⟩ => ⟨k, valid_lt h, h⟩⟩

theorem State.checkEnded_setW (s : State) (w : Watch) :
    (s.setW w).checkEnded s.cur = s.setW (if w.anyValid then w else { w with ended := true, crgn := [] }) := by
  simp [checkEnded, modWatch, setW, putWatch, Tbl.alter, Tbl.find_put_same, Tbl.put_put]

/-- EXIT outside a pair, where it raises no INTEG. -/
theorem exec_exit_of_some {s : State} {w : Watch} (hp : s.cw.pair = none) (h : s.cw.exitLanes s.ent = some w) :
    exec .exit s = .next (s.setW (if w.anyValid then w else { w with ended := true, crgn := [] })) := by
  have e : exec .exit s = execExit s := rfl
  rw [e, execExit, hp, h, ← State.checkEnded_setW]
  rfl

section
variable {s : State} (hv : s.frag.valid = true) (hp : s.cw.pair = none)
include hv hp

/-- The last fragment ends the watch. -/
theorem exec_exit_of_last (hl : s.frag.levels = []) (hr : s.frag.root = true) (hother : ∀ k, k ≠ s.ent → (s.cw.entry k).valid = false) :
    ∃ x, exec .exit s = .next (s.setW x) ∧ x = { s.cw with split := x.split, crgn := [], ended := true } ∧
      ∀ k, (x.entry k).valid = false := by
  have he : s.ent < 8 := valid_lt hv
  have own : (s.cw.lanesLeave s.ent).entry s.ent = s.frag :=
    (s.cw.entry_lanesLeave_same he).trans (SplitEntry.levelsLose_of_nil hl _)
  have run := Watch.exitFrag_of_root (n := 8) (own ▸ hl) (own ▸ hr)
  generalize hx : (s.cw.lanesLeave s.ent).endFrag s.ent = x at run
  have invalid (k : Nat) : (x.entry k).valid = false := by
    by_cases hk : k = s.ent
    · rw [hk, ← hx, Watch.endFrag, Watch.entry_setEntry_same _ _ he]
    · rw [← hx, Watch.endFrag, Watch.entry_setEntry_other _ _ hk, Watch.entry_lanesLeave_other _ hk]
      exact hother k hk
  have none_ : ¬x.anyValid = true := by
    rw [Watch.anyValid_iff]
    simp [invalid]
  refine ⟨_, exec_exit_of_some hp ((s.cw.exitLanes_eq s.ent).trans run), ?_⟩
  rw [if_neg none_]
  refine ⟨?_, invalid⟩
  rw [← hx, Watch.endFrag, s.cw.lanesLeave_frame s.ent]
  rfl

/-- A child leaves its waiting parent, with another child still to arrive. -/
theorem exec_exit_of_child (hl : s.frag.levels = []) (hr : s.frag.root = false) {p : Nat} (hpar : s.frag.parent.toNat = p)
    (hpe : p ≠ s.ent) (hw : (s.cw.entry p).wait = true) (hm : (s.cw.entry p).mask &&& ~~~s.frag.mask ≠ 0) {k : Nat} (hke : k ≠ s.ent)
    (hk : k ∈ s.cw.children p) (hkw : (s.cw.entry k).wait = false) :
    ∃ x, exec .exit s = .next (s.setW x) ∧ x = { s.cw with split := x.split, crgn := x.crgn } ∧ (x.entry s.ent).valid = false ∧
      (x.entry p).mask = (s.cw.entry p).mask &&& ~~~s.frag.mask ∧
      ∀ j, j ≠ s.ent → x.entry j = (s.cw.entry j).dropLanes s.frag.mask := by
  have he : s.ent < 8 := valid_lt hv
  have own : (s.cw.lanesLeave s.ent).entry s.ent = s.frag :=
    (s.cw.entry_lanesLeave_same he).trans (SplitEntry.levelsLose_of_nil hl _)
  have run := Watch.exitFrag_of_child (w := s.cw.lanesLeave s.ent) (e := s.ent) (n := 8) (own ▸ hl) (own ▸ hr)
  rw [own, hpar] at run
  generalize hx : (s.cw.lanesLeave s.ent).endFrag s.ent = x at run
  have others {j : Nat} (hj : j ≠ s.ent) : x.entry j = (s.cw.entry j).dropLanes s.frag.mask := by
    rw [← hx, Watch.endFrag, Watch.entry_setEntry_other _ _ hj, Watch.entry_lanesLeave_other _ hj]
    rfl
  have pmask : (x.entry p).mask = (s.cw.entry p).mask &&& ~~~s.frag.mask := by
    rw [others hpe]
    exact if_pos hw
  obtain ⟨hk8, hkp, hkv, hkr, hkpar⟩ := Watch.mem_children.mp hk
  have waits : x.join p = some x := by
    refine Watch.join_of_waiting ⟨k, Watch.mem_children.mpr ?_, ?_⟩
    · rw [others hke]
      exact ⟨hk8, hkp, hkv, hkr, hkpar⟩
    · rw [Watch.arrived, others hke]
      exact Bool.and_eq_false_iff.mpr (Or.inl hkw)
  have some_ : x.anyValid = true := Watch.anyValid_iff.mpr ⟨k, by rw [others hke]; exact hkv⟩
  refine ⟨_, exec_exit_of_some hp ((s.cw.exitLanes_eq s.ent).trans ((run (by rw [pmask]; exact hm)).trans waits)), ?_⟩
  rw [if_pos some_]
  refine ⟨?_, ?_, pmask, fun j hj => others hj⟩
  · rw [← hx, Watch.endFrag, s.cw.lanesLeave_frame s.ent]
    rfl
  · rw [← hx, Watch.endFrag, Watch.entry_setEntry_same _ _ he]

/-- A pending serial half runs next, without the lanes that ended. -/
theorem exec_exit_of_pending {l : Level} {rest : List Level} (hl : s.frag.levels = l :: rest) (hphase : l.phase = false)
    (hpend : l.pend &&& ~~~s.frag.mask ≠ 0) :
    ∃ x, exec .exit s = .next (s.setW x) ∧ x = { s.cw with split := x.split, crgn := x.crgn } ∧
      (x.entry s.ent).mask = l.pend &&& ~~~s.frag.mask ∧ (x.entry s.ent).pc = l.pendPc ∧ (x.entry s.ent).sig = l.pendSig ∧
      (x.entry s.ent).valid = true ∧ (x.entry s.ent).levels.length = s.frag.levels.length ∧
      ∀ k, k ≠ s.ent → x.entry k = (s.cw.entry k).dropLanes s.frag.mask := by
  have he : s.ent < 8 := valid_lt hv
  have own : (s.cw.lanesLeave s.ent).entry s.ent = s.frag.levelsLose s.frag.mask := s.cw.entry_lanesLeave_same he
  obtain ⟨more, levels, len⟩ := SplitEntry.levelsLose_levels_of_cons hl s.frag.mask
  have run := Watch.exitFrag_of_pending (n := 8) ((congrArg SplitEntry.levels own).trans levels) hphase hpend
  rw [own] at run
  generalize hx : (s.cw.lanesLeave s.ent).setEntry s.ent _ = x at run
  have entry := hx ▸ Watch.entry_setEntry_same (s.cw.lanesLeave s.ent) _ he
  have some_ : x.anyValid = true := Watch.anyValid_iff.mpr ⟨s.ent, by rw [entry]; exact hv⟩
  refine ⟨_, exec_exit_of_some hp ((s.cw.exitLanes_eq s.ent).trans run), ?_⟩
  rw [if_pos some_, entry]
  refine ⟨?_, rfl, rfl, rfl, hv, by simp [hl, len], fun k hk => ?_⟩
  · rw [← hx, Watch.setEntry_frame, s.cw.lanesLeave_frame s.ent]
  · rw [← hx, Watch.entry_setEntry_other _ _ hk, Watch.entry_lanesLeave_other _ hk]
    rfl

end

end Sys2Proof.Machine

namespace Sys2Proof

open Machine

/-- Settles O18, by the cases of `Watch.exitFrag` on the watch that the lanes have left (`Watch.lanesLeave`). -/
theorem exitEndsTheLanes : Obligations.ExitEndsTheLanes := by
  intro s hv f p
  refine ⟨fun hp => ?_, fun hp => exec_exit_of_last hv hp, fun hp hl hr hpe hw hm ⟨k, hk, hke, hkp, hkv, hkr, hkpar, hkw⟩ => ?_,
    fun hp l rest => exec_exit_of_pending hv hp⟩
  · have e : exec .exit s = execExit s := rfl
    rw [e, execExit, if_pos (Option.isSome_iff_ne_none.mpr hp)]
  · exact exec_exit_of_child hv hp hl hr rfl hpe hw hm hke (Watch.mem_children.mpr ⟨hk, hkp, hkv, hkr, hkpar⟩) hkw

end Sys2Proof

namespace Sys2Proof.Machine

/-! ## The grant of the ports (01 R20) -/

/-- The older of the oldest watch so far and one more, the first where they are of an age. -/
def elder (b : Option (Nat × Watch)) (x : Nat × Watch) : Option (Nat × Watch) :=
  match b with
  | none => some x
  | some y => if x.2.aged < y.2.aged then some x else some y

/-- The oldest of `b` and a list: one of them, and none of them is older. -/
theorem foldl_elder {l : List (Nat × Watch)} {b : Option (Nat × Watch)} {x : Nat × Watch} (h : l.foldl elder b = some x) :
    (b = some x ∨ x ∈ l) ∧ ∀ y, b = some y ∨ y ∈ l → x.2.aged ≤ y.2.aged := by
  induction l generalizing b with
  | nil =>
    obtain rfl : b = some x := h
    exact ⟨.inl rfl, by rintro y (⟨⟩ | hy) <;> simp_all⟩
  | cons z l ih =>
    obtain ⟨hx, hmin⟩ := ih h
    have head : ∃ y, elder b z = some y ∧ (b = some y ∨ z = y) ∧ y.2.aged ≤ z.2.aged ∧ ∀ a, b = some a → y.2.aged ≤ a.2.aged := by
      cases b with
      | none => exact ⟨z, rfl, .inr rfl, le_rfl, by simp⟩
      | some a =>
        simp only [elder]
        split
        · next lt => exact ⟨z, rfl, .inr rfl, le_rfl, by rintro _ ⟨⟩; exact lt.le⟩
        · next ge => exact ⟨a, rfl, .inl rfl, Nat.not_lt.mp ge, by rintro _ ⟨⟩; exact le_rfl⟩
    obtain ⟨y, hy, from_, hz, hb⟩ := head
    have first := hmin y (.inl hy)
    refine ⟨?_, ?_⟩
    · rcases hx with hx | hx
      · rw [hy] at hx
        cases hx
        rcases from_ with h | rfl
        · exact .inl h
        · exact .inr List.mem_cons_self
      · exact .inr (List.mem_cons_of_mem _ hx)
    · rintro a (ha | ha)
      · exact first.trans (hb a ha)
      · rcases List.mem_cons.mp ha with rfl | ha
        · exact first.trans hz
        · exact hmin a (.inr ha)

theorem foldl_elder_some (l : List (Nat × Watch)) (y : Nat × Watch) : ∃ x, l.foldl elder (some y) = some x := by
  induction l generalizing y with
  | nil => exact ⟨y, rfl⟩
  | cons z l ih =>
    rw [List.foldl_cons, elder]
    split <;> exact ih _

theorem State.mem_readyList {s : State} {core : Nat} {x : Nat × Watch} :
    x ∈ s.watches.filter (fun x => x.2.core == core && decide (0 < x.2.aged) && s.columnsFree x.1 x.2) ↔ Spec.Ready s core x := by
  simp [Spec.Ready, and_assoc]

theorem State.grantee_of_none_ready {s : State} {core : Nat} (h : ∀ x, ¬Spec.Ready s core x) : s.grantee core = none := by
  have empty : s.watches.filter (fun x => x.2.core == core && decide (0 < x.2.aged) && s.columnsFree x.1 x.2) = [] :=
    List.eq_nil_iff_forall_not_mem.mpr fun x hx => h x (mem_readyList.mp hx)
  rw [grantee, empty]
  rfl

/-- Where a watch is ready, the grant goes to one that no ready watch is older than. -/
theorem State.grantee_of_ready {s : State} {core : Nat} (h : ∃ x, Spec.Ready s core x) :
    ∃ x, s.grantee core = some x ∧ Spec.Ready s core x ∧ ∀ y, Spec.Ready s core y → x.2.aged ≤ y.2.aged := by
  have fold : s.grantee core = (s.watches.filter fun x => x.2.core == core && decide (0 < x.2.aged) && s.columnsFree x.1 x.2).foldl
    elder none := rfl
  obtain ⟨y, hy⟩ := h
  have some_ : ∃ x, s.grantee core = some x := by
    have mem := mem_readyList.mpr hy
    rw [fold]
    cases hl : s.watches.filter fun x => x.2.core == core && decide (0 < x.2.aged) && s.columnsFree x.1 x.2 with
    | nil => simp [hl] at mem
    | cons z l => exact foldl_elder_some l z
  obtain ⟨x, hx⟩ := some_
  obtain ⟨from_, least⟩ := foldl_elder (fold ▸ hx)
  exact ⟨x, hx, mem_readyList.mp (from_.resolve_left (by simp)), fun y hy => least y (.inr (mem_readyList.mpr hy))⟩

/-! ## The head that fails its checks (04 R417) -/

section
variable {s : State} {n : Nat} {w : Watch}

theorem State.headFails_of_mid (h : 0 < w.chainPos) : s.headFails n w = s.notMember n w (w.lq[w.chainPos]?.getD {}) := by
  rw [headFails, if_pos h]

theorem State.failHead_of_mid (h : 0 < w.chainPos) : s.failHead n w = s.lxTrap n (w.lq[w.chainPos]?.getD {}) { cause := 0x21 } := by
  rw [failHead, if_pos h]

theorem State.headFails_of_fail (h : w.chainPos = 0) {e : LqEntry} {t : TrapInfo} (hv : s.headVerdict n w = .fail e t) :
    s.headFails n w = true ∧ s.failHead n w = s.lxTrap n e t := by
  simp [headFails, failHead, h, hv]

theorem State.headFails_of_fault (h : w.chainPos = 0) (hv : s.headVerdict n w = .pass) {e : LqEntry} (he : w.lq.head? = some e)
    {k : Nat} {a : Word} (hb : w.badElem w.headChain = some (.fault k a)) :
    s.headFails n w = true ∧ s.failHead n w = s.lxTrap n e { cause := 0x1A, code := k, addr := a } := by
  simp [headFails, failHead, h, hv, hb, he]

theorem State.headFails_of_uncor (h : w.chainPos = 0) (hv : s.headVerdict n w = .pass) {e : LqEntry} (he : w.lq.head? = some e)
    {a : Word} (hb : w.badElem w.headChain = some (.uncor a)) :
    s.headFails n w = true ∧ s.failHead n w = s.lxTrap n e { cause := 0x19, addr := a } := by
  simp [headFails, failHead, h, hv, hb, he]

end

/-! ## Free values of a restarted chain (01 R34) -/

/-- A register takes a free value. -/
def Watch.freeReg (c : Chain) (k : Nat) (w : Watch) (r : Nat) : Watch :=
  let free (l : Nat) : W32 := Config.free32 (((c.seed * 16 + k) * 1024 + r) * 64 + l)
  if r < 512 then w.setV r w.full (Vector.ofFn fun l => free l.val)
  else w.setP (BitVec.ofNat 4 r) ((free 1 ++ free 0) &&& w.full)

theorem Watch.loosen_eq (w : Watch) (c : Chain) (k : Nat) : w.loosen c k = c.loose.foldl (freeReg c k) w := rfl

theorem Watch.freeReg_frame (c : Chain) (k : Nat) (w : Watch) (r : Nat) :
    w.freeReg c k r = { w with v := (w.freeReg c k r).v, p := (w.freeReg c k r).p } := by
  unfold freeReg setP
  split
  · rfl
  · split <;> rfl

/-- Free values stand in V and P registers alone. -/
theorem Watch.loosen_frame (w : Watch) (c : Chain) (k : Nat) : w.loosen c k = { w with v := (w.loosen c k).v, p := (w.loosen c k).p } := by
  rw [loosen_eq]
  induction c.loose generalizing w with
  | nil => rfl
  | cons r l ih =>
    rw [List.foldl_cons, ih, freeReg_frame]

/-- A watch about to issue an entry: its age starts again, and the lanes that are off are those of the entry's block. -/
def Watch.issuing (w : Watch) (e : LqEntry) : Watch :=
  { w with aged := 0, off := if e.blk = w.offBlk then w.off else 0, offBlk := e.blk }

theorem Watch.freeReg_issuing (w : Watch) (e : LqEntry) (c : Chain) (k r : Nat) (off : Mask) :
    freeReg c k { w with aged := 0, off := off, offBlk := e.blk } r =
      { w.freeReg c k r with aged := 0, off := off, offBlk := e.blk } := by
  unfold freeReg setP
  split
  · rfl
  · split <;> rfl

/-- Free values change the V and P registers of the watch about to issue as they would have before. -/
theorem Watch.loosen_issuing (w : Watch) (e : LqEntry) (c : Chain) (k : Nat) :
    (w.issuing e).loosen c k = { w with
      aged := 0, off := if e.blk = w.offBlk then w.off else 0, offBlk := e.blk, v := (w.loosen c k).v, p := (w.loosen c k).p } := by
  have commutes : (w.issuing e).loosen c k =
      { w.loosen c k with aged := 0, off := if e.blk = w.offBlk then w.off else 0, offBlk := e.blk } := by
    rw [loosen_eq, loosen_eq, issuing]
    generalize (if e.blk = w.offBlk then w.off else 0) = off
    induction c.loose generalizing w with
    | nil => rfl
    | cons r l ih => rw [List.foldl_cons, freeReg_issuing, List.foldl_cons, ih]
  rw [commutes, loosen_frame]

/-! ## Marked elements (08 R240) -/

theorem selIsQueue_and_selNum {x : Sel} {q : Nat} (hq : q < 8) : (selIsQueue x = true ∧ selNum x = q) ↔ x.toNat = 392 + q := by
  have queue : selIsQueue x = true ↔ 392 ≤ x.toNat ∧ x.toNat < 400 := by simp [selIsQueue]
  have num (h : 392 ≤ x.toNat ∧ x.toNat < 400) : selNum x = x.toNat - 392 := by
    rw [selNum, if_neg (by simp [selIsV]; omega), if_neg (by simp [selIsLatch]; omega), if_pos (queue.mpr h)]
  rw [queue]
  constructor
  · rintro ⟨h, e⟩
    rw [num h] at e
    omega
  · intro e
    have h : 392 ≤ x.toNat ∧ x.toNat < 400 := by omega
    exact ⟨h, by rw [num h]; omega⟩

theorem lanesOf_oneLane {l : Nat} (h : l < 64) : lanesOf (oneLane l) = [l] := by
  have mem (k : Nat) : k ∈ lanesOf (oneLane l) ↔ k ∈ [l] := by
    rw [mem_lanesOf, getLsbD_oneLane h]
    simp
  have perm : (lanesOf (oneLane l)).Perm [l] :=
    (List.perm_ext_iff_of_nodup (List.nodup_range.filter _) (List.nodup_singleton l)).mpr mem
  exact List.perm_singleton.mp perm

/-- The pop that selector i of an instruction makes in the lanes of a mask. -/
def popSel (act : Mask) (o : LaneOps) (c : Chain) (i : Nat) : Chain :=
  if selIsQueue (selAt o i) then
    { c with pops := (lanesOf act).foldl (fun t l =>
        Tbl.put t (selNum (selAt o i) * 64 + l) (Tbl.getD t (selNum (selAt o i) * 64 + l) 0 + 1)) c.pops }
  else c

theorem addPops_eq (act : Mask) (o : LaneOps) (c : Chain) :
    addPops act o c = popSel act o (popSel act o (popSel act o c 0) 1) 2 := rfl

theorem popSel_frame (act : Mask) (o : LaneOps) (c : Chain) (i : Nat) : popSel act o c i = { c with pops := (popSel act o c i).pops } := by
  unfold popSel
  split <;> rfl

theorem popsAt_popSel_oneLane {o : LaneOps} {c : Chain} {l k q : Nat} (i : Nat) (hl : l < 64) (hk : k < 64) (hq : q < 8) :
    (popSel (oneLane l) o c i).popsAt q k = c.popsAt q k + if k = l ∧ (selAt o i).toNat = 392 + q then 1 else 0 := by
  simp only [← selIsQueue_and_selNum hq]
  unfold popSel
  split
  · next h =>
    rw [lanesOf_oneLane hl, Chain.popsAt, Chain.popsAt]
    by_cases hkey : k = l ∧ selNum (selAt o i) = q
    · obtain ⟨rfl, rfl⟩ := hkey
      simp [h]
    · have other : q * 64 + k ≠ selNum (selAt o i) * 64 + l := by omega
      rw [if_neg (by tauto), List.foldl_cons, List.foldl_nil, Tbl.getD_put_other _ _ _ other]
      rfl
  · next h => simp [h]

theorem addPops_frame (act : Mask) (o : LaneOps) (c : Chain) : addPops act o c = { c with pops := (addPops act o c).pops } := by
  rw [addPops_eq, popSel_frame, popSel_frame act o c 0, popSel_frame act o _ 1]

/-- One lane pops every queue as often as the instruction names it. -/
theorem popsAt_addPops_oneLane {o : LaneOps} {c : Chain} {l k q : Nat} (hl : l < 64) (hk : k < 64) (hq : q < 8) :
    (addPops (oneLane l) o c).popsAt q k = c.popsAt q k + if k = l then Spec.popsQ o q else 0 := by
  rw [addPops_eq, popsAt_popSel_oneLane 2 hl hk hq, popsAt_popSel_oneLane 1 hl hk hq, popsAt_popSel_oneLane 0 hl hk hq]
  by_cases h : k = l
  · simp only [h, true_and, if_true, Spec.popsQ, List.countP_cons, List.countP_nil, decide_eq_true_eq]
    show _ + (if o.a.toNat = _ then 1 else 0) + (if o.b.toNat = _ then 1 else 0) + (if o.c.toNat = _ then 1 else 0) = _
    omega
  · simp [h]

/-- The lanes of a list that an instruction's marked elements switch off, each with its reason. -/
def marksOf (f : Nat → Option (BitVec 4)) (ls : List Nat) : List (Nat × BitVec 4) :=
  ls.filterMap fun l => (f l).map fun why => (l, why)

theorem marksOf_cons (f : Nat → Option (BitVec 4)) (l : Nat) (ls : List Nat) :
    marksOf f (l :: ls) = match f l with
      | none => marksOf f ls
      | some why => (l, why) :: marksOf f ls := by
  cases h : f l <;> simp [marksOf, h]

theorem marksOf_any {f : Nat → Option (BitVec 4)} {l : Nat} {ls : List Nat} (h : l ∉ ls) : ((marksOf f ls).any fun m => m.1 == l) = false := by
  simp only [marksOf, List.any_eq_false, List.mem_filterMap, Option.map_eq_some_iff, beq_iff_eq]
  rintro _ ⟨k, hk, _, -, rfl⟩ rfl
  exact h hk

/-- The reason kept once the lanes of the marks are off (06 R180). -/
def Watch.whyAfter (w : Watch) : List (Nat × BitVec 4) → BitVec 4
  | [] => w.fmwhy
  | m :: _ => if w.fmask = 0 then m.2 else w.fmwhy

/-- The watch and the chain `r` are `w` and `c` once the lanes of the marks `ms` are off and their pops are counted. -/
structure MarksPopped (o : LaneOps) (w : Watch) (c : Chain) (ms : List (Nat × BitVec 4)) (r : Watch × Chain) : Prop where
  watch : r.1 = { w with off := r.1.off, fmask := r.1.fmask, fmwhy := r.1.fmwhy }
  chain : r.2 = { c with pops := r.2.pops }
  off : ∀ l, l < 64 → r.1.off.getLsbD l = (w.off.getLsbD l || ms.any fun m => m.1 == l)
  fmask : ∀ l, l < 64 → r.1.fmask.getLsbD l = (w.fmask.getLsbD l || ms.any fun m => m.1 == l)
  fmwhy : r.1.fmwhy = w.whyAfter ms
  pops : ∀ l, l < 64 → ∀ q, q < 8 →
    r.2.popsAt q l = c.popsAt q l + if (ms.any fun m => m.1 == l) = true then Spec.popsQ o q else 0

theorem MarksPopped.nil (o : LaneOps) (w : Watch) (c : Chain) : MarksPopped o w c [] (w, c) :=
  ⟨rfl, rfl, by simp, by simp, rfl, by simp⟩

/-- A further lane goes off before the others. -/
theorem MarksPopped.cons {o : LaneOps} {w : Watch} {c : Chain} {l : Nat} {why : BitVec 4} {ms : List (Nat × BitVec 4)} {r : Watch × Chain}
    (hl : l < 64) (fresh : (ms.any fun m => m.1 == l) = false)
    (h : MarksPopped o (w.laneOff l why) (addPops (oneLane l) o c) ms r) : MarksPopped o w c ((l, why) :: ms) r where
  watch := h.watch
  chain := by
    rw [h.chain, addPops_frame]
  off k hk := by
    rw [h.off k hk]
    rw [show (w.laneOff l why).off = w.off ||| oneLane l from rfl, BitVec.getLsbD_or, getLsbD_oneLane hl, List.any_cons, Bool.or_assoc,
      Bool.beq_eq_decide_eq, decide_eq_decide.mpr eq_comm]
  fmask k hk := by
    rw [h.fmask k hk]
    rw [show (w.laneOff l why).fmask = w.fmask ||| oneLane l from rfl, BitVec.getLsbD_or, getLsbD_oneLane hl, List.any_cons, Bool.or_assoc,
      Bool.beq_eq_decide_eq, decide_eq_decide.mpr eq_comm]
  fmwhy := by
    have set : (w.laneOff l why).fmask ≠ 0 := fun h0 => by
      have bit : (w.laneOff l why).fmask.getLsbD l = true := by simp [Watch.laneOff, getLsbD_oneLane hl]
      simp [h0] at bit
    have kept : (w.laneOff l why).whyAfter ms = (w.laneOff l why).fmwhy := by
      cases ms with
      | nil => rfl
      | cons => exact if_neg set
    rw [h.fmwhy, kept]
    rfl
  pops k hk q hq := by
    rw [h.pops k hk q hq, popsAt_addPops_oneLane hl hk hq]
    by_cases hkl : k = l
    · subst hkl
      simp [fresh]
    · simp [hkl, Ne.symm hkl]

/-- The lane that pops with an instruction, if the element is marked, goes off. -/
def popMark (op : Nat) (o : LaneOps) (r : Watch × Chain) (l : Nat) : Watch × Chain :=
  match r.1.marked r.2 op o l with
  | none => r
  | some why => (r.1.laneOff l why, addPops (oneLane l) o r.2)

/-- A lane that goes off leaves what another pops. -/
theorem Watch.marked_laneOff {w : Watch} {c : Chain} {op : Nat} {o : LaneOps} {l k : Nat} {why : BitVec 4} (hl : l < 64) (hk : k < 64)
    (hkl : k ≠ l) : (w.laneOff l why).marked (addPops (oneLane l) o c) op o k = w.marked c op o k := by
  have pops {q : Nat} (hq : q ∈ List.range 8) : (addPops (oneLane l) o c).popsAt q k = c.popsAt q k := by
    rw [popsAt_addPops_oneLane hl hk (List.mem_range.mp hq), if_neg hkl]
    rfl
  unfold marked
  rw [← List.head?_filterMap, ← List.head?_filterMap, List.filterMap_congr fun q hq => by rw [pops hq]]
  rfl

theorem foldl_popMark {op : Nat} {o : LaneOps} {ls : List Nat} (hn : ls.Nodup) (hb : ∀ l ∈ ls, l < 64) (w : Watch) (c : Chain) :
    MarksPopped o w c (marksOf (w.marked c op o) ls) (ls.foldl (popMark op o) (w, c)) := by
  induction ls generalizing w c with
  | nil => exact MarksPopped.nil o w c
  | cons l ls ih =>
    obtain ⟨hl, hn⟩ := List.nodup_cons.mp hn
    have hb' : ∀ k ∈ ls, k < 64 := fun k hk => hb k (List.mem_cons_of_mem _ hk)
    have hl64 := hb l List.mem_cons_self
    rw [List.foldl_cons, marksOf_cons]
    cases h : w.marked c op o l with
    | none =>
      have step_ : popMark op o (w, c) l = (w, c) := by simp [popMark, h]
      rw [step_]
      exact ih hn hb' w c
    | some why =>
      have step_ : popMark op o (w, c) l = (w.laneOff l why, addPops (oneLane l) o c) := by simp [popMark, h]
      have same : marksOf ((w.laneOff l why).marked (addPops (oneLane l) o c) op o) ls = marksOf (w.marked c op o) ls :=
        List.filterMap_congr fun k hk => by rw [Watch.marked_laneOff hl64 (hb' k hk) fun e => hl (e ▸ hk)]
      rw [step_]
      exact MarksPopped.cons hl64 (marksOf_any hl) (same ▸ ih hn hb' _ _)

/-- The reason of the first marked element that a lane pops, as the model looks for it. -/
theorem markOf_eq_marked {w : Watch} {c : Chain} {e : LqEntry} {op : Nat} {o : LaneOps} (h : e.parts = some (op, o)) (l : Nat) :
    Spec.markOf w c e l = w.marked c op o l := by
  have pops (q : Nat) : e.pops q = popsOf op o q := by simp only [LqEntry.pops, h]
  simp only [Spec.markOf, pops, List.filterMap_flatMap, List.head?_flatMap, List.head?_filterMap]
  rfl

theorem matOps_of_parts {e : LqEntry} {op : Nat} {o : LaneOps} (h : e.parts = some (op, o)) : matOps e.instr = o := by
  obtain ⟨p, hp, hpo⟩ := Option.map_eq_some_iff.mp h
  simp only [matOps, hp]
  exact (Prod.mk.inj hpo).2

/-- The active lanes that pop a marked element with an entry go off. -/
theorem Watch.popMarked_marks (w : Watch) (c : Chain) (e : LqEntry) :
    MarksPopped (matOps e.instr) w c (marksOf (Spec.markOf w c e) (lanesOf (w.entryActive e))) (w.popMarked c e) := by
  cases h : e.parts with
  | none =>
    have active : lanesOf (w.entryActive e) = [] := by simp [entryActive, h, lanesOf]
    have same : w.popMarked c e = (w, c) := by simp only [popMarked, h]
    rw [active, same]
    exact MarksPopped.nil ..
  | some p =>
    obtain ⟨op, o⟩ := p
    have fold : w.popMarked c e = (lanesOf (w.entryActive e)).foldl (popMark op o) (w, c) := by
      simp only [popMarked, h]
      rfl
    rw [fold, matOps_of_parts h, funext (markOf_eq_marked h)]
    exact foldl_popMark (List.nodup_range.filter _) (fun l hl => BitVec.lt_of_getLsbD (mem_lanesOf.mp hl)) w c

/-! ## LANE_ISSUE (01 R20) -/

/-- The chain that goes on with an entry, or that begins with it as `free` free values have been drawn. -/
def Watch.chainAt (w : Watch) (e : LqEntry) (free : Nat) : Chain :=
  w.chain.getD { gen := w.gen, loose := w.looseRegs w.headChain, seed := free, off := if e.blk = w.offBlk then w.off else 0 }

/-- The lane instruction of entry `e` is about to run, of watch `r.1` with the chain `r.2`. -/
def State.grantTo (s : State) (core n : Nat) (e : LqEntry) (pos : Nat) (r : Watch × Chain) : State :=
  { ((s.putWatch n { r.1 with chain := some r.2 }).modCore core
      fun k => { k with holds := k.holds.filter (· != n) ++ [n] }).drawn r.2.loose.length with
    cur := n, ent := e.ent, granted := true
    lane := { mask := r.1.entryMask e, sa := e.sa, sb := e.sb, sc := e.sc, ent := e.ent, index := e.index, pos := pos
              last := pos + 1 == e.len, seq := e.seq } }

theorem State.cw_grantTo (s : State) (core n : Nat) (e : LqEntry) (pos : Nat) (r : Watch × Chain) :
    (s.grantTo core n e pos r).cw = { r.1 with chain := some r.2 } := Tbl.getD_put_same ..

theorem State.mem_holds_grantTo (s : State) (core n : Nat) (e : LqEntry) (pos : Nat) (r : Watch × Chain) :
    n ∈ ((s.grantTo core n e pos r).core core).holds := by
  have holds : ((s.grantTo core n e pos r).core core).holds = (s.core core).holds.filter (· != n) ++ [n] :=
    congrArg Core.holds (Tbl.getD_put_same ..)
  rw [holds]
  exact List.mem_append_right _ List.mem_cons_self

section
variable {s t : State} {core n : Nat} {w : Watch} (ht : t = (s.ageing core).tick)
include ht

theorem exec_laneIssue_of_none (h : t.grantee core = none) : exec (.laneIssue core) s = .next t := by
  have e : exec (.laneIssue core) s = execLaneIssue core s := rfl
  rw [e, execLaneIssue, ← ht]
  simp only [h]

theorem exec_laneIssue_of_fails (h : t.grantee core = some (n, w)) (hf : t.headFails n w = true) :
    exec (.laneIssue core) s = .next (t.failHead n w) := by
  have e : exec (.laneIssue core) s = execLaneIssue core s := rfl
  rw [e, execLaneIssue, ← ht]
  simp only [h, hf, if_true]

theorem exec_laneIssue_of_grant (h : t.grantee core = some (n, w)) (hf : t.headFails n w = false) {e : LqEntry}
    (he : w.lq[w.chainPos]? = some e) :
    exec (.laneIssue core) s = .next (t.grantTo core n e w.chainPos
      (((w.issuing e).loosen (w.chainAt e t.free) w.chainPos).popMarked (w.chainAt e t.free) e)) := by
  have run : exec (.laneIssue core) s = execLaneIssue core s := rfl
  rw [run, execLaneIssue, ← ht]
  simp only [h, hf, he, Bool.false_eq_true, if_false, Option.getD_some]
  rfl

end

end Sys2Proof.Machine

namespace Sys2Proof

open Machine

/-- Settles O37: the grant by `grantee_of_ready`, a head that fails by the cases of `headFails`, the instruction's start by
`exec_laneIssue_of_grant`, and its marked elements by `popMarked_marks`. -/
theorem oldestReadyWatchIssues : Obligations.OldestReadyWatchIssues := by
  intro s core u
  have hu : u = (s.ageing core).tick := by
    simp only [u, State.ageing, State.tick, Bool.not_eq_true']
  refine ⟨fun none_ => exec_laneIssue_of_none hu (State.grantee_of_none_ready none_), fun ready => ?_⟩
  obtain ⟨⟨n, w⟩, hg, hw, oldest⟩ := State.grantee_of_ready ready
  refine ⟨n, w, hw, oldest, fun e he hpos hm => ?_, fun e t hpos hv => ?_, fun e hpos hv he => ⟨fun k a hb => ?_, fun a hb => ?_⟩,
    fun e he hf => ?_⟩
  · have entry : w.lq[w.chainPos]?.getD {} = e := by rw [he]; rfl
    rw [exec_laneIssue_of_fails hu hg (by rw [State.headFails_of_mid hpos, entry, hm]), State.failHead_of_mid hpos, entry]
  · obtain ⟨fails, trap⟩ := State.headFails_of_fail hpos hv
    rw [exec_laneIssue_of_fails hu hg fails, trap]
  · obtain ⟨fails, trap⟩ := State.headFails_of_fault hpos hv he hb
    rw [exec_laneIssue_of_fails hu hg fails, trap]
  · obtain ⟨fails, trap⟩ := State.headFails_of_uncor hpos hv he hb
    rw [exec_laneIssue_of_fails hu hg fails, trap]
  · intro off c y marks
    have run := exec_laneIssue_of_grant hu hg hf he
    have start : (w.issuing e).loosen c w.chainPos = { w with aged := 0, off := off, offBlk := e.blk, v := y.v, p := y.p } :=
      Watch.loosen_issuing w e c w.chainPos
    have hmarks : marks = marksOf (Spec.markOf ((w.issuing e).loosen c w.chainPos) c e)
        (lanesOf (((w.issuing e).loosen c w.chainPos).entryActive e)) := by
      simp only [marks]
      rw [start, show y = _ from Watch.loosen_frame ..]
      rfl
    have popped := Watch.popMarked_marks ((w.issuing e).loosen c w.chainPos) c e
    have chain : w.chainAt e u.free = c := rfl
    rw [chain] at run
    generalize ((w.issuing e).loosen c w.chainPos).popMarked c e = r at run popped
    rw [← hmarks, start] at popped
    obtain ⟨watch, same, offs, fmasks, why, pops⟩ := popped
    have cw := u.cw_grantTo core n e w.chainPos r
    refine ⟨u.grantTo core n e w.chainPos r, r.2.pops, run, rfl, rfl, rfl, rfl, State.mem_holds_grantTo .., ?_, ?_, fun l hl => ?_, ?_, ?_⟩
    · show u.free + r.2.loose.length = s.free + c.loose.length
      rw [same]
    · rw [cw, ← same]
      generalize r.1 = x at watch
      rw [watch]
    · rw [cw, ← same]
      exact ⟨offs l hl, fmasks l hl, pops l hl⟩
    · rw [cw]
      exact why.trans (by cases marks <;> rfl)
    · have mask : r.1.entryMask e = e.mask &&& ~~~r.1.off := by
        rw [Watch.entryMask, watch]
        exact if_pos rfl
      rw [cw, ← mask]
      rfl

end Sys2Proof

namespace Sys2Proof

/-! ## Every instruction reads back (02 R37 to R54) -/

namespace Laws

/-- The lemmas of the constructors (`Laws.WordsRead`), put together. -/
theorem wordsRead (i : Instr) : WordsRead.Statement i :=
  match i with
  | .add .. => WordsRead.add ..
  | .sub .. => WordsRead.sub ..
  | .mul .. => WordsRead.mul ..
  | .mulh .. => WordsRead.mulh ..
  | .mulhu .. => WordsRead.mulhu ..
  | .div .. => WordsRead.div ..
  | .divu .. => WordsRead.divu ..
  | .rem .. => WordsRead.rem ..
  | .remu .. => WordsRead.remu ..
  | .and .. => WordsRead.and ..
  | .or .. => WordsRead.or ..
  | .xor .. => WordsRead.xor ..
  | .andn .. => WordsRead.andn ..
  | .shl .. => WordsRead.shl ..
  | .shr .. => WordsRead.shr ..
  | .sar .. => WordsRead.sar ..
  | .rol .. => WordsRead.rol ..
  | .min .. => WordsRead.min ..
  | .max .. => WordsRead.max ..
  | .minu .. => WordsRead.minu ..
  | .maxu .. => WordsRead.maxu ..
  | .popc .. => WordsRead.popc ..
  | .clz .. => WordsRead.clz ..
  | .ctz .. => WordsRead.ctz ..
  | .seq .. => WordsRead.seq ..
  | .sne .. => WordsRead.sne ..
  | .slt .. => WordsRead.slt ..
  | .sltu .. => WordsRead.sltu ..
  | .brev .. => WordsRead.brev ..
  | .mov .. => WordsRead.mov ..
  | .addi .. => WordsRead.addi ..
  | .addi64 .. => WordsRead.addi64 ..
  | .andi .. => WordsRead.andi ..
  | .andi64 .. => WordsRead.andi64 ..
  | .ori .. => WordsRead.ori ..
  | .ori64 .. => WordsRead.ori64 ..
  | .xori .. => WordsRead.xori ..
  | .xori64 .. => WordsRead.xori64 ..
  | .slti .. => WordsRead.slti ..
  | .slti64 .. => WordsRead.slti64 ..
  | .shli .. => WordsRead.shli ..
  | .shri .. => WordsRead.shri ..
  | .sari .. => WordsRead.sari ..
  | .li .. => WordsRead.li ..
  | .li64 .. => WordsRead.li64 ..
  | .lih .. => WordsRead.lih ..
  | .addr .. => WordsRead.addr ..
  | .colxCol .. => WordsRead.colxCol ..
  | .colxOff .. => WordsRead.colxOff ..
  | .colxTag .. => WordsRead.colxTag ..
  | .mad .. => WordsRead.mad ..
  | .br .. => WordsRead.br ..
  | .jmp .. => WordsRead.jmp ..
  | .call .. => WordsRead.call ..
  | .jr .. => WordsRead.jr ..
  | .callr .. => WordsRead.callr ..
  | .split .. => WordsRead.split ..
  | .splitN .. => WordsRead.splitN ..
  | .callv .. => WordsRead.callv ..
  | .sld .. => WordsRead.sld ..
  | .sld64 .. => WordsRead.sld64 ..
  | .sst .. => WordsRead.sst ..
  | .sst64 .. => WordsRead.sst64 ..
  | .satom .. => WordsRead.satom ..
  | .xatom .. => WordsRead.xatom ..
  | .fence .. => WordsRead.fence ..
  | .spref .. => WordsRead.spref ..
  | .spref64 .. => WordsRead.spref64 ..
  | .lx .. => WordsRead.lx ..
  | .strmDef .. => WordsRead.strmDef ..
  | .strmGo .. => WordsRead.strmGo ..
  | .strmStop .. => WordsRead.strmStop ..
  | .shape .. => WordsRead.shape ..
  | .vget .. => WordsRead.vget ..
  | .vput .. => WordsRead.vput ..
  | .vputAll .. => WordsRead.vputAll ..
  | .pget .. => WordsRead.pget ..
  | .pput .. => WordsRead.pput ..
  | .waitp .. => WordsRead.waitp ..
  | .crewJoin .. => WordsRead.crewJoin ..
  | .crewLeave .. => WordsRead.crewLeave ..
  | .crewSize .. => WordsRead.crewSize ..
  | .crewRank .. => WordsRead.crewRank ..
  | .bar .. => WordsRead.bar ..
  | .barSwap .. => WordsRead.barSwap ..
  | .abarInit .. => WordsRead.abarInit ..
  | .abarArrive .. => WordsRead.abarArrive ..
  | .abarExpect .. => WordsRead.abarExpect ..
  | .abarWait .. => WordsRead.abarWait ..
  | .abarTest .. => WordsRead.abarTest ..
  | .crgnOpen .. => WordsRead.crgnOpen ..
  | .sigck .. => WordsRead.sigck ..
  | .pairBegin .. => WordsRead.pairBegin ..
  | .tcopy .. => WordsRead.tcopy ..
  | .wload .. => WordsRead.wload ..
  | .collDefine .. => WordsRead.collDefine ..
  | .collRelease .. => WordsRead.collRelease ..
  | .collAbort .. => WordsRead.collAbort ..
  | .collAllred .. => WordsRead.collAllred ..
  | .collReduce .. => WordsRead.collReduce ..
  | .collBcast .. => WordsRead.collBcast ..
  | .collGather .. => WordsRead.collGather ..
  | .collRscat .. => WordsRead.collRscat ..
  | .collRot .. => WordsRead.collRot ..
  | .collProg .. => WordsRead.collProg ..
  | .solic .. => WordsRead.solic ..
  | .auct .. => WordsRead.auct ..
  | .slotLook .. => WordsRead.slotLook ..
  | .slotVict .. => WordsRead.slotVict ..
  | .slotFill .. => WordsRead.slotFill ..
  | .slotClr .. => WordsRead.slotClr ..
  | .recd .. => WordsRead.recd ..
  | .trig .. => WordsRead.trig ..
  | .sysr .. => WordsRead.sysr ..
  | .sysw .. => WordsRead.sysw ..
  | .syswSrseed .. => WordsRead.syswSrseed ..
  | .syswFmask .. => WordsRead.syswFmask ..
  | .syswRbnd .. => WordsRead.syswRbnd ..
  | .syswSigreg .. => WordsRead.syswSigreg ..
  | .syswInject .. => WordsRead.syswInject ..
  | .trap .. => WordsRead.trap ..
  | .nop64 .. => WordsRead.nop64 ..
  | .nop96 .. => WordsRead.nop96 ..
  | .iadd .. => WordsRead.iadd ..
  | .isub .. => WordsRead.isub ..
  | .imul .. => WordsRead.imul ..
  | .imulh .. => WordsRead.imulh ..
  | .imulhu .. => WordsRead.imulhu ..
  | .imin .. => WordsRead.imin ..
  | .imax .. => WordsRead.imax ..
  | .iminu .. => WordsRead.iminu ..
  | .imaxu .. => WordsRead.imaxu ..
  | .iand .. => WordsRead.iand ..
  | .ior .. => WordsRead.ior ..
  | .ixor .. => WordsRead.ixor ..
  | .laneShl .. => WordsRead.laneShl ..
  | .laneShr .. => WordsRead.laneShr ..
  | .laneSar .. => WordsRead.laneSar ..
  | .rot .. => WordsRead.rot ..
  | .iadds .. => WordsRead.iadds ..
  | .isubs .. => WordsRead.isubs ..
  | .iabs .. => WordsRead.iabs ..
  | .ineg .. => WordsRead.ineg ..
  | .inot .. => WordsRead.inot ..
  | .lanePopc .. => WordsRead.lanePopc ..
  | .laneClz .. => WordsRead.laneClz ..
  | .laneBrev .. => WordsRead.laneBrev ..
  | .laneMov .. => WordsRead.laneMov ..
  | .imad .. => WordsRead.imad ..
  | .dot4 .. => WordsRead.dot4 ..
  | .iaddc .. => WordsRead.iaddc ..
  | .imulw .. => WordsRead.imulw ..
  | .bfx .. => WordsRead.bfx ..
  | .bfi .. => WordsRead.bfi ..
  | .icmp .. => WordsRead.icmp ..
  | .sel .. => WordsRead.sel ..
  | .lid .. => WordsRead.lid ..
  | .fadd .. => WordsRead.fadd ..
  | .fsub .. => WordsRead.fsub ..
  | .fmul .. => WordsRead.fmul ..
  | .ffma .. => WordsRead.ffma ..
  | .fmin .. => WordsRead.fmin ..
  | .fmax .. => WordsRead.fmax ..
  | .fabs .. => WordsRead.fabs ..
  | .fneg .. => WordsRead.fneg ..
  | .fcmp .. => WordsRead.fcmp ..
  | .fclass .. => WordsRead.fclass ..
  | .frint .. => WordsRead.frint ..
  | .hadd2 .. => WordsRead.hadd2 ..
  | .hmul2 .. => WordsRead.hmul2 ..
  | .hfma2 .. => WordsRead.hfma2 ..
  | .hmin2 .. => WordsRead.hmin2 ..
  | .hmax2 .. => WordsRead.hmax2 ..
  | .rcp .. => WordsRead.rcp ..
  | .rsq .. => WordsRead.rsq ..
  | .sqrt .. => WordsRead.sqrt ..
  | .exp2 .. => WordsRead.exp2 ..
  | .log2 .. => WordsRead.log2 ..
  | .sin .. => WordsRead.sin ..
  | .cos .. => WordsRead.cos ..
  | .tanh .. => WordsRead.tanh ..
  | .sigm .. => WordsRead.sigm ..
  | .cvt .. => WordsRead.cvt ..
  | .pack .. => WordsRead.pack ..
  | .unpk .. => WordsRead.unpk ..
  | .qnt .. => WordsRead.qnt ..
  | .scale .. => WordsRead.scale ..
  | .amax .. => WordsRead.amax ..
  | .shfl .. => WordsRead.shfl ..
  | .ballot .. => WordsRead.ballot ..
  | .bplane .. => WordsRead.bplane ..
  | .vred .. => WordsRead.vred ..
  | .vscan .. => WordsRead.vscan ..
  | .ld .. => WordsRead.ld ..
  | .st .. => WordsRead.st ..
  | .atom .. => WordsRead.atom ..
  | .fatom .. => WordsRead.fatom ..
  | .fatomMore .. => WordsRead.fatomMore ..
  | .fatomSkip .. => WordsRead.fatomSkip ..
  | .acpy .. => WordsRead.acpy ..
  | .xst .. => WordsRead.xst ..
  | .mma .. => WordsRead.mma ..
  | .msoft .. => WordsRead.msoft ..
  | .tmovTv .. => WordsRead.tmovTv ..
  | .tmovVt .. => WordsRead.tmovVt ..
  | .tclr .. => WordsRead.tclr ..
  | .tscl .. => WordsRead.tscl ..
  | .tsclPend .. => WordsRead.tsclPend ..
  | .tsclDivl .. => WordsRead.tsclDivl ..
  | .tdrn .. => WordsRead.tdrn ..
  | .chunkSend .. => WordsRead.chunkSend ..
  | .chunkRecv .. => WordsRead.chunkRecv ..
  | .chunkRred .. => WordsRead.chunkRred ..
  | .chunkCopy .. => WordsRead.chunkCopy ..
  | .chunkWait .. => WordsRead.chunkWait ..
  | .chunkSig .. => WordsRead.chunkSig ..
  | .chunkLoop .. => WordsRead.chunkLoop ..
  | .chunkMcast .. => WordsRead.chunkMcast ..
  | .chunkRoute .. => WordsRead.chunkRoute ..
  | .reservedEncoding .. => WordsRead.reservedEncoding ..
  | .badop .. => WordsRead.badop ..
  | .laneIssue .. => WordsRead.laneIssue ..
  | .loadSectorReturn .. => WordsRead.loadSectorReturn ..
  | .storePerform .. => WordsRead.storePerform ..
  | .atomicPerform .. => WordsRead.atomicPerform ..
  | .fatomArrive .. => WordsRead.fatomArrive ..
  | .fatomApply .. => WordsRead.fatomApply ..
  | .acpyWrite .. => WordsRead.acpyWrite ..
  | .xstWrite .. => WordsRead.xstWrite ..
  | .streamFetch .. => WordsRead.streamFetch ..
  | .matrixPass .. => WordsRead.matrixPass ..
  | .matrixPerform .. => WordsRead.matrixPerform ..
  | .wloadAccept .. => WordsRead.wloadAccept ..
  | .wloadComplete .. => WordsRead.wloadComplete ..
  | .tcopyAccept .. => WordsRead.tcopyAccept ..
  | .tcopySectorWrite .. => WordsRead.tcopySectorWrite ..
  | .tcopyComplete .. => WordsRead.tcopyComplete ..
  | .crewControllerArrival .. => WordsRead.crewControllerArrival ..
  | .crewDeparture .. => WordsRead.crewDeparture ..
  | .watchRelease .. => WordsRead.watchRelease ..
  | .uncorAbortCompletion .. => WordsRead.uncorAbortCompletion ..
  | .pageWalkComplete .. => WordsRead.pageWalkComplete ..
  | .mmpPageResident .. => WordsRead.mmpPageResident ..
  | .mmpDecline .. => WordsRead.mmpDecline ..
  | .tlbLeaseExpire .. => WordsRead.tlbLeaseExpire ..
  | .mmpUnmap .. => WordsRead.mmpUnmap ..
  | .drainMarkAck .. => WordsRead.drainMarkAck ..
  | .unmapwaitExpire .. => WordsRead.unmapwaitExpire ..
  | .drainProbeAnswer .. => WordsRead.drainProbeAnswer ..
  | .preemptSwitchRequest .. => WordsRead.preemptSwitchRequest ..
  | .switchComplete .. => WordsRead.switchComplete ..
  | .fillStart .. => WordsRead.fillStart ..
  | .fillDone .. => WordsRead.fillDone ..
  | .spillDone .. => WordsRead.spillDone ..
  | .handlerTimeout .. => WordsRead.handlerTimeout ..
  | .xtoTimeout .. => WordsRead.xtoTimeout ..
  | .partitionTimeout .. => WordsRead.partitionTimeout ..
  | .watchdogExpire .. => WordsRead.watchdogExpire ..
  | .spillstuck .. => WordsRead.spillstuck ..
  | .columnRetire .. => WordsRead.columnRetire ..
  | .pairTrailerPlace .. => WordsRead.pairTrailerPlace ..
  | .pairCompare .. => WordsRead.pairCompare ..
  | .solicAccept .. => WordsRead.solicAccept ..
  | .directoryLookup .. => WordsRead.directoryLookup ..
  | .responderSpawn .. => WordsRead.responderSpawn ..
  | .censusComplete .. => WordsRead.censusComplete ..
  | .directoryInsertAck .. => WordsRead.directoryInsertAck ..
  | .auctAccept .. => WordsRead.auctAccept ..
  | .auctRun .. => WordsRead.auctRun ..
  | .auctComplete .. => WordsRead.auctComplete ..
  | .triggerAccept .. => WordsRead.triggerAccept ..
  | .ringEntryTake .. => WordsRead.ringEntryTake ..
  | .runStart .. => WordsRead.runStart ..
  | .gvecRead .. => WordsRead.gvecRead ..
  | .blockPlace .. => WordsRead.blockPlace ..
  | .paramWrite .. => WordsRead.paramWrite ..
  | .nodeComplete .. => WordsRead.nodeComplete ..
  | .recAnswer .. => WordsRead.recAnswer ..
  | .recordDeliver .. => WordsRead.recordDeliver ..
  | .closingRecordDeliver .. => WordsRead.closingRecordDeliver ..
  | .nocFlitRetry .. => WordsRead.nocFlitRetry ..
  | .hostTriggerWrite .. => WordsRead.hostTriggerWrite ..
  | .qtailWrite .. => WordsRead.qtailWrite ..
  | .evctlWrite .. => WordsRead.evctlWrite ..
  | .evheadWrite .. => WordsRead.evheadWrite ..
  | .eventWrite .. => WordsRead.eventWrite ..
  | .hrangeWrite .. => WordsRead.hrangeWrite ..
  | .schedmemWrite .. => WordsRead.schedmemWrite ..
  | .hostWindowWrite .. => WordsRead.hostWindowWrite ..
  | .create .. => WordsRead.create ..
  | .destroy .. => WordsRead.destroy ..
  | .resume .. => WordsRead.resume ..
  | .kick .. => WordsRead.kick ..
  | .pagedone .. => WordsRead.pagedone ..
  | .pagefail .. => WordsRead.pagefail ..
  | .mbcmdReserved .. => WordsRead.mbcmdReserved ..
  | .partitionTableWrite .. => WordsRead.partitionTableWrite ..
  | .routeTableWrite .. => WordsRead.routeTableWrite ..
  | .enmonLogRead .. => WordsRead.enmonLogRead ..
  | .firmwareUpdate .. => WordsRead.firmwareUpdate ..
  | .attestationReport .. => WordsRead.attestationReport ..
  | .enmonReset .. => WordsRead.enmonReset ..
  | .stackTrained .. => WordsRead.stackTrained ..
  | .decompSelftestPass .. => WordsRead.decompSelftestPass ..
  | .linkModuleFail .. => WordsRead.linkModuleFail ..
  | .powerLimit .. => WordsRead.powerLimit ..
  | .clockSet .. => WordsRead.clockSet ..
  | .collRunStart .. => WordsRead.collRunStart ..
  | .collRunComplete .. => WordsRead.collRunComplete ..
  | .beamFlitForward .. => WordsRead.beamFlitForward ..
  | .beamData .. => WordsRead.beamData ..
  | .beamAck .. => WordsRead.beamAck ..
  | .beamGrant .. => WordsRead.beamGrant ..
  | .beamSignal .. => WordsRead.beamSignal ..
  | .beamBarrier .. => WordsRead.beamBarrier ..
  | .beamAbort .. => WordsRead.beamAbort ..
  | .beamLinkdown .. => WordsRead.beamLinkdown ..
  | .beamCrcReject .. => WordsRead.beamCrcReject ..
  | .beamLaneLoss .. => WordsRead.beamLaneLoss ..
  | .beamPortDown .. => WordsRead.beamPortDown ..
  | .beamPortRetrain .. => WordsRead.beamPortRetrain ..
  | .wloadSectorWrite .. => WordsRead.wloadSectorWrite ..
  | .hostStoreAcknowledgement .. => WordsRead.hostStoreAcknowledgement ..
  | .grpbusy .. => WordsRead.grpbusy ..
  | .fuse => WordsRead.fuse
  | .crgnClose => WordsRead.crgnClose
  | .pairEnd => WordsRead.pairEnd
  | .yield => WordsRead.yield
  | .rte => WordsRead.rte
  | .exit => WordsRead.exit
  | .nop => WordsRead.nop
  | .logEpochEnd => WordsRead.logEpochEnd
  | .deviceReset => WordsRead.deviceReset
  | .hostLinkTrained => WordsRead.hostLinkTrained
  | .thermalTrip => WordsRead.thermalTrip
  | .chunkNext => WordsRead.chunkNext
  | .chunkBar => WordsRead.chunkBar
  | .chunkEnd => WordsRead.chunkEnd

end Laws

/-! ## No instruction has two kinds of words -/

theorem some_ofNat_of_toNat {op : BitVec 8} {n : Nat} (o : LaneOps) (h : op.toNat = n) :
    some (BitVec.ofNat 8 n, o) = some (op, o) := by
  subst h
  rw [BitVec.ofNat_toNat, BitVec.setWidth_eq]

/-- The opcode map read backwards: what an opcode and its operands are is encoded by them, and is no control instruction. The cases that
are named are the opcodes 0xA3, 0xD2 and 0xD4, whose rows MOD or word 2 tells apart (06 R187, 07 R213, R214), and the opcodes without an
instruction. -/
theorem of_laneOfOp {op : BitVec 8} {o : LaneOps} {i : Instr} (h : laneOfOp op o = some i) :
    encodeControl i = none ∧ encodeLaneOp i = some (op, o) ∧ i.laneRow = true := by
  unfold laneOfOp at h
  split at h
  case h_60 | h_70 | h_72 =>
    split_ifs at h
    all_goals
      cases h
      exact ⟨rfl, some_ofNat_of_toNat o ‹_›, by simp_all [Instr.laneRow]⟩
  case h_83 => exact nomatch h
  all_goals
    cases h
    exact ⟨rfl, some_ofNat_of_toNat o ‹_›, rfl⟩

/-- A chunk word's instruction is neither a control instruction nor a lane instruction. -/
theorem none_of_chunkCandidate {w : Word} {i : Instr} (h : chunkCandidate w = some i) :
    encodeControl i = none ∧ encodeLaneOp i = none := by
  unfold chunkCandidate at h
  split at h
  case h_13 => exact nomatch h
  all_goals
    cases h
    exact ⟨rfl, rfl⟩

/-! ## The decoders, inverted -/

theorem trimWords_f (w : CtlWords) : (trimWords w).f = w.f := by
  unfold trimWords
  split <;> rfl

/-- An instruction that the decoder reads has its fields in their ranges, and is encoded by the words that belong to it. -/
theorem of_decodeControl {w : CtlWords} {i : Instr} (h : decodeControl w = some i) :
    i.controlRanges = true ∧ encodeControl i = some (trimWords w) := by
  unfold decodeControl at h
  split at h
  · exact nomatch h
  · split at h
    next _ c _ ok =>
      cases h
      simpa using ok
    · exact nomatch h

theorem of_decodeChunk {w : Word} {i : Instr} (h : decodeChunk w = .ok i) :
    chunkCandidate w = some i ∧ i.chunkRanges = true ∧ encodeChunk i = some w := by
  unfold decodeChunk at h
  split at h
  · exact nomatch h
  · split at h
    next _ c hc ok =>
      cases h
      exact ⟨hc, by simpa using ok⟩
    · exact nomatch h

theorem of_decode {w0 w1 w2 : W32} {i : Instr} (h : decode w0 w1 w2 = i) (hi : i ≠ .reservedEncoding w0) :
    decodeControl ⟨unpackFields w0, w1, w2⟩ = some i := by
  unfold decode at h
  cases hd : decodeControl ⟨unpackFields w0, w1, w2⟩ with
  | none => exact absurd (h.symm.trans (by rw [hd]; rfl)) hi
  | some j =>
    rw [hd] at h
    exact congrArg some h

/-! ## The words of a control instruction (02 R37, R40) -/

theorem pack_unpack (w : W32) : packFields (unpackFields w) = w := by
  simp only [packFields, unpackFields]
  iterate 5 rw [BitVec.extractLsb'_append_extractLsb'_eq_extractLsb' (by omega)]
  exact extract_all w

theorem encode_of_encodeControl {i : Instr} {w : CtlWords} (h : encodeControl i = some w) :
    encode i = some ([packFields w.f, w.w1, w.w2].take (lenWords (packFields w.f))) := by
  simp [encode, h]

/-- The words that are trimmed stand behind those that the instruction has. -/
theorem take_trimWords (w : CtlWords) :
    [packFields w.f, (trimWords w).w1, (trimWords w).w2].take (lenWords (packFields w.f)) =
      [packFields w.f, w.w1, w.w2].take (lenWords (packFields w.f)) := by
  have len : (packFields w.f).extractLsb' 0 2 = w.f.len := congrArg Fields.len (unpack_pack w.f)
  unfold lenWords trimWords
  rw [len]
  split <;> simp only [*] <;> rfl

/-- What follows an instruction's words does not matter to what they decode to. -/
theorem decode_take (w0 w1 w2 g1 g2 : W32) :
    let rest := [w1, w2].take (lenWords w0 - 1)
    decode w0 (rest[0]?.getD g1) (rest[1]?.getD g2) = decode w0 w1 w2 := by
  refine decode_congr (fun two => ?_) (fun three => ?_)
  · rw [List.getElem?_take_of_lt (by omega)]
    rfl
  · rw [List.getElem?_take_of_lt (by omega)]
    rfl

theorem decode_of_encodeControl {i : Instr} {w : CtlWords} (hr : i.controlRanges = true) (h : encodeControl i = some w) :
    decode (packFields w.f) w.w1 w.w2 = i := by
  obtain ⟨reads, -, -⟩ := Laws.wordsRead i
  rw [decode, unpack_pack, reads hr w h]
  rfl

/-- The words of a control instruction decode to it, whatever words follow. -/
theorem decode_encode {i : Instr} {ws : List W32} (hr : i.controlRanges = true) (hi : (encodeControl i).isSome)
    (he : encode i = some ws) : ∃ w0 rest, ws = w0 :: rest ∧ ws.length = lenWords w0 ∧
      ∀ g1 g2, decode w0 (rest[0]?.getD g1) (rest[1]?.getD g2) = i := by
  obtain ⟨w, hw⟩ := Option.isSome_iff_exists.mp hi
  obtain ⟨one, three⟩ := Machine.lenWords_pos (packFields w.f)
  cases Option.some.inj (he.symm.trans (encode_of_encodeControl hw))
  refine ⟨packFields w.f, [w.w1, w.w2].take (lenWords (packFields w.f) - 1), List.take_cons one, ?_, fun g1 g2 => ?_⟩
  · rw [List.length_take]
    exact Nat.min_eq_left three
  · exact (decode_take ..).trans (decode_of_encodeControl hr hw)

/-- What the control decoder reads is encoded by the words that it read. -/
theorem encode_decode {w0 w1 w2 : W32} {i : Instr} (h : decode w0 w1 w2 = i) (hi : i ≠ .reservedEncoding w0) :
    i.controlRanges = true ∧ encode i = some ([w0, w1, w2].take (lenWords w0)) := by
  obtain ⟨hr, hw⟩ := of_decodeControl (of_decode h hi)
  have kept := take_trimWords ⟨unpackFields w0, w1, w2⟩
  rw [pack_unpack] at kept
  exact ⟨hr, by rw [encode_of_encodeControl hw, trimWords_f, pack_unpack, kept]⟩

/-! ## The words of a lane instruction (02 R47) -/

theorem if_getLsbD {n : Nat} (x : BitVec n) (k : Nat) :
    (if x.getLsbD k then (1 : BitVec 1) else 0) = x.extractLsb' k 1 := by
  ext j hj
  obtain rfl : j = 0 := by omega
  cases h : x.getLsbD k <;> simp [h]

theorem getLsbD_if (b : Bool) : (if b then (1 : BitVec 1) else 0).getLsbD 0 = b := by cases b <;> rfl

theorem laneWord0_len (op : BitVec 8) (o : LaneOps) : (laneWord0 op o).extractLsb' 0 2 = 2 :=
  BitVec.extractLsb'_append_eq_right

theorem laneWord0_op (op : BitVec 8) (o : LaneOps) : (laneWord0 op o).extractLsb' 2 8 = op := by
  rw [laneWord0, extract_high _ _ _ _ (by omega), extract_low _ _ _ _ (by omega), extract_all]

theorem laneWord0_top (op : BitVec 8) (o : LaneOps) : (laneWord0 op o).extractLsb' 30 2 = 0 := by
  rw [laneWord0]
  iterate 6 rw [extract_high _ _ _ _ (by omega)]
  exact extract_all 0

theorem laneFields_words (op : BitVec 8) (o : LaneOps) : laneFields (laneWord0 op o) (laneWord1 o) o.lit = o := by
  obtain ⟨d, nw, a, chain, b, c, p, pneg, ty, md, lit⟩ := o
  simp only [laneFields, LaneOps.mk.injEq, laneWord0, laneWord1]
  refine ⟨?_, ?_, ?_, ?_, ?_, ?_, ?_, ?_, ?_, ?_, trivial⟩
  all_goals
    repeat (first | rw [extract_low _ _ _ _ (by omega)] | rw [extract_high _ _ _ _ (by omega)] |
      rw [bit_low _ _ _ (by omega)] | rw [bit_high _ _ _ (by omega)] | exact extract_all _ | exact getLsbD_if _)

/-- Word 0 has no further bits: LEN, [31:30], the opcode and the operands are all of it. -/
theorem laneWord0_fields {w0 : W32} (w1 w2 : W32) (len : w0.extractLsb' 0 2 = 2) (top : w0.extractLsb' 30 2 = 0) :
    laneWord0 (w0.extractLsb' 2 8) (laneFields w0 w1 w2) = w0 := by
  have chain : (if (laneFields w0 w1 w2).chain then (1 : BitVec 1) else 0) = w0.extractLsb' 29 1 := if_getLsbD ..
  have nw : (if (laneFields w0 w1 w2).nw then (1 : BitVec 1) else 0) = w0.extractLsb' 19 1 := if_getLsbD ..
  rw [laneWord0, chain, nw, ← len, ← top]
  dsimp only [laneFields]
  iterate 6 rw [BitVec.extractLsb'_append_extractLsb'_eq_extractLsb' (by omega)]
  exact extract_all w0

theorem laneWord1_fields (w0 w1 w2 : W32) : laneWord1 (laneFields w0 w1 w2) = w1 := by
  have pneg : (if (laneFields w0 w1 w2).pneg then (1 : BitVec 1) else 0) = w1.extractLsb' 22 1 := if_getLsbD ..
  rw [laneWord1, pneg]
  dsimp only [laneFields]
  iterate 5 rw [BitVec.extractLsb'_append_extractLsb'_eq_extractLsb' (by omega)]
  exact extract_all w1

theorem encode_of_lane {i : Instr} {op : BitVec 8} {o : LaneOps} (hc : encodeControl i = none)
    (h : encodeLaneOp i = some (op, o)) : encode i = some [laneWord0 op o, laneWord1 o, o.lit] := by
  simp [encode, encodeLane, hc, h]

/-- The words of a lane instruction decode to it. -/
theorem decodeLane_encode {i : Instr} {ws : List W32} (hr : i.laneRow = true) (hi : (encodeLaneOp i).isSome)
    (he : encode i = some ws) : ∃ w0 w1 w2, ws = [w0, w1, w2] ∧ decodeLane w0 w1 w2 = some i := by
  obtain ⟨⟨op, o⟩, ho⟩ := Option.isSome_iff_exists.mp hi
  obtain ⟨-, reads, -⟩ := Laws.wordsRead i
  have hl : laneOfOp op o = some i := reads hr op o ho
  obtain ⟨hc, -, -⟩ := of_laneOfOp hl
  cases Option.some.inj (he.symm.trans (encode_of_lane hc ho))
  refine ⟨_, _, _, rfl, ?_⟩
  rw [decodeLane, if_pos ⟨laneWord0_len op o, laneWord0_top op o⟩, laneWord0_op, laneFields_words, hl]

/-- What the lane decoder reads is encoded by the three words that it read. -/
theorem encode_decodeLane {w0 w1 w2 : W32} {i : Instr} (h : decodeLane w0 w1 w2 = some i) :
    i.laneRow = true ∧ encode i = some [w0, w1, w2] := by
  obtain ⟨⟨len, top⟩, hl⟩ := Option.ite_none_right_eq_some.mp h
  obtain ⟨hc, ho, hr⟩ := of_laneOfOp hl
  refine ⟨hr, ?_⟩
  rw [encode_of_lane hc ho, laneWord0_fields w1 w2 len top, laneWord1_fields]
  rfl

/-! ## The words of a chunk (02 R53) -/

theorem encode_of_chunk {i : Instr} {w : Word} (hc : encodeControl i = none) (hl : encodeLaneOp i = none)
    (h : encodeChunk i = some w) : encode i = some [w.extractLsb' 0 32, w.extractLsb' 32 32] := by
  simp [encode, encodeLane, hc, hl, h]

/-- The two words of a chunk instruction are its chunk word, which decodes to it. -/
theorem decodeChunk_encode {i : Instr} {ws : List W32} (hr : i.chunkRanges = true) (hi : (encodeChunk i).isSome)
    (he : encode i = some ws) : ∃ lo hi, ws = [lo, hi] ∧ decodeChunk (hi ++ lo) = .ok i := by
  obtain ⟨w, hw⟩ := Option.isSome_iff_exists.mp hi
  obtain ⟨-, -, reads⟩ := Laws.wordsRead i
  have hd : decodeChunk w = .ok i := reads hr w hw
  obtain ⟨candidate, -, -⟩ := of_decodeChunk hd
  obtain ⟨hc, hl⟩ := none_of_chunkCandidate candidate
  cases Option.some.inj (he.symm.trans (encode_of_chunk hc hl hw))
  refine ⟨_, _, rfl, ?_⟩
  rw [BitVec.extractLsb'_append_extractLsb']
  exact hd

/-! ## The obligations of 02 -/

/-- Settles O58: forward by the lemma of each constructor (`Laws.wordsRead`), backward by what the decoders check. -/
theorem encodedInstructionsDecodeToThemselves : Obligations.EncodedInstructionsDecodeToThemselves := by
  refine ⟨fun i ws hwf he => ?_, fun _ _ _ _ => encode_decode, fun _ _ _ _ => encode_decodeLane, fun _ _ h => (of_decodeChunk h).2⟩
  simp only [Instr.wellFormed, Bool.and_eq_true] at hwf
  obtain ⟨⟨control, lane⟩, chunk⟩ := hwf
  exact ⟨fun h => decode_encode control h he, fun h => decodeLane_encode lane h he, fun h => decodeChunk_encode chunk h he⟩

/-- Settles O57, by running the decoders on the words. -/
theorem wordsReadAsTheSpecWritesThem : Obligations.WordsReadAsTheSpecWritesThem := by
  unfold Obligations.WordsReadAsTheSpecWritesThem
  decide +kernel

end Sys2Proof

namespace Sys2Proof.Machine

/-! ## One row of the array -/

/-- What a watch holds in row i of its tiles and in lane i of its registers. -/
@[ext] structure RowView where
  /-- The element of a tile at a column below 64. -/
  tile : Nat → Nat → W32
  trow : Nat → TileRow
  reg : Nat → W32
  gen : W32

def Watch.rowView (u : Nat) (w : Watch) (i : Nat) : RowView where
  tile T n := if n < 64 then w.tile u T i n else 0
  trow T := w.trow T i
  reg k := rowAt (w.vreg k) i
  gen := rowAt w.gen i

theorem Watch.rowView_tile {u i n : Nat} (w : Watch) (T : Nat) (hn : n < 64) : (w.rowView u i).tile T n = w.tile u T i n := if_pos hn

@[simp] theorem Watch.rowView_trow (u : Nat) (w : Watch) (i T : Nat) : (w.rowView u i).trow T = w.trow T i := rfl
@[simp] theorem Watch.rowView_reg (u : Nat) (w : Watch) (i k : Nat) : (w.rowView u i).reg k = rowAt (w.vreg k) i := rfl
@[simp] theorem Watch.rowView_gen (u : Nat) (w : Watch) (i : Nat) : (w.rowView u i).gen = rowAt w.gen i := rfl

/-- `y` is `w` but for row i, which holds `v`. -/
structure RowSet (u i : Nat) (w y : Watch) (v : RowView) : Prop where
  row : y.rowView u i = v
  others : ∀ j, j < 64 → j ≠ i → y.rowView u j = w.rowView u j

theorem RowSet.refl (u i : Nat) (w : Watch) : RowSet u i w w (w.rowView u i) := ⟨rfl, fun _ _ _ => rfl⟩

theorem RowSet.trans {u i : Nat} {w y z : Watch} {v v' : RowView} (h : RowSet u i w y v) (h' : RowSet u i y z v') : RowSet u i w z v' :=
  ⟨h'.row, fun j hj hji => (h'.others j hj hji).trans (h.others j hj hji)⟩

/-! ## Writes of one row -/

def RowView.setTile (v : RowView) (t n : Nat) (x : W32) : RowView :=
  { v with tile := Function.update v.tile t (Function.update (v.tile t) n x) }
def RowView.setTrow (v : RowView) (t : Nat) (r : TileRow) : RowView := { v with trow := Function.update v.trow t r }

theorem tileKey_inj {t i n t' i' n' : Nat} (hi : i < 64) (hn : n < 64) (hi' : i' < 64) (hn' : n' < 64) :
    tileKey t' i' n' = tileKey t i n ↔ t' = t ∧ i' = i ∧ n' = n := by
  unfold tileKey
  omega

theorem Watch.tile_setTile_same (u : Nat) (w : Watch) (t i n : Nat) (x : W32) : (w.setTile t i n x).tile u t i n = x := by
  simp [Watch.tile, Watch.setTile, Tbl.find_put_same]

theorem Watch.tile_setTile_other (u : Nat) (w : Watch) {t i n t' i' n' : Nat} (x : W32) (h : tileKey t' i' n' ≠ tileKey t i n) :
    (w.setTile t i n x).tile u t' i' n' = w.tile u t' i' n' := by
  simp [Watch.tile, Watch.setTile, Tbl.find_put_other _ _ h]

theorem rowSet_setTile {u i n : Nat} (w : Watch) (t : Nat) (x : W32) (hi : i < 64) (hn : n < 64) :
    RowSet u i w (w.setTile t i n x) ((w.rowView u i).setTile t n x) where
  row := by
    have tiles : ((w.setTile t i n x).rowView u i).tile = ((w.rowView u i).setTile t n x).tile := by
      funext T k
      by_cases hk : k < 64
      · rw [Watch.rowView_tile _ _ hk]
        by_cases h : T = t ∧ k = n
        · obtain ⟨rfl, rfl⟩ := h
          simp [Watch.tile_setTile_same, RowView.setTile]
        · rw [Watch.tile_setTile_other _ _ _ (by rw [ne_eq, tileKey_inj hi hn hi hk]; tauto), ← Watch.rowView_tile w T hk]
          by_cases hT : T = t
          · subst hT
            have hkn : k ≠ n := fun e => h ⟨rfl, e⟩
            simp [RowView.setTile, hkn]
          · simp [RowView.setTile, hT]
      · have hkn : k ≠ n := by omega
        by_cases hT : T = t <;> simp [Watch.rowView, RowView.setTile, hk, hT, hkn]
    exact RowView.ext tiles rfl rfl rfl
  others j hj hji := by
    have tiles : ((w.setTile t i n x).rowView u j).tile = (w.rowView u j).tile := by
      funext T k
      by_cases hk : k < 64
      · rw [Watch.rowView_tile _ _ hk, Watch.rowView_tile _ _ hk,
          Watch.tile_setTile_other _ _ _ (by rw [ne_eq, tileKey_inj hi hn hj hk]; tauto)]
      · simp [Watch.rowView, hk]
    exact RowView.ext tiles rfl rfl rfl

theorem Watch.trow_setTrow_same (w : Watch) (t i : Nat) (r : TileRow) : (w.setTrow t i r).trow t i = r := by
  simp [Watch.trow, Watch.setTrow]

theorem Watch.trow_setTrow_other (w : Watch) {t i t' i' : Nat} (r : TileRow) (h : t' * 64 + i' ≠ t * 64 + i) :
    (w.setTrow t i r).trow t' i' = w.trow t' i' := by
  simp [Watch.trow, Watch.setTrow, Tbl.getD_put_other _ _ _ h]

theorem rowSet_setTrow {u i : Nat} (w : Watch) (t : Nat) (r : TileRow) (hi : i < 64) :
    RowSet u i w (w.setTrow t i r) ((w.rowView u i).setTrow t r) where
  row := by
    refine RowView.ext rfl (funext fun T => ?_) rfl rfl
    by_cases hT : T = t
    · subst hT
      simp [Watch.trow_setTrow_same, RowView.setTrow]
    · have key : T * 64 + i ≠ t * 64 + i := by omega
      simp [Watch.trow_setTrow_other _ _ key, RowView.setTrow, hT]
  others j hj hji := by
    refine RowView.ext rfl (funext fun T => ?_) rfl rfl
    have key : T * 64 + j ≠ t * 64 + i := by omega
    exact w.trow_setTrow_other r key

theorem rowAt_setLane_same (r : Row) {l : Nat} (x : W32) (hl : l < 64) : rowAt (setLane r l x) l = x := by
  simp [rowAt, setLane, hl]

theorem rowAt_setLane_other (r : Row) {l k : Nat} (x : W32) (h : k ≠ l) : rowAt (setLane r l x) k = rowAt r k := by
  by_cases hk : k < 64 <;> simp [rowAt, setLane, hk, h]

/-- Lane i of one register is written. -/
theorem rowSet_putV {u i : Nat} (w : Watch) (k : Nat) (x : W32) (hi : i < 64) :
    RowSet u i w (w.putV k (setLane (w.vreg k) i x)) { w.rowView u i with reg := Function.update (w.rowView u i).reg k x } where
  row := by
    refine RowView.ext rfl rfl (funext fun n => ?_) rfl
    by_cases h : n = k
    · subst h
      simp [Watch.rowView, Watch.vreg, Watch.putV, rowAt_setLane_same _ _ hi]
    · simp [Watch.rowView, Watch.vreg, Watch.putV, h, Tbl.getD_put_other]
  others j _ hji := by
    refine RowView.ext rfl rfl (funext fun n => ?_) rfl
    by_cases h : n = k
    · subst h
      simp [Watch.rowView, Watch.vreg, Watch.putV, rowAt_setLane_other _ _ hji]
    · simp [Watch.rowView, Watch.vreg, Watch.putV, h, Tbl.getD_put_other]

theorem Watch.rowView_withGen (u i : Nat) (w : Watch) (r : Row) :
    ({ w with gen := r } : Watch).rowView u i = { w.rowView u i with gen := rowAt r i } := rfl

theorem rowSet_gen {u i : Nat} (w : Watch) (x : W32) (hi : i < 64) :
    RowSet u i w { w with gen := setLane w.gen i x } { w.rowView u i with gen := x } where
  row := by rw [Watch.rowView_withGen, rowAt_setLane_same _ _ hi]
  others _ _ hji := by
    rw [Watch.rowView_withGen, rowAt_setLane_other _ _ hji]
    rfl

/-! ## Columns c0 to c0 + N of a row, one after another -/

/-- Each of the N elements of tile t from column c0 on becomes `g` of its place and of itself. -/
def RowView.fill (v : RowView) (t c0 N : Nat) (g : Nat → W32 → W32) : RowView :=
  { v with tile := Function.update v.tile t fun n => if c0 ≤ n ∧ n < c0 + N then g (n - c0) (v.tile t n) else v.tile t n }

theorem RowView.fill_zero (v : RowView) (t c0 : Nat) (g : Nat → W32 → W32) : v.fill t c0 0 g = v := by
  have tiles : (v.fill t c0 0 g).tile = v.tile := by
    simp only [RowView.fill, Nat.add_zero, Function.update_eq_self_iff]
    funext n
    rw [if_neg (by omega)]
  exact RowView.ext tiles rfl rfl rfl

theorem RowView.setTile_fill (v : RowView) (t c0 N : Nat) (g : Nat → W32 → W32) :
    (v.fill t c0 N g).setTile t (c0 + N) (g N ((v.fill t c0 N g).tile t (c0 + N))) = v.fill t c0 (N + 1) g := by
  refine RowView.ext (funext fun T => ?_) rfl rfl rfl
  by_cases hT : T = t
  · subst hT
    funext n
    by_cases hn : n = c0 + N
    · subst hn
      simp [RowView.fill, RowView.setTile]
    · have iff : (c0 ≤ n ∧ n < c0 + N) ↔ (c0 ≤ n ∧ n < c0 + (N + 1)) := by omega
      simp [RowView.fill, RowView.setTile, hn, iff]
  · simp [RowView.fill, RowView.setTile, hT]

/-- The step of a loop over the columns of a row: it writes element c0 + j of a watch with the row state of `w`. -/
def WritesColumn (u t i c0 : Nat) (g : Nat → W32 → W32) (w : Watch) (body : Watch → Nat → Watch) : Prop :=
  ∀ z j, z.rows = w.rows → body z j = z.setTile t i (c0 + j) (g j (z.tile u t i (c0 + j)))

section
variable {u t i c0 : Nat} {g : Nat → W32 → W32} {w : Watch} {body : Watch → Nat → Watch}

theorem WritesColumn.foldl_frame (h : WritesColumn u t i c0 g w body) (l : List Nat) : ∃ tiles, l.foldl body w = { w with tiles := tiles } :=
  foldl_keeps (fun z => ∃ tiles, z = { w with tiles := tiles }) ⟨w.tiles, rfl⟩ fun z j => by
    rintro ⟨tiles, rfl⟩
    rw [h { w with tiles := tiles } j rfl]
    exact ⟨_, rfl⟩

theorem WritesColumn.foldl_range (h : WritesColumn u t i c0 g w body) (hi : i < 64) {N : Nat} (hN : c0 + N ≤ 64) :
    RowSet u i w ((List.range N).foldl body w) ((w.rowView u i).fill t c0 N g) := by
  induction N with
  | zero =>
    rw [RowView.fill_zero]
    exact RowSet.refl u i w
  | succ N ih =>
    have done := ih (by omega)
    obtain ⟨tiles, frame⟩ := h.foldl_frame (List.range N)
    have hn : c0 + N < 64 := by omega
    rw [List.range_succ, List.foldl_append, List.foldl_cons, List.foldl_nil, h _ _ (by rw [frame]), ← RowView.setTile_fill,
      ← Watch.rowView_tile _ _ hn, done.row]
    exact done.trans (done.row ▸ rowSet_setTile _ t _ hi hn)

end

/-! ## A run of registers -/

/-- The registers from k on hold the words of `l`. -/
def RowView.putRun (v : RowView) (k : Nat) (l : List W32) : RowView :=
  { v with reg := fun n => if k ≤ n ∧ n - k < l.length then l[n - k]?.getD 0 else v.reg n }

theorem rowSet_putRun {u i : Nat} (hi : i < 64) (l : List W32) (w : Watch) (k : Nat) :
    RowSet u i w (w.putRun k i l) ((w.rowView u i).putRun k l) := by
  induction l generalizing w k with
  | nil =>
    have same : (w.rowView u i).putRun k [] = w.rowView u i := by
      simp only [RowView.putRun, List.length_nil, Nat.not_lt_zero, and_false, if_false]
    rw [same]
    exact RowSet.refl u i w
  | cons x l ih =>
    have first := rowSet_putV (u := u) w k x hi
    have rest := ih (w.putV k (setLane (w.vreg k) i x)) (k + 1)
    have both : RowView.putRun { w.rowView u i with reg := Function.update (w.rowView u i).reg k x } (k + 1) l =
        (w.rowView u i).putRun k (x :: l) := by
      refine RowView.ext rfl rfl (funext fun n => ?_) rfl
      simp only [RowView.putRun, List.length_cons]
      rcases Nat.lt_trichotomy n k with h | rfl | h
      · rw [if_neg (by omega), if_neg (by omega), Function.update_of_ne (by omega)]
      · rw [if_neg (by omega), if_pos (by omega), Function.update_self, Nat.sub_self]
        rfl
      · obtain ⟨d, rfl⟩ : ∃ d, n = k + 1 + d := ⟨n - (k + 1), by omega⟩
        have at_ : k + 1 + d - k = d + 1 := by omega
        rw [Function.update_of_ne (by omega), Nat.add_sub_cancel_left, at_, List.getElem?_cons_succ]
        simp only [show k + 1 ≤ k + 1 + d from by omega, show k ≤ k + 1 + d from by omega, true_and, Nat.add_lt_add_iff_right]
    rw [first.row, both] at rest
    exact first.trans rest

theorem Watch.putRun_frame (l : List W32) (w : Watch) (k i : Nat) : ∃ v, w.putRun k i l = { w with v := v } := by
  induction l generalizing w k with
  | nil => exact ⟨w.v, rfl⟩
  | cons x l ih =>
    obtain ⟨v, h⟩ := ih (w.putV k (setLane (w.vreg k) i x)) (k + 1)
    exact ⟨v, h⟩

/-! ## An instruction that goes through the rows of its mask -/

/-- `f` changes row i of a watch to `F i` of that row and keeps what `Fr` says of the rest. -/
structure RowOp (u : Nat) (Fr : Watch → Prop) (f : Watch → Nat → Watch) (F : Nat → RowView → RowView) : Prop where
  keeps : ∀ w i, Fr w → Fr (f w i)
  sets : ∀ w i, Fr w → i < 64 → RowSet u i w (f w i) (F i (w.rowView u i))

/-- `y` is `x` with `F i` of each row i of `on`, and with the other rows as they were. -/
def RowsBecome (u : Nat) (x y : Watch) (on : Nat → Prop) [DecidablePred on] (F : Nat → RowView → RowView) : Prop :=
  ∀ i, i < 64 → y.rowView u i = if on i then F i (x.rowView u i) else x.rowView u i

section
variable {u : Nat} {Fr : Watch → Prop} {f : Watch → Nat → Watch} {F : Nat → RowView → RowView} {x : Watch}

theorem RowOp.foldl (h : RowOp u Fr f F) {l : List Nat} (hl : l.Nodup) (hb : ∀ i ∈ l, i < 64) (hx : Fr x) :
    RowsBecome u x (l.foldl f x) (· ∈ l) F := by
  induction l generalizing x with
  | nil => exact fun i _ => by simp
  | cons k l ih =>
    obtain ⟨hk, hl⟩ := List.nodup_cons.mp hl
    have first := h.sets x k hx (hb k List.mem_cons_self)
    intro i hi
    rw [List.foldl_cons, ih hl (fun i hi => hb i (List.mem_cons_of_mem _ hi)) (h.keeps x k hx) i hi]
    by_cases hik : i = k
    · subst hik
      simp [hk, first.row]
    · simp [hik, first.others i hi hik]

theorem RowOp.foldl_lanesOf (h : RowOp u Fr f F) (m : Mask) (hx : Fr x) :
    Fr ((lanesOf m).foldl f x) ∧ RowsBecome u x ((lanesOf m).foldl f x) (fun i => m.getLsbD i = true) F := by
  refine ⟨foldl_keeps Fr hx h.keeps, fun i hi => ?_⟩
  have nodup : (lanesOf m).Nodup := List.nodup_range.filter _
  rw [h.foldl nodup (fun i hi => BitVec.lt_of_getLsbD (mem_lanesOf.mp hi)) hx i hi]
  simp only [mem_lanesOf]

end

section
variable {u : Nat} {x y : Watch} {on : Nat → Prop} [DecidablePred on] {F : Nat → RowView → RowView} (h : RowsBecome u x y on F)
include h

theorem RowsBecome.tileIs {d : Nat} {f : Nat → Nat → W32} (hd : ∀ i n, n < 64 → (F i (x.rowView u i)).tile d n = f i n)
    (ho : ∀ i T, T ≠ d → (F i (x.rowView u i)).tile T = (x.rowView u i).tile T) : Spec.TileIs u x y d on f := by
  refine ⟨fun i n hi hn hon => ?_, fun T i n hi hn hno => ?_⟩
  · rw [← Watch.rowView_tile _ _ hn, h i hi, if_pos hon, hd i n hn]
  · rw [← Watch.rowView_tile _ _ hn, ← Watch.rowView_tile _ _ hn, h i hi]
    split
    · next hon => rw [ho i T (hno.resolve_right (not_not_intro hon))]
    · rfl

theorem RowsBecome.rowsAre {d : Nat} {f : Nat → TileRow} (hd : ∀ i, (F i (x.rowView u i)).trow d = f i)
    (ho : ∀ i T, T ≠ d → (F i (x.rowView u i)).trow T = x.trow T i) : Spec.RowsAre x y d on f := by
  refine ⟨fun i hi hon => ?_, fun T i hi hno => ?_⟩
  · rw [← Watch.rowView_trow u, h i hi, if_pos hon, hd i]
  · rw [← Watch.rowView_trow u, h i hi]
    split
    · next hon => rw [ho i T (hno.resolve_right (not_not_intro hon))]
    · rfl

theorem RowsBecome.runIs {d : Nat} {f : Nat → List W32}
    (hf : ∀ i, (F i (x.rowView u i)).reg = ((x.rowView u i).putRun d (f i)).reg) : Spec.RunIs x y d on f := by
  intro i k hi
  rw [← Watch.rowView_reg u, h i hi]
  refine ⟨fun hon hdk hk => ?_, fun hno => ?_⟩
  · rw [if_pos hon, hf]
    exact if_pos ⟨hdk, hk⟩
  · split
    · next hon =>
      rw [hf]
      exact if_neg fun hk => hno ⟨hon, hk⟩
    · rfl

theorem RowsBecome.gen (i : Nat) (hi : i < 64) :
    rowAt y.gen i = if on i then (F i (x.rowView u i)).gen else rowAt x.gen i := by
  rw [← Watch.rowView_gen u, h i hi]
  split <;> rfl

end

/-! ## The pending factor (07 R199) -/

theorem RowSet.setTrow {u i : Nat} {w y : Watch} {v : RowView} (h : RowSet u i w y v) (hi : i < 64) (t : Nat) (r : TileRow) :
    RowSet u i w (y.setTrow t i r) (v.setTrow t r) :=
  h.trans (h.row ▸ rowSet_setTrow y t r hi)

theorem RowSet.loop {u i t c0 N : Nat} {g : Nat → W32 → W32} {w y : Watch} {v : RowView} {body : Watch → Nat → Watch}
    (h : RowSet u i w y v) (writes : WritesColumn u t i c0 g y body) (hi : i < 64) (hN : c0 + N ≤ 64) :
    RowSet u i w ((List.range N).foldl body y) (v.fill t c0 N g) :=
  h.trans (h.row ▸ writes.foldl_range hi hN)

/-- An element as the pending factor of its row leaves it (07 R199). -/
def TileRow.settle (r : TileRow) (int : Bool) (e : W32) : W32 :=
  if r.mark = false then e else if r.pf = 0 then 0 else if int then e else mulF32 e r.pf

theorem settled_eq (u : Nat) (w : Watch) (t i n : Nat) (int : Bool) :
    Spec.settled u w t i n int = (w.trow t i).settle int (w.tile u t i n) := rfl

/-- A row whose pending factor is spent. -/
def RowView.settle (v : RowView) (t : Nat) (int : Bool) : RowView :=
  (v.setTrow t (Spec.unmarked (v.trow t))).fill t 0 64 fun _ e => (v.trow t).settle int e

theorem RowView.fill_self (v : RowView) (t c0 N : Nat) : v.fill t c0 N (fun _ e => e) = v := by
  refine RowView.ext ?_ rfl rfl rfl
  simp only [RowView.fill, ite_self, Function.update_eq_self]

theorem RowView.setTrow_self (v : RowView) (t : Nat) : v.setTrow t (v.trow t) = v := by
  refine RowView.ext rfl ?_ rfl rfl
  simp only [RowView.setTrow, Function.update_eq_self]

theorem unmarked_of_mark {r : TileRow} (h : r.mark = false) : Spec.unmarked r = r := by
  unfold Spec.unmarked
  rw [← h]

/-- A loop over all columns, whose step does not offset them. -/
theorem writesColumn_all {u t i : Nat} {g : Nat → W32 → W32} {w : Watch} {body : Watch → Nat → Watch}
    (h : ∀ z j, z.rows = w.rows → body z j = z.setTile t i j (g j (z.tile u t i j))) : WritesColumn u t i 0 g w body := by
  intro z j hz
  rw [h z j hz, Nat.zero_add]

theorem Watch.settle_of_unmarked {u t i : Nat} {w : Watch} {int : Bool} (h : (w.trow t i).mark = false) : w.settle u t i int = w := by
  simp [Watch.settle, h]

/-- A marked row is settled: its mark goes, and then each element in turn is settled. -/
theorem Watch.settle_of_marked {u t i : Nat} {w : Watch} {int : Bool} (h : (w.trow t i).mark = true) :
    ∃ body l, w.settle u t i int = l.foldl body (w.setTrow t i (Spec.unmarked (w.trow t i))) ∧
      WritesColumn u t i 0 (fun _ e => (w.trow t i).settle int e) (w.setTrow t i (Spec.unmarked (w.trow t i))) body ∧
      (l = List.range 64 ∨ l = [] ∧ ∀ e, (w.trow t i).settle int e = e) := by
  by_cases hpf : (w.trow t i).pf = 0
  · refine ⟨fun w n => w.setTile t i n 0, List.range 64, ?_, writesColumn_all fun z j _ => ?_, .inl rfl⟩
    · simp only [Watch.settle, h, if_pos hpf, Bool.not_true, Bool.false_eq_true, if_false]
      rfl
    · simp only [TileRow.settle, h, hpf, Bool.true_eq_false, if_false, if_true]
  · by_cases hint : int = true
    · refine ⟨fun z n => z.setTile t i n (z.tile u t i n), [], ?_, writesColumn_all fun z j _ => ?_, .inr ⟨rfl, fun e => ?_⟩⟩
      · simp only [Watch.settle, h, hpf, hint, Bool.not_true, Bool.false_eq_true, if_false, if_true]
        rfl
      · simp only [TileRow.settle, h, hpf, hint, Bool.true_eq_false, if_false, if_true]
      · simp only [TileRow.settle, h, hpf, hint, Bool.true_eq_false, if_false, if_true]
    · refine ⟨fun z n => z.setTile t i n (mulF32 (z.tile u t i n) (w.trow t i).pf), List.range 64, ?_,
        writesColumn_all fun z j _ => ?_, .inl rfl⟩
      · simp only [Watch.settle, h, hpf, hint, Bool.not_true, Bool.false_eq_true, if_false]
        rfl
      · simp only [TileRow.settle, h, hpf, hint, Bool.true_eq_false, Bool.false_eq_true, if_false]

theorem rowSet_settle {u i : Nat} (w : Watch) (t : Nat) (int : Bool) (hi : i < 64) :
    RowSet u i w (w.settle u t i int) ((w.rowView u i).settle t int) := by
  by_cases h : (w.trow t i).mark = true
  · obtain ⟨body, l, run, writes, all⟩ := Watch.settle_of_marked (u := u) (int := int) h
    have first := rowSet_setTrow (u := u) w t (Spec.unmarked (w.trow t i)) hi
    rw [run]
    rcases all with rfl | ⟨rfl, same⟩
    · exact first.loop writes hi (by decide)
    · have view : (w.rowView u i).settle t int = (w.rowView u i).setTrow t (Spec.unmarked (w.trow t i)) := by
        simp only [RowView.settle, Watch.rowView_trow, same, RowView.fill_self]
      rw [view]
      exact first
  · rw [Bool.not_eq_true] at h
    have view : (w.rowView u i).settle t int = w.rowView u i := by
      simp only [RowView.settle, Watch.rowView_trow, TileRow.settle, h, if_true, RowView.fill_self, unmarked_of_mark h]
      exact RowView.setTrow_self _ _
    rw [Watch.settle_of_unmarked h, view]
    exact RowSet.refl u i w

/-- The watches that differ from `x` in the tiles and their row state only. -/
def Watch.TilesOf (x y : Watch) : Prop := ∃ tiles rows, y = { x with tiles := tiles, rows := rows }

theorem Watch.TilesOf.refl (x : Watch) : x.TilesOf x := ⟨x.tiles, x.rows, rfl⟩

theorem Watch.TilesOf.trans {x y z : Watch} (h : x.TilesOf y) (g : y.TilesOf z) : x.TilesOf z := by
  obtain ⟨_, _, rfl⟩ := h
  obtain ⟨tiles, rows, rfl⟩ := g
  exact ⟨tiles, rows, rfl⟩

theorem Watch.tilesOf_setTrow (w : Watch) (t i : Nat) (r : TileRow) : w.TilesOf (w.setTrow t i r) := ⟨_, _, rfl⟩

theorem WritesColumn.tilesOf {u t i c0 : Nat} {g : Nat → W32 → W32} {w : Watch} {body : Watch → Nat → Watch}
    (h : WritesColumn u t i c0 g w body) (l : List Nat) : w.TilesOf (l.foldl body w) := by
  obtain ⟨tiles, frame⟩ := h.foldl_frame l
  exact ⟨tiles, w.rows, frame⟩

theorem Watch.tilesOf_settle (u : Nat) (w : Watch) (t i : Nat) (int : Bool) : w.TilesOf (w.settle u t i int) := by
  by_cases h : (w.trow t i).mark = true
  · obtain ⟨body, l, run, writes, -⟩ := Watch.settle_of_marked (u := u) (int := int) h
    rw [run]
    exact (w.tilesOf_setTrow t i _).trans (writes.tilesOf l)
  · rw [Watch.settle_of_unmarked (Bool.not_eq_true _ ▸ h)]
    exact .refl w

/-! ## TCLR, TSCL and MSOFT on a row (07 R211 to R213) -/

/-- An operation on a row that changes the tiles and the row state only, in any watch. -/
theorem RowOp.ofTiles {u : Nat} {f : Watch → Nat → Watch} {F : Nat → RowView → RowView} (x : Watch)
    (keeps : ∀ w i, Watch.TilesOf w (f w i))
    (sets : ∀ w i, i < 64 → RowSet u i w (f w i) (F i (w.rowView u i))) : RowOp u x.TilesOf f F where
  keeps w i h := h.trans (keeps w i)
  sets w i _ := sets w i

theorem rowOp_clearRow (u : Nat) (x : Watch) (o : LaneOps) : RowOp u x.TilesOf (clearRow o) fun _ v =>
    (v.fill o.d.toNat 0 64 fun _ _ => 0).setTrow o.d.toNat (if o.lit.getLsbD 0 then
      { Spec.unmarked (v.trow o.d.toNat) with smax := 0xFF800000, ssum := 0 } else Spec.unmarked (v.trow o.d.toNat)) := by
  have writes (w : Watch) (i : Nat) : WritesColumn u o.d.toNat i 0 (fun _ _ => 0) w fun w n => w.setTile o.d.toNat i n 0 :=
    writesColumn_all fun _ _ _ => rfl
  refine .ofTiles x (fun w i => ((writes w i).tilesOf _).trans (Watch.tilesOf_setTrow ..)) fun w i hi => ?_
  exact ((writes w i).foldl_range (N := 64) hi (by decide)).setTrow hi _ _

/-- A quotient of two FP32 values (07 R213). -/
def divF32 (x y : W32) : W32 := BitVec.ofNat 32 (roundVal .f32 .rne false (divVal (decodeVal .f32 x.toNat) (decodeVal .f32 y.toNat)))

section
variable (u : Nat) (o : LaneOps) (a : Row) (w : Watch) (i : Nat)

theorem scaleTileRow_zero : scaleTileRow u o 0 a w i = (List.range 64).foldl
    (fun z n => z.setTile o.d.toNat i n (mulF32 (z.tile u o.d.toNat i n) (rowAt a i))) (w.settle u o.d.toNat i false) := rfl

theorem scaleTileRow_one : scaleTileRow u o 1 a w i = w.settle u o.d.toNat i false := rfl

theorem scaleTileRow_two : scaleTileRow u o 2 a w i = (List.range 64).foldl
    (fun z n => z.setTile o.d.toNat i n (divF32 (z.tile u o.d.toNat i n) (z.trow o.d.toNat i).ssum)) (w.settle u o.d.toNat i false) := rfl

end

theorem rowOp_tscl (u : Nat) (x : Watch) (o : LaneOps) (a : Row) : RowOp u x.TilesOf (scaleTileRow u o 0 a) fun i v =>
    (v.settle o.d.toNat false).fill o.d.toNat 0 64 fun _ e => mulF32 e (rowAt a i) := by
  have writes (w : Watch) (i : Nat) : WritesColumn u o.d.toNat i 0 (fun _ e => mulF32 e (rowAt a i)) (w.settle u o.d.toNat i false)
      fun z n => z.setTile o.d.toNat i n (mulF32 (z.tile u o.d.toNat i n) (rowAt a i)) := writesColumn_all fun _ _ _ => rfl
  refine .ofTiles x (fun w i => ?_) fun w i hi => ?_
  · rw [scaleTileRow_zero]
    exact (w.tilesOf_settle ..).trans ((writes w i).tilesOf _)
  · rw [scaleTileRow_zero]
    exact (rowSet_settle w _ _ hi).loop (writes w i) hi (by decide)

theorem rowOp_tsclPend (u : Nat) (x : Watch) (o : LaneOps) (a : Row) :
    RowOp u x.TilesOf (scaleTileRow u o 1 a) fun _ v => (v.settle o.d.toNat false).fill o.d.toNat 0 64 fun _ e => e := by
  refine .ofTiles x (fun w i => ?_) fun w i hi => ?_
  · rw [scaleTileRow_one]
    exact w.tilesOf_settle ..
  · rw [scaleTileRow_one, RowView.fill_self]
    exact rowSet_settle w _ _ hi

theorem rowOp_tsclDivl (u : Nat) (x : Watch) (o : LaneOps) (a : Row) : RowOp u x.TilesOf (scaleTileRow u o 2 a) fun _ v =>
    (v.settle o.d.toNat false).fill o.d.toNat 0 64 fun _ e => divF32 e (v.trow o.d.toNat).ssum := by
  have sum (w : Watch) {i : Nat} (hi : i < 64) : ((w.settle u o.d.toNat i false).trow o.d.toNat i).ssum = (w.trow o.d.toNat i).ssum := by
    rw [← Watch.rowView_trow u, (rowSet_settle w _ _ hi).row]
    simp [RowView.settle, RowView.fill, RowView.setTrow, Spec.unmarked]
  have writes (w : Watch) (i : Nat) : WritesColumn u o.d.toNat i 0 (fun _ e => divF32 e ((w.settle u o.d.toNat i false).trow o.d.toNat i).ssum)
      (w.settle u o.d.toNat i false) fun z n => z.setTile o.d.toNat i n (divF32 (z.tile u o.d.toNat i n) (z.trow o.d.toNat i).ssum) :=
    writesColumn_all fun z j hz => by simp only [Watch.trow, hz]
  refine .ofTiles x (fun w i => ?_) fun w i hi => ?_
  · rw [scaleTileRow_two]
    exact (w.tilesOf_settle ..).trans ((writes w i).tilesOf _)
  · rw [scaleTileRow_two, Watch.rowView_trow, ← sum w hi]
    exact (rowSet_settle w _ _ hi).loop (writes w i) hi (by decide)

/-- p, c, mn and ln of MSOFT on a row (07 R211). -/
def RowView.soft (o : LaneOps) (v : RowView) : List W32 × W32 × W32 × W32 :=
  let r := v.trow (o.lit.toNat % 8)
  softRow (if o.lit.getLsbD 3 then 0xFF800000 else r.smax) (if o.lit.getLsbD 3 then 0 else r.ssum)
    ((List.range (o.lit.toNat / 16 % 64 + 1)).map fun j => v.tile o.d.toNat j)

/-- The row state that MSOFT leaves (07 R211). -/
def RowView.softState (o : LaneOps) (v : RowView) : TileRow :=
  let r := v.trow (o.lit.toNat % 8)
  { smax := (v.soft o).2.2.1, ssum := (v.soft o).2.2.2, mark := true
    pf := if r.mark = false then (v.soft o).2.1 else if (v.soft o).2.1 = 0 ∨ r.pf = 0 then 0 else mulF32 r.pf (v.soft o).2.1 }

/-- MSOFT on a row, in the words of its view. -/
theorem softApply_eq (u : Nat) (w : Watch) (o : LaneOps) (i : Nat) : softApply u o w i =
    ((List.range 64).foldl (fun z j => z.setTile o.d.toNat i j (((w.rowView u i).soft o).1[j]?.getD 0)) w).setTrow
      (o.lit.toNat % 8) i ((w.rowView u i).softState o) := by
  have tile_ : (o.lit.extractLsb' 0 3).toNat = o.lit.toNat % 8 := by simp
  have count : (o.lit.extractLsb' 4 6).toNat = o.lit.toNat / 16 % 64 := by simp [Nat.shiftRight_eq_div_pow]
  have elems : (List.range (o.lit.toNat / 16 % 64 + 1)).map (fun j => (w.rowView u i).tile o.d.toNat j) =
      (List.range (o.lit.toNat / 16 % 64 + 1)).map fun j => w.tile u o.d.toNat i j :=
    List.map_congr_left fun j hj => by
      have := List.mem_range.mp hj
      rw [Watch.rowView_tile _ _ (by omega)]
  simp only [softApply, RowView.softState, RowView.soft, tile_, count, elems, Watch.rowView_trow, Bool.not_eq_true']

theorem rowOp_softApply (u : Nat) (x : Watch) (o : LaneOps) : RowOp u x.TilesOf (softApply u o) fun _ v =>
    (v.fill o.d.toNat 0 64 fun j _ => (v.soft o).1[j]?.getD 0).setTrow (o.lit.toNat % 8) (v.softState o) := by
  have writes (w : Watch) (i : Nat) (p : List W32) : WritesColumn u o.d.toNat i 0 (fun j _ => p[j]?.getD 0) w
      fun w j => w.setTile o.d.toNat i j (p[j]?.getD 0) := writesColumn_all fun _ _ _ => rfl
  refine .ofTiles x (fun w i => ?_) fun w i hi => ?_
  · rw [softApply_eq u]
    exact ((writes w i _).tilesOf _).trans (Watch.tilesOf_setTrow ..)
  · rw [softApply_eq u]
    exact ((writes w i _).foldl_range (N := 64) hi (by decide)).setTrow hi _ _

/-! ## TMOV on a row (07 R214) -/

theorem tmTile_eq (lit : W32) : tmTile lit = lit.toNat % 8 := by simp [tmTile]

/-- The element that TMOV.VT moves into a row at place e of its columns (07 R214). -/
def movedIn (o : LaneOps) (rows : List Row) (i e : Nat) : W32 :=
  let per := 32 / tyWidth (tmType o.lit)
  vtElem (tmType o.lit) (elemOf (tmType o.lit) (rowAt (rows[e / per]?.getD zeroRow) i) (e % per))

/-- The watches that differ from `x` in the tiles only. -/
def Watch.ElementsOf (x y : Watch) : Prop := ∃ tiles, y = { x with tiles := tiles }

theorem rowOp_regsToTile (u : Nat) (x : Watch) (o : LaneOps) (rows : List Row) (hc : tmC0 o.lit + tmCount o.lit ≤ 64) :
    RowOp u x.ElementsOf (regsToTile o rows) fun i v => v.fill o.d.toNat (tmC0 o.lit) (tmCount o.lit) fun e _ => movedIn o rows i e := by
  have writes (w : Watch) (i : Nat) : WritesColumn u o.d.toNat i (tmC0 o.lit) (fun e _ => movedIn o rows i e) w
      fun z e => z.setTile o.d.toNat i (tmC0 o.lit + e) (movedIn o rows i e) := fun _ _ _ => rfl
  refine ⟨fun w i => ?_, fun w i _ hi => (writes w i).foldl_range hi hc⟩
  rintro ⟨_, rfl⟩
  obtain ⟨tiles, frame⟩ := (writes _ i).foldl_frame (List.range (tmCount o.lit))
  exact ⟨tiles, frame⟩

/-- The words that TMOV.TV moves out of a row (07 R214). -/
def movedOut (u : Nat) (x : Watch) (o : LaneOps) (i : Nat) : List W32 :=
  if o.lit.getLsbD 23 then [(x.trow (o.lit.toNat % 8) i).smax, (x.trow (o.lit.toNat % 8) i).ssum]
  else packElems (tmType o.lit) ((List.range (tmCount o.lit)).map fun e =>
    tmElem (tmType o.lit) (tmRm o.lit) (tmSat o.lit) (x.tile u (o.lit.toNat % 8) i (tmC0 o.lit + e)))

theorem tileToRegs_eq (u : Nat) (o : LaneOps) (w : Watch) (i : Nat) : tileToRegs u o w i = w.putRun o.d.toNat i (movedOut u w o i) := by
  unfold tileToRegs movedOut
  rw [tmTile_eq]
  split <;> rfl

/-- The watches that differ from `x` in the V registers only. -/
def Watch.RegsOf (x y : Watch) : Prop := ∃ v, y = { x with v := v }

theorem rowOp_tileToRegs (u : Nat) (x : Watch) (o : LaneOps) :
    RowOp u x.RegsOf (tileToRegs u o) fun i v => v.putRun o.d.toNat (movedOut u x o i) where
  keeps w i := by
    rintro ⟨_, rfl⟩
    rw [tileToRegs_eq]
    obtain ⟨v, frame⟩ := Watch.putRun_frame (movedOut u _ o i) _ o.d.toNat i
    exact ⟨v, frame⟩
  sets w i := by
    rintro ⟨_, rfl⟩ hi
    rw [tileToRegs_eq]
    exact rowSet_putRun hi _ _ _

/-! ## TDRN on a row (07 R215) -/

def RowView.drained (o : LaneOps) (f : W32) (v : RowView) (e : Nat) : W32 :=
  if o.lit.getLsbD 28 then mulF32 (v.tile (o.lit.toNat % 8) (tmC0 o.lit + e)) f else v.tile (o.lit.toNat % 8) (tmC0 o.lit + e)

def RowView.drainCode (o : LaneOps) (f : W32) (v : RowView) (e : Nat) : Nat :=
  convElem 0 (tmType o.lit) (if tmRm o.lit = 4 then .sr (stepGen^[e + 1] v.gen).toNat else rmCode (tmRm o.lit) 0)
    (tmSat o.lit) false (v.drained o f e).toNat

theorem drained_eq {u : Nat} {o : LaneOps} {e : Nat} (x : Watch) (a : Row) (i : Nat) (he : tmC0 o.lit + e < 64) :
    Spec.drained u x o a i e = (x.rowView u i).drained o (rowAt a i) e := by
  simp only [Spec.drained, RowView.drained, Watch.rowView_tile _ _ he]

theorem drainCode_eq {u : Nat} {o : LaneOps} {e : Nat} (x : Watch) (a : Row) (i : Nat) (he : tmC0 o.lit + e < 64) :
    Spec.drainCode u x o a i e = (x.rowView u i).drainCode o (rowAt a i) e := by
  rw [Spec.drainCode, drained_eq _ _ _ he]
  rfl

/-- The generator of a lane draws, under SR (05 R151). -/
def drawLane (o : LaneOps) (i : Nat) (w : Watch) : Watch :=
  if tmRm o.lit = 4 then { w with gen := setLane w.gen i (stepGen (rowAt w.gen i)) } else w

/-- What element e of a row leaves in the watch as it is drained: a draw under SR, a zero under CLR. -/
def drainElem (o : LaneOps) (i : Nat) (w : Watch) (e : Nat) : Watch :=
  if o.lit.getLsbD 27 then (drawLane o i w).setTile (o.lit.toNat % 8) i (tmC0 o.lit + e) 0 else drawLane o i w

/-- The generator of a row's lane draws N times, under SR. -/
def RowView.draw (o : LaneOps) (N : Nat) (v : RowView) : RowView :=
  { v with gen := if tmRm o.lit = 4 then stepGen^[N] v.gen else v.gen }

/-- What N elements leave of their row. -/
def RowView.drain (o : LaneOps) (N : Nat) (v : RowView) : RowView :=
  if o.lit.getLsbD 27 then (v.draw o N).fill (o.lit.toNat % 8) (tmC0 o.lit) N fun _ _ => 0 else v.draw o N

theorem RowView.draw_zero (o : LaneOps) (v : RowView) : v.draw o 0 = v := by
  simp only [RowView.draw, Function.iterate_zero, id, ite_self]

theorem RowView.draw_one_draw (o : LaneOps) (N : Nat) (v : RowView) : (v.draw o N).draw o 1 = v.draw o (N + 1) := by
  refine RowView.ext rfl rfl rfl ?_
  simp only [RowView.draw, Function.iterate_succ_apply', Function.iterate_zero, id]
  split <;> rfl

theorem RowView.drain_zero (o : LaneOps) (v : RowView) : v.drain o 0 = v := by
  simp only [RowView.drain, RowView.fill_zero, RowView.draw_zero, ite_self]

/-- One more element. -/
theorem RowView.drain_succ (o : LaneOps) (N : Nat) (v : RowView) :
    (if o.lit.getLsbD 27 then ((v.drain o N).draw o 1).setTile (o.lit.toNat % 8) (tmC0 o.lit + N) 0 else (v.drain o N).draw o 1) =
      v.drain o (N + 1) := by
  unfold RowView.drain
  split
  · rw [← RowView.draw_one_draw o N, ← RowView.setTile_fill]
    rfl
  · exact RowView.draw_one_draw o N v

theorem RowView.drain_tile (o : LaneOps) (N : Nat) (v : RowView) (T n : Nat) : (v.drain o N).tile T n =
    if o.lit.getLsbD 27 = true ∧ T = o.lit.toNat % 8 ∧ tmC0 o.lit ≤ n ∧ n < tmC0 o.lit + N then 0 else v.tile T n := by
  by_cases hT : T = o.lit.toNat % 8 <;> unfold RowView.drain <;> split <;> simp_all [RowView.fill, RowView.draw]

theorem RowView.drain_reg (o : LaneOps) (N : Nat) (v : RowView) : (v.drain o N).reg = v.reg := by
  unfold RowView.drain
  split <;> rfl

theorem RowView.drain_gen (o : LaneOps) (N : Nat) (v : RowView) :
    (v.drain o N).gen = if tmRm o.lit = 4 then stepGen^[N] v.gen else v.gen := by
  unfold RowView.drain
  split <;> rfl

theorem rowSet_drawLane {u i : Nat} (o : LaneOps) (w : Watch) (hi : i < 64) :
    RowSet u i w (drawLane o i w) ((w.rowView u i).draw o 1) := by
  by_cases h : tmRm o.lit = 4
  · have view : (w.rowView u i).draw o 1 = { w.rowView u i with gen := stepGen (rowAt w.gen i) } := by
      simp only [RowView.draw, if_pos h]
      rfl
    rw [drawLane, if_pos h, view]
    exact rowSet_gen w _ hi
  · have view : (w.rowView u i).draw o 1 = w.rowView u i := by
      simp only [RowView.draw, if_neg h]
    rw [drawLane, if_neg h, view]
    exact RowSet.refl u i w

theorem rowSet_drainElem {u i e : Nat} (o : LaneOps) (w : Watch) (hi : i < 64) (he : tmC0 o.lit + e < 64) :
    RowSet u i w (drainElem o i w e) (if o.lit.getLsbD 27 then ((w.rowView u i).draw o 1).setTile (o.lit.toNat % 8) (tmC0 o.lit + e) 0
      else (w.rowView u i).draw o 1) := by
  have draw := rowSet_drawLane (u := u) o w hi
  unfold drainElem
  split
  · exact draw.trans (draw.row ▸ rowSet_setTile _ _ 0 hi he)
  · exact draw

theorem rowSet_drainElems {u i : Nat} (o : LaneOps) (w : Watch) (hi : i < 64) {N : Nat} (hN : tmC0 o.lit + N ≤ 64) :
    RowSet u i w ((List.range N).foldl (drainElem o i) w) ((w.rowView u i).drain o N) := by
  induction N with
  | zero =>
    rw [RowView.drain_zero]
    exact RowSet.refl u i w
  | succ N ih =>
    have done := ih (by omega)
    rw [List.range_succ, List.foldl_append, List.foldl_cons, List.foldl_nil]
    have next := rowSet_drainElem (u := u) (e := N) o ((List.range N).foldl (drainElem o i) w) hi (by omega)
    rw [done.row, RowView.drain_succ] at next
    exact done.trans next

theorem drainElem_frame (o : LaneOps) (i : Nat) (w : Watch) (e : Nat) :
    ∃ gen tiles, drainElem o i w e = { w with gen := gen, tiles := tiles } := by
  unfold drainElem drawLane
  split <;> split <;> exact ⟨_, _, rfl⟩

/-- The step of the model's loop over the elements of a row. -/
def drainStep (u : Nat) (o : LaneOps) (a : Row) (i : Nat) (st : Watch × W32 × List Nat) (e : Nat) : Watch × W32 × List Nat :=
  (drainElem o i st.1 e, amaxCode st.2.1 (Spec.drained u st.1 o a i e),
    st.2.2 ++ [convElem 0 (tmType o.lit) (rmCode (tmRm o.lit) (stepGen (rowAt st.1.gen i))) (tmSat o.lit) false
      (Spec.drained u st.1 o a i e).toNat])

theorem drainRow_eq (u : Nat) (o : LaneOps) (a : Row) (w : Watch) (m : W32) (i : Nat) : drainRow u o a (w, m) i =
    let r := (List.range (tmCount o.lit)).foldl (drainStep u o a i) (w, m, [])
    (r.1.putRun o.d.toNat i (packElems (tmType o.lit) r.2.2), r.2.1) := by
  have step : drainStep u o a i = fun (w, m, l) e =>
      let x := w.tile u (tmTile o.lit) i (tmC0 o.lit + e)
      let x := if o.lit.getLsbD 28 then mulF32 x (rowAt a i) else x
      let g := stepGen (rowAt w.gen i)
      let c := convElem 0 (tmType o.lit) (rmCode (tmRm o.lit) g) (tmSat o.lit) false x.toNat
      let w := if tmRm o.lit == 4 then { w with gen := setLane w.gen i g } else w
      let w := if o.lit.getLsbD 27 then w.setTile (tmTile o.lit) i (tmC0 o.lit + e) 0 else w
      (w, amaxCode m x, l ++ [c]) := by
    funext ⟨w, m, l⟩ e
    simp only [drainStep, drainElem, drawLane, Spec.drained, tmTile_eq, beq_iff_eq]
  rw [step]
  rfl

/-- A rounding mode other than SR draws nothing. -/
theorem rmCode_of_lt {rm : Nat} (h : rm < 4) (g g' : W32) : rmCode rm g = rmCode rm g' := by
  interval_cases rm <;> rfl

/-- What the loop of TDRN has reached after N elements of a row: the watch, the largest magnitude and the codes. -/
theorem foldl_drainStep {u i : Nat} {o : LaneOps} (a : Row) (w : Watch) (m : W32) (hi : i < 64) (hrm : tmRm o.lit ≤ 4) {N : Nat}
    (hN : tmC0 o.lit + N ≤ 64) : (List.range N).foldl (drainStep u o a i) (w, m, []) =
      ((List.range N).foldl (drainElem o i) w, ((List.range N).map (Spec.drained u w o a i)).foldl amaxCode m,
        (List.range N).map (Spec.drainCode u w o a i)) := by
  induction N with
  | zero => rfl
  | succ N ih =>
    have hn : tmC0 o.lit + N < 64 := by omega
    have reached := rowSet_drainElems (u := u) o w hi (N := N) (by omega)
    have elem : Spec.drained u ((List.range N).foldl (drainElem o i) w) o a i N = Spec.drained u w o a i N := by
      have same : ((w.rowView u i).drain o N).tile (o.lit.toNat % 8) (tmC0 o.lit + N) =
          (w.rowView u i).tile (o.lit.toNat % 8) (tmC0 o.lit + N) := by
        rw [RowView.drain_tile, if_neg (by omega)]
      rw [drained_eq _ _ _ hn, drained_eq _ _ _ hn, reached.row, RowView.drained, same]
      rfl
    have code : rmCode (tmRm o.lit) (stepGen (rowAt ((List.range N).foldl (drainElem o i) w).gen i)) =
        if tmRm o.lit = 4 then .sr (stepGen^[N + 1] (rowAt w.gen i)).toNat else rmCode (tmRm o.lit) 0 := by
      rw [← Watch.rowView_gen u, reached.row, RowView.drain_gen, Watch.rowView_gen]
      split
      · next sr => rw [sr, Function.iterate_succ_apply']; rfl
      · next det => exact rmCode_of_lt (by omega) _ _
    simp only [List.range_succ, List.foldl_append, List.foldl_cons, List.foldl_nil, List.map_append, List.map_cons, List.map_nil,
      ih (by omega), drainStep, elem, code]
    rfl

/-- A row is drained: its elements, and the registers that take their codes (07 R215). -/
def drainWatch (u : Nat) (o : LaneOps) (a : Row) (w : Watch) (i : Nat) : Watch :=
  ((List.range (tmCount o.lit)).foldl (drainElem o i) w).putRun o.d.toNat i
    (packElems (tmType o.lit) ((List.range (tmCount o.lit)).map (Spec.drainCode u w o a i)))

/-- The watches that differ from `x` in the V registers, the generators and the tiles only. -/
def Watch.DrainOf (x y : Watch) : Prop := ∃ v gen tiles, y = { x with v := v, gen := gen, tiles := tiles }

section
variable {u : Nat} {o : LaneOps} (a : Row) (hc : tmC0 o.lit + tmCount o.lit ≤ 64)
include hc

theorem rowOp_drainWatch (x : Watch) : RowOp u x.DrainOf (drainWatch u o a) fun i v => (v.drain o (tmCount o.lit)).putRun o.d.toNat
    (packElems (tmType o.lit) ((List.range (tmCount o.lit)).map (v.drainCode o (rowAt a i)))) where
  keeps w i h := by
    have elems : x.DrainOf ((List.range (tmCount o.lit)).foldl (drainElem o i) w) := foldl_keeps x.DrainOf h fun z e => by
      rintro ⟨v, _, _, rfl⟩
      obtain ⟨gen, tiles, frame⟩ := drainElem_frame o i _ e
      exact ⟨v, gen, tiles, frame⟩
    obtain ⟨_, gen, tiles, frame⟩ := elems
    obtain ⟨v, run⟩ := Watch.putRun_frame (packElems (tmType o.lit) ((List.range (tmCount o.lit)).map (Spec.drainCode u w o a i))) _ o.d.toNat i
    exact ⟨v, gen, tiles, by rw [drainWatch, frame]; exact run⟩
  sets w i _ hi := by
    have elems := rowSet_drainElems (u := u) o w hi hc
    have codes : (List.range (tmCount o.lit)).map (Spec.drainCode u w o a i) =
        (List.range (tmCount o.lit)).map ((w.rowView u i).drainCode o (rowAt a i)) :=
      List.map_congr_left fun e he => drainCode_eq w a i (by have := List.mem_range.mp he; omega)
    rw [drainWatch, codes]
    exact elems.trans (elems.row ▸ rowSet_putRun hi _ _ _)

theorem drainRow_of_lt (hrm : tmRm o.lit ≤ 4) {i : Nat} (hi : i < 64) (w : Watch) (m : W32) : drainRow u o a (w, m) i =
    (drainWatch u o a w i, ((List.range (tmCount o.lit)).map (Spec.drained u w o a i)).foldl amaxCode m) := by
  rw [drainRow_eq, foldl_drainStep a w m hi hrm hc]
  rfl

/-- The rows are drained one after another; the largest magnitude goes through their elements as they were before. -/
theorem foldl_drainRow (hrm : tmRm o.lit ≤ 4) {l : List Nat} (hl : l.Nodup) (hb : ∀ i ∈ l, i < 64) (w : Watch) (m : W32) :
    l.foldl (drainRow u o a) (w, m) = (l.foldl (drainWatch u o a) w,
      (l.flatMap fun i => (List.range (tmCount o.lit)).map fun e => Spec.drained u w o a i e).foldl amaxCode m) := by
  induction l generalizing w m with
  | nil => rfl
  | cons k l ih =>
    obtain ⟨hk, hl⟩ := List.nodup_cons.mp hl
    have hk64 := hb k List.mem_cons_self
    have hb' : ∀ i ∈ l, i < 64 := fun i hi => hb i (List.mem_cons_of_mem _ hi)
    have row := (rowOp_drainWatch (u := u) a hc w).sets w k ⟨w.v, w.gen, w.tiles, rfl⟩ hk64
    have others : (l.flatMap fun i => (List.range (tmCount o.lit)).map fun e => Spec.drained u (drainWatch u o a w k) o a i e) =
        l.flatMap fun i => (List.range (tmCount o.lit)).map fun e => Spec.drained u w o a i e :=
      List.flatMap_congr fun i hi => List.map_congr_left fun e he => by
        have hn : tmC0 o.lit + e < 64 := by have := List.mem_range.mp he; omega
        have hik : i ≠ k := fun h => hk (h ▸ hi)
        rw [drained_eq _ _ _ hn, drained_eq _ _ _ hn, row.others i (hb' i hi) hik]
    rw [List.foldl_cons, drainRow_of_lt a hc hrm hk64, ih hl hb', others, List.flatMap_cons, List.foldl_append]
    rfl

end

/-! ## MMA on a row (07 R210) -/

/-- The bytes of the block of weights that a row of an MMA reads (07 R204, R210). -/
def State.mmaByte (s : State) (ctx core : Nat) (lit : W32) (hi : Bool) (off : Nat) : Nat :=
  s.wbyte ctx core (if hi then 1 else 0) (256 * mmaOff lit hi + off)

/-- A row of the tile once an MMA is performed on it (07 R210). -/
def RowView.mma (s : State) (ctx core : Nat) (o : LaneOps) (m : MatOp) (i : Nat) (v : RowView) : RowView :=
  (v.settle o.d.toNat (shapeA m.shape == 8)).fill o.d.toNat (mmaNpos o.lit * shapeN m.shape) (shapeN m.shape) fun j e =>
    mmaElem (operandA m i) (operandB m.shape (s.mmaByte ctx core o.lit (decide (m.rbnd ≤ i))) j) (shapeK m.shape) (if mmaZ o.lit then 0 else e)

section
variable (s : State) (u : Nat) (o : LaneOps) (m : MatOp) (w : Watch) (i : Nat)

/-- The step of an MMA's loop over the columns of a row. -/
theorem mmaRow_eq : ∃ body, s.mmaRow u o m w i = (List.range (shapeN m.shape)).foldl body (w.settle u o.d.toNat i (shapeA m.shape == 8)) ∧
    WritesColumn u o.d.toNat i (mmaNpos o.lit * shapeN m.shape) (fun j e => mmaElem (operandA m i)
      (operandB m.shape (s.mmaByte w.ctx w.core o.lit (decide (m.rbnd ≤ i))) j) (shapeK m.shape) (if mmaZ o.lit then 0 else e))
      (w.settle u o.d.toNat i (shapeA m.shape == 8)) body :=
  ⟨_, rfl, fun _ _ _ => rfl⟩

theorem tilesOf_mmaRow : w.TilesOf (s.mmaRow u o m w i) := by
  obtain ⟨body, run, writes⟩ := mmaRow_eq s u o m w i
  rw [run]
  exact (w.tilesOf_settle ..).trans (writes.tilesOf _)

end

theorem rowOp_mmaRow (s : State) (u : Nat) (x : Watch) (o : LaneOps) (m : MatOp) (hn : (mmaNpos o.lit + 1) * shapeN m.shape ≤ 64) :
    RowOp u x.TilesOf (s.mmaRow u o m) (RowView.mma s x.ctx x.core o m) where
  keeps w i h := h.trans (tilesOf_mmaRow ..)
  sets w i := by
    rintro ⟨_, _, rfl⟩ hi
    obtain ⟨body, run, writes⟩ := mmaRow_eq s u o m _ i
    rw [run]
    exact (rowSet_settle _ _ _ hi).loop writes hi (by rwa [← Nat.succ_mul])

/-! ## Reading a changed row -/

section
variable (v : RowView) {t T : Nat}

@[simp] theorem RowView.fill_trow (t c0 N : Nat) (g : Nat → W32 → W32) : (v.fill t c0 N g).trow = v.trow := rfl
@[simp] theorem RowView.putRun_tile (k : Nat) (l : List W32) : (v.putRun k l).tile = v.tile := rfl
@[simp] theorem RowView.setTrow_tile (t : Nat) (r : TileRow) : (v.setTrow t r).tile = v.tile := rfl
@[simp] theorem RowView.setTrow_trow_same (t : Nat) (r : TileRow) : (v.setTrow t r).trow t = r := Function.update_self ..

theorem RowView.fill_tile_same (t c0 N : Nat) (g : Nat → W32 → W32) (n : Nat) :
    (v.fill t c0 N g).tile t n = if c0 ≤ n ∧ n < c0 + N then g (n - c0) (v.tile t n) else v.tile t n := by
  simp [RowView.fill]

theorem RowView.fill_tile_all (t : Nat) (g : Nat → W32 → W32) {n : Nat} (hn : n < 64) : (v.fill t 0 64 g).tile t n = g n (v.tile t n) := by
  rw [RowView.fill_tile_same, if_pos (by omega), Nat.sub_zero]

theorem RowView.fill_tile_other (h : T ≠ t) (c0 N : Nat) (g : Nat → W32 → W32) : (v.fill t c0 N g).tile T = v.tile T :=
  Function.update_of_ne h ..

theorem RowView.setTrow_trow_other (h : T ≠ t) (r : TileRow) : (v.setTrow t r).trow T = v.trow T := Function.update_of_ne h ..

theorem RowView.settle_tile_same (t : Nat) (int : Bool) {n : Nat} (hn : n < 64) :
    (v.settle t int).tile t n = (v.trow t).settle int (v.tile t n) := RowView.fill_tile_all _ t _ hn

theorem RowView.settle_tile_other (h : T ≠ t) (int : Bool) : (v.settle t int).tile T = v.tile T := RowView.fill_tile_other _ h ..

@[simp] theorem RowView.settle_trow_same (t : Nat) (int : Bool) : (v.settle t int).trow t = Spec.unmarked (v.trow t) :=
  RowView.setTrow_trow_same ..

theorem RowView.settle_trow_other (h : T ≠ t) (int : Bool) : (v.settle t int).trow T = v.trow T := RowView.setTrow_trow_other _ h _

end

/-- The settled element of a watch's row. -/
theorem settle_rowView (u : Nat) (x : Watch) (t i : Nat) (int : Bool) {n : Nat} (hn : n < 64) :
    ((x.rowView u i).settle t int).tile t n = Spec.settled u x t i n int := by
  rw [RowView.settle_tile_same _ _ _ hn, Watch.rowView_tile _ _ hn, settled_eq, Watch.rowView_trow]

/-- MSOFT on a row, in the words of the statement. -/
theorem soft_rowView (u : Nat) (x : Watch) (o : LaneOps) (i : Nat) : (x.rowView u i).soft o =
    softRow (if o.lit.getLsbD 3 then 0xFF800000 else (x.trow (o.lit.toNat % 8) i).smax)
      (if o.lit.getLsbD 3 then 0 else (x.trow (o.lit.toNat % 8) i).ssum)
      ((List.range (o.lit.toNat / 16 % 64 + 1)).map fun j => x.tile u o.d.toNat i j) := by
  have elems : (List.range (o.lit.toNat / 16 % 64 + 1)).map (fun j => (x.rowView u i).tile o.d.toNat j) =
      (List.range (o.lit.toNat / 16 % 64 + 1)).map fun j => x.tile u o.d.toNat i j :=
    List.map_congr_left fun j hj => by
      have := List.mem_range.mp hj
      rw [Watch.rowView_tile _ _ (by omega)]
  simp only [RowView.soft, elems, Watch.rowView_trow]

section
variable {u : Nat} {x y : Watch} {on : Nat → Prop} [DecidablePred on] {o : LaneOps}

/-- The rows that TCLR has cleared (07 R212). -/
theorem RowsBecome.cleared {d : Nat} {r : TileRow → TileRow}
    (h : RowsBecome u x y on fun _ v => (v.fill d 0 64 fun _ _ => 0).setTrow d (r (v.trow d))) :
    Spec.TileIs u x y d on (fun _ _ => 0) ∧ Spec.RowsAre x y d on fun i => r (x.trow d i) := by
  refine ⟨h.tileIs (fun i n hn => ?_) fun i T hT => ?_, h.rowsAre (fun i => RowView.setTrow_trow_same ..) fun i T hT => ?_⟩
  · rw [RowView.setTrow_tile, RowView.fill_tile_all _ _ _ hn]
  · rw [RowView.setTrow_tile, RowView.fill_tile_other _ hT]
  · exact RowView.setTrow_trow_other _ hT _

/-- The rows that TSCL has settled and scaled by `g` (07 R213). -/
theorem RowsBecome.scaled {d : Nat} {g : Nat → TileRow → W32 → W32}
    (h : RowsBecome u x y on fun i v => (v.settle d false).fill d 0 64 fun _ e => g i (v.trow d) e) :
    Spec.RowsAre x y d on (fun i => Spec.unmarked (x.trow d i)) ∧
      Spec.TileIs u x y d on fun i n => g i (x.trow d i) (Spec.settled u x d i n false) := by
  refine ⟨h.rowsAre (fun i => ?_) fun i T hT => ?_, h.tileIs (fun i n hn => ?_) fun i T hT => ?_⟩
  · rw [RowView.fill_trow, RowView.settle_trow_same, Watch.rowView_trow]
  · rw [RowView.fill_trow, RowView.settle_trow_other _ hT, Watch.rowView_trow]
  · rw [RowView.fill_tile_all _ _ _ hn, settle_rowView _ _ _ _ _ hn, Watch.rowView_trow]
  · rw [RowView.fill_tile_other _ hT, RowView.settle_tile_other _ hT]

/-- The rows that MSOFT has gone through (07 R211). -/
theorem RowsBecome.softened (h : RowsBecome u x y on fun _ v =>
    (v.fill o.d.toNat 0 64 fun j _ => (v.soft o).1[j]?.getD 0).setTrow (o.lit.toNat % 8) (v.softState o)) :
    Spec.TileIs u x y o.d.toNat on (fun i n => ((x.rowView u i).soft o).1[n]?.getD 0) ∧
      Spec.RowsAre x y (o.lit.toNat % 8) on fun i => (x.rowView u i).softState o := by
  refine ⟨h.tileIs (fun i n hn => ?_) fun i T hT => ?_, h.rowsAre (fun i => RowView.setTrow_trow_same ..) fun i T hT => ?_⟩
  · rw [RowView.setTrow_tile, RowView.fill_tile_all _ _ _ hn]
  · rw [RowView.setTrow_tile, RowView.fill_tile_other _ hT]
  · exact RowView.setTrow_trow_other _ hT _

/-- The rows that elements have entered from registers (07 R214). -/
theorem RowsBecome.filled {d c0 N : Nat} {g : Nat → Nat → W32} (h : RowsBecome u x y on fun i v => v.fill d c0 N fun e _ => g i e) :
    Spec.TileIs u x y d on fun i n => if c0 ≤ n ∧ n < c0 + N then g i (n - c0) else x.tile u d i n := by
  refine h.tileIs (fun i n hn => ?_) fun i T hT => RowView.fill_tile_other _ hT ..
  rw [RowView.fill_tile_same, Watch.rowView_tile _ _ hn]

/-- The rows that TDRN has drained (07 R215). -/
theorem RowsBecome.drained {a : Row} (hc : tmC0 o.lit + tmCount o.lit ≤ 64) (h : RowsBecome u x y on fun i v =>
    (v.drain o (tmCount o.lit)).putRun o.d.toNat (packElems (tmType o.lit) ((List.range (tmCount o.lit)).map (v.drainCode o (rowAt a i))))) :
    (Spec.RunIs x y o.d.toNat on fun i => packElems (tmType o.lit) ((List.range (tmCount o.lit)).map (Spec.drainCode u x o a i))) ∧
      (Spec.TileIs u x y (o.lit.toNat % 8) on fun i n =>
        if o.lit.getLsbD 27 = true ∧ tmC0 o.lit ≤ n ∧ n < tmC0 o.lit + tmCount o.lit then 0 else x.tile u (o.lit.toNat % 8) i n) ∧
      ∀ i, i < 64 → rowAt y.gen i = if on i ∧ tmRm o.lit = 4 then stepGen^[tmCount o.lit] (rowAt x.gen i) else rowAt x.gen i := by
  refine ⟨h.runIs fun i => ?_, h.tileIs (fun i n hn => ?_) fun i T hT => funext fun n => ?_, fun i hi => ?_⟩
  · have codes : (List.range (tmCount o.lit)).map (Spec.drainCode u x o a i) =
        (List.range (tmCount o.lit)).map ((x.rowView u i).drainCode o (rowAt a i)) :=
      List.map_congr_left fun e he => drainCode_eq x a i (by have := List.mem_range.mp he; omega)
    simp only [codes, RowView.putRun, RowView.drain_reg]
  · simp only [RowView.putRun_tile, RowView.drain_tile, true_and, Watch.rowView_tile _ _ hn]
  · exact (RowView.drain_tile ..).trans (if_neg fun g => hT g.2.1)
  · have gen : ((x.rowView u i).drain o (tmCount o.lit)).gen = _ := RowView.drain_gen ..
    rw [h.gen i hi, ite_and]
    exact congrArg (fun g => if on i then g else rowAt x.gen i) gen

end

/-! ## MATRIX_PERFORM (07 R207) -/

theorem State.watchIs_putWatch (s : State) (u : Nat) (y : Watch) : Spec.WatchIs s (s.putWatch u y) u y :=
  ⟨Tbl.find_put_same .., fun _ hn => Tbl.find_put_other _ _ hn⟩

section
variable {s : State} {u : Nat} {x : Watch} {m : MatOp} (hx : Tbl.find s.watches u = some x) (hm : x.mat = some m)
  (h : isMma m.instr = false)
include hx hm h

theorem exec_matrixPerform : exec (.matrixPerform u) s = .next (s.performOther u) := by
  have run : exec (.matrixPerform u) s = execMatrixPerform u s := rfl
  rw [run, execMatrixPerform, State.watch_of_find hx]
  simp only [hm, h, Bool.false_eq_true, if_false]

/-- What an instruction that leaves the watch `y` does. -/
theorem performs {y : Watch} (run : s.performOther u = s.putWatch u y)
    (frame : y = { x with v := y.v, gen := y.gen, tiles := y.tiles, rows := y.rows, mat := none, ops := y.ops, chain := y.chain })
    {P : Watch → Prop} (p : P y) : ∃ t y, exec (.matrixPerform u) s = .next t ∧ t.mem = s.mem ∧ Spec.WatchIs s t u y ∧
      y = { x with v := y.v, gen := y.gen, tiles := y.tiles, rows := y.rows, mat := none, ops := y.ops, chain := y.chain } ∧ P y :=
  ⟨s.putWatch u y, y, run ▸ exec_matrixPerform hx hm h, rfl, s.watchIs_putWatch u y, frame, p⟩

/-- An instruction that goes through the rows of its mask and changes the tiles and their row state. -/
theorem performs_tiles {f : Watch → Nat → Watch} {F : Nat → RowView → RowView} (op : RowOp u x.TilesOf f F)
    (run : s.performOther u = s.putWatch u { (lanesOf m.mask).foldl f x with mat := none }) {P : Watch → Prop}
    (p : ∀ y, RowsBecome u x y (fun i => m.mask.getLsbD i = true) F → P y) :
    ∃ t y, exec (.matrixPerform u) s = .next t ∧ t.mem = s.mem ∧ Spec.WatchIs s t u y ∧
      y = { x with v := y.v, gen := y.gen, tiles := y.tiles, rows := y.rows, mat := none, ops := y.ops, chain := y.chain } ∧
      (y.v = x.v ∧ y.gen = x.gen ∧ y.ops = x.ops ∧ y.chain = x.chain) ∧ P y := by
  obtain ⟨⟨tiles, rows, frame⟩, become⟩ := op.foldl_lanesOf m.mask (.refl x)
  rw [frame] at run become
  exact performs hx hm h run rfl ⟨⟨rfl, rfl, rfl, rfl⟩, p _ become⟩

end

/-- What TDRN leaves of a watch whose rows are drained: the draws in a chain in progress, and the operand of its atomic (07 R215, 03 R86). -/
def Watch.afterDrain (w : Watch) (acc : Option Acc) (mx : W32) : Watch :=
  { w with
    mat := none
    chain := w.chain.map fun c => { c with gen := w.gen }
    ops := w.ops.map fun p => if p.kind = .tdrn ∧ acc.any (fun b => b.count == p.id) = true then
      { p with accs := p.accs.map fun b => { b with data := mx.toNat } } else p }

theorem performOther_tdrn {s : State} {u : Nat} {x : Watch} {o : LaneOps} {m : MatOp} {w : Watch} {mx : W32}
    (hx : Tbl.find s.watches u = some x) (hm : x.mat = some m) (hi : m.instr = .tdrn o)
    (run : (lanesOf m.mask).foldl (drainRow u o (m.rowsA[0]?.getD zeroRow)) (x, 0) = (w, mx)) :
    s.performOther u = s.putWatch u (w.afterDrain m.acc mx) := by
  have ops : matOps (.tdrn o) = o := rfl
  simp only [State.performOther, State.watch_of_find hx, hm, hi, ops, run, Watch.afterDrain]
  cases m.acc with
  | none => simp
  | some acc => simp only [Option.any_some, Bool.and_eq_true, beq_iff_eq, @eq_comm _ acc.count]

/-! ## The first elements of a list that do not repeat (07 R208) -/

/-- `x`, and the others among the first 8 of a list, at most 7 of them. -/
def headAndSeven {α : Type} [BEq α] (x : α) (L : List α) : List α := x :: ((L.take 8).filter (· != x)).take 7

section
variable {α : Type} [BEq α] {x : α} {L : List α}

theorem headAndSeven_length : (headAndSeven x L).length ≤ 8 := by
  simp only [headAndSeven, List.length_cons, List.length_take]
  omega

theorem headAndSeven_subset (hx : x ∈ L) : ∀ p ∈ headAndSeven x L, p ∈ L := by
  intro p hp
  rcases List.mem_cons.mp hp with rfl | hp
  · exact hx
  · exact List.mem_of_mem_take (List.mem_of_mem_filter (List.mem_of_mem_take hp))

variable [LawfulBEq α]

/-- The others among the first 8 are the first others. -/
theorem headAndSeven_eq (hL : L.Nodup) : headAndSeven x L = x :: (L.filter (· != x)).take 7 := by
  have split : L.filter (· != x) = (L.take 8).filter (· != x) ++ (L.drop 8).filter (· != x) := by
    rw [← List.filter_append, List.take_append_drop]
  have enough : 7 ≤ ((L.take 8).filter (· != x)).length ∨ L.drop 8 = [] := by
    by_cases h : 8 ≤ L.length
    · left
      have len : (L.take 8).length - 1 ≤ ((L.take 8).erase x).length := List.le_length_erase
      rw [(hL.sublist (List.take_sublist 8 L)).erase_eq_filter, List.length_take] at len
      omega
    · right
      exact List.drop_eq_nil_of_le (by omega)
  rw [headAndSeven, split]
  rcases enough with h | h
  · rw [List.take_append_of_le_length h]
  · rw [h, List.filter_nil, List.append_nil]

theorem headAndSeven_nodup (hL : L.Nodup) : (headAndSeven x L).Nodup := by
  refine List.nodup_cons.mpr ⟨fun h => ?_, ?_⟩
  · have := List.of_mem_filter (List.mem_of_mem_take h)
    simp at this
  · exact ((hL.sublist (List.take_sublist 8 L)).filter _).sublist (List.take_sublist ..)

/-- An element that is left out comes after all the others that are taken, and these are 8. -/
theorem headAndSeven_left_out {R : α → α → Prop} (hL : L.Pairwise R) (irrefl : ∀ a, ¬R a a) {p : α} (hp : p ∈ L)
    (hout : p ∉ headAndSeven x L) :
    (headAndSeven x L).length = 8 ∧ ∀ q ∈ headAndSeven x L, q = x ∨ R q p := by
  have nodup : L.Nodup := hL.imp (S := (· ≠ ·)) fun {a b} hab e => by
    subst e
    exact irrefl a hab
  rw [headAndSeven_eq nodup] at hout ⊢
  rw [List.mem_cons, not_or] at hout
  obtain ⟨hpx, htake⟩ := hout
  have mem : p ∈ L.filter (· != x) := List.mem_filter.mpr ⟨hp, by simpa using hpx⟩
  have hdrop : p ∈ (L.filter (· != x)).drop 7 := by
    rw [← List.take_append_drop 7 (L.filter (· != x))] at mem
    exact (List.mem_append.mp mem).resolve_left htake
  have long : 7 < (L.filter (· != x)).length := by
    have := List.length_pos_of_mem hdrop
    rw [List.length_drop] at this
    omega
  have order := hL.filter (· != x)
  rw [← List.take_append_drop 7 (L.filter (· != x)), List.pairwise_append] at order
  refine ⟨by rw [List.length_cons, List.length_take]; omega, fun q hq => ?_⟩
  rcases List.mem_cons.mp hq with rfl | hq
  · exact .inl rfl
  · exact .inr (order.2.2 q hq p hdrop)

end

/-! ## The queue of a core's array (07 R208) -/

/-- An entry of the queue as it is collected: number, slot and instruction. -/
def queueEntry (core : Nat) (x : Nat × Watch) : Option (Nat × Nat × MatOp) :=
  match x.2.mat with
  | some m => if x.2.core = core ∧ isMma m.instr then some (x.1, x.2.slot, m) else none
  | none => none

theorem queueEntry_eq_some {core : Nat} {x : Nat × Watch} {e : Nat × Nat × MatOp} : queueEntry core x = some e ↔
    x.2.mat = some e.2.2 ∧ x.2.core = core ∧ isMma e.2.2.instr = true ∧ x.1 = e.1 ∧ x.2.slot = e.2.1 := by
  obtain ⟨n, slot, m⟩ := e
  unfold queueEntry
  cases hm : x.2.mat with
  | none => simp
  | some k =>
    by_cases h : x.2.core = core ∧ isMma k.instr = true
    · simp only [h, if_true, Option.some.injEq, Prod.mk.injEq, and_self, true_and]
      constructor
      · rintro ⟨h1, h2, rfl⟩
        exact ⟨rfl, h.2, h1, h2⟩
      · rintro ⟨rfl, -, h1, h2⟩
        exact ⟨h1, h2, rfl⟩
    · simp only [h, if_false, Option.some.injEq, reduceCtorEq, false_iff]
      rintro ⟨rfl, h1, h2, -⟩
      exact h ⟨h1, h2⟩

theorem State.queued_eq (s : State) (core first : Nat) : s.queued core first = (List.range 32).flatMap fun i =>
    ((s.watches.filterMap (queueEntry core)).filter fun x => x.2.1 == (first + i) % 32).map fun x => (x.1, x.2.2) := rfl

theorem State.mem_queued {s : State} {core first n : Nat} {m : MatOp} : (n, m) ∈ s.queued core first ↔
    ∃ x, (n, x) ∈ s.watches ∧ x.mat = some m ∧ x.core = core ∧ isMma m.instr = true ∧ x.slot < 32 := by
  simp only [State.queued_eq, List.mem_flatMap, List.mem_map, List.mem_filter, List.mem_filterMap, queueEntry_eq_some, List.mem_range, beq_iff_eq]
  constructor
  · rintro ⟨i, hi, ⟨n', slot, m'⟩, ⟨⟨⟨n'', x⟩, hx, h1, h2, h3, h4, h5⟩, h6⟩, h7⟩
    obtain ⟨rfl, rfl⟩ := Prod.mk.inj h7
    obtain rfl : n'' = n' := h4
    have hs : x.slot = slot := h5
    have h6 : slot = (first + i) % 32 := h6
    exact ⟨x, hx, h1, h2, h3, by omega⟩
  · rintro ⟨x, hx, h1, h2, h3, h4⟩
    exact ⟨(x.slot + 32 - first % 32) % 32, by omega, (n, x.slot, m), ⟨⟨(n, x), hx, h1, h2, h3, rfl, rfl⟩, by dsimp only; omega⟩, rfl⟩

theorem Tbl.find_of_nodup {α : Type} {t : Tbl α} (h : (t.map (·.1)).Nodup) {n : Nat} {x : α} : Tbl.find t n = some x ↔ (n, x) ∈ t := by
  induction t with
  | nil => simp [Tbl.find]
  | cons p t ih =>
    obtain ⟨k, y⟩ := p
    obtain ⟨hk, ht⟩ := List.nodup_cons.mp h
    unfold Tbl.find
    split
    · next e =>
      subst e
      have absent : (n, x) ∉ t := fun hx => hk (List.mem_map_of_mem (f := (·.1)) hx)
      simp [absent, eq_comm]
    · next e => simp [ih ht, e]

/-! ## The quarters that may join a pass (07 R208) -/

/-- The ready quarters with a key, in the order of the queue. -/
def State.passList (s : State) (core : Nat) (key : Nat × Nat × BitVec 16) : List (Nat × Nat) :=
  (s.queued core 0).flatMap fun x =>
    (x.2.left.filter fun q => quarterKey x.2 q == key && s.quarterReady core x.2 q).map fun q => (x.1, q)

theorem State.mem_passList {s : State} {core q n k : Nat} {m : MatOp} :
    (n, k) ∈ s.passList core (quarterKey m q) ↔ Spec.JoinsPass s core m q n k := by
  simp only [State.passList, Spec.JoinsPass, List.mem_flatMap, List.mem_map, List.mem_filter, Bool.and_eq_true, beq_iff_eq, Prod.mk.injEq]
  constructor
  · rintro ⟨⟨n', m'⟩, hq, k', ⟨hk, key, ready⟩, rfl, rfl⟩
    exact ⟨m', hq, hk, key, ready⟩
  · rintro ⟨m', hq, hk, key, ready⟩
    exact ⟨(n, m'), hq, k, ⟨hk, key, ready⟩, rfl, rfl⟩

/-- Watch a is in a lower slot than watch b, or they are different watches of one slot. -/
def SlotOrder (s : State) (a b : Nat × MatOp) : Prop :=
  (s.watch a.1).slot < (s.watch b.1).slot ∨ ((s.watch a.1).slot = (s.watch b.1).slot ∧ a.1 ≠ b.1)

/-- Quarter a is in a lower slot than quarter b, or is the lower quarter of one watch, or they are of different watches of one slot. -/
def PassOrder (s : State) (a b : Nat × Nat) : Prop :=
  (s.watch a.1).slot < (s.watch b.1).slot ∨ ((s.watch a.1).slot = (s.watch b.1).slot ∧ (a.1 = b.1 → a.2 < b.2))

theorem PassOrder.irrefl (s : State) (a : Nat × Nat) : ¬PassOrder s a a := by
  rintro (h | ⟨-, h⟩)
  · exact lt_irrefl _ h
  · exact lt_irrefl _ (h rfl)

section
variable {s : State} (nodup : (s.watches.map (·.1)).Nodup)
include nodup

theorem State.queued_order (core : Nat) : (s.queued core 0).Pairwise (SlotOrder s) := by
  have entries : (s.watches.filterMap (queueEntry core)).Pairwise fun a b => a.1 ≠ b.1 := by
    refine List.pairwise_filterMap.mpr ((List.pairwise_map.mp nodup).imp fun {a b} hab e he f hf => ?_)
    obtain ⟨-, -, -, ha, -⟩ := queueEntry_eq_some.mp he
    obtain ⟨-, -, -, hb, -⟩ := queueEntry_eq_some.mp hf
    rwa [← ha, ← hb]
  have slot {i : Nat} {e : Nat × Nat × MatOp}
      (h : e ∈ (s.watches.filterMap (queueEntry core)).filter fun x => x.2.1 == (0 + i) % 32) (hi : i < 32) :
      (s.watch e.1).slot = i := by
    obtain ⟨mem, at_⟩ := List.mem_filter.mp h
    obtain ⟨⟨n, x⟩, hx, he⟩ := List.mem_filterMap.mp mem
    obtain ⟨-, -, -, rfl, hs⟩ := queueEntry_eq_some.mp he
    rw [State.watch_of_find ((Tbl.find_of_nodup nodup).mpr hx)]
    have hs : x.slot = e.2.1 := hs
    simp only [beq_iff_eq] at at_
    omega
  rw [State.queued_eq, List.pairwise_flatMap]
  refine ⟨fun i hi => ?_, List.pairwise_lt_range.imp_of_mem fun {i j} hi hj hij a ha b hb => ?_⟩
  · have hi := List.mem_range.mp hi
    rw [List.pairwise_map]
    exact (entries.filter _).imp_of_mem fun ha hb hab => .inr ⟨(slot ha hi).trans (slot hb hi).symm, hab⟩
  · obtain ⟨e, he, rfl⟩ := List.mem_map.mp ha
    obtain ⟨f, hf, rfl⟩ := List.mem_map.mp hb
    left
    dsimp only
    rw [slot he (List.mem_range.mp hi), slot hf (List.mem_range.mp hj)]
    exact hij

theorem State.passList_order (sorted : ∀ n x m, Tbl.find s.watches n = some x → x.mat = some m → m.left.Pairwise (· < ·)) (core : Nat)
    (key : Nat × Nat × BitVec 16) : (s.passList core key).Pairwise (PassOrder s) := by
  rw [State.passList, List.pairwise_flatMap]
  refine ⟨?_, (State.queued_order nodup core).imp fun {a b} hab p hp r hr => ?_⟩
  · rintro ⟨n, m⟩ hq
    obtain ⟨x, hx, hm, -⟩ := State.mem_queued.mp hq
    have left := sorted n x m ((Tbl.find_of_nodup nodup).mpr hx) hm
    exact List.pairwise_map.mpr ((left.filter _).imp fun h => .inr ⟨rfl, fun _ => h⟩)
  · obtain ⟨_, -, rfl⟩ := List.mem_map.mp hp
    obtain ⟨_, -, rfl⟩ := List.mem_map.mp hr
    exact hab.imp_right fun h => ⟨h.1, fun e => absurd e h.2⟩

end

/-! ## A quarter on the tile (07 R207 to R210) -/

/-- The quarter that a row belongs to. -/
def quarterOf (m : MatOp) (i : Nat) : Nat := 2 * (i / 8) + if m.rbnd ≤ i then 1 else 0

theorem quarterOf_eq_iff {m : MatOp} {i k : Nat} : quarterOf m i = k ↔ i / 8 = k / 2 ∧ (m.rbnd ≤ i ↔ k % 2 = 1) := by
  unfold quarterOf
  by_cases h : m.rbnd ≤ i <;> simp only [h, if_true, if_false, true_iff, false_iff] <;> omega

theorem mem_quarterRows {m : MatOp} {i k : Nat} : i ∈ quarterRows m k ↔ m.mask.getLsbD i = true ∧ quarterOf m i = k := by
  rw [quarterOf_eq_iff]
  by_cases h : m.rbnd ≤ i <;> simp [quarterRows, mem_lanesOf, h]

/-- An instruction with the quarters left of which `done` does not hold: none where there is no such quarter. -/
def MatOp.leaving (m : MatOp) (done : Nat → Bool) (before : Option (Tbl W32 × Tbl TileRow)) : Option MatOp :=
  let left := m.left.filter fun k => !done k
  if left = [] then none else some { m with left := left, before := before }

/-- The watch `y` is `x` once the quarters of which `done` holds are performed (07 R208 to R210). -/
structure QuartersDone (s : State) (n : Nat) (x : Watch) (m : MatOp) (o : LaneOps) (done : Nat → Bool) (y : Watch) : Prop where
  frame : ∃ tiles rows before, y = { x with tiles := tiles, rows := rows, mat := m.leaving done before }
  rows : (mmaNpos o.lit + 1) * shapeN m.shape ≤ 64 →
    RowsBecome n x y (fun i => m.mask.getLsbD i = true ∧ done (quarterOf m i) = true) (RowView.mma s x.ctx x.core o m)

theorem QuartersDone.start {s : State} {n q : Nat} {x : Watch} {m : MatOp} {o : LaneOps} (hm : x.mat = some m) (hq : q ∈ m.left) :
    QuartersDone s n x m o (fun _ => false) x where
  frame := by
    refine ⟨x.tiles, x.rows, m.before, ?_⟩
    have left : m.left.filter (fun _ => !false) = m.left := List.filter_true _
    have all : m.leaving (fun _ => false) m.before = x.mat := by
      rw [MatOp.leaving, left, if_neg (List.ne_nil_of_mem hq), hm]
    rw [all]
  rows _ i _ := by simp

theorem State.mmaRow_congr {s t : State} (hm : t.mem = s.mem) (he : t.epoch = s.epoch) : t.mmaRow = s.mmaRow := by
  funext u o m w i
  simp only [State.mmaRow, State.wbyte, hm, he]

theorem State.applyQuarter_of_mat {s : State} {n q : Nat} {y : Watch} {m : MatOp} (hy : Tbl.find s.watches n = some y) (hm : y.mat = some m) :
    s.applyQuarter n q = s.putWatch n { (quarterRows m q).foldl (s.mmaRow n (matOps m.instr) m) y with
      mat := if (m.left.filter (· != q)).isEmpty then none else
        some { m with left := m.left.filter (· != q), before := some (m.before.getD (y.tiles, y.rows)) } } := by
  rw [State.applyQuarter, State.watch_of_find hy]
  simp only [hm]

/-- A quarter that is left, of an instruction of which some are done: it goes through the rows that the instruction gave it. -/
theorem State.applyQuarter_of_leaving {t : State} {n q : Nat} {y : Watch} {m : MatOp} {o : LaneOps} {done : Nat → Bool}
    {before : Option (Tbl W32 × Tbl TileRow)} (hy : Tbl.find t.watches n = some y) (mat : y.mat = m.leaving done before)
    (hi : m.instr = .mma o) (hq : q ∈ m.left) (hd : done q = false) : ∃ before', t.applyQuarter n q =
      t.putWatch n { (quarterRows m q).foldl (t.mmaRow n o m) y with mat := m.leaving (fun k => done k || k == q) before' } := by
  have left : q ∈ m.left.filter fun k => !done k := List.mem_filter.mpr ⟨hq, by rw [hd]; rfl⟩
  have mat' : y.mat = some { m with left := m.left.filter fun k => !done k, before := before } :=
    mat.trans (if_neg (List.ne_nil_of_mem left))
  have rest : (m.left.filter fun k => !done k).filter (· != q) = m.left.filter fun k => !(done k || k == q) := by
    rw [List.filter_filter]
    exact List.filter_congr fun k _ => by rw [Bool.not_or, Bool.and_comm]; rfl
  have ops : matOps (.mma o) = o := rfl
  refine ⟨some (before.getD (y.tiles, y.rows)), ?_⟩
  rw [State.applyQuarter_of_mat hy mat']
  simp only [rest, hi, ops, MatOp.leaving, List.isEmpty_iff]
  rfl

/-- A further quarter is performed. -/
theorem QuartersDone.next {s t : State} {n q : Nat} {x y : Watch} {m : MatOp} {o : LaneOps} {done : Nat → Bool}
    (h : QuartersDone s n x m o done y) (hi : m.instr = .mma o) (hm : t.mem = s.mem) (he : t.epoch = s.epoch)
    (hy : Tbl.find t.watches n = some y) (hq : q ∈ m.left) (hd : done q = false) :
    ∃ z, Tbl.find (t.applyQuarter n q).watches n = some z ∧ QuartersDone s n x m o (fun k => done k || k == q) z := by
  obtain ⟨⟨tiles, rows, before, frame⟩, become⟩ := h
  obtain ⟨before', run⟩ := State.applyQuarter_of_leaving hy (by rw [frame]) hi hq hd
  rw [State.mmaRow_congr hm he] at run
  rw [run]
  refine ⟨_, Tbl.find_put_same .., ?_, fun hn i hi64 => ?_⟩
  · obtain ⟨tiles', rows', fold⟩ : y.TilesOf ((quarterRows m q).foldl (s.mmaRow n o m) y) :=
      foldl_keeps y.TilesOf (.refl y) fun w i h => h.trans (tilesOf_mmaRow s n o m w i)
    exact ⟨tiles', rows', before', by rw [fold, frame]⟩
  · have nodup : (quarterRows m q).Nodup := (List.nodup_range.filter _).filter _
    have lanes : ∀ i ∈ quarterRows m q, i < 64 := fun i hi => BitVec.lt_of_getLsbD (mem_quarterRows.mp hi).1
    have placed := (rowOp_mmaRow s n y o m hn).foldl nodup lanes (.refl y) i hi64
    have place : y.ctx = x.ctx ∧ y.core = x.core := by
      rw [frame]
      exact ⟨rfl, rfl⟩
    refine placed.trans ?_
    rw [become hn i hi64, place.1, place.2]
    simp only [mem_quarterRows]
    by_cases hk : quarterOf m i = q
    · simp [hk, hd]
    · simp [hk]

/-! ## MATRIX_PASS (07 R208) -/

/-- The quarters of a list are performed, one after another. -/
def State.applyQuarters (s : State) (Q : List (Nat × Nat)) : State := Q.foldl (fun s p => s.applyQuarter p.1 p.2) s

theorem State.applyQuarter_frame (s : State) (n q : Nat) : ∃ watches, s.applyQuarter n q = { s with watches := watches } := by
  unfold State.applyQuarter
  dsimp only
  split
  · exact ⟨s.watches, rfl⟩
  · exact ⟨_, rfl⟩

theorem State.find_applyQuarter_other (s : State) {n k q : Nat} (h : n ≠ k) :
    Tbl.find (s.applyQuarter k q).watches n = Tbl.find s.watches n := by
  unfold State.applyQuarter
  dsimp only
  split
  · rfl
  · exact Tbl.find_put_other _ _ h

theorem State.applyQuarters_frame (s : State) (Q : List (Nat × Nat)) : ∃ watches, s.applyQuarters Q = { s with watches := watches } := by
  refine foldl_keeps (fun t : State => ∃ watches, t = { s with watches := watches }) ⟨s.watches, rfl⟩ fun t p => ?_
  rintro ⟨watches, rfl⟩
  obtain ⟨watches', h⟩ := State.applyQuarter_frame { s with watches := watches } p.1 p.2
  exact ⟨watches', h⟩

theorem State.find_applyQuarters_other (s : State) {n : Nat} {Q : List (Nat × Nat)} (h : ∀ k, (n, k) ∉ Q) :
    Tbl.find (s.applyQuarters Q).watches n = Tbl.find s.watches n := by
  induction Q generalizing s with
  | nil => rfl
  | cons p Q ih =>
    have hp : n ≠ p.1 := fun e => h p.2 (e ▸ List.mem_cons_self)
    exact (ih (s.applyQuarter p.1 p.2) fun k hk => h k (List.mem_cons_of_mem _ hk)).trans (s.find_applyQuarter_other hp)

/-- The quarters of a watch that stand in a list are performed on it. -/
theorem QuartersDone.foldl {s t : State} {n : Nat} {x y : Watch} {m : MatOp} {o : LaneOps} {done : Nat → Bool} {Q : List (Nat × Nat)}
    (h : QuartersDone s n x m o done y) (hi : m.instr = .mma o) (hm : t.mem = s.mem) (he : t.epoch = s.epoch)
    (hy : Tbl.find t.watches n = some y) (nodup : Q.Nodup) (hQ : ∀ k, (n, k) ∈ Q → k ∈ m.left ∧ done k = false) :
    ∃ z, Tbl.find (t.applyQuarters Q).watches n = some z ∧ QuartersDone s n x m o (fun k => done k || Q.contains (n, k)) z := by
  induction Q generalizing t y done with
  | nil => exact ⟨y, hy, by simpa using h⟩
  | cons p Q ih =>
    obtain ⟨k, q⟩ := p
    obtain ⟨hp, nodup⟩ := List.nodup_cons.mp nodup
    obtain ⟨watches, frame⟩ := t.applyQuarter_frame k q
    have hm' : (t.applyQuarter k q).mem = s.mem := by rw [frame]; exact hm
    have he' : (t.applyQuarter k q).epoch = s.epoch := by rw [frame]; exact he
    by_cases hkn : k = n
    · subst hkn
      obtain ⟨hq, hd⟩ := hQ q List.mem_cons_self
      obtain ⟨z, hz, hdone⟩ := h.next hi hm he hy hq hd
      obtain ⟨z', hz', hdone'⟩ := ih hdone hm' he' hz nodup fun j hj => by
        obtain ⟨h1, h2⟩ := hQ j (List.mem_cons_of_mem _ hj)
        have hjq : j ≠ q := fun e => hp (e ▸ hj)
        exact ⟨h1, by simp [h2, hjq]⟩
      refine ⟨z', hz', ?_⟩
      have same : (fun j => done j || ((k, q) :: Q).contains (k, j)) = fun j => (done j || j == q) || Q.contains (k, j) := by
        funext j
        rw [List.contains_cons, Bool.or_assoc]
        congr 2
        simp
      rw [same]
      exact hdone'
    · have hy' := (t.find_applyQuarter_other (q := q) (Ne.symm hkn)).trans hy
      obtain ⟨z, hz, hdone⟩ := ih h hm' he' hy' nodup fun j hj => hQ j (List.mem_cons_of_mem _ hj)
      refine ⟨z, hz, ?_⟩
      have same : (fun j => done j || ((k, q) :: Q).contains (n, j)) = fun j => done j || Q.contains (n, j) := by
        funext j
        simp [Ne.symm hkn]
      rw [same]
      exact hdone

/-- The watch of an entry of the queue. -/
theorem State.mat_of_queued {s : State} (nodup : (s.watches.map (·.1)).Nodup) {core first n : Nat} {m : MatOp} {x : Watch}
    (h : (n, m) ∈ s.queued core first) (hx : Tbl.find s.watches n = some x) : x.mat = some m ∧ ∃ o, m.instr = .mma o := by
  obtain ⟨y, hy, hm, -, mma, -⟩ := State.mem_queued.mp h
  obtain rfl : y = x := Option.some.inj (((Tbl.find_of_nodup nodup).mpr hy).symm.trans hx)
  refine ⟨hm, ?_⟩
  unfold isMma at mma
  split at mma
  · next o e => exact ⟨o, e⟩
  · exact absurd mma Bool.false_ne_true

/-- The weights of a row, in the words of the statement. -/
theorem State.mmaByte_eq (s : State) (x : Watch) (lit : W32) (high : Prop) [Decidable high] (off : Nat) :
    s.mmaByte x.ctx x.core lit (decide high) off = (memByte s.mem s.epoch (memKey .wbuf x.ctx (x.core * 2 + if high then 1 else 0)
      (256 * ((if high then lit.extractLsb' 10 10 else lit.extractLsb' 0 10).toNat) + off))).toNat := by
  by_cases h : high <;> simp [State.mmaByte, State.wbyte, mmaOff, h]

/-- An element of a row once an MMA is performed on it (07 R210; 03 R87 to R89). -/
def State.mmaTile (s : State) (n : Nat) (x : Watch) (m : MatOp) (o : LaneOps) (i e : Nat) : W32 :=
  let c0 := mmaNpos o.lit * shapeN m.shape
  let old := Spec.settled n x o.d.toNat i e (shapeA m.shape == 8)
  if c0 ≤ e ∧ e < c0 + shapeN m.shape then
    mmaElem (operandA m i) (operandB m.shape (s.mmaByte x.ctx x.core o.lit (decide (m.rbnd ≤ i))) (e - c0)) (shapeK m.shape)
      (if mmaZ o.lit then 0 else old)
  else old

/-- The rows that an MMA has been performed on. -/
theorem RowsBecome.multiplied {s : State} {n : Nat} {x y : Watch} {m : MatOp} {o : LaneOps} {on : Nat → Prop} [DecidablePred on]
    (h : RowsBecome n x y on (RowView.mma s x.ctx x.core o m)) :
    Spec.TileIs n x y o.d.toNat on (s.mmaTile n x m o) ∧ Spec.RowsAre x y o.d.toNat on fun i => Spec.unmarked (x.trow o.d.toNat i) := by
  refine ⟨h.tileIs (fun i e he => ?_) fun i T hT => ?_, h.rowsAre (fun i => ?_) fun i T hT => ?_⟩
  · rw [RowView.mma, RowView.fill_tile_same, settle_rowView _ _ _ _ _ he]
    rfl
  · rw [RowView.mma, RowView.fill_tile_other _ hT, RowView.settle_tile_other _ hT]
  · rw [RowView.mma, RowView.fill_trow, RowView.settle_trow_same, Watch.rowView_trow]
  · rw [RowView.mma, RowView.fill_trow, RowView.settle_trow_other _ hT, Watch.rowView_trow]

/-- The quarters that are done are placed, as the statement says it. -/
theorem QuartersDone.placed {s : State} {n : Nat} {x y : Watch} {m : MatOp} {o : LaneOps} {done : Nat → Bool}
    (h : QuartersDone s n x m o done y) (hdone : ∀ k, done k = true → k ∈ m.left) (hn : (mmaNpos o.lit + 1) * shapeN m.shape ≤ 64) :
    Spec.Placed s n x y m o (m.left.filter done) := by
  have rows (i : Nat) : (m.mask.getLsbD i = true ∧ ∃ k ∈ m.left.filter done, i / 8 = k / 2 ∧ (m.rbnd ≤ i ↔ k % 2 = 1)) ↔
      (m.mask.getLsbD i = true ∧ done (quarterOf m i) = true) := by
    simp only [← quarterOf_eq_iff, List.mem_filter]
    constructor
    · rintro ⟨hi, k, hk, rfl⟩
      exact ⟨hi, hk.2⟩
    · rintro ⟨hi, hk⟩
      exact ⟨hi, _, ⟨hdone _ hk, hk⟩, rfl⟩
  have left : m.left.filter (fun k => !(m.left.filter done).contains k) = m.left.filter fun k => !done k :=
    List.filter_congr fun k hk => by simp [hk]
  obtain ⟨⟨tileOn, tileOff⟩, rowOn, rowOff⟩ := (h.rows hn).multiplied
  obtain ⟨tiles, rows_, before, frame⟩ := h.frame
  refine ⟨⟨before, ?_⟩, fun i e hi he hon => ?_, fun i hi hon => rowOn i hi ((rows i).mp hon), fun T i e hi he hno => ?_⟩
  · rw [left, frame]
    rfl
  · rw [tileOn i e hi he ((rows i).mp hon), State.mmaTile, funext (s.mmaByte_eq x o.lit (m.rbnd ≤ i))]
  · have hno : T ≠ o.d.toNat ∨ ¬(m.mask.getLsbD i = true ∧ done (quarterOf m i) = true) := hno.imp_right fun h => h ∘ (rows i).mpr
    exact ⟨tileOff T i e hi he hno, rowOff T i hi hno⟩

/-- The quarters of a pass that quarter q of watch u heads (07 R208). -/
def State.inPass (s : State) (core u q : Nat) (m : MatOp) : List (Nat × Nat) := headAndSeven (u, q) (s.passList core (quarterKey m q))

section
variable {s : State} {core u q first : Nat} {m : MatOp} {left : List Nat} (queued : (u, m) ∈ s.queued core first) (hl : m.left = q :: left)
  (ready : s.quarterReady core m q = true)
include queued hl ready

theorem State.head_mem_passList : (u, q) ∈ s.passList core (quarterKey m q) := by
  obtain ⟨w, hw⟩ := State.mem_queued.mp queued
  exact State.mem_passList.mpr ⟨m, State.mem_queued.mpr ⟨w, hw⟩, hl ▸ List.mem_cons_self, rfl, ready⟩

theorem State.inPass_joins : ∀ p ∈ s.inPass core u q m, Spec.JoinsPass s core m q p.1 p.2 := fun p hp =>
  State.mem_passList.mp (headAndSeven_subset (State.head_mem_passList queued hl ready) p hp)

end

section
variable {s : State} {core u q : Nat} {m : MatOp} (nodup : (s.watches.map (·.1)).Nodup)
  (sorted : ∀ n x m, Tbl.find s.watches n = some x → x.mat = some m → m.left.Pairwise (· < ·))
include nodup sorted

theorem State.inPass_nodup : (s.inPass core u q m).Nodup := by
  refine headAndSeven_nodup ((State.passList_order nodup sorted core (quarterKey m q)).imp (S := (· ≠ ·)) fun {a b} hab e => ?_)
  subst e
  exact PassOrder.irrefl s a hab

theorem State.inPass_left_out {n k : Nat} (hj : Spec.JoinsPass s core m q n k) (hout : (n, k) ∉ s.inPass core u q m) :
    (s.inPass core u q m).length = 8 ∧ ∀ p ∈ s.inPass core u q m, p = (u, q) ∨ PassOrder s p (n, k) :=
  headAndSeven_left_out (State.passList_order nodup sorted core _) (PassOrder.irrefl s) (State.mem_passList.mpr hj) hout

variable {first : Nat} {left : List Nat} (queued : (u, m) ∈ s.queued core first) (hl : m.left = q :: left)
include queued hl

/-- No quarter joins before a lower one of its watch: the head is the lowest of its own. -/
theorem State.inPass_lower_first {n k j : Nat} (hj : Spec.JoinsPass s core m q n k) (hout : (n, k) ∉ s.inPass core u q m) (hkj : k < j) :
    (n, j) ∉ s.inPass core u q m := by
  intro hin
  rcases (State.inPass_left_out nodup sorted hj hout).2 (n, j) hin with e | h | ⟨-, h⟩
  · obtain ⟨rfl, rfl⟩ := Prod.mk.inj e
    obtain ⟨m', hq', hk, -⟩ := hj
    obtain ⟨w, hw, hm, -⟩ := State.mem_queued.mp queued
    have hwn := (Tbl.find_of_nodup nodup).mpr hw
    have rising := sorted n w m hwn hm
    rw [Option.some.inj ((State.mat_of_queued nodup hq' hwn).1.symm.trans hm), hl] at hk
    rw [hl] at rising
    rcases List.mem_cons.mp hk with rfl | hk
    · exact lt_irrefl _ hkj
    · exact lt_asymm hkj ((List.pairwise_cons.mp rising).1 k hk)
  · exact lt_irrefl _ h
  · exact lt_asymm hkj (h rfl)

end

theorem exec_matrixPass_of_waits {s : State} {core u q : Nat} {m : MatOp} {left : List Nat} {more : List (Nat × MatOp)}
    (hq : s.queued core ((s.core core).lastPass + 1) = (u, m) :: more) (hl : m.left = q :: left) (h : s.quarterReady core m q = false) :
    exec (.matrixPass core) s = .next s := by
  have run : exec (.matrixPass core) s = execMatrixPass core s := rfl
  rw [run, execMatrixPass, hq]
  simp only [hl, h, Bool.not_false, if_true]

theorem exec_matrixPass_of_ready {s : State} {core u q : Nat} {m : MatOp} {left : List Nat} {more : List (Nat × MatOp)}
    (hq : s.queued core ((s.core core).lastPass + 1) = (u, m) :: more) (hl : m.left = q :: left) (h : s.quarterReady core m q = true) :
    exec (.matrixPass core) s = .next ((s.applyQuarters (s.inPass core u q m)).modCore core
      fun c => { c with lastPass := (s.watch u).slot }) := by
  have run : exec (.matrixPass core) s = execMatrixPass core s := rfl
  rw [run, execMatrixPass, hq]
  simp only [hl, h, Bool.not_true, Bool.false_eq_true, if_false]
  rfl

end Sys2Proof.Machine

namespace Sys2Proof

open Machine

/-- A pass: the choice of its quarters by `inPass_joins`, `inPass_left_out` and `inPass_lower_first`, their work by `QuartersDone`. -/
theorem matrixPassUpdatesTheTile : Spec.MatrixPassUpdatesTheTile := by
  intro s core u q m left more hq hl nodup sorted
  refine ⟨exec_matrixPass_of_waits hq hl, fun ready => ?_⟩
  have queued : (u, m) ∈ s.queued core ((s.core core).lastPass + 1) := hq ▸ List.mem_cons_self
  obtain ⟨watches, frame⟩ := s.applyQuarters_frame (s.inPass core u q m)
  refine ⟨(s.applyQuarters (s.inPass core u q m)).modCore core fun c => { c with lastPass := (s.watch u).slot }, s.inPass core u q m,
    exec_matrixPass_of_ready hq hl ready, by rw [frame]; rfl, congrArg Core.lastPass (Tbl.getD_put_same ..), List.mem_cons_self,
    headAndSeven_length, State.inPass_joins queued hl ready, fun n k hj hout => ?_,
    fun n k j => State.inPass_lower_first nodup sorted queued hl,
    fun n x hx => ⟨fun h => (s.find_applyQuarters_other h).trans hx, ?_⟩⟩
  · obtain ⟨len, before⟩ := State.inPass_left_out nodup sorted hj hout
    refine ⟨len, fun p hp => (before p hp).imp_right ?_⟩
    rintro (lower | ⟨same, -⟩)
    · exact .inr (.inl lower)
    · exact .inl same
  · rintro ⟨k, hk⟩
    have joins := State.inPass_joins queued hl ready
    obtain ⟨m', hq', -⟩ := joins (n, k) hk
    obtain ⟨hm, o, hi⟩ := State.mat_of_queued nodup hq' hx
    have inLeft (j : Nat) (hj : (n, j) ∈ s.inPass core u q m) : j ∈ m'.left := by
      obtain ⟨m'', hq'', h, -⟩ := joins (n, j) hj
      rwa [Option.some.inj ((State.mat_of_queued nodup hq'' hx).1.symm.trans hm)] at h
    have start := QuartersDone.start (s := s) (n := n) (o := o) hm (inLeft k hk)
    obtain ⟨y, hy, done⟩ := start.foldl hi rfl rfl hx (State.inPass_nodup nodup sorted) fun j hj => ⟨inLeft j hj, rfl⟩
    exact ⟨m', o, y, hm, hi, hy, done.placed fun j hj => inLeft j (by simpa using hj)⟩

/-- Every matrix instruction but MMA: the rows of its mask by `RowOp.foldl_lanesOf`, and what the statement says of them read off the row's view. -/
theorem otherMatrixInstructionsArePerformed : Spec.MatrixInstructionsArePerformed := by
  intro s u x o m hx hm d T on does still spent
  have hw := State.watch_of_find hx
  refine ⟨fun hi => ?tclr, fun hi => ?tscl, fun hi => ?tsclPend, fun hi => ?tsclDivl, fun hi => ?msoft, fun hi hc => ?tmovVt,
    fun hi => ?tmovTv, fun hi hc hrm => ?tdrn⟩
  case tclr =>
    exact performs_tiles hx hm (by rw [hi]; rfl) (rowOp_clearRow u x o) (by simp only [State.performOther, hw, hm, hi]; rfl)
      fun y h => h.cleared (r := fun r => if o.lit.getLsbD 0 then { Spec.unmarked r with smax := 0xFF800000, ssum := 0 } else Spec.unmarked r)
  case tscl =>
    exact performs_tiles hx hm (by rw [hi]; rfl) (rowOp_tscl u x o _) (by simp only [State.performOther, hw, hm, hi]; rfl)
      fun y h => h.scaled (g := fun i _ e => mulF32 e (rowAt _ i))
  case tsclPend =>
    exact performs_tiles hx hm (by rw [hi]; rfl) (rowOp_tsclPend u x o _) (by simp only [State.performOther, hw, hm, hi]; rfl)
      fun y h => h.scaled (g := fun _ _ e => e)
  case tsclDivl =>
    exact performs_tiles hx hm (by rw [hi]; rfl) (rowOp_tsclDivl u x o _) (by simp only [State.performOther, hw, hm, hi]; rfl)
      fun y h => h.scaled (g := fun _ r e => divF32 e r.ssum)
  case msoft =>
    refine performs_tiles hx hm (by rw [hi]; rfl) (rowOp_softApply u x o) (by simp only [State.performOther, hw, hm, hi]; rfl) fun y h => ?_
    have soft := h.softened
    simp only [RowView.softState, soft_rowView] at soft
    exact soft
  case tmovVt =>
    obtain ⟨⟨tiles, frame⟩, become⟩ := (rowOp_regsToTile u x o m.rowsA hc).foldl_lanesOf m.mask ⟨x.tiles, rfl⟩
    have run : s.performOther u = s.putWatch u { (lanesOf m.mask).foldl (regsToTile o m.rowsA) x with mat := none } := by
      simp only [State.performOther, hw, hm, hi]
      rfl
    rw [frame] at run become
    exact performs hx hm (by rw [hi]; rfl) run rfl ⟨⟨rfl, rfl, rfl, rfl⟩, rfl, RowsBecome.filled become⟩
  case tmovTv =>
    obtain ⟨⟨v, frame⟩, become⟩ := (rowOp_tileToRegs u x o).foldl_lanesOf m.mask ⟨x.v, rfl⟩
    have run : s.performOther u = s.putWatch u { (lanesOf m.mask).foldl (tileToRegs u o) x with mat := none } := by
      simp only [State.performOther, hw, hm, hi]
      rfl
    rw [frame] at run become
    have moved : Spec.RunIs x { x with v := v, mat := none } d on (movedOut u x o) := RowsBecome.runIs become fun _ => rfl
    refine performs hx hm (by rw [hi]; rfl) run rfl ⟨rfl, rfl, rfl, rfl, rfl, fun h => ?_, fun h => ?_⟩
    · exact (funext fun i => if_pos h : movedOut u x o = _) ▸ moved
    · exact (funext fun i => if_neg (Bool.eq_false_iff.mp h) : movedOut u x o = _) ▸ moved
  case tdrn =>
    intro a
    obtain ⟨⟨v, gen, tiles, frame⟩, become⟩ := (rowOp_drainWatch (u := u) a hc x).foldl_lanesOf m.mask ⟨x.v, x.gen, x.tiles, rfl⟩
    have nodup : (lanesOf m.mask).Nodup := List.nodup_range.filter _
    have fold := foldl_drainRow (u := u) a hc hrm nodup (fun i hi => BitVec.lt_of_getLsbD (mem_lanesOf.mp hi)) x 0
    rw [frame] at fold become
    obtain ⟨run_, tile_, gen_⟩ := RowsBecome.drained hc become
    exact performs hx hm (by rw [hi]; rfl) (performOther_tdrn hx hm hi fold) rfl ⟨rfl, run_, tile_, gen_, rfl, rfl⟩

/-- Settles O41: a pass by the choice of its quarters and `QuartersDone`, every other instruction by its operation on a row. -/
theorem matrixInstructionsArePerformed : Obligations.MatrixInstructionsArePerformed :=
  ⟨matrixPassUpdatesTheTile, otherMatrixInstructionsArePerformed⟩

end Sys2Proof

/-! # Proofs: the scalar and control instructions, lane values, streams and system registers (04) -/

namespace Sys2Proof.Machine

/-! ## The results of the scalar instructions as 04 R95 to R101 write them -/

theorem sub_eq_ofInt (a b : Word) : a - b = BitVec.ofInt 64 (a.toInt - b.toInt) := by
  apply BitVec.eq_of_toInt_eq
  rw [BitVec.toInt_sub, BitVec.toInt_ofInt]

theorem mul_eq_ofNat (a b : Word) : a * b = BitVec.ofNat 64 (a.toNat * b.toNat) := by
  apply BitVec.eq_of_toNat_eq
  simp

theorem mul_add_eq_ofNat (a b c : Word) : a * b + c = BitVec.ofNat 64 (a.toNat * b.toNat + c.toNat) := by
  apply BitVec.eq_of_toNat_eq
  simp

theorem shiftCount_eq (b : Word) : shiftCount b = b.toNat % 64 := by
  simp [shiftCount]

theorem shiftLeft_eq_ofNat (a : Word) (n : Nat) : a <<< n = BitVec.ofNat 64 (a.toNat * 2 ^ n) := by
  apply BitVec.eq_of_toNat_eq
  rw [BitVec.toNat_shiftLeft, Nat.shiftLeft_eq, BitVec.toNat_ofNat]

theorem ushiftRight_eq_ofNat (a : Word) (n : Nat) : a >>> n = BitVec.ofNat 64 (a.toNat / 2 ^ n) := by
  rw [← Nat.shiftRight_eq_div_pow, ← BitVec.toNat_ushiftRight, BitVec.ofNat_toNat, BitVec.setWidth_eq]

theorem sshiftRight_eq_ofInt (a : Word) (n : Nat) : a.sshiftRight n = BitVec.ofInt 64 (a.toInt / 2 ^ n) := by
  rw [BitVec.sshiftRight, Int.shiftRight_eq_div_pow]
  norm_cast

theorem rotateLeft_eq_or (a : Word) {n : Nat} (h : n < 64) :
    a.rotateLeft n = BitVec.ofNat 64 (a.toNat * 2 ^ n) ||| BitVec.ofNat 64 (a.toNat / 2 ^ (64 - n)) := by
  rw [BitVec.rotateLeft_eq_rotateLeftAux_of_lt h, BitVec.rotateLeftAux, shiftLeft_eq_ofNat, ushiftRight_eq_ofNat]

theorem shlWord_eq (a b : Word) : shlWord a b = BitVec.ofNat 64 (a.toNat * 2 ^ (b.toNat % 64)) := by
  rw [shlWord, shiftLeft_eq_ofNat, shiftCount_eq]

theorem shrWord_eq (a b : Word) : shrWord a b = BitVec.ofNat 64 (a.toNat / 2 ^ (b.toNat % 64)) := by
  rw [shrWord, ushiftRight_eq_ofNat, shiftCount_eq]

theorem sarWord_eq (a b : Word) : sarWord a b = BitVec.ofInt 64 (a.toInt / 2 ^ (b.toNat % 64)) := by
  rw [sarWord, sshiftRight_eq_ofInt, shiftCount_eq]

theorem rolWord_eq (a b : Word) : rolWord a b =
    BitVec.ofNat 64 (a.toNat * 2 ^ (b.toNat % 64)) ||| BitVec.ofNat 64 (a.toNat / 2 ^ (64 - b.toNat % 64)) := by
  rw [rolWord, shiftCount_eq, rotateLeft_eq_or a (Nat.mod_lt _ (by decide))]

theorem minWord_eq (a b : Word) : minWord a b = BitVec.ofInt 64 (min a.toInt b.toInt) := by
  rw [minWord, BitVec.slt_eq_decide]
  by_cases h : a.toInt < b.toInt
  · simp [h, min_eq_left h.le]
  · simp [h, min_eq_right (not_lt.mp h)]

theorem maxWord_eq (a b : Word) : maxWord a b = BitVec.ofInt 64 (max a.toInt b.toInt) := by
  rw [maxWord, BitVec.slt_eq_decide]
  by_cases h : a.toInt < b.toInt
  · simp [h, max_eq_right h.le]
  · simp [h, max_eq_left (not_lt.mp h)]

theorem minuWord_eq (a b : Word) : minuWord a b = BitVec.ofNat 64 (min a.toNat b.toNat) := by
  rw [minuWord, BitVec.ult_eq_decide]
  by_cases h : a.toNat < b.toNat
  · simp [h, min_eq_left h.le]
  · simp [h, min_eq_right (not_lt.mp h)]

theorem maxuWord_eq (a b : Word) : maxuWord a b = BitVec.ofNat 64 (max a.toNat b.toNat) := by
  rw [maxuWord, BitVec.ult_eq_decide]
  by_cases h : a.toNat < b.toNat
  · simp [h, max_eq_right h.le]
  · simp [h, max_eq_left (not_lt.mp h)]

theorem flagWord_decide (p : Prop) [Decidable p] : flagWord (decide p) = Spec.truth p := by
  simp [flagWord, Spec.truth]

theorem beq_eq_truth (a b : Word) : flagWord (a == b) = Spec.truth (a = b) := by
  rw [beq_eq_decide, flagWord_decide]

theorem bne_eq_truth (a b : Word) : flagWord (a != b) = Spec.truth (a ≠ b) := by
  rw [bne, beq_eq_decide, ← decide_not, flagWord_decide]

theorem slt_eq_truth (a b : Word) : flagWord (a.slt b) = Spec.truth (a.toInt < b.toInt) := by
  rw [BitVec.slt_eq_decide, flagWord_decide]

theorem ult_eq_truth (a b : Word) : flagWord (a.ult b) = Spec.truth (a.toNat < b.toNat) := by
  rw [BitVec.ult_eq_decide, flagWord_decide]

/-- An immediate is the integer that its form reads (04 R97). -/
theorem add_signExtend_eq {n : Nat} (a : Word) (i : BitVec n) : a + i.signExtend 64 = BitVec.ofInt 64 (a.toInt + i.toInt) := by
  rw [BitVec.ofInt_add, BitVec.ofInt_toInt]
  rfl

theorem slt_signExtend_eq_truth {n : Nat} (hn : n ≤ 64) (a : Word) (i : BitVec n) :
    flagWord (a.slt (i.signExtend 64)) = Spec.truth (a.toInt < i.toInt) := by
  rw [slt_eq_truth, BitVec.toInt_signExtend_of_le hn]

/-- A concatenation as a number. -/
theorem append_eq_ofNat {m n : Nat} (x : BitVec m) (y : BitVec n) : x ++ y = BitVec.ofNat (m + n) (x.toNat * 2 ^ n + y.toNat) := by
  apply BitVec.eq_of_toNat_eq
  rw [BitVec.toNat_append, ← Nat.shiftLeft_add_eq_or_of_lt y.isLt, Nat.shiftLeft_eq, BitVec.toNat_ofNat, Nat.mod_eq_of_lt]
  have := x.isLt
  have := y.isLt
  rw [Nat.pow_add]
  nlinarith

theorem lih_eq (i : W32) (a : Word) : i ++ a.extractLsb' 0 32 = BitVec.ofNat 64 (i.toNat * 2 ^ 32 + a.toNat % 2 ^ 32) := by
  rw [append_eq_ofNat, BitVec.extractLsb'_toNat, Nat.shiftRight_zero]

theorem addr_eq (t : B4) (a b : Word) : (0 : BitVec 8) ++ t ++ a.extractLsb' 0 10 ++ b.extractLsb' 0 42 =
    BitVec.ofNat 64 (t.toNat * 2 ^ 52 + a.toNat % 2 ^ 10 * 2 ^ 42 + b.toNat % 2 ^ 42) := by
  have ht := t.isLt
  have tag : ((0 : BitVec 8) ++ t).toNat = t.toNat := by
    rw [BitVec.toNat_append]
    simp
  apply BitVec.eq_of_toNat_eq
  simp only [append_eq_ofNat _ (a.extractLsb' 0 10), append_eq_ofNat _ (b.extractLsb' 0 42), tag, BitVec.extractLsb'_toNat,
    Nat.shiftRight_zero, BitVec.toNat_ofNat]
  omega

theorem extractLsb'_setWidth_eq (a : Word) (k n : Nat) :
    (a.extractLsb' k n).setWidth 64 = BitVec.ofNat 64 (a.toNat / 2 ^ k % 2 ^ n) := by
  apply BitVec.eq_of_toNat_eq
  rw [BitVec.toNat_setWidth, BitVec.extractLsb'_toNat, BitVec.toNat_ofNat, Nat.shiftRight_eq_div_pow]

/-- LI of the low half and LIH of the high half load any value (04 R98). -/
theorem lih_li (v : Word) :
    BitVec.ofNat 64 ((v.extractLsb' 32 32).toNat * 2 ^ 32 + (BitVec.ofInt 64 (v.extractLsb' 0 32).toInt).toNat % 2 ^ 32) = v := by
  have low : (BitVec.ofInt 64 (v.extractLsb' 0 32).toInt).extractLsb' 0 32 = v.extractLsb' 0 32 := by
    change ((v.extractLsb' 0 32).signExtend 64).extractLsb' 0 32 = v.extractLsb' 0 32
    apply BitVec.eq_of_getLsbD_eq
    intro i hi
    rw [BitVec.getLsbD_extractLsb', BitVec.getLsbD_signExtend]
    simp [hi, show i < 64 by omega]
  rw [← lih_eq, low, BitVec.extractLsb'_append_extractLsb'_eq_extractLsb' (by rfl)]
  exact extract_all v

/-! ## Counting bits -/

theorem popCount_eq_countP {w : Nat} (x : BitVec w) : popCount x = (List.range w).countP fun i => x.getLsbD i := by
  have from_ (l : List Nat) (n : Nat) : l.foldl (fun n i => if x.getLsbD i then n + 1 else n) n = n + l.countP fun i => x.getLsbD i := by
    induction l generalizing n with
    | nil => rfl
    | cons i l ih =>
      rw [List.foldl_cons, ih, List.countP_cons]
      split <;> omega
  rw [popCount, from_, Nat.zero_add]

theorem firstFrom_spec (p : Nat → Bool) (fuel k : Nat) :
    k ≤ firstFrom p fuel k ∧ firstFrom p fuel k ≤ k + fuel ∧ (∀ j, k ≤ j → j < firstFrom p fuel k → p j = false) ∧
      (firstFrom p fuel k < k + fuel → p (firstFrom p fuel k) = true) := by
  induction fuel generalizing k with
  | zero => exact ⟨le_rfl, le_rfl, fun j h h' => absurd h' (not_lt.mpr h), fun h => absurd h (lt_irrefl _)⟩
  | succ fuel ih =>
    rw [firstFrom]
    split
    next hp => exact ⟨le_rfl, by omega, fun j h h' => absurd h' (not_lt.mpr h), fun _ => hp⟩
    next hp =>
      obtain ⟨lower, upper, before, at_⟩ := ih (k + 1)
      refine ⟨by omega, by omega, fun j hj h => ?_, fun h => at_ (by omega)⟩
      rcases Nat.eq_or_lt_of_le hj with rfl | hj
      · simpa using hp
      · exact before j hj h

/-- The first index below n at which p holds, or n. -/
theorem firstIdx_spec (p : Nat → Bool) (n : Nat) :
    firstIdx n p ≤ n ∧ (∀ j, j < firstIdx n p → p j = false) ∧ (firstIdx n p < n → p (firstIdx n p) = true) := by
  obtain ⟨-, upper, before, at_⟩ := firstFrom_spec p n 0
  rw [Nat.zero_add] at upper at_
  exact ⟨upper, fun j hj => before j j.zero_le hj, at_⟩

theorem reverse_eq_ofFnLE (a : Word) : a.reverse = BitVec.ofFnLE fun i : Fin 64 => a.getLsbD (63 - i.val) := by
  apply BitVec.eq_of_getLsbD_eq
  intro i hi
  rw [BitVec.getLsbD_reverse, BitVec.getLsbD_ofFnLE, dif_pos hi, BitVec.getMsbD_eq_getLsbD]
  simp [hi]

/-! ## An instruction that writes an S register -/

theorem writesScalar_of_eq {i : Instr} {s : State} {d : Reg} {u v : Word} (h : exec i s = s.writeS i d u)
    (hc : (encodeControl i).isSome) (hv : s.frag.valid = true) (e : u = v) : WritesScalar i s d v :=
  writesScalar (e ▸ h) hc (valid_lt hv)

/-! ## An instruction that moves a fragment -/

theorem fragmentIs_setEntry {x y : Watch} {e : Nat} (he : e < 8) (hs : y.split = x.split) (f : SplitEntry) :
    FragmentIs x (y.setEntry e f) e f :=
  ⟨fun k hk => (Watch.entry_setEntry_other _ _ hk).trans (by simp [Watch.entry, hs]), Watch.entry_setEntry_same _ _ he⟩

/-! ## The words of the scalar instructions (02 R40, R44, R45) -/

/-- A word of the immediate format, whose immediate fills B and MIN. -/
theorem immWord_eq (len : BitVec 2) (maj d a : Reg) (i : I12) : Spec.immWord len maj d a i = packFields (fieldsI len maj d a i) := by
  change _ = imm12 (fieldsI len maj d a i) ++ a ++ d ++ maj ++ len
  rw [imm12_fieldsI]
  rfl

theorem length_packFields (f : Fields) : (packFields f).extractLsb' 0 2 = f.len := congrArg Fields.len (unpack_pack f)

/-- The word of a 32-bit instruction reads as it. -/
theorem reads_of_encodeControl {i : Instr} {f : Fields} (hr : i.controlRanges = true) (hf : f.len = 0)
    (h : encodeControl i = some ⟨f, 0, 0⟩) : Spec.Reads (packFields f) i := fun g1 g2 => by
  have len : lenWords (packFields f) = 1 := by rw [lenWords, length_packFields, hf]; rfl
  have reads : decode (packFields f) 0 0 = i := decode_of_encodeControl (w := ⟨f, 0, 0⟩) hr h
  rw [← reads]
  exact decode_congr (by omega) (by omega)

/-- The words of a 64-bit instruction read as it. -/
theorem reads2_of_encodeControl {i : Instr} {f : Fields} {w : W32} (hr : i.controlRanges = true) (hf : f.len = 1)
    (h : encodeControl i = some ⟨f, w, 0⟩) : Spec.Reads2 (packFields f) w i := fun g2 => by
  have len : lenWords (packFields f) = 2 := by rw [lenWords, length_packFields, hf]; rfl
  have reads : decode (packFields f) w 0 = i := decode_of_encodeControl (w := ⟨f, w, 0⟩) hr h
  rw [← reads]
  exact decode_congr (fun _ => rfl) (by omega)

section
variable {i : Instr} {maj d a b m : Reg} {n : I12} {w : W32} (hr : i.controlRanges = true)
include hr

theorem reads_word (h : encodeControl i = some ⟨⟨0, maj, d, a, b, m⟩, 0, 0⟩) : Spec.Reads (Spec.word 0 maj d a b m) i :=
  reads_of_encodeControl (f := ⟨0, maj, d, a, b, m⟩) hr rfl h

theorem reads2_word (h : encodeControl i = some ⟨⟨1, maj, d, a, b, m⟩, w, 0⟩) : Spec.Reads2 (Spec.word 1 maj d a b m) w i :=
  reads2_of_encodeControl (f := ⟨1, maj, d, a, b, m⟩) hr rfl h

theorem reads_immWord (h : encodeControl i = some ⟨fieldsI 0 maj d a n, 0, 0⟩) : Spec.Reads (Spec.immWord 0 maj d a n) i := by
  rw [immWord_eq]
  exact reads_of_encodeControl hr rfl h

theorem reads2_immWord (h : encodeControl i = some ⟨⟨1, maj, d, a, 0, 0⟩, w, 0⟩) : Spec.Reads2 (Spec.immWord 1 maj d a 0) w i := by
  rw [immWord_eq]
  exact reads2_of_encodeControl hr rfl h

end

/-- A word that the control decoder does not read is a reserved encoding (02 R52). -/
theorem reads_reserved {len : BitVec 2} {maj d a b m : Reg} (h : ∀ w1 w2, decodeControl ⟨⟨len, maj, d, a, b, m⟩, w1, w2⟩ = none) :
    Spec.Reads (Spec.word len maj d a b m) (.reservedEncoding (Spec.word len maj d a b m)) := fun g1 g2 => by
  change decode (packFields ⟨len, maj, d, a, b, m⟩) g1 g2 = _
  rw [decode, unpack_pack, h]
  rfl

/-- Fields that no row of the maps names are a reserved encoding. -/
theorem reads_reserved_of_candidate {len : BitVec 2} {maj d a b m : Reg}
    (h : ∀ w1 w2, candidate (trimWords ⟨⟨len, maj, d, a, b, m⟩, w1, w2⟩) = none) :
    Spec.Reads (Spec.word len maj d a b m) (.reservedEncoding (Spec.word len maj d a b m)) :=
  reads_reserved fun w1 w2 => by rw [decodeControl, h]

end Sys2Proof.Machine

namespace Sys2Proof.Machine

/-! ## The integer group (04 R95, R96) -/

/-- Every row of the table of 04 R95 writes its result. -/
theorem writesScalar_of_alu {i : Instr} {s : State} {d : Reg} {v : Word} (hv : s.frag.valid = true)
    (h : Spec.alu s.sreg i = some (d, v)) : WritesScalar i s d v := by
  have same {u : Word} (e : exec i s = s.writeS i d u) (hc : (encodeControl i).isSome) (eq : u = v) := writesScalar_of_eq e hc hv eq
  cases i with
  | add d a b => cases h; exact same rfl rfl (BitVec.add_def ..)
  | sub d a b => cases h; exact same rfl rfl (sub_eq_ofInt ..)
  | mul d a b => cases h; exact same rfl rfl (mul_eq_ofNat ..)
  | mulh | mulhu | div | divu | rem | remu | and | or | xor | andn | mov => cases h; exact same rfl rfl rfl
  | shl d a b => cases h; exact same rfl rfl (shlWord_eq ..)
  | shr d a b => cases h; exact same rfl rfl (shrWord_eq ..)
  | sar d a b => cases h; exact same rfl rfl (sarWord_eq ..)
  | rol d a b => cases h; exact same rfl rfl (rolWord_eq ..)
  | min d a b => cases h; exact same rfl rfl (minWord_eq ..)
  | max d a b => cases h; exact same rfl rfl (maxWord_eq ..)
  | minu d a b => cases h; exact same rfl rfl (minuWord_eq ..)
  | maxu d a b => cases h; exact same rfl rfl (maxuWord_eq ..)
  | popc d a => cases h; exact same rfl rfl (congrArg _ (popCount_eq_countP _))
  | seq d a b => cases h; exact same rfl rfl (beq_eq_truth ..)
  | sne d a b => cases h; exact same rfl rfl (bne_eq_truth ..)
  | slt d a b => cases h; exact same rfl rfl (slt_eq_truth ..)
  | sltu d a b => cases h; exact same rfl rfl (ult_eq_truth ..)
  | brev d a => cases h; exact same rfl rfl (reverse_eq_ofFnLE _)
  | _ => exact nomatch h

theorem writesScalar_clz {s : State} (hv : s.frag.valid = true) (d a : Reg) :
    WritesScalar (.clz d a) s d (BitVec.ofNat 64 (clzOf (s.sreg a))) := writesScalar_of_eq rfl rfl hv rfl

theorem writesScalar_ctz {s : State} (hv : s.frag.valid = true) (d a : Reg) :
    WritesScalar (.ctz d a) s d (BitVec.ofNat 64 (ctzOf (s.sreg a))) := writesScalar_of_eq rfl rfl hv rfl

/-- The bits above the first that is 1 are the leading zeros. -/
theorem clzOf_spec (x : Word) : clzOf x ≤ 64 ∧ (∀ k, 64 - clzOf x ≤ k → k < 64 → x.getLsbD k = false) ∧
    (clzOf x < 64 → x.getLsbD (63 - clzOf x) = true) := by
  obtain ⟨le, zeros, one⟩ := firstIdx_spec (fun i => x.getLsbD (64 - 1 - i)) 64
  refine ⟨le, fun k hk h => ?_, fun h => one h⟩
  have zero := zeros (63 - k) (by unfold clzOf at hk; omega)
  rwa [show 64 - 1 - (63 - k) = k by omega] at zero

theorem ctzOf_spec (x : Word) : ctzOf x ≤ 64 ∧ (∀ k, k < ctzOf x → x.getLsbD k = false) ∧ (ctzOf x < 64 → x.getLsbD (ctzOf x) = true) :=
  firstIdx_spec (fun i => x.getLsbD i) 64

/-- A one-operand form leaves its B field 0 (02 R41): with another it is none. -/
theorem reads_reserved_of_b {i : Instr} {d a b m : Reg} (hb : b ≠ 0) (hc : candidate32 ⟨0, 0x00, d, a, b, m⟩ = some i)
    (he : encodeControl i = some ⟨⟨0, 0x00, d, a, 0, m⟩, 0, 0⟩) :
    Spec.Reads (Spec.word 0 0x00 d a b m) (.reservedEncoding (Spec.word 0 0x00 d a b m)) := by
  refine reads_reserved fun w1 w2 => ?_
  have reads : candidate (trimWords ⟨⟨0, 0x00, d, a, b, m⟩, w1, w2⟩) = some i := hc
  have differs : encodeControl i ≠ some (trimWords ⟨⟨0, 0x00, d, a, b, m⟩, w1, w2⟩) := fun h =>
    hb (congrArg (fun w => w.f.b) (Option.some.inj (h.symm.trans he)))
  rw [decodeControl, reads]
  exact if_neg fun h => differs (of_decide_eq_true (Bool.and_eq_true_iff.mp h).2)

end Sys2Proof.Machine

namespace Sys2Proof

open Machine

/-- Settles O1: each row of the table by `writesScalar_of_alu`, the counts by what `firstIdx` finds, the edge cases by the table, the words by
their encodings. -/
theorem integerGroupWritesItsResult : Obligations.IntegerGroupWritesItsResult := by
  refine ⟨fun i s d v hv h => writesScalar_of_alu hv h, fun s d a hv => ⟨?clz, ?ctz⟩, fun s d a b hv => ⟨fun hb => ?zero, fun ha hb => ?least⟩,
    fun d a b => ?words⟩
  case clz =>
    obtain ⟨le, zeros, one⟩ := clzOf_spec (s.sreg a)
    exact ⟨_, le, writesScalar_clz hv d a, zeros, one⟩
  case ctz =>
    obtain ⟨le, zeros, one⟩ := ctzOf_spec (s.sreg a)
    exact ⟨_, le, writesScalar_ctz hv d a, zeros, one⟩
  case zero =>
    refine ⟨writesScalar_of_alu hv ?_, writesScalar_of_alu hv ?_, writesScalar_of_alu hv ?_, writesScalar_of_alu hv ?_⟩ <;>
      simp [Spec.alu, hb]
  case least =>
    refine ⟨writesScalar_of_alu hv ?_, writesScalar_of_alu hv ?_⟩ <;>
      simp only [Spec.alu, ha, hb] <;> rfl
  case words =>
    intro op one
    refine ⟨?_, ?_, ?_, ?_, ?_, ?_, ?_, ?_, ?_, ?_, ?_, ?_, ?_, ?_, ?_, ?_, ?_, ?_, ?_, ?_, ?_, ?_, ?_, ?_, ?_, ?_, ?_, ?_, ?_, ?_,
      fun hb m hm => ?reserved⟩
    case reserved =>
      simp only [List.mem_cons, List.not_mem_nil, or_false] at hm
      obtain rfl | rfl | rfl | rfl | rfl := hm
      · exact reads_reserved_of_b (i := .popc d a) hb rfl rfl
      · exact reads_reserved_of_b (i := .clz d a) hb rfl rfl
      · exact reads_reserved_of_b (i := .ctz d a) hb rfl rfl
      · exact reads_reserved_of_b (i := .brev d a) hb rfl rfl
      · exact reads_reserved_of_b (i := .mov d a) hb rfl rfl
    all_goals exact reads_word rfl rfl

end Sys2Proof

namespace Sys2Proof.Machine

/-! ## The immediate forms, addresses and MAD (04 R97 to R101) -/

/-- Every immediate form, LI and LIH writes what 04 R97 and R98 say. -/
theorem writesScalar_of_imm {i : Instr} {s : State} {d : Reg} {v : Word} (hv : s.frag.valid = true)
    (h : Spec.imm s.sreg i = some (d, v)) : WritesScalar i s d v := by
  have same {u : Word} (e : exec i s = s.writeS i d u) (hc : (encodeControl i).isSome) (eq : u = v) := writesScalar_of_eq e hc hv eq
  cases i with
  | addi d a i | addi64 d a i => cases h; exact same rfl rfl (add_signExtend_eq ..)
  | andi | andi64 | ori | ori64 | xori | xori64 | li | li64 => cases h; exact same rfl rfl rfl
  | slti d a i | slti64 d a i => cases h; exact same rfl rfl (slt_signExtend_eq_truth (by decide) ..)
  | shli d a n => cases h; exact same rfl rfl (shiftLeft_eq_ofNat ..)
  | shri d a n => cases h; exact same rfl rfl (ushiftRight_eq_ofNat ..)
  | sari d a n => cases h; exact same rfl rfl (sshiftRight_eq_ofInt ..)
  | lih d a i => cases h; exact same rfl rfl (lih_eq ..)
  | _ => exact nomatch h

/-- ADDR, COLX and MAD write what 04 R99 to R101 say. -/
theorem writesScalar_of_address {i : Instr} {s : State} {d : Reg} {v : Word} (hv : s.frag.valid = true)
    (h : Spec.address s.sreg i = some (d, v)) : WritesScalar i s d v := by
  have same {u : Word} (e : exec i s = s.writeS i d u) (hc : (encodeControl i).isSome) (eq : u = v) := writesScalar_of_eq e hc hv eq
  cases i with
  | addr d a b t => cases h; exact same rfl rfl (addr_eq ..)
  | colxCol d a => cases h; exact same rfl rfl (extractLsb'_setWidth_eq _ 42 10)
  | colxOff d a => cases h; exact same rfl rfl (by rw [extractLsb'_setWidth_eq, pow_zero, Nat.div_one])
  | colxTag d a => cases h; exact same rfl rfl (extractLsb'_setWidth_eq _ 52 4)
  | mad d a b c => cases h; exact same rfl rfl (mul_add_eq_ofNat ..)
  | _ => exact nomatch h

/-- COLX has three minor codes (04 R100). -/
theorem candidate32_colx (len : BitVec 2) (d a b : Reg) {m : Reg} (hm : 3 ≤ m.toNat) : candidate32 ⟨len, 0x09, d, a, b, m⟩ = none := by
  obtain ⟨n, hn⟩ := Nat.exists_eq_add_of_le' hm
  simp [candidate32, hn]

end Sys2Proof.Machine

namespace Sys2Proof

open Machine

/-- Settles O2: the table by `writesScalar_of_imm`, the words by their encodings and by the maps, the pair by `lih_li`. -/
theorem immediateFormsWriteTheirResult : Obligations.ImmediateFormsWriteTheirResult := by
  refine ⟨fun i s d v hv h => writesScalar_of_imm hv h, fun d a b i w => ?words, lih_li⟩
  intro short long
  exact ⟨reads_immWord rfl rfl, reads_immWord rfl rfl, reads_immWord rfl rfl, reads_immWord rfl rfl, reads_immWord rfl rfl,
    reads2_immWord rfl rfl, reads2_immWord rfl rfl, reads2_immWord rfl rfl, reads2_immWord rfl rfl, reads2_immWord rfl rfl,
    reads_immWord rfl rfl, reads2_immWord rfl rfl, reads2_word rfl rfl, reads_word rfl rfl, reads_word rfl rfl, reads_word rfl rfl,
    fun m => ⟨reads_reserved_of_candidate fun _ _ => rfl, reads_reserved_of_candidate fun _ _ => rfl⟩⟩

/-- Settles O3: the results by `writesScalar_of_address`, the words by their encodings and by the maps. -/
theorem addressInstructionsWriteTheirResult : Obligations.AddressInstructionsWriteTheirResult := by
  refine ⟨fun i s d v hv h => writesScalar_of_address hv h, fun d a b m t => ⟨?_, reads_word rfl rfl, reads_word rfl rfl,
    reads_word rfl rfl, reads_word rfl rfl, fun hm => reads_reserved_of_candidate fun _ _ => candidate32_colx 0 d a b hm⟩⟩
  have tag : (0#2 ++ t : Reg) = t.setWidth 6 := by simp [BitVec.setWidth_eq_append]
  rw [tag]
  exact reads_word rfl rfl

end Sys2Proof

namespace Sys2Proof.Machine

/-! ## Branches and calls (04 R102 to R105) -/

theorem brHolds_eq (c : BrCond) (a b : Word) : brHolds c a b = Spec.holds c a b := by
  cases c with
  | eq => exact beq_eq_decide ..
  | ne => rw [brHolds, Spec.holds, bne, beq_eq_decide, ← decide_not]
  | lt => exact BitVec.slt_eq_decide ..
  | ge => rw [brHolds, Spec.holds, BitVec.slt_eq_decide, ← decide_not, decide_eq_decide, not_lt]
  | ltu => exact BitVec.ult_eq_decide ..
  | geu => rw [brHolds, Spec.holds, BitVec.ult_eq_decide, ← decide_not, decide_eq_decide, not_lt]

theorem jumps_of_jumpTo {i : Instr} {s : State} {pc : Off} (he : s.ent < 8) (h : exec i s = .next (s.jumpTo pc)) :
    Spec.Jumps i s pc none := by
  refine ⟨_, h.trans (congrArg _ (State.modFrag_eq ..)), rfl, fragmentIs_setEntry he rfl _, fun r => rfl⟩

/-- A call leaves the return point in S63. -/
theorem jumps_of_link {i : Instr} {s : State} {pc : Off} {v : Word} (he : s.ent < 8)
    (h : exec i s = .next ((s.setS linkReg v).jumpTo pc)) : Spec.Jumps i s pc (some v) := by
  have run : (s.setS linkReg v).jumpTo pc = s.setW ((s.cw.setS linkReg v).setEntry s.ent { s.frag with pc := pc }) := by
    rw [State.jumpTo, State.modFrag_eq, State.frag, State.cw_setS, State.setS_eq, State.setW_setW, State.setW_ent, Watch.entry_setS]
    rfl
  refine ⟨_, h.trans (congrArg _ run), sameButSregs_setS_setEntry .., fragmentIs_setEntry he (Watch.setS_split ..) _, fun r => ?_⟩
  rw [Watch.sreg_setEntry, Watch.sreg_setS_link]
  rfl

/-- The target of JR and CALLR is aligned where the register is. -/
theorem target_aligned_iff (a : Word) : (a.extractLsb' 0 42).extractLsb' 0 2 = 0 ↔ a.toNat % 4 = 0 := by
  rw [extractLsb'_eq_iff, show (0 : BitVec 2).toNat = 0 from rfl]
  simp only [BitVec.extractLsb'_toNat, Nat.shiftRight_zero, pow_zero, Nat.div_one]
  omega

theorem extractLsb'_zero_eq_ofNat {m : Nat} (n : Nat) (a : BitVec m) : a.extractLsb' 0 n = BitVec.ofNat n a.toNat := by
  rw [BitVec.extractLsb', Nat.shiftRight_zero]

section
variable {s : State} {a : Reg}

theorem exec_jr_of_aligned (h : (s.sreg a).toNat % 4 = 0) : exec (.jr a) s = .next (s.jumpTo ((s.sreg a).extractLsb' 0 42)) :=
  if_neg (not_not.mpr ((target_aligned_iff _).mpr h))

theorem exec_callr_of_aligned (h : (s.sreg a).toNat % 4 = 0) : exec (.callr a) s =
    .next ((s.setS linkReg ((s.frag.pc + 4).setWidth 64)).jumpTo ((s.sreg a).extractLsb' 0 42)) :=
  if_neg (not_not.mpr ((target_aligned_iff _).mpr h))

theorem exec_jr_of_misaligned (h : (s.sreg a).toNat % 4 ≠ 0) : exec (.jr a) s = .next (s.trap { cause := 0x07 }) :=
  if_pos (mt (target_aligned_iff _).mp h)

theorem exec_callr_of_misaligned (h : (s.sreg a).toNat % 4 ≠ 0) : exec (.callr a) s = .next (s.trap { cause := 0x07 }) :=
  if_pos (mt (target_aligned_iff _).mp h)

end

/-! ## System registers that trap (04 R122, R124), RTE outside a handler (R129) -/

section
variable {s : State} {a : Reg}

theorem exec_sysr_of_unlisted {n : I12} (d : Reg) (hn : n ≠ 0x030) (h : s.sysValue n.toNat = none) :
    exec (.sysr d n) s = .next (s.trap { cause := 0x0C }) := by
  change execSysr d n s = _
  rw [execSysr, if_neg hn, h]

theorem rbndBits_eq (x : Word) : (x.extractLsb' 0 7).toNat = x.toNat % 128 := by simp

theorem exec_syswRbnd_of_large (h : 64 < (s.sreg a).toNat % 128) : exec (.syswRbnd a) s = .next (s.trap { cause := 0x0C }) :=
  if_pos (by rwa [rbndBits_eq])

theorem exec_syswSigreg_outside (h : s.cw.inh = false) : exec (.syswSigreg a) s = .next (s.trap { cause := 0x0C }) :=
  if_neg (by simp [h])

theorem exec_rte_outside (h : s.cw.inh = false) : exec .rte s = .next (s.trap { cause := 0x0E }) :=
  congrArg _ (if_pos (by simp [h]))

end

end Sys2Proof.Machine

namespace Sys2Proof

open Machine

/-- Settles O4: every target by the two forms of a jump, with the link register and without. -/
theorem branchesAndCallsGoToTheirTargets : Obligations.BranchesAndCallsGoToTheirTargets := by
  intro s a b c o hv
  have he := valid_lt hv
  refine ⟨?br, ?jmp, ?call, fun aligned => ⟨?jr, ?callr⟩⟩
  case br =>
    refine jumps_of_jumpTo he ?_
    rw [← brHolds_eq, ← State.target_eq]
    rfl
  case jmp =>
    rw [← State.target_eq]
    exact jumps_of_jumpTo he rfl
  case call =>
    rw [← State.target_eq]
    exact jumps_of_link he rfl
  case jr =>
    rw [← extractLsb'_zero_eq_ofNat]
    exact jumps_of_jumpTo he (exec_jr_of_aligned aligned)
  case callr =>
    rw [← extractLsb'_zero_eq_ofNat]
    exact jumps_of_link he (exec_callr_of_aligned aligned)

/-- Settles O5, a cause at a time. -/
theorem controlTrapsAreRaised : Obligations.ControlTrapsAreRaised := fun _ _ d _ _ =>
  ⟨fun h => ⟨exec_jr_of_misaligned h, exec_callr_of_misaligned h⟩, fun hn h => exec_sysr_of_unlisted d hn h, rfl, exec_syswRbnd_of_large,
    fun h => ⟨exec_syswSigreg_outside h, exec_rte_outside h⟩, rfl, rfl⟩

end Sys2Proof

namespace Sys2Proof.Machine

/-! ## An instruction that changes the watch and goes on -/

/-- The watch once its fragment `e` went on over `i`. -/
def Watch.advance (i : Instr) (e : Nat) (y : Watch) : Watch :=
  y.setEntry e { y.entry e with sig := foldSig (y.entry e).sig (opcodeWord i), pc := (y.entry e).pc + BitVec.ofNat 42 (byteLen i) }

@[simp] theorem Watch.sreg_advance (i : Instr) (e : Nat) (y : Watch) (r : Reg) : (y.advance i e).sreg r = y.sreg r := rfl
@[simp] theorem Watch.preg_advance (i : Instr) (e : Nat) (y : Watch) (p : B4) : (y.advance i e).preg p = y.preg p := rfl
@[simp] theorem Watch.vreg_advance (i : Instr) (e : Nat) (y : Watch) (k : Nat) : (y.advance i e).vreg k = y.vreg k := rfl
@[simp] theorem Watch.queue_advance (i : Instr) (e : Nat) (y : Watch) (k : Nat) : (y.advance i e).queue k = y.queue k := rfl

/-- An instruction that makes the executing watch `y`, whose fragments are as before, and ends. -/
theorem runs_advance {i : Instr} {s : State} {y : Watch} (hv : s.frag.valid = true) (hc : (encodeControl i).isSome)
    (hs : y.split = s.cw.split) (h : exec i s = .next ((s.setW y).finish i)) : Spec.Runs i s (y.advance i s.ent) :=
  ⟨by rw [h, State.finish_setW]; rfl, advances_of hc (valid_lt hv) hs⟩

end Sys2Proof.Machine

namespace Sys2Proof.Machine

/-! ## Where an instruction of a block stands in its chain (01 R28) -/

theorem takeWhile_id_spec (L : List Bool) :
    (∀ i, i < (L.takeWhile id).length → L[i]? = some true) ∧ L[(L.takeWhile id).length]? ≠ some true := by
  induction L with
  | nil => simp
  | cons c L ih =>
    obtain ⟨inside, after⟩ := ih
    cases c with
    | false => simp
    | true =>
      refine ⟨fun i hi => ?_, by simpa using after⟩
      cases i with
      | zero => rfl
      | succ i => exact inside i (by simpa using hi)

/-- Instruction j of a block with the chain bits `bs`, after one at place p of its chain, stands at place `pos` of a chain of `len`. -/
structure ChainPlace (p : Nat) (bs : List Bool) (j pos len : Nat) : Prop where
  before : ∀ k, j < k + pos → k ≤ j → bs[k]? = some true
  first : ∀ k, k + pos = j → bs[k]? = some false
  beyond : j < pos → pos = p + j + 1
  length : len = pos + 1 + ((bs.drop (j + 1)).takeWhile id).length

theorem layChains_length (p : Nat) (bs : List Bool) : (layChains p bs).length = bs.length := by
  induction bs generalizing p with
  | nil => rfl
  | cons c t ih => simp [layChains, ih]

theorem chainPlace_of_layChains {p : Nat} {bs : List Bool} {j : Nat} {r : Nat × Nat} (h : (layChains p bs)[j]? = some r) :
    ChainPlace p bs j r.1 r.2 := by
  induction bs generalizing p j with
  | nil => simp [layChains] at h
  | cons c t ih =>
    cases j with
    | zero =>
      obtain rfl : _ = r := Option.some.inj h
      refine ⟨fun k hk hk0 => ?_, fun k hk => ?_, fun hp => ?_, rfl⟩
      · obtain rfl : k = 0 := by omega
        cases c with
        | true => rfl
        | false => simp at hk
      · obtain rfl : k = 0 := by omega
        cases c with
        | true => simp at hk
        | false => rfl
      · cases c with
        | true => rfl
        | false => simp at hp
    | succ j =>
      obtain ⟨before, first, beyond, length⟩ := ih (p := if c then p + 1 else 0) (j := j) h
      have chained (hp : j + 1 < r.1) : c = true := by
        cases c with
        | true => rfl
        | false =>
          have := beyond (by omega)
          simp only [Bool.false_eq_true, if_false] at this
          omega
      refine ⟨fun k hk hkj => ?_, fun k hk => ?_, fun hp => ?_, length⟩
      · cases k with
        | zero => exact congrArg some (chained (by omega))
        | succ k => exact before k (by omega) (by omega)
      · cases k with
        | zero =>
          have := beyond (by omega)
          cases c with
          | true =>
            simp only [if_true] at this
            omega
          | false => rfl
        | succ k => exact first k (by omega)
      · have := beyond (by omega)
        rw [chained hp] at this
        simp only [if_true] at this
        omega

/-- The chain bits of a block. -/
def chainBits (l : List (W32 × W32 × W32)) : List Bool := l.map fun x => x.1.getLsbD 29

theorem chainBits_at {l : List (W32 × W32 × W32)} {k : Nat} {x : W32 × W32 × W32} (hx : l[k]? = some x) :
    (chainBits l)[k]? = some (x.1.getLsbD 29) := by simp [chainBits, hx]

theorem not_chained {x : W32 × W32 × W32} (h : x.1.getLsbD 29 = false) : ¬Spec.chained x := fun hc =>
  Bool.false_ne_true (h.symm.trans hc)

theorem inChain_of_chainPlace {l : List (W32 × W32 × W32)} {j pos len : Nat} (h : ChainPlace 0 (chainBits l) j pos len) :
    Spec.InChain l j pos len := by
  obtain ⟨before, first, beyond, rfl⟩ := h
  obtain ⟨inside, after⟩ := takeWhile_id_spec ((chainBits l).drop (j + 1))
  refine ⟨by by_contra hn; have := beyond (by omega); omega, by omega, fun k x hk hkj hx => ?_, fun k x hk hx => ?_, fun k hk hkl => ?_,
    fun k x hk hx => ?_⟩
  · exact Option.some.inj ((chainBits_at hx).symm.trans (before k hk hkj))
  · exact not_chained (Option.some.inj ((chainBits_at hx).symm.trans (first k hk)))
  · have hb := inside (k - (j + 1)) (by omega)
    rw [List.getElem?_drop, show j + 1 + (k - (j + 1)) = k by omega, chainBits, List.getElem?_map] at hb
    simpa [Spec.chained] using hb
  · intro hc
    apply after
    rw [List.getElem?_drop, ← show k = j + 1 + ((List.drop (j + 1) (chainBits l)).takeWhile id).length by omega, chainBits_at hx]
    exact congrArg some hc

/-! ## The chain rules that a block breaks (01 R28) -/

theorem endsChain_iff (x : W32 × W32 × W32) : endsChain x.1 = true ↔ Spec.endsItsChain x := by
  have op : (x.1.extractLsb' 2 8).toNat = x.1.toNat / 4 % 256 := by
    rw [BitVec.extractLsb'_toNat, Nat.shiftRight_eq_div_pow]
  simp [endsChain, Spec.endsItsChain, op, or_assoc]

/-- The words after `w` break the chain rules at the first that goes on beyond place 7, or after one that ends its chain. -/
theorem chainBroken_iff (p : Nat) (w : W32) (ws : List W32) : chainBroken p w ws = true ↔
    ∃ k y, 1 ≤ k ∧ k ≤ ((ws.map fun x => x.getLsbD 29).takeWhile id).length ∧ (w :: ws)[k - 1]? = some y ∧
      (8 ≤ p + k ∨ endsChain y = true) := by
  induction ws generalizing p w with
  | nil =>
    simp only [chainBroken, List.map_nil, List.takeWhile_nil, List.length_nil, Bool.false_eq_true, false_iff]
    rintro ⟨k, y, one, zero, -⟩
    omega
  | cons x ws ih =>
    rw [chainBroken]
    cases hx : x.getLsbD 29 with
    | false =>
      simp only [Bool.false_and, Bool.false_eq_true, List.map_cons, hx, id_eq, List.takeWhile_cons_of_neg, not_false_eq_true,
        List.length_nil, false_iff]
      rintro ⟨k, y, one, zero, -⟩
      omega
    | true =>
      simp only [Bool.true_and, Bool.or_eq_true, decide_eq_true_eq, ih, List.map_cons, hx, id_eq, List.takeWhile_cons_of_pos,
        List.length_cons]
      constructor
      · rintro ((h | h) | ⟨k, y, one, le, hy, h⟩)
        · exact ⟨1, w, le_rfl, by omega, rfl, .inl (by omega)⟩
        · exact ⟨1, w, le_rfl, by omega, rfl, .inr h⟩
        · refine ⟨k + 1, y, by omega, by omega, ?_, h.imp_left fun h => by omega⟩
          rwa [show k + 1 - 1 = k - 1 + 1 by omega, List.getElem?_cons_succ]
      · rintro ⟨k, y, one, le, hy, h⟩
        rcases Nat.eq_or_lt_of_le one with rfl | two
        · obtain rfl : w = y := Option.some.inj hy
          exact .inl (h.imp_left fun h => by omega)
        · refine .inr ⟨k - 1, y, by omega, by omega, ?_, h.imp_left fun h => by omega⟩
          rwa [show k - 1 = k - 1 - 1 + 1 by omega, List.getElem?_cons_succ] at hy

/-- The first instruction of a chain fails where its chain breaks the rules. -/
theorem chainFails_iff {l : List (W32 × W32 × W32)} {j pos len : Nat} {x : W32 × W32 × W32} (hx : l[j]? = some x)
    (h : ChainPlace 0 (chainBits l) j pos len) :
    chainFails x.1 (j == 0) ((l.drop (j + 1)).map (·.1)) = true ↔ Spec.BreaksChain l j len := by
  have whole : (l.drop j).map (·.1) = x.1 :: (l.drop (j + 1)).map (·.1) := by
    obtain ⟨hj, rfl⟩ := List.getElem?_eq_some_iff.mp hx
    rw [List.drop_eq_getElem_cons hj, List.map_cons]
  have bits : ((l.drop (j + 1)).map (·.1)).map (fun w => w.getLsbD 29) = (chainBits l).drop (j + 1) := by
    rw [List.map_map, chainBits, List.map_drop]
    rfl
  have here {y : W32 × W32 × W32} (hy : l[j]? = some y) : y = x := Option.some.inj (hy.symm.trans hx)
  unfold chainFails Spec.BreaksChain
  cases hc : x.1.getLsbD 29 with
  | true =>
    have chained : Spec.chained x := hc
    simp only [if_true, beq_iff_eq]
    constructor
    · exact fun hj => ⟨x, hx, .inl ⟨chained, hj⟩⟩
    · rintro ⟨y, hy, ⟨-, hj⟩ | ⟨hn, -⟩⟩
      · exact hj
      · exact absurd (here hy ▸ chained) hn
  | false =>
    have chained : ¬Spec.chained x := not_chained hc
    have place : pos = 0 := by
      by_contra hn
      exact chained (Option.some.inj ((chainBits_at hx).symm.trans (h.before j (by omega) le_rfl)))
    have run := h.length
    rw [if_neg Bool.false_ne_true, chainBroken_iff, bits, ← whole]
    constructor
    · rintro ⟨k, w, one, le, hw, hk⟩
      rw [List.getElem?_map, List.getElem?_drop, Option.map_eq_some_iff] at hw
      obtain ⟨y, hy, rfl⟩ := hw
      refine ⟨x, hx, .inr ⟨chained, k, y, one, by omega, by rwa [show j + k - 1 = j + (k - 1) by omega], ?_⟩⟩
      exact hk.imp (fun h => by omega) (endsChain_iff y).mp
    · rintro ⟨y, hy, ⟨hn, -⟩ | ⟨-, k, z, one, lt, hz, hk⟩⟩
      · exact absurd (here hy ▸ hn) chained
      · refine ⟨k, z.1, one, by omega, ?_, hk.imp (fun h => by omega) (endsChain_iff z).mpr⟩
        rw [List.getElem?_map, List.getElem?_drop, show j + (k - 1) = j + k - 1 by omega, hz]
        rfl

/-! ## The entries of a block (01 R17) -/

/-- The instruction that the three words of an entry are. -/
def laneInstr (x : W32 × W32 × W32) : Instr := (decodeLane x.1 x.2.1 x.2.2).getD (.reservedEncoding 0)

theorem laneRead_ok (x : W32 × W32 × W32) (broken : Bool) : laneRead (.ok x) broken =
    (laneInstr x, if (decodeLane x.1 x.2.1 x.2.2).isNone || broken then 0x02 else 0) := by
  simp only [laneRead, laneInstr]
  cases decodeLane x.1 x.2.1 x.2.2 with
  | none => rfl
  | some i => rfl

theorem selNum_of_scalar {x : Sel} (h : 448 ≤ x.toNat) : selNum x = x.toNat - 448 := by
  rw [selNum, if_neg (by simp [selIsV]; omega), if_neg (by simp [selIsLatch]; omega), if_neg (by simp [selIsQueue]; omega)]

theorem selIsScalar_iff {x : Sel} : selIsScalar x = true ↔ 448 ≤ x.toNat := decide_eq_true_iff

theorem scalarSel_eq (s : State) (x : Sel) : s.cw.scalarSel x = Spec.scalarOf s x := by
  unfold Watch.scalarSel Spec.scalarOf
  by_cases h : 448 ≤ x.toNat
  · rw [if_pos (selIsScalar_iff.mpr h), if_pos h, selNum_of_scalar h]
    rfl
  · rw [if_neg (mt selIsScalar_iff.mp h), if_neg h]

theorem blockEntries_length (w : Watch) (ent start blk seq : Nat) (l : List (W32 × W32 × W32)) :
    (w.blockEntries ent start blk seq l).length = l.length := by
  simp [Watch.blockEntries, Watch.entriesOf, layChains_length]

/-- Each entry of a block is as 01 R17 says. -/
theorem isEntry_of_blockEntries {s : State} {st : B25} {l : List (W32 × W32 × W32)} {j : Nat} {x : W32 × W32 × W32}
    (hx : l[j]? = some x) :
    ∃ e, (s.cw.blockEntries s.ent st.toNat s.next s.seq l)[j]? = some e ∧ Spec.IsEntry s st l x j e := by
  obtain ⟨hj, -⟩ := List.getElem?_eq_some_iff.mp hx
  obtain ⟨r, hr⟩ : ∃ r, (layChains 0 (chainBits l))[j]? = some r :=
    ⟨_, List.getElem?_eq_getElem (by rwa [layChains_length, chainBits, List.length_map])⟩
  have place := chainPlace_of_layChains hr
  have bits : (l.map fun x => (.ok x : Except Nat (W32 × W32 × W32))).map (fun x => (laneWord0 x).getLsbD 29) = chainBits l := by
    rw [List.map_map]
    rfl
  have rest : ((l.map fun x => (.ok x : Except Nat (W32 × W32 × W32))).drop (j + 1)).map laneWord0 = (l.drop (j + 1)).map (·.1) := by
    rw [← List.map_drop, List.map_map]
    rfl
  have words : (l.map fun x => (.ok x : Except Nat (W32 × W32 × W32)))[j]?.getD (.error 0) = .ok x := by simp [hx]
  refine ⟨_, by
    rw [Watch.blockEntries, Watch.entriesOf, bits, List.getElem?_map, List.getElem?_zipIdx, hr, Option.map_some, Option.map_some,
      Nat.zero_add], ?_⟩
  simp only [words, rest, laneRead_ok, show laneWord0 (.ok x) = x.1 from rfl, scalarSel_eq]
  refine ⟨rfl, rfl, rfl, rfl, rfl, rfl, rfl, rfl, rfl, rfl, rfl, inChain_of_chainPlace place, rfl, ?_, ?_⟩
  · dsimp only
    split
    · exact .inr rfl
    · exact .inl rfl
  · dsimp only
    rw [← chainFails_iff hx place, ← Option.isNone_iff_eq_none, ← Bool.or_eq_true]
    split
    next h => exact iff_of_true rfl h
    next h => exact iff_of_false (by decide) h

/-! ## The scalar operands that LX waits for (06 R191, R193; log 8) -/

theorem mem_busyS_iff {s : State} {r : Nat} : r ∈ s.cw.busyS ↔ Spec.Owed s r := by
  unfold Watch.busyS Spec.Owed
  simp only [List.mem_flatMap]
  refine exists_congr fun o => and_congr_right fun _ => ?_
  cases o.done with
  | true => simp
  | false =>
    cases hk : o.kind with
    | sld => by_cases h : o.size = 4 <;> simp [h, eq_comm]
    | engine => by_cases h : o.cmd.maj = 0x36 <;> simp [h, eq_comm]
    | satom | xatom => simp [eq_comm]
    | ld | st | sst | atom | amax | tdrn | fatom | acpy | xst => simp

/-- A selector that names an S register which is owed. -/
def NamesOwedReg (s : State) (n : Sel) : Prop := 448 < n.toNat ∧ Spec.Owed s (n.toNat - 448)

theorem awaitsS_iff {s : State} {e : LqEntry} : s.cw.awaitsS s.cw.busyS e = true ↔
    ∃ n ∈ [(matOps e.instr).a, (matOps e.instr).b, (matOps e.instr).c], NamesOwedReg s n := by
  simp only [Watch.awaitsS, List.any_eq_true, Bool.and_eq_true, List.contains_iff_mem, mem_busyS_iff, selIsScalar_iff, bne_iff_ne]
  refine exists_congr fun n => and_congr_right fun _ => ?_
  constructor
  · rintro ⟨⟨scalar, nonzero⟩, owed⟩
    rw [selNum_of_scalar scalar] at nonzero owed
    exact ⟨by omega, owed⟩
  · rintro ⟨scalar, owed⟩
    rw [selNum_of_scalar scalar.le]
    exact ⟨⟨scalar.le, by omega⟩, owed⟩

/-- An entry of a block awaits an S register where an instruction of the block names one that is owed. -/
theorem any_awaitsS_iff {s : State} {st : B25} {l : List (W32 × W32 × W32)} :
    (s.cw.blockEntries s.ent st.toNat s.next s.seq l).any (s.cw.awaitsS s.cw.busyS) = true ↔ Spec.NamesOwed s l := by
  rw [List.any_eq_true]
  constructor
  · rintro ⟨e, he, awaits⟩
    obtain ⟨j, hj⟩ := List.mem_iff_getElem?.mp he
    obtain ⟨x, hx⟩ : ∃ x, l[j]? = some x := by
      obtain ⟨lt, -⟩ := List.getElem?_eq_some_iff.mp hj
      exact ⟨_, List.getElem?_eq_getElem (by rwa [blockEntries_length] at lt)⟩
    obtain ⟨e', he', instr, -⟩ := isEntry_of_blockEntries (s := s) (st := st) hx
    obtain rfl : e = e' := Option.some.inj (hj.symm.trans he')
    obtain ⟨n, hn, names⟩ := awaitsS_iff.mp awaits
    cases hd : decodeLane x.1 x.2.1 x.2.2 with
    | some i =>
      rw [hd, Option.getD_some] at instr
      exact ⟨x, List.mem_of_getElem? hx, i, hd, n, instr ▸ hn, names⟩
    | none =>
      rw [instr, hd] at hn
      obtain ⟨scalar, -⟩ := names
      obtain rfl : n = 0 := by simpa [matOps, encodeLaneOp] using hn
      exact absurd scalar (by decide)
  · rintro ⟨x, hx, i, hd, n, hn, names⟩
    obtain ⟨j, hj⟩ := List.mem_iff_getElem?.mp hx
    obtain ⟨e, he, instr, -⟩ := isEntry_of_blockEntries (s := s) (st := st) hj
    rw [hd, Option.getD_some] at instr
    exact ⟨e, List.mem_of_getElem? he, awaitsS_iff.mpr ⟨n, instr ▸ hn, names⟩⟩

/-! ## LX (04 R111) -/

/-- A block of one instruction more is fetched where its last one is too. -/
theorem fetchBlock_succ {s : State} {start n : Nat} {a : Acc} {l : List (W32 × W32 × W32)}
    (h : s.fetchBlock start (n + 1) = (.ok a, l)) : ∃ l' x, s.fetchBlock start n = (.ok a, l') ∧ l = l' ++ [x] := by
  rw [State.fetchBlock] at h
  split at h
  next _ a' l' before =>
    dsimp only at h
    split at h <;> cases h
    · exact ⟨l', _, before, rfl⟩
    next failed _ => exact (failed a rfl).elim
    next failed => exact (failed a _ _ Prod.mk.eta.symm rfl).elim
    next failed _ _ => exact (failed a _ _ Prod.mk.eta.symm rfl).elim
  next p _ failed _ =>
    cases h
    exact (failed a rfl).elim

/-- A fetch that succeeds reads every instruction of the block. -/
theorem fetchBlock_length {s : State} {start n : Nat} {a : Acc} {l : List (W32 × W32 × W32)} (h : s.fetchBlock start n = (.ok a, l)) :
    l.length = n := by
  induction n generalizing l with
  | zero => cases h; rfl
  | succ n ih =>
    obtain ⟨l', x, before, rfl⟩ := fetchBlock_succ h
    rw [List.length_append, ih before]
    rfl

section
variable {s : State} {st : B25} {n : Reg} {l : List (W32 × W32 × W32)}

theorem exec_lx_of_full (h : 128 < s.cw.lq.length + n.toNat + 1) : exec (.lx st n) s = .next s :=
  congrArg _ (if_pos h)

section
variable (room : s.cw.lq.length + n.toNat + 1 ≤ 128)
include room

theorem exec_lx_of_trap {t : TrapInfo} (h : s.fetchBlock st.toNat (n.toNat + 1) = (.trap t, l)) :
    exec (.lx st n) s = .next (s.trap t) := by
  refine congrArg Host.Outcome.next ((if_neg (Nat.not_lt.mpr room)).trans ?_)
  rw [h]
  rfl

variable {a : Acc} (h : s.fetchBlock st.toNat (n.toNat + 1) = (.ok a, l))
include h

theorem exec_lx_of_owed (owed : Spec.NamesOwed s l) : exec (.lx st n) s = .next s := by
  refine congrArg Host.Outcome.next ((if_neg (Nat.not_lt.mpr room)).trans ?_)
  rw [h]
  exact if_pos (any_awaitsS_iff.mpr owed)

/-- An accepted block stands at the end of the lane issue queue. -/
theorem exec_lx_of_room (owed : ¬Spec.NamesOwed s l) : exec (.lx st n) s = .next { s.setW
      ({ s.cw with lq := s.cw.lq ++ s.cw.blockEntries s.ent st.toNat s.next s.seq l }.setEntry s.ent
        { s.frag with sig := blockSig (.lx st n) s.frag.sig l, pc := s.frag.pc + 8 })
      with next := s.next + 1, seq := s.seq + (n.toNat + 1) } := by
  refine congrArg Host.Outcome.next ((if_neg (Nat.not_lt.mpr room)).trans ?_)
  rw [h]
  refine (if_neg (mt any_awaitsS_iff.mp owed)).trans ?_
  have accepted (es : List LqEntry) (g : SplitEntry → SplitEntry) :
      (s.modW fun w => { w with lq := w.lq ++ es }).modFrag g = s.setW ({ s.cw with lq := s.cw.lq ++ es }.setEntry s.ent (g s.frag)) := by
    rw [State.modFrag, State.modW_modW]
    rfl
  exact congrArg (fun t : State => { t with next := s.next + 1, seq := s.seq + (n.toNat + 1) }) (accepted _ _)

end

end

theorem blockSig_eq (i : Instr) (sig : W32) (l : List (W32 × W32 × W32)) :
    blockSig i sig l = (l.map (·.1)).foldl foldSig (foldSig sig (opcodeWord i)) := by
  rw [blockSig, List.foldl_map]

end Sys2Proof.Machine

namespace Sys2Proof

open Machine

/-- Settles O10: LX by its cases, its entries by `isEntry_of_blockEntries`, what it waits for by `any_awaitsS_iff`. -/
theorem lxQueuesItsBlock : Obligations.LxQueuesItsBlock := by
  intro s st n a l hv
  refine ⟨exec_lx_of_full, fun t room h => exec_lx_of_trap room h, fun room h => ⟨exec_lx_of_owed room h, fun owed => ?_⟩⟩
  have length := fetchBlock_length h
  have entries := blockEntries_length s.cw s.ent st.toNat s.next s.seq l
  refine ⟨_, exec_lx_of_room room h owed, rfl, length, ?_, List.take_left, fun j x hx => ?_, ?_⟩
  · exact List.length_append.trans (by rw [entries, length])
  · obtain ⟨e, he, isEntry⟩ := isEntry_of_blockEntries (s := s) (st := st) hx
    exact ⟨e, (List.getElem?_append_right (Nat.le_add_right ..)).trans (by rwa [Nat.add_sub_cancel_left]), isEntry⟩
  · rw [← blockSig_eq]
    exact fragmentIs_setEntry (valid_lt hv) rfl _

end Sys2Proof

namespace Sys2Proof.Machine

/-! ## Masks and rows -/

theorem getLsbD_full {w : Watch} (h : w.width ≤ 64) (l : Nat) : w.full.getLsbD l = decide (l < w.width) := by
  rw [Watch.full, fullMask, BitVec.getLsbD_ofNat, Nat.testBit_two_pow_sub_one]
  by_cases hl : l < w.width <;> simp [hl]
  omega

/-- The lanes of a mask taken from `y`, the others from `x`. -/
theorem getLsbD_merge (x y m : Mask) (l : Nat) :
    ((x &&& ~~~m) ||| (y &&& m)).getLsbD l = if m.getLsbD l then y.getLsbD l else x.getLsbD l := by
  rw [BitVec.getLsbD_or, BitVec.getLsbD_and, BitVec.getLsbD_and, BitVec.getLsbD_not]
  cases hm : m.getLsbD l with
  | true => simp
  | false =>
    simp only [Bool.not_false, Bool.and_true, Bool.and_false, Bool.or_false, Bool.false_eq_true, if_false, Bool.and_eq_left_iff_imp]
    exact fun hx => decide_eq_true (BitVec.lt_of_getLsbD hx)

theorem rowAt_blend (m : Mask) (new old : Row) {l : Nat} (hl : l < 64) :
    rowAt (blend m new old) l = if m.getLsbD l then rowAt new l else rowAt old l := by
  simp [rowAt, blend, hl]

theorem rowAt_replicate (x : W32) {l : Nat} (hl : l < 64) : rowAt (Vector.replicate 64 x) l = x := by
  simp [rowAt, hl]

/-- A write of one value into the lanes of a mask (04 R113). -/
theorem rowAt_setV (w : Watch) (n : Nat) (m : Mask) (x : W32) (k : Nat) {l : Nat} (hl : l < 64) :
    rowAt ((w.setV n m (Vector.replicate 64 x)).vreg k) l = if k = n ∧ m.getLsbD l then x else rowAt (w.vreg k) l := by
  by_cases hk : k = n
  · subst hk
    rw [Watch.setV, Watch.putV, Watch.vreg, Tbl.getD_put_same, rowAt_blend _ _ _ hl, rowAt_replicate x hl]
    simp
  · rw [if_neg fun h => hk h.1, Watch.setV, Watch.putV, Watch.vreg, Tbl.getD_put_other _ _ _ hk]
    rfl

theorem rowAt_vputLanes (w : Watch) (n : Nat) (pr : Bool) (m : Mask) (v : Word) (k : Nat) {l : Nat} (hl : l < 64) :
    rowAt ((w.vputLanes n pr m v).vreg k) l =
      if k = n ∧ m.getLsbD l then v.extractLsb' 0 32
      else if pr ∧ k = n + 1 ∧ m.getLsbD l then v.extractLsb' 32 32
      else rowAt (w.vreg k) l := by
  unfold Watch.vputLanes
  cases pr with
  | false =>
    rw [if_neg Bool.false_ne_true, rowAt_setV _ _ _ _ _ hl]
    simp
  | true =>
    rw [if_pos rfl, rowAt_setV _ _ _ _ _ hl, rowAt_setV _ _ _ _ _ hl]
    by_cases hk : k = n
    · simp [hk]
    · simp [hk]

/-! ## VGET and VPUT (04 R112, R113) -/

/-- The last register of an operand. -/
theorem topOf_eq (n : Nat) (pr : Bool) : n + (if pr then 1 else 0) = if pr then n + 1 else n := by
  cases pr <;> rfl

/-- VPUT and VPUT.ALL in the lanes of a mask. -/
theorem putsLanes_of_vputLanes {i : Instr} {s : State} {n : Nat} {pr : Bool} {m : Mask} {v : Word} (hv : s.frag.valid = true)
    (hc : (encodeControl i).isSome) (h : exec i s = .next ((s.modW fun w => w.vputLanes n pr m v).finish i)) :
    Spec.PutsLanes i s n pr (fun l => m.getLsbD l) v :=
  ⟨_, runs_advance hv hc (by cases pr <;> rfl) h, by cases pr <;> rfl, fun k l hl => rowAt_vputLanes s.cw n pr m v k hl⟩

section
variable {s : State} {d a b : Reg} {v : Sel} {pr : Bool}

section
variable (h : s.cw.allot ≤ v.toNat + (if pr then 1 else 0))
include h

theorem exec_vget_of_beyond : exec (.vget d a v pr) s = .next (s.trap { cause := 0x04 }) := if_pos h

theorem exec_vput_of_beyond : exec (.vput a b v pr) s = .next (s.trap { cause := 0x04 }) := if_pos h

theorem exec_vputAll_of_beyond : exec (.vputAll a v pr) s = .next (s.trap { cause := 0x04 }) := if_pos h

end

section
variable (h : v.toNat + (if pr then 1 else 0) < s.cw.allot)
include h

theorem exec_vget_of_wide (hl : s.cw.width ≤ (s.sreg a).toNat) : exec (.vget d a v pr) s = .next (s.trap { cause := 0x0A }) :=
  (if_neg (Nat.not_le.mpr h)).trans (if_pos hl)

theorem exec_vget_of_lane (hl : (s.sreg a).toNat < s.cw.width) : exec (.vget d a v pr) s = s.writeS (.vget d a v pr) d
    ((if pr then rowAt (s.cw.vreg (v.toNat + 1)) (s.sreg a).toNat else 0) ++ rowAt (s.cw.vreg v.toNat) (s.sreg a).toNat) :=
  (if_neg (Nat.not_le.mpr h)).trans (if_neg (Nat.not_le.mpr hl))

theorem exec_vput_of_other (hl : s.cw.width ≤ (s.sreg b).toNat ∨ s.frag.mask.getLsbD (s.sreg b).toNat = false) :
    exec (.vput a b v pr) s = .next (s.trap { cause := 0x0A }) :=
  (if_neg (Nat.not_le.mpr h)).trans (if_pos (by simpa using hl))

theorem exec_vput_of_lane (hl : (s.sreg b).toNat < s.cw.width) (hm : s.frag.mask.getLsbD (s.sreg b).toNat = true) :
    exec (.vput a b v pr) s =
      .next ((s.modW fun w => w.vputLanes v.toNat pr (oneLane (s.sreg b).toNat) (s.sreg a)).finish (.vput a b v pr)) :=
  (if_neg (Nat.not_le.mpr h)).trans (if_neg (by simp [hl, hm]))

theorem exec_vputAll_of_within : exec (.vputAll a v pr) s =
    .next ((s.modW fun w => w.vputLanes v.toNat pr s.frag.mask (s.sreg a)).finish (.vputAll a v pr)) :=
  if_neg (Nat.not_le.mpr h)

end

end

theorem vgetAndVputMoveLanes : Spec.LaneValuesMoveBetweenStreams := by
  intro s d a b v pr hv top
  have topIs : top = v.toNat + (if pr then 1 else 0) := (topOf_eq v.toNat pr).symm
  rw [topIs]
  refine ⟨fun h => ⟨exec_vget_of_beyond h, exec_vput_of_beyond h, exec_vputAll_of_beyond h⟩, fun h => ⟨exec_vget_of_wide h, fun hl => ?vget,
    exec_vput_of_other h, fun hl hm => ?vput, ?vputAll⟩⟩
  case vget => exact writesScalar (exec_vget_of_lane h hl) rfl (valid_lt hv)
  case vput =>
    have one : (fun l => (oneLane (s.sreg b).toNat).getLsbD l) = fun l => l == (s.sreg b).toNat := by
      funext l
      rw [getLsbD_oneLane (BitVec.lt_of_getLsbD hm), beq_eq_decide]
    rw [← one]
    exact putsLanes_of_vputLanes hv rfl (exec_vput_of_lane h hl hm)
  case vputAll => exact putsLanes_of_vputLanes hv rfl (exec_vputAll_of_within h)

/-! ## PGET and PPUT (04 R114, R115) -/

theorem Watch.preg_setP_same (w : Watch) {p : B4} (hp : p ≠ 0) (m : Mask) : (w.setP p m).preg p = m := by
  rw [Watch.setP, if_neg hp, Watch.preg, if_neg hp]
  exact Vector.getElem_set_self p.isLt

theorem Watch.preg_setP_other (w : Watch) {p q : B4} (h : q ≠ p) (m : Mask) : (w.setP p m).preg q = w.preg q := by
  unfold Watch.setP Watch.preg
  by_cases hp : p = 0
  · rw [if_pos hp]
  · have key : p.toNat ≠ q.toNat := fun e => h (BitVec.eq_of_toNat_eq e.symm)
    rw [if_neg hp]
    split
    · rfl
    · simp [key]

theorem Watch.setP_frame (w : Watch) (p : B4) (m : Mask) : w.setP p m = { w with p := (w.setP p m).p } := by
  unfold Watch.setP
  split <;> rfl

theorem predicatesMoveBetweenStreams : Spec.PredicatesMoveBetweenStreams := by
  intro s d a p hv hw
  refine ⟨⟨s.cw.preg p &&& s.cw.full, writesScalar rfl rfl (valid_lt hv), fun l => ?_⟩, fun l => getLsbD_full hw l, fun hp => ?_⟩
  · rw [BitVec.getLsbD_and, getLsbD_full hw, Bool.and_comm]
  · have frame := Watch.setP_frame s.cw p ((s.cw.preg p &&& ~~~s.frag.mask) ||| (s.sreg a &&& s.frag.mask))
    refine ⟨_, runs_advance (y := s.cw.setP p _) hv rfl (by rw [frame]) rfl, ?_, fun l => ?_, fun q hq => Watch.preg_setP_other _ hq _⟩
    · rw [frame]
      rfl
    · rw [Watch.preg_advance, Watch.preg_setP_same _ hp, getLsbD_merge]

end Sys2Proof.Machine

namespace Sys2Proof

open Machine

/-- Settles O11: VGET and VPUT by their cases and what `vputLanes` writes, PGET and PPUT by the rules of P[n]. -/
theorem laneValuesMoveBetweenStreams : Obligations.LaneValuesMoveBetweenStreams :=
  ⟨vgetAndVputMoveLanes, predicatesMoveBetweenStreams⟩

end Sys2Proof

namespace Sys2Proof.Machine

/-! ## SHAPE (04 R118 to R120) -/

/-- The K step that the table grants, for a request that is not reserved. -/
theorem grantK_eq (fa fb : B4) {k : B2} (hk : k ≠ 3) : (grantK fa fb k).map BitVec.toNat = Spec.kGrant fa.toNat fb.toNat k.toNat := by
  have step : k = 0 ∨ k = 1 ∨ k = 2 := by
    revert hk
    decide +revert
  have same (x : B4) {n : Nat} (hn : n < 16) : x = BitVec.ofNat 4 n ↔ x.toNat = n := by
    rw [← BitVec.toNat_inj, BitVec.toNat_ofNat, Nat.mod_eq_of_lt hn]
  have up : (if k = 0 then (1 : B2) else k).toNat = max 1 k.toNat := by rcases step with rfl | rfl | rfl <;> rfl
  have down : (if k = 2 then (1 : B2) else k).toNat = min 1 k.toNat := by rcases step with rfl | rfl | rfl <;> rfl
  have one (x : B4) : x = 1 ↔ x.toNat = 1 := same x (by decide)
  have two (x : B4) : x = 2 ↔ x.toNat = 2 := same x (by decide)
  have three (x : B4) : x = 3 ↔ x.toNat = 3 := same x (by decide)
  have four (x : B4) : x = 4 ↔ x.toNat = 4 := same x (by decide)
  have five (x : B4) : x = 5 ↔ x.toNat = 5 := same x (by decide)
  have eight (x : B4) : x = 8 ↔ x.toNat = 8 := same x (by decide)
  simp only [grantK, Spec.kGrant, one, two, three, four, five, eight, List.mem_cons, List.not_mem_nil, or_false]
  split
  · exact congrArg some up
  split
  · rfl
  split
  · exact congrArg some down
  split <;> rfl

theorem isScaled_iff (f : B4) : isScaled f = true ↔ f.toNat ∈ [3, 4, 5] := by
  decide +revert

section
variable (adj ok : BitVec 1) (gb ga : B2) (fb fa : B4) (k n : B2)

/-- The fields of a grant as a number. -/
theorem setWidth_fields_eq : (adj ++ ok ++ gb ++ ga ++ fb ++ fa ++ k ++ n).setWidth 64 =
    Spec.grantFields n.toNat k.toNat fa.toNat fb.toNat ga.toNat gb.toNat ok.toNat adj.toNat := by
  have := adj.isLt
  have := ok.isLt
  have := gb.isLt
  have := ga.isLt
  have := fb.isLt
  have := fa.isLt
  have := k.isLt
  have := n.isLt
  apply BitVec.eq_of_toNat_eq
  iterate 7 rw [append_eq_ofNat]
  simp only [Spec.grantFields, BitVec.toNat_setWidth, BitVec.toNat_ofNat, Nat.reduceAdd, Nat.reducePow]
  omega

theorem fields_ok : (adj ++ ok ++ gb ++ ga ++ fb ++ fa ++ k ++ n).getLsbD 16 = ok.getLsbD 0 := by
  iterate 6 rw [bit_high _ _ _ (by omega)]
  exact bit_low _ _ _ (by omega)

end

section
variable {x : ShapeReq}

theorem grantWord_of_none (h : grantK x.fa x.fb x.k = none) : (grantWord x).getLsbD 16 = false ∧
    (grantWord x).setWidth 64 = Spec.grantFields x.n.toNat x.k.toNat x.fa.toNat x.fb.toNat x.ga.toNat x.gb.toNat 0 0 := by
  have word : grantWord x = (0 : BitVec 1) ++ (0 : BitVec 1) ++ x.gb ++ x.ga ++ x.fb ++ x.fa ++ x.k ++ x.n := by
    rw [grantWord, h]
    rfl
  rw [word]
  exact ⟨fields_ok .., setWidth_fields_eq ..⟩

theorem grantWord_of_some {k : B2} (h : grantK x.fa x.fb x.k = some k) :
    let scaled := x.fa.toNat ∈ [3, 4, 5]
    let ga := if scaled then x.ga.toNat else 0
    let gb := if scaled then x.gb.toNat else 0
    (grantWord x).getLsbD 16 = true ∧ (grantWord x).setWidth 64 = Spec.grantFields x.n.toNat k.toNat x.fa.toNat x.fb.toNat ga gb 1
      (if k.toNat = x.k.toNat ∧ ga = x.ga.toNat ∧ gb = x.gb.toNat then 0 else 1) := by
  intro scaled ga gb
  have field (f : B2) : (if isScaled x.fa then f else 0).toNat = if scaled then f.toNat else 0 := by
    rw [apply_ite BitVec.toNat]
    exact if_congr (isScaled_iff _) rfl rfl
  have adj : (if k ≠ x.k ∨ (if isScaled x.fa then x.ga else 0) ≠ x.ga ∨ (if isScaled x.fa then x.gb else 0) ≠ x.gb then (1 : BitVec 1)
      else 0).toNat = if k.toNat = x.k.toNat ∧ ga = x.ga.toNat ∧ gb = x.gb.toNat then 0 else 1 := by
    rw [apply_ite BitVec.toNat]
    simp only [← BitVec.toNat_inj, ne_eq, field, ga, gb, ← not_and_or, ite_not]
    rfl
  simp only [grantWord, h]
  rw [fields_ok, setWidth_fields_eq, field, field, adj]
  exact ⟨rfl, rfl⟩

/-- A request that no row of the table grants is answered, and no more. -/
theorem exec_shape_of_refused {s : State} {d : Reg} (h : (grantWord x).getLsbD 16 = false) :
    exec (.shape d x) s = s.writeS (.shape d x) d ((grantWord x).setWidth 64) := by
  change Host.Outcome.next (State.finish _ (State.setS (if (grantWord x).getLsbD 16 then _ else s) d _)) = _
  rw [h]
  rfl

/-- A grant goes to S[d] and MSHAPE. -/
theorem exec_shape_of_granted {s : State} {d : Reg} (h : (grantWord x).getLsbD 16 = true) : exec (.shape d x) s =
    .next ((s.setW ({ s.cw with mshape := grantWord x }.setS d ((grantWord x).setWidth 64))).finish (.shape d x)) := by
  change Host.Outcome.next (State.finish _ (State.setS (if (grantWord x).getLsbD 16 then _ else s) d _)) = _
  rw [h, if_pos rfl, State.setS_eq, State.modW_eq, State.setW_setW, State.cw_setW]

end

end Sys2Proof.Machine

namespace Sys2Proof

open Machine

/-- Settles O12: the table by `grantK_eq`, the fields by `grantWord_of_none` and `grantWord_of_some`. -/
theorem shapeGrantsTheTable : Obligations.ShapeGrantsTheTable := by
  intro s d x hv hx
  have hk : x.k ≠ 3 := by
    have ranges : (x.n != 3 && x.k != 3 && matrixType x.fa && matrixType x.fb && true && true) = true := hx
    simp_all
  rw [← grantK_eq x.fa x.fb hk]
  cases h : grantK x.fa x.fb x.k with
  | none =>
    obtain ⟨refused, fields⟩ := grantWord_of_none h
    exact writesScalar_of_eq (exec_shape_of_refused refused) rfl hv fields
  | some k =>
    obtain ⟨granted, fields⟩ := grantWord_of_some h
    have run := runs_advance (i := .shape d x) (y := { s.cw with mshape := grantWord x }.setS d ((grantWord x).setWidth 64)) hv rfl
      (Watch.setS_split ..) (exec_shape_of_granted granted)
    refine ⟨_, run, ?_, ?_, fun r hr => ?_⟩
    · rw [Watch.advance, Watch.setEntry_frame, Watch.setS_frame, ← fields, setWidth_wide 64 (by decide)]
    · rw [Watch.sreg_advance, Watch.sreg_setS_same, fields]
    · rw [Watch.sreg_advance, Watch.sreg_setS_other _ _ hr]
      rfl

end Sys2Proof

namespace Sys2Proof.Machine

/-! ## Streams (04 R116, R117) -/

theorem mem_maskQueues {m : Byte} {k : Nat} : k ∈ maskQueues m ↔ k < 8 ∧ m.getLsbD k = true := by
  simp only [maskQueues, List.mem_filter, List.mem_range]

theorem maskQueues_nodup (m : Byte) : (maskQueues m).Nodup := List.nodup_range.filter _

theorem Watch.queue_setQ_same (w : Watch) {q : Nat} (hq : q < 8) (x : Queue) : (w.setQ q x).queue q = x := by
  simp [Watch.queue, Watch.setQ, hq]

theorem Watch.queue_setQ_other (w : Watch) {q k : Nat} (hk : k ≠ q) (x : Queue) : (w.setQ q x).queue k = w.queue k := by
  by_cases h : k < 8
  · simp [Watch.queue, Watch.setQ, h, hk]
  · simp [Watch.queue, h]

/-- A pass over a list of queues changes each queue of it once. -/
theorem queue_foldl {step : Watch → Nat → Watch} {f : Queue → Queue}
    (same : ∀ w q, q < 8 → (step w q).queue q = f (w.queue q)) (other : ∀ w q k, k ≠ q → (step w q).queue k = w.queue k) (k : Nat) :
    ∀ (l : List Nat) (w : Watch), l.Nodup → (∀ q ∈ l, q < 8) → (l.foldl step w).queue k = if k ∈ l then f (w.queue k) else w.queue k
  | [], w, _, _ => by simp
  | q :: l, w, nodup, low => by
    obtain ⟨fresh, nodup⟩ := List.nodup_cons.1 nodup
    obtain ⟨hq, low⟩ := List.forall_mem_cons.1 low
    rw [List.foldl_cons, queue_foldl same other k l _ nodup low]
    by_cases h : k = q
    · subst h
      rw [if_neg fresh, if_pos List.mem_cons_self, same w k hq]
    · simp only [other w q k h, List.mem_cons, h, false_or]

/-- A pass over the queues of a mask changes each of them. -/
theorem queue_foldl_maskQueues {step : Watch → Nat → Watch} {f : Queue → Queue}
    (same : ∀ w q, q < 8 → (step w q).queue q = f (w.queue q)) (other : ∀ w q k, k ≠ q → (step w q).queue k = w.queue k) (w : Watch)
    (m : Byte) (k : Nat) :
    ((maskQueues m).foldl step w).queue k = if k < 8 ∧ m.getLsbD k = true then f (w.queue k) else w.queue k :=
  (queue_foldl same other k _ w (maskQueues_nodup m) fun _ h => (mem_maskQueues.1 h).1).trans (if_congr mem_maskQueues rfl rfl)

/-- A watch with other queues. -/
def Watch.withQueues (w : Watch) (q : Vector Queue 8) : Watch := { w with q := q }

/-- A pass whose steps change queues only changes queues only. -/
theorem foldl_queues_frame {step : Watch → Nat → Watch} (frame : ∀ w q, step w q = w.withQueues (step w q).q) :
    ∀ (l : List Nat) (w : Watch), l.foldl step w = w.withQueues (l.foldl step w).q
  | [], _ => rfl
  | q :: l, w => calc
    l.foldl step (step w q) = (step w q).withQueues (l.foldl step (step w q)).q := foldl_queues_frame frame l (step w q)
    _ = w.withQueues (l.foldl step (step w q)).q :=
      (congrArg (fun x : Watch => x.withQueues (l.foldl step (step w q)).q) (frame w q)).trans rfl

/-- An instruction that changes queues only, and ends. -/
theorem runs_queues {i : Instr} {s : State} {y : Watch} (hv : s.frag.valid = true) (hc : (encodeControl i).isSome)
    (frame : y = s.cw.withQueues y.q) (h : exec i s = .next ((s.setW y).finish i)) :
    ∃ x, Spec.Runs i s x ∧ x = { s.cw with q := x.q, split := x.split } ∧ ∀ k, x.queue k = y.queue k :=
  ⟨y.advance i s.ent, runs_advance hv hc (by rw [frame]; rfl) h,
    congrArg (fun x : Watch => { x with split := (y.advance i s.ent).split }) frame, fun _ => rfl⟩

/-- What GO makes of a queue of its mask. -/
def Queue.started (now : Nat) (x : Queue) : Queue := if x.st = .defined then { x with st := .running, go := now } else x

/-- GO at one queue. -/
def Watch.startQueue (now : Nat) (w : Watch) (q : Nat) : Watch :=
  if (w.queue q).st = .defined then w.setQ q { w.queue q with st := .running, go := now } else w

theorem Watch.startQueue_frame (now : Nat) (w : Watch) (q : Nat) : w.startQueue now q = w.withQueues (w.startQueue now q).q := by
  unfold Watch.startQueue
  split <;> rfl

theorem Watch.queue_startQueue_same (now : Nat) (w : Watch) (q : Nat) (hq : q < 8) : (w.startQueue now q).queue q = (w.queue q).started now := by
  unfold Watch.startQueue Queue.started
  split
  · exact w.queue_setQ_same hq _
  · rfl

theorem Watch.queue_startQueue_other (now : Nat) (w : Watch) (q k : Nat) (hk : k ≠ q) : (w.startQueue now q).queue k = w.queue k := by
  unfold Watch.startQueue
  split
  · exact w.queue_setQ_other hk _
  · rfl

section
variable {s : State}

theorem exec_strmGo_of_pair (m : Byte) (h : s.cw.pair.isSome = true) : exec (.strmGo m) s = .next (s.trap { cause := 0x29 }) := if_pos h

theorem exec_strmGo_of_single (m : Byte) (h : ¬s.cw.pair.isSome = true) : exec (.strmGo m) s =
    if (maskQueues m).any fun q => (s.cw.queue q).st == .empty then .next (s.trap { cause := 0x0B })
    else .next ((s.setW ((maskQueues m).foldl (Watch.startQueue s.seq) s.cw)).finish (.strmGo m)) := if_neg h

theorem exec_strmStop_of_pair (m : Byte) (h : s.cw.pair.isSome = true) : exec (.strmStop m) s = .next (s.trap { cause := 0x29 }) :=
  if_pos h

theorem exec_strmStop_of_single (m : Byte) (h : ¬s.cw.pair.isSome = true) : exec (.strmStop m) s =
    if s.cw.lq.any fun e => e.popsAny (maskQueues m) then .next s
    else .next ((s.setW ((maskQueues m).foldl (fun w q => w.setQ q {}) s.cw)).finish (.strmStop m)) := if_neg h

/-- 04 R117: GO with an EMPTY queue in its mask. -/
theorem exec_strmGo_of_empty {m : Byte} (hp : ¬s.cw.pair.isSome = true)
    (h : ∃ k, k < 8 ∧ m.getLsbD k = true ∧ (s.cw.queue k).st = .empty) : exec (.strmGo m) s = .next (s.trap { cause := 0x0B }) := by
  obtain ⟨k, low, bit, empty⟩ := h
  rw [exec_strmGo_of_single m hp]
  exact if_pos (List.any_eq_true.2 ⟨k, mem_maskQueues.2 ⟨low, bit⟩, by rw [empty]; rfl⟩)

/-- 04 R116: GO starts the DEFINED queues of its mask. -/
theorem strmGo_starts {m : Byte} (hv : s.frag.valid = true) (hp : ¬s.cw.pair.isSome = true)
    (h : ∀ k, k < 8 → m.getLsbD k = true → (s.cw.queue k).st ≠ .empty) :
    ∃ x, Spec.Runs (.strmGo m) s x ∧ x = { s.cw with q := x.q, split := x.split } ∧ ∀ k, x.queue k =
      if k < 8 ∧ m.getLsbD k = true ∧ (s.cw.queue k).st = .defined then { s.cw.queue k with st := .running, go := s.seq }
      else s.cw.queue k := by
  have full : ¬((maskQueues m).any fun q => (s.cw.queue q).st == .empty) = true := fun bad => by
    obtain ⟨k, mem, empty⟩ := List.any_eq_true.1 bad
    obtain ⟨low, bit⟩ := mem_maskQueues.1 mem
    exact h k low bit (beq_iff_eq.1 empty)
  obtain ⟨x, run, frame, queues⟩ := runs_queues hv rfl (foldl_queues_frame (Watch.startQueue_frame s.seq) (maskQueues m) s.cw)
    ((exec_strmGo_of_single m hp).trans (if_neg full))
  refine ⟨x, run, frame, fun k => ?_⟩
  rw [queues, queue_foldl_maskQueues (Watch.queue_startQueue_same s.seq) (Watch.queue_startQueue_other s.seq), Queue.started, ← ite_and]
  exact if_congr and_assoc rfl rfl

/-- 04 R116: STOP empties the queues of its mask. -/
theorem strmStop_empties {m : Byte} (hv : s.frag.valid = true) (hp : ¬s.cw.pair.isSome = true)
    (h : ¬(s.cw.lq.any fun e => e.popsAny (maskQueues m)) = true) :
    ∃ x, Spec.Runs (.strmStop m) s x ∧ x = { s.cw with q := x.q, split := x.split } ∧ ∀ k, x.queue k =
      if k < 8 ∧ m.getLsbD k = true then {} else s.cw.queue k := by
  obtain ⟨x, run, frame, queues⟩ := runs_queues hv rfl (foldl_queues_frame (fun _ _ => rfl) (maskQueues m) s.cw)
    ((exec_strmStop_of_single m hp).trans (if_neg h))
  refine ⟨x, run, frame, fun k => ?_⟩
  rw [queues, queue_foldl_maskQueues (f := fun _ => {}) (fun w _ hq => w.queue_setQ_same hq _) fun w _ _ hk => w.queue_setQ_other hk _]

end

/-- STRM.DEF once its descriptor is read (04 R116; log 64). -/
def State.strmDefineRead (i : Instr) (q : Nat) (s : State) (v : Nat) : State :=
  if !sdBad (wordsOf 4 v) && sdVen (wordsOf 4 v) && decide (s.cw.allot ≤ sdVbase (wordsOf 4 v)) then s.trap { cause := 0x04 }
  else if !sdBad (wordsOf 4 v) && sdVen (wordsOf 4 v) && s.cw.vBusy false [(sdVbase (wordsOf 4 v), 1)] then s
  else (s.setW (s.cw.setQ q (s.cw.defined (wordsOf 4 v)))).finish i

section
variable {s : State} {a : Reg} {q : B3}

theorem exec_strmDef_of_pair (h : s.cw.pair.isSome = true) : exec (.strmDef a q) s = .next (s.trap { cause := 0x29 }) :=
  congrArg Host.Outcome.next (if_pos h)

theorem exec_strmDef_of_pops (hp : ¬s.cw.pair.isSome = true) (h : (s.cw.lq.any fun e => e.popsAny [q.toNat]) = true) :
    exec (.strmDef a q) s = .next s :=
  congrArg Host.Outcome.next ((if_neg hp).trans (if_pos h))

theorem exec_strmDef_of_running (hp : ¬s.cw.pair.isSome = true) (hq : ¬(s.cw.lq.any fun e => e.popsAny [q.toNat]) = true)
    (h : (s.cw.queue q.toNat).st = .running) : exec (.strmDef a q) s = .next (s.trap { cause := 0x0B }) :=
  congrArg Host.Outcome.next ((if_neg hp).trans ((if_neg hq).trans (if_pos h)))

theorem exec_strmDef_of_access {acc : Acc} (hp : ¬s.cw.pair.isSome = true) (hq : ¬(s.cw.lq.any fun e => e.popsAny [q.toNat]) = true)
    (hr : (s.cw.queue q.toNat).st ≠ .running)
    (ok : s.prep s.cw.home { size := 32, align := 32, tags := [0, 1] } (s.sreg a) = .ok acc) :
    exec (.strmDef a q) s = .next (s.reading acc 32 (s.strmDefineRead (.strmDef a q) q.toNat)) := by
  refine congrArg Host.Outcome.next ((if_neg hp).trans ((if_neg hq).trans ((if_neg hr).trans ?_)))
  rw [State.access, ok]
  rfl

end

/-- Each lane's queue starts with no element. -/
theorem Watch.elems_defined (w : Watch) (d : List Word) {l : Nat} (hl : l < 64) : (w.defined d).elems[l]? = some [] := by
  unfold Watch.defined
  split <;> simp [hl]

theorem Watch.defined_of_bad (w : Watch) {d : List Word} (h : sdBad d = true) : w.defined d = { st := .ended, desc := [] } := if_pos h

theorem Watch.defined_of_good (w : Watch) {d : List Word} (h : sdBad d = false) : w.defined d =
    { st := .defined, desc := d
      base := Vector.ofFn fun l => if sdVen d then (rowAt (w.vreg (sdVbase d)) l.val).signExtend 64 else 0 } :=
  if_neg (Bool.not_eq_true _ ▸ h)

section
variable {s : State} {a : Reg} {q : B3} {v : Nat}

theorem State.strmDefineRead_of_allot {i : Instr} {k : Nat} (bad : sdBad (wordsOf 4 v) = false) (ven : sdVen (wordsOf 4 v) = true)
    (h : s.cw.allot ≤ sdVbase (wordsOf 4 v)) : s.strmDefineRead i k v = s.trap { cause := 0x04 } :=
  if_pos (by rw [bad, ven, decide_eq_true h]; rfl)

theorem State.strmDefineRead_of_ready {i : Instr} {k : Nat} (h : sdBad (wordsOf 4 v) = true ∨ sdVen (wordsOf 4 v) = false ∨
      (sdVbase (wordsOf 4 v) < s.cw.allot ∧ s.cw.vBusy false [(sdVbase (wordsOf 4 v), 1)] = false)) :
    s.strmDefineRead i k v = (s.setW (s.cw.setQ k (s.cw.defined (wordsOf 4 v)))).finish i := by
  unfold State.strmDefineRead
  rcases h with bad | ven | ⟨low, idle⟩
  · simp [bad]
  · simp [ven]
  · simp [idle, Nat.not_le.2 low]

/-- 04 R116: what STRM.DEF leaves where its descriptor may be taken. -/
theorem strmDef_defines {d : List Word} (hv : s.frag.valid = true)
    (h : exec (.strmDef a q) s = .next ((s.setW (s.cw.setQ q.toNat (s.cw.defined d))).finish (.strmDef a q))) :
    ∃ x, Spec.Runs (.strmDef a q) s x ∧ x = { s.cw with q := x.q, split := x.split } ∧
      (∀ k, k ≠ q.toNat → x.queue k = s.cw.queue k) ∧ (∀ l, l < 64 → (x.queue q.toNat).elems[l]? = some []) ∧
      (sdBad d = true → (x.queue q.toNat).st = .ended) ∧
      (sdBad d = false → (x.queue q.toNat).st = .defined ∧ (x.queue q.toNat).desc = d ∧ ∀ l, l < 64 →
        (x.queue q.toNat).base[l]? = some (if sdVen d then (rowAt (s.cw.vreg (sdVbase d)) l).signExtend 64 else 0)) := by
  obtain ⟨x, run, frame, queues⟩ := runs_queues hv rfl rfl h
  have new : x.queue q.toNat = s.cw.defined d := (queues _).trans (s.cw.queue_setQ_same q.isLt _)
  refine ⟨x, run, frame, fun k hk => (queues k).trans (s.cw.queue_setQ_other hk _), fun l hl => ?_, fun bad => ?_, fun good => ?_⟩
  · rw [new, Watch.elems_defined _ _ hl]
  · rw [new, Watch.defined_of_bad _ bad]
  · rw [new, Watch.defined_of_good _ good]
    exact ⟨rfl, rfl, fun l hl => by rw [Vector.getElem?_ofFn, dif_pos hl]⟩

end

end Sys2Proof.Machine

namespace Sys2Proof

open Machine

/-- Settles O13: DEF by `exec_strmDef_of_access` and `strmDef_defines`, GO by `strmGo_starts`, STOP by `strmStop_empties`. -/
theorem streamQueuesChangeState : Obligations.StreamQueuesChangeState := by
  intro s a q m hv
  refine ⟨fun pair => ?_, fun single => ?_⟩
  · have pair : s.cw.pair.isSome = true := Option.isSome_iff_ne_none.2 pair
    exact ⟨exec_strmDef_of_pair pair, exec_strmGo_of_pair m pair, exec_strmStop_of_pair m pair⟩
  have hp : ¬s.cw.pair.isSome = true := by simp [single]
  have idle {qs : List Nat} (h : ∀ e ∈ s.cw.lq, e.popsAny qs = false) : ¬(s.cw.lq.any fun e => e.popsAny qs) = true := by
    simpa using h
  refine ⟨fun pops => exec_strmDef_of_pops hp (List.any_eq_true.2 pops),
    fun free => ⟨exec_strmDef_of_running hp (idle free), fun acc running ok => ?_⟩, exec_strmGo_of_empty hp, strmGo_starts hv hp,
    fun pops => ?_, fun free => strmStop_empties hv hp (idle free)⟩
  · have reads := exec_strmDef_of_access hp (idle free) running ok
    have read (held : s.bytesHeld (s.keyNow s.cw.ctx acc) 32 = false) :=
      reads.trans (congrArg Host.Outcome.next (if_neg (Bool.not_eq_true _ ▸ held)))
    refine ⟨fun held => reads.trans (congrArg Host.Outcome.next (if_pos held)), fun held bad ven high => ?_, fun held ready => ?_⟩
    · exact (read held).trans (congrArg Host.Outcome.next (State.strmDefineRead_of_allot bad ven high))
    · exact strmDef_defines hv ((read held).trans (congrArg Host.Outcome.next (State.strmDefineRead_of_ready ready)))
  · exact (exec_strmStop_of_single m hp).trans (if_pos (List.any_eq_true.2 pops))

end Sys2Proof

namespace Sys2Proof.Machine

/-! ## The system registers (04 R122 to R127) -/

theorem Watch.setEntry_setEntry (w : Watch) (e : Nat) (x y : SplitEntry) : (w.setEntry e x).setEntry e y = w.setEntry e y := by
  simp only [Watch.setEntry, Watch.mk.injEq, true_and, and_true]
  ext k hk
  by_cases h : k = e <;> simp [h]

theorem byteLen_of_short {i : Instr} {f : Fields} (h : encodeControl i = some ⟨f, 0, 0⟩) (hf : f.len = 0) : byteLen i = 4 := by
  rw [byteLen, opcodeWord, h, lenWords, length_packFields, hf]
  rfl

/-- What a 32-bit instruction that changes the executing watch to `x` and ends without folding leaves (09 R271). -/
theorem State.finishNoFold_setW {i : Instr} {f : Fields} (h : encodeControl i = some ⟨f, 0, 0⟩) (hf : f.len = 0) (s : State) (x : Watch) :
    (s.setW x).finishNoFold i = s.setW (x.setEntry s.ent { x.entry s.ent with pc := (x.entry s.ent).pc + 4 }) := by
  simp [State.finishNoFold_eq, State.frag, byteLen_of_short h hf]

theorem State.watchId_eq (s : State) (w : Watch) : s.watchId w = BitVec.ofNat 64 (w.slot + 2 ^ 5 * w.col0 +
    2 ^ 7 * (if w.width = 64 then 2 else if w.width = 32 then 1 else 0) + 2 ^ 10 * w.home + 2 ^ 20 * s.homeLcn w + 2 ^ 32 * w.core) := by
  simp only [State.watchId, Nat.shiftLeft_eq, Nat.mul_comm]

theorem Watch.roleId_eq (w : Watch) : w.roleId = BitVec.ofNat 64 (w.role + 4 * w.index) := by
  rw [Watch.roleId, Nat.shiftLeft_eq, Nat.mul_comm]

theorem Watch.hstate_eq (w : Watch) :
    w.hstate = BitVec.ofNat 64 ((if w.inh then 1 else 0) + 2 * w.rung.toNat + 16 * w.crgn.length) := by
  simp only [Watch.hstate, Nat.shiftLeft_eq, Nat.mul_comm]

/-- The register that the number names, listed or not. -/
theorem State.sysValue_eq (s : State) (n : Nat) : s.sysValue n = Spec.sysReg s n := by
  unfold Spec.sysReg
  split
  case h_26 =>
    iterate 15 refine (if_neg (by assumption)).trans ?_
    exact if_neg fun ⟨low, high⟩ => by interval_cases n <;> contradiction
  all_goals simp [State.sysValue, stepping, State.watchId_eq, Watch.roleId_eq, Watch.hstate_eq]

section
variable {s : State} {d : Reg}

theorem exec_sysr_of_listed {n : I12} {v : Word} (hc : n ≠ 0x030) (hs : n ≠ 0x013) (h : s.sysValue n.toNat = some v) :
    exec (.sysr d n) s = s.writeS (.sysr d n) d v := by
  change execSysr d n s = _
  rw [execSysr, if_neg hc, h]
  exact if_neg hs

theorem exec_sysr_sigreg : exec (.sysr d 0x013) s = .next ((s.setS d (s.frag.sig.setWidth 64)).finishNoFold (.sysr d 0x013)) := rfl

/-- SYSR of SIGREG goes on without folding (09 R271). -/
theorem sysr_sigreg_reads (hv : s.frag.valid = true) : ∃ x, exec (.sysr d 0x013) s = .next (s.setW x) ∧ SameButSregs s.cw x ∧
    x.sreg d = (if d = 0 then 0 else s.frag.sig.setWidth 64) ∧ (∀ r, r ≠ d → x.sreg r = s.sreg r) ∧
    FragmentIs s.cw x s.ent { s.frag with pc := s.frag.pc + 4 } := by
  refine ⟨(s.cw.setS d (s.frag.sig.setWidth 64)).setEntry s.ent { s.frag with pc := s.frag.pc + 4 }, ?_, ?_, ?_, fun r hr => ?_,
    fragmentIs_setEntry (valid_lt hv) (Watch.setS_split ..) _⟩
  · rw [exec_sysr_sigreg, State.setS_eq, State.finishNoFold_setW (f := fieldsI 0 56 d 0 0x013) rfl rfl, Watch.entry_setS]
    rfl
  · rw [SameButSregs, Watch.setEntry_frame, Watch.setS_frame]
  · rw [Watch.sreg_setEntry, Watch.sreg_setS_same]
  · exact (Watch.sreg_setS_other _ _ hr)

theorem State.core_advanceCycle_same (s : State) : s.advanceCycle.core s.cw.core =
    { s.core s.cw.core with cycle := (s.core s.cw.core).cycle + BitVec.ofNat 64 (Config.freeGap s.free) } := Tbl.getD_put_same ..

theorem State.core_advanceCycle_other (s : State) {c : Nat} (h : c ≠ s.cw.core) : s.advanceCycle.core c = s.core c :=
  Tbl.getD_put_other _ _ _ h

theorem exec_sysr_cycle : exec (.sysr d 0x030) s = .next (s.advanceCycle.setW
    ((s.cw.setS d (s.advanceCycle.core s.cw.core).cycle).advance (.sysr d 0x030) s.ent)) := by
  change Host.Outcome.next ((s.advanceCycle.setS d _).finish _) = _
  rw [State.setS_eq, State.finish_setW]
  rfl

end

end Sys2Proof.Machine

namespace Sys2Proof

open Machine

theorem sysrReadsTheRegister : Spec.SysrReadsTheRegister := by
  intro s d n hv hn
  rw [← State.sysValue_eq]
  cases h : s.sysValue n.toNat with
  | none => exact exec_sysr_of_unlisted d hn h
  | some v =>
    refine ⟨fun hs => writesScalar_of_eq (exec_sysr_of_listed hn hs h) rfl hv rfl, fun hs => ?_⟩
    subst hs
    obtain rfl : s.frag.sig.setWidth 64 = v := Option.some.inj h
    exact sysr_sigreg_reads hv

theorem cycleIsRead : Spec.CycleIsRead := by
  intro s d hv
  refine ⟨_, exec_sysr_cycle, ?_⟩
  have cores (c : Nat) (x : Watch) : (s.advanceCycle.setW x).core c = s.advanceCycle.core c := rfl
  rw [State.cw_setW, cores, State.core_advanceCycle_same]
  refine ⟨rfl, ?_, fun r hr => ?_, ?_, ?_, fun c hc => ?_, rfl, rfl⟩
  · rw [Watch.sreg_advance, Watch.sreg_setS_same]
  · rw [Watch.sreg_advance, Watch.sreg_setS_other _ _ hr]
    rfl
  · rw [SameButSregs, Watch.advance, Watch.setEntry_frame, Watch.setS_frame]
  · exact advances_of rfl (valid_lt hv) (Watch.setS_split ..)
  · rw [cores, State.core_advanceCycle_other _ hc]

/-- Settles O14: the values by `State.sysValue_eq`, the counter by `exec_sysr_cycle`. -/
theorem systemRegistersAreRead : Obligations.SystemRegistersAreRead := ⟨sysrReadsTheRegister, cycleIsRead⟩

end Sys2Proof

namespace Sys2Proof.Machine

/-! ## Writes of the system registers (04 R122 to R124) -/

section
variable {s : State} {a : Reg}

theorem exec_syswSrseed : exec (.syswSrseed a) s =
    .next ((s.setW { s.cw with srseed := s.sreg a, gen := s.cw.seeded (s.sreg a) }).finish (.syswSrseed a)) := rfl

theorem exec_syswFmask : exec (.syswFmask a) s = .next ((s.setW (s.cw.clearFmask (s.sreg a))).finish (.syswFmask a)) := rfl

theorem exec_syswRbnd_of_small (h : (s.sreg a).toNat % 128 ≤ 64) : exec (.syswRbnd a) s =
    .next ((s.setW { s.cw with rbnd := (s.sreg a).toNat % 128 }).finish (.syswRbnd a)) := by
  rw [← rbndBits_eq] at h ⊢
  exact if_neg (Nat.not_lt.2 h)

theorem exec_syswSigreg_inside (h : s.cw.inh = true) : exec (.syswSigreg a) s =
    .next ((s.modFrag fun f => { f with sig := (s.sreg a).extractLsb' 0 32 }).finishNoFold (.syswSigreg a)) := if_pos h

theorem exec_syswInject_of_reserved (h : (s.sreg a).getLsbD 2 = true) :
    exec (.syswInject a) s = .next (s.trap { cause := 0x0C }) := if_pos h

theorem exec_syswInject (h : (s.sreg a).getLsbD 2 = false) : exec (.syswInject a) s =
    .next ((s.setW { s.cw with
      inject := s.sreg a &&& 0xFFFFFFFF0000FF07
      pair := s.cw.pair.map fun p => { p with rearmed := true } }).finish (.syswInject a)) :=
  if_neg (Bool.not_eq_true _ ▸ h)

/-- SYSW of SIGREG in a handler leaves exactly the value (09 R271). -/
theorem syswSigreg_writes (hv : s.frag.valid = true) (h : s.cw.inh = true) : ∃ x, exec (.syswSigreg a) s = .next (s.setW x) ∧
    x = { s.cw with split := x.split } ∧ FragmentIs s.cw x s.ent { s.frag with sig := (s.sreg a).setWidth 32, pc := s.frag.pc + 4 } := by
  have he := valid_lt hv
  refine ⟨s.cw.setEntry s.ent { s.frag with sig := (s.sreg a).setWidth 32, pc := s.frag.pc + 4 }, ?_, rfl,
    fragmentIs_setEntry he rfl _⟩
  rw [exec_syswSigreg_inside h, State.modFrag_eq, State.finishNoFold_setW (f := fieldsI 0 57 0 a 19) rfl rfl, Watch.entry_setEntry_same _ _ he,
    Watch.setEntry_setEntry]
  rfl

end

end Sys2Proof.Machine

namespace Sys2Proof

open Machine

/-- Settles O15: each register by the equation of its write, and `runs_advance`. -/
theorem systemRegistersAreWritten : Obligations.SystemRegistersAreWritten := by
  intro s a hv
  refine ⟨⟨_, runs_advance hv rfl (by rfl) exec_syswSrseed, rfl⟩, ⟨_, runs_advance hv rfl (by rfl) exec_syswFmask, rfl, fun l => ?_, rfl⟩,
    fun small => ⟨_, runs_advance hv rfl (by rfl) (exec_syswRbnd_of_small small), rfl⟩, syswSigreg_writes hv, exec_syswInject_of_reserved,
    fun free => ⟨_, runs_advance hv rfl (by rfl) (exec_syswInject free), rfl⟩⟩
  change (s.cw.fmask &&& ~~~s.sreg a).getLsbD l = _
  by_cases hl : l < 64
  · rw [BitVec.getLsbD_and, BitVec.getLsbD_not, decide_eq_true hl, Bool.true_and]
  · rw [BitVec.getLsbD_of_ge _ _ (Nat.not_lt.1 hl), BitVec.getLsbD_of_ge s.cw.fmask _ (Nat.not_lt.1 hl), Bool.false_and]

end Sys2Proof

namespace Sys2Proof.Machine

/-! # Proofs: the lane instructions -/

/-! ## The chain of a lane instruction (01 R28 to R33) -/

/-- A table whose counter at `f l` goes up once for every `l` of a list. -/
theorem Tbl.getD_foldl_count (f : Nat → Nat) (key : Nat) (ls : List Nat) (t : Tbl Nat) :
    Tbl.getD (ls.foldl (fun t l => Tbl.put t (f l) (Tbl.getD t (f l) 0 + 1)) t) key 0 =
      Tbl.getD t key 0 + ls.countP fun l => decide (f l = key) := by
  induction ls generalizing t with
  | nil => rfl
  | cons l ls ih =>
    rw [List.foldl_cons, ih, List.countP_cons]
    by_cases h : f l = key
    · subst h
      rw [Tbl.getD_put_same]
      simp
      omega
    · rw [Tbl.getD_put_other _ _ _ (Ne.symm h)]
      simp [h]

/-- A lane occurs in the list of a mask once where the mask has it. -/
theorem countP_lanesOf_eq (m : Mask) (k : Nat) : ((lanesOf m).countP fun l => decide (l = k)) = if m.getLsbD k then 1 else 0 := by
  have nodup : (lanesOf m).Nodup := List.nodup_range.filter _
  have count : ((lanesOf m).countP fun l => decide (l = k)) = (lanesOf m).count k := rfl
  rw [count, nodup.count]
  simp only [mem_lanesOf]

/-- The pop of selector i counts once in each lane of the mask. -/
theorem popsAt_popSel (act : Mask) (o : LaneOps) (c : Chain) (i : Nat) {k q : Nat} (hk : k < 64) (hq : q < 8) :
    (popSel act o c i).popsAt q k = c.popsAt q k + if act.getLsbD k ∧ (selAt o i).toNat = 392 + q then 1 else 0 := by
  simp only [← selIsQueue_and_selNum hq]
  unfold popSel
  split
  next queue =>
    rw [Chain.popsAt, Chain.popsAt, Tbl.getD_foldl_count fun l => selNum (selAt o i) * 64 + l]
    have lane {l : Nat} (hl : l ∈ lanesOf act) : l < 64 := BitVec.lt_of_getLsbD (mem_lanesOf.mp hl)
    by_cases same : selNum (selAt o i) = q
    · have hit : (lanesOf act).countP (fun l => decide (selNum (selAt o i) * 64 + l = q * 64 + k)) =
          (lanesOf act).countP fun l => decide (l = k) :=
        List.countP_congr fun l _ => by rw [same, decide_eq_true_eq, decide_eq_true_eq, Nat.add_left_cancel_iff]
      rw [hit, countP_lanesOf_eq]
      simp [queue, same]
    · rw [List.countP_eq_zero.mpr fun l hl => by have := lane hl; simp; omega]
      simp [same]
  next other => simp [other]

/-- Every lane of the mask pops every queue as often as the instruction names it. -/
theorem popsAt_addPops (act : Mask) (o : LaneOps) (c : Chain) {k q : Nat} (hk : k < 64) (hq : q < 8) :
    (addPops act o c).popsAt q k = c.popsAt q k + if act.getLsbD k then Spec.popsQ o q else 0 := by
  rw [addPops_eq, popsAt_popSel _ _ _ 2 hk hq, popsAt_popSel _ _ _ 1 hk hq, popsAt_popSel _ _ _ 0 hk hq]
  cases act.getLsbD k with
  | false => simp
  | true =>
    simp only [true_and, if_true, Spec.popsQ, List.countP_cons, List.countP_nil, decide_eq_true_eq]
    change _ + (if o.a.toNat = _ then 1 else 0) + (if o.b.toNat = _ then 1 else 0) + (if o.c.toNat = _ then 1 else 0) = _
    omega

/-- The chain once the running instruction has issued: its pops counted, its latch value appended. -/
def State.chainAfter (s : State) (o : LaneOps) (latch : Option Row64) : Chain :=
  { addPops (s.active o) o s.chain with latches := (addPops (s.active o) o s.chain).latches ++ [latch] }

section
variable (s : State) (o : LaneOps) (latch : Option Row64)

theorem State.chainAfter_eq : s.chainAfter o latch =
    { s.chain with pops := (s.chainAfter o latch).pops, latches := s.chain.latches ++ [latch] } := by
  rw [chainAfter, addPops_frame]

theorem State.popsAt_chainAfter {q l : Nat} (hq : q < 8) (hl : l < 64) : (s.chainAfter o latch).popsAt q l = Spec.popsAfter o s q l :=
  popsAt_addPops _ _ _ hl hq

end

theorem State.addOp_eq (t : State) (p : Op) : ∃ x n q,
    t.addOp p = { t.setW { t.cw with ops := t.cw.ops ++ [x] } with next := n, seq := q } := ⟨_, _, _, rfl⟩

/-- Operations put in flight stand behind the others of the watch, and number the next ones. -/
theorem State.foldl_addOp (l : List Op) (u : State) (x : Watch) : ∃ more n q, more.length = l.length ∧
    l.foldl addOp (u.setW x) = { u.setW { x with ops := x.ops ++ more } with next := n, seq := q } := by
  induction l generalizing u x with
  | nil => exact ⟨[], u.next, u.seq, rfl, by rw [List.append_nil]; rfl⟩
  | cons p l ih =>
    obtain ⟨y, n, q, first⟩ := (u.setW x).addOp_eq p
    obtain ⟨more, n', q', len, rest⟩ := ih { u with next := n, seq := q } { x with ops := x.ops ++ [y] }
    refine ⟨y :: more, n', q', congrArg (· + 1) len, ?_⟩
    have one : (u.setW x).addOp p = State.setW { u with next := n, seq := q } { x with ops := x.ops ++ [y] } := by
      rw [first, cw_setW, setW_setW]
      rfl
    rw [List.foldl_cons, one, rest, List.append_assoc]
    rfl

section
variable {s : State} {o : LaneOps} {latch : Option Row64}

/-- Within its chain an instruction changes the chain alone. -/
theorem State.laneIssued_of_mid (h : s.lane.last = false) :
    s.laneIssued o latch = s.setW { s.cw with chain := some (s.chainAfter o latch) } := if_neg (Bool.eq_false_iff.mp h)

/-- At the end of its chain an instruction completes it and puts what it kept in flight. -/
theorem State.laneIssued_of_last (h : s.lane.last = true) : ∃ more cores n q, more.length = s.chain.ops.length ∧
    s.laneIssued o latch = { s.setW { s.cw.completeChain (s.chainAfter o latch) (s.lane.pos + 1) with ops := s.cw.ops ++ more } with
      cores := cores, next := n, seq := q } := by
  let cores := Tbl.put s.cores s.cw.core { s.core s.cw.core with holds := (s.core s.cw.core).holds.filter (· != s.cur) }
  obtain ⟨more, n, q, len, ops⟩ := foldl_addOp (s.chainAfter o latch).ops { s with cores := cores }
    (s.cw.completeChain (s.chainAfter o latch) (s.lane.pos + 1))
  refine ⟨more, cores, n, q, by rw [len, chainAfter_eq], ?_⟩
  exact (if_pos h).trans ops

theorem Watch.queue_withOps (w : Watch) (l : List Op) (q : Nat) : Watch.queue { w with ops := l } q = w.queue q := rfl

theorem Watch.queue_completeChain (w : Watch) (c : Chain) (n : Nat) {q l : Nat} (hq : q < 8) (hl : l < 64) :
    ((w.completeChain c n).queue q).popc[l]? = ((w.queue q).popc[l]?.map (· + c.popsAt q l)) ∧
    ((w.completeChain c n).queue q).elems[l]? = ((w.queue q).elems[l]?.map (·.drop (c.popsAt q l))) := by
  simp [Watch.completeChain, Watch.queue, hq, hl]

theorem State.cw_setW_with (s : State) (x : Watch) (cores : Tbl Core) (n q : Nat) :
    State.cw { s.setW x with cores := cores, next := n, seq := q } = x := State.cw_setW s x

/-- What an instruction leaves as it issues: the chain with its latch value, or what the end of its chain leaves. -/
theorem laneStep_laneIssued : Spec.LaneStep o s (s.laneIssued o latch) s.chain.gen latch := by
  cases h : s.lane.last with
  | false =>
    rw [State.laneIssued_of_mid h]
    refine ⟨by rw [State.cw_setW], by rw [State.cw_setW], fun _ => ?_, fun last => Bool.noConfusion (h.symm.trans last)⟩
    rw [State.cw_setW]
    exact ⟨rfl, rfl, rfl, rfl, rfl, _, rfl, by rw [State.chainAfter_eq], by rw [State.chainAfter_eq],
      fun q l hq hl => State.popsAt_chainAfter s o latch hq hl⟩
  | true =>
    obtain ⟨more, cores, n, q, len, run⟩ := State.laneIssued_of_last (o := o) (latch := latch) h
    rw [run]
    refine ⟨by rw [State.cw_setW_with], by rw [State.cw_setW_with]; rfl, fun mid => Bool.noConfusion (h.symm.trans mid), fun _ => ?_⟩
    rw [State.cw_setW_with]
    refine ⟨rfl, by rw [State.chainAfter_eq]; rfl, rfl, ⟨more, rfl, len⟩, fun q l hq hl => ?_⟩
    rw [← State.popsAt_chainAfter s o latch hq hl, Watch.queue_withOps]
    exact Watch.queue_completeChain _ _ _ hq hl

/-- The V and P registers are as before where only the chain has moved. -/
theorem State.regs_laneIssued : (s.laneIssued o latch).cw.v = s.cw.v ∧ (s.laneIssued o latch).cw.p = s.cw.p := by
  cases h : s.lane.last with
  | false =>
    rw [laneIssued_of_mid h, cw_setW]
    exact ⟨rfl, rfl⟩
  | true =>
    obtain ⟨more, cores, n, q, -, run⟩ := laneIssued_of_last (o := o) (latch := latch) h
    rw [run, cw_setW_with]
    exact ⟨rfl, rfl⟩

/-- Registers written as an instruction issues belong to the same issue. -/
theorem laneStep_writeRegs {t : State} {g : Row} (h : Spec.LaneStep o s t g latch) (v : Tbl Row) (p : Vector Mask 16) :
    Spec.LaneStep o s (t.setW { t.cw with v := v, p := p }) g latch := by
  obtain ⟨state, watch, mid, last⟩ := h
  refine ⟨?_, ?_, ?_, ?_⟩
  · rw [State.cw_setW]
    generalize { t.cw with v := v, p := p } = x
    exact (congrArg (·.setW x) state).trans (congrArg (fun u => { u with cores := t.cores, next := t.next, seq := t.seq }) (State.setW_setW ..))
  · rw [State.cw_setW]
    conv_lhs => rw [watch]
  · rw [State.cw_setW]
    exact mid
  · rw [State.cw_setW]
    exact last

end

/-! ## The generators that a chain has drawn from (03 R86) -/

section
variable (s : State) (g : Row)

theorem State.cw_setGen : (s.setGen g).cw = { s.cw with chain := some { s.chain with gen := g } } := State.cw_setW ..

@[simp] theorem State.active_setGen (o : LaneOps) : (s.setGen g).active o = s.active o := by
  rw [active, cw_setGen]
  rfl

theorem State.chain_setGen : (s.setGen g).chain = { s.chain with gen := g } := by
  rw [chain, cw_setGen]
  rfl

@[simp] theorem State.vreg_setGen (n : Nat) : (s.setGen g).cw.vreg n = s.cw.vreg n := by
  rw [cw_setGen]
  rfl

@[simp] theorem State.preg_setGen (n : BitVec 4) : (s.setGen g).cw.preg n = s.cw.preg n := by
  rw [cw_setGen]
  rfl

@[simp] theorem State.p_setGen : (s.setGen g).cw.p = s.cw.p := by rw [cw_setGen]

/-- An instruction that has drawn issues as from the state before it drew. -/
theorem laneStep_of_setGen {s t : State} {o : LaneOps} {g g' : Row} {latch : Option Row64} (h : Spec.LaneStep o (s.setGen g) t g' latch) :
    Spec.LaneStep o s t g' latch := by
  have other (y : Watch) : (s.setGen g).setW y = s.setW y := State.setW_setW ..
  have pops (q l : Nat) : Spec.popsAfter o (s.setGen g) q l = Spec.popsAfter o s q l := by
    rw [Spec.popsAfter, Spec.popsAfter, State.active_setGen, State.chain_setGen]
    rfl
  simp only [Spec.LaneStep, other, pops, State.chain_setGen, State.cw_setGen] at h
  exact h

end

/-! ## The results of a lane instruction (05 R134, R140) -/

theorem rowAt_of_lt (r : Row) {l : Nat} (hl : l < 64) : rowAt r l = r[l] := by
  rw [rowAt, Vector.getElem?_eq_getElem hl, Option.getD_some]

theorem row64At_of_lt (r : Row64) {l : Nat} (hl : l < 64) : row64At r l = r[l] := by
  rw [row64At, Vector.getElem?_eq_getElem hl, Option.getD_some]

theorem rowAt_ofFn (f : Fin 64 → W32) {l : Nat} (hl : l < 64) : rowAt (Vector.ofFn f) l = f ⟨l, hl⟩ := by
  rw [rowAt_of_lt _ hl, Vector.getElem_ofFn]

theorem row64At_ofFn (f : Fin 64 → Word) {l : Nat} (hl : l < 64) : row64At (Vector.ofFn f) l = f ⟨l, hl⟩ := by
  rw [row64At_of_lt _ hl, Vector.getElem_ofFn]

theorem rowAt_zeroRow (l : Nat) : rowAt zeroRow l = 0 := by
  by_cases hl : l < 64 <;> simp [rowAt, zeroRow, hl]

theorem Watch.vreg_setV_same (w : Watch) (n : Nat) (m : Mask) (r : Row) : (w.setV n m r).vreg n = blend m r (w.vreg n) := Tbl.getD_put_same ..

theorem Watch.vreg_setV_other (w : Watch) {n k : Nat} (h : k ≠ n) (m : Mask) (r : Row) : (w.setV n m r).vreg k = w.vreg k :=
  Tbl.getD_put_other _ _ _ h

section
variable {s : State} {o : LaneOps} {latch : Option Row64}

@[simp] theorem State.vreg_laneIssued (n : Nat) : (s.laneIssued o latch).cw.vreg n = s.cw.vreg n := by
  rw [Watch.vreg, State.regs_laneIssued.1]
  rfl

@[simp] theorem State.p_laneIssued : (s.laneIssued o latch).cw.p = s.cw.p := State.regs_laneIssued.2

end

/-- The latch of a 32-bit result. -/
theorem wideRow_blend_eq {s : State} {o : LaneOps} {row : Row} {r : Nat → W32} (h : ∀ l, l < 64 → rowAt row l = r l) :
    wideRow (blend (s.active o) row (if o.nw then zeroRow else s.oldD o)) = Spec.latched o s r := by
  ext l hl : 1
  have at_ : (blend (s.active o) row (if o.nw then zeroRow else s.oldD o))[l] =
      if (s.active o).getLsbD l then r l else if o.nw then 0 else rowAt (s.cw.vreg o.d.toNat) l := by
    rw [← rowAt_of_lt _ hl, rowAt_blend _ _ _ hl, h l hl]
    cases o.nw with
    | false => rfl
    | true => simp only [if_true, rowAt_zeroRow]
  rw [wideRow, Spec.latched, Vector.getElem_ofFn, Vector.getElem_ofFn]
  exact congrArg _ at_

section
variable (s : State) (o : LaneOps) (row : Row)

/-- The state that a 32-bit result leaves, but for what issues with it. -/
theorem State.putResult_of_nw (h : o.nw = true) :
    s.putResult o row = s.laneIssued o (some (wideRow (blend (s.active o) row zeroRow))) := by
  simp [putResult, h]

theorem State.putResult_of_write (h : o.nw = false) : s.putResult o row =
    (s.laneIssued o (some (wideRow (blend (s.active o) row (s.oldD o))))).modW fun w => w.setV o.d.toNat (s.active o) row := by
  simp [putResult, h]

variable {s o row}

theorem laneStep_putResult {r : Nat → W32} (h : ∀ l, l < 64 → rowAt row l = r l) :
    Spec.LaneStep o s (s.putResult o row) s.chain.gen (some (Spec.latched o s r)) := by
  rw [← wideRow_blend_eq h]
  cases hn : o.nw with
  | true =>
    rw [State.putResult_of_nw s o row hn]
    exact laneStep_laneIssued
  | false =>
    rw [State.putResult_of_write s o row hn]
    exact laneStep_writeRegs laneStep_laneIssued _ _

end

section
variable {s : State} {o : LaneOps} {row : Row}

theorem State.p_putResult : (s.putResult o row).cw.p = s.cw.p := by
  cases hn : o.nw with
  | true => rw [putResult_of_nw s o row hn, p_laneIssued]
  | false =>
    rw [putResult_of_write s o row hn, cw_modW]
    exact p_laneIssued

theorem State.vreg_putResult_other {n : Nat} (h : n ≠ o.d.toNat) : (s.putResult o row).cw.vreg n = s.cw.vreg n := by
  cases hn : o.nw with
  | true => rw [putResult_of_nw s o row hn, vreg_laneIssued]
  | false => rw [putResult_of_write s o row hn, cw_modW, Watch.vreg_setV_other _ h, vreg_laneIssued]

theorem State.vreg_putResult_of_nw (h : o.nw = true) (n : Nat) : (s.putResult o row).cw.vreg n = s.cw.vreg n := by
  rw [putResult_of_nw s o row h, vreg_laneIssued]

theorem State.vreg_putResult_of_write (h : o.nw = false) :
    (s.putResult o row).cw.vreg o.d.toNat = blend (s.active o) row (s.cw.vreg o.d.toNat) := by
  rw [putResult_of_write s o row h, cw_modW, Watch.vreg_setV_same, vreg_laneIssued]

theorem State.rowAt_putResult {r : Nat → W32} (h : ∀ l, l < 64 → rowAt row l = r l) {l : Nat} (hl : l < 64) :
    rowAt ((s.putResult o row).cw.vreg o.d.toNat) l = Spec.written o s r l := by
  cases hn : o.nw with
  | true => simp [vreg_putResult_of_nw hn, Spec.written, hn]
  | false => simp [vreg_putResult_of_write hn, rowAt_blend _ _ _ hl, Spec.written, hn, h l hl]

/-- An instruction that leaves a 32-bit result writes it. -/
theorem laneWrites_of_putResult {i : Instr} {r : Nat → W32} (run : exec i s = .next (s.putResult o row))
    (h : ∀ l, l < 64 → rowAt row l = r l) : Spec.LaneWrites i o s s.chain.gen r :=
  ⟨_, run, laneStep_putResult h, State.p_putResult, fun _ hl => State.rowAt_putResult h hl, fun _ hn => State.vreg_putResult_other hn⟩

section
variable {g : Row} {r : Nat → W32} (h : ∀ l, l < 64 → rowAt row l = r l)
include h

theorem laneStep_setGen_putResult : Spec.LaneStep o s ((s.setGen g).putResult o row) g (some (Spec.latched o s r)) := by
  have latch : Spec.latched o (s.setGen g) r = Spec.latched o s r := by simp only [Spec.latched, State.active_setGen, State.vreg_setGen]
  have step := laneStep_putResult (s := s.setGen g) (o := o) h
  rw [latch, State.chain_setGen] at step
  exact laneStep_of_setGen step

/-- An instruction that leaves a 32-bit result after draws from the generators writes it. -/
theorem laneWrites_of_setGen_putResult {i : Instr} (run : exec i s = .next ((s.setGen g).putResult o row)) : Spec.LaneWrites i o s g r := by
  refine ⟨_, run, laneStep_setGen_putResult h, State.p_putResult.trans (State.p_setGen s g), fun l hl => ?_, fun n hn => ?_⟩
  · rw [State.rowAt_putResult h hl]
    simp only [Spec.written, State.active_setGen, State.vreg_setGen]
  · rw [State.vreg_putResult_other hn, State.vreg_setGen]

end

end

/-! ### Pairs of registers -/

theorem rowAt_lowRow (r : Row64) {l : Nat} (hl : l < 64) : rowAt (lowRow r) l = (row64At r l).setWidth 32 := by
  rw [lowRow, rowAt_ofFn _ hl, row64At_of_lt r hl]
  exact (BitVec.setWidth_eq_extractLsb' (by decide)).symm

theorem rowAt_highRow (r : Row64) {l : Nat} (hl : l < 64) : rowAt (highRow r) l = (row64At r l).extractLsb' 32 32 := by
  rw [highRow, rowAt_ofFn _ hl, row64At_of_lt r hl]
  rfl

theorem row64At_joinRows (lo hi : Row) {l : Nat} (hl : l < 64) : row64At (joinRows lo hi) l = rowAt hi l ++ rowAt lo l := by
  rw [joinRows, row64At_ofFn _ hl, rowAt_of_lt lo hl, rowAt_of_lt hi hl]
  rfl

theorem row64At_blend64 (m : Mask) (new old : Row64) {l : Nat} (hl : l < 64) :
    row64At (blend64 m new old) l = if m.getLsbD l then row64At new l else row64At old l := by
  rw [blend64, row64At_ofFn _ hl, row64At_of_lt new hl, row64At_of_lt old hl]
  rfl

theorem row64At_zeroRow64 (l : Nat) : row64At zeroRow64 l = 0 := by
  by_cases hl : l < 64 <;> simp [row64At, zeroRow64, hl]

/-- The latch of a 64-bit result. -/
def State.latch64 (s : State) (o : LaneOps) (row : Row64) : Row64 :=
  blend64 (s.active o) row (if o.nw then zeroRow64 else joinRows (s.cw.vreg o.d.toNat) (s.cw.vreg (o.d.toNat + 1)))

section
variable {s : State} {o : LaneOps} {row : Row64}

theorem State.row64At_latch64 {l : Nat} (hl : l < 64) : row64At (s.latch64 o row) l =
    if (s.active o).getLsbD l then row64At row l else if o.nw then 0
      else rowAt (s.cw.vreg (o.d.toNat + 1)) l ++ rowAt (s.cw.vreg o.d.toNat) l := by
  rw [latch64, row64At_blend64 _ _ _ hl]
  cases o.nw with
  | true => simp only [if_true, row64At_zeroRow64]
  | false => simp only [Bool.false_eq_true, if_false, row64At_joinRows _ _ hl]

theorem State.putResult64_of_nw (h : o.nw = true) : s.putResult64 o row = s.laneIssued o (some (s.latch64 o row)) := by
  simp [putResult64, latch64, h]

theorem State.putResult64_of_write (h : o.nw = false) : s.putResult64 o row = (s.laneIssued o (some (s.latch64 o row))).modW fun w =>
    (w.setV o.d.toNat (s.active o) (lowRow row)).setV (o.d.toNat + 1) (s.active o) (highRow row) := by
  simp [putResult64, latch64, h]

theorem laneStep_putResult64 : Spec.LaneStep o s (s.putResult64 o row) s.chain.gen (some (s.latch64 o row)) := by
  cases hn : o.nw with
  | true =>
    rw [State.putResult64_of_nw hn]
    exact laneStep_laneIssued
  | false =>
    rw [State.putResult64_of_write hn]
    exact laneStep_writeRegs laneStep_laneIssued _ _

theorem State.p_putResult64 : (s.putResult64 o row).cw.p = s.cw.p := by
  cases hn : o.nw with
  | true => rw [putResult64_of_nw hn, p_laneIssued]
  | false =>
    rw [putResult64_of_write hn, cw_modW]
    exact p_laneIssued

theorem State.vreg_putResult64_other {n : Nat} (h : n ≠ o.d.toNat) (h' : n ≠ o.d.toNat + 1) :
    (s.putResult64 o row).cw.vreg n = s.cw.vreg n := by
  cases hn : o.nw with
  | true => rw [putResult64_of_nw hn, vreg_laneIssued]
  | false => rw [putResult64_of_write hn, cw_modW, Watch.vreg_setV_other _ h', Watch.vreg_setV_other _ h, vreg_laneIssued]

theorem State.rowAt_putResult64 {l : Nat} (hl : l < 64) :
    rowAt ((s.putResult64 o row).cw.vreg o.d.toNat) l = Spec.written o s (fun l => (row64At row l).setWidth 32) l ∧
    rowAt ((s.putResult64 o row).cw.vreg (o.d.toNat + 1)) l =
      if (s.active o).getLsbD l && !o.nw then (row64At row l).extractLsb' 32 32 else rowAt (s.cw.vreg (o.d.toNat + 1)) l := by
  cases hn : o.nw with
  | true => simp [putResult64_of_nw hn, Spec.written, hn]
  | false =>
    rw [putResult64_of_write hn, cw_modW, Watch.vreg_setV_other _ (Nat.ne_of_lt o.d.toNat.lt_succ_self), Watch.vreg_setV_same,
      Watch.vreg_setV_same, Watch.vreg_setV_other _ (Nat.ne_of_gt o.d.toNat.lt_succ_self), rowAt_blend _ _ _ hl, rowAt_blend _ _ _ hl,
      rowAt_lowRow _ hl, rowAt_highRow _ hl]
    simp [Spec.written, hn]

/-- An instruction that leaves a 64-bit result writes its halves. -/
theorem laneWritesPair_of_putResult64 {i : Instr} {r : Nat → Word} (run : exec i s = .next (s.putResult64 o row))
    (h : ∀ l, l < 64 → row64At row l = r l) : Spec.LaneWritesPair i o s s.chain.gen r := by
  refine ⟨_, _, run, laneStep_putResult64, State.p_putResult64, fun l hl => ?_, fun l hl => ?_, fun n => State.vreg_putResult64_other⟩
  · rw [State.row64At_latch64 hl, h l hl]
  · rw [(State.rowAt_putResult64 hl).1, (State.rowAt_putResult64 hl).2, h l hl, Spec.written, Spec.written, h l hl]
    exact ⟨rfl, rfl⟩

/-- An instruction that leaves a 64-bit result after draws from the generators writes its halves. -/
theorem laneWritesPair_of_setGen_putResult64 {i : Instr} {g : Row} {r : Nat → Word}
    (run : exec i s = .next ((s.setGen g).putResult64 o row)) (h : ∀ l, l < 64 → row64At row l = r l) : Spec.LaneWritesPair i o s g r := by
  have step := laneStep_putResult64 (s := s.setGen g) (o := o) (row := row)
  rw [State.chain_setGen] at step
  refine ⟨_, _, run, laneStep_of_setGen step, State.p_putResult64.trans (State.p_setGen s g), fun l hl => ?_, fun l hl => ?_, fun n hn hn' => ?_⟩
  · rw [State.row64At_latch64 hl, h l hl]
    simp only [State.active_setGen, State.vreg_setGen]
  · rw [(State.rowAt_putResult64 hl).1, (State.rowAt_putResult64 hl).2]
    simp only [Spec.written, State.active_setGen, State.vreg_setGen, h l hl, and_self]
  · rw [State.vreg_putResult64_other hn hn', State.vreg_setGen]

end

/-! ### Predicates -/

section
variable {s : State} {o : LaneOps} {m : Mask}

theorem State.putPred_eq : s.putPred o m = (s.laneIssued o none).modW fun w =>
    w.setP (o.d.setWidth 4) ((w.preg (o.d.setWidth 4) &&& ~~~s.active o) ||| (m &&& s.active o)) := rfl

theorem laneStep_setP {t : State} {g : Row} {latch : Option Row64} (h : Spec.LaneStep o s t g latch) (n : B4) (f : Watch → Mask) :
    Spec.LaneStep o s (t.modW fun w => w.setP n (f w)) g latch := by
  rw [State.modW_eq, Watch.setP_frame]
  exact laneStep_writeRegs h t.cw.v _

theorem laneStep_putPred : Spec.LaneStep o s (s.putPred o m) s.chain.gen none :=
  laneStep_setP laneStep_laneIssued _ fun w => (w.preg (o.d.setWidth 4) &&& ~~~s.active o) ||| (m &&& s.active o)

/-- The predicates read as before where the P registers are (P0 is the watch's lanes). -/
theorem preg_of_laneStep {t : State} {g : Row} {latch : Option Row64} (h : Spec.LaneStep o s t g latch) (hp : t.cw.p = s.cw.p) (n : B4) :
    t.cw.preg n = s.cw.preg n := by
  obtain ⟨-, watch, -⟩ := h
  have full : t.cw.full = s.cw.full := by rw [watch]; rfl
  rw [Watch.preg, Watch.preg, full, hp]

@[simp] theorem State.preg_laneIssued (latch : Option Row64) (n : B4) : (s.laneIssued o latch).cw.preg n = s.cw.preg n :=
  preg_of_laneStep laneStep_laneIssued p_laneIssued n

theorem State.preg_putPred_same {n : B4} (h : n ≠ 0) (hn : n = o.d.setWidth 4) (l : Nat) :
    ((s.putPred o m).cw.preg n).getLsbD l = if (s.active o).getLsbD l then m.getLsbD l else (s.cw.preg n).getLsbD l := by
  subst hn
  rw [putPred_eq, cw_modW, Watch.preg_setP_same _ h, getLsbD_merge, preg_laneIssued]

/-- An instruction that leaves a predicate writes it. -/
theorem laneWritesPred_of_putPred {i : Instr} {r : Nat → Bool} (run : exec i s = .next (s.putPred o m))
    (h : ∀ l, l < 64 → m.getLsbD l = r l) : Spec.LaneWritesPred i o s r := by
  refine ⟨_, run, laneStep_putPred, ?_, fun hn l hl => ?_, fun k hk => ?_⟩
  · rw [State.putPred_eq, State.cw_modW, Watch.setP_frame]
    exact State.regs_laneIssued.1
  · rw [State.preg_putPred_same hn rfl, h l hl]
  · rw [State.putPred_eq, State.cw_modW, Watch.preg_setP_other _ hk, State.preg_laneIssued]

end

/-! ## The sources of a lane instruction (05 R133) -/

/-- A choice by the class of a selector is the choice by its number (02 R48). -/
theorem selClass_eq {α : Sort _} (x : Sel) (v latch queue lit scalar none_ : α) :
    (if selIsV x then v else if selIsLatch x then latch else if selIsQueue x then queue else if selIsLit x then lit
      else if selIsScalar x then scalar else none_) =
    if x.toNat < 384 then v else if x.toNat < 392 then latch else if x.toNat < 400 then queue else if x.toNat = 416 then lit
      else if 448 ≤ x.toNat then scalar else none_ := by
  simp only [selIsV, selIsLatch, selIsQueue, selIsLit, selIsScalar, decide_eq_true_eq, beq_iff_eq]
  by_cases h1 : x.toNat < 384
  · rw [if_pos h1, if_pos h1]
  · by_cases h2 : x.toNat < 392
    · rw [if_neg h1, if_neg h1, if_pos ⟨by omega, h2⟩, if_pos h2]
    · by_cases h3 : x.toNat < 400
      · rw [if_neg h1, if_neg h1, if_neg (by omega), if_neg h2, if_pos ⟨by omega, h3⟩, if_pos h3]
      · rw [if_neg h1, if_neg h1, if_neg (by omega), if_neg h2, if_neg (by omega), if_neg h3]

theorem selNum_of_latch {x : Sel} (h : 384 ≤ x.toNat) (h' : x.toNat < 392) : selNum x = x.toNat - 384 := by
  rw [selNum, if_neg (by simp [selIsV]; omega), if_pos (by simp [selIsLatch]; omega)]

theorem selNum_of_queue {x : Sel} (h : 392 ≤ x.toNat) (h' : x.toNat < 400) : selNum x = x.toNat - 392 := by
  rw [selNum, if_neg (by simp [selIsV]; omega), if_neg (by simp [selIsLatch]; omega), if_pos (by simp [selIsQueue]; omega)]

theorem row64At_replicate (x : Word) {l : Nat} (hl : l < 64) : row64At (Vector.replicate 64 x) l = x := by
  simp [row64At, hl]

theorem row64At_wideRow (r : Row) {l : Nat} (hl : l < 64) : row64At (wideRow r) l = (rowAt r l).setWidth 64 := by
  rw [wideRow, row64At_ofFn _ hl, rowAt_of_lt r hl]
  rfl

section
variable (s : State) (o : LaneOps) (i : Nat) {l : Nat} (hl : l < 64)
include hl

omit hl in
/-- The element that the pop of a queue selector reads (01 R32). -/
theorem State.popElem_eq (h : 392 ≤ (selAt o i).toNat) (h' : (selAt o i).toNat < 400) : s.popElem o i l =
    (((s.cw.queue ((selAt o i).toNat - 392)).elems[l]?).getD [])[s.chain.popsAt ((selAt o i).toNat - 392) l +
      ((List.range i).countP fun j => selAt o j = selAt o i)]? := by
  rw [popElem, selNum_of_queue h h', popsBefore, List.countP_eq_length_filter]
  rfl

theorem State.rowAt_src : rowAt (s.src o i) l = Spec.source o s i l := by
  rw [src, selClass_eq]
  unfold Spec.source
  extract_lets x
  split
  · rfl
  split
  next hv hlatch => rw [selNum_of_latch (Nat.not_lt.mp hv) hlatch, rowAt_lowRow _ hl]
  split
  next hlatch hqueue =>
    rw [popRow, rowAt_ofFn _ hl, popElem_eq s o i (Nat.not_lt.mp hlatch) hqueue]
    cases (((s.cw.queue (x - 392)).elems[l]?).getD [])[s.chain.popsAt (x - 392) l +
      ((List.range i).countP fun j => selAt o j = selAt o i)]? with
    | none => rfl
    | some e => cases e <;> rfl
  split
  · exact rowAt_replicate _ hl
  split
  · rw [rowAt_replicate _ hl]
    exact (BitVec.setWidth_eq_extractLsb' (by decide)).symm
  · exact rowAt_zeroRow l

theorem State.row64At_src64 : row64At (s.src64 o i) l = Spec.source64 o s i l := by
  rw [src64, selClass_eq]
  unfold Spec.source64
  extract_lets x
  split
  · exact row64At_joinRows _ _ hl
  split
  next hv hlatch => rw [selNum_of_latch (Nat.not_lt.mp hv) hlatch]
  split
  next hv hlatch hqueue =>
    have pop : s.src o i = s.popRow o i := by rw [src, selClass_eq, if_neg hv, if_neg hlatch, if_pos hqueue]
    rw [row64At_wideRow _ hl, ← s.rowAt_src o i hl, pop]
  split
  · exact row64At_replicate _ hl
  split
  · exact row64At_replicate _ hl
  · exact row64At_zeroRow64 l

end

/-! ## Lane instructions of 32-bit sources -/

/-- A lane instruction of up to three sources and the old destination writes what it gives of them. -/
theorem laneWrites_of_lane3 {i : Instr} {s : State} {o : LaneOps} {f : W32 → W32 → W32 → W32 → W32} {r : Nat → W32}
    (run : exec i s = .next (s.lane3 o f))
    (h : ∀ l, l < 64 → f (Spec.source o s 0 l) (Spec.source o s 1 l) (Spec.source o s 2 l) (rowAt (s.cw.vreg o.d.toNat) l) = r l) :
    Spec.LaneWrites i o s s.chain.gen r := by
  refine laneWrites_of_putResult run fun l hl => ?_
  rw [rowAt_ofFn _ hl, ← h l hl, ← s.rowAt_src o 0 hl, ← s.rowAt_src o 1 hl, ← s.rowAt_src o 2 hl]
  simp only [rowAt_of_lt _ hl]
  rfl

/-- A row of a table of results, which names the operands of its instruction and the value `f` of its sources. -/
theorem laneWrites_of_table {T : W32 → W32 → W32 → W32 → Option (LaneOps × W32)} {i : Instr} {s : State} {o p : LaneOps}
    {f g : W32 → W32 → W32 → W32 → W32} {r : Nat → W32}
    (h : ∀ l, l < 64 → T (Spec.source o s 0 l) (Spec.source o s 1 l) (Spec.source o s 2 l) (rowAt (s.cw.vreg o.d.toNat) l) = some (o, r l))
    (run : exec i s = .next (s.lane3 p f)) (row : ∀ a b c d, T a b c d = some (p, g a b c d)) (eq : ∀ a b c d, f a b c d = g a b c d) :
    Spec.LaneWrites i o s s.chain.gen r := by
  have entry {l : Nat} (hl : l < 64) := Prod.mk.inj (Option.some.inj ((row ..).symm.trans (h l hl)))
  obtain rfl : p = o := (entry (l := 0) (by decide)).1
  exact laneWrites_of_lane3 run fun l hl => (eq ..).trans (entry hl).2

/-! ## The values of the integer lane instructions (05 R136 to R139) -/

section
variable {w : Nat} (a b : BitVec w)

theorem laneSub_eq : a - b = BitVec.ofInt w (a.toInt - b.toInt) := by
  apply BitVec.eq_of_toInt_eq
  rw [BitVec.toInt_sub, BitVec.toInt_ofInt]

theorem laneMul_eq : a * b = BitVec.ofNat w (a.toNat * b.toNat) := by
  apply BitVec.eq_of_toNat_eq
  rw [BitVec.toNat_mul, BitVec.toNat_ofNat]

theorem laneShl_eq (n : Nat) : a <<< n = BitVec.ofNat w (a.toNat * 2 ^ n) := by
  apply BitVec.eq_of_toNat_eq
  rw [BitVec.toNat_shiftLeft, Nat.shiftLeft_eq, BitVec.toNat_ofNat]

theorem laneShr_eq (n : Nat) : a >>> n = BitVec.ofNat w (a.toNat / 2 ^ n) := by
  rw [← Nat.shiftRight_eq_div_pow, ← BitVec.toNat_ushiftRight, BitVec.ofNat_toNat, BitVec.setWidth_eq]

theorem laneSar_eq (n : Nat) : a.sshiftRight n = BitVec.ofInt w (a.toInt / 2 ^ n) := by
  rw [BitVec.sshiftRight, Int.shiftRight_eq_div_pow]
  norm_cast

end

theorem laneRot_eq (a b : W32) : a.rotateLeft (laneCount b) =
    BitVec.ofNat 32 (a.toNat * 2 ^ (b.toNat % 32)) ||| BitVec.ofNat 32 (a.toNat / 2 ^ (32 - b.toNat % 32)) := by
  rw [laneCount, BitVec.rotateLeft_eq_rotateLeftAux_of_lt (Nat.mod_lt _ (by decide)), BitVec.rotateLeftAux, laneShl_eq, laneShr_eq]

theorem iminLane_eq (a b : W32) : iminLane a b = BitVec.ofInt 32 (min a.toInt b.toInt) := by
  rw [iminLane, BitVec.slt_eq_decide]
  by_cases h : a.toInt < b.toInt
  · simp [h, min_eq_left h.le]
  · simp [h, min_eq_right (not_lt.mp h)]

theorem imaxLane_eq (a b : W32) : imaxLane a b = BitVec.ofInt 32 (max a.toInt b.toInt) := by
  rw [imaxLane, BitVec.slt_eq_decide]
  by_cases h : b.toInt < a.toInt
  · simp [h, max_eq_left h.le]
  · simp [h, max_eq_right (not_lt.mp h)]

theorem iminuLane_eq (a b : W32) : iminuLane a b = BitVec.ofNat 32 (min a.toNat b.toNat) := by
  rw [iminuLane, BitVec.ult_eq_decide]
  by_cases h : a.toNat < b.toNat
  · simp [h, min_eq_left h.le]
  · simp [h, min_eq_right (not_lt.mp h)]

theorem imaxuLane_eq (a b : W32) : imaxuLane a b = BitVec.ofNat 32 (max a.toNat b.toNat) := by
  rw [imaxuLane, BitVec.ult_eq_decide]
  by_cases h : b.toNat < a.toNat
  · simp [h, max_eq_left h.le]
  · simp [h, max_eq_right (not_lt.mp h)]

theorem clamp32_eq (x : Int) : clamp32 x = Spec.sat32 x := by
  rw [clamp32, clampI, Spec.sat32]
  congr 1
  split <;> [skip; split] <;> omega

theorem sat32_of_range {x : Int} (lo : -2 ^ 31 ≤ x) (hi : x ≤ 2 ^ 31 - 1) : Spec.sat32 x = BitVec.ofInt 32 x := by
  rw [Spec.sat32, min_eq_right hi, max_eq_right lo]

/-- Only the least integer has a magnitude outside the range. -/
theorem toInt_range_of_ne_least {a : W32} (h : a ≠ 0x80000000) : -2 ^ 31 < a.toInt ∧ a.toInt ≤ 2 ^ 31 - 1 := by
  have least : a.toInt ≠ -2 ^ 31 := fun e => h (BitVec.eq_of_toInt_eq (e.trans (by decide)))
  have lo := BitVec.le_toInt a
  have hi := BitVec.toInt_lt (x := a)
  omega

theorem iabsLane_eq (sat : Bool) (a : W32) :
    iabsLane sat a = if sat then Spec.sat32 |a.toInt| else BitVec.ofInt 32 |a.toInt| := by
  by_cases h : a = 0x80000000
  · subst h
    cases sat <;> decide
  · obtain ⟨lo, hi⟩ := toInt_range_of_ne_least h
    have lo' := neg_nonpos_of_nonneg (abs_nonneg a.toInt)
    have magnitude : |a.toInt| ≤ 2 ^ 31 - 1 := abs_le.mpr ⟨by omega, hi⟩
    rw [sat32_of_range (by omega) magnitude, ite_self, iabsLane, if_neg h, BitVec.slt_eq_decide]
    by_cases neg : a.toInt < 0
    · rw [if_pos (by simpa using neg), abs_of_neg neg, BitVec.ofInt_neg, BitVec.ofInt_toInt]
    · rw [if_neg (by simpa using neg), abs_of_nonneg (not_lt.mp neg), BitVec.ofInt_toInt]

theorem inegLane_eq (sat : Bool) (a : W32) :
    inegLane sat a = if sat then Spec.sat32 (-a.toInt) else BitVec.ofInt 32 (-a.toInt) := by
  by_cases h : a = 0x80000000
  · subst h
    cases sat <;> decide
  · obtain ⟨lo, hi⟩ := toInt_range_of_ne_least h
    rw [sat32_of_range (by omega) (by omega), ite_self, inegLane, if_neg fun e => h e.1, BitVec.ofInt_neg, BitVec.ofInt_toInt]

theorem laneNot_eq (a : W32) : ~~~a = BitVec.ofNat 32 (2 ^ 32 - 1 - a.toNat) := by
  apply BitVec.eq_of_toNat_eq
  rw [BitVec.toNat_not, BitVec.toNat_ofNat]
  omega

/-- The leading zeros end at the highest bit that is 1. -/
theorem laneClz_eq (a : W32) : clzOf a = if a = 0 then 32 else 31 - Nat.log2 a.toNat := by
  obtain ⟨le, zeros, one⟩ := firstIdx_spec (fun i => a.getLsbD (32 - 1 - i)) 32
  change clzOf a ≤ 32 at le
  change ∀ j, j < clzOf a → _ at zeros
  change clzOf a < 32 → _ at one
  split
  next h =>
    subst h
    exact le.antisymm (Nat.not_lt.mp fun lt => by simpa using one lt)
  next h =>
    have pos : a.toNat ≠ 0 := fun e => h (BitVec.eq_of_toNat_eq e)
    have top : a.getLsbD (Nat.log2 a.toNat) = true := Nat.testBit_log2 pos
    have log : Nat.log2 a.toNat < 32 := BitVec.lt_of_getLsbD top
    have before : clzOf a ≤ 31 - Nat.log2 a.toNat := Nat.not_lt.mp fun lt => by
      have zero := zeros _ lt
      rw [show 32 - 1 - (31 - Nat.log2 a.toNat) = Nat.log2 a.toNat by omega, top] at zero
      exact Bool.noConfusion zero
    have bit : a.toNat.testBit (31 - clzOf a) = true := one (by omega)
    have high : 31 - clzOf a ≤ Nat.log2 a.toNat := (Nat.le_log2 pos).mpr (Nat.ge_two_pow_of_testBit bit)
    omega

/-- A number put together bit by bit from 2^0 on. -/
theorem foldl_bits_spec (p : Nat → Bool) (n : Nat) :
    (List.range n).foldl (fun x i => x + if p i then 2 ^ i else 0) 0 < 2 ^ n ∧
    ∀ i, ((List.range n).foldl (fun x i => x + if p i then 2 ^ i else 0) 0).testBit i = (decide (i < n) && p i) := by
  induction n with
  | zero => simp
  | succ n ih =>
    obtain ⟨lt, bits⟩ := ih
    rw [List.range_succ, List.foldl_append, List.foldl_cons, List.foldl_nil]
    have lt' : (List.range n).foldl (fun x i => x + if p i then 2 ^ i else 0) 0 + (if p n then 2 ^ n else 0) < 2 ^ (n + 1) := by
      split <;> omega
    refine ⟨lt', fun i => ?_⟩
    rcases Nat.lt_trichotomy i n with h | rfl | h
    · cases hp : p n with
      | true => rw [if_pos rfl, Nat.add_comm, Nat.testBit_two_pow_add_gt h, bits]; simp [h, Nat.lt_succ_of_lt h]
      | false => simp [bits, h, Nat.lt_succ_of_lt h]
    · have top := Nat.testBit_lt_two_pow lt
      cases hp : p i with
      | true => rw [if_pos rfl, Nat.add_comm, Nat.testBit_two_pow_add_eq, top]; simp
      | false => simp [top]
    · rw [Nat.testBit_lt_two_pow (lt'.trans_le (Nat.pow_le_pow_right (by decide) h)), decide_eq_false (by omega), Bool.false_and]

theorem brevLane_eq (a : W32) : brevLane a = BitVec.ofFnLE fun i : Fin 32 => a.getLsbD (31 - i.val) := by
  apply BitVec.eq_of_getLsbD_eq
  intro i hi
  rw [brevLane, BitVec.getLsbD_ofNat, (foldl_bits_spec (fun i => a.getLsbD (31 - i)) 32).2, BitVec.getLsbD_ofFnLE, dif_pos hi]
  simp [hi]

theorem imadLane_eq (a b c : W32) : a * b + c = BitVec.ofNat 32 (a.toNat * b.toNat + c.toNat) := by
  apply BitVec.eq_of_toNat_eq
  simp

theorem dot4Lane_eq (sat : Bool) (a b c : W32) : dot4Lane sat a b c =
    let v := c.toInt + ((List.range 4).map fun i => (a.extractLsb' (8 * i) 8).toInt * (b.extractLsb' (8 * i) 8).toInt).sum
    if sat then Spec.sat32 v else BitVec.ofInt 32 v := by
  simp only [dot4Lane, clamp32_eq]
  simp [List.range_succ, add_assoc]

theorem bfxLane_eq (sx : Bool) (a b c : W32) : bfxLane sx a b c =
    let p := b.toNat % 32
    let n := min (c.toNat % 64) (32 - p)
    let v := a.toNat / 2 ^ p % 2 ^ n
    if sx ∧ 0 < n ∧ a.getLsbD (p + n - 1) then BitVec.ofInt 32 ((v : Int) - 2 ^ n) else BitVec.ofNat 32 v := by
  extract_lets p n v
  have field : a.toNat >>> laneCount b % 2 ^ fieldLen b c = v := by rw [Nat.shiftRight_eq_div_pow]; rfl
  have top (h : 0 < n) : v.testBit (n - 1) = a.getLsbD (p + n - 1) := by
    rw [Nat.testBit_mod_two_pow, Nat.testBit_div_two_pow, decide_eq_true (by omega), Bool.true_and, show n - 1 + p = p + n - 1 by omega]
    rfl
  have range : 2 ^ n ≤ 2 ^ 32 := Nat.pow_le_pow_right (by decide) (by omega)
  have negative : BitVec.ofNat 32 (v + (2 ^ 32 - 2 ^ n)) = BitVec.ofInt 32 ((v : Int) - 2 ^ n) := by
    apply BitVec.eq_of_toNat_eq
    rw [BitVec.toNat_ofNat, BitVec.toNat_ofInt]
    have cast : (2 : Int) ^ n = ((2 ^ n : Nat) : Int) := by push_cast; rfl
    rw [cast]
    omega
  rw [bfxLane, field, show fieldLen b c = n from rfl, apply_ite (BitVec.ofNat 32), negative]
  by_cases h : 0 < n
  · simp only [top h, h, decide_true, Bool.and_true, Bool.and_eq_true, true_and]
  · simp [h]

theorem bfiLane_eq (a b c d : W32) : bfiLane a b c d =
    let p := b.toNat % 32
    let n := min (c.toNat % 64) (32 - p)
    BitVec.ofFnLE fun i : Fin 32 => if p ≤ i.val ∧ i.val < p + n then a.getLsbD (i.val - p) else d.getLsbD i.val := by
  extract_lets p n
  have field (i : Nat) (hi : i < 32) : (BitVec.ofNat 32 ((2 ^ n - 1) <<< p)).getLsbD i = decide (p ≤ i ∧ i < p + n) := by
    rw [BitVec.getLsbD_ofNat, Nat.testBit_shiftLeft, Nat.testBit_two_pow_sub_one]
    by_cases h : p ≤ i <;> simp [hi, h]
    omega
  apply BitVec.eq_of_getLsbD_eq
  intro i hi
  rw [bfiLane, show fieldLen b c = n from rfl, show laneCount b = p from rfl, BitVec.getLsbD_or, BitVec.getLsbD_and, BitVec.getLsbD_not,
    BitVec.getLsbD_and, BitVec.getLsbD_shiftLeft, field i hi, BitVec.getLsbD_ofFnLE, dif_pos hi]
  by_cases h : p ≤ i ∧ i < p + n
  · simp [h, hi]
  · simp [h, hi]

end Sys2Proof.Machine

namespace Sys2Proof

open Machine

/-- Settles O29: each row of the table by `laneWrites_of_table`. -/
theorem integerLanesWriteTheirResult : Obligations.IntegerLanesWriteTheirResult := by
  intro i o s r h
  have same {p : LaneOps} {f g : W32 → W32 → W32 → W32 → W32} (run : exec i s = .next (s.lane3 p f))
    (row : ∀ a b c d, Spec.intLane a b c d i = some (p, g a b c d)) (eq : ∀ a b c d, f a b c d = g a b c d) :=
    laneWrites_of_table (T := fun a b c d => Spec.intLane a b c d i) h run row eq
  have miss (none_ : ∀ a b c d, Spec.intLane a b c d i = none) : Spec.LaneWrites i o s s.chain.gen r :=
    nomatch (none_ ..).symm.trans (h 0 (by decide))
  cases i with
  | iadd => exact same rfl (fun _ _ _ _ => rfl) fun a b _ _ => BitVec.add_def ..
  | isub => exact same rfl (fun _ _ _ _ => rfl) fun a b _ _ => laneSub_eq ..
  | imul => exact same rfl (fun _ _ _ _ => rfl) fun a b _ _ => laneMul_eq ..
  | imulh | imulhu | iand | ior | ixor | laneMov => exact same rfl (fun _ _ _ _ => rfl) fun _ _ _ _ => rfl
  | imin => exact same rfl (fun _ _ _ _ => rfl) fun a b _ _ => iminLane_eq ..
  | imax => exact same rfl (fun _ _ _ _ => rfl) fun a b _ _ => imaxLane_eq ..
  | iminu => exact same rfl (fun _ _ _ _ => rfl) fun a b _ _ => iminuLane_eq ..
  | imaxu => exact same rfl (fun _ _ _ _ => rfl) fun a b _ _ => imaxuLane_eq ..
  | laneShl => exact same rfl (fun _ _ _ _ => rfl) fun a b _ _ => laneShl_eq ..
  | laneShr => exact same rfl (fun _ _ _ _ => rfl) fun a b _ _ => laneShr_eq ..
  | laneSar => exact same rfl (fun _ _ _ _ => rfl) fun a b _ _ => laneSar_eq ..
  | rot => exact same rfl (fun _ _ _ _ => rfl) fun a b _ _ => laneRot_eq ..
  | iadds | isubs => exact same rfl (fun _ _ _ _ => rfl) fun a b _ _ => clamp32_eq _
  | iabs => exact same rfl (fun _ _ _ _ => rfl) fun a _ _ _ => iabsLane_eq ..
  | ineg => exact same rfl (fun _ _ _ _ => rfl) fun a _ _ _ => inegLane_eq ..
  | inot => exact same rfl (fun _ _ _ _ => rfl) fun a _ _ _ => laneNot_eq a
  | lanePopc => exact same rfl (fun _ _ _ _ => rfl) fun a _ _ _ => congrArg _ (popCount_eq_countP a)
  | laneClz => exact same rfl (fun _ _ _ _ => rfl) fun a _ _ _ => congrArg _ (laneClz_eq a)
  | laneBrev => exact same rfl (fun _ _ _ _ => rfl) fun a _ _ _ => brevLane_eq a
  | imad => exact same rfl (fun _ _ _ _ => rfl) fun a b c _ => imadLane_eq ..
  | dot4 => exact same rfl (fun _ _ _ _ => rfl) fun a b c _ => dot4Lane_eq ..
  | bfx => exact same rfl (fun _ _ _ _ => rfl) fun a b c _ => bfxLane_eq ..
  | bfi => exact same rfl (fun _ _ _ _ => rfl) fun a b c d => bfiLane_eq ..
  | _ => exact miss fun _ _ _ _ => rfl

end Sys2Proof

namespace Sys2Proof.Machine

/-! ## The values of the floating lane instructions (05 R143 to R148) -/

/-- A NaN subtracted keeps its sign (05 R143). -/
theorem laneFsub_eq (o : LaneOps) (a b : W32) : f32 (fpSub .f32 (rmOf o.md) (ftzOf o)) a b =
    Spec.f32Of o (if (Spec.f32In o b).isNan then addVal (rmOf o.md = .rdn) (Spec.f32In o a) (Spec.f32In o b)
      else addVal (rmOf o.md = .rdn) (Spec.f32In o a) (Spec.f32In o b).negate) := by
  rw [← apply_ite]
  rfl

theorem laneFabs_eq (o : LaneOps) (a : W32) :
    fabsCode (ftzOf o) a = BitVec.ofNat 32 (flushCode .f32 (o.md.getLsbD 2) a.toNat % 2 ^ 31) := by
  have clear (n : Nat) : BitVec.ofNat 32 n &&& 0x7FFFFFFF#32 = BitVec.ofNat 32 (n % 2 ^ 31) := by
    apply BitVec.eq_of_toNat_eq
    have low : (0x7FFFFFFF#32).toNat = 2 ^ 31 - 1 := rfl
    rw [BitVec.toNat_and, low, Nat.and_two_pow_sub_one_eq_mod, BitVec.toNat_ofNat, BitVec.toNat_ofNat]
    omega
  exact clear _

theorem laneFneg_eq (o : LaneOps) (a : W32) :
    fnegCode (ftzOf o) a = BitVec.ofNat 32 (flushCode .f32 (o.md.getLsbD 2) a.toNat + 2 ^ 31) := by
  have flip (x : W32) : x ^^^ 0x80000000#32 = x + 0x80000000#32 := by
    apply BitVec.eq_of_getLsbD_eq
    intro i hi
    have sum : (x + 0x80000000#32).getLsbD i = (2 ^ 31 + x.toNat).testBit i := by
      rw [BitVec.getLsbD, BitVec.toNat_add, Nat.testBit_mod_two_pow, decide_eq_true hi, Bool.true_and, Nat.add_comm]
      rfl
    have sign : (0x80000000#32).getLsbD i = decide (31 = i) := by
      rw [show (0x80000000#32 : W32) = BitVec.twoPow 32 31 from rfl, BitVec.getLsbD_twoPow]
      simp
    rw [BitVec.getLsbD_xor, sum, sign]
    rcases Nat.lt_or_eq_of_le (Nat.le_of_lt_succ hi) with h | rfl
    · rw [Nat.testBit_two_pow_add_gt h, decide_eq_false (by omega), Bool.xor_false]
      rfl
    · rw [Nat.testBit_two_pow_add_eq, decide_eq_true rfl, Bool.xor_true]
      rfl
  rw [BitVec.ofNat_add]
  exact flip _

/-- The halves of a packed instruction (05 R148). -/
theorem laneHalves_eq {o : LaneOps} {f : Nat → Nat → Nat → Nat} {g : Fm → Nat → Nat → Nat → Nat} (h : f = g (halfFm o.ty)) (a b c : W32) :
    half2 f a b c = Spec.halvesOf o g a b c := by
  have fm : halfFm o.ty = if o.ty = 2 then .bf16 else .f16 := by simp [halfFm]
  have low (x : W32) : (x.extractLsb' (16 * 0) 16).toNat = x.toNat % 2 ^ 16 := by rw [BitVec.extractLsb'_toNat]; rfl
  have high (x : W32) : (x.extractLsb' (16 * 1) 16).toNat = x.toNat / 2 ^ 16 := by
    have := x.isLt
    rw [BitVec.extractLsb'_toNat, Nat.shiftRight_eq_div_pow]
    omega
  rw [h, fm]
  simp only [half2, low, high]
  rfl

end Sys2Proof.Machine

namespace Sys2Proof

open Machine

/-- Settles O30: each row of the table by `laneWrites_of_table`; the packed forms by `laneHalves_eq`. -/
theorem floatLanesWriteTheirResult : Obligations.FloatLanesWriteTheirResult := by
  intro i o s r h
  have same {p : LaneOps} {f g : W32 → W32 → W32 → W32 → W32} (run : exec i s = .next (s.lane3 p f))
    (row : ∀ a b c _d, Spec.floatLane a b c i = some (p, g a b c _d)) (eq : ∀ a b c d, f a b c d = g a b c d) :=
    laneWrites_of_table (T := fun a b c _ => Spec.floatLane a b c i) h run row eq
  have miss (none_ : ∀ a b c, Spec.floatLane a b c i = none) : Spec.LaneWrites i o s s.chain.gen r :=
    nomatch (none_ ..).symm.trans (h 0 (by decide))
  cases i with
  | fadd | fmul | ffma | fmin | fmax | fclass | frint | rcp | rsq | sqrt | exp2 | log2 | sin | cos | tanh | sigm =>
    exact same rfl (fun _ _ _ _ => rfl) fun _ _ _ _ => rfl
  | fsub => exact same rfl (fun _ _ _ _ => rfl) fun a b _ _ => laneFsub_eq ..
  | fabs => exact same rfl (fun _ _ _ _ => rfl) fun a _ _ _ => laneFabs_eq ..
  | fneg => exact same rfl (fun _ _ _ _ => rfl) fun a _ _ _ => laneFneg_eq ..
  | hadd2 | hmul2 | hfma2 | hmin2 | hmax2 => exact same rfl (fun _ _ _ _ => rfl) fun a b c _ => laneHalves_eq (by rfl) a b c
  | _ => exact miss fun _ _ _ => rfl

end Sys2Proof

namespace Sys2Proof.Machine

/-! ## Pairs, comparisons, SEL and LID (05 R138 to R142, R145) -/

theorem getLsbD_maskOf {n : Nat} (hn : n ≤ 64) (p : Nat → Bool) (l : Nat) : (maskOf n p).getLsbD l = (decide (l < n) && p l) := by
  unfold maskOf
  induction n with
  | zero => simp
  | succ n ih =>
    have bit : (1#64 <<< n).getLsbD l = decide (l = n) := getLsbD_oneLane hn l
    have below (h : l ≠ n) : l < n + 1 ↔ l < n := by omega
    rw [List.range_succ, List.foldl_append, List.foldl_cons, List.foldl_nil]
    cases hp : p n with
    | true =>
      rw [if_pos rfl, BitVec.getLsbD_or, ih (by omega), bit]
      by_cases h : l = n
      · simp [h, hp]
      · simp [h, below h]
    | false =>
      rw [if_neg Bool.false_ne_true, ih (by omega)]
      by_cases h : l = n
      · simp [h, hp]
      · simp [below h]

/-- A condition asks of the comparison's sign what it asks of the order (02 R50). -/
theorem condHolds_eq (c : BitVec 3) (k : Int) : condHolds c k = Spec.holdsFor c.toNat (k < 0) (k = 0) := by
  have hc := c.isLt
  unfold condHolds
  generalize c.toNat = n at hc
  rcases lt_trichotomy k 0 with h | rfl | h
  · interval_cases n <;> simp [Spec.holdsFor, h, h.ne, h.le, h.not_gt, h.not_ge]
  · interval_cases n <;> rfl
  · interval_cases n <;> simp [Spec.holdsFor, h, h.ne', h.le, h.not_gt, h.not_ge]

theorem modCond_toNat (md : BitVec 5) : (md.extractLsb' 0 3).toNat = md.toNat % 8 := BitVec.extractLsb'_toNat ..

theorem laneIcmp_eq (ty : B4) (md : BitVec 5) (a b : W32) : icmpCode ty md a b =
    Spec.holdsFor (md.toNat % 8) (if ty = 7 then a.toNat < b.toNat else a.toInt < b.toInt) (a = b) := by
  rw [icmpCode, condHolds_eq, modCond_toNat]
  by_cases h : ty = 7
  · have lt : (a.toNat : Int) - b.toNat < 0 ↔ a.toNat < b.toNat := by omega
    have eq : (a.toNat : Int) - b.toNat = 0 ↔ a = b := by rw [← BitVec.toNat_inj]; omega
    simp only [h, beq_self_eq_true, if_true, lt, eq]
  · have lt : a.toInt - b.toInt < 0 ↔ a.toInt < b.toInt := by omega
    have eq : a.toInt - b.toInt = 0 ↔ a = b := by rw [← BitVec.toInt_inj]; omega
    simp only [h, beq_eq_false_iff_ne.mpr h, Bool.false_eq_true, if_false, lt, eq]

theorem laneFcmp_eq (md : BitVec 5) (a b : W32) : fcmpCode md a b =
    let a := readVal .f32 (md.getLsbD 4) a.toNat
    let b := readVal .f32 (md.getLsbD 4) b.toNat
    if a.isNan || b.isNan then md.getLsbD 3 || md.toNat % 8 = 1
    else Spec.holdsFor (md.toNat % 8) (cmpVal a b < 0) (cmpVal a b = 0) := by
  have ne : (md.extractLsb' 0 3 == 1) = decide (md.toNat % 8 = 1) := by
    rw [beq_eq_decide, ← modCond_toNat, decide_eq_decide]
    exact BitVec.toNat_inj.symm
  rw [fcmpCode, condHolds_eq, ne, modCond_toNat]

theorem imulwLane_eq (ty : B4) (a b : W32) : imulwLane ty a b =
    if ty = 7 then BitVec.ofNat 64 (a.toNat * b.toNat) else BitVec.ofInt 64 (a.toInt * b.toInt) := by
  simp [imulwLane]

theorem lidLane_eq (s : State) (md : BitVec 5) (l : Nat) : s.lidLane md l = BitVec.ofNat 32 (
    if md.toNat % 4 = 0 then l else if md.toNat % 4 = 1 then l % 16 else if md.toNat % 4 = 2 then s.cw.pcnOf l
    else (s.ctx s.cw.ctx).lcn (s.cw.pcnOf l)) := by
  have field : (md.extractLsb' 0 2).toNat = md.toNat % 4 := BitVec.extractLsb'_toNat ..
  unfold State.lidLane
  rw [field]
  have hn : md.toNat % 4 < 4 := Nat.mod_lt _ (by decide)
  generalize md.toNat % 4 = n at hn
  interval_cases n <;> rfl

/-- A comparison of two sources writes its predicate. -/
theorem laneWritesPred_of_laneCmp {i : Instr} {s : State} {o : LaneOps} {f : W32 → W32 → Bool} {r : Nat → Bool}
    (run : exec i s = .next (s.laneCmp o f)) (h : ∀ l, l < 64 → f (Spec.source o s 0 l) (Spec.source o s 1 l) = r l) :
    Spec.LaneWritesPred i o s r := by
  refine laneWritesPred_of_putPred run fun l hl => ?_
  rw [getLsbD_maskOf le_rfl, decide_eq_true hl, Bool.true_and, s.rowAt_src o 0 hl, s.rowAt_src o 1 hl, h l hl]

end Sys2Proof.Machine

namespace Sys2Proof

open Machine

/-- Settles O31: pairs by `laneWritesPair_of_putResult64`, comparisons by `laneWritesPred_of_laneCmp`. -/
theorem wideComparingAndNamingLanes : Obligations.WideComparingAndNamingLanes := by
  intro s o
  refine ⟨laneWritesPair_of_putResult64 rfl fun l hl => ?iaddc, laneWritesPair_of_putResult64 rfl fun l hl => ?imulw,
    laneWritesPred_of_laneCmp rfl fun l _ => laneIcmp_eq .., laneWritesPred_of_laneCmp rfl fun l _ => laneFcmp_eq ..,
    laneWrites_of_putResult rfl fun l hl => ?sel, laneWrites_of_putResult rfl fun l hl => ?lid⟩
  case iaddc =>
    rw [← s.row64At_src64 o 0 hl, ← s.row64At_src64 o 1 hl, row64At_ofFn _ hl, row64At_of_lt _ hl, row64At_of_lt _ hl]
    exact BitVec.add_def ..
  case imulw =>
    rw [← s.rowAt_src o 0 hl, ← s.rowAt_src o 1 hl, row64At_ofFn _ hl, rowAt_of_lt _ hl, rowAt_of_lt _ hl]
    exact imulwLane_eq ..
  case sel =>
    rw [← s.rowAt_src o 0 hl, ← s.rowAt_src o 1 hl, rowAt_ofFn _ hl, rowAt_of_lt _ hl, rowAt_of_lt _ hl]
    rfl
  case lid =>
    rw [rowAt_ofFn _ hl]
    exact lidLane_eq ..

end Sys2Proof

namespace Sys2Proof.Machine

/-! ## Elements of a register (03 R72) -/

theorem elemOf_eq (t : B4) (x : W32) (e : Nat) : elemOf t x e = Spec.element (tyWidth t) x e := by
  rw [elemOf, Spec.element, Nat.shiftRight_eq_div_pow]

theorem getLsbD_replaced (w : Nat) (x : W32) (e v : Nat) {i : Nat} (hi : i < 32) : (Spec.replaced w x e v).getLsbD i =
    if e * w ≤ i ∧ i < (e + 1) * w then v.testBit (i - e * w) else x.getLsbD i := by
  rw [Spec.replaced, BitVec.getLsbD_ofFnLE, dif_pos hi]

theorem setElem_eq (t : B4) (x : W32) (e v : Nat) : setElem t x e v = Spec.replaced (tyWidth t) x e v := by
  rw [setElem]
  generalize tyWidth t = w
  apply BitVec.eq_of_getLsbD_eq
  intro i hi
  have inside : e * w ≤ i ∧ i < (e + 1) * w ↔ e * w ≤ i ∧ i - e * w < w := by rw [Nat.succ_mul]; omega
  rw [getLsbD_replaced _ _ _ _ hi, BitVec.getLsbD_or, BitVec.getLsbD_and, BitVec.getLsbD_not, BitVec.getLsbD_ofNat, BitVec.getLsbD_ofNat,
    Nat.testBit_shiftLeft, Nat.testBit_shiftLeft, Nat.testBit_two_pow_sub_one, Nat.testBit_mod_two_pow]
  by_cases h : e * w ≤ i ∧ i - e * w < w
  · rw [if_pos (inside.mpr h)]
    simp [h, hi]
  · rw [if_neg fun g => h (inside.mp g)]
    simp only [hi, Bool.and_comm, decide_true, Bool.true_and]
    rcases Classical.not_and_iff_not_or_not.mp h with h' | h' <;> simp [h']

theorem testBit_element (w : Nat) (x : W32) (e i : Nat) : (Spec.element w x e).testBit i = (decide (i < w) && x.getLsbD (e * w + i)) := by
  rw [Spec.element, Nat.testBit_mod_two_pow, Nat.testBit_div_two_pow, Nat.add_comm]
  rfl

theorem element_replaced_same {w : Nat} (x : W32) {e : Nat} (v : Nat) (h : (e + 1) * w ≤ 32) :
    Spec.element w (Spec.replaced w x e v) e = v % 2 ^ w := by
  apply Nat.eq_of_testBit_eq
  intro i
  rw [testBit_element, Nat.testBit_mod_two_pow]
  by_cases hi : i < w
  · have place : e * w + i < (e + 1) * w := by rw [Nat.succ_mul]; omega
    rw [getLsbD_replaced _ _ _ _ (place.trans_le h), if_pos ⟨Nat.le_add_right .., place⟩, Nat.add_sub_cancel_left]
  · simp [hi]

theorem element_replaced_other {w : Nat} (x : W32) {e k : Nat} (v : Nat) (hk : k ≠ e) :
    Spec.element w (Spec.replaced w x e v) k = Spec.element w x k := by
  apply Nat.eq_of_testBit_eq
  intro i
  rw [testBit_element, testBit_element]
  by_cases hi : i < w
  · have outside : ¬(e * w ≤ k * w + i ∧ k * w + i < (e + 1) * w) := by
      rcases Nat.lt_or_gt_of_ne hk with h | h
      · have := Nat.mul_le_mul_right w (Nat.succ_le_of_lt h)
        rw [Nat.succ_mul] at this
        omega
      · have : (e + 1) * w ≤ k * w := Nat.mul_le_mul_right w (Nat.succ_le_of_lt h)
        omega
    by_cases h32 : k * w + i < 32
    · rw [getLsbD_replaced _ _ _ _ h32, if_neg outside]
    · rw [BitVec.getLsbD_of_ge _ _ (Nat.not_lt.mp h32), BitVec.getLsbD_of_ge _ _ (Nat.not_lt.mp h32)]
  · simp [hi]

/-! ## Conversions (05 R151 to R155) -/

theorem row_ext {a b : Row} (h : ∀ l, l < 64 → rowAt a l = rowAt b l) : a = b := by
  ext l hl : 1
  rw [← rowAt_of_lt a hl, ← rowAt_of_lt b hl, h l hl]

theorem rowAt_drawGen (rm : Nat) (act : Mask) (g : Row) {l : Nat} (hl : l < 64) :
    rowAt (drawGen rm act g) l = if rm = 4 ∧ act.getLsbD l then stepGen (rowAt g l) else rowAt g l := by
  unfold drawGen
  split
  next sr =>
    rw [rowAt_ofFn _ hl, rowAt_of_lt g hl]
    simp [sr]
  next other => simp [other]

theorem rowAt_drawn (o : LaneOps) (s : State) (n : Nat) {l : Nat} (hl : l < 64) : rowAt (Spec.drawn o s n) l =
    if cvRm o.lit = 4 ∧ (s.active o).getLsbD l then stepGen^[n] (rowAt s.chain.gen l) else rowAt s.chain.gen l :=
  rowAt_ofFn _ hl

/-- One more draw in every active lane (03 R85). -/
theorem drawGen_drawn (o : LaneOps) (s : State) (n : Nat) : drawGen (cvRm o.lit) (s.active o) (Spec.drawn o s n) = Spec.drawn o s (n + 1) :=
  row_ext fun l hl => by
    rw [rowAt_drawGen _ _ _ hl, rowAt_drawn _ _ _ hl, rowAt_drawn _ _ _ hl]
    split
    · rw [Function.iterate_succ_apply']
    · rfl

/-- The first draw of an instruction (03 R85). -/
theorem drawGen_gen (o : LaneOps) (s : State) : drawGen (cvRm o.lit) (s.active o) s.chain.gen = Spec.drawn o s 1 := by
  rw [← drawGen_drawn o s 0, show Spec.drawn o s 0 = s.chain.gen from row_ext fun l hl => (rowAt_drawn o s 0 hl).trans (ite_self _)]

section
variable {o : LaneOps} {s : State} {l : Nat} (hl : l < 64)
include hl

/-- The conversion of an element of a source. -/
theorem convOf_elemOf_eq (g : Row) (i e : Nat) :
    convOf o.ty o.lit g[l] (elemOf o.ty (s.src o i)[l] e) = Spec.convIn o g l (Spec.element (tyWidth o.ty) (Spec.source o s i l) e) := by
  rw [Spec.convIn, rowAt_of_lt g hl, ← elemOf_eq, ← s.rowAt_src o i hl, rowAt_of_lt _ hl]
  rfl

end

section
variable (o : LaneOps) (s : State)

theorem exec_cvt : exec (.cvt o) s = .next ((s.setGen (Spec.drawn o s 1)).putResult o (Vector.ofFn fun i =>
    BitVec.ofNat 32 (convOf o.ty o.lit (Spec.drawn o s 1)[i] (elemOf o.ty (s.src o 0)[i] (cvIdx o.lit))))) := by
  rw [← drawGen_gen]
  rfl

theorem exec_pack : exec (.pack o) s = .next ((s.setGen (Spec.drawn o s 2)).putResult o (Vector.ofFn fun i =>
    packLane o (Spec.drawn o s 1)[i] (Spec.drawn o s 2)[i] (s.src o 0)[i] (s.src o 1)[i] (s.oldD o)[i])) := by
  rw [← drawGen_drawn, ← drawGen_gen]
  rfl

theorem exec_unpk : exec (.unpk o) s = .next ((s.setGen (Spec.drawn o s 2)).putResult64 o (Vector.ofFn fun i =>
    BitVec.ofNat 32 (convOf o.ty o.lit (Spec.drawn o s 2)[i] (elemOf o.ty (s.src o 0)[i] (cvIdx o.lit + 1))) ++
      BitVec.ofNat 32 (convOf o.ty o.lit (Spec.drawn o s 1)[i] (elemOf o.ty (s.src o 0)[i] (cvIdx o.lit))))) := by
  rw [← drawGen_drawn, ← drawGen_gen]
  rfl

end

end Sys2Proof.Machine

namespace Sys2Proof

open Machine

theorem conversionsConvertElements : Spec.ConversionsWriteTheirResult := by
  intro s o w d
  refine ⟨laneWrites_of_setGen_putResult (fun l hl => ?cvt) (exec_cvt o s),
    fun _ _ => laneWrites_of_setGen_putResult (fun l hl => ?pack) (exec_pack o s),
    laneWritesPair_of_setGen_putResult64 (exec_unpk o s) fun l hl => ?unpk, laneWrites_of_lane3 rfl fun _ _ => rfl⟩
  case cvt =>
    rw [rowAt_ofFn _ hl]
    exact congrArg _ (convOf_elemOf_eq hl ..)
  case pack =>
    rw [rowAt_ofFn _ hl]
    change packLane o (Spec.drawn o s 1)[l] (Spec.drawn o s 2)[l] (s.src o 0)[l] (s.src o 1)[l] (s.oldD o)[l] = _
    rw [packLane, convOf_elemOf_eq hl, convOf_elemOf_eq hl, setElem_eq, setElem_eq, ← rowAt_of_lt _ hl]
    rfl
  case unpk =>
    rw [row64At_ofFn _ hl]
    exact congrArg₂ (fun x y => BitVec.ofNat 32 x ++ BitVec.ofNat 32 y) (convOf_elemOf_eq hl ..) (convOf_elemOf_eq hl ..)

end Sys2Proof

namespace Sys2Proof.Machine

/-! ## The side list of QNT (05 R156) -/

/-- The values of a side list stand in the halves of the side row's lanes that `act` names, two a lane; the other halves are those of `old`. -/
structure SideList (act vals : List Nat) (old side : Row) : Prop where
  entry : ∀ k v l, vals[k]? = some v → act[k / 2]? = some l → Spec.element 16 (rowAt side l) (k % 2) = v % 2 ^ 16
  rest : ∀ l h, l < 64 → h < 2 → (∀ k, k < vals.length → act[k / 2]? = some l → k % 2 ≠ h) →
    Spec.element 16 (rowAt side l) h = Spec.element 16 (rowAt old l) h

theorem SideList.nil (act : List Nat) (old : Row) : SideList act [] old old :=
  ⟨fun _ _ _ h => by simp at h, fun _ _ _ _ _ => rfl⟩

/-- A write of one half of one lane of the side row. -/
theorem element_setLane_sideWord (side : Row) (k v : Nat) {j l : Nat} (hl : l < 64) (h : Nat) :
    Spec.element 16 (rowAt (setLane side j (sideWord k v (rowAt side j))) l) h =
      if l = j ∧ h = k % 2 then v % 2 ^ 16 else Spec.element 16 (rowAt side l) h := by
  have width : tyWidth 1 = 16 := rfl
  by_cases hj : l = j
  · subst hj
    rw [rowAt_setLane_same _ _ hl, sideWord, setElem_eq, width]
    by_cases hh : h = k % 2
    · rw [if_pos ⟨rfl, hh⟩, hh, element_replaced_same _ _ (by omega)]
    · rw [if_neg fun g => hh g.2, element_replaced_other _ _ hh]
  · rw [rowAt_setLane_other _ _ hj, if_neg fun g => hj g.1]

/-- One more outlier enters the side list. -/
theorem SideList.snoc {act vals : List Nat} {old side : Row} (h : SideList act vals old side) (nodup : act.Nodup)
    (lanes : ∀ l ∈ act, l < 64) {j : Nat} (hj : act[vals.length / 2]? = some j) (v : Nat) :
    SideList act (vals ++ [v]) old (setLane side j (sideWord vals.length v (rowAt side j))) where
  entry k x l hk hl := by
    have lane : l < 64 := lanes l (List.mem_of_getElem? hl)
    have room : vals.length / 2 < act.length := (List.getElem?_eq_some_iff.mp hj).1
    rw [element_setLane_sideWord _ _ _ lane]
    rcases Nat.lt_or_ge k vals.length with hk' | hk'
    · have apart : ¬(l = j ∧ k % 2 = vals.length % 2) := fun ⟨e, e'⟩ => by
        have := (List.getElem?_inj room nodup).mp (hj.trans (e ▸ hl.symm))
        omega
      rw [if_neg apart, h.entry k x l ((List.getElem?_append_left hk').symm.trans hk) hl]
    · obtain ⟨rfl, rfl⟩ : k = vals.length ∧ v = x := by
        rw [List.getElem?_append_right hk', List.getElem?_singleton] at hk
        split at hk
        next e => exact ⟨by omega, Option.some.inj hk⟩
        next => exact nomatch hk
      rw [if_pos ⟨Option.some.inj (hl.symm.trans hj), rfl⟩]
  rest l i hl hi free := by
    have before : ∀ k, k < vals.length → act[k / 2]? = some l → k % 2 ≠ i := fun k hk => free k (by simp; omega)
    have apart : ¬(l = j ∧ i = vals.length % 2) := fun ⟨e, e'⟩ => free vals.length (by simp) (e ▸ hj) e'.symm
    rw [element_setLane_sideWord _ _ _ hl, if_neg apart, h.rest l i hl hi before]

/-! ## QNT in the active lanes (05 R156) -/

section
variable (o : LaneOps) (a b c : Row)

/-- The value that QNT converts in a lane. -/
def qntValue (l : Nat) : Val := srcVal o.ty (cvFtz o.lit) (rowAt a l)

/-- Whether a lane of QNT holds an outlier. -/
def qntOut (l : Nat) : Bool := outlier (qntValue o a l) (readVal .f32 (cvFtz o.lit) (rowAt c l).toNat)

/-- A lane's generator once QNT has converted there. -/
def qntGen (g : W32) : W32 := if cvRm o.lit = 4 then stepGen g else g

/-- The converted product of a lane under a draw. -/
def qntCode (g : W32) (l : Nat) : Nat := convVal (cvDtype o.lit) (rmCode (cvRm o.lit) g) (cvSat o.lit)
  (mulVal (qntValue o a l) (readVal .f32 (cvFtz o.lit) (rowAt b l).toNat))

/-- The value of an outlier in the side list. -/
def qntSide (l : Nat) : Nat :=
  flushCode (if cvSideFmt o.lit then .f16 else .bf16) (cvFtz o.lit) (roundVal (if cvSideFmt o.lit then .f16 else .bf16) .rne false (qntValue o a l))

variable {o a b c} {act : List Nat} {q : QntAcc} {l : Nat}

theorem qntLane_of_outlier (h : qntOut o a c l = true) : qntLane o act a b c q l = { q with
    d := setLane q.d l (setElem (cvDtype o.lit) (rowAt q.d l) (cvIdx o.lit) 0)
    p := q.p ||| oneLane l
    side := setLane q.side (act[q.k / 2]?.getD 0) (sideWord q.k (qntSide o a l) (rowAt q.side (act[q.k / 2]?.getD 0)))
    k := q.k + 1 } := if_pos h

theorem qntLane_of_kept (h : qntOut o a c l = false) : qntLane o act a b c q l = { q with
    d := setLane q.d l (setElem (cvDtype o.lit) (rowAt q.d l) (cvIdx o.lit) (qntCode o a b (qntGen o (rowAt q.gen l)) l))
    p := q.p &&& ~~~(oneLane l)
    gen := setLane q.gen l (qntGen o (rowAt q.gen l)) } := if_neg (Bool.eq_false_iff.mp h)

variable (o a b c act) in
/-- What QNT has made of `old` once the lanes of `pre` are done. -/
structure QntDone (old : QntAcc) (pre : List Nat) (q : QntAcc) : Prop where
  k : q.k = (pre.filter (qntOut o a c)).length
  gen : ∀ l, l < 64 → rowAt q.gen l = if l ∈ pre ∧ qntOut o a c l = false then qntGen o (rowAt old.gen l) else rowAt old.gen l
  d : ∀ l, l < 64 → rowAt q.d l = if l ∈ pre then Spec.replaced (tyWidth (cvDtype o.lit)) (rowAt old.d l) (cvIdx o.lit)
    (if qntOut o a c l then 0 else qntCode o a b (rowAt q.gen l) l) else rowAt old.d l
  p : ∀ l, l < 64 → q.p.getLsbD l = if l ∈ pre then qntOut o a c l else old.p.getLsbD l
  side : SideList act ((pre.filter (qntOut o a c)).map (qntSide o a)) old.side q.side

theorem QntDone.nil (old : QntAcc) (h : old.k = 0) : QntDone o a b c act old [] old :=
  ⟨h, by simp, by simp, by simp, SideList.nil ..⟩

section
variable {old : QntAcc} {pre : List Nat} (h : QntDone o a b c act old pre q) (hl : l < 64) (fresh : l ∉ pre)
include h hl fresh

/-- An outlier is done: its element is 0, its bit 1, its value in the side list. -/
theorem QntDone.snoc_outlier (nodup : act.Nodup) (lanes : ∀ l ∈ act, l < 64) (room : pre.length < act.length) (out : qntOut o a c l = true) :
    QntDone o a b c act old (pre ++ [l]) (qntLane o act a b c q l) := by
  have element := h.d l hl
  rw [if_neg fresh] at element
  rw [qntLane_of_outlier out]
  refine ⟨by simp [h.k, out], fun m hm => ?gen, fun m hm => ?d, fun m hm => ?p, ?side⟩
  case gen =>
    rw [h.gen m hm]
    by_cases e : m = l
    · simp [e, out]
    · simp [e]
  case d =>
    by_cases e : m = l
    · subst e
      simp [rowAt_setLane_same _ _ hm, setElem_eq, element, out]
    · simp [rowAt_setLane_other _ _ e, h.d m hm, e]
  case p =>
    rw [BitVec.getLsbD_or, getLsbD_oneLane hl, h.p m hm]
    by_cases e : m = l
    · simp [e, out]
    · simp [e]
  case side =>
    have few : q.k ≤ pre.length := h.k ▸ List.length_filter_le ..
    have half : q.k / 2 < act.length := by omega
    have count : ((pre.filter (qntOut o a c)).map (qntSide o a)).length = q.k := by rw [List.length_map, h.k]
    have entered := h.side.snoc nodup lanes (j := act[q.k / 2]?.getD 0) (by simp [count, half]) (qntSide o a l)
    rw [count] at entered
    simpa [out] using entered

/-- A lane without an outlier is done: its element is the converted product, its bit 0. -/
theorem QntDone.snoc_kept (out : qntOut o a c l = false) : QntDone o a b c act old (pre ++ [l]) (qntLane o act a b c q l) := by
  have element := h.d l hl
  have drawn := h.gen l hl
  rw [if_neg fresh] at element
  rw [if_neg fun m => fresh m.1] at drawn
  rw [qntLane_of_kept out]
  refine ⟨by simp [h.k, out], fun m hm => ?gen, fun m hm => ?d, fun m hm => ?p, by simpa [out] using h.side⟩
  case gen =>
    by_cases e : m = l
    · subst e
      simp [rowAt_setLane_same _ _ hm, drawn, out]
    · simp [rowAt_setLane_other _ _ e, h.gen m hm, e]
  case d =>
    by_cases e : m = l
    · subst e
      simp [rowAt_setLane_same _ _ hm, setElem_eq, element, out]
    · simp [rowAt_setLane_other _ _ e, h.d m hm, e]
  case p =>
    rw [BitVec.getLsbD_and, BitVec.getLsbD_not, getLsbD_oneLane hl, h.p m hm]
    by_cases e : m = l
    · simp [e, out]
    · simp [e, hm]

end

/-- The lanes of a list are done in their order. -/
theorem QntDone.foldl {old : QntAcc} {pre rest : List Nat} (h : QntDone o a b c act old pre q) (nodup : act.Nodup) (lanes : ∀ l ∈ act, l < 64)
    (split : act = pre ++ rest) : QntDone o a b c act old act (rest.foldl (qntLane o act a b c) q) := by
  induction rest generalizing pre q with
  | nil =>
    rw [List.append_nil] at split
    rw [split] at h ⊢
    exact h
  | cons l rest ih =>
    have parts := split ▸ nodup
    have fresh : l ∉ pre := fun mem => (List.disjoint_of_nodup_append parts) mem List.mem_cons_self
    have hl : l < 64 := lanes l (by simp [split])
    have room : pre.length < act.length := by simp [split]
    refine ih (pre := pre ++ [l]) ?_ (by rw [split, List.append_assoc]; rfl)
    cases out : qntOut o a c l with
    | true => exact h.snoc_outlier hl fresh nodup lanes room out
    | false => exact h.snoc_kept hl fresh out

end

/-- The row of results, the predicate, the side row and the generators that QNT makes. -/
def State.qntAcc (s : State) (o : LaneOps) : QntAcc :=
  (lanesOf (s.active o)).foldl (qntLane o (lanesOf (s.active o)) (s.src o 0) (s.src o 1) (s.src o 2))
    { d := s.oldD o, p := s.cw.preg (BitVec.ofNat 4 (cvOmask o.lit)), side := s.cw.vreg (cvSide o.lit), gen := s.chain.gen, k := 0 }

section
variable (s : State) (o : LaneOps)

/-- The state that QNT leaves. -/
def State.qntLeft : State := ((s.setGen (s.qntAcc o).gen).putResult o (s.qntAcc o).d).modW fun w =>
  (w.setP (BitVec.ofNat 4 (cvOmask o.lit)) (s.qntAcc o).p).putV (cvSide o.lit) (s.qntAcc o).side

theorem exec_qnt : exec (.qnt o) s = .next (s.qntLeft o) := rfl

theorem laneStep_qntLeft : Spec.LaneStep o s (s.qntLeft o) (s.qntAcc o).gen (some (Spec.latched o s (rowAt (s.qntAcc o).d))) := by
  rw [State.qntLeft, State.modW_eq, Watch.setP_frame]
  exact laneStep_writeRegs (laneStep_setGen_putResult fun _ _ => rfl) _ _

theorem State.vreg_qntLeft_side : (s.qntLeft o).cw.vreg (cvSide o.lit) = (s.qntAcc o).side := by
  rw [qntLeft, cw_modW]
  exact Tbl.getD_put_same ..

theorem State.vreg_qntLeft_other {k : Nat} (h : k ≠ cvSide o.lit) :
    (s.qntLeft o).cw.vreg k = ((s.setGen (s.qntAcc o).gen).putResult o (s.qntAcc o).d).cw.vreg k := by
  rw [qntLeft, cw_modW, Watch.setP_frame]
  exact Tbl.getD_put_other _ _ _ h

theorem State.preg_qntLeft_mask (h : BitVec.ofNat 4 (cvOmask o.lit) ≠ 0) :
    (s.qntLeft o).cw.preg (BitVec.ofNat 4 (cvOmask o.lit)) = (s.qntAcc o).p := by
  rw [qntLeft, cw_modW]
  exact Watch.preg_setP_same _ h _

theorem State.preg_qntLeft_other {k : B4} (h : k ≠ BitVec.ofNat 4 (cvOmask o.lit)) : (s.qntLeft o).cw.preg k = s.cw.preg k := by
  rw [qntLeft, cw_modW]
  refine (Watch.preg_setP_other _ h _).trans ?_
  rw [preg_of_laneStep (laneStep_putResult fun _ _ => rfl) p_putResult, preg_setGen]

theorem State.qntDone : QntDone o (s.src o 0) (s.src o 1) (s.src o 2) (lanesOf (s.active o))
    { d := s.oldD o, p := s.cw.preg (BitVec.ofNat 4 (cvOmask o.lit)), side := s.cw.vreg (cvSide o.lit), gen := s.chain.gen, k := 0 }
    (lanesOf (s.active o)) (s.qntAcc o) :=
  (QntDone.nil _ rfl).foldl (List.nodup_range.filter _) (fun _ hl => BitVec.lt_of_getLsbD (mem_lanesOf.mp hl)) rfl

variable {s o}

theorem qntValue_eq {l : Nat} (hl : l < 64) : qntValue o (s.src o 0) l =
    readVal (if o.ty = 2 then .bf16 else .f32) (cvFtz o.lit) (Spec.element (tyWidth o.ty) (Spec.source o s 0 l) 0) := by
  rw [qntValue, srcVal, srcFm, s.rowAt_src o 0 hl, elemOf_eq]
  simp only [beq_iff_eq]

theorem qntOut_eq {l : Nat} (hl : l < 64) : qntOut o (s.src o 0) (s.src o 2) l =
    outlier (readVal (if o.ty = 2 then .bf16 else .f32) (cvFtz o.lit) (Spec.element (tyWidth o.ty) (Spec.source o s 0 l) 0))
      (readVal .f32 (cvFtz o.lit) (Spec.source o s 2 l).toNat) := by
  rw [qntOut, qntValue_eq hl, s.rowAt_src o 2 hl]

end

end Sys2Proof.Machine

namespace Sys2Proof

open Machine

theorem qntSeparatesOutliers : Spec.QntSeparatesOutliers := by
  intro s o x t n v out f act outs _ _ hn _ hside
  have done := s.qntDone o
  have valueIs {l : Nat} (hl : l < 64) : qntValue o (s.src o 0) l = v l := qntValue_eq hl
  have outIs {l : Nat} (hl : l < 64) : qntOut o (s.src o 0) (s.src o 2) l = out l := qntOut_eq hl
  have outsAre : (lanesOf (s.active o)).filter (qntOut o (s.src o 0) (s.src o 2)) = outs :=
    List.filter_congr fun l hl => outIs (BitVec.lt_of_getLsbD (mem_lanesOf.mp hl))
  refine ⟨s.qntLeft o, (s.qntAcc o).gen, _, exec_qnt s o, laneStep_qntLeft s o, fun l hl => ?gen, fun hnw l hl => ?d, fun l hl => ?p,
    fun k j l hk hl => ?entries, fun l h hl hh free => ?rest, fun k hk hd => ?vregs, fun k hk => State.preg_qntLeft_other s o hk⟩
  case gen =>
    rw [done.gen l hl, outIs hl, qntGen]
    by_cases sr : cvRm x = 4 <;> simp [mem_lanesOf, sr, x]
  case d =>
    have apart : o.d.toNat ≠ cvSide x := (hside.resolve_right (by simp [hnw])).symm
    rw [State.vreg_qntLeft_other s o apart, State.vreg_putResult_of_write hnw, rowAt_blend _ _ _ hl, State.vreg_setGen, State.active_setGen,
      done.d l hl, outIs hl, qntCode, valueIs hl, s.rowAt_src o 1 hl]
    simp only [mem_lanesOf]
    cases (s.active o).getLsbD l <;> rfl
  case p =>
    rw [State.preg_qntLeft_mask s o hn, done.p l hl, outIs hl]
    simp only [mem_lanesOf]
    rfl
  case entries =>
    have lane : j < 64 := List.mem_range.mp (List.mem_of_mem_filter (List.mem_of_mem_filter (List.mem_of_getElem? hk)))
    have listed : (((lanesOf (s.active o)).filter (qntOut o (s.src o 0) (s.src o 2))).map (qntSide o (s.src o 0)))[k]? =
        some (qntSide o (s.src o 0) j) := by rw [outsAre, List.getElem?_map, hk]; rfl
    rw [State.vreg_qntLeft_side, done.side.entry k _ l listed hl, qntSide, valueIs lane]
  case rest =>
    rw [State.vreg_qntLeft_side]
    refine done.side.rest l h hl hh ?_
    rw [List.length_map, outsAre]
    exact free
  case vregs =>
    rw [State.vreg_qntLeft_other s o hk]
    rcases hd with hnw | hd
    · rw [State.vreg_putResult_of_nw hnw, State.vreg_setGen]
    · rw [State.vreg_putResult_other hd, State.vreg_setGen]

/-- Settles O32: CVT, PACK and UNPK by `convOf_elemOf_eq` under the draws, QNT by what `QntDone` says once every active lane is done. -/
theorem conversionsWriteTheirResult : Obligations.ConversionsWriteTheirResult := ⟨conversionsConvertElements, qntSeparatesOutliers⟩

end Sys2Proof

namespace Sys2Proof.Machine

/-! ## Segments (05 R159) -/

theorem rowAt_of_ge (r : Row) {l : Nat} (hl : 64 ≤ l) : rowAt r l = 0 := by
  rw [rowAt, Vector.getElem?_eq_none hl]
  rfl

section
variable (s : State) (o : LaneOps)

theorem State.seg_eq : s.seg o = Spec.segment o s := by
  have field : (o.lit.extractLsb' 10 2).toNat = o.lit.toNat / 2 ^ 10 % 4 := by
    rw [BitVec.extractLsb'_toNat, Nat.shiftRight_eq_div_pow]
  have four : o.lit.toNat / 2 ^ 10 % 4 < 4 := Nat.mod_lt _ (by decide)
  unfold seg segSize Spec.segment
  rw [field]
  generalize o.lit.toNat / 2 ^ 10 % 4 = n at four
  interval_cases n <;> rfl

theorem segOp_eq : segOp o.lit = o.lit.toNat % 8 := BitVec.extractLsb'_toNat ..

theorem segK_eq : segK o.lit = o.lit.toNat / 2 ^ 4 % 64 := by
  rw [segK, BitVec.extractLsb'_toNat, Nat.shiftRight_eq_div_pow]

theorem segStart_eq (n l : Nat) : segStart n l = l / n * n := by
  have := Nat.div_add_mod' l n
  rw [segStart]
  omega

/-- The source lane of SHFL is the one of 05 R161. -/
theorem shflLane_eq (n mode k : Nat) (b : W32) (l : Nat) : shflLane n mode k b l = Spec.shuffled n mode k b l := by
  unfold Spec.shuffled
  rw [← segStart_eq]
  match mode with
  | 0 | 1 | 2 | 3 => rfl
  | m + 4 => rfl

theorem segLanes_eq (l hi : Nat) : segLanes (lanesOf (s.active o)) (s.seg o) l hi = Spec.segmentLanes o s l hi := by
  rw [segLanes, lanesOf, List.filter_filter, s.seg_eq, Spec.segmentLanes]
  refine List.filter_congr fun j _ => ?_
  rw [beq_eq_decide, Bool.and_comm, Bool.and_assoc]

/-- The lanes of a segment are lanes. -/
theorem lt_of_mem_segmentLanes {s : State} {o : LaneOps} {j l hi : Nat} (h : j ∈ Spec.segmentLanes o s l hi) : j < 64 :=
  List.mem_range.mp (List.mem_of_mem_filter h)

/-- A reduction over lanes, the first one given (05 R164). -/
theorem redLanes_src_cons (op : Nat) (ty : B4) (i : Nat) {j : Nat} {rest : List Nat} (h : ∀ k ∈ j :: rest, k < 64) :
    redLanes op ty (s.src o i) (j :: rest) = rest.foldl (fun x k => redStep op ty x (Spec.source o s i k)) (Spec.source o s i j) := by
  rw [redLanes, s.rowAt_src o i (h j List.mem_cons_self)]
  exact List.foldl_ext _ _ _ fun x k hk => by rw [s.rowAt_src o i (h k (List.mem_cons_of_mem _ hk))]

/-- The keys that BPLANE counts (05 R163). -/
theorem bplaneLane_eq (b p : W32) : bplaneLane (o.ty == 6) (lanesOf (s.active o)) (s.src o 0) b p =
    let k := b.toNat % 32
    let key (j : Nat) : W32 := if o.ty = 6 then Spec.source o s 0 j ^^^ 0x80000000 else Spec.source o s 0 j
    BitVec.ofNat 32 ((List.range 64).countP fun j => (s.active o).getLsbD j &&
      decide ((key j).toNat / 2 ^ (k + 1) = p.toNat / 2 ^ (k + 1)) && (key j).getLsbD k) := by
  extract_lets k key
  rw [bplaneLane, ← List.countP_eq_length_filter, lanesOf, List.countP_filter]
  refine congrArg _ (List.countP_congr fun j hj => ?_)
  have keyIs : (if (o.ty == 6) = true then rowAt (s.src o 0) j ^^^ 0x80000000#32 else rowAt (s.src o 0) j) = key j := by
    rw [s.rowAt_src o 0 (List.mem_range.mp hj)]
    simp only [beq_iff_eq]
    rfl
  rw [keyIs]
  dsimp only
  rw [Nat.shiftRight_eq_div_pow, Nat.shiftRight_eq_div_pow, beq_eq_decide, Bool.and_comm, ← Bool.and_assoc]

variable {s o}

/-- A reduction of each lane's segment below a bound writes its result (05 R164, R165). -/
theorem laneWrites_of_reduction {i : Instr} {hi : Nat → Nat} {r : Nat → W32}
    (run : exec i s = .next (s.putResult o (Vector.ofFn fun l =>
      redLanes (segOp o.lit) o.ty (s.src o 0) (segLanes (lanesOf (s.active o)) (s.seg o) l.val (hi l.val)))))
    (empty : ∀ l, Spec.segmentLanes o s l (hi l) = [] → redUnit (o.lit.toNat % 8) o.ty = r l)
    (first : ∀ l j rest, Spec.segmentLanes o s l (hi l) = j :: rest →
      rest.foldl (fun x k => redStep (o.lit.toNat % 8) o.ty x (Spec.source o s 0 k)) (Spec.source o s 0 j) = r l) :
    Spec.LaneWrites i o s s.chain.gen r := by
  refine laneWrites_of_putResult run fun l hl => ?_
  rw [rowAt_ofFn _ hl, segLanes_eq, segOp_eq]
  have lanes : ∀ k ∈ Spec.segmentLanes o s l (hi l), k < 64 := fun k => lt_of_mem_segmentLanes
  cases h : Spec.segmentLanes o s l (hi l) with
  | nil => exact empty l h
  | cons j rest => exact (redLanes_src_cons s o _ _ 0 (h ▸ lanes)).trans (first l j rest h)

end

end Sys2Proof.Machine

namespace Sys2Proof

open Machine

/-- Settles O33: SHFL, BALLOT and BPLANE lane by lane, the reductions by `laneWrites_of_reduction`. -/
theorem crossLaneResults : Obligations.CrossLaneResults := by
  intro s o a
  refine ⟨laneWrites_of_putResult rfl fun l hl => ?shfl, laneWrites_of_putResult rfl fun l hl => ?ballot,
    laneWrites_of_putResult rfl fun l hl => ?bplane, fun i hi => ?reduce⟩
  case shfl =>
    rw [rowAt_ofFn _ hl, shflLane_eq, s.seg_eq, segOp_eq, segK_eq]
    change rowAt (s.src o 0) (Spec.shuffled _ _ _ (s.src o 1)[l] l) = _
    rw [← rowAt_of_lt _ hl, s.rowAt_src o 1 hl]
    dsimp only
    split
    next lane => exact s.rowAt_src o 0 lane
    next beyond => exact rowAt_of_ge _ (Nat.not_lt.mp beyond)
  case ballot =>
    have low (v : Mask) : v.extractLsb' 0 32 = v.setWidth 32 := (BitVec.setWidth_eq_extractLsb' (by decide)).symm
    rw [rowAt_replicate _ hl, low]
  case bplane =>
    rw [rowAt_ofFn _ hl, bplaneLane_eq]
    change (let k := (s.src o 1)[l].toNat % 32; _) = _
    rw [← s.rowAt_src o 1 hl, ← s.rowAt_src o 2 hl, rowAt_of_lt _ hl, rowAt_of_lt _ hl]
    rfl
  case reduce =>
    rcases hi with rfl | rfl
    · exact laneWrites_of_reduction (hi := fun _ => 64) rfl (fun l h => by simp only [if_true, h]) fun l j rest h => by simp only [if_true, h, a]
    · exact laneWrites_of_reduction (hi := fun l => if o.lit.getLsbD 3 then l else l + 1) rfl (fun l h => by simp only [reduceCtorEq, if_false, h])
        fun l j rest h => by simp only [reduceCtorEq, if_false, h, a]

end Sys2Proof

/-! # Proofs: the memory of the columns (06) -/

namespace Sys2Proof.Machine

/-! ## Addresses, sizes and words of accesses -/

/-- The displaced address of an access (06 R179). -/
theorem dispAddr_eq (a : Word) (o : W32) : dispAddr a o = Spec.displacedAddr a o := by
  have off : BitVec.ofNat 42 ((offOf a + (o.signExtend 42).toNat) % 2 ^ 42) = BitVec.ofInt 42 ((a.extractLsb' 0 42).toNat + o.toInt) := by
    have sum (x : BitVec 42) (y : W32) : BitVec.ofNat 42 ((x.toNat + (y.signExtend 42).toNat) % 2 ^ 42) = BitVec.ofInt 42 (x.toNat + y.toInt) := by
      rw [BitVec.ofInt_add, BitVec.ofInt_natCast, BitVec.ofNat_toNat, BitVec.setWidth_eq, ← BitVec.toNat_add, BitVec.ofNat_toNat, BitVec.setWidth_eq]
      rfl
    exact sum _ o
  rw [dispAddr, withOff, off, Spec.displacedAddr]

theorem accBytes_eq {z : Nat} (h : z < 8) : accBytes z = Spec.sizeBytes z := by
  interval_cases z <;> rfl

theorem words32_eq (n x : Nat) : words32 n x = Spec.words32Of n x := by
  simp only [words32, Spec.words32Of, Nat.shiftRight_eq_div_pow]
  rfl

theorem two_pow_eight_mul (n : Nat) : 2 ^ (8 * n) = 256 ^ n := pow_mul 2 8 n

theorem offOf_eq (a : Word) : offOf a = a.toNat % 2 ^ 42 := by
  simp [offOf]

/-- The signature of a compare entry (09 R275). -/
theorem entrySig_eq (opcode : Nat) (store cas : Bool) (o : Op) :
    entrySig opcode o.size cas o.accs = (Spec.entryOf opcode store cas o).sig := by
  simp only [entrySig, Spec.entryOf, words32_eq, offOf_eq]
  rfl

theorem xorFirst_eq (x : W32) (l : List Acc) : xorFirst x.toNat l = Spec.harmed x l := by
  cases l with
  | nil => rfl
  | cons a l => simp only [xorFirst, Spec.harmed, two_pow_eight_mul]

theorem pathRoom_single {w : Watch} {p : Nat} : w.pathRoom [p] = true ↔ w.pathCount p < 65535 := by
  simp [Watch.pathRoom]

/-! ## Acquire points (06 R192) -/

/-- The watch after an instruction of order `r` that acquires at the place `q`. -/
def Watch.acquired (w : Watch) (r : Ord) (q : Nat) : Watch := if ordAcq r then { w with acqs := w.acqs.filter w.acqOpen ++ [q] } else w

theorem ordAcq_iff {r : Ord} : ordAcq r = true ↔ r = .acq ∨ r = .ar := by
  cases r <;> decide

/-- The state in which the executing watch is `y`, and the counters of numbers and places stand at `n` and `q`. -/
def State.numbered (s : State) (y : Watch) (n q : Nat) : State := { s.setW y with next := n, seq := q }

@[simp] theorem State.cw_numbered (s : State) (y : Watch) (n q : Nat) : (s.numbered y n q).cw = y := State.cw_setW s y

theorem State.setW_numbered (s : State) (y z : Watch) (n q : Nat) : (s.numbered y n q).setW z = s.numbered z n q :=
  congrArg (fun u : State => { u with next := n, seq := q }) (State.setW_setW s y z)

/-- An instruction that acquires, and ends, changes the acquire points and the fragment. -/
theorem State.acquire_finish (t : State) (r : Ord) (i : Instr) : (t.acquire r).finish i =
    { t.setW ((t.cw.acquired r t.seq).advance i t.ent) with seq := if ordAcq r then t.seq + 1 else t.seq } := by
  cases h : ordAcq r with
  | true =>
    have run : t.acquire r = State.setW t.tick (t.cw.acquired r t.seq) := by
      simp only [acquire, Watch.acquired, h, if_true]
      rfl
    rw [run, finish_setW]
    rfl
  | false =>
    have run : t.acquire r = t := by simp only [acquire, h, Bool.false_eq_true, if_false]
    have kept : t.cw.acquired r t.seq = t.cw := by simp only [Watch.acquired, h, Bool.false_eq_true, if_false]
    rw [run, kept, finish_eq]
    rfl

theorem State.acquire_finish_numbered (s : State) (y : Watch) (n q : Nat) (r : Ord) (i : Instr) : ((s.numbered y n q).acquire r).finish i =
    s.numbered ((y.acquired r q).advance i s.ent) n (if ordAcq r then q + 1 else q) := by
  rw [acquire_finish, cw_numbered, setW_numbered]
  rfl

theorem Watch.advance_acquired (y : Watch) (r : Ord) (q : Nat) (i : Instr) (e : Nat) : (y.acquired r q).advance i e =
    { y with acqs := ((y.acquired r q).advance i e).acqs, split := ((y.acquired r q).advance i e).split } := by
  unfold acquired
  split <;> rfl

/-- The acquire points that a watch keeps, once further operations are in flight. -/
theorem acquiresAt_acquired {x w : Watch} {r : Ord} {q : Nat} (i : Instr) (e : Nat) (acqs : w.acqs = x.acqs)
    (opens : ∀ k, x.acqOpen k = true → w.acqOpen k = true) : Spec.AcquiresAt x ((w.acquired r q).advance i e) r q := by
  change Spec.AcquiresAt x (w.acquired r q) r q
  unfold Spec.AcquiresAt Watch.acquired
  simp only [ordAcq_iff]
  split
  next acquires =>
    simp only [List.mem_append, List.mem_filter, List.mem_singleton, or_true, true_and, acqs]
    exact ⟨fun k hk => hk.symm.imp id (·.1), fun k hk ho => .inl ⟨hk, opens k ho⟩⟩
  next relaxed => exact acqs

/-- An operation more leaves every acquire point open that was. -/
theorem Watch.acqOpen_append {x w : Watch} {more : List Op} {k : Nat} (ops : w.ops = x.ops ++ more) (lq : w.lq = x.lq) (held : w.held = x.held)
    (h : x.acqOpen k = true) : w.acqOpen k = true := by
  simp only [acqOpen, ops, lq, held, List.any_append, Bool.or_eq_true] at h ⊢
  tauto

theorem advances_acquired {x y : Watch} {i : Instr} {e : Nat} (hc : (encodeControl i).isSome) (he : e < 8) (hs : y.split = x.split)
    (r : Ord) (q : Nat) : Advances i x ((y.acquired r q).advance i e) e := by
  refine advances_of hc he (.trans ?_ hs)
  unfold Watch.acquired
  split <;> rfl

/-! ## Operations put in flight (06 R178, R181) -/

/-- The operation under its number, at its place in the watch's order. -/
def Op.placed (o : Op) (id q : Nat) : Op := { o with id := id, seq := if o.seq = 0 then q else o.seq }

/-- The watch with an operation more in flight, and its bytes in the store FIFO. -/
def Watch.issues (w : Watch) (p : Op) (fifo : List StoreEnt) : Watch := { w with ops := w.ops ++ [p], fifo := w.fifo ++ fifo }

theorem inFlight_eq (t : State) (o : Op) (fifo : List StoreEnt) :
    Spec.inFlight t o fifo = t.numbered (t.cw.issues (o.placed t.next t.seq) fifo) (t.next + 1) (t.seq + 1) := rfl

theorem State.addOp_eq_inFlight (t : State) (o : Op) : t.addOp o = Spec.inFlight t o [] := by
  rw [Spec.inFlight, List.append_nil]
  rfl

/-- The entries that the accesses of an operation take in the store FIFO (06 R178). -/
def State.fifoEntries (t : State) (o : Op) : List StoreEnt :=
  o.accs.map fun a => { op := t.next, lane := o.lane, seq := if o.seq = 0 then t.seq else o.seq, acc := a }

/-- A store, not an atomic. -/
def Op.isStore (o : Op) : Bool := o.kind == .st || o.kind == .sst

theorem Op.isAtomic_eq (o : Op) : (o.kind != .st && o.kind != .sst) = !o.isStore := by
  simp [isStore, bne]

/-- Outside a pair a store or an atomic is put in flight, and a store's bytes enter the store FIFO. -/
theorem State.issueWrite_of_single {t : State} (h : t.cw.pair = none) (opcode : Nat) (o : Op) :
    t.issueWrite opcode o = Spec.inFlight t o (if o.isStore then t.fifoEntries o else []) := by
  have put : t.addOp o = t.numbered (t.cw.issues (o.placed t.next t.seq) []) (t.next + 1) (t.seq + 1) := addOp_eq_inFlight t o
  have fifo : (if (o.kind != .st && o.kind != .sst) then [] else t.fifoEntries o) = if o.isStore then t.fifoEntries o else [] := by
    rw [Op.isAtomic_eq]
    cases o.isStore <;> rfl
  simp only [issueWrite, h, put, modW_eq, cw_numbered, setW_numbered, inFlight_eq, ← fifo]
  simp only [Watch.issues, List.append_nil]
  rfl

/-- A control instruction that puts an operation in flight, acquires by its order, and ends. -/
theorem issues_of_inFlight {i : Instr} {s : State} {o : Op} {fifo : List StoreEnt} {r : Ord} (hv : s.frag.valid = true)
    (hc : (encodeControl i).isSome) (hseq : o.seq = 0) (run : exec i s = .next (((Spec.inFlight s o fifo).acquire r).finish i)) :
    Spec.Issues i s o fifo r := by
  rw [inFlight_eq, State.acquire_finish_numbered] at run
  have placed : o.placed s.next s.seq = { o with id := s.next, seq := s.seq } := by rw [Op.placed, hseq, if_pos rfl]
  rw [placed] at run
  refine ⟨_, run, ?_, ?_, ?_, ?_⟩
  · rw [State.cw_numbered]
    rfl
  · rw [State.cw_numbered, Watch.advance_acquired]
    rfl
  · rw [State.cw_numbered]
    exact acquiresAt_acquired _ _ rfl fun k hk => Watch.acqOpen_append rfl rfl rfl hk
  · rw [State.cw_numbered]
    exact advances_acquired hc (valid_lt hv) rfl _ _

/-! ## SLD (06 R191) -/

theorem State.access_of_ok {s : State} {r : AReq} {a : Word} {x : Acc} (k : Acc → State) (h : s.prep s.cw.home r a = .ok x) :
    s.access r a k = k x := by
  rw [access, h]
  rfl

/-- SLD and its long form run one step. -/
theorem exec_sld {i : Instr} {d a : Reg} {z : B3} {o : W32} (s : State) (hi : i = .sld d a z ∧ o = 0 ∨ i = .sld64 d a z o) :
    exec i s = .next (s.issueSld i d a z.toNat o) ∧ (encodeControl i).isSome := by
  rcases hi with ⟨rfl, rfl⟩ | rfl <;> exact ⟨rfl, rfl⟩

theorem getLsbD_zero_iff {n : Nat} (x : BitVec n) : x.getLsbD 0 = true ↔ x.toNat % 2 = 1 := by
  simp [BitVec.getLsbD, Nat.testBit_zero]

theorem sldPutsALoadInFlight : Spec.SldPutsALoadInFlight := by
  intro s d a z o i x hv hi
  obtain ⟨run, hc⟩ := exec_sld s hi
  have wide : (z.toNat = 4 ∧ d.getLsbD 0 = true) ↔ (z = 4 ∧ d.toNat % 2 = 1) := by
    rw [getLsbD_zero_iff, ← BitVec.toNat_inj]
    rfl
  refine ⟨fun hz hd => ?_, fun hz ok room => ?_⟩
  · rw [run, State.issueSld, if_pos (wide.mpr ⟨hz, hd⟩)]
  · have narrow : ¬(z.toNat = 4 ∧ d.getLsbD 0 = true) := fun h => by
      obtain ⟨h4, hd⟩ := wide.mp h
      have := hz h4
      omega
    rw [Spec.loadReq, ← accBytes_eq z.isLt, ← dispAddr_eq] at ok
    have free : s.cw.pathRoom [loadPath x.addr] = true := pathRoom_single.mpr room
    refine issues_of_inFlight hv hc rfl ?_
    rw [run, State.issueSld, if_neg narrow, State.access_of_ok _ ok, free, State.addOp_eq_inFlight]
    rfl

/-! ## Compare entries (09 R275, R279) -/

/-- Whether INJECT is for the kind of an access (09 R279). -/
theorem injectKind_iff (x : BitVec 2) (atom : Bool) : ((x == 1) != atom) = true ↔ ¬(x = 1 ↔ atom = true) := by
  cases atom <;> simp

section
variable {t : State} {p : Pair} {accs : List Acc} {atom : Bool} (h : t.cw.pair = some p)
include h

theorem State.injected_of_unharmed (safe : Spec.Unharmed t p atom) : t.injected atom accs = (t, accs) := by
  simp only [injected, h, Option.getD_some]
  cases leader : (t.watch p.partner).pair with
  | none => rfl
  | some l =>
    refine if_pos ?_
    rcases safe with leads | safe
    · simp [leads]
    · rcases safe l leader with clear | other
      · simp only [clear, Bool.not_false, Bool.or_true, Bool.true_or]
      · have skips : ((l.inj.extractLsb' 1 2 == 1) != atom) = true := by
          rw [injectKind_iff, other]
          simp
        simp only [skips, Bool.or_true]

theorem State.injected_nil : t.injected atom [] = (t, []) := by
  simp only [injected, h, Option.getD_some]
  cases (t.watch p.partner).pair with
  | none => rfl
  | some l => exact if_pos (by simp)

variable {l : Pair} (trails : p.leads = false) (leader : (t.watch p.partner).pair = some l) (armed : l.inj.getLsbD 0 = true)
  (kind : l.inj.extractLsb' 1 2 = 1 ↔ atom = true) (some_ : accs ≠ [])
include trails leader armed kind some_

theorem State.injected_of_armed : t.injected atom accs = if p.injDone = (l.inj.extractLsb' 8 8).toNat then
    (t.modWatch p.partner Watch.fire, Spec.harmed (l.inj.extractLsb' 32 32) accs)
    else (t.setW { t.cw with pair := some { p with injDone := p.injDone + 1 } }, accs) := by
  have full : accs.isEmpty = false := by simpa using some_
  have hits : ((l.inj.extractLsb' 1 2 == 1) != atom) = false := by
    rw [Bool.eq_false_iff, ne_eq, injectKind_iff, not_not]
    exact kind
  simp only [injected, h, Option.getD_some, leader, trails, full, armed, hits, Bool.not_true, Bool.or_self, Bool.false_eq_true, if_false, xorFirst_eq]
  rfl

theorem State.injected_of_skipped (skips : p.injDone ≠ (l.inj.extractLsb' 8 8).toNat) :
    t.injected atom accs = (t.setW { t.cw with pair := some { p with injDone := p.injDone + 1 } }, accs) :=
  (injected_of_armed h trails leader armed kind some_).trans (if_neg skips)

theorem State.injected_of_fires (fires : p.injDone = (l.inj.extractLsb' 8 8).toNat) :
    t.injected atom accs = (t.modWatch p.partner Watch.fire, Spec.harmed (l.inj.extractLsb' 32 32) accs) :=
  (injected_of_armed h trails leader armed kind some_).trans (if_pos fires)

end

theorem Op.placed_placed (o : Op) (id q : Nat) : (o.placed id q).placed id q = o.placed id q := by
  unfold placed
  split <;> simp_all

/-- The watch of the pair `p` once its operation `q` has formed a compare entry: an operation in flight where it has a lane (06 R181). -/
def Watch.forms (w : Watch) (p : Pair) (opcode : Nat) (store cas : Bool) (q : Op) : Watch :=
  { w with ops := w.ops ++ [q], pair := some (Spec.withEntry p (Spec.entryOf opcode store cas q)) }

section
variable {t u : State} {p : Pair} {opcode : Nat} {o : Op} {accs : List Acc}

/-- In a pair a store or an atomic forms a compare entry of its accesses as INJECT leaves them. -/
theorem State.issueWrite_of_pair {p' : Pair} (h : t.cw.pair = some p) (inj : t.injected (!o.isStore) o.accs = (u, accs)) (h' : u.cw.pair = some p')
    (some_ : accs ≠ []) : t.issueWrite opcode o =
      u.numbered (u.cw.forms p' opcode o.isStore (o.fn == 9 && !o.isStore) (Op.placed { o with accs := accs } u.next u.seq)) (u.next + 1) (u.seq + 1) := by
  generalize hq : Op.placed { o with accs := accs } u.next u.seq = q
  have full : accs.isEmpty = false := by simpa using some_
  have put : u.addOp q = u.numbered (u.cw.issues q []) (u.next + 1) (u.seq + 1) := by
    rw [addOp_eq_inFlight, inFlight_eq, ← hq, Op.placed_placed]
  have sig : entrySig opcode o.size (o.fn == 9 && !o.isStore) accs = (Spec.entryOf opcode o.isStore (o.fn == 9 && !o.isStore) q).sig := by
    rw [← entrySig_eq, ← hq]
    rfl
  have entry : ({ sig := entrySig opcode o.size (o.fn == 9 && !o.isStore) accs, store := o.isStore, lane := o.lane, op := q } : PairEnt) =
      Spec.entryOf opcode o.isStore (o.fn == 9 && !o.isStore) q := by
    rw [sig, ← hq]
    rfl
  simp only [issueWrite, h, Op.isAtomic_eq, inj, full, Bool.false_eq_true, if_false, Bool.not_not]
  change (u.addOp (Op.placed { o with accs := accs } u.next u.seq)).modW _ = _
  rw [hq, put, modW_eq, cw_numbered, setW_numbered]
  simp only [Watch.issues, List.append_nil, h', Option.map_some, Watch.forms, Spec.withEntry, ← entry]
  subst hq
  rfl

end

/-- An instruction without an active lane forms a compare entry too, which is no operation in flight (06 R181). -/
theorem State.issueWrite_of_pair_empty {t : State} {p : Pair} (h : t.cw.pair = some p) (opcode : Nat) {o : Op} (none_ : o.accs = []) :
    t.issueWrite opcode o = t.numbered { t.cw with pair := some (Spec.withEntry p
      (Spec.entryOf opcode o.isStore (o.fn == 9 && !o.isStore) (o.placed t.next t.seq))) } (t.next + 1) t.seq := by
  have bare : ({ o with accs := [] } : Op) = o := by rw [← none_]
  rw [← bare]
  have inj : t.injected (!o.isStore) [] = (t, []) := injected_nil h
  have cw : t.bump.cw = t.cw := rfl
  have entry := entrySig_eq opcode o.isStore (o.fn == 9 && !o.isStore) (Op.placed { o with accs := [] } t.next t.seq)
  simp only [issueWrite, h, Op.isAtomic_eq, inj, List.isEmpty_nil, if_true, Bool.not_not, modW_eq, cw, Option.map_some]
  rfl

/-! ## Control instructions that form a compare entry (09 R275, R279) -/

theorem Watch.pairFull_of_pair {w : Watch} {p : Pair} (h : w.pair = some p) :
    w.pairFull = true ↔ p.leads = true ∧ p.slack < p.ents.length + 1 := by
  simp [pairFull, h]

theorem State.find_numbered_other (u : State) (y : Watch) (n q : Nat) {k : Nat} (h : k ≠ u.cur) :
    Tbl.find (u.numbered y n q).watches k = Tbl.find u.watches k := Tbl.find_put_other _ _ h

/-- The change of another watch leaves the one that executes. -/
theorem State.cw_modWatch_other (s : State) {k : Nat} (f : Watch → Watch) (h : k ≠ s.cur) : (s.modWatch k f).cw = s.cw :=
  Tbl.getD_alter_other _ _ _ (Ne.symm h)

/-- The leader's watch once INJECT has fired (09 R279). -/
theorem Watch.fire_of_pair {y : Watch} {l : Pair} (h : y.pair = some l) : y.fire =
    { y with inject := if l.rearmed then y.inject else y.inject &&& ~~~1#64, pair := some { l with inj := 0 } } := by
  simp only [fire, h]

section
variable {i : Instr} {s : State} {o : Op} {opcode : Nat} {store cas : Bool} {r : Ord} (hv : s.frag.valid = true)
  (hc : (encodeControl i).isSome) (hseq : o.seq = 0)
include hv hc hseq

/-- An instruction goes on with its entry formed from a state that differs from `s` in other watches alone. -/
theorem formsEntry {u : State} {p : Pair} {accs : List Acc} (mem : u.mem = s.mem) (next : u.next = s.next) (seq : u.seq = s.seq)
    (ent : u.ent = s.ent) (cw : u.cw = { s.cw with pair := u.cw.pair })
    (run : exec i s = .next (((u.numbered (u.cw.forms p opcode store cas (Op.placed { o with accs := accs } u.next u.seq)) (u.next + 1) (u.seq + 1)).acquire r).finish i)) :
    ∃ y n q, exec i s = .next (u.numbered y n q) ∧
      (u.numbered y n q).mem = s.mem ∧
      (u.numbered y n q).cw = { s.cw with
        ops := s.cw.ops ++ [{ o with accs := accs, id := s.next, seq := s.seq }]
        pair := some (Spec.withEntry p (Spec.entryOf opcode store cas { o with accs := accs, id := s.next, seq := s.seq }))
        acqs := (u.numbered y n q).cw.acqs, split := (u.numbered y n q).cw.split } ∧
      Spec.AcquiresAt s.cw (u.numbered y n q).cw r (s.seq + 1) ∧ Advances i s.cw (u.numbered y n q).cw s.ent := by
  have placed : Op.placed { o with accs := accs } u.next u.seq = { o with accs := accs, id := s.next, seq := s.seq } := by
    rw [Op.placed, next, seq, hseq, if_pos rfl]
  rw [State.acquire_finish_numbered, placed, ent] at run
  refine ⟨_, _, _, run, mem, ?_, ?_, ?_⟩
  · rw [State.cw_numbered, Watch.advance_acquired, cw]
    rfl
  · rw [State.cw_numbered, seq, cw]
    exact acquiresAt_acquired _ _ rfl fun k hk => Watch.acqOpen_append rfl rfl rfl hk
  · rw [State.cw_numbered, cw]
    exact advances_acquired hc (valid_lt hv) rfl _ _

/-- A control store or atomic that its pair records forms a compare entry. -/
theorem compares_of_issueWrite (hstore : o.isStore = store) (hcas : (o.fn == 9 && !store) = cas) (some_ : o.accs ≠ [])
    (run : exec i s = .next (if s.cw.pairFull then s else ((s.issueWrite opcode o).acquire r).finish i)) :
    Spec.Compares i s o opcode store cas r := by
  subst hstore hcas
  intro p hp
  have full := Watch.pairFull_of_pair hp
  refine ⟨fun leads slack => ?waits, fun fits safe => ?safe, fun l y trails other hy leader armed kind => ?armed⟩
  case waits => rw [run, if_pos (full.mpr ⟨leads, slack⟩)]
  case safe =>
    have room : ¬s.cw.pairFull = true := fun h => by
      obtain ⟨leads, slack⟩ := full.mp h
      have := fits leads
      omega
    rw [if_neg room, State.issueWrite_of_pair hp (State.injected_of_unharmed hp safe) hp some_] at run
    obtain ⟨y, n, q, run, goes⟩ := formsEntry hv hc hseq (u := s) rfl rfl rfl rfl rfl run
    refine ⟨_, ⟨run, goes⟩, ?_⟩
    rw [State.cw_numbered]
    rfl
  case armed =>
    have room : ¬s.cw.pairFull = true := fun h => Bool.noConfusion (trails.symm.trans (full.mp h).1)
    rw [if_neg room] at run
    have leader' : (s.watch p.partner).pair = some l := by rw [State.watch_of_find hy, leader]
    have kind' : l.inj.extractLsb' 1 2 = 1 ↔ (!o.isStore) = true := by rw [kind, Bool.not_eq_true']
    refine ⟨fun skips => ?_, fun fires => ?_⟩
    · rw [State.issueWrite_of_pair hp (State.injected_of_skipped hp trails leader' armed kind' some_ skips)
        (congrArg Watch.pair (State.cw_setW ..)) some_] at run
      obtain ⟨y, n, q, run, goes⟩ := formsEntry hv hc hseq
        (u := s.setW { s.cw with pair := some { p with injDone := p.injDone + 1 } }) rfl rfl rfl rfl (by rw [State.cw_setW]) run
      exact ⟨_, run, goes⟩
    · have same := State.cw_modWatch_other s Watch.fire other
      have some_' : Spec.harmed (l.inj.extractLsb' 32 32) o.accs ≠ [] := by
        cases h : o.accs with
        | nil => exact absurd h some_
        | cons => exact List.cons_ne_nil _ _
      rw [State.issueWrite_of_pair hp (State.injected_of_fires hp trails leader' armed kind' some_ fires)
        ((congrArg Watch.pair same).trans hp) some_'] at run
      obtain ⟨z, n, q, run, goes⟩ := formsEntry hv hc hseq (u := s.modWatch p.partner Watch.fire) rfl rfl rfl rfl (by rw [same]) run
      refine ⟨_, ⟨run, goes⟩, ?_⟩
      refine (State.find_numbered_other (s.modWatch p.partner Watch.fire) z n q other).trans ?_
      rw [State.modWatch_watches, Tbl.find_alter_same, hy, Option.map_some, Watch.fire_of_pair leader]

end

/-! ## SST (06 R191) -/

/-- A store or an atomic that a control instruction issues: in flight outside a pair, a compare entry in one. -/
theorem issues_and_compares {i : Instr} {s : State} {o : Op} {opcode : Nat} {store cas : Bool} {r : Ord} (hv : s.frag.valid = true)
    (hc : (encodeControl i).isSome) (hseq : o.seq = 0) (hstore : o.isStore = store) (hcas : (o.fn == 9 && !store) = cas) (some_ : o.accs ≠ [])
    (run : exec i s = .next (if s.cw.pairFull then s else ((s.issueWrite opcode o).acquire r).finish i)) :
    (s.cw.pair = none → Spec.Issues i s o (if store then s.fifoEntries o else []) r) ∧ Spec.Compares i s o opcode store cas r := by
  refine ⟨fun single => issues_of_inFlight hv hc hseq ?_, compares_of_issueWrite hv hc hseq hstore hcas some_ run⟩
  have free : ¬s.cw.pairFull = true := by simp [Watch.pairFull, single]
  rw [run, if_neg free, State.issueWrite_of_single single, hstore]

/-- SST and its long form run one step. -/
theorem exec_sst {i : Instr} {a b : Reg} {z : B2} {o : W32} (s : State) (hi : i = .sst a b z ∧ o = 0 ∨ i = .sst64 a b z o) :
    exec i s = .next (s.issueSst i a b z.toNat o) ∧ (encodeControl i).isSome := by
  rcases hi with ⟨rfl, rfl⟩ | rfl <;> exact ⟨rfl, rfl⟩

theorem sstPutsItsBytesInTheFifo : Spec.SstPutsItsBytesInTheFifo := by
  intro s a b z o i x hv hi ok room
  obtain ⟨run, hc⟩ := exec_sst s hi
  have size : accBytes z.toNat = Spec.sizeBytes z.toNat := accBytes_eq (lt_trans z.isLt (by decide))
  have data : (s.sreg b).toNat % 2 ^ (8 * accBytes z.toNat) = (s.sreg b).toNat % 256 ^ Spec.sizeBytes z.toNat := by
    rw [size, two_pow_eight_mul]
  rw [Spec.storeReq, ← size, ← dispAddr_eq] at ok
  have free : s.cw.pathRoom [6] = true := pathRoom_single.mpr room
  refine issues_and_compares hv hc rfl rfl rfl (List.cons_ne_nil _ _) ?_
  rw [run, State.issueSst, State.access_of_ok _ ok, free, data]
  simp only [Bool.not_true, Bool.or_false]
  rfl

end Sys2Proof.Machine

namespace Sys2Proof

open Machine

/-- Settles O8: SLD by `sldPutsALoadInFlight`, SST by the two outcomes of `State.issueWrite`. -/
theorem controlLoadsAndStoresAreIssued : Obligations.ControlLoadsAndStoresAreIssued :=
  ⟨sldPutsALoadInFlight, sstPutsItsBytesInTheFifo⟩

end Sys2Proof

namespace Sys2Proof.Machine

/-! ## SATOM and XATOM (06 R193) -/

theorem atomCode_cas (k : AtomOp) : (atomCode k == 9) = decide (k = .cas) := by
  cases k <;> rfl

theorem State.andThen_of_ok {s : State} {p : Prep} {x : Acc} (k : Acc → State) (h : p = .ok x) : s.andThen p k = k x := by
  rw [h]
  rfl

/-- An atomic of a column, its release over. -/
theorem atomic_issues {i : Instr} {s : State} {pcn : Nat} {d a b c : Reg} {k : AtomOp} {z far : Bool} {r : Ord} {sc : Scope} {x : Acc}
    (hv : s.frag.valid = true) (hc : (encodeControl i).isSome) (room : s.cw.pathCount 8 < 65535) (released : s.released r sc = true)
    (ok : s.prep pcn (Spec.atomReq (if z then 8 else 4)) (s.sreg a) = .ok x)
    (run : exec i s = .next (s.issueAtom i far pcn d a b k c z r sc)) :
    (s.cw.pair = none → Spec.Issues i s (Spec.atomOpOf s far d b k c z r sc x) [] r) ∧
    Spec.Compares i s (Spec.atomOpOf s far d b k c z r sc x) (if far then 0x1B else 0x1A) false (decide (k = .cas)) r := by
  rw [Spec.atomReq] at ok
  have free : s.cw.pathRoom [8] = true := pathRoom_single.mpr room
  have kind : (Spec.atomOpOf s far d b k c z r sc x).isStore = false := by cases far <;> rfl
  have cas : ((Spec.atomOpOf s far d b k c z r sc x).fn == 9 && !false) = decide (k = .cas) := by
    rw [← atomCode_cas]
    exact Bool.and_true _
  refine issues_and_compares hv hc rfl kind cas (List.cons_ne_nil _ _) ?_
  rw [run, State.issueAtom, State.andThen_of_ok _ ok, free, released]
  simp only [Bool.not_true, Bool.or_false, two_pow_eight_mul]
  rfl

theorem atomicsArePutInFlight : Spec.AtomicsArePutInFlight := by
  intro s d a b c k z r sc x hv room released
  refine ⟨fun ok => atomic_issues (far := false) hv rfl room released ok rfl, fun p high tag live ok => ?_⟩
  refine atomic_issues (far := true) hv rfl room released ok ?_
  have admitted : ¬((s.sreg a).extractLsb' 56 8 ≠ 0 ∨ 1 < tagOf (s.sreg a)) := by
    rintro (h | h)
    · exact h high
    · omega
  have run : exec (.xatom d a b k c z r sc) s = execXatom d a b k c z r sc s := rfl
  rw [run, execXatom]
  simp only [if_neg admitted, live]

/-! ## FENCE, hints and waits (06 R192, R194; 04 R121, R131; 09 R259) -/

theorem fence_goesOn {s : State} {r : Ord} {sc : Scope} (hv : s.frag.valid = true) (released : s.released r sc = true) :
    ∃ w, exec (.fence r sc) s = .next { s.setW w with seq := if r = .acq ∨ r = .ar then s.seq + 1 else s.seq } ∧
      w = { s.cw with acqs := w.acqs, split := w.split } ∧ Spec.AcquiresAt s.cw w r s.seq ∧ Advances (.fence r sc) s.cw w s.ent := by
  have run : exec (.fence r sc) s = execFence r sc s := rfl
  rw [execFence, if_pos released, State.acquire_finish, ← if_congr ordAcq_iff.symm rfl rfl] at run
  exact ⟨_, run, Watch.advance_acquired .., acquiresAt_acquired _ _ rfl fun _ h => h, advances_acquired rfl (valid_lt hv) rfl _ _⟩

theorem fencesHintsAndWaitsGoOn : Spec.FencesHintsAndWaitsGoOn := by
  intro s a r sc o x y p hv
  have he := valid_lt hv
  refine ⟨fence_goesOn hv, fun held => ?held, onlyAdvances rfl rfl he, onlyAdvances rfl rfl he, onlyAdvances rfl rfl he,
    onlyAdvances rfl rfl he, onlyAdvances rfl rfl he, fun low => onlyAdvances (if_pos low) rfl he,
    fun high => if_neg (Nat.not_le.mpr high), ?yield⟩
  case held =>
    have run : exec (.fence r sc) s = execFence r sc s := rfl
    rw [run, execFence, held]
    rfl
  case yield =>
    obtain ⟨run, goes⟩ := runs_advance (i := .yield) (y := { s.cw with aged := 0, yielded := true }) hv rfl rfl rfl
    exact ⟨_, run, rfl, goes⟩

end Sys2Proof.Machine

namespace Sys2Proof

open Machine

/-- Settles O9: the atomics by `atomic_issues`, FENCE by `fence_goesOn`. -/
theorem controlAtomicsAndFences : Obligations.ControlAtomicsAndFences :=
  ⟨atomicsArePutInFlight, fencesHintsAndWaitsGoOn⟩

end Sys2Proof

namespace Sys2Proof.Machine

/-! ## The lanes of a memory instruction (06 R179, R180) -/

theorem getLsbD_oneLane_of_lt {l k : Nat} (hk : k < 64) : (oneLane l).getLsbD k = decide (k = l) := by
  by_cases hl : l < 64
  · exact getLsbD_oneLane hl k
  · have apart : k ≠ l := by omega
    simp only [oneLane, BitVec.getLsbD_shiftLeft, apart, decide_false]
    simp [show k < l by omega]

/-- A lane that goes off. -/
theorem lanesOff_single (l : Nat) (f : AFail) (x : Watch) : Spec.LanesOff [(l, f)] x (x.laneOff l f.why) := by
  refine ⟨rfl, fun k hk => ?_, rfl⟩
  have bit : decide (k = l) = [(l, f)].any fun b => b.1 == k := by simp [eq_comm, Bool.beq_eq_decide_eq]
  constructor <;>
  · rw [← bit, ← getLsbD_oneLane_of_lt hk]
    exact BitVec.getLsbD_or

theorem lanesOff_nil (x : Watch) : Spec.LanesOff [] x x := ⟨rfl, by simp, rfl⟩

/-- A lane goes off before others. -/
theorem lanesOff_cons {l : Nat} {f : AFail} {bad : List (Nat × AFail)} {x y : Watch} (hl : l < 64)
    (h : Spec.LanesOff bad (x.laneOff l f.why) y) : Spec.LanesOff ((l, f) :: bad) x y := by
  obtain ⟨-, first, -⟩ := lanesOff_single l f x
  obtain ⟨frame, bits, why⟩ := h
  refine ⟨frame, fun k hk => ?_, ?_⟩
  · obtain ⟨off, mask⟩ := bits k hk
    obtain ⟨off', mask'⟩ := first k hk
    rw [off, mask, off', mask']
    simp [Bool.or_assoc]
  · have set : (x.laneOff l f.why).fmask ≠ 0 := fun h0 => by
      have bit := (first l hl).2
      simp [h0] at bit
    rw [why]
    cases bad with
    | nil => rfl
    | cons => exact if_neg set

/-- What lane l of a memory instruction does to its issue. -/
def Answers (s : State) (f : Issue → Nat → Issue) (l : Nat) (a : Except AFail (List Acc)) : Prop :=
  ∀ x : Issue, x.w.pcnOf l = s.cw.pcnOf l → f x l = match a with
    | .ok accs => { x with accs := x.accs ++ accs }
    | .error e => { x with w := x.w.laneOff l e.why }

/-- The accesses of the lanes that pass, and the lanes that fail, of a list. -/
def passing (ans : Nat → Spec.LaneAns) (ls : List Nat) : List Acc :=
  ls.flatMap fun l => match ans l with
    | some (.ok x) => x
    | _ => []
def failingOf (ans : Nat → Spec.LaneAns) (ls : List Nat) : List (Nat × AFail) :=
  ls.filterMap fun l => match ans l with
    | some (.error f) => some (l, f)
    | _ => none

theorem foldl_answers {s : State} {f : Issue → Nat → Issue} {ans : Nat → Spec.LaneAns} {ls : List Nat} (bound : ∀ l ∈ ls, l < 64)
    (answers : ∀ l ∈ ls, ∃ a, ans l = some a ∧ Answers s f l a) (x : Issue) (cols : ∀ l, x.w.pcnOf l = s.cw.pcnOf l) :
    ∃ y, Spec.LanesOff (failingOf ans ls) x.w y ∧ ls.foldl f x = { x with w := y, accs := x.accs ++ passing ans ls } := by
  induction ls generalizing x with
  | nil => exact ⟨x.w, lanesOff_nil _, by simp [passing]⟩
  | cons l ls ih =>
    obtain ⟨hl, bound⟩ := List.forall_mem_cons.mp bound
    obtain ⟨⟨a, ha, step_⟩, answers⟩ := List.forall_mem_cons.mp answers
    cases a with
    | ok accs =>
      obtain ⟨y, off, run⟩ := ih bound answers { x with accs := x.accs ++ accs } cols
      refine ⟨y, by simpa [failingOf, ha] using off, ?_⟩
      rw [List.foldl_cons, step_ x (cols l)]
      simp only [run, passing, List.flatMap_cons, ha, List.append_assoc]
    | error e =>
      obtain ⟨y, off, run⟩ := ih bound answers { x with w := x.w.laneOff l e.why } cols
      refine ⟨y, by simpa [failingOf, ha] using lanesOff_cons hl off, ?_⟩
      rw [List.foldl_cons, step_ x (cols l)]
      simp only [run, passing, List.flatMap_cons, ha, List.nil_append]

/-- The lanes of a memory instruction, each of which translates or fails its checks, come to the accesses of those that pass. -/
theorem State.laneIssue_eq {s : State} {o : LaneOps} {f : Issue → Nat → Issue} {ans : Nat → Spec.LaneAns}
    (answers : ∀ l ∈ (List.range 64).filter (s.active o).getLsbD, ∃ a, ans l = some a ∧ Answers s f l a) :
    ∃ y, Spec.LanesOff (Spec.failing o s ans) s.cw y ∧ s.laneIssue o f = { w := y, accs := Spec.accesses o s ans } := by
  obtain ⟨y, off, run⟩ := foldl_answers (fun l hl => List.mem_range.mp (List.mem_filter.mp hl).1) answers { w := s.cw } fun _ => rfl
  exact ⟨y, off, run.trans (by simp only [List.nil_append]; rfl)⟩

/-- A lane with one access does what its check and its translation say. -/
theorem answers_laneAccess {s : State} {f : Issue → Nat → Issue} {r : AReq} {keep : Bool} {l : Nat} {ea : Word} {mk : Acc → Acc}
    {data cmp : Nat} {a : Except AFail (List Acc)} (run : ∀ x, f x l = s.laneAccess r keep x l ea mk)
    (made : ∀ pcn key, ({ mk { lane := l, pcn := pcn, addr := ea, size := r.size } with key := key } : Acc) =
      { lane := l, pcn := pcn, addr := ea, size := r.size, key := key, data := data, cmp := cmp })
    (h : Spec.oneAccess s r l ea data cmp = some a) : Answers s f l a := by
  intro x cols
  rw [run, State.laneAccess, cols]
  unfold Spec.oneAccess Spec.addressOf at h
  cases check : s.checkAddr s.cw (s.cw.pcnOf l) { r with lane := some l } ea with
  | some e =>
    simp only [check, Option.map_some, Except.map, Option.some.injEq] at h
    subst h
    rfl
  | none =>
    simp only [check] at h
    cases place : s.placeOf s.cw (s.cw.pcnOf l) { r with lane := some l } ea with
    | ok key host =>
      simp only [place, Option.map_some, Except.map, Option.some.injEq] at h
      subst h
      simp only [made]
    | _ => simp [place] at h

/-! ## What a memory instruction leaves (06 R181) -/

/-- The lanes of a list of accesses as a mask. -/
def laneMask (accs : List Acc) : Mask := accs.foldl (fun m a => m ||| oneLane a.lane) 0

theorem getLsbD_laneMask (accs : List Acc) {l : Nat} (hl : l < 64) : (laneMask accs).getLsbD l = accs.any fun a => a.lane == l := by
  have from_ (m : Mask) : (accs.foldl (fun m a => m ||| oneLane a.lane) m).getLsbD l = (m.getLsbD l || accs.any fun a => a.lane == l) := by
    induction accs generalizing m with
    | nil => simp
    | cons a accs ih =>
      rw [List.foldl_cons, ih, BitVec.getLsbD_or, getLsbD_oneLane_of_lt hl, List.any_cons, Bool.or_assoc, Bool.beq_eq_decide_eq,
        decide_eq_decide.mpr eq_comm]
  exact (from_ 0).trans (by simp)

/-- Where every lane translates or fails its checks, the instruction ends its part, and puts what its lanes come to in flight. -/
theorem State.issued_of_translated (s : State) (o : LaneOps) (y : Watch) (accs : List Acc) (form : Bool) (put : State → State) :
    s.issued o { w := y, accs := accs } form put =
      if accs.isEmpty && !form then (s.setW y).laneIssued o none else put ((s.setW y).laneIssued o none) := rfl

/-- The operation `q` of a lane instruction with the accesses of its lanes. -/
def State.laneOpOf (s : State) (q : Op) (accs : List Acc) : Op :=
  { q with lane := true, ent := s.lane.ent, at_ := s.lane.index, seq := s.lane.seq, accs := accs, mask := laneMask accs }

/-- What the end of a memory instruction leaves before its operation is in flight. -/
structure EndsPart (o : LaneOps) (s : State) (bad : List (Nat × AFail)) (y : Watch) (u : State) : Prop where
  off : Spec.LanesOff bad s.cw y
  step : Spec.LaneStep o (s.setW y) u s.chain.gen none
  v : u.cw.v = s.cw.v
  p : u.cw.p = s.cw.p
  pair : u.cw.pair = s.cw.pair

theorem endsPart_laneIssued {s : State} {o : LaneOps} {bad : List (Nat × AFail)} {y : Watch} (off : Spec.LanesOff bad s.cw y) :
    EndsPart o s bad y ((s.setW y).laneIssued o none) := by
  have frame := off.1
  have cw := State.cw_setW s y
  have gen : (s.setW y).chain.gen = s.chain.gen := by
    rw [State.chain, State.chain, cw, frame]
  have step := laneStep_laneIssued (s := s.setW y) (o := o) (latch := none)
  rw [gen] at step
  obtain ⟨v, p⟩ := State.regs_laneIssued (s := s.setW y) (o := o) (latch := none)
  refine ⟨off, step, v.trans ?_, p.trans ?_, ?_⟩
  · rw [cw, frame]
  · rw [cw, frame]
  · rw [step.2.1, cw, frame]

/-- A memory instruction that puts the accesses of its lanes in flight. -/
theorem memIssues_of_issued {i : Instr} {o : LaneOps} {s : State} {ans : Nat → Spec.LaneAns} {q : Op} {store : Bool} {f : Issue → Nat → Issue}
    {put : Issue → State → State} (answers : ∀ l ∈ (List.range 64).filter (s.active o).getLsbD, ∃ a, ans l = some a ∧ Answers s f l a)
    (run : exec i s = .next (s.issued o (s.laneIssue o f) false (put (s.laneIssue o f))))
    (flight : ∀ y u, u.cw.pair = s.cw.pair → put { w := y, accs := Spec.accesses o s ans } u =
      Spec.inFlight u (s.laneOpOf q (Spec.accesses o s ans)) (if store then u.fifoEntries (s.laneOpOf q (Spec.accesses o s ans)) else [])) :
    Spec.MemIssues i o s ans q store := by
  obtain ⟨y, off, issue⟩ := State.laneIssue_eq answers
  obtain ⟨off, step_, v, p, pair⟩ := endsPart_laneIssued (o := o) off
  refine ⟨y, _, laneMask (Spec.accesses o s ans), off, step_, v, p, fun l hl => getLsbD_laneMask _ hl, ?_⟩
  rw [run, issue, State.issued_of_translated, flight _ _ pair]
  by_cases none_ : Spec.accesses o s ans = []
  · rw [if_pos none_, none_]
    rfl
  · have some_ : (Spec.accesses o s ans).isEmpty = false := by simpa using none_
    rw [if_neg none_, some_]
    rfl

/-! ## Compare entries of lane instructions (09 R275, R279) -/

theorem EndsPart.mem {o : LaneOps} {s u : State} {bad : List (Nat × AFail)} {y : Watch} (h : EndsPart o s bad y u) : u.mem = s.mem := by
  rw [h.step.1]
  rfl

theorem EndsPart.cur {o : LaneOps} {s u : State} {bad : List (Nat × AFail)} {y : Watch} (h : EndsPart o s bad y u) : u.cur = s.cur := by
  rw [h.step.1]
  rfl

/-- Other watches are as before. -/
theorem EndsPart.find_other {o : LaneOps} {s u : State} {bad : List (Nat × AFail)} {y : Watch} (h : EndsPart o s bad y u) {n : Nat}
    (hn : n ≠ s.cur) : Tbl.find u.watches n = Tbl.find s.watches n := by
  rw [h.step.1]
  exact (Tbl.find_put_other _ _ hn).trans (Tbl.find_put_other _ _ hn)

/-- Every watch has the pair that it had. -/
theorem EndsPart.pair_watch {o : LaneOps} {s u : State} {bad : List (Nat × AFail)} {y : Watch} (h : EndsPart o s bad y u) (n : Nat) :
    (u.watch n).pair = (s.watch n).pair := by
  by_cases hn : n = s.cur
  · have at_ : u.watch u.cur = u.cw := rfl
    rw [hn, ← h.cur, at_, h.pair, h.cur]
    rfl
  · rw [State.watch, State.watch, Tbl.getD, Tbl.getD, h.find_other hn]

/-- Two changes of the executing watch. -/
theorem State.numbered_setW (u : State) (z y : Watch) (n q : Nat) : (u.setW z).numbered y n q = u.numbered y n q :=
  congrArg (fun t : State => { t with next := n, seq := q }) (State.setW_setW u z y)

/-- A memory instruction that its pair records forms a compare entry of its lanes. -/
theorem memCompares_of_issued {i : Instr} {o : LaneOps} {s : State} {ans : Nat → Spec.LaneAns} {q : Op} {opcode : Nat} {store cas : Bool}
    {f : Issue → Nat → Issue} {put : Issue → State → State}
    (answers : ∀ l ∈ (List.range 64).filter (s.active o).getLsbD, ∃ a, ans l = some a ∧ Answers s f l a)
    (run : exec i s = .next (if s.cw.pairFull then s else s.issued o (s.laneIssue o f) s.cw.pair.isSome (put (s.laneIssue o f))))
    (writes : ∀ y u, put { w := y, accs := Spec.accesses o s ans } u = u.issueWrite opcode (s.laneOpOf q (Spec.accesses o s ans)))
    (hstore : q.isStore = store) (hcas : (q.fn == 9 && !store) = cas) : Spec.MemCompares i o s ans q opcode store cas := by
  subst hstore hcas
  intro p hp
  have full := Watch.pairFull_of_pair hp
  obtain ⟨y, off, issue⟩ := State.laneIssue_eq answers
  have ends := endsPart_laneIssued (o := o) off
  generalize Spec.accesses o s ans = accs at issue writes ⊢
  refine ⟨fun leads slack => by rw [run, if_pos (full.mpr ⟨leads, slack⟩)], fun fits => ?_⟩
  have room : ¬s.cw.pairFull = true := fun h => by
    obtain ⟨leads, slack⟩ := full.mp h
    have := fits leads
    omega
  rw [if_neg room, issue, State.issued_of_translated, hp, Option.isSome_some, Bool.not_true, Bool.and_false, if_neg Bool.false_ne_true,
    writes] at run
  generalize (s.setW y).laneIssued o none = u at run ends
  have hp' : u.cw.pair = some p := ends.pair.trans hp
  refine ⟨y, u, laneMask accs, ends.off, ends.step, ends.v, ends.p, fun l hl => getLsbD_laneMask _ hl, fun none_ => ?empty,
    fun some_ safe => ?safe, fun some_ l z trails other hz leader armed kind => ?armed⟩
  case empty =>
    rw [run, State.issueWrite_of_pair_empty hp' opcode none_, none_]
    rfl
  case safe =>
    have safe' : Spec.Unharmed u p (!q.isStore) := by
      unfold Spec.Unharmed at safe ⊢
      rwa [ends.pair_watch]
    rw [run, State.issueWrite_of_pair (o := s.laneOpOf q accs) hp' (State.injected_of_unharmed hp' safe') hp' some_]
    rfl
  case armed =>
    have leader' : (u.watch p.partner).pair = some l := by rw [ends.pair_watch, State.watch_of_find hz, leader]
    have kind' : l.inj.extractLsb' 1 2 = 1 ↔ (!q.isStore) = true := by rw [kind, Bool.not_eq_true']
    refine ⟨fun skips => ?_, fun fires => ?_⟩
    · rw [run, State.issueWrite_of_pair (o := s.laneOpOf q accs) hp' (State.injected_of_skipped hp' trails leader' armed kind' some_ skips)
        (congrArg Watch.pair (State.cw_setW ..)) some_, State.numbered_setW, State.cw_setW]
      rfl
    · have other' : p.partner ≠ u.cur := ends.cur ▸ other
      have same := State.cw_modWatch_other u Watch.fire other'
      have some_' : Spec.harmed (l.inj.extractLsb' 32 32) accs ≠ [] := by
        cases accs with
        | nil => exact absurd rfl some_
        | cons => exact List.cons_ne_nil _ _
      rw [State.issueWrite_of_pair (o := s.laneOpOf q accs) hp' (State.injected_of_fires hp' trails leader' armed kind' some_ fires)
        ((congrArg Watch.pair same).trans hp') some_'] at run
      refine ⟨_, run, ends.mem, ?_, ?_⟩
      · rw [State.cw_numbered, same]
        exact (State.cw_numbered u ..).symm
      · refine (State.find_numbered_other (u.modWatch p.partner Watch.fire) _ _ _ other').trans ?_
        rw [State.modWatch_watches, Tbl.find_alter_same, ends.find_other other, hz, Option.map_some, Watch.fire_of_pair leader]

end Sys2Proof.Machine

namespace Sys2Proof.Machine

/-! ## LD, ST, ATOM and FATOM (06 R179 to R187) -/

theorem mem_insertAsc {x y : Nat} {l : List Nat} : y ∈ insertAsc x l ↔ y = x ∨ y ∈ l := by
  induction l with
  | nil => simp [insertAsc]
  | cons z l ih =>
    unfold insertAsc
    split
    · simp
    · split
      next same => simp [same]
      next => simp only [List.mem_cons, ih, or_left_comm]

/-- The paths of a load are those of its accesses (06 R181). -/
theorem mem_loadPaths {accs : List Acc} {p : Nat} : p ∈ loadPaths accs ↔ ∃ a ∈ accs, p = Spec.loadPath a.addr := by
  have from_ (l : List Nat) : p ∈ accs.foldl (fun l a => insertAsc (loadPath a.addr) l) l ↔ p ∈ l ∨ ∃ a ∈ accs, p = Spec.loadPath a.addr := by
    induction accs generalizing l with
    | nil => simp
    | cons a accs ih =>
      rw [List.foldl_cons, ih, mem_insertAsc, List.exists_mem_cons_iff, or_assoc, or_left_comm]
      rfl
  exact (from_ []).trans (by simp)

/-- The address of an active lane (06 R179). -/
theorem laneEa_eq (s : State) (o : LaneOps) {l : Nat} (hl : l < 64) :
    laneEa o (s.src64 o 0) l = Spec.displacedAddr (Spec.source64 o s 0 l) o.lit := by
  rw [laneEa, dispAddr_eq, s.row64At_src64 o 0 hl]

theorem lt_of_mem_act {s : State} {o : LaneOps} {l : Nat} (h : l ∈ (List.range 64).filter (s.active o).getLsbD) : l < 64 :=
  List.mem_range.mp (List.mem_filter.mp h).1

section
variable {s : State} {o : LaneOps} {ans : Nat → Spec.LaneAns} {r : AReq} {data cmp : Nat → Nat} {mk : Nat → Acc → Acc}
  (ans_eq : ∀ l ∈ (List.range 64).filter (s.active o).getLsbD,
    ans l = Spec.oneAccess s r l (Spec.displacedAddr (Spec.source64 o s 0 l) o.lit) (data l) (cmp l))
  (some_ : ∀ l ∈ (List.range 64).filter (s.active o).getLsbD, (ans l).isSome)
  (made : ∀ l, l < 64 → ∀ pcn addr key, ({ mk l { lane := l, pcn := pcn, addr := addr, size := r.size } with key := key } : Acc) =
      { lane := l, pcn := pcn, addr := addr, size := r.size, key := key, data := data l, cmp := cmp l })
include ans_eq some_ made

/-- The lanes of an instruction with one access each at the displaced address. -/
theorem answers_at_laneEa (keep : Bool) : ∀ l ∈ (List.range 64).filter (s.active o).getLsbD,
    ∃ a, ans l = some a ∧ Answers s (fun x l => s.laneAccess r keep x l (laneEa o (s.src64 o 0) l) (mk l)) l a := by
  intro l hl
  obtain ⟨a, ha⟩ := Option.isSome_iff_exists.mp (some_ l hl)
  have hl64 := lt_of_mem_act hl
  refine ⟨a, ha, answers_laneAccess (fun x => rfl) (fun pcn key => made l hl64 pcn _ key) ?_⟩
  rw [laneEa_eq s o hl64, ← ans_eq l hl, ha]

end

theorem sizeCode_eq (md : BitVec 5) : (md.extractLsb' 0 3).toNat = md.toNat % 8 := by simp

theorem ldPutsItsLoadsInFlight {s : State} {o : LaneOps} {ans : Nat → Spec.LaneAns} (room0 : Spec.room s 0) (room1 : Spec.room s 1)
    (ans_eq : ∀ l ∈ (List.range 64).filter (s.active o).getLsbD, ans l = Spec.oneAccess s
      { size := Spec.sizeBytes (o.md.toNat % 8), align := Spec.sizeBytes (o.md.toNat % 8), tags := [0, 1, 2, 4], dir := true } l
      (Spec.displacedAddr (Spec.source64 o s 0 l) o.lit) 0 0)
    (some_ : ∀ l ∈ (List.range 64).filter (s.active o).getLsbD, (ans l).isSome) :
    Spec.MemIssues (.ld o) o s ans { kind := .ld, paths := loadPaths (Spec.accesses o s ans), d := o.d.toNat, size := o.md.toNat % 8 } false := by
  have bytes := accBytes_eq (Nat.mod_lt o.md.toNat (show 0 < 8 by decide))
  have free : s.cw.pathRoom [0, 1] = true := by simp [Watch.pathRoom, show s.cw.pathCount 0 < 65535 from room0, show s.cw.pathCount 1 < 65535 from room1]
  have run : exec (.ld o) s = execLd o s := rfl
  simp only [execLd, sizeCode_eq, bytes, free, Bool.not_true, Bool.false_eq_true, if_false] at run
  refine memIssues_of_issued
    (put := fun x t => t.addOp { s.laneOp .ld (loadPaths x.accs) x with d := o.d.toNat, size := o.md.toNat % 8 })
    (answers_at_laneEa (mk := fun _ => id) ans_eq some_ (fun _ _ _ _ _ => rfl) true) run fun y u _ => ?_
  rw [State.addOp_eq_inFlight]
  rfl

/-- The data that an active lane stores (06 R183). -/
theorem storeData_eq (s : State) (o : LaneOps) {z l : Nat} (hz : z < 8) (hl : l < 64) : s.storeData o z l =
    if z = 4 then ((List.range 4).map fun k => (rowAt (s.cw.vreg (o.b.toNat + k)) l).toNat * 2 ^ (32 * k)).sum
    else if z = 3 then (Spec.source64 o s 1 l).toNat else (Spec.source o s 1 l).toNat % 256 ^ Spec.sizeBytes z := by
  have quad (x : Nat → Nat) : (List.range 4).foldl (fun v k => v + x k <<< (32 * k)) 0 = ((List.range 4).map fun k => x k * 2 ^ (32 * k)).sum := by
    simp only [Nat.shiftLeft_eq, List.sum_eq_foldl, List.foldl_map]
  rw [State.storeData, quad, s.row64At_src64 o 1 hl, s.rowAt_src o 1 hl, two_pow_eight_mul, accBytes_eq hz]

/-- A store or an atomic of lanes that its pair may record. -/
theorem memIssues_and_compares {i : Instr} {o : LaneOps} {s : State} {ans : Nat → Spec.LaneAns} {q : Op} {opcode : Nat} {store cas : Bool}
    {f : Issue → Nat → Issue} {put : Issue → State → State}
    (answers : ∀ l ∈ (List.range 64).filter (s.active o).getLsbD, ∃ a, ans l = some a ∧ Answers s f l a)
    (run : exec i s = .next (if s.cw.pairFull then s else s.issued o (s.laneIssue o f) s.cw.pair.isSome (put (s.laneIssue o f))))
    (writes : ∀ y u, put { w := y, accs := Spec.accesses o s ans } u = u.issueWrite opcode (s.laneOpOf q (Spec.accesses o s ans)))
    (hstore : q.isStore = store) (hcas : (q.fn == 9 && !store) = cas) :
    (s.cw.pair = none → Spec.MemIssues i o s ans q store) ∧ Spec.MemCompares i o s ans q opcode store cas := by
  refine ⟨fun single => ?_, memCompares_of_issued answers run writes hstore hcas⟩
  have free : ¬s.cw.pairFull = true := by simp [Watch.pairFull, single]
  rw [if_neg free, single] at run
  refine memIssues_of_issued answers run fun y u pair => ?_
  rw [writes, State.issueWrite_of_single (pair.trans single)]
  subst hstore
  rfl

theorem stPutsItsStoresInFlight {s : State} {o : LaneOps} {ans : Nat → Spec.LaneAns} (room : Spec.room s 6)
    (ans_eq : ∀ l ∈ (List.range 64).filter (s.active o).getLsbD, ans l = Spec.oneAccess s
      { size := Spec.sizeBytes (o.md.toNat % 8), align := Spec.sizeBytes (o.md.toNat % 8), store := true, tags := [0, 1, 2, 4], dir := true } l
      (Spec.displacedAddr (Spec.source64 o s 0 l) o.lit)
      (if o.md.toNat % 8 = 4 then ((List.range 4).map fun k => (rowAt (s.cw.vreg (o.b.toNat + k)) l).toNat * 2 ^ (32 * k)).sum
        else if o.md.toNat % 8 = 3 then (Spec.source64 o s 1 l).toNat
        else (Spec.source o s 1 l).toNat % 256 ^ Spec.sizeBytes (o.md.toNat % 8)) 0)
    (some_ : ∀ l ∈ (List.range 64).filter (s.active o).getLsbD, (ans l).isSome) :
    (s.cw.pair = none → Spec.MemIssues (.st o) o s ans { kind := .st, paths := [6], size := o.md.toNat % 8 } true) ∧
      Spec.MemCompares (.st o) o s ans { kind := .st, paths := [6], size := o.md.toNat % 8 } 0xA1 true false := by
  have code := Nat.mod_lt o.md.toNat (show 0 < 8 by decide)
  have free : s.cw.pathRoom [6] = true := pathRoom_single.mpr room
  have run : exec (.st o) s = execSt o s := rfl
  simp only [execSt, sizeCode_eq, accBytes_eq code, free, Bool.not_true, Bool.false_or] at run
  refine memIssues_and_compares
    (put := fun x t => t.issueWrite 0xA1 { s.laneOp .st [6] x with size := o.md.toNat % 8 })
    (answers_at_laneEa (mk := fun l c => { c with data := s.storeData o (o.md.toNat % 8) l }) ans_eq some_ (fun l hl _ _ _ => ?_) false)
    run (fun _ _ => rfl) rfl rfl
  simp only [storeData_eq s o code hl]

theorem atomPutsItsAtomicsInFlight {s : State} {o : LaneOps} {ans : Nat → Spec.LaneAns} (room : Spec.room s 8)
    (ans_eq : ∀ l ∈ (List.range 64).filter (s.active o).getLsbD, ans l = Spec.oneAccess s { atom := true } l
      (Spec.displacedAddr (Spec.source64 o s 0 l) o.lit) (Spec.source o s 1 l).toNat (Spec.source o s 2 l).toNat)
    (some_ : ∀ l ∈ (List.range 64).filter (s.active o).getLsbD, (ans l).isSome) {q : Op}
    (hq : q = { kind := .atom, paths := [8], d := o.d.toNat, nw := o.nw, size := 2, ty := o.ty.toNat, fn := o.md.toNat % 16 }) :
    (s.cw.pair = none → Spec.MemIssues (.atom o) o s ans q false) ∧
      Spec.MemCompares (.atom o) o s ans q 0xA2 false (decide (o.md.toNat % 16 = 9)) := by
  have fn : (o.md.extractLsb' 0 4).toNat = o.md.toNat % 16 := by simp
  have free : s.cw.pathRoom [8] = true := pathRoom_single.mpr room
  have run : exec (.atom o) s = execAtom o s := rfl
  simp only [execAtom, fn, free, Bool.not_true, Bool.false_or] at run
  subst hq
  refine memIssues_and_compares
    (put := fun x t => t.issueWrite 0xA2 { s.laneOp .atom [8] x with
      d := o.d.toNat, nw := o.nw, size := 2, ty := o.ty.toNat, fn := o.md.toNat % 16 })
    (answers_at_laneEa (mk := fun l k => { k with data := (rowAt (s.src o 1) l).toNat, cmp := (rowAt (s.src o 2) l).toNat }) ans_eq some_
      (fun l hl _ _ _ => ?_) true) run (fun _ _ => rfl) rfl (Bool.and_true _)
  simp only [s.rowAt_src o 1 hl, s.rowAt_src o 2 hl]

theorem fatomPutsItsAddsInFlight {s : State} {o : LaneOps} {ans : Nat → Spec.LaneAns} {i : Instr} {k : Nat}
    (row : i = .fatom o ∧ k = 0 ∨ i = .fatomMore o ∧ k = 1 ∨ i = .fatomSkip o ∧ k = 2) (room : Spec.room s 8)
    (ans_eq : ∀ l ∈ (List.range 64).filter (s.active o).getLsbD, ans l = Spec.oneAccess s { atom := true } l
      (Spec.displacedAddr (Spec.source64 o s 0 l) o.lit) (Spec.source o s 1 l).toNat 0)
    (some_ : ∀ l ∈ (List.range 64).filter (s.active o).getLsbD, (ans l).isSome) :
    Spec.MemIssues i o s ans { kind := .fatom, paths := [8], fn := k } false := by
  have free : s.cw.pathRoom [8] = true := pathRoom_single.mpr room
  have run : exec i s = .next (s.fatom o k) := by
    rcases row with ⟨rfl, rfl⟩ | ⟨rfl, rfl⟩ | ⟨rfl, rfl⟩ <;> rfl
  simp only [State.fatom, free, Bool.not_true, Bool.false_eq_true, if_false] at run
  refine memIssues_of_issued (put := fun x t => t.addOp { s.laneOp .fatom [8] x with fn := k })
    (answers_at_laneEa (mk := fun l c => { c with data := (rowAt (s.src o 1) l).toNat }) ans_eq some_ (fun l hl _ _ _ => ?_) false) run
    fun y u _ => State.addOp_eq_inFlight ..
  simp only [s.rowAt_src o 1 hl]

end Sys2Proof.Machine

namespace Sys2Proof

open Machine

/-- Settles O34: each kind by its lemma, all by the fold over the active lanes (`State.laneIssue_eq`). -/
theorem laneAccessesArePutInFlight : Obligations.LaneAccessesArePutInFlight := by
  intro s o _
  exact ⟨fun ans room0 room1 ans_eq some_ => ⟨_, fun _ => mem_loadPaths, ldPutsItsLoadsInFlight room0 room1 ans_eq some_⟩,
    fun ans room ans_eq some_ => stPutsItsStoresInFlight room ans_eq some_,
    fun ans room ans_eq some_ => atomPutsItsAtomicsInFlight room ans_eq some_ rfl,
    fun ans i k row room ans_eq some_ => fatomPutsItsAddsInFlight row room ans_eq some_⟩

end Sys2Proof

namespace Sys2Proof.Machine

/-! ## ACPY (06 R190) -/

/-- A translation asks for the kind of the access and its lane alone. -/
theorem State.placeOf_congr (s : State) (w : Watch) (pcn : Nat) {r r' : AReq} (store : r.store = r'.store) (atom : r.atom = r'.atom)
    (lane : r.lane = r'.lane) (a : Word) : s.placeOf w pcn r a = s.placeOf w pcn r' a := by
  unfold placeOf
  rw [store, atom, lane]

/-- A lane of an ACPY with valid bytes has the places of its first and of its last source byte. -/
theorem State.relocate_acpy {s : State} {a : Acc} (h : a.size ≠ 0) {key last : Nat} {host host' : Bool}
    (first : s.placeOf s.cw a.pcn { size := a.size, align := 4, tags := [0], lane := some a.lane } a.addr = .ok key host)
    (end_ : s.placeOf s.cw a.pcn { size := a.size, align := 4, tags := [0], lane := some a.lane } (a.addr + BitVec.ofNat 64 (a.size - 1)) =
      .ok last host') : s.relocate s.cw { kind := .acpy, lane := true } a = .ok { a with key := key, old := last, pend := false } := by
  have req (b : Word) : s.placeOf s.cw a.pcn (Op.req { kind := .acpy, lane := true } a) b =
      s.placeOf s.cw a.pcn { size := a.size, align := 4, tags := [0], lane := some a.lane } b := placeOf_congr _ _ _ rfl rfl rfl b
  have some_ : (a.size == 0) = false := beq_eq_false_iff_ne.mpr h
  simp only [relocate, some_, Bool.and_false, Bool.false_eq_true, if_false, req, first, end_]
  rfl

/-- An active lane of an ACPY does what its checks and its translations say. -/
theorem answers_acpyLane {s : State} {o : LaneOps} {l : Nat} (hl : l < 64) {ans : Except AFail (List Acc)} (h : Spec.acpyAns o s l = some ans) :
    Answers s (s.acpyLane o (s.src64 o 0) (s.src64 o 1) (s.src o 2)) l ans := by
  intro x cols
  have bytes : acpyBytes o (Spec.source o s 2 l) = if o.md.getLsbD 0 then min (Spec.source o s 2 l).toNat 32 else 32 := rfl
  simp only [State.acpyLane, cols, laneEa_eq s o hl, s.row64At_src64 o 1 hl, s.rowAt_src o 2 hl, bytes]
  simp only [Spec.acpyAns] at h
  generalize (if o.md.getLsbD 0 then min (Spec.source o s 2 l).toNat 32 else 32) = n at h ⊢
  generalize Spec.displacedAddr (Spec.source64 o s 0 l) o.lit = src at h ⊢
  generalize Spec.source64 o s 1 l = dst at h ⊢
  generalize s.checkAddr s.cw (s.cw.pcnOf l) { size := 32, align := 32, store := true, tags := [1, 2], lane := some l } dst = dstCheck at h ⊢
  generalize s.placeOf s.cw (s.cw.pcnOf l) { size := 32, align := 32, store := true, tags := [1, 2], lane := some l } dst = dstPlace at h ⊢
  by_cases none_ : n = 0
  · subst none_
    cases dstCheck <;>
    · simp only [if_true, Option.some.injEq] at h ⊢
      subst h
      rfl
  · rw [if_neg none_] at h ⊢
    generalize s.checkAddr s.cw (s.cw.pcnOf l) { size := n, align := 4, tags := [0], lane := some l } src = srcCheck at h ⊢
    cases srcCheck with
    | some e =>
      simp only [Option.some.injEq] at h
      subst h
      rfl
    | none =>
      cases dstCheck with
      | some e =>
        simp only [Option.some.injEq] at h
        subst h
        rfl
      | none =>
        simp only at h ⊢
        split at h
        next key host last host' first end_ =>
          simp only [Option.some.injEq] at h
          subst h
          have moved (k : Nat) := State.relocate_acpy
            (a := { lane := l, pcn := s.cw.pcnOf l, addr := src, size := n, cmp := dst.toNat, count := k }) none_ first end_
          cases dstPlace <;> simp only [moved]
        next => exact absurd h (by simp)

theorem acpyPutsItsCopiesInFlight {s : State} {o : LaneOps} (room : Spec.room s (2 + o.md.toNat / 2 % 4))
    (some_ : ∀ l ∈ (List.range 64).filter (s.active o).getLsbD, (Spec.acpyAns o s l).isSome) :
    Spec.MemIssues (.acpy o) o s (Spec.acpyAns o s) { kind := .acpy, paths := [2 + o.md.toNat / 2 % 4] } false := by
  have path : (o.md.extractLsb' 1 2).toNat = o.md.toNat / 2 % 4 := by simp [Nat.shiftRight_eq_div_pow]
  have free : s.cw.pathRoom [2 + o.md.toNat / 2 % 4] = true := pathRoom_single.mpr room
  have run : exec (.acpy o) s = execAcpy o s := rfl
  simp only [execAcpy, path, free, Bool.not_true, Bool.false_eq_true, if_false] at run
  refine memIssues_of_issued (put := fun x t => t.addOp (s.laneOp .acpy [2 + o.md.toNat / 2 % 4] x)) (fun l hl => ?_) run
    fun y u _ => State.addOp_eq_inFlight ..
  obtain ⟨a, ha⟩ := Option.isSome_iff_exists.mp (some_ l hl)
  exact ⟨a, ha, answers_acpyLane (lt_of_mem_act hl) ha⟩

/-! ## XST (10 R283 to R286) -/

theorem darkAddr_eq {off : Nat} (h : off < 2 ^ 32) : darkAddr off = BitVec.ofNat 64 (3 * 2 ^ 52 + 0x3FF * 2 ^ 42 + off) := by
  rw [darkAddr, Nat.mod_eq_of_lt (by omega)]
  rfl

theorem answers_xstLane {s : State} {o : LaneOps} {cols : List Nat} {l : Nat} (hl : l < 64) : ∃ a, Spec.xstAns o s cols l = some a ∧
    Answers s (s.xstLane o cols (if o.lit.getLsbD 20 then s.src64 o 0 else wideRow (s.src o 0)) (s.src o 1) (s.src o 2)) l a := by
  have data : (row64At (if o.lit.getLsbD 20 then s.src64 o 0 else wideRow (s.src o 0)) l).toNat % 2 ^ (8 * if o.lit.getLsbD 20 then 8 else 4) =
      if o.lit.getLsbD 20 then (Spec.source64 o s 0 l).toNat else (Spec.source o s 0 l).toNat := by
    cases o.lit.getLsbD 20 with
    | true =>
      simp only [if_true]
      rw [s.row64At_src64 o 0 hl]
      exact Nat.mod_eq_of_lt (Spec.source64 o s 0 l).isLt
    | false =>
      simp only [Bool.false_eq_true, if_false]
      rw [row64At_wideRow _ hl, s.rowAt_src o 0 hl, BitVec.toNat_setWidth]
      have := (Spec.source o s 0 l).isLt
      omega
  unfold Spec.xstAns Answers
  simp only [State.xstLane, s.rowAt_src o 1 hl, s.rowAt_src o 2 hl, data]
  rw [darkAddr_eq (Spec.source o s 1 l).isLt]
  cases s.xstTargets cols (rankOf cols (s.lcnOf s.cw l)) (if o.lit.getLsbD 20 then 8 else 4) (Spec.source o s 1 l).toNat
      (xstRanks o.lit (rankOf cols (s.lcnOf s.cw l)) cols.length (Spec.source o s 2 l)) with
  | error e => exact ⟨_, rfl, fun x _ => rfl⟩
  | ok ps => exact ⟨_, rfl, fun x _ => rfl⟩

theorem xstPutsItsStoresInFlight {s : State} {o : LaneOps} {cols : List Nat} (room : Spec.room s 7)
    (crew : (s.crew s.cw.ctx (xstCrew o.lit)).map (·.cols) = some cols) :
    Spec.MemIssues (.xst o) o s (Spec.xstAns o s cols) { kind := .xst, paths := [7] } false := by
  obtain ⟨g, hg, rfl⟩ := Option.map_eq_some_iff.mp crew
  have free : s.cw.pathRoom [7] = true := pathRoom_single.mpr room
  have run : exec (.xst o) s = execXst o s := rfl
  simp only [execXst, hg, free, Bool.not_true, Bool.false_eq_true, if_false] at run
  exact memIssues_of_issued (put := fun x t => t.addOp (s.laneOp .xst [7] x)) (fun l hl => answers_xstLane (lt_of_mem_act hl)) run
    fun y u _ => State.addOp_eq_inFlight ..

/-! ## A watch that is there changes -/

section
variable {s : State} {w : Nat} {x : Watch} (h : Tbl.find s.watches w = some x)
include h

theorem State.modWatch_of_find (f : Watch → Watch) : s.modWatch w f = s.modWatch w fun _ => f x := by
  simp only [modWatch, Tbl.alter, h]

theorem State.find_modWatch (f : Watch → Watch) : Tbl.find (s.modWatch w f).watches w = some (f x) := by
  rw [modWatch_watches, Tbl.find_alter_same, h]
  rfl

/-- A second change of the watch. -/
theorem State.modWatch_modWatch (f g : Watch → Watch) : (s.modWatch w f).modWatch w g = s.modWatch w fun _ => g (f x) := by
  rw [State.modWatch_of_find (s.find_modWatch h f), s.modWatch_of_find h f]
  simp only [modWatch, Tbl.alter, h, Tbl.find_put_same, Tbl.put_put]

theorem State.onWatch_of_find (k : Watch → State) : s.onWatch w k = k x := by
  simp only [onWatch, h]

theorem State.onOp_of_find {op : Nat} {o : Op} (ho : x.op op = some o) (open_ : o.done = false) (k : Watch → Op → State) : s.onOp w op k = k x o := by
  rw [onOp, s.onWatch_of_find h, ho]
  exact if_neg (by simp [open_])

theorem State.onOp_of_none {op : Nat} (ho : x.op op = none) (k : Watch → Op → State) : s.onOp w op k = s := by
  rw [onOp, s.onWatch_of_find h, ho]

end

/-! ## AMAX (05 R158) -/

theorem State.amaxOf_eq (s : State) (o : LaneOps) : s.amaxOf o = Spec.largest o s := by
  refine List.foldl_ext _ _ _ fun m l hl => ?_
  rw [s.rowAt_src o 0 (lt_of_mem_act hl)]

theorem amaxWithoutAtomic {s : State} {o : LaneOps} (none_ : o.lit.getLsbD 0 = false ∨ s.active o = 0) :
    Spec.LaneWrites (.amax o) o s s.chain.gen (fun _ => Spec.largest o s) := by
  have no : (if o.lit.getLsbD 0 then (lanesOf (s.active o)).head? else none) = none := by
    rcases none_ with plain | off
    · rw [plain]
      rfl
    · rw [off]
      exact ite_self _
  refine laneWrites_of_putResult (row := Vector.replicate 64 (s.amaxOf o)) ?_ fun l hl => (rowAt_replicate _ hl).trans (s.amaxOf_eq o)
  have run : exec (.amax o) s = execAmax o s := rfl
  rw [run, execAmax, no]

/-- The state in which the chain holds another operation that issues with it (01 R29). -/
def State.keeps (s : State) (q : Op) : State := s.setW { s.cw with chain := some { s.chain with ops := s.chain.ops ++ [q] } }

/-- A chain that keeps an operation writes the result of its instruction. -/
theorem laneWrites_of_keeps {s : State} {o : LaneOps} {q : Op} {row : Row} {r : Nat → W32} (h : ∀ l, l < 64 → rowAt row l = r l) :
    let t := (s.keeps q).putResult o row
    Spec.LaneStep o (s.keeps q) t s.chain.gen (some (Spec.latched o s r)) ∧ t.cw.p = s.cw.p ∧
      (∀ l, l < 64 → rowAt (t.cw.vreg o.d.toNat) l = Spec.written o s r l) ∧ ∀ n, n ≠ o.d.toNat → t.cw.vreg n = s.cw.vreg n := by
  have cw : (s.keeps q).cw = { s.cw with chain := some { s.chain with ops := s.chain.ops ++ [q] } } := State.cw_setW ..
  have vreg (n : Nat) : (s.keeps q).cw.vreg n = s.cw.vreg n := by
    rw [cw]
    rfl
  have active : (s.keeps q).active o = s.active o := by
    rw [State.active, cw]
    rfl
  have gen : (s.keeps q).chain.gen = s.chain.gen := by
    rw [State.chain, cw]
    rfl
  have latched : Spec.latched o (s.keeps q) r = Spec.latched o s r := by simp only [Spec.latched, active, vreg]
  refine ⟨?_, ?_, fun l hl => ?_, fun n hn => (State.vreg_putResult_other hn).trans (vreg n)⟩
  · rw [← gen, ← latched]
    exact laneStep_putResult h
  · rw [State.p_putResult, cw]
  · rw [State.rowAt_putResult h hl, Spec.written, Spec.written, active, vreg]

theorem amaxKeepsItsAtomic {s : State} {o : LaneOps} {l : Nat} {rest : List Nat} (atomic : o.lit.getLsbD 0 = true)
    (act : (List.range 64).filter (s.active o).getLsbD = l :: rest) (room : Spec.room s 8) : exec (.amax o) s =
      .next ((s.keeps { kind := .amax, paths := [8], seq := s.lane.seq, lane := true, ent := s.lane.ent, at_ := s.lane.index, mask := oneLane l
                        nw := true, size := 2, accs := [{ lane := l, pcn := s.cw.pcnOf l, addr := s.lane.sb, size := 4, pend := true
                                                          data := (Spec.largest o s).toNat }] }).putResult o
        (Vector.replicate 64 (s.amaxOf o))) := by
  have first : (if o.lit.getLsbD 0 then (lanesOf (s.active o)).head? else none) = some l := by
    rw [atomic, if_pos rfl]
    exact congrArg List.head? act
  have free : s.cw.pathRoom [8] = true := pathRoom_single.mpr room
  have mask : (0 : Mask) ||| oneLane l = oneLane l := BitVec.zero_or
  have run : exec (.amax o) s = execAmax o s := rfl
  rw [run, execAmax, first]
  simp only [free, Bool.not_true, Bool.false_eq_true, if_false, State.laneOp, List.foldl_cons, List.foldl_nil, mask, s.amaxOf_eq o]
  rfl

section
variable {s : State} {w first : Nat} {x : Watch} {p : Op} {a : Acc} (hx : Tbl.find s.watches w = some x) (kind : p.kind = .amax)
  (lane : p.lane = true) (open_ : p.done = false) (only : (x.ops.filter fun q => q.kind == .amax && decide (first ≤ q.id)) = [p])
  (there : x.op p.id = some p) (acc : p.accs = [a])

include hx only in
/-- The atomic of the one AMAX of a chain is checked, then translated. -/
theorem State.issueAmax_of_one : s.issueAmax w first = (s.checkAmax w p.id).placeAmax w p.id := by
  have ops : (s.watch w).ops = x.ops := by rw [State.watch_of_find hx]
  simp only [issueAmax, ops, only]
  rfl

include hx open_ only there acc in
theorem issueAmax_of_failing {f : AFail} (fails : s.checkAddr x a.pcn { atom := true, lane := some a.lane } a.addr = some f) :
    s.issueAmax w first = s.modWatch w fun _ => { x.laneOff a.lane f.why with ops := x.ops.filter (·.id != p.id) } := by
  rw [State.issueAmax_of_one hx only, State.checkAmax, State.onOp_of_find hx there open_, acc]
  simp only [List.head?_cons, fails]
  rw [State.modWatch_of_find hx]
  refine State.onOp_of_none (State.find_modWatch hx _) ?_ _
  simp [Watch.op, List.find?_eq_none]

include hx kind lane open_ only there acc in
theorem issueAmax_of_passing (passes : s.checkAddr x a.pcn { atom := true, lane := some a.lane } a.addr = none) :
    s.issueAmax w first = match s.placeOf x a.pcn { atom := true, lane := some a.lane } a.addr with
      | .ok key _ => s.modWatch w fun x => x.modOp p.id fun q => { q with accs := [{ a with key := key, pend := false }] }
      | .fault c => (s.modWatch w fun x => x.modOp p.id fun q => { q with xf := true }).asyncTrap w p.ent { cause := 0x1A, code := c, addr := a.addr }
      | .nonres => (s.modWatch w fun x => x.modOp p.id fun q => { q with xf := true }).pageFault w p.ent true a.pcn a.addr
      | .wait => s := by
  have checked : s.checkAmax w p.id = s := by
    rw [State.checkAmax, State.onOp_of_find hx there open_, acc]
    simp only [List.head?_cons, passes]
  have asks : s.placeOf x a.pcn (p.req a) a.addr = s.placeOf x a.pcn { atom := true, lane := some a.lane } a.addr :=
    State.placeOf_congr _ _ _ (by rw [Op.req, kind]; rfl) (by rw [Op.req, Op.isAtom, kind]; rfl) (by rw [Op.req, lane]; rfl) _
  have copy : (p.kind == .acpy) = false := by rw [kind]; rfl
  rw [State.issueAmax_of_one hx only, checked, State.placeAmax, State.onOp_of_find hx there open_, acc]
  simp only [List.head?_cons, State.relocate, copy, Bool.false_and, Bool.false_eq_true, if_false, asks]
  cases s.placeOf x a.pcn { atom := true, lane := some a.lane } a.addr <;> rfl

end

end Sys2Proof.Machine

namespace Sys2Proof

open Machine

/-- Settles O35: ACPY and XST by the fold over the active lanes, AMAX by its two forms, and its atomic by its check and its translation. -/
theorem copiesExchangesAndMaxima : Obligations.CopiesExchangesAndMaxima := by
  intro s o cols
  refine ⟨fun _ room some_ => acpyPutsItsCopiesInFlight room some_, fun _ room crew => xstPutsItsStoresInFlight room crew, amaxWithoutAtomic,
    fun l rest atomic act room => ?_, fun w first x p a hx kind lane open_ only there acc => ⟨fun f fails => ?_, ?_⟩⟩
  · exact ⟨_, _, fun k hk => getLsbD_oneLane_of_lt hk, rfl, _, amaxKeepsItsAtomic atomic act room,
      laneWrites_of_keeps fun l hl => (rowAt_replicate _ hl).trans (s.amaxOf_eq o)⟩
  · exact ⟨_, lanesOff_single a.lane f x, issueAmax_of_failing hx open_ only there acc fails⟩
  · exact issueAmax_of_passing hx kind lane open_ only there acc

end Sys2Proof

namespace Sys2Proof.Machine

/-! ## Operations of a watch -/

section
variable {α : Type} {p : α → Bool} {f g : α → α} {l : List α}

theorem modifyFirst_modifyFirst (h : ∀ x, p (f x) = p x) : modifyFirst p g (modifyFirst p f l) = modifyFirst p (fun x => g (f x)) l := by
  induction l with
  | nil => rfl
  | cons x l ih =>
    by_cases hx : p x = true
    · simp [modifyFirst, hx, h]
    · simp [modifyFirst, hx, ih]

theorem modifyFirst_id : modifyFirst p (fun x => x) l = l := by
  induction l with
  | nil => rfl
  | cons x l ih => simp only [modifyFirst, ih, ite_self]

theorem find?_modifyFirst (h : ∀ x, p (f x) = p x) : (modifyFirst p f l).find? p = (l.find? p).map f := by
  induction l with
  | nil => rfl
  | cons x l ih =>
    by_cases hx : p x = true
    · simp [modifyFirst, hx, h]
    · simp [modifyFirst, hx, ih]

theorem modifyFirst_of_find? {a : α} (h : l.find? p = some a) : modifyFirst p f l = modifyFirst p (fun _ => f a) l := by
  induction l with
  | nil => rfl
  | cons x l ih =>
    rw [List.find?_cons] at h
    cases hx : p x with
    | true =>
      simp only [hx, Option.some.injEq] at h
      subst h
      simp [modifyFirst, hx]
    | false =>
      simp only [hx] at h
      simp [modifyFirst, hx, ih h]

theorem modifyFirst_of_none (h : l.find? p = none) : modifyFirst p f l = l := by
  induction l with
  | nil => rfl
  | cons x l ih =>
    rw [List.find?_cons] at h
    cases hx : p x with
    | true => simp [hx] at h
    | false =>
      simp only [hx] at h
      simp [modifyFirst, hx, ih h]

end

section
variable {x y : Watch} {op : Nat} {o : Op} {f g : Op → Op}

theorem Watch.id_of_op (h : x.op op = some o) : o.id = op := eq_of_beq (List.find?_some (p := fun q : Op => q.id == op) h)

theorem Watch.modOp_modOp (h : ∀ q, (f q).id = q.id) : (x.modOp op f).modOp op g = x.modOp op fun q => g (f q) :=
  congrArg (fun l => { x with ops := l }) (modifyFirst_modifyFirst fun q => by rw [h])

theorem Watch.op_modOp (h : ∀ q, (f q).id = q.id) : (x.modOp op f).op op = (x.op op).map f := find?_modifyFirst fun q => by rw [h]

theorem Watch.modOp_of_op (h : x.op op = some o) : x.modOp op f = x.modOp op fun _ => f o :=
  congrArg (fun l => { x with ops := l }) (modifyFirst_of_find? h)

theorem Watch.modOp_of_none (h : x.op op = none) : x.modOp op f = x :=
  congrArg (fun l => { x with ops := l }) (modifyFirst_of_none h)

/-- The watch once its operation has been tried for completion (06 R181). -/
def Watch.completes (x : Watch) (op : Nat) : Watch := match x.op op with
  | some o => if o.all && o.stamp == 0 then x.finishOp op else x
  | none => x

theorem Watch.completes_frame (x : Watch) (op : Nat) : x.completes op = { x with ops := (x.completes op).ops } := by
  unfold completes
  split
  · split <;> rfl
  · rfl

theorem Watch.completes_ops (h : y.ops = x.ops) : (y.completes op).ops = (x.completes op).ops := by
  have there : y.op op = x.op op := congrArg (List.find? _) h
  have finishes : (y.finishOp op).ops = (x.finishOp op).ops := by
    simp only [finishOp, reap, modOp, counts, pathOps, h]
  unfold completes
  rw [there]
  split
  · split
    · exact finishes
    · exact h
  · exact h

theorem Watch.completes_modOp (h : x.op op = some o) (id : ∀ q, (f q).id = q.id) : (x.modOp op f).completes op =
    if (f o).all = true ∧ (f o).stamp = 0 then (x.modOp op fun _ => f o).finishOp op else x.modOp op fun _ => f o := by
  rw [completes, op_modOp id, h, modOp_of_op h]
  simp

end

section
variable {s : State} {w : Nat} {x : Watch} (h : Tbl.find s.watches w = some x)
include h

theorem State.completeOp_of_find (op : Nat) : s.completeOp w op = s.modWatch w fun _ => x.completes op := State.modWatch_of_find h _

theorem State.watchIs_modWatch (f : Watch → Watch) : Spec.WatchIs s (s.modWatch w f) w (f x) :=
  ⟨State.find_modWatch h f, fun _ hn => Tbl.find_alter_other _ _ hn⟩

end

/-! ## Loads (06 R177) -/

theorem Tbl.mem_of_find {α : Type} {t : Tbl α} {k : Nat} {x : α} (h : Tbl.find t k = some x) : (k, x) ∈ t := by
  induction t with
  | nil => cases h
  | cons e t ih =>
    obtain ⟨j, z⟩ := e
    unfold Tbl.find at h
    split at h
    next at_ =>
      rw [Option.some.injEq] at h
      rw [at_, h]
      exact List.mem_cons_self
    next => exact List.mem_cons_of_mem _ (ih h)

/-- What holds of some entry holds of one after an entry for which it stays the same is replaced. -/
theorem Tbl.any_put {α : Type} {t : Tbl α} {k : Nat} {x y : α} {p : Nat × α → Bool} (h : Tbl.find t k = some x) (same : p (k, y) = p (k, x)) :
    (Tbl.put t k y).any p = List.any t p := by
  induction t with
  | nil => cases h
  | cons e t ih =>
    have there := Tbl.mem_of_find h
    obtain ⟨j, z⟩ := e
    unfold Tbl.find at h
    unfold Tbl.put
    split
    · rw [List.any_cons, same]
      cases hp : p (k, x) with
      | false => rfl
      | true => exact (List.any_eq_true.mpr ⟨_, there, hp⟩).symm
    · split
      next at_ =>
        rw [if_pos at_, Option.some.injEq] at h
        subst at_ h
        rw [List.any_cons, List.any_cons, same]
      next other =>
        rw [if_neg other] at h
        rw [List.any_cons, List.any_cons, ih h]

/-- A load's step changes the registers and the operations of its watch. -/
def Watch.LoadedFrom (x y : Watch) : Prop := y = { x with s := y.s, v := y.v, ops := y.ops }

/-- A load sees the same memory after a step of another. -/
theorem State.loadNat_of_loadedFrom {s : State} {w : Nat} {x y : Watch} (h : Tbl.find s.watches w = some x) (from_ : x.LoadedFrom y) (q pcn key n : Nat) :
    (s.modWatch w fun _ => y).loadNat y q pcn key n = s.loadNat x q pcn key n := by
  have table : (s.modWatch w fun _ => y).watches = Tbl.put s.watches w y := by
    simp only [State.modWatch, Tbl.alter, h]
  have core : y.core = x.core := by rw [from_]
  have slot : y.slot = x.slot := by rw [from_]
  have ctx : y.ctx = x.ctx := by rw [from_]
  have ended : y.ended = x.ended := by rw [from_]
  have cols : y.cols = x.cols := by
    rw [from_]
    rfl
  have owner (k : Nat) : (s.modWatch w fun _ => y).ownerless y k = s.ownerless x k := by
    unfold ownerless
    rw [table, core, slot, Tbl.any_put h]
    simp only [core, slot, ctx, ended, cols]
  have stores : y.heldStores = x.heldStores := by
    rw [from_]
    rfl
  have bytes (k : Nat) : (s.modWatch w fun _ => y).loadByte y q pcn k = s.loadByte x q pcn k := by
    unfold loadByte
    rw [owner, stores, ctx]
    rfl
  simp only [loadNat, bytes]

/-- The registers that a load of a size code writes in a lane. -/
def loadRegs (z : Nat) : Nat := if z = 4 then 4 else if z = 3 then 2 else 1

theorem Watch.writeLoad_of_lane {o : Op} (h : o.lane = true) (y : Watch) (l v : Nat) : y.writeLoad o l v =
    y.putRun o.d l ((List.range (loadRegs o.size)).map fun i => BitVec.ofNat 32 (loadValue o.size v >>> (32 * i))) := if_pos h

/-- A watch after the access at a place of its load has returned what `v` says. -/
def Watch.loads (o : Op) (v : Acc → Nat) (y : Watch) (p : Acc × Nat) : Watch :=
  (y.writeLoad o p.1.lane (v p.1)).modOp o.id fun q => q.gotAcc p.2 0

theorem Watch.writeLoad_frame (y : Watch) (o : Op) (l v : Nat) : y.writeLoad o l v = { y with s := (y.writeLoad o l v).s, v := (y.writeLoad o l v).v } := by
  unfold writeLoad
  split
  · obtain ⟨r, h⟩ := Watch.putRun_frame ((List.range (loadRegs o.size)).map fun i => BitVec.ofNat 32 (loadValue o.size v >>> (32 * i))) y o.d l
    exact h ▸ rfl
  · split
    · rw [Watch.setS_frame, Watch.setS_frame y]
    · rw [Watch.setS_frame]

theorem Watch.loadedFrom_loads (o : Op) (v : Acc → Nat) (y : Watch) (p : Acc × Nat) : y.LoadedFrom (y.loads o v p) := by
  unfold LoadedFrom loads
  rw [Watch.writeLoad_frame]
  rfl

theorem Watch.LoadedFrom.refl (x : Watch) : x.LoadedFrom x := rfl

theorem Watch.LoadedFrom.trans {x y z : Watch} (h : x.LoadedFrom y) (h' : y.LoadedFrom z) : x.LoadedFrom z := by
  unfold LoadedFrom at *
  rw [h', h]

section
variable {o : Op} {v : Acc → Nat} (l : List (Acc × Nat))

theorem Watch.loadedFrom_foldl_loads (x : Watch) : x.LoadedFrom (l.foldl (Watch.loads o v) x) := by
  induction l generalizing x with
  | nil => exact .refl x
  | cons p l ih => exact (Watch.loadedFrom_loads o v x p).trans (ih _)

/-- The accesses that return are marked. -/
theorem Watch.ops_foldl_loads (x : Watch) : (l.foldl (Watch.loads o v) x).ops =
    (x.modOp o.id fun q => l.foldl (fun q p => q.gotAcc p.2 0) q).ops := by
  induction l generalizing x with
  | nil => exact modifyFirst_id.symm
  | cons p l ih =>
    have first : (x.loads o v p).ops = (x.modOp o.id fun q => q.gotAcc p.2 0).ops := by
      unfold loads
      rw [Watch.writeLoad_frame]
      rfl
    have marks := congrArg Watch.ops <| Watch.modOp_modOp (x := x) (op := o.id) (f := fun q => q.gotAcc p.2 0)
      (g := fun q => l.foldl (fun q p => q.gotAcc p.2 0) q) fun q => rfl
    rw [List.foldl_cons, ih]
    exact (congrArg (modifyFirst _ _) first).trans marks

/-- The accesses of a load that return together, each with what it sees before any of them. -/
theorem State.foldl_returnAcc {s : State} {w : Nat} {x : Watch} (h : Tbl.find s.watches w = some x)
    (sees : ∀ a, s.loadNat x o.seq a.pcn (s.keyNow x.ctx a) a.size = v a) (op : Nat) :
    (l.foldl (fun s p => s.returnAcc w o p.2 p.1) s).completeOp w op = s.modWatch w fun _ => (l.foldl (Watch.loads o v) x).completes op := by
  induction l generalizing s x with
  | nil => exact State.completeOp_of_find h op
  | cons p l ih =>
    have step_ : s.returnAcc w o p.2 p.1 = s.modWatch w fun _ => x.loads o v p := by
      rw [returnAcc, State.modWatch_of_find h, sees]
      rfl
    have from_ := Watch.loadedFrom_loads o v x p
    have ctx : (x.loads o v p).ctx = x.ctx := by rw [from_]
    rw [List.foldl_cons, step_, ih (State.find_modWatch h _) fun a => ?_, State.modWatch_modWatch h]
    · rfl
    · rw [ctx, State.loadNat_of_loadedFrom h from_]
      exact sees a

end

/-! ## The registers that a load writes (06 R183, R191) -/

theorem Watch.rowAt_putRun_other (w : Watch) (k : Nat) {i j : Nat} (h : j ≠ i) (l : List W32) (n : Nat) :
    rowAt ((w.putRun k i l).vreg n) j = rowAt (w.vreg n) j := by
  induction l generalizing w k with
  | nil => rfl
  | cons x l ih =>
    rw [putRun, ih, vreg, putV]
    by_cases hn : n = k
    · rw [hn, Tbl.getD_put_same, rowAt_setLane_other _ _ h]
    · rw [Tbl.getD_put_other _ _ _ hn]
      rfl

theorem Watch.rowAt_putRun_same (w : Watch) (k : Nat) {i : Nat} (hi : i < 64) (l : List W32) (n : Nat) :
    rowAt ((w.putRun k i l).vreg n) i = if k ≤ n ∧ n - k < l.length then l[n - k]?.getD 0 else rowAt (w.vreg n) i :=
  congrFun (congrArg RowView.reg (rowSet_putRun (u := 0) hi l w k).row) n

theorem Watch.rowAt_writeLoad_same {o : Op} (h : o.lane = true) (y : Watch) {l : Nat} (hl : l < 64) (v n : Nat) :
    rowAt ((y.writeLoad o l v).vreg n) l =
      if o.d ≤ n ∧ n < o.d + loadRegs o.size then BitVec.ofNat 32 (loadValue o.size v / 2 ^ (32 * (n - o.d))) else rowAt (y.vreg n) l := by
  rw [Watch.writeLoad_of_lane h, Watch.rowAt_putRun_same _ _ hl, List.length_map, List.length_range]
  by_cases at_ : o.d ≤ n ∧ n < o.d + loadRegs o.size
  · have low : n - o.d < loadRegs o.size := by omega
    rw [if_pos ⟨at_.1, low⟩, if_pos at_, List.getElem?_map, List.getElem?_range low, Option.map_some, Option.getD_some,
      Nat.shiftRight_eq_div_pow]
  · rw [if_neg (by omega), if_neg at_]

theorem Watch.rowAt_writeLoad_other {o : Op} (h : o.lane = true) (y : Watch) {l k : Nat} (hk : k ≠ l) (v n : Nat) :
    rowAt ((y.writeLoad o l v).vreg n) k = rowAt (y.vreg n) k := by
  rw [Watch.writeLoad_of_lane h, Watch.rowAt_putRun_other _ _ hk]

section
variable {o : Op} {v : Acc → Nat} (lane : o.lane = true)
include lane

theorem Watch.s_foldl_loads (l : List (Acc × Nat)) (x : Watch) : (l.foldl (Watch.loads o v) x).s = x.s := by
  induction l generalizing x with
  | nil => rfl
  | cons p l ih =>
    obtain ⟨r, h⟩ := Watch.putRun_frame ((List.range (loadRegs o.size)).map fun i =>
      BitVec.ofNat 32 (loadValue o.size (v p.1) >>> (32 * i))) x o.d p.1.lane
    rw [List.foldl_cons, ih, loads, Watch.writeLoad_of_lane lane, h]
    rfl

theorem Watch.rowAt_foldl_loads_other {l : List (Acc × Nat)} {k : Nat} (h : ∀ p ∈ l, p.1.lane ≠ k) (x : Watch) (n : Nat) :
    rowAt ((l.foldl (Watch.loads o v) x).vreg n) k = rowAt (x.vreg n) k := by
  induction l generalizing x with
  | nil => rfl
  | cons p l ih =>
    obtain ⟨first, rest⟩ := List.forall_mem_cons.mp h
    rw [List.foldl_cons, ih rest]
    exact Watch.rowAt_writeLoad_other lane x first.symm _ n

/-- A lane with one access has the registers that it writes. -/
theorem Watch.rowAt_foldl_loads_same {l : List (Acc × Nat)} {a : Acc} (hl : a.lane < 64) (only : ∀ p ∈ l, p.1.lane = a.lane → p.1 = a)
    (x : Watch) (n : Nat) : rowAt ((l.foldl (Watch.loads o v) x).vreg n) a.lane =
      if (∃ p ∈ l, p.1 = a) ∧ o.d ≤ n ∧ n < o.d + loadRegs o.size then BitVec.ofNat 32 (loadValue o.size (v a) / 2 ^ (32 * (n - o.d)))
      else rowAt (x.vreg n) a.lane := by
  induction l generalizing x with
  | nil => simp
  | cons p l ih =>
    obtain ⟨first, rest⟩ := List.forall_mem_cons.mp only
    have ops (y : Watch) : (y.loads o v p).vreg n = (y.writeLoad o p.1.lane (v p.1)).vreg n := rfl
    rw [List.foldl_cons, ih rest, ops]
    by_cases at_ : p.1.lane = a.lane
    · have is_ := first at_
      rw [is_, Watch.rowAt_writeLoad_same lane x hl]
      have here : ∃ q ∈ p :: l, q.1 = a := ⟨p, List.mem_cons_self, is_⟩
      by_cases range : o.d ≤ n ∧ n < o.d + loadRegs o.size
      · rw [if_pos range, ite_self, if_pos ⟨here, range⟩]
      · rw [if_neg fun h => range h.2, if_neg range, if_neg fun h => range h.2]
    · have isnt : p.1 ≠ a := fun h => at_ (congrArg Acc.lane h)
      have later : (∃ q ∈ p :: l, q.1 = a) ↔ ∃ q ∈ l, q.1 = a := (List.exists_mem_cons_iff ..).trans (or_iff_right isnt)
      rw [Watch.rowAt_writeLoad_other lane x (Ne.symm at_)]
      simp only [later]

end

theorem Watch.sreg_setS_ofNat (y : Watch) {n : Nat} (hn : n < 64) (v : Word) {r : Reg} (nz : r ≠ 0) :
    (y.setS (BitVec.ofNat 6 n) v).sreg r = if r.toNat = n then v else y.sreg r := by
  have at_ : r = BitVec.ofNat 6 n ↔ r.toNat = n := by rw [← BitVec.toNat_inj, BitVec.toNat_ofNat, Nat.mod_eq_of_lt hn]
  split
  next same => rw [← at_.mpr same, Watch.sreg_setS_same, if_neg nz]
  next other => exact Watch.sreg_setS_other y v fun h => other (at_.mp h)

/-- A load to an S register: its value, or the two halves of a 16-byte one. -/
theorem Watch.sreg_writeLoad {o : Op} (lane : o.lane = false) (hd : o.d < 63) (y : Watch) (l v : Nat) (r : Reg) : (y.writeLoad o l v).sreg r =
    if r = 0 then 0 else if r.toNat = o.d then BitVec.ofNat 64 (loadValue o.size v)
    else if o.size = 4 ∧ r.toNat = o.d + 1 then BitVec.ofNat 64 (loadValue o.size v / 2 ^ 64) else y.sreg r := by
  split
  next is0 =>
    rw [is0]
    rfl
  next nz =>
    have low : o.d < 64 := by omega
    have high : o.d + 1 < 64 := by omega
    simp only [writeLoad, lane, Bool.false_eq_true, if_false]
    by_cases quad : o.size = 4
    · rw [if_pos quad, Watch.sreg_setS_ofNat _ high _ nz, Watch.sreg_setS_ofNat _ low _ nz, Nat.shiftRight_eq_div_pow]
      simp only [quad, true_and]
      split
      next second => rw [if_neg (by omega)]
      next => rfl
    · simp only [quad, if_false, false_and, Watch.sreg_setS_ofNat _ low _ nz]

theorem Watch.v_writeLoad {o : Op} (lane : o.lane = false) (y : Watch) (l v : Nat) : (y.writeLoad o l v).v = y.v := by
  simp only [writeLoad, lane, Bool.false_eq_true, if_false]
  split
  · rw [Watch.setS_frame, Watch.setS_frame y]
  · rw [Watch.setS_frame]

theorem Watch.v_foldl_loads {o : Op} (lane : o.lane = false) {v : Acc → Nat} (l : List (Acc × Nat)) (x : Watch) :
    (l.foldl (Watch.loads o v) x).v = x.v := by
  induction l generalizing x with
  | nil => rfl
  | cons p l ih => exact (ih _).trans (Watch.v_writeLoad lane ..)

/-! ## The accesses that return (06 R177) -/

theorem Op.getElem?_gotAcc (o : Op) (j old i : Nat) :
    (o.gotAcc j old).accs[i]? = o.accs[i]?.map fun a => if i = j then { a with got := true, old := old } else a := by
  rw [gotAcc, List.getElem?_map, List.getElem?_zipIdx, Option.map_map]
  simp only [Nat.zero_add]
  rfl

theorem Op.getElem?_foldl_gotAcc (l : List (Acc × Nat)) (o : Op) (i : Nat) : (l.foldl (fun q p => q.gotAcc p.2 0) o).accs[i]? =
    o.accs[i]?.map fun a => if i ∈ l.map (·.2) then { a with got := true, old := 0 } else a := by
  induction l generalizing o with
  | nil => simp
  | cons p l ih =>
    rw [List.foldl_cons, ih, Op.getElem?_gotAcc, Option.map_map]
    refine congrArg (Option.map · _) (funext fun a => ?_)
    simp only [Function.comp_apply, List.map_cons, List.mem_cons]
    by_cases first : i = p.2
    · simp [first]
    · simp only [first, false_or, if_false]

theorem Op.foldl_gotAcc_frame (l : List (Acc × Nat)) (o : Op) :
    l.foldl (fun q p => q.gotAcc p.2 0) o = { o with accs := (l.foldl (fun q p => q.gotAcc p.2 0) o).accs } := by
  induction l generalizing o with
  | nil => rfl
  | cons p l ih => exact ih (o.gotAcc p.2 0)

/-- The accesses of some kind are marked. -/
theorem Op.foldl_gotAcc_filter (o : Op) (f : Acc → Bool) : (o.accs.zipIdx.filter fun p => f p.1).foldl (fun q p => q.gotAcc p.2 0) o =
    { o with accs := o.accs.map fun a => if f a then { a with got := true, old := 0 } else a } := by
  rw [Op.foldl_gotAcc_frame]
  refine congrArg (fun l => { o with accs := l }) (List.ext_getElem? fun i => ?_)
  rw [Op.getElem?_foldl_gotAcc, List.getElem?_map]
  cases ha : o.accs[i]? with
  | none => rfl
  | some a =>
    have marked : i ∈ (o.accs.zipIdx.filter fun p => f p.1).map (·.2) ↔ f a = true := by
      simp [List.mem_zipIdx_iff_getElem?, ha]
    simp only [Option.map_some, marked]

/-- An access of a load to a sector has not returned, and has its place. -/
def State.returns (s : State) (ctx sec : Nat) (a : Acc) : Bool := !a.got && !a.pend && s.keyNow ctx a / 32 == sec

theorem State.returns_iff {s : State} {ctx sec : Nat} {a : Acc} :
    s.returns ctx sec a = true ↔ a.got = false ∧ a.pend = false ∧ s.keyNow ctx a / 32 = sec := by
  simp [returns, and_assoc]

/-- The accesses of a load that a sector brings, with their places. -/
def State.returning (s : State) (ctx sec : Nat) (o : Op) : List (Acc × Nat) := o.accs.zipIdx.filter fun p => s.returns ctx sec p.1

theorem State.mem_returning {s : State} {ctx sec : Nat} {o : Op} {p : Acc × Nat} (h : p ∈ s.returning ctx sec o) :
    p.1 ∈ o.accs ∧ p.1.got = false ∧ p.1.pend = false ∧ s.keyNow ctx p.1 / 32 = sec := by
  obtain ⟨mem, returns⟩ := List.mem_filter.mp h
  exact ⟨List.fst_mem_of_mem_zipIdx mem, State.returns_iff.mp returns⟩

theorem State.exists_returning {s : State} {ctx sec : Nat} {o : Op} (q : Acc → Prop) :
    (∃ p ∈ s.returning ctx sec o, q p.1) ↔ ∃ a ∈ o.accs, (a.got = false ∧ a.pend = false ∧ s.keyNow ctx a / 32 = sec) ∧ q a := by
  constructor
  · rintro ⟨p, there, hp⟩
    obtain ⟨mem, is_⟩ := State.mem_returning there
    exact ⟨p.1, mem, is_, hp⟩
  · rintro ⟨a, mem, is_, ha⟩
    obtain ⟨i, at_⟩ := List.mem_iff_getElem?.mp mem
    exact ⟨⟨a, i⟩, List.mem_filter.mpr ⟨List.mem_zipIdx_iff_getElem?.mpr at_, State.returns_iff.mpr is_⟩, ha⟩

/-- What an access of a load of a watch sees (06 R177, R178). -/
def State.seen (s : State) (x : Watch) (o : Op) (a : Acc) : Nat := s.loadNat x o.seq a.pcn (s.keyNow x.ctx a) a.size

/-- The watch once the accesses of its load to a sector have returned. -/
def Watch.returned (x : Watch) (s : State) (o : Op) (sec : Nat) : Watch := (s.returning x.ctx sec o).foldl (Watch.loads o (s.seen x o)) x

section
variable {s : State} {w op k sec : Nat} {x : Watch} {o : Op} (at_ : Spec.AtOp s w op x o) (load : o.isLoad = true) (live : s.isLive x = true)
  (free : x.acqHeld o.seq = false) (missing : (s.sectors x.ctx o)[k]? = some sec)
include at_ load live free missing

theorem exec_loadSectorReturn : exec (.loadSectorReturn w op k) s = .next (
    if (s.returning x.ctx sec o).any fun p => s.olderSame x Op.beforeLoad o.seq o.lane p.1 then s
    else match (s.returning x.ctx sec o).find? fun p => s.hostShut p.1.key with
    | some p => s.shutTrap w o p.1
    | none => s.modWatch w fun _ => (x.returned s o sec).completes op) := by
  obtain ⟨hx, there, open_⟩ := at_
  have run : exec (.loadSectorReturn w op k) s = execLoadSectorReturn w op k s := rfl
  rw [run, execLoadSectorReturn, State.onOp_of_find hx there open_, load, live, free]
  simp only [Bool.not_false, Bool.and_self, if_true, missing]
  rw [Watch.returned, ← State.foldl_returnAcc (v := s.seen x o) (s.returning x.ctx sec o) hx (fun _ => rfl) op] <;> rfl

end

section
variable {s : State} {op sec : Nat} {x : Watch} {o : Op}

theorem Watch.loadedFrom_returned (s : State) (x : Watch) (o : Op) (op sec : Nat) : x.LoadedFrom ((x.returned s o sec).completes op) := by
  have first := Watch.loadedFrom_foldl_loads (o := o) (v := s.seen x o) (s.returning x.ctx sec o) x
  refine first.trans ?_
  unfold LoadedFrom
  rw [Watch.completes_frame]
  rfl

/-- The operation of a load once a sector has returned: complete where nothing more is missing. -/
theorem Watch.ops_returned (there : x.op op = some o) :
    let o' := { o with accs := o.accs.map fun a =>
      if a.got = false ∧ a.pend = false ∧ s.keyNow x.ctx a / 32 = sec then { a with got := true, old := 0 } else a }
    ((x.returned s o sec).completes op).ops =
      (if o'.all = true ∧ o.stamp = 0 then (x.modOp op fun _ => o').finishOp op else x.modOp op fun _ => o').ops := by
  have id := Watch.id_of_op there
  have marks := Op.foldl_gotAcc_filter o (s.returns x.ctx sec)
  simp only [State.returns_iff] at marks
  have same := Watch.ops_foldl_loads (o := o) (v := s.seen x o) (s.returning x.ctx sec o) x
  rw [id] at same
  intro o'
  rw [Watch.returned, Watch.completes_ops same, Watch.completes_modOp there fun q => by rw [Op.foldl_gotAcc_frame]]
  exact congrArg (fun q : Op => (if q.all = true ∧ q.stamp = 0 then (x.modOp op fun _ => q).finishOp op else x.modOp op fun _ => q).ops) marks

theorem Watch.s_completes (x : Watch) (op : Nat) : (x.completes op).s = x.s := by rw [Watch.completes_frame]
theorem Watch.v_completes (x : Watch) (op : Nat) : (x.completes op).v = x.v := by rw [Watch.completes_frame]

theorem Watch.vreg_completes (x : Watch) (op n : Nat) : (x.completes op).vreg n = x.vreg n := by
  rw [Watch.vreg, Watch.v_completes]
  rfl

theorem Watch.sreg_completes (x : Watch) (op : Nat) (r : Reg) : (x.completes op).sreg r = x.sreg r := by
  rw [Watch.sreg, Watch.s_completes]
  rfl

/-- A lane with one access, which returns, has its registers. -/
theorem Watch.rowAt_returned_same (lane : o.lane = true) {a : Acc} (ha : a ∈ o.accs)
    (is_ : a.got = false ∧ a.pend = false ∧ s.keyNow x.ctx a / 32 = sec) (only : ∀ b ∈ o.accs, b.lane = a.lane → b = a) (hl : a.lane < 64)
    (n : Nat) : rowAt ((x.returned s o sec).vreg n) a.lane =
      if o.d ≤ n ∧ n < o.d + loadRegs o.size then BitVec.ofNat 32 (loadValue o.size (s.seen x o a) / 2 ^ (32 * (n - o.d)))
      else rowAt (x.vreg n) a.lane := by
  have here : ∃ p ∈ s.returning x.ctx sec o, p.1 = a := (State.exists_returning fun b => b = a).mpr ⟨a, ha, is_, rfl⟩
  rw [returned, Watch.rowAt_foldl_loads_same lane hl fun p hp => only p.1 (State.mem_returning hp).1]
  simp only [here, true_and]

theorem Watch.rowAt_returned_other (lane : o.lane = true) {l : Nat}
    (apart : ∀ a ∈ o.accs, a.got = false ∧ a.pend = false ∧ s.keyNow x.ctx a / 32 = sec → a.lane ≠ l) (n : Nat) :
    rowAt ((x.returned s o sec).vreg n) l = rowAt (x.vreg n) l :=
  Watch.rowAt_foldl_loads_other lane (fun p hp => apart p.1 (State.mem_returning hp).1 (State.mem_returning hp).2) x n

theorem Watch.sreg_returned (lane : o.lane = false) {a : Acc} (one : o.accs = [a])
    (is_ : a.got = false ∧ a.pend = false ∧ s.keyNow x.ctx a / 32 = sec) (hd : o.d < 63) (r : Reg) : (x.returned s o sec).sreg r =
      if r = 0 then 0 else if r.toNat = o.d then BitVec.ofNat 64 (loadValue o.size (s.seen x o a))
      else if o.size = 4 ∧ r.toNat = o.d + 1 then BitVec.ofNat 64 (loadValue o.size (s.seen x o a) / 2 ^ 64) else x.sreg r := by
  have all : s.returning x.ctx sec o = [(a, 0)] := by
    rw [State.returning, one]
    exact List.filter_cons_of_pos (State.returns_iff.mpr is_)
  rw [returned, all]
  exact Watch.sreg_writeLoad lane hd x ..

end

theorem loadsReturnTheirSectors : Spec.LoadsReturnTheirSectors := by
  intro s w op k sec x o at_ load live free missing mine value regs
  have run := exec_loadSectorReturn at_ load live free missing
  obtain ⟨hx, there, open_⟩ := at_
  have held : ((s.returning x.ctx sec o).any fun p => s.olderSame x Op.beforeLoad o.seq o.lane p.1) = true ↔
      ∃ a ∈ o.accs, mine a ∧ s.olderSame x Op.beforeLoad o.seq o.lane a = true :=
    List.any_eq_true.trans (State.exists_returning fun a => s.olderSame x Op.beforeLoad o.seq o.lane a = true)
  refine ⟨fun waits => by rw [run, if_pos (held.mpr waits)], fun first => ?_⟩
  have may : ¬((s.returning x.ctx sec o).any fun p => s.olderSame x Op.beforeLoad o.seq o.lane p.1) = true := fun h => by
    obtain ⟨a, ha, is_, older⟩ := held.mp h
    rw [first a ha is_] at older
    cases older
  rw [if_neg may] at run
  refine ⟨fun shut => ?shut, fun reads => ?reads⟩
  case shut =>
    obtain ⟨p, hp⟩ := Option.isSome_iff_exists.mp (List.find?_isSome.mpr ((State.exists_returning fun a => s.hostShut a.key = true).mpr shut))
    obtain ⟨mem, is_⟩ := State.mem_returning (List.mem_of_find?_eq_some hp)
    rw [hp] at run
    exact ⟨p.1, mem, is_, List.find?_some (p := fun p : Acc × Nat => s.hostShut p.1.key) hp, run⟩
  case reads =>
    have none_ : ((s.returning x.ctx sec o).find? fun p => s.hostShut p.1.key) = none := by
      refine List.find?_eq_none.mpr fun p hp => ?_
      obtain ⟨mem, is_⟩ := State.mem_returning hp
      simp [reads p.1 mem is_]
    rw [none_] at run
    refine ⟨_, _, run, rfl, State.watchIs_modWatch hx _, Watch.loadedFrom_returned s x o op sec,
      fun lane => ⟨?_, fun a ha is_ only hl n => ?_, fun l n _ apart => ?_⟩, fun lane => ⟨?_, fun a one is_ hd r => ?_⟩, Watch.ops_returned there⟩
    · exact (Watch.s_completes ..).trans (Watch.s_foldl_loads lane ..)
    · rw [Watch.vreg_completes]
      exact Watch.rowAt_returned_same lane ha is_ only hl n
    · rw [Watch.vreg_completes]
      exact Watch.rowAt_returned_other lane apart n
    · exact (Watch.v_completes ..).trans (Watch.v_foldl_loads lane ..)
    · rw [Watch.sreg_completes]
      exact Watch.sreg_returned lane one is_ hd r

end Sys2Proof.Machine

namespace Sys2Proof.Machine

/-! ## Bytes at an order point (06 R178; 13 R365) -/

theorem byteOf_eq (v i : Nat) : byteOf v i = BitVec.ofNat 8 (v / 256 ^ i) := by
  rw [byteOf, Nat.shiftRight_eq_div_pow, two_pow_eight_mul]

theorem memByte_memWrite_eq (m : List Host.Cell) (e key : Nat) (l : List Byte) (k : Nat) :
    memByte (memWrite m key l) e k = if key ≤ k ∧ k < key + l.length then l[k - key]?.getD 0 else memByte m e k := by
  split
  next h =>
    obtain ⟨i, rfl⟩ := Nat.exists_eq_add_of_le h.1
    have hi : i < l.length := by omega
    rw [memByte_memWrite m e key l hi, Nat.add_sub_cancel_left, List.getElem?_eq_getElem hi]
    rfl
  next h => exact memByte_memWrite_other m e key l h

/-- The bytes of a word are stored where the memory is as after it is written. -/
theorem stores_of_writeN {s t : State} {key n v : Nat} (mem : t.mem = (s.writeN key n v).mem) (epoch : t.epoch = s.epoch) : Spec.Stores s t key n v := by
  intro k
  rw [mem, epoch, State.writeN_mem, memByte_memWrite_eq, leBytes_length]
  split
  next h =>
    have hi : k - key < n := by omega
    rw [leBytes, List.getElem?_map, List.getElem?_range hi]
    exact byteOf_eq v _
  next => rfl

/-! ## One watch changes -/

theorem watchIs_trans {s t u : State} {w : Nat} {x y : Watch} (h : Spec.WatchIs s t w x) (h' : Spec.WatchIs t u w y) : Spec.WatchIs s u w y :=
  ⟨h'.1, fun n hn => (h'.2 n hn).trans (h.2 n hn)⟩

/-- The watch becomes `y`, and memory takes the low `n` bytes of `v` at `key`; the host owes what it did. -/
structure Performed (s t : State) (w : Nat) (y : Watch) (key n v : Nat) : Prop where
  watch : Spec.WatchIs s t w y
  mem : t.mem = (s.writeN key n v).mem
  epoch : t.epoch = s.epoch
  hostAcks : t.hostAcks = s.hostAcks

section
variable {s t u : State} {w key n v : Nat} {x y : Watch}

theorem Performed.stores (h : Performed s t w y key n v) : Spec.Stores s t key n v := stores_of_writeN h.mem h.epoch

/-- A later change of the watch. -/
theorem Performed.modWatch (h : Performed s t w y key n v) (f : Watch → Watch) : Performed s (t.modWatch w f) w (f y) key n v where
  watch := watchIs_trans h.watch (State.watchIs_modWatch h.watch.1 f)
  mem := h.mem
  epoch := h.epoch
  hostAcks := h.hostAcks

theorem Performed.completeOp (h : Performed s t w y key n v) (op : Nat) : Performed s (t.completeOp w op) w (y.completes op) key n v :=
  h.modWatch fun x => x.completes op

/-- An earlier change of the watch. -/
theorem Performed.of_modWatch {f : Watch → Watch} (hx : Tbl.find s.watches w = some x) (h : Performed (s.modWatch w f) t w y key n v) :
    Performed s t w y key n v where
  watch := watchIs_trans (State.watchIs_modWatch hx f) h.watch
  mem := h.mem
  epoch := h.epoch
  hostAcks := h.hostAcks

theorem performed_writeN (hx : Tbl.find s.watches w = some x) (key n v : Nat) : Performed s (s.writeN key n v) w x key n v where
  watch := ⟨hx, fun _ _ => rfl⟩
  mem := rfl
  epoch := rfl
  hostAcks := rfl

/-- A write at an order point: the operation of an insert takes a stamp. -/
theorem performed_performWrite (hx : Tbl.find s.watches w = some x) (op key n v : Nat) :
    ∃ y, Performed s (s.performWrite w op key n v) w y key n v ∧
      (y = x ∨ dirEntry key ≠ none ∧ ∃ m, y = x.modAny op fun o => { o with stamp := m }) := by
  unfold State.performWrite
  cases hd : dirEntry key with
  | none => exact ⟨x, performed_writeN hx key n v, .inl rfl⟩
  | some e =>
    simp only
    split
    · exact ⟨_, { watch := State.watchIs_modWatch hx _, mem := rfl, epoch := rfl, hostAcks := rfl }, .inr ⟨Option.some_ne_none e, _, rfl⟩⟩
    · exact ⟨x, performed_writeN hx key n v, .inl rfl⟩

end

theorem Watch.modAny_frame (x : Watch) (op : Nat) (f : Op → Op) : x.modAny op f = { x with ops := (x.modAny op f).ops, held := (x.modAny op f).held } := rfl

/-! ## The oldest store (06 R178) -/

/-- The accesses that hold a store back. -/
theorem State.storeHeld_iff {s : State} {x : Watch} {e : StoreEnt} : s.storeHeld x e = true ↔
    x.acqHeld e.seq = true ∨ s.olderSame x Op.isLoad e.seq e.lane e.acc = true ∨
      ∃ o ∈ x.ops, o.kind = .acpy ∧ o.lane = e.lane ∧ o.seq < e.seq ∧ ∃ b ∈ o.accs, b.got = false ∧ s.overlap x.ctx e.acc b.dest = true := by
  simp only [storeHeld, Bool.or_eq_true, List.any_eq_true, Bool.and_eq_true, beq_iff_eq, decide_eq_true_eq, Bool.not_eq_true', or_assoc, and_assoc]

/-- The watch whose oldest store has left the FIFO. -/
def Watch.stored (x : Watch) (e : StoreEnt) (rest : List StoreEnt) : Watch :=
  { x.modOp e.op fun o => { o with
    accs := modifyFirst (fun a => a.lane == e.acc.lane && !a.got) (fun a => { a with got := true }) o.accs } with fifo := rest }

/-- What a store changes of its watch. -/
def Watch.StoredFrom (x : Watch) (rest : List StoreEnt) (y : Watch) : Prop := y = { x with fifo := rest, ops := y.ops, held := y.held }

theorem Watch.StoredFrom.completes {x y : Watch} {rest : List StoreEnt} (h : x.StoredFrom rest y) (op : Nat) : x.StoredFrom rest (y.completes op) := by
  unfold StoredFrom
  rw [Watch.completes_frame]
  generalize (y.completes op).ops = l
  rw [h]

theorem Watch.StoredFrom.modAny {x y : Watch} {rest : List StoreEnt} (h : x.StoredFrom rest y) (op : Nat) (f : Op → Op) :
    x.StoredFrom rest (y.modAny op f) := by
  unfold StoredFrom
  rw [Watch.modAny_frame]
  generalize (y.modAny op f).ops = l, (y.modAny op f).held = g
  rw [h]

theorem Watch.storedFrom_stored (x : Watch) (e : StoreEnt) (rest : List StoreEnt) : x.StoredFrom rest (x.stored e rest) := rfl

theorem Watch.held_completes (x : Watch) (op : Nat) : (x.completes op).held = x.held := by rw [Watch.completes_frame]
theorem Watch.fifo_completes (x : Watch) (op : Nat) : (x.completes op).fifo = x.fifo := by rw [Watch.completes_frame]

section
variable {s : State} {w : Nat} {x : Watch} (hx : Tbl.find s.watches w = some x) {e : StoreEnt} {rest : List StoreEnt} (fifo : x.fifo = e :: rest)
include hx

include fifo in
theorem exec_storePerform : exec (.storePerform w) s = .next (if e.acc.pend || s.storeHeld x e then s else
    let t := s.modWatch w fun x => x.stored e rest
    if s.hostShut e.acc.key then (t.completeOp w e.op).shutTrap w ((x.op e.op).getD {}) e.acc
    else (t.storeBytes w e (s.keyNow x.ctx e.acc)).completeOp w e.op) := by
  have run : exec (.storePerform w) s = execStorePerform w s := rfl
  rw [run, execStorePerform, State.onWatch_of_find hx, fifo]
  rfl

/-- A store to the memory of a column. -/
theorem performed_storeBytes {key : Nat} (dev : isHostKey key = false) :
    ∃ y, Performed s (((s.modWatch w fun x => x.stored e rest).storeBytes w e key).completeOp w e.op) w y key e.acc.size e.acc.data ∧
      x.StoredFrom rest y ∧ (dirEntry key = none → y.held = x.held) := by
  obtain ⟨y, done, frame⟩ := performed_performWrite (State.find_modWatch hx fun x => x.stored e rest) e.op key e.acc.size e.acc.data
  rw [State.storeBytes, if_neg (by simp [dev])]
  refine ⟨_, (done.completeOp e.op).of_modWatch hx, ?_, fun plain => ?_⟩
  · have first := Watch.storedFrom_stored x e rest
    rcases frame with rfl | ⟨-, m, rfl⟩
    · exact first.completes e.op
    · exact (first.modAny e.op _).completes e.op
  · rcases frame with rfl | ⟨insert, -⟩
    · exact Watch.held_completes _ e.op
    · exact absurd plain insert

include fifo in
theorem storeLeaves : let key := s.keyNow x.ctx e.acc
    let held := e.acc.pend = true ∨ x.acqHeld e.seq = true ∨ s.olderSame x Op.isLoad e.seq e.lane e.acc = true ∨
      ∃ o ∈ x.ops, o.kind = .acpy ∧ o.lane = e.lane ∧ o.seq < e.seq ∧ ∃ b ∈ o.accs, b.got = false ∧ s.overlap x.ctx e.acc b.dest = true
    (held → exec (.storePerform w) s = .next s) ∧
    (¬held → s.hostShut e.acc.key = true → ∃ u : State, u.mem = s.mem ∧ u.hostAcks = s.hostAcks ∧ (u.watch w).fifo = rest ∧
      exec (.storePerform w) s = .next (u.shutTrap w ((x.op e.op).getD {}) e.acc)) ∧
    (¬held → s.hostShut e.acc.key = false →
      ∃ t y, exec (.storePerform w) s = .next t ∧ Spec.WatchIs s t w y ∧ y = { x with fifo := rest, ops := y.ops, held := y.held } ∧
        (dirEntry key = none → y.held = x.held) ∧
        (isHostKey key = false → Spec.Stores s t key e.acc.size e.acc.data ∧ t.hostAcks = s.hostAcks) ∧
        (isHostKey key = true → t.mem = s.mem ∧ t.hostAcks = s.hostAcks ++
          [{ w := w, op := e.op, pcn := e.acc.pcn, key := key, size := e.acc.size, data := e.acc.data }])) := by
  intro key held
  have run := exec_storePerform hx fifo
  have waits : (e.acc.pend || s.storeHeld x e) = true ↔ held := by rw [Bool.or_eq_true, State.storeHeld_iff]
  refine ⟨fun h => by rw [run, if_pos (waits.mpr h)], fun free shut => ?_, fun free reach => ?_⟩ <;> rw [if_neg (mt waits.mp free)] at run
  · simp only [shut, if_true] at run
    refine ⟨(s.modWatch w fun x => x.stored e rest).completeOp w e.op, rfl, rfl, ?_, run⟩
    rw [State.completeOp_of_find (State.find_modWatch hx _), State.watch_of_find (State.find_modWatch (State.find_modWatch hx _) _)]
    exact Watch.fifo_completes _ e.op
  · simp only [reach, Bool.false_eq_true, if_false] at run
    cases host : isHostKey key with
    | false =>
      obtain ⟨y, done, frame, plain⟩ := performed_storeBytes hx host
      exact ⟨_, y, run, done.watch, frame, plain, fun _ => ⟨done.stores, done.hostAcks⟩, nofun⟩
    | true =>
      rw [State.storeBytes, if_pos host] at run
      have forwarded := watchIs_trans (State.watchIs_modWatch hx fun x => x.stored e rest)
        (State.watchIs_modWatch (State.find_modWatch hx fun x => x.stored e rest) fun x => x.completes e.op)
      refine ⟨_, (x.stored e rest).completes e.op, run, forwarded, (Watch.storedFrom_stored x e rest).completes e.op,
        fun _ => Watch.held_completes _ e.op, nofun, fun _ => ⟨rfl, rfl⟩⟩

end

/-! ## The host's acknowledgement (06 R192; 12 R338) -/

/-- The first place of a list that meets a test. -/
theorem find?_zipIdx {α : Type} {l : List α} {p : α × Nat → Bool} {i : Nat} {a : α} (at_ : l[i]? = some a) (here : p (a, i) = true)
    (before : ∀ j b, j < i → l[j]? = some b → p (b, j) = false) : l.zipIdx.find? p = some (a, i) := by
  obtain ⟨hi, rfl⟩ := List.getElem?_eq_some_iff.mp at_
  refine List.find?_eq_some_iff_getElem.mpr ⟨here, i, by simpa using hi, by simp, fun j hj => ?_⟩
  have bound : j < l.length := by omega
  have no := before j l[j] hj (List.getElem?_eq_getElem bound)
  simpa using no

theorem any_take_eq_false {α : Type} {l : List α} {k : Nat} {p : α → Bool} (h : ∀ j b, j < k → l[j]? = some b → p b = false) :
    (l.take k).any p = false := by
  refine List.any_eq_false.mpr fun b hb => ?_
  obtain ⟨j, hj⟩ := List.mem_iff_getElem?.mp hb
  rw [List.getElem?_take] at hj
  split at hj
  next low => rw [h j b low hj]; exact Bool.false_ne_true
  next => cases hj

theorem hostTakesTheBytes {s : State} {w op i : Nat} {h : HostAck} (at_ : s.hostAcks[i]? = some h) (hw : h.w = w) (hop : h.op = op)
    (oldest : ∀ j g, j < i → s.hostAcks[j]? = some g → g.pcn ≠ h.pcn ∧ (g.w ≠ w ∨ g.op ≠ op)) :
    ∃ t, exec (.hostStoreAcknowledgement w op) s = .next t ∧ t = { s with mem := t.mem, hostAcks := s.hostAcks.eraseIdx i } ∧
      (h.sent = false → Spec.Stores s t h.key h.size h.data) ∧ (h.sent = true → t.mem = s.mem) := by
  have alone : ((s.hostAcks.take i).any fun g => g.pcn == h.pcn) = false := by
    refine any_take_eq_false fun j g low there => ?_
    simpa using (oldest j g low there).1
  have first : (s.hostAcks.zipIdx.find? fun p => p.1.w == w && p.1.op == op && !(s.hostAcks.take p.2).any fun g => g.pcn == p.1.pcn) =
      some (h, i) := by
    refine find?_zipIdx at_ (by simp [hw, hop, alone]) fun j g hj hg => ?_
    have other := (oldest j g hj hg).2
    simp only [Bool.and_eq_false_iff, beq_eq_false_iff_ne]
    exact .inl other
  have run : exec (.hostStoreAcknowledgement w op) s = execHostStoreAcknowledgement w op s := rfl
  rw [execHostStoreAcknowledgement, first] at run
  refine ⟨_, run, ?_, fun fresh => stores_of_writeN ?_ ?_, fun sent => ?_⟩
  · cases sent : h.sent <;>
    · simp only [sent]
      rfl
  · simp only [fresh]
    rfl
  · simp only [fresh]
    rfl
  · simp only [sent]
    rfl

/-! ## ACPY and XST (06 R190; 10 R286) -/

section
variable {s : State} {w op k : Nat} {x : Watch} {o : Op} {a : Acc} (at_ : Spec.AtOp s w op x o) (free : x.acqHeld o.seq = false)
  (acc : o.accs[k]? = some a) (new_ : a.got = false)
include at_ free acc new_

theorem exec_acpyWrite (pend : a.pend = false) (kind : o.kind = .acpy) :
    exec (.acpyWrite w op k) s = .next (if s.copyHeld x o a then s
      else if a.size != 0 && (s.hostShut a.key || s.hostShut a.old) then
        ((s.modWatch w fun x => x.modOp op fun o => o.gotAcc k 0).completeOp w op).shutTrap w o a
      else ((s.writeBytes (s.keyNow x.ctx a.dest) ((List.range a.size).map (fun i => s.colByte a.pcn (a.srcKey i)) ++
        List.replicate (32 - a.size) 0)).modWatch w fun x => x.modOp op fun o => o.gotAcc k 0).completeOp w op) := by
  obtain ⟨hx, there, open_⟩ := at_
  have copy : (o.kind == .acpy && !x.acqHeld o.seq) = true := by
    rw [kind, free]
    rfl
  have run : exec (.acpyWrite w op k) s = execAcpyWrite w op k s := rfl
  rw [run, execAcpyWrite, State.onOp_of_find hx there open_, copy]
  simp only [if_true, acc, new_, pend, Bool.false_or]

theorem exec_xstWrite (kind : o.kind = .xst) (unlocked : s.lockHit x.ctx a.pcn 3 (offOf a.addr) a.size true = false)
    (first : ∀ j b, j < k → o.accs[j]? = some b → b.pcn = a.pcn → b.got = true)
    (oldest : ∀ q ∈ x.ops, q.kind = .xst → q.seq < o.seq → ∀ b ∈ q.accs, b.pcn = a.pcn → b.got = true) :
    exec (.xstWrite w op k) s = .next (((s.writeN (s.keyNow x.ctx a) a.size a.data).modWatch w fun x =>
      x.modOp op fun o => o.gotAcc k 0).completeOp w op) := by
  obtain ⟨hx, there, open_⟩ := at_
  have exchange : (o.kind == .xst && !x.acqHeld o.seq) = true := by
    rw [kind, free]
    rfl
  have lowest : ((o.accs.take k).any fun b => !b.got && b.pcn == a.pcn) = false := by
    refine any_take_eq_false fun j b low there => ?_
    by_cases same : b.pcn = a.pcn
    · simp [first j b low there same]
    · simp [same]
  have oldest_ : (x.ops.any fun q => q.kind == .xst && decide (q.seq < o.seq) && q.accs.any fun b => !b.got && b.pcn == a.pcn) = false := by
    rw [List.any_eq_false]
    intro q hq
    simp only [Bool.and_eq_true, beq_iff_eq, decide_eq_true_eq, List.any_eq_true, Bool.not_eq_true', not_and, not_exists, and_imp]
    intro xst older b hb fresh same
    rw [oldest q hq xst older b hb same] at fresh
    cases fresh
  have run : exec (.xstWrite w op k) s = execXstWrite w op k s := rfl
  rw [run, execXstWrite, State.onOp_of_find hx there open_, exchange]
  simp only [if_true, acc, new_, lowest, oldest_, unlocked, Bool.not_false, Bool.and_self, Bool.not_true, Bool.or_self, Bool.false_eq_true, if_false]

end

theorem Watch.completes_modOp_frame (x : Watch) (op : Nat) (f : Op → Op) :
    (x.modOp op f).completes op = { x with ops := ((x.modOp op f).completes op).ops } := by
  rw [Watch.completes_frame]
  rfl

/-- A copy's lane is written as one unit of 32 bytes. -/
theorem memByte_writeBytes_padded {s t : State} {dst n : Nat} (hn : n ≤ 32) (src : Nat → Byte)
    (mem : t.mem = (s.writeBytes dst ((List.range n).map src ++ List.replicate (32 - n) 0)).mem) (epoch : t.epoch = s.epoch) (b : Nat) :
    memByte t.mem t.epoch b = if b < dst ∨ dst + 32 ≤ b then memByte s.mem s.epoch b
      else if b - dst < n then src (b - dst) else 0 := by
  have whole : ((List.range n).map src ++ List.replicate (32 - n) 0).length = 32 := by simp; omega
  rw [mem, epoch, State.writeBytes, memByte_memWrite_eq, whole]
  by_cases outside : b < dst ∨ dst + 32 ≤ b
  · rw [if_pos outside, if_neg (by omega)]
  · rw [if_neg outside, if_pos (by omega)]
    by_cases valid : b - dst < n
    · rw [if_pos valid, List.getElem?_append_left (by simpa using valid), List.getElem?_map, List.getElem?_range valid]
      rfl
    · rw [if_neg valid, List.getElem?_append_right (by simpa using valid), List.getElem?_replicate, if_pos (by simp; omega)]
      rfl

theorem storesReachMemory : Spec.StoresReachMemory := by
  intro s w op k x hx
  refine ⟨fun e rest fifo => storeLeaves hx fifo, fun i h at_ hw hop oldest => hostTakesTheBytes at_ hw hop oldest,
    fun o a at_ free acc new_ pend => ⟨fun kind held => ?held, fun kind may size reach => ?acpy, fun kind unlocked first oldest => ?xst⟩⟩
  case held => rw [exec_acpyWrite at_ free acc new_ pend kind, if_pos held]
  case acpy =>
    have run := exec_acpyWrite at_ free acc new_ pend kind
    have reads : (a.size != 0 && (s.hostShut a.key || s.hostShut a.old)) = false := by
      by_cases none_ : a.size = 0
      · simp [none_]
      · simp [reach none_]
    simp only [may, reads, Bool.false_eq_true, if_false] at run
    refine ⟨_, (x.modOp op fun o => o.gotAcc k 0).completes op, run, ?_, Watch.completes_modOp_frame .., fun b => ?_⟩
    · exact watchIs_trans (State.watchIs_modWatch hx _) (State.watchIs_modWatch (State.find_modWatch hx _) _)
    · exact memByte_writeBytes_padded size (fun i => s.colByte a.pcn (a.srcKey i)) rfl rfl b
  case xst =>
    have done := ((performed_writeN hx (s.keyNow x.ctx a) a.size a.data).modWatch fun x => x.modOp op fun o => o.gotAcc k 0).completeOp op
    exact ⟨_, _, exec_xstWrite at_ free acc new_ kind unlocked first oldest, done.watch, Watch.completes_modOp_frame .., done.stores⟩

end Sys2Proof.Machine

namespace Sys2Proof

open Machine

/-- Settles O38: a load by the fold over its accesses (`State.foldl_returnAcc`), stores, copies and exchanges by their steps. -/
theorem loadsReturnAndStoresReachMemory : Obligations.LoadsReturnAndStoresReachMemory :=
  ⟨loadsReturnTheirSectors, storesReachMemory⟩

end Sys2Proof

namespace Sys2Proof.Machine

/-! ## The new word of an atomic (06 R185, R193) -/

theorem leNat_lt (l : List Byte) : leNat l < 256 ^ l.length := by
  induction l with
  | nil => exact Nat.one_pos
  | cons b l ih =>
    have := b.isLt
    rw [leNat, List.length_cons, Nat.pow_succ]
    omega

theorem State.readN_lt (s : State) (key n : Nat) : s.readN key n < 2 ^ (8 * n) := by
  have := leNat_lt ((List.range n).map fun i => memByte s.mem s.epoch (key + i))
  rwa [List.length_map, List.length_range, ← two_pow_eight_mul] at this

/-- The signed value of a word of n bytes. -/
theorem bmod_word {n v : Nat} (hn : n ≠ 0) (hv : v < 2 ^ (8 * n)) :
    Int.bmod v (2 ^ (8 * n)) = if v < 2 ^ (8 * n) / 2 then (v : Int) else (v : Int) - (2 ^ (8 * n) : Nat) := by
  have even : 2 ^ (8 * n) = 2 * 2 ^ (8 * n - 1) := by rw [← Nat.pow_succ']; congr 1; omega
  generalize 2 ^ (8 * n) = m at even hv ⊢
  have low : (v : Int) % m = v := Int.emod_eq_of_lt (by omega) (by omega)
  have half : ((m : Int) + 1) / 2 = (m / 2 : Nat) := by omega
  rw [Int.bmod, low, half]
  simp only [Int.ofNat_lt]

/-- The order of signed words. -/
theorem signed_lt_iff {n u v : Nat} (hu : u < 2 ^ (8 * n)) (hv : v < 2 ^ (8 * n)) :
    (if u < 2 ^ (8 * n) / 2 then (u : Int) else (u : Int) - (2 ^ (8 * n) : Nat)) <
      (if v < 2 ^ (8 * n) / 2 then (v : Int) else (v : Int) - (2 ^ (8 * n) : Nat)) ↔
    Int.bmod u (2 ^ (8 * n)) < Int.bmod v (2 ^ (8 * n)) := by
  by_cases hn : n = 0
  · subst hn
    obtain rfl : u = v := by omega
    simp
  · rw [bmod_word hn hu, bmod_word hn hv]

theorem atomNew_eq {fn n w x c : Nat} {float : Bool} (hw : w < 2 ^ (8 * n)) (hx : x < 2 ^ (8 * n)) :
    atomNew fn float n w x c = Spec.atomWord fn float n w x c := by
  rcases fn with _ | _ | _ | _ | _ | _ | _ | _ | _ | _ | _ | fn
  case succ.zero => simp only [atomNew, signed_lt_iff hx hw]; rfl
  case succ.succ.zero => simp only [atomNew, signed_lt_iff hw hx]; rfl
  all_goals rfl

/-- The word that a step of an atomic leaves. -/
theorem newValue_eq {s : State} {x : Watch} {o : Op} {i : Nat} {a : Acc} (h : Spec.NextStep s x o i a) :
    o.newValue a (s.readN (s.keyNow x.ctx a) a.size) = Spec.stepWord s x o a := by
  obtain ⟨-, -, -, -, -, -, -, -, data⟩ := h
  rw [Op.newValue, atomNew_eq (s.readN_lt ..) data]
  simp only [Spec.stepWord, Bool.or_eq_true, beq_iff_eq]
  rfl

/-! ## The step of an atomic -/

/-- The operation of a number changes among what a trap holds. -/
def Held.modOp (h : Held) (op : Nat) (f : Op → Op) : Held :=
  { h with replay := h.replay.map fun r => if r.op.id = op then { r with op := f r.op } else r }

theorem Watch.modAny_eq (x : Watch) (op : Nat) (f : Op → Op) : x.modAny op f = { x.modOp op f with held := x.held.map (·.modOp op f) } := rfl

theorem Held.modOp_modOp (h : Held) {op : Nat} {f g : Op → Op} (id : ∀ q, (f q).id = q.id) :
    (h.modOp op f).modOp op g = h.modOp op fun q => g (f q) := by
  refine congrArg (fun l => { h with replay := l }) ?_
  simp only [modOp, List.map_map]
  refine List.map_congr_left fun r _ => ?_
  by_cases here : r.op.id = op
  · simp only [Function.comp_apply, here, if_true, id]
  · simp only [Function.comp_apply, here, if_false]

theorem Held.modOp_of_absent {h : Held} {op : Nat} (absent : ∀ r ∈ h.replay, r.op.id ≠ op) (f : Op → Op) : h.modOp op f = h :=
  congrArg (fun l => { h with replay := l }) ((List.map_congr_left fun r hr => if_neg (absent r hr)).trans (List.map_id' _))

theorem Watch.modAny_modAny (x : Watch) {op : Nat} {f g : Op → Op} (id : ∀ q, (f q).id = q.id) :
    (x.modAny op f).modAny op g = x.modAny op fun q => g (f q) := by
  have ops : modifyFirst (·.id == op) g (modifyFirst (·.id == op) f x.ops) = modifyFirst (·.id == op) (fun q => g (f q)) x.ops :=
    modifyFirst_modifyFirst fun q => by rw [id]
  have held : (x.held.map (·.modOp op f)).map (·.modOp op g) = x.held.map (·.modOp op fun q => g (f q)) := by
    rw [Option.map_map]
    exact congrArg (Option.map · _) (funext fun h => h.modOp_modOp id)
  rw [Watch.modAny_eq, Watch.modAny_eq, Watch.modAny_eq]
  simp only [Watch.modOp, ops, held]

theorem Watch.op_modAny (x : Watch) {op : Nat} {f : Op → Op} (id : ∀ q, (f q).id = q.id) : (x.modAny op f).op op = (x.op op).map f :=
  Watch.op_modOp id

/-- An operation's old values are not written now: it waits for its acknowledgement, or is not in flight. -/
def Watch.oldWaits (y : Watch) (op : Nat) : Bool := match y.op op with
  | some q => q.stamp != 0
  | none => true

/-- The watch after the step of one access of its atomic. -/
def Watch.stepped (y : Watch) (o : Op) (lane old : Nat) : Watch :=
  (if y.oldWaits o.id then y else y.writeOld o lane old).completes o.id

theorem performed_atomStep {s : State} {w : Nat} {x : Watch} (hx : Tbl.find s.watches w = some x) (o : Op) (i : Nat) (a : Acc) :
    ∃ g : Op → Op, (∀ q, (g q).id = q.id) ∧ (dirEntry (s.keyNow x.ctx a) = none → ∀ q, (g q).stamp = q.stamp) ∧
      Performed s (s.atomStep w o i a) w ((x.modAny o.id g).stepped o a.lane (s.readN (s.keyNow x.ctx a) a.size)) (s.keyNow x.ctx a) a.size
        (o.newValue a (s.readN (s.keyNow x.ctx a) a.size)) := by
  generalize hold : s.readN (s.keyNow x.ctx a) a.size = old
  obtain ⟨y, wrote, frame⟩ := performed_performWrite hx o.id (s.keyNow x.ctx a) a.size (o.newValue a old)
  have got := wrote.modWatch fun x => x.modAny o.id fun o => o.gotAcc i old
  obtain ⟨g, id, stamp, hy⟩ : ∃ g : Op → Op, (∀ q, (g q).id = q.id) ∧ (dirEntry (s.keyNow x.ctx a) = none → ∀ q, (g q).stamp = q.stamp) ∧
      y.modAny o.id (fun o => o.gotAcc i old) = x.modAny o.id g := by
    rcases frame with rfl | ⟨insert, m, rfl⟩
    · exact ⟨fun q => q.gotAcc i old, fun _ => rfl, fun _ _ => rfl, rfl⟩
    · exact ⟨fun q => Op.gotAcc { q with stamp := m } i old, fun _ => rfl, fun plain => absurd plain insert, x.modAny_modAny fun _ => rfl⟩
  rw [hy] at got
  refine ⟨g, id, stamp, ?_⟩
  have run : s.atomStep w o i a = (if (x.modAny o.id g).oldWaits o.id then
      (s.performWrite w o.id (s.keyNow x.ctx a) a.size (o.newValue a old)).modWatch w fun x => x.modAny o.id fun o => o.gotAcc i old
      else ((s.performWrite w o.id (s.keyNow x.ctx a) a.size (o.newValue a old)).modWatch w fun x =>
        x.modAny o.id fun o => o.gotAcc i old).modWatch w fun x => x.writeOld o a.lane old).completeOp w o.id := by
    simp only [State.atomStep, State.watch_of_find hx, hold, State.watch_of_find got.watch.1]
    rfl
  rw [run, Watch.stepped]
  split
  · exact got.completeOp o.id
  · exact (got.modWatch fun x => x.writeOld o a.lane old).completeOp o.id

/-- What an atomic's step changes of its watch. -/
def Watch.SteppedFrom (x y : Watch) : Prop := y = { x with s := y.s, v := y.v, ops := y.ops, held := y.held }

theorem Watch.writeOld_frame (y : Watch) (o : Op) (l old : Nat) : y.writeOld o l old = { y with s := (y.writeOld o l old).s, v := (y.writeOld o l old).v } := by
  unfold writeOld
  split
  · rfl
  · split
    · split
      · obtain ⟨v, h⟩ := Watch.putRun_frame [BitVec.ofNat 32 old] y o.d l
        rw [h]
      · rfl
    · rw [Watch.setS_frame]

theorem Watch.SteppedFrom.completes {x y : Watch} (h : x.SteppedFrom y) (op : Nat) : x.SteppedFrom (y.completes op) := by
  unfold SteppedFrom
  rw [Watch.completes_frame]
  generalize (y.completes op).ops = l
  rw [h]

theorem Watch.SteppedFrom.writeOld {x y : Watch} (h : x.SteppedFrom y) (o : Op) (l old : Nat) : x.SteppedFrom (y.writeOld o l old) := by
  unfold SteppedFrom
  rw [Watch.writeOld_frame]
  generalize (y.writeOld o l old).s = r, (y.writeOld o l old).v = v
  rw [h]

theorem Watch.SteppedFrom.stepped {x y : Watch} (h : x.SteppedFrom y) (o : Op) (l old : Nat) : x.SteppedFrom (y.stepped o l old) := by
  unfold Watch.stepped
  split
  · exact h.completes o.id
  · exact (h.writeOld o l old).completes o.id

theorem Watch.steppedFrom_modAny (x : Watch) (op : Nat) (g : Op → Op) : x.SteppedFrom (x.modAny op g) := rfl

theorem Watch.held_writeOld (y : Watch) (o : Op) (l old : Nat) : (y.writeOld o l old).held = y.held := by rw [Watch.writeOld_frame]

theorem Watch.held_stepped (y : Watch) (o : Op) (l old : Nat) : (y.stepped o l old).held = y.held := by
  unfold stepped
  rw [Watch.held_completes]
  split
  · rfl
  · exact Watch.held_writeOld ..

/-- An atomic that is not in flight has its step made alone. -/
theorem Watch.stepped_of_none {y : Watch} {o : Op} (h : y.op o.id = none) (l old : Nat) : y.stepped o l old = y := by
  simp only [stepped, oldWaits, h, if_true, completes]

/-- An atomic without an old value leaves the registers as they are. -/
theorem Watch.regs_stepped_of_nw {o : Op} (h : o.nw = true) (y : Watch) (l old : Nat) : (y.stepped o l old).s = y.s ∧ (y.stepped o l old).v = y.v := by
  have same : y.writeOld o l old = y := if_pos h
  rw [stepped, same, ite_self, Watch.s_completes, Watch.v_completes]
  exact ⟨rfl, rfl⟩

/-- The old value of an atomic in flight is written. -/
theorem Watch.stepped_of_written {y : Watch} {o q : Op} (h : y.op o.id = some q) (stamp : q.stamp = 0) (l old : Nat) :
    y.stepped o l old = (y.writeOld o l old).completes o.id := by
  have writes : (q.stamp != 0) = false := by rw [stamp]; rfl
  simp only [stepped, oldWaits, h, writes, Bool.false_eq_true, if_false]

theorem Watch.writeOld_of_lane {o : Op} (nw : o.nw = false) (lane : o.lane = true) (y : Watch) (l old : Nat) : (y.writeOld o l old).s = y.s ∧
    ∀ n k, k < 64 → rowAt ((y.writeOld o l old).vreg n) k =
      if n = o.d ∧ k = l ∧ o.mask.getLsbD k = true then BitVec.ofNat 32 old else rowAt (y.vreg n) k := by
  have run : y.writeOld o l old = if o.mask.getLsbD l then y.putRun o.d l [BitVec.ofNat 32 old] else y := by
    simp only [writeOld, nw, lane, if_true, Bool.false_eq_true, if_false]
  rw [run]
  split
  next inMask =>
    refine ⟨?_, fun n k hk => ?_⟩
    · obtain ⟨v, h⟩ := Watch.putRun_frame [BitVec.ofNat 32 old] y o.d l
      rw [h]
    · by_cases at_ : k = l
      · subst at_
        rw [Watch.rowAt_putRun_same y o.d hk, List.length_singleton]
        by_cases here : n = o.d
        · subst here
          simp [inMask]
        · have apart : ¬(o.d ≤ n ∧ n - o.d < 1) := by omega
          rw [if_neg apart, if_neg fun h => here h.1]
      · rw [Watch.rowAt_putRun_other y o.d at_, if_neg fun h => at_ h.2.1]
  next outside =>
    refine ⟨rfl, fun n k hk => (if_neg ?_).symm⟩
    rintro ⟨-, rfl, inMask⟩
    exact outside inMask

theorem Watch.writeOld_of_scalar {o : Op} (nw : o.nw = false) (lane : o.lane = false) (hd : o.d < 64) (y : Watch) (l old : Nat) :
    (y.writeOld o l old).v = y.v ∧ ∀ r : Reg, (y.writeOld o l old).sreg r = if r = 0 then 0 else if r.toNat = o.d then BitVec.ofNat 64 old else y.sreg r := by
  have run : y.writeOld o l old = y.setS (BitVec.ofNat 6 o.d) (BitVec.ofNat 64 old) := by
    simp only [writeOld, nw, lane, Bool.false_eq_true, if_false]
  rw [run]
  refine ⟨by rw [Watch.setS_frame], fun r => ?_⟩
  split
  next is0 => rw [is0]; rfl
  next nz => exact Watch.sreg_setS_ofNat y hd _ nz

section
variable {s : State} {w op i : Nat} {x : Watch} {o : Op} {a : Acc}

/-- The first access of an atomic that has not been performed makes its step. -/
theorem exec_atomicPerform (hx : Tbl.find s.watches w = some x) (atom : x.atomOf op = some o) (next_ : Spec.NextStep s x o i a) :
    exec (.atomicPerform w op) s = .next (s.atomStep w o i a) := by
  obtain ⟨live, free, at_, new_, before, pend, atoms, same, -⟩ := next_
  have first : (o.accs.zipIdx.find? fun p => !p.1.got) = some (a, i) :=
    find?_zipIdx at_ (by simp [new_]) fun j b hj hb => by simp [before j b hj hb]
  have opens : s.atomOpen x o a = true := by simp [State.atomOpen, live, free, pend, atoms, same]
  have run : exec (.atomicPerform w op) s = execAtomicPerform w op s := rfl
  rw [run, execAtomicPerform, State.onWatch_of_find hx, atom]
  simp only [first, opens, if_true]

theorem atomicStepsInFlight (next_ : Spec.NextStep s x o i a) (at_ : Spec.AtOp s w op x o) (atom : o.isAtom = true) (free : x.heldBack op = false) :
    let key := s.keyNow x.ctx a
    let old := s.readN key a.size
    ∃ t y, exec (.atomicPerform w op) s = .next t ∧ Spec.WatchIs s t w y ∧ y = { x with s := y.s, v := y.v, ops := y.ops, held := y.held } ∧
      ((∀ h, x.held = some h → ∀ r ∈ h.replay, r.op.id ≠ op) → y.held = x.held) ∧
      Spec.Stores s t key a.size (Spec.stepWord s x o a) ∧
      (o.nw = true → y.s = x.s ∧ y.v = x.v) ∧
      (o.nw = false → o.stamp = 0 → dirEntry key = none →
        (o.lane = true → y.s = x.s ∧ ∀ n l, l < 64 → rowAt (y.vreg n) l =
          if n = o.d ∧ l = a.lane ∧ o.mask.getLsbD l = true then BitVec.ofNat 32 old else rowAt (x.vreg n) l) ∧
        (o.lane = false → o.d < 64 → y.v = x.v ∧ ∀ r : Reg, y.sreg r =
          if r = 0 then 0 else if r.toNat = o.d then BitVec.ofNat 64 old else x.sreg r)) := by
  intro key old
  obtain ⟨hx, there, open_⟩ := at_
  have id := Watch.id_of_op there
  have inFlight_ : x.atomOf op = some o := by simp [Watch.atomOf, there, open_, atom, free]
  obtain ⟨g, keepsId, keepsStamp, done⟩ := performed_atomStep hx o i a
  refine ⟨_, _, exec_atomicPerform hx inFlight_ next_, done.watch, (x.steppedFrom_modAny o.id g).stepped .., fun absent => ?held,
    newValue_eq next_ ▸ done.stores, fun nw => Watch.regs_stepped_of_nw nw .., fun nw stamp plain => ?old⟩
  case held =>
    rw [Watch.held_stepped, Watch.modAny_eq]
    cases hh : x.held with
    | none => rfl
    | some h => exact congrArg some (Held.modOp_of_absent (id ▸ absent h hh) g)
  case old =>
    have marked : (x.modAny o.id g).op o.id = some (g o) := by rw [Watch.op_modAny x keepsId, id, there, Option.map_some]
    rw [Watch.stepped_of_written marked ((keepsStamp plain o).trans stamp)]
    refine ⟨fun lane => ?_, fun lane hd => ?_⟩
    · obtain ⟨scalars, rows⟩ := Watch.writeOld_of_lane nw lane (x.modAny o.id g) a.lane old
      refine ⟨(Watch.s_completes ..).trans scalars, fun n l hl => ?_⟩
      rw [Watch.vreg_completes]
      exact rows n l hl
    · obtain ⟨rows, scalars⟩ := Watch.writeOld_of_scalar nw lane hd (x.modAny o.id g) a.lane old
      refine ⟨(Watch.v_completes ..).trans rows, fun r => ?_⟩
      rw [Watch.sreg_completes]
      exact scalars r

theorem atomicStepsHeld (next_ : Spec.NextStep s x o i a) (hx : Tbl.find s.watches w = some x) (absent : x.op op = none)
    (free : x.freeAtoms.find? (·.id == op) = some o) :
    ∃ t y, exec (.atomicPerform w op) s = .next t ∧ Spec.WatchIs s t w y ∧ y = { x with held := y.held } ∧
      Spec.Stores s t (s.keyNow x.ctx a) a.size (Spec.stepWord s x o a) := by
  have id : o.id = op := eq_of_beq (List.find?_some (p := fun q : Op => q.id == op) free)
  have atom : x.atomOf op = some o := by simp only [Watch.atomOf, absent, free]
  obtain ⟨g, keepsId, -, done⟩ := performed_atomStep hx o i a
  have gone : (x.modAny o.id g).op o.id = none := by rw [Watch.op_modAny x keepsId, id, absent, Option.map_none]
  rw [Watch.stepped_of_none gone] at done
  refine ⟨_, _, exec_atomicPerform hx atom next_, done.watch, ?_, newValue_eq next_ ▸ done.stores⟩
  rw [Watch.modAny_eq, id, Watch.modOp_of_none absent]

end

end Sys2Proof.Machine

namespace Sys2Proof.Machine

/-! ## Ordered adds (06 R186 to R189) -/

theorem fpAdd_rne (a b : Nat) : fpAdd .f32 .rne false a b = roundVal .f32 .rne false (addVal false (decodeVal .f32 a) (decodeVal .f32 b)) := by
  simp [fpAdd, fpResult, flushCode, readVal, isRdn]

theorem State.column_modColumn (s : State) (pcn : Nat) (f : Column → Column) : (s.modColumn pcn f).column pcn = f (s.column pcn) :=
  Tbl.getD_put_same ..

/-- The state once a contribution has been added to its word; SKIP adds none (06 R187). -/
def State.added (s : State) (c : Contrib) : State :=
  if c.kind = 2 then s else s.writeN c.word 4 (fpAdd .f32 .rne false (s.readN c.word 4) c.value.toNat)

/-- A contribution closes its key, unless it is MORE (06 R188). -/
theorem State.fatomApply_eq (s : State) (pcn : Nat) (c : Contrib) : s.fatomApply pcn c = if c.kind = 1 then s.added c
    else (s.added c).modColumn pcn fun k => { k with closed := k.closed ++ [{ launch := c.launch, key := c.key, word := c.word }] } := rfl

theorem State.column_added (s : State) (c : Contrib) (pcn : Nat) : (s.added c).column pcn = s.column pcn := by
  unfold added
  split <;> rfl

/-- A contribution is applied in a state with the memory of `s`. -/
theorem fatomApply_applies {s r : State} (pcn : Nat) (c : Contrib) (mem : r.mem = s.mem) (epoch : r.epoch = s.epoch) :
    (c.kind ≠ 2 → Spec.Stores s (r.fatomApply pcn c) c.word 4
      (roundVal .f32 .rne false (addVal false (decodeVal .f32 (s.readN c.word 4)) (decodeVal .f32 c.value.toNat)))) ∧
    (c.kind = 2 → (r.fatomApply pcn c).mem = s.mem) ∧
    ((r.fatomApply pcn c).column pcn).closed =
      (r.column pcn).closed ++ (if c.kind = 1 then [] else [{ launch := c.launch, key := c.key, word := c.word }]) ∧
    ((r.fatomApply pcn c).column pcn).fatom = (r.column pcn).fatom := by
  have applied : (r.fatomApply pcn c).mem = (r.added c).mem ∧ (r.fatomApply pcn c).epoch = (r.added c).epoch := by
    rw [State.fatomApply_eq]
    split <;> exact ⟨rfl, rfl⟩
  obtain ⟨mem_, epoch_⟩ := applied
  have word : r.readN c.word 4 = s.readN c.word 4 := by rw [State.readN, State.readN, mem, epoch]
  refine ⟨fun adds => ?_, fun skips => ?_, ?_⟩
  · rw [← fpAdd_rne]
    rw [State.added, if_neg adds, word] at mem_ epoch_
    refine stores_of_writeN ?_ (epoch_.trans epoch)
    rw [mem_, State.writeN_mem, State.writeN_mem, mem]
  · rw [mem_, State.added, if_pos skips, mem]
  · rw [State.fatomApply_eq]
    by_cases more : c.kind = 1
    · rw [if_pos more, if_pos more, State.column_added, List.append_nil]
      exact ⟨rfl, rfl⟩
    · rw [if_neg more, if_neg more, State.column_modColumn, State.column_added]
      exact ⟨rfl, rfl⟩

theorem exec_fatomApply {s : State} {pcn k : Nat} {c : Contrib} (at_ : (s.column pcn).fatom[k]? = some c) :
    let r := s.modColumn pcn fun x => { x with fatom := (s.column pcn).fatom.eraseIdx k }
    exec (.fatomApply pcn k) s = .next (if r.fatomReady pcn c ((s.column pcn).fatom.take k) then r.fatomApply pcn c else s) := by
  have run : exec (.fatomApply pcn k) s = execFatomApply pcn k s := rfl
  rw [run, execFatomApply]
  simp only [at_]

/-- The state once the access at `i` of a FATOM's operation has arrived. -/
def State.contributed (s : State) (w op i : Nat) : State := (s.tick.modWatch w fun x => x.modOp op fun o => o.gotAcc i 0).completeOp w op

/-- A contribution that waits in the column's queue, or in the overflow area. -/
def State.queues (s : State) (pcn : Nat) (c : Contrib) : State := s.modColumn pcn fun k => { k with fatom := k.fatom ++ [c] }

/-- Whether a contribution that has to wait finds a place (06 R189). -/
theorem State.fatomRoom_eq (s : State) (cx : Nat) (q : List Contrib) : s.fatomRoom cx q =
    if (q.countP fun k => k.kind != 2 && !k.ovf) < 256 then some false
    else if (q.countP fun k => k.ovf && (s.launch k.launch).ctx == cx) < 4096 then some true else none := by
  simp only [fatomRoom, List.countP_eq_length_filter]

section
variable {s : State} {w op i : Nat} {x : Watch} {o : Op} {a : Acc} (at_ : Spec.AtOp s w op x o) (kind : o.kind = .fatom)
  (free : x.acqHeld o.seq = false) (acc : o.accs[i]? = some a) (new_ : a.got = false)
  (first : ∀ j b, j < i → o.accs[j]? = some b → b.got = true)
include at_ kind free acc new_ first

theorem exec_fatomArrive {c : Contrib} (hc : c =
      { launch := x.launch, key := fatomKey x a.lane, seq := s.seq, word := a.key, kind := o.fn, value := BitVec.ofNat 32 a.data }) :
    exec (.fatomArrive w op) s = .next (
      if a.pend || s.olderSame x Op.beforeLoad o.seq o.lane a then s
      else if s.fatomReady a.pcn c (s.column a.pcn).fatom then (s.contributed w op i).fatomApply a.pcn c
      else if c.kind = 2 then (s.contributed w op i).queues a.pcn { c with ovf := false }
      else match s.fatomRoom x.ctx (s.column a.pcn).fatom with
        | some ovf => (s.contributed w op i).queues a.pcn { c with ovf := ovf }
        | none => if (s.ctx x.ctx).rung.isSome then s else s.escalate w { cause := 0x54, addr := a.addr }) := by
  obtain ⟨hx, there, open_⟩ := at_
  have next_ : (o.accs.zipIdx.find? fun p => !p.1.got) = some (a, i) :=
    find?_zipIdx acc (by simp [new_]) fun j b hj hb => by simp [first j b hj hb]
  have adds : (o.kind == .fatom && !x.acqHeld o.seq) = true := by
    rw [kind, free]
    rfl
  have run : exec (.fatomArrive w op) s = execFatomArrive w op s := rfl
  rw [run, execFatomArrive, State.onOp_of_find hx there open_, adds]
  subst hc
  simp only [if_true, next_] <;> rfl

end

theorem orderedAddsKeepTheirOrder : Spec.OrderedAddsKeepTheirOrder := by
  intro s pcn q applied
  refine ⟨fun k c at_ => ?_, fun w op i x o a at_ kind free acc new_ first home => ?_⟩
  · intro r
    have run := exec_fatomApply at_
    refine ⟨fun early => ?_, fun ready => ?_⟩
    · rw [run]
      exact congrArg _ (if_neg (by simpa using early))
    · obtain ⟨adds, skips, closed, fatom⟩ := fatomApply_applies (s := s) (r := r) pcn c rfl rfl
      have column := s.column_modColumn pcn fun x => { x with fatom := q.eraseIdx k }
      exact ⟨_, run.trans (congrArg _ (if_pos ready)), ⟨adds, skips, by rw [closed, column]⟩, by rw [fatom, column]⟩
  · subst home
    intro c inQueue inArea waits
    have run := exec_fatomArrive (c := c) at_ kind free acc new_ first rfl
    have queued (ovf : Bool) (enters : exec (.fatomArrive w op) s = .next ((s.contributed w op i).queues a.pcn { c with ovf := ovf })) : waits ovf :=
      ⟨_, enters, rfl, congrArg Column.fatom (State.column_modColumn ..)⟩
    refine ⟨fun held => ?held, fun pend older => ⟨fun ready => ?ready, fun early => ?early⟩⟩
    case held => exact run.trans (congrArg _ (if_pos (by simpa using held)))
    case ready =>
      obtain ⟨adds, skips, closed, fatom⟩ := fatomApply_applies (s := s) (r := s.contributed w op i) a.pcn c rfl rfl
      exact ⟨_, run.trans (congrArg _ ((if_neg (by simp [pend, older])).trans (if_pos ready))), ⟨adds, skips, closed⟩, fatom⟩
    case early =>
      have free_ : (a.pend || s.olderSame x Op.beforeLoad o.seq o.lane a) ≠ true := by simp [pend, older]
      have early_ : s.fatomReady a.pcn c q ≠ true := by simp [early]
      rw [if_neg free_, if_neg early_, State.fatomRoom_eq] at run
      refine ⟨fun place => queued false ?_, fun adds full area => queued true ?_, fun adds full none_ => ?_⟩
      · by_cases skip : c.kind = 2
        · rw [run, if_pos skip]
        · rw [run, if_neg skip, if_pos (place.resolve_left skip)]
      · rw [run, if_neg adds, if_neg (Nat.not_lt.mpr full), if_pos area]
      · rw [run, if_neg adds, if_neg (Nat.not_lt.mpr full), if_neg (Nat.not_lt.mpr none_)]

end Sys2Proof.Machine

namespace Sys2Proof

open Machine

/-- Settles O39: a step of an atomic by `performed_atomStep`, an ordered add by `fatomApply_applies`. -/
theorem atomicsAreOneStep : Obligations.AtomicsAreOneStep :=
  ⟨fun _ _ _ _ _ _ _ next_ => ⟨fun at_ => atomicStepsInFlight next_ at_, fun hx => atomicStepsHeld next_ hx⟩, orderedAddsKeepTheirOrder⟩

end Sys2Proof

namespace Sys2Proof.Machine

/-! ## The quarters of an MMA (07 R206, R207) -/

/-- A quarter has a row where one of its eight rows is active on its side of the boundary. -/
theorem any_quarterRows {mask : Mask} {q k : Nat} (hk : k < 2) (hq : q < 8) (p : Nat → Bool) :
    ((List.range 64).any fun l => mask.getLsbD l && decide (l / 8 = (2 * q + k) / 2) && p l) =
      (((List.range 8).filter fun r => mask.getLsbD (8 * q + r)).any fun r => p (8 * q + r)) := by
  rw [Bool.eq_iff_iff]
  simp only [List.any_eq_true, List.mem_filter, List.mem_range, Bool.and_eq_true, decide_eq_true_eq]
  constructor
  · rintro ⟨l, hl, ⟨active, row⟩, side⟩
    have at_ : 8 * q + l % 8 = l := by omega
    exact ⟨l % 8, ⟨by omega, at_.symm ▸ active⟩, at_.symm ▸ side⟩
  · rintro ⟨r, ⟨hr, active⟩, side⟩
    exact ⟨8 * q + r, by omega, ⟨active, by omega⟩, side⟩

/-- The quarters of the rows 8q to 8q + 7, the lower buffer first. -/
def quarterPair (mask : Mask) (rbnd q : Nat) : List Nat :=
  let rows := (List.range 8).filter fun r => mask.getLsbD (8 * q + r)
  (if rows.any fun r => decide (8 * q + r < rbnd) then [2 * q] else []) ++
    if rows.any fun r => decide (rbnd ≤ 8 * q + r) then [2 * q + 1] else []

theorem quartersOf_eq_flatMap (mask : Mask) (rbnd : Nat) : quartersOf mask rbnd = (List.range 8).flatMap (quarterPair mask rbnd) := by
  have from_ (qs l : List Nat) : qs.foldl (fun l q => l ++ quarterPair mask rbnd q) l = l ++ qs.flatMap (quarterPair mask rbnd) := by
    induction qs generalizing l with
    | nil => simp
    | cons q qs ih => rw [List.foldl_cons, ih, List.flatMap_cons, List.append_assoc]
  refine Eq.trans ?_ (from_ (List.range 8) [])
  simp only [quartersOf, quarterPair, List.append_assoc]

theorem quarters_eq (s : State) (o : LaneOps) : quartersOf (s.active o) s.cw.rbnd = Spec.quarters o s := by
  have split_ : List.range 16 = (List.range 8).flatMap fun q => [2 * q + 0, 2 * q + 1] := by decide
  rw [quartersOf_eq_flatMap, Spec.quarters, split_, List.filter_flatMap]
  refine List.flatMap_congr fun q hq => ?_
  have hq := List.mem_range.mp hq
  have low (l : Nat) : (decide (s.cw.rbnd ≤ l) == decide ((2 * q + 0) % 2 = 1)) = decide (l < s.cw.rbnd) := by
    rw [decide_eq_false (show ¬(2 * q + 0) % 2 = 1 by omega), beq_false, ← decide_not, decide_eq_decide.mpr Nat.not_le]
  have high (l : Nat) : (decide (s.cw.rbnd ≤ l) == decide ((2 * q + 1) % 2 = 1)) = decide (s.cw.rbnd ≤ l) := by
    rw [decide_eq_true (show (2 * q + 1) % 2 = 1 by omega), beq_true]
  simp only [List.filter_cons, List.filter_nil]
  rw [any_quarterRows (by decide) hq, any_quarterRows (by decide) hq]
  simp only [low, high, quarterPair]
  split <;> split <;> rfl

/-! ## The slot of the array's queue (07 R207) -/

/-- The executing watch put back changes nothing that an instruction's end leaves. -/
theorem State.noResult_setW_cw (s : State) (o : LaneOps) : (s.setW s.cw).noResult o = s.noResult o := by
  simp only [noResult, laneIssued, modW_eq, chain, active, cw_setW, setW_setW, setW_lane, setW_cur]

theorem State.acceptMat_setW_cw {s : State} (h : s.cw.mat = none) (o : LaneOps) (m : MatOp) :
    (s.setW s.cw).acceptMat o m = s.acceptMat o m := by
  simp only [acceptMat, noResult_setW_cw, active, cw_setW, setW_lane, h]
  rfl

theorem State.acceptMat_of_full {s : State} (h : s.cw.mat.isSome) (o : LaneOps) (m : MatOp) : s.acceptMat o m = s := if_pos h

/-- What the free slot takes. -/
theorem State.acceptMat_of_free {s : State} (h : s.cw.mat = none) (o : LaneOps) (m : MatOp) :
    s.acceptMat o m = Spec.accepted o s (s.noResult o) (if isMma m.instr && m.left.isEmpty then none else some m) := by
  have core : (s.noResult o).cw.core = s.cw.core := by
    rw [noResult, laneStep_laneIssued.2.1]
  have free : ¬s.cw.mat.isSome = true := by simp [h]
  rw [acceptMat, if_neg free, Spec.accepted, ← core]
  generalize s.noResult o = u
  dsimp only
  cases isMma m.instr && m.left.isEmpty <;> rfl

/-- The instruction in the slot performs its atomic by the next operation (07 R215). -/
theorem State.matAtomic_accepted (o : LaneOps) (s u : State) (m : MatOp) (a : Acc) :
    (Spec.accepted o s u (some m)).matAtomic a = Spec.accepted o s u (some { m with acc := some { a with count := u.next } }) := by
  have core (t : State) (c : Nat) (k : Core) (f : Watch → Watch) : (t.setCore c k).modW f = (t.modW f).setCore c k := rfl
  rw [Spec.accepted, State.matAtomic, core, modW_setW]
  rfl

theorem accepts_of_acceptMat {i : Instr} {o : LaneOps} {s : State} {m : MatOp} {taken : Option MatOp} (run : exec i s = .next (s.acceptMat o m))
    (taken_eq : taken = if isMma m.instr && m.left.isEmpty then none else some m) : Spec.Accepts i o s taken := by
  intro free
  obtain ⟨v, p⟩ := State.regs_laneIssued (s := s) (o := o) (latch := none)
  exact ⟨s.noResult o, laneStep_laneIssued, v, p, by rw [run, State.acceptMat_of_free free, taken_eq]⟩

theorem mmaIsAccepted (s : State) (o : LaneOps) : Spec.Accepts (.mma o) o s (if Spec.quarters o s = [] then none else some
    { instr := .mma o, rowsA := Spec.rows s o.a.toNat (blockRegs (shapeA s.cw.mshape) (shapeK s.cw.mshape))
      rowsB := Spec.rows s o.b.toNat (scaleRegs (shapeA s.cw.mshape) (shapeK s.cw.mshape) (shapeGA s.cw.mshape))
      left := Spec.quarters o s }) := by
  refine accepts_of_acceptMat rfl ?_
  simp only [quarters_eq, isMma, Bool.true_and, List.isEmpty_iff]
  rfl

/-! ## TDRN with an atomic (07 R215) -/

/-- The operands of TDRN's slot: the divisors where it has them. -/
def tdrnOp (s : State) (o : LaneOps) : MatOp := { instr := .tdrn o, rowsA := if o.lit.getLsbD 28 then Spec.rows s o.a.toNat 1 else [] }

/-- The atomic of TDRN, which its lowest active lane checks. -/
def tdrnAcc (s : State) (o : LaneOps) (l key : Nat) : Acc :=
  { lane := l, pcn := s.cw.pcnOf l, addr := rowAt (s.cw.vreg (o.b.toNat + 1)) l ++ rowAt (s.cw.vreg o.b.toNat) l, size := 4, key := key }

theorem tdrn_of_plain {s : State} {o : LaneOps} (h : o.lit.getLsbD 26 = false ∨ s.active o = 0) :
    exec (.tdrn o) s = .next (s.acceptMat o (tdrnOp s o)) := by
  have none_ : (if o.lit.getLsbD 26 then (lanesOf (s.active o)).head? else none) = none := by
    rcases h with plain | off
    · rw [plain]
      rfl
    · rw [off]
      exact ite_self _
  have run : exec (.tdrn o) s = execTdrn o s := rfl
  rw [run, execTdrn, none_]
  rfl

theorem tdrn_of_full {s : State} (o : LaneOps) (h : s.cw.mat.isSome) : exec (.tdrn o) s = .next s := by
  have run : exec (.tdrn o) s = execTdrn o s := rfl
  rw [run, execTdrn]
  congr 1
  split
  · exact State.acceptMat_of_full h _ _
  · exact if_pos (by simp [h])

/-- The access of a lane that passes its check and translates. -/
theorem State.laneAccess_of_addressOf {s : State} {r : AReq} {l key : Nat} {ea : Word} (h : Spec.addressOf s r l ea = some (.ok key))
    (keep : Bool) : s.laneAccess r keep { w := s.cw } l ea id =
      { w := s.cw, accs := [{ lane := l, pcn := s.cw.pcnOf l, addr := ea, size := r.size, key := key }] } := by
  unfold Spec.addressOf at h
  rw [laneAccess]
  cases check : s.checkAddr s.cw (s.cw.pcnOf l) { r with lane := some l } ea with
  | some e => simp [check] at h
  | none =>
    cases place : s.placeOf s.cw (s.cw.pcnOf l) { r with lane := some l } ea with
    | ok k host =>
      simp only [check, place, Option.some.injEq, Except.ok.injEq] at h
      simp [h]
    | _ => simp [check, place] at h

theorem tdrn_of_atomic {s : State} {o : LaneOps} {l key : Nat} {rest : List Nat} (atomic : o.lit.getLsbD 26 = true)
    (act : (List.range 64).filter (s.active o).getLsbD = l :: rest) (room : Spec.room s 8) (free : s.cw.mat = none)
    (at_ : Spec.addressOf s { atom := true } l (tdrnAcc s o l key).addr = some (.ok key)) :
    exec (.tdrn o) s = .next (((s.acceptMat o (tdrnOp s o)).matAtomic (tdrnAcc s o l key)).addOp
      { kind := .tdrn, paths := [8], seq := s.lane.seq, lane := true, ent := s.lane.ent, at_ := s.lane.index, mask := oneLane l, nw := true
        size := 2, accs := [tdrnAcc s o l key] }) := by
  have hl : l < 64 := lt_of_mem_act (act ▸ List.mem_cons_self)
  have first : (if o.lit.getLsbD 26 then (lanesOf (s.active o)).head? else none) = some l := by
    rw [atomic, if_pos rfl]
    exact congrArg List.head? act
  have path : s.cw.pathRoom [8] = true := pathRoom_single.mpr room
  have mask : (0 : Mask) ||| oneLane l = oneLane l := BitVec.zero_or
  have run : exec (.tdrn o) s = execTdrn o s := rfl
  rw [run, execTdrn, first]
  have access := State.laneAccess_of_addressOf at_ true
  rw [tdrnAcc, ← row64At_joinRows _ _ hl] at access
  simp only [free, path]
  rw [access]
  simp only [List.head?_cons, State.acceptMat_setW_cw free, State.laneOp, List.foldl_cons, List.foldl_nil, mask, row64At_joinRows _ _ hl]
  rfl

/-- The slot takes TDRN with its atomic, which is in flight. -/
theorem tdrnAtomicIsInFlight {s : State} {o : LaneOps} {l key : Nat} {rest : List Nat} (atomic : o.lit.getLsbD 26 = true)
    (act : (List.range 64).filter (s.active o).getLsbD = l :: rest) (room : Spec.room s 8) (free : s.cw.mat = none)
    (at_ : Spec.addressOf s { atom := true } l (tdrnAcc s o l key).addr = some (.ok key)) :
    exec (.tdrn o) s = .next (Spec.inFlight
      (Spec.accepted o s (s.noResult o) (some { tdrnOp s o with acc := some { tdrnAcc s o l key with count := (s.noResult o).next } }))
      { kind := .tdrn, paths := [8], seq := s.lane.seq, lane := true, ent := s.lane.ent, at_ := s.lane.index, mask := oneLane l, nw := true
        size := 2, accs := [tdrnAcc s o l key] } []) := by
  rw [tdrn_of_atomic atomic act room free at_, State.addOp_eq_inFlight, State.acceptMat_of_free free]
  exact congrArg (fun t => Host.Outcome.next (Spec.inFlight t _ [])) (State.matAtomic_accepted ..)

end Sys2Proof.Machine

namespace Sys2Proof

open Machine

/-- Settles O36: every instruction by what the free slot takes (`State.acceptMat_of_free`), TDRN with an atomic by its own step. -/
theorem matrixInstructionsAreAccepted : Obligations.MatrixInstructionsAreAccepted := by
  intro s o
  refine ⟨mmaIsAccepted s o, accepts_of_acceptMat rfl rfl, accepts_of_acceptMat rfl rfl, accepts_of_acceptMat rfl rfl,
    accepts_of_acceptMat rfl rfl, accepts_of_acceptMat rfl rfl, accepts_of_acceptMat rfl rfl, accepts_of_acceptMat rfl rfl,
    fun plain => accepts_of_acceptMat (tdrn_of_plain plain) rfl, fun l rest key atomic act room free at_ => ?atomic, fun full => ?full⟩
  case atomic =>
    obtain ⟨v, p⟩ := State.regs_laneIssued (s := s) (o := o) (latch := none)
    exact ⟨s.noResult o, oneLane l, laneStep_laneIssued, v, p, fun k hk => getLsbD_oneLane_of_lt hk,
      tdrnAtomicIsInFlight atomic act room free at_⟩
  case full =>
    have stays {i : Instr} {m : MatOp} (run : exec i s = .next (s.acceptMat o m)) : exec i s = .next s := by
      rw [run, State.acceptMat_of_full full]
    simp only [List.forall_mem_cons]
    exact ⟨stays rfl, stays rfl, stays rfl, stays rfl, stays rfl, stays rfl, stays rfl, stays rfl, tdrn_of_full o full, fun _ h => absurd h List.not_mem_nil⟩

end Sys2Proof

namespace Sys2Proof.Machine

/-! # Proofs: the engines of a core (08 R223 to R236, 07 R205, R206) -/

/-! ## Range locks (08 R234, R235) -/

theorem Lock.conflicts_iff {a b : Lock} : a.conflicts b = true ↔
    a.ctx = b.ctx ∧ a.tag = b.tag ∧ a.lo < b.hi ∧ b.lo < a.hi ∧ (a.write = true ∨ b.write = true) := by
  simp only [conflicts, Bool.and_eq_true, Bool.or_eq_true, beq_iff_eq, decide_eq_true_eq, and_assoc]

theorem rangesConflictOverWrites : Spec.RangesConflictOverWrites := by
  intro s l
  simp only [State.locksFree, List.all_eq_true, Bool.and_eq_true, decide_eq_true_eq, Bool.not_eq_true', List.any_eq_false,
    Lock.conflicts_iff]

theorem State.takeLocks_frame (s : State) (l : List (Nat × Lock)) : s.takeLocks l = { s with columns := (s.takeLocks l).columns } := by
  induction l generalizing s with
  | nil => rfl
  | cons p l ih => exact ih (s.modColumn p.1 fun c => { c with locks := c.locks ++ [p.2] })

theorem State.column_modColumn_other (s : State) {c pcn : Nat} (h : c ≠ pcn) (f : Column → Column) :
    (s.modColumn pcn f).column c = s.column c := Tbl.getD_put_other _ _ _ h

/-- The ranges of a command stand behind those that a column held. -/
theorem State.locks_takeLocks (s : State) (l : List (Nat × Lock)) (c : Nat) :
    ((s.takeLocks l).column c).locks = (s.column c).locks ++ (l.filter fun p => p.1 == c).map (·.2) := by
  induction l generalizing s with
  | nil => simp [takeLocks]
  | cons p l ih =>
    rw [show s.takeLocks (p :: l) = (s.modColumn p.1 fun c => { c with locks := c.locks ++ [p.2] }).takeLocks l from rfl, ih]
    by_cases here : p.1 = c
    · subst here
      simp [State.column_modColumn]
    · rw [State.column_modColumn_other s (Ne.symm here)]
      simp [here]

theorem Tbl.find_mapV {α : Type} (t : Tbl α) (f : α → α) (k : Nat) : Tbl.find (Tbl.mapV t f) k = (Tbl.find t k).map f := by
  induction t with
  | nil => rfl
  | cons c t ih =>
    simp only [Tbl.mapV, List.map_cons, Tbl.find]
    split
    · rfl
    · exact ih

theorem State.locks_freeLocks (s : State) (id c : Nat) :
    ((s.freeLocks id).column c).locks = (s.column c).locks.filter fun k => k.owner != id := by
  simp only [freeLocks, column, Tbl.getD, Tbl.find_mapV]
  cases Tbl.find s.columns c <;> rfl

/-! ## The moments at which waiting commands became acceptable (08 R234) -/

theorem ripened_refl (x : Watch) : Spec.Ripened x x := ⟨rfl, rfl⟩

theorem ripened_trans {x y z : Watch} (h : Spec.Ripened x y) (h' : Spec.Ripened y z) : Spec.Ripened x z := by
  obtain ⟨frame, ops⟩ := h
  obtain ⟨frame', ops'⟩ := h'
  exact ⟨by rw [frame', frame], ops'.trans ops⟩

theorem watchesStay_refl {s t : State} (h : t.watches = s.watches) : Spec.WatchesStay s t := fun n => by
  rw [h]
  exact ⟨id, fun x hx => ⟨x, hx, ripened_refl x⟩⟩

theorem watchesStay_trans {s t u : State} (h : Spec.WatchesStay s t) (h' : Spec.WatchesStay t u) : Spec.WatchesStay s u := fun n => by
  refine ⟨fun none_ => (h' n).1 ((h n).1 none_), fun x hx => ?_⟩
  obtain ⟨y, hy, xy⟩ := (h n).2 x hx
  obtain ⟨z, hz, yz⟩ := (h' n).2 y hy
  exact ⟨z, hz, ripened_trans xy yz⟩

/-- One watch has changed, then only moments. -/
theorem watchesTo_of_watchIs {s t u : State} {w : Nat} {y : Watch} (h : Spec.WatchIs s t w y) (h' : Spec.WatchesStay t u) :
    Spec.WatchesTo s u w y :=
  ⟨(h' w).2 y h.1, fun n hn => h.2 n hn ▸ h' n⟩

/-- The watch with the moments of its waiting commands settled. -/
def State.ripenWatch (s : State) (w : Nat) (x : Watch) : Watch :=
  if x.ops.any Op.waitsLocks then { x with ops := x.ops.map fun o => if o.waitsLocks then { o with ripe := s.ripeAt w x o } else o } else x

theorem State.ripened_ripenWatch (s : State) (w : Nat) (x : Watch) : Spec.Ripened x (s.ripenWatch w x) := by
  unfold ripenWatch
  split
  · refine ⟨rfl, ?_⟩
    rw [List.map_map]
    refine List.map_congr_left fun o _ => ?_
    simp only [Function.comp]
    split <;> rfl
  · exact ripened_refl x

theorem State.find_ripen (s : State) (n : Nat) : Tbl.find s.ripen.watches n = (Tbl.find s.watches n).map (s.ripenWatch n) := by
  have at_ (t : Tbl Watch) : Tbl.find (t.map fun x => (x.1, s.ripenWatch x.1 x.2)) n = (Tbl.find t n).map (s.ripenWatch n) := by
    induction t with
    | nil => rfl
    | cons c t ih =>
      simp only [List.map_cons, Tbl.find]
      split
      next here => rw [here]; rfl
      next => exact ih
  exact at_ s.watches

theorem State.watchesStay_ripen (s : State) : Spec.WatchesStay s s.ripen := fun n => by
  rw [State.find_ripen]
  refine ⟨fun none_ => by rw [none_]; rfl, fun x hx => ?_⟩
  exact ⟨_, by rw [hx]; rfl, s.ripened_ripenWatch n x⟩

/-- The registration of ranges leaves memory, the cores and the fresh numbers. -/
theorem State.register_rest (s : State) (l : List (Nat × Lock)) :
    (s.register l).mem = s.mem ∧ (s.register l).cores = s.cores ∧ (s.register l).next = s.next := by
  rw [register, takeLocks_frame]
  exact ⟨rfl, rfl, rfl⟩

theorem State.watchesStay_register (s : State) (l : List (Nat × Lock)) : Spec.WatchesStay s (s.register l) := by
  have taken : (s.ripen.takeLocks l).watches = s.ripen.watches := by rw [takeLocks_frame]
  exact watchesStay_trans s.watchesStay_ripen (watchesStay_trans (watchesStay_refl taken) (State.watchesStay_ripen _))

theorem State.locksTaken_register (s : State) (l : List (Nat × Lock)) : Spec.LocksTaken s (s.register l) l :=
  State.locks_takeLocks s.ripen l

theorem State.watchesStay_unregister (s : State) (id : Nat) : Spec.WatchesStay s (s.unregister id) :=
  watchesStay_trans s.watchesStay_ripen (State.watchesStay_ripen (s.ripen.freeLocks id))

theorem State.locksFreed_unregister (s : State) (id : Nat) : Spec.LocksFreed s (s.unregister id) id :=
  State.locks_freeLocks s.ripen id

/-! ## A command is accepted (08 R223, R234) -/

/-- A command that waits, seen by its engine. -/
theorem State.onCmd_of_waits {s : State} {w op maj : Nat} {x : Watch} {o : Op} (h : Spec.Waits s w op maj x o) (k : Watch → Op → State) :
    s.onCmd maj w op k = k x o := by
  obtain ⟨⟨hx, there, open_⟩, kind, major⟩ := h
  rw [onCmd, State.onOp_of_find hx there open_, kind, major]
  simp

/-- An engine takes a command and registers its ranges. -/
theorem accepted_register {s : State} {w op maj : Nat} {x : Watch} {o : Op} (h : Spec.Waits s w op maj x o) (l : List (Nat × Lock)) :
    Spec.Taken s ((s.accepted w op).register l) w op x ∧ Spec.LocksTaken s ((s.accepted w op).register l) l ∧
      ((s.accepted w op).register l).cores = s.cores := by
  have one : Spec.WatchIs s (s.accepted w op) w (x.finishOp op) := State.watchIs_modWatch h.1.1 fun x => x.finishOp op
  have stay := (s.accepted w op).watchesStay_register l
  have locks := (s.accepted w op).locksTaken_register l
  obtain ⟨mem, cores, next⟩ := (s.accepted w op).register_rest l
  exact ⟨⟨watchesTo_of_watchIs one stay, next, mem⟩, locks, cores⟩

@[simp] theorem State.core_modCore (s : State) (c : Nat) (f : Core → Core) : (s.modCore c f).core c = f (s.core c) :=
  Tbl.getD_put_same ..

/-! ## The signal of an engine (09 R256, R258) -/

section
variable {p e n ef mk : Nat}

theorem objPending_object (hp : p < 2 ^ 32) : objPending (Spec.object p e n ef mk) = p := by
  unfold objPending Spec.object
  omega

theorem objExpected_object (hp : p < 2 ^ 32) (he : e < 2 ^ 32) : objExpected (Spec.object p e n ef mk) = e := by
  unfold objExpected Spec.object
  rw [Nat.shiftRight_eq_div_pow]
  omega

theorem objPhase_object (hp : p < 2 ^ 32) (he : e < 2 ^ 32) (hn : n < 2 ^ 32) : objPhase (Spec.object p e n ef mk) = n := by
  unfold objPhase Spec.object
  rw [Nat.shiftRight_eq_div_pow]
  omega

/-- The object with PENDING and PHASE replaced keeps its other fields. -/
theorem objWith_object (hp : p < 2 ^ 32) (he : e < 2 ^ 32) (hn : n < 2 ^ 32) (q m : Nat) :
    objWith (Spec.object p e n ef mk) q m = Spec.object (q % 2 ^ 32) e (m % 2 ^ 32) ef mk := by
  have high : Spec.object p e n ef mk >>> 96 = ef + 2 ^ 16 * mk := by
    rw [Nat.shiftRight_eq_div_pow]
    unfold Spec.object
    omega
  unfold objWith
  rw [objExpected_object hp he, high, Nat.shiftLeft_eq, Nat.shiftLeft_eq, Nat.shiftLeft_eq]
  generalize q % 2 ^ 32 = q, m % 2 ^ 32 = m
  unfold Spec.object
  omega

/-- EFAIL is set. -/
theorem object_or_efail (hp : p < 2 ^ 32) (he : e < 2 ^ 32) (hn : n < 2 ^ 32) (hf : ef < 2 ^ 16) :
    Spec.object p e n ef mk ||| 1 <<< 96 = Spec.object p e n (ef ||| 1) mk := by
  have low : p + 2 ^ 32 * e + 2 ^ 64 * n < 2 ^ 96 := by omega
  have split_ (f : Nat) (h : f < 2 ^ 16) : Spec.object p e n f mk = (mk <<< 16 ||| f) <<< 96 ||| (p + 2 ^ 32 * e + 2 ^ 64 * n) := by
    rw [← Nat.shiftLeft_add_eq_or_of_lt low, ← Nat.shiftLeft_add_eq_or_of_lt h, Nat.shiftLeft_eq, Nat.shiftLeft_eq]
    unfold Spec.object
    ring
  rw [split_ _ hf, split_ _ (Nat.or_lt_two_pow hf (by decide)), Nat.or_right_comm, ← Nat.shiftLeft_or_distrib, Nat.or_assoc]

/-- One arrival at an object with arrivals pending. -/
theorem objArrive_object (hp : p < 2 ^ 32) (he : e < 2 ^ 32) (hn : n < 2 ^ 32) : objArrive (Spec.object p e n ef mk) 1 =
    if p = 1 then Spec.object e e ((n + 1) % 2 ^ 32) ef mk else Spec.object (p - 1) e n ef mk := by
  rw [objArrive, objPending_object hp, objExpected_object hp he, objPhase_object hp he hn, objWith_object hp he hn, objWith_object hp he hn,
    Nat.mod_eq_of_lt he, Nat.mod_eq_of_lt hn, Nat.mod_eq_of_lt (show p - 1 < 2 ^ 32 by omega)]

end

theorem enginesSignalTheirObject : Spec.EnginesSignalTheirObject := by
  intro s key p e n ef mk fail hp he hn hf _ read f
  refine ⟨rfl, ?_, rfl⟩
  have marked : (if fail then Spec.object p e n ef mk ||| 1 <<< 96 else Spec.object p e n ef mk) = Spec.object p e n f mk := by
    cases fail
    · rfl
    · exact object_or_efail hp he hn hf
  have value : s.engineArrive (some key) fail = s.writeN key 16 (if p = 0 then Spec.object 0 e n f mk
      else if p = 1 then Spec.object e e ((n + 1) % 2 ^ 32) f mk else Spec.object (p - 1) e n f mk) := by
    simp only [State.engineArrive, read, marked, objPending_object hp]
    by_cases none_ : p = 0
    · simp only [none_, if_true]
    · simp only [if_neg none_, objArrive_object hp he hn]
  rw [value]
  exact stores_of_writeN rfl rfl

/-! ## Commands of an engine (08 R223, 07 R205) -/

/-- The one element of its kind changes. -/
theorem mem_modifyFirst {α : Type} {p : α → Bool} {f : α → α} {l : List α} {a : α} (there : a ∈ l) (kind : p a = true)
    (only : ∀ b ∈ l, p b = true → b = a) : f a ∈ modifyFirst p f l := by
  induction l with
  | nil => exact absurd there List.not_mem_nil
  | cons b l ih =>
    obtain ⟨first, only⟩ := List.forall_mem_cons.mp only
    rw [modifyFirst]
    split
    next hb => exact first hb ▸ List.mem_cons_self
    next hb =>
      have rest : a ∈ l := (List.mem_cons.mp there).resolve_left fun same => hb (same ▸ kind)
      exact List.mem_cons_of_mem _ (ih rest only)

/-! ## WLOAD (07 R205, R206) -/

/-- The job of a WLOAD that is accepted, in its place among the array's users (07 R206). -/
def State.wloadJob (s : State) (w : Nat) (x : Watch) (o : Op) : Job := { s.jobOf w x o with ord := (s.core x.core).matNext }

theorem exec_wloadAccept {s : State} {w op : Nat} {x : Watch} {o : Op} (h : Spec.Waits s w op 0x31 x o) :
    exec (.wloadAccept w op) s = .next (if (!s.locksFree (s.wloadJob w x o).wloadLock || s.outranked w x o) = true then s else
      ((s.accepted w op).register (s.wloadJob w x o).wloadLock).modCore x.core fun c => { c with
        wloads := c.wloads ++ [s.wloadJob w x o], matNext := c.matNext + 1 }) := by
  have acceptable : s.acceptable w x o = s.locksFree (s.jobOf w x o).wloadLock := by
    rw [State.acceptable, h.2.2]
    exact (Bool.and_true _).trans (Bool.true_and _)
  have run : exec (.wloadAccept w op) s = execWloadAccept w op s := rfl
  rw [run, execWloadAccept, State.onCmd_of_waits h, acceptable]
  rfl

theorem wloadIsAccepted {s : State} {w op : Nat} {x : Watch} {o : Op} (h : Spec.Waits s w op 0x31 x o)
    (free : s.locksFree (s.wloadJob w x o).wloadLock = true) (first : s.outranked w x o = false) :
    ∃ t, exec (.wloadAccept w op) s = .next t ∧ Spec.Taken s t w op x ∧ Spec.LocksTaken s t (s.wloadJob w x o).wloadLock ∧
      t.core x.core = { s.core x.core with
        wloads := (s.core x.core).wloads ++ [s.wloadJob w x o], matNext := (s.core x.core).matNext + 1 } := by
  obtain ⟨taken, locks, cores⟩ := accepted_register h (s.wloadJob w x o).wloadLock
  have run := exec_wloadAccept h
  rw [free, first, if_neg (by decide)] at run
  refine ⟨_, run, taken, locks, ?_⟩
  rw [State.core_modCore, State.core, State.core, cores]

section
variable {s : State} {core k : Nat} {j : Job} (at_ : (s.core core).wloads[k]? = some j)
  (only : ∀ i ∈ (s.core core).wloads, i.id = j.id → i = j)
include at_

theorem exec_wloadSectorWrite (good : j.fail = 0) : exec (.wloadSectorWrite core k) s = .next (if s.wloadReady core j then
    (s.wloadSector j j.step).modCore core fun c => { c with
      wloads := modifyFirst (·.id == j.id) (fun j => { j with step := j.step + 1 }) c.wloads } else s) := by
  have run : exec (.wloadSectorWrite core k) s = execWloadSectorWrite core k s := rfl
  rw [run, execWloadSectorWrite, at_]
  cases ready : s.wloadReady core j <;> simp [good, ready]

theorem exec_wloadComplete : exec (.wloadComplete core k) s = .next (if j.fail = 0 ∧ j.step < j.cmd.extra[4]?.getD 0 then s else
    ((s.modCore core fun c => { c with wloads := c.wloads.filter (·.id != j.id) }).unregister j.id).engineArrive j.cmd.obj (j.fail != 0)) := by
  have run : exec (.wloadComplete core k) s = execWloadComplete core k s := rfl
  rw [run, execWloadComplete, at_]

include only

/-- A WLOAD writes its next sector, 32 bytes as one unit. -/
theorem wloadSectorIsWritten (good : j.fail = 0) (ready : s.wloadReady core j = true) :
    let v := fun (i : Nat) => j.cmd.extra[i]?.getD 0
    let off := v 2 + 32 * j.step
    let src := s.keyNow j.ctx { pcn := v 1, addr := BitVec.ofNat 64 (v 0) <<< 52 ||| BitVec.ofNat 64 off, key := memKey .plain j.ctx (v 1) off }
    let dst := memKey .wbuf j.ctx (j.core * 2 + v 5) (v 3 + 32 * j.step)
    ∃ t, exec (.wloadSectorWrite core k) s = .next t ∧ t.watches = s.watches ∧ { j with step := j.step + 1 } ∈ (t.core core).wloads ∧
      ∀ b, memByte t.mem t.epoch b = if dst ≤ b ∧ b < dst + 32 then memByte s.mem s.epoch (src + (b - dst)) else memByte s.mem s.epoch b := by
  intro v off src dst
  have run := exec_wloadSectorWrite at_ good
  rw [if_pos ready] at run
  refine ⟨_, run, rfl, ?_, fun b => ?_⟩
  · rw [State.core_modCore]
    exact mem_modifyFirst (List.mem_of_getElem? at_) (beq_self_eq_true _) fun i hi same => only i hi (eq_of_beq same)
  · refine (memByte_memWrite_eq s.mem s.epoch dst ((List.range 32).map fun i => memByte s.mem s.epoch (src + i)) b).trans ?_
    rw [List.length_map, List.length_range]
    split
    next inside =>
      have hi : b - dst < 32 := by omega
      rw [List.getElem?_map, List.getElem?_range hi]
      rfl
    next => rfl

end

theorem wloadsFillTheBuffer : Spec.WloadsFillTheBuffer := by
  refine ⟨fun s w op x o waits => ⟨fun held => ?held, wloadIsAccepted waits⟩, fun s core k j at_ only => ⟨fun good not_ => ?notReady,
    wloadSectorIsWritten at_ only, fun good more => ?goesOn, fun ends => ?ends⟩⟩
  case held =>
    rw [exec_wloadAccept waits, if_pos]
    rcases held with conflict | behind
    · exact Bool.or_eq_true_iff.mpr (.inl (Bool.not_eq_true' _ ▸ conflict))
    · exact Bool.or_eq_true_iff.mpr (.inr behind)
  case notReady =>
    rw [exec_wloadSectorWrite at_ good, not_]
    rfl
  case goesOn => rw [exec_wloadComplete at_, if_pos ⟨good, more⟩]
  case ends =>
    have done : ¬(j.fail = 0 ∧ j.step < j.cmd.extra[4]?.getD 0) := fun h => ends.elim (· h.1) (Nat.not_le.mpr h.2)
    have run := exec_wloadComplete at_
    rw [if_neg done] at run
    refine ⟨_, run, rfl, ?_, State.locksFreed_unregister _ j.id, ?_⟩
    · exact State.watchesStay_unregister (s.modCore core fun c => { c with wloads := c.wloads.filter (·.id != j.id) }) j.id
    · exact congrArg Core.wloads (s.core_modCore core fun c => { c with wloads := c.wloads.filter (·.id != j.id) })

/-! ## TCOPY is accepted and ends (08 R223, R231, R234) -/

theorem acceptable_copy_iff {s : State} {w : Nat} {x : Watch} {o : Op} (major : o.cmd.maj = 0x30) : s.acceptable w x o = true ↔
    (s.core x.core).copies.length < 16 ∧ s.locksFree (s.copyLocks (s.jobOf w x o)) = true ∧
      ∀ p ∈ s.nolkdRanges 0x30 (s.jobOf w x o), ∀ k ∈ (s.column p.1).locks, p.2.conflicts k = false := by
  have room : s.engineRoom x 0x30 = decide ((s.core x.core).copies.length < 16) := rfl
  have locks : s.cmdLocks 0x30 (s.jobOf w x o) = s.copyLocks (s.jobOf w x o) := rfl
  rw [State.acceptable, major, room, locks]
  simp only [Bool.and_eq_true, decide_eq_true_eq, List.all_eq_true, Bool.not_eq_true', List.any_eq_false, Bool.not_eq_true, and_assoc]

section
variable {s : State} {w op : Nat} {x : Watch} {o : Op} (h : Spec.Waits s w op 0x30 x o)
include h

theorem exec_tcopyAccept : exec (.tcopyAccept w op) s = .next (if (!s.acceptable w x o || s.outranked w x o) = true then s else
    ((s.accepted w op).register (s.copyLocks (s.jobOf w x o))).modCore x.core fun c => { c with copies := c.copies ++ [s.jobOf w x o] }) := by
  have run : exec (.tcopyAccept w op) s = execTcopyAccept w op s := rfl
  rw [run, execTcopyAccept, State.onCmd_of_waits h]

theorem tcopyWaits (held : s.acceptable w x o = false ∨ s.outranked w x o = true) : exec (.tcopyAccept w op) s = .next s := by
  rw [exec_tcopyAccept h, if_pos]
  rcases held with early | behind
  · rw [early]
    rfl
  · rw [behind]
    exact Bool.or_true _

theorem tcopyIsAccepted (free : s.acceptable w x o = true) (first : s.outranked w x o = false) :
    ∃ t, exec (.tcopyAccept w op) s = .next t ∧ Spec.Taken s t w op x ∧ Spec.LocksTaken s t (s.copyLocks (s.jobOf w x o)) ∧
      t.core x.core = { s.core x.core with copies := (s.core x.core).copies ++ [s.jobOf w x o] } := by
  obtain ⟨taken, locks, cores⟩ := accepted_register h (s.copyLocks (s.jobOf w x o))
  have run := exec_tcopyAccept h
  rw [free, first, if_neg (by decide)] at run
  refine ⟨_, run, taken, locks, ?_⟩
  rw [State.core_modCore, State.core, State.core, cores]

end

/-- Ranges are freed from what the lock tables held. -/
theorem locksFreed_of_columns {s t u : State} {id : Nat} (h : t.columns = s.columns) (freed : Spec.LocksFreed t u id) :
    Spec.LocksFreed s u id := fun c => by
  rw [freed c, State.column, State.column, h]

/-- The end of a copy: its STAT word is written, and it and its ranges go. -/
def State.copyEnded (s : State) (core : Nat) (j : Job) (stat : Nat) : State :=
  ((s.writeN (s.scratchKey j j.cmd.a + 60) 4 stat).modCore core fun c => { c with copies := c.copies.filter (·.id != j.id) }).unregister j.id

theorem State.copyEnded_spec (s : State) (core : Nat) (j : Job) (stat : Nat) :
    Spec.Stores s (s.copyEnded core j stat) (s.scratchKey j j.cmd.a + 60) 4 stat ∧ Spec.WatchesStay s (s.copyEnded core j stat) ∧
      Spec.LocksFreed s (s.copyEnded core j stat) j.id ∧
      ((s.copyEnded core j stat).core core).copies = (s.core core).copies.filter fun i => i.id != j.id := by
  unfold copyEnded
  generalize written : s.writeN (s.scratchKey j j.cmd.a + 60) 4 stat = t
  have mem : t.mem = (s.writeN (s.scratchKey j j.cmd.a + 60) 4 stat).mem := written ▸ rfl
  have rest : t.epoch = s.epoch ∧ t.watches = s.watches ∧ t.columns = s.columns ∧ t.cores = s.cores := written ▸ ⟨rfl, rfl, rfl, rfl⟩
  obtain ⟨epoch, watches, columns, cores⟩ := rest
  refine ⟨stores_of_writeN mem epoch, ?_, ?_, ?_⟩
  · exact watchesStay_trans (watchesStay_refl (t := t.modCore core _) watches) (State.watchesStay_unregister _ j.id)
  · exact locksFreed_of_columns (t := t.modCore core _) columns (State.locksFreed_unregister _ j.id)
  · have core_ (u : State) : (u.unregister j.id).core core = u.core core := rfl
    rw [core_, State.core_modCore, State.core, State.core, cores]

section
variable {s : State} {core k : Nat} {j : Job} (at_ : (s.core core).copies[k]? = some j)
include at_

theorem exec_tcopyComplete : exec (.tcopyComplete core k) s = .next (if j.fail = 0 ∧ j.step < (sectorsOf (s.moves j)).length then s
    else if s.lockWaits j.id j.ctx (s.jobCol j j.cmd.a) 1 (offOf j.cmd.a + 56) 8 true then s
    else (s.copyEnded core j ((if j.fail = 0 then 1 else j.fail) + 2 ^ 8 * min 0xFFFFFF j.step)).engineArrive j.cmd.obj (j.fail != 0)) := by
  have run : exec (.tcopyComplete core k) s = execTcopyComplete core k s := rfl
  rw [run, execTcopyComplete, at_]
  simp only [Nat.shiftLeft_eq, Nat.mul_comm _ (2 ^ 8)]
  rfl

theorem tcopyEnds (ends : j.fail ≠ 0 ∨ (sectorsOf (s.moves j)).length ≤ j.step) :
    let shut := s.lockWaits j.id j.ctx (s.jobCol j j.cmd.a) 1 (offOf j.cmd.a + 56) 8 true = true
    (shut → exec (.tcopyComplete core k) s = .next s) ∧
    (¬shut → ∃ u : State, exec (.tcopyComplete core k) s = .next (u.engineArrive j.cmd.obj (j.fail != 0)) ∧
      Spec.Stores s u (s.scratchKey j j.cmd.a + 60) 4 ((if j.fail = 0 then 1 else j.fail) + 2 ^ 8 * min 0xFFFFFF j.step) ∧
      Spec.WatchesStay s u ∧ Spec.LocksFreed s u j.id ∧ (u.core core).copies = (s.core core).copies.filter fun i => i.id != j.id) := by
  intro shut
  have done : ¬(j.fail = 0 ∧ j.step < (sectorsOf (s.moves j)).length) := fun h => ends.elim (· h.1) (Nat.not_le.mpr h.2)
  have run := exec_tcopyComplete at_
  rw [if_neg done] at run
  exact ⟨fun held => by rw [run, if_pos held], fun free => ⟨_, run.trans (by rw [if_neg free]), s.copyEnded_spec core j _⟩⟩

end

/-! ## The places of a copy (08 R231, R232; 12 R339) -/

/-- A place asks for the context of its job alone. -/
theorem State.placeKey_congr (s : State) {i j : Job} (h : i.ctx = j.ctx) (p : Pl) (store : Bool) : s.placeKey i p store = s.placeKey j p store := by
  unfold placeKey
  rw [h]

theorem State.firstXres_eq_none {s : State} {j : Job} {store : Bool} {ps : List Pl} :
    s.firstXres j store ps = none ↔ ∀ p ∈ ps, ∃ key h, s.placeKey j p store = .ok key h := by
  rw [firstXres, List.findSome?_eq_none_iff]
  refine forall₂_congr fun p _ => ?_
  cases s.placeKey j p store <;> simp

/-- A place that does not translate: the copy fails with its code. -/
theorem State.engineMiss_fault (s : State) (j : Job) (p : Pl) (c hole xl : Nat) (fail : Nat → State) :
    s.engineMiss j p (.fault c) hole xl fail = fail (if c = 0x12 then hole else xl) := by
  by_cases hole_ : c = 0x12
  · subst hole_
    rfl
  · rw [if_neg hole_]
    unfold engineMiss
    split
    next same => exact absurd (XRes.fault.inj same) hole_
    next same =>
      cases same
      rfl
    next same => cases same
    next other _ => exact absurd rfl (other c)

theorem State.engineMiss_nonres {s : State} {j : Job} (h : ∀ z ∈ s.waits, z.job ≠ j.id) (p : Pl) (hole xl : Nat) (fail : Nat → State) :
    s.engineMiss j p .nonres hole xl fail =
      s.addWait { ctx := j.ctx, pcn := p.pcn, off := p.off, job := j.id, addr := (s.ctx j.ctx).addrOf p.pcn p.off } := by
  have none_ : (s.waits.any (·.job == j.id)) = false := List.any_eq_false.mpr fun z hz => by simpa using h z hz
  rw [engineMiss, none_]
  rfl

/-! ## The source sectors of a copy (08 R232, R236) -/

/-- The sector of a place is read, unless the copy has read it. -/
def State.readSource (s : State) (j : Job) (p : Pl) : Job :=
  if (Tbl.find j.reads p.sectorNo).isSome then j
  else match s.placeKey j p false with
    | .ok key _ => { j with reads := Tbl.put j.reads p.sectorNo (s.colBytes p.pcn (key - p.off % 32) 32) }
    | _ => j

theorem State.readSources_cons (s : State) (j : Job) (p : Pl) (ps : List Pl) :
    s.readSources j (p :: ps) = s.readSources (s.readSource j p) ps := rfl

theorem State.readSource_of_read {s : State} {j : Job} {p : Pl} (h : (Tbl.find j.reads p.sectorNo).isSome) : s.readSource j p = j := if_pos h

theorem State.readSource_of_ok {s : State} {j : Job} {p : Pl} {key : Nat} {host : Bool} (h : Tbl.find j.reads p.sectorNo = none)
    (at_ : s.placeKey j p false = .ok key host) :
    s.readSource j p = { j with reads := Tbl.put j.reads p.sectorNo (s.colBytes p.pcn (key - p.off % 32) 32) } := by
  rw [readSource, h, at_]
  rfl

/-- Reads only add to what was read. -/
theorem State.readSource_keeps_reads (s : State) (j : Job) (p : Pl) : (s.readSource j p).ctx = j.ctx ∧
    ∀ n v, Tbl.find j.reads n = some v → Tbl.find (s.readSource j p).reads n = some v := by
  unfold readSource
  split
  · exact ⟨rfl, fun _ _ => id⟩
  next fresh =>
    split
    · refine ⟨rfl, fun n v hv => ?_⟩
      have other : n ≠ p.sectorNo := fun same => fresh (by rw [← same, hv]; rfl)
      exact (Tbl.find_put_other _ _ other).trans hv
    · exact ⟨rfl, fun _ _ => id⟩

theorem State.ctx_readSources (s : State) (j : Job) (ps : List Pl) : (s.readSources j ps).ctx = j.ctx := by
  induction ps generalizing j with
  | nil => rfl
  | cons p ps ih => exact (ih (s.readSource j p)).trans (s.readSource_keeps_reads j p).1

theorem State.readSources_keeps_reads (s : State) (j : Job) (ps : List Pl) : ∀ n v, Tbl.find j.reads n = some v →
    Tbl.find (s.readSources j ps).reads n = some v := by
  induction ps generalizing j with
  | nil => exact fun _ _ => id
  | cons p ps ih => exact fun n v hv => ih (s.readSource j p) n v ((s.readSource_keeps_reads j p).2 n v hv)

/-- Every source sector is read whole, at the place of one of the list. -/
theorem State.readSources_reads {s : State} {j : Job} {ps : List Pl} (ok : ∀ p ∈ ps, ∃ key h, s.placeKey j p false = .ok key h) {p : Pl}
    (hp : p ∈ ps) (fresh : Tbl.find j.reads p.sectorNo = none) : ∃ q ∈ ps, ∃ key h, q.sectorNo = p.sectorNo ∧
      s.placeKey j q false = .ok key h ∧ Tbl.find (s.readSources j ps).reads p.sectorNo = some (s.colBytes q.pcn (key - q.off % 32) 32) := by
  induction ps generalizing j with
  | nil => exact absurd hp List.not_mem_nil
  | cons q ps ih =>
    obtain ⟨⟨key, host, first⟩, rest⟩ := List.forall_mem_cons.mp ok
    rw [State.readSources_cons]
    by_cases same : q.sectorNo = p.sectorNo
    · refine ⟨q, List.mem_cons_self, key, host, same, first, State.readSources_keeps_reads _ _ _ _ _ ?_⟩
      have fresh' : Tbl.find j.reads q.sectorNo = none := by rw [same, fresh]
      rw [State.readSource_of_ok fresh' first, same]
      exact Tbl.find_put_same ..
    · have there : p ∈ ps := (List.mem_cons.mp hp).resolve_left fun h => same (h ▸ rfl)
      have ctx := (s.readSource_keeps_reads j q).1
      have still : Tbl.find (s.readSource j q).reads p.sectorNo = none := by
        cases read : Tbl.find j.reads q.sectorNo with
        | some v => rw [State.readSource_of_read (by rw [read]; rfl), fresh]
        | none => rw [State.readSource_of_ok read first, Tbl.find_put_other _ _ (Ne.symm same), fresh]
      have places (p : Pl) : s.placeKey (s.readSource j q) p false = s.placeKey j p false := s.placeKey_congr ctx p false
      obtain ⟨z, hz, found⟩ := ih (fun p hp => by rw [places]; exact rest p hp) there still
      exact ⟨z, List.mem_cons_of_mem _ hz, places z ▸ found⟩

/-! ## The destination sectors of a copy (08 R231, R232) -/

/-- The move writes the byte `b`. -/
def Move.At (m : Move) (s : State) (j : Job) (b : Nat) : Prop := ∃ h, s.placeKey j m.dst true = .ok b h

/-- No store that a column has forwarded to the host lies before the write of a byte. -/
def Direct (u : State) (P : Nat → Prop) : Prop := u.hostAcks = [] ∨ ∀ b, P b → isHostKey b = false

theorem State.hostTakes_of_none {u : State} (h : u.hostAcks = []) (pcn : Nat) : u.hostTakes pcn = u := by
  rw [hostTakes, h]
  exact congrArg (fun l => { u with hostAcks := l }) h.symm

theorem State.colWrite_of_direct {u : State} {key : Nat} (h : u.hostAcks = [] ∨ isHostKey key = false) (pcn : Nat) (l : List Byte) :
    u.colWrite pcn key l = u.writeBytes key l := by
  rw [colWrite]
  split
  next host => rw [State.hostTakes_of_none (h.resolve_right (by simp [host]))]
  next => rfl

theorem State.hostTakes_frame (u : State) (pcn : Nat) :
    u.hostTakes pcn = { u with mem := (u.hostTakes pcn).mem, hostAcks := (u.hostTakes pcn).hostAcks } := by
  have from_ (l : List HostAck) : ∃ m : List Host.Cell, l.foldl (fun s h => if h.pcn = pcn ∧ !h.sent then s.writeN h.key h.size h.data else s) u =
      { u with mem := m } := by
    refine List.foldlRecOn l _ (motive := fun t => ∃ m : List Host.Cell, t = { u with mem := m }) ⟨u.mem, rfl⟩ ?_
    rintro _ ⟨m, rfl⟩ h -
    split
    · exact ⟨_, rfl⟩
    · exact ⟨m, rfl⟩
  obtain ⟨m, run⟩ := from_ u.hostAcks
  rw [hostTakes, run]

/-- A write through a column's order point changes memory, and what the host owes. -/
theorem State.colWrite_frame (u : State) (pcn key : Nat) (l : List Byte) :
    ∃ (mem : List Host.Cell) (acks : List HostAck), u.colWrite pcn key l = { u with mem := mem, hostAcks := acks } := by
  unfold colWrite
  split
  · rw [State.hostTakes_frame]
    exact ⟨_, _, rfl⟩
  · exact ⟨_, _, rfl⟩

theorem State.applyMove_frame (s : State) (i : Job) (u : State) (m : Move) :
    ∃ (mem : List Host.Cell) (acks : List HostAck), s.applyMove i u m = { u with mem := mem, hostAcks := acks } := by
  unfold applyMove
  split
  · exact State.colWrite_frame ..
  · exact ⟨_, _, rfl⟩

theorem State.foldl_applyMove_frame (s : State) (i : Job) (u : State) (l : List Move) :
    ∃ (mem : List Host.Cell) (acks : List HostAck), l.foldl (s.applyMove i) u = { u with mem := mem, hostAcks := acks } := by
  refine List.foldlRecOn l _ (motive := fun t => ∃ (mem : List Host.Cell) (acks : List HostAck), t = { u with mem := mem, hostAcks := acks }) ⟨_, _, rfl⟩ ?_
  rintro _ ⟨mem, acks, rfl⟩ m -
  obtain ⟨mem, acks, run⟩ := s.applyMove_frame i { u with mem := mem, hostAcks := acks } m
  exact ⟨mem, acks, run⟩

section
variable {s u : State} {i : Job} {m : Move} {b : Nat}

theorem State.hostAcks_applyMove (direct : Direct u (m.At s i)) : (s.applyMove i u m).hostAcks = u.hostAcks := by
  unfold applyMove
  split
  next key h at_ => rw [State.colWrite_of_direct (direct.imp_right fun all => all key ⟨h, at_⟩), writeBytes_hostAcks]
  next => rfl

/-- A byte that the move does not write. -/
theorem State.memByte_applyMove_other (direct : Direct u (m.At s i)) (not_ : ¬m.At s i b) :
    memByte (s.applyMove i u m).mem (s.applyMove i u m).epoch b = memByte u.mem u.epoch b := by
  unfold applyMove
  split
  next key h at_ =>
    have apart : b ≠ key := fun same => not_ ⟨h, same ▸ at_⟩
    rw [State.colWrite_of_direct (direct.imp_right fun all => all key ⟨h, at_⟩)]
    refine memByte_memWrite_other _ _ _ _ ?_
    rw [leBytes_length]
    omega
  next => rfl

/-- A whole byte that the move writes. -/
theorem State.memByte_applyMove (direct : Direct u (m.At s i)) (at_ : m.At s i b) (dpart : m.dpart = 0) (spart : m.spart = 0) :
    memByte (s.applyMove i u m).mem (s.applyMove i u m).epoch b = BitVec.ofNat 8 ((m.src.map i.byteRead).getD 0) := by
  obtain ⟨h, at_⟩ := at_
  have whole (v w : Nat) : leBytes 1 (withPart v m.dpart w) = [BitVec.ofNat 8 w] := by
    rw [dpart, show withPart v 0 w = w from rfl]
    exact congrArg (fun x => [BitVec.ofNat 8 x]) (Nat.shiftRight_zero)
  rw [applyMove, at_]
  simp only [whole]
  rw [State.colWrite_of_direct (direct.imp_right fun all => all b ⟨h, at_⟩)]
  refine (memByte_memWrite u.mem u.epoch b [BitVec.ofNat 8 _] (i := 0) Nat.zero_lt_one).trans ?_
  rw [spart]
  cases m.src <;> rfl

end

/-- The moves of a sector can be written directly. -/
theorem direct_cons {s u : State} {i : Job} {z : Move} {l : List Move} (direct : Direct u fun b => ∃ m ∈ z :: l, m.At s i b) :
    Direct u (z.At s i) ∧ Direct (s.applyMove i u z) fun b => ∃ m ∈ l, m.At s i b := by
  have first : Direct u (z.At s i) := direct.imp_right fun all b at_ => all b ⟨z, List.mem_cons_self, at_⟩
  refine ⟨first, ?_⟩
  rw [Direct, State.hostAcks_applyMove first]
  exact direct.imp_right fun all b ⟨m, hm, at_⟩ => all b ⟨m, List.mem_cons_of_mem _ hm, at_⟩

/-- A byte that no move of a list writes. -/
theorem State.memByte_foldl_other {s u : State} {i : Job} {l : List Move} {b : Nat} (direct : Direct u fun b => ∃ m ∈ l, m.At s i b)
    (not_ : ∀ m ∈ l, ¬m.At s i b) :
    memByte (l.foldl (s.applyMove i) u).mem (l.foldl (s.applyMove i) u).epoch b = memByte u.mem u.epoch b := by
  induction l generalizing u with
  | nil => rfl
  | cons z l ih =>
    obtain ⟨first, rest⟩ := direct_cons direct
    obtain ⟨here, later⟩ := List.forall_mem_cons.mp not_
    rw [List.foldl_cons, ih rest later, State.memByte_applyMove_other first here]

/-- A byte that one whole move of a list writes. -/
theorem State.memByte_foldl {s u : State} {i : Job} {l : List Move} {m : Move} {b : Nat} (direct : Direct u fun b => ∃ m ∈ l, m.At s i b)
    (there : m ∈ l) (at_ : m.At s i b) (alone : ∀ z ∈ l, z.At s i b → z = m) (dpart : m.dpart = 0) (spart : m.spart = 0) :
    memByte (l.foldl (s.applyMove i) u).mem (l.foldl (s.applyMove i) u).epoch b = BitVec.ofNat 8 ((m.src.map i.byteRead).getD 0) := by
  induction l generalizing u with
  | nil => exact absurd there List.not_mem_nil
  | cons z l ih =>
    obtain ⟨first, rest⟩ := direct_cons direct
    obtain ⟨here, later⟩ := List.forall_mem_cons.mp alone
    rw [List.foldl_cons]
    by_cases again : m ∈ l
    · exact ih rest again later
    · obtain rfl : m = z := (List.mem_cons.mp there).resolve_right again
      rw [State.memByte_foldl_other rest fun z hz at_ => again (later z hz at_ ▸ hz), State.memByte_applyMove first at_ dpart spart]

/-! ## TCOPY_SECTOR_WRITE (08 R231, R232, R235) -/

/-- The moves that write a sector, and their sources that the copy has not read. -/
def State.sectorMoves (s : State) (j : Job) (sec : Nat × Nat × Nat) : List Move := (s.moves j).filter fun m => m.dst.sector == sec
def Job.unread (j : Job) (mine : List Move) : List Pl := (mine.filterMap (·.src)).filter fun p => (Tbl.find j.reads p.sectorNo).isNone

/-- The first place of a sector's moves that does not translate. -/
def State.sectorMiss (s : State) (j : Job) (mine : List Move) : Option (Pl × XRes) :=
  (s.firstXres j false (j.unread mine)).or (s.firstXres j true (mine.map (·.dst)))

/-- A sector's moves are made from what the copy has read, and the copy goes on. -/
def State.sectorWritten (s : State) (core : Nat) (j : Job) (mine : List Move) : State :=
  (mine.foldl (s.applyMove (s.readSources j (j.unread mine))) s).modCopy core j.id fun z =>
    { z with step := z.step + 1, reads := (s.readSources j (j.unread mine)).reads }

/-- Another command's range holds a place of a sector's moves. -/
def State.SectorLocked (s : State) (j : Job) (mine : List Move) : Prop :=
  (∃ p ∈ j.unread mine, s.placeLocked j false p = true) ∨ ∃ m ∈ mine, s.placeLocked j true m.dst = true

theorem State.sectorLocked_iff {s : State} {j : Job} {mine : List Move} : s.SectorLocked j mine ↔
    ((j.unread mine).any (s.placeLocked j false) || (mine.map (·.dst)).any (s.placeLocked j true)) = true := by
  simp only [SectorLocked, Bool.or_eq_true, List.any_eq_true, List.mem_map, exists_exists_and_eq_and]

section
variable {s : State} {core k : Nat} {j : Job} {sec : Nat × Nat × Nat} (at_ : (s.core core).copies[k]? = some j) (good : j.fail = 0)
  (next_ : (sectorsOf (s.moves j))[j.step]? = some sec)
include at_ good next_

theorem tcopySector_of_miss {p : Pl} {r : XRes} (miss : s.sectorMiss j (s.sectorMoves j sec) = some (p, r)) :
    exec (.tcopySectorWrite core k) s = .next (s.engineMiss j p r 2 3 fun c => s.modCopy core j.id fun j => { j with fail := c }) := by
  have run : exec (.tcopySectorWrite core k) s = execTcopySectorWrite core k s := rfl
  rw [run, execTcopySectorWrite, at_]
  simp only [good, next_, if_true]
  unfold State.sectorMiss State.sectorMoves Job.unread at miss
  rw [miss]

theorem tcopySector_of_places (miss : s.sectorMiss j (s.sectorMoves j sec) = none) :
    exec (.tcopySectorWrite core k) s = .next (if ((j.unread (s.sectorMoves j sec)).any (s.placeLocked j false) ||
        ((s.sectorMoves j sec).map (·.dst)).any (s.placeLocked j true)) = true then s
      else s.sectorWritten core j (s.sectorMoves j sec)) := by
  have run : exec (.tcopySectorWrite core k) s = execTcopySectorWrite core k s := rfl
  rw [run, execTcopySectorWrite, at_]
  simp only [good, next_, if_true]
  unfold State.sectorMiss State.sectorMoves Job.unread at miss
  rw [miss]
  rfl

theorem tcopySectorWaits (miss : s.sectorMiss j (s.sectorMoves j sec) = none) (held : s.SectorLocked j (s.sectorMoves j sec)) :
    exec (.tcopySectorWrite core k) s = .next s := by
  rw [tcopySector_of_places at_ good next_ miss, if_pos (State.sectorLocked_iff.mp held)]

/-- The sector that is written, once every place answers and no range is in the way. -/
theorem tcopySectorIsWritten (only : ∀ i ∈ (s.core core).copies, i.id = j.id → i = j) (miss : s.sectorMiss j (s.sectorMoves j sec) = none)
    (free : ¬s.SectorLocked j (s.sectorMoves j sec)) :
    let mine := s.sectorMoves j sec
    let i := s.readSources j (j.unread mine)
    ∃ t, exec (.tcopySectorWrite core k) s = .next t ∧ t.watches = s.watches ∧
      { j with step := j.step + 1, reads := i.reads } ∈ (t.core core).copies ∧
      (s.hostAcks = [] ∨ (∀ m ∈ mine, ∀ b, m.At s j b → isHostKey b = false) →
        (∀ b, (∀ m ∈ mine, ¬m.At s j b) → memByte t.mem t.epoch b = memByte s.mem s.epoch b) ∧
        ∀ m ∈ mine, ∀ b, m.At s j b → (∀ z ∈ mine, z.At s j b → z = m) → m.dpart = 0 → m.spart = 0 →
          memByte t.mem t.epoch b = BitVec.ofNat 8 ((m.src.map i.byteRead).getD 0)) := by
  intro mine i
  have run := tcopySector_of_places at_ good next_ miss
  rw [if_neg (mt State.sectorLocked_iff.mpr free)] at run
  obtain ⟨mem, acks, frame⟩ := s.foldl_applyMove_frame i s mine
  have places (m : Move) (b : Nat) : m.At s i b ↔ m.At s j b := by
    rw [Move.At, s.placeKey_congr (s.ctx_readSources j _)]
    rfl
  refine ⟨_, run, ?_, ?_, fun direct => ?_⟩
  · have watches : (mine.foldl (s.applyMove i) s).watches = s.watches := by rw [frame]
    exact watches
  · have cores : (mine.foldl (s.applyMove i) s).core core = s.core core := by
      rw [frame]
      rfl
    rw [State.sectorWritten, State.modCopy, State.core_modCore, cores]
    exact mem_modifyFirst (p := (·.id == j.id)) (f := fun z => { z with step := z.step + 1, reads := i.reads }) (List.mem_of_getElem? at_) (beq_self_eq_true _)
      fun z hz same => only z hz (eq_of_beq same)
  · have direct' : Direct s fun b => ∃ m ∈ mine, m.At s i b := direct.imp_right fun all b ⟨m, hm, at_⟩ => all m hm b ((places m b).mp at_)
    refine ⟨fun b not_ => ?_, fun m hm b here alone dpart spart => ?_⟩
    · exact State.memByte_foldl_other direct' fun m hm at_ => not_ m hm ((places m b).mp at_)
    · exact State.memByte_foldl direct' hm ((places m b).mpr here) (fun z hz at_ => alone z hz ((places z b).mp at_)) dpart spart

end

/-! ## The moves of a copy (08 R227 to R229) -/

/-- The move with its place not yet put in the order of the destination columns. -/
def Move.bare (m : Move) : Move := { m with dst := { m.dst with pos := 0 } }

/-- The place of a column in the order of the destination columns (08 R232). -/
def Context.moveLcn (c : Context) (p : Nat) : Nat := if c.cols.contains p then c.lcn p else 1023

/-- The table of those places with the column of one move more. -/
def Context.addLcn (c : Context) (t : Tbl Nat) (x : Move) : Tbl Nat :=
  if (Tbl.find t x.dst.pcn).isSome then t else Tbl.put t x.dst.pcn (c.moveLcn x.dst.pcn)

theorem Context.find_addLcn (c : Context) (t : Tbl Nat) (x : Move) (p : Nat) : Tbl.find (c.addLcn t x) p =
    if x.dst.pcn = p then (Tbl.find t p).or (some (c.moveLcn p)) else Tbl.find t p := by
  unfold addLcn
  by_cases here : x.dst.pcn = p
  · rw [if_pos here, here]
    cases found : Tbl.find t p with
    | none => exact Tbl.find_put_same ..
    | some v => exact found
  · rw [if_neg here]
    split
    · rfl
    · exact Tbl.find_put_other _ _ (Ne.symm here)

/-- Every column that a list of moves writes to has its place. -/
theorem State.find_moveLcns (s : State) (c : Context) {l : List Move} {m : Move} (hm : m ∈ l) :
    Tbl.find (s.moveLcns c l) m.dst.pcn = some (c.moveLcn m.dst.pcn) := by
  have from_ (t : Tbl Nat) (p : Nat) (known : Tbl.find t p = none ∨ Tbl.find t p = some (c.moveLcn p))
      (named : Tbl.find t p ≠ none ∨ ∃ m ∈ l, m.dst.pcn = p) : Tbl.find (l.foldl c.addLcn t) p = some (c.moveLcn p) := by
    clear hm
    induction l generalizing t with
    | nil => exact known.resolve_left (named.resolve_right (by simp))
    | cons x l ih =>
      rw [List.foldl_cons]
      have step_ := c.find_addLcn t x p
      by_cases here : x.dst.pcn = p
      · have placed : Tbl.find (c.addLcn t x) p = some (c.moveLcn p) := by
          rw [step_, if_pos here]
          rcases known with fresh | found
          · rw [fresh]; rfl
          · rw [found]; rfl
        exact ih _ (.inr placed) (.inl (by simp [placed]))
      · rw [if_neg here] at step_
        refine ih _ (step_ ▸ known) (named.imp (step_ ▸ ·) fun ⟨m, hm, at_⟩ => ⟨m, (List.mem_cons.mp hm).resolve_left fun h => ?_, at_⟩)
        exact here (h ▸ at_)
  exact from_ [] m.dst.pcn (.inl rfl) (.inr ⟨m, hm, rfl⟩)

/-- The moves of a copy before the order of their columns is found. -/
def Moves.all (m : Moves) : List Move := m.main ++ m.micro ++ m.band ++ m.pad

theorem Move.bare_eq_iff {m x : Move} (h : x.dst.pos = 0) {p : Nat} : m = { x with dst := { x.dst with pos := p } } ↔ m.bare = x ∧ m.dst.pos = p := by
  constructor
  · rintro rfl
    obtain ⟨⟨_, _, _, _⟩, _, _, _⟩ := x
    simp only at h
    subst h
    exact ⟨rfl, rfl⟩
  · rintro ⟨rfl, rfl⟩
    rfl

/-- The moves are those of the forms, each with the place of its destination column. -/
theorem State.mem_moves_iff {s : State} {j : Job} (unplaced : ∀ x ∈ (s.moveParts j).all, x.dst.pos = 0) (m : Move) : m ∈ s.moves j ↔
    m.bare ∈ (s.moveParts j).all ∧
      m.dst.pos = if (s.ctx j.ctx).cols.contains m.dst.pcn then (s.ctx j.ctx).lcn m.dst.pcn else 1023 := by
  have placed : ∀ x ∈ (s.moveParts j).all, Tbl.getD (s.moveLcns (s.ctx j.ctx) (s.moveParts j).all) x.dst.pcn 1023 =
      if (s.ctx j.ctx).cols.contains x.dst.pcn then (s.ctx j.ctx).lcn x.dst.pcn else 1023 := fun x hx => by
    rw [Tbl.getD, s.find_moveLcns _ hx]
    rfl
  have moves : s.moves j = (s.moveParts j).all.map fun x =>
      { x with dst := { x.dst with pos := Tbl.getD (s.moveLcns (s.ctx j.ctx) (s.moveParts j).all) x.dst.pcn 1023 } } := rfl
  rw [moves, List.mem_map]
  constructor
  · rintro ⟨x, hx, same⟩
    obtain ⟨rfl, pos⟩ := (Move.bare_eq_iff (unplaced x hx)).mp same.symm
    exact ⟨hx, pos.trans (placed _ hx)⟩
  · rintro ⟨hx, pos⟩
    exact ⟨m.bare, hx, ((Move.bare_eq_iff (unplaced _ hx)).mpr ⟨rfl, pos.trans (placed _ hx).symm⟩).symm⟩

/-! ## Places (06 R173, 08 R227) -/

theorem Pl.plus_placeAt (a : Word) (pcn x y : Nat) : (placeAt a pcn x).plus y = placeAt a pcn (x + y) := by
  unfold placeAt plus
  simp only [Nat.mod_add_mod, Nat.add_assoc]

theorem rowPlace_plus (d : List Word) (l : List Nat) (col : Nat) (a : Word) (pitch r n : Nat) :
    (rowPlace d l col a pitch r).plus n = Spec.rowOf d l col a pitch r n := by
  unfold rowPlace Spec.rowOf
  simp only
  split
  next h => rw [if_pos h, Pl.plus_placeAt]
  next h => rw [if_neg (by omega), if_pos h, Pl.plus_placeAt]
  next h0 h1 => rw [if_neg h0, if_neg h1, Pl.plus_placeAt]

theorem move_eq_carries (d : List Word) (st : Pl) (sp : Nat) (ca : Pl) (cp : Nat) : move (cdDir d) st sp ca cp = Spec.carries d st sp ca cp := rfl

/-! ## The canonical block (08 R227, R228) -/

theorem isMicro_iff {t : BitVec 4} : isMicro t = true ↔ t = 5 := beq_iff_eq
theorem isFp8_iff {t : BitVec 4} : isFp8 t = true ↔ t = 3 ∨ t = 4 := by simp [isFp8]

section
variable (d : List Word)

/-- The parts of the statement: the groups of a block, its panel of elements, its bytes with the scales, and the bytes it takes. -/
def cdNb : Nat := max 1 (cdKs d / cdG d)
def cdPanel : Nat := cdRows d * cdKs d * tyWidth (cdType d) / 8
def cdSize : Nat := cdPanel d + if cdType d = 5 then cdRows d * cdKs d / 8 + 2 * cdNb d
  else if cdType d = 3 ∨ cdType d = 4 then cdRows d * cdNb d else 0

/-- The bytes of a block's scales, as the model counts them. -/
def scaleBytes : Nat := if isMicro (cdType d) then cdRows d * cdKs d / 8 + 2 * nbOf (cdKs d) (cdG d)
  else if isFp8 (cdType d) then cdRows d * nbOf (cdKs d) (cdG d) else 0

theorem scaleBytes_eq : cdPanel d + scaleBytes d = cdSize d := by
  simp only [scaleBytes, isMicro_iff, isFp8_iff]
  rfl

theorem cdBlock_eq : cdBlock d = (cdSize d + 255) / 256 * 256 := by
  have block : cdBlock d = ceilDiv (cdPanel d + scaleBytes d) 256 * 256 := rfl
  rw [block, scaleBytes_eq]
  rfl

theorem two_dvd_cdKs : 2 ∣ cdKs d := by
  rw [cdKs, Nat.shiftLeft_eq]
  exact Dvd.dvd.mul_right (by decide) _

end

/-! ## The moves of forms 1 and 2 (08 R227 to R229) -/

theorem mem_flatMap_map_range {α : Type} {n k : Nat} {f : Nat → Nat → α} {x : α} :
    x ∈ (List.range n).flatMap (fun r => (List.range k).map (f r)) ↔ ∃ r i, r < n ∧ i < k ∧ x = f r i := by
  simp only [List.mem_flatMap, List.mem_map, List.mem_range, exists_and_left, eq_comm]

theorem Pl.plus_plus (p : Pl) (x y : Nat) : (p.plus x).plus y = p.plus (x + y) := by
  unfold plus
  simp only [Nat.mod_add_mod, Nat.add_assoc]

section
variable (d : List Word) (l : List Nat)

/-- The place of byte x of block b, and the place of byte z of element (r, k) on the storage side. -/
def canonAt (cc b x : Nat) : Pl := placeAt (cdCanon d) cc (b * ((cdSize d + 255) / 256 * 256) + x)
def storedAt (sc r k z : Nat) : Pl :=
  if cdForm d = 1 then Spec.rowOf d l sc (cdStore d) (cdSpitch d) r (k * tyWidth (cdType d) / 8 + z)
  else placeAt (cdStore d) sc (k * cdSpitch d + r * tyWidth (cdType d) / 8 + z)

/-- Where element (r, k) begins on the storage side, as the model finds it. -/
def elemPlace (sc r k : Nat) : Pl :=
  if cdForm d == 1 then (rowPlace d l sc (cdStore d) (cdSpitch d) r).plus (k * tyWidth (cdType d) / 8)
  else placeAt (cdStore d) sc (k * cdSpitch d + r * tyWidth (cdType d) / 8)

theorem elemPlace_eq (sc r k : Nat) : elemPlace d l sc r k = storedAt d l sc r k 0 := by
  unfold elemPlace storedAt
  by_cases row : cdForm d = 1
  · rw [if_pos row, if_pos (beq_iff_eq.mpr row), rowPlace_plus, Nat.add_zero]
  · rw [if_neg row, if_neg (mt beq_iff_eq.mp row), Nat.add_zero]

theorem elemPlace_plus (sc r k z : Nat) : (elemPlace d l sc r k).plus z = storedAt d l sc r k z := by
  unfold elemPlace storedAt
  by_cases row : cdForm d = 1
  · rw [if_pos row, if_pos (beq_iff_eq.mpr row), Pl.plus_plus, rowPlace_plus]
  · rw [if_neg row, if_neg (mt beq_iff_eq.mp row), Pl.plus_placeAt]

/-- The byte of element (r, k) in its canonical block. -/
def elemByte (r k : Nat) : Nat :=
  let y := k % cdKs d * tyWidth (cdType d) / 8
  r / 8 * (8 * cdKs d * tyWidth (cdType d) / 8) + y / 32 * 256 + r % 8 * 32 + y % 32

/-- The half of its byte in which an element of four bits stands. -/
theorem elemHalf_eq (k : Nat) : k % cdKs d * 4 % 8 / 4 = k % 2 := by
  have even : k % cdKs d % 2 = k % 2 := Nat.mod_mod_of_dvd k (two_dvd_cdKs d)
  omega

/-- The moves of element (r, k), as the statement writes them. -/
def ElemMove (sc cc r k : Nat) (m : Move) : Prop :=
  if tyWidth (cdType d) = 4 then
    m = Spec.carries d (storedAt d l sc r k 0) (1 + (if cdForm d = 1 then k else r) % 2) (canonAt d cc (k / cdKs d) (elemByte d r k)) (1 + k % 2)
  else ∃ z, z < tyWidth (cdType d) / 8 ∧
    m = Spec.carries d (storedAt d l sc r k z) 0 (canonAt d cc (k / cdKs d) (elemByte d r k + z)) 0

theorem elemMoves_eq (sc cc r k : Nat) : elemMoves d l sc cc r k =
    let ca := placeAt (cdCanon d) cc (k / cdKs d * cdBlock d + elemByte d r k)
    if tyWidth (cdType d) = 4 then
      [move (cdDir d) (elemPlace d l sc r k) (1 + (if cdForm d == 1 then k else r) % 2) ca (1 + k % cdKs d * tyWidth (cdType d) % 8 / 4)]
    else (List.range (tyWidth (cdType d) / 8)).map fun i => move (cdDir d) ((elemPlace d l sc r k).plus i) 0 (ca.plus i) 0 := rfl

theorem mem_elemMoves_iff (sc cc r k : Nat) (m : Move) : m ∈ elemMoves d l sc cc r k ↔ ElemMove d l sc cc r k m := by
  have canon (z : Nat) : placeAt (cdCanon d) cc (k / cdKs d * cdBlock d + elemByte d r k + z) =
      canonAt d cc (k / cdKs d) (elemByte d r k + z) := by
    rw [cdBlock_eq, Nat.add_assoc]
    rfl
  rw [elemMoves_eq]
  unfold ElemMove
  by_cases half : tyWidth (cdType d) = 4
  · have here := canon 0
    rw [Nat.add_zero, Nat.add_zero] at here
    simp only [half, if_true, List.mem_singleton, move_eq_carries, elemPlace_eq, here, elemHalf_eq, beq_iff_eq]
  · simp only [half, if_false, List.mem_map, List.mem_range, move_eq_carries, elemPlace_plus, Pl.plus_placeAt, canon, eq_comm]

/-- The moves of the micro-scales, of the band scales, of the block scales and of the padding of a block, as the statement writes them. -/
def MicroMove (mc cc b : Nat) (m : Move) : Prop := cdType d = 5 ∧ ∃ r j, r < cdRows d ∧ j < cdKs d / 8 ∧
  m = Spec.carries d (Spec.rowOf d l mc (cdMscl d) (cdMspitch d) r (b * (cdKs d / 8) + j)) 0 (canonAt d cc b (cdPanel d + r * (cdKs d / 8) + j)) 0
def cdGroup (b h : Nat) : Nat := (b * cdKs d + h * min (cdG d) (cdKs d)) / cdG d
def BandMove (bc cc b : Nat) (m : Move) : Prop := cdType d = 5 ∧ ∃ h z, h < cdNb d ∧ z < 2 ∧
  m = Spec.carries d (placeAt (cdBscl d) bc (2 * cdGroup d b h + z)) 0 (canonAt d cc b (cdPanel d + cdRows d * (cdKs d / 8) + 2 * h + z)) 0
def ScaleMove (bc cc b : Nat) (m : Move) : Prop := (cdType d = 3 ∨ cdType d = 4) ∧ ∃ r h, r < cdRows d ∧ h < cdNb d ∧
  m = Spec.carries d (Spec.rowOf d l bc (cdBscl d) (cdBspitch d) r (cdGroup d b h)) 0 (canonAt d cc b (cdPanel d + r * cdNb d + h)) 0
def PadMove (cc b : Nat) (m : Move) : Prop :=
  cdDir d = false ∧ ∃ x, cdSize d ≤ x ∧ x < (cdSize d + 255) / 256 * 256 ∧ m = { dst := canonAt d cc b x }

theorem blockPlace_eq (cc b x : Nat) : blockPlace d cc b x = canonAt d cc b x := by
  rw [blockPlace, cdBlock_eq]
  rfl

theorem mem_microMoves_iff (mc cc b : Nat) (m : Move) : m ∈ microMoves d l mc cc b ↔ MicroMove d l mc cc b m := by
  unfold microMoves MicroMove
  by_cases micro : cdType d = 5
  · simp only [isMicro_iff.mpr micro, Bool.not_true, Bool.false_eq_true, if_false, mem_flatMap_map_range, rowPlace_plus, blockPlace_eq,
      move_eq_carries]
    exact (and_iff_right micro).symm
  · simp only [Bool.eq_false_iff.mpr (mt isMicro_iff.mp micro), Bool.not_false, if_true, List.not_mem_nil, micro, false_and]

theorem mem_bandMoves_iff (bc cc b : Nat) (m : Move) : m ∈ bandMoves d l bc cc b ↔ BandMove d bc cc b m ∨ ScaleMove d l bc cc b m := by
  unfold bandMoves BandMove ScaleMove
  by_cases micro : cdType d = 5
  · have other : ¬(cdType d = 3 ∨ cdType d = 4) := by rw [micro]; decide
    simp only [isMicro_iff.mpr micro, if_true, mem_flatMap_map_range, blockPlace_eq, move_eq_carries]
    rw [and_iff_right micro, or_iff_left fun h => other h.1]
    rfl
  · simp only [Bool.eq_false_iff.mpr (mt isMicro_iff.mp micro), Bool.false_eq_true, if_false]
    rw [or_iff_right fun h => micro h.1]
    by_cases scaled : cdType d = 3 ∨ cdType d = 4
    · simp only [isFp8_iff.mpr scaled, if_true, mem_flatMap_map_range, rowPlace_plus, blockPlace_eq, move_eq_carries]
      exact (and_iff_right scaled).symm
    · simp only [Bool.eq_false_iff.mpr (mt isFp8_iff.mp scaled), Bool.false_eq_true, if_false, List.not_mem_nil, scaled, false_and]

theorem mem_padMoves_iff (cc b : Nat) (m : Move) : m ∈ padMoves d cc b ↔ PadMove d cc b m := by
  have pads : padMoves d cc b = if cdDir d then [] else (List.range (cdBlock d - cdSize d)).map fun i =>
      { dst := canonAt d cc b (cdSize d + i) } := by
    have used : padMoves d cc b = if cdDir d then [] else (List.range (cdBlock d - (cdPanel d + scaleBytes d))).map fun i =>
        { dst := placeAt (cdCanon d) cc (b * cdBlock d + (cdPanel d + scaleBytes d) + i) } := rfl
    rw [used, scaleBytes_eq, cdBlock_eq]
    simp only [Nat.add_assoc]
    rfl
  unfold PadMove
  rw [pads, ← cdBlock_eq]
  cases cdDir d with
  | true => simp
  | false =>
    simp only [Bool.false_eq_true, if_false, List.mem_map, List.mem_range, true_and]
    constructor
    · rintro ⟨i, hi, rfl⟩
      exact ⟨cdSize d + i, by omega, by omega, rfl⟩
    · rintro ⟨x, low, high, rfl⟩
      exact ⟨x - cdSize d, by omega, by rw [Nat.add_sub_cancel' low]⟩

/-- What the statement says that a copy of form 1 or 2 moves, by its parts. -/
theorem carried_iff (sc cc mc bc : Nat) (m : Move) : Spec.Carried d l sc cc mc bc m ↔
    (∃ r k, r < cdRows d ∧ k < cdKlen d ∧ ElemMove d l sc cc r k m) ∨
    ∃ b, b < cdKlen d / cdKs d ∧ (MicroMove d l mc cc b m ∨ BandMove d bc cc b m ∨ ScaleMove d l bc cc b m ∨ PadMove d cc b m) := Iff.rfl

/-- A move of a copy of form 1 or 2 has its place in the columns' order still to come. -/
theorem pos_of_carried {sc cc mc bc : Nat} {m : Move} (h : Spec.Carried d l sc cc mc bc m) : m.dst.pos = 0 := by
  have row (a : Word) (col pitch r n : Nat) : (Spec.rowOf d l col a pitch r n).pos = 0 := by
    unfold Spec.rowOf
    simp only
    split
    · rfl
    · split <;> rfl
  have moved {st ca : Pl} (sp cp : Nat) (hst : st.pos = 0) (hca : ca.pos = 0) : (Spec.carries d st sp ca cp).dst.pos = 0 := by
    unfold Spec.carries
    split
    · exact hst
    · exact hca
  have stored (r k z : Nat) : (storedAt d l sc r k z).pos = 0 := by
    unfold storedAt
    split
    · exact row ..
    · rfl
  rw [carried_iff] at h
  rcases h with ⟨r, k, -, -, elem⟩ | ⟨b, -, ⟨-, r, j, -, -, rfl⟩ | ⟨-, h, z, -, -, rfl⟩ | ⟨-, r, h, -, -, rfl⟩ | ⟨-, x, -, -, rfl⟩⟩
  · unfold ElemMove at elem
    split at elem
    · exact elem ▸ moved _ _ (stored ..) rfl
    · obtain ⟨z, -, rfl⟩ := elem
      exact moved _ _ (stored ..) rfl
  · exact moved _ _ (row ..) rfl
  · exact moved _ _ rfl rfl
  · exact moved _ _ (row ..) rfl
  · rfl

end

/-! ## The moves of each form (08 R227 to R229) -/

section
variable {s : State} {j : Job}

theorem State.moveParts_of_linear (h : cdForm j.cmd.desc = 0) : (s.moveParts j).all = (List.range (cdExtent j.cmd.desc)).map fun i =>
    { dst := placeAt (cdDst j.cmd.desc) (s.jobCol j (cdDst j.cmd.desc)) i
      src := some (placeAt (cdSrc j.cmd.desc) (s.jobCol j (cdSrc j.cmd.desc)) i) } := by
  rw [moveParts]
  simp only [h, Moves.all, List.append_nil]

theorem State.moveParts_of_rows (h : cdForm j.cmd.desc = 3) : (s.moveParts j).all = (List.range (cdRows j.cmd.desc)).flatMap fun r =>
    (List.range (cdKlen j.cmd.desc)).map fun i =>
      { dst := placeAt (cdDst j.cmd.desc) (s.jobCol j (cdDst j.cmd.desc)) (r * cdDpitch j.cmd.desc + i)
        src := some (placeAt (cdSrc j.cmd.desc) (s.jobCol j (cdSrc j.cmd.desc)) (r * cdSpitch j.cmd.desc + i)) } := by
  rw [moveParts]
  simp only [h, Moves.all, List.append_nil]

theorem State.mem_moveParts_of_blocks (h : cdForm j.cmd.desc = 1 ∨ cdForm j.cmd.desc = 2) (m : Move) : m ∈ (s.moveParts j).all ↔
    Spec.Carried j.cmd.desc j.cmd.extra (s.jobCol j (cdStore j.cmd.desc)) (s.jobCol j (cdCanon j.cmd.desc)) (s.jobCol j (cdMscl j.cmd.desc))
      (s.jobCol j (cdBscl j.cmd.desc)) m := by
  have store : (if cdDir j.cmd.desc then s.jobCol j (cdDst j.cmd.desc) else s.jobCol j (cdSrc j.cmd.desc)) = s.jobCol j (cdStore j.cmd.desc) := by
    unfold cdStore
    cases cdDir j.cmd.desc <;> rfl
  have canon : (if cdDir j.cmd.desc then s.jobCol j (cdSrc j.cmd.desc) else s.jobCol j (cdDst j.cmd.desc)) = s.jobCol j (cdCanon j.cmd.desc) := by
    unfold cdCanon
    cases cdDir j.cmd.desc <;> rfl
  have parts : (s.moveParts j).all =
      ((List.range (cdRows j.cmd.desc)).flatMap fun r => (List.range (cdKlen j.cmd.desc)).flatMap fun k =>
        elemMoves j.cmd.desc j.cmd.extra (s.jobCol j (cdStore j.cmd.desc)) (s.jobCol j (cdCanon j.cmd.desc)) r k) ++
      ((List.range (cdKlen j.cmd.desc / cdKs j.cmd.desc)).flatMap fun b =>
        microMoves j.cmd.desc j.cmd.extra (s.jobCol j (cdMscl j.cmd.desc)) (s.jobCol j (cdCanon j.cmd.desc)) b) ++
      ((List.range (cdKlen j.cmd.desc / cdKs j.cmd.desc)).flatMap fun b =>
        bandMoves j.cmd.desc j.cmd.extra (s.jobCol j (cdBscl j.cmd.desc)) (s.jobCol j (cdCanon j.cmd.desc)) b) ++
      (List.range (cdKlen j.cmd.desc / cdKs j.cmd.desc)).flatMap fun b => padMoves j.cmd.desc (s.jobCol j (cdCanon j.cmd.desc)) b := by
    rcases h with row | column
    · simp only [moveParts, row, Moves.all, store, canon]
    · simp only [moveParts, column, Moves.all, store, canon]
  rw [parts, carried_iff]
  simp only [List.mem_append, List.mem_flatMap, List.mem_range, mem_elemMoves_iff, mem_microMoves_iff, mem_bandMoves_iff, mem_padMoves_iff,
    and_or_left, exists_or, exists_and_left, or_assoc]

/-- The column of a move's destination, by its place in the order. -/
def State.Placed (s : State) (j : Job) (m : Move) : Prop :=
  m.dst.pos = if (s.ctx j.ctx).cols.contains m.dst.pcn then (s.ctx j.ctx).lcn m.dst.pcn else 1023

theorem State.mem_moves_of_linear (h : cdForm j.cmd.desc = 0) (m : Move) : m ∈ s.moves j ↔ (∃ i, i < cdExtent j.cmd.desc ∧
    m.bare = { dst := placeAt (cdDst j.cmd.desc) (s.jobCol j (cdDst j.cmd.desc)) i
               src := some (placeAt (cdSrc j.cmd.desc) (s.jobCol j (cdSrc j.cmd.desc)) i) }) ∧ s.Placed j m := by
  rw [State.mem_moves_iff fun x hx => ?unplaced, State.moveParts_of_linear h, List.mem_map]
  · simp only [List.mem_range, eq_comm, Placed]
  case unplaced =>
    rw [State.moveParts_of_linear h, List.mem_map] at hx
    obtain ⟨i, -, rfl⟩ := hx
    rfl

theorem State.mem_moves_of_rows (h : cdForm j.cmd.desc = 3) (m : Move) : m ∈ s.moves j ↔
    (∃ r i, r < cdRows j.cmd.desc ∧ i < cdKlen j.cmd.desc ∧
      m.bare = { dst := placeAt (cdDst j.cmd.desc) (s.jobCol j (cdDst j.cmd.desc)) (r * cdDpitch j.cmd.desc + i)
                 src := some (placeAt (cdSrc j.cmd.desc) (s.jobCol j (cdSrc j.cmd.desc)) (r * cdSpitch j.cmd.desc + i)) }) ∧ s.Placed j m := by
  rw [State.mem_moves_iff fun x hx => ?unplaced, State.moveParts_of_rows h, mem_flatMap_map_range]
  · rfl
  case unplaced =>
    rw [State.moveParts_of_rows h, mem_flatMap_map_range] at hx
    obtain ⟨r, i, -, -, rfl⟩ := hx
    rfl

theorem State.mem_moves_of_blocks (h : cdForm j.cmd.desc = 1 ∨ cdForm j.cmd.desc = 2) (m : Move) : m ∈ s.moves j ↔
    Spec.Carried j.cmd.desc j.cmd.extra (s.jobCol j (cdStore j.cmd.desc)) (s.jobCol j (cdCanon j.cmd.desc)) (s.jobCol j (cdMscl j.cmd.desc))
      (s.jobCol j (cdBscl j.cmd.desc)) m.bare ∧ s.Placed j m := by
  rw [State.mem_moves_iff fun x hx => pos_of_carried _ _ ((State.mem_moveParts_of_blocks h x).mp hx), State.mem_moveParts_of_blocks h]
  rfl

end

theorem copiesMoveTheirBytes : Spec.CopiesMoveTheirBytes := by
  refine ⟨fun s w op x o waits => ⟨fun held => ?held, fun room locks clear first => ?taken⟩,
    fun s j m => ⟨(State.mem_moves_of_linear · m), (State.mem_moves_of_rows · m), (State.mem_moves_of_blocks · m)⟩,
    fun s core k j at_ only => ⟨fun sec good next_ => ⟨s.readSources_keeps_reads j _, fun none_ p hp => ?reads,
      tcopySectorWaits at_ good next_, fun none_ free => ?writes, fun p c miss => ?fails, fun p miss fresh => ?waits⟩,
      fun good more => ?goesOn, tcopyEnds at_⟩⟩
  case held =>
    have ready := acceptable_copy_iff (s := s) (w := w) (x := x) waits.2.2
    refine tcopyWaits waits ?_
    rcases held with full | conflict | shut | behind
    · exact .inl (Bool.eq_false_iff.mpr fun h => Nat.not_lt.mpr full (ready.mp h).1)
    · exact .inl (Bool.eq_false_iff.mpr fun h => Bool.false_ne_true (conflict.symm.trans (ready.mp h).2.1))
    · exact .inl (Bool.eq_false_iff.mpr fun h => shut (ready.mp h).2.2)
    · exact .inr behind
  case taken => exact tcopyIsAccepted waits ((acceptable_copy_iff waits.2.2).mpr ⟨room, locks, clear⟩) first
  case reads =>
    have ok := State.firstXres_eq_none.mp (Option.or_eq_none_iff.mp none_).1
    exact State.readSources_reads ok hp (Option.isNone_iff_eq_none.mp (List.mem_filter.mp hp).2)
  case writes =>
    obtain ⟨t, run, watches, job, bytes⟩ := tcopySectorIsWritten at_ good next_ only none_ free
    exact ⟨t, run, watches, job, fun direct => ⟨(bytes direct).1, fun m hm b here alone dpart spart _ =>
      (bytes direct).2 m hm b here alone dpart spart⟩⟩
  case fails => rw [tcopySector_of_miss at_ good next_ miss, State.engineMiss_fault]
  case waits => rw [tcopySector_of_miss at_ good next_ miss, State.engineMiss_nonres fresh]
  case goesOn => rw [exec_tcopyComplete at_, if_pos ⟨good, more⟩]

end Sys2Proof.Machine

namespace Sys2Proof

open Machine

/-- Settles O48: the lock tables and the signal by their fields, copies by the fold over a sector's moves (`State.memByte_foldl`) and by which
moves a copy makes (`State.mem_moves_iff`), weight loads by their steps. -/
theorem enginesMoveBytes : Obligations.EnginesMoveBytes :=
  ⟨rangesConflictOverWrites, enginesSignalTheirObject, copiesMoveTheirBytes, wloadsFillTheBuffer⟩

end Sys2Proof

/-! # Proofs: the staging slot table, engine commands as a watch issues them, and streams (08; 07 R205) -/

namespace Sys2Proof.Machine

/-! ## Instructions that a pair does not run, and results beside a change of the device -/

section
variable {s : State} (k : State)

/-- 09 R274: a pair runs none of the instructions that ask for no pair. -/
theorem State.unpaired_of_pair (h : s.cw.pair ≠ none) : s.unpaired k = s.trap { cause := 0x29 } :=
  if_pos (Option.isSome_iff_ne_none.mpr h)

theorem State.unpaired_of_single (h : s.cw.pair = none) : s.unpaired k = k := if_neg (by simp [h])

end

/-- An instruction that changes the device to `r`, writes S[d] there, and ends. -/
theorem writesIn_of_finish {i : Instr} {s r : State} {d : Reg} {v : Word} (hv : s.frag.valid = true) (hc : (encodeControl i).isSome)
    (ent : r.ent = s.ent) (run : exec i s = .next ((r.setS d v).finish i)) : Spec.WritesIn i s r d v := by
  rw [State.setS_eq, State.finish_setW, ent] at run
  refine ⟨_, run, ?_, ?_, fun n hn => ?_, advances_of hc (valid_lt hv) (Watch.setS_split ..)⟩
  · rw [SameButSregs, Watch.setEntry_frame, Watch.setS_frame]
  · rw [Watch.sreg_setEntry, Watch.sreg_setS_same]
  · rw [Watch.sreg_setEntry, Watch.sreg_setS_other _ _ hn]

/-! ## The staging slot table (08 R242 to R244) -/

theorem State.slotTable_eq (s : State) : s.slotTable = Spec.slotsOf s := rfl

theorem State.cw_setSlots (s : State) (t : SlotTable) : (s.setSlots t).cw = s.cw := rfl

@[simp] theorem State.slotsOf_setSlots (s : State) (t : SlotTable) : Spec.slotsOf (s.setSlots t) = t := by
  rw [Spec.slotsOf, cw_setSlots, setSlots, core_modCore]
  exact Tbl.getD_put_same ..

theorem State.core_setSlots_other (s : State) (t : SlotTable) {c : Nat} (h : c ≠ s.cw.core) : (s.setSlots t).core c = s.core c :=
  Tbl.getD_put_other _ _ _ h

/-- A slot operation outside a pair: it leaves the table `u` and answers in S[d]. -/
theorem slotsAnswer_of_finish {i : Instr} {s : State} {u : SlotTable} {d : Reg} {v : Word} (hv : s.frag.valid = true)
    (hc : (encodeControl i).isSome) (single : s.cw.pair = none)
    (run : exec i s = .next (s.unpaired (((s.setSlots u).setS d v).finish i))) : Spec.SlotsAnswer i s u d v := by
  rw [State.unpaired_of_single _ single] at run
  exact ⟨s.setSlots u, writesIn_of_finish hv hc rfl run, s.slotsOf_setSlots u, rfl, rfl, fun _ hc => s.core_setSlots_other u hc⟩

theorem slotWord_eq (n : Nat) (hit : Bool) (count : BitVec 16) : slotWord n hit count = Spec.slotResult n hit count := by
  rw [slotWord, Spec.slotResult, Nat.shiftLeft_eq, Nat.mul_comm]

theorem satInc_eq (c : BitVec 16) : satInc c = BitVec.ofNat 16 (min (c.toNat + 1) 0xFFFF) := by
  unfold satInc
  split
  next top => rw [top]; rfl
  next below =>
    have : c.toNat ≠ 0xFFFF := fun h => below (BitVec.eq_of_toNat_eq h)
    apply BitVec.eq_of_toNat_eq
    have one : (1 : BitVec 16).toNat = 1 := rfl
    rw [BitVec.toNat_add, one, BitVec.toNat_ofNat]
    omega

section
variable (t : SlotTable)

@[simp] theorem SlotTable.getElem_mapSlots (f : Nat → StageSlot → StageSlot) (i : Fin 8) : (t.mapSlots f).slots[i] = f i t.slots[i] := by
  simp [mapSlots]

theorem SlotTable.slot_fin (i : Fin 8) : t.slot i = t.slots[i] := by
  simp [slot]

/-- Two tables with the same slots, period and age. -/
theorem SlotTable.ext_slots {t u : SlotTable} (slots : ∀ i : Fin 8, t.slots[i] = u.slots[i]) (period : t.period = u.period) (age : t.age = u.age) :
    t = u := by
  obtain ⟨ts, tp, ta⟩ := t
  obtain ⟨us, up, ua⟩ := u
  obtain rfl : ts = us := Vector.ext fun i hi => slots ⟨i, hi⟩
  cases period
  cases age
  rfl

/-- The ageing of 08 R244 halves every count. -/
theorem SlotTable.aged_eq : t.aged = Spec.aged t := by
  have halves (x : StageSlot) : x.count >>> 1 = BitVec.ofNat 16 (x.count.toNat / 2) := by
    apply BitVec.eq_of_toNat_eq
    have := x.count.isLt
    simp only [BitVec.toNat_ushiftRight, Nat.shiftRight_eq_div_pow, BitVec.toNat_ofNat]
    omega
  unfold aged Spec.aged
  refine if_congr Iff.rfl (ext_slots (fun i => ?_) rfl rfl) rfl
  simp [mapSlots, halves]

/-- Counting one slot's use. -/
theorem SlotTable.mapSlots_count (i : Fin 8) :
    (t.mapSlots fun k x => if k = i then { x with count := satInc x.count } else x) =
      { t with slots := t.slots.set i { t.slots[i] with count := BitVec.ofNat 16 (min (t.slots[i].count.toNat + 1) 0xFFFF) } } := by
  refine ext_slots (fun k => ?_) rfl rfl
  rw [getElem_mapSlots]
  by_cases h : k = i
  · subst h
    simp [satInc_eq]
  · have apart : i.val ≠ k.val := fun e => h (Fin.ext e.symm)
    simp [apart, apart.symm]

/-- What the lookup asks of a slot. -/
def SlotTable.Holds (key : BitVec 48) (i : Fin 8) : Prop := t.slots[i].valid = true ∧ t.slots[i].key = key

theorem SlotTable.lookup_of_none {key : BitVec 48} (h : ∀ i, ¬t.Holds key i) : t.lookup key = none := by
  rw [lookup, List.find?_range_eq_none]
  intro i hi
  have := h ⟨i, hi⟩
  simpa [Holds, hi, imp_iff_not_or] using this

theorem SlotTable.lookup_of_first {key : BitVec 48} {i : Fin 8} (h : t.Holds key i) (first : ∀ k, k < i → ¬t.Holds key k) :
    t.lookup key = some i.val := by
  rw [lookup, List.find?_range_eq_some]
  refine ⟨?_, List.mem_range.mpr i.isLt, fun k hk => ?_⟩
  · simpa [Holds] using h
  · have low : k < 8 := hk.trans i.isLt
    have := first ⟨k, low⟩ hk
    simpa [Holds, low, imp_iff_not_or] using this

end

/-- The first of the numbers up to n at which f is least. -/
def firstLeast (f : Nat → Nat) (n : Nat) : Nat := (List.range (n + 1)).foldl (fun b i => if f i < f b then i else b) 0

theorem firstLeast_zero (f : Nat → Nat) : firstLeast f 0 = 0 := ite_self ..

theorem firstLeast_succ (f : Nat → Nat) (n : Nat) :
    firstLeast f (n + 1) = if f (n + 1) < f (firstLeast f n) then n + 1 else firstLeast f n := by
  rw [firstLeast, List.range_succ, List.foldl_append]
  rfl

theorem firstLeast_le (f : Nat → Nat) : ∀ n, firstLeast f n ≤ n
  | 0 => (firstLeast_zero f).le
  | n + 1 => by
    rw [firstLeast_succ]
    split
    · exact le_rfl
    · exact (firstLeast_le f n).trans n.le_succ

theorem firstLeast_eq {f : Nat → Nat} {n i : Nat} (hi : i ≤ n) (least : ∀ k, k ≤ n → f i ≤ f k) (first : ∀ k, k < i → f i < f k) :
    firstLeast f n = i := by
  induction n generalizing i with
  | zero => rw [firstLeast_zero, Nat.le_zero.mp hi]
  | succ n ih =>
    rw [firstLeast_succ]
    rcases Nat.le_succ_iff.mp hi with low | rfl
    · rw [ih low (fun k hk => least k (hk.trans n.le_succ)) first, if_neg (Nat.not_lt.mpr (least _ le_rfl))]
    · exact if_pos (first _ (Nat.lt_succ_of_le (firstLeast_le f n)))

/-- The victim of 08 R243 is the first slot with the lowest count. -/
theorem SlotTable.victim_of_least (t : SlotTable) {i : Fin 8} (least : ∀ k : Fin 8, t.slots[i].count.toNat ≤ t.slots[k].count.toNat)
    (first : ∀ k : Fin 8, k < i → t.slots[i].count.toNat < t.slots[k].count.toNat) : t.victim = i.val := by
  have scan : t.victim = firstLeast (fun k => (t.slot k).count.toNat) 7 := rfl
  rw [scan]
  refine firstLeast_eq (Nat.le_of_lt_succ i.isLt) (fun k hk => ?_) fun k hk => ?_
  · rw [t.slot_fin, t.slot_fin ⟨k, Nat.lt_succ_of_le hk⟩]
    exact least _
  · rw [t.slot_fin, t.slot_fin ⟨k, hk.trans i.isLt⟩]
    exact first _ hk

/-- The table after SLOT.FILL of slot n with a key (08 R243). -/
def SlotTable.filled (t : SlotTable) (key : BitVec 48) (n : Nat) : SlotTable := t.mapSlots fun i x =>
  if i = n then { key := key, valid := true, count := 1 } else if x.valid ∧ x.key = key then { x with valid := false, count := 0 } else x

/-- The table after SLOT.CLR with an operand (08 R243). -/
def SlotTable.cleared (t : SlotTable) (v : Word) : SlotTable :=
  let u := t.mapSlots fun i x => if v.getLsbD i then { x with valid := false, count := 0 } else x
  if v.getLsbD 8 then { u with period := v.extractLsb' 16 16, age := 0 } else u

theorem SlotTable.cleared_fields (t : SlotTable) (v : Word) :
    (∀ i : Fin 8, (t.cleared v).slots[i] = if v.getLsbD i = true then { t.slots[i] with valid := false, count := 0 } else t.slots[i]) ∧
      (t.cleared v).period = (if v.getLsbD 8 then BitVec.ofNat 16 (v.toNat / 2 ^ 16) else t.period) ∧
      (t.cleared v).age = if v.getLsbD 8 then 0 else t.age := by
  have period : v.extractLsb' 16 16 = BitVec.ofNat 16 (v.toNat / 2 ^ 16) := by
    rw [BitVec.extractLsb', Nat.shiftRight_eq_div_pow]
  have slots : (t.cleared v).slots = (t.mapSlots fun i x => if v.getLsbD i then { x with valid := false, count := 0 } else x).slots := by
    unfold cleared
    split <;> rfl
  refine ⟨fun i => by rw [slots, getElem_mapSlots], ?_, ?_⟩
  · rw [← period]
    exact apply_ite SlotTable.period ..
  · exact apply_ite SlotTable.age ..

section
variable {s : State} {d a : Reg} (hv : s.frag.valid = true) (single : s.cw.pair = none)
include hv single

theorem slotLook_misses (miss : ∀ i, ¬(Spec.slotsOf s).Holds ((s.sreg a).extractLsb' 0 48) i) :
    Spec.SlotsAnswer (.slotLook d a) s (Spec.aged (Spec.slotsOf s)) d 0 := by
  refine slotsAnswer_of_finish hv rfl single ?_
  have run : exec (.slotLook d a) s = execSlotLook d a s := rfl
  rw [run, execSlotLook, State.slotTable_eq, SlotTable.lookup_of_none _ miss, SlotTable.aged_eq]

theorem slotLook_hits {i : Fin 8} (hit : (Spec.slotsOf s).Holds ((s.sreg a).extractLsb' 0 48) i)
    (first : ∀ k, k < i → ¬(Spec.slotsOf s).Holds ((s.sreg a).extractLsb' 0 48) k) :
    let t := Spec.slotsOf s
    let c := BitVec.ofNat 16 (min (t.slots[i].count.toNat + 1) 0xFFFF)
    Spec.SlotsAnswer (.slotLook d a) s (Spec.aged { t with slots := t.slots.set i { t.slots[i] with count := c } }) d
      (Spec.slotResult i true c) := by
  refine slotsAnswer_of_finish hv rfl single ?_
  have run : exec (.slotLook d a) s = execSlotLook d a s := rfl
  rw [run, execSlotLook, State.slotTable_eq, SlotTable.lookup_of_first _ hit first]
  dsimp only
  rw [SlotTable.mapSlots_count, SlotTable.aged_eq, slotWord_eq, SlotTable.slot_fin]
  simp

theorem slotVict_answers {i : Fin 8} (least : ∀ k : Fin 8, (Spec.slotsOf s).slots[i].count.toNat ≤ (Spec.slotsOf s).slots[k].count.toNat)
    (first : ∀ k : Fin 8, k < i → (Spec.slotsOf s).slots[i].count.toNat < (Spec.slotsOf s).slots[k].count.toNat) :
    WritesScalar (.slotVict d) s d (Spec.slotResult i (Spec.slotsOf s).slots[i].valid (Spec.slotsOf s).slots[i].count) := by
  refine writesScalar_of_eq (u := _) ?_ rfl hv (slotWord_eq ..)
  have run : exec (.slotVict d) s = execSlotVict d s := rfl
  rw [run, execSlotVict, State.unpaired_of_single _ single, State.slotTable_eq, SlotTable.victim_of_least _ least first, SlotTable.slot_fin]
  rfl

theorem slotFill_answers : let t := Spec.slotsOf s
    let v := s.sreg a
    let n := v.toNat / 2 ^ 48 % 8
    ∃ u : SlotTable, Spec.SlotsAnswer (.slotFill d a) s u d (Spec.slotResult n (t.slots[n]?.getD {}).valid (t.slots[n]?.getD {}).count) ∧
      u.period = t.period ∧ u.age = t.age ∧ ∀ i : Fin 8, u.slots[i] =
        if i.val = n then { key := v.extractLsb' 0 48, valid := true, count := 1 }
        else if t.slots[i].valid = true ∧ t.slots[i].key = v.extractLsb' 0 48 then { t.slots[i] with valid := false, count := 0 } else t.slots[i] := by
  have number : ((s.sreg a).extractLsb' 48 3).toNat = (s.sreg a).toNat / 2 ^ 48 % 8 := by
    rw [BitVec.extractLsb'_toNat, Nat.shiftRight_eq_div_pow]
  refine ⟨(Spec.slotsOf s).filled ((s.sreg a).extractLsb' 0 48) ((s.sreg a).toNat / 2 ^ 48 % 8), slotsAnswer_of_finish hv rfl single ?_, rfl, rfl,
    fun i => SlotTable.getElem_mapSlots ..⟩
  have run : exec (.slotFill d a) s = execSlotFill d a s := rfl
  rw [run, execSlotFill, number, slotWord_eq]
  rfl

theorem slotClr_answers : let t := Spec.slotsOf s
    let v := s.sreg a
    ∃ u : SlotTable, Spec.SlotsAnswer (.slotClr d a) s u d (BitVec.ofNat 64 (2 ^ 16 * t.period.toNat)) ∧
      (∀ i : Fin 8, u.slots[i] = if v.getLsbD i = true then { t.slots[i] with valid := false, count := 0 } else t.slots[i]) ∧
      u.period = (if v.getLsbD 8 then BitVec.ofNat 16 (v.toNat / 2 ^ 16) else t.period) ∧ u.age = if v.getLsbD 8 then 0 else t.age := by
  refine ⟨(Spec.slotsOf s).cleared (s.sreg a), slotsAnswer_of_finish hv rfl single ?_, SlotTable.cleared_fields ..⟩
  have run : exec (.slotClr d a) s = execSlotClr d a s := rfl
  rw [run, execSlotClr, Nat.shiftLeft_eq, Nat.mul_comm]
  rfl

end

end Sys2Proof.Machine

namespace Sys2Proof

open Machine

/-- Settles O24: LOOK by its miss and its hit, VICT by the first slot with the lowest count, FILL and CLR slot by slot. -/
theorem slotOperationsAnswer : Obligations.SlotOperationsAnswer := by
  intro s d a hv
  refine ⟨fun pair i hi => ?_, fun single => ⟨slotLook_misses hv single, fun i => slotLook_hits hv single, fun i => slotVict_answers hv single,
    slotFill_answers hv single, slotClr_answers hv single⟩⟩
  simp only [List.mem_cons, List.not_mem_nil, or_false] at hi
  rcases hi with rfl | rfl | rfl | rfl <;> exact congrArg Host.Outcome.next (State.unpaired_of_pair _ pair)

end Sys2Proof

namespace Sys2Proof.Machine

/-! ## Engine commands as a watch issues them (08 R224, 09 R258) -/

/-- A command goes on with the object that it names. -/
theorem State.withObject_of_names {s : State} {nb : Bool} {b : Reg} {obj : Option Nat} (h : Spec.NamesObject s nb b obj)
    (k : Option Nat → State) : s.withObject nb b k = k obj := by
  rcases h with ⟨rfl, rfl⟩ | ⟨rfl, key, at_, open_, marked, rfl⟩
  · rfl
  · simp [withObject, at_, open_, marked]

/-- The words of a 64-bit control instruction are the words that its command carries. -/
theorem encode_cmdWords {i : Instr} {f : Fields} {w : W32} (h : encodeControl i = some ⟨f, w, 0⟩) (hf : f.len = 1) :
    encode i = some [(cmdWords i).1, (cmdWords i).2] := by
  have len : lenWords (packFields f) = 2 := by rw [lenWords, length_packFields, hf]; rfl
  simp [encode, cmdWords, h, len]

/-- A 64-bit instruction that issues a command: its release is over, and path 9 has room. -/
theorem issuesCommand_of_issueCmd {i : Instr} {f : Fields} {w : W32} {s : State} {r : Ord} {sc : Scope} {c : Cmd} {d : Nat}
    (hv : s.frag.valid = true) (words : encodeControl i = some ⟨f, w, 0⟩) (long : f.len = 1) (released : s.released r sc = true)
    (room : s.cw.pathCount 9 < 65535) (run : exec i s = .next (s.issueCmd i r sc c d)) : Spec.IssuesCommand i s sc d c := by
  refine ⟨_, _, encode_cmdWords words long, issues_of_inFlight hv (by rw [words]; rfl) rfl ?_⟩
  rw [run, State.issueCmd, released, pathRoom_single.mpr room, ← State.addOp_eq_inFlight]
  rfl

/-! ## TCOPY (08 R224, R230) -/

/-- TCOPY once its descriptor is read. -/
def State.tcopyRead (s : State) (a b : Reg) (nb : Bool) (sc : Scope) (v : Nat) : State :=
  if s.copyBad s.cw (s.sreg a) (wordsOf 8 v) then s.trap { cause := 0x16, addr := s.sreg a }
  else s.withObject nb b fun obj => s.issueCmd (.tcopy a b nb sc) .rel sc
    { maj := 0x30, a := s.sreg a, b := s.sreg b, desc := wordsOf 8 v, obj := obj, extra := (s.ctx s.cw.ctx).liveCols } 0

theorem exec_tcopy_of_access {s : State} {a b : Reg} {nb : Bool} {sc : Scope} {x : Acc} (single : s.cw.pair = none)
    (ok : s.prep s.cw.home (Spec.descReq 64 [1]) (s.sreg a) = .ok x) :
    exec (.tcopy a b nb sc) s = .next (s.reading x 64 (s.tcopyRead a b nb sc)) := by
  have run : exec (.tcopy a b nb sc) s = execTcopy a b nb sc s := rfl
  rw [run, execTcopy, State.unpaired_of_single _ single]
  exact congrArg Host.Outcome.next (State.access_of_ok _ ok)

theorem State.reading_of_held {s : State} {x : Acc} {n : Nat} (k : Nat → State) (h : s.bytesHeld (s.keyNow s.cw.ctx x) n = true) :
    s.reading x n k = s := if_pos h

theorem State.reading_of_open {s : State} {x : Acc} {n : Nat} (k : Nat → State) (h : s.bytesHeld (s.keyNow s.cw.ctx x) n = false) :
    s.reading x n k = k (s.readCtl x n) := if_neg (Bool.not_eq_true _ ▸ h)

theorem tcopyIssuesItsCommand : Spec.TcopyIssuesItsCommand := by
  intro s a b nb sc x obj hv single ok
  have run := exec_tcopy_of_access (b := b) (nb := nb) (sc := sc) single ok
  refine ⟨fun held => by rw [run, State.reading_of_held _ held], fun open_ => ?_⟩
  rw [State.reading_of_open _ open_] at run
  refine ⟨fun bad => by rw [run, State.tcopyRead, if_pos bad], fun good names released room => ?_⟩
  refine issuesCommand_of_issueCmd hv rfl rfl released room ?_
  rw [run, State.tcopyRead, if_neg (Bool.not_eq_true _ ▸ good), State.withObject_of_names names]

/-! ## WLOAD (07 R205) -/

theorem top_ne_zero_iff (v : Word) : v.extractLsb' 56 8 ≠ 0 ↔ v.toNat / 2 ^ 56 ≠ 0 := by
  have small : v.toNat / 2 ^ 56 < 2 ^ 8 := Nat.div_lt_of_lt_mul v.isLt
  rw [Ne, extractLsb'_eq_iff, Nat.mod_eq_of_lt small]
  rfl

/-- The address space of a WLOAD's source is admitted. -/
theorem wloadSpace_of_tag {v : Word} (low : v.toNat / 2 ^ 56 = 0) (tag : tagOf v = 1 ∨ tagOf v = 2) :
    ¬(v.extractLsb' 56 8 ≠ 0 ∨ (tagOf v ≠ 1 ∧ tagOf v ≠ 2)) := by
  rw [top_ne_zero_iff]
  omega

/-- WLOAD once its column is known, with the bytes that its region has there. -/
def State.wloadFrom (s : State) (wn : Bool) (a b : Reg) (dst : Byte) (n : I12) (nb : Bool) (sc : Scope) (p region : Nat) : State :=
  let v := s.sreg a
  if offOf v % 32 ≠ 0 then s.trap { cause := 0x13, addr := v }
  else if region < offOf v + n.toNat * 128 ∨ 262144 < dst.toNat * 1024 + n.toNat * 128 then s.trap { cause := 0x14, addr := v }
  else s.withObject nb b fun obj => s.issueCmd (.wload wn a b dst n nb sc) .rel sc
    { maj := 0x31, a := v, b := s.sreg b, obj := obj
      extra := [tagOf v, p, offOf v, dst.toNat * 1024, 4 * n.toNat, if wn then 1 else 0] } 0

section
variable {s : State} {wn : Bool} {a b : Reg} {dst : Byte} {n : I12} {nb : Bool} {sc : Scope} (single : s.cw.pair = none)
include single

theorem exec_wload_of_space (h : (s.sreg a).toNat / 2 ^ 56 ≠ 0 ∨ (tagOf (s.sreg a) ≠ 1 ∧ tagOf (s.sreg a) ≠ 2)) :
    exec (.wload wn a b dst n nb sc) s = .next (s.trap { cause := 0x10, addr := s.sreg a }) := by
  have run : exec (.wload wn a b dst n nb sc) s = execWload wn a b dst n nb sc s := rfl
  rw [run, execWload, State.unpaired_of_single _ single, if_pos (h.imp_left (top_ne_zero_iff _).mpr)]

variable (low : (s.sreg a).toNat / 2 ^ 56 = 0)
include low

theorem exec_wload_of_elsewhere (tag : tagOf (s.sreg a) = 1 ∨ tagOf (s.sreg a) = 2) (h : s.coreColumn s.cw (s.sreg a) = none) :
    exec (.wload wn a b dst n nb sc) s = .next (s.trap { cause := 0x11, addr := s.sreg a }) := by
  have run : exec (.wload wn a b dst n nb sc) s = execWload wn a b dst n nb sc s := rfl
  rw [run, execWload, State.unpaired_of_single _ single, if_neg (wloadSpace_of_tag low tag), h]

theorem exec_wload_of_column {p : Nat} (h : s.coreColumn s.cw (s.sreg a) = some p)
    (window : tagOf (s.sreg a) = 1 ∨ (tagOf (s.sreg a) = 2 ∧ (s.layout s.cw.ctx p).init = true ∧ (s.layout s.cw.ctx p).window ≠ 0)) :
    exec (.wload wn a b dst n nb sc) s = .next (s.wloadFrom wn a b dst n nb sc p
      (if tagOf (s.sreg a) = 1 then (s.layout s.cw.ctx p).scratch else (s.layout s.cw.ctx p).window)) := by
  have there : ¬(tagOf (s.sreg a) = 2 ∧ (!(s.layout s.cw.ctx p).init || (s.layout s.cw.ctx p).window == 0) = true) := by
    rintro ⟨two, none_⟩
    rcases window with one | ⟨-, init, some_⟩
    · omega
    · simp [init, some_] at none_
  have run : exec (.wload wn a b dst n nb sc) s = execWload wn a b dst n nb sc s := rfl
  rw [run, execWload, State.unpaired_of_single _ single, if_neg (wloadSpace_of_tag low (window.imp_right And.left)), h]
  exact congrArg Host.Outcome.next (if_neg there)

end

theorem wloadIssuesItsCommand : Spec.WloadIssuesItsCommand := by
  intro s wn a b dst n nb sc obj p hv single
  refine ⟨exec_wload_of_space single, exec_wload_of_elsewhere single, fun low column window => ?_⟩
  have run := exec_wload_of_column (wn := wn) (b := b) (dst := dst) (n := n) (nb := nb) (sc := sc) single low column window
  refine ⟨fun odd => ?odd, fun even_ beyond => ?beyond, fun even_ source buffer names released room => ?issues⟩
  case odd => rw [run, State.wloadFrom, if_pos odd]
  case beyond =>
    rw [Nat.mul_comm 128, Nat.mul_comm 1024] at beyond
    rw [run, State.wloadFrom, if_neg (not_not.mpr even_), if_pos beyond]
  case issues =>
    have within := not_or.mpr ⟨Nat.not_lt.mpr source, Nat.not_lt.mpr buffer⟩
    rw [Nat.mul_comm 128, Nat.mul_comm 1024] at within
    refine issuesCommand_of_issueCmd hv rfl rfl released room ?_
    rw [run, State.wloadFrom, if_neg (not_not.mpr even_), if_neg within, State.withObject_of_names names, Nat.mul_comm 1024]

end Sys2Proof.Machine

namespace Sys2Proof

open Machine

/-- Settles O25: TCOPY by what follows the read of its descriptor, WLOAD by its checks in their order. -/
theorem copiesAndWeightLoadsAreIssued : Obligations.CopiesAndWeightLoadsAreIssued := ⟨tcopyIssuesItsCommand, wloadIssuesItsCommand⟩

end Sys2Proof

namespace Sys2Proof.Machine

/-! ## Streams (08 R238 to R241) -/

/-- The queue after lane l's next element came (08 R239). -/
theorem Queue.took_fields {q : Queue} (width : Nat) {l : Nat} (hl : l < 64) (v : Elem) :
    (q.took width l v).elems[l]? = some (q.elems[l]?.getD [] ++ [v]) ∧ (q.took width l v).next[l]? = some (q.next[l]?.getD 0 + 1) ∧
      ∀ k, k ≠ l → (q.took width l v).elems[k]? = q.elems[k]? ∧ (q.took width l v).next[k]? = q.next[k]? := by
  refine ⟨by simp [took, hl], by simp [took, hl], fun k hk => ?_⟩
  by_cases low : k < 64
  · simp [took, low, hk]
  · simp [took, low]

/-- The queue ends with the last element of its last lane (08 R239). -/
theorem Queue.st_took {q : Queue} (width : Nat) {l : Nat} (hl : l < 64) (v : Elem) : (q.took width l v).st =
    if ∀ k, k < width → sdCount q.desc ≤ (if k = l then q.next[l]?.getD 0 + 1 else q.next[k]?.getD 0) then .ended else q.st := by
  obtain ⟨-, here, other⟩ := q.took_fields width hl v
  have next_ (k : Nat) : (q.took width l v).next[k]?.getD 0 = if k = l then q.next[l]?.getD 0 + 1 else q.next[k]?.getD 0 := by
    split
    next same => rw [same, here]; rfl
    next apart => rw [(other k apart).2]
  have st : (q.took width l v).st = if ((List.range width).all fun k => decide (sdCount q.desc ≤ (q.took width l v).next[k]?.getD 0)) = true
    then .ended else q.st := rfl
  rw [st]
  simp only [next_, List.all_eq_true, List.mem_range, decide_eq_true_eq]

/-- What the engine asks for an element (08 R238). -/
def elemReq (q : Queue) (l : Nat) : AReq := { size := 2 ^ sdEsz q.desc, align := 2 ^ sdEsz q.desc, tags := [0, 1, 2], lane := some l }

/-- What becomes of the device as a fetch brings an element, a page fault, or nothing yet (08 R240, R241). -/
def State.streamTakes (s : State) (w n l : Nat) (x : Watch) : Option (Elem ⊕ Unit) → State
  | none => s
  | some (.inr ()) => s.pageFault w 0 true (x.pcnOf l) (streamAddr (x.queue n) l ((x.queue n).next[l]?.getD 0))
  | some (.inl v) => s.modWatch w fun x => x.setQ n ((x.queue n).took x.width l v)

section
variable {s : State} {w n l : Nat} {x : Watch} (at_ : Tbl.find s.watches w = some x)
include at_

/-- An acquire that is older than the queue's GO holds it back (13 R361). -/
theorem exec_streamFetch_of_held (held : x.acqHeld (x.queue n).go = true) : exec (.streamFetch w n l) s = .next s := by
  have run : exec (.streamFetch w n l) s = execStreamFetch w n l s := rfl
  rw [run, execStreamFetch, State.onWatch_of_find at_]
  simp [held]

variable (running : (x.queue n).st = .running) (live : s.isLive x = true) (lane : l < x.width)
  (more : (x.queue n).next[l]?.getD 0 < sdCount (x.queue n).desc)
  (room : (x.queue n).next[l]?.getD 0 < ((x.queue n).popc[l]?.getD 0) + 64) (free : x.acqHeld (x.queue n).go = false)
include running live lane more room free

/-- A queue that may fetch does what its fetch brings. -/
theorem exec_streamFetch : exec (.streamFetch w n l) s =
    .next (s.streamTakes w n l x (s.fetchElem x (x.queue n) l (streamAddr (x.queue n) l ((x.queue n).next[l]?.getD 0)))) := by
  have run : exec (.streamFetch w n l) s = execStreamFetch w n l s := rfl
  rw [run, execStreamFetch, State.onWatch_of_find at_]
  exact congrArg Host.Outcome.next (if_neg (by simp [running, live, lane, more, room, free]))

end

section
variable {s : State} {x : Watch} {q : Queue} {l : Nat} {a : Word}

theorem elemReq_eq : { size := 1 <<< sdEsz q.desc, align := 1 <<< sdEsz q.desc, tags := [0, 1, 2], lane := some l } = elemReq q l := by
  rw [Nat.one_shiftLeft]
  rfl

theorem State.fetchElem_of_lock (h : s.checkAddr x (x.pcnOf l) (elemReq q l) a = some .lock) : s.fetchElem x q l a = none := by
  simp only [fetchElem, elemReq_eq, h]

/-- A failed check marks the element (08 R240). -/
theorem State.fetchElem_of_fail {f : AFail} (h : s.checkAddr x (x.pcnOf l) (elemReq q l) a = some f) (other : f ≠ .lock) :
    s.fetchElem x q l a = some (.inl (.off f.why)) := by
  cases f with
  | lock => exact absurd rfl other
  | _ => simp only [fetchElem, elemReq_eq, h]

variable (passes : s.checkAddr x (x.pcnOf l) (elemReq q l) a = none)
include passes

theorem State.fetchElem_of_place {key : Nat} {host : Bool} (h : s.placeOf x (x.pcnOf l) (elemReq q l) a = .ok key host) :
    s.fetchElem x q l a = some (.inl (.val (elemBits q.desc (s.colN (x.pcnOf l)
      (s.keyNow x.ctx { pcn := x.pcnOf l, addr := a, key := key }) (2 ^ sdEsz q.desc))))) := by
  simp only [fetchElem, elemReq_eq, passes, h]
  rw [Nat.one_shiftLeft]

theorem State.fetchElem_of_fault {c : Nat} (h : s.placeOf x (x.pcnOf l) (elemReq q l) a = .fault c) :
    s.fetchElem x q l a = some (.inl (.fault c a)) := by
  simp only [fetchElem, elemReq_eq, passes, h]

theorem State.fetchElem_of_nonres (h : s.placeOf x (x.pcnOf l) (elemReq q l) a = .nonres) : s.fetchElem x q l a = some (.inr ()) := by
  simp only [fetchElem, elemReq_eq, passes, h]

theorem State.fetchElem_of_wait (h : s.placeOf x (x.pcnOf l) (elemReq q l) a = .wait) : s.fetchElem x q l a = none := by
  simp only [fetchElem, elemReq_eq, passes, h]

end

end Sys2Proof.Machine

namespace Sys2Proof

open Machine

/-- Settles O40: what a fetch brings by its check and its translation, the queue after it by `Queue.took_fields` and `Queue.st_took`. -/
theorem streamsFetchInOrder : Obligations.StreamsFetchInOrder := by
  intro s w n l x at_ hn lane hl q e p a z r takes running live more room
  have brings := exec_streamFetch at_ running live lane more room
  have takes_of {v : Elem} (free : x.acqHeld q.go = false) (h : s.fetchElem x q l a = some (.inl v)) : takes v := by
    refine ⟨x.setQ n (q.took x.width l v), ?_, rfl, fun k hk => x.queue_setQ_other hk _, ?_⟩
    · rw [brings free, h, State.streamTakes, State.modWatch_of_find at_]
    · obtain ⟨elems, next_, other⟩ := q.took_fields x.width hl v
      rw [x.queue_setQ_same hn]
      exact ⟨elems, next_, other, running ▸ q.st_took x.width hl v⟩
  refine ⟨exec_streamFetch_of_held at_, fun free => ⟨fun passes => ⟨fun key host place => ?_, fun c fault => ?_, fun away => ?_, fun wait_ => ?_⟩,
    fun f fail other => ?_, fun lock => ?_⟩⟩
  · exact takes_of free (State.fetchElem_of_place passes place)
  · exact takes_of free (State.fetchElem_of_fault passes fault)
  · rw [brings free, State.fetchElem_of_nonres passes away, State.streamTakes]
  · rw [brings free, State.fetchElem_of_wait passes wait_, State.streamTakes]
  · exact takes_of free (State.fetchElem_of_fail fail other)
  · rw [brings free, State.fetchElem_of_lock lock, State.streamTakes]

end Sys2Proof

/-! # Proofs: crews, barriers, traps, containment regions, pairs and errors (09) -/

namespace Sys2Proof.Machine

/-! ## Containment regions (09 R269) -/

section
variable {s : State} (single : s.cw.pair = none)
include single

/-- CRGN.OPEN outside a pair: its checks in order, then the region. -/
theorem exec_crgnOpen (o : W32) : exec (.crgnOpen o) s = .next (
    if 4 ≤ s.cw.crgn.length then s.trap { cause := 0x26 }
    else if s.divided then s.trap { cause := 0x27 }
    else (s.setW { s.cw with crgn := { h := s.target o, m := s.frag.mask } :: s.cw.crgn }).finish (.crgnOpen o)) :=
  congrArg Host.Outcome.next (State.unpaired_of_single _ single)

theorem exec_crgnClose : exec .crgnClose s = .next (
    if s.cw.crgn.isEmpty then s.trap { cause := 0x28 }
    else if s.divided then s.trap { cause := 0x27 }
    else (s.setW { s.cw with crgn := s.cw.crgn.tail }).finish .crgnClose) :=
  congrArg Host.Outcome.next (State.unpaired_of_single _ single)

end

theorem regionsOpenAndClose : Spec.RegionsOpenAndClose := by
  intro s o hv
  refine ⟨fun pair => ⟨congrArg Host.Outcome.next (State.unpaired_of_pair _ pair), congrArg Host.Outcome.next (State.unpaired_of_pair _ pair)⟩,
    fun single => ?_⟩
  have opens := exec_crgnOpen single o
  have closes := exec_crgnClose single
  refine ⟨fun full => ?_, fun none => ?_, fun divided => ⟨fun room => ?_, fun some => ?_⟩, fun whole => ⟨fun room => ?_, fun r rest open_ => ?_⟩⟩
  · rw [opens, if_pos full]
  · rw [closes, if_pos (List.isEmpty_iff.2 none)]
  · rw [opens, if_neg (Nat.not_le.2 room), if_pos divided]
  · rw [closes, if_neg (by simp [some]), if_pos divided]
  · rw [if_neg (Nat.not_le.2 room), if_neg (by simp [whole]), State.target_eq] at opens
    exact ⟨_, runs_advance hv rfl (by rfl) opens, rfl⟩
  · rw [if_neg (by simp [open_]), if_neg (by simp [whole]), open_] at closes
    exact ⟨_, runs_advance hv rfl (by rfl) closes, rfl⟩

/-! ## The unwinding of an uncorrectable error (09 R270) -/

theorem rootSplit_zero (m : Mask) (pc : Off) : (rootSplit m pc)[0]?.getD ({} : SplitEntry) = { mask := m, pc := pc, valid := true, root := true } := by
  simp [rootSplit]

theorem rootSplit_other (m : Mask) (pc : Off) {k : Nat} (h : k ≠ 0) : (rootSplit m pc)[k]?.getD ({} : SplitEntry) = ({} : SplitEntry) := by
  by_cases hk : k < 8 <;> simp [rootSplit, hk, Ne.symm h]

theorem State.trap_of_single {s : State} (t : TrapInfo) (single : s.cw.pair = none) : s.trap t = s.trapCore t := by
  rw [trap, single]

theorem State.trap_eq_unwind {s : State} {t : TrapInfo} (single : s.cw.pair = none) (out : s.cw.inh = false) (uncor : t.cause = 0x19)
    (inside : s.cw.crgn ≠ []) : s.trap t = s.unwind t.addr := by
  simp [trap_of_single t single, trapCore, out, uncor, inside]

theorem State.unwind_of_region {s : State} {g : Region} {rest : List Region} (addr : Word)
    (h : (s.settleMatrix s.cur).cw.crgn = g :: rest) : s.unwind addr =
      let m := s.settleMatrix s.cur
      { (m.unhold m.cw.core m.cur).setW { m.cw.setS 62 addr with
          crgn := rest, chain := none, lq := [], ops := m.cw.ops.filter fun o => !o.replays
          split := rootSplit (g.m &&& ~~~g.ended) g.h } with ent := 0 } := by
  unfold unwind
  simp only [h]

theorem uncorUnwindsToTheRegion : Spec.UncorUnwindsToTheRegion := by
  intro s t g rest single out uncor inside region
  rw [State.trap_eq_unwind single out uncor inside, State.unwind_of_region _ region]
  generalize s.settleMatrix s.cur = m
  intro w u
  have cw : u.cw = { w.setS 62 t.addr with
      crgn := rest, chain := none, lq := [], ops := w.ops.filter fun o => !o.replays, split := rootSplit (g.m &&& ~~~g.ended) g.h } :=
    State.cw_setW ..
  have regs (n : Reg) : u.cw.sreg n = (w.setS 62 t.addr).sreg n := (congrArg (Watch.sreg · n) cw).trans rfl
  have kept : (fun o : Op => !o.replays) = fun o => o.done || o.goesOn := funext fun o => by simp [Op.replays]
  have frame := Watch.setS_frame w 62 t.addr
  refine ⟨rfl, ?_, fun k hk => ?_, ?_, fun n hn => ?_, ?_⟩
  · rw [cw]
    exact rootSplit_zero ..
  · rw [cw]
    exact congrArg SplitEntry.valid (rootSplit_other _ _ hk)
  · rw [regs, Watch.sreg_setS_same]
    rfl
  · rw [regs, Watch.sreg_setS_other _ _ hn]
  · rw [cw, kept, frame]
    exact ⟨rfl, rfl, rfl, rfl, rfl, rfl, rfl, rfl, rfl⟩

/-! ## SIGCK (09 R272) -/

theorem byteLen_of_two_words {i : Instr} {f : Fields} {w1 : W32} (h : encodeControl i = some ⟨f, w1, 0⟩) (hf : f.len = 1) : byteLen i = 8 := by
  rw [byteLen, opcodeWord, h, lenWords, length_packFields, hf]
  rfl

theorem sigckChecksTheSignature : Spec.SigckChecksTheSignature := by
  intro s v hv
  have run : exec (.sigck v) s = execSigck v s := rfl
  have he := valid_lt hv
  refine ⟨fun same => ⟨s.cw.setEntry s.ent { s.frag with sig := 0xFFFFFFFF, pc := s.frag.pc + 8 }, ?_, rfl, fragmentIs_setEntry he rfl _⟩,
    fun other => by rw [run, execSigck, if_neg other]⟩
  rw [run, execSigck, if_pos same, State.modFrag_eq, State.finishNoFold_eq, byteLen_of_two_words (f := ⟨1, 44, 0, 0, 0, 0⟩) rfl rfl, State.cw_setW,
    State.setW_setW]
  simp only [State.setW_ent, State.frag, State.cw_setW, Watch.entry_setEntry_same _ _ he, Watch.setEntry_setEntry]
  rfl

end Sys2Proof.Machine

namespace Sys2Proof

open Machine

/-- Settles O22: regions by the checks of CRGN.OPEN and CLOSE, UNCOR by `State.unwind_of_region`, SIGCK by its two cases. -/
theorem regionsAndSignatures : Obligations.RegionsAndSignatures :=
  ⟨regionsOpenAndClose, uncorUnwindsToTheRegion, sigckChecksTheSignature⟩

end Sys2Proof

namespace Sys2Proof.Machine

/-! ## The fields of a barrier object (09 R256) -/

section
variable {p e n ef mk : Nat} (hp : p < 2 ^ 32) (he : e < 2 ^ 32) (hn : n < 2 ^ 32)
include hp he hn

/-- Arrivals that leave some pending. -/
theorem objArrive_object_of_lt {k : Nat} (h : k < p) : objArrive (Spec.object p e n ef mk) k = Spec.object (p - k) e n ef mk := by
  rw [objArrive, objPending_object hp, if_neg (Nat.ne_of_gt h), objPhase_object hp he hn, objWith_object hp he hn, Nat.mod_eq_of_lt hn,
    Nat.mod_eq_of_lt (by omega)]

/-- The last arrivals open the next phase. -/
theorem objArrive_object_of_all : objArrive (Spec.object p e n ef mk) p = Spec.object e e ((n + 1) % 2 ^ 32) ef mk := by
  rw [objArrive, objPending_object hp, if_pos rfl, objPhase_object hp he hn, objExpected_object hp he, objWith_object hp he hn,
    Nat.mod_eq_of_lt he]

theorem objMarked_object (hef : ef < 2 ^ 16) : objMarked (Spec.object p e n ef mk) = decide (mk = 0xAB01) := by
  have mark : Spec.object p e n ef mk >>> 112 = mk := by
    rw [Nat.shiftRight_eq_div_pow]
    unfold Spec.object
    omega
  rw [objMarked, mark]
  rfl

theorem object_lt (hef : ef < 2 ^ 16) (hmk : mk < 2 ^ 16) : Spec.object p e n ef mk < 256 ^ 16 := by
  unfold Spec.object
  omega

end

theorem objInit_eq {k : Nat} (h : k < 2 ^ 31) : objInit k = Spec.object k k 0 0 0xAB01 := by
  have low : k % 2 ^ 32 = k := Nat.mod_eq_of_lt (by omega)
  rw [objInit, low, Nat.shiftLeft_eq, Nat.shiftLeft_eq]
  unfold Spec.object
  omega

theorem badCount_iff {k : Nat} : badCount k = true ↔ k = 0 ∨ 2 ^ 31 ≤ k := by
  simp only [badCount, Bool.or_eq_true, beq_iff_eq, decide_eq_true_eq]

/-! ## ABAR operations (09 R257) -/

/-- The state with another memory. -/
def State.withMem (s : State) (m : List Host.Cell) : State := { s with mem := m }

section
variable {s : State} {i : Instr} {a d : Reg} {r : Ord} {sc : Scope} {key v : Nat}

/-- An ABAR step that is made: memory may change in the object, and S[d] may take a token. -/
theorem stepsObject_of_acquire (hv : s.frag.valid = true) (hc : (encodeControl i).isSome) {u : State} {m : List Host.Cell} {y : Watch}
    {tok : Option Word} (run : exec i s = .next ((u.acquire r).finish i)) (cw : u.cw = y) (put : ∀ z, u.setW z = (s.withMem m).setW z)
    (reads : memNat m s.epoch key 16 = v) (others : ∀ k, k < key ∨ key + 16 ≤ k → memByte m s.epoch k = memByte s.mem s.epoch k)
    (regs : y = { s.cw with s := y.s }) (token : ∀ n, y.sreg n = match tok with
      | some u => if n = d then (if d = 0 then 0 else u) else s.sreg n
      | none => s.sreg n) : Spec.StepsObject i s key v r d tok := by
  have ent : u.ent = s.ent := (congrArg State.ent (put y) : (u.setW y).ent = _)
  have seq : u.seq = s.seq := (congrArg State.seq (put y) : (u.setW y).seq = _)
  rw [State.acquire_finish, put, cw, ent, seq, ← if_congr ordAcq_iff.symm rfl rfl] at run
  obtain ⟨S, rfl⟩ : ∃ S, y = { s.cw with s := S } := ⟨_, regs⟩
  generalize ht : (State.mk .. : State) = t at run
  have now : t.cw = (Watch.acquired { s.cw with s := S } r s.seq).advance i s.ent := by rw [← ht]; exact State.cw_setW ..
  have sregs (n : Reg) : t.cw.sreg n = Watch.sreg { s.cw with s := S } n := by
    rw [now, Watch.sreg_advance]
    unfold Watch.acquired
    split <;> rfl
  refine ⟨t, run, by rw [← ht]; exact reads, by rw [← ht]; exact others, ?_, ?_, ?_, fun n => (sregs n).trans (token n), ?_⟩
  · rw [now, ← ht]
    rfl
  · have frame := Watch.advance_acquired { s.cw with s := S } r s.seq i s.ent
    rw [now, frame]
  · rw [now]
    exact acquiresAt_acquired i s.ent rfl fun _ h => h
  · rw [now]
    exact advances_acquired hc (valid_lt hv) rfl r s.seq

/-- An ABAR operation whose object is named and free comes to its step. -/
theorem State.abar_of_step {step : Nat → Nat → State} (single : s.cw.pair = none) (named : s.objectAt s.cw (s.sreg a) = .ok key)
    (released : s.released r sc = true) (free : s.objectHeld key = false) : s.abar a r sc step = step key (s.readN key 16) := by
  rw [State.abar, unpaired_of_single _ single, named]
  simp only [released, free, Bool.not_false, Bool.and_self, if_true]

theorem State.marked_of_mark {k : State} (h : objMarked v = true) : s.marked a v k = k := if_pos h

theorem State.marked_of_none {k : State} (h : objMarked v = false) : s.marked a v k = s.trap { cause := 0x23, addr := s.sreg a } :=
  if_neg (by simp [h])

end

section
variable {s : State} {d a b : Reg} {r : Ord} {sc : Scope} {key : Nat} (hv : s.frag.valid = true) (single : s.cw.pair = none)
  (named : s.objectAt s.cw (s.sreg a) = .ok key) (released : s.released r sc = true) (free : s.objectHeld key = false)
include single named released free

theorem exec_abarInit : exec (.abarInit a b r sc) s = .next (if badCount (s.sreg b).toNat then s.trap { cause := 0x24, addr := s.sreg a }
    else ((s.writeN key 16 (objInit (s.sreg b).toNat)).acquire r).finish (.abarInit a b r sc)) :=
  congrArg Host.Outcome.next (State.abar_of_step single named released free)

theorem exec_abarArrive : exec (.abarArrive d a b r sc) s = .next (s.marked a (s.readN key 16) (
    if badCount (s.abarCount b) then s.trap { cause := 0x24, addr := s.sreg a }
    else if objPending (s.readN key 16) < s.abarCount b then s.trap { cause := 0x25, addr := s.sreg a }
    else (((s.writeN key 16 (objArrive (s.readN key 16) (s.abarCount b))).setS d (BitVec.ofNat 64 (objPhase (s.readN key 16)))).acquire r).finish
      (.abarArrive d a b r sc))) :=
  congrArg Host.Outcome.next (State.abar_of_step single named released free)

theorem exec_abarExpect : exec (.abarExpect d a b r sc) s = .next (s.marked a (s.readN key 16) (
    if badCount (s.abarCount b) ∨ 2 ^ 31 ≤ objPending (s.readN key 16) + s.abarCount b then s.trap { cause := 0x24, addr := s.sreg a }
    else (((s.writeN key 16 (objWith (s.readN key 16) (objPending (s.readN key 16) + s.abarCount b) (objPhase (s.readN key 16)))).setS d
      (BitVec.ofNat 64 (objPhase (s.readN key 16)))).acquire r).finish (.abarExpect d a b r sc))) :=
  congrArg Host.Outcome.next (State.abar_of_step single named released free)

theorem exec_abarWait : exec (.abarWait a b r sc) s = .next (s.marked a (s.readN key 16) (
    if objPhase (s.readN key 16) = (s.sreg b).toNat % 2 ^ 32 then s else (s.acquire r).finish (.abarWait a b r sc))) :=
  congrArg Host.Outcome.next (State.abar_of_step single named released free)

theorem exec_abarTest : exec (.abarTest d a b r sc) s = .next (s.marked a (s.readN key 16)
    (((s.setS d (flagWord (objPhase (s.readN key 16) != (s.sreg b).toNat % 2 ^ 32))).acquire r).finish (.abarTest d a b r sc))) :=
  congrArg Host.Outcome.next (State.abar_of_step single named released free)

end

section
variable {s : State} {i : Instr} {d : Reg} {r : Ord} {key v : Nat} (hv : s.frag.valid = true) (hc : (encodeControl i).isSome)
include hv hc

/-- An ABAR step that writes its object and answers a token. -/
theorem stepsObject_of_write {u : Word} (hw : v < 256 ^ 16) (run : exec i s = .next ((((s.writeN key 16 v).setS d u).acquire r).finish i)) :
    Spec.StepsObject i s key v r d (some u) := by
  refine stepsObject_of_acquire (m := memWrite s.mem key (leBytes 16 v)) hv hc run (State.cw_setS ..)
    (fun _ => State.setW_setW ..)
    ((memNat_memWrite ..).trans (Nat.mod_eq_of_lt hw)) (fun k hk => memByte_memWrite_other _ _ _ _ (by rw [leBytes_length]; omega))
    (Watch.setS_frame ..) fun n => ?_
  by_cases hn : n = d
  · subst hn
    simp only [Watch.sreg_setS_same, if_true]
  · simp only [if_neg hn, Watch.sreg_setS_other _ _ hn]
    rfl

/-- An ABAR step that reads its object and answers a token. -/
theorem stepsObject_of_read {u : Word} (run : exec i s = .next (((s.setS d u).acquire r).finish i)) :
    Spec.StepsObject i s key (s.readN key 16) r d (some u) := by
  refine stepsObject_of_acquire (m := s.mem) hv hc run (State.cw_setS ..) (fun _ => State.setW_setW ..) rfl (fun _ _ => rfl) (Watch.setS_frame ..) fun n => ?_
  by_cases hn : n = d
  · subst hn
    simp only [Watch.sreg_setS_same, if_true]
  · simp only [if_neg hn, Watch.sreg_setS_other _ _ hn]
    rfl

end

theorem bne_word (n m : Nat) : flagWord (n != m) = if n ≠ m then 1 else 0 := by
  by_cases h : n = m <;> simp [flagWord, h]

theorem barrierObjectSteps : Spec.BarrierObjectSteps := by
  intro s d a b r sc key p e n ef mk hv single named released free hp he hn hef hmk read k stop bad
  have init := exec_abarInit (b := b) single named released free
  have arrive := exec_abarArrive (d := d) (b := b) single named released free
  have expect := exec_abarExpect (d := d) (b := b) single named released free
  have wait := exec_abarWait (b := b) single named released free
  have test := exec_abarTest (d := d) (b := b) single named released free
  have mark := objMarked_object (mk := mk) hp he hn hef
  refine ⟨fun h => ?_, fun h => ?_, fun unmarked i hi => ?_, fun marked => ?_⟩
  · exact init.trans (congrArg Host.Outcome.next (if_pos (badCount_iff.2 h)))
  · rw [if_neg (mt badCount_iff.1 h), objInit_eq (not_le.1 fun large => h (.inr large))] at init
    refine stepsObject_of_acquire (u := s.writeN key 16 _) hv rfl init rfl (fun _ => rfl) ((memNat_memWrite ..).trans (Nat.mod_eq_of_lt ?_))
      (fun k hk => memByte_memWrite_other _ _ _ _ (by rw [leBytes_length]; omega)) rfl fun _ => rfl
    have : ¬2 ^ 31 ≤ (s.sreg b).toNat := fun large => h (.inr large)
    exact object_lt (by omega) (by omega) (by omega) (by omega) (by omega)
  · rw [← read, decide_eq_false unmarked] at mark
    rw [State.marked_of_none mark] at arrive expect wait test
    simp only [Spec.abars, List.tail_cons, List.mem_cons, List.not_mem_nil, or_false] at hi
    rcases hi with rfl | rfl | rfl | rfl <;> assumption
  · rw [← read, decide_eq_true marked] at mark
    rw [State.marked_of_mark mark] at arrive expect wait test
    have hk : s.abarCount b = k := rfl
    have phase := objPhase_object (ef := ef) (mk := mk) hp he hn
    have pending : objPending (s.readN key 16) = p := read ▸ objPending_object hp
    rw [← read] at phase
    rw [hk, phase, pending] at arrive expect
    rw [phase] at wait test
    refine ⟨fun h => ?_, fun h few => ?_, fun h some_ => ?_, fun h all => ?_, fun h => ?_, fun h room => ?_, fun same => ?_, fun other => ?_, ?_⟩
    · exact arrive.trans (congrArg Host.Outcome.next (if_pos (badCount_iff.2 h)))
    · exact arrive.trans (congrArg Host.Outcome.next ((if_neg (mt badCount_iff.1 h)).trans (if_pos few)))
    · rw [if_neg (mt badCount_iff.1 h), if_neg (by omega), read, objArrive_object_of_lt hp he hn some_] at arrive
      exact stepsObject_of_write hv rfl (object_lt (by omega) he hn hef hmk) arrive
    · rw [if_neg (mt badCount_iff.1 h), if_neg (by omega), read, all, objArrive_object_of_all hp he hn] at arrive
      exact stepsObject_of_write hv rfl (object_lt he he (by omega) hef hmk) arrive
    · exact expect.trans (congrArg Host.Outcome.next (if_pos (h.imp_left badCount_iff.2)))
    · rw [if_neg (not_or.2 ⟨mt badCount_iff.1 h, by omega⟩), read, objWith_object hp he hn, Nat.mod_eq_of_lt hn, Nat.mod_eq_of_lt (by omega)] at expect
      exact stepsObject_of_write hv rfl (object_lt (by omega) he hn hef hmk) expect
    · exact wait.trans (congrArg Host.Outcome.next (if_pos same))
    · rw [if_neg other] at wait
      exact stepsObject_of_acquire (u := s) (m := s.mem) hv rfl wait rfl (fun _ => rfl) rfl (fun _ _ => rfl) rfl fun _ => rfl
    · rw [bne_word] at test
      exact stepsObject_of_read hv rfl test

/-- What stops an ABAR operation before its step. -/
theorem exec_abar {s : State} {d a b : Reg} {r : Ord} {sc : Scope} {i : Instr} (h : i ∈ Spec.abars d a b r sc) :
    ∃ step, exec i s = .next (s.abar a r sc step) := by
  simp only [Spec.abars, List.mem_cons, List.not_mem_nil, or_false] at h
  rcases h with rfl | rfl | rfl | rfl | rfl <;> exact ⟨_, rfl⟩

theorem barrierObjectChecks : Spec.BarrierObjectChecks := by
  intro s d a b r sc i hi v stop
  obtain ⟨step, run⟩ := exec_abar (s := s) hi
  refine ⟨fun pair => by rw [run, State.abar, State.unpaired_of_pair _ pair], fun single => ?_⟩
  rw [State.abar, State.unpaired_of_single _ single] at run
  have high : v.extractLsb' 56 8 ≠ 0 ↔ v.toNat / 2 ^ 56 ≠ 0 := by
    rw [not_iff_not, ← BitVec.toNat_inj, BitVec.extractLsb'_toNat, Nat.shiftRight_eq_div_pow]
    have := v.isLt
    have zero : (0 : BitVec 8).toNat = 0 := rfl
    omega
  have error : ∀ {c}, s.objectAt s.cw v = .error c → stop c := fun h => by
    rw [h] at run
    exact run
  refine ⟨fun bad => error ?_, fun reserved tag => ?_⟩
  · rw [State.objectAt, if_pos (bad.imp_left high.2)]
  · have clear : ¬(v.extractLsb' 56 8 ≠ 0 ∨ tagOf v ≠ 1) := fun h => h.elim (fun h => high.1 h reserved) fun h => h tag
    refine ⟨fun none_ => error ?_, fun p named => ⟨fun odd => error ?_, fun aligned beyond => error ?_, fun aligned within waits => ?_⟩⟩
    · rw [State.objectAt, if_neg clear, none_]
    · rw [State.objectAt, if_neg clear, named]
      exact if_pos odd
    · rw [State.objectAt, if_neg clear, named]
      exact (if_neg (not_not.2 aligned)).trans (if_pos beyond)
    · have at_ : s.objectAt s.cw v = .ok (memKey .plain s.cw.ctx p (offOf v)) := by
        rw [State.objectAt, if_neg clear, named]
        exact (if_neg (not_not.2 aligned)).trans (if_neg (Nat.not_lt.2 within))
      rw [at_] at run
      exact run.trans (congrArg Host.Outcome.next (if_neg (by rcases waits with h | h <;> simp [h])))

end Sys2Proof.Machine

namespace Sys2Proof

open Machine

/-- Settles O21: each step by its equation on the object's fields, the checks in the order of `State.objectAt`. -/
theorem barrierObjectsStep : Obligations.BarrierObjectsStep := ⟨barrierObjectSteps, barrierObjectChecks⟩

end Sys2Proof

namespace Sys2Proof.Machine

/-! ## Contexts and the tables of their crews (09 R246) -/

theorem Tbl.alter_alter {α : Type} (t : Tbl α) (k : Nat) (f g : α → α) : Tbl.alter (Tbl.alter t k f) k g = Tbl.alter t k fun x => g (f x) := by
  cases h : Tbl.find t k with
  | none => simp only [Tbl.alter, h]
  | some x => simp only [Tbl.alter, h, Tbl.find_put_same, Tbl.put_put]

theorem Tbl.find_del {α : Type} (t : Tbl α) (k j : Nat) : Tbl.find (Tbl.del t k) j = if j = k then none else Tbl.find t j := by
  refine (Tbl.find_filter t (· != k) j).trans ?_
  by_cases h : j = k <;> simp [h]

theorem State.modCtx_modCtx (s : State) (k : Nat) (f g : Context → Context) : (s.modCtx k f).modCtx k g = s.modCtx k fun c => g (f c) :=
  congrArg (fun t => { s with ctxs := t }) (Tbl.alter_alter ..)

section
variable {s : State} {cx c : Nat} {x : Crew}

theorem State.ctx_modCtx (h : (Tbl.find s.ctxs cx).isSome) (f : Context → Context) : (s.modCtx cx f).ctx cx = f (s.ctx cx) :=
  Tbl.getD_alter_same _ _ _ _ h

theorem State.isSome_modCtx (k : Nat) (f : Context → Context) : (Tbl.find (s.modCtx k f).ctxs cx).isSome = (Tbl.find s.ctxs cx).isSome := by
  by_cases h : cx = k
  · subst h
    rw [State.modCtx_ctxs, Tbl.find_alter_same, Option.isSome_map]
  · rw [State.modCtx_ctxs, Tbl.find_alter_other _ _ h]

/-- A context that has a crew is there. -/
theorem State.ctx_of_crew (h : s.crew cx c = some x) : (Tbl.find s.ctxs cx).isSome := by
  cases there : Tbl.find s.ctxs cx with
  | some _ => rfl
  | none => simp [State.crew, State.ctx, Tbl.getD, there, Tbl.find] at h

theorem State.crew_setCrew (h : (Tbl.find s.ctxs cx).isSome) (y : Crew) : (s.setCrew cx c y).crew cx c = some y := by
  rw [State.crew, State.setCrew, State.ctx_modCtx h]
  exact Tbl.find_put_same ..

theorem State.crew_delCrew (h : (Tbl.find s.ctxs cx).isSome) : (s.delCrew cx c).crew cx c = none := by
  rw [State.crew, State.delCrew, State.ctx_modCtx h]
  exact (Tbl.find_del ..).trans (if_pos rfl)

end

/-! ## CREW.JOIN, SIZE and RANK (09 R248, R249) -/

theorem Crew.registers_eq (x : Crew) : x.registers = Spec.crewWord x := by
  simp only [Crew.registers, Spec.crewWord, Nat.shiftLeft_eq, Nat.mul_comm]

theorem rankOf_of_first {cols : List Nat} {l r : Nat} (at_ : cols[r]? = some l) (first : ∀ k, k < r → cols[k]? ≠ some l) :
    rankOf cols l = some r := by
  obtain ⟨hr, hl⟩ := List.getElem?_eq_some_iff.1 at_
  have there : l ∈ cols := List.mem_of_getElem? at_
  rw [rankOf, if_pos (List.contains_iff_mem.2 there)]
  refine congrArg some ((List.findIdx_eq hr).2 ⟨by simp [hl], fun j hj => ?_⟩)
  have := first j hj
  rw [List.getElem?_eq_getElem (hj.trans hr)] at this
  simpa using this

theorem rankOf_of_not_mem {cols : List Nat} {l : Nat} (h : l ∉ cols) : rankOf cols l = none := if_neg (by simpa using h)

section
variable {s : State} {d a : Reg} {x : Crew}

/-- An instruction on crew S[a] outside a pair. -/
theorem State.withCrew_of_number (single : s.cw.pair = none) (small : (s.sreg a).toNat < 256) (k : Nat → State) :
    s.withCrew a k = k (s.sreg a).toNat := by
  rw [withCrew, unpaired_of_single _ single, if_neg (Nat.not_le.2 small)]

theorem State.withCrew_of_pair (pair : s.cw.pair ≠ none) (k : Nat → State) : s.withCrew a k = s.trap { cause := 0x29 } :=
  unpaired_of_pair _ pair

theorem State.withCrew_of_large (single : s.cw.pair = none) (large : 256 ≤ (s.sreg a).toNat) (k : Nat → State) :
    s.withCrew a k = s.trap { cause := 0x20 } := by
  rw [withCrew, unpaired_of_single _ single, if_pos large]

/-- The instructions that read a crew number as they start. -/
theorem exec_of_crewStart {sc : Scope} {i : Instr} (starts : i ∈ [.crewJoin d a, .crewLeave d a, .crewSize d a, .crewRank d a] ∨
    (s.frag.bar = none ∧ i ∈ [.bar a sc, .barSwap a sc])) : ∃ k, exec i s = .next (s.withCrew a k) := by
  have bars (i : Instr) (sw : Bool) (fresh : s.frag.bar = none) : ∃ k, s.barrier i a sc sw = s.withCrew a k := by
    rw [State.barrier, fresh]
    exact ⟨_, rfl⟩
  simp only [List.mem_cons, List.not_mem_nil, or_false] at starts
  rcases starts with (rfl | rfl | rfl | rfl) | ⟨fresh, rfl | rfl⟩
  · exact ⟨_, rfl⟩
  · exact ⟨_, rfl⟩
  · exact ⟨_, rfl⟩
  · exact ⟨_, rfl⟩
  · obtain ⟨k, h⟩ := bars (.bar a sc) false fresh
    exact ⟨k, congrArg Host.Outcome.next h⟩
  · obtain ⟨k, h⟩ := bars (.barSwap a sc) true fresh
    exact ⟨k, congrArg Host.Outcome.next h⟩

variable (single : s.cw.pair = none) (small : (s.sreg a).toNat < 256)
include single small

theorem exec_crewJoin : exec (.crewJoin d a) s = .next (match s.joinCrew (s.sreg a).toNat with
    | some (t, n) => (t.setS d (BitVec.ofNat 64 n)).finish (.crewJoin d a)
    | none => s.trap { cause := 0x22 }) :=
  congrArg Host.Outcome.next (State.withCrew_of_number single small _)

theorem exec_crewLeave_outside (out : s.isMember (s.sreg a).toNat = false) : exec (.crewLeave d a) s = .next (s.trap { cause := 0x21 }) :=
  congrArg Host.Outcome.next ((State.withCrew_of_number single small _).trans (if_pos (by simp [out])))

theorem exec_crewRank_outside (out : s.isMember (s.sreg a).toNat = false) : exec (.crewRank d a) s = .next (s.trap { cause := 0x21 }) :=
  congrArg Host.Outcome.next ((State.withCrew_of_number single small _).trans (if_pos (by simp [out])))

theorem exec_crewSize : exec (.crewSize d a) s = s.writeS (.crewSize d a) d (match s.crew s.cw.ctx (s.sreg a).toNat with
    | some x => x.registers
    | none => 0) :=
  congrArg Host.Outcome.next (State.withCrew_of_number single small _)

/-- CREW.RANK of a member answers its rank. -/
theorem exec_crewRank (crew : s.crew s.cw.ctx (s.sreg a).toNat = some x) (member : x.has s.cur = true) :
    exec (.crewRank d a) s = s.writeS (.crewRank d a) d (match rankOf x.cols (s.homeLcn s.cw) with
      | some r => BitVec.ofNat 64 r
      | none => BitVec.allOnes 64) := by
  refine congrArg Host.Outcome.next ((State.withCrew_of_number single small _).trans ?_)
  simp only [State.isMember, crew, member, Bool.not_true, Bool.false_eq_true, if_false] <;> rfl

end

end Sys2Proof.Machine

namespace Sys2Proof.Machine

/-! ## BAR and BAR.SWAP (09 R253, R254) -/

section
variable {s : State} {i : Instr} {a : Reg} {sc : Scope} {swap : Bool} {b : BarWait}

/-- A BAR that the controller has released goes on, and acquires where its phase completed. -/
theorem State.barAt_of_released (h : b.released = true) (hv : s.frag.valid = true) (hc : (encodeControl i).isSome) :
    ∃ x, s.barAt i b sc swap = { s.setW x with seq := if b.acquire then s.seq + 1 else s.seq } ∧
      x = { s.cw with split := x.split, acqs := x.acqs } ∧ Spec.AcquiresAt s.cw x (if b.acquire then .acq else .rlx) s.seq ∧
      ∃ w0 ws, encode i = some (w0 :: ws) ∧ FragmentIs s.cw x s.ent { s.frag with
        bar := none, pc := s.frag.pc + BitVec.ofNat 42 (4 * (ws.length + 1)), sig := foldSig s.frag.sig w0 } := by
  obtain ⟨r, hr⟩ : ∃ r : Ord, r = if b.acquire then .acq else .rlx := ⟨_, rfl⟩
  have he := valid_lt hv
  let y := s.cw.setEntry s.ent { s.frag with bar := none }
  have run : s.barAt i b sc swap = ((s.setW y).acquire r).finish i := by
    rw [barAt, if_pos h, hr]
    cases b.acquire <;> rfl
  have order : (if b.acquire then s.seq + 1 else s.seq) = if ordAcq r then s.seq + 1 else s.seq := by
    rw [hr]
    cases b.acquire <;> rfl
  rw [run, acquire_finish, cw_setW, ← hr, order]
  obtain ⟨w0, ws, words, others, this⟩ := advances_acquired (x := y) hc he rfl r s.seq
  refine ⟨(y.acquired r s.seq).advance i s.ent, by rw [setW_setW]; rfl, Watch.advance_acquired y r s.seq i s.ent,
    acquiresAt_acquired i s.ent rfl fun _ open_ => open_, w0, ws, words, fun k hk => (others k hk).trans (Watch.entry_setEntry_other _ _ hk), ?_⟩
  rw [this, Watch.entry_setEntry_same _ _ he]

theorem State.barAt_of_sent (h : b.released = false) (sent : b.sent = true) : s.barAt i b sc swap = s := by
  simp [State.barAt, h, sent]

/-- The BAR arrives: it finds the watch's arrival, waits for the release, or sends its arrival to the controller. -/
theorem State.barAt_of_new (h : b.released = false) (new_ : b.sent = false) : s.barAt i b sc swap =
    let here := { b with phase := s.phaseOf b.crew, sent := true }
    if s.hasArrived b.crew then s.setW (s.cw.setEntry s.ent { s.frag with bar := some here })
    else if s.released .ar sc = false then s.setW (s.cw.setEntry s.ent { s.frag with bar := some b })
    else (s.sendCrew s.cw.ctx (.arrive b.crew s.cur swap)).setW (s.cw.setEntry s.ent { s.frag with bar := some here }) := by
  simp only [State.barAt, h, new_, Bool.false_eq_true, if_false, Bool.not_eq_true']
  rfl

end

section
variable {s : State} {i : Instr} {a : Reg} {sc : Scope} {swap : Bool} {b : BarWait}

/-- A BAR of crew S[a] that finds no wait of its fragment to go on with. -/
theorem State.barrier_of_start (single : s.cw.pair = none) (small : (s.sreg a).toNat < 256)
    (fresh : s.frag.bar.filter (fun b => !b.again) = none) (new_ : s.frag.bar.filter (fun b => b.crew == (s.sreg a).toNat && b.sent) = none) :
    s.barrier i a sc swap = if s.isMember (s.sreg a).toNat = false then s.trap { cause := 0x21 }
      else s.barAt i { crew := (s.sreg a).toNat, phase := s.phaseOf (s.sreg a).toNat } sc swap := by
  rw [barrier, fresh, withCrew_of_number single small, new_]
  simp only [Bool.not_eq_true']

/-- A BAR goes on with its wait, whatever S[a] is now. -/
theorem State.barrier_of_wait (at_ : s.frag.bar = some b) (going : b.again = false) : s.barrier i a sc swap = s.barAt i b sc swap := by
  rw [barrier, at_]
  simp only [Option.filter, going, Bool.not_false, if_true]

/-- A BAR that was stopped in its wait finds the arrival that it made in its crew. -/
theorem State.barrier_of_again (single : s.cw.pair = none) (at_ : s.frag.bar = some b) (stopped : b.again = true) (sent : b.sent = true)
    (crew : b.crew = (s.sreg a).toNat) (small : (s.sreg a).toNat < 256) :
    s.barrier i a sc swap = s.barAt i { b with again := false } sc swap := by
  rw [barrier, withCrew_of_number single small, at_]
  simp only [Option.filter, stopped, sent, crew, Bool.not_true, Bool.false_eq_true, if_false, beq_self_eq_true, Bool.and_self, if_true]

/-- A BAR arrives once: where the watch has not arrived in the open phase, and its release is done, the controller is sent the arrival. -/
theorem bar_arrives (hctx : (Tbl.find s.ctxs s.cw.ctx).isSome) (run : exec i s = .next (s.barAt i b sc swap)) (waiting : b.released = false)
    (new_ : b.sent = false) :
    let at_ := fun (r : State) (b : BarWait) => r.setW (s.cw.setEntry s.ent { s.frag with bar := some b })
    let here := { b with phase := s.phaseOf b.crew, sent := true }
    (s.hasArrived b.crew = true → exec i s = .next (at_ s here)) ∧
    (s.hasArrived b.crew = false → s.released .ar sc = false → exec i s = .next (at_ s b)) ∧
    (s.hasArrived b.crew = false → s.released .ar sc = true → ∃ r, exec i s = .next (at_ r here) ∧
      (r.ctx s.cw.ctx).msgs = (s.ctx s.cw.ctx).msgs ++ [.arrive b.crew s.cur swap] ∧ r.crew s.cw.ctx b.crew = s.crew s.cw.ctx b.crew ∧
      r.mem = s.mem) := by
  intro at_ here
  rw [State.barAt_of_new waiting new_] at run
  refine ⟨fun arrived => ?_, fun absent open_ => ?_, fun absent released => ?_⟩
  · rw [run, if_pos arrived]
  · rw [run, if_neg (by simp [absent]), if_pos open_]
  · refine ⟨s.sendCrew s.cw.ctx (.arrive b.crew s.cur swap), ?_, ?_, ?_, rfl⟩
    · rw [run, if_neg (by simp [absent]), if_neg (by simp [released])]
    · rw [State.sendCrew, State.ctx_modCtx hctx]
    · rw [State.crew, State.sendCrew, State.ctx_modCtx hctx]
      rfl

end

end Sys2Proof.Machine

namespace Sys2Proof

open Machine

/-- Settles O20: a BAR goes on with its wait (`State.barrier_of_wait`), finds its arrival again or starts, and arrives by `bar_arrives`. -/
theorem barArrivesOnceAndWaits : Obligations.BarArrivesOnceAndWaits := by
  intro s a sc swap hv hctx single i c cx at_ arrives starts goesOn
  have run : exec i s = .next (s.barrier i a sc swap) := by cases swap <;> rfl
  have hc : (encodeControl i).isSome := by cases swap <;> rfl
  have start : c < 256 → s.frag.bar.filter (fun b => !b.again) = none → s.frag.bar.filter (fun b => b.crew == c && b.sent) = none → starts := by
    intro small fresh new_
    rw [State.barrier_of_start single small fresh new_] at run
    refine ⟨fun out => by rw [run, if_pos out], fun member => ?_⟩
    rw [if_neg (by simp [c, member])] at run
    exact bar_arrives hctx run rfl rfl
  have released : ∀ b, exec i s = .next (s.barAt i b sc swap) → b.released = true → goesOn b := fun b run h => by
    obtain ⟨x, done, rest⟩ := State.barAt_of_released h hv hc
    exact ⟨x, run.trans (congrArg Host.Outcome.next done), rest⟩
  refine ⟨fun fresh small => start small (by rw [fresh]; rfl) (by rw [fresh]; rfl), fun b wait => ⟨fun going => ?_, fun stopped small => ⟨?_, ?_⟩⟩⟩
  · have run := run.trans (congrArg Host.Outcome.next (State.barrier_of_wait wait going))
    exact ⟨released b run, fun waiting sent => run.trans (congrArg Host.Outcome.next (State.barAt_of_sent waiting sent)),
      fun waiting new_ => bar_arrives hctx run waiting new_⟩
  · intro crew sent
    have run := run.trans (congrArg Host.Outcome.next (State.barrier_of_again single wait stopped sent crew small))
    exact ⟨released { b with again := false } run, fun waiting => run.trans (congrArg Host.Outcome.next (State.barAt_of_sent waiting sent))⟩
  · intro other
    refine start small (by rw [wait]; simp [Option.filter, stopped]) ?_
    rw [wait]
    rcases other with other | unsent <;> simp [Option.filter, *]

end Sys2Proof

namespace Sys2Proof.Machine

/-! ## The error interrupt (14 R374, R379, R383) -/

/-- Enmon's last record is the one just logged. -/
theorem State.enlog_eq (s : State) (l : List Word) : ∃ log base, log.getLast? = some l ∧
    s.enlog l = { s with enmon := { s.enmon with log := log, logBase := base } } := by
  refine ⟨(s.enmon.log ++ [l]).drop ((s.enmon.log ++ [l]).length - 4096), s.enmon.logBase + ((s.enmon.log ++ [l]).length - 4096), ?_, rfl⟩
  have some_ : ¬(s.enmon.log ++ [l]).length ≤ (s.enmon.log ++ [l]).length - 4096 := by
    rw [List.length_append, List.length_singleton]
    omega
  rw [List.getLast?_drop, if_neg some_, List.getLast?_concat]

/-- What an error interrupt changes: the log of Enmon and its counts, and the events that wait for the ring of the die. -/
theorem State.errorInterrupt_eq (s : State) (c : Ctl) (die pcn : Nat) (a : Word) :
    ∃ log base, log.getLast? = some [0x19, BitVec.ofNat 64 pcn, a] ∧ s.errorInterrupt c die pcn a = { s with
      dies := Tbl.put s.dies die { s.die die with events := (s.die die).events ++ [{ words :=
        [BitVec.ofNat 64 (3 + die <<< 8 + 0 <<< 16 + (pcn % 2 ^ 32) <<< 32), a] }] }
      enmon := { s.enmon with
        log := log, logBase := base
        errs := Tbl.put s.enmon.errs c.code ((Tbl.getD s.enmon.errs c.code (0, 0)).1, (Tbl.getD s.enmon.errs c.code (0, 0)).2 + 1)
        colErrs := match ctlColumn c with
          | some p => Tbl.put s.enmon.colErrs p (Tbl.getD s.enmon.colErrs p 0 + 1)
          | none => s.enmon.colErrs } } := by
  obtain ⟨log, base, last, run⟩ := s.enlog_eq [0x19, BitVec.ofNat 64 pcn, a]
  refine ⟨log, base, last, ?_⟩
  rw [State.errorInterrupt, run]
  rfl

/-- An error interrupt is told to Enmon and to the host. -/
theorem State.errorTold_errorInterrupt (s : State) (c : Ctl) (die pcn : Nat) (a : Word) :
    Spec.ErrorTold s (s.errorInterrupt c die pcn a) c die pcn a := by
  obtain ⟨log, base, last, run⟩ := s.errorInterrupt_eq c die pcn a
  rw [run]
  refine ⟨rfl, rfl, last, Tbl.getD_put_same .., ?_, fun other => ?_, ⟨_, congrArg Die.events (Tbl.getD_put_same ..), ?_⟩⟩
  · rintro p (rfl | rfl | rfl) <;> exact Tbl.getD_put_same ..
  · cases c with
    | bank p => exact absurd rfl (other p).1
    | l2 p => exact absurd rfl (other p).2.1
    | scratch p => exact absurd rfl (other p).2.2
    | _ => rfl
  · simp only [Nat.shiftLeft_eq, Nat.mul_comm, Nat.zero_mul, Nat.add_zero]

theorem State.errorInterrupt_watches (s : State) (c : Ctl) (die pcn : Nat) (a : Word) : (s.errorInterrupt c die pcn a).watches = s.watches := by
  obtain ⟨_, _, _, run⟩ := s.errorInterrupt_eq c die pcn a
  rw [run]

/-! ## Abort completions (09 R268) -/

theorem abortOp_of_read {s : State} {w : Nat} {x : Watch} {id : Nat} {o : Op} {a : Acc} (op : x.op id = some o) (read : o.isLoad = true ∨ o.isAtom = true)
    (first : o.accs.find? (fun a => !a.got) = some a) : s.abortOp w x o =
      let t := s.errorInterrupt (Spec.holder a.pcn a.addr) (a.pcn / 512) a.pcn (a.addr &&& ~~~31)
      ((t.modWatch w fun x => x.modOp id fun o => { o with err := true }).asyncTrap w o.ent { cause := 0x19, addr := a.addr &&& ~~~31 }).retireDue
        a.pcn := by
  have reads : (o.isLoad || o.isAtom) = true := by simpa using read
  simp only [State.abortOp, first, reads, if_true, Watch.id_of_op op]
  rfl

theorem State.completeOp_modWatch {u : State} {w : Nat} {x : Watch} (there : Tbl.find u.watches w = some x) (f : Watch → Watch) (op : Nat) :
    (u.modWatch w f).completeOp w op = u.modWatch w fun _ => (f x).completes op := by
  rw [State.modWatch_of_find there]
  exact State.modWatch_modWatch there _ _

section
variable {s : State} {w : Nat} {x : Watch} (hx : Tbl.find s.watches w = some x)
include hx

/-- An operation in flight meets an uncorrectable error at the sector of its first access that is not performed. -/
theorem exec_uncor_op {id : Nat} {o : Op} (op : x.op id = some o) (open_ : o.done = false) :
    exec (.uncorAbortCompletion (.op w id)) s = .next (s.abortOp w x o) :=
  congrArg Host.Outcome.next (State.onOp_of_find hx op open_ _)

/-- A store into a partly written sector is dropped. -/
theorem abortOp_of_store {id : Nat} {o : Op} {a : Acc} {f : StoreEnt} (op : x.op id = some o) (store : o.kind = .st ∨ o.kind = .sst)
    (first : o.accs.find? (fun a => !a.got) = some a) (held : x.fifo.find? (fun f => f.op == id) = some f) :
    ∃ y : Watch, y = { x with fifo := x.fifo.erase f, ops := y.ops } ∧ s.abortOp w x o =
      let t := s.errorInterrupt (Spec.holder a.pcn a.addr) (a.pcn / 512) a.pcn (a.addr &&& ~~~31)
      ((t.modWatch w fun _ => y).asyncTrap w o.ent { cause := 0x19, addr := a.addr &&& ~~~31 }).retireDue a.pcn := by
  have op_ : f.op = id := eq_of_beq (List.find?_some (p := fun e : StoreEnt => e.op == id) held)
  have frame := (x.storedFrom_stored f (x.fifo.erase f)).completes id
  unfold Watch.StoredFrom at frame
  rw [Watch.held_completes] at frame
  refine ⟨_, frame, ?_⟩
  have notRead : (o.isLoad || o.isAtom) = false := by rcases store with h | h <;> simp [Op.isLoad, Op.isAtom, h]
  have isStore : (o.kind == .st || o.kind == .sst) = true := by simpa using store
  simp only [State.abortOp, first, notRead, isStore, if_true, Bool.false_eq_true, if_false, Watch.id_of_op op, held]
  have there : Tbl.find (s.errorInterrupt (ctlOf a.pcn a.addr) (dieOfCol a.pcn) a.pcn (sectorAddr a.addr)).watches w = some x := by
    rw [State.errorInterrupt_watches]
    exact hx
  rw [State.completeOp_modWatch there, ← op_]
  rfl

theorem exec_uncor_fetch {e : Nat} {at_ : Word} (valid : (x.entry e).valid = true) (runs : (x.entry e).wait = false) (live : s.isLive x = true) :
    exec (.uncorAbortCompletion (.fetch w e at_)) s = .next
      (((s.errorInterrupt (Spec.holder x.home at_) (x.home / 512) x.home (at_ &&& ~~~31)).asWatch w e fun s =>
        s.trap { cause := 0x19, addr := at_ &&& ~~~31 }).retireDue x.home) := by
  refine congrArg Host.Outcome.next ((State.onWatch_of_find hx _).trans ?_)
  simp only [valid, runs, live, Bool.not_true, Bool.or_false, Bool.false_eq_true, if_false]
  rfl

/-- The oldest element of a lane's queue is marked. -/
def Queue.marked (k : Queue) (l : Nat) (e : Elem) (rest : List Elem) : Queue :=
  { k with elems := Vector.ofFn fun i => if i.val = l then e :: rest else k.elems[i] }

theorem exec_uncor_elem {q l : Nat} {v : Elem} {rest : List Elem} (idle : x.chain = none)
    (first : (x.queue q).elems[l]? = some (v :: rest)) :
    let sec := streamAddr (x.queue q) l ((x.queue q).popc[l]?.getD 0) &&& ~~~31
    exec (.uncorAbortCompletion (.elem w q l)) s = .next
      (((s.errorInterrupt (Spec.holder (x.pcnOf l) sec) (x.pcnOf l / 512) (x.pcnOf l) sec).modWatch w fun _ =>
        x.setQ q ((x.queue q).marked l (.uncor sec) rest)).retireDue (x.pcnOf l)) := by
  intro sec
  refine congrArg Host.Outcome.next ((State.onWatch_of_find hx _).trans ?_)
  simp only [first, idle, Option.getD_some, Option.isSome_none, Bool.false_eq_true, if_false]
  generalize hu : s.errorInterrupt (ctlOf (x.pcnOf l) _) (dieOfCol (x.pcnOf l)) (x.pcnOf l) _ = u
  have there : Tbl.find u.watches w = some x := by
    rw [← hu, State.errorInterrupt_watches]
    exact hx
  rw [State.modWatch_of_find there, ← hu]
  rfl

theorem exec_uncor_matrix {wb : Bool} {m : MatOp} (mat : x.mat = some m) : exec (.uncorAbortCompletion (.matrix w wb)) s = .next
    ((s.errorInterrupt (if wb then .wbuf x.core else .tiles x.core) (x.home / 512) x.home 0).matrixError w x m) := by
  refine congrArg Host.Outcome.next ((State.onWatch_of_find hx _).trans ?_)
  simp only [mat]
  rfl

end

/-- A matrix instruction that meets an error has written nothing; where the watch goes on from the trap, it is performed again. -/
theorem State.matrixError_eq (u : State) (w : Nat) (x : Watch) (m : MatOp) : u.matrixError w x m =
    let r := (u.modWatch w fun x => { x with
      mat := none
      tiles := (m.before.map (·.1)).getD x.tiles
      rows := (m.before.map (·.2)).getD x.rows }).asyncTrap w m.ent { cause := 0x19, lane := true, lanePc := m.index }
    if x.pair = none ∧ (x.inh = true ∨ x.crgn = []) then r.modWatch w fun y => if y.ended then y else { y with
      mat := some { m with left := if isMma m.instr then quartersOf m.mask m.rbnd else [], before := none } }
    else r := by
  have resumes : (x.pair.isNone && (x.inh || x.crgn.isEmpty)) = true ↔ x.pair = none ∧ (x.inh = true ∨ x.crgn = []) := by
    simp only [Bool.and_eq_true, Bool.or_eq_true, Option.isNone_iff_eq_none, List.isEmpty_iff]
  unfold State.matrixError
  cases m.before <;> exact if_congr resumes rfl rfl

section
variable {s : State} {kind at2 id p : Nat} {at_ : Word} (low : p < 1024)
include low

/-- An engine's command that still reads data ends with code 4. -/
theorem exec_uncor_job (job : ∃ j ∈ s.jobList kind at2, j.id = id ∧ s.jobReads kind j = true) :
    exec (.uncorAbortCompletion (.engine kind at2 id p at_)) s = .next
      (((s.errorInterrupt (Spec.holder p at_) (p / 512) p (at_ &&& ~~~31)).modJob kind at2 id fun j =>
        { j with fail := if j.fail = 0 then 4 else j.fail }).retireDue p) := by
  have any : (s.jobList kind at2).any (fun j => j.id == id && s.jobReads kind j) = true := by simpa [List.any_eq_true] using job
  exact congrArg Host.Outcome.next ((if_neg (Nat.not_le.2 low)).trans (if_pos any))

/-- A run fails in the strand of the column. -/
theorem exec_uncor_run (run : ∃ r ∈ s.runs, r.id = id) :
    exec (.uncorAbortCompletion (.engine 3 at2 id p at_)) s = .next
      (let u := s.errorInterrupt (Spec.holder p at_) (p / 512) p (at_ &&& ~~~31)
      { u with runs := u.runs.map fun (r : Run) =>
        if r.id = id ∧ r.code = 0 then { r with code := 4, fstr := r.strands.findIdx (fun (t : Strand) => t.col == p) } else r }.retireDue p) := by
  have any : 3 = 3 ∧ s.runs.any (·.id == id) = true := ⟨rfl, by simpa [List.any_eq_true] using run⟩
  have fails : (fun r : Run => if r.id = id then r.failAt 4 p else r) =
      fun (r : Run) => if r.id = id ∧ r.code = 0 then { r with code := 4, fstr := r.strands.findIdx (fun (t : Strand) => t.col == p) } else r := by
    funext r
    unfold Run.failAt
    split <;> simp_all
  rw [← fails]
  exact congrArg Host.Outcome.next ((if_neg (Nat.not_le.2 low)).trans ((if_neg (by simp [State.jobList])).trans (if_pos any)))

/-- A node whose offset vector is read fails with code 6. -/
theorem exec_uncor_vector (due : s.vectorDue id = true) :
    exec (.uncorAbortCompletion (.engine 4 at2 id p at_)) s = .next
      (((s.errorInterrupt (Spec.holder p at_) (p / 512) p (at_ &&& ~~~31)).failNode id 6 0).retireDue p) :=
  congrArg Host.Outcome.next ((if_neg (Nat.not_le.2 low)).trans ((if_neg (by simp [State.jobList])).trans
    ((if_neg (by simp)).trans (if_pos ⟨rfl, due⟩))))

end

end Sys2Proof.Machine

namespace Sys2Proof

open Machine

/-- Settles O43: each consumer by the equation of its abort completion, the interrupt by `State.errorTold_errorInterrupt`. -/
theorem errorsReachTheirConsumer : Obligations.ErrorsReachTheirConsumer := by
  intro s w e id at_ wb x hx
  have told := fun (c : Ctl) (die pcn : Nat) (a : Word) => State.errorTold_errorInterrupt s c die pcn a
  refine ⟨fun o a op open_ read first => ⟨_, told .., ?read⟩, fun o a f op open_ store first held => ?store,
    fun valid runs live => ⟨_, told .., exec_uncor_fetch hx valid runs live⟩, fun q l v rest hq hl idle first => ?elem,
    fun m mat => ⟨_, told .., ?matrix⟩, fun kind at2 p low => ⟨_, told .., fun job => exec_uncor_job low job, ?run, ?vector⟩,
    fun die => ⟨_, rfl, told ..⟩, fun c => ⟨_, rfl, rfl, Tbl.getD_put_same ..⟩, fun r p => ⟨fun few => if_neg few, fun fourth => ?fourth⟩⟩
  case read => rw [exec_uncor_op hx op open_, abortOp_of_read op read first]
  case store =>
    obtain ⟨y, hy, dropped⟩ := abortOp_of_store hx op store first held
    exact ⟨_, y, told .., hy, by rw [exec_uncor_op hx op open_, dropped]⟩
  case elem =>
    refine ⟨_, _, told .., rfl, fun n hn => Watch.queue_setQ_other _ hn _, ?_, fun i => ?_, exec_uncor_elem hx idle first⟩
    · rw [Watch.queue_setQ_same _ hq]
      rfl
    · rw [Watch.queue_setQ_same _ hq]
      by_cases hi : i < 64
      · by_cases at_ : i = l <;> simp [Queue.marked, hi, hl, at_]
      · have : i ≠ l := fun h => hi (h ▸ hl)
        simp [Queue.marked, hi, this]
  case matrix =>
    refine ⟨fun single resumes => ?_, fun stops => ?_⟩ <;> rw [exec_uncor_matrix hx mat, State.matrixError_eq]
    · exact congrArg Host.Outcome.next (if_pos ⟨single, resumes⟩)
    · refine congrArg Host.Outcome.next (if_neg ?_)
      rintro ⟨single, resumes⟩
      rcases stops with pair | ⟨out, inside⟩
      · exact pair single
      · rcases resumes with h | h
        · simp [out] at h
        · exact inside h
  case run =>
    rintro rfl run
    exact exec_uncor_run low run
  case vector =>
    rintro rfl due
    exact exec_uncor_vector low due
  case fourth => rw [State.retireDue, if_pos fourth]; rfl

end Sys2Proof

namespace Sys2Proof.Machine

/-! ## Phases (09 R251; 10 R288) -/

/-- The device once a phase's swap is made and its members are released, before the crew opens the next phase. -/
def State.phaseOver (s : State) (cx c : Nat) (x : Crew) : State :=
  x.members.foldl (fun s m => s.modWatch m.w (releaseBars c x.phase true))
    (if x.members.any (·.swap) then x.cols.foldl (fun s l => s.swapColumn cx l) s else s)

theorem State.swapColumn_frame (s : State) (cx l : Nat) : s.swapColumn cx l = { s with layouts := (s.swapColumn cx l).layouts } := by
  unfold swapColumn
  split <;> rfl

/-- The end of a phase changes layouts and watches alone. -/
theorem State.phaseOver_frame (s : State) (cx c : Nat) (x : Crew) : s.phaseOver cx c x =
    { s with layouts := (s.phaseOver cx c x).layouts, watches := (s.phaseOver cx c x).watches } := by
  unfold phaseOver
  refine foldl_keeps (fun t : State => t = { s with layouts := t.layouts, watches := t.watches }) ?_ fun t m h => ?_
  · split
    · refine foldl_keeps (fun t : State => t = { s with layouts := t.layouts, watches := t.watches }) rfl fun t l h => ?_
      rw [swapColumn_frame]
      generalize (t.swapColumn cx l).layouts = y
      rw [h]
    · rfl
  · rw [modWatch]
    generalize Tbl.alter t.watches m.w _ = y
    rw [h]

theorem State.completePhase_eq (s : State) (cx c : Nat) (x : Crew) : s.completePhase cx c x =
    if (x.members.filter fun m => !m.faulted).isEmpty then (s.phaseOver cx c x).delCrew cx c else
    (s.phaseOver cx c x).setCrew cx c { x with
      members := (x.members.filter fun m => !m.faulted).map fun m => { m with arrived := false, swap := false }
      phase := x.phase + 1
      cols := (s.phaseOver cx c x).lcnsOf cx (x.members.filter fun m => !m.faulted) } := rfl

section
variable {s : State} {cx c : Nat} {x : Crew} (crew : s.crew cx c = some x)
include crew

/-- A member that has not arrived keeps the phase open. -/
theorem State.checkPhase_of_open (open_ : ∃ m ∈ x.members, m.arrived = false) : s.checkPhase cx c = s := by
  obtain ⟨m, hm, away⟩ := open_
  have some_ : x.members.isEmpty = false := by
    cases h : x.members with
    | nil => simp [h] at hm
    | cons => rfl
  have notAll : x.members.all (·.arrived) = false := List.all_eq_false.2 ⟨m, hm, by simp [away]⟩
  simp only [checkPhase, crew, some_, notAll, Bool.false_eq_true, if_false]

theorem State.checkPhase_of_empty (empty : x.members = []) : s.checkPhase cx c = s.delCrew cx c := by
  simp only [checkPhase, crew, empty, List.isEmpty_nil, if_true]

theorem State.checkPhase_of_all (some_ : x.members ≠ []) (all : ∀ m ∈ x.members, m.arrived = true) :
    s.checkPhase cx c = s.completePhase cx c x := by
  have nonempty : ¬x.members.isEmpty = true := fun h => some_ (List.isEmpty_iff.1 h)
  simp only [checkPhase, crew]
  rw [if_neg nonempty, if_pos (List.all_eq_true.2 all)]

end

theorem State.checkPhase_ent (s : State) (cx c : Nat) : (s.checkPhase cx c).ent = s.ent := by
  unfold checkPhase
  split
  · rfl
  · split
    · rfl
    · split
      · rw [completePhase_eq, phaseOver_frame]
        split <;> rfl
      · rfl

theorem completedPhaseOpensTheNext : Spec.CompletedPhaseOpensTheNext := by
  intro s cx c x crew some_ all keep t
  have frame := s.phaseOver_frame cx c x
  generalize hp : s.phaseOver cx c x = p at frame
  have ctxs : p.ctxs = s.ctxs := by rw [frame]
  have there : (Tbl.find p.ctxs cx).isSome := ctxs ▸ State.ctx_of_crew crew
  have run : t = _ := (State.checkPhase_of_all crew some_ all).trans (State.completePhase_eq ..)
  rw [hp] at run
  refine ⟨fun none_ => ?_, fun stay => ?_, ?_⟩
  · rw [run, if_pos (List.isEmpty_iff.2 none_)]
    exact State.crew_delCrew there
  · rw [run, if_neg (fun h => stay (List.isEmpty_iff.1 h))]
    refine ⟨_, State.crew_setCrew there _, rfl, ?_, ?_, ?_, rfl, rfl⟩
    · exact List.map_map
    · simp only [List.mem_map, List.mem_filter, Bool.not_eq_true']
      rintro m ⟨n, ⟨-, stays⟩, rfl⟩
      exact ⟨rfl, rfl, stays⟩
    · simp only [State.lcnsOf, State.ctx, ctxs]
      rfl
  · rw [run, frame]
    split <;> rfl

theorem arrivalsAreRecorded : Spec.ArrivalsAreRecorded := by
  intro s cx c w swap rest x msgs crew y u
  have there := State.ctx_of_crew crew
  have now : u.crew cx c = some y := by
    rw [State.crew, State.ctx_modCtx there]
    exact Tbl.find_put_same ..
  refine ⟨?_, now, fun _ open_ => State.checkPhase_of_open now open_, fun empty => ?_⟩
  · have taken : (s.modCtx cx fun k => { k with msgs := rest }).crew cx c = some x := by
      rw [State.crew, State.ctx_modCtx there]
      exact crew
    have run : exec (.crewControllerArrival cx) s = .next ((s.modCtx cx fun k => { k with msgs := rest }).arrive cx c w swap) := by
      have run : exec (.crewControllerArrival cx) s = execCrewControllerArrival cx s := rfl
      rw [run, execCrewControllerArrival, State.nextMsg, msgs]
    rw [run, State.arrive, taken]
    exact congrArg (fun t : State => Host.Outcome.next (t.checkPhase cx c)) (State.modCtx_modCtx ..)
  · rw [State.checkPhase_of_empty now empty]
    exact State.crew_delCrew (by rw [State.isSome_modCtx]; exact there)

/-! ## Runs of groups that a crew's members have arrived for (15 R404) -/

/-- The crews, the messages and the watches are as before, and so is who executes. -/
structure SameCrews (cx : Nat) (s t : State) : Prop where
  crews : (t.ctx cx).crews = (s.ctx cx).crews
  msgs : (t.ctx cx).msgs = (s.ctx cx).msgs
  watches : t.watches = s.watches
  cur : t.cur = s.cur
  ent : t.ent = s.ent

section
variable {cx : Nat} {s t u : State}

theorem SameCrews.trans (h : SameCrews cx s t) (h' : SameCrews cx t u) : SameCrews cx s u where
  crews := h'.crews.trans h.crews
  msgs := h'.msgs.trans h.msgs
  watches := h'.watches.trans h.watches
  cur := h'.cur.trans h.cur
  ent := h'.ent.trans h.ent

theorem SameCrews.crew (h : SameCrews cx s t) (c : Nat) : t.crew cx c = s.crew cx c := by rw [State.crew, h.crews, State.crew]

/-- A change of a context that keeps what a table of contexts shows of it. -/
theorem Tbl.getD_alter_keeps {β : Type} {l : Tbl Context} {f : Context → Context} (p : Context → β) (keeps : ∀ k, p (f k) = p k) :
    p (Tbl.getD (Tbl.alter l cx f) cx {}) = p (Tbl.getD l cx {}) := by
  cases h : Tbl.find l cx with
  | some k => simp only [Tbl.getD, Tbl.find_alter_same, h, Option.map_some, Option.getD_some, keeps]
  | none => simp only [Tbl.getD, Tbl.find_alter_same, h, Option.map_none]

theorem sameCrews_startColl (c : Nat) (x : Crew) (g : Nat) : SameCrews cx s (s.startColl cx c x g) := by
  unfold State.startColl
  dsimp only
  split
  · exact ⟨rfl, rfl, rfl, rfl, rfl⟩
  · refine {
      crews := (Tbl.getD_alter_keeps Context.crews ?_).trans (Tbl.getD_alter_keeps Context.crews ?_)
      msgs := (Tbl.getD_alter_keeps Context.msgs ?_).trans (Tbl.getD_alter_keeps Context.msgs ?_)
      watches := rfl
      cur := rfl
      ent := rfl } <;> exact fun _ => rfl

theorem sameCrews_startColls (c : Nat) (x : Crew) (l : List CollArr) :
    SameCrews cx s (l.foldl (fun s a => s.startColl cx c x a.group) s) :=
  foldl_keeps (SameCrews cx s) ⟨rfl, rfl, rfl, rfl, rfl⟩ fun _ a h => h.trans (sameCrews_startColl c x a.group)

end

section
variable {s : State} {cx c : Nat} {x : Crew}

theorem State.dropFaulted_ent (s : State) (cx c : Nat) : (s.dropFaulted cx c).ent = s.ent := by
  unfold dropFaulted
  split
  · rfl
  · dsimp only
    split <;> rfl

theorem State.recount_ent : (s.recount cx c).ent = s.ent := by
  unfold recount
  split
  · rfl
  next x h =>
    have starts := (sameCrews_startColls (cx := cx) (s := s) c x ((s.ctx cx).colls.filter (·.crew == c))).ent
    dsimp only
    split
    · exact (checkPhase_ent ..).trans starts
    · exact (dropFaulted_ent ..).trans ((checkPhase_ent _ cx c).trans starts)

variable (crew : s.crew cx c = some x)
include crew

/-- A crew with no member left is dissolved (09 R248). -/
theorem State.crew_recount_of_empty (empty : x.members = []) : (s.recount cx c).crew cx c = none := by
  have starts := sameCrews_startColls (cx := cx) (s := s) c x ((s.ctx cx).colls.filter (·.crew == c))
  simp only [recount, crew]
  generalize List.foldl _ s _ = t at starts ⊢
  have now : t.crew cx c = some x := (starts.crew c).trans crew
  have gone : (t.checkPhase cx c).crew cx c = none := by
    rw [checkPhase_of_empty now empty]
    exact crew_delCrew (ctx_of_crew now)
  split
  · exact gone
  · rw [dropFaulted, gone]
    exact gone

/-- A crew of which no member arrived for a run of a group checks its phase alone. -/
theorem State.recount_of_no_run (none_ : ∀ a ∈ (s.ctx cx).colls, a.crew ≠ c) : s.recount cx c = s.checkPhase cx c := by
  have empty : (s.ctx cx).colls.filter (·.crew == c) = [] := List.filter_eq_nil_iff.2 fun a ha => by simpa using none_ a ha
  simp only [recount, crew, empty, List.foldl_nil, if_true]

/-- A crew whose phase stays open keeps its members, but for those that departed by fault where a run of a group starts. -/
theorem State.recount_of_open (open_ : ∃ m ∈ x.members, m.arrived = false)
    (keeps : (∀ m ∈ x.members, m.faulted = false) ∨ ∀ a ∈ (s.ctx cx).colls, a.crew ≠ c) :
    (s.recount cx c).crew cx c = some x ∧ ((s.recount cx c).ctx cx).msgs = (s.ctx cx).msgs ∧ (s.recount cx c).watches = s.watches ∧
      (s.recount cx c).cur = s.cur := by
  rcases keeps with whole | none_
  · have starts := sameCrews_startColls (cx := cx) (s := s) c x ((s.ctx cx).colls.filter (·.crew == c))
    simp only [recount, crew]
    generalize List.foldl _ s _ = t at starts ⊢
    have now : t.crew cx c = some x := (starts.crew c).trans crew
    rw [checkPhase_of_open now open_]
    split
    · exact ⟨now, starts.msgs, starts.watches, starts.cur⟩
    · have all : x.members.filter (fun m => !m.faulted) = x.members := List.filter_eq_self.2 fun m hm => by simp [whole m hm]
      have some_ : x.members.isEmpty = false := by
        obtain ⟨m, hm, -⟩ := open_
        exact List.isEmpty_eq_false_iff.2 (List.ne_nil_of_mem hm)
      have there := ctx_of_crew now
      have drop : t.dropFaulted cx c = t.setCrew cx c x := by
        simp only [dropFaulted, now, all, some_, Bool.false_eq_true, if_false]
      rw [drop]
      exact ⟨crew_setCrew there x, (congrArg Context.msgs (ctx_modCtx there _)).trans starts.msgs, starts.watches, starts.cur⟩
  · rw [recount_of_no_run crew none_, checkPhase_of_open crew open_]
    exact ⟨crew, rfl, rfl, rfl⟩

end

/-! ## Departures (09 R250, R252) -/

theorem entry_releaseBars (c phase : Nat) (acquire : Bool) (w : Watch) (k : Nat) :
    (releaseBars c phase acquire w).entry k = (w.entry k).releaseBar c phase acquire := by
  by_cases hk : k < 8
  · simp [Watch.entry, releaseBars, hk]
  · simp [Watch.entry, hk, SplitEntry.releaseBar]

/-- The crew once a watch has left it, before its members are counted anew. -/
def State.left (s : State) (cx c w : Nat) (x : Crew) (off : Bool) (why : BitVec 4) : State :=
  ((s.setCrew cx c { (x.report off why) with members := x.members.filter (·.w != w) }).modWatch w (releaseBars c x.phase false)).modCtx cx
    fun k => { k with
      colls := k.colls.filter (fun a => !(a.w == w && a.crew == c))
      msgs := k.msgs.filter (fun m => !m.isArrivalOf c w) }

section
variable {s : State} {cx c : Nat} {x : Crew} (w : Nat) (off : Bool) (why : BitVec 4) (crew : s.crew cx c = some x)
include crew

theorem State.departCrew_of_crew : s.departCrew cx c w off why = (s.left cx c w x off why).recount cx c := by
  unfold departCrew
  rw [crew]
  rfl

theorem State.ctx_left : (s.left cx c w x off why).ctx cx = { s.ctx cx with
    crews := Tbl.put (s.ctx cx).crews c { (x.report off why) with members := x.members.filter (·.w != w) }
    colls := (s.ctx cx).colls.filter (fun a => !(a.w == w && a.crew == c))
    msgs := (s.ctx cx).msgs.filter (fun m => !m.isArrivalOf c w) } := by
  have there := ctx_of_crew crew
  have later : (Tbl.find ((s.setCrew cx c { (x.report off why) with members := x.members.filter (·.w != w) }).modWatch w
      (releaseBars c x.phase false)).ctxs cx).isSome := by
    rw [modWatch_ctxs, setCrew, isSome_modCtx]
    exact there
  rw [left, ctx_modCtx later]
  have inner : ((s.setCrew cx c { (x.report off why) with members := x.members.filter (·.w != w) }).modWatch w
      (releaseBars c x.phase false)).ctx cx = _ := ctx_modCtx there _
  rw [inner]

theorem State.crew_left : (s.left cx c w x off why).crew cx c = some { (x.report off why) with members := x.members.filter (·.w != w) } := by
  rw [State.crew, ctx_left w off why crew]
  exact Tbl.find_put_same ..

end

/-- A departure by fault: an arrival of the watch counts, and where there is none it counts as one. -/
theorem State.faultCrew_eq {s : State} {cx c : Nat} {x : Crew} (w : Nat) (off : Bool) (why : BitVec 4) (crew : s.crew cx c = some x) :
    s.faultCrew cx c w off why = (s.setCrew cx c { (x.report off why) with
      members := if ∃ m ∈ x.members, m.w = w ∧ m.arrived = true then x.members.filter (·.w != w)
        else x.members.map fun m => if m.w = w then { m with arrived := true, faulted := true } else m }).recount cx c := by
  have members : (x.report off why).members = x.members := by
    unfold Crew.report
    split <;> rfl
  have arrived : (x.members.any fun m => m.w == w && m.arrived) = true ↔ ∃ m ∈ x.members, m.w = w ∧ m.arrived = true := by
    simp [List.any_eq_true]
  unfold faultCrew
  rw [crew]
  simp only [members, arrived]

theorem departuresAreProcessed : Spec.DeparturesAreProcessed := by
  intro s cx w fault off why rest msgs u
  have there : (Tbl.find s.ctxs cx).isSome := by
    cases h : Tbl.find s.ctxs cx with
    | some _ => rfl
    | none => simp [State.ctx, Tbl.getD, h] at msgs
  refine ⟨?_, fun c => ?_, fun r c x crew => ?_⟩
  · have run : exec (.crewDeparture cx) s = execCrewDeparture cx s := rfl
    rw [run, execCrewDeparture, State.nextMsg, msgs]
    rfl
  · have taken : u.ctx cx = { s.ctx cx with msgs := rest } := State.ctx_modCtx there _
    rw [State.crewsOf, taken]
    simp only [List.mem_map, List.mem_filter, List.any_eq_true, beq_iff_eq, Prod.exists, exists_and_right, exists_eq_right]
  · intro y here
    refine ⟨fun arrived => ?_, fun away => ?_, State.recount_of_no_run crew, r.left cx c w x off why, State.departCrew_of_crew w off why crew,
      fun a ha => ?_, State.crew_left w off why crew, fun z hz => ?_⟩
    · rw [State.faultCrew_eq w off why crew, if_pos arrived]
      rfl
    · rw [State.faultCrew_eq w off why crew, if_neg away]
      rfl
    · rw [State.ctx_left w off why crew] at ha
      have apart := (List.mem_filter.1 ha).2
      simpa [Decidable.not_and_iff_or_not] using apart
    · refine ⟨_, State.find_modWatch hz _, rfl, entry_releaseBars c x.phase false z⟩

/-! ## The release of a watch (04 R130; 11 R312, R332) -/

theorem State.readN_writeN (s : State) (key n v : Nat) : (s.writeN key n v).readN key n = v % 256 ^ n := memNat_memWrite ..

theorem State.readN_writeN_other (s : State) {key n k m : Nat} (v : Nat) (apart : k + m ≤ key ∨ key + n ≤ k) :
    (s.writeN key n v).readN k m = s.readN k m :=
  memNat_memWrite_other _ _ _ _ _ _ (by rwa [leBytes_length])

theorem State.memByte_writeN_other (s : State) {key n k : Nat} (v e : Nat) (apart : k < key ∨ key + n ≤ k) :
    memByte (s.writeN key n v).mem e k = memByte s.mem e k :=
  memByte_memWrite_other _ _ _ _ (by rw [leBytes_length]; omega)

/-- FCNT and FWHY of a node once a watch is gone (11 R332). -/
def Watch.countsFault (x : Watch) (v : Nat) : Nat :=
  if x.fmask = 0 ∨ x.kind = .trailer then v
  else min 4095 (v % 4096 + 1) + 4096 * (if v % 4096 = 0 then x.fmwhy.toNat else v / 4096)

theorem Watch.countsFault_lt (x : Watch) {v : Nat} (h : v < 2 ^ 16) : x.countsFault v < 256 ^ 2 := by
  have why := x.fmwhy.isLt
  unfold countsFault
  split
  · exact h
  · split <;> omega

section
variable {s : State} {x : Watch}

theorem State.reportMask_of_ctxs (c : Tbl Context) :
    State.reportMask { s with ctxs := c } x = { s with ctxs := c, mem := (s.reportMask x).mem } := by
  unfold reportMask
  dsimp only
  cases Tbl.find s.launches x.launch with
  | none => rfl
  | some l => dsimp only; split <;> rfl

theorem State.reportMask_epoch : (s.reportMask x).epoch = s.epoch := by
  unfold reportMask
  split
  · rfl
  · dsimp only
    split <;> rfl

theorem State.reportMask_of_none (gone : Tbl.find s.launches x.launch = none) : s.reportMask x = s := by
  simp only [reportMask, gone]

theorem State.reportBlock_of_none (gone : Tbl.find s.launches x.launch = none) : s.reportBlock x = s := by
  simp only [reportBlock, gone]

theorem State.reportBlock_frame : s.reportBlock x = { s with mem := (s.reportBlock x).mem } := by
  unfold reportBlock
  split
  · rfl
  · split <;> rfl

variable {l : Launch} (node : Tbl.find s.launches x.launch = some l)
include node

theorem State.reportMask_of_find : s.reportMask x = if x.fmask = 0 ∨ x.kind = .trailer then s
    else s.writeN (l.stateKey + 12) 2 (x.countsFault (s.readN (l.stateKey + 12) 2)) := by
  have guard : (x.kind == .trailer || x.fmask == 0) = true ↔ x.fmask = 0 ∨ x.kind = .trailer := by simp [or_comm]
  simp only [reportMask, node]
  by_cases h : x.fmask = 0 ∨ x.kind = .trailer
  · rw [if_pos h, if_pos (guard.2 h)]
  · rw [if_neg h, if_neg (mt guard.1 h), Watch.countsFault, if_neg h, Nat.shiftLeft_eq, Nat.mul_comm]
    rfl

theorem State.readN_reportMask : (s.reportMask x).readN (l.stateKey + 12) 2 = x.countsFault (s.readN (l.stateKey + 12) 2) := by
  rw [reportMask_of_find node]
  split
  next h => rw [Watch.countsFault, if_pos h]
  · rw [readN_writeN, Nat.mod_eq_of_lt (x.countsFault_lt (s.readN_lt _ 2))]

theorem State.readN_reportMask_other {k n : Nat} (apart : k + n ≤ l.stateKey + 12 ∨ l.stateKey + 14 ≤ k) :
    (s.reportMask x).readN k n = s.readN k n := by
  rw [reportMask_of_find node]
  split
  · rfl
  · exact s.readN_writeN_other _ apart

theorem State.memByte_reportMask_other {k : Nat} (e : Nat) (apart : k < l.stateKey + 12 ∨ l.stateKey + 14 ≤ k) :
    memByte (s.reportMask x).mem e k = memByte s.mem e k := by
  rw [reportMask_of_find node]
  split
  · rfl
  · exact s.memByte_writeN_other _ _ apart

/-- The last watch of a block counts in BLKDONE (11 R312). -/
theorem State.reportBlock_of_find : s.reportBlock x =
    if x.kind ≠ .responder ∧ ∀ p ∈ s.watches, ¬(p.2.launch = x.launch ∧ p.2.lblock = x.lblock ∧ p.2.kind ≠ .responder)
    then s.writeN (l.stateKey + 8) 4 (s.readN (l.stateKey + 8) 4 + 1) else s := by
  have last : (x.kind != .responder && !s.watches.any fun y => y.2.launch == x.launch && y.2.lblock == x.lblock && y.2.kind != .responder) = true ↔
      x.kind ≠ .responder ∧ ∀ p ∈ s.watches, ¬(p.2.launch = x.launch ∧ p.2.lblock = x.lblock ∧ p.2.kind ≠ .responder) := by
    simp only [Bool.and_eq_true, Bool.not_eq_true', List.any_eq_false, bne_iff_ne, beq_iff_eq, and_assoc, ne_eq]
  simp only [reportBlock, node]
  exact if_congr last rfl rfl

end

/-- The device once a finished watch has released its slot, before its block is counted. -/
theorem exec_watchRelease {s : State} {w : Nat} {x : Watch} (hx : Tbl.find s.watches w = some x) (done : x.finished = true) :
    ∃ ctxs, ((Tbl.find s.ctxs x.ctx).isSome → (Tbl.getD ctxs x.ctx {}).msgs = (s.ctx x.ctx).msgs ++
        if x.departed then [] else [.depart w false (x.fmask != 0) x.fmwhy]) ∧
      exec (.watchRelease w) s = .next (State.reportBlock { s with
        ctxs := ctxs, mem := (s.reportMask x).mem, watches := Tbl.del s.watches w } x) := by
  have run : exec (.watchRelease w) s = _ := congrArg Host.Outcome.next (State.onWatch_of_find hx _)
  simp only [done, Bool.not_true, Bool.false_eq_true, if_false] at run
  have sent : ∃ c, ((Tbl.find s.ctxs x.ctx).isSome → (Tbl.getD c x.ctx {}).msgs = (s.ctx x.ctx).msgs ++
        if x.departed then [] else [.depart w false (x.fmask != 0) x.fmwhy]) ∧
      (if x.departed then s else s.sendCrew x.ctx (.depart w false (x.fmask != 0) x.fmwhy)) = { s with ctxs := c } := by
    cases x.departed with
    | true => exact ⟨s.ctxs, fun _ => (List.append_nil _).symm, rfl⟩
    | false =>
      refine ⟨_, fun there => ?_, if_neg Bool.false_ne_true⟩
      exact congrArg Context.msgs (State.ctx_modCtx there fun k => { k with msgs := k.msgs ++ [.depart w false (x.fmask != 0) x.fmwhy] })
  obtain ⟨c, msgs, sent⟩ := sent
  rw [sent, State.reportMask_of_ctxs] at run
  split at run
  · refine ⟨_, fun there => ?_, run⟩
    rw [← msgs there]
    exact Tbl.getD_alter_keeps Context.msgs fun _ => rfl
  · exact ⟨c, msgs, run⟩

theorem watchesAreReleased : Spec.WatchesAreReleased := by
  intro s w x hx
  refine ⟨fun going => ?_, fun done => ?_⟩
  · refine congrArg Host.Outcome.next ((State.onWatch_of_find hx _).trans ?_)
    simp only [going, Bool.not_false, if_true]
  obtain ⟨ctxs, msgs, run⟩ := exec_watchRelease hx done
  generalize hr : ({ s with ctxs := ctxs, mem := (s.reportMask x).mem, watches := Tbl.del s.watches w } : State) = r at run
  have frame := State.reportBlock_frame (s := r) (x := x)
  refine ⟨_, run, fun n => ?_, fun there => ?_, fun gone => ?_, fun l node => ?_⟩
  · rw [frame, ← hr]
    exact Tbl.find_del ..
  · rw [frame, ← hr]
    exact msgs there
  · rw [State.reportBlock_of_none (by rw [← hr]; exact gone), ← hr, State.reportMask_of_none gone]
  have reads : ∀ k n, r.readN k n = (s.reportMask x).readN k n := fun k n => by
    rw [← hr, State.readN, State.readN, State.reportMask_epoch]
  have node' : Tbl.find r.launches x.launch = some l := by rw [← hr]; exact node
  have last : (x.kind ≠ .responder ∧ ∀ p ∈ r.watches, ¬(p.2.launch = x.launch ∧ p.2.lblock = x.lblock ∧ p.2.kind ≠ .responder)) ↔
      (x.kind ≠ .responder ∧ ∀ p ∈ s.watches, p.1 ≠ w → ¬(p.2.launch = x.launch ∧ p.2.lblock = x.lblock ∧ p.2.kind ≠ .responder)) := by
    simp only [← hr, Tbl.del, List.mem_filter, bne_iff_ne, and_imp]
  have blocks := s.readN_lt (l.stateKey + 8) 4
  have old : r.readN (l.stateKey + 8) 4 = s.readN (l.stateKey + 8) 4 := (reads ..).trans (State.readN_reportMask_other node (.inl le_rfl))
  refine ⟨?_, ?_, fun k apart => ?_⟩ <;> rw [State.reportBlock_of_find node', if_congr last rfl rfl]
  · split
    · exact (State.readN_writeN ..).trans (congrArg (fun n => (n + 1) % 2 ^ 32) old)
    · exact old.trans (Nat.mod_eq_of_lt blocks).symm
  · refine .trans ?_ ((reads ..).trans (State.readN_reportMask node))
    split
    · exact State.readN_writeN_other _ _ (.inr le_rfl)
    · rfl
  · change k < l.stateKey + 8 ∨ l.stateKey + 14 ≤ k at apart
    have same : memByte r.mem r.epoch k = memByte s.mem s.epoch k := by
      rw [← hr]
      exact State.memByte_reportMask_other node _ (by omega)
    split
    · exact (State.memByte_writeN_other _ _ _ (by omega)).trans same
    · exact same

end Sys2Proof.Machine

namespace Sys2Proof

open Machine

/-- Settles O42: the completed phase by `State.completePhase_eq`, departures by the crew as the watch leaves it, the release by what it writes. -/
theorem phasesCompleteAndWatchesLeave : Obligations.PhasesCompleteAndWatchesLeave :=
  ⟨completedPhaseOpensTheNext, arrivalsAreRecorded, departuresAreProcessed, watchesAreReleased⟩

end Sys2Proof

namespace Sys2Proof.Machine

/-! ## Membership (09 R248, R249) -/

theorem State.joinCrew_of_none {s : State} {c : Nat} (none_ : s.crew s.cw.ctx c = none) : s.joinCrew c =
    let me : Member := { w := s.cur, slot := s.cw.slot, cols := s.cw.cols }
    if 8 ≤ s.crewCount s.cw.ctx s.cur then none
    else some (s.setCrew s.cw.ctx c { members := [me], cols := s.lcnsOf s.cw.ctx [me] }, 1) := by
  simp only [joinCrew, none_]

theorem State.joinCrew_of_crew {s : State} {c : Nat} {x : Crew} (crew : s.crew s.cw.ctx c = some x) : s.joinCrew c =
    let y := { x with members := x.members.filter (·.w != s.cur) ++ [{ w := s.cur, slot := s.cw.slot, cols := s.cw.cols }] }
    if x.has s.cur = true then some (s, x.count)
    else if 8 ≤ s.crewCount s.cw.ctx s.cur then none else some (s.setCrew s.cw.ctx c y, y.count) := by
  simp only [joinCrew, crew]

theorem crewInstructionsAnswer : Spec.CrewInstructionsAnswer := by
  intro s d a sc i hv hctx c cx starts me
  refine ⟨fun pair h => ?_, fun single large h => ?_, fun single small => ⟨fun none_ few => ?_, fun none_ many => ?_, fun none_ => ?_, fun x crew => ?_⟩⟩
  · obtain ⟨k, run⟩ := exec_of_crewStart h
    rw [run, State.withCrew_of_pair pair]
  · obtain ⟨k, run⟩ := exec_of_crewStart h
    rw [run, State.withCrew_of_large single large]
  · refine writesIn_of_finish hv rfl rfl ((exec_crewJoin single small).trans ?_)
    rw [State.joinCrew_of_none none_, if_neg (Nat.not_le.2 few)]
    rfl
  · rw [exec_crewJoin single small, State.joinCrew_of_none none_, if_pos many]
  · have out : s.isMember c = false := by rw [State.isMember, none_]
    refine ⟨exec_crewRank_outside single small out, exec_crewLeave_outside single small out, writesScalar_of_eq (exec_crewSize single small) rfl hv ?_⟩
    rw [none_]
  have member : s.isMember c = x.has s.cur := by rw [State.isMember, crew]
  refine ⟨fun has => ?_, fun out few => ?_, fun out many => ?_, ?_, fun has r at_ first => ?_, fun has away => ?_, fun out => ?_⟩
  · refine writesScalar_of_eq ((exec_crewJoin single small).trans ?_) rfl hv rfl
    rw [State.joinCrew_of_crew crew, if_pos has]
    rfl
  · refine writesIn_of_finish hv rfl rfl ((exec_crewJoin single small).trans ?_)
    rw [State.joinCrew_of_crew crew, if_neg (by simp [out]), if_neg (Nat.not_le.2 few)]
  · rw [exec_crewJoin single small, State.joinCrew_of_crew crew, if_neg (by simp [out]), if_pos many]
  · refine writesScalar_of_eq (exec_crewSize single small) rfl hv ?_
    rw [crew]
    exact x.registers_eq
  · refine writesScalar_of_eq (exec_crewRank single small crew has) rfl hv ?_
    rw [rankOf_of_first at_ first]
  · refine writesScalar_of_eq (exec_crewRank single small crew has) rfl hv ?_
    rw [rankOf_of_not_mem away]
    rfl
  · exact ⟨exec_crewRank_outside single small (member.trans out), exec_crewLeave_outside single small (member.trans out)⟩

/-! ## CREW.LEAVE (09 R248, R250, R252) -/

theorem State.find_cur {s : State} (hv : s.frag.valid = true) : Tbl.find s.watches s.cur = some s.cw := by
  cases h : Tbl.find s.watches s.cur with
  | some w => rw [State.cw, State.watch_of_find h]
  | none =>
    have blank : s.cw = {} := by rw [State.cw, State.watch, Tbl.getD, h, Option.getD_none]
    have invalid : (({} : Watch).entry s.ent).valid = false := by
      by_cases he : s.ent < 8
      · simp [Watch.entry, he]
      · simp [Watch.entry, he]
    rw [State.frag, blank, invalid] at hv
    contradiction

/-- CREW.LEAVE of a member. -/
theorem exec_crewLeave {s : State} {d a : Reg} (single : s.cw.pair = none) (small : (s.sreg a).toNat < 256)
    (member : s.isMember (s.sreg a).toNat = true) : exec (.crewLeave d a) s = .next (
      let t := s.departCrew s.cw.ctx (s.sreg a).toNat s.cur (s.cw.fmask != 0) s.cw.fmwhy
      if s.cw.pathCount 7 ≠ 0 then s else (t.setS d (BitVec.ofNat 64 (match t.crew s.cw.ctx (s.sreg a).toNat with
        | some x => x.count
        | none => 0))).finish (.crewLeave d a)) :=
  congrArg Host.Outcome.next ((State.withCrew_of_number single small _).trans (if_neg (by simp [member])))

theorem leavingACrewRemovesTheWatch : Spec.LeavingACrewRemovesTheWatch := by
  intro s d a x hv hctx single c cx off small crew has
  have member : s.isMember c = true := by
    rw [State.isMember, crew]
    exact has
  have run := exec_crewLeave (d := d) single small member
  have departs : s.departCrew cx c s.cur off s.cw.fmwhy = _ := State.departCrew_of_crew s.cur off s.cw.fmwhy crew
  have now := State.crew_left s.cur off s.cw.fmwhy crew
  have ctx := State.ctx_left s.cur off s.cw.fmwhy crew
  refine ⟨fun busy => run.trans (congrArg Host.Outcome.next (if_pos busy)), fun free => ?_⟩
  rw [if_neg (not_not.2 free)] at run
  refine ⟨_, ⟨_, writesIn_of_finish hv rfl (by rw [departs, State.recount_ent]; rfl) run, rfl⟩, fun alone => ?_, fun ⟨m, hm, other, away⟩ keeps => ?_⟩
  · rw [departs]
    exact State.crew_recount_of_empty now (List.filter_eq_nil_iff.2 fun m hm => by simpa using alone m hm)
  · obtain ⟨crew', msgs, watches, cur⟩ := State.recount_of_open now ⟨m, List.mem_filter.2 ⟨hm, by simpa using other⟩, away⟩
      (keeps.imp (fun whole m hm => whole m (List.mem_filter.1 hm).1) fun none_ y hy => none_ y ((by rw [ctx] at hy; exact (List.mem_filter.1 hy).1)))
    rw [departs]
    refine ⟨crew', fun k => ?_, msgs.trans (by rw [ctx])⟩
    have there : Tbl.find ((s.left cx c s.cur x off s.cw.fmwhy).recount cx c).watches s.cur = some (releaseBars c x.phase false s.cw) := by
      rw [watches]
      exact State.find_modWatch (State.find_cur hv) _
    have executes : ((s.left cx c s.cur x off s.cw.fmwhy).recount cx c).cur = s.cur := cur
    rw [State.cw, executes, State.watch_of_find there]
    exact entry_releaseBars c x.phase false s.cw k

end Sys2Proof.Machine

namespace Sys2Proof

open Machine

/-- Settles O19: the crew's registers and ranks by `exec_of_crewStart` and its cases, LEAVE by the crew as the watch leaves it. -/
theorem crewsChangeMembers : Obligations.CrewsChangeMembers := ⟨crewInstructionsAnswer, leavingACrewRemovesTheWatch⟩

end Sys2Proof

namespace Sys2Proof.Machine

/-! ## Numbers in memory that lie side by side (00 R5) -/

theorem leNat_append (l m : List Byte) : leNat (l ++ m) = leNat l + 256 ^ l.length * leNat m := by
  induction l with
  | nil => rw [List.nil_append, List.length_nil, pow_zero, one_mul, leNat, Nat.zero_add]
  | cons b l ih => rw [List.cons_append, leNat, ih, leNat, List.length_cons, pow_succ]; ring

theorem memNat_add (m : List Host.Cell) (e k a b : Nat) : memNat m e k (a + b) = memNat m e k a + 256 ^ a * memNat m e (k + a) b := by
  have halves : (List.range (a + b)).map (fun i => memByte m e (k + i)) =
      (List.range a).map (fun i => memByte m e (k + i)) ++ (List.range b).map fun i => memByte m e (k + a + i) := by
    rw [List.range_add, List.map_append, List.map_map]
    simp only [Function.comp_def, Nat.add_assoc]
  rw [memNat, halves, leNat_append, List.length_map, List.length_range]
  rfl

theorem memNat_lt (m : List Host.Cell) (e k n : Nat) : memNat m e k n < 256 ^ n := by
  have := leNat_lt ((List.range n).map fun i => memByte m e (k + i))
  rwa [List.length_map, List.length_range] at this

/-- Two fields of a number of 8 bytes. -/
theorem readN_halves {s : State} {k lo hi : Nat} (small : lo < 2 ^ 32) (read : s.readN k 8 = lo + 2 ^ 32 * hi) :
    s.readN k 4 = lo ∧ s.readN (k + 4) 4 = hi := by
  have sum := memNat_add s.mem s.epoch k 4 4
  have low := memNat_lt s.mem s.epoch k 4
  unfold State.readN at *
  norm_num at sum low small read ⊢
  omega

/-! ## The pieces of a frame (09 R264) -/

/-- Pieces of a frame that follow one another from offset `lo` to offset `hi`. -/
structure Ascends (lo hi : Nat) (l : List (Nat × Nat × Nat)) : Prop where
  apart : l.Pairwise fun p q => p.1 + p.2.1 ≤ q.1
  low : ∀ p ∈ l, lo ≤ p.1
  high : ∀ p ∈ l, p.1 + p.2.1 ≤ hi
  le : lo ≤ hi

theorem Ascends.append {lo mid hi : Nat} {l m : List (Nat × Nat × Nat)} (h : Ascends lo mid l) (h' : Ascends mid hi m) : Ascends lo hi (l ++ m) where
  apart := List.pairwise_append.2 ⟨h.apart, h'.apart, fun p hp q hq => (h.high p hp).trans (h'.low q hq)⟩
  low p hp := (List.mem_append.1 hp).elim (h.low p) fun hp => h.le.trans (h'.low p hp)
  high p hp := (List.mem_append.1 hp).elim (fun hp => (h.high p hp).trans h'.le) (h'.high p)
  le := h.le.trans h'.le

/-- A table of numbers of n bytes. -/
theorem ascends_table (base n k : Nat) (v : Nat → Nat) : Ascends base (base + n * k) ((List.range k).map fun i => (base + n * i, n, v i)) := by
  have next {i j : Nat} (h : i < j) : n * i + n ≤ n * j := by
    rw [← Nat.mul_succ]
    exact Nat.mul_le_mul_left n h
  refine ⟨List.pairwise_map.2 (List.pairwise_lt_range.imp fun h => ?_), fun p hp => ?_, fun p hp => ?_, Nat.le_add_right ..⟩
  · have := next h
    dsimp only
    omega
  · obtain ⟨i, -, rfl⟩ := List.mem_map.1 hp
    exact Nat.le_add_right ..
  · obtain ⟨i, hi, rfl⟩ := List.mem_map.1 hp
    have := next (List.mem_range.1 hi)
    dsimp only
    omega

section
variable {s : State} {base : Nat}

theorem State.readN_pieces_other {l : List (Nat × Nat × Nat)} {k n : Nat} (apart : ∀ q ∈ l, k + n ≤ base + q.1) :
    (l.foldl (fun s p => s.writeN (base + p.1) p.2.1 p.2.2) s).readN k n = s.readN k n := by
  induction l generalizing s with
  | nil => rfl
  | cons q l ih =>
    rw [List.foldl_cons, ih fun q hq => apart q (List.mem_cons_of_mem _ hq)]
    exact s.readN_writeN_other _ (.inl (apart q List.mem_cons_self))

/-- A piece reads as written where the later pieces lie behind it. -/
theorem State.readN_pieces {l rest : List (Nat × Nat × Nat)} {lo hi : Nat} (h : Ascends lo hi l) (after : ∀ q ∈ rest, hi ≤ q.1)
    {p : Nat × Nat × Nat} (hp : p ∈ l) :
    ((l ++ rest).foldl (fun s p => s.writeN (base + p.1) p.2.1 p.2.2) s).readN (base + p.1) p.2.1 = p.2.2 % 256 ^ p.2.1 := by
  induction l generalizing s lo with
  | nil => simp at hp
  | cons q l ih =>
    obtain ⟨before, apart⟩ := List.pairwise_cons.1 h.apart
    rw [List.cons_append, List.foldl_cons]
    rcases List.mem_cons.1 hp with rfl | hp
    · rw [readN_pieces_other]
      · exact s.readN_writeN ..
      · intro q hq
        rcases List.mem_append.1 hq with hq | hq
        · have := before q hq
          omega
        · have := h.high p List.mem_cons_self
          have := after q hq
          omega
    · exact ih ⟨apart, fun p hp => h.low p (List.mem_cons_of_mem _ hp), fun p hp => h.high p (List.mem_cons_of_mem _ hp), h.le⟩ hp

end

/-- The pieces of a frame before its tables of no fixed length, which start at 0x540. -/
def frameHead (w : Watch) (f : SplitEntry) (t : TrapInfo) (counts : Nat) : List (Nat × Nat × Nat) :=
  [(0x00, 8, t.word), (0x08, 8, (t.fpc.getD f.pc).toNat), (0x10, 8, t.lanePc), (0x18, 8, f.mask.toNat), (0x20, 8, t.addr.toNat),
   (0x28, 8, w.fmask.toNat), (0x30, 8, f.sig.toNat + t.sigHi.toNat <<< 32), (0x38, 8, counts)] ++
  (List.range 8).map (fun i => (0x100 + 24 * i, 24, (w.entry i).word)) ++
  (List.range 64).map (fun i => (0x1C0 + 8 * i, 8, (w.s[i]?.getD 0).toNat)) ++
  (List.range 16).map (fun i => (0x3C0 + 8 * i, 8, (w.preg (BitVec.ofNat 4 i)).toNat)) ++
  (List.range 64).map (fun i => (0x440 + 4 * i, 4, (rowAt w.gen i).toNat))

/-- The tables of the containment stack and of the lane queue remainders. -/
def frameTables (w : Watch) (runs : List (List LqEntry)) : List (Nat × Nat × Nat) :=
  w.crgn.reverse.zipIdx.map (fun p => (0x540 + 16 * p.2, 16, p.1.h.toNat + p.1.m.toNat <<< 64)) ++
  runs.zipIdx.map (fun p => (0x600 + 16 * p.2, 16, remainderWord p.1))

def framesReplays (replay : List Replay) : List (Nat × Nat × Nat) := replay.zipIdx.map (fun p => (0xE00 + 576 * p.2, 576, p.1.word))

theorem frameParts_eq (w : Watch) (f : SplitEntry) (t : TrapInfo) (replay : List Replay) (runs : List (List LqEntry)) :
    frameParts w f t replay runs = frameHead w f t (replay.length + runs.length <<< 8) ++ frameTables w runs ++ framesReplays replay := by
  simp only [frameParts, frameHead, frameTables, framesReplays, List.append_assoc]

theorem ascends_frameHead (w : Watch) (f : SplitEntry) (t : TrapInfo) (counts : Nat) : Ascends 0 0x540 (frameHead w f t counts) := by
  have words : Ascends 0 0x100 [(0x00, 8, t.word), (0x08, 8, (t.fpc.getD f.pc).toNat), (0x10, 8, t.lanePc), (0x18, 8, f.mask.toNat),
      (0x20, 8, t.addr.toNat), (0x28, 8, w.fmask.toNat), (0x30, 8, f.sig.toNat + t.sigHi.toNat <<< 32), (0x38, 8, counts)] := by
    refine ⟨?_, ?_, ?_, by decide⟩ <;> simp
  exact (((words.append (ascends_table 0x100 24 8 _)).append (ascends_table 0x1C0 8 64 _)).append (ascends_table 0x3C0 8 16 _)).append
    (ascends_table 0x440 4 64 _)

theorem ascends_framesReplays (replay : List Replay) : Ascends 0xE00 (0xE00 + 576 * replay.length) (framesReplays replay) := by
  have := ascends_table 0xE00 576 replay.length fun i => (replay[i]?.getD {}).word
  refine cast (congrArg _ ?_) this
  apply List.ext_getElem
  · simp [framesReplays]
  · intro i hi _
    have : i < replay.length := by simpa using hi
    simp [framesReplays, this]

section
variable (s : State) (w : Watch) (f : SplitEntry) (t : TrapInfo) (replay : List Replay) (runs : List (List LqEntry))

theorem State.writeFrame_frame : s.writeFrame w f t replay runs = { s with mem := (s.writeFrame w f t replay runs).mem } := by
  unfold writeFrame
  refine foldl_keeps (fun u : State => u = { s with mem := u.mem }) rfl fun u p h => ?_
  unfold writeN
  rw [h]

/-- The frame holds its words, the split table and the registers. -/
theorem State.readN_frameHead {p : Nat × Nat × Nat} (hp : p ∈ frameHead w f t (replay.length + runs.length <<< 8)) :
    (s.writeFrame w f t replay runs).readN (w.frameKey + p.1) p.2.1 = p.2.2 % 256 ^ p.2.1 := by
  rw [writeFrame, frameParts_eq, List.append_assoc]
  refine readN_pieces (ascends_frameHead ..) (fun q hq => ?_) hp
  simp only [frameTables, framesReplays, List.mem_append, List.mem_map] at hq
  rcases hq with (⟨_, _, rfl⟩ | ⟨_, _, rfl⟩) | ⟨_, _, rfl⟩ <;> dsimp only <;> omega

/-- The frame holds the replay queue. -/
theorem State.readN_framesReplays {k : Nat} {x : Replay} (at_ : replay[k]? = some x) :
    (s.writeFrame w f t replay runs).readN (w.frameKey + (0xE00 + 576 * k)) 576 = x.word % 256 ^ 576 := by
  have here : (0xE00 + 576 * k, 576, x.word) ∈ framesReplays replay :=
    List.mem_map.2 ⟨(x, k), List.mk_mem_zipIdx_iff_getElem?.2 at_, rfl⟩
  have read := readN_pieces (s := (frameHead w f t (replay.length + runs.length <<< 8) ++ frameTables w runs).foldl
    (fun s p => s.writeN (w.frameKey + p.1) p.2.1 p.2.2) { s with mem := memForget s.mem w.frameKey (w.frameKey + 0x4000) })
    (base := w.frameKey) (rest := []) (ascends_framesReplays replay) (fun q hq => absurd hq List.not_mem_nil) here
  rw [List.append_nil] at read
  rw [writeFrame, frameParts_eq, List.foldl_append]
  exact read

end

/-! ## The replay entries of a trap (09 R262, R266) -/

theorem Op.goesOn_iff (o : Op) : o.goesOn = true ↔ Spec.replayKindOf o = none := by
  unfold goesOn Spec.replayKindOf
  cases o.kind <;> simp

theorem Op.replayKindOf_eq (o : Op) : Spec.replayKindOf o = if o.goesOn then none else some o.replayKind := by
  unfold goesOn Spec.replayKindOf replayKind
  cases o.kind <;> rfl

theorem Op.replays_eq (o : Op) : o.replays = !(o.done || (Spec.replayKindOf o).isNone) := by
  rw [replays, replayKindOf_eq]
  cases o.goesOn <;> simp

theorem Watch.chainPart_isEmpty (w : Watch) : w.chainPart.isEmpty = (w.chain.isNone || w.lq.isEmpty || (w.lq.head?.getD {}).len == 0) := by
  unfold chainPart
  cases w.chain with
  | none => rfl
  | some c =>
    cases w.lq with
    | nil => rfl
    | cons e l => cases h : e.len <;> simp [h]

theorem Watch.replays_eq (w : Watch) : w.replays = Spec.replayEntries w := by
  unfold Watch.replays Spec.replayEntries
  refine congrArg₂ (· ++ ·) ?_ ?_
  · induction w.ops with
    | nil => rfl
    | cons o l ih =>
      simp only [List.filter_cons, Op.replays_eq, Op.replayKindOf_eq] at ih ⊢
      cases hd : o.done <;> cases hg : o.goesOn <;> simp [ih, hg]
  · rw [Watch.chainPart_isEmpty]
    cases hc : w.chain with
    | none => rfl
    | some c => simp [Watch.chainPart, hc]

theorem lqRuns_flatten (l : List LqEntry) : (lqRuns l).flatten = l := by
  induction l with
  | nil => rfl
  | cons x t ih =>
    unfold lqRuns
    split
    next y ys rest h =>
      rw [h] at ih
      split <;> exact congrArg (x :: ·) ih
    · exact congrArg (x :: ·) ih

theorem Watch.drop_chainPart (w : Watch) : w.lq.drop w.chainPart.length = if w.chain.isNone then w.lq else w.lq.drop (w.lq.head?.getD {}).len := by
  unfold chainPart
  cases w.chain with
  | none => rfl
  | some c =>
    simp only [Option.isNone_some, Bool.false_eq_true, if_false, List.length_take]
    rcases Nat.le_total (w.lq.head?.getD {}).len w.lq.length with h | h
    · rw [min_eq_left h]
    · rw [min_eq_right h, List.drop_length, List.drop_eq_nil_of_le h]

theorem add_shiftLeft_mod_32 (a n : Nat) {k : Nat} (h : 5 ≤ k) : (a + n <<< k) % 32 = a % 32 := by
  obtain ⟨j, rfl⟩ := Nat.exists_eq_add_of_le h
  rw [Nat.shiftLeft_eq, pow_add, ← mul_assoc, mul_comm n, mul_assoc]
  exact Nat.add_mul_mod_self_left ..

theorem shiftLeft_mod_32 (n : Nat) {k : Nat} (h : 5 ≤ k) : n <<< k % 32 = 0 := by
  rw [← Nat.zero_add (n <<< k), add_shiftLeft_mod_32 0 n h]

theorem Watch.offBefore_eq (w : Watch) : w.offBefore = match w.chain with
    | some c => c.off
    | none => w.off := by
  unfold offBefore
  cases w.chain <;> rfl

/-- KIND and VALID of a replay entry (09 R266). -/
theorem Op.header_mod (o : Op) : o.header % 32 = o.replayKind + 16 := by
  have small : o.replayKind < 5 := by
    unfold replayKind
    split <;> decide
  have kind : (o.replayKind + 1 <<< 4) % 32 = o.replayKind + 16 := Nat.mod_eq_of_lt (by omega)
  unfold header
  dsimp only
  repeat rw [add_shiftLeft_mod_32 _ _ (by decide)]
  exact kind

/-- Captured words behind bit 512 do not reach the header. -/
theorem foldl_shiftLeft_mod_32 {α : Type} (l : List α) {g : Nat → α → Nat} (hg : ∀ n a, g n a = n ∨ ∃ v k, g n a = n + v <<< (512 + k)) :
    l.foldl g 0 % 32 = 0 :=
  foldl_keeps (fun n => n % 32 = 0) rfl fun n a h => by
    rcases hg n a with same | ⟨v, k, more⟩
    · rwa [same]
    · rwa [more, add_shiftLeft_mod_32 _ _ (by omega)]

theorem Replay.word_of_op (o : Op) (k : Nat) (hk : k ≠ 5) : Replay.word { kind := k, op := o } % 32 = o.header % 32 := by
  have behind (n : Nat) (h : n % 32 = 0) : (o.header + n) % 32 = o.header % 32 := by omega
  rw [Replay.word, if_neg hk]
  refine behind _ ?_
  split
  · exact foldl_shiftLeft_mod_32 _ fun n a => .inr ⟨_, _, rfl⟩
  · exact shiftLeft_mod_32 _ (by decide)
  · have first : (o.cmd.w0.toNat <<< 512 + o.cmd.w1.toNat <<< 544 + o.cmd.a.toNat <<< 576 + o.cmd.b.toNat <<< 640) % 32 = 0 := by
      repeat rw [add_shiftLeft_mod_32 _ _ (by decide)]
      exact shiftLeft_mod_32 _ (by decide)
    rw [Nat.add_mod, first, Nat.zero_add, Nat.mod_mod]
    split
    · exact foldl_shiftLeft_mod_32 _ fun n p => .inr ⟨_, 512 + 64 * p.2, by rw [← Nat.add_assoc]⟩
    · rfl
  · refine foldl_shiftLeft_mod_32 _ fun n a => ?_
    split
    · exact .inr ⟨_, _, rfl⟩
    · exact .inl rfl

theorem Replay.word_mod {w : Watch} {r : Replay} (there : r ∈ w.replays) : r.word % 32 = r.kind + 16 := by
  rcases List.mem_append.1 there with there | there
  · obtain ⟨o, -, rfl⟩ := List.mem_map.1 there
    have kind : o.replayKind ≠ 5 := by
      unfold Op.replayKind
      split <;> decide
    rw [Replay.word_of_op o _ kind, o.header_mod]
  · split at there
    · simp at there
    · obtain rfl := List.mem_singleton.1 there
      rw [Replay.word, if_pos rfl]
      dsimp only
      repeat rw [add_shiftLeft_mod_32 _ _ (by decide)]
      rfl

/-! ## What a trap settles first (07 R219; log 32) -/

theorem State.performOther_cur (s : State) (n : Nat) : (s.performOther n).cur = s.cur := by
  unfold performOther
  dsimp only
  split
  · rfl
  · split <;> rfl

theorem State.applyQuarter_cur (s : State) (n q : Nat) : (s.applyQuarter n q).cur = s.cur := by
  unfold applyQuarter
  dsimp only
  split <;> rfl

theorem State.performAll_cur (s : State) (n : Nat) : (s.performAll n).cur = s.cur := by
  unfold performAll
  cases (s.watch n).mat with
  | none => rfl
  | some m =>
    dsimp only
    split
    · exact foldl_keeps (fun t : State => t.cur = s.cur) rfl fun t q h => (t.applyQuarter_cur n q).trans h
    · exact s.performOther_cur n

theorem State.wloadAll_cur (s : State) (j : Job) : (s.wloadAll j).cur = s.cur :=
  foldl_keeps (fun t : State => t.cur = s.cur) rfl fun _ _ h => h

theorem State.flushMatrix_cur (s : State) (core upto : Nat) : (s.flushMatrix core upto).cur = s.cur := by
  unfold flushMatrix
  refine foldl_keeps (fun t : State => t.cur = s.cur) rfl fun t n h => ?_
  have loads : (match (t.core core).wloads.find? (fun j : Job => j.ord == n) with
      | some j => t.wloadAll j
      | none => t).cur = s.cur := by
    split
    · exact (t.wloadAll_cur _).trans h
    · exact h
  dsimp only
  split
  · exact (performAll_cur ..).trans loads
  · exact loads

theorem State.settleMatrix_cur (s : State) (n : Nat) : (s.settleMatrix n).cur = s.cur := by
  unfold settleMatrix
  split
  · exact s.flushMatrix_cur ..
  · rfl

/-- Where nothing goes on by itself, no load or atomic is performed first. -/
theorem State.settleOrder_of_none {s : State} {n : Nat} (stores : (s.watch n).fifo = [])
    (ops : ∀ o ∈ (s.watch n).ops, Spec.replayKindOf o ≠ none) : s.settleOrder n = s := by
  have none_ : (s.watch n).goingOn = [] := by
    rw [Watch.goingOn, stores, List.map_nil, List.nil_append, List.filter_eq_nil_iff]
    intro o ho
    have : o.goesOn = false := by
      cases h : o.goesOn with
      | false => rfl
      | true => exact absurd (o.goesOn_iff.1 h) (ops o ho)
    simp [this]
  have settled : s.mustSettle (s.watch n) = [] := by
    rw [mustSettle, none_]
    generalize List.foldl _ [] _ = l
    refine congrArg Prod.snd (a₂ := ([], [])) ?_
    induction l with
    | nil => rfl
    | cons o l ih => rw [List.foldr_cons, ih]; rfl
  rw [settleOrder, settled, List.foldl_nil]

/-! ## The watch in its handler (09 R262 to R264) -/

/-- What the watch holds until RTE. -/
def Watch.holds (w : Watch) (ent at_ : Nat) : Held :=
  { split := w.split.map SplitEntry.stopBar, ent := ent, crgn := w.crgn, replay := w.replays
    lq := (lqRuns (w.lq.drop w.chainPart.length)).flatten, off := w.offBefore, offBlk := w.offBlk, at_ := at_ }

/-- The watch as its handler starts. -/
def Watch.handles (w : Watch) (ent at_ : Nat) (vec : Off) : Watch :=
  { w with
    held := some (w.holds ent at_)
    lq := [], chain := none
    ops := w.ops.filter fun o => !o.replays
    inh := true, rung := 0, frame := selfAddr w.frameOff
    split := rootSplit w.full vec }

/-- The frame that a trap writes, once what it settles is settled. -/
def State.framed (r : State) (t : TrapInfo) : State :=
  r.writeFrame (r.cw.setEntry r.ent { r.frag with pc := t.fpc.getD r.frag.pc }) r.frag t r.cw.replays
    (lqRuns (r.cw.lq.drop r.cw.chainPart.length))

/-- The device as the handler starts. -/
def State.handled (r : State) (t : TrapInfo) : State :=
  let u := (r.framed t).unhold r.cw.core (r.framed t).cur
  { u.setW (r.cw.handles u.ent u.seq (u.ctx r.cw.ctx).wvec) with ent := 0 }

theorem State.enterTrap_eq (s : State) (t : TrapInfo) : s.enterTrap t = ((s.settleMatrix s.cur).settleOrder s.cur).handled t := by
  unfold enterTrap
  generalize (s.settleMatrix s.cur).settleOrder s.cur = r
  rfl

section
variable (r : State) (t : TrapInfo)

theorem State.framed_frame : r.framed t = { r with mem := (r.framed t).mem } := State.writeFrame_frame ..

/-- What a handler's watch starts as (09 R262, R263). -/
theorem State.cw_handled : (r.handled t).cw = r.cw.handles r.ent r.seq (r.ctx r.cw.ctx).wvec := by
  have frame := framed_frame r t
  unfold handled
  generalize r.framed t = u at frame
  have ent : u.ent = r.ent := by rw [frame]
  have seq : u.seq = r.seq := by rw [frame]
  have ctx : u.ctx r.cw.ctx = r.ctx r.cw.ctx := by rw [frame]; rfl
  rw [← ent, ← seq, ← ctx]
  exact State.cw_setW ..

/-- The handler's start leaves the frame as it was written. -/
theorem State.readN_handled_eq (k n : Nat) : (r.handled t).readN k n = (r.framed t).readN k n := by
  unfold handled
  generalize r.framed t = u
  rfl

/-- The causing fragment as the frame shows it. -/
def State.causing (r : State) (t : TrapInfo) : SplitEntry := { r.frag with pc := t.fpc.getD r.frag.pc }

def State.frameCounts (r : State) : Nat := r.cw.replays.length + (lqRuns (r.cw.lq.drop r.cw.chainPart.length)).length <<< 8

variable {r t}

theorem State.readN_handled {off n v : Nat} (hp : (off, n, v) ∈ frameHead (r.cw.setEntry r.ent (r.causing t)) r.frag t r.frameCounts) :
    (r.handled t).readN (r.cw.frameKey + off) n = v % 256 ^ n := by
  have read := r.readN_frameHead (r.cw.setEntry r.ent (r.causing t)) r.frag t r.cw.replays (lqRuns (r.cw.lq.drop r.cw.chainPart.length)) hp
  rw [readN_handled_eq]
  exact read

theorem State.readN_handled_replay {k : Nat} {x : Replay} (at_ : r.cw.replays[k]? = some x) :
    (r.handled t).readN (r.cw.frameKey + (0xE00 + 576 * k)) 576 % 32 = x.kind + 16 := by
  have read := r.readN_framesReplays (r.cw.setEntry r.ent (r.causing t)) r.frag t r.cw.replays
    (lqRuns (r.cw.lq.drop r.cw.chainPart.length)) at_
  have low := Nat.mod_mod_of_dvd x.word (dvd_pow (by decide : 32 ∣ 256) (by decide : 576 ≠ 0))
  rw [← read, Replay.word_mod (List.mem_of_getElem? at_)] at low
  rw [readN_handled_eq]
  exact low

end

section
variable {w : Watch} {f : SplitEntry} {t : TrapInfo} {counts : Nat}

theorem mem_frameHead_word {p : Nat × Nat × Nat} (hp : p ∈ [(0x00, 8, t.word), (0x08, 8, (t.fpc.getD f.pc).toNat), (0x10, 8, t.lanePc),
    (0x18, 8, f.mask.toNat), (0x20, 8, t.addr.toNat), (0x28, 8, w.fmask.toNat), (0x30, 8, f.sig.toNat + t.sigHi.toNat <<< 32),
    (0x38, 8, counts)]) : p ∈ frameHead w f t counts := by
  simp only [frameHead, List.append_assoc]
  exact List.mem_append_left _ hp

theorem mem_frameHead_entry {k : Nat} (hk : k < 8) : (0x100 + 24 * k, 24, (w.entry k).word) ∈ frameHead w f t counts := by
  simp only [frameHead, List.mem_append]
  exact .inl (.inl (.inl (.inr (List.mem_map.2 ⟨k, List.mem_range.2 hk, rfl⟩))))

theorem mem_frameHead_sreg (n : Reg) (hn : n ≠ 0) : (0x1C0 + 8 * n.toNat, 8, (w.sreg n).toNat) ∈ frameHead w f t counts := by
  simp only [frameHead, List.mem_append]
  refine .inl (.inl (.inr (List.mem_map.2 ⟨n.toNat, List.mem_range.2 n.isLt, ?_⟩)))
  have hi : n.toNat < 64 := n.isLt
  simp only [Watch.sreg, if_neg hn, Vector.getElem?_eq_getElem hi, Option.getD_some]
  rfl

theorem mem_frameHead_preg (p : B4) : (0x3C0 + 8 * p.toNat, 8, (w.preg p).toNat) ∈ frameHead w f t counts := by
  simp only [frameHead, List.mem_append]
  refine .inl (.inr (List.mem_map.2 ⟨p.toNat, List.mem_range.2 p.isLt, ?_⟩))
  rw [BitVec.ofNat_toNat, BitVec.setWidth_eq]

end

theorem TrapInfo.word_eq (t : TrapInfo) : t.word = Spec.causeWord t := by
  unfold TrapInfo.word Spec.causeWord
  cases t.lane <;> cases t.async <;> simp [Nat.shiftLeft_eq, Nat.mul_comm]

theorem toNat_mod_of_fits {n k : Nat} (x : BitVec n) (h : n ≤ 8 * k) : x.toNat % 256 ^ k = x.toNat := by
  refine Nat.mod_eq_of_lt (x.isLt.trans_le ?_)
  rw [← two_pow_eight_mul]
  exact Nat.pow_le_pow_right (by decide) h

section
variable {r : State} {t : TrapInfo}

theorem State.readN_handled_bits {off k n : Nat} {x : BitVec n} (fits : n ≤ 8 * k)
    (hp : (off, k, x.toNat) ∈ frameHead (r.cw.setEntry r.ent (r.causing t)) r.frag t r.frameCounts) :
    (r.handled t).readN (r.cw.frameKey + off) k = x.toNat :=
  (readN_handled hp).trans (toNat_mod_of_fits x fits)

theorem State.readN_handled_sreg (n : Reg) (hn : n ≠ 0) : (r.handled t).readN (r.cw.frameKey + (0x1C0 + 8 * n.toNat)) 8 = (r.cw.sreg n).toNat :=
  readN_handled_bits (x := r.cw.sreg n) (by decide) (mem_frameHead_sreg n hn)

theorem State.readN_handled_preg (p : B4) : (r.handled t).readN (r.cw.frameKey + (0x3C0 + 8 * p.toNat)) 8 = (r.cw.preg p).toNat :=
  readN_handled_bits (x := r.cw.preg p) (by decide) (mem_frameHead_preg p)

theorem State.readN_handled_entry {k : Nat} (hk : k < 8) : (r.handled t).readN (r.cw.frameKey + (0x100 + 24 * k)) 24 =
    (if k = r.ent then r.causing t else r.cw.entry k).word % 2 ^ 192 := by
  rw [readN_handled (mem_frameHead_entry hk), two_pow_eight_mul 24]
  split
  next here =>
    subst here
    rw [Watch.entry_setEntry_same _ _ hk]
  next other => rw [Watch.entry_setEntry_other _ _ other]

theorem State.readN_handled_sig : (r.handled t).readN (r.cw.frameKey + 0x30) 4 = r.frag.sig.toNat ∧
    (r.handled t).readN (r.cw.frameKey + 0x34) 4 = t.sigHi.toNat := by
  have low := r.frag.sig.isLt
  have high := t.sigHi.isLt
  refine readN_halves low ((readN_handled (v := r.frag.sig.toNat + t.sigHi.toNat <<< 32) (mem_frameHead_word (by simp))).trans ?_)
  rw [Nat.shiftLeft_eq]
  omega

/-- The words of a frame's start: the cause, the PC, the lane index, the mask, the address, FMASK and the count of replay entries. -/
theorem State.readN_handled_words :
    (r.handled t).readN (r.cw.frameKey + 0x00) 8 = Spec.causeWord t % 2 ^ 64 ∧
    (r.handled t).readN (r.cw.frameKey + 0x08) 8 = (t.fpc.getD r.frag.pc).toNat ∧
    (r.handled t).readN (r.cw.frameKey + 0x10) 8 = t.lanePc % 2 ^ 64 ∧
    (r.handled t).readN (r.cw.frameKey + 0x18) 8 = r.frag.mask.toNat ∧
    (r.handled t).readN (r.cw.frameKey + 0x20) 8 = t.addr.toNat ∧
    (r.handled t).readN (r.cw.frameKey + 0x28) 8 = r.cw.fmask.toNat ∧
    (r.handled t).readN (r.cw.frameKey + 0x38) 8 % 256 = r.cw.replays.length % 256 := by
  refine ⟨?_, readN_handled_bits (by decide) (mem_frameHead_word (by simp)), readN_handled (v := t.lanePc) (mem_frameHead_word (by simp)),
    readN_handled_bits (by decide) (mem_frameHead_word (by simp)), readN_handled_bits (by decide) (mem_frameHead_word (by simp)),
    readN_handled_bits (by decide) (mem_frameHead_word (by simp [Watch.setEntry])), ?_⟩
  · rw [readN_handled (v := t.word) (mem_frameHead_word (by simp)), t.word_eq, two_pow_eight_mul 8]
  · rw [readN_handled (v := r.frameCounts) (mem_frameHead_word (by simp)), frameCounts, Nat.shiftLeft_eq]
    omega

end

end Sys2Proof.Machine

namespace Sys2Proof

open Machine

/-- Settles O16: the frame by `State.readN_handled_words` and its like, the watch by `State.cw_handled`. -/
theorem trapEntrySavesTheWatch : Obligations.TrapEntrySavesTheWatch := by
  intro s t single out cause vec m r w f u field
  have run : u = r.handled t := by
    have core : s.trapCore t = s.enterTrap t := by simp only [State.trapCore, out, Bool.false_eq_true, if_false, if_neg cause, if_neg vec]
    exact (State.trap_of_single t single).trans (core.trans (s.enterTrap_eq t))
  have cur : m.cur = s.cur := s.settleMatrix_cur s.cur
  have none_ : m.cw.fifo = [] → (∀ o ∈ m.cw.ops, Spec.replayKindOf o ≠ none) → r = m := fun stores ops => by
    refine State.settleOrder_of_none ?_ ?_ <;> rw [← cur]
    · exact stores
    · exact ops
  clear_value r
  subst u
  simp only [field]
  rw [run]
  obtain ⟨cause, pc, lanePc, mask, addr, fmask, counts⟩ := State.readN_handled_words (r := r) (t := t)
  have cw := r.cw_handled t
  have split : ∀ k, (r.handled t).cw.entry k = (rootSplit w.full (r.ctx w.ctx).wvec)[k]?.getD {} := fun k => congrArg (Watch.entry · k) cw
  refine ⟨none_, cause, pc, lanePc, mask, addr, fmask, State.readN_handled_sig.1, State.readN_handled_sig.2, fun k hk => State.readN_handled_entry hk,
    State.readN_handled_sreg, State.readN_handled_preg, rfl, ?_, fun k hk => ?_, ?_⟩
  · rw [split, rootSplit_zero]
    rfl
  · rw [split, rootSplit_other _ _ hk]
  rw [cw]
  refine ⟨rfl, rfl, rfl, fun _ => rfl, fun _ => rfl, fun _ => rfl, rfl, rfl, rfl, rfl, ?_, w.holds r.ent r.seq, rfl, fun k hk => ?_, rfl, rfl,
    Watch.replays_eq w, ?_, Watch.offBefore_eq w, rfl, counts, fun k x at_ => State.readN_handled_replay at_⟩
  · exact List.filter_congr fun o _ => by rw [Op.replays_eq, Bool.not_not]
  · simp [Watch.holds, Watch.entry, SplitEntry.stopBar, hk]
  · rw [Watch.holds, lqRuns_flatten, Watch.drop_chainPart]

end Sys2Proof

namespace Sys2Proof.Machine

/-! ## RTE (09 R267, 04 R129) -/

/-- Lane code is read again, waits for a page that drains, or for one that is not resident. -/
theorem State.lanePages_ok {s : State} {w : Watch} {h : Held} {a : Acc} (ok : s.lanePages w h = .ok a) : a = {} := by
  unfold lanePages at ok
  dsimp only at ok
  split at ok
  · cases ok
  · split at ok
    · cases ok
    · cases ok
      rfl

/-- What stops an access does not depend on what it would go on with. -/
theorem State.andThen_of_stopped {s : State} {p : Prep} (stopped : ∀ a, p ≠ .ok a) (k k' : Acc → State) : s.andThen p k = s.andThen p k' := by
  cases p with
  | ok a => exact absurd rfl (stopped a)
  | _ => rfl

theorem Watch.writeOlds_frame (w : Watch) (o : Op) : w.writeOlds o = { w with s := (w.writeOlds o).s, v := (w.writeOlds o).v } := by
  unfold writeOlds
  split
  · refine foldl_keeps (fun y : Watch => y = { w with s := y.s, v := y.v }) rfl fun y a h => ?_
    split
    · rw [Watch.writeOld_frame]
      generalize (y.writeOld o a.lane a.old).s = s
      generalize (y.writeOld o a.lane a.old).v = v
      rw [h]
    · exact h
  · rfl

/-- An atomic of the replay queue that has made a step by the time of the RTE. -/
def Op.hasMade (o : Op) : Bool := o.isAtom && o.stamp == 0 && o.accs.any (·.got)

theorem Watch.writeOlds_of_not_made {w : Watch} {o : Op} (h : o.hasMade = false) : w.writeOlds o = w := by
  unfold writeOlds
  split
  next atom =>
    have none_ : ∀ a ∈ o.accs, a.got = false := by simpa [Op.hasMade, atom] using h
    generalize o.accs = l at none_
    induction l with
    | nil => rfl
    | cons a l ih =>
      rw [List.foldl_cons, if_neg (by simp [none_ a List.mem_cons_self])]
      exact ih fun b hb => none_ b (List.mem_cons_of_mem _ hb)
  · rfl

theorem Watch.foldl_writeOlds (w : Watch) (l : List Op) : l.foldl Watch.writeOlds w = (l.filter Op.hasMade).foldl Watch.writeOlds w := by
  induction l generalizing w with
  | nil => rfl
  | cons o l ih =>
    cases made : o.hasMade with
    | true => rw [List.foldl_cons, List.filter_cons_of_pos made, List.foldl_cons, ih]
    | false => rw [List.foldl_cons, List.filter_cons_of_neg (by simp [made]), Watch.writeOlds_of_not_made made, ih]

theorem Watch.foldl_writeOlds_frame (w : Watch) (l : List Op) :
    l.foldl Watch.writeOlds w = { w with s := (l.foldl Watch.writeOlds w).s, v := (l.foldl Watch.writeOlds w).v } := by
  refine foldl_keeps (fun y : Watch => y = { w with s := y.s, v := y.v }) rfl fun y o h => ?_
  rw [Watch.writeOlds_frame]
  generalize (y.writeOlds o).s = s
  generalize (y.writeOlds o).v = v
  rw [h]

/-- Lanes are switched off, and what RTE gives back of the lanes off stays. -/
def Watch.lanesFail (w : Watch) (fails : List (Nat × BitVec 4)) : Watch := fails.foldl (fun x f => { x.laneOff f.1 f.2 with off := x.off }) w

theorem Watch.lanesFail_frame (w : Watch) (fails : List (Nat × BitVec 4)) :
    w.lanesFail fails = { w with fmask := (w.lanesFail fails).fmask, fmwhy := (w.lanesFail fails).fmwhy } :=
  foldl_keeps (fun y : Watch => y = { w with fmask := y.fmask, fmwhy := y.fmwhy }) rfl fun y f h => by
    unfold Watch.laneOff
    generalize (if y.fmask = 0 then f.2 else y.fmwhy) = why
    generalize y.fmask ||| oneLane f.1 = m
    rw [h]

theorem Watch.fmask_lanesFail (w : Watch) (fails : List (Nat × BitVec 4)) (l : Nat) :
    (w.lanesFail fails).fmask.getLsbD l = true ↔ w.fmask.getLsbD l = true ∨ l < 64 ∧ ∃ y, (l, y) ∈ fails := by
  unfold lanesFail
  induction fails generalizing w with
  | nil => simp
  | cons f fails ih =>
    rw [List.foldl_cons, ih]
    have bit : ({ w.laneOff f.1 f.2 with off := w.off } : Watch).fmask.getLsbD l = true ↔ w.fmask.getLsbD l = true ∨ l < 64 ∧ l = f.1 := by
      by_cases hl : l < 64
      · change (w.fmask ||| oneLane f.1).getLsbD l = true ↔ _
        rw [BitVec.getLsbD_or, getLsbD_oneLane_of_lt hl, Bool.or_eq_true, decide_eq_true_iff]
        simp only [hl, true_and]
      · have high : ∀ m : Mask, m.getLsbD l = false := fun m => BitVec.getLsbD_of_ge m l (Nat.not_lt.1 hl)
        simp [high, hl]
    rw [bit]
    simp only [List.mem_cons, or_assoc]
    refine or_congr_right ?_
    constructor
    · rintro (⟨hl, rfl⟩ | ⟨hl, y, hy⟩)
      · exact ⟨hl, f.2, .inl rfl⟩
      · exact ⟨hl, y, .inr hy⟩
    · rintro ⟨hl, y, rfl | hy⟩
      · exact .inl ⟨hl, rfl⟩
      · exact .inr ⟨hl, y, hy⟩

/-- The lanes of a LOAD in the replay queue that its check switches off at RTE. -/
def State.replayFails (s : State) (w : Watch) (h : Held) : List (Nat × BitVec 4) :=
  h.replay.zipIdx.flatMap fun p =>
    if p.1.kind = 1 ∧ (s.frameN w (0xE00 + 576 * p.2) 64).testBit 4 then s.reloadFails w p.2 p.1.op else []

theorem State.mem_replayFails {s : State} {w : Watch} {h : Held} {f : Nat × BitVec 4} : f ∈ s.replayFails w h ↔
    ∃ k r, h.replay[k]? = some r ∧ r.kind = 1 ∧ (s.frameN w (0xE00 + 576 * k) 64).testBit 4 = true ∧ f ∈ s.reloadFails w k r.op := by
  unfold replayFails
  rw [List.mem_flatMap]
  constructor
  · rintro ⟨⟨r, k⟩, hp, hf⟩
    dsimp only at hf
    split at hf
    next on => exact ⟨k, r, List.mk_mem_zipIdx_iff_getElem?.1 hp, on.1, on.2, hf⟩
    · simp at hf
  · rintro ⟨k, r, at_, kind, valid, hf⟩
    exact ⟨(r, k), List.mk_mem_zipIdx_iff_getElem?.2 at_, by dsimp only; rwa [if_pos ⟨kind, valid⟩]⟩

/-- The watch as the frame and the trap give it back, before old values are written and lanes switched off. -/
def State.given (s : State) (w : Watch) (h : Held) : Watch :=
  { s.frameRegs w with
    split := h.split, crgn := h.crgn, held := none, inh := false, rung := 0, frame := 0
    off := h.off, offBlk := h.offBlk
    ops := w.ops ++ (s.reinjected w h).1.filter fun o => !(o.isAtom && o.all && o.stamp == 0)
    lq := (s.reinjected w h).2 ++ s.remainders (s.frameRegs w) h }

theorem State.restored_eq (s : State) (w : Watch) (h : Held) : s.restored w h =
    let x := ((s.reinjected w h).1.foldl Watch.writeOlds (s.given w h)).lanesFail (s.replayFails w h)
    x.setEntry h.ent ((x.entry h.ent).resumeAt (BitVec.ofNat 42 (s.frameN w 0x08 8)) (BitVec.ofNat 32 (s.frameN w 0x30 4))) := rfl

/-- RTE gives back what the frame and the trap hold, but for the old values of atomics, the lanes that a check switches off and the causing
fragment. -/
theorem State.restored_frame (s : State) (w : Watch) (h : Held) : s.restored w h = { s.given w h with
    s := ((s.reinjected w h).1.foldl Watch.writeOlds (s.given w h)).s
    v := ((s.reinjected w h).1.foldl Watch.writeOlds (s.given w h)).v
    fmask := (s.restored w h).fmask, fmwhy := (s.restored w h).fmwhy, split := (s.restored w h).split } := by
  have olds := Watch.foldl_writeOlds_frame (s.given w h) (s.reinjected w h).1
  rw [restored_eq]
  generalize (s.reinjected w h).1.foldl Watch.writeOlds (s.given w h) = y at olds
  have fails := y.lanesFail_frame (s.replayFails w h)
  dsimp only
  generalize y.lanesFail (s.replayFails w h) = z at fails
  rw [Watch.setEntry_frame]
  generalize (z.setEntry _ _).split = S
  rw [fails, olds]

theorem State.entry_restored_same (s : State) (w : Watch) (h : Held) (he : h.ent < 8) : (s.restored w h).entry h.ent =
    (h.split[h.ent]?.getD {}).resumeAt (BitVec.ofNat 42 (s.frameN w 0x08 8)) (BitVec.ofNat 32 (s.frameN w 0x30 4)) := by
  have olds := Watch.foldl_writeOlds_frame (s.given w h) (s.reinjected w h).1
  rw [restored_eq]
  dsimp only
  rw [Watch.entry_setEntry_same _ _ he, Watch.lanesFail_frame, olds]
  rfl

theorem State.entry_restored_other (s : State) (w : Watch) (h : Held) {k : Nat} (hk : k ≠ h.ent) :
    (s.restored w h).entry k = h.split[k]?.getD {} := by
  have olds := Watch.foldl_writeOlds_frame (s.given w h) (s.reinjected w h).1
  rw [restored_eq]
  dsimp only
  rw [Watch.entry_setEntry_other _ _ hk, Watch.lanesFail_frame, olds]
  rfl

theorem State.fmask_restored (s : State) (w : Watch) (h : Held) (l : Nat) : (s.restored w h).fmask.getLsbD l = true ↔
    w.fmask.getLsbD l = true ∨ l < 64 ∧ ∃ y, (l, y) ∈ s.replayFails w h := by
  have olds := Watch.foldl_writeOlds_frame (s.given w h) (s.reinjected w h).1
  have unchanged : (s.restored w h).fmask = (((s.reinjected w h).1.foldl Watch.writeOlds (s.given w h)).lanesFail (s.replayFails w h)).fmask := rfl
  rw [unchanged]
  generalize (s.reinjected w h).1.foldl Watch.writeOlds (s.given w h) = y at olds
  have same : y.fmask = w.fmask := by
    rw [olds]
    dsimp only [given, frameRegs]
  rw [y.fmask_lanesFail, same]

/-- The S registers of the frame (09 R264). -/
theorem State.sreg_given (s : State) (w : Watch) (h : Held) {n : Reg} (hn : n ≠ 0) :
    (s.given w h).sreg n = BitVec.ofNat 64 (s.frameN w (0x1C0 + 8 * n.toNat) 8) := by
  have pos : n.toFin ≠ 0 := fun h => hn (BitVec.eq_of_toNat_eq (congrArg Fin.val h))
  rw [Watch.sreg, if_neg hn]
  dsimp only [given, frameRegs]
  simp [pos]

theorem State.v_given (s : State) (w : Watch) (h : Held) : (s.given w h).v = w.v := by
  dsimp only [given, frameRegs]

theorem State.preg_given (s : State) (w : Watch) (h : Held) {p : B4} (hp : p ≠ 0) :
    (s.given w h).preg p = BitVec.ofNat 64 (s.frameN w (0x3C0 + 8 * p.toNat) 8) &&& w.full := by
  have pos : p.toFin ≠ 0 := fun h => hp (BitVec.eq_of_toNat_eq (congrArg Fin.val h))
  rw [Watch.preg, if_neg hp]
  dsimp only [given, frameRegs]
  simp [pos]

/-- An atomic of the control stream writes its one old value to S[d]. -/
theorem Watch.writeOlds_of_scalar {w : Watch} {o : Op} {a : Acc} (made : o.hasMade = true) (lane : o.lane = false) (nw : o.nw = false)
    (accs : o.accs = [a]) : w.writeOlds o = w.setS (BitVec.ofNat 6 o.d) (BitVec.ofNat 64 a.old) := by
  obtain ⟨atom, got⟩ := (Bool.and_eq_true ..).mp made
  rw [accs, List.any_cons, List.any_nil, Bool.or_false] at got
  rw [writeOlds, if_pos atom, accs, List.foldl_cons, List.foldl_nil, if_pos got, writeOld, nw, lane]
  rfl

theorem State.frameN_lt (s : State) (w : Watch) (off n : Nat) : s.frameN w off n < 256 ^ n := by
  have := leNat_lt ((List.range n).map fun i => s.loadByte w s.seq w.home (w.frameKey + off + i))
  rwa [List.length_map, List.length_range] at this

section
variable (s : State) (w : Watch) (h : Held)

/-- RTE writes the old values of the atomics that have made a step to the registers, and nothing else to them. -/
theorem State.regs_restored {l : List Op} (made : (s.reinjected w h).1.filter Op.hasMade = l) :
    (s.restored w h).s = (l.foldl Watch.writeOlds (s.given w h)).s ∧ (s.restored w h).v = (l.foldl Watch.writeOlds (s.given w h)).v := by
  rw [← made, ← Watch.foldl_writeOlds, restored_frame]
  exact ⟨rfl, rfl⟩

theorem State.preg_restored {p : B4} (hp : p ≠ 0) :
    (s.restored w h).preg p = BitVec.ofNat 64 (s.frameN w (0x3C0 + 8 * p.toNat) 8) &&& w.full := by
  rw [← s.preg_given w h hp, Watch.preg, Watch.preg, if_neg hp, if_neg hp, restored_frame]

theorem State.gen_restored (l : Fin 64) : (s.restored w h).gen[l] =
    if s.frameN w (0x440 + 4 * l.val) 4 = 0 then 1 else BitVec.ofNat 32 (s.frameN w (0x440 + 4 * l.val) 4) := by
  have small : s.frameN w (0x440 + 4 * l.val) 4 < 2 ^ 32 := s.frameN_lt w (0x440 + 4 * l.val) 4
  have zero : BitVec.ofNat 32 (s.frameN w (0x440 + 4 * l.val) 4) = 0 ↔ s.frameN w (0x440 + 4 * l.val) 4 = 0 := by
    rw [BitVec.toNat_eq, BitVec.toNat_ofNat, Nat.mod_eq_of_lt small]
    rfl
  rw [restored_frame]
  dsimp only [given, frameRegs]
  rw [Fin.getElem_fin, Vector.getElem_ofFn]
  exact if_congr zero rfl rfl

/-- The handler's state is cleared, and the rest of the watch is as it was. -/
theorem State.restored_fields : (s.restored w h).crgn = h.crgn ∧ (s.restored w h).inh = false ∧ (s.restored w h).rung = 0 ∧
    (s.restored w h).frame = 0 ∧ (s.restored w h).held = none ∧ (s.restored w h).off = h.off ∧
    (s.restored w h).ops = w.ops ++ (s.reinjected w h).1.filter (fun o => !(o.isAtom && o.all && o.stamp == 0)) ∧
    (s.restored w h).lq = (s.reinjected w h).2 ++ s.remainders (s.frameRegs w) h ∧ (s.restored w h).fifo = w.fifo := by
  rw [restored_frame]
  dsimp only [given, frameRegs]
  exact ⟨rfl, rfl, rfl, rfl, rfl, rfl, rfl, rfl, rfl⟩

theorem State.restored_rest : let x := s.restored w h
    x = { w with
      s := x.s, v := x.v, p := x.p, gen := x.gen, fmask := x.fmask, fmwhy := x.fmwhy, split := x.split, crgn := x.crgn, inh := x.inh, rung := x.rung
      frame := x.frame, held := x.held, off := x.off, offBlk := x.offBlk, ops := x.ops, lq := x.lq } := by
  rw [restored_frame]
  generalize (s.restored w h).fmask = m
  generalize (s.restored w h).fmwhy = y
  generalize (s.restored w h).split = e
  generalize ((s.reinjected w h).1.foldl Watch.writeOlds (s.given w h)).s = S
  generalize ((s.reinjected w h).1.foldl Watch.writeOlds (s.given w h)).v = V
  dsimp only [given, frameRegs]

end

/-- Nothing in flight is translated anew where nothing is in flight. -/
theorem State.recheck_of_idle {u : State} {n : Nat} {x : Watch} {t : Tbl Watch} (table : u.watches = Tbl.put t n x) (ops : x.ops = [])
    (fifo : x.fifo = []) : u.recheck n = u := by
  have there : Tbl.find u.watches n = some x := by rw [table, Tbl.find_put_same]
  have bad : u.badAccs x = [] := by rw [badAccs, ops, List.flatMap_nil]
  have keeps : ∀ (l : List Op) (m : List StoreEnt), x.ops = l → x.fifo = m → { x with ops := l, fifo := m } = x := by
    rintro _ _ rfl rfl
    rfl
  have settles : u.settleAccs x = x := by
    rw [settleAccs, ops, fifo]
    exact keeps [] [] ops fifo
  have same : Tbl.alter u.watches n u.settleAccs = u.watches := by
    simp only [Tbl.alter, there, settles]
    rw [table, Tbl.put_put]
  rw [recheck, State.watch_of_find there, bad]
  change u.modWatch n u.settleAccs = u
  rw [modWatch, same]

end Sys2Proof.Machine

namespace Sys2Proof

open Machine

/-- Settles O17: the branches of RTE, and the restored watch by `State.restored_frame`. -/
theorem rteRestoresTheWatch : Obligations.RteRestoresTheWatch := by
  intro s h inh held he w field code own
  have run : exec .rte s = .next s.returnTrap := rfl
  have blocked : (!w.lanesIdle || !w.ops.all (fun o => o.done || s.waitsRte w o)) = true ↔ w.lanesIdle = false ∨ ∃ o ∈ w.ops, own o := by
    simp [own]
  have rest : w.rung = 0 → s.returnTrap = if w.lanesIdle = false ∨ ∃ o ∈ w.ops, own o then s
      else if field 0x08 8 % 4 ≠ 0 then s.handlerFault 0x07
      else s.andThen code fun _ => ({ s.setW (s.restored w h) with ent := h.ent }).recheck s.cur := fun rung => by
    have ret : s.returnTrap = if !w.inh then s.trap { cause := 0x0E } else if w.rung ≠ 0 then s.handlerFault 0x0E
        else if !w.lanesIdle || !w.ops.all (fun o => o.done || s.waitsRte w o) then s
        else if field 0x08 8 % 4 ≠ 0 then s.handlerFault 0x07
        else s.andThen (s.lanePages (s.frameRegs w) (w.held.getD {})) fun _ =>
          ({ s.setW (s.restored w (w.held.getD {})) with ent := (w.held.getD {}).ent }).recheck s.cur := rfl
    rw [ret, held, if_neg (by simp [w, inh]), if_neg (not_not.2 rung), if_congr blocked rfl rfl]
    rfl
  refine ⟨fun other => ?_, fun rung busy => ?_, fun rung idle mine => ?_⟩
  · refine congrArg Host.Outcome.next ((if_neg ?_).trans (if_pos other))
    simp [inh]
  · rw [run, rest rung, if_pos busy]
  have quiet : ¬(w.lanesIdle = false ∨ ∃ o ∈ w.ops, own o) := by
    rintro (h | ⟨o, ho, h⟩)
    · simp [idle] at h
    · exact mine o ho h
  rw [run, rest rung, if_neg quiet]
  refine ⟨fun odd => by rw [if_pos odd], fun even stopped => ?_, fun even ok => ⟨s.restored w h, ?_, ?_⟩⟩
  · rw [if_neg (not_not.2 even), State.andThen_of_stopped fun a ha => stopped (by rw [ha, State.lanePages_ok ha])]
  · rw [if_neg (not_not.2 even), ok]
    rfl
  intro made
  have given : ∀ n : Reg, n ≠ 0 → (s.given w h).sreg n = BitVec.ofNat 64 (field (0x1C0 + 8 * n.toNat) 8) := fun n hn => s.sreg_given w h hn
  have regs : ∀ l, made = l → (s.restored w h).s = (l.foldl Watch.writeOlds (s.given w h)).s ∧
      (s.restored w h).v = (l.foldl Watch.writeOlds (s.given w h)).v := fun l one => s.regs_restored w h one
  obtain ⟨crgn, inh', rung', frame, held', off, ops', lq, fifo'⟩ := s.restored_fields w h
  have sregs : ∀ {y : Watch} {n : Reg}, (s.restored w h).s = y.s → (s.restored w h).sreg n = y.sreg n := fun e => by
    rw [Watch.sreg, e, Watch.sreg]
  refine ⟨fun none_ => ?_, fun o a one lane nw accs => ?_, fun l => ?_, fun p hp => s.preg_restored w h hp, s.gen_restored w h,
    fun k hk => s.entry_restored_other w h hk, ?_, crgn, inh', rung', frame, held', off, ops', lq, s.restored_rest w h, fun ops fifo replay => ?_⟩
  · obtain ⟨S, V⟩ := regs _ none_
    exact ⟨fun n hn => (sregs S).trans (given n hn), V.trans (s.v_given w h)⟩
  · have hasMade : o.hasMade = true := (List.mem_filter.1 (one ▸ List.mem_singleton_self o : o ∈ made)).2
    obtain ⟨S, V⟩ := regs _ one
    rw [List.foldl_cons, List.foldl_nil, Watch.writeOlds_of_scalar hasMade lane nw accs] at S V
    refine ⟨V.trans ?_, fun n hn => (sregs S).trans ?_⟩
    · rw [Watch.setS_frame]
      dsimp only
      exact s.v_given w h
    · split
      next d =>
        subst d
        rw [Watch.sreg_setS_same, if_neg hn]
      next d => rw [Watch.sreg_setS_other _ _ d, given n hn]
  · rw [s.fmask_restored w h]
    refine or_congr_right ⟨?_, ?_⟩
    · rintro ⟨hl, y, hy⟩
      obtain ⟨k, r, at_, kind, valid, hy⟩ := State.mem_replayFails.1 hy
      exact ⟨k, r, at_, kind, valid, hl, y, hy⟩
    · rintro ⟨k, r, at_, kind, valid, hl, y, hy⟩
      exact ⟨hl, y, State.mem_replayFails.2 ⟨k, r, at_, kind, valid, hy⟩⟩
  · rw [s.entry_restored_same w h he]
    rfl
  · rw [if_neg (not_not.2 even), ok]
    have none_ : (s.reinjected w h).1 = [] := by rw [State.reinjected, replay]; rfl
    rw [ops, none_, List.filter_nil, List.append_nil] at ops'
    exact congrArg Host.Outcome.next (State.recheck_of_idle (s.setW_watches _) ops' (fifo'.trans fifo))

end Sys2Proof

namespace Sys2Proof.Machine

/-! ## Entries of a pair whose atomic shares its number (09 R276)

The commit reads the stamp of the leader's atomic once its step is made, and finds it by its number. Where the leader holds another operation of
that number, which waits for the acknowledgement of an insert (10 R296), the commit takes that stamp and the trailer's old value is not written.
The statement does not ask that numbers be distinct. -/

/-- The access of an atomic on a word of its own column. -/
def sharedAcc : Acc := { size := 4, data := 5 }

/-- An atomic of number 9 with S3 as its destination. -/
def sharedAtom : Op := { id := 9, kind := .satom, paths := [8], d := 3, accs := [sharedAcc] }

def sharedEntry : PairEnt := { op := sharedAtom }

def leaderPair : Pair := { leads := true, partner := 2, ents := [sharedEntry] }
def trailerPair : Pair := { leads := false, partner := 1, ents := [sharedEntry] }

/-- A leader with an engine command of the same number 9 in flight, which bears a stamp. -/
def sharingLeader : Watch := { pair := some leaderPair, ops := [sharedAtom, { id := 9, kind := .engine, paths := [9], stamp := 1 }] }

/-- Its trailer, with 7 in every S register. -/
def sharingTrailer : Watch := { pair := some trailerPair, ops := [sharedAtom], s := Vector.replicate 64 7 }

/-- The word that the atomic names holds 0. -/
def sharedNumber : State :=
  { State.reset.writeN 0 4 0 with watches := [(1, sharingLeader), (2, sharingTrailer)], next := 3 }

theorem commitOpen_sharedNumber : sharedNumber.commitOpen 1 sharedEntry = true := rfl

theorem readN_sharedNumber : sharedNumber.readN (sharedNumber.keyNow sharingLeader.ctx sharedAcc) sharedAcc.size = 0 := rfl

/-- The comparison commits the atomics and leaves the trailer's S3. -/
theorem pairCompare_sharedNumber : ∃ t, exec (.pairCompare 1) sharedNumber = .next t ∧ (t.watch 2).sreg 3 = 7 :=
  ⟨_, rfl, rfl⟩

end Sys2Proof.Machine

namespace Sys2Proof

open Machine

/-- Refutes O23: where the leader holds a second operation of its atomic's number, with the stamp of an insert, the committed atomic's old value does
not reach the trailer's S[d] (`pairCompare_sharedNumber`). -/
theorem not_pairsRunAndCompare : ¬Obligations.PairsRunAndCompare := by
  rintro ⟨-, -, compare⟩
  obtain ⟨-, atoms, -⟩ := compare sharedNumber 1 sharingLeader sharingTrailer leaderPair trailerPair sharedEntry sharedEntry [] []
    rfl rfl (by decide) rfl rfl rfl rfl rfl rfl rfl
  obtain ⟨-, -, steps⟩ := atoms rfl rfl rfl
  obtain ⟨t, x', y', run, -, -, trailer, -, olds, -⟩ := steps commitOpen_sharedNumber sharedAcc sharedAcc (.inl rfl) rfl rfl rfl rfl rfl rfl rfl rfl rfl
    rfl rfl (by decide) rfl
  obtain ⟨t', run', kept⟩ := pairCompare_sharedNumber
  obtain rfl : t' = t := Host.Outcome.next.inj (run'.symm.trans run)
  change Tbl.find t'.watches 2 = some y' at trailer
  rw [State.watch_of_find trailer, olds 3 (by decide), readN_sharedNumber] at kept
  exact absurd kept (by decide)

end Sys2Proof
